-- ==== Sys2Proof/Word.lean ====
section
/-!
DEFINITION. The word types of the hardware (spec 00_scope R7, R9, R11): bytes, 32-bit registers, 64-bit general
registers, 512-bit vector registers. Addresses are natural numbers once computed.
-/
namespace Sys2Proof

/-- A byte. -/
abbrev Byte := BitVec 8
/-- A control register, R11. -/
abbrev Word32 := BitVec 32
/-- A general register of a bristle, R106. -/
abbrev Word64 := BitVec 64
/-- A vector register of a bristle, R106. -/
abbrev Vec := BitVec 512
/-- A 48-bit internal address or a 64-bit host address (R9), as a number. -/
abbrev Addr := Nat

end Sys2Proof
end

