-- ==== Sys2Proof/Config.lean ====
section
/-!
DEFINITION. What the implementation fixes and the spec leaves open: free values (opaque, without a body), and named
constants of a module that the spec does not number.
-/
namespace Sys2Proof
namespace Config

/-- The n-th free value drawn by a run: nothing constrains it (log entry 3). -/
opaque freeValue : Nat → Nat

/-- Which value within one unit in the last place VEXP and exp32 return for an F32 input, R175: a part's own choice, the
same for one input everywhere (log entry 4). -/
opaque exp32Choice : Nat → Nat

/-- The number of the return code PARTIAL of R381, which no chapter lists (log entry 10). -/
opaque partialCode : Nat

/-- The number in a SLICE_STATE notice for each change R578 names: 0 attach, 1 reset complete, 2 host-absent, 3 quota
PARTIAL; the spec gives none (log entry 10). -/
opaque changeCode : Nat → Nat

/-- What the Device Description Table of R352 holds where the spec gives no value, by entry × 8 + field: 0 VER, 1 BAR, 2 OFFSET, 3 SIZE,
4 STRIDE, 5 PARAM (log entry 31). -/
opaque ddtOpen : Nat → Nat

end Config
end Sys2Proof
end

