-- ==== Sys2Proof/Syntax.lean ====
section
/-!
DEFINITION. The commands of the block: one constructor of `Instr` for each row of spec/opcode_table.json, with the
operands the row's chapter gives it. What the environment supplies (a measured voltage, bytes read from host
memory, a packet) and what the spec leaves to firmware's or the hardware's choice under R4 comes in as operands. An operand with a default is
the usual case where a term leaves it out.
-/
namespace Sys2Proof

/-- The status codes of R19, each defined by the chapter that first reports it. -/
inductive Status where
  | ok | unmapped | accessFault | poisoned | syncFault | clusterFault
  | programFault | fabricLinkDown | badHandle | badDescriptor | indexRange | notUpdatable
  | squashed | tierUnreachable | quotaExceeded | noCodebookSlot | positionMismatch | kvQuota
  | completionTimeout | skipped | aborted | hostLinkDown | regionRevoked | retryExceeded
  | connBroken | remoteInvalid | targetBusy | setupBusy | notReady | setupTimeout
  | keyInvalid | keyUsage | authFailed | keyFault | noBuddy | buddyFull
  | buddyLost | manifestFull | noCheckpoint | notMember | stateLost | busy
  | badCommand | notBound | denied | badLayout | badSignature | badVersion
  | badLength | flashError | fuseError | noValidImage | fabricTrain | stackTrain
  | clusterSpares | fwWatchdog | confirmed | rolledBack | partialDone
deriving DecidableEq, Repr

/-- The numeric code of a status, R19. -/
def Status.code : Status → Nat
  | .ok => 0x00
  | .unmapped => 0x03
  | .accessFault => 0x04
  | .poisoned => 0x05
  | .syncFault => 0x09
  | .clusterFault => 0x20
  | .programFault => 0x21
  | .fabricLinkDown => 0x22
  | .badHandle => 0x23
  | .badDescriptor => 0x24
  | .indexRange => 0x25
  | .notUpdatable => 0x26
  | .squashed => 0x27
  | .tierUnreachable => 0x28
  | .quotaExceeded => 0x29
  | .noCodebookSlot => 0x2A
  | .positionMismatch => 0x2B
  | .kvQuota => 0x2C
  | .completionTimeout => 0x2D
  | .skipped => 0x2E
  | .aborted => 0x2F
  | .hostLinkDown => 0x30
  | .regionRevoked => 0x31
  | .retryExceeded => 0x32
  | .connBroken => 0x33
  | .remoteInvalid => 0x34
  | .targetBusy => 0x35
  | .setupBusy => 0x36
  | .notReady => 0x37
  | .setupTimeout => 0x38
  | .keyInvalid => 0x39
  | .keyUsage => 0x3A
  | .authFailed => 0x3B
  | .keyFault => 0x3C
  | .noBuddy => 0x3D
  | .buddyFull => 0x3E
  | .buddyLost => 0x3F
  | .manifestFull => 0x40
  | .noCheckpoint => 0x41
  | .notMember => 0x42
  | .stateLost => 0x43
  | .busy => 0x44
  | .badCommand => 0x45
  | .notBound => 0x46
  | .denied => 0x47
  | .badLayout => 0x48
  | .badSignature => 0x49
  | .badVersion => 0x4A
  | .badLength => 0x4B
  | .flashError => 0x4C
  | .fuseError => 0x4D
  | .noValidImage => 0x4E
  | .fabricTrain => 0x4F
  | .stackTrain => 0x50
  | .clusterSpares => 0x51
  | .fwWatchdog => 0x52
  | .confirmed => 0x53
  | .rolledBack => 0x54
  | .partialDone => Config.partialCode % 256

/-! ### Who asks (spec 01 R41) and what wakes the module (spec 02 R66) -/

/-- Who makes a control-space access: the atelier core, whose every access is accepted, or a slice (through a
bristle, a DMA engine or a host page), which is accepted only within its grants. -/
inductive Requester where
  | atelier
  | slice (s : Nat)
deriving DecidableEq, Repr

/-- What wakes the module from M1 or M2, R66. -/
inductive WakeSource where
  | work | controlAccess | pcie | smbus | wakeN
deriving DecidableEq, Repr

/-! ### Power (spec 01, 02) -/

/-- The power domains of R33, by unit. -/
inductive Domain where
  | atelier | cluster (p c : Nat) | palette (p : Nat) | stack (m : Nat) | stretcher (n : Nat)
  | net (n : Nat) | host (n : Nat) | portfolio
deriving DecidableEq, Repr

/-! ### Boot (spec 03) -/

/-- What firmware puts into a 32-byte record of the log ring, R90; the device counts its TIME, SEQ and RESTARTS. -/
structure LogRecord where
  point : Nat
  level : Nat
  slice : Nat
  args : List Nat
deriving DecidableEq, Repr

/-- What the environment and the silicon decide during a cold boot, R74 and R77: whether the fabric and the stacks train,
clusters (palette, physical cluster) that fail their self-test, data pins that fail training (R205) as (32 × stack +
pseudo-channel) × 64 + pin; and the log records that firmware writes on the way (R90). -/
structure BootEnv where
  fabricTrains : Bool
  untrained : List Nat
  failedClusters : List (Nat × Nat)
  pins : List Nat
  logs : List LogRecord
deriving DecidableEq, Repr

/-! ### Bristle instructions (spec 04 to 07) -/

/-- One issue slot of a bristle: the bristle's logical ID (R10), the length of the instruction in bytes (4 in the native
encoding, R131; 1 to 9 in Kengir-V, R156), whether its immediate is a 4-byte one (LONG, R157), the word or bytes as
EVAL reports them (byte 0 in bits [7:0]), and how many hold cycles of R103 pass before it issues. -/
structure Issue where
  b : Nat
  len : Nat
  long : Bool
  raw : Nat
  holds : Nat
deriving DecidableEq, Repr

/-- The M-format operand of R139: mode, base, index, scale, and the signed displacement or increment. -/
structure MemArg where
  mode : Nat
  rb : Nat
  ri : Nat
  scale : Nat
  disp : Int
deriving DecidableEq, Repr

/-- Who issues a NOP: a Kengir-V bristle (R161), or a mailbox channel, whose NOP returns the firmware version and boot
status (R583). -/
inductive NopWho where
  | bristle (w : Issue)
  | mailbox (ch : Nat)
deriving DecidableEq, Repr

/-- Where firmware loads a program, R126: the bristle, its start address, its trap handler's address, whether traps are enabled, and
which. -/
structure ProgPlace where
  b : Nat
  pc : Nat
  trapEn : Bool
  tvec : Nat
  tmask : Nat
deriving DecidableEq, Repr

/-! ### Placement choices of firmware (spec 11 R4, R260) -/

/-- A segment that firmware lays out: its first 64 KiB unit, how many extents, and the home list by its logical IDs. -/
structure SegPlace where
  loc : Nat
  count : Nat
  homes : List Nat
deriving DecidableEq, Repr

/-- A place for a unit: its slot's tier, LOC and home bristle, R269. -/
structure UnitPlace where
  tier : Nat
  loc : Nat
  home : Nat
deriving DecidableEq, Repr

/-- What a palette chooses when it posts a work record, R226: the inbox slot's offset in the lead bristle's SRAM, the SRAM
offset of the row references, how many references the record takes, the gather slot (unit × 65,536 + slot) and the flag
word that signals DONE. -/
structure RecPlace where
  slot : Nat
  refs : Nat
  n : Nat
  gather : Nat
  done : Nat
deriving DecidableEq, Repr

/-- What a host read brings: its status as R335 records it, and its bytes. -/
abbrev HostData := Status × List Byte

/-! ### Checkpoints and the hierarchy (spec 22, 23) -/

/-- The far end of a device connection that firmware opens, R489, R492, R494: the member, the network die and port, OPEN's flags,
payload code, DSCP and tag, the region firmware takes where it needs a new one for contexts, and the peer's connection number,
incarnation, address and next hop. -/
structure CtlPeer where
  member : Nat
  die : Nat
  port : Nat
  flags : Nat
  payload : Nat
  dscp : Nat
  tci : Nat
  region : Nat
  conn : Nat
  incarn : Nat
  ip : Nat
  hop : Nat
deriving DecidableEq, Repr

/-- A lease that the manager orders this device to hold, R530, R561: the owner, its serial, where in the buddy region firmware puts
it (first 64 KiB region), its size in GiB, and the owner's end of the connection its region admits. -/
structure LeaseOrder where
  owner : Nat
  serial : Nat
  base : Nat
  gib : Nat
  peer : CtlPeer
deriving DecidableEq, Repr

/-- A lease that the manager assigns to this device, R530, R561: the buddy, the lease's region key and size, the buddy's end of the
connection Varnish opens. -/
structure LeaseGrant where
  buddy : Nat
  rkey : Nat
  gib : Nat
  peer : CtlPeer
deriving DecidableEq, Repr

/-- A member entry of a job map, R563. -/
structure MapMember where
  num : Nat
  state : Nat
  role : Nat
  buddy : Nat
  serial : Nat
deriving DecidableEq, Repr

/-- The manager's records as the deputy accepts them, R562, R567: the members and their addresses, members declared failed whose
shrink has not ended, those of them not fenced everywhere, the highest member number issued, the newest job step ordered. -/
structure JobRecords where
  mems : List MapMember
  ips : List (Nat × List Nat)
  failed : List Nat
  unfenced : List Nat
  issued : Nat
  jstep : Nat
deriving DecidableEq, Repr

/-- A remap entry of a job map, R563. -/
structure Remap where
  oldMember : Nat
  newMember : Nat
  oldHandle : Nat
  newHandle : Nat
  step : Nat
deriving DecidableEq, Repr

/-- What a member reports to the manager for R561: its number, its protected 64 KiB units, the free GiB of its buddy region. -/
structure MemberSize where
  num : Nat
  units : Nat
  free : Nat
deriving DecidableEq, Repr

/-- The path by which an access reaches a mailbox bank, R571, R574: the atelier core, grant entry 0 of a port, another grant entry of a
port with its slice, the SMBus, the debug port. -/
inductive MbxPath where
  | atelier
  | port (p : Nat)
  | grant (p sl : Nat)
  | smbus
  | debug
deriving DecidableEq, Repr

/-- The commands, one constructor per row of the opcode table. -/
inductive Instr where
  /-- REGISTER_WRITE, R12. A write to a control register that has no row of its own, applied field by field under its access type. -/
  | registerWrite (who : Requester) (addr : Nat) (size : Nat) (val : Nat)
  /-- LATCHING_READ, R11. A read of the low word of a latching pair fixes the value its partner word returns on its next read. -/
  | latchingRead (who : Requester) (addr : Nat) (size : Nat)
  /-- BLOCK_LOCK_SET, R13. A write of 1 to a block's LOCK bit locks the RWL fields of that block instance until its reset. -/
  | blockLockSet (addr : Nat)
  /-- FABRIC_FLIT_RETRY, R27. A flit that fails its CRC is resent with every later flit in order, and the link's corrected-error count rises. -/
  | fabricFlitRetry (link : Nat) (sl : Nat := 64)
  /-- FABRIC_LINK_DOWN, R27. A flit fails 16 consecutive attempts, so the link is declared down and both endpoint dies stop issuing. -/
  | fabricLinkDown (link : Nat) (recs : List Nat) (ciphers : List Nat) (chans : List (Nat × Nat)) (loads : List (Nat × Nat) := [])
    (flags : List Nat := []) (contribs : List Nat := [])
  /-- POWER_DOMAIN_WAKE, R33. A gated power domain finishes waking, and the flows waiting on it proceed in order. -/
  | powerDomainWake (d : Domain)
  /-- BRISTLE_CLOCK_CHANGE, R644. A palette's bristle clock switches to a new setting, and each bristle holds for up to 32 cycles of the new clock. -/
  | bristleClockChange (p : Nat) (fw : Option Nat)
  /-- INPUT_SAMPLE, R56. Every 10 µs the gesso domain samples the 50 V input and updates the input state. -/
  | inputSample (vin : Nat) (iin : Nat)
  /-- INPUT_DWELL_COMPLETE, R56. The input has stayed at or above the release level for 10 ms, so the state returns to NORMAL or the module boots. -/
  | inputDwellComplete
  /-- CURRENT_THROTTLE, R60. Input current at 39.0 A for 100 µs caps every palette's bristle clock at 800 MHz. -/
  | currentThrottle
  /-- CURRENT_THROTTLE_RELEASE, R60. Input current below 36.0 A for 10 ms lifts the current cap. -/
  | currentThrottleRelease
  /-- CURRENT_TRIP, R60. Input current at 44 A for 1 ms opens the hot-swap switch, records OC_EVT and enters INPUT_OFF. -/
  | currentTrip
  /-- OVERVOLTAGE_TRIP, R60. Input at 62.0 V for 10 µs opens the hot-swap switch, records OV_EVT and enters INPUT_OFF. -/
  | overvoltageTrip
  /-- GESSO_LOCKOUT, R54. The input falls below 30.0 V, and the gesso domain and RTC stop. -/
  | gessoLockout
  /-- GESSO_POWER_UP, R631. The input rises through 32.0 V, and the gesso domain starts the power-up sequence. -/
  | gessoPowerUp (vin : Nat := 1600)
  /-- RAIL_FAULT, R632. A rail that is not good in time, or that leaves regulation, resets the device and opens the switch. -/
  | railFault
  /-- THERMAL_STATE_RISE, R62. A sensor reaches a higher thermal level, and the thermal state and its caps or actions change. -/
  | thermalStateRise (sensor : Nat) (temp : Nat)
  /-- THERMAL_DWELL_FALL, R62. Every source has stayed 5 °C below its level for 10 ms, so the thermal state falls by one level. -/
  | thermalDwellFall
  /-- COOLANT_FAULT, R61. COOLANT_FAULT_N goes low, and the thermal state becomes CRITICAL. -/
  | coolantFault
  /-- PWR_EN_FALL, R633. PWR_EN goes low, and the module powers down in order into M3. -/
  | pwrEnFall
  /-- PWR_EN_RISE, R66. PWR_EN goes high, so the module may leave M3 or INPUT_OFF and begins power-up. -/
  | pwrEnRise
  /-- MOD_RESET_ASSERT, R52. MOD_RESET_N goes low, and the device reset is held while it stays low. -/
  | modResetAssert
  /-- MOD_RESET_RELEASE, R52. MOD_RESET_N goes high, and the held device reset is released. -/
  | modResetRelease
  /-- WAKE_N_PULSE, R66. A low pulse on WAKE_N requests a wake from M2 or M3. -/
  | wakeNPulse
  /-- M1_ENTRY, R66. No activity for M1_IDLE_US, so the palettes and stretchers are gated and the stacks enter self-refresh. -/
  | m1Entry (wake : Bool)
  /-- M2_ENTRY, R67. The module has idled in M1 for M2_IDLE_S with every M2 condition holding, and it enters M2. -/
  | m2Entry (wake : Bool)
  /-- MODULE_WAKE, R66. A wake event returns the module from M1 or M2 to M0. -/
  | moduleWake (src : WakeSource)
  /-- GSO_VIN_WARN_WRITE, R69. A write sets the warning threshold from the next sample, or is rejected with CFG_REJECT. -/
  | gsoVinWarnWrite (val : Nat)
  /-- VIN_MIN_CLR, R69. A write of 1 makes VIN_MIN take the value of the next sample. -/
  | vinMinClr
  /-- DEVICE_RESET, R71. Device reset: every block instance except GSO is reset, memories are cleared and links go down. -/
  | deviceReset
  /-- COLD_BOOT, R74. The device reset is released, and the boot ROM and firmware bring the device to RUNNING. -/
  | coldBoot (env : BootEnv)
  /-- FW_RECOVER_LOAD, R79. In RECOVERY, the boot ROM verifies the image in staging SRAM, writes it to slot A and restarts into it. -/
  | fwRecoverLoad (ch : Nat) (len : Nat) (env : BootEnv)
  /-- ATELIER_RESTART, R87. Only the atelier core is reset and restarts while the datapath runs on from registers. -/
  | atelierRestart (cause : Nat) (logs : List LogRecord)
  /-- WATCHDOG_EXPIRY, R88. The atelier watchdog expires and triggers a restart; the third expiry within 60 s halts the core. -/
  | watchdogExpiry (logs : List LogRecord)
  /-- RESTART_DEADLINE_EXPIRY, R88. A restart has not reached RUNNING within 2 s, which counts as a watchdog expiry. -/
  | restartDeadlineExpiry (logs : List LogRecord)
  /-- TRIAL_CONFIRM, R83. A trial image has held RUNNING for 10 s, so firmware writes it into the boot record as confirmed. -/
  | trialConfirm
  /-- FW_UPDATE_BEGIN, R92. Begins an update: the target slot's header is erased and USTATE becomes WRITING. -/
  | fwUpdateBegin (ch : Nat) (len : Nat) (flashOk : Bool)
  /-- FW_UPDATE_WRITE, R92. Writes image pages in ascending order into the target slot. -/
  | fwUpdateWrite (ch : Nat) (first : Nat) (count : Nat) (flashOk : Bool) (got : HostData := (.ok, []))
  /-- FW_UPDATE_VERIFY, R92. Checks the written image under R81 and moves the update to VERIFIED or IDLE. -/
  | fwUpdateVerify (ch : Nat) (logs : List LogRecord)
  /-- FW_ACTIVATE, R94. Activates the verified image by a restart into the trial slot, or defers the activation during an emergency. -/
  | fwActivate (ch : Nat)
  /-- FW_ACTIVATE_CANCEL, R92. Returns a DEFERRED update to VERIFIED. -/
  | fwActivateCancel (ch : Nat)
  /-- DEFERRED_ACTIVATION_START, R94. No emergency has been in progress for 10 ms, so the deferred activation proceeds. -/
  | deferredActivationStart
  /-- ADD, R136. rd receives rs1 + rs2. -/
  | add (w : Issue) (rd : Nat) (rs1 : Nat) (rs2 : Nat)
  /-- SUB, R136. rd receives rs1 − rs2. -/
  | sub (w : Issue) (rd : Nat) (rs1 : Nat) (rs2 : Nat)
  /-- AND, R136. rd receives the bitwise AND of rs1 and rs2. -/
  | andI (w : Issue) (rd : Nat) (rs1 : Nat) (rs2 : Nat)
  /-- OR, R136. rd receives the bitwise OR of rs1 and rs2. -/
  | orI (w : Issue) (rd : Nat) (rs1 : Nat) (rs2 : Nat)
  /-- XOR, R136. rd receives the bitwise XOR of rs1 and rs2. -/
  | xorI (w : Issue) (rd : Nat) (rs1 : Nat) (rs2 : Nat)
  /-- SLL, R136. Logical left shift of rs1 by rs2[5:0]. -/
  | sll (w : Issue) (rd : Nat) (rs1 : Nat) (rs2 : Nat)
  /-- SRL, R136. Logical right shift of rs1 by rs2[5:0]. -/
  | srl (w : Issue) (rd : Nat) (rs1 : Nat) (rs2 : Nat)
  /-- SRA, R136. Arithmetic right shift of rs1 by rs2[5:0]. -/
  | sra (w : Issue) (rd : Nat) (rs1 : Nat) (rs2 : Nat)
  /-- SLT, R136. Signed less-than comparison of rs1 and rs2. -/
  | slt (w : Issue) (rd : Nat) (rs1 : Nat) (rs2 : Nat)
  /-- SLTU, R136. Unsigned less-than comparison of rs1 and rs2. -/
  | sltu (w : Issue) (rd : Nat) (rs1 : Nat) (rs2 : Nat)
  /-- MIN, R136. rd receives the signed minimum of rs1 and rs2. -/
  | minI (w : Issue) (rd : Nat) (rs1 : Nat) (rs2 : Nat)
  /-- MAX, R136. rd receives the signed maximum of rs1 and rs2. -/
  | maxI (w : Issue) (rd : Nat) (rs1 : Nat) (rs2 : Nat)
  /-- MINU, R136. rd receives the unsigned minimum of rs1 and rs2. -/
  | minu (w : Issue) (rd : Nat) (rs1 : Nat) (rs2 : Nat)
  /-- MAXU, R136. rd receives the unsigned maximum of rs1 and rs2. -/
  | maxu (w : Issue) (rd : Nat) (rs1 : Nat) (rs2 : Nat)
  /-- ADDI, R137. rd receives rs1 plus the sign-extended immediate. -/
  | addi (w : Issue) (rd : Nat) (rs1 : Nat) (imm : Nat)
  /-- ANDI, R137. rd receives rs1 AND the zero-extended immediate. -/
  | andi (w : Issue) (rd : Nat) (rs1 : Nat) (imm : Nat)
  /-- ORI, R137. rd receives rs1 OR the zero-extended immediate. -/
  | ori (w : Issue) (rd : Nat) (rs1 : Nat) (imm : Nat)
  /-- XORI, R137. rd receives rs1 XOR the zero-extended immediate. -/
  | xori (w : Issue) (rd : Nat) (rs1 : Nat) (imm : Nat)
  /-- SLTI, R137. Signed comparison of rs1 with the immediate. -/
  | slti (w : Issue) (rd : Nat) (rs1 : Nat) (imm : Nat)
  /-- SLTIU, R137. Unsigned comparison of rs1 with the sign-extended immediate. -/
  | sltiu (w : Issue) (rd : Nat) (rs1 : Nat) (imm : Nat)
  /-- LUI, R137. rd receives the sign-extended immediate shifted left by 16. -/
  | lui (w : Issue) (rd : Nat) (imm : Nat)
  /-- SLLI, R137. Logical left shift of rs1 by an immediate amount. -/
  | slli (w : Issue) (rd : Nat) (rs1 : Nat) (imm : Nat)
  /-- SRLI, R137. Logical right shift of rs1 by an immediate amount. -/
  | srli (w : Issue) (rd : Nat) (rs1 : Nat) (imm : Nat)
  /-- SRAI, R137. Arithmetic right shift of rs1 by an immediate amount. -/
  | srai (w : Issue) (rd : Nat) (rs1 : Nat) (imm : Nat)
  /-- SLI, R137. rd receives rs1 shifted left by 16, ORed with the immediate. -/
  | sli (w : Issue) (rd : Nat) (rs1 : Nat) (imm : Nat)
  /-- LADR, R137. rd receives the internal address of a byte of the executing bristle's own SRAM. -/
  | ladr (w : Issue) (rd : Nat) (imm : Nat)
  /-- MUL, R138. Starts a signed 128-bit multiply whose product becomes visible later in MLO and MHI. -/
  | mul (w : Issue) (rs1 : Nat) (rs2 : Nat)
  /-- MULU, R138. Starts an unsigned 128-bit multiply whose product becomes visible later in MLO and MHI. -/
  | mulu (w : Issue) (rs1 : Nat) (rs2 : Nat)
  /-- MUL_PRODUCT_VISIBLE, R113. A multiply's product becomes visible in MLO and MHI four pipeline cycles after its issue. -/
  | mulProductVisible (b : Nat)
  /-- MFSR, R138. Reads a special register into rd, under the exposure rules for MLO, MHI and accumulators. -/
  | mfsr (w : Issue) (rd : Nat) (n : Nat)
  /-- MTSR, R138. Writes rs1 into a writable special register, or traps with ILLEGAL_INSTR. -/
  | mtsr (w : Issue) (n : Nat) (rs1 : Nat)
  /-- BEQ, R146. Branches to the target if rs1 equals rs2. -/
  | beq (w : Issue) (rs1 : Nat) (rs2 : Nat) (off : Int)
  /-- BNE, R146. Branches to the target if rs1 differs from rs2. -/
  | bne (w : Issue) (rs1 : Nat) (rs2 : Nat) (off : Int)
  /-- BLT, R146. Branches to the target on a signed less-than. -/
  | blt (w : Issue) (rs1 : Nat) (rs2 : Nat) (off : Int)
  /-- BGE, R146. Branches to the target on a signed greater-or-equal. -/
  | bge (w : Issue) (rs1 : Nat) (rs2 : Nat) (off : Int)
  /-- BLTU, R146. Branches to the target on an unsigned less-than. -/
  | bltu (w : Issue) (rs1 : Nat) (rs2 : Nat) (off : Int)
  /-- BGEU, R146. Branches to the target on an unsigned greater-or-equal. -/
  | bgeu (w : Issue) (rs1 : Nat) (rs2 : Nat) (off : Int)
  /-- J, R146. Jumps to tgt16 × 4. -/
  | j (w : Issue) (tgt : Int)
  /-- CALL, R117. Pushes the return address onto the return stack and jumps, or traps on a full stack in trap mode. -/
  | call (w : Issue) (tgt : Int)
  /-- JR, R147. Jumps to rs1[17:0]. -/
  | jr (w : Issue) (rs1 : Nat)
  /-- CALLR, R147. Pushes the return address and jumps to rs1[17:0]. -/
  | callr (w : Issue) (rs1 : Nat)
  /-- RET, R117. Pops the return stack and jumps to the popped entry, or traps on an empty stack in trap mode. -/
  | ret (w : Issue)
  /-- ERET, R122. Leaves the trap handler and resumes at EPC. -/
  | eret (w : Issue)
  /-- BREAK, R146. Traps with BREAK. -/
  | breakI (w : Issue)
  /-- LB, R143. Loads one byte, sign-extended. -/
  | lb (w : Issue) (rt : Nat) (m : MemArg)
  /-- LBU, R143. Loads one byte, zero-extended. -/
  | lbu (w : Issue) (rt : Nat) (m : MemArg)
  /-- LH, R143. Loads two bytes, sign-extended. -/
  | lh (w : Issue) (rt : Nat) (m : MemArg)
  /-- LHU, R143. Loads two bytes, zero-extended. -/
  | lhu (w : Issue) (rt : Nat) (m : MemArg)
  /-- LW, R143. Loads four bytes, sign-extended. -/
  | lw (w : Issue) (rt : Nat) (m : MemArg)
  /-- LWU, R143. Loads four bytes, zero-extended. -/
  | lwu (w : Issue) (rt : Nat) (m : MemArg)
  /-- LD, R143. Loads eight bytes. -/
  | ld (w : Issue) (rt : Nat) (m : MemArg)
  /-- VLD, R143. Loads 64 bytes into a vector register. -/
  | vld (w : Issue) (rt : Nat) (m : MemArg)
  /-- SB, R143. Stores the low byte of rt. -/
  | sb (w : Issue) (rt : Nat) (m : MemArg)
  /-- SH, R143. Stores the low two bytes of rt. -/
  | sh (w : Issue) (rt : Nat) (m : MemArg)
  /-- SW, R143. Stores the low four bytes of rt. -/
  | sw (w : Issue) (rt : Nat) (m : MemArg)
  /-- SD, R143. Stores the eight bytes of rt. -/
  | sd (w : Issue) (rt : Nat) (m : MemArg)
  /-- VST, R143. Stores the 64 bytes of a vector register. -/
  | vst (w : Issue) (rt : Nat) (m : MemArg)
  /-- VSTA, R143. Stores the sixteen lanes of an accumulator. -/
  | vsta (w : Issue) (rt : Nat) (m : MemArg)
  /-- LOAD_DATA_RETURN, R122. Data for a load from outside the bristle's own SRAM arrives; a poisoned return traps at the next instruction boundary. -/
  | loadDataReturn (b : Nat) (i : Nat)
  /-- STORE_BUFFER_DRAIN, R144. The oldest store-buffer entry drains, in program order, to its destination. -/
  | storeBufferDrain (b : Nat)
  /-- FAULT_RELOAD, R123. Firmware completes the faulted bristle's items with PROGRAM_FAULT and reloads the slice's program within 1 ms. -/
  | faultReload (b : Nat)
  /-- CLUSTER_FAILURE, R99. A cluster is declared failed in service, its items end with CLUSTER_FAULT and firmware maps a spare or fails the device. -/
  | clusterFailure (p : Nat) (c : Nat)
  /-- VMAC, R114. Multiply-accumulates two vectors into an accumulator over four beats. -/
  | vmac (w : Issue) (a : Nat) (va : Nat) (vb : Nat) (ge : Nat) (fmt : Nat)
  /-- ACCUMULATOR_VISIBLE, R115. An accumulator write becomes visible six pipeline cycles after its last beat. -/
  | accumulatorVisible (b : Nat)
  /-- VADD, R149. Adds two vectors element by element. -/
  | vadd (w : Issue) (vd : Nat) (va : Nat) (vb : Nat) (fmt : Nat)
  /-- VSUB, R149. Subtracts two vectors element by element. -/
  | vsub (w : Issue) (vd : Nat) (va : Nat) (vb : Nat) (fmt : Nat)
  /-- VMUL, R149. Multiplies two vectors element by element. -/
  | vmul (w : Issue) (vd : Nat) (va : Nat) (vb : Nat) (fmt : Nat)
  /-- VMAX, R149. Takes the element-wise maximum of two vectors. -/
  | vmax (w : Issue) (vd : Nat) (va : Nat) (vb : Nat) (fmt : Nat)
  /-- VMIN, R149. Takes the element-wise minimum of two vectors. -/
  | vmin (w : Issue) (vd : Nat) (va : Nat) (vb : Nat) (fmt : Nat)
  /-- VWACC, R149. Adds one part of a source vector, weighted, into 16 F32 values of vd. -/
  | vwacc (w : Issue) (vd : Nat) (va : Nat) (gw : Nat) (p : Nat) (fmt : Nat) (weighted : Bool)
  /-- VCVT, R150. Converts vector elements between formats, rounding to nearest even or stochastically. -/
  | vcvt (w : Issue) (vd : Nat) (va : Nat) (src : Nat) (p : Nat) (fmt : Nat) (stoch : Bool)
  /-- VEXP, R175. Computes e to the power of each element. -/
  | vexp (w : Issue) (vd : Nat) (va : Nat) (fmt : Nat)
  /-- VBC, R149. Broadcasts the low bits of a general register into every element of vd. -/
  | vbc (w : Issue) (vd : Nat) (gs : Nat) (fmt : Nat)
  /-- ACLR, R151. Writes zero to all 16 lanes of an accumulator. -/
  | aclr (w : Issue) (a : Nat)
  /-- VTOA, R151. Moves a vector register into an accumulator. -/
  | vtoa (w : Issue) (a : Nat) (v : Nat)
  /-- ATOV, R151. Moves an accumulator into a vector register, unconverted. -/
  | atov (w : Issue) (vd : Nat) (a : Nat)
  /-- ARED_SUM, R151. Sums the lanes of an accumulator into a general register, clearing it with C. -/
  | aredSum (w : Issue) (gd : Nat) (a : Nat) (fmt : Nat) (clear : Bool)
  /-- ARED_MAX, R151. Takes the largest lane of an accumulator into a general register. -/
  | aredMax (w : Issue) (gd : Nat) (a : Nat) (fmt : Nat) (clear : Bool)
  /-- NOP, R161. Kengir-V one-byte no-op, decoded as ADD g0, g0, g0. -/
  | nop (who : NopWho)
  /-- MOV, R161. Kengir-V register move, decoded as OR d, s, g0. -/
  | mov (w : Issue) (d : Nat) (src : Nat)
  /-- SIGNAL, R304. Posts an increment to a flag behind the bristle's earlier stores. -/
  | signal (w : Issue) (rs1 : Nat) (rs2 : Nat)
  /-- WAIT, R302. Holds the bristle until a flag reaches a threshold, without consuming the value. -/
  | wait (w : Issue) (rd : Nat) (rs1 : Nat) (rs2 : Nat)
  /-- WAITDEC, R302. Holds the bristle in FIFO order until a flag reaches a threshold, then subtracts the threshold. -/
  | waitdec (w : Issue) (rd : Nat) (rs1 : Nat) (rs2 : Nat)
  /-- FLAG_OPERATION_ARRIVE, R302. A SIGNAL, WAIT or WAITDEC reaches the flag's home and is served whole, releasing the waiters it satisfies. -/
  | flagOperationArrive (ops : List Nat)
  /-- WAIT_RELEASE, R302. A release reaches a held bristle, ending its hold with rd set to the value at release. -/
  | waitRelease (b : Nat)
  /-- SPIN_LIMIT_REPORT, R307. A wait reaches SPIN_LIMIT × 1,024 cycles, and one report is filed into the palette's queue. -/
  | spinLimitReport (b : Nat)
  /-- SYN_RPT_POP, R307. Removes the oldest spin-limit report. -/
  | synRptPop (p : Nat)
  /-- CLUSTER_PARK, R309. Every bristle of a cluster is halted, faulted or waiting with its report filed, so the palette power-gates the cluster. -/
  | clusterPark (p : Nat) (c : Nat)
  /-- FLAG_ALLOC, R300. Allocates virtual flags that read zero on the stretcher with the most free entries. -/
  | flagAlloc (ch : Nat)
  /-- FLAG_FREE, R300. Frees a virtual flag and advances its GEN, or is refused with BUSY while a waiter is queued. -/
  | flagFree (ch : Nat) (handle : Nat)
  /-- GSEND, R153. Sends a 64-byte contribution toward a collector once a credit is held. -/
  | gsend (w : Issue) (vs : Nat) (gt : Nat) (gk : Nat)
  /-- CREDIT_GRANT, R318. A collector port grants a contribution buffer credit to a waiting source, round robin. -/
  | creditGrant (bid : Nat)
  /-- COLLECTOR_CONTRIBUTION, R314. A contribution to a bristle collector is written into its SRAM, and its flag is raised. -/
  | collectorContribution (bid : Nat)
  /-- GATHER_CONTRIBUTION, R316. A contribution reaches a gather slot and is accepted and merged, or discarded. -/
  | gatherContribution (bid : Nat)
  /-- GATHER_SLOT_ARM, R316. A write of STATE 1 to a slot's word 0x00 arms the slot, or faults it. -/
  | gatherSlotArm (unit : Nat) (slot : Nat) (val : Nat)
  /-- GATHER_SLOT_FREE, R316. A write of STATE 0 frees an armed slot. -/
  | gatherSlotFree (unit : Nat) (slot : Nat)
  /-- BRS_RUN_SET, R124. Setting RUN starts or resumes a halted bristle at BRS_PC, in RUNNING or in HANDLER. -/
  | brsRunSet (b : Nat)
  /-- BRS_RUN_CLEAR, R124. Clearing RUN halts the bristle at the next instruction boundary. -/
  | brsRunClear (b : Nat)
  /-- BRS_INIT, R128. Writing INIT while not running clears the registers, return stack, pending writes and counters. -/
  | brsInit (b : Nat) (val : Nat)
  /-- BRS_CONFIG_WRITE, R128. A write to a bristle configuration register is discarded with CTL_IGNORED while the bristle runs. -/
  | brsConfigWrite (b : Nat) (off : Nat) (val : Nat)
  /-- PAL_CMAP_WRITE, R130. Writes cluster map entries in ascending order, discarding each change that is not allowed. -/
  | palCmapWrite (p : Nat) (n : Nat) (val : Nat)
  /-- CODEBOOK_STORE_WRITE, R185. A write to a codebook slot's store is applied, or discarded with WR_DISCARD when the slot is in use. -/
  | codebookStoreWrite (m : Nat) (off : Nat) (val : Nat)
  /-- CODEBOOK_REWRITE, R186. After an uncorrectable slot error, firmware rewrites the slot from its copy within 1 ms. -/
  | codebookRewrite (m : Nat) (slot : Nat)
  /-- STACK_READ, R197. A read is served by the owning stack controller, correcting or detecting errors in each burst. -/
  | stackRead (who : Requester) (addr : Nat) (len : Nat) (codebook : Option (Nat × Nat))
  /-- STACK_WRITE, R201. A write is served by the stack controller, with a read-modify-write for each partial burst. -/
  | stackWrite (who : Requester) (addr : Nat) (bytes : List Byte)
  /-- CE_WRITEBACK, R198. The queued write-back of a corrected burst is applied, unless a write to the burst came first. -/
  | ceWriteback (burst : Nat)
  /-- POISON_REFETCH, R200. A read of a poisoned burst is answered from the buddy copy, or completes POISONED. -/
  | poisonRefetch (burst : Nat) (reachable : Bool)
  /-- PATROL_SCRUB_READ, R203. The controller scrubs the next granule of its patrol pass. -/
  | patrolScrubRead (m : Nat)
  /-- PSEUDO_CHANNEL_FAIL, R204. Uncorrectable errors in 16 rows within 1 s declare the pseudo-channel failed. -/
  | pseudoChannelFail (m : Nat) (pc : Nat) (retrainFailed : Bool)
  /-- SOFT_REPAIR, R206. A MEM_REMAP write with REQ starts a soft repair, or is rejected with REMAP_REJECT. -/
  | softRepair (m : Nat) (n : Nat) (val : Nat)
  /-- SOFT_REPAIR_COPY_DONE, R206. The row copy ends, and later accesses switch to the spare row. -/
  | softRepairCopyDone (m : Nat) (n : Nat)
  /-- LOCATION_RETIRE, R207. A location with no spare left is retired, and its 64 KiB regions are excluded from allocation. -/
  | locationRetire (burst : Nat)
  /-- STACK_REFRESH, R208. The controller refreshes its stack at the normal or doubled rate. -/
  | stackRefresh (m : Nat)
  /-- MEM_LAYOUT, R192. Records a new band layout that takes effect at the next device reset. -/
  | memLayout (ch : Nat) (l : Nat) (n : Nat)
  /-- TABLE_CREATE, R214. Creates an embedding table from its descriptor and returns its handle. -/
  | tableCreate (ch : Nat) (addr : Nat) (places : List SegPlace)
  /-- TABLE_DESTROY, R218. Stops accepting descriptors for a table and completes once earlier descriptors finish. -/
  | tableDestroy (ch : Nat) (handle : Nat)
  /-- WORK_QUEUE_FETCH, R356. The work-queue engine fetches descriptor slots and writes back the head index. -/
  | workQueueFetch (sl : Nat) (q : Nat) (el : Nat)
  /-- LOOKUP, R224. A lookup descriptor is checked and forwarded to the slice's entry palette. -/
  | lookup (sl : Nat) (q : Nat) (idx : HostData) (bag : HostData) (wgt : HostData) (el : Nat)
  /-- SPARSE_UPDATE, R229. An update descriptor is checked and its gradients are routed to the home bristles. -/
  | sparseUpdate (sl : Nat) (q : Nat) (idx : HostData) (grad : HostData) (el : Nat)
  /-- WORK_FORWARD, R224. Work reaches a palette, which stamps or resolves its positions and forwards the parts owned elsewhere. -/
  | workForward (w : Nat) (places : List RecPlace)
  /-- WORK_RECORD_DONE, R226. A record's DONE signal arrives, so the inbox slot is freed and swatch replicas of updated rows are written. -/
  | workRecordDone (w : Nat) (i : Nat) (vals : List Nat)
  /-- OUTPUT_DELIVERY, R232. The host die writes the outputs and then the completion record behind them. -/
  | outputDelivery (w : Nat) (el : Nat)
  /-- CACHE_CREATE, R237. Creates a KV cache from its descriptor. -/
  | cacheCreate (ch : Nat) (addr : Nat)
  /-- CACHE_DESTROY, R239. Destroys every sequence of a cache, then the cache. -/
  | cacheDestroy (ch : Nat) (handle : Nat)
  /-- SEQ_CREATE, R239. Creates a sequence with zero length in every layer. -/
  | seqCreate (ch : Nat) (cache : Nat) (regions : List Nat)
  /-- SEQ_TRUNCATE, R239. Cuts every layer's length, after earlier entries complete, and frees the whole pages beyond. -/
  | seqTruncate (ch : Nat) (handle : Nat) (len : Nat)
  /-- SEQ_DESTROY, R239. Frees every page of a sequence. -/
  | seqDestroy (ch : Nat) (handle : Nat)
  /-- ATTENTION_STEP, R242. An attention step descriptor is checked and its entries are forwarded. -/
  | attentionStep (sl : Nat) (q : Nat) (ents : HostData) (qry : HostData) (new : HostData) (el : Nat)
  /-- ATTENTION_ENTRY_START, R246. An entry starts after the earlier entries of its sequence and layer, is checked, and may append. -/
  | attentionEntryStart (w : Nat) (e : Nat) (runs : List UnitPlace) (places : List RecPlace)
  /-- KV_APPEND, R255. A bulk KV append descriptor appends N positions to each named layer. -/
  | kvAppend (sl : Nat) (q : Nat) (src : HostData) (el : Nat)
  /-- COMPOSITION_SCAN, R279. Every SCAN_MS firmware revises swatches, selects balance migrations and promotes units. -/
  | compositionScan (p : Nat) (adds : List (Nat × Nat)) (moves : List (Nat × Nat × UnitPlace))
  /-- COPY_PASS_DONE, R285. A copy pass ends; firmware starts another or sets HELD. -/
  | copyPassDone (handle : Nat) (unit : Nat) (bytes : List Byte)
  /-- COPY_HELD_DRAINED, R285. In-flight updates complete, and the last dirty granules are copied ahead of the flip. -/
  | copyHeldDrained (handle : Nat) (unit : Nat)
  /-- EPOCH_FLIP, R274. Firmware writes the changed map entries and advances the handle's epoch on all ten palettes. -/
  | epochFlip (handle : Nat) (unit : Nat)
  /-- DRAIN_END, R275. The last work stamped below the new epoch completes, so superseded data is freed and OLD takes NEW. -/
  | drainEnd (handle : Nat)
  /-- TIER_READ_COMPLETE, R289. A T2 or T3 row read returns, and the row is served. -/
  | tierReadComplete (w : Nat) (pos : Nat) (bytes : List Byte)
  /-- TIER_READ_FAIL, R292. A tier read fails or times out, so the position is TIER_UNREACHABLE and the units are restored from buddy copies. -/
  | tierReadFail (w : Nat) (pos : Nat)
  /-- MAP_ENTRY_REBUILD, R272. Firmware rebuilds a map entry whose two copies were poisoned. -/
  | mapEntryRebuild (handle : Nat) (unit : Nat)
  /-- TURN_END, R294. A shared cluster's quantum ends, and its bristles are halted and saved. -/
  | turnEnd (p : Nat) (c : Nat)
  /-- TURN_SWITCH_COMPLETE, R294. The incoming slice's state is restored, and its bristles and held work resume. -/
  | turnSwitchComplete (p : Nat) (c : Nat)
  /-- PLACE_PIN, R296. Sets a handle's placement and tier pins. -/
  | placePin (ch : Nat) (handle : Nat) (flags : Nat) (places : List (Nat × UnitPlace))
  /-- PLACE_HINT, R296. Raises or clears the heat of a range of units. -/
  | placeHint (ch : Nat) (handle : Nat) (first : Nat) (count : Nat) (hot : Nat)
  /-- PLACE_PROMOTE, R296. Promotes units in T2 or T3 that fit within quota. -/
  | placePromote (ch : Nat) (handle : Nat) (first : Nat) (count : Nat) (places : List (Nat × UnitPlace))
  /-- PLACE_QUERY, R296. Returns a handle's placement summary. -/
  | placeQuery (ch : Nat) (handle : Nat)
  /-- PLACE_POLICY, R296. Writes the slice's placement policy on all palettes. -/
  | placePolicy (ch : Nat) (pb : Status) (spill : Nat) (pct : Nat) (pinPlace : Nat) (t3 : Nat) (targets : List Nat)
  /-- PLACE_ADMIN, R296. Exempts or re-admits a slice for time-slicing. -/
  | placeAdmin (ch : Nat) (sl : Nat) (pin : Nat)
  /-- CMP_IND_READ, R297. Reads the selected map entry into the indirect data registers. -/
  | cmpIndRead (p : Nat)
  /-- CMP_IND_WRITE, R298. Writes the indirect data registers to the selected map entry. -/
  | cmpIndWrite (p : Nat)
  /-- DMA_START, R643. START clears the error history and fetches at NEXT, or is discarded when the channel is not idle. -/
  | dmaStart (who : Requester) (e : Nat) (k : Nat) (val : Nat)
  /-- DMA_PAUSE, R336. Setting PAUSE moves the channel to PAUSING. -/
  | dmaPause (who : Requester) (e : Nat) (k : Nat) (val : Nat)
  /-- DMA_RESUME, R336. Clearing PAUSE resumes the channel exactly where it stopped. -/
  | dmaResume (who : Requester) (e : Nat) (k : Nat) (val : Nat)
  /-- DMA_ABORT, R337. Aborts the channel: held bytes are discarded and the descriptor is written back ABORTED. -/
  | dmaAbort (who : Requester) (e : Nat) (k : Nat) (val : Nat)
  /-- DMA_RELOAD, R334. Rereads NEXT of the current descriptor to follow an appended chain. -/
  | dmaReload (who : Requester) (e : Nat) (k : Nat) (val : Nat)
  /-- DMA_NEXT_WRITE, R338. A write to NEXT, discarded with CTL_IGNORED unless the channel is IDLE or in ERROR. -/
  | dmaNextWrite (who : Requester) (e : Nat) (k : Nat) (hi : Bool) (val : Nat)
  /-- DMA_DESCRIPTOR_FETCH, R327. A descriptor arrives and is checked before any data access. -/
  | dmaDescriptorFetch (e : Nat) (k : Nat)
  /-- DMA_COPY, R328. A COPY descriptor moves bytes through the holding register. -/
  | dmaCopy (e : Nat) (k : Nat) (n : Nat)
  /-- DMA_FILL, R328. A FILL descriptor writes the repeated 8-byte pattern. -/
  | dmaFill (e : Nat) (k : Nat) (n : Nat)
  /-- DMA_SIGNAL, R330. A SIGNAL descriptor raises a flag after the earlier writes are placed. -/
  | dmaSignal (e : Nat) (k : Nat)
  /-- DMA_NOP, R328. A NOP descriptor moves nothing and is written back. -/
  | dmaNop (e : Nat) (k : Nat)
  /-- DMA_SOURCE_RETURN, R328. Source data returns into the holding register, and whole destination widths are written. -/
  | dmaSourceReturn (e : Nat) (k : Nat)
  /-- DMA_WRITEBACK, R334. After its last write, NEXT is reread, the descriptor is written back and the chain continues or ends. -/
  | dmaWriteback (e : Nat) (k : Nat)
  /-- DMA_PAUSED, R336. Every issued write is done, so the channel becomes PAUSED. -/
  | dmaPaused (e : Nat) (k : Nat)
  /-- DMA_ALLOC, R324. Allocates a host DMA channel to the slice. -/
  | dmaAlloc (ch : Nat) (die : Nat) (port : Nat)
  /-- DMA_FREE, R324. Frees a host DMA channel. -/
  | dmaFree (ch : Nat) (chan : Nat)
  /-- CONFIG_REQUEST, R347. A configuration request to a function is answered according to the device state. -/
  | configRequest (port : Nat) (fn : Nat) (off : Nat) (write : Option Nat)
  /-- HOST_LINK_UP, R341. A port completes link training. -/
  | hostLinkUp (port : Nat) (speed : Nat) (width : Nat) (flit : Bool)
  /-- PORT_RESET, R367. PERST_N, a hot reset or a link down resets the port's link logic and its functions' configuration state. -/
  | portReset (port : Nat) (perst : Bool)
  /-- FLR_FUNCTION0, R367. Function level reset of function 0: its queues drain and are squashed and its DMA channels stop. -/
  | flrFunction0 (port : Nat)
  /-- FLR_FUNCTION1, R422. Function level reset of function 1 resets the storage controller. -/
  | flrFunction1 (port : Nat)
  /-- FLR_FUNCTION2, R506. Function level reset of function 2 destroys its queues and breaks the connections reached through the port. -/
  | flrFunction2 (port : Nat)
  /-- FUNCTION_D0_ENTRY, R365. A function returns to D0 with bus mastering enabled, and its held requests issue. -/
  | functionD0Entry (port : Nat) (fn : Nat)
  /-- GRANT_PAGE_ACCESS, R349. A BAR0 grant page access is steered by its grant entry and checked as an access of the entry's slice. -/
  | grantPageAccess (port : Nat) (fn : Nat) (off : Nat) (size : Nat) (write : Option Nat)
  /-- APERTURE_ACCESS, R351. A BAR2 access is steered by its aperture entry and checked as an access of the page's slice. -/
  | apertureAccess (port : Nat) (off : Nat) (len : Nat) (write : Option (List Byte)) (poison : Bool)
  /-- WQ_DOORBELL, R355. A doorbell write gives a work queue its new tail, or puts the queue in ERROR. -/
  | wqDoorbell (port : Nat) (off : Nat) (val : Nat)
  /-- WQ_CREATE, R354. Creates a work queue bound to a port. -/
  | wqCreate (ch : Nat) (pb : Status) (ring : Nat) (size : Nat) (pasid : Nat) (port : Nat) (hwb : Nat) (vec : Nat)
  /-- WQ_RESET, R355. Resets a work queue, clearing ERROR. -/
  | wqReset (ch : Nat) (q : Nat)
  /-- WQ_DESTROY, R354. Destroys a work queue. -/
  | wqDestroy (ch : Nat) (q : Nat)
  /-- HOST_READ_COMPLETION, R361. A completion arrives for an outstanding non-posted request and frees its index. -/
  | hostReadCompletion (port : Nat) (tag : Nat) (st : Status) (bytes : List Byte)
  /-- COMPLETION_TIMEOUT, R363. A non-posted request reaches its timeout, fails whole and has its index quarantined. -/
  | completionTimeout (port : Nat) (idx : Nat)
  /-- UNEXPECTED_COMPLETION, R364. A completion that matches no outstanding tag is discarded and logged. -/
  | unexpectedCompletion (port : Nat) (tag : Nat) (hdr : List Nat)
  /-- TAG_QUARANTINE_END, R364. A quarantined index is released one timeout after the report. -/
  | tagQuarantineEnd (port : Nat) (idx : Nat)
  /-- L1_ENTRY, R366. After L1_IDLE_US with nothing pending, the port requests L1. -/
  | l1Entry (port : Nat) (sub : Bool)
  /-- LTR_CHANGE, R366. The port sends a changed LTR value, at least 1 ms apart from the last. -/
  | ltrChange (port : Nat)
  /-- HIF_MAP_READ, R371. Reads the selected aperture or grant entry into the data registers. -/
  | hifMapRead (port : Nat)
  /-- HIF_MAP_WRITE, R371. Writes an aperture or grant entry as one update, or writes it invalid. -/
  | hifMapWrite (port : Nat)
  /-- CTO_SET, R362. Sets a port's completion timeout override. -/
  | ctoSet (ch : Nat) (port : Nat) (us : Nat)
  /-- SLICE_CREATE, R372. Creates a slice with zero quotas, in phase START. -/
  | sliceCreate (ch : Nat) (sl : Nat)
  /-- SLICE_DESTROY, R385. Drains and then destroys a slice with scope FULL. -/
  | sliceDestroy (ch : Nat) (sl : Nat)
  /-- SLICE_BIND, R374. Binds a PASID to a slice index. -/
  | sliceBind (ch : Nat) (sl : Nat) (pb : Status) (pasid : Nat) (idx : Nat) (mask : Nat)
  /-- SLICE_UNBIND, R374. Removes a PASID binding. -/
  | sliceUnbind (ch : Nat) (sl : Nat) (idx : Nat)
  /-- SLICE_WINDOW, R375. Writes or clears a host window of a slice. -/
  | sliceWindow (ch : Nat) (sl : Nat) (w : Nat) (pb : Status) (entry : Nat)
  /-- SLICE_QUOTA, R380. Changes a slice's quotas while it runs. -/
  | sliceQuota (ch : Nat) (sl : Nat) (pb : Status) (quotas : List Nat) (holdMib : Nat) (take : List Nat)
  /-- CLUSTER_DRAIN_TIMEOUT, R381. A cluster being given up has not drained within 1 s, so it stays with the slice and the change ends PARTIAL. -/
  | clusterDrainTimeout (sl : Nat)
  /-- SLICE_PHASE, R372. Sets the slice's phase. -/
  | slicePhase (ch : Nat) (sl : Nat) (phase : Nat)
  /-- SLICE_RESET, R385. Resets a slice, by drain then squash or by generation according to its phase. -/
  | sliceReset (ch : Nat) (sl : Nat) (scope : Nat)
  /-- SLICE_DRAIN_END, R386. The drain ends at its last item or at DRAIN_MS, and remaining items are squashed. -/
  | sliceDrainEnd (sl : Nat)
  /-- GENERATION_ADVANCE, R388. The slice generation advances once no outstanding record carries the next value. -/
  | generationAdvance (sl : Nat)
  /-- SLICE_ATTACH, R393. Attaches a driver, replaying or discarding the held results of a host-absent slice. -/
  | sliceAttach (ch : Nat) (d : Nat) (mode : Nat) (vec : Nat)
  /-- SLICE_DETACH, R373. Detaches the driver from a slice. -/
  | sliceDetach (ch : Nat)
  /-- DIRTY_START, R383. Starts dirty-page logging for a slice. -/
  | dirtyStart (ch : Nat) (sl : Nat) (regions : List Nat)
  /-- DIRTY_HARVEST, R384. Swaps the dirty maps and writes the old one to a destination. -/
  | dirtyHarvest (ch : Nat) (sl : Nat) (d : Nat) (addr : Nat)
  /-- DIRTY_STOP, R383. Stops dirty-page logging. -/
  | dirtyStop (ch : Nat) (sl : Nat)
  /-- HOST_ABSENT_MARK, R391. Three missed heartbeat periods mark the driver's slices HOST_ABSENT. -/
  | hostAbsentMark (slot : Nat)
  /-- HOLD_SQUASH, R392. At HOLD_S or on hold overflow the held results are discarded and the slice becomes ORPHANED. -/
  | holdSquash (sl : Nat)
  /-- SLC_MAP_READ, R396. Reads a PASID or window entry into the data registers. -/
  | slcMapRead (die : Nat)
  /-- SLC_MAP_WRITE, R396. Writes a PASID or window entry as one update. -/
  | slcMapWrite (die : Nat)
  /-- CONTROLLER_ENABLE, R402. CC.EN set to 1 brings the controller ready, or sets CFS. -/
  | controllerEnable (c : Nat) (aqa : Nat) (asq : Nat) (acq : Nat) (cc : Nat)
  /-- CONTROLLER_RESET, R422. CC.EN cleared resets the storage controller. -/
  | controllerReset (c : Nat)
  /-- SHUTDOWN_REQUEST, R403. CC.SHN stops fetching and reports completion once fetched commands finish. -/
  | shutdownRequest (c : Nat) (shn : Nat)
  /-- SQ_TAIL_DOORBELL, R405. An NVMe submission queue tail doorbell. -/
  | sqTailDoorbell (c : Nat) (y : Nat) (val : Nat)
  /-- CQ_HEAD_DOORBELL, R405. An NVMe completion queue head doorbell. -/
  | cqHeadDoorbell (c : Nat) (y : Nat) (val : Nat)
  /-- CREATE_IO_SQ, R404. Creates an I/O submission queue. -/
  | createIoSq (c : Nat) (sqe : HostData)
  /-- DELETE_IO_SQ, R404. Deletes an I/O submission queue. -/
  | deleteIoSq (c : Nat) (sqe : HostData)
  /-- CREATE_IO_CQ, R404. Creates an I/O completion queue. -/
  | createIoCq (c : Nat) (sqe : HostData)
  /-- DELETE_IO_CQ, R404. Deletes an I/O completion queue. -/
  | deleteIoCq (c : Nat) (sqe : HostData)
  /-- GET_LOG_PAGE, R408. Returns a supported log page. -/
  | getLogPage (c : Nat) (sqe : HostData) (lst : HostData)
  /-- IDENTIFY_NAMESPACE, R409. Identify with CNS 0x00. -/
  | identifyNamespace (c : Nat) (sqe : HostData)
  /-- IDENTIFY_CONTROLLER, R409. Identify with CNS 0x01. -/
  | identifyController (c : Nat) (sqe : HostData)
  /-- IDENTIFY_NS_LIST, R406. Identify with CNS 0x02, the active namespace list. -/
  | identifyNsList (c : Nat) (sqe : HostData)
  /-- IDENTIFY_NS_DESCRIPTORS, R406. Identify with CNS 0x03, the namespace identification descriptors. -/
  | identifyNsDescriptors (c : Nat) (sqe : HostData)
  /-- ABORT, R406. Aborts a command that has not yet reached its backing. -/
  | abort (c : Nat) (sqe : HostData)
  /-- SET_FEATURES, R407. Sets a supported feature's current value. -/
  | setFeatures (c : Nat) (sqe : HostData) (data : HostData)
  /-- GET_FEATURES, R407. Returns a supported feature's value. -/
  | getFeatures (c : Nat) (sqe : HostData)
  /-- ASYNC_EVENT_REQUEST, R406. Queues an asynchronous event request. -/
  | asyncEventRequest (c : Nat) (sqe : HostData)
  /-- FORMAT_NVM, R416. Reformats namespaces, with SES 1 as a recorded zero-fill. -/
  | formatNvm (c : Nat) (sqe : HostData) (recOk : Bool := true)
  /-- BLOCK_ERASE, R417. Sanitize Block Erase: zero-fills every attached namespace as a recorded operation. -/
  | blockErase (c : Nat) (sqe : HostData) (recOk : Bool := true)
  /-- EXIT_FAILURE_MODE, R417. Sanitize Exit Failure Mode lifts the failed-sanitize restriction. -/
  | exitFailureMode (c : Nat) (sqe : HostData)
  /-- NVM_FLUSH, R410. NVMe Flush completes at once, since completed writes are placed. -/
  | nvmFlush (c : Nat) (q : Nat) (sqe : HostData)
  /-- NVM_WRITE, R413. Writes blocks to scratch stack memory or a remote target. -/
  | nvmWrite (c : Nat) (q : Nat) (sqe : HostData) (lst : HostData) (data : HostData)
  /-- NVM_READ, R413. Reads blocks from scratch stack memory or a remote target. -/
  | nvmRead (c : Nat) (q : Nat) (sqe : HostData) (lst : HostData)
  /-- WRITE_ZEROES, R410. Writes zeros to a block range. -/
  | writeZeroes (c : Nat) (q : Nat) (sqe : HostData)
  /-- DATASET_MANAGEMENT, R410. Zero-fills ranges with AD = 1, and otherwise has no effect. -/
  | datasetManagement (c : Nat) (q : Nat) (sqe : HostData) (ranges : HostData)
  /-- REMOTE_TRANSFER_TIMEOUT, R415. A remote transfer not done within RTO_MS ends its command with Transient Transport Error. -/
  | remoteTransferTimeout (c : Nat) (q : Nat) (cid : Nat)
  /-- RECORDED_OP_CHUNK, R418. A 1 MiB zero-fill chunk completes, advancing POS and the flash record. -/
  | recordedOpChunk (c : Nat) (recOk : Bool)
  /-- REMOTE_WRITE_RETRY, R418. A failed remote zero-fill write is retried every 1 s, failing the operation after 60 s. -/
  | remoteWriteRetry (c : Nat) (recOk : Bool)
  /-- POWER_STATE_TRANSITION, R421. An idle time expiry moves a controller to a lower power state. -/
  | powerStateTransition (c : Nat) (ps : Nat)
  /-- NS_CREATE, R411. Creates a scratch or remote namespace. -/
  | nsCreate (ch : Nat) (pb : Status) (kind : Nat) (lbaf : Nat) (nguid : Nat) (blocks : Nat) (conn : Nat) (rkey : Nat) (roff : Nat) (serial : Nat) (regions : List Nat)
  /-- NS_DESTROY, R412. Destroys a namespace after its fetched commands complete. -/
  | nsDestroy (ch : Nat) (ns : Nat)
  /-- NS_ATTACH, R412. Attaches a namespace to an owned controller, resuming a PENDING operation where it matches. -/
  | nsAttach (ch : Nat) (ns : Nat) (c : Nat)
  /-- NS_DETACH, R412. Detaches a namespace. -/
  | nsDetach (ch : Nat) (ns : Nat) (c : Nat)
  /-- STOR_ASSIGN, R398. Sets or clears a controller's owning slice. -/
  | storAssign (ch : Nat) (c : Nat) (valid : Bool) (sl : Nat)
  /-- STOR_RECORD_CLEAR, R420. Discards a recorded operation record. -/
  | storRecordClear (ch : Nat) (c : Nat)
  /-- FRAME_RECEIVE, R428. A received frame is stored whole, checked, classified and admitted or discarded. -/
  | frameReceive (die : Nat) (port : Nat) (frame : List Byte) (fcsOk : Bool) (corr : Nat) (uncorr : Nat) (stamp : Nat)
  /-- PFC_PAUSE_EXPIRY, R438. A partner's pause quanta run out and transmission of the class resumes. -/
  | pfcPauseExpiry (die : Nat) (port : Nat) (cls : Nat)
  /-- PFC_REPEAT, R438. The PFC frame is repeated every 16,384 quanta while occupancy stays high. -/
  | pfcRepeat (die : Nat) (port : Nat) (cls : Nat)
  /-- PFC_XON_SEND, R438. Occupancy falls below XOFF − 2, and quanta 0 are sent. -/
  | pfcXonSend (die : Nat) (port : Nat) (cls : Nat)
  /-- MGMT_FRAME, R439. Firmware serves a frame from the MGMT queue. -/
  | mgmtFrame (die : Nat) (ptp : List (List Byte)) (servo : Option (Int × Int) := none)
  /-- PORT_LINK_DOWN, R440. An Ethernet port's link goes down, and its transmit queues are discarded. -/
  | portLinkDown (die : Nat) (port : Nat)
  /-- PORT_LINK_UP, R425. An Ethernet port trains and comes up. -/
  | portLinkUp (die : Nat) (port : Nat)
  /-- PKT_MODE_WRITE, R425. Changes the die's lane mode, or is rejected while any port is enabled. -/
  | pktModeWrite (who : Requester) (die : Nat) (val : Nat)
  /-- PROFILE_SWITCH, R432. A write of PROF switches the port's profile for lookups that start after it. -/
  | profileSwitch (who : Requester) (die : Nat) (port : Nat) (prof : Nat)
  /-- WINDOW_WRITE, R432. A profile window write, discarded for the profile in force. -/
  | windowWrite (who : Requester) (die : Nat) (port : Nat) (prof : Nat) (w : Nat) (val : Nat)
  /-- RULE_READ, R441. Reads the selected rule and its hit count. -/
  | ruleRead (who : Requester) (die : Nat)
  /-- RULE_WRITE, R435. Writes a rule as one update, stored invalid if its action is bad. -/
  | ruleWrite (who : Requester) (die : Nat)
  /-- RULE_CLEAR_HITS, R441. Clears the selected rule's hit count. -/
  | ruleClearHits (who : Requester) (die : Nat)
  /-- STAT_CLR, R444. Clears every statistic of a port. -/
  | statClr (who : Requester) (die : Nat) (port : Nat)
  /-- TX_ENQUEUE, R446. A transmit frame is classified and admitted to its queue, held, or discarded by colour. -/
  | txEnqueue (die : Nat) (src : Nat)
  /-- SCHEDULE_PICK, R449. The scheduler tests eligibility and chooses the next queue by priority and deficit round robin. -/
  | schedulePick (die : Nat) (port : Nat) (t : Nat)
  /-- FRAME_TRANSMIT_END, R448. A transmitted frame ends and the port's credits and deficits are settled. -/
  | frameTransmitEnd (die : Nat) (port : Nat)
  /-- SHAPER_REFILL, R450. Every 204.8 ns every queue and slice credit rises by its rate, up to BURST. -/
  | shaperRefill (die : Nat) (sent : List Nat)
  /-- GATE_ENTRY_CHANGE, R453. A gate control list entry or cycle begins and the gates follow its mask. -/
  | gateEntryChange (die : Nat) (port : Nat) (t : Nat)
  /-- GCL_SWITCH, R455. SWITCH checks the admin bank and schedules its takeover. -/
  | gclSwitch (who : Requester) (die : Nat) (port : Nat) (val : Nat) (t : Nat)
  /-- GCL_TAKEOVER, R455. The new bank takes over at its first cycle start at least 2 µs after the switch. -/
  | gclTakeover (die : Nat) (port : Nat) (t : Nat)
  /-- TMT_SQ_DOORBELL, R466. A TMT send queue tail doorbell. -/
  | tmtSqDoorbell (port : Option Nat) (who : Requester) (off : Nat) (val : Nat) (got : HostData)
  /-- TMT_CQ_DOORBELL, R466. A TMT completion queue head doorbell, arming the vector with ARM. -/
  | tmtCqDoorbell (port : Option Nat) (who : Requester) (off : Nat) (val : Nat)
  /-- TMT_WRITE, R469. A WRITE work request is checked and accepted onto its connection. -/
  | tmtWrite (sl : Nat) (q : Nat) (wr : HostData)
  /-- TMT_WRITE_IMM, R469. A WRITE_IMM work request is checked and accepted onto its connection. -/
  | tmtWriteImm (sl : Nat) (q : Nat) (wr : HostData)
  /-- TMT_READ, R469. A READ work request is checked and accepted onto its connection. -/
  | tmtRead (sl : Nat) (q : Nat) (wr : HostData)
  /-- TMT_FLUSH, R469. A FLUSH work request is checked and accepted onto its connection. -/
  | tmtFlush (sl : Nat) (q : Nat) (wr : HostData)
  /-- TMT_FETCH_ADD, R469. A FETCH_ADD work request is checked and accepted onto its connection. -/
  | tmtFetchAdd (sl : Nat) (q : Nat) (wr : HostData)
  /-- PACKET_SEND, R483. A connection sends a new or lost packet while the window allows it. -/
  | packetSend (c : Nat) (src : HostData) (now : Nat)
  /-- WRITE_PACKET, R479. A WRITE packet is checked at the target and admitted and placed, or refused. -/
  | writePacket (die : Nat)
  /-- WRITE_IMM_PACKET, R479. A WRITE_IMM packet is checked at the target and admitted and placed, or refused. -/
  | writeImmPacket (die : Nat)
  /-- READ_REQ, R469. A READ_REQ is checked and answered with READ_RESP packets. -/
  | readReq (die : Nat) (c : Nat) (data : HostData)
  /-- READ_RESP, R469. READ_RESP data is placed at the requester's local address. -/
  | readResp (die : Nat) (now : Nat)
  /-- FLUSH_PACKET, R474. A FLUSH packet arrives at the target. -/
  | flushPacket (die : Nat)
  /-- FETCH_ADD_PACKET, R470. A FETCH_ADD is performed atomically at the stack controller, or answered from the store. -/
  | fetchAddPacket (die : Nat) (c : Nat)
  /-- FA_RESP, R469. The FETCH_ADD response returns the previous value. -/
  | faResp (die : Nat)
  /-- ACK, R481. An ACK or NAK acknowledges packets, detects losses and updates the congestion window. -/
  | ack (die : Nat) (now : Nat)
  /-- ACK_DELAY_EXPIRY, R480. ACK_DELAY_NS passes after the earliest unacknowledged packet, and an ACK is sent. -/
  | ackDelayExpiry (c : Nat)
  /-- RETRANSMISSION_TIMEOUT, R482. The connection timer expires, all packets in flight are lost, and repeated expiries break the connection. -/
  | retransmissionTimeout (c : Nat) (now : Nat)
  /-- RNR_RESEND, R473. A packet refused with NAK_RNR is resent after its doubling delay. -/
  | rnrResend (c : Nat) (psn : Nat) (now : Nat := 0)
  /-- TARGET_COMPLETION, R473. A WRITE_IMM's target completion is written after earlier writes, and the completion flag is raised. -/
  | targetCompletion (c : Nat)
  /-- FLUSH_DONE, R474. Once earlier writes are placed, including host reads, the target sends FLUSH_DONE. -/
  | flushDone (c : Nat)
  /-- SENDER_COMPLETION, R472. A request's completion entry is written in acceptance order once the CQ has room. -/
  | senderCompletion (c : Nat)
  /-- OPEN, R493. Reserves a connection number and context, with a new incarnation. -/
  | openConn (die : Nat) (region : Nat)
  /-- BIND, R494. Records the peer and starts the probe. -/
  | bindConn (die : Nat)
  /-- PROBE_SEND, R494. The probe FLUSH is resent every PROBE_MS. -/
  | probeSend (c : Nat) (now : Nat)
  /-- PROBE_TIMEOUT, R494. SETUP_S passes without an acknowledgement, so the BIND fails and the connection returns to OPENED. -/
  | probeTimeout (c : Nat)
  /-- CLOSE, R495. Closes a connection, letting accepted requests finish unless ABORT. -/
  | close (die : Nat)
  /-- CLOSE_TIMEOUT, R495. CLOSE_MS passes, so outstanding requests break and the context is freed. -/
  | closeTimeout (c : Nat)
  /-- CONTEXT_FETCH, R497. A connection context arrives from its backing store, and its waiting packets are served. -/
  | contextFetch (c : Nat) (got : HostData)
  /-- MR_REG, R501. Registers a memory region and returns its key. -/
  | mrReg (die : Nat)
  /-- MR_REVOKE, R504. Advances a region's epoch on both network dies, optionally freeing it. -/
  | mrRevoke (die : Nat)
  /-- REVOKE_COMPLETE, R505. Every packet admitted under the old epoch is finished, so the revoke completes. -/
  | revokeComplete (i : Nat)
  /-- TMTQ_CREATE, R466. Creates a TMT send, completion or setup queue. -/
  | tmtqCreate (ch : Nat) (pb : Status) (kind : Nat) (die : Nat) (port : Option Nat) (ring : Nat) (size : Nat) (vec : Nat) (cq : Nat)
  /-- TMTQ_DESTROY, R466. Destroys a TMT queue. -/
  | tmtqDestroy (ch : Nat) (kind : Nat) (q : Nat)
  /-- KEY_ALLOC, R511. Allocates the lowest free key slot to the slice. -/
  | keyAlloc (ch : Nat)
  /-- KEY_LOAD, R512. Reads and zeroes a key block and loads the slot and its copies. -/
  | keyLoad (ch : Nat) (slot : Nat) (addr : Nat)
  /-- KEY_ERASE, R514. Moves a slot to DRAINING before zeroing it. -/
  | keyErase (ch : Nat) (slot : Nat)
  /-- KEY_FREE, R511. Frees a slot, draining and zeroing it first when it is loaded. -/
  | keyFree (ch : Nat) (slot : Nat)
  /-- KEY_DRAIN_COMPLETE, R514. The last accepted request finishes, so every copy of the key is zeroed. -/
  | keyDrainComplete (slot : Nat)
  /-- KEY_SLOT_UE, R515. An uncorrectable key-store error faults the slot and breaks its connections. -/
  | keySlotUe (slot : Nat) (copy : Nat)
  /-- CBC_ENCRYPT, R519. A cipher request in CBC mode, encrypting. -/
  | cbcEncrypt (sl : Nat) (q : Nat) (src : HostData) (aad : HostData) (param : HostData) (el : Nat)
  /-- CBC_DECRYPT, R519. A cipher request in CBC mode, decrypting. -/
  | cbcDecrypt (sl : Nat) (q : Nat) (src : HostData) (aad : HostData) (param : HostData) (el : Nat)
  /-- CTR_ENCRYPT, R519. A cipher request in CTR mode, encrypting. -/
  | ctrEncrypt (sl : Nat) (q : Nat) (src : HostData) (aad : HostData) (param : HostData) (el : Nat)
  /-- CTR_DECRYPT, R519. A cipher request in CTR mode, decrypting. -/
  | ctrDecrypt (sl : Nat) (q : Nat) (src : HostData) (aad : HostData) (param : HostData) (el : Nat)
  /-- CFB128_ENCRYPT, R519. A cipher request in CFB-128 mode, encrypting. -/
  | cfb128Encrypt (sl : Nat) (q : Nat) (src : HostData) (aad : HostData) (param : HostData) (el : Nat)
  /-- CFB128_DECRYPT, R519. A cipher request in CFB-128 mode, decrypting. -/
  | cfb128Decrypt (sl : Nat) (q : Nat) (src : HostData) (aad : HostData) (param : HostData) (el : Nat)
  /-- OFB_ENCRYPT, R519. A cipher request in OFB mode, encrypting. -/
  | ofbEncrypt (sl : Nat) (q : Nat) (src : HostData) (aad : HostData) (param : HostData) (el : Nat)
  /-- OFB_DECRYPT, R519. A cipher request in OFB mode, decrypting. -/
  | ofbDecrypt (sl : Nat) (q : Nat) (src : HostData) (aad : HostData) (param : HostData) (el : Nat)
  /-- GCM_ENCRYPT, R519. A GCM encryption producing a tag. -/
  | gcmEncrypt (sl : Nat) (q : Nat) (src : HostData) (aad : HostData) (param : HostData) (el : Nat)
  /-- GCM_DECRYPT, R521. A GCM decryption, zeroing its output on a tag mismatch with TAG_CHECK. -/
  | gcmDecrypt (sl : Nat) (q : Nat) (src : HostData) (aad : HostData) (param : HostData) (el : Nat)
  /-- CMAC, R521. Computes or checks a CMAC. -/
  | cmac (sl : Nat) (q : Nat) (src : HostData) (aad : HostData) (param : HostData) (el : Nat)
  /-- CIPHER_REQUEST_COMPLETE, R520. An engine finishes a request, and its completion record is written after the output. -/
  | cipherRequestComplete (i : Nat) (el : Nat)
  /-- VRN_PROTECT, R528. Protects a handle's shards, or withdraws protection. -/
  | vrnProtect (ch : Nat) (handle : Nat) (on : Bool)
  /-- VRN_STEP, R532. Requests a checkpoint step and returns the step number that will serve it. -/
  | vrnStep (ch : Nat)
  /-- STEP_PERIOD_EXPIRY, R532. PERIOD_MS after the last step's start, a step is requested. -/
  | stepPeriodExpiry
  /-- HELD_STEP_RELEASE, R533. The emergency has been clear for 10 ms with the atelier running, so the held step starts. -/
  | heldStepRelease
  /-- CHECKPOINT_STEP, R534. A step starts its cut, holding updates and appends to protected handles. -/
  | checkpointStep
  /-- STEP_CUT_END, R534. In-flight updates finish, so shards are marked PENDING, units are allocated and held records are released. -/
  | stepCutEnd (locs : List Nat)
  /-- SHARD_COPIED, R534. A PENDING shard is read, hashed and written to its pool units. -/
  | shardCopied (h : Nat) (u : Nat) (tier : HostData)
  /-- STEP_COMPLETE, R534. The manifest header is placed, VRN_STEP_DONE advances and superseded units are freed. -/
  | stepComplete
  /-- STEP_FAIL, R537. A step ends early with BUDDY_LOST, BUDDY_FULL or MANIFEST_FULL, and its modified bits are set again. -/
  | stepFail
  /-- ADOPT, R543. Restore that adopts a lease's units in place on the buddy. -/
  | adopt (ch : Nat) (sl : Nat) (owner : Nat)
  /-- PULL, R544. Restore that reads a lease from the buddy into the member's own memory. -/
  | pull (ch : Nat) (sl : Nat)
  /-- PERSIST, R544. Restore from the persistent copy. -/
  | persist (ch : Nat) (sl : Nat) (serial : Nat)
  /-- RESTORE_COMPLETE, R542. A restore finishes, and its restore record is written. -/
  | restoreComplete (tabs : List (List SegPlace)) (runs : List UnitPlace) (arrays : List (List Nat)) (extra : List Nat) (recs : List Nat)
  /-- RESTORE_FALLBACK, R541. A candidate manifest fails verification, and the next one is tried. -/
  | restoreFallback
  /-- VRN_PERSIST_SET, R545. Names the persistent copy area. -/
  | vrnPersistSet (ch : Nat) (pb : Status) (conn : Nat) (rkey : Nat) (roff : Nat) (len : Nat)
  /-- VRN_DRAIN, R545. Requests a persistent step that copies every protected shard. -/
  | vrnDrain (ch : Nat)
  /-- JOB_CREATE, R553. Creates a job with this device as manager. -/
  | jobCreate (ch : Nat) (pb : Status) (job : Nat) (sl : Nat) (port : Nat) (area : Nat) (key : Nat)
  /-- JOB_JOIN, R566. Asks the manager to admit the device to the job. -/
  | jobJoin (ch : Nat) (pb : Status) (job : Nat) (sl : Nat) (port : Nat) (area : Nat) (key : Nat) (num : Nat) (mgr : Nat) (serial : Nat) (deputy : Option Nat) (peers : List CtlPeer)
  /-- JOB_LEAVE, R566. Graceful departure run as a shrink, or a forced drop with FORCE. -/
  | jobLeave (ch : Nat) (member : Nat) (force : Bool)
  /-- JOB_DEPUTY, R553. Names or clears the deputy. -/
  | jobDeputy (ch : Nat) (member : Option Nat) (hand : Bool) (recs : Option JobRecords := none)
  /-- JOB_STEP, R553. Orders a checkpoint step on every member. -/
  | jobStep (ch : Nat) (num : Nat)
  /-- JOB_DISSOLVE, R553. Orders every member to leave without adoption. -/
  | jobDissolve (ch : Nat)
  /-- HEARTBEAT_SEND, R556. Every 20 ms HRC hardware sends a heartbeat record to each tracking peer. -/
  | heartbeatSend
  /-- HEARTBEAT_RECEIVE, R557. A heartbeat arrives and resets the sender's missed count, or is discarded. -/
  | heartbeatReceive (beat : List Byte) (poisoned : List Nat)
  /-- HEARTBEAT_PERIOD_END, R557. A 20 ms period ends, missed counts rise, and silent members are declared failed. -/
  | heartbeatPeriodEnd
  /-- FENCE, R558. A member breaks connections to the failed device, revokes its regions and acknowledges FENCE_DONE. -/
  | fence (f : Nat) (mepoch : Nat)
  /-- FENCE_DONE, R562. A fencing acknowledgement reaches the manager. -/
  | fenceDone (m : Nat) (f : Nat) (heirs : List (Nat × Nat) := [])
  /-- FENCE_TIMEOUT, R557. FENCE_MS passes without an acknowledgement, and the member is declared failed. -/
  | fenceTimeout (m : Nat) (f : Nat) (heirs : List (Nat × Nat) := [])
  /-- ISOLATE, R560. The device enters ISOLATED and stops accepting work for the job slice. -/
  | isolate
  /-- JOB_MAP, R562. A member receives a job map and writes its first part. -/
  | jobMap (epoch : Nat) (mepoch : Nat) (jstep : Nat) (mems : List MapMember) (remaps : List Remap)
  /-- JOB_MAP_PART_POLL, R564. Every 1 ms the member reads DONE and writes the next part once the host has taken one. -/
  | jobMapPartPoll (got : HostData)
  /-- JOB_MAP_STALL, R564. A part not taken within 10 s acknowledges the map anyway and sets JMAP_STALL. -/
  | jobMapStall
  /-- SHRINK_END, R562. All members have acknowledged and the isolation wait has passed, so leases are reassigned. -/
  | shrinkEnd (acked : List Nat) (sizes : List MemberSize) (hold : List LeaseOrder) (own : Option LeaseGrant)
  /-- DEPUTY_TAKEOVER, R568. The deputy becomes manager, fences the old manager and runs its shrink. -/
  | deputyTakeover
  /-- CONTROL_CONNECTION_REOPEN, R555. A broken control connection is reopened as its replacement within 50 ms. -/
  | controlConnectionReopen (peer : CtlPeer)
  /-- MAILBOX_COMMIT, R575. A write of MBX_IN0 commits an IN message and interrupts the atelier. -/
  | mailboxCommit (who : MbxPath) (ch : Nat) (hdr : Nat)
  /-- NOTICE_LOAD, R578. Firmware loads a pending notice into an empty OUT side. -/
  | noticeLoad (ch : Nat)
  /-- NOTICE_ACK, R578. A write of MBX_OUT_ACK takes the notice, or sets SEQ_MISMATCH. -/
  | noticeAck (who : MbxPath) (ch : Nat) (val : Nat)
  /-- HOST_HEARTBEAT, R582. A write to MBX_HBd counts as a beat for the driver slot. -/
  | hostHeartbeat (who : MbxPath) (bank : Nat) (d : Nat)
  /-- MBX_BIND, R573. Binds or unbinds a non-secure channel to a slice. -/
  | mbxBind (ch : Nat) (bank : Nat) (chan : Nat) (w3 : Nat) (entry : Nat)
  /-- DIAG_READ, R583. Returns a crash-log record. -/
  | diagRead (ch : Nat) (index : Nat)
  /-- DEVICE_RESET_COMMAND, R70. The DEVICE_RESET mailbox command resets the device. -/
  | deviceResetCommand (ch : Nat)
  /-- FW_RESTART, R70. Restarts the atelier core. -/
  | fwRestart (ch : Nat)
  /-- PROG_LOAD, R583. Loads a bristle program and returns its handle. -/
  | progLoad (ch : Nat) (pb : Status) (addr : Nat) (len : Nat) (enc : Nat) (rstk : Nat) (off : Nat) (depth : Nat) (loads : List ProgPlace)
  /-- PROG_FREE, R583. Frees a program handle. -/
  | progFree (ch : Nat) (handle : Nat)
  /-- NET_MODE, R425. Sets the lane mode of a network die. -/
  | netMode (ch : Nat) (die : Nat) (pb : Status) (val : Nat)
  /-- NET_ADDR, R583. Sets the port addresses. -/
  | netAddr (ch : Nat) (die : Nat) (port : Nat) (pb : Status) (ip4 : Nat) (ip6 : Nat) (images : List (Nat × Nat))
  /-- NET_PROFILE, R583. Sets the extraction profiles. -/
  | netProfile (ch : Nat) (die : Nat) (port : Nat) (pb : Status) (images : List (Nat × Nat))
  /-- NET_RULE, R583. Sets the classifier rules. -/
  | netRule (ch : Nat) (die : Nat) (pb : Status) (images : List (Nat × Nat))
  /-- NET_SCHED, R583. Sets the scheduler registers. -/
  | netSched (ch : Nat) (die : Nat) (port : Nat) (pb : Status) (images : List (Nat × Nat))
  /-- PMU_ALLOC, R594. Allocates a counter or chained pair. -/
  | pmuAlloc (ch : Nat) (inst : Nat) (ev : Nat) (w3 : Nat)
  /-- PMU_FREE, R594. Frees a counter, disabling and zeroing it. -/
  | pmuFree (ch : Nat) (id : Nat)
  /-- PMU_USER, R595. Permits or withdraws user access to the slice's counter view. -/
  | pmuUser (ch : Nat) (permit : Bool)
  /-- PMU_COUNTER_LOAD, R589. A write loads half of a counter, adding any event of the same cycle. -/
  | pmuCounterLoad (id : Nat) (hi : Bool) (val : Nat) (add : Nat)
  /-- PMU_WINDOW_END, R591. At each window end every enabled counter copies its increase into PMU_WIN. -/
  | pmuWindowEnd (inst : Nat)
  /-- COUNTER_WRAP, R587. A counter wraps, setting PMU_OVF and carrying into its chained partner. -/
  | counterWrap (id : Nat) (n : Nat)
  /-- DUMP_CREATE, R597. Creates a dump set. -/
  | dumpCreate (ch : Nat) (sl : Nat) (addr : Nat) (got : HostData)
  /-- DUMP_DESTROY, R597. Destroys a dump set. -/
  | dumpDestroy (ch : Nat) (d : Nat)
  /-- DUMP_SNAPSHOT, R598. At each multiple of PERIOD_US a set samples its counters and writes a record, or drops it. -/
  | dumpSnapshot (d : Nat) (head : HostData)
  /-- TIME_SET, R602. Sets device time to a value. -/
  | timeSet (ch : Nat) (lo : Nat) (hi : Nat) (ns : Nat)
  /-- TIME_STEP, R602. Steps device time by an offset. -/
  | timeStep (ch : Nat) (lo : Nat) (hi : Nat)
  /-- TIME_ADJ, R602. Adjusts the device time rate. -/
  | timeAdj (ch : Nat) (ppb : Nat)
  /-- TIME_SOURCE, R602. Selects the time discipline source. -/
  | timeSource (ch : Nat) (src : Nat) (port : Nat) (utc : Nat)
  /-- PPS_OUT_EDGE, R603. PPS_OUT rises at each whole second of device time. -/
  | ppsOutEdge
  /-- PPS_IN_EDGE, R603. A PPS_IN rising edge is timestamped. -/
  | ppsInEdge
  /-- CAL_SET, R604. Sets the calendar. -/
  | calSet (ch : Nat) (lo : Nat) (hi : Nat)
  /-- CALENDAR_CHECK, R604. Every 60 s firmware corrects the calendar from device time. -/
  | calendarCheck
  /-- LIF_READ, R607. Returns a lifetime or live item. -/
  | lifRead (ch : Nat) (item : Nat)
  /-- LIF_FLUSH, R607. Writes a lifetime record. -/
  | lifFlush (ch : Nat) (ok : Bool)
  /-- LIFETIME_RECORD_WRITE, R606. Every 3,600 s of power-on, firmware writes a full lifetime record. -/
  | lifetimeRecordWrite (ok : Bool)
  /-- FUSE_DBG_DISABLE, R615. Blows DBG_DISABLE and closes the debug port at once. -/
  | fuseDbgDisable (ch : Nat) (key : Nat) (fails : Option Nat)
  /-- FUSE_INJ_DISABLE, R615. Blows INJ_DISABLE and disarms every injector. -/
  | fuseInjDisable (ch : Nat) (key : Nat) (fails : Option Nat)
  /-- FUSE_SECVER, R615. Raises the security-version floor. -/
  | fuseSecver (ch : Nat) (key : Nat) (floor : Nat) (fails : Option Nat)
  /-- ANCHOR_WRITE, R615. Writes a digest into an unblown anchor slot. -/
  | anchorWrite (ch : Nat) (key : Nat) (slot : Nat) (got : HostData) (fails : Option Nat)
  /-- ANCHOR_REVOKE, R615. Revokes an anchor. -/
  | anchorRevoke (ch : Nat) (key : Nat) (slot : Nat) (fails : Option Nat)
  /-- DBG_CLOSE, R616. Closes the debug port softly until the next device reset. -/
  | dbgClose (ch : Nat)
  /-- DEBUG_SOFT_CLOSE, R616. A write of 1 to FUS_DBG_CTL.CLOSE puts the port in CLOSED_SOFT. -/
  | debugSoftClose (who : Requester)
  /-- IDCODE, R617. JTAG IDCODE instruction. -/
  | idcode
  /-- DAP_READ, R617. DAP shift with OP read, performing a read as the atelier core. -/
  | dapRead (addr : Nat)
  /-- DAP_WRITE, R617. DAP shift with OP write, performing a write as the atelier core. -/
  | dapWrite (addr : Nat) (val : Nat)
  /-- ATL_HALT, R618. Halts the atelier core, refused while in a job. -/
  | atlHalt
  /-- ATL_RESUME, R618. Resumes the halted atelier core. -/
  | atlResume
  /-- BYPASS, R617. JTAG BYPASS instruction. -/
  | bypass (code : Nat) (bits : Nat) (n : Nat)
  /-- INJ_PERMIT, R620. Sets or clears a slice's test permission. -/
  | injPermit (ch : Nat) (sl : Nat) (permit : Bool)
  /-- INJ_ARM, R620. Arms a fault injector entry. -/
  | injArm (ch : Nat) (sl : Nat) (got : HostData)
  /-- INJ_DISARM, R620. Disarms injector entries. -/
  | injDisarm (ch : Nat) (id : Nat) (sl : Nat)
  /-- INJ_QUERY, R620. Returns an injector's firings and armed state. -/
  | injQuery (ch : Nat) (id : Nat)
  /-- INJECTED_REORDER_RELEASE, R622. A packet or completion held by REORDER is released. -/
  | injectedReorderRelease (i : Nat)
  /-- ID_READ, R624. Returns die or module identity. -/
  | idRead (ch : Nat) (die : Nat)
  /-- REFCLK_LOSS, R636. A reference clock stops, taking down its port or die's links. -/
  | refclkLoss (net : Bool) (k : Nat)
  /-- REFCLK_RETURN, R636. The reference clock returns, the PLLs relock and the ports retrain. -/
  | refclkReturn (net : Bool) (k : Nat)
  /-- THERMAL_SENSOR_SAMPLE, R61. The gesso domain reads the die, stack and coolant sensors and updates GSO_THERM_HOT, per-stack doubled refresh, THERM_CYCLES and JUNCTION_MAX. -/
  | thermalSensorSample (dies : List Nat) (mems : List Nat) (inlet : Nat) (outlet : Nat)
  /-- COOLANT_FAULT_RELEASE, R62. COOLANT_FAULT_N returns high, clearing GSO_THERM_STATUS.COOLANT_FAULT and allowing CRITICAL to be left after its dwell. -/
  | coolantFaultRelease
  /-- PERST_N_RELEASE, R73. PERST_N of a port rises, releasing the port into link training. -/
  | perstNRelease (port : Nat)
  /-- ILLEGAL_ENCODING, R132. A bristle issues a word or Kengir-V byte sequence that encodes no instruction and traps with ILLEGAL_INSTR. -/
  | illegalEncoding (w : Issue)
  /-- JOIN_ADMISSION_TIMEOUT, R566. A JOB_JOIN not admitted within SETUP_S completes with SETUP_TIMEOUT. -/
  | joinAdmissionTimeout
  /-- FLR_DRAIN_END, R367. After a function-0 FLR, the drain of the port's queues ends at 50 ms and the remaining work is squashed. -/
  | flrDrainEnd (port : Nat)
deriving DecidableEq, Repr

end Sys2Proof
end

