-- ==== Sys2Proof/Decode.lean ====
section
/-!
DEFINITION. The commands that a word spells by the table's bits. No row of spec/opcode_table.json carries bits: the block has no
instruction decoder of its own, and a bristle's instructions arrive as commands (log entry 1).
-/
namespace Sys2Proof

/-- The command that a word of nbits bits spells: none, since no row gives bits. -/
def decodeTableWord (_nbits _w : Nat) : Option Instr := none

end Sys2Proof
end

