-- ==== Sys2Proof/Machine/Bits.lean ====
section
/-!
DEFINITION. Bit fields, sign extension and byte order (spec 00_scope R7, R8), on numbers and on bytes.
-/
namespace Sys2Proof
namespace Machine

/-- Bits hi down to lo of a number. -/
def getBits (w hi lo : Nat) : Nat := (w >>> lo) % 2 ^ (hi + 1 - lo)

/-- A number with bits hi down to lo replaced by the low bits of v. -/
def putBits (w hi lo v : Nat) : Nat :=
  w % 2 ^ lo + (v % 2 ^ (hi + 1 - lo)) * 2 ^ lo + (w >>> (hi + 1)) * 2 ^ (hi + 1)

/-- Bit n of a number. -/
def bit (w n : Nat) : Bool := w.testBit n

/-- The low w bits of v read as two's complement. -/
def toSigned (w v : Nat) : Int :=
  let m := v % 2 ^ w
  if m < 2 ^ (w - 1) then (m : Int) else (m : Int) - 2 ^ w

/-- An integer as its w-bit two's-complement pattern. -/
def ofSigned (w : Nat) (v : Int) : Nat := (v % (2 ^ w : Int)).toNat

/-- Little-endian value of a byte list, R8. -/
def leVal : List Byte → Nat
  | [] => 0
  | b :: bs => b.toNat + 256 * leVal bs

/-- The n little-endian bytes of a number, R8. -/
def leBytes : Nat → Nat → List Byte
  | 0, _ => []
  | n + 1, v => BitVec.ofNat 8 v :: leBytes n (v / 256)

/-- Big-endian value of a byte list. -/
def beVal (bs : List Byte) : Nat := bs.foldl (fun a b => a * 256 + b.toNat) 0

/-- The n big-endian bytes of a number. -/
def beBytes (n v : Nat) : List Byte := (leBytes n v).reverse

/-- The n-byte little-endian field at offset o of a structure given as bytes; absent bytes read as zero. -/
def leField (bs : List Byte) (o n : Nat) : Nat := leVal ((bs.drop o).take n)

/-- A saturating increment at w bits. -/
def satAdd (w v d : Nat) : Nat := min (2 ^ w - 1) (v + d)

/-- Rounds v up to a multiple of m. -/
def roundUp (v m : Nat) : Nat := (v + m - 1) / m * m

/-- Ceiling division. -/
def ceilDiv (v m : Nat) : Nat := (v + m - 1) / m

/-- Is v a power of two? -/
def isPow2 (v : Nat) : Bool := v != 0 && 2 ^ (Nat.log2 v) == v

/-- A register after a write of ones to clear: the bits of m become zero. -/
def clearBits (v m : Nat) : Nat := v ^^^ (v &&& m)

end Machine
end Sys2Proof
end

