-- ==== Sys2Proof/Machine/Float.lean ====
section
/-!
DEFINITION. Number formats and arithmetic (spec 07): the element formats of R169 and R170, exact values, rounding to
nearest even and stochastic rounding, products and sums formed exactly and rounded once, conversions, e^x.
-/
namespace Sys2Proof
namespace Machine

/-- A binary floating format, R169: width, exponent and fraction widths, bias, largest finite encoding, the canonical
NaN of R170, and whether it has infinities. -/
structure FFmt where
  w : Nat
  eb : Nat
  fb : Nat
  bias : Nat
  maxFin : Nat
  cnan : Nat
  inf : Bool
deriving DecidableEq, Repr

/-- E4M3, R169 and R170. -/
def e4m3 : FFmt := { w := 8, eb := 4, fb := 3, bias := 7, maxFin := 0x7E, cnan := 0x7F, inf := false }
/-- E5M2. -/
def e5m2 : FFmt := { w := 8, eb := 5, fb := 2, bias := 15, maxFin := 0x7B, cnan := 0x7E, inf := true }
/-- BF16. -/
def bf16 : FFmt := { w := 16, eb := 8, fb := 7, bias := 127, maxFin := 0x7F7F, cnan := 0x7FC0, inf := true }
/-- F16. -/
def f16 : FFmt := { w := 16, eb := 5, fb := 10, bias := 15, maxFin := 0x7BFF, cnan := 0x7E00, inf := true }
/-- F32. -/
def f32 : FFmt := { w := 32, eb := 8, fb := 23, bias := 127, maxFin := 0x7F7FFFFF, cnan := 0x7FC00000, inf := true }

/-- The floating format of an fmt code of R148; none for the integer and block formats. -/
def fmtFloat : Nat → Option FFmt
  | 1 => some e4m3 | 2 => some e5m2 | 3 => some bf16 | 4 => some f16 | 5 => some f32 | _ => none

/-- Bits of an element of an fmt code, R148. -/
def fmtBits : Nat → Nat
  | 0 => 8 | 1 => 8 | 2 => 8 | 3 => 16 | 4 => 16 | 5 => 32 | 6 => 4 | _ => 32

/-- Elements of a 64-byte vector, R148. -/
def fmtElems (fmt : Nat) : Nat := 512 / fmtBits fmt

/-- An exact value: canonical NaN, an infinity, or ±m·2^e, which keeps the sign of a zero. -/
inductive FV where
  | nan
  | inf (neg : Bool)
  | fin (neg : Bool) (m : Nat) (e : Int)
deriving DecidableEq, Repr

/-- The value an encoding stands for, R169 and R170. -/
def FFmt.decode (f : FFmt) (x : Nat) : FV :=
  let neg := x.testBit (f.w - 1)
  let e := getBits x (f.w - 2) f.fb
  let m := getBits x (f.fb - 1) 0
  if f.inf ∧ e = 2 ^ f.eb - 1 then (if m = 0 then .inf neg else .nan)
  else if !f.inf ∧ e = 2 ^ f.eb - 1 ∧ m = 2 ^ f.fb - 1 then .nan
  else if e = 0 then .fin neg m (1 - (f.bias : Int) - f.fb)
  else .fin neg (2 ^ f.fb + m) ((e : Int) - f.bias - f.fb)

/-- How a magnitude is rounded: to nearest even, or stochastically with a draw r of 16 bits (R178). -/
inductive Rnd where
  | even
  | stoch (r : Nat)
deriving DecidableEq, Repr

/-- The magnitude m·2^e rounded to a multiple of 2^q: the multiple. R173 and R178. -/
def roundMag (rnd : Rnd) (m : Nat) (e q : Int) : Nat :=
  if q ≤ e then m * 2 ^ (e - q).toNat
  else
    let sh := (q - e).toNat
    let t := m / 2 ^ sh
    let rem := m % 2 ^ sh
    match rnd with
    | .even => if rem * 2 > 2 ^ sh ∨ (rem * 2 = 2 ^ sh ∧ t % 2 = 1) then t + 1 else t
    | .stoch r => if rem * 2 ^ 16 / 2 ^ sh + r ≥ 2 ^ 16 then t + 1 else t

/-- The magnitude bits of m·2^e (m ≠ 0) rounded to a format, before the overflow test: above `maxFin` on overflow. -/
def FFmt.roundBits (f : FFmt) (rnd : Rnd) (m : Nat) (e : Int) : Nat :=
  let lead : Int := (Nat.log2 m : Int) + e
  let q : Int := max lead (1 - (f.bias : Int)) - f.fb
  let t := roundMag rnd m e q
  t + (q + f.bias + f.fb - 1).toNat * 2 ^ f.fb

/-- Sign bit and magnitude bits put together. -/
def FFmt.withSign (f : FFmt) (neg : Bool) (mag : Nat) : Nat := mag + (if neg then 2 ^ (f.w - 1) else 0)

/-- The encoding of an infinity; E4M3 has none and takes its largest finite value (R177). -/
def FFmt.infBits (f : FFmt) : Nat := if f.inf then (2 ^ f.eb - 1) * 2 ^ f.fb else f.maxFin

/-- What a finite overflow becomes. -/
inductive Ovf where
  | infinity
  | saturate
deriving DecidableEq, Repr

/-- A value in a format: its encoding, whether a finite value overflowed, whether it is a NaN. -/
structure FR where
  bits : Nat
  ovf : Bool
  nan : Bool
deriving DecidableEq, Repr

/-- An exact value rounded once into a format. -/
def FFmt.encode (f : FFmt) (rnd : Rnd) (o : Ovf) : FV → FR
  | .nan => { bits := f.cnan, ovf := false, nan := true }
  | .inf n => { bits := f.withSign n f.infBits, ovf := !f.inf, nan := false }
  | .fin n m e =>
    if m = 0 then { bits := f.withSign n 0, ovf := false, nan := false }
    else
      let b := f.roundBits rnd m e
      if b > f.maxFin then
        { bits := f.withSign n (match o with | .infinity => f.infBits | .saturate => f.maxFin), ovf := true, nan := false }
      else { bits := f.withSign n b, ovf := false, nan := false }

/-- Exact product; infinity times zero is NaN. -/
def FV.mul : FV → FV → FV
  | .nan, _ => .nan
  | _, .nan => .nan
  | .inf a, .inf b => .inf (a != b)
  | .inf a, .fin b m _ => if m = 0 then .nan else .inf (a != b)
  | .fin a m _, .inf b => if m = 0 then .nan else .inf (a != b)
  | .fin a m e, .fin b n g => .fin (a != b) (m * n) (e + g)

/-- The quotient, with a sticky low bit where it is not exact, so that one rounding of it is the correctly rounded quotient. -/
def FV.div : FV → FV → FV
  | .nan, _ => .nan
  | _, .nan => .nan
  | .inf _, .inf _ => .nan
  | .inf a, .fin b _ _ => .inf (a != b)
  | .fin a _ _, .inf b => .fin (a != b) 0 0
  | .fin a m e, .fin b n g =>
    if n = 0 then (if m = 0 then .nan else .inf (a != b))
    else
      let k := 64 + Nat.log2 n
      let x := m * 2 ^ k
      .fin (a != b) (2 * (x / n) + (if x % n = 0 then 0 else 1)) (e - g - k - 1)

/-- Exact sum; opposite infinities are NaN; an exact zero sum of unlike signs is +0. -/
def FV.add : FV → FV → FV
  | .nan, _ => .nan
  | _, .nan => .nan
  | .inf a, .inf b => if a = b then .inf a else .nan
  | .inf a, .fin _ _ _ => .inf a
  | .fin _ _ _, .inf b => .inf b
  | .fin a m e, .fin b n g =>
    let lo := min e g
    let x : Int := (if a then -1 else 1) * (m * 2 ^ (e - lo).toNat : Nat)
    let y : Int := (if b then -1 else 1) * (n * 2 ^ (g - lo).toNat : Nat)
    let z := x + y
    if z = 0 then .fin (a && b) 0 lo else .fin (decide (z < 0)) z.natAbs lo

/-- Sign change. -/
def FV.neg : FV → FV
  | .nan => .nan
  | .inf a => .inf (!a)
  | .fin a m e => .fin (!a) m e

/-- An integer as an exact value. -/
def FV.ofInt (z : Int) : FV := .fin (decide (z < 0)) z.natAbs 0

/-- A 32-bit accumulator lane after one rounded addition, R173 and R174: bits, saturation, NaN. -/
def addLane32 (lane : Nat) (v : FV) : FR := f32.encode .even .saturate ((f32.decode lane).add v)

/-- An integer saturated to w bits two's complement, and whether it was outside the range. -/
def satInt (w : Nat) (z : Int) : Int × Bool :=
  if z > 2 ^ (w - 1) - 1 then (2 ^ (w - 1) - 1, true)
  else if z < -(2 ^ (w - 1)) then (-(2 ^ (w - 1)), true) else (z, false)

/-- Element i of a vector under an fmt code, R148. -/
def vget (v : Vec) (fmt i : Nat) : Nat := getBits v.toNat (fmtBits fmt * (i + 1) - 1) (fmtBits fmt * i)

/-- A vector from its elements under an fmt code. -/
def vmake (fmt : Nat) (xs : List Nat) : Vec :=
  BitVec.ofNat 512 (xs.foldr (fun x acc => x % 2 ^ fmtBits fmt + acc * 2 ^ fmtBits fmt) 0)

/-- The elements of a vector under an fmt code. -/
def velems (v : Vec) (fmt : Nat) : List Nat := (List.range (fmtElems fmt)).map (vget v fmt)

/-- Replaces one 32-bit lane. -/
def vset32 (v : Vec) (j x : Nat) : Vec := BitVec.ofNat 512 (putBits v.toNat (32 * j + 31) (32 * j) x)

/-- The exact value of an element, for the integer and floating formats. -/
def elemValue (fmt x : Nat) : FV :=
  match fmtFloat fmt with
  | some f => f.decode x
  | none => FV.ofInt (toSigned (fmtBits fmt) x)

/-! ### Multiply-accumulate, R114, R171, R173, R174 -/

/-- A lane with the VSAT bits its additions set, R174: bit a for a saturation of accumulator a, bit 5 for a NaN operand or
an invalid operation. -/
structure LaneAcc where
  lane : Nat
  sat : Nat
deriving DecidableEq, Repr

/-- One addition of an exact value into an F32 lane of accumulator a. -/
def LaneAcc.addF (a : Nat) (l : LaneAcc) (v : FV) : LaneAcc :=
  let r := addLane32 l.lane v
  { lane := r.bits, sat := l.sat ||| (if r.ovf then 2 ^ a else 0) ||| (if r.nan then 32 else 0) }

/-- One addition into an I32 lane. -/
def LaneAcc.addI (a : Nat) (l : LaneAcc) (z : Int) : LaneAcc :=
  let r := satInt 32 (toSigned 32 l.lane + z)
  { lane := ofSigned 32 r.1, sat := l.sat ||| (if r.2 then 2 ^ a else 0) }

/-- The elements whose products go into lane j, in beat order. -/
def laneTerms (fmt j : Nat) : List Nat :=
  if fmt ≤ 2 then [j, 16 + j, 32 + j, 48 + j] else if fmt ≤ 4 then [j, 16 + j] else [j]

/-- The exact contribution of block b to lane j under a shared exponent E, R171. -/
def b4Term (va vb : Vec) (E b j : Nat) : FV :=
  if E = 0 then .fin false 0 0
  else if E = 255 then .nan
  else
    let q (k : Nat) : Int := toSigned 4 (vget va 6 k) * toSigned 4 (vget vb 6 k)
    let z := q (32 * b + j) + q (32 * b + 16 + j)
    .fin (decide (z < 0)) z.natAbs ((E : Int) - 127)

/-- Lane j after a VMAC of va and vb under fmt into accumulator a; `ge` holds the block exponents of B4. -/
def macLane (a fmt : Nat) (va vb : Vec) (ge : Nat) (j : Nat) (lane : Nat) : LaneAcc :=
  if fmt = 0 then
    (laneTerms 0 j).foldl (fun l i => l.addI a (toSigned 8 (vget va 0 i) * toSigned 8 (vget vb 0 i))) { lane := lane, sat := 0 }
  else if fmt = 6 then
    [0, 1, 2, 3].foldl (fun l b => l.addF a (b4Term va vb (getBits ge (8 * b + 7) (8 * b)) b j)) { lane := lane, sat := 0 }
  else
    (laneTerms fmt j).foldl (fun l i => l.addF a ((elemValue fmt (vget va fmt i)).mul (elemValue fmt (vget vb fmt i))))
      { lane := lane, sat := 0 }

/-- All sixteen lanes after a VMAC, and the VSAT bits it will set. -/
def macLanes (a fmt : Nat) (va vb : Vec) (ge : Nat) (acc : Vec) : Vec × Nat :=
  let ls := (List.range 16).map (fun j => macLane a fmt va vb ge j (vget acc 5 j))
  (vmake 5 (ls.map (·.lane)), ls.foldl (fun s l => s ||| l.sat) 0)

/-! ### Elementwise operations, R175 -/

/-- The element-wise operations of op 0x31. -/
inductive ElemOp where
  | add | sub | mul | max | min
deriving DecidableEq, Repr

/-- A floating encoding's place in the order −inf < negative < −0 < +0 < positive < +inf. -/
def FFmt.orderKey (f : FFmt) (x : Nat) : Int :=
  let mag := x % 2 ^ (f.w - 1)
  if x.testBit (f.w - 1) then -(mag : Int) - 1 else mag

/-- One element of VADD, VSUB, VMUL, VMAX or VMIN and the VSAT bits it sets. -/
def elemOp (op : ElemOp) (fmt x y : Nat) : Nat × Nat :=
  match fmtFloat fmt with
  | none =>
    let w := fmtBits fmt
    let a := toSigned w x
    let b := toSigned w y
    let z : Int := match op with | .add => a + b | .sub => a - b | .mul => a * b | .max => max a b | .min => min a b
    let r := satInt w z
    (ofSigned w r.1, if r.2 then 16 else 0)
  | some f =>
    let a := f.decode x
    let b := f.decode y
    match op with
    | .max =>
      if a = .nan ∨ b = .nan then (f.cnan, 32) else (if f.orderKey x ≥ f.orderKey y then x else y, 0)
    | .min =>
      if a = .nan ∨ b = .nan then (f.cnan, 32) else (if f.orderKey x ≤ f.orderKey y then x else y, 0)
    | _ =>
      let v := match op with | .sub => a.add b.neg | .mul => a.mul b | _ => a.add b
      let r := f.encode .even .infinity v
      (r.bits, (if r.ovf then 16 else 0) ||| (if r.nan then 32 else 0))

/-- A list of (element, VSAT bits) as a vector with the union of the bits. -/
def collect (fmt : Nat) (xs : List (Nat × Nat)) : Vec × Nat := (vmake fmt (xs.map (·.1)), xs.foldl (fun s p => s ||| p.2) 0)

/-- VADD, VSUB, VMUL, VMAX, VMIN over whole vectors. -/
def elemVec (op : ElemOp) (fmt : Nat) (va vb : Vec) : Vec × Nat :=
  collect fmt ((List.range (fmtElems fmt)).map (fun i => elemOp op fmt (vget va fmt i) (vget vb fmt i)))

/-- VWACC, R175: vd[j] + w × f32(va[16 p + j]), fused, saturating with bit 4. -/
def vwaccVec (fmt p : Nat) (vd va : Vec) (w : Nat) : Vec × Nat :=
  collect 5 ((List.range 16).map (fun j =>
    let r := addLane32 (vget vd 5 j) ((f32.decode w).mul (elemValue fmt (vget va fmt (16 * p + j))))
    (r.bits, (if r.ovf then 16 else 0) ||| (if r.nan then 32 else 0))))

/-! ### Conversions, R176 to R178 -/

/-- A value rounded to an integer of w bits, saturated, with the VSAT bits set. -/
def toIntElem (w : Nat) (rnd : Rnd) : FV → Nat × Nat
  | .nan => (0, 32)
  | .inf n => (ofSigned w (if n then -(2 ^ (w - 1)) else 2 ^ (w - 1) - 1), 16)
  | .fin n m e =>
    let t : Int := roundMag rnd m e 0
    let r := satInt w (if n then -t else t)
    (ofSigned w r.1, if r.2 then 16 else 0)

/-- One converted element and the VSAT bits it sets. -/
def cvtElem (dst src : Nat) (rnd : Rnd) (x : Nat) : Nat × Nat :=
  let v := elemValue src x
  match fmtFloat dst with
  | none => toIntElem (fmtBits dst) rnd v
  | some f =>
    let r := f.encode rnd (if dst = 1 ∨ dst = 2 then .saturate else .infinity) v
    (r.bits, (if r.ovf then 16 else 0) ||| (if r.nan then 32 else 0))

/-- One step of the stochastic-rounding generator, R178. -/
def srNext (x : BitVec 32) : BitVec 32 :=
  let x := x ^^^ (x <<< 13)
  let x := x ^^^ (x >>> 17)
  x ^^^ (x <<< 5)

/-- Converts elements in ascending order, drawing once for each with S = 1. -/
def cvtList (dst src : Nat) (stoch : Bool) : BitVec 32 → List Nat → List (Nat × Nat) × BitVec 32
  | g, [] => ([], g)
  | g, x :: xs =>
    let g' := if stoch then srNext g else g
    let e := cvtElem dst src (if stoch then .stoch (g' >>> 16).toNat else .even) x
    let r := cvtList dst src stoch g' xs
    (e :: r.1, r.2)

/-- VCVT, R150: the new vd, the VSAT bits and the generator after it. -/
def vcvtVec (dst src p : Nat) (stoch : Bool) (vd va : Vec) (g : BitVec 32) : Vec × Nat × BitVec 32 :=
  let ns := fmtElems src
  let nd := fmtElems dst
  let n := min ns nd
  let xs := (List.range n).map (fun i => vget va src (if nd < ns then p * nd + i else i))
  let r := cvtList dst src stoch g xs
  let sat := r.1.foldl (fun s q => s ||| q.2) 0
  let new := r.1.map (·.1)
  let out := if nd > ns then
      vmake dst ((List.range nd).map (fun i => if p * ns ≤ i ∧ i < p * ns + ns then new.getD (i - p * ns) 0 else vget vd dst i))
    else vmake dst new
  (out, sat, r.2)

/-! ### Reductions, R151 and R175 -/

/-- One level of the sum tree: neighbours added, each addition rounded to nearest even. -/
def sumLevel : List LaneAcc → List LaneAcc
  | a :: b :: rest =>
    let r := addLane32 a.lane (f32.decode b.lane)
    { lane := r.bits, sat := a.sat ||| b.sat ||| (if r.ovf then 16 else 0) ||| (if r.nan then 32 else 0) } :: sumLevel rest
  | xs => xs

/-- ARED.SUM: the general-register result and the VSAT bits. -/
def aredSum (fmt : Nat) (acc : Vec) : Nat × Nat :=
  let ls := (List.range 16).map (vget acc 5)
  if fmt = 7 then (ofSigned 64 ((ls.map (toSigned 32)).foldl (· + ·) 0), 0)
  else
    match sumLevel (sumLevel (sumLevel (sumLevel (ls.map (fun l => { lane := l, sat := 0 }))))) with
    | r :: _ => (r.lane, r.sat)
    | [] => (0, 0)

/-- ARED.MAX: the general-register result and the VSAT bits. -/
def aredMax (fmt : Nat) (acc : Vec) : Nat × Nat :=
  let ls := (List.range 16).map (vget acc 5)
  if fmt = 7 then (ofSigned 64 ((ls.map (toSigned 32)).foldl max (-(2 ^ 31))), 0)
  else if ls.any (fun l => f32.decode l == .nan) then (f32.cnan, 32)
  else (ls.foldl (fun m l => if f32.orderKey l > f32.orderKey m then l else m) (ls.getD 0 0), 0)

/-! ### e^x, R175 -/

/-- Terms of the exponential series in fixed point: Σ rⁿ/n! for n up to the fuel. -/
def expSeries (prec : Nat) (r : Int) : Nat → Nat → Int → Int
  | 0, _, _ => 0
  | fuel + 1, n, term => term + expSeries prec r fuel (n + 1) (term * r / (2 ^ prec * (n + 1 : Int)))

/-- Squares a fixed-point number k times. -/
def squareN (prec : Nat) : Nat → Int → Int
  | 0, y => y
  | k + 1, y => squareN prec k (y * y / 2 ^ prec)

/-- e^x for |x| ≤ 128 in fixed point with 400 fraction bits. -/
def expFix (neg : Bool) (m : Nat) (e : Int) : Nat :=
  let prec : Nat := 400
  let x : Nat := if e + 400 ≥ 0 then m * 2 ^ (e + 400).toNat else m / 2 ^ (-(e + 400)).toNat
  let r : Int := (if neg then -1 else 1) * ((x : Int) / 2 ^ 12)
  (squareN prec 12 (expSeries prec r 60 0 (2 ^ prec))).toNat

/-- Is the magnitude m·2^e above n / d? -/
def magAbove (m : Nat) (e : Int) (n d : Nat) : Bool :=
  if e ≥ 0 then decide (m * 2 ^ e.toNat * d > n) else decide (m * d > n * 2 ^ (-e).toNat)

/-- e^x in BF16, correctly rounded, and the VSAT bits. -/
def expBf16 (x : Nat) : Nat × Nat :=
  match bf16.decode x with
  | .nan => (bf16.cnan, 32)
  | .inf n => (if n then 0 else bf16.infBits, 0)
  | .fin n m e =>
    if m = 0 then (0x3F80, 0)
    else if magAbove m e 128 1 then (if n then (0, 0) else (bf16.infBits, 16))
    else
      let r := bf16.encode .even .infinity (.fin false (expFix n m e) (-400))
      (r.bits, if r.ovf then 16 else 0)

/-- e^x in F32: within one unit in the last place, by the part's fixed choice among the values within that bound; e^0 is 1.0
exactly (R250). -/
def expF32 (x : Nat) : Nat × Nat :=
  match f32.decode x with
  | .nan => (f32.cnan, 32)
  | .inf n => (if n then 0 else f32.infBits, 0)
  | .fin n m e =>
    if m = 0 then (0x3F800000, 0)
    else if !n && magAbove m e 8872 100 then (f32.infBits, 16)
    else if magAbove m e 128 1 then (Config.exp32Choice x % 2, 0)
    else
      let v := expFix n m e
      let down := f32.roundBits (.stoch 0) v (-400)
      (if v = 0 then Config.exp32Choice x % 2 else down + Config.exp32Choice x % 2, 0)

/-- VEXP over a vector. -/
def vexpVec (fmt : Nat) (va : Vec) : Vec × Nat :=
  collect fmt ((velems va fmt).map (fun x => if fmt = 3 then expBf16 x else expF32 x))

end Machine
end Sys2Proof
end

