-- ==== Sys2Proof/Machine/Ecdsa.lean ====
section
/-!
DEFINITION. Verification of an ECDSA signature over the curve P-384 of FIPS 186, by which a firmware image's header is signed
(spec 03 R81).
-/
namespace Sys2Proof
namespace Machine

/-! ### The curve: y² = x³ − 3x + b over the integers modulo p, with a base point of order n -/

/-- The field's modulus. -/
def p384 : Nat := 2 ^ 384 - 2 ^ 128 - 2 ^ 96 + 2 ^ 32 - 1

/-- The order of the base point. -/
def n384 : Nat := 2 ^ 384 - 0x389cb27e0bc8d220a7e5f24db74f58851313e695333ad68d

/-- The constant term of the curve's equation. -/
def b384 : Nat := 0xb3312fa7e23ee7e4988e056be3f82d19181d9c6efe8141120314088f5013875ac656398d8a2ed19d2a85c8edd3ec2aef

/-- A point in Jacobian coordinates: x/z², y/z³; the neutral element has z = 0. -/
structure EcPoint where
  x : Nat
  y : Nat
  z : Nat
deriving DecidableEq, Repr

/-- The base point. -/
def g384 : EcPoint :=
  { x := 0xaa87ca22be8b05378eb1c71ef320ad746e1d3b628ba79b9859f741e082542a385502f25dbf55296c3a545e3872760ab7
    y := 0x3617de4a96262c6f5d9e98bf9292dc29f8f41dbd289a147ce9da3113b5f0b8c00a60b1ce1d7e819d7a431d7c90ea0e5f
    z := 1 }

/-- Difference modulo p of numbers, the second below p. -/
def subP (a b : Nat) : Nat := (a + (p384 - b)) % p384

/-- Hands a number on once it is evaluated. -/
def withNat {α : Type} (n : Nat) (f : Nat → α) : α :=
  match n with
  | 0 => f 0
  | m + 1 => f (m + 1)

/-- A point twice. -/
def EcPoint.double (a : EcPoint) : EcPoint :=
  withNat (a.y * a.y % p384) fun yy =>
  withNat (4 * a.x * yy % p384) fun s =>
  withNat (a.z * a.z % p384) fun zz =>
  withNat (3 * subP a.x zz * (a.x + zz) % p384) fun m =>
  withNat (subP (m * m) (2 * s % p384)) fun x =>
  withNat (subP (m * subP s x) (8 * yy * yy % p384)) fun y =>
  withNat (2 * a.y * a.z % p384) fun z =>
  { x := x, y := y, z := z }

/-- The sum of two points. -/
def EcPoint.add (a b : EcPoint) : EcPoint :=
  if a.z = 0 then b
  else if b.z = 0 then a
  else
    withNat (a.z * a.z % p384) fun za =>
    withNat (b.z * b.z % p384) fun zb =>
    withNat (a.x * zb % p384) fun ua =>
    withNat (b.x * za % p384) fun ub =>
    withNat (a.y * zb % p384 * b.z % p384) fun sa =>
    withNat (b.y * za % p384 * a.z % p384) fun sb =>
    if ua = ub then (if sa = sb then a.double else { x := 1, y := 1, z := 0 })
    else
      withNat (subP ub ua) fun h =>
      withNat (subP sb sa) fun r =>
      withNat (h * h % p384) fun hh =>
      withNat (ua * hh % p384) fun v =>
      withNat (h * hh % p384) fun hhh =>
      withNat (subP (subP (r * r) hhh) (2 * v % p384)) fun x =>
      withNat (subP (r * subP v x) (sa * hhh % p384)) fun y =>
      withNat (h * a.z % p384 * b.z % p384) fun z =>
      { x := x, y := y, z := z }

/-- u·a + v·b, over the n low bits of both factors, the highest first. -/
def EcPoint.combine (a b ab : EcPoint) (u v : Nat) : Nat → EcPoint → EcPoint
  | 0, acc => acc
  | n + 1, acc =>
    let d := acc.double
    let d := if u.testBit n then (if v.testBit n then d.add ab else d.add a) else if v.testBit n then d.add b else d
    EcPoint.combine a b ab u v n d

/-- a to the power e modulo m, over the n low bits of e, the highest first. -/
def powMod (a e m : Nat) : Nat → Nat → Nat
  | 0, acc => acc
  | n + 1, acc => withNat (acc * acc % m) fun sq => powMod a e m n (if e.testBit n then sq * a % m else sq)

/-- Is (x, y) a point of the curve? -/
def onCurve (x y : Nat) : Bool := decide (x < p384 ∧ y < p384) && y * y % p384 == (x * x * x + b384 + 3 * (p384 - x)) % p384

/-- Does (r, s) sign a message of hash e under the public key (x, y)? -/
def ecdsaOk (e r s x y : Nat) : Bool :=
  onCurve x y && decide (0 < r ∧ r < n384 ∧ 0 < s ∧ s < n384) &&
    withNat (powMod s (n384 - 2) n384 384 1) fun w =>
    withNat (e * w % n384) fun u =>
    withNat (r * w % n384) fun v =>
    let q : EcPoint := { x := x, y := y, z := 1 }
    let t := EcPoint.combine g384 q (g384.add q) u v 384 { x := 1, y := 1, z := 0 }
    t.z != 0 && withNat (t.z * t.z % p384) fun zz =>
      r * zz % p384 == t.x % p384 || (decide (r + n384 < p384) && (r + n384) * zz % p384 == t.x % p384)

end Machine
end Sys2Proof
end

