-- ==== Sys2Proof/Machine/RegMap.lean ====
section
/-!
DEFINITION. The shape of the control space: the block instances and their bases (spec 01 R39), what a register
row says (00_scope R11 to R16) and how an internal address names a register.
-/
namespace Sys2Proof
namespace Machine

/-- The kinds of block instance of R39. `dma` instances 0 to 239 are the cluster engines, 240 and 241 the host engines. -/
inductive Blk where
  | gso | atl | fus | mbx | lif | hrc | injA
  | pal | mem | cmp | synP | dma | brs
  | stg | gu | synV
  | pkt | sch | tmt | cphN
  | hif | slc
  | nvc | cph | vrn
  | pmu | injD
deriving DecidableEq, Repr

/-- One register (or array of registers) of a block: offset, array dimensions as (count, stride) with the widest
stride first, the bits of each access type of R12, the reset value of R16. -/
structure Reg where
  blk : Blk
  off : Nat
  dims : List (Nat × Nat) := []
  rw : Nat := 0
  rwl : Nat := 0
  w1c : Nat := 0
  w1s : Nat := 0
  wo : Nat := 0
  ro : Nat := 0
  rst : Nat := 0
  step : Nat := 0
  only0 : Bool := false
deriving DecidableEq, Repr

/-- A field of a register: bits hi down to lo. -/
structure Fld where
  reg : Reg
  hi : Nat
  lo : Nat
deriving DecidableEq, Repr

/-- Window base of palette die n, R39. -/
def palBase (n : Nat) : Addr := 0x030100000000 + n * 0x1000000
/-- Window base of stretcher n, R39. -/
def strBase (n : Nat) : Addr := 0x030200000000 + n * 0x1000000
/-- Window base of network die n, R39. -/
def netBase (n : Nat) : Addr := 0x030300000000 + n * 0x1000000
/-- Window base of host die n, R39. -/
def hostBase (n : Nat) : Addr := 0x030400000000 + n * 0x1000000
/-- Window base of PF0, R39. -/
def pfBase : Addr := 0x030500000000

/-- Window base of the die that PMU instance i names, R586. -/
def pmuDieBase (i : Nat) : Addr :=
  if i = 0 then 0x030003000000
  else if i ≤ 10 then palBase (i - 1)
  else if i ≤ 14 then strBase (i - 11)
  else if i ≤ 16 then netBase (i - 15)
  else if i ≤ 18 then hostBase (i - 17)
  else pfBase

/-- Base of a PMU instance: 0xF0_0000 of the die's window, and for AD0 0x20_0000 of its LIF window (spec 25). -/
def pmuBase (i : Nat) : Addr :=
  if i = 0 then 0x030003200000 else pmuDieBase i + 0xF00000

/-- Window base of the die with index d of R614 that holds its injectors: AD0's is the window of its INJ block (log entry 9). -/
def dieBase (d : Nat) : Addr :=
  if d ≤ 9 then palBase d
  else if d ≤ 13 then strBase (d - 10)
  else if d ≤ 15 then netBase (d - 14)
  else if d ≤ 17 then hostBase (d - 16)
  else if d = 18 then pfBase
  else 0x030005000000

/-- Base address of instance i of a block kind, R39 and the chapters' own placements. -/
def Blk.base (b : Blk) (i : Nat) : Addr :=
  match b with
  | .gso => 0x030001000000
  | .atl => 0x030000000000
  | .fus => 0x030000200000
  | .mbx => 0x030002000000
  | .lif => 0x030003000000
  | .hrc => 0x030004000000
  | .injA => 0x030005000000
  | .pal => palBase i
  | .mem => palBase (i / 2) + 0x100000 + i % 2 * 0x80000
  | .cmp => palBase i + 0x200000
  | .synP => palBase i + 0x300000
  | .dma => if i < 240 then palBase (i / 24) + 0x400000 + i % 24 * 0x10000 else hostBase (i - 240) + 0x200000
  | .brs => palBase (i / 384) + 0x800000 + i % 384 * 0x4000
  | .stg => strBase i
  | .gu => strBase i + 0x100000
  | .synV => strBase i + 0x200000
  | .pkt => netBase i
  | .sch => netBase i + 0x200000
  | .tmt => netBase i + 0x400000
  | .cphN => netBase i + 0x800000
  | .hif => hostBase (i / 4) + i % 4 * 0x40000
  | .slc => hostBase i + 0x400000
  | .nvc => pfBase
  | .cph => pfBase + 0x400000
  | .vrn => pfBase + 0x800000
  | .pmu => pmuBase i
  | .injD => dieBase i + 0xFE0000

/-- How many instances of a block kind there are. -/
def Blk.count (b : Blk) : Nat :=
  match b with
  | .pal => 10 | .mem => 20 | .cmp => 10 | .synP => 10 | .dma => 242 | .brs => 3840
  | .stg => 4 | .gu => 4 | .synV => 4
  | .pkt => 2 | .sch => 2 | .tmt => 2 | .cphN => 2
  | .hif => 8 | .slc => 2
  | .pmu => 20 | .injD => 20
  | .gso | .atl | .fus | .mbx | .lif | .hrc | .injA | .nvc | .cph | .vrn => 1

/-- The size of a block instance's region, as the next region's start in R39 bounds it. -/
def Blk.size (b : Blk) : Nat :=
  match b with
  | .gso => 0x1000000 | .atl => 0x200000 | .fus => 0xE00000 | .mbx => 0x1000000 | .lif => 0x200000
  | .hrc => 0x1000000 | .injA => 0xFE0000
  | .pal => 0x100000 | .mem => 0x80000 | .cmp => 0x100000 | .synP => 0x100000 | .dma => 0x10000 | .brs => 0x4000
  | .stg => 0x100000 | .gu => 0x100000 | .synV => 0xD00000
  | .pkt => 0x200000 | .sch => 0x200000 | .tmt => 0x400000 | .cphN => 0x700000
  | .hif => 0x40000 | .slc => 0x800000
  | .nvc => 0x400000 | .cph => 0x400000 | .vrn => 0x700000
  | .pmu => 0xE0000 | .injD => 0x20000

/-- The element of a register array with the given indices: Σ index × stride. -/
def dimOffset : List (Nat × Nat) → List Nat → Nat
  | (_, st) :: ds, i :: is => i * st + dimOffset ds is
  | _, _ => 0

/-- Address of a register of block instance `inst`, element [i, j, k] of its array. -/
def Reg.addr (r : Reg) (inst : Nat) (i j k : Nat := 0) : Addr :=
  r.blk.base inst + r.off + dimOffset r.dims [i, j, k]

/-- Reset value of element i of a register: constant, stepped by the first index, or set for element 0 alone. -/
def Reg.resetAt (r : Reg) (i : Nat) : Nat :=
  if r.only0 then (if i = 0 then r.rst else 0) else r.rst + i * r.step

/-- The indices of the array element at distance d from the array's start, if d falls on one. -/
def dimIndex : List (Nat × Nat) → Nat → Option (List Nat)
  | [], d => if d = 0 then some [] else none
  | (n, st) :: ds, d =>
    if d / st < n then (dimIndex ds (d % st)).map (d / st :: ·) else none

/-- Does the register hold the word at block offset o? Its indices if so. -/
def Reg.indexAt (r : Reg) (o : Nat) : Option (List Nat) :=
  if o < r.off then none else dimIndex r.dims (o - r.off)

/-- A location of control space: block kind, instance, offset in the instance's region. -/
structure CtlLoc where
  blk : Blk
  inst : Nat
  off : Nat
deriving DecidableEq, Repr

/-- Location in a window of AD0, by window number. -/
def adLoc (w o : Nat) : Option CtlLoc :=
  if w = 0 then
    (if o < 0x200000 then some ⟨.atl, 0, o⟩ else some ⟨.fus, 0, o - 0x200000⟩)
  else if w = 1 then some ⟨.gso, 0, o⟩
  else if w = 2 then some ⟨.mbx, 0, o⟩
  else if w = 3 then (if o < 0x200000 then some ⟨.lif, 0, o⟩ else some ⟨.pmu, 0, o - 0x200000⟩)
  else if w = 4 then some ⟨.hrc, 0, o⟩
  else if w = 5 then (if o < 0xFE0000 then some ⟨.injA, 0, o⟩ else some ⟨.injD, 19, o - 0xFE0000⟩)
  else none

/-- Location in the window of palette p. -/
def palLoc (p o : Nat) : CtlLoc :=
  if o < 0x100000 then ⟨.pal, p, o⟩
  else if o < 0x180000 then ⟨.mem, 2 * p, o - 0x100000⟩
  else if o < 0x200000 then ⟨.mem, 2 * p + 1, o - 0x180000⟩
  else if o < 0x300000 then ⟨.cmp, p, o - 0x200000⟩
  else if o < 0x400000 then ⟨.synP, p, o - 0x300000⟩
  else if o < 0x580000 then ⟨.dma, 24 * p + (o - 0x400000) / 0x10000, (o - 0x400000) % 0x10000⟩
  else if o < 0x800000 then ⟨.synP, p, o - 0x300000⟩
  else if o < 0xE00000 then ⟨.brs, 384 * p + (o - 0x800000) / 0x4000, (o - 0x800000) % 0x4000⟩
  else if o < 0xF00000 then ⟨.synP, p, o - 0x300000⟩
  else if o < 0xFE0000 then ⟨.pmu, 1 + p, o - 0xF00000⟩
  else ⟨.injD, p, o - 0xFE0000⟩

/-- Location in the window of stretcher n. -/
def strLoc (n o : Nat) : CtlLoc :=
  if o < 0x100000 then ⟨.stg, n, o⟩
  else if o < 0x200000 then ⟨.gu, n, o - 0x100000⟩
  else if o < 0xF00000 then ⟨.synV, n, o - 0x200000⟩
  else if o < 0xFE0000 then ⟨.pmu, 11 + n, o - 0xF00000⟩
  else ⟨.injD, 10 + n, o - 0xFE0000⟩

/-- Location in the window of network die n. -/
def netLoc (n o : Nat) : CtlLoc :=
  if o < 0x200000 then ⟨.pkt, n, o⟩
  else if o < 0x400000 then ⟨.sch, n, o - 0x200000⟩
  else if o < 0x800000 then ⟨.tmt, n, o - 0x400000⟩
  else if o < 0xF00000 then ⟨.cphN, n, o - 0x800000⟩
  else if o < 0xFE0000 then ⟨.pmu, 15 + n, o - 0xF00000⟩
  else ⟨.injD, 14 + n, o - 0xFE0000⟩

/-- Location in the window of host die n. -/
def hostLoc (n o : Nat) : CtlLoc :=
  if o < 0x100000 then ⟨.hif, 4 * n + o / 0x40000, o % 0x40000⟩
  else if o < 0x200000 then ⟨.hif, 4 * n + 3, o - 0xC0000⟩
  else if o < 0x400000 then ⟨.dma, 240 + n, o - 0x200000⟩
  else if o < 0xF00000 then ⟨.slc, n, o - 0x400000⟩
  else if o < 0xFE0000 then ⟨.pmu, 17 + n, o - 0xF00000⟩
  else ⟨.injD, 16 + n, o - 0xFE0000⟩

/-- Location in PF0's window. -/
def pfLoc (o : Nat) : CtlLoc :=
  if o < 0x400000 then ⟨.nvc, 0, o⟩
  else if o < 0x800000 then ⟨.cph, 0, o - 0x400000⟩
  else if o < 0xF00000 then ⟨.vrn, 0, o - 0x800000⟩
  else if o < 0xFE0000 then ⟨.pmu, 19, o - 0xF00000⟩
  else ⟨.injD, 18, o - 0xFE0000⟩

/-- The control-space location of an internal address; none outside every block instance window (R38, R39). -/
def ctlLoc (a : Addr) : Option CtlLoc :=
  if a < 0x030000000000 then none
  else
    let d := (a - 0x030000000000) / 0x100000000
    let w := (a - 0x030000000000) % 0x100000000 / 0x1000000
    let o := a % 0x1000000
    if d = 0 then adLoc w o
    else if d = 1 then (if w < 10 then some (palLoc w o) else none)
    else if d = 2 then (if w < 4 then some (strLoc w o) else none)
    else if d = 3 then (if w < 2 then some (netLoc w o) else none)
    else if d = 4 then (if w < 2 then some (hostLoc w o) else none)
    else if d = 5 then (if w < 1 then some (pfLoc o) else none)
    else none

/-- The die (its index of R614) that holds a block instance, R39. -/
def Blk.die (b : Blk) (i : Nat) : Nat :=
  match b with
  | .gso | .atl | .fus | .mbx | .lif | .hrc | .injA => 19
  | .pal | .cmp | .synP => i
  | .mem => i / 2
  | .dma => if i < 240 then i / 24 else 16 + (i - 240)
  | .brs => i / 384
  | .stg | .gu | .synV => 10 + i
  | .pkt | .sch | .tmt | .cphN => 14 + i
  | .hif => 16 + i / 4
  | .slc => 16 + i
  | .nvc | .cph | .vrn => 18
  | .pmu => if i = 0 then 19 else i - 1
  | .injD => i

/-- Does an instance hold this register? Cluster DMA engines have eight channels, host engines sixty-four
(R340); the device registers and dump sets of the PMU are AD0's (R610), the slot counters the palettes' (R592). -/
def Reg.present (r : Reg) (inst : Nat) (o : Nat) : Bool :=
  match r.blk with
  | .dma => decide (inst ≥ 240 ∨ o < 0x800 ∨ o ≥ 0xF000)
  | .pmu =>
    if r.off = 0x1000 ∧ r.dims.length = 3 then decide (1 ≤ inst ∧ inst ≤ 10)
    else if r.off ≥ 0x400 then decide (inst = 0) else true
  | _ => true

end Machine
end Sys2Proof
end

