-- ==== Sys2Proof/Machine/Registers.lean ====
section
/-!
DEFINITION. Every register of the control space, transcribed from the register and field maps of spec/
(one constant a register: block, offset, array dimensions, the bits of each access type of R12, reset value),
then one constant a field. A register's full name is the spec's. Where a map spells an array with an index
letter (NVC_OP_POSc, MBX_HBd), the letter is dropped and the index is an argument of the accessors.
-/
namespace Sys2Proof
namespace Machine

/-! ### Block gso (spec 02 R69) -/

/-- Lock for RWL fields of the GSO block. -/
def GSO_LOCK : Reg :=
  { blk := .gso, off := 0x0, w1s := 0x1 }

/-- Warning threshold. -/
def GSO_VIN_WARN : Reg :=
  { blk := .gso, off := 0x10, rwl := 0x1ff, rst := 0x1a4 }

/-- Present and minimum input voltage. -/
def GSO_VIN : Reg :=
  { blk := .gso, off := 0x14, ro := 0xfff0fff, rst := 0xfff0000 }

/-- Present input current. -/
def GSO_IIN : Reg :=
  { blk := .gso, off := 0x18, ro := 0xffff }

/-- Event interrupt enables; minimum clear. -/
def GSO_PWR_CTL : Reg :=
  { blk := .gso, off := 0x1c, rw := 0xf8, wo := 0x80000000 }

/-- Input state and events. -/
def GSO_PWR_STATUS : Reg :=
  { blk := .gso, off := 0x20, w1c := 0xf8, ro := 0x7 }

/-- Thermal state and events. -/
def GSO_THERM_STATUS : Reg :=
  { blk := .gso, off := 0x30, w1c := 0x70, ro := 0x83 }

/-- Worst sensor and coolant temperatures. -/
def GSO_THERM_HOT : Reg :=
  { blk := .gso, off := 0x34, ro := 0xffffffff }

/-- Module state and M2 blockers. -/
def GSO_MSTATE : Reg :=
  { blk := .gso, off := 0x40, ro := 0xf3, rst := 0x3 }

/-- Idle timers. -/
def GSO_MSTATE_CTL : Reg :=
  { blk := .gso, off := 0x44, rwl := 0xffffff, rst := 0xa03e8 }

/-- Bristle clock cap and its causes. -/
def GSO_CLK_CAP : Reg :=
  { blk := .gso, off := 0x48, ro := 0x71f, rst := 0x10 }


/-! ### Block atl (spec 03 R96) -/

/-- Lock for RWL fields of the ATL block. -/
def ATL_LOCK : Reg :=
  { blk := .atl, off := 0x0, w1s := 0x1 }

/-- Boot state, slot, failure code. -/
def ATL_BOOT_STATUS : Reg :=
  { blk := .atl, off := 0x4, ro := 0xff00030f }

/-- Cause of the last device reset. -/
def ATL_RESET_CAUSE : Reg :=
  { blk := .atl, off := 0x8, w1c := 0x1f }

/-- Running firmware version. -/
def ATL_FW_VERSION : Reg :=
  { blk := .atl, off := 0xc, ro := 0xffffffff }

/-- Restart count and cause. -/
def ATL_RESTART : Reg :=
  { blk := .atl, off := 0x10, ro := 0xffffffff }

/-- Watchdog timeout. -/
def ATL_WDT_CTL : Reg :=
  { blk := .atl, off := 0x14, rwl := 0x3fff, rst := 0x3e8 }

/-- Update state and result. -/
def ATL_UPD_STATUS : Reg :=
  { blk := .atl, off := 0x20, ro := 0xff00000f }

/-- Update position and progress. -/
def ATL_UPD_PROGRESS : Reg :=
  { blk := .atl, off := 0x24, ro := 0xffffffff }

/-- Log ring base. -/
def ATL_LOG_BASE : Reg :=
  { blk := .atl, off := 0x28, ro := 0xfffffff, rst := 0x9ffff }

/-- Log write position. -/
def ATL_LOG_WR : Reg :=
  { blk := .atl, off := 0x2c, ro := 0xffffffff }

/-- Trace point enables. -/
def ATL_TRACE_EN : Reg :=
  { blk := .atl, off := 0x40, dims := [(8, 0x4)], rw := 0xffffffff, rst := 0xffff, only0 := true }


/-! ### Block fus (spec 26 R625) -/

/-- Field and security state. -/
def FUS_STATUS : Reg :=
  { blk := .fus, off := 0x0, ro := 0xf0000001 }

/-- Die index. -/
def FUS_DIE_SEL : Reg :=
  { blk := .fus, off := 0x4, rw := 0x1f }

/-- LOT [31:0] of the selected die. -/
def FUS_DIE_LOT_LO : Reg :=
  { blk := .fus, off := 0x8, ro := 0xffffffff }

/-- LOT [47:32]. -/
def FUS_DIE_LOT_HI : Reg :=
  { blk := .fus, off := 0xc, ro := 0xffff }

/-- Wafer and position. -/
def FUS_DIE_POS : Reg :=
  { blk := .fus, off := 0x10, ro := 0x1f00ffff }

/-- Type, revision, validity. -/
def FUS_DIE_INFO : Reg :=
  { blk := .fus, off := 0x14, ro := 0x800700ff }

/-- SERIAL. -/
def FUS_SERIAL_LO : Reg :=
  { blk := .fus, off := 0x20, ro := 0xffffffff }

/-- SERIAL. -/
def FUS_SERIAL_HI : Reg :=
  { blk := .fus, off := 0x24, ro := 0xffffffff }

/-- VID and JTAG_MFR. -/
def FUS_VID : Reg :=
  { blk := .fus, off := 0x28, ro := 0x7ffffff }

/-- MAC_BASE. -/
def FUS_MAC_LO : Reg :=
  { blk := .fus, off := 0x30, ro := 0xffffffff }

/-- MAC_BASE. -/
def FUS_MAC_HI : Reg :=
  { blk := .fus, off := 0x34, ro := 0xffff }

/-- Security-version floor. -/
def FUS_SECVER : Reg :=
  { blk := .fus, off := 0x40, ro := 0x7f }

/-- Anchor validity. -/
def FUS_ANCHOR_STATUS : Reg :=
  { blk := .fus, off := 0x44, ro := 0xff }

/-- Anchor selection. -/
def FUS_ANCHOR_SEL : Reg :=
  { blk := .fus, off := 0x48, rw := 0x3 }

/-- Selected anchor, bytes 4n to 4n + 3. -/
def FUS_ANCHOR_D : Reg :=
  { blk := .fus, off := 0x50, dims := [(12, 0x4)], ro := 0xffffffff }

/-- Soft close of the debug port. -/
def FUS_DBG_CTL : Reg :=
  { blk := .fus, off := 0x84, w1s := 0x1 }


/-! ### Block mbx (spec 24 R585) -/

/-- Command words; IN0 commits. -/
def MBX_IN : Reg :=
  { blk := .mbx, off := 0x0, dims := [(10, 0x10000), (32, 0x80), (8, 0x4)], rw := 0xffffffff }

/-- Notice words. -/
def MBX_OUT : Reg :=
  { blk := .mbx, off := 0x20, dims := [(10, 0x10000), (32, 0x80), (8, 0x4)], ro := 0xffffffff }

/-- Acknowledgement. -/
def MBX_IN_ACK : Reg :=
  { blk := .mbx, off := 0x40, dims := [(10, 0x10000), (32, 0x80)], ro := 0x80ffffff }

/-- Notice taken. -/
def MBX_OUT_ACK : Reg :=
  { blk := .mbx, off := 0x44, dims := [(10, 0x10000), (32, 0x80)], wo := 0xffffff }

/-- Flags. -/
def MBX_CH_STATUS : Reg :=
  { blk := .mbx, off := 0x48, dims := [(10, 0x10000), (32, 0x80)], w1c := 0x1c, ro := 0x8000ff03 }

/-- Binding. -/
def MBX_CH_BIND : Reg :=
  { blk := .mbx, off := 0x4c, dims := [(10, 0x10000), (32, 0x80)], ro := 0x8000003f }

/-- Heartbeat slot d. -/
def MBX_HB : Reg :=
  { blk := .mbx, off := 0x1000, dims := [(10, 0x10000), (16, 0x4)], rw := 0xffff, ro := 0xf0000 }

/-- Lock for RWL fields. -/
def MBX_LOCK : Reg :=
  { blk := .mbx, off := 0xf0000, w1s := 0x1 }

/-- Banks allowed secure channels. -/
def MBX_SEC : Reg :=
  { blk := .mbx, off := 0xf0004, rwl := 0x3ff }

/-- Events. -/
def MBX_ERR : Reg :=
  { blk := .mbx, off := 0xf0008, w1c := 0x7 }

/-- Full IN sides of bank b. -/
def MBX_IN_FULL : Reg :=
  { blk := .mbx, off := 0xf0100, dims := [(10, 0x4)], ro := 0xffffffff }


/-! ### Block lif (spec 25 R611) -/

/-- Calendar seconds [31:0]; read latches HI. -/
def LIF_CAL_LO : Reg :=
  { blk := .lif, off := 0x0, ro := 0xffffffff }

/-- Calendar seconds [63:32]. -/
def LIF_CAL_HI : Reg :=
  { blk := .lif, off := 0x4, ro := 0xffffffff }

/-- Validity and log state. -/
def LIF_STATUS : Reg :=
  { blk := .lif, off := 0x8, ro := 0xc01fffff }

/-- Item selection. -/
def LIF_ITEM_SEL : Reg :=
  { blk := .lif, off := 0x10, rw := 0x1ff }

/-- Selected item; LO read latches HI. -/
def LIF_ITEM_LO : Reg :=
  { blk := .lif, off := 0x14, ro := 0xffffffff }

/-- Selected item; LO read latches HI. -/
def LIF_ITEM_HI : Reg :=
  { blk := .lif, off := 0x18, ro := 0xffffffff }


/-! ### Block hrc (spec 23 R569) -/

/-- Lock for RWL fields. -/
def HRC_LOCK : Reg :=
  { blk := .hrc, off := 0x0, w1s := 0x1 }

/-- Isolation, lease margin, fencing limit. -/
def HRC_CTL : Reg :=
  { blk := .hrc, off := 0x4, rwl := 0xffffffff, rst := 0xa190096 }

/-- State, role, member number. -/
def HRC_STATUS : Reg :=
  { blk := .hrc, off := 0x8, ro := 0x1ff00ff }

/-- Events. -/
def HRC_ERR_STATUS : Reg :=
  { blk := .hrc, off := 0xc, w1c := 0x1f }

/-- Job. -/
def HRC_JOB : Reg :=
  { blk := .hrc, off := 0x10, ro := 0xffffffff }

/-- Membership epoch. -/
def HRC_MEPOCH : Reg :=
  { blk := .hrc, off := 0x14, ro := 0xffffffff }

/-- Newest job map epoch written. -/
def HRC_JMAP_EPOCH : Reg :=
  { blk := .hrc, off := 0x18, ro := 0xffffffff }

/-- Member selection. -/
def HRC_MEMBER_SEL : Reg :=
  { blk := .hrc, off := 0x20, rw := 0x1ff }

/-- Selected member. -/
def HRC_MEMBER_STATUS : Reg :=
  { blk := .hrc, off := 0x24, ro := 0xff00ffff }

/-- Heartbeats sent. -/
def HRC_HB_SENT : Reg :=
  { blk := .hrc, off := 0x28, ro := 0xffffffff }

/-- Periods missed, all tracked peers. -/
def HRC_HB_MISSED : Reg :=
  { blk := .hrc, off := 0x2c, ro := 0xffffffff }


/-! ### Block injA (spec 26 R626) -/

/-- Armed entries, fuse. -/
def INJ_STATUS : Reg :=
  { blk := .injA, off := 0x0, ro := 0x800000ff }

/-- Events. -/
def INJ_ERR : Reg :=
  { blk := .injA, off := 0x4, w1c := 0x3 }

/-- Arming of injector i, 0–159. -/
def INJ_ARM : Reg :=
  { blk := .injA, off := 0x100, dims := [(160, 0x4)], rw := 0xc000003f }


/-! ### Block pal (spec 04 R129) -/

/-- Physical clusters that failed. -/
def PAL_CHEALTH : Reg :=
  { blk := .pal, off := 0x100, ro := 0x3ffffff }

/-- Logical-to-physical cluster map. -/
def PAL_CMAP : Reg :=
  { blk := .pal, off := 0x110, dims := [(6, 0x4)], rw := 0xffffffff, rst := 0x83828180, step := 0x4040404 }


/-! ### Block mem (spec 07 R187, 08 R211) -/

/-- Lock for RWL fields of the MEM region. -/
def MEM_LOCK : Reg :=
  { blk := .mem, off := 0x0, w1s := 0x1 }

/-- Controller state, refresh rate, temperature. -/
def MEM_STATUS : Reg :=
  { blk := .mem, off := 0x4, ro := 0xff000303 }

/-- Mode of each band. -/
def MEM_BAND_MODE : Reg :=
  { blk := .mem, off := 0x8, ro := 0xffffffff }

/-- LOCAL_BANDS and BUDDY_BANDS in force. -/
def MEM_LAYOUT : Reg :=
  { blk := .mem, off := 0xc, ro := 0x1f1f }

/-- Scrub enable and pass time. -/
def MEM_SCRUB_CTL : Reg :=
  { blk := .mem, off := 0x10, rwl := 0x800000ff, rst := 0x80000018 }

/-- Scrub position. -/
def MEM_SCRUB_POS : Reg :=
  { blk := .mem, off := 0x14, ro := 0x7ffffff }

/-- Scrub progress and passes. -/
def MEM_SCRUB_PROG : Reg :=
  { blk := .mem, off := 0x18, ro := 0xffff3fff }

/-- Error events. -/
def MEM_ERR_STATUS : Reg :=
  { blk := .mem, off := 0x20, w1c := 0x7f }

/-- Corrected errors. -/
def MEM_CE_COUNT : Reg :=
  { blk := .mem, off := 0x24, ro := 0xffffffff }

/-- Uncorrectable errors. -/
def MEM_UE_COUNT : Reg :=
  { blk := .mem, off := 0x28, ro := 0xffffffff }

/-- Last uncorrectable error, stack address [31:0]. -/
def MEM_UE_ADDR0 : Reg :=
  { blk := .mem, off := 0x2c, ro := 0xffffffff }

/-- Last uncorrectable error, remaining fields. -/
def MEM_UE_ADDR1 : Reg :=
  { blk := .mem, off := 0x30, ro := 0x1f0307 }

/-- Failed pseudo-channels. -/
def MEM_PC_FAILED : Reg :=
  { blk := .mem, off := 0x34, ro := 0xffffffff }

/-- Repair and retirement counts. -/
def MEM_REPAIR : Reg :=
  { blk := .mem, off := 0x38, ro := 0xffffffff }

/-- Slots referenced by a live table. -/
def MEM_CB_INUSE : Reg :=
  { blk := .mem, off := 0x800, rw := 0xffff }

/-- Discarded writes, uncorrectable errors, non-finite rows. -/
def MEM_CB_STATUS : Reg :=
  { blk := .mem, off := 0x804, w1c := 0xc0000000, ro := 0xfffff }

/-- Mode and output format of each slot. -/
def MEM_CB_FMT : Reg :=
  { blk := .mem, off := 0x808, rw := 0xffffffff }

/-- Soft repair entries; entry n serves pseudo-channel n ÷ 8. -/
def MEM_REMAP : Reg :=
  { blk := .mem, off := 0x1000, dims := [(256, 0x4)], rw := 0xc0fffff, wo := 0x40000000, ro := 0xa0000000 }


/-! ### Block cmp (spec 11 R297) -/

/-- Copies, drains and held records. -/
def CMP_STATUS : Reg :=
  { blk := .cmp, off := 0x0, ro := 0xffffffff }

/-- Map and placement events. -/
def CMP_ERR_STATUS : Reg :=
  { blk := .cmp, off := 0x4, w1c := 0x3f }

/-- Heat threshold, sampling, decay. -/
def CMP_HEAT_CTL : Reg :=
  { blk := .cmp, off := 0x10, rw := 0xfffff3ff, rst := 0x4008064 }

/-- Scan enable and period. -/
def CMP_SCAN_CTL : Reg :=
  { blk := .cmp, off := 0x14, rw := 0x800003ff, rst := 0x8000000a }

/-- Swatch enable, replicas, budget. -/
def CMP_SWATCH_CTL : Reg :=
  { blk := .cmp, off := 0x18, rw := 0x8000073f, rst := 0x80000210 }

/-- Migration enable, concurrency, imbalance, locality, cap. -/
def CMP_MIG_CTL : Reg :=
  { blk := .cmp, off := 0x1c, rw := 0x8fff0f1f, rst := 0x88140805 }

/-- Oversubscription and quantum. -/
def CMP_TSLICE_CTL : Reg :=
  { blk := .cmp, off := 0x20, rw := 0x8000ffff, rst := 0xa }

/-- Tier read timeout. -/
def CMP_TIER_CTL : Reg :=
  { blk := .cmp, off := 0x24, rw := 0xff, rst := 0xa }

/-- Exception entries in use. -/
def CMP_EXC_USED : Reg :=
  { blk := .cmp, off := 0x28, ro := 0x1fffff }

/-- Swatch blocks held on this palette. -/
def CMP_SWATCH_USED : Reg :=
  { blk := .cmp, off := 0x2c, ro := 0xffff }

/-- Indirect window: part and index. -/
def CMP_IND_SEL : Reg :=
  { blk := .cmp, off := 0x80, rw := 0xf0ffffff }

/-- Indirect read or write. -/
def CMP_IND_CMD : Reg :=
  { blk := .cmp, off := 0x84, wo := 0x3 }

/-- Indirect data, 32 bytes. -/
def CMP_IND_DATA : Reg :=
  { blk := .cmp, off := 0xa0, dims := [(8, 0x4)], rw := 0xffffffff }

/-- Per-slice placement policy. -/
def CMP_SLICE_POL : Reg :=
  { blk := .cmp, off := 0x100, dims := [(64, 0x4)], rw := 0x13f3ff1, rst := 0x640 }


/-! ### Block synP (spec 12 R321) -/

/-- Parking and spin limit. -/
def SYN_CTL : Reg :=
  { blk := .synP, off := 0x0, rw := 0x80ffffff, rst := 0x80000640 }

/-- Waiters, parked clusters, reports queued. -/
def SYN_STATUS : Reg :=
  { blk := .synP, off := 0x4, ro := 0x1ff1f7f }

/-- Events. -/
def SYN_ERR : Reg :=
  { blk := .synP, off := 0x8, w1c := 0x7 }

/-- Dropped reports and contributions. -/
def SYN_DROP_COUNT : Reg :=
  { blk := .synP, off := 0xc, ro := 0xffffffff }

/-- Oldest spin-limit report. -/
def SYN_RPT : Reg :=
  { blk := .synP, off := 0x10, dims := [(4, 0x4)], ro := 0xe0000fff }

/-- Removes the oldest report. -/
def SYN_RPT_POP : Reg :=
  { blk := .synP, off := 0x20, wo := 0x1 }

/-- Direct flag selection. -/
def SYN_FLAG_SEL : Reg :=
  { blk := .synP, off := 0x30, rw := 0x3ffff }

/-- Value of the selected flag. -/
def SYN_FLAG_VAL : Reg :=
  { blk := .synP, off := 0x34, ro := 0xffffffff }


/-! ### Block dma (spec 13 R340) -/

/-- Start, pause, abort, reload, descriptor space. -/
def DMA_CHAN_CTL : Reg :=
  { blk := .dma, off := 0x0, dims := [(64, 0x100)], rw := 0xc, wo := 0xc0000001 }

/-- State and events. -/
def DMA_CHAN_STATUS : Reg :=
  { blk := .dma, off := 0x4, dims := [(64, 0x100)], w1c := 0xfc00, ro := 0xff000307 }

/-- Next descriptor address [31:0]. -/
def DMA_CHAN_NEXT_LO : Reg :=
  { blk := .dma, off := 0x8, dims := [(64, 0x100)], rw := 0xffffffff }

/-- Next descriptor address [63:32]. -/
def DMA_CHAN_NEXT_HI : Reg :=
  { blk := .dma, off := 0xc, dims := [(64, 0x100)], rw := 0xffffffff }

/-- Current descriptor address [31:0]. -/
def DMA_CHAN_CUR_LO : Reg :=
  { blk := .dma, off := 0x10, dims := [(64, 0x100)], ro := 0xffffffff }

/-- Current descriptor address [63:32]. -/
def DMA_CHAN_CUR_HI : Reg :=
  { blk := .dma, off := 0x14, dims := [(64, 0x100)], ro := 0xffffffff }

/-- Bytes of the current descriptor read. -/
def DMA_CHAN_RD : Reg :=
  { blk := .dma, off := 0x18, dims := [(64, 0x100)], ro := 0xffffffff }

/-- Bytes of the current descriptor written. -/
def DMA_CHAN_WR : Reg :=
  { blk := .dma, off := 0x1c, dims := [(64, 0x100)], ro := 0xffffffff }

/-- Bytes in the holding register. -/
def DMA_CHAN_HOLD : Reg :=
  { blk := .dma, off := 0x20, dims := [(64, 0x100)], ro := 0x7f }

/-- Event enables and targets. -/
def DMA_CHAN_IRQ : Reg :=
  { blk := .dma, off := 0x24, dims := [(64, 0x100)], rw := 0xbff07fff }

/-- Owning slice and port. -/
def DMA_CHAN_OWNER : Reg :=
  { blk := .dma, off := 0x28, dims := [(64, 0x100)], rwl := 0x803f0300 }

/-- Descriptors done and bad. -/
def DMA_CHAN_COUNT : Reg :=
  { blk := .dma, off := 0x2c, dims := [(64, 0x100)], ro := 0xffffffff }

/-- Lock for RWL fields of the engine. -/
def DMA_LOCK : Reg :=
  { blk := .dma, off := 0xf000, w1s := 0x1 }


/-! ### Block brs (spec 04 R127) -/

/-- Run, encoding, return-stack mode, traps, slice, init. -/
def BRS_CTL : Reg :=
  { blk := .brs, off := 0x0, rw := 0x3f000f, wo := 0x80000000 }

/-- State and events. -/
def BRS_STATUS : Reg :=
  { blk := .brs, off := 0x4, w1c := 0x100, ro := 0x3f }

/-- Program counter. -/
def BRS_PC : Reg :=
  { blk := .brs, off := 0x8, rw := 0x3ffff }

/-- Trap handler address. -/
def BRS_TVEC : Reg :=
  { blk := .brs, off := 0xc, rw := 0x3ffff }

/-- Causes handled by the program. -/
def BRS_TMASK : Reg :=
  { blk := .brs, off := 0x10, rw := 0x3fe }

/-- Cause of the last fatal trap. -/
def BRS_FAULT : Reg :=
  { blk := .brs, off := 0x14, ro := 0x2ff }

/-- PC of the last fatal trap. -/
def BRS_FAULT_PC : Reg :=
  { blk := .brs, off := 0x18, ro := 0x3ffff }

/-- Value bits [31:0]. -/
def BRS_FAULT_VAL0 : Reg :=
  { blk := .brs, off := 0x1c, ro := 0xffffffff }

/-- Value bits [47:32]. -/
def BRS_FAULT_VAL1 : Reg :=
  { blk := .brs, off := 0x20, ro := 0xffff }

/-- Swatch area base. -/
def BRS_SWATCH : Reg :=
  { blk := .brs, off := 0x24, rw := 0x7f, rst := 0x40 }

/-- SRAM error count and flag. -/
def BRS_SRAM_ERR : Reg :=
  { blk := .brs, off := 0x28, w1c := 0x80000000, ro := 0xffff }

/-- Offset of the last uncorrectable error. -/
def BRS_SRAM_UE_ADDR : Reg :=
  { blk := .brs, off := 0x2c, ro := 0x3ffff }


/-! ### Block stg (spec 08 R211) -/

/-- Staging error events and corrected count. -/
def MEM_STG_ERR : Reg :=
  { blk := .stg, off := 0x0, w1c := 0x80000000, ro := 0xffff }

/-- Offset of the last uncorrectable error. -/
def MEM_STG_UE_ADDR : Reg :=
  { blk := .stg, off := 0x4, ro := 0x7ffffff }


/-! ### Block gu (spec 12 R323) -/

/-- Armed slots. -/
def SYN_GU_STATUS : Reg :=
  { blk := .gu, off := 0x0, ro := 0x1ffff }

/-- Slot events. -/
def SYN_GU_ERR : Reg :=
  { blk := .gu, off := 0x4, w1c := 0xf }

/-- Contributions discarded as NOT_ARMED. -/
def SYN_GU_DROP : Reg :=
  { blk := .gu, off := 0x8, ro := 0xffffffff }

/-- Slice gather-slot headers of R315. -/
def SYN_GU_HDR : Reg :=
  { blk := .gu, off := 0x20000, dims := [(4096, 0x20), (8, 0x4)], rw := 0xffffffff }


/-! ### Block synV (spec 12 R322) -/

/-- Virtual flags allocated. -/
def SYN_VF_USED : Reg :=
  { blk := .synV, off := 0x0, ro := 0x7fff }

/-- Refusals at the home. -/
def SYN_VF_ERR : Reg :=
  { blk := .synV, off := 0x4, w1c := 0x3 }

/-- Discarded SIGNALs. -/
def SYN_VF_DROP : Reg :=
  { blk := .synV, off := 0x8, ro := 0xffff }

/-- Entry selection. -/
def SYN_VF_SEL : Reg :=
  { blk := .synV, off := 0x10, rw := 0x3fff }

/-- Value of the selected flag. -/
def SYN_VF_VAL : Reg :=
  { blk := .synV, off := 0x14, ro := 0xffffffff }

/-- Translation table of R322. -/
def SYN_VF_ENT : Reg :=
  { blk := .synV, off := 0x10000, dims := [(16384, 0x8), (2, 0x4)], ro := 0xffffffff }


/-! ### Block pkt (spec 17 R441, R443, R444) -/

/-- Lock for RWL fields. -/
def PKT_LOCK : Reg :=
  { blk := .pkt, off := 0x0, w1s := 0x1 }

/-- Lane mode and maximum frame. -/
def PKT_MODE : Reg :=
  { blk := .pkt, off := 0x4, rwl := 0x3fff0003, rst := 0x24000000 }

/-- Events. -/
def PKT_ERR_STATUS : Reg :=
  { blk := .pkt, off := 0x8, w1c := 0x7 }

/-- Admission and PFC thresholds per class. -/
def PKT_CLASS_CTL : Reg :=
  { blk := .pkt, off := 0x40, dims := [(8, 0x4)], rw := 0xffffffff, rst := 0xffc080 }

/-- Receive queue destinations. -/
def PKT_QDEST : Reg :=
  { blk := .pkt, off := 0x100, dims := [(64, 0x4)], rw := 0x3 }

/-- Rule index. -/
def PKT_RULE_SEL : Reg :=
  { blk := .pkt, off := 0x200, rw := 0x3ff }

/-- Rule read, write, hit clear. -/
def PKT_RULE_CMD : Reg :=
  { blk := .pkt, off := 0x204, wo := 0x7 }

/-- Hits of the rule last read. -/
def PKT_RULE_HITS : Reg :=
  { blk := .pkt, off := 0x208, ro := 0xffffffff }

/-- Rule words. -/
def PKT_RULE_DATA : Reg :=
  { blk := .pkt, off := 0x280, dims := [(36, 0x4)], rw := 0xffffffff }

/-- Enable, negotiation, profile, PFC. -/
def PKT_PORT_CTL : Reg :=
  { blk := .pkt, off := 0x1000, dims := [(8, 0x200)], rw := 0xc1ff0000, wo := 0x20000000, rst := 0x40000000 }

/-- Presence, link, pause state. -/
def PKT_PORT_STATUS : Reg :=
  { blk := .pkt, off := 0x1004, dims := [(8, 0x200)], ro := 0xe0ffff03 }

/-- Default receive action. -/
def PKT_PORT_DEF_RX : Reg :=
  { blk := .pkt, off := 0x1008, dims := [(8, 0x200)], rw := 0xffffffff }

/-- Default transmit action. -/
def PKT_PORT_DEF_TX : Reg :=
  { blk := .pkt, off := 0x100c, dims := [(8, 0x200)], rw := 0xffffffff }

/-- Port address bytes 2–5. -/
def PKT_PORT_MAC_LO : Reg :=
  { blk := .pkt, off := 0x1010, dims := [(8, 0x200)], rw := 0xffffffff }

/-- Port address bytes 0–1. -/
def PKT_PORT_MAC_HI : Reg :=
  { blk := .pkt, off := 0x1014, dims := [(8, 0x200)], rw := 0xffffffff }

/-- Deepest points of both profiles. -/
def PKT_PORT_DEEP : Reg :=
  { blk := .pkt, off := 0x1018, dims := [(8, 0x200)], ro := 0x3ff03ff }

/-- Profile p window w at + 0x40 + p × 0x40 + w × 4. -/
def PKT_WIN : Reg :=
  { blk := .pkt, off := 0x1040, dims := [(8, 0x200), (2, 0x40), (16, 0x4)], rw := 0x800301ff }

/-- Statistics of R444, LO and HI words. -/
def PKT_STAT : Reg :=
  { blk := .pkt, off := 0x1100, dims := [(8, 0x200), (52, 0x4)], ro := 0xffffffff }


/-! ### Block sch (spec 18 R459) -/

/-- Lock for RWL fields. -/
def SCH_LOCK : Reg :=
  { blk := .sch, off := 0x0, w1s := 0x1 }

/-- Events. -/
def SCH_ERR_STATUS : Reg :=
  { blk := .sch, off := 0x4, w1c := 0x3 }

/-- Gates, switch, slice shaping, overhead. -/
def SCH_PORT_CTL : Reg :=
  { blk := .sch, off := 0x2000, dims := [(8, 0x2000)], rw := 0xc100ff3f, wo := 0x20000000, rst := 0xff14 }

/-- Bank, gate state, entry. -/
def SCH_PORT_STATUS : Reg :=
  { blk := .sch, off := 0x2004, dims := [(8, 0x2000)], ro := 0xc100ffff, rst := 0xff00 }

/-- Resynchronizations under R456. -/
def SCH_GCL_RESYNC : Reg :=
  { blk := .sch, off := 0x2008, dims := [(8, 0x2000)], ro := 0xffffffff }

/-- BASE nanoseconds, bank b. -/
def SCH_GCL_BASE_NS : Reg :=
  { blk := .sch, off := 0x2010, dims := [(8, 0x2000), (2, 0x10)], rw := 0x3fffffff }

/-- BASE seconds [31:0]. -/
def SCH_GCL_BASE_SL : Reg :=
  { blk := .sch, off := 0x2014, dims := [(8, 0x2000), (2, 0x10)], rw := 0xffffffff }

/-- BASE seconds [47:32] and LEN. -/
def SCH_GCL_BASE_SH : Reg :=
  { blk := .sch, off := 0x2018, dims := [(8, 0x2000), (2, 0x10)], rw := 0x1ffffff, rst := 0x10000 }

/-- CYCLE. -/
def SCH_GCL_CYCLE : Reg :=
  { blk := .sch, off := 0x201c, dims := [(8, 0x2000), (2, 0x10)], rw := 0x3fffffff, rst := 0xf4240 }

/-- Shaping, priority, gate, quantum. -/
def SCH_Q_CTL : Reg :=
  { blk := .sch, off := 0x2100, dims := [(8, 0x2000), (64, 0x20)], rw := 0xf700ffff, rst := 0x2400 }

/-- Rate. -/
def SCH_Q_RATE : Reg :=
  { blk := .sch, off := 0x2104, dims := [(8, 0x2000), (64, 0x20)], rw := 0xfffff }

/-- Burst. -/
def SCH_Q_BURST : Reg :=
  { blk := .sch, off := 0x2108, dims := [(8, 0x2000), (64, 0x20)], rw := 0xffffff }

/-- Admission limits. -/
def SCH_Q_LIM : Reg :=
  { blk := .sch, off := 0x210c, dims := [(8, 0x2000), (64, 0x20)], rw := 0xffffff, rst := 0x403020 }

/-- Occupancy, backlog. -/
def SCH_Q_STATUS : Reg :=
  { blk := .sch, off := 0x2110, dims := [(8, 0x2000), (64, 0x20)], ro := 0x8000ffff }

/-- Credit. -/
def SCH_Q_CREDIT : Reg :=
  { blk := .sch, off := 0x2114, dims := [(8, 0x2000), (64, 0x20)], ro := 0xffffffff }

/-- Discards. -/
def SCH_Q_DROP : Reg :=
  { blk := .sch, off := 0x2118, dims := [(8, 0x2000), (64, 0x20)], ro := 0xffffffff }

/-- Slice share. -/
def SCH_SLC_RATE : Reg :=
  { blk := .sch, off := 0x2900, dims := [(8, 0x2000), (64, 0x8)], rw := 0x3ff }

/-- Slice burst. -/
def SCH_SLC_BURST : Reg :=
  { blk := .sch, off := 0x2904, dims := [(8, 0x2000), (64, 0x8)], rw := 0xffffff }

/-- Entry interval. -/
def SCH_GCL_INTVL : Reg :=
  { blk := .sch, off := 0x3000, dims := [(8, 0x2000), (2, 0x800), (256, 0x8)], rw := 0xffffffff }

/-- Entry mask. -/
def SCH_GCL_MASK : Reg :=
  { blk := .sch, off := 0x3004, dims := [(8, 0x2000), (2, 0x800), (256, 0x8)], rw := 0xff }


/-! ### Block tmt (spec 19 R487, 20 R508) -/

/-- Lock for RWL fields. -/
def TMT_LOCK : Reg :=
  { blk := .tmt, off := 0x0, w1s := 0x1 }

/-- Enable and UDP port. -/
def TMT_CTL : Reg :=
  { blk := .tmt, off := 0x4, rwl := 0x8000ffff, rst := 0x6a14 }

/-- Initial window, ECN cut, reorder threshold. -/
def TMT_CC_CTL : Reg :=
  { blk := .tmt, off := 0x8, rw := 0x1fff0fff, rst := 0x200403 }

/-- ACK coalescing. -/
def TMT_ACK_CTL : Reg :=
  { blk := .tmt, off := 0xc, rw := 0xffffff, rst := 0x807d0 }

/-- Retransmission timeout bounds. -/
def TMT_RTO_CTL : Reg :=
  { blk := .tmt, off := 0x10, rw := 0xffffffff, rst := 0x640064 }

/-- Retry limits. -/
def TMT_RETRY_CTL : Reg :=
  { blk := .tmt, off := 0x14, rw := 0xff000f0f, rst := 0xa000707 }

/-- Events. -/
def TMT_ERR_STATUS : Reg :=
  { blk := .tmt, off := 0x20, w1c := 0x1f }

/-- Event counters. -/
def TMT_CNT_RETX : Reg :=
  { blk := .tmt, off := 0x40, ro := 0xffffffff }

/-- Event counters. -/
def TMT_CNT_RTO : Reg :=
  { blk := .tmt, off := 0x44, ro := 0xffffffff }

/-- Event counters. -/
def TMT_CNT_DUP : Reg :=
  { blk := .tmt, off := 0x48, ro := 0xffffffff }

/-- Event counters. -/
def TMT_CNT_OOW : Reg :=
  { blk := .tmt, off := 0x4c, ro := 0xffffffff }

/-- Event counters. -/
def TMT_CNT_AUTH : Reg :=
  { blk := .tmt, off := 0x50, ro := 0xffffffff }

/-- Event counters. -/
def TMT_CNT_STALE : Reg :=
  { blk := .tmt, off := 0x54, ro := 0xffffffff }

/-- Event counters. -/
def TMT_CNT_BADHDR : Reg :=
  { blk := .tmt, off := 0x58, ro := 0xffffffff }

/-- Event counters. -/
def TMT_CNT_CE : Reg :=
  { blk := .tmt, off := 0x5c, ro := 0xffffffff }

/-- Probe period and setup limit. -/
def TMT_SETUP_CTL : Reg :=
  { blk := .tmt, off := 0x100, rw := 0x3ff3fff, rst := 0x50001 }

/-- Close limit. -/
def TMT_CLOSE_CTL : Reg :=
  { blk := .tmt, off := 0x104, rw := 0xffff, rst := 0x64 }

/-- Cached and pinned contexts. -/
def TMT_CACHE_STATUS : Reg :=
  { blk := .tmt, off := 0x108, ro := 0x7ff1fff }

/-- Miss buffer use. -/
def TMT_MISS_STATUS : Reg :=
  { blk := .tmt, off := 0x10c, ro := 0x7ff0fff }

/-- Setup FIFO use. -/
def TMT_SETUP_STATUS : Reg :=
  { blk := .tmt, off := 0x110, ro := 0x1ff }

/-- Connections on this die. -/
def TMT_CONN_USED : Reg :=
  { blk := .tmt, off := 0x114, ro := 0x1ffff }

/-- Regions and retired indices. -/
def TMT_MR_USED : Reg :=
  { blk := .tmt, off := 0x118, ro := 0x7fff7fff }

/-- Events. -/
def TMT_CTX_ERR : Reg :=
  { blk := .tmt, off := 0x120, w1c := 0x7 }

/-- Counters. -/
def TMT_CNT_MISS : Reg :=
  { blk := .tmt, off := 0x140, ro := 0xffffffff }

/-- Counters. -/
def TMT_CNT_MISSDROP : Reg :=
  { blk := .tmt, off := 0x144, ro := 0xffffffff }

/-- Counters. -/
def TMT_CNT_EVICT : Reg :=
  { blk := .tmt, off := 0x148, ro := 0xffffffff }

/-- Connection selection. -/
def TMT_CONN_SEL : Reg :=
  { blk := .tmt, off := 0x160, rw := 0xffff }

/-- State of the selected connection. -/
def TMT_CONN_STATUS : Reg :=
  { blk := .tmt, off := 0x164, ro := 0xe7ffffff }


/-! ### Block cphN (spec 21 R527) -/

/-- Slot copies held. -/
def CPH_INL_STATUS : Reg :=
  { blk := .cphN, off := 0x0, ro := 0x7ff }

/-- Events. -/
def CPH_INL_ERR : Reg :=
  { blk := .cphN, off := 0x4, w1c := 0x1 }

/-- Packets sealed. -/
def CPH_INL_TX_COUNT : Reg :=
  { blk := .cphN, off := 0x8, ro := 0xffffffff }

/-- Packets opened and verified. -/
def CPH_INL_RX_COUNT : Reg :=
  { blk := .cphN, off := 0xc, ro := 0xffffffff }


/-! ### Block hif (spec 14 R370) -/

/-- Lock for RWL fields. -/
def HIF_LOCK : Reg :=
  { blk := .hif, off := 0x0, w1s := 0x1 }

/-- Speed, width, mode, power. -/
def HIF_LINK_STATUS : Reg :=
  { blk := .hif, off := 0x4, ro := 0x803f0fff }

/-- Read limit, L1 idle time. -/
def HIF_CTL : Reg :=
  { blk := .hif, off := 0x8, rwl := 0xfff000f, rst := 0xa000a }

/-- Reads outstanding and quarantined. -/
def HIF_NPR_STATUS : Reg :=
  { blk := .hif, off := 0xc, ro := 0x1fff1fff }

/-- Completion timeout override. -/
def HIF_CTO_CTL : Reg :=
  { blk := .hif, off := 0x10, rw := 0x3ffffff }

/-- Events. -/
def HIF_ERR_STATUS : Reg :=
  { blk := .hif, off := 0x20, w1c := 0x3ff }

/-- Discarded accesses. -/
def HIF_DISC_COUNT : Reg :=
  { blk := .hif, off := 0x24, ro := 0xffffffff }

/-- Timeouts. -/
def HIF_CTO_COUNT : Reg :=
  { blk := .hif, off := 0x28, ro := 0xffffffff }

/-- Unexpected completions. -/
def HIF_LATE_CPL_COUNT : Reg :=
  { blk := .hif, off := 0x2c, ro := 0xffffffff }

/-- Entry selection. -/
def HIF_MAP_SEL : Reg :=
  { blk := .hif, off := 0x40, rw := 0x80007fff }

/-- Entry read or write. -/
def HIF_MAP_CMD : Reg :=
  { blk := .hif, off := 0x44, wo := 0x3 }

/-- Entry bits [31:0]. -/
def HIF_MAP_DATA0 : Reg :=
  { blk := .hif, off := 0x48, rw := 0xffffffff }

/-- Entry bits [63:32]. -/
def HIF_MAP_DATA1 : Reg :=
  { blk := .hif, off := 0x4c, rw := 0xffffffff }


/-! ### Block slc (spec 15 R395) -/

/-- Lock for RWL fields. -/
def SLC_LOCK : Reg :=
  { blk := .slc, off := 0x0, w1s := 0x1 }

/-- Bit s: slice s not FREE, s = 0–31. -/
def SLC_ACTIVE_LO : Reg :=
  { blk := .slc, off := 0x8, ro := 0xffffffff }

/-- Same, s = 32–63. -/
def SLC_ACTIVE_HI : Reg :=
  { blk := .slc, off := 0xc, ro := 0xffffffff }

/-- Table and entry selection. -/
def SLC_MAP_SEL : Reg :=
  { blk := .slc, off := 0x10, rw := 0x80000fff }

/-- Entry read or write. -/
def SLC_MAP_CMD : Reg :=
  { blk := .slc, off := 0x14, wo := 0x3 }

/-- Entry bits [127:0]. -/
def SLC_MAP_DATA : Reg :=
  { blk := .slc, off := 0x20, dims := [(4, 0x4)], rw := 0xffffffff }

/-- Slice control. -/
def SLC_CTL : Reg :=
  { blk := .slc, off := 0x10000, dims := [(64, 0x10000)], rwl := 0xfc0787ff }

/-- State and events. -/
def SLC_STATUS : Reg :=
  { blk := .slc, off := 0x10004, dims := [(64, 0x10000)], w1c := 0xe0, ro := 0xff000017 }

/-- Generation. -/
def SLC_GEN : Reg :=
  { blk := .slc, off := 0x10008, dims := [(64, 0x10000)], ro := 0x1ff }

/-- HOLD_S and DRAIN_MS. -/
def SLC_TIMERS : Reg :=
  { blk := .slc, off := 0x1000c, dims := [(64, 0x10000)], rw := 0xfff3fff, rst := 0x1e0064 }

/-- Hold limit and use. -/
def SLC_HOLD : Reg :=
  { blk := .slc, off := 0x10010, dims := [(64, 0x10000)], rw := 0x1ff, ro := 0x1ff0000, rst := 0x10 }

/-- Logging state. -/
def SLC_DIRTY : Reg :=
  { blk := .slc, off := 0x10014, dims := [(64, 0x10000)], ro := 0xc0000001 }

/-- Late completions discarded. -/
def SLC_LATE_COUNT : Reg :=
  { blk := .slc, off := 0x10018, dims := [(64, 0x10000)], ro := 0xffffffff }

/-- Items squashed. -/
def SLC_SQUASH_COUNT : Reg :=
  { blk := .slc, off := 0x1001c, dims := [(64, 0x10000)], ro := 0xffffffff }

/-- Next fault log entry. -/
def SLC_FLOG_WR : Reg :=
  { blk := .slc, off := 0x10020, dims := [(64, 0x10000)], ro := 0xf }

/-- Fault log, four words per entry. -/
def SLC_FLOG : Reg :=
  { blk := .slc, off := 0x10100, dims := [(64, 0x10000), (64, 0x4)], ro := 0xffffffff }


/-! ### Block nvc (spec 16 R423) -/

/-- Lock for RWL fields. -/
def NVC_LOCK : Reg :=
  { blk := .nvc, off := 0x0, w1s := 0x1 }

/-- Erase rate and remote timeout. -/
def NVC_CTL : Reg :=
  { blk := .nvc, off := 0x4, rwl := 0xff00ffff, rst := 0xa000064 }

/-- Commands in progress, ready controllers. -/
def NVC_STATUS : Reg :=
  { blk := .nvc, off := 0x8, ro := 0x7fff00ff }

/-- Events. -/
def NVC_ERR_STATUS : Reg :=
  { blk := .nvc, off := 0xc, w1c := 0x1f }

/-- Owner of each controller. -/
def NVC_OWNER : Reg :=
  { blk := .nvc, off := 0x20, dims := [(8, 0x4)], rwl := 0x803f0000 }

/-- Recorded operation state. -/
def NVC_OP_STATUS : Reg :=
  { blk := .nvc, off := 0x100, dims := [(8, 0x10)], ro := 0xff00003f }

/-- Chunks done. -/
def NVC_OP_POS : Reg :=
  { blk := .nvc, off := 0x104, dims := [(8, 0x10)], ro := 0xffffffff }

/-- Chunks in all. -/
def NVC_OP_TOTAL : Reg :=
  { blk := .nvc, off := 0x108, dims := [(8, 0x10)], ro := 0xffffffff }

/-- Progress. -/
def NVC_OP_PROG : Reg :=
  { blk := .nvc, off := 0x10c, dims := [(8, 0x10)], ro := 0xffff3fff }


/-! ### Block cph (spec 21 R526) -/

/-- Lock for RWL fields. -/
def CPH_LOCK : Reg :=
  { blk := .cph, off := 0x0, w1s := 0x1 }

/-- Engine enables. -/
def CPH_CTL : Reg :=
  { blk := .cph, off := 0x4, rwl := 0xf, rst := 0xf }

/-- Slots allocated and loaded. -/
def CPH_STATUS : Reg :=
  { blk := .cph, off := 0x8, ro := 0x7ff07ff }

/-- Events. -/
def CPH_ERR_STATUS : Reg :=
  { blk := .cph, off := 0xc, w1c := 0xf }

/-- Queue and interleave use. -/
def CPH_ENG_STATUS : Reg :=
  { blk := .cph, off := 0x10, dims := [(4, 0x4)], ro := 0x807f01ff }

/-- Data processed. -/
def CPH_ENG_KIB : Reg :=
  { blk := .cph, off := 0x20, dims := [(4, 0x4)], ro := 0xffffffff }

/-- Tag mismatches. -/
def CPH_AUTH_FAIL_COUNT : Reg :=
  { blk := .cph, off := 0x30, ro := 0xffffffff }

/-- Slot selection. -/
def CPH_SLOT_SEL : Reg :=
  { blk := .cph, off := 0x40, rw := 0x7ff }

/-- Selected slot's attributes. -/
def CPH_SLOT_INFO : Reg :=
  { blk := .cph, off := 0x44, ro := 0xff3fffc0 }


/-! ### Block vrn (spec 22 R551) -/

/-- Lock for RWL fields. -/
def VRN_LOCK : Reg :=
  { blk := .vrn, off := 0x0, w1s := 0x1 }

/-- Enable, rate, period. -/
def VRN_CTL : Reg :=
  { blk := .vrn, off := 0x4, rw := 0xff00ffff, rst := 0x190001f4 }

/-- State, hold cause, protection. -/
def VRN_STATUS : Reg :=
  { blk := .vrn, off := 0x8, ro := 0xf00003ff }

/-- Events. -/
def VRN_ERR_STATUS : Reg :=
  { blk := .vrn, off := 0xc, w1c := 0x7f }

/-- Step started last. -/
def VRN_STEP_CUR : Reg :=
  { blk := .vrn, off := 0x10, ro := 0xffffffff }

/-- Newest complete buddy step. -/
def VRN_STEP_DONE : Reg :=
  { blk := .vrn, off := 0x14, ro := 0xffffffff }

/-- Newest complete persistent step. -/
def VRN_PERSIST_DONE : Reg :=
  { blk := .vrn, off := 0x18, ro := 0xffffffff }

/-- Outcome of the last step or restore. -/
def VRN_LAST : Reg :=
  { blk := .vrn, off := 0x1c, ro := 0xff3fffff }

/-- Units done. -/
def VRN_PROG_POS : Reg :=
  { blk := .vrn, off := 0x20, ro := 0xffffffff }

/-- Units in all. -/
def VRN_PROG_TOTAL : Reg :=
  { blk := .vrn, off := 0x24, ro := 0xffffffff }

/-- Progress. -/
def VRN_PROG : Reg :=
  { blk := .vrn, off := 0x28, ro := 0x3fff }

/-- Protected shards. -/
def VRN_SHARDS : Reg :=
  { blk := .vrn, off := 0x2c, ro := 0x3fffff }

/-- Own lease at the buddy. -/
def VRN_LEASE_SIZE : Reg :=
  { blk := .vrn, off := 0x30, ro := 0xffff }

/-- Free pool units in the own lease. -/
def VRN_LEASE_FREE : Reg :=
  { blk := .vrn, off := 0x34, ro := 0xffffffff }


/-! ### Block pmu (spec 25 R592, R609, R610) -/

/-- Enable, freeze, window. -/
def PMU_CTL : Reg :=
  { blk := .pmu, off := 0x0, rw := 0xc00fffff, rst := 0x800003e8 }

/-- Counter wraps. -/
def PMU_OVF : Reg :=
  { blk := .pmu, off := 0x4, w1c := 0xffff }

/-- Wrap interrupt enables. -/
def PMU_OVF_IRQ : Reg :=
  { blk := .pmu, off := 0x8, rw := 0xffff }

/-- Event, chaining, slice filter. -/
def PMU_EVSEL : Reg :=
  { blk := .pmu, off := 0x100, dims := [(16, 0x20)], rw := 0xff80ffff }

/-- Owner. -/
def PMU_OWNER : Reg :=
  { blk := .pmu, off := 0x104, dims := [(16, 0x20)], rw := 0xc000003f }

/-- Count. -/
def PMU_CNT_LO : Reg :=
  { blk := .pmu, off := 0x108, dims := [(16, 0x20)], rw := 0xffffffff }

/-- Count. -/
def PMU_CNT_HI : Reg :=
  { blk := .pmu, off := 0x10c, dims := [(16, 0x20)], rw := 0xffff }

/-- Increase in the last window. -/
def PMU_WIN_LO : Reg :=
  { blk := .pmu, off := 0x110, dims := [(16, 0x20)], ro := 0xffffffff }

/-- Increase in the last window. -/
def PMU_WIN_HI : Reg :=
  { blk := .pmu, off := 0x114, dims := [(16, 0x20)], ro := 0xffff }

/-- Device time ns; read latches seconds. -/
def PMU_TIME_NS : Reg :=
  { blk := .pmu, off := 0x400, ro := 0x3fffffff }

/-- Seconds. -/
def PMU_TIME_SL : Reg :=
  { blk := .pmu, off := 0x404, ro := 0xffffffff }

/-- Seconds. -/
def PMU_TIME_SH : Reg :=
  { blk := .pmu, off := 0x408, ro := 0xffff }

/-- Rate in force. -/
def PMU_TIME_ADJ : Reg :=
  { blk := .pmu, off := 0x40c, ro := 0xffffffff }

/-- Validity and source. -/
def PMU_TIME_STATUS : Reg :=
  { blk := .pmu, off := 0x410, ro := 0xef07ffff }

/-- Sets and steps. -/
def PMU_TIME_STEPS : Reg :=
  { blk := .pmu, off := 0x414, ro := 0xffffffff }

/-- PPS enables. -/
def PMU_PPS_CTL : Reg :=
  { blk := .pmu, off := 0x420, rw := 0xc0000000 }

/-- Last PPS_IN edge; NS read latches seconds. -/
def PMU_PPS_IN_NS : Reg :=
  { blk := .pmu, off := 0x424, ro := 0x3fffffff }

/-- Last PPS_IN edge; NS read latches seconds. -/
def PMU_PPS_IN_SL : Reg :=
  { blk := .pmu, off := 0x428, ro := 0xffffffff }

/-- Last PPS_IN edge; NS read latches seconds. -/
def PMU_PPS_IN_SH : Reg :=
  { blk := .pmu, off := 0x42c, ro := 0xffff }

/-- Events. -/
def PMU_ERR : Reg :=
  { blk := .pmu, off := 0x430, w1c := 0xf }

/-- Set state. -/
def PMU_DUMP_CTL : Reg :=
  { blk := .pmu, off := 0x1000, dims := [(16, 0x40)], ro := 0xff0003ff }

/-- Top-down slot counters of R592, LO and HI. -/
def PMU_SLOT : Reg :=
  { blk := .pmu, off := 0x1000, dims := [(24, 0x40), (4, 0x10), (2, 0x4)], ro := 0xffffffff }

/-- SEQ, total dropped, next ring offset. -/
def PMU_DUMP_SEQ : Reg :=
  { blk := .pmu, off := 0x1004, dims := [(16, 0x40)], ro := 0xffffffff }

/-- SEQ, total dropped, next ring offset. -/
def PMU_DUMP_DROP : Reg :=
  { blk := .pmu, off := 0x1008, dims := [(16, 0x40)], ro := 0xffffffff }

/-- SEQ, total dropped, next ring offset. -/
def PMU_DUMP_WR : Reg :=
  { blk := .pmu, off := 0x100c, dims := [(16, 0x40)], ro := 0xffffffff }


/-! ### Block injD (spec 26 R626) -/

/-- Kind, action, direction, pattern, unit. -/
def INJ_CTL : Reg :=
  { blk := .injD, off := 0x0, dims := [(8, 0x20)], rw := 0xfeffffff }

/-- MATCH. -/
def INJ_MATCH : Reg :=
  { blk := .injD, off := 0x4, dims := [(8, 0x20)], rw := 0xffffffff }

/-- PERIOD and COUNT. -/
def INJ_TRIG : Reg :=
  { blk := .injD, off := 0x8, dims := [(8, 0x20)], rw := 0xffffffff }

/-- PARAM. -/
def INJ_PARAM : Reg :=
  { blk := .injD, off := 0xc, dims := [(8, 0x20)], rw := 0xffff }

/-- ADDR [31:0], [47:32]. -/
def INJ_ADDR_LO : Reg :=
  { blk := .injD, off := 0x10, dims := [(8, 0x20)], rw := 0xffffffff }

/-- ADDR [31:0], [47:32]. -/
def INJ_ADDR_HI : Reg :=
  { blk := .injD, off := 0x14, dims := [(8, 0x20)], rw := 0xffff }

/-- Firings since arming. -/
def INJ_FIRED : Reg :=
  { blk := .injD, off := 0x18, dims := [(8, 0x20)], ro := 0xffff }


/-! ### Fields of block gso (spec 02 R69) -/

def GSO_LOCK_LOCK : Fld := ⟨GSO_LOCK, 0, 0⟩
def GSO_VIN_WARN_WARN_DV : Fld := ⟨GSO_VIN_WARN, 8, 0⟩
def GSO_VIN_VIN_MIN : Fld := ⟨GSO_VIN, 27, 16⟩
def GSO_VIN_VIN_NOW : Fld := ⟨GSO_VIN, 11, 0⟩
def GSO_IIN_IIN_NOW : Fld := ⟨GSO_IIN, 15, 0⟩
def GSO_PWR_CTL_VIN_MIN_CLR : Fld := ⟨GSO_PWR_CTL, 31, 31⟩
def GSO_PWR_CTL_INT_EN : Fld := ⟨GSO_PWR_CTL, 7, 3⟩
def GSO_PWR_STATUS_CFG_REJECT : Fld := ⟨GSO_PWR_STATUS, 7, 7⟩
def GSO_PWR_STATUS_OC_EVT : Fld := ⟨GSO_PWR_STATUS, 6, 6⟩
def GSO_PWR_STATUS_OV_EVT : Fld := ⟨GSO_PWR_STATUS, 5, 5⟩
def GSO_PWR_STATUS_BOR_EVT : Fld := ⟨GSO_PWR_STATUS, 4, 4⟩
def GSO_PWR_STATUS_WARN_EVT : Fld := ⟨GSO_PWR_STATUS, 3, 3⟩
def GSO_PWR_STATUS_OC_THROTTLE : Fld := ⟨GSO_PWR_STATUS, 2, 2⟩
def GSO_PWR_STATUS_VIN_STATE : Fld := ⟨GSO_PWR_STATUS, 1, 0⟩
def GSO_THERM_STATUS_COOLANT_FAULT : Fld := ⟨GSO_THERM_STATUS, 7, 7⟩
def GSO_THERM_STATUS_TRIP_EVT : Fld := ⟨GSO_THERM_STATUS, 6, 6⟩
def GSO_THERM_STATUS_CRIT_EVT : Fld := ⟨GSO_THERM_STATUS, 5, 5⟩
def GSO_THERM_STATUS_WARN_EVT : Fld := ⟨GSO_THERM_STATUS, 4, 4⟩
def GSO_THERM_STATUS_THERM_STATE : Fld := ⟨GSO_THERM_STATUS, 1, 0⟩
def GSO_THERM_HOT_COOLANT_IN : Fld := ⟨GSO_THERM_HOT, 31, 24⟩
def GSO_THERM_HOT_COOLANT_OUT : Fld := ⟨GSO_THERM_HOT, 23, 16⟩
def GSO_THERM_HOT_SENSOR : Fld := ⟨GSO_THERM_HOT, 15, 8⟩
def GSO_THERM_HOT_TEMP : Fld := ⟨GSO_THERM_HOT, 7, 0⟩
def GSO_MSTATE_BLK_NVME : Fld := ⟨GSO_MSTATE, 7, 7⟩
def GSO_MSTATE_BLK_TMT : Fld := ⟨GSO_MSTATE, 6, 6⟩
def GSO_MSTATE_BLK_HRC : Fld := ⟨GSO_MSTATE, 5, 5⟩
def GSO_MSTATE_BLK_DIS : Fld := ⟨GSO_MSTATE, 4, 4⟩
def GSO_MSTATE_STATE : Fld := ⟨GSO_MSTATE, 1, 0⟩
def GSO_MSTATE_CTL_M2_IDLE_S : Fld := ⟨GSO_MSTATE_CTL, 23, 16⟩
def GSO_MSTATE_CTL_M1_IDLE_US : Fld := ⟨GSO_MSTATE_CTL, 15, 0⟩
def GSO_CLK_CAP_BY_THERM : Fld := ⟨GSO_CLK_CAP, 10, 10⟩
def GSO_CLK_CAP_BY_CURRENT : Fld := ⟨GSO_CLK_CAP, 9, 9⟩
def GSO_CLK_CAP_BY_VIN : Fld := ⟨GSO_CLK_CAP, 8, 8⟩
def GSO_CLK_CAP_CAP : Fld := ⟨GSO_CLK_CAP, 4, 0⟩

/-! ### Fields of block atl (spec 03 R96) -/

def ATL_LOCK_LOCK : Fld := ⟨ATL_LOCK, 0, 0⟩
def ATL_BOOT_STATUS_FAIL_CODE : Fld := ⟨ATL_BOOT_STATUS, 31, 24⟩
def ATL_BOOT_STATUS_TRIAL : Fld := ⟨ATL_BOOT_STATUS, 9, 9⟩
def ATL_BOOT_STATUS_SLOT : Fld := ⟨ATL_BOOT_STATUS, 8, 8⟩
def ATL_BOOT_STATUS_STATE : Fld := ⟨ATL_BOOT_STATUS, 3, 0⟩
def ATL_RESET_CAUSE_CMD_RESET : Fld := ⟨ATL_RESET_CAUSE, 4, 4⟩
def ATL_RESET_CAUSE_MOD_RESET : Fld := ⟨ATL_RESET_CAUSE, 3, 3⟩
def ATL_RESET_CAUSE_THERM_TRIP : Fld := ⟨ATL_RESET_CAUSE, 2, 2⟩
def ATL_RESET_CAUSE_BROWNOUT : Fld := ⟨ATL_RESET_CAUSE, 1, 1⟩
def ATL_RESET_CAUSE_GESSO_POR : Fld := ⟨ATL_RESET_CAUSE, 0, 0⟩
def ATL_FW_VERSION_MAJOR : Fld := ⟨ATL_FW_VERSION, 31, 24⟩
def ATL_FW_VERSION_MINOR : Fld := ⟨ATL_FW_VERSION, 23, 16⟩
def ATL_FW_VERSION_PATCH : Fld := ⟨ATL_FW_VERSION, 15, 0⟩
def ATL_RESTART_LAST_CAUSE : Fld := ⟨ATL_RESTART, 31, 24⟩
def ATL_RESTART_RECENT : Fld := ⟨ATL_RESTART, 23, 16⟩
def ATL_RESTART_COUNT : Fld := ⟨ATL_RESTART, 15, 0⟩
def ATL_WDT_CTL_TIMEOUT_MS : Fld := ⟨ATL_WDT_CTL, 13, 0⟩
def ATL_UPD_STATUS_RESULT : Fld := ⟨ATL_UPD_STATUS, 31, 24⟩
def ATL_UPD_STATUS_USTATE : Fld := ⟨ATL_UPD_STATUS, 3, 0⟩
def ATL_UPD_PROGRESS_POS : Fld := ⟨ATL_UPD_PROGRESS, 31, 14⟩
def ATL_UPD_PROGRESS_PCT : Fld := ⟨ATL_UPD_PROGRESS, 13, 0⟩
def ATL_LOG_BASE_BASE : Fld := ⟨ATL_LOG_BASE, 27, 0⟩
def ATL_LOG_WR_WRAPS : Fld := ⟨ATL_LOG_WR, 31, 15⟩
def ATL_LOG_WR_INDEX : Fld := ⟨ATL_LOG_WR, 14, 0⟩
def ATL_TRACE_EN_EN : Fld := ⟨ATL_TRACE_EN, 31, 0⟩

/-! ### Fields of block fus (spec 26 R625) -/

def FUS_STATUS_DBG_DISABLED : Fld := ⟨FUS_STATUS, 31, 31⟩
def FUS_STATUS_INJ_DISABLED : Fld := ⟨FUS_STATUS, 30, 30⟩
def FUS_STATUS_DBG_STATE : Fld := ⟨FUS_STATUS, 29, 28⟩
def FUS_STATUS_FIELD_ERR : Fld := ⟨FUS_STATUS, 0, 0⟩
def FUS_DIE_SEL_DIE : Fld := ⟨FUS_DIE_SEL, 4, 0⟩
def FUS_DIE_LOT_LO_LOT_LO : Fld := ⟨FUS_DIE_LOT_LO, 31, 0⟩
def FUS_DIE_LOT_HI_LOT_HI : Fld := ⟨FUS_DIE_LOT_HI, 15, 0⟩
def FUS_DIE_POS_WAFER : Fld := ⟨FUS_DIE_POS, 28, 24⟩
def FUS_DIE_POS_X : Fld := ⟨FUS_DIE_POS, 15, 8⟩
def FUS_DIE_POS_Y : Fld := ⟨FUS_DIE_POS, 7, 0⟩
def FUS_DIE_INFO_ID_VALID : Fld := ⟨FUS_DIE_INFO, 31, 31⟩
def FUS_DIE_INFO_TYPE : Fld := ⟨FUS_DIE_INFO, 18, 16⟩
def FUS_DIE_INFO_FUSE_REV : Fld := ⟨FUS_DIE_INFO, 7, 0⟩
def FUS_SERIAL_LO_SERIAL : Fld := ⟨FUS_SERIAL_LO, 31, 0⟩
def FUS_SERIAL_HI_SERIAL : Fld := ⟨FUS_SERIAL_HI, 31, 0⟩
def FUS_VID_JTAG_MFR : Fld := ⟨FUS_VID, 26, 16⟩
def FUS_VID_VID : Fld := ⟨FUS_VID, 15, 0⟩
def FUS_MAC_LO_MAC_LO : Fld := ⟨FUS_MAC_LO, 31, 0⟩
def FUS_MAC_HI_MAC_HI : Fld := ⟨FUS_MAC_HI, 15, 0⟩
def FUS_SECVER_FLOOR : Fld := ⟨FUS_SECVER, 6, 0⟩
def FUS_ANCHOR_STATUS_REVOKED : Fld := ⟨FUS_ANCHOR_STATUS, 7, 4⟩
def FUS_ANCHOR_STATUS_WRITTEN : Fld := ⟨FUS_ANCHOR_STATUS, 3, 0⟩
def FUS_ANCHOR_SEL_ANCHOR : Fld := ⟨FUS_ANCHOR_SEL, 1, 0⟩
def FUS_ANCHOR_D_DIGEST : Fld := ⟨FUS_ANCHOR_D, 31, 0⟩
def FUS_DBG_CTL_CLOSE : Fld := ⟨FUS_DBG_CTL, 0, 0⟩

/-! ### Fields of block mbx (spec 24 R585) -/

def MBX_IN_WORD : Fld := ⟨MBX_IN, 31, 0⟩
def MBX_OUT_WORD : Fld := ⟨MBX_OUT, 31, 0⟩
def MBX_IN_ACK_DONE : Fld := ⟨MBX_IN_ACK, 31, 31⟩
def MBX_IN_ACK_SEQ : Fld := ⟨MBX_IN_ACK, 23, 16⟩
def MBX_IN_ACK_RC : Fld := ⟨MBX_IN_ACK, 15, 0⟩
def MBX_OUT_ACK_SEQ : Fld := ⟨MBX_OUT_ACK, 23, 16⟩
def MBX_OUT_ACK_RC : Fld := ⟨MBX_OUT_ACK, 15, 0⟩
def MBX_CH_STATUS_SECURE : Fld := ⟨MBX_CH_STATUS, 31, 31⟩
def MBX_CH_STATUS_PENDING : Fld := ⟨MBX_CH_STATUS, 15, 8⟩
def MBX_CH_STATUS_SEC_DENIED : Fld := ⟨MBX_CH_STATUS, 4, 4⟩
def MBX_CH_STATUS_SEQ_MISMATCH : Fld := ⟨MBX_CH_STATUS, 3, 3⟩
def MBX_CH_STATUS_OVERRUN : Fld := ⟨MBX_CH_STATUS, 2, 2⟩
def MBX_CH_STATUS_OUT_FULL : Fld := ⟨MBX_CH_STATUS, 1, 1⟩
def MBX_CH_STATUS_IN_FULL : Fld := ⟨MBX_CH_STATUS, 0, 0⟩
def MBX_CH_BIND_VALID : Fld := ⟨MBX_CH_BIND, 31, 31⟩
def MBX_CH_BIND_SLICE : Fld := ⟨MBX_CH_BIND, 5, 0⟩
def MBX_HB_MISSED : Fld := ⟨MBX_HB, 19, 16⟩
def MBX_HB_BEATS : Fld := ⟨MBX_HB, 15, 0⟩
def MBX_LOCK_LOCK : Fld := ⟨MBX_LOCK, 0, 0⟩
def MBX_SEC_BANKS : Fld := ⟨MBX_SEC, 9, 0⟩
def MBX_ERR_NTF_DROP : Fld := ⟨MBX_ERR, 2, 2⟩
def MBX_ERR_OVERRUN : Fld := ⟨MBX_ERR, 1, 1⟩
def MBX_ERR_SEC_DENIED : Fld := ⟨MBX_ERR, 0, 0⟩
def MBX_IN_FULL_FULL : Fld := ⟨MBX_IN_FULL, 31, 0⟩

/-! ### Fields of block lif (spec 25 R611) -/

def LIF_CAL_LO_SEC : Fld := ⟨LIF_CAL_LO, 31, 0⟩
def LIF_CAL_HI_SEC : Fld := ⟨LIF_CAL_HI, 31, 0⟩
def LIF_STATUS_CAL_VALID : Fld := ⟨LIF_STATUS, 31, 31⟩
def LIF_STATUS_REC_FAIL : Fld := ⟨LIF_STATUS, 30, 30⟩
def LIF_STATUS_DIP_PEND : Fld := ⟨LIF_STATUS, 20, 16⟩
def LIF_STATUS_REC_AGE : Fld := ⟨LIF_STATUS, 15, 0⟩
def LIF_ITEM_SEL_ITEM : Fld := ⟨LIF_ITEM_SEL, 8, 0⟩
def LIF_ITEM_LO_VALUE : Fld := ⟨LIF_ITEM_LO, 31, 0⟩
def LIF_ITEM_HI_VALUE : Fld := ⟨LIF_ITEM_HI, 31, 0⟩

/-! ### Fields of block hrc (spec 23 R569) -/

def HRC_LOCK_LOCK : Fld := ⟨HRC_LOCK, 0, 0⟩
def HRC_CTL_ISOLATE_N : Fld := ⟨HRC_CTL, 31, 24⟩
def HRC_CTL_STEP_PCT : Fld := ⟨HRC_CTL, 23, 16⟩
def HRC_CTL_FENCE_MS : Fld := ⟨HRC_CTL, 15, 0⟩
def HRC_STATUS_MEMBER : Fld := ⟨HRC_STATUS, 24, 16⟩
def HRC_STATUS_TAKEOVER : Fld := ⟨HRC_STATUS, 7, 7⟩
def HRC_STATUS_SHRINK : Fld := ⟨HRC_STATUS, 6, 6⟩
def HRC_STATUS_ROLE : Fld := ⟨HRC_STATUS, 5, 4⟩
def HRC_STATUS_STATE : Fld := ⟨HRC_STATUS, 3, 0⟩
def HRC_ERR_STATUS_CFG_REJECT : Fld := ⟨HRC_ERR_STATUS, 4, 4⟩
def HRC_ERR_STATUS_MGR_LINK_LOST : Fld := ⟨HRC_ERR_STATUS, 3, 3⟩
def HRC_ERR_STATUS_ISOLATED : Fld := ⟨HRC_ERR_STATUS, 2, 2⟩
def HRC_ERR_STATUS_FENCE_LATE : Fld := ⟨HRC_ERR_STATUS, 1, 1⟩
def HRC_ERR_STATUS_DECLARED : Fld := ⟨HRC_ERR_STATUS, 0, 0⟩
def HRC_JOB_VALUE : Fld := ⟨HRC_JOB, 31, 0⟩
def HRC_MEPOCH_VALUE : Fld := ⟨HRC_MEPOCH, 31, 0⟩
def HRC_JMAP_EPOCH_VALUE : Fld := ⟨HRC_JMAP_EPOCH, 31, 0⟩
def HRC_MEMBER_SEL_MEMBER : Fld := ⟨HRC_MEMBER_SEL, 8, 0⟩
def HRC_MEMBER_STATUS_MISSED : Fld := ⟨HRC_MEMBER_STATUS, 31, 24⟩
def HRC_MEMBER_STATUS_REASON : Fld := ⟨HRC_MEMBER_STATUS, 15, 8⟩
def HRC_MEMBER_STATUS_ROLE : Fld := ⟨HRC_MEMBER_STATUS, 7, 4⟩
def HRC_MEMBER_STATUS_STATE : Fld := ⟨HRC_MEMBER_STATUS, 3, 0⟩
def HRC_HB_SENT_COUNT : Fld := ⟨HRC_HB_SENT, 31, 0⟩
def HRC_HB_MISSED_COUNT : Fld := ⟨HRC_HB_MISSED, 31, 0⟩

/-! ### Fields of block injA (spec 26 R626) -/

def INJ_STATUS_DISABLED : Fld := ⟨INJ_STATUS, 31, 31⟩
def INJ_STATUS_ARMED : Fld := ⟨INJ_STATUS, 7, 0⟩
def INJ_ERR_FOREIGN_WR : Fld := ⟨INJ_ERR, 1, 1⟩
def INJ_ERR_SCOPE_DISARM : Fld := ⟨INJ_ERR, 0, 0⟩
def INJ_ARM_ARMED : Fld := ⟨INJ_ARM, 31, 31⟩
def INJ_ARM_DEVICE : Fld := ⟨INJ_ARM, 30, 30⟩
def INJ_ARM_SLICE : Fld := ⟨INJ_ARM, 5, 0⟩

/-! ### Fields of block pal (spec 04 R129) -/

def PAL_CHEALTH_FAILED : Fld := ⟨PAL_CHEALTH, 25, 0⟩
def PAL_CMAP_ENT3 : Fld := ⟨PAL_CMAP, 31, 24⟩
def PAL_CMAP_ENT2 : Fld := ⟨PAL_CMAP, 23, 16⟩
def PAL_CMAP_ENT1 : Fld := ⟨PAL_CMAP, 15, 8⟩
def PAL_CMAP_ENT0 : Fld := ⟨PAL_CMAP, 7, 0⟩

/-! ### Fields of block mem (spec 07 R187, 08 R211) -/

def MEM_LOCK_LOCK : Fld := ⟨MEM_LOCK, 0, 0⟩
def MEM_STATUS_TEMP : Fld := ⟨MEM_STATUS, 31, 24⟩
def MEM_STATUS_REFRESH_2X : Fld := ⟨MEM_STATUS, 9, 9⟩
def MEM_STATUS_SCRUB_ACTIVE : Fld := ⟨MEM_STATUS, 8, 8⟩
def MEM_STATUS_STATE : Fld := ⟨MEM_STATUS, 1, 0⟩
def MEM_BAND_MODE_WOVEN : Fld := ⟨MEM_BAND_MODE, 31, 0⟩
def MEM_LAYOUT_BUDDY_BANDS : Fld := ⟨MEM_LAYOUT, 12, 8⟩
def MEM_LAYOUT_LOCAL_BANDS : Fld := ⟨MEM_LAYOUT, 4, 0⟩
def MEM_SCRUB_CTL_EN : Fld := ⟨MEM_SCRUB_CTL, 31, 31⟩
def MEM_SCRUB_CTL_PASS_HOURS : Fld := ⟨MEM_SCRUB_CTL, 7, 0⟩
def MEM_SCRUB_POS_POS : Fld := ⟨MEM_SCRUB_POS, 26, 0⟩
def MEM_SCRUB_PROG_PASSES : Fld := ⟨MEM_SCRUB_PROG, 31, 16⟩
def MEM_SCRUB_PROG_PCT : Fld := ⟨MEM_SCRUB_PROG, 13, 0⟩
def MEM_ERR_STATUS_REMAP_REJECT : Fld := ⟨MEM_ERR_STATUS, 6, 6⟩
def MEM_ERR_STATUS_PC_FAIL : Fld := ⟨MEM_ERR_STATUS, 5, 5⟩
def MEM_ERR_STATUS_RETIRED : Fld := ⟨MEM_ERR_STATUS, 4, 4⟩
def MEM_ERR_STATUS_POISON_WR : Fld := ⟨MEM_ERR_STATUS, 3, 3⟩
def MEM_ERR_STATUS_SCRUB_UE : Fld := ⟨MEM_ERR_STATUS, 2, 2⟩
def MEM_ERR_STATUS_UE : Fld := ⟨MEM_ERR_STATUS, 1, 1⟩
def MEM_ERR_STATUS_CE : Fld := ⟨MEM_ERR_STATUS, 0, 0⟩
def MEM_CE_COUNT_COUNT : Fld := ⟨MEM_CE_COUNT, 31, 0⟩
def MEM_UE_COUNT_COUNT : Fld := ⟨MEM_UE_COUNT, 31, 0⟩
def MEM_UE_ADDR0_ADDR_LO : Fld := ⟨MEM_UE_ADDR0, 31, 0⟩
def MEM_UE_ADDR1_PC : Fld := ⟨MEM_UE_ADDR1, 20, 16⟩
def MEM_UE_ADDR1_SOURCE : Fld := ⟨MEM_UE_ADDR1, 9, 8⟩
def MEM_UE_ADDR1_ADDR_HI : Fld := ⟨MEM_UE_ADDR1, 2, 0⟩
def MEM_PC_FAILED_FAILED : Fld := ⟨MEM_PC_FAILED, 31, 0⟩
def MEM_REPAIR_SOFT_USED : Fld := ⟨MEM_REPAIR, 31, 23⟩
def MEM_REPAIR_LANES : Fld := ⟨MEM_REPAIR, 22, 16⟩
def MEM_REPAIR_RETIRED : Fld := ⟨MEM_REPAIR, 15, 0⟩
def MEM_CB_INUSE_INUSE : Fld := ⟨MEM_CB_INUSE, 15, 0⟩
def MEM_CB_STATUS_WR_DISCARD : Fld := ⟨MEM_CB_STATUS, 31, 31⟩
def MEM_CB_STATUS_CB_UE : Fld := ⟨MEM_CB_STATUS, 30, 30⟩
def MEM_CB_STATUS_UE_SLOT : Fld := ⟨MEM_CB_STATUS, 19, 16⟩
def MEM_CB_STATUS_NONFINITE : Fld := ⟨MEM_CB_STATUS, 15, 0⟩
def MEM_CB_FMT_FMT0 : Fld := ⟨MEM_CB_FMT, 1, 0⟩
def MEM_CB_FMT_FMT1 : Fld := ⟨MEM_CB_FMT, 3, 2⟩
def MEM_CB_FMT_FMT2 : Fld := ⟨MEM_CB_FMT, 5, 4⟩
def MEM_CB_FMT_FMT3 : Fld := ⟨MEM_CB_FMT, 7, 6⟩
def MEM_CB_FMT_FMT4 : Fld := ⟨MEM_CB_FMT, 9, 8⟩
def MEM_CB_FMT_FMT5 : Fld := ⟨MEM_CB_FMT, 11, 10⟩
def MEM_CB_FMT_FMT6 : Fld := ⟨MEM_CB_FMT, 13, 12⟩
def MEM_CB_FMT_FMT7 : Fld := ⟨MEM_CB_FMT, 15, 14⟩
def MEM_CB_FMT_FMT8 : Fld := ⟨MEM_CB_FMT, 17, 16⟩
def MEM_CB_FMT_FMT9 : Fld := ⟨MEM_CB_FMT, 19, 18⟩
def MEM_CB_FMT_FMT10 : Fld := ⟨MEM_CB_FMT, 21, 20⟩
def MEM_CB_FMT_FMT11 : Fld := ⟨MEM_CB_FMT, 23, 22⟩
def MEM_CB_FMT_FMT12 : Fld := ⟨MEM_CB_FMT, 25, 24⟩
def MEM_CB_FMT_FMT13 : Fld := ⟨MEM_CB_FMT, 27, 26⟩
def MEM_CB_FMT_FMT14 : Fld := ⟨MEM_CB_FMT, 29, 28⟩
def MEM_CB_FMT_FMT15 : Fld := ⟨MEM_CB_FMT, 31, 30⟩
def MEM_REMAP_VALID : Fld := ⟨MEM_REMAP, 31, 31⟩
def MEM_REMAP_REQ : Fld := ⟨MEM_REMAP, 30, 30⟩
def MEM_REMAP_BUSY : Fld := ⟨MEM_REMAP, 29, 29⟩
def MEM_REMAP_SPARE : Fld := ⟨MEM_REMAP, 27, 26⟩
def MEM_REMAP_BANK : Fld := ⟨MEM_REMAP, 19, 16⟩
def MEM_REMAP_ROW : Fld := ⟨MEM_REMAP, 15, 0⟩

/-! ### Fields of block cmp (spec 11 R297) -/

def CMP_STATUS_HELD : Fld := ⟨CMP_STATUS, 31, 16⟩
def CMP_STATUS_DRAINS : Fld := ⟨CMP_STATUS, 15, 8⟩
def CMP_STATUS_ACTIVE : Fld := ⟨CMP_STATUS, 7, 0⟩
def CMP_ERR_STATUS_CFG_REJECT : Fld := ⟨CMP_ERR_STATUS, 5, 5⟩
def CMP_ERR_STATUS_TIER_UNREACH : Fld := ⟨CMP_ERR_STATUS, 4, 4⟩
def CMP_ERR_STATUS_MIG_ABANDON : Fld := ⟨CMP_ERR_STATUS, 3, 3⟩
def CMP_ERR_STATUS_MAP_LOST : Fld := ⟨CMP_ERR_STATUS, 2, 2⟩
def CMP_ERR_STATUS_MAP_UE : Fld := ⟨CMP_ERR_STATUS, 1, 1⟩
def CMP_ERR_STATUS_EXC_FULL : Fld := ⟨CMP_ERR_STATUS, 0, 0⟩
def CMP_HEAT_CTL_HOT_THRESH : Fld := ⟨CMP_HEAT_CTL, 31, 16⟩
def CMP_HEAT_CTL_SAMPLE : Fld := ⟨CMP_HEAT_CTL, 15, 12⟩
def CMP_HEAT_CTL_DECAY_MS : Fld := ⟨CMP_HEAT_CTL, 9, 0⟩
def CMP_SCAN_CTL_EN : Fld := ⟨CMP_SCAN_CTL, 31, 31⟩
def CMP_SCAN_CTL_SCAN_MS : Fld := ⟨CMP_SCAN_CTL, 9, 0⟩
def CMP_SWATCH_CTL_EN : Fld := ⟨CMP_SWATCH_CTL, 31, 31⟩
def CMP_SWATCH_CTL_MAXREP : Fld := ⟨CMP_SWATCH_CTL, 10, 8⟩
def CMP_SWATCH_CTL_BUDGET : Fld := ⟨CMP_SWATCH_CTL, 5, 0⟩
def CMP_MIG_CTL_EN : Fld := ⟨CMP_MIG_CTL, 31, 31⟩
def CMP_MIG_CTL_MAX_ACTIVE : Fld := ⟨CMP_MIG_CTL, 27, 24⟩
def CMP_MIG_CTL_IMBAL_PCT : Fld := ⟨CMP_MIG_CTL, 23, 16⟩
def CMP_MIG_CTL_LOCW : Fld := ⟨CMP_MIG_CTL, 11, 8⟩
def CMP_MIG_CTL_CAP_PCT : Fld := ⟨CMP_MIG_CTL, 4, 0⟩
def CMP_TSLICE_CTL_OVERSUB : Fld := ⟨CMP_TSLICE_CTL, 31, 31⟩
def CMP_TSLICE_CTL_QUANTUM_MS : Fld := ⟨CMP_TSLICE_CTL, 15, 0⟩
def CMP_TIER_CTL_TIMEOUT_MS : Fld := ⟨CMP_TIER_CTL, 7, 0⟩
def CMP_EXC_USED_USED : Fld := ⟨CMP_EXC_USED, 20, 0⟩
def CMP_SWATCH_USED_BLOCKS : Fld := ⟨CMP_SWATCH_USED, 15, 0⟩
def CMP_IND_SEL_PART : Fld := ⟨CMP_IND_SEL, 31, 28⟩
def CMP_IND_SEL_INDEX : Fld := ⟨CMP_IND_SEL, 23, 0⟩
def CMP_IND_CMD_WRITE : Fld := ⟨CMP_IND_CMD, 1, 1⟩
def CMP_IND_CMD_READ : Fld := ⟨CMP_IND_CMD, 0, 0⟩
def CMP_IND_DATA_DATA : Fld := ⟨CMP_IND_DATA, 31, 0⟩
def CMP_SLICE_POL_PIN_PLACE : Fld := ⟨CMP_SLICE_POL, 24, 24⟩
def CMP_SLICE_POL_T3_NS : Fld := ⟨CMP_SLICE_POL, 21, 16⟩
def CMP_SLICE_POL_SPILL : Fld := ⟨CMP_SLICE_POL, 13, 12⟩
def CMP_SLICE_POL_SWATCH_PCT : Fld := ⟨CMP_SLICE_POL, 11, 4⟩
def CMP_SLICE_POL_PIN_CLUSTERS : Fld := ⟨CMP_SLICE_POL, 0, 0⟩

/-! ### Fields of block synP (spec 12 R321) -/

def SYN_CTL_PARK_EN : Fld := ⟨SYN_CTL, 31, 31⟩
def SYN_CTL_SPIN_LIMIT : Fld := ⟨SYN_CTL, 23, 0⟩
def SYN_STATUS_WAITERS : Fld := ⟨SYN_STATUS, 24, 16⟩
def SYN_STATUS_PARKED : Fld := ⟨SYN_STATUS, 12, 8⟩
def SYN_STATUS_RPT_PEND : Fld := ⟨SYN_STATUS, 6, 0⟩
def SYN_ERR_SIG_HOLD : Fld := ⟨SYN_ERR, 2, 2⟩
def SYN_ERR_RPT_DROP : Fld := ⟨SYN_ERR, 1, 1⟩
def SYN_ERR_GATHER_DROP : Fld := ⟨SYN_ERR, 0, 0⟩
def SYN_DROP_COUNT_RPT : Fld := ⟨SYN_DROP_COUNT, 31, 16⟩
def SYN_DROP_COUNT_GATHER : Fld := ⟨SYN_DROP_COUNT, 15, 0⟩
def SYN_RPT_VALID : Fld := ⟨SYN_RPT, 31, 31⟩
def SYN_RPT_DEC : Fld := ⟨SYN_RPT, 30, 30⟩
def SYN_RPT_VIRT : Fld := ⟨SYN_RPT, 29, 29⟩
def SYN_RPT_BID : Fld := ⟨SYN_RPT, 11, 0⟩
def SYN_RPT_POP_POP : Fld := ⟨SYN_RPT_POP, 0, 0⟩
def SYN_FLAG_SEL_ID : Fld := ⟨SYN_FLAG_SEL, 17, 6⟩
def SYN_FLAG_SEL_INDEX : Fld := ⟨SYN_FLAG_SEL, 5, 0⟩
def SYN_FLAG_VAL_VALUE : Fld := ⟨SYN_FLAG_VAL, 31, 0⟩

/-! ### Fields of block dma (spec 13 R340) -/

def DMA_CHAN_CTL_ABORT : Fld := ⟨DMA_CHAN_CTL, 31, 31⟩
def DMA_CHAN_CTL_RELOAD : Fld := ⟨DMA_CHAN_CTL, 30, 30⟩
def DMA_CHAN_CTL_DHOST : Fld := ⟨DMA_CHAN_CTL, 3, 3⟩
def DMA_CHAN_CTL_PAUSE : Fld := ⟨DMA_CHAN_CTL, 2, 2⟩
def DMA_CHAN_CTL_START : Fld := ⟨DMA_CHAN_CTL, 0, 0⟩
def DMA_CHAN_STATUS_LAST_CODE : Fld := ⟨DMA_CHAN_STATUS, 31, 24⟩
def DMA_CHAN_STATUS_LINK_FAULT : Fld := ⟨DMA_CHAN_STATUS, 15, 15⟩
def DMA_CHAN_STATUS_CTL_IGNORED : Fld := ⟨DMA_CHAN_STATUS, 14, 14⟩
def DMA_CHAN_STATUS_PAUSED_EVT : Fld := ⟨DMA_CHAN_STATUS, 13, 13⟩
def DMA_CHAN_STATUS_CHAIN_END : Fld := ⟨DMA_CHAN_STATUS, 12, 12⟩
def DMA_CHAN_STATUS_DESC_BAD : Fld := ⟨DMA_CHAN_STATUS, 11, 11⟩
def DMA_CHAN_STATUS_DESC_DONE : Fld := ⟨DMA_CHAN_STATUS, 10, 10⟩
def DMA_CHAN_STATUS_BETWEEN : Fld := ⟨DMA_CHAN_STATUS, 9, 9⟩
def DMA_CHAN_STATUS_RELOAD_PEND : Fld := ⟨DMA_CHAN_STATUS, 8, 8⟩
def DMA_CHAN_STATUS_STATE : Fld := ⟨DMA_CHAN_STATUS, 2, 0⟩
def DMA_CHAN_NEXT_LO_ADDR : Fld := ⟨DMA_CHAN_NEXT_LO, 31, 0⟩
def DMA_CHAN_NEXT_HI_ADDR : Fld := ⟨DMA_CHAN_NEXT_HI, 31, 0⟩
def DMA_CHAN_CUR_LO_ADDR : Fld := ⟨DMA_CHAN_CUR_LO, 31, 0⟩
def DMA_CHAN_CUR_HI_ADDR : Fld := ⟨DMA_CHAN_CUR_HI, 31, 0⟩
def DMA_CHAN_RD_BYTES : Fld := ⟨DMA_CHAN_RD, 31, 0⟩
def DMA_CHAN_WR_BYTES : Fld := ⟨DMA_CHAN_WR, 31, 0⟩
def DMA_CHAN_HOLD_BYTES : Fld := ⟨DMA_CHAN_HOLD, 6, 0⟩
def DMA_CHAN_IRQ_FLAG_EN : Fld := ⟨DMA_CHAN_IRQ, 31, 31⟩
def DMA_CHAN_IRQ_CORE : Fld := ⟨DMA_CHAN_IRQ, 29, 26⟩
def DMA_CHAN_IRQ_INDEX : Fld := ⟨DMA_CHAN_IRQ, 25, 20⟩
def DMA_CHAN_IRQ_VECTOR : Fld := ⟨DMA_CHAN_IRQ, 14, 4⟩
def DMA_CHAN_IRQ_EN_PAUSED : Fld := ⟨DMA_CHAN_IRQ, 3, 3⟩
def DMA_CHAN_IRQ_EN_END : Fld := ⟨DMA_CHAN_IRQ, 2, 2⟩
def DMA_CHAN_IRQ_EN_BAD : Fld := ⟨DMA_CHAN_IRQ, 1, 1⟩
def DMA_CHAN_IRQ_EN_DONE : Fld := ⟨DMA_CHAN_IRQ, 0, 0⟩
def DMA_CHAN_OWNER_VALID : Fld := ⟨DMA_CHAN_OWNER, 31, 31⟩
def DMA_CHAN_OWNER_SLICE : Fld := ⟨DMA_CHAN_OWNER, 21, 16⟩
def DMA_CHAN_OWNER_PORT : Fld := ⟨DMA_CHAN_OWNER, 9, 8⟩
def DMA_CHAN_COUNT_BAD : Fld := ⟨DMA_CHAN_COUNT, 31, 16⟩
def DMA_CHAN_COUNT_DONE : Fld := ⟨DMA_CHAN_COUNT, 15, 0⟩
def DMA_LOCK_LOCK : Fld := ⟨DMA_LOCK, 0, 0⟩

/-! ### Fields of block brs (spec 04 R127) -/

def BRS_CTL_INIT : Fld := ⟨BRS_CTL, 31, 31⟩
def BRS_CTL_SLICE : Fld := ⟨BRS_CTL, 21, 16⟩
def BRS_CTL_TRAP_EN : Fld := ⟨BRS_CTL, 3, 3⟩
def BRS_CTL_RSTK_MODE : Fld := ⟨BRS_CTL, 2, 2⟩
def BRS_CTL_ENC : Fld := ⟨BRS_CTL, 1, 1⟩
def BRS_CTL_RUN : Fld := ⟨BRS_CTL, 0, 0⟩
def BRS_STATUS_CTL_IGNORED : Fld := ⟨BRS_STATUS, 8, 8⟩
def BRS_STATUS_SPIN : Fld := ⟨BRS_STATUS, 5, 5⟩
def BRS_STATUS_HOLD : Fld := ⟨BRS_STATUS, 4, 4⟩
def BRS_STATUS_STATE : Fld := ⟨BRS_STATUS, 3, 0⟩
def BRS_PC_PC : Fld := ⟨BRS_PC, 17, 0⟩
def BRS_TVEC_ADDR : Fld := ⟨BRS_TVEC, 17, 0⟩
def BRS_TMASK_HANDLE : Fld := ⟨BRS_TMASK, 9, 1⟩
def BRS_FAULT_IN_HANDLER : Fld := ⟨BRS_FAULT, 9, 9⟩
def BRS_FAULT_CAUSE : Fld := ⟨BRS_FAULT, 7, 0⟩
def BRS_FAULT_PC_PC : Fld := ⟨BRS_FAULT_PC, 17, 0⟩
def BRS_FAULT_VAL0_VAL_LO : Fld := ⟨BRS_FAULT_VAL0, 31, 0⟩
def BRS_FAULT_VAL1_VAL_HI : Fld := ⟨BRS_FAULT_VAL1, 15, 0⟩
def BRS_SWATCH_BASE : Fld := ⟨BRS_SWATCH, 6, 0⟩
def BRS_SRAM_ERR_UE : Fld := ⟨BRS_SRAM_ERR, 31, 31⟩
def BRS_SRAM_ERR_CE_COUNT : Fld := ⟨BRS_SRAM_ERR, 15, 0⟩
def BRS_SRAM_UE_ADDR_OFFSET : Fld := ⟨BRS_SRAM_UE_ADDR, 17, 0⟩

/-! ### Fields of block stg (spec 08 R211) -/

def MEM_STG_ERR_UE : Fld := ⟨MEM_STG_ERR, 31, 31⟩
def MEM_STG_ERR_CE_COUNT : Fld := ⟨MEM_STG_ERR, 15, 0⟩
def MEM_STG_UE_ADDR_OFFSET : Fld := ⟨MEM_STG_UE_ADDR, 26, 0⟩

/-! ### Fields of block gu (spec 12 R323) -/

def SYN_GU_STATUS_ARMED : Fld := ⟨SYN_GU_STATUS, 16, 0⟩
def SYN_GU_ERR_HDR_REJECT : Fld := ⟨SYN_GU_ERR, 3, 3⟩
def SYN_GU_ERR_RANK_DUP : Fld := ⟨SYN_GU_ERR, 2, 2⟩
def SYN_GU_ERR_BOUNDS : Fld := ⟨SYN_GU_ERR, 1, 1⟩
def SYN_GU_ERR_NOT_ARMED : Fld := ⟨SYN_GU_ERR, 0, 0⟩
def SYN_GU_DROP_COUNT : Fld := ⟨SYN_GU_DROP, 31, 0⟩

/-! ### Fields of block synV (spec 12 R322) -/

def SYN_VF_USED_USED : Fld := ⟨SYN_VF_USED, 14, 0⟩
def SYN_VF_ERR_WAIT_REFUSED : Fld := ⟨SYN_VF_ERR, 1, 1⟩
def SYN_VF_ERR_SIG_DROP : Fld := ⟨SYN_VF_ERR, 0, 0⟩
def SYN_VF_DROP_COUNT : Fld := ⟨SYN_VF_DROP, 15, 0⟩
def SYN_VF_SEL_INDEX : Fld := ⟨SYN_VF_SEL, 13, 0⟩
def SYN_VF_VAL_VALUE : Fld := ⟨SYN_VF_VAL, 31, 0⟩

/-! ### Fields of block pkt (spec 17 R441, R443, R444) -/

def PKT_LOCK_LOCK : Fld := ⟨PKT_LOCK, 0, 0⟩
def PKT_MODE_MAX_FRAME : Fld := ⟨PKT_MODE, 29, 16⟩
def PKT_MODE_MODE : Fld := ⟨PKT_MODE, 1, 0⟩
def PKT_ERR_STATUS_MGMT_DROP : Fld := ⟨PKT_ERR_STATUS, 2, 2⟩
def PKT_ERR_STATUS_BUF_FULL : Fld := ⟨PKT_ERR_STATUS, 1, 1⟩
def PKT_ERR_STATUS_CFG_REJECT : Fld := ⟨PKT_ERR_STATUS, 0, 0⟩
def PKT_CLASS_CTL_XOFF : Fld := ⟨PKT_CLASS_CTL, 31, 24⟩
def PKT_CLASS_CTL_GRN_LIM : Fld := ⟨PKT_CLASS_CTL, 23, 16⟩
def PKT_CLASS_CTL_YEL_LIM : Fld := ⟨PKT_CLASS_CTL, 15, 8⟩
def PKT_CLASS_CTL_RED_LIM : Fld := ⟨PKT_CLASS_CTL, 7, 0⟩
def PKT_QDEST_DEST : Fld := ⟨PKT_QDEST, 1, 0⟩
def PKT_RULE_SEL_INDEX : Fld := ⟨PKT_RULE_SEL, 9, 0⟩
def PKT_RULE_CMD_CLRHITS : Fld := ⟨PKT_RULE_CMD, 2, 2⟩
def PKT_RULE_CMD_WRITE : Fld := ⟨PKT_RULE_CMD, 1, 1⟩
def PKT_RULE_CMD_READ : Fld := ⟨PKT_RULE_CMD, 0, 0⟩
def PKT_RULE_HITS_HITS : Fld := ⟨PKT_RULE_HITS, 31, 0⟩
def PKT_RULE_DATA_DATA : Fld := ⟨PKT_RULE_DATA, 31, 0⟩
def PKT_PORT_CTL_EN : Fld := ⟨PKT_PORT_CTL, 31, 31⟩
def PKT_PORT_CTL_AN : Fld := ⟨PKT_PORT_CTL, 30, 30⟩
def PKT_PORT_CTL_STAT_CLR : Fld := ⟨PKT_PORT_CTL, 29, 29⟩
def PKT_PORT_CTL_PROF : Fld := ⟨PKT_PORT_CTL, 24, 24⟩
def PKT_PORT_CTL_PFC_EN : Fld := ⟨PKT_PORT_CTL, 23, 16⟩
def PKT_PORT_STATUS_PRESENT : Fld := ⟨PKT_PORT_STATUS, 31, 31⟩
def PKT_PORT_STATUS_UP : Fld := ⟨PKT_PORT_STATUS, 30, 30⟩
def PKT_PORT_STATUS_FEC_LOCK : Fld := ⟨PKT_PORT_STATUS, 29, 29⟩
def PKT_PORT_STATUS_PAUSED : Fld := ⟨PKT_PORT_STATUS, 23, 16⟩
def PKT_PORT_STATUS_XOFF_SENT : Fld := ⟨PKT_PORT_STATUS, 15, 8⟩
def PKT_PORT_STATUS_SPEED : Fld := ⟨PKT_PORT_STATUS, 1, 0⟩
def PKT_PORT_DEF_RX_ACTION : Fld := ⟨PKT_PORT_DEF_RX, 31, 0⟩
def PKT_PORT_DEF_TX_ACTION : Fld := ⟨PKT_PORT_DEF_TX, 31, 0⟩
def PKT_PORT_MAC_LO_ADDR : Fld := ⟨PKT_PORT_MAC_LO, 31, 0⟩
def PKT_PORT_MAC_HI_ADDR : Fld := ⟨PKT_PORT_MAC_HI, 31, 0⟩
def PKT_PORT_DEEP_DEEP1 : Fld := ⟨PKT_PORT_DEEP, 25, 16⟩
def PKT_PORT_DEEP_DEEP0 : Fld := ⟨PKT_PORT_DEEP, 9, 0⟩
def PKT_WIN_EN : Fld := ⟨PKT_WIN, 31, 31⟩
def PKT_WIN_WIDTH : Fld := ⟨PKT_WIN, 17, 16⟩
def PKT_WIN_OFFSET : Fld := ⟨PKT_WIN, 8, 0⟩

/-! ### Fields of block sch (spec 18 R459) -/

def SCH_LOCK_LOCK : Fld := ⟨SCH_LOCK, 0, 0⟩
def SCH_ERR_STATUS_GCL_WAIT : Fld := ⟨SCH_ERR_STATUS, 1, 1⟩
def SCH_ERR_STATUS_CFG_REJECT : Fld := ⟨SCH_ERR_STATUS, 0, 0⟩
def SCH_PORT_CTL_GATE_EN : Fld := ⟨SCH_PORT_CTL, 31, 31⟩
def SCH_PORT_CTL_SLC_SHAPE_EN : Fld := ⟨SCH_PORT_CTL, 30, 30⟩
def SCH_PORT_CTL_SWITCH : Fld := ⟨SCH_PORT_CTL, 29, 29⟩
def SCH_PORT_CTL_ADMIN_BANK : Fld := ⟨SCH_PORT_CTL, 24, 24⟩
def SCH_PORT_CTL_IDLE_MASK : Fld := ⟨SCH_PORT_CTL, 15, 8⟩
def SCH_PORT_CTL_OVERHEAD : Fld := ⟨SCH_PORT_CTL, 5, 0⟩
def SCH_PORT_STATUS_RUNNING : Fld := ⟨SCH_PORT_STATUS, 31, 31⟩
def SCH_PORT_STATUS_SWITCH_PEND : Fld := ⟨SCH_PORT_STATUS, 30, 30⟩
def SCH_PORT_STATUS_OPER_BANK : Fld := ⟨SCH_PORT_STATUS, 24, 24⟩
def SCH_PORT_STATUS_GATES : Fld := ⟨SCH_PORT_STATUS, 15, 8⟩
def SCH_PORT_STATUS_ENTRY : Fld := ⟨SCH_PORT_STATUS, 7, 0⟩
def SCH_GCL_RESYNC_COUNT : Fld := ⟨SCH_GCL_RESYNC, 31, 0⟩
def SCH_GCL_BASE_NS_NS : Fld := ⟨SCH_GCL_BASE_NS, 29, 0⟩
def SCH_GCL_BASE_SL_SEC_LO : Fld := ⟨SCH_GCL_BASE_SL, 31, 0⟩
def SCH_GCL_BASE_SH_LEN : Fld := ⟨SCH_GCL_BASE_SH, 24, 16⟩
def SCH_GCL_BASE_SH_SEC_HI : Fld := ⟨SCH_GCL_BASE_SH, 15, 0⟩
def SCH_GCL_CYCLE_CYCLE_NS : Fld := ⟨SCH_GCL_CYCLE, 29, 0⟩
def SCH_Q_CTL_SHAPE : Fld := ⟨SCH_Q_CTL, 31, 31⟩
def SCH_Q_CTL_PRIO : Fld := ⟨SCH_Q_CTL, 30, 28⟩
def SCH_Q_CTL_GATE : Fld := ⟨SCH_Q_CTL, 26, 24⟩
def SCH_Q_CTL_QUANTUM : Fld := ⟨SCH_Q_CTL, 15, 0⟩
def SCH_Q_RATE_RATE_MBPS : Fld := ⟨SCH_Q_RATE, 19, 0⟩
def SCH_Q_BURST_BURST : Fld := ⟨SCH_Q_BURST, 23, 0⟩
def SCH_Q_LIM_GRN : Fld := ⟨SCH_Q_LIM, 23, 16⟩
def SCH_Q_LIM_YEL : Fld := ⟨SCH_Q_LIM, 15, 8⟩
def SCH_Q_LIM_RED : Fld := ⟨SCH_Q_LIM, 7, 0⟩
def SCH_Q_STATUS_BACKLOG : Fld := ⟨SCH_Q_STATUS, 31, 31⟩
def SCH_Q_STATUS_OCC : Fld := ⟨SCH_Q_STATUS, 15, 0⟩
def SCH_Q_CREDIT_CREDIT : Fld := ⟨SCH_Q_CREDIT, 31, 0⟩
def SCH_Q_DROP_COUNT : Fld := ⟨SCH_Q_DROP, 31, 0⟩
def SCH_SLC_RATE_SHARE : Fld := ⟨SCH_SLC_RATE, 9, 0⟩
def SCH_SLC_BURST_BURST : Fld := ⟨SCH_SLC_BURST, 23, 0⟩
def SCH_GCL_INTVL_NS : Fld := ⟨SCH_GCL_INTVL, 31, 0⟩
def SCH_GCL_MASK_MASK : Fld := ⟨SCH_GCL_MASK, 7, 0⟩

/-! ### Fields of block tmt (spec 19 R487, 20 R508) -/

def TMT_LOCK_LOCK : Fld := ⟨TMT_LOCK, 0, 0⟩
def TMT_CTL_EN : Fld := ⟨TMT_CTL, 31, 31⟩
def TMT_CTL_UDP_PORT : Fld := ⟨TMT_CTL, 15, 0⟩
def TMT_CC_CTL_INIT_CWND : Fld := ⟨TMT_CC_CTL, 28, 16⟩
def TMT_CC_CTL_ECN_CUT : Fld := ⟨TMT_CC_CTL, 11, 8⟩
def TMT_CC_CTL_REORDER : Fld := ⟨TMT_CC_CTL, 7, 0⟩
def TMT_ACK_CTL_ACK_EVERY : Fld := ⟨TMT_ACK_CTL, 23, 16⟩
def TMT_ACK_CTL_ACK_DELAY_NS : Fld := ⟨TMT_ACK_CTL, 15, 0⟩
def TMT_RTO_CTL_RTO_MAX_MS : Fld := ⟨TMT_RTO_CTL, 31, 16⟩
def TMT_RTO_CTL_RTO_MIN_US : Fld := ⟨TMT_RTO_CTL, 15, 0⟩
def TMT_RETRY_CTL_RNR_US : Fld := ⟨TMT_RETRY_CTL, 31, 24⟩
def TMT_RETRY_CTL_RNR_RETRY : Fld := ⟨TMT_RETRY_CTL, 11, 8⟩
def TMT_RETRY_CTL_RETRY_MAX : Fld := ⟨TMT_RETRY_CTL, 3, 0⟩
def TMT_ERR_STATUS_CFG_REJECT : Fld := ⟨TMT_ERR_STATUS, 4, 4⟩
def TMT_ERR_STATUS_CONN_FAIL : Fld := ⟨TMT_ERR_STATUS, 3, 3⟩
def TMT_ERR_STATUS_AUTH_FAIL : Fld := ⟨TMT_ERR_STATUS, 2, 2⟩
def TMT_ERR_STATUS_STALE : Fld := ⟨TMT_ERR_STATUS, 1, 1⟩
def TMT_ERR_STATUS_OOW : Fld := ⟨TMT_ERR_STATUS, 0, 0⟩
def TMT_CNT_RETX_COUNT : Fld := ⟨TMT_CNT_RETX, 31, 0⟩
def TMT_CNT_RTO_COUNT : Fld := ⟨TMT_CNT_RTO, 31, 0⟩
def TMT_CNT_DUP_COUNT : Fld := ⟨TMT_CNT_DUP, 31, 0⟩
def TMT_CNT_OOW_COUNT : Fld := ⟨TMT_CNT_OOW, 31, 0⟩
def TMT_CNT_AUTH_COUNT : Fld := ⟨TMT_CNT_AUTH, 31, 0⟩
def TMT_CNT_STALE_COUNT : Fld := ⟨TMT_CNT_STALE, 31, 0⟩
def TMT_CNT_BADHDR_COUNT : Fld := ⟨TMT_CNT_BADHDR, 31, 0⟩
def TMT_CNT_CE_COUNT : Fld := ⟨TMT_CNT_CE, 31, 0⟩
def TMT_SETUP_CTL_SETUP_S : Fld := ⟨TMT_SETUP_CTL, 25, 16⟩
def TMT_SETUP_CTL_PROBE_MS : Fld := ⟨TMT_SETUP_CTL, 13, 0⟩
def TMT_CLOSE_CTL_CLOSE_MS : Fld := ⟨TMT_CLOSE_CTL, 15, 0⟩
def TMT_CACHE_STATUS_PINNED : Fld := ⟨TMT_CACHE_STATUS, 26, 16⟩
def TMT_CACHE_STATUS_CACHED : Fld := ⟨TMT_CACHE_STATUS, 12, 0⟩
def TMT_MISS_STATUS_PKTS : Fld := ⟨TMT_MISS_STATUS, 26, 16⟩
def TMT_MISS_STATUS_KIB : Fld := ⟨TMT_MISS_STATUS, 11, 0⟩
def TMT_SETUP_STATUS_PENDING : Fld := ⟨TMT_SETUP_STATUS, 8, 0⟩
def TMT_CONN_USED_USED : Fld := ⟨TMT_CONN_USED, 16, 0⟩
def TMT_MR_USED_RETIRED : Fld := ⟨TMT_MR_USED, 30, 16⟩
def TMT_MR_USED_USED : Fld := ⟨TMT_MR_USED, 14, 0⟩
def TMT_CTX_ERR_CTX_FAULT : Fld := ⟨TMT_CTX_ERR, 2, 2⟩
def TMT_CTX_ERR_MISS_DROP : Fld := ⟨TMT_CTX_ERR, 1, 1⟩
def TMT_CTX_ERR_SETUP_BUSY : Fld := ⟨TMT_CTX_ERR, 0, 0⟩
def TMT_CNT_MISS_COUNT : Fld := ⟨TMT_CNT_MISS, 31, 0⟩
def TMT_CNT_MISSDROP_COUNT : Fld := ⟨TMT_CNT_MISSDROP, 31, 0⟩
def TMT_CNT_EVICT_COUNT : Fld := ⟨TMT_CNT_EVICT, 31, 0⟩
def TMT_CONN_SEL_CONN : Fld := ⟨TMT_CONN_SEL, 15, 0⟩
def TMT_CONN_STATUS_THIS_DIE : Fld := ⟨TMT_CONN_STATUS, 31, 31⟩
def TMT_CONN_STATUS_CACHED : Fld := ⟨TMT_CONN_STATUS, 30, 30⟩
def TMT_CONN_STATUS_PINNED : Fld := ⟨TMT_CONN_STATUS, 29, 29⟩
def TMT_CONN_STATUS_STATE : Fld := ⟨TMT_CONN_STATUS, 26, 24⟩
def TMT_CONN_STATUS_SLICE : Fld := ⟨TMT_CONN_STATUS, 23, 16⟩
def TMT_CONN_STATUS_INCARN : Fld := ⟨TMT_CONN_STATUS, 15, 0⟩

/-! ### Fields of block cphN (spec 21 R527) -/

def CPH_INL_STATUS_LOADED : Fld := ⟨CPH_INL_STATUS, 10, 0⟩
def CPH_INL_ERR_KEY_UE : Fld := ⟨CPH_INL_ERR, 0, 0⟩
def CPH_INL_TX_COUNT_COUNT : Fld := ⟨CPH_INL_TX_COUNT, 31, 0⟩
def CPH_INL_RX_COUNT_COUNT : Fld := ⟨CPH_INL_RX_COUNT, 31, 0⟩

/-! ### Fields of block hif (spec 14 R370) -/

def HIF_LOCK_LOCK : Fld := ⟨HIF_LOCK, 0, 0⟩
def HIF_LINK_STATUS_DEGRADED : Fld := ⟨HIF_LINK_STATUS, 31, 31⟩
def HIF_LINK_STATUS_LTSSM : Fld := ⟨HIF_LINK_STATUS, 21, 16⟩
def HIF_LINK_STATUS_L1_SUB : Fld := ⟨HIF_LINK_STATUS, 11, 11⟩
def HIF_LINK_STATUS_L1 : Fld := ⟨HIF_LINK_STATUS, 10, 10⟩
def HIF_LINK_STATUS_FLIT : Fld := ⟨HIF_LINK_STATUS, 9, 9⟩
def HIF_LINK_STATUS_WIDTH : Fld := ⟨HIF_LINK_STATUS, 8, 4⟩
def HIF_LINK_STATUS_SPEED : Fld := ⟨HIF_LINK_STATUS, 3, 0⟩
def HIF_CTL_L1_IDLE_US : Fld := ⟨HIF_CTL, 27, 16⟩
def HIF_CTL_NPR_LOG : Fld := ⟨HIF_CTL, 3, 0⟩
def HIF_NPR_STATUS_QUAR : Fld := ⟨HIF_NPR_STATUS, 28, 16⟩
def HIF_NPR_STATUS_OUTSTANDING : Fld := ⟨HIF_NPR_STATUS, 12, 0⟩
def HIF_CTO_CTL_TIMEOUT_US : Fld := ⟨HIF_CTO_CTL, 25, 0⟩
def HIF_ERR_STATUS_CFG_REJECT : Fld := ⟨HIF_ERR_STATUS, 9, 9⟩
def HIF_ERR_STATUS_LINK_DOWN : Fld := ⟨HIF_ERR_STATUS, 8, 8⟩
def HIF_ERR_STATUS_POISON_RX : Fld := ⟨HIF_ERR_STATUS, 7, 7⟩
def HIF_ERR_STATUS_DB_PORT : Fld := ⟨HIF_ERR_STATUS, 6, 6⟩
def HIF_ERR_STATUS_DB_BAD : Fld := ⟨HIF_ERR_STATUS, 5, 5⟩
def HIF_ERR_STATUS_CTO : Fld := ⟨HIF_ERR_STATUS, 4, 4⟩
def HIF_ERR_STATUS_LATE_CPL : Fld := ⟨HIF_ERR_STATUS, 3, 3⟩
def HIF_ERR_STATUS_GRANT_FAULT : Fld := ⟨HIF_ERR_STATUS, 2, 2⟩
def HIF_ERR_STATUS_APT_FAULT : Fld := ⟨HIF_ERR_STATUS, 1, 1⟩
def HIF_ERR_STATUS_NARROW_WR : Fld := ⟨HIF_ERR_STATUS, 0, 0⟩
def HIF_DISC_COUNT_INTERNAL : Fld := ⟨HIF_DISC_COUNT, 31, 24⟩
def HIF_DISC_COUNT_DISCARD : Fld := ⟨HIF_DISC_COUNT, 23, 12⟩
def HIF_DISC_COUNT_NARROW : Fld := ⟨HIF_DISC_COUNT, 11, 0⟩
def HIF_CTO_COUNT_COUNT : Fld := ⟨HIF_CTO_COUNT, 31, 0⟩
def HIF_LATE_CPL_COUNT_COUNT : Fld := ⟨HIF_LATE_CPL_COUNT, 31, 0⟩
def HIF_MAP_SEL_TABLE : Fld := ⟨HIF_MAP_SEL, 31, 31⟩
def HIF_MAP_SEL_INDEX : Fld := ⟨HIF_MAP_SEL, 14, 0⟩
def HIF_MAP_CMD_WRITE : Fld := ⟨HIF_MAP_CMD, 1, 1⟩
def HIF_MAP_CMD_READ : Fld := ⟨HIF_MAP_CMD, 0, 0⟩
def HIF_MAP_DATA0_DATA : Fld := ⟨HIF_MAP_DATA0, 31, 0⟩
def HIF_MAP_DATA1_DATA : Fld := ⟨HIF_MAP_DATA1, 31, 0⟩

/-! ### Fields of block slc (spec 15 R395) -/

def SLC_LOCK_LOCK : Fld := ⟨SLC_LOCK, 0, 0⟩
def SLC_ACTIVE_LO_ACTIVE : Fld := ⟨SLC_ACTIVE_LO, 31, 0⟩
def SLC_ACTIVE_HI_ACTIVE : Fld := ⟨SLC_ACTIVE_HI, 31, 0⟩
def SLC_MAP_SEL_TABLE : Fld := ⟨SLC_MAP_SEL, 31, 31⟩
def SLC_MAP_SEL_INDEX : Fld := ⟨SLC_MAP_SEL, 11, 0⟩
def SLC_MAP_CMD_WRITE : Fld := ⟨SLC_MAP_CMD, 1, 1⟩
def SLC_MAP_CMD_READ : Fld := ⟨SLC_MAP_CMD, 0, 0⟩
def SLC_MAP_DATA_DATA : Fld := ⟨SLC_MAP_DATA, 31, 0⟩
def SLC_CTL_VALID : Fld := ⟨SLC_CTL, 31, 31⟩
def SLC_CTL_PHASE : Fld := ⟨SLC_CTL, 30, 29⟩
def SLC_CTL_TEST_PERM : Fld := ⟨SLC_CTL, 28, 28⟩
def SLC_CTL_PMU_USER : Fld := ⟨SLC_CTL, 27, 27⟩
def SLC_CTL_ACCEPT : Fld := ⟨SLC_CTL, 26, 26⟩
def SLC_CTL_PORT : Fld := ⟨SLC_CTL, 18, 16⟩
def SLC_CTL_HB_EN : Fld := ⟨SLC_CTL, 15, 15⟩
def SLC_CTL_EVT_VEC : Fld := ⟨SLC_CTL, 10, 0⟩
def SLC_STATUS_DB_IGNORED : Fld := ⟨SLC_STATUS, 31, 24⟩
def SLC_STATUS_FLOG_NEW : Fld := ⟨SLC_STATUS, 7, 7⟩
def SLC_STATUS_LATE_GEN : Fld := ⟨SLC_STATUS, 6, 6⟩
def SLC_STATUS_HOLD_FULL : Fld := ⟨SLC_STATUS, 5, 5⟩
def SLC_STATUS_QUOTA_BUSY : Fld := ⟨SLC_STATUS, 4, 4⟩
def SLC_STATUS_STATE : Fld := ⟨SLC_STATUS, 2, 0⟩
def SLC_GEN_ADV_WAIT : Fld := ⟨SLC_GEN, 8, 8⟩
def SLC_GEN_CUR : Fld := ⟨SLC_GEN, 7, 0⟩
def SLC_TIMERS_HOLD_S : Fld := ⟨SLC_TIMERS, 27, 16⟩
def SLC_TIMERS_DRAIN_MS : Fld := ⟨SLC_TIMERS, 13, 0⟩
def SLC_HOLD_USED_MIB : Fld := ⟨SLC_HOLD, 24, 16⟩
def SLC_HOLD_HOLD_MIB : Fld := ⟨SLC_HOLD, 8, 0⟩
def SLC_DIRTY_EN : Fld := ⟨SLC_DIRTY, 31, 31⟩
def SLC_DIRTY_HARVEST : Fld := ⟨SLC_DIRTY, 30, 30⟩
def SLC_DIRTY_ACTIVE_MAP : Fld := ⟨SLC_DIRTY, 0, 0⟩
def SLC_LATE_COUNT_COUNT : Fld := ⟨SLC_LATE_COUNT, 31, 0⟩
def SLC_SQUASH_COUNT_COUNT : Fld := ⟨SLC_SQUASH_COUNT, 31, 0⟩
def SLC_FLOG_WR_INDEX : Fld := ⟨SLC_FLOG_WR, 3, 0⟩
def SLC_FLOG_WORD : Fld := ⟨SLC_FLOG, 31, 0⟩

/-! ### Fields of block nvc (spec 16 R423) -/

def NVC_LOCK_LOCK : Fld := ⟨NVC_LOCK, 0, 0⟩
def NVC_CTL_SAN_GBPS : Fld := ⟨NVC_CTL, 31, 24⟩
def NVC_CTL_RTO_MS : Fld := ⟨NVC_CTL, 15, 0⟩
def NVC_STATUS_INFLIGHT : Fld := ⟨NVC_STATUS, 30, 16⟩
def NVC_STATUS_RDY : Fld := ⟨NVC_STATUS, 7, 0⟩
def NVC_ERR_STATUS_CFG_REJECT : Fld := ⟨NVC_ERR_STATUS, 4, 4⟩
def NVC_ERR_STATUS_REC_WRITE_FAIL : Fld := ⟨NVC_ERR_STATUS, 3, 3⟩
def NVC_ERR_STATUS_REMOTE_FAIL : Fld := ⟨NVC_ERR_STATUS, 2, 2⟩
def NVC_ERR_STATUS_CFS : Fld := ⟨NVC_ERR_STATUS, 1, 1⟩
def NVC_ERR_STATUS_OWNER_REJECT : Fld := ⟨NVC_ERR_STATUS, 0, 0⟩
def NVC_OWNER_VALID : Fld := ⟨NVC_OWNER, 31, 31⟩
def NVC_OWNER_SLICE : Fld := ⟨NVC_OWNER, 21, 16⟩
def NVC_OP_STATUS_KIND : Fld := ⟨NVC_OP_STATUS, 31, 28⟩
def NVC_OP_STATUS_STATE : Fld := ⟨NVC_OP_STATUS, 27, 24⟩
def NVC_OP_STATUS_NS : Fld := ⟨NVC_OP_STATUS, 5, 0⟩
def NVC_OP_POS_CHUNKS : Fld := ⟨NVC_OP_POS, 31, 0⟩
def NVC_OP_TOTAL_CHUNKS : Fld := ⟨NVC_OP_TOTAL, 31, 0⟩
def NVC_OP_PROG_SPROG : Fld := ⟨NVC_OP_PROG, 31, 16⟩
def NVC_OP_PROG_PCT : Fld := ⟨NVC_OP_PROG, 13, 0⟩

/-! ### Fields of block cph (spec 21 R526) -/

def CPH_LOCK_LOCK : Fld := ⟨CPH_LOCK, 0, 0⟩
def CPH_CTL_ENG_EN : Fld := ⟨CPH_CTL, 3, 0⟩
def CPH_STATUS_LOADED : Fld := ⟨CPH_STATUS, 26, 16⟩
def CPH_STATUS_ALLOCATED : Fld := ⟨CPH_STATUS, 10, 0⟩
def CPH_ERR_STATUS_KEY_UE : Fld := ⟨CPH_ERR_STATUS, 3, 3⟩
def CPH_ERR_STATUS_AUTH_FAIL : Fld := ⟨CPH_ERR_STATUS, 2, 2⟩
def CPH_ERR_STATUS_LOAD_REJECT : Fld := ⟨CPH_ERR_STATUS, 1, 1⟩
def CPH_ERR_STATUS_CFG_REJECT : Fld := ⟨CPH_ERR_STATUS, 0, 0⟩
def CPH_ENG_STATUS_BUSY : Fld := ⟨CPH_ENG_STATUS, 31, 31⟩
def CPH_ENG_STATUS_ACTIVE : Fld := ⟨CPH_ENG_STATUS, 22, 16⟩
def CPH_ENG_STATUS_QUEUED : Fld := ⟨CPH_ENG_STATUS, 8, 0⟩
def CPH_ENG_KIB_KIB : Fld := ⟨CPH_ENG_KIB, 31, 0⟩
def CPH_AUTH_FAIL_COUNT_COUNT : Fld := ⟨CPH_AUTH_FAIL_COUNT, 31, 0⟩
def CPH_SLOT_SEL_SLOT : Fld := ⟨CPH_SLOT_SEL, 10, 0⟩
def CPH_SLOT_INFO_STATE : Fld := ⟨CPH_SLOT_INFO, 31, 29⟩
def CPH_SLOT_INFO_KLEN : Fld := ⟨CPH_SLOT_INFO, 28, 28⟩
def CPH_SLOT_INFO_USAGE : Fld := ⟨CPH_SLOT_INFO, 27, 24⟩
def CPH_SLOT_INFO_SLICE : Fld := ⟨CPH_SLOT_INFO, 21, 16⟩
def CPH_SLOT_INFO_DEVICE : Fld := ⟨CPH_SLOT_INFO, 15, 15⟩
def CPH_SLOT_INFO_SALTS : Fld := ⟨CPH_SLOT_INFO, 14, 6⟩

/-! ### Fields of block vrn (spec 22 R551) -/

def VRN_LOCK_LOCK : Fld := ⟨VRN_LOCK, 0, 0⟩
def VRN_CTL_EN : Fld := ⟨VRN_CTL, 31, 31⟩
def VRN_CTL_RATE_GBPS : Fld := ⟨VRN_CTL, 30, 24⟩
def VRN_CTL_PERIOD_MS : Fld := ⟨VRN_CTL, 15, 0⟩
def VRN_STATUS_BUDDY : Fld := ⟨VRN_STATUS, 31, 31⟩
def VRN_STATUS_PERSIST : Fld := ⟨VRN_STATUS, 30, 30⟩
def VRN_STATUS_UNPROTECTED : Fld := ⟨VRN_STATUS, 29, 29⟩
def VRN_STATUS_PENDING_REQ : Fld := ⟨VRN_STATUS, 28, 28⟩
def VRN_STATUS_HOLD_CAUSE : Fld := ⟨VRN_STATUS, 9, 8⟩
def VRN_STATUS_KIND : Fld := ⟨VRN_STATUS, 7, 4⟩
def VRN_STATUS_STATE : Fld := ⟨VRN_STATUS, 3, 0⟩
def VRN_ERR_STATUS_STEP_DONE : Fld := ⟨VRN_ERR_STATUS, 6, 6⟩
def VRN_ERR_STATUS_CFG_REJECT : Fld := ⟨VRN_ERR_STATUS, 5, 5⟩
def VRN_ERR_STATUS_RESTORE_FALLBACK : Fld := ⟨VRN_ERR_STATUS, 4, 4⟩
def VRN_ERR_STATUS_BUDDY_INVALIDATED : Fld := ⟨VRN_ERR_STATUS, 3, 3⟩
def VRN_ERR_STATUS_SHARD_LOST : Fld := ⟨VRN_ERR_STATUS, 2, 2⟩
def VRN_ERR_STATUS_STEP_HELD : Fld := ⟨VRN_ERR_STATUS, 1, 1⟩
def VRN_ERR_STATUS_STEP_FAIL : Fld := ⟨VRN_ERR_STATUS, 0, 0⟩
def VRN_STEP_CUR_STEP : Fld := ⟨VRN_STEP_CUR, 31, 0⟩
def VRN_STEP_DONE_STEP : Fld := ⟨VRN_STEP_DONE, 31, 0⟩
def VRN_PERSIST_DONE_STEP : Fld := ⟨VRN_PERSIST_DONE, 31, 0⟩
def VRN_LAST_CODE : Fld := ⟨VRN_LAST, 31, 24⟩
def VRN_LAST_LOST : Fld := ⟨VRN_LAST, 21, 0⟩
def VRN_PROG_POS_UNITS : Fld := ⟨VRN_PROG_POS, 31, 0⟩
def VRN_PROG_TOTAL_UNITS : Fld := ⟨VRN_PROG_TOTAL, 31, 0⟩
def VRN_PROG_PCT : Fld := ⟨VRN_PROG, 13, 0⟩
def VRN_SHARDS_COUNT : Fld := ⟨VRN_SHARDS, 21, 0⟩
def VRN_LEASE_SIZE_GIB : Fld := ⟨VRN_LEASE_SIZE, 15, 0⟩
def VRN_LEASE_FREE_UNITS : Fld := ⟨VRN_LEASE_FREE, 31, 0⟩

/-! ### Fields of block pmu (spec 25 R592, R609, R610) -/

def PMU_CTL_EN : Fld := ⟨PMU_CTL, 31, 31⟩
def PMU_CTL_FREEZE : Fld := ⟨PMU_CTL, 30, 30⟩
def PMU_CTL_WIN_US : Fld := ⟨PMU_CTL, 19, 0⟩
def PMU_OVF_CNT : Fld := ⟨PMU_OVF, 15, 0⟩
def PMU_OVF_IRQ_CNT : Fld := ⟨PMU_OVF_IRQ, 15, 0⟩
def PMU_EVSEL_EN : Fld := ⟨PMU_EVSEL, 31, 31⟩
def PMU_EVSEL_CHAIN : Fld := ⟨PMU_EVSEL, 30, 30⟩
def PMU_EVSEL_SLICE : Fld := ⟨PMU_EVSEL, 29, 24⟩
def PMU_EVSEL_SLICE_FILT : Fld := ⟨PMU_EVSEL, 23, 23⟩
def PMU_EVSEL_EVENT : Fld := ⟨PMU_EVSEL, 15, 0⟩
def PMU_OWNER_VALID : Fld := ⟨PMU_OWNER, 31, 31⟩
def PMU_OWNER_DEVICE : Fld := ⟨PMU_OWNER, 30, 30⟩
def PMU_OWNER_SLICE : Fld := ⟨PMU_OWNER, 5, 0⟩
def PMU_CNT_LO_COUNT : Fld := ⟨PMU_CNT_LO, 31, 0⟩
def PMU_CNT_HI_COUNT : Fld := ⟨PMU_CNT_HI, 15, 0⟩
def PMU_WIN_LO_COUNT : Fld := ⟨PMU_WIN_LO, 31, 0⟩
def PMU_WIN_HI_COUNT : Fld := ⟨PMU_WIN_HI, 15, 0⟩
def PMU_TIME_NS_NS : Fld := ⟨PMU_TIME_NS, 29, 0⟩
def PMU_TIME_SL_SEC_LO : Fld := ⟨PMU_TIME_SL, 31, 0⟩
def PMU_TIME_SH_SEC_HI : Fld := ⟨PMU_TIME_SH, 15, 0⟩
def PMU_TIME_ADJ_PPB : Fld := ⟨PMU_TIME_ADJ, 31, 0⟩
def PMU_TIME_STATUS_VALID : Fld := ⟨PMU_TIME_STATUS, 31, 31⟩
def PMU_TIME_STATUS_LOCKED : Fld := ⟨PMU_TIME_STATUS, 30, 30⟩
def PMU_TIME_STATUS_UTC_KNOWN : Fld := ⟨PMU_TIME_STATUS, 29, 29⟩
def PMU_TIME_STATUS_SRC : Fld := ⟨PMU_TIME_STATUS, 27, 24⟩
def PMU_TIME_STATUS_PORT : Fld := ⟨PMU_TIME_STATUS, 18, 16⟩
def PMU_TIME_STATUS_UTC_OFFSET : Fld := ⟨PMU_TIME_STATUS, 15, 0⟩
def PMU_TIME_STEPS_COUNT : Fld := ⟨PMU_TIME_STEPS, 31, 0⟩
def PMU_PPS_CTL_OUT_EN : Fld := ⟨PMU_PPS_CTL, 31, 31⟩
def PMU_PPS_CTL_IN_EN : Fld := ⟨PMU_PPS_CTL, 30, 30⟩
def PMU_PPS_IN_NS_NS : Fld := ⟨PMU_PPS_IN_NS, 29, 0⟩
def PMU_PPS_IN_SL_SEC_LO : Fld := ⟨PMU_PPS_IN_SL, 31, 0⟩
def PMU_PPS_IN_SH_SEC_HI : Fld := ⟨PMU_PPS_IN_SH, 15, 0⟩
def PMU_ERR_PPS_NEW : Fld := ⟨PMU_ERR, 3, 3⟩
def PMU_ERR_DUMP_FAULT : Fld := ⟨PMU_ERR, 2, 2⟩
def PMU_ERR_DUMP_DROP : Fld := ⟨PMU_ERR, 1, 1⟩
def PMU_ERR_CFG_REJECT : Fld := ⟨PMU_ERR, 0, 0⟩
def PMU_DUMP_CTL_ACTIVE : Fld := ⟨PMU_DUMP_CTL, 31, 31⟩
def PMU_DUMP_CTL_SUSPENDED : Fld := ⟨PMU_DUMP_CTL, 30, 30⟩
def PMU_DUMP_CTL_SLICE : Fld := ⟨PMU_DUMP_CTL, 29, 24⟩
def PMU_DUMP_CTL_NCNT_M1 : Fld := ⟨PMU_DUMP_CTL, 9, 2⟩
def PMU_DUMP_CTL_DEST : Fld := ⟨PMU_DUMP_CTL, 1, 0⟩
def PMU_DUMP_SEQ_VALUE : Fld := ⟨PMU_DUMP_SEQ, 31, 0⟩
def PMU_DUMP_DROP_VALUE : Fld := ⟨PMU_DUMP_DROP, 31, 0⟩
def PMU_DUMP_WR_VALUE : Fld := ⟨PMU_DUMP_WR, 31, 0⟩

/-! ### Fields of block injD (spec 26 R626) -/

def INJ_CTL_EN : Fld := ⟨INJ_CTL, 31, 31⟩
def INJ_CTL_KIND : Fld := ⟨INJ_CTL, 30, 28⟩
def INJ_CTL_ACTION : Fld := ⟨INJ_CTL, 27, 26⟩
def INJ_CTL_DIR : Fld := ⟨INJ_CTL, 25, 25⟩
def INJ_CTL_XOR : Fld := ⟨INJ_CTL, 23, 16⟩
def INJ_CTL_UNIT : Fld := ⟨INJ_CTL, 15, 0⟩
def INJ_MATCH_MATCH : Fld := ⟨INJ_MATCH, 31, 0⟩
def INJ_TRIG_PERIOD : Fld := ⟨INJ_TRIG, 31, 16⟩
def INJ_TRIG_COUNT : Fld := ⟨INJ_TRIG, 15, 0⟩
def INJ_PARAM_PARAM : Fld := ⟨INJ_PARAM, 15, 0⟩
def INJ_ADDR_LO_ADDR_LO : Fld := ⟨INJ_ADDR_LO, 31, 0⟩
def INJ_ADDR_HI_ADDR_HI : Fld := ⟨INJ_ADDR_HI, 15, 0⟩
def INJ_FIRED_FIRED : Fld := ⟨INJ_FIRED, 15, 0⟩

/-! ### The registers of each block -/

/-- The registers of block gso. -/
def regs_gso : List Reg :=
  [GSO_LOCK, GSO_VIN_WARN, GSO_VIN, GSO_IIN, GSO_PWR_CTL, GSO_PWR_STATUS, GSO_THERM_STATUS, GSO_THERM_HOT] ++
  [GSO_MSTATE, GSO_MSTATE_CTL, GSO_CLK_CAP]

/-- The registers of block atl. -/
def regs_atl : List Reg :=
  [ATL_LOCK, ATL_BOOT_STATUS, ATL_RESET_CAUSE, ATL_FW_VERSION, ATL_RESTART, ATL_WDT_CTL, ATL_UPD_STATUS, ATL_UPD_PROGRESS] ++
  [ATL_LOG_BASE, ATL_LOG_WR, ATL_TRACE_EN]

/-- The registers of block fus. -/
def regs_fus : List Reg :=
  [FUS_STATUS, FUS_DIE_SEL, FUS_DIE_LOT_LO, FUS_DIE_LOT_HI, FUS_DIE_POS, FUS_DIE_INFO, FUS_SERIAL_LO, FUS_SERIAL_HI] ++
  [FUS_VID, FUS_MAC_LO, FUS_MAC_HI, FUS_SECVER, FUS_ANCHOR_STATUS, FUS_ANCHOR_SEL, FUS_ANCHOR_D, FUS_DBG_CTL]

/-- The registers of block mbx. -/
def regs_mbx : List Reg :=
  [MBX_IN, MBX_OUT, MBX_IN_ACK, MBX_OUT_ACK, MBX_CH_STATUS, MBX_CH_BIND, MBX_HB, MBX_LOCK] ++
  [MBX_SEC, MBX_ERR, MBX_IN_FULL]

/-- The registers of block lif. -/
def regs_lif : List Reg :=
  [LIF_CAL_LO, LIF_CAL_HI, LIF_STATUS, LIF_ITEM_SEL, LIF_ITEM_LO, LIF_ITEM_HI]

/-- The registers of block hrc. -/
def regs_hrc : List Reg :=
  [HRC_LOCK, HRC_CTL, HRC_STATUS, HRC_ERR_STATUS, HRC_JOB, HRC_MEPOCH, HRC_JMAP_EPOCH, HRC_MEMBER_SEL] ++
  [HRC_MEMBER_STATUS, HRC_HB_SENT, HRC_HB_MISSED]

/-- The registers of block injA. -/
def regs_injA : List Reg :=
  [INJ_STATUS, INJ_ERR, INJ_ARM]

/-- The registers of block pal. -/
def regs_pal : List Reg :=
  [PAL_CHEALTH, PAL_CMAP]

/-- The registers of block mem. -/
def regs_mem : List Reg :=
  [MEM_LOCK, MEM_STATUS, MEM_BAND_MODE, MEM_LAYOUT, MEM_SCRUB_CTL, MEM_SCRUB_POS, MEM_SCRUB_PROG, MEM_ERR_STATUS] ++
  [MEM_CE_COUNT, MEM_UE_COUNT, MEM_UE_ADDR0, MEM_UE_ADDR1, MEM_PC_FAILED, MEM_REPAIR, MEM_CB_INUSE, MEM_CB_STATUS] ++
  [MEM_CB_FMT, MEM_REMAP]

/-- The registers of block cmp. -/
def regs_cmp : List Reg :=
  [CMP_STATUS, CMP_ERR_STATUS, CMP_HEAT_CTL, CMP_SCAN_CTL, CMP_SWATCH_CTL, CMP_MIG_CTL, CMP_TSLICE_CTL, CMP_TIER_CTL] ++
  [CMP_EXC_USED, CMP_SWATCH_USED, CMP_IND_SEL, CMP_IND_CMD, CMP_IND_DATA, CMP_SLICE_POL]

/-- The registers of block synP. -/
def regs_synP : List Reg :=
  [SYN_CTL, SYN_STATUS, SYN_ERR, SYN_DROP_COUNT, SYN_RPT, SYN_RPT_POP, SYN_FLAG_SEL, SYN_FLAG_VAL]

/-- The registers of block dma. -/
def regs_dma : List Reg :=
  [DMA_CHAN_CTL, DMA_CHAN_STATUS, DMA_CHAN_NEXT_LO, DMA_CHAN_NEXT_HI, DMA_CHAN_CUR_LO, DMA_CHAN_CUR_HI, DMA_CHAN_RD, DMA_CHAN_WR] ++
  [DMA_CHAN_HOLD, DMA_CHAN_IRQ, DMA_CHAN_OWNER, DMA_CHAN_COUNT, DMA_LOCK]

/-- The registers of block brs. -/
def regs_brs : List Reg :=
  [BRS_CTL, BRS_STATUS, BRS_PC, BRS_TVEC, BRS_TMASK, BRS_FAULT, BRS_FAULT_PC, BRS_FAULT_VAL0] ++
  [BRS_FAULT_VAL1, BRS_SWATCH, BRS_SRAM_ERR, BRS_SRAM_UE_ADDR]

/-- The registers of block stg. -/
def regs_stg : List Reg :=
  [MEM_STG_ERR, MEM_STG_UE_ADDR]

/-- The registers of block gu. -/
def regs_gu : List Reg :=
  [SYN_GU_STATUS, SYN_GU_ERR, SYN_GU_DROP, SYN_GU_HDR]

/-- The registers of block synV. -/
def regs_synV : List Reg :=
  [SYN_VF_USED, SYN_VF_ERR, SYN_VF_DROP, SYN_VF_SEL, SYN_VF_VAL, SYN_VF_ENT]

/-- The registers of block pkt. -/
def regs_pkt : List Reg :=
  [PKT_LOCK, PKT_MODE, PKT_ERR_STATUS, PKT_CLASS_CTL, PKT_QDEST, PKT_RULE_SEL, PKT_RULE_CMD, PKT_RULE_HITS] ++
  [PKT_RULE_DATA, PKT_PORT_CTL, PKT_PORT_STATUS, PKT_PORT_DEF_RX, PKT_PORT_DEF_TX, PKT_PORT_MAC_LO, PKT_PORT_MAC_HI, PKT_PORT_DEEP] ++
  [PKT_WIN, PKT_STAT]

/-- The registers of block sch. -/
def regs_sch : List Reg :=
  [SCH_LOCK, SCH_ERR_STATUS, SCH_PORT_CTL, SCH_PORT_STATUS, SCH_GCL_RESYNC, SCH_GCL_BASE_NS, SCH_GCL_BASE_SL, SCH_GCL_BASE_SH] ++
  [SCH_GCL_CYCLE, SCH_Q_CTL, SCH_Q_RATE, SCH_Q_BURST, SCH_Q_LIM, SCH_Q_STATUS, SCH_Q_CREDIT, SCH_Q_DROP] ++
  [SCH_SLC_RATE, SCH_SLC_BURST, SCH_GCL_INTVL, SCH_GCL_MASK]

/-- The registers of block tmt. -/
def regs_tmt : List Reg :=
  [TMT_LOCK, TMT_CTL, TMT_CC_CTL, TMT_ACK_CTL, TMT_RTO_CTL, TMT_RETRY_CTL, TMT_ERR_STATUS, TMT_CNT_RETX] ++
  [TMT_CNT_RTO, TMT_CNT_DUP, TMT_CNT_OOW, TMT_CNT_AUTH, TMT_CNT_STALE, TMT_CNT_BADHDR, TMT_CNT_CE, TMT_SETUP_CTL] ++
  [TMT_CLOSE_CTL, TMT_CACHE_STATUS, TMT_MISS_STATUS, TMT_SETUP_STATUS, TMT_CONN_USED, TMT_MR_USED, TMT_CTX_ERR, TMT_CNT_MISS] ++
  [TMT_CNT_MISSDROP, TMT_CNT_EVICT, TMT_CONN_SEL, TMT_CONN_STATUS]

/-- The registers of block cphN. -/
def regs_cphN : List Reg :=
  [CPH_INL_STATUS, CPH_INL_ERR, CPH_INL_TX_COUNT, CPH_INL_RX_COUNT]

/-- The registers of block hif. -/
def regs_hif : List Reg :=
  [HIF_LOCK, HIF_LINK_STATUS, HIF_CTL, HIF_NPR_STATUS, HIF_CTO_CTL, HIF_ERR_STATUS, HIF_DISC_COUNT, HIF_CTO_COUNT] ++
  [HIF_LATE_CPL_COUNT, HIF_MAP_SEL, HIF_MAP_CMD, HIF_MAP_DATA0, HIF_MAP_DATA1]

/-- The registers of block slc. -/
def regs_slc : List Reg :=
  [SLC_LOCK, SLC_ACTIVE_LO, SLC_ACTIVE_HI, SLC_MAP_SEL, SLC_MAP_CMD, SLC_MAP_DATA, SLC_CTL, SLC_STATUS] ++
  [SLC_GEN, SLC_TIMERS, SLC_HOLD, SLC_DIRTY, SLC_LATE_COUNT, SLC_SQUASH_COUNT, SLC_FLOG_WR, SLC_FLOG]

/-- The registers of block nvc. -/
def regs_nvc : List Reg :=
  [NVC_LOCK, NVC_CTL, NVC_STATUS, NVC_ERR_STATUS, NVC_OWNER, NVC_OP_STATUS, NVC_OP_POS, NVC_OP_TOTAL] ++
  [NVC_OP_PROG]

/-- The registers of block cph. -/
def regs_cph : List Reg :=
  [CPH_LOCK, CPH_CTL, CPH_STATUS, CPH_ERR_STATUS, CPH_ENG_STATUS, CPH_ENG_KIB, CPH_AUTH_FAIL_COUNT, CPH_SLOT_SEL] ++
  [CPH_SLOT_INFO]

/-- The registers of block vrn. -/
def regs_vrn : List Reg :=
  [VRN_LOCK, VRN_CTL, VRN_STATUS, VRN_ERR_STATUS, VRN_STEP_CUR, VRN_STEP_DONE, VRN_PERSIST_DONE, VRN_LAST] ++
  [VRN_PROG_POS, VRN_PROG_TOTAL, VRN_PROG, VRN_SHARDS, VRN_LEASE_SIZE, VRN_LEASE_FREE]

/-- The registers of block pmu. -/
def regs_pmu : List Reg :=
  [PMU_CTL, PMU_OVF, PMU_OVF_IRQ, PMU_EVSEL, PMU_OWNER, PMU_CNT_LO, PMU_CNT_HI, PMU_WIN_LO] ++
  [PMU_WIN_HI, PMU_TIME_NS, PMU_TIME_SL, PMU_TIME_SH, PMU_TIME_ADJ, PMU_TIME_STATUS, PMU_TIME_STEPS, PMU_PPS_CTL] ++
  [PMU_PPS_IN_NS, PMU_PPS_IN_SL, PMU_PPS_IN_SH, PMU_ERR, PMU_DUMP_CTL, PMU_SLOT, PMU_DUMP_SEQ, PMU_DUMP_DROP] ++
  [PMU_DUMP_WR]

/-- The registers of block injD. -/
def regs_injD : List Reg :=
  [INJ_CTL, INJ_MATCH, INJ_TRIG, INJ_PARAM, INJ_ADDR_LO, INJ_ADDR_HI, INJ_FIRED]

/-- The registers of a block, by the block's name. -/
def Blk.regs (b : Blk) : List Reg :=
  match b with
  | .gso => regs_gso
  | .atl => regs_atl
  | .fus => regs_fus
  | .mbx => regs_mbx
  | .lif => regs_lif
  | .hrc => regs_hrc
  | .injA => regs_injA
  | .pal => regs_pal
  | .mem => regs_mem
  | .cmp => regs_cmp
  | .synP => regs_synP
  | .dma => regs_dma
  | .brs => regs_brs
  | .stg => regs_stg
  | .gu => regs_gu
  | .synV => regs_synV
  | .pkt => regs_pkt
  | .sch => regs_sch
  | .tmt => regs_tmt
  | .cphN => regs_cphN
  | .hif => regs_hif
  | .slc => regs_slc
  | .nvc => regs_nvc
  | .cph => regs_cph
  | .vrn => regs_vrn
  | .pmu => regs_pmu
  | .injD => regs_injD

end Machine
end Sys2Proof
end

