-- ==== Sys2Proof/Machine/Sparse.lean ====
section
/-!
DEFINITION. Sparse plain-data maps: a list of (key, value) pairs with rising keys. What an unlisted key holds is said
by each map's reader. Byte memories use the canonical form of `memWf`: rising addresses, no zero byte listed.
-/
namespace Sys2Proof
namespace Machine

/-- A sparse map from numbers, as plain data. -/
abbrev SMap (α : Type) := List (Nat × α)

/-- The value listed at a key. -/
def smGet {α : Type} : SMap α → Nat → Option α
  | [], _ => none
  | (k, v) :: m, j => if j = k then some v else smGet m j

/-- The value at a key, or a default for an unlisted key. -/
def smGetD {α : Type} (m : SMap α) (j : Nat) (d : α) : α := (smGet m j).getD d

/-- Lists a value at a key, keeping keys rising. -/
def smSet {α : Type} : SMap α → Nat → α → SMap α
  | [], j, w => [(j, w)]
  | (k, v) :: m, j, w =>
    if j < k then (j, w) :: (k, v) :: m
    else if j = k then (j, w) :: m
    else (k, v) :: smSet m j w

/-- Removes a key. -/
def smDel {α : Type} (m : SMap α) (j : Nat) : SMap α := m.filter (fun p => p.1 != j)

/-- Removes every key that satisfies p. -/
def smDelIf {α : Type} (m : SMap α) (p : Nat → Bool) : SMap α := m.filter (fun q => !p q.1)

/-- The keys whose values satisfy p, rising. -/
def smKeys {α : Type} (m : SMap α) (p : α → Bool) : List Nat := (m.filter (fun q => p q.2)).map (·.1)

/-- Changes every value. -/
def smMap {α : Type} (m : SMap α) (f : Nat → α → α) : SMap α := m.map (fun q => (q.1, f q.1 q.2))

/-- Number of entries whose values satisfy p. -/
def smCount {α : Type} (m : SMap α) (p : α → Bool) : Nat := (m.filter (fun q => p q.2)).length

/-- The lowest number below n, at or above lo, that is not a key whose value satisfies p. -/
def smLowestFree {α : Type} (m : SMap α) (used : α → Bool) (lo : Nat) : Nat → Option Nat
  | 0 => none
  | n + 1 =>
    match smGet m lo with
    | none => some lo
    | some v => if used v then smLowestFree m used (lo + 1) n else some lo

/-- Keys strictly rising. -/
def smSorted {α : Type} : SMap α → Bool
  | [] => true
  | [_] => true
  | (k, _) :: (k', v') :: m => decide (k < k') && smSorted ((k', v') :: m)

/-- One byte of a memory: an unlisted address reads as zero (stack memory and SRAM are zeroed, R71 and R74). -/
def memRead (m : SMap Byte) (a : Addr) : Byte := smGetD m a 0

/-- Removes an address from a sorted memory, leaving the rest. -/
def memErase : SMap Byte → Addr → SMap Byte
  | [], _ => []
  | (k, v) :: m, j => if j = k then memErase m j else (k, v) :: memErase m j

/-- Writes one byte, keeping the canonical form. -/
def memWrite (m : SMap Byte) (a : Addr) (b : Byte) : SMap Byte :=
  if b = 0 then memErase m a else smSet m a b

/-- Reads n bytes from a. -/
def memReadN (m : SMap Byte) (a : Addr) : Nat → List Byte
  | 0 => []
  | n + 1 => memRead m a :: memReadN m (a + 1) n

/-- Writes a list of bytes from a, lowest address first. -/
def memWriteN (m : SMap Byte) (a : Addr) : List Byte → SMap Byte
  | [] => m
  | b :: bs => memWriteN (memWrite m a b) (a + 1) bs

/-- Zeroes every address in [a, a + n). -/
def memClear (m : SMap Byte) (a : Addr) (n : Nat) : SMap Byte :=
  m.filter (fun q => !(decide (a ≤ q.1) && decide (q.1 < a + n)))

/-- Copies the listed bytes of [src, src + n) to dst, over a cleared destination. -/
def memCopy (m : SMap Byte) (src dst n : Nat) : SMap Byte :=
  (m.filter (fun q => decide (src ≤ q.1) && decide (q.1 < src + n))).foldl
    (fun acc q => memWrite acc (dst + (q.1 - src)) q.2) (memClear m dst n)

/-- The canonical form: rising addresses and no byte listed that an unlisted address reads as. -/
def memWf (m : SMap Byte) : Bool := smSorted m && m.all (fun q => q.2 != 0)

end Machine
end Sys2Proof
end

