-- ==== Sys2Proof/Machine/State.lean ====
section
/-!
DEFINITION. The state of the block: every piece of state the spec gives it, as plain data, and the state at reset.
-/
namespace Sys2Proof
namespace Machine

/-! ## What leaves the block, and the package (spec 00, 01) -/

/-- What the block sends out: results of reads, acknowledgements, interrupts, host writes, frames, pins. -/
inductive Emit where
  | read (addr val : Nat) (st : Status)
  | data (bytes : List Byte) (st : Status)
  | done (ch : Nat) (st : Status) (arg : Nat) (words : List Nat)
  | irq (b : Blk) (inst bit : Nat)
  | msix (port fn vec : Nat)
  | smbAlert
  | hostWrite (port fn pasid addr : Nat) (ro : Bool) (bytes : List Byte)
  | hostRead (port fn pasid addr len tag : Nat) (ro : Bool)
  | report (requester : Nat) (st : Status)
  | fabricDown (link : Nat)
  | cfgReply (port fn off val : Nat) (crs ur : Bool)
  | errMsg (port severity : Nat)
  | ltr (port us : Nat)
  | frame (die port : Nat) (bytes : List Byte)
  | txStamp (die port ns : Nat)
  | jtag (val : Nat)
  | pin (name level : Nat)
  | note (kind : Nat) (args : List Nat)
  | order (member kind : Nat) (args : List Nat)
  | beat (member imm : Nat) (bytes : List Byte)
deriving DecidableEq, Repr

/-- The fabric, by links numbered 0 to 24 in the order of R24: corrected errors of each, links declared down,
whether firmware has fixed the routes of R26. -/
structure Fabric where
  retries : SMap Nat
  down : List Nat
  routed : Bool
deriving DecidableEq, Repr

/-- The fabric at reset: no link down, nothing counted, no route fixed. -/
def Fabric.reset : Fabric := { retries := [], down := [], routed := false }

/-! ## Power, input and heat: the gesso domain (spec 02, 27) and power gating (spec 01) -/

/-- Why the device reset in force was asserted, R70. -/
inductive ResetCause where
  | gessoPowerUp | brownout | thermalTrip | modReset | command | other
deriving DecidableEq, Repr

/-- A control-space write that waits for its die to wake, R29 and R40. -/
structure WaitingWrite where
  dom : Domain
  addr : Nat
  val : Nat
deriving DecidableEq, Repr

/-- The gesso domain's state beyond its registers: pins of J8 (`ga` the geographic address, the console's two lines), host ports whose PERST_N is low, references that have
stopped (host ports 0 to 7, 8 + n for network die n), the switch, the power-up sequence, why the device reset in force was asserted,
dwells, how many successive samples have stood at or above 39.0 A, below 36.0 A and at or above 44 A (R53), sensors,
the RTC calendar and the power-on time in 10 µs samples, the samples since t0 of R74, those for which STATE has held RUNNING and
RESTARTING, those for which every sensor has stood low enough for a fall (R62), the samples since t0 at which the watchdog expired, the
nonvolatile event store of R72, and which power domains are gated. -/
structure Power where
  pwrEn : Bool
  modResetN : Bool
  coolantFaultN : Bool
  ga : Nat
  uartTx : Bool
  uartRx : Bool
  perstLow : List Nat
  refLost : List Nat
  swClosed : Bool
  powerUp : Bool
  lockout : Bool
  devReset : Bool
  causes : List ResetCause
  offTrip : Bool
  thermTrip : Bool
  thermPwrLow : Bool
  fabricFault : Bool
  bootFault : Bool
  dwell : Nat
  calm : Nat
  iinHigh : Nat
  iinLow : Nat
  iinTrip : Nat
  vinMinClr : Bool
  warnSamples : Nat
  dipMin : Nat
  temps : SMap Nat
  coolantOut : Nat
  cycleArmed : Bool
  fwClk : SMap Nat
  clk : SMap Nat
  gated : List Domain
  waiting : List WaitingWrite
  onTicks : Nat
  rtcTicks : Nat
  calValid : Bool
  sinceT0 : Nat
  runTicks : Nat
  restartTicks : Nat
  thermCalm : Nat
  wdtTimes : List Nat
  evStore : SMap Nat
  dips : List Nat
deriving DecidableEq, Repr

/-- The gesso domain right after gesso power-up. Pins read as their resistors of R637 pull them. -/
def Power.reset : Power :=
  { pwrEn := false, modResetN := true, coolantFaultN := true, ga := 7, uartTx := true, uartRx := true, perstLow := [], refLost := [], swClosed := false, powerUp := false, lockout := false,
    devReset := true, causes := [.gessoPowerUp], offTrip := false, thermTrip := false, thermPwrLow := false,
    fabricFault := false, bootFault := false, dwell := 0, calm := 0, iinHigh := 0, iinLow := 0, iinTrip := 0, vinMinClr := false, warnSamples := 0, dipMin := 0xFFF,
    temps := [], coolantOut := 0, cycleArmed := false, fwClk := [], clk := [], gated := [], waiting := [],
    onTicks := 0, rtcTicks := 0, calValid := false, sinceT0 := 0, runTicks := 0, restartTicks := 0, thermCalm := 0,
    wdtTimes := [], evStore := [], dips := [] }

/-! ## Firmware, flash, boot record (spec 03) -/

/-- The contents of one copy of the boot record, R82. -/
structure BootRecord where
  seqNo : Nat
  confirmed : Nat
  trialPending : Bool
  trialSlot : Nat
  trialUsed : Bool
  result : Nat
deriving DecidableEq, Repr

/-- The atelier core and module flash beyond the ATL registers. `flash` holds the image slots and the boot record by flash offset
(R80), an unlisted byte reading as zero; the records of its last region stand in fields of their own. `chosen` is the slot the boot ROM
selected for the restart in progress, and whether as a trial; `lifePend` the lifetime increments of repairs not yet recorded. -/
structure Atelier where
  flash : SMap Byte
  chosen : Option (Nat × Bool)
  updTotal : Nat
  updNext : Nat
  runningSecVer : Nat
  coreHalted : Bool
  logSeq : Nat
  crashLog : List (List Byte)
  presets : SMap Nat
  flashSec : Nat
  lifeRec : SMap Nat
  lifeRecOk : Bool
  lifePend : SMap Nat
  lifeAgeS : Nat
  clusterMapFlash : List (Nat × Nat)
  eraseRec : Nat
deriving DecidableEq, Repr

/-- A record with nothing confirmed but slot A and no trial. -/
def BootRecord.blank : BootRecord :=
  { seqNo := 0, confirmed := 0, trialPending := false, trialSlot := 0, trialUsed := false, result := 0 }

/-- The atelier's own state at reset: blank flash, without image, boot record or records (log entry 5). -/
def Atelier.reset : Atelier :=
  { flash := [], chosen := none, updTotal := 0, updNext := 0,
    runningSecVer := 0, coreHalted := false, logSeq := 0, crashLog := [], presets := [], flashSec := 0x100,
    lifeRec := [], lifeRecOk := false, lifePend := [], lifeAgeS := 0, clusterMapFlash := [], eraseRec := 0 }

/-! ## Bristles (spec 04 to 07) -/

/-- A pending accumulator write, R115: the accumulator, its sixteen lanes, the pipeline cycle from which reads see it,
and the VSAT bits set when it becomes visible (R116). -/
structure PendAcc where
  acc : Nat
  lanes : Vec
  due : Nat
  sat : Nat
deriving DecidableEq, Repr

/-- A pending product, R113, and the pipeline cycle from which reads see it. -/
structure PendMul where
  prod : BitVec 128
  due : Nat
deriving DecidableEq, Repr

/-- An entry of the store buffer, R144: a store, a SIGNAL with its flag word and amount, or a GSEND with its target
word, key and contribution. A store carries the pipeline cycle it issued in (R105). -/
inductive StoreEntry where
  | store (addr : Nat) (bytes : List Byte) (cyc : Nat)
  | signal (flag amount : Nat)
  | gsend (target key : Nat) (data : List Byte)
deriving DecidableEq, Repr

/-- A load from outside the bristle's own SRAM that has not returned: the register it writes (general register r as r,
vector register r as 32 + r; none once a later instruction has written that register), how its bytes extend, and
once served the bytes (none: poisoned). `behind` entries of the store buffer go to its die before it does (R25, R145); `lost` marks a
request that a link took with it (R44). -/
structure OutLoad where
  dest : Option Nat
  addr : Nat
  size : Nat
  sign : Bool
  bytes : List Byte
  served : Bool
  behind : Nat
  lost : Bool
deriving DecidableEq, Repr

/-- A WAIT or WAITDEC that holds its bristle, R302: the flag word, the threshold, whether it consumes, the register to
write, the PC it reissues at, the instruction's length and word, whether its spin-limit report is filed, and its count of bristle
cycles (R307) as `spun` up to the 10 µs tick `since`. -/
structure HeldWait where
  flag : Nat
  threshold : Nat
  dec : Bool
  rd : Nat
  pc : Nat
  len : Nat
  raw : Nat
  reported : Bool
  since : Nat
  spun : Nat
deriving DecidableEq, Repr

/-- A bristle beyond its BRS registers. Registers absent from a map are zero. `pc` is the next instruction's address,
`pcyc` the next pipeline cycle, `ready` the first pipeline cycle at which a register loaded from local SRAM may be
read, `busy` the first at which the vector unit is free. `legacy` is the encoding of the program since the last INIT (R154), `oldBad` the
8-byte words that were uncorrectable until a store that the fetch sees only from a later pipeline cycle on (R105), `stopped` that RUN was
cleared while it ran, `barred` that a third fatal fault bars reloads until the slice loads its program again (R123). -/
structure Bristle where
  gpr : SMap Word64
  vec : SMap Vec
  acc : SMap Vec
  prod : BitVec 128
  pendMul : List PendMul
  pendAcc : List PendAcc
  pc : Nat
  vsat : Nat
  cyc : Nat
  pcyc : Nat
  rsPtr : Nat
  rsDepth : Nat
  rsEnt : SMap Nat
  epc : Nat
  ecause : Nat
  eval : Nat
  scratch : Word64
  inHandler : Bool
  srState : BitVec 32
  busy : Nat
  ready : SMap Nat
  sbuf : List StoreEntry
  loads : List OutLoad
  wait : Option HeldWait
  trapReq : Option (Nat × Nat)
  saved : Option Nat
  faultTimes : List Nat
  legacy : Bool
  oldBad : SMap Nat
  stopped : Bool
  barred : Bool
deriving DecidableEq, Repr

/-- A bristle right after INIT, R106, R117, R178. -/
def Bristle.init (id : Nat) : Bristle :=
  { gpr := [], vec := [], acc := [], prod := 0, pendMul := [], pendAcc := [], pc := 0, vsat := 0, cyc := 0, pcyc := 0,
    rsPtr := 15, rsDepth := 0, rsEnt := [], epc := 0, ecause := 0, eval := 0, scratch := 0, inHandler := false,
    srState := BitVec.ofNat 32 0x9E3779B9 ^^^ BitVec.ofNat 32 (id * 0x00010001), busy := 0, ready := [], sbuf := [],
    loads := [], wait := none, trapReq := none, saved := none, faultTimes := [],
    legacy := false, oldBad := [], stopped := false, barred := false }

/-! ## Stack memory beyond its bytes (spec 08) -/

/-- What is wrong with a stored 32-byte burst, R197 to R201: the mask of its 36 symbols in error, whether it carries the
poison code word, and whether a write has reached it since (no refetch write-back, R201). -/
structure Burst where
  bad : Nat
  poison : Bool
  noRefetch : Bool
deriving DecidableEq, Repr

/-- A read that waits for the buddy copy (R200): who asks, the range, the codebook slot and element count of a compressed row, the
bursts whose granules have not been fetched yet. -/
structure WaitingRead where
  who : Requester
  addr : Nat
  len : Nat
  codebook : Option (Nat × Nat)
  need : List Nat
deriving DecidableEq, Repr

/-- Stack memory beyond its bytes. Bursts go by linear address ÷ 32; `wb` holds queued write-backs; `ueRows` the rows with
uncorrectable errors as (pseudo-channel, row, time), `pinCe` corrected errors by pin, `laneReq` the repair list's pins,
`repairQ` bursts queued for repair, `sparesUsed` a mask per (pseudo-channel, bank), `softRec` soft repairs recorded in flash,
`retired` the 64 KiB regions retired, `layoutL` and `layoutN` the layout record, `lost` writes discarded by a failed
pseudo-channel, `waiting` reads that wait for a refetch. A pseudo-channel of stack m is 32 m + p. -/
structure Stacks where
  bursts : SMap Burst
  wb : List Nat
  ueRows : List (Nat × Nat × Nat)
  pinCe : SMap Nat
  laneReq : List Nat
  repairQ : List Nat
  sparesUsed : SMap Nat
  softRec : List (Nat × Nat)
  retired : List Nat
  layoutL : Nat
  layoutN : Nat
  lost : SMap Nat
  waiting : List WaitingRead
deriving DecidableEq, Repr

/-- No error, nothing queued, the default layout of R191 in the flash record. -/
def Stacks.reset : Stacks :=
  { bursts := [], wb := [], ueRows := [], pinCe := [], laneReq := [], repairQ := [], sparesUsed := [], softRec := [],
    retired := [], layoutL := 24, layoutN := 4, lost := [], waiting := [] }

/-! ## Tables, caches, work items and composition (spec 09 to 11) -/

/-- A live table: its owner and its descriptor's fields, R214; `slot` is its codebook slot from epoch `slotFlip` on and `oldSlot` the one
before (R185), `dying` the channel that waits for its destruction (320 and above: none waits). -/
structure Table where
  slice : Nat
  rows : Nat
  d : Nat
  fmt : Nat
  mode : Nat
  st : Nat
  band : Nat
  slot : Nat
  oldSlot : Nat
  slotFlip : Nat
  prog : Nat
  uprog : Nat
  dying : Option Nat
deriving DecidableEq, Repr

/-- A live cache: its owner and its descriptor's fields, R237. -/
structure Cache where
  slice : Nat
  layers : Nat
  kvh : Nat
  group : Nat
  hd : Nat
  fmt : Nat
  run : Nat
  scale : Nat
  maxSeq : Nat
  maxPos : Nat
  prog : Nat
  dying : Option Nat
deriving DecidableEq, Repr

/-- A live sequence, R239: the regions of its run-entry array (R266), its cache, LEN by layer (unlisted: 0), a truncation that
waits (length, channel, how many descriptors had reached an entry palette when it came) and a destruction that waits (channel, that
count). -/
structure Seq where
  units : List Nat
  cache : Nat
  lens : SMap Nat
  truncTo : Option (Nat × Nat × Nat)
  dying : Option (Nat × Nat)
deriving DecidableEq, Repr

/-- A posted work record, R226: the palette, its lead or home bristle, the entry and head group × 2^32 + run it serves
(attention), the list positions (table work), the inbox slot's SRAM offset, its stamp, its place in the order of posting. -/
structure WRec where
  pal : Nat
  lead : Nat
  entry : Nat
  unit : Nat
  poss : List Nat
  slot : Nat
  stamp : Nat
  ord : Nat
deriving DecidableEq, Repr

/-- A partial that a lead bristle is still adding up over several records: its palette, the bag, the F32 values so far. -/
structure Part where
  pal : Nat
  grp : Nat
  vals : List Nat
deriving DecidableEq, Repr

/-- One entry of an attention step, or one layer of a bulk append, R243, R255. `phase` is 0 waiting, 1 started, 2 ended;
`bound` is how many positions it attends over, `todo` the runs, as (head group, run), whose records have not been posted yet. -/
structure AttEntry where
  seqH : Nat
  layer : Nat
  pos : Nat
  n : Nat
  phase : Nat
  status : Status
  appended : Bool
  bound : Nat
  todo : List (Nat × Nat)
deriving DecidableEq, Repr

/-- A descriptor in work, R224 and R245: `kind` is its opcode, `k` its acceptance number, `stage` 0 accepted, 1 forwarded, `arr` its
place in the order of arrival at entry palettes (R246; 0 while it has not arrived); the index list, bag lengths and weights;
gradient rows or queries as bytes, new keys and values as bytes; the PASIDs under which OUT_ADDR and CPL_ADDR passed their checks
(none: the device's own aperture); the entries; the stamp; records posted and positions that wait to be posted; the sums that leads
have not sent yet; the statuses met with the position or entry that led to each; bags or entries written as NaN; tier reads
returned by position (none: failed), positions whose write to a tier is not placed yet (R291); the counts of the record. -/
structure Work where
  kind : Nat
  slice : Nat
  gen : Nat
  port : Nat
  queue : Nat
  k : Nat
  arr : Nat
  desc : List Byte
  idx : List Nat
  bags : List Nat
  wgts : List Nat
  data : List Byte
  newData : List Byte
  outPasid : Option Nat
  cplPasid : Option Nat
  ents : List AttEntry
  stamp : Nat
  stage : Nat
  recs : List WRec
  waiting : List Nat
  accs : List Part
  events : List (Status × Nat)
  nan : List Nat
  tier : SMap (Option (List Byte))
  tierOut : List Nat
  rows : Nat
  swatch : Nat
  remote : Nat
  info : Nat
deriving DecidableEq, Repr

/-- A copy in progress, R285: the unit (an extent, a run, or 2^32 + a segment's index), its source and destination, `phase` 0
copying, 1 HELD, 2 ready to flip, how many passes have run, the granules still dirty, and whether the copy adds a swatch record instead (its number and record). -/
structure Copy where
  handle : Nat
  unit : Nat
  src : UnitPlace
  dst : UnitPlace
  phase : Nat
  passes : Nat
  dirty : List Nat
  swatch : Option (Nat × Nat)
deriving DecidableEq, Repr

/-- A flip that awaits its drain, R274: the handle, the epoch it set, the map entries it changed, the 64 KiB regions to
free when it ends. -/
structure Drain where
  handle : Nat
  epoch : Nat
  segs : List Nat
  excs : List Nat
  runs : List Nat
  freed : List Nat
deriving DecidableEq, Repr

/-- Time-slicing of a shared cluster, R293 to R295: the slices that share it, the one whose turn runs, whether a switch is
under way, the 10 µs tick at which the turn began, the OVERSUB bit and quantum in force since then (R298), and the first region of each
slice's state area as (slice, region). -/
structure Turn where
  slices : List Nat
  cur : Nat
  switching : Bool
  since : Nat
  ctl : Nat
  areas : List (Nat × Nat)
deriving DecidableEq, Repr

/-- The saved state of one bristle in a slice's cluster state area, R125 and R294. -/
structure SavedBristle where
  br : Bristle
  ctl : Nat
  brsPc : Nat
  tvec : Nat
  tmask : Nat
  swatch : Nat
  state : Nat
  flags : List (Nat × Nat × List (Nat × Nat) × List (Nat × Nat))
  sram : SMap Byte
deriving DecidableEq, Repr

/-- A placement command that waits, R296: its channel, handle, kind (0 PLACE_PIN, 1 PLACE_PROMOTE, 2 PLACE_ADMIN), its flags, the
units whose promotion it awaits as (handle, unit), how many have been promoted. -/
structure Ask where
  ch : Nat
  handle : Nat
  kind : Nat
  flags : Nat
  units : List (Nat × Nat)
  done : Nat
deriving DecidableEq, Repr

/-- The composition map and placement, R266 to R298. Directory, segment, exception, run and swatch entries are 32-byte
entries as numbers (byte 0 in bits [7:0]); tables take directory indices 0 to 4,095, caches 4,096 to 4,351. Exception
keys are handle × 2^24 + extent, run keys sequence × 2^32 + index, swatch keys palette × 8,192 + record − 1. `writes` holds
one palette's own words where an indirect write made its copy differ. `mapBad` marks poisoned copies of an entry (1 copy 0, 2
copy 1, 3 both), `heat` holds HEAT + 65,536 × its period by exception key, `tracker` the sixteen sub-counters and their period
by palette × 2^64 + exception key, `resolved` the positions each palette has resolved, `targets` the T2 targets
of each slice, `unusable` the targets marked so (slice × 16 + target, 8 for T3), `saved` bristles by slice × 4,096 + bristle. `offs` are
the exception keys whose swatches are to be flipped off once a drain of their handle ends (R274, R282), `heatCtl` CMP_HEAT_CTL in
force by palette (unlisted: the reset value; R298), `rings` how many records each inbox has taken, by bristle × 2^32 + program
(R226), `arrived` how many descriptors have reached an entry palette. -/
structure Compose where
  dir : SMap Nat
  seg : SMap Nat
  homes : SMap (List Nat)
  exc : SMap Nat
  run : SMap Nat
  mapBad : SMap Nat
  heat : SMap Nat
  tracker : SMap (List Nat)
  swatch : SMap Nat
  writes : SMap Nat
  copies : List Copy
  drains : List Drain
  resolved : SMap Nat
  targets : SMap (List Nat)
  unusable : List Nat
  turns : SMap Turn
  saved : SMap SavedBristle
  asks : List Ask
  offs : List Nat
  heatCtl : SMap Nat
  rings : SMap Nat
  arrived : Nat
deriving DecidableEq, Repr

/-- An empty map. -/
def Compose.reset : Compose :=
  { dir := [], seg := [], homes := [], exc := [], run := [], mapBad := [], heat := [], tracker := [], swatch := [], writes := [],
    copies := [], drains := [], resolved := [], targets := [], unusable := [], turns := [], saved := [], asks := [],
    offs := [], heatCtl := [], rings := [], arrived := 0 }

/-! ## Flags and gathering (spec 12) -/

/-- A waiter of a flag, R302: its bristle and threshold. -/
structure Waiter where
  bid : Nat
  thr : Nat
deriving DecidableEq, Repr

/-- A flag at its home: value, WAIT waiters and WAITDEC waiters in arrival order, R302. -/
structure Flag where
  val : Nat
  wq : List Waiter
  dq : List Waiter
deriving DecidableEq, Repr

/-- A virtual flag's translation-table entry: owner, allocated, generation. -/
structure VEntry where
  slice : Nat
  used : Bool
  gen : Nat
deriving DecidableEq, Repr

/-- A spin-limit report, R307. -/
structure SpinReport where
  bid : Nat
  dec : Bool
  virt : Bool
  flag : Nat
  thr : Nat
  val : Nat
deriving DecidableEq, Repr

/-- A gather slot's contents beyond its header (R316, R317): contributions accepted as (rank, part, lanes), in order of
acceptance. -/
structure Gather where
  got : List (Nat × Nat × Vec)
deriving DecidableEq, Repr

/-- A device slot that palettes have armed for a work item (R315): its slice and item, the bag or entry × 2^16 + head group it merges, the
position or entry reported when it ends in FAULT, the ranks expected (one for each partial), OP, DET, CPP, HEADS and HDIM of R315,
contributions accepted as (rank × 65,536 + how many of that rank and part came before, part, lanes), those discarded. -/
structure DevSlot where
  slice : Nat
  work : Nat
  grp : Nat
  pos : Nat
  ranks : List Nat
  op : Nat
  det : Bool
  cpp : Nat
  heads : Nat
  hdim : Nat
  got : List (Nat × Nat × Vec)
  drops : Nat
deriving DecidableEq, Repr

/-- A contribution or a credit request on its way (R318): the sender and its slice, the target word, the key, the data. -/
structure Contribution where
  bid : Nat
  slice : Nat
  target : Nat
  key : Nat
  data : List Byte
deriving DecidableEq, Repr

/-- A flag operation on its way to its home, R302: SIGNAL, WAIT or WAITDEC. -/
inductive FlagOp where
  | signal (bid slice flag amount : Nat)
  | wait (bid slice flag thr : Nat)
  | waitdec (bid slice flag thr : Nat)
deriving DecidableEq, Repr

/-- Synchronization state: direct flags by 64 × home + index, virtual flags by 16,384 × stretcher + index, their entries,
report queues per palette, slice slots (`slots`) and device slots (`dev`) of the gather units by 65,536 × unit + slot, operations and releases on their way, contributions
that wait for a credit and granted ones, SIGNALs held for saved bristles (R295, as home × 64 + slice, word, amount), parked clusters (24 p + c). -/
structure Sync where
  direct : SMap Flag
  virt : SMap Flag
  entries : SMap VEntry
  reports : SMap (List SpinReport)
  slots : SMap Gather
  dev : SMap DevSlot
  flight : List FlagOp
  releases : List (Nat × Option Nat)
  waiting : List Contribution
  granted : List Contribution
  heldSig : List (Nat × Nat × Nat)
  parked : List Nat
  lastGrant : SMap Nat
deriving DecidableEq, Repr

/-- Every flag zero, no entry allocated, every slot free. -/
def Sync.reset : Sync :=
  { direct := [], virt := [], entries := [], reports := [], slots := [], dev := [], flight := [], releases := [], waiting := [],
    granted := [], heldSig := [], parked := [], lastGrant := [] }

/-! ## DMA channels (spec 13) -/

/-- A DMA channel beyond its registers, R326 to R338. `phase`: 0 idle, 1 a fetch at `nxt` is due, 2 moving bytes, 3 a SIGNAL is
due, 4 a write-back is due, 5 a reread of NEXT is due (RELOAD on an idle channel). `desc` is the current descriptor as
fetched, `status` what its write-back will say, `rd` and `wr` the bytes read and written, `issued` the bytes of source
accesses issued, `hold` the holding register, `ret` returned host data by source offset (2^40 the descriptor, 2^41 NEXT), `sl` the
slice and `gen` the generation of the chain, `bad` its error history, `failed` a failure while pausing, `aborting` an abort
that waits for the pause, `todo` the actions of R643 that wait (0 START, 1 RELOAD). -/
structure DmaChan where
  phase : Nat
  nxt : Nat
  cur : Nat
  desc : List Byte
  status : Status
  rd : Nat
  wr : Nat
  issued : Nat
  hold : List Byte
  ret : SMap (Status × List Byte)
  gen : Nat
  bad : Bool
  failed : Bool
  aborting : Bool
  todo : List Nat
deriving DecidableEq, Repr

/-- An idle channel at reset. -/
def DmaChan.init : DmaChan :=
  { phase := 0, nxt := 0, cur := 0, desc := [], status := .ok, rd := 0, wr := 0, issued := 0, hold := [], ret := [], gen := 0,
    bad := false, failed := false, aborting := false, todo := [] }

/-- A cluster channel saved at a turn end, R338: its registers' words and what lies beyond them. -/
structure SavedChan where
  ctl : Nat
  status : Nat
  next : Nat
  irq : Nat
  count : Nat
  chan : DmaChan
deriving DecidableEq, Repr

/-! ## Host links (spec 14) and host memory access (spec 15) -/

/-- What an outstanding non-posted request reads for: a work queue (slice × 128 + queue), a DMA channel (engine × 64 + k) at a
source offset (2^40 its descriptor, 2^41 its NEXT field), the zero-length read of R474 before the FLUSH or WRITE_IMM whose
LAST packet is psn, or something else. -/
inductive ReadFor where
  | wq (key : Nat)
  | dma (chan off : Nat)
  | tmt (conn psn port : Nat)
  | other (n : Nat)
deriving DecidableEq, Repr

/-- A non-posted request, R361, R388: its port, index and tag generation, function, slice and slice generation, whether its
index is quarantined (R364), what it reads for, the tick of its transmission or, in quarantine, of
its timeout report, and its timeout in µs (R363). -/
structure Npr where
  port : Nat
  idx : Nat
  tagGen : Nat
  fn : Nat
  slice : Nat
  sgen : Nat
  quar : Bool
  what : ReadFor
  since : Nat
  tmo : Nat
deriving DecidableEq, Repr

/-- A work queue, R354 to R357: its port, ring, PASID index, head write-back address, vector; the head fetched so far and the
tail; ERROR; the doorbells on wrong ports; slots of the read in progress and how often it timed out; its returned data;
slots fetched and not yet accepted; whether the first of them has waited under FENCE. -/
structure Wq where
  slice : Nat
  num : Nat
  port : Nat
  ring : Nat
  size : Nat
  pasid : Nat
  hwb : Nat
  vec : Nat
  head : Nat
  tail : Nat
  err : Bool
  dbErr : Nat
  fetching : Nat
  tries : Nat
  ret : Option (Status × List Byte)
  ready : List (List Byte)
  fenced : Bool
deriving DecidableEq, Repr

/-- A posted write or message that waits for its function, R365: function 0 to 2, host address, relaxed ordering, PASID, bytes;
a message has no bytes and its vector as the address. -/
structure HeldPost where
  fn : Nat
  pasid : Nat
  addr : Nat
  ro : Bool
  bytes : List Byte
deriving DecidableEq, Repr

/-- A port: trained; configuration words written, by function × 4,096 + offset; MSI-X table words by function × 2^16 + 4 × vector
+ word; pending bits by function × 4,096 + vector; held posts; the LTR value last sent (µs) and when; since
when the drain of a function level reset of function 0 has been in progress; when a packet last passed (R366). Times are ticks of 10 µs. -/
structure PortX where
  up : Bool
  cfg : SMap Nat
  msix : SMap Nat
  pend : List Nat
  held : List HeldPost
  ltr : Nat
  ltrTick : Nat
  flr : Option Nat
  busyTick : Nat
deriving DecidableEq, Repr

/-- A port at reset. -/
def PortX.init : PortX := { up := false, cfg := [], msix := [], pend := [], held := [], ltr := 3000, ltrTick := 0, flr := none, busyTick := 0 }

/-- The host side: ports 0 to 7, outstanding and quarantined requests, tag generations by port × 4,096 + index, work queues by
slice × 128 + queue, vectors of function 0 assigned to slices by port × 2,048 + vector (R369), doorbells held before
RUNNING (R76), aperture entries by port × 32,768 + n and grant entries by port × 224 + g (R371), PASID entries by die ×
1,024 + i and window entries by slice × 64 + w (R396), the table's GEN (R352), the presets that set the ports' equalization (R341), what waits
for an index on a port, in arrival order (R361). -/
structure HostLink where
  ports : SMap PortX
  npr : List Npr
  gens : SMap Nat
  wqs : SMap Wq
  vecs : SMap Nat
  heldDb : List (Nat × Nat × Nat)
  apt : SMap Nat
  grant : SMap Nat
  pasid : SMap Nat
  win : SMap Nat
  ddtGen : Nat
  presets : SMap Nat
  npWait : List (Nat × ReadFor)
deriving DecidableEq, Repr

/-- No link, no entry, no queue. -/
def HostLink.reset : HostLink :=
  { ports := [], npr := [], gens := [], wqs := [], vecs := [], heldDb := [], apt := [], grant := [], pasid := [], win := [],
    ddtGen := 0, presets := [], npWait := [] }

/-! ## Slices (spec 15) -/

/-- A result held for a host-absent slice, R392: the port, the issuing function, the host writes in order (address, relaxed
ordering, PASID, bytes). -/
structure HeldResult where
  port : Nat
  fn : Nat
  writes : List (Nat × Bool × Nat × List Byte)
deriving DecidableEq, Repr

/-- A slice beyond its SLC registers: quotas in R379's order (0 clusters, 1 stack memory, 2 staging, 3 tables, 4 caches, 5
virtual flags, 6 work queues, 7 DMA channels, 8 MSI-X vectors, 9 TMT connections, 10 storage queue pairs, 11 namespaces, 12
key slots, 13 scheduler share), the driver slot attached (bank × 16 + d), the command in progress (0 none, 1 SLICE_QUOTA, 2
SLICE_RESET, 3 SLICE_DESTROY, 4 DIRTY_HARVEST) and the channel that waits for it, its scope, whether the generation waits to
advance, clusters being given up and how many have moved (R381) with the units flipped off them as (handle, unit, old home), held
results with the limit in force and when the mark fell, when a drain or a giving up began, the regions the two dirty
maps take, the destination and address of a DIRTY_HARVEST that waits. -/
structure SliceX where
  quotas : List Nat
  driver : Option Nat
  cmd : Nat
  cmdCh : Nat
  scope : Nat
  advance : Bool
  giving : List Nat
  moved : Nat
  rehomed : List (Nat × Nat × Nat)
  hold : List HeldResult
  holdLimit : Nat
  markTick : Nat
  drainTick : Nat
  dirtyRegs : List Nat
  harvest : Option (Nat × Nat)
deriving DecidableEq, Repr

/-- A slice that nothing has been done for. -/
def SliceX.init : SliceX :=
  { quotas := [], driver := none, cmd := 0, cmdCh := 320, scope := 0, advance := false, giving := [], moved := 0,
    rehomed := [], hold := [], holdLimit := 16, markTick := 0, drainTick := 0, dirtyRegs := [], harvest := none }

/-! ## Storage controller (spec 16) -/

/-- A submission or completion queue of a controller, R404: its base, its size in entries, the controller's index and the host's
index (for a submission queue head and tail, for a completion queue tail and head), the phase bit, the vector, IEN, the
completion queue a submission queue names, whether its deletion is in progress (the admin command's CID). -/
structure NvmQueue where
  base : Nat
  size : Nat
  dev : Nat
  host : Nat
  phase : Bool
  vec : Nat
  ien : Bool
  cq : Nat
  deleting : Option Nat
deriving DecidableEq, Repr

/-- A transfer between a namespace's region and storage buffers, R413: the connection and region key, its direction, ranges not yet
asked for as (offset in the region, length), data bytes asked for so far, requests outstanding as (tag, data offset, length), the tag of
the closing FLUSH and whether it has returned, the data to write (none: zeros). -/
structure Xfer where
  conn : Nat
  rkey : Nat
  write : Bool
  todo : List (Nat × Nat)
  off : Nat
  tags : List (Nat × Nat × Nat)
  flush : Option Nat
  flushed : Bool
  data : List Byte
deriving DecidableEq, Repr

/-- An NVMe command fetched whose remote transfer is in progress, R405, R413: its submission queue, CID, opcode, namespace, PRP
pages as (host address, length), the transfer, whether it has reached its backing, the 10 µs tick at which the transfer began. -/
structure NvmCmd where
  sq : Nat
  cid : Nat
  op : Nat
  ns : Nat
  prps : List (Nat × Nat)
  xfer : Xfer
  backed : Bool
  since : Nat
deriving DecidableEq, Repr

/-- A completion entry not yet posted (its completion queue has no room): its queue, DW0, submission queue, CID, status field
without phase, the namespace it concerns (64: none). -/
structure NvmPost where
  cq : Nat
  dw0 : Nat
  sq : Nat
  cid : Nat
  status : Nat
  ns : Nat
deriving DecidableEq, Repr

/-- A controller, R397 to R408: CC, AQA, ASQ, ACQ, RDY, CFS, SHST; queues by number; commands in progress, entries to post; current
features by identifier; AER commands outstanding, events not yet reported; the error log, newest first, as (count, queue, CID,
status field); reads and writes done; the power state and the last operational one;
the queue whose turn it is and how many more it may give in this turn (R405; 65,536: a round begins); the 10 µs tick of what last ended
its idleness (R421). -/
structure Nvm where
  cc : Nat
  aqa : Nat
  asq : Nat
  acq : Nat
  rdy : Bool
  cfs : Bool
  shst : Nat
  sqs : SMap NvmQueue
  cqs : SMap NvmQueue
  cmds : List NvmCmd
  posts : List NvmPost
  feats : SMap Nat
  aers : List Nat
  events : List Nat
  errors : List (Nat × Nat × Nat × Nat)
  errCount : Nat
  mediaErrs : Nat
  reads : Nat
  writes : Nat
  ps : Nat
  lastOp : Nat
  turn : Nat
  left : Nat
  idle : Nat
deriving DecidableEq, Repr

/-- A controller at reset. -/
def Nvm.init : Nvm :=
  { cc := 0, aqa := 0, asq := 0, acq := 0, rdy := false, cfs := false, shst := 0, sqs := [], cqs := [], cmds := [], posts := [],
    feats := [], aers := [], events := [], errors := [], errCount := 0, mediaErrs := 0, reads := 0, writes := 0, ps := 0, lastOp := 0,
    turn := 65536, left := 0, idle := 0 }

/-- A namespace, R411: its owner, kind (1 scratch, 2 remote), LBAF, NGUID, backing bytes and NSZE, its regions (scratch), its
connection, region key, offset and the target's module serial (remote), the controllers it is attached to, and its destruction or detachment in progress
(channel, controller or 8 for all). -/
structure Namespace where
  slice : Nat
  kind : Nat
  lbaf : Nat
  nguid : Nat
  bytes : Nat
  blocks : Nat
  regions : List Nat
  conn : Nat
  rkey : Nat
  roff : Nat
  serial : Nat
  ctrls : List Nat
  ending : Option (Nat × Nat)
deriving DecidableEq, Repr

/-- One namespace of an operation record, R419: its number, NGUID, kind, capacity, the target's serial and ROFF. -/
structure RecNs where
  num : Nat
  nguid : Nat
  kind : Nat
  bytes : Nat
  serial : Nat
  roff : Nat
deriving DecidableEq, Repr

/-- A recorded operation, R418 to R420: 1 FORMAT or 2 SANITIZE, the new LBAF, its namespaces, POS and TOTAL; the Format command's
submission queue and CID (none once the controller forgot it); the remote chunk in progress and what became of the last one (0 nothing, 1
written, 2 failed); the 10 µs ticks at which it began to fail and last failed; the POS in the flash record (none: no record was written); whether zero-filling has begun; whether it ended
while its record could not be cleared. -/
structure RecOp where
  kind : Nat
  lbaf : Nat
  nss : List RecNs
  pos : Nat
  total : Nat
  cmd : Option (Nat × Nat)
  chunk : Option Xfer
  verdict : Nat
  bad : Option (Nat × Nat)
  saved : Option Nat
  started : Bool
  ended : Bool
deriving DecidableEq, Repr

/-- The storage controllers: by number, namespaces by number, recorded operations by controller (the flash record holds them
through a device reset), namespaces that refuse I/O after a failed sanitize as 64 × controller + number, the sanitize status of each
controller (0 never, 1 completed, 3 failed), tags of device requests whose command has ended. -/
structure Storage where
  ctrl : SMap Nvm
  ns : SMap Namespace
  ops : SMap RecOp
  failed : List Nat
  san : SMap Nat
  dead : List Nat
deriving DecidableEq, Repr

/-- Eight controllers at reset, no namespace, no operation. -/
def Storage.reset : Storage := { ctrl := [], ns := [], ops := [], failed := [], san := [], dead := [] }

/-! ## Ethernet (spec 17) and scheduling (spec 18) -/

/-- A received frame admitted for MGMT, R437, R439: its port (die × 8 + index), class, size with its FCS, bytes without it, and
its timestamp in ns (R429). -/
structure RxFrame where
  port : Nat
  cls : Nat
  size : Nat
  bytes : List Byte
  stamp : Nat
deriving DecidableEq, Repr

/-- A frame to transmit: its source (a connection, or 65,536 the atelier firmware), its slice (64: none), its port (die × 8 +
index), bytes without FCS, and whether firmware marked it for a timestamp (R429). -/
structure TxFrame where
  src : Nat
  slice : Nat
  port : Nat
  bytes : List Byte
  mark : Bool
deriving DecidableEq, Repr

/-- A frame in a transmit queue with the class its classification gave it, R445. -/
structure TxQueued where
  frame : TxFrame
  cls : Nat
deriving DecidableEq, Repr

/-- The frame a port is sending: its queue, its counted length (R447), how much of that its credits have been debited, in
1/4,096 byte, and whether its link went down under it (R440). -/
structure OnWire where
  q : Nat
  frame : TxFrame
  counted : Nat
  sent : Nat
  lost : Bool
deriving DecidableEq, Repr

/-- A port's gate list beyond SCH_PORT_STATUS, R453 to R456: the start of the cycle in force and of the entry in force, and the
instant a bank takes over, in ns of 1588 time; that bank; whether M2 stopped the list (R457). -/
structure GateList where
  cycle : Nat
  entryAt : Nat
  takeAt : Option Nat
  bank : Nat
  asleep : Bool
deriving DecidableEq, Repr

/-- The network dies beyond their registers. Ports are die × 8 + index, queues port × 64 + queue. Rule words go by (die × 1,024 +
rule) × 64 + word (36 is the hit count), credits by queue in 1/4,096 byte and at 2^16 + port × 64 + slice for slices, turns
by port × 8 + priority as (queue, whether its quantum was added), scheduler values in force by register address (R452),
addresses by port (IPv4 at port, IPv6 at 16 + port; R439, R494), and the configuration flash record by register address (R425,
R436). `held` is the queue and class of the green frame a source holds, by die × 2^17 + source (R446); `paused` when a partner
stopped a class and for how many ns, `xoffAt` when a PFC frame was last sent for one, both by port × 8 + class (R438); `refills`
the tick of a die's last refill and how many it had in that tick (R450). -/
structure Net where
  rules : SMap Nat
  mgmt : List RxFrame
  source : List TxFrame
  txq : SMap (List TxQueued)
  wire : SMap OnWire
  credit : SMap Int
  deficit : SMap Nat
  turn : SMap (Nat × Bool)
  eff : SMap Word32
  gate : SMap GateList
  ip : SMap Nat
  flash : SMap Nat
  held : SMap (Nat × Nat)
  paused : SMap (Nat × Nat)
  xoffAt : SMap Nat
  refills : SMap (Nat × Nat)
deriving DecidableEq, Repr

/-- No frame, no rule, no address. -/
def Net.reset : Net :=
  { rules := [], mgmt := [], source := [], txq := [], wire := [], credit := [], deficit := [], turn := [], eff := [], gate := [],
    ip := [], flash := [], held := [], paused := [], xoffAt := [], refills := [] }

/-! ## TMT (spec 19, 20) -/

/-- A send or setup queue, R466, R488: where its ring lies (a port, or none for stack memory), its completion queue, the head
fetched so far and the tail; ERROR and the doorbells on wrong ports as R355 has them. -/
structure TmtSq where
  slice : Nat
  num : Nat
  die : Nat
  setup : Bool
  port : Option Nat
  ring : Nat
  size : Nat
  cq : Nat
  head : Nat
  tail : Nat
  err : Bool
  dbErr : Nat
deriving DecidableEq, Repr

/-- A completion queue, R466, R475: entries written in all (the place and the phase of the next), the head software gave, ARM. -/
structure TmtCq where
  slice : Nat
  num : Nat
  port : Option Nat
  ring : Nat
  size : Nat
  vec : Nat
  written : Nat
  head : Nat
  arm : Bool
  err : Bool
  dbErr : Nat
deriving DecidableEq, Repr

/-- Who made a work request: a send queue (slice × 256 + queue), or the device under a tag. -/
inductive Origin where
  | sq (key : Nat)
  | device (tag : Nat)
deriving DecidableEq, Repr

/-- A request accepted onto a connection, R467 to R475. `n` is its packets, `sent` how many have been given a PSN from `first`
on, `acked` how many are acknowledged; `status`, `stPsn` and `sub` are those of the lowest refusal; `missing` the ranges a READ
still lacks, `asks` its READ_REQs as (PSN, offset, length), `places` the window places it holds, `asked` when its bytes last moved. -/
structure Req where
  origin : Origin
  op : Nat
  flags : Nat
  laddr : Nat
  len : Nat
  rkey : Nat
  roff : Nat
  imm : Nat
  add : Nat
  wrid : Nat
  gen : Nat
  port : Nat
  msn : Nat
  first : Nat
  n : Nat
  sent : Nat
  acked : Nat
  status : Status
  stPsn : Nat
  sub : Nat
  remote : Bool
  retried : Bool
  done : Bool
  value : Nat
  missing : List (Nat × Nat)
  asks : List (Nat × Nat × Nat)
  places : Nat
  asked : Nat
deriving DecidableEq, Repr

/-- A packet sent and not yet acknowledged, R481: its PSN, its message, the message bytes it carries (or asks for), `phase` 0 in
flight, 1 lost, 2 waiting after NAK_RNR, 3 to be resent after that wait; how often it was sent, when last (in phase 2: when its NAK came), how often NAK_RNR met it. -/
structure SentPkt where
  psn : Nat
  msn : Nat
  off : Nat
  len : Nat
  phase : Nat
  times : Nat
  sentAt : Nat
  rnr : Nat
deriving DecidableEq, Repr

/-- A packet that passed R465: the die and class that hold its receive buffer bytes, whether it was CE-marked, its connection,
opcode, flags [3:0] of header byte 0, PSN, MSN, extension and payload. -/
structure TPkt where
  die : Nat
  cls : Nat
  size : Nat
  ce : Bool
  conn : Nat
  op : Nat
  flags : Nat
  psn : Nat
  msn : Nat
  ext : List Byte
  payload : List Byte
deriving DecidableEq, Repr

/-- A WRITE_IMM whose LAST packet arrived, R473: that packet's PSN, its packets, immediate and length; `issued` ports whose
zero-length reads are outstanding (8 more than the port: it waits for an index, R361), `asked` whether they were issued. -/
structure TgtImm where
  psn : Nat
  n : Nat
  imm : Nat
  mlen : Nat
  asked : Bool
  issued : List Nat
deriving DecidableEq, Repr

/-- A FLUSH at the target, R474: its PSN, and its zero-length reads as above. -/
structure TgtFlush where
  psn : Nat
  asked : Bool
  issued : List Nat
deriving DecidableEq, Repr

/-- A connection context, R492 to R497. Parameters of TMT_CC_CTL, TMT_ACK_CTL, TMT_RTO_CTL and TMT_RETRY_CTL as they stood at setup
(R487). `ghosts` are
squashed requests with packets still to be acknowledged. Receiver: EPSN, the receive map (bit i: EPSN + i), the highest PSN, CE marks and packets since the last ACK, the tick of
the earliest of those packets (R480), PSNs of write packets refused, PSNs refused by NAK_RNR, refused writes no target completion has told of
(R473), reads and adds that wait for earlier writes, the last sixteen FETCH_ADDs, host ports written with
the PSN that wrote them. `backing` is its place (the region and slot, when in stack memory), `copy` what the last write-back wrote,
`used` orders the cache, `stateTick` is the tick at which the probe or the close began (R494, R495). -/
structure Conn where
  slice : Nat
  die : Nat
  port : Nat
  state : Nat
  incarn : Nat
  flags : Nat
  payload : Nat
  dscp : Nat
  tci : Nat
  ctxAddr : Nat
  ctxPort : Nat
  tcq : Nat
  key : Nat
  txSalt : Nat
  rxSalt : Nat
  flagWord : Nat
  peerConn : Nat
  peerIncarn : Nat
  peerIp : Nat
  nextHop : Nat
  ccCtl : Nat
  ackCtl : Nat
  rtoCtl : Nat
  retryCtl : Nat
  backing : Nat
  cached : Bool
  used : Nat
  copy : List Byte
  iv : Nat
  nextPsn : Nat
  msn : Nat
  cwnd : Nat
  ssthresh : Nat
  cut : Nat
  srtt : Option Nat
  rttvar : Nat
  rto : Nat
  timer : Option Nat
  expiries : Nat
  reqs : List Req
  ghosts : List Req
  pkts : List SentPkt
  epsn : Nat
  rmap : Nat
  high : Nat
  ce : Nat
  since : Nat
  ackTick : Nat
  refused : List Nat
  rnr : List Nat
  priors : List Nat
  imms : List TgtImm
  flushes : List TgtFlush
  held : List TPkt
  adds : List (Nat × Nat)
  wrote : List (Nat × Nat)
  probing : Option (Nat × Nat)
  closing : Option (Nat × Nat)
  stateTick : Nat
deriving DecidableEq, Repr

/-- A memory region, R501, R502: its owner (64 the device), PERM, RCONN, whether ADDR is a host address and through which port,
and its epoch. An entry that is not valid keeps its epoch. -/
structure Region where
  valid : Bool
  slice : Nat
  perm : Nat
  rconn : Nat
  lhost : Bool
  port : Nat
  addr : Nat
  len : Nat
  epoch : Nat
  retired : Bool
deriving DecidableEq, Repr

/-- A setup request fetched into the setup FIFO, R491: its die, setup queue and 64 bytes. -/
structure SetupReq where
  die : Nat
  sq : Nat
  bytes : List Byte
deriving DecidableEq, Repr

/-- A revocation that awaits the packets admitted under the old epoch, R505: the index, the old epoch, FREE, and the setup queue
and REQ_ID that it answers (none: firmware's own); whether the zero-length read of a host region was asked for and is outstanding. -/
structure Revoke where
  index : Nat
  epoch : Nat
  free : Bool
  sq : Option Nat
  reqId : Nat
  asked : Bool
  issued : Bool
deriving DecidableEq, Repr

/-- A completion entry that waits for room in its queue (slice × 256 + queue). -/
structure TmtPost where
  cq : Nat
  entry : List Byte
deriving DecidableEq, Repr

/-- The TMT engine beyond its registers: queues by slice × 256 + queue, connections, incarnations last used (a number never
opened is unlisted), received packets in arrival order, the miss buffer, contexts being fetched, regions by index, revocations,
the setup FIFO, entries that wait for room, results of the device's own requests by tag, the next such tag, the cache order. -/
structure Tmt where
  sqs : SMap TmtSq
  cqs : SMap TmtCq
  conns : SMap Conn
  incarns : SMap Nat
  rx : List TPkt
  miss : List TPkt
  fetch : List Nat
  mrs : SMap Region
  revokes : List Revoke
  setup : List SetupReq
  posts : List TmtPost
  results : SMap (Status × Nat × List Byte)
  nextTag : Nat
  clock : Nat
deriving DecidableEq, Repr

/-- No queue, no connection, no region. -/
def Tmt.reset : Tmt :=
  { sqs := [], cqs := [], conns := [], incarns := [], rx := [], miss := [], fetch := [], mrs := [], revokes := [], setup := [],
    posts := [], results := [], nextTag := 0, clock := 0 }

/-! ## Keys and cipher engines (spec 21) -/

/-- A key slot, R510 to R515: state 0 FREE, 1 EMPTY, 2 LOADED, 3 DRAINING, 4 FAULT; its owner (64: a device slot); KLEN, USAGE, the
key's bytes; the transmit salts served since the load (R523); the channel and command (0 KEY_ERASE, 1 KEY_FREE) of a drain. -/
structure KeySlot where
  state : Nat
  slice : Nat
  klen : Nat
  usage : Nat
  key : List Byte
  salts : List Nat
  drainCh : Nat
  toFree : Bool
deriving DecidableEq, Repr

/-- A cipher request accepted onto an engine queue, R516 to R520: its engine, slice, generation, work queue and port, descriptor,
the PASIDs under which SRC, DST and CPL_ADDR passed (none: the device's own aperture), input data, AAD and parameter block, and
the status its reads left it with. -/
structure CipherReq where
  engine : Nat
  slice : Nat
  gen : Nat
  port : Nat
  queue : Nat
  k : Nat
  desc : List Byte
  dstPasid : Option Nat
  cplPasid : Option Nat
  src : HostData
  aad : HostData
  param : HostData
  fault : Option Status
deriving DecidableEq, Repr

/-- Key store and cipher engines beyond their registers; `bytes` is what each engine has processed. -/
structure Cipher where
  slots : SMap KeySlot
  reqs : List CipherReq
  bytes : SMap Nat
deriving DecidableEq, Repr

/-- Every slot FREE, every queue empty. -/
def Cipher.reset : Cipher := { slots := [], reqs := [], bytes := [] }

/-! ## Varnish (spec 22) -/

/-- A shard entry of a manifest, R540. -/
structure MEnt where
  handle : Nat
  unit : Nat
  step : Nat
  loc : Nat
  bytes : Nat
  lost : Bool
  digest : Nat
deriving DecidableEq, Repr

/-- A handle record of a manifest, R539: HANDLE, KIND, PARENT, DESC, the sequence's LEN values. -/
structure HRec where
  handle : Nat
  kind : Nat
  parent : Nat
  desc : List Byte
  lens : List Nat
deriving DecidableEq, Repr

/-- A running or held step, R533 to R537: 1 a buddy step, 2 a persistent one; its number; phase 0 started, 1 HELD, 2 CUT, 3 COPY,
4 manifest body, 5 header, 6 all placed; HOLD_CAUSE; the handles protected at its cut, its entries and handle records, CUT_TIME;
PENDING shards not yet read and those whose bit the cut cleared (handle × 2^32 + unit); manifest bytes still to write as (offset
in the target, bytes); writes outstanding as (tag, staging buffer); connections still to FLUSH, FLUSHes outstanding, whether this
phase's FLUSHes have begun; the status it will end with; the channels whose VRN_DRAIN it serves. -/
structure VStep where
  kind : Nat
  num : Nat
  phase : Nat
  cause : Nat
  prot : List Nat
  ents : List MEnt
  recs : List HRec
  cutTime : Nat
  todo : List Nat
  cleared : List Nat
  parts : List (Nat × List Byte)
  out : List (Nat × Nat)
  toFlush : List Nat
  flushes : List Nat
  flushing : Bool
  verdict : Status
  chs : List Nat
deriving DecidableEq, Repr

/-- A restore, R541 to R544: 0 ADOPT, 1 PULL, 2 PERSIST, and 3 the reading of the own lease's manifests after a device reset; the slice and the channel that asked; the owner (member number for ADOPT) and
its serial; whether the persistent copy is the source now; stage 0 headers, 1 bodies, 2 copies, 3 the candidate failed, 4 verified, 5 manifests read (mode 3);
slots still to try, the candidate; reads to issue as (offset in the source, bytes), outstanding as (tag, buffer, offset, bytes), and
what was read, by offset. -/
structure VRestore where
  mode : Nat
  slice : Nat
  ch : Nat
  owner : Nat
  serial : Nat
  persist : Bool
  stage : Nat
  slots : List Nat
  slot : Nat
  todo : List (Nat × Nat)
  out : List (Nat × Nat × Nat × Nat)
  got : SMap (List Byte)
deriving DecidableEq, Repr

/-- A lease held for an owner, R530: its member number and serial, first 64 KiB region, GiB, the key of its region, whether it has been
adopted (R543). -/
structure Lease where
  owner : Nat
  serial : Nat
  base : Nat
  gib : Nat
  rkey : Nat
  adopted : Bool
deriving DecidableEq, Repr

/-- Varnish beyond its registers: the buddy assigned by the manager (its member number), whether it is reachable, the
connections to it, the lease's region key and GiB; protected handles, and changes that wait for a cut under way (R549); entries of
the newest valid manifest, its step, and the pool units it names; the persistent target (connection, key, offset, length);
the step running or held, requests recorded as pending (kind, channels whose VRN_DRAIN they serve), the tick at which the last step
started, the restore, leases held. -/
structure Varnish where
  buddy : Option Nat
  buddyUp : Bool
  conns : List Nat
  rkey : Nat
  gib : Nat
  prot : List Nat
  queued : List (Nat × Bool)
  ents : List MEnt
  prev : Nat
  held : List (Nat × Nat)
  target : Option (Nat × Nat × Nat × Nat)
  step : Option VStep
  reqs : List (Nat × List Nat)
  started : Nat
  restore : Option VRestore
  leases : List Lease
deriving DecidableEq, Repr

/-- No buddy, nothing protected. -/
def Varnish.reset : Varnish :=
  { buddy := none, buddyUp := false, conns := [], rkey := 0, gib := 0, prot := [], queued := [], ents := [], prev := 0, held := [],
    target := none, step := none, reqs := [], started := 0, restore := none, leases := [] }

/-! ## The hierarchy (spec 23) -/

/-- A member of the job as this device knows it: STATE, ROLE and REASON of HRC_MEMBER_STATUS, its buddy, serial and addresses;
periods missed, whether one of its heartbeats arrived in this period, MGR_SILENT and JSTEP it last reported and whether it reported
SELF_FAIL; the control connection to it, its transmit salt. -/
structure Member where
  state : Nat
  role : Nat
  reason : Nat
  buddy : Option Nat
  serial : Nat
  ips : List Nat
  missed : Nat
  heard : Bool
  silent : Nat
  jstep : Nat
  selfFail : Bool
  conn : Option Nat
deriving DecidableEq, Repr

/-- A job map being offered to the job slice's host, R564: its parts as bytes, the part written last, the tick at which it was
written and that of the last look at DONE, whether the map has been acknowledged, its epoch. -/
structure JobMapOut where
  epoch : Nat
  parts : List (List Byte)
  index : Nat
  since : Nat
  poll : Nat
  acked : Bool
deriving DecidableEq, Repr

/-- The hierarchy beyond the HRC registers: job slice, the job map area's port and address; members other than this device; manager's number
(this device's own where it is manager), deputy; heartbeats sent since joining (SEQ), the highest member number issued; own serial
order: job steps ordered and the newest that this device has completed, with the step number that serves the one under way; members
declared in the shrink under way, those whose adoption has been ordered, those the deputy's records call not fenced everywhere, those whose
FENCE_DONE is awaited, the tick of each member's fencing order and of the last declaration, whether
a takeover's conditions hold and for how many periods only the first has; members that reached 5 during a restart; fences whose
revocations are under way; the map on offer and those behind it, JMAP_STALL; channels that wait for a join or a leave, the tick of the
join, the step that a leave waits for; whether the conditions of ISOLATED hold; the ticks of the last heartbeat and of the last period's end. -/
structure Hrc where
  slice : Nat
  port : Nat
  area : Nat
  members : SMap Member
  mgr : Nat
  deputy : Option Nat
  seqNo : Nat
  issued : Nat
  jstep : Nat
  jdone : Nat
  jwait : Option (Nat × Nat)
  failed : List Nat
  ordered : List Nat
  unfenced : List Nat
  waitFence : List Nat
  fenceTicks : SMap Nat
  declTick : Nat
  takeOk : Bool
  takeWait : Nat
  late : List (Nat × Nat)
  fences : List (Nat × List Nat)
  map : Option JobMapOut
  maps : List JobMapOut
  stall : Bool
  joinCh : Option Nat
  leaveCh : Option Nat
  joinTick : Nat
  leaveStep : Option Nat
  isoDue : Bool
  beatTick : Nat
  periodTick : Nat
deriving DecidableEq, Repr

/-- No job. -/
def Hrc.reset : Hrc :=
  { slice := 0, port := 0, area := 0, members := [], mgr := 0, deputy := none, seqNo := 0, issued := 0, jstep := 0, jdone := 0,
    jwait := none, failed := [], ordered := [], unfenced := [], waitFence := [], fenceTicks := [], declTick := 0, takeOk := false, takeWait := 0, late := [], fences := [],
    map := none, maps := [], stall := false, joinCh := none, leaveCh := none, joinTick := 0, leaveStep := none, isoDue := false,
    beatTick := 0, periodTick := 0 }

/-! ## Mailboxes (spec 24) -/

/-- A pending notice, R578: its kind and words 1 to 4. -/
structure Notice where
  kind : Nat
  words : List Nat
deriving DecidableEq, Repr

/-- A queue of notices, oldest first, with the count of notices dropped since the last one delivered. -/
structure NoticeQueue where
  items : List Notice
  dropped : Nat
deriving DecidableEq, Repr

/-- Mailbox state beyond the MBX registers: SEQ + 1 of the last command acknowledged on each channel (R581) and its return code
with its result words, channels with a command in progress (R573), bindings that wait for one as (word 3 of MBX_BIND, grant entry),
notice queues of slices and secure banks, notices delivered to each channel, the notice each full OUT side holds, the 10 µs tick of
the last beat of each driver slot (bank × 16 + d). Channel c of bank b is 32 b + c. -/
structure Mbx where
  acked : SMap Nat
  results : SMap (List Nat)
  busy : List Nat
  binds : SMap (Nat × Nat)
  sliceQ : SMap NoticeQueue
  bankQ : SMap NoticeQueue
  outSeq : SMap Nat
  loaded : SMap Notice
  beats : SMap Nat
deriving DecidableEq, Repr

/-- Every side and queue empty. -/
def Mbx.reset : Mbx :=
  { acked := [], results := [], busy := [], binds := [], sliceQ := [], bankQ := [], outSeq := [], loaded := [], beats := [] }

/-- A registered bristle program, R126, R226, R583: its owner, image address and length, ENC, RSTK_MODE, inbox offset and depth. -/
structure Program where
  slice : Nat
  addr : Nat
  len : Nat
  enc : Nat
  rstk : Nat
  inboxOff : Nat
  inboxDepth : Nat
deriving DecidableEq, Repr

/-- What firmware last loaded into a bristle, R126: the program's handle (0: the built-in one) and its start address. -/
structure Loaded where
  prog : Nat
  pc : Nat
deriving DecidableEq, Repr

/-! ## Counters, time (spec 25) -/

/-- A dump set, R597 to R600: the slice it writes for, its counter IDs, period, destination, mode, ring, connection and region key, the
address and last value of the consumer's head, records dropped since the last one written, whether its next record tells of a
suspension, whether the time was stepped since, its last snapshot's time, the tag of the TMT write in flight. The rest is in
PMU_DUMP_CTL, SEQ, DROP and WR. -/
structure DumpSet where
  slice : Nat
  ids : List Nat
  period : Nat
  dest : Nat
  mode : Nat
  ring : Nat
  size : Nat
  conn : Nat
  rkey : Nat
  headAddr : Nat
  head : Nat
  dropped : Nat
  wasSusp : Bool
  stepped : Bool
  last : Nat
  tag : Option Nat
deriving DecidableEq, Repr

/-- Counters and device time beyond their registers: device time in ns and what the rate adjustment has not yet added (in
1/10^9 ns), counter values at the start of the window by counter ID, when each instance's window began, and the time before which none
can have (both in µs of the crystal), view entries of slices (64 × slice + j, counter IDs), the network port of SOURCE 2, dump sets, the 10 µs tick at which PPS_OUT rose
while it is high, that of the last check of the calendar since boot. -/
structure Pmu where
  ns : Nat
  rem : Int
  win : SMap Nat
  winAt : SMap Nat
  winBase : Nat
  views : SMap Nat
  srcPort : Nat
  dumps : SMap DumpSet
  ppsHigh : Option Nat
  calCheck : Option Nat
deriving DecidableEq, Repr

/-- Time 0, no view, no set. -/
def Pmu.reset : Pmu := { ns := 0, rem := 0, win := [], winAt := [], winBase := 0, views := [], srcPort := 0, dumps := [], ppsHigh := none, calCheck := none }

/-! ## Identity, fuses, debug port, injectors (spec 26) -/

/-- One die's fuses, R612: identity and whether its CRC-8 passes. X and Y are the s8 patterns. -/
structure DieFuses where
  lot : Nat
  wafer : Nat
  x : Nat
  y : Nat
  type : Nat
  fuseRev : Nat
  crcOk : Bool
deriving DecidableEq, Repr

/-- One anchor slot: blown at all, its 384-bit digest, its CRC. -/
structure Anchor where
  written : Bool
  digest : Nat
  crcOk : Bool
deriving DecidableEq, Repr

/-- The module's fuses on AD0 and the dies' identity fuses, R612. `secver` is the number of blown bits. -/
structure Fuses where
  dies : SMap DieFuses
  serial : Nat
  serialOk : Bool
  vid : Nat
  vidOk : Bool
  jtagMfr : Nat
  jtagOk : Bool
  macBase : Nat
  macOk : Bool
  anchors : List Anchor
  revoke : Nat
  revokeOk : Bool
  secver : Nat
  secverOk : Bool
  dbgDisable : Bool
  injDisable : Bool
deriving DecidableEq, Repr

/-- An unprogrammed fuse array: no fuse blown, every code right (log entry 5). -/
def Fuses.reset : Fuses :=
  { dies := [], serial := 0, serialOk := true, vid := 0, vidOk := true, jtagMfr := 0, jtagOk := true, macBase := 0, macOk := true,
    anchors := List.replicate 4 { written := false, digest := 0, crcOk := true },
    revoke := 0, revokeOk := true, secver := 0, secverOk := true, dbgDisable := false, injDisable := false }

/-- A packet or completion held by a REORDER injector, R622: the injector, where it was held (0 egress, 1 ingress, 2 a completion), the connection (or the tag of a completion), the port
(die × 8 + index, or host port), the slice, the completion's status, the bytes, how many later ones must pass, since when in ticks of 10 µs. -/
structure InjHeld where
  inj : Nat
  path : Nat
  conn : Nat
  port : Nat
  slice : Nat
  st : Status
  bytes : List Byte
  left : Nat
  since : Nat
deriving DecidableEq, Repr

/-- Debug state: the fuses as blown, the fuses as loaded at the last load, the soft close, the DAP result register,
the injectors' counts of matching events, the bursts of stack memory (by linear address ÷ 32) and words of bristle SRAM (2^50 + address ÷ 8, with the bits struck) with injected faults, held packets,
the INJ_DISARM commands that wait, each with its channel and injectors. -/
structure Debug where
  fuses : Fuses
  loaded : Fuses
  softClosed : Bool
  dapOp : Nat
  dapResult : Nat
  injMatch : SMap Nat
  injFaults : SMap Nat
  held : List InjHeld
  disarms : List (Nat × List Nat)
deriving DecidableEq, Repr

/-- Debug state at reset: the fuses as loaded. -/
def Debug.reset : Debug :=
  { fuses := Fuses.reset, loaded := Fuses.reset, softClosed := false, dapOp := 0, dapResult := 0, injMatch := [], injFaults := [], held := [], disarms := [] }

/-- The machine. `pending` is the queue of waiting commands, first in, first out. -/
structure State where
  /-- Commands waiting, first in, first out. -/
  pending : List Instr
  /-- Everything the block has sent out, newest first. -/
  out : List Emit
  /-- How many free values have been drawn (the model's own field, not the spec's). -/
  free : Nat
  /-- Control registers by internal address; an unlisted register holds its reset value. -/
  regs : SMap Word32
  /-- What the partner word of each latching pair returns on its next read, by address (R11). -/
  latch : SMap Word32
  /-- Stack memory, bristle SRAM and staging SRAM by internal address; an unlisted byte is zero. -/
  mem : SMap Byte
  /-- The fabric. -/
  fab : Fabric
  /-- The gesso domain and power gating. -/
  pw : Power
  /-- The atelier core, flash and boot record. -/
  atl : Atelier
  /-- Mailbox state beyond the MBX registers. -/
  mbx : Mbx
  /-- Fuses, debug port, injectors. -/
  dbg : Debug
  /-- Bristles beyond their BRS registers, by logical ID; an unlisted one is as after INIT. -/
  brs : SMap Bristle
  /-- Bits in error of SECDED-coded 8-byte words (bristle SRAM, staging, codebook stores), by word address: the mask of wrong bits of the 72-bit code word. -/
  ecc : SMap Nat
  /-- Codebook slot stores by (stack controller x 0x10000 + offset); an unlisted byte is zero. -/
  cb : SMap Byte
  /-- Owner of each 64 KiB region of stack memory (R377): slices 0 to 63; 64 the device; 128 + s the device, charged to slice s (run-entry arrays, dirty maps, state areas); 256 + s reserved for a run of slice s and charged to nothing (R264); an unlisted region is nobody's. -/
  own : SMap Nat
  /-- Slice that each 64 KiB unit of staging SRAM is granted to (R210, R377), by unit number over the four windows; unlisted: none. -/
  stgOwn : SMap Nat
  /-- Stack memory beyond its bytes. -/
  stk : Stacks
  /-- Live tables by handle. -/
  tbl : SMap Table
  /-- Live caches by handle. -/
  kvc : SMap Cache
  /-- Live sequences by handle. -/
  seqs : SMap Seq
  /-- Descriptors in work by device-wide work number. -/
  works : SMap Work
  /-- The next device-wide work number (R226) and acceptance count (R225). -/
  nextWork : Nat
  /-- How many work records have been posted (the order in which they reached their bristles, R231). -/
  recNo : Nat
  /-- The next handle serial of each slice, R217. -/
  serial : SMap Nat
  /-- Composition map, copies, drains, time-slicing. -/
  cmp : Compose
  /-- Flags, reports, gather slots. -/
  syn : Sync
  /-- Modified bits of protected shards by handle x 2^32 + unit, R529. -/
  shards : SMap Bool
  /-- Varnish beyond its registers. -/
  vrn : Varnish
  /-- Slices beyond their SLC registers. -/
  slc : SMap SliceX
  /-- Slices that own each logical cluster (24 p + c), R293, R379; unlisted: none. -/
  clOwner : SMap (List Nat)
  /-- DMA channels beyond their registers, by engine x 64 + channel. -/
  dma : SMap DmaChan
  /-- Channels saved at turn ends, by (slice x 240 + engine) x 8 + channel. -/
  dmaSaved : SMap SavedChan
  /-- Host ports, work queues, outstanding requests, steering tables. -/
  hl : HostLink
  /-- Registered bristle programs by handle. -/
  progs : SMap Program
  /-- Storage controllers, namespaces, recorded operations. -/
  nvm : Storage
  /-- Ethernet ports, classifier and scheduler beyond their registers. -/
  net : Net
  /-- TMT connections, queues, regions. -/
  tmt : Tmt
  /-- Key store and cipher engines beyond their registers. -/
  cph : Cipher
  /-- Counters and device time beyond their registers. -/
  pmu : Pmu
  /-- The hierarchy beyond the HRC registers. -/
  hrc : Hrc
  /-- What each bristle was last loaded with, by slice x 4,096 + bristle (R123, R126). -/
  loaded : SMap Loaded
  /-- Uncorrectable errors of bristle SRAM in the last second, as (address, time in 10 us of power-on time), newest first (R99). -/
  ues : List (Nat × Nat)
  /-- Logical clusters (24 x palette + cluster) declared failed under R99 whose failure firmware has not yet dealt with. -/
  failing : List Nat
deriving DecidableEq, Repr

/-- The reasons a step can stop with a fault. No command of this block does: the spec gives every command an outcome,
a report or no effect, so the type is empty (safe: nothing raises it). -/
inductive Fault where
deriving DecidableEq, Repr

/-- The reasons a step can be refused. -/
inductive Refusal where
  /-- Raised by a dispatch arm whose command has no meaning yet. Safe: it claims nothing. -/
  | notModelled (mnemonic : String)
deriving DecidableEq, Repr


/-- The machine right after gesso power-up (R70, R631): every register at its Reset column, every queue and table empty. -/
def State.reset : State :=
  { pending := [],
    out := [],
    free := 0,
    regs := [],
    latch := [],
    mem := [],
    fab := Fabric.reset,
    pw := Power.reset,
    atl := Atelier.reset,
    mbx := Mbx.reset,
    dbg := Debug.reset,
    brs := [],
    ecc := [],
    cb := [],
    own := [],
    stgOwn := [],
    stk := Stacks.reset,
    tbl := [],
    kvc := [],
    seqs := [],
    works := [],
    nextWork := 0,
    recNo := 0,
    serial := [],
    cmp := Compose.reset,
    syn := Sync.reset,
    shards := [],
    vrn := Varnish.reset,
    slc := [],
    clOwner := [],
    dma := [],
    dmaSaved := [],
    hl := HostLink.reset,
    progs := [],
    nvm := Storage.reset,
    net := Net.reset,
    tmt := Tmt.reset,
    cph := Cipher.reset,
    pmu := Pmu.reset,
    hrc := Hrc.reset,
    loaded := [],
    ues := [],
    failing := [] }

end Machine
end Sys2Proof
end

