-- ==== Sys2Proof/Machine/Ops.lean ====
section
/-!
DEFINITION. The named operations over the state: registers and their fields, memory and the internal address map,
results and interrupts, free values, and the service of a firmware command.
-/
namespace Sys2Proof
namespace Machine

/-! ### Registers and fields -/

/-- The value of a register element, R16: what was written last, or the reset value. -/
def State.rget (s : State) (r : Reg) (inst : Nat := 0) (i j k : Nat := 0) : Nat :=
  match smGet s.regs (r.addr inst i j k) with
  | some w => w.toNat
  | none => r.resetAt i

/-- Puts a value into a register element, whatever its access type: the hardware's own update. -/
def State.rset (s : State) (r : Reg) (v : Nat) (inst : Nat := 0) (i j k : Nat := 0) : State :=
  { s with regs := smSet s.regs (r.addr inst i j k) (BitVec.ofNat 32 v) }

/-- A field of a register. -/
def State.fget (s : State) (f : Fld) (inst : Nat := 0) (i j k : Nat := 0) : Nat :=
  getBits (s.rget f.reg inst i j k) f.hi f.lo

/-- Sets a field of a register, whatever its access type. -/
def State.fset (s : State) (f : Fld) (v : Nat) (inst : Nat := 0) (i j k : Nat := 0) : State :=
  s.rset f.reg (putBits (s.rget f.reg inst i j k) f.hi f.lo v) inst i j k

/-- Is a field nonzero? -/
def State.fon (s : State) (f : Fld) (inst : Nat := 0) (i j k : Nat := 0) : Bool :=
  s.fget f inst i j k != 0

/-- Adds to a saturating counter field. -/
def State.fadd (s : State) (f : Fld) (d : Nat) (inst : Nat := 0) (i j k : Nat := 0) : State :=
  s.fset f (satAdd (f.hi + 1 - f.lo) (s.fget f inst i j k) d) inst i j k

/-- Clears every register of the blocks that satisfy p back to its reset value. -/
def State.resetRegs (s : State) (p : CtlLoc → Bool) : State :=
  { s with regs := smDelIf s.regs (fun a => match ctlLoc a with | some l => p l | none => false),
           latch := smDelIf s.latch (fun a => match ctlLoc a with | some l => p l | none => false) }

/-! ### What leaves the block -/

/-- Sends something out. -/
def State.emit (s : State) (e : Emit) : State := { s with out := e :: s.out }

/-- Sets an event bit and sends its interrupt to the atelier core. -/
def State.event (s : State) (f : Fld) (inst : Nat := 0) (i j k : Nat := 0) : State :=
  (s.fset f 1 inst i j k).emit (.irq f.reg.blk inst f.lo)

/-! ### Performance counters, R587 to R590 -/

/-- Counter k of a PMU instance. -/
def State.counter (s : State) (inst k : Nat) : Nat := s.rget PMU_CNT_LO inst k + s.rget PMU_CNT_HI inst k * 2 ^ 32

/-- Loads a counter. -/
def State.setCounter (s : State) (inst k v : Nat) : State := (s.rset PMU_CNT_LO (v % 2 ^ 32) inst k).rset PMU_CNT_HI (v / 2 ^ 32 % 2 ^ 16) inst k

/-- A counter that wrapped: its bit of PMU_OVF, and its interrupt where enabled. -/
def State.wrapped (s : State) (inst k : Nat) : State :=
  let s := s.rset PMU_OVF (putBits (s.rget PMU_OVF inst) k k 1) inst
  if bit (s.rget PMU_OVF_IRQ inst) k then s.emit (.irq .pmu inst k) else s

/-- Adds to a counter modulo 2^48; a wrap carries into the odd counter chained to it (R587). -/
def State.bump (s : State) (inst k n : Nat) : State :=
  let v := s.counter inst k + n
  let s := s.setCounter inst k (v % 2 ^ 48)
  if v < 2 ^ 48 then s
  else
    let s := s.wrapped inst k
    if k % 2 = 0 && bit (s.rget PMU_EVSEL inst (k + 1)) 30 && bit (s.rget PMU_EVSEL inst (k + 1)) 31 then
      let w := s.counter inst (k + 1) + v / 2 ^ 48
      let s := s.setCounter inst (k + 1) (w % 2 ^ 48)
      if w < 2 ^ 48 then s else s.wrapped inst (k + 1)
    else s

/-- Does counter k of an instance count its event: enabled, not chained, the instance neither stopped nor frozen (R587, R589)? -/
def State.counts (s : State) (inst k : Nat) : Bool :=
  let c := s.rget PMU_CTL inst
  let e := s.rget PMU_EVSEL inst k
  bit c 31 && !bit c 30 && bit e 31 && !(k % 2 == 1 && bit e 30)

/-- n occurrences (or bytes) of an event, R590: its unit and code on a die's instance, charged to slice sl (64: the device). -/
def State.count (s : State) (inst unit code sl n : Nat) : State :=
  if n = 0 then s
  else (List.range 16).foldl (fun s k =>
    let e := s.rget PMU_EVSEL inst k
    if s.counts inst k && e % 65536 == unit * 256 + code && (!bit e 23 || getBits e 29 24 == sl) then s.bump inst k n else s) s

/-- Draws a free value below 2^w: nothing constrains it. -/
def State.fresh (s : State) (w : Nat) : Nat × State :=
  (Config.freeValue s.free % 2 ^ w, { s with free := s.free + 1 })

/-! ### The gesso event store, R72 -/

/-- Replaces the gesso state. -/
def State.setPw (s : State) (p : Power) : State := { s with pw := p }

/-- Does the gesso domain record an item, so that its event store holds it (R72)? -/
def gessoItem (i : Nat) : Bool := decide (1 ≤ i ∧ i ≤ 14 ∧ i ≠ 5)

/-- Adds to a lifetime item: one the gesso domain records to its event store, a saturating u32 count (R72); any other to firmware's own
pending increments, which wait for the next record (R606). -/
def State.evAdd (s : State) (item n : Nat) : State :=
  if gessoItem item then s.setPw { s.pw with evStore := smSet s.pw.evStore item (satAdd 32 (smGetD s.pw.evStore item 0) n) }
  else { s with atl := { s.atl with lifePend := smSet s.atl.lifePend item (smGetD s.atl.lifePend item 0 + n) } }

/-- Keeps the lowest value of an item of the event store (item 5, VIN_MIN_EVER). -/
def State.evMin (s : State) (item v : Nat) : State :=
  s.setPw { s.pw with evStore := smSet s.pw.evStore item (min v (smGetD s.pw.evStore item 0xFFF)) }

/-- Keeps the highest value of an item of the event store (item 18, JUNCTION_MAX). -/
def State.evMax (s : State) (item v : Nat) : State :=
  s.setPw { s.pw with evStore := smSet s.pw.evStore item (max v (smGetD s.pw.evStore item 0)) }

/-! ### The internal address map, R35 to R38 -/

/-- What an internal address names. -/
inductive Space where
  | stack | sram (b off : Nat) | staging (n off : Nat) | control | unmapped
deriving DecidableEq, Repr

/-- The internal address map of R35 to R39. Logical bristle ID b of R10 in `sram b off`. -/
def space (a : Addr) : Space :=
  if a < 0x00A000000000 then .stack
  else if 0x010000000000 ≤ a ∧ a < 0x0100A0000000 then
    let p := (a - 0x010000000000) / 0x10000000
    let o := (a - 0x010000000000) % 0x10000000
    if o < 0x06000000 then .sram (384 * p + o / 0x40000) (o % 0x40000) else .unmapped
  else if 0x020000000000 ≤ a ∧ a < 0x020020000000 then
    let n := (a - 0x020000000000) / 0x08000000
    let o := (a - 0x020000000000) % 0x08000000
    if o < 0x06000000 then .staging n o else .unmapped
  else if (ctlLoc a).isSome then .control
  else .unmapped

/-- Address of byte off of bristle b's SRAM, R36. -/
def sramAddr (b off : Nat) : Addr := 0x010000000000 + b / 384 * 0x10000000 + b % 384 * 0x40000 + off

/-- Address of byte off of a stretcher's staging SRAM, R37. -/
def stagingAddr (n off : Nat) : Addr := 0x020000000000 + n * 0x08000000 + off

/-- Does [a, a + n) lie in memory (stack, bristle SRAM or staging SRAM)? -/
def isMemory (a n : Nat) : Bool :=
  match space a, space (a + n - 1) with
  | .stack, .stack => true
  | .sram b _, .sram b' _ => b == b' || n == 0 || decide (b / 384 = b' / 384)
  | .staging m _, .staging m' _ => m == m'
  | _, _ => false

/-- Reads n bytes of memory. -/
def State.memGet (s : State) (a n : Nat) : List Byte := memReadN s.mem a n

/-- Writes bytes to memory, lowest address first. -/
def State.memPut (s : State) (a : Nat) (bs : List Byte) : State := { s with mem := memWriteN s.mem a bs }

/-- Reads n bytes as a little-endian number. -/
def State.memLe (s : State) (a n : Nat) : Nat := leVal (s.memGet a n)

/-- Writes an n-byte little-endian number. -/
def State.memPutLe (s : State) (a n v : Nat) : State := s.memPut a (leBytes n v)

/-! ### Power and firmware states other operations ask about -/

/-- An emergency of R64 is in progress. -/
def State.emergency (s : State) : Bool :=
  s.fget GSO_PWR_STATUS_VIN_STATE == 1 || s.fon GSO_PWR_STATUS_OC_THROTTLE || s.fon GSO_THERM_STATUS_THERM_STATE

/-- The atelier's STATE, R96. -/
def State.bootState (s : State) : Nat := s.fget ATL_BOOT_STATUS_STATE

/-- STATE is RUNNING. -/
def State.running (s : State) : Bool := s.bootState == 5

/-- The atelier firmware runs: STATE is RUNNING and the core is not halted (R84, R88). -/
def State.fwRuns (s : State) : Bool := s.running && !s.atl.coreHalted

/-! ### Firmware commands: class checks and acknowledgement, R573, R577, R579, R583, R584 -/

/-- The class of a firmware command, R583: S, N, D, or S and N both. -/
inductive CmdClass where
  | secure | bound | diag | either
deriving DecidableEq, Repr

/-- What running a command gives: the state after it, its status, the argument word at fault, the result words. -/
structure CmdResult where
  state : State
  status : Status
  arg : Nat := 0
  words : List Nat := []
  done : Bool := true

/-- A command accepted that completes later: its acknowledgement comes with the event that ends it. -/
def laterCmd (s : State) : CmdResult := { state := s, status := .ok, done := false }

/-- A refusal changes nothing (R584). -/
def refuseCmd (s : State) (st : Status) (arg : Nat := 0) : CmdResult := { state := s, status := st, arg := arg }

/-- A completed command with its result words. -/
def okCmd (s : State) (ws : List Nat := []) : CmdResult := { state := s, status := .ok, words := ws }

/-- Writes result words into MBX_IN1, MBX_IN2, … of a channel. -/
def State.putResults (s : State) (ch : Nat) : Nat → List Nat → State
  | _, [] => s
  | n, w :: ws => if n < 8 then (s.rset MBX_IN w 0 (ch / 32) (ch % 32) n).putResults ch (n + 1) ws else s

/-- A port beyond its registers. -/
def State.port (s : State) (p : Nat) : PortX := smGetD s.hl.ports p PortX.init

/-- Replaces a port. -/
def State.setPort (s : State) (p : Nat) (x : PortX) : State := { s with hl := { s.hl with ports := smSet s.hl.ports p x } }

/-- What reset leaves in the writable bits of a configuration word, as the base specification has it (PRESUMED, log entry
11): relaxed ordering enabled and 512-byte read requests, the default severities, advisory errors masked. -/
def cfgReset (off : Nat) : Nat :=
  if off = 0x78 then 0x2010 else if off = 0x10C then 0x462030 else if off = 0x114 then 0x2000 else 0

/-- A word of a function's configuration space as written. -/
def PortX.cfgWord (x : PortX) (fn off : Nat) : Nat := smGetD x.cfg (fn * 4096 + off) (cfgReset off)

/-- Writes a word of a function's configuration space. -/
def PortX.setCfg (x : PortX) (fn off v : Nat) : PortX := { x with cfg := smSet x.cfg (fn * 4096 + off) v }

/-- Does a function issue requests (R365): in D0 with Bus Master Enable? -/
def PortX.enabled (x : PortX) (fn : Nat) : Bool := bit (x.cfgWord fn 4) 2 && getBits (x.cfgWord fn 0x44) 1 0 == 0

/-- A packet on a port's link: the link leaves L1, and its idle time begins anew (R366). -/
def State.wakeLink (s : State) (p : Nat) : State :=
  if p > 7 then s
  else
    let s := s.setPort p { s.port p with busyTick := s.pw.onTicks }
    if s.fon HIF_LINK_STATUS_L1 p then (s.fset HIF_LINK_STATUS_L1 0 p).fset HIF_LINK_STATUS_L1_SUB 0 p else s

/-- Sends an MSI-X message of a function (R369): pending while the vector or the function is masked, held while the function
is not enabled (R365), lost while the link is down. -/
def State.msix (s : State) (p fn vec : Nat) : State :=
  let x := s.port p
  if !x.up then s
  else if bit (smGetD x.msix (fn * 0x10000 + 4 * vec + 3) 1) 0 || bit (x.cfgWord fn 0x50) 30 || !bit (x.cfgWord fn 0x50) 31 then
    if x.pend.contains (fn * 4096 + vec) then s else s.setPort p { x with pend := (fn * 4096 + vec) :: x.pend }
  else if !x.enabled fn then s.setPort p { x with held := x.held ++ [{ fn := fn, pasid := 0, addr := vec, ro := false, bytes := [] }] }
  else (s.wakeLink p).emit (.msix p fn vec)

/-- Pending messages of a function that are masked no longer are sent (R369). -/
def State.msixDue (s : State) (p fn : Nat) : State :=
  let x := s.port p
  let due := x.pend.filter (fun k => k / 4096 == fn && !bit (smGetD x.msix (fn * 0x10000 + 4 * (k % 4096) + 3) 1) 0)
  if bit (x.cfgWord fn 0x50) 30 || !bit (x.cfgWord fn 0x50) 31 then s
  else due.foldr (fun k s => s.msix p fn (k % 4096)) (s.setPort p { x with pend := x.pend.filter (fun k => !due.contains k) })

/-- A message that a slice's queue, channel or program names: suppressed where the vector is not the slice's on that port. -/
def State.sliceMsix (s : State) (sl p vec : Nat) : State :=
  if smGet s.hl.vecs (p * 2048 + vec) = some sl then s.msix p 0 vec else s.fadd HIF_DISC_COUNT_DISCARD 1 p

/-- The interrupt a channel's side sends to the bank's user, R576. -/
def State.channelIrq (s : State) (ch : Nat) : State :=
  let b := ch / 32
  let c := ch % 32
  if b < 8 then
    if c < 16 then s.msix b 0 0
    else
      let sl := s.fget MBX_CH_BIND_SLICE 0 b c
      s.sliceMsix sl b (s.fget SLC_CTL_EVT_VEC (b / 4) sl)
  else if b = 8 then s.emit .smbAlert else s

/-- The grant entry value that maps a port's bank for a slice, R371, R574. -/
def bankGrant (b sl : Nat) : Nat := 2 ^ 63 + sl % 64 * 2 ^ 56 + (0x030002000000 + b * 0x10000)

/-- Channels of a bank bound to a slice. -/
def State.boundChans (s : State) (b sl : Nat) : List Nat :=
  (List.range 16).filterMap (fun i => if s.fon MBX_CH_BIND_VALID 0 b (16 + i) && s.fget MBX_CH_BIND_SLICE 0 b (16 + i) == sl then some (16 + i) else none)

/-- A channel's binding becomes word 3 of MBX_BIND, R573, R574: the first binding of a slice on a port's bank maps grant entry g to the
bank, the end of the last one clears that entry. -/
def State.applyBind (s : State) (ch w3 g : Nat) : State :=
  let b := ch / 32
  let c := ch % 32
  let old := s.fget MBX_CH_BIND_SLICE 0 b c
  let was := s.fon MBX_CH_BIND_VALID 0 b c
  let on := bit w3 31
  let sl := w3 % 64
  let s := s.rset MBX_CH_BIND (if on then 2 ^ 31 + sl else 0) 0 b c
  if b ≥ 8 then s
  else
    let s := if was && (s.boundChans b old).isEmpty then
        { s with hl := { s.hl with grant := smDelIf s.hl.grant (fun k => k / 224 == b && k % 224 != 0 && smGet s.hl.grant k == some (bankGrant b old)) } }
      else s
    if on && !((was && old == sl) || decide ((s.boundChans b sl).length > 1)) then
      { s with hl := { s.hl with grant := smSet s.hl.grant (b * 224 + g) (bankGrant b sl) } }
    else s

/-- Firmware's acknowledgement of a command, R577, with its whole return code. A binding that waited for it takes effect (R573).
Channel numbers from 320 on stand for no channel. -/
def State.ackRc (s : State) (ch rc : Nat) (ws : List Nat) : State :=
  if ch < 320 then
    let b := ch / 32
    let c := ch % 32
    let h := s.rget MBX_IN 0 b c 0
    let s := s.putResults ch 1 ws
    let s := s.rset MBX_IN_ACK (0x80000000 + getBits h 15 8 * 0x10000 + rc) 0 b c
    let s := s.fset MBX_CH_STATUS_IN_FULL 0 0 b c
    let s := { s with mbx := { s.mbx with acked := smSet s.mbx.acked ch (getBits h 15 8 + 1), results := smSet s.mbx.results ch (rc :: ws),
                                          busy := s.mbx.busy.filter (· != ch) } }
    let s := if bit h 16 then s.channelIrq ch else s
    match smGet s.mbx.binds ch with
    | some w => ({ s with mbx := { s.mbx with binds := smDel s.mbx.binds ch } }).applyBind ch w.1 w.2
    | none => s
  else s

/-- Firmware's acknowledgement of a command with a status and the argument word at fault (R584). -/
def State.ack (s : State) (ch : Nat) (st : Status) (arg : Nat) (ws : List Nat) : State :=
  ((s.emit (.done ch st arg ws)).ackRc ch (arg * 256 + st.code) ws).count 0 0 1 64 (if ch < 320 then 1 else 0)

/-- A command taken up that is acknowledged later (R573). -/
def State.takeUp (s : State) (ch : Nat) : State :=
  if ch < 320 then { s with mbx := { s.mbx with busy := ch :: s.mbx.busy.filter (· != ch) } } else s

/-- Does channel ch hold command cmd, not yet taken up, with these argument words (word number, value), R575, R581, R583? Channel numbers
from 320 on stand for firmware's own use: no message carries it. -/
def State.holdsMsg (s : State) (ch cmd : Nat) (ws : List (Nat × Nat)) : Bool :=
  decide (ch ≥ 320) ||
    (s.fon MBX_CH_STATUS_IN_FULL 0 (ch / 32) (ch % 32) && !s.mbx.busy.contains ch && getBits (s.rget MBX_IN 0 (ch / 32) (ch % 32) 0) 7 0 == cmd &&
      ws.all (fun w => s.rget MBX_IN 0 (ch / 32) (ch % 32) w.1 == w.2))

/-- Service of a firmware command that channel ch holds as a message of command cmd with argument words ws: it waits while the atelier does not run (R579); NOT_BOUND, DENIED and
BAD_COMMAND come before the command's own checks; then it runs for its slice and is acknowledged. On a secure channel, and for
firmware's own use, the slice is the one the arguments name; a command for a bound slice has none there (log entry 7). -/
def State.serve (s : State) (ch cmd : Nat) (ws : List (Nat × Nat)) (sl : Nat) (cls : CmdClass) (pb : Bool) (run : Nat → State → CmdResult) : State :=
  let c := ch % 32
  if !s.holdsMsg ch cmd ws then s
  else if s.fwRuns then
    if ch < 320 && c ≥ 16 && !s.fon MBX_CH_BIND_VALID 0 (ch / 32) c then s.ack ch .notBound 0 []
    else if ch < 320 && c ≥ 16 && cls == .secure then s.ack ch .denied 0 []
    else if c < 16 && ch < 320 && cls == .bound then s.ack ch .notBound 0 []
    else if ch < 320 && pb && ch / 32 ≥ 8 then s.ack ch .badCommand 0 []
    else
      let slice := if ch < 320 && c ≥ 16 then s.fget MBX_CH_BIND_SLICE 0 (ch / 32) c else sl
      let r := run slice (s.takeUp ch)
      if r.done then r.state.ack ch r.status r.arg r.words else r.state
  else if s.bootState == 8 && ch < 320 then
    if (c == 0 || c == 16) && cls == .diag then
      let r := run sl s
      r.state.ack ch r.status r.arg r.words
    else s.ack ch .notReady 0 []
  else s

/-- A notice joins a queue of at most 256; a full queue counts it as dropped (R578). -/
def NoticeQueue.push (q : NoticeQueue) (n : Notice) : NoticeQueue :=
  if q.items.length < 256 then { q with items := q.items ++ [n] } else { q with dropped := satAdd 16 q.dropped 1 }

/-- Queues a notice for a slice. -/
def State.noticeSlice (s : State) (sl : Nat) (n : Notice) : State :=
  let q := smGetD s.mbx.sliceQ sl { items := [], dropped := 0 }
  let s := if q.items.length < 256 then s else s.fset MBX_ERR_NTF_DROP 1
  { s with mbx := { s.mbx with sliceQ := smSet s.mbx.sliceQ sl (q.push n) } }

/-- Queues a notice for one bank's secure channel 0. -/
def State.noticeBank (s : State) (b : Nat) (n : Notice) : State :=
  let q := smGetD s.mbx.bankQ b { items := [], dropped := 0 }
  let s := if q.items.length < 256 then s else s.fset MBX_ERR_NTF_DROP 1
  { s with mbx := { s.mbx with bankQ := smSet s.mbx.bankQ b (q.push n) } }

/-- Queues a device notice for every bank whose MBX_SEC bit is 1. -/
def State.noticeDevice (s : State) (n : Notice) : State :=
  (List.range 10).foldl (fun s b => if bit (s.rget MBX_SEC) b then s.noticeBank b n else s) s

/-- The DEVICE_EVENT notice of R578 with its words as they stand. -/
def State.deviceEvent (s : State) : State :=
  s.noticeDevice { kind := 4, words := [s.rget ATL_BOOT_STATUS, s.rget ATL_UPD_STATUS, s.rget GSO_PWR_STATUS, s.rget GSO_THERM_STATUS] }

/-- Vector 0 of function 0 on every port, R369. -/
def State.vector0 (s : State) : State := (List.range 8).foldl (fun s p => s.msix p 0 0) s

/-- A device event: vector 0 of every port and the DEVICE_EVENT notice (R369, R578). -/
def State.deviceNews (s : State) : State := s.vector0.deviceEvent

/-- The atelier's STATE changes, R96; the change is a device event (R353). -/
def State.bootTo (s : State) (n : Nat) : State := (s.fset ATL_BOOT_STATUS_STATE n).deviceNews

/-- The update state changes, R92, R369. -/
def State.updTo (s : State) (n : Nat) : State := (s.fset ATL_UPD_STATUS_USTATE n).deviceNews

/-- The Device Description Table was rewritten: GEN is even again, and vector 0 is sent (R352, R353). -/
def State.ddtRewrite (s : State) : State := ({ s with hl := { s.hl with ddtGen := s.hl.ddtGen + 2 } } : State).vector0

/-! ### Fabric links, R24, R27 -/

/-- The two ends of fabric link l of R24 as (die index of R614, fabric port): 0 to 15 the palette–stretcher links in the table's
order, 16 and 17 the row wraps, 18 and 19 the network attaches, 20 and 21 the host attaches, 22 and 23 the portfolio attaches,
24 the atelier attach. Ports are the event units of R590; a palette's lower stretcher is its port 0, a wrap link its port 1. -/
def linkEnds (l : Nat) : (Nat × Nat) × (Nat × Nat) :=
  if l < 16 then
    let sd := l / 4
    let p := [sd, sd + 1, sd + 5, sd + 6].getD (l % 4) 0
    ((10 + sd, l % 4), (p, if p % 5 = 0 ∨ p % 5 - 1 = sd then 0 else if p % 5 = 4 then 0 else 1))
  else if l < 18 then (((l - 16) * 5, 1), ((l - 16) * 5 + 4, 1))
  else if l = 18 then ((14, 0), (10, 4))
  else if l = 19 then ((15, 0), (13, 4))
  else if l = 20 then ((16, 0), (11, 4))
  else if l = 21 then ((17, 0), (12, 4))
  else if l = 22 then ((18, 0), (11, 5))
  else if l = 23 then ((18, 1), (12, 5))
  else ((19, 0), (10, 5))

/-- Has a die index stopped issuing because one of its fabric links is down (R27)? -/
def State.dieStopped (s : State) (die : Nat) : Bool := s.fab.down.any (fun l => (linkEnds l).1.1 == die || (linkEnds l).2.1 == die)

/-! ### Identity as a failed CRC leaves it, R612 -/

/-- Module identity: serial, vendor ID, first Ethernet address, as a failed CRC leaves them. -/
def Fuses.serialNow (f : Fuses) : Nat := if f.serialOk then f.serial else 0
def Fuses.vidNow (f : Fuses) : Nat := if f.vidOk then f.vid else 0xFFFF
def Fuses.mfrNow (f : Fuses) : Nat := if f.jtagOk then f.jtagMfr % 2048 else 0
def Fuses.macNow (f : Fuses) : Nat := if f.macOk then f.macBase else 0

end Machine
end Sys2Proof
end

