-- ==== Sys2Proof/Machine/Sha256.lean ====
section
/-!
DEFINITION. The hash functions the spec names, of FIPS 180-4: SHA-256, by which a shard's copy is verified (spec 22 R534, R540), and
SHA-384, by which a firmware image and its key are (03 R81). Both are one function over a word size.
-/
namespace Sys2Proof
namespace Machine

/-! ### Constants -/

/-- The k-th root of n rounded down, by at most that many steps of Newton's method from above. -/
def rootFrom (k n : Nat) : Nat → Nat → Nat
  | 0, r => r
  | steps + 1, r => if ((k - 1) * r + n / r ^ (k - 1)) / k < r then rootFrom k n steps (((k - 1) * r + n / r ^ (k - 1)) / k) else r

/-- The first w bits of the fractional part of the k-th root of a number p below 512. -/
def rootFraction (w k p : Nat) : Nat := rootFrom k (p * 2 ^ (w * k)) 32 (2 ^ (w + 9 / k)) % 2 ^ w

/-- The primes below m, for m up to 440: a composite there has a factor below 20. -/
def primesBelow (m : Nat) : List Nat := (List.range m).filter (fun n => 2 ≤ n && (List.range 20).all (fun d => d < 2 || n ≤ d || n % d != 0))

/-- A member of the family: the word size in bits; round constants; the initial hash value; of each of the four mixing functions, in
the order they are used below, its three amounts; how many words of the result the digest takes. -/
structure Sha2 where
  w : Nat
  k : List Nat
  h0 : List Nat
  big0 : Nat × Nat × Nat
  big1 : Nat × Nat × Nat
  small0 : Nat × Nat × Nat
  small1 : Nat × Nat × Nat
  out : Nat

/-- SHA-256: constants of the cube roots of the first 64 primes and the square roots of the first eight. -/
def Sha2.s256 : Sha2 :=
  { w := 32, k := (primesBelow 312).map (rootFraction 32 3), h0 := (primesBelow 20).map (rootFraction 32 2),
    big0 := (2, 13, 22), big1 := (6, 11, 25), small0 := (7, 18, 3), small1 := (17, 19, 10), out := 8 }

/-- SHA-384: constants of the cube roots of the first 80 primes and the square roots of the ninth to the sixteenth. -/
def Sha2.s384 : Sha2 :=
  { w := 64, k := (primesBelow 410).map (rootFraction 64 3), h0 := ((primesBelow 54).drop 8).map (rootFraction 64 2),
    big0 := (28, 34, 39), big1 := (14, 18, 41), small0 := (1, 8, 7), small1 := (19, 61, 6), out := 6 }

/-! ### The function -/

/-- Rotation of a w-bit word to the right. -/
def rotr (w x n : Nat) : Nat := x / 2 ^ n + x % 2 ^ n * 2 ^ (w - n)

/-- A mixing function of three rotations. -/
def Sha2.big (f : Sha2) (r : Nat × Nat × Nat) (x : Nat) : Nat := rotr f.w x r.1 ^^^ rotr f.w x r.2.1 ^^^ rotr f.w x r.2.2

/-- A mixing function of two rotations and a shift. -/
def Sha2.small (f : Sha2) (r : Nat × Nat × Nat) (x : Nat) : Nat := rotr f.w x r.1 ^^^ rotr f.w x r.2.1 ^^^ x / 2 ^ r.2.2

/-- The padding of a message of n bytes: a one bit, zeros, the length in bits over two words. -/
def Sha2.pad (f : Sha2) (n : Nat) : List Byte :=
  let blk := 2 * f.w
  BitVec.ofNat 8 0x80 :: (List.replicate ((2 * blk - 1 - f.w / 4 - n % blk) % blk) 0 ++ beBytes (f.w / 4) (8 * n))

/-- The message schedule, newest word first. -/
def Sha2.schedule (f : Sha2) : Nat → List Nat → List Nat
  | 0, ws => ws
  | n + 1, ws =>
    f.schedule n ((ws.getD 15 0 + f.small f.small0 (ws.getD 14 0) + ws.getD 6 0 + f.small f.small1 (ws.getD 1 0)) % 2 ^ f.w :: ws)

/-- The rounds over the working variables, for each round constant with its word. -/
def Sha2.rounds (f : Sha2) (l : List (Nat × Nat)) (v : List Nat) : List Nat :=
  l.foldl (fun v kw =>
    match v with
    | [a, b, c, d, e, g, h, i] =>
      let t1 := i + f.big f.big1 e + ((e &&& g) ^^^ ((2 ^ f.w - 1 - e) &&& h)) + kw.1 + kw.2
      let t2 := f.big f.big0 a + ((a &&& b) ^^^ (a &&& c) ^^^ (b &&& c))
      [(t1 + t2) % 2 ^ f.w, a, b, c, (d + t1) % 2 ^ f.w, e, g, h]
    | _ => v) v

/-- One block of sixteen words. -/
def Sha2.block (f : Sha2) (h : List Nat) (b : List Byte) : List Nat :=
  let ws := (List.range 16).map (fun i => beVal ((b.drop (f.w / 8 * i)).take (f.w / 8)))
  let v := f.rounds (f.k.zip (f.schedule (f.k.length - 16) ws.reverse).reverse) h
  List.zipWith (fun x y => (x + y) % 2 ^ f.w) h v

/-- The blocks of a padded message. -/
def Sha2.blocks (f : Sha2) : Nat → List Byte → List Nat → List Nat
  | 0, _, h => h
  | n + 1, bs, h => f.blocks n (bs.drop (2 * f.w)) (f.block h (bs.take (2 * f.w)))

/-- The digest, its first byte the most significant. -/
def Sha2.digest (f : Sha2) (bs : List Byte) : Nat :=
  let m := bs ++ f.pad bs.length
  ((f.blocks (m.length / (2 * f.w)) m f.h0).take f.out).foldl (fun a x => a * 2 ^ f.w + x) 0

/-- SHA-256. -/
def sha256 (bs : List Byte) : Nat := Sha2.s256.digest bs

/-- SHA-384. -/
def sha384 (bs : List Byte) : Nat := Sha2.s384.digest bs

end Machine
end Sys2Proof
end

