-- ==== Sys2Proof/Machine/Flash.lean ====
section
/-!
DEFINITION. Module flash: the image slots and their checks (spec 03 R80, R81), the boot record (R82) and the selection of a slot
(R83).
-/
namespace Sys2Proof
namespace Machine

/-! ### Regions, R80 -/

/-- Flash offset of image slot n: 0 is A, 1 is B. -/
def slotAt (n : Nat) : Nat := n * 0x3000000

/-- Flash offset of a copy of the boot record: 0 is A, 1 is B. -/
def recordAt (k : Nat) : Nat := 0x6000000 + k * 0x8000

/-! ### Images, R81 -/

/-- A little-endian field of the header of the image at `base`. -/
def imageField (m : SMap Byte) (base off n : Nat) : Nat := leVal (memReadN m (base + off) n)

/-- LENGTH of the image at `base`. -/
def imageLength (m : SMap Byte) (base : Nat) : Nat := imageField m base 0x10 4

/-- FW_VERSION of the image at `base`. -/
def imageVersion (m : SMap Byte) (base : Nat) : Nat := imageField m base 8 4

/-- SEC_VER of the image at `base`. -/
def imageSecVer (m : SMap Byte) (base : Nat) : Nat := imageField m base 0xC 4

/-- Do MAGIC and HDR_VER match, and is LENGTH in range? -/
def headerOk (m : SMap Byte) (base : Nat) : Bool :=
  imageField m base 0 4 == 0x41544C46 && imageField m base 4 2 == 1 && imageLength m base % 4096 == 0 &&
    decide (4096 ≤ imageLength m base ∧ imageLength m base ≤ 0x3000000)

/-- Does BODY_HASH match? Its byte 0 is the digest's first byte. -/
def bodyOk (m : SMap Byte) (base : Nat) : Bool :=
  beVal (memReadN m (base + 0x20) 48) == sha384 (memReadN m (base + 0x1000) (imageLength m base - 0x1000))

/-- Does SIGNATURE verify under PUBKEY? r, s, X and Y are little-endian as R8 has every number (DEDUCED, log entry 37). -/
def signatureOk (m : SMap Byte) (base : Nat) : Bool :=
  ecdsaOk (sha384 (memReadN m base 0x50)) (imageField m base 0x50 48) (imageField m base 0x80 48) (imageField m base 0xB0 48)
    (imageField m base 0xE0 48)

/-- The SHA-384 of PUBKEY as 48 bytes, as a fused anchor holds them. -/
def imageAnchor (m : SMap Byte) (base : Nat) : Nat := leVal (beBytes 48 (sha384 (memReadN m (base + 0xB0) 96)))

/-- Copies n bytes at `src` of one memory to `dst` of another. -/
def memBring (from_ into : SMap Byte) (src dst n : Nat) : SMap Byte :=
  (from_.filter (fun q => decide (src ≤ q.1) && decide (q.1 < src + n))).foldl (fun acc q => memWrite acc (dst + (q.1 - src)) q.2)
    (memClear into dst n)

/-- Erases the header of a slot (R92). -/
def Atelier.eraseHeader (a : Atelier) (n : Nat) : Atelier := { a with flash := memClear a.flash (slotAt n) 4096 }

/-! ### The boot record, R82 -/

/-- One step of the CRC-32 of IEEE 802.3, least significant bit first. -/
def crcByte (c : Nat) (b : Byte) : Nat :=
  (List.range 8).foldl (fun c _ => if c % 2 = 1 then (c / 2) ^^^ 0xEDB88320 else c / 2) (c ^^^ b.toNat)

/-- The CRC-32 of a copy of the boot record; which CRC-32 it is the spec does not say (PRESUMED, log entry 37). -/
def crc32 (bs : List Byte) : Nat := bs.foldl crcByte 0xFFFFFFFF ^^^ 0xFFFFFFFF

/-- The bytes of a boot record before its CRC. -/
def BootRecord.bytes (r : BootRecord) : List Byte :=
  leBytes 4 r.seqNo ++ leBytes 1 r.confirmed ++ leBytes 1 (if r.trialPending then 1 else 0) ++ leBytes 1 r.trialSlot ++
    leBytes 1 (if r.trialUsed then 1 else 0) ++ leBytes 1 r.result

/-- A copy of the boot record; none where its CRC is not valid. -/
def Atelier.recordCopy (a : Atelier) (k : Nat) : Option BootRecord :=
  let bs := memReadN a.flash (recordAt k) 9
  if leVal (memReadN a.flash (recordAt k + 9) 4) = crc32 bs then
    some { seqNo := leField bs 0 4, confirmed := leField bs 4 1 % 2, trialPending := leField bs 5 1 != 0, trialSlot := leField bs 6 1 % 2,
           trialUsed := leField bs 7 1 != 0, result := leField bs 8 1 }
  else none

/-- Is copy A the one in force: valid, and not older than a valid copy B? -/
def Atelier.copyAInForce (a : Atelier) : Bool :=
  match a.recordCopy 0, a.recordCopy 1 with
  | some x, some y => decide (x.seqNo ≥ y.seqNo)
  | some _, none => true
  | none, _ => false

/-- The boot record in force, R82: the valid copy with the higher sequence number. -/
def Atelier.bootRecord (a : Atelier) : Option BootRecord := if a.copyAInForce then a.recordCopy 0 else a.recordCopy 1

/-- Writes the older copy of the boot record with the next sequence number (R82). With neither copy readable the record goes to copy A
with number 1: the spec names no copy there (DESIGN CHOICE, log entry 37). -/
def Atelier.writeRecord (a : Atelier) (r : BootRecord) : Atelier :=
  let sq := match a.bootRecord with | some b => (b.seqNo + 1) % 2 ^ 32 | none => 1
  let bs := { r with seqNo := sq }.bytes
  { a with flash := memWriteN a.flash (recordAt (if a.copyAInForce then 1 else 0)) (bs ++ leBytes 4 (crc32 bs)) }

/-- The slot an update writes, the one that is not confirmed (R92); `running` is the slot that runs, which stands for the confirmed one
where no copy of the record is readable (DESIGN CHOICE, log entry 37). -/
def Atelier.targetSlot (a : Atelier) (running : Nat) : Nat :=
  match a.bootRecord with | some b => 1 - b.confirmed % 2 | none => 1 - running % 2

/-- BOOT_SLOT_SELECT, R83: the slot, and the boot record as the ROM leaves it. -/
def selectSlot (r : BootRecord) : Nat × BootRecord :=
  if r.trialPending && !r.trialUsed then (r.trialSlot, { r with trialUsed := true })
  else if r.trialPending && r.trialUsed then (r.confirmed, { r with trialPending := false, result := Status.rolledBack.code })
  else (r.confirmed, r)

end Machine
end Sys2Proof
end

