-- ==== Sys2Proof/Machine/Gesso.lean ====
section
/-!
DEFINITION. Operations of the gesso domain that other chapters share: clock caps, gesso events, the event store,
dip entries, module states, gated domains (spec 01 R29 to R34, 02 R56 to R69, 03 R71 and R72).
-/
namespace Sys2Proof
namespace Machine

/-- Sets an event bit of GSO_PWR_STATUS; an enabled bit interrupts the atelier core, function 0 and SMB_ALERT_N (R69). -/
def State.gsoEvent (s : State) (n : Nat) : State :=
  let s := s.rset GSO_PWR_STATUS (putBits (s.rget GSO_PWR_STATUS) n n 1)
  if bit (s.rget GSO_PWR_CTL) n then ((s.emit (.irq .gso 0 n)).emit .smbAlert).deviceNews else s

/-- The thermal cap of a thermal state, in units of 100 MHz (R62). -/
def thermCap (t : Nat) : Nat := if t = 0 then 16 else if t = 1 then 12 else 4

/-- Brings GSO_CLK_CAP up to date: the lowest active cap and its causes (R57, R60, R62, R63). -/
def State.setCaps (s : State) : State :=
  let v := s.fget GSO_PWR_STATUS_VIN_STATE == 1
  let c := s.fon GSO_PWR_STATUS_OC_THROTTLE
  let t := s.fget GSO_THERM_STATUS_THERM_STATE
  let cap := min (min (if v then 4 else 16) (if c then 8 else 16)) (thermCap t)
  s.rset GSO_CLK_CAP ((if t = 0 then 0 else 0x400) + (if c then 0x200 else 0) + (if v then 0x100 else 0) + cap)

/-- A palette's bristle clock setting in force, in units of 100 MHz: the lowest of the firmware setting and the caps (R63). Before firmware has
set a clock the model takes 16, 1.6 GHz: the spec gives no first setting (DESIGN CHOICE, log entry 36). -/
def State.clockTarget (s : State) (p : Nat) : Nat := min (smGetD s.pw.fwClk p 16) (s.fget GSO_CLK_CAP_CAP)

/-- The output FAULT_N is low (R51); below the gesso lockout level nothing drives the pins (R54). -/
def State.faultLow (s : State) : Bool := !s.pw.lockout && (s.pw.offTrip || s.pw.thermTrip || s.pw.fabricFault || s.pw.bootFault)

/-- The output THERM_N is low (R51). -/
def State.thermLow (s : State) : Bool := !s.pw.lockout && decide (s.fget GSO_THERM_STATUS_THERM_STATE ≥ 2)

/-- The output SMB_ALERT_N is low: an event that GSO_PWR_CTL enables is set (R51, R69). -/
def State.smbAlertLow (s : State) : Bool := !s.pw.lockout && getBits (s.rget GSO_PWR_STATUS) 7 3 &&& getBits (s.rget GSO_PWR_CTL) 7 3 != 0

/-- The module's SMBus address (R51). -/
def State.smbAddress (s : State) : Nat := 0x40 + s.pw.ga % 8

/-- Writes the dip entry of a WARNING that ends, in the layout of the dip log (R72, R605); a seventeenth is lost. -/
def State.endDip (s : State) : State :=
  if s.fget GSO_PWR_STATUS_VIN_STATE = 1 then
    let secs := if s.pw.calValid then s.pw.rtcTicks / 100000 else s.pw.onTicks / 100000
    let e := (if s.pw.calValid then 2 ^ 63 else 0) + secs % 2 ^ 39 * 2 ^ 24 + s.pw.dipMin * 2 ^ 12 + min 4095 (s.pw.warnSamples / 100)
    s.setPw { s.pw with dips := if s.pw.dips.length < 16 then e :: s.pw.dips else s.pw.dips, warnSamples := 0, dipMin := 0xFFF }
  else s

/-- The release level of R56 in units of 20 mV: the warning threshold plus 1.0 V. -/
def State.vinWarn (s : State) : Nat := s.fget GSO_VIN_WARN_WARN_DV * 5
def State.vinRelease (s : State) : Nat := s.vinWarn + 50

/-- The last input sample lies in the operating range, 40 to 60 V (R53). -/
def State.vinInRange (s : State) : Bool :=
  decide (2000 ≤ s.fget GSO_VIN_VIN_NOW) && decide (s.fget GSO_VIN_VIN_NOW ≤ 3000)

/-- Power-up begins: the switch closes and the dwell of R56 starts (R631). -/
def State.startPowerUp (s : State) : State :=
  s.setPw { s.pw with powerUp := true, swClosed := true, offTrip := false, dwell := 0 }

/-- The domain that holds a block instance; none for what is never gated while the input is in range (R33). -/
def domainOf (b : Blk) (i : Nat) : Option Domain :=
  match b with
  | .gso => none
  | .atl | .fus | .mbx | .lif | .hrc | .injA => some .atelier
  | .pal | .cmp | .synP => some (.palette i)
  | .mem => some (.palette (i / 2))
  | .dma => if i < 240 then some (.palette (i / 24)) else some (.host (i - 240))
  | .brs => some (.palette (i / 384))
  | .stg | .gu | .synV => some (.stretcher i)
  | .pkt | .sch | .tmt | .cphN => some (.net i)
  | .hif => some (.host (i / 4))
  | .slc => some (.host i)
  | .nvc | .cph | .vrn => some .portfolio
  | .pmu =>
    if i = 0 then some .atelier else if i ≤ 10 then some (.palette (i - 1)) else if i ≤ 14 then some (.stretcher (i - 11))
    else if i ≤ 16 then some (.net (i - 15)) else if i ≤ 18 then some (.host (i - 17)) else some .portfolio
  | .injD =>
    if i ≤ 9 then some (.palette i) else if i ≤ 13 then some (.stretcher (i - 10)) else if i ≤ 15 then some (.net (i - 14))
    else if i ≤ 17 then some (.host (i - 16)) else if i = 18 then some .portfolio else some .atelier

/-- Is a domain gated? A stack is while it is in self-refresh (R33, R208). -/
def State.isGated (s : State) (d : Domain) : Bool :=
  match d with
  | .stack m => s.fget MEM_STATUS_STATE m == 2
  | d => s.pw.gated.contains d

/-- A domain wakes; a palette's wake includes its two stacks (R33). -/
def State.ungate (s : State) (d : Domain) : State :=
  let s := s.setPw { s.pw with gated := s.pw.gated.filter (· != d) }
  match d with
  | .palette p =>
    let wake := fun (s : State) (m : Nat) => if s.fget MEM_STATUS_STATE m = 2 then s.fset MEM_STATUS_STATE 1 m else s
    wake (wake s (2 * p)) (2 * p + 1)
  | .stack m => if s.fget MEM_STATUS_STATE m = 2 then s.fset MEM_STATUS_STATE 1 m else s
  | _ => s

/-- A domain becomes gated. -/
def State.gate (s : State) (d : Domain) : State :=
  if s.isGated d then s else s.setPw { s.pw with gated := d :: s.pw.gated }

/-- The domain that holds a die by its index of R614 (R33). -/
def dieDomain (d : Nat) : Option Domain :=
  if d < 10 then some (.palette d) else if d < 14 then some (.stretcher (d - 10)) else if d < 16 then some (.net (d - 14))
  else if d < 18 then some (.host (d - 16)) else if d = 18 then some .portfolio else if d = 19 then some .atelier else none

/-- Do writes of control registers wait for the domain of a die (R29)? What the same requester sends there stays behind them. -/
def State.writesWait (s : State) (die : Nat) : Bool := s.pw.waiting.any (fun w => some w.dom == dieDomain die)

/-- The domains gated in M1: palettes and stretchers, with the stacks in self-refresh (R65). -/
def m1Domains : List Domain := (List.range 10).map .palette ++ (List.range 4).map .stretcher

/-- The domains gated besides in M2 (R65). -/
def m2Domains : List Domain := [.atelier, .net 0, .net 1, .host 0, .host 1, .portfolio]

/-- Dump sets suspended in M2 run again; the snapshots missed count as dropped in the next record, which tells of it (R600). -/
def State.resumeDumps (s : State) : State :=
  (List.range 16).foldl (fun s d =>
    if s.fon PMU_DUMP_CTL_SUSPENDED 0 d then
      let s := s.fset PMU_DUMP_CTL_SUSPENDED 0 0 d
      match smGet s.pmu.dumps d with
      | some x =>
        let p := x.period * 1000
        let x := { x with dropped := satAdd 32 x.dropped (s.pmu.ns / p - x.last / p), wasSusp := true, last := max x.last s.pmu.ns }
        { s with pmu := { s.pmu with dumps := smSet s.pmu.dumps d x } }
      | none => s
    else s) s

/-- The module returns to M0 and every domain gated by M1 or M2 is awake again (R66). -/
def State.wakeModule (s : State) : State :=
  if s.fget GSO_MSTATE_STATE = 1 || s.fget GSO_MSTATE_STATE = 2 then
    ((m1Domains ++ m2Domains).foldl State.ungate (s.fset GSO_MSTATE_STATE 0)).resumeDumps
  else s

/-- A domain wakes on demand, R29, R33: the module first where it sleeps, the palette before its cluster or stack; a cluster that wakes
is no longer parked (R309). -/
def State.wakeDomain (s : State) (d : Domain) : State :=
  if !s.isGated d && !(match d with | .cluster p _ => s.isGated (.palette p) | .stack m => s.isGated (.palette (m / 2)) | _ => false) then s
  else
    let s := s.wakeModule
    match d with
    | .cluster p c =>
      let s := (if s.isGated (.palette p) then s.ungate (.palette p) else s).ungate (.cluster p c)
      let s := { s with syn := { s.syn with parked := s.syn.parked.filter (· != 24 * p + c) } }
      s.fset SYN_STATUS_PARKED (s.syn.parked.filter (fun x => x / 24 == p)).length p
    | .stack m => (if s.isGated (.palette (m / 2)) then s.ungate (.palette (m / 2)) else s).ungate (.stack m)
    | d => s.ungate d

/-- A die wakes on demand (R29, R33). -/
def State.wakeDie (s : State) (d : Nat) : State :=
  match dieDomain d with
  | some x => s.wakeDomain x
  | none => s

/-- The thresholds of a sensor: WARN, CRITICAL, TRIP (R61). Sensors 0 to 19 are dies, 20 to 39 stacks, 40 the inlet,
whose TRIP level does not exist. -/
def thermLevels (sensor : Nat) : Nat × Nat × Nat :=
  if sensor < 20 then (95, 105, 115) else if sensor < 40 then (85, 95, 105) else (46, 50, 2 ^ 32)

/-- The thermal level a reading reaches: 0 none, 1 WARN, 2 CRITICAL, 3 TRIP. -/
def thermLevel (sensor t : Nat) : Nat :=
  let (w, c, r) := thermLevels sensor
  if t ≥ r then 3 else if t ≥ c then 2 else if t ≥ w then 1 else 0

/-- Does every source stand at least d degrees below its level k (1 WARN, 2 CRITICAL)? -/
def State.allBelow (s : State) (k d : Nat) : Bool :=
  s.pw.temps.all fun (i, t) =>
    let (w, c, _) := thermLevels i
    decide (t + d ≤ (if k = 1 then w else c))

/-- A reading's margin to its WARN level, as a number that is smaller for a hotter sensor. -/
def thermMargin (q : Nat × Nat) : Int := ((thermLevels q.1).1 : Int) - q.2

/-- The sensor with the smallest margin, the lowest-numbered one of equals (R69, GSO_THERM_HOT). -/
def hottest (l : List (Nat × Nat)) : Option (Nat × Nat) :=
  l.foldl (fun best q => match best with
    | none => some q
    | some b => if thermMargin q < thermMargin b then some q else some b) none

/-- Every source is below its WARN level (R62). -/
def State.allCool (s : State) : Bool := s.pw.temps.all fun (i, t) => decide (t < (thermLevels i).1)

/-- Watchdog expiries in the last 60 s (R88): 6,000,000 samples. -/
def State.wdtRecent (s : State) : Nat := (s.pw.wdtTimes.filter (fun t => decide (s.pw.sinceT0 < t + 6000000))).length

/-- A write of GSO_VIN_WARN, R69. -/
def State.writeVinWarn (s : State) (val : Nat) : State :=
  if s.fon GSO_LOCK_LOCK then s
  else if 400 ≤ val % 512 ∧ val % 512 ≤ 460 then s.fset GSO_VIN_WARN_WARN_DV val
  else s.gsoEvent 7

end Machine
end Sys2Proof
end

