-- ==== Sys2Proof/Machine/Life.lean ====
section
/-!
DEFINITION. Lifetime items and the record log (spec 25 R605 to R607), the calendar (R604).
-/
namespace Sys2Proof
namespace Machine

/-! ### Items, R605 -/

/-- Is an item recorded (R606)? -/
def lifeRecorded (i : Nat) : Bool :=
  decide (i ≤ 18) || decide (32 ≤ i ∧ i ≤ 51) || decide (64 ≤ i ∧ i ≤ 83) || decide (96 ≤ i ∧ i ≤ 115) || decide (128 ≤ i ∧ i ≤ 147) ||
    decide (160 ≤ i ∧ i ≤ 179) || decide (192 ≤ i ∧ i ≤ 201) || decide (288 ≤ i ∧ i ≤ 351)

/-- Seconds of power-on time since the last record or gesso power-up. -/
def State.powerOnPending (s : State) : Nat := s.pw.onTicks / 100000 - s.atl.lifeAgeS

/-- The calendar in UTC seconds, R604. -/
def State.calendar (s : State) : Nat := s.pw.rtcTicks / 100000

/-- The hottest die junction. -/
def State.hottestJunction (s : State) : Nat := (s.pw.temps.filter (fun t => decide (t.1 < 20))).foldl (fun m t => max m t.2) 0

/-- The highest erase count of a block of the record log after n records: 2,048 records a pass, a block erased ahead (R606). -/
def eraseCount (n : Nat) : Nat := (n + 32) / 2048

/-- A recorded item with its pending increments, R605. -/
def State.lifeCount (s : State) (i : Nat) : Nat :=
  let r := smGetD s.atl.lifeRec i 0
  let e := smGetD s.pw.evStore i 0
  if i = 0 then min (2 ^ 64 - 1) (r + s.powerOnPending)
  else if i = 5 then min (smGetD s.atl.lifeRec 5 0xFFF) (smGetD s.pw.evStore 5 0xFFF)
  else if i = 17 then eraseCount s.atl.eraseRec
  else if i = 18 then max r e
  else if !gessoItem i && i < 288 then min (2 ^ 64 - 1) (r + smGetD s.atl.lifePend i 0)
  else if i ≥ 288 then (s.pw.dips ++ (List.range 64).map (fun k => smGetD s.atl.lifeRec (288 + k) 0)).getD (i - 288) 0
  else min (2 ^ 64 - 1) (r + e)

/-- A live item, R605. -/
def State.liveItem (s : State) (i : Nat) : Nat :=
  match i with
  | 256 => s.fget GSO_VIN_VIN_NOW
  | 257 => s.fget GSO_IIN_IIN_NOW
  | 258 => s.fget GSO_VIN_VIN_NOW * s.fget GSO_IIN_IIN_NOW / 5000
  | 259 => s.hottestJunction
  | 260 => smGetD s.pw.temps 40 0
  | 261 => s.pw.coolantOut
  | 262 => s.fget GSO_MSTATE_STATE
  | 263 => s.fget GSO_CLK_CAP_CAP * 100
  | 264 => s.pmu.ns
  | _ => s.calendar

/-- An item; none where it is not listed. -/
def State.lifeItem (s : State) (i : Nat) : Option Nat :=
  if lifeRecorded i then some (s.lifeCount i)
  else if 256 ≤ i ∧ i ≤ 265 then some (s.liveItem i)
  else none

/-! ### Records, R606 -/

/-- The recorded items. -/
def lifeItems : List Nat := (List.range 352).filter lifeRecorded

/-- Writes a record: every recorded item, whose pending increments it clears. A write that fails sets REC_FAIL and leaves
the previous record in force. -/
def State.putLifeRecord (s : State) (ok : Bool) : State :=
  if ok then
    let r : SMap Nat := (lifeItems.map (fun i => (i, s.lifeCount i))).filter (fun p => p.2 != 0 || p.1 == 5)
    let s := { s with atl := { s.atl with lifeRec := r, lifeRecOk := true, lifePend := [], lifeAgeS := s.pw.onTicks / 100000, eraseRec := s.atl.eraseRec + 1 } }
    (s.setPw { s.pw with evStore := [], dips := [] }).fset LIF_STATUS_REC_FAIL 0
  else s.fset LIF_STATUS_REC_FAIL 1

/-- A record that is written. -/
def State.writeLifeRecord (s : State) : State := s.putLifeRecord true

/-- LIFETIME_RECORD_WRITE, R606: 3,600 s of power-on time since the last record. -/
def execLifetimeRecordWrite (ok : Bool) (s : State) : Host.Outcome State Fault Refusal :=
  if s.running ∧ s.powerOnPending ≥ 3600 then .next (s.putLifeRecord ok) else .next s

/-- What LIF_READ tells in word 3: CAL_VALID and VALID of device time. -/
def State.timeFlags (s : State) : Nat := (if s.pw.calValid then 1 else 0) + (if s.fon PMU_TIME_STATUS_VALID then 2 else 0)

/-- LIF_READ, R607; in M2 the message's commit wakes the module (R579). -/
def execLifRead (ch item : Nat) (s : State) : Host.Outcome State Fault Refusal :=
  .next (s.serve ch 0x77 [(1, item)] 0 .diag false (fun _ s =>
    match s.lifeItem item with
    | some v => okCmd s [v % 2 ^ 32, v / 2 ^ 32 % 2 ^ 32, s.timeFlags]
    | none => refuseCmd s .badDescriptor 1))

/-- LIF_FLUSH, R607: completes once the record is programmed. -/
def execLifFlush (ch : Nat) (ok : Bool) (s : State) : Host.Outcome State Fault Refusal :=
  .next (s.serve ch 0x77 [(1, 0xFFFF)] 0 .diag false (fun _ s =>
    let s := s.putLifeRecord ok
    { state := s, status := if ok then .ok else .flashError }))

end Machine
end Sys2Proof
end

