-- ==== Sys2Proof/Machine/Access.lean ====
section
/-!
DEFINITION. Whom an internal access is admitted for (spec 01 R38, R41, 15 R377), SECDED-coded words (R111, R210) and the
memory of a bristle's SRAM.
-/
namespace Sys2Proof
namespace Machine

/-- The owner of the 64 KiB stack region that holds an address, R377. -/
def State.regionOwner (s : State) (a : Addr) : Option Nat := smGet s.own (a / 0x10000)

/-- Does slice sl own every stack region that [a, a + n) touches? -/
def State.ownsStack (s : State) (sl a n : Nat) : Bool :=
  (List.range ((a + n - 1) / 0x10000 + 1 - a / 0x10000)).all (fun k => smGet s.own (a / 0x10000 + k) == some sl)

/-- The number of the 64 KiB staging unit at offset off of stretcher n's window (R37): 1,536 units a window. -/
def stgUnit (n off : Nat) : Nat := n * 1536 + off / 0x10000

/-- Is every staging unit of [off, off + n) in stretcher m's window granted to slice sl (R210, R377)? -/
def State.ownsStaging (s : State) (sl m off n : Nat) : Bool :=
  (List.range ((off + n - 1) / 0x10000 + 1 - off / 0x10000)).all
    (fun k => smGet s.stgOwn (stgUnit m off + k) == some sl)

/-- The slice a DMA channel works for, R324: a host channel's OWNER; for cluster channels 1 to 7 the slice whose turn runs on
the cluster, or its owner. Cluster channel 0 is the atelier core's. -/
def State.dmaSlice (s : State) (e k : Nat) : Option Nat :=
  if e ≥ 240 then (if s.fon DMA_CHAN_OWNER_VALID e k then some (s.fget DMA_CHAN_OWNER_SLICE e k) else none)
  else match smGet s.cmp.turns e with
  | some t => some t.cur
  | none => (smGetD s.clOwner e []).head?

/-- Is a channel the atelier core's: channel 0 of a cluster engine? -/
def dmaCore (e k : Nat) : Bool := decide (e < 240 ∧ k = 0)

/-- The 4-byte words that [a, a + n) touches, ascending: the registers of R11. -/
def regWords (a n : Nat) : List Addr := (List.range ((a + n - 1) / 4 + 1 - a / 4)).map (fun k => a / 4 * 4 + 4 * k)

/-- Is slice sl granted the register at an address (R41)? A slice is granted BRS_STATUS of its bristles, read-only (R127), its gather
slot headers (R323), its DMA channels' registers (R340), its SLC block, read-only (R395), its TMT doorbell pages (R466), and with
PMU_USER its view of its counters, read-only (R595). -/
def State.ctlGranted (s : State) (sl a : Nat) (write : Bool) : Bool :=
  (!write && s.fget SLC_CTL_PMU_USER 0 sl != 0 && decide (0x030003300000 + sl * 0x10000 ≤ a ∧ a < 0x030003310000 + sl * 0x10000)) ||
  match ctlLoc a with
  | some ⟨.brs, b, 4⟩ => !write && s.fget BRS_CTL_SLICE b == sl
  | some ⟨.gu, _, o⟩ => decide (0x20000 + sl * 0x800 ≤ o ∧ o < 0x20800 + sl * 0x800)
  | some ⟨.dma, e, o⟩ =>
    decide (o < 0xF000 ∧ (o % 0x100 ≤ 0x24 ∨ o % 0x100 = 0x2C)) && !dmaCore e (o / 0x100) && s.dmaSlice e (o / 0x100) == some sl
  | some ⟨.tmt, _, o⟩ => decide (0x100000 + sl * 0x1000 ≤ o ∧ o < 0x101000 + sl * 0x1000)
  | some ⟨.slc, _, o⟩ => !write && decide (0x10000 + sl * 0x10000 ≤ o ∧ o < 0x20000 + sl * 0x10000)
  | _ => false

/-- Why an internal access is not admitted. -/
inductive AccessErr where
  | unmapped | denied
deriving DecidableEq, Repr

/-- The map and grant check of an access of n bytes at a for slice sl, R38, R41, R377; none when it is admitted. In control space every
register it touches must be granted. -/
def State.accessErr (s : State) (sl a n : Nat) (write : Bool) : Option AccessErr :=
  match space a, space (a + n - 1) with
  | .unmapped, _ => some .unmapped
  | _, .unmapped => some .unmapped
  | .stack, _ => if s.ownsStack sl a n then none else some .denied
  | .sram b _, .sram c _ =>
    if s.fget BRS_CTL_SLICE b = sl ∧ s.fget BRS_CTL_SLICE c = sl then none else some .denied
  | .staging m off, _ => if s.ownsStaging sl m off n then none else some .denied
  | .control, .control => if (regWords a n).all (fun w => s.ctlGranted sl w write) then none else some .denied
  | _, _ => some .denied

/-! ### SECDED words, R111 -/

/-- Number of wrong bits in the code word at an 8-byte aligned address. -/
def popcount (w : Nat) : Nat := (List.range 72).countP (fun i => w.testBit i)

/-- Wrong bits of the code word that holds an address. -/
def State.badBits (s : State) (a : Addr) : Nat := popcount (smGetD s.ecc (a / 8 * 8) 0)

/-- The 8-byte words that [a, a + n) touches, ascending. -/
def eccWords (a n : Nat) : List Addr := (List.range ((a + n - 1) / 8 + 1 - a / 8)).map (fun k => a / 8 * 8 + 8 * k)

/-- Does any word of [a, a + n) hold an error that cannot be corrected (two bits wrong)? -/
def State.uncorrectable (s : State) (a n : Nat) : Bool := (eccWords a n).any (fun w => s.badBits w == 2)

/-- Where a word of bristle SRAM is listed among injected faults, after the bursts of stack memory. -/
def injWord (w : Addr) : Nat := 2 ^ 50 + w / 8

/-- The errors of a word are gone, injected ones too. -/
def State.eccClear (s : State) (w : Addr) : State :=
  { s with ecc := smDel s.ecc w, dbg := { s.dbg with injFaults := smDel s.dbg.injFaults (injWord w) } }

/-- Are the wrong bits of a word those an injector struck (R622)? -/
def State.wordInjected (s : State) (w : Addr) : Bool :=
  (smGet s.dbg.injFaults (injWord w)).isSome && smGet s.dbg.injFaults (injWord w) == smGet s.ecc w

/-- Corrects and writes back each single-bit error of [a, a + n) and counts it in the bristle's CE_COUNT. -/
def State.correctSram (s : State) (b a n : Nat) : State :=
  (eccWords a n).foldl (fun s w =>
    if s.badBits w = 1 then (s.fadd BRS_SRAM_ERR_CE_COUNT 1 b).eccClear w else s) s

/-- Three or more wrong bits in a word: nothing is promised (R111), so the word reads as a free value, unreported. -/
def State.scramble (s : State) (a n : Nat) : State :=
  (eccWords a n).foldl (fun s w =>
    if s.badBits w ≥ 3 then
      let (v, s) := s.fresh 64
      s.memPutLe w 8 v
    else s) s

/-- The bristle whose SRAM holds an address. -/
def sramOwner (a : Addr) : Option Nat := match space a with | .sram b _ => some b | _ => none

/-- An uncorrectable error of bristle b's SRAM at word w, as R99 counts it: a second address of the cluster within 1 s declares the cluster
failed. -/
def State.noteUe (s : State) (b w : Nat) : State :=
  let near := s.ues.filter (fun u => decide (s.pw.onTicks ≤ u.2 + 100000) && u.1 != w)
  let again := near.any (fun u => (sramOwner u.1).any (fun o => o / 16 == b / 16))
  { s with ues := (w, s.pw.onTicks) :: near,
           failing := if again && !s.failing.contains (b / 16) then b / 16 :: s.failing else s.failing }

/-- Records an uncorrectable error of a bristle's SRAM at word w: UE and the offset, R111, and its part in R99, which an injected one
has not (R622). -/
def State.recordUe (s : State) (b w : Nat) : State :=
  let s := (s.fset BRS_SRAM_ERR_UE 1 b).fset BRS_SRAM_UE_ADDR_OFFSET ((w - sramAddr b 0) % 0x40000) b
  if s.wordInjected w then s else s.noteUe b w

/-- A read of [a, a + n) of bristle b's SRAM: errors corrected, counted or recorded; the bytes, or none if poisoned. -/
def State.sramRead (s : State) (b a n : Nat) : State × Option (List Byte) :=
  let s := (s.correctSram b a n).scramble a n
  match (eccWords a n).filter (fun w => s.badBits w == 2) with
  | [] => (s, some (s.memGet a n))
  | ws => (ws.foldl (fun s w => s.recordUe b w) s, none)

/-- A write of bytes at a in bristle b's SRAM: whole words clear their errors, parts of a word merge (R111). -/
def State.sramWrite (s : State) (b a : Nat) (bs : List Byte) : State :=
  let n := bs.length
  let s := (eccWords a n).foldl (fun s w =>
    if a ≤ w ∧ w + 8 ≤ a + n then s.eccClear w
    else if s.badBits w = 2 then s.recordUe b w
    else s.correctSram b w 8) s
  s.memPut a bs

end Machine
end Sys2Proof
end

