-- ==== Sys2Proof/Machine/CompMap.lean ====
section
/-!
DEFINITION. The composition map (spec 11 R266 to R272): entries and slots by their layout, resolution of a position at an
epoch, where a unit lies, stack steering (08 R193, R194).
-/
namespace Sys2Proof
namespace Machine

/-- The n-byte field at offset o of a 32-byte map entry. -/
def eGet (e o n : Nat) : Nat := getBits e (8 * (o + n) - 1) (8 * o)

/-- A 32-byte map entry with the n-byte field at offset o replaced. -/
def eSet (e o n v : Nat) : Nat := putBits e (8 * (o + n) - 1) (8 * o) v

/-- A slot's fields, R269. -/
structure Slot where
  tier : Nat
  home : Nat
  loc : Nat
  swidx : Nat
deriving DecidableEq, Repr

/-- Reads a slot, R269. -/
def slotOf (x : Nat) : Slot := { tier := getBits x 63 62, home := getBits x 59 48, loc := getBits x 47 16, swidx := getBits x 15 0 }

/-- A slot as its u64. -/
def slotVal (t : Slot) : Nat := t.swidx % 2 ^ 16 + t.loc % 2 ^ 32 * 2 ^ 16 + t.home % 2 ^ 12 * 2 ^ 48 + t.tier % 4 * 2 ^ 62

/-- The slot in force at a stamp, R271. -/
def pickSlot (m stamp : Nat) : Slot :=
  slotOf (if (stamp + 65536 - eGet m 0x10 2) % 65536 < 32768 then eGet m 0 8 else eGet m 8 8)

/-- The directory index of a handle, if the map holds one. -/
def State.dirIndex (s : State) (h : Nat) : Option Nat := (s.cmp.dir.find? (fun p => eGet p.2 0 4 == h)).map (·.1)

/-- A handle's directory entry, or zero. -/
def State.dirEntry (s : State) (h : Nat) : Nat := ((s.cmp.dir.find? (fun p => eGet p.2 0 4 == h)).map (·.2)).getD 0

/-- A handle's current epoch, R273. -/
def State.epoch (s : State) (h : Nat) : Nat := eGet (s.dirEntry h) 6 2

/-- Replaces a handle's directory entry. -/
def State.setDir (s : State) (h : Nat) (f : Nat → Nat) : State :=
  match s.dirIndex h with
  | some i => { s with cmp := { s.cmp with dir := smSet s.cmp.dir i (f (smGetD s.cmp.dir i 0)) } }
  | none => s

/-- The segment indices of a table, R267. -/
def State.segIndices (s : State) (h : Nat) : List Nat :=
  let a := eGet (s.dirEntry h) 8 8
  (List.range (getBits a 29 16)).map (fun i => getBits a 12 0 + i)

/-- The segment that holds extent x of a table: its index and entry. -/
def State.segHolding (s : State) (h x : Nat) : Option (Nat × Nat) :=
  ((s.segIndices h).map (fun i => (i, smGetD s.cmp.seg i 0))).find?
    (fun p => decide (eGet p.2 0x18 4 ≤ x ∧ x < eGet p.2 0x18 4 + eGet p.2 0x16 2))

/-- Key of an extent's exception entry. -/
def excKey (h x : Nat) : Nat := h * 2 ^ 24 + x

/-- Key of a run entry. -/
def runKey (seqH i : Nat) : Nat := seqH * 2 ^ 32 + i

/-- Where a position lies: tier, address, home bristle, swatch record (0 for none). -/
structure Place where
  tier : Nat
  addr : Nat
  home : Nat
  swidx : Nat
deriving DecidableEq, Repr

/-- The i-th default home of a list, R270. -/
def State.homeOf (s : State) (l i : Nat) : Nat :=
  let ids := smGetD s.cmp.homes l []
  ids.getD (i % ids.length) 0

/-- Where extent x of a table lies at a stamp, R271. -/
def State.extentPlace (s : State) (h x stamp : Nat) : Option Place :=
  match s.segHolding h x with
  | none => none
  | some (_, g) =>
    let i := x - eGet g 0x18 4
    let v := pickSlot g stamp
    let w : Place := { tier := v.tier, addr := (v.loc + i) * 2 ^ 16, home := s.homeOf (v.home % 64) i, swidx := 0 }
    match smGet s.cmp.exc (excKey h x) with
    | none => some w
    | some m =>
      let c := pickSlot m stamp
      if c.tier = 3 then some { w with swidx := c.swidx }
      else some { tier := c.tier, addr := c.loc * 2 ^ 16, home := c.home, swidx := c.swidx }

/-- Bytes of a row group's slot, and rows per extent, R216 and R262. -/
def State.rowShape (s : State) (h : Nat) : Nat × Nat :=
  let e := s.dirEntry h
  (eGet e 0x1A 2 % 1024 * 32, eGet e 0x18 2)

/-- Where a row of a table lies at a stamp, R271. -/
def State.resolveRow (s : State) (h row stamp : Nat) : Option Place :=
  let (sz, rpe) := s.rowShape h
  (s.extentPlace h (row / rpe) stamp).map (fun p => { p with addr := p.addr + row % rpe * sz })

/-- Head groups per layer, R240. -/
def Cache.hgCount (c : Cache) : Nat := ceilDiv (c.kvh * c.hd) 1024

/-- KV heads per head group, R240. -/
def Cache.hg (c : Cache) : Nat := min c.kvh (1024 / c.hd)

/-- Runs per head group, R267 SHAPE. -/
def Cache.runsPerHg (c : Cache) : Nat := ceilDiv c.maxPos (32 * c.run)

/-- Index of run u of a layer and head group, R271. -/
def Cache.runIndex (c : Cache) (layer g u : Nat) : Nat := (layer * c.hgCount + g) * c.runsPerHg + u

/-- Where a run lies at a stamp; none while it has no entry or none allocated. -/
def State.runPlace (s : State) (seqH i stamp : Nat) : Option Place :=
  match smGet s.cmp.run (runKey seqH i) with
  | none => none
  | some m =>
    let v := pickSlot m stamp
    if v.tier = 3 then none else some { tier := v.tier, addr := v.loc * 2 ^ 16, home := v.home, swidx := 0 }

/-- Address of page p of a run at a place, R271. -/
def pageAddr (w : Place) (c : Cache) (p : Nat) : Nat := w.addr + p % c.run * 0x10000

/-! ### Stack steering, R190 to R194 -/

/-- The low five bits that fold q, R193. -/
def foldQ (q : Nat) : Nat := (q ^^^ q >>> 5 ^^^ q >>> 10 ^^^ q >>> 15 ^^^ q >>> 20) % 32

/-- The stack and the 35-bit stack address of a stack-range address, R193, under L local bands. -/
def steer (l x : Nat) : Nat × Nat :=
  let band := x / 0x500000000
  let off := x % 0x500000000
  if band < l then (off / 2 ^ 30, band * 2 ^ 30 + off % 2 ^ 30)
  else
    let g := off / 256
    let q := g / 20
    ((g % 20 + foldQ q) % 20, band * 2 ^ 30 + q * 256 + off % 256)

/-- The stack-range address of a stack address: the inverse of steering. -/
def unsteer (l m a : Nat) : Nat :=
  let band := a / 2 ^ 30
  let o := a % 2 ^ 30
  if band < l then band * 0x500000000 + m * 2 ^ 30 + o
  else
    let q := o / 256
    band * 0x500000000 + (q * 20 + (m + 40 - foldQ q) % 20) * 256 + o % 256

/-- L in force, R192. -/
def State.localBands (s : State) : Nat := s.fget MEM_LAYOUT_LOCAL_BANDS 0
/-- N in force, R192. -/
def State.buddyBands (s : State) : Nat := s.fget MEM_LAYOUT_BUDDY_BANDS 0

/-- Pseudo-channel of a stack address, R194. -/
def pcOf (a : Nat) : Nat := getBits a 12 8 ^^^ getBits a 23 19
/-- Bank of a stack address, R194. -/
def bankOf (a : Nat) : Nat := getBits a 18 15 ^^^ getBits a 27 24
/-- Row of a stack address, R194. -/
def rowOf (a : Nat) : Nat := getBits a 34 19

/-- Linear addresses of the four 256-byte granules of a row (R194). -/
def rowGranules (l m pc bank row : Nat) : List Nat :=
  let hi := row * 2 ^ 19 + (bank ^^^ (row / 32 % 16)) * 2 ^ 15
  (List.range 4).map (fun k => unsteer l m (hi + k * 2 ^ 13 + (pc ^^^ (row % 32)) * 256))

/-- The 64 KiB linear regions that hold a granule of a row: one in a local band, up to four in a woven one (R207). -/
def rowRegions (l m pc bank row : Nat) : List Nat := ((rowGranules l m pc bank row).map (· / 0x10000)).eraseDups

/-- 64 KiB units that a unit takes: its extents, or RUN pages; unit 2^32 + i of a table is segment i (R263, R264). -/
def State.unitLen (s : State) (h u : Nat) : Nat :=
  match smGet s.tbl h with
  | some _ => if u ≥ 2 ^ 32 then eGet (smGetD s.cmp.seg (u - 2 ^ 32) 0) 0x16 2 else 1
  | none => match smGet s.seqs h with
    | some q => (match smGet s.kvc q.cache with | some c => c.run | none => 1)
    | none => 1

/-- The layer and the run within its head group of a run index. -/
def Cache.runOf (c : Cache) (i : Nat) : Nat × Nat := (i / (c.hgCount * c.runsPerHg), i % c.runsPerHg)

/-- Bytes of a shard, R528: an extent, the allocated pages of a run, a codebook (unit 0xFFFF_FFFF). -/
def State.shardBytes (s : State) (h u : Nat) : Nat :=
  match smGet s.tbl h, smGet s.seqs h with
  | some _, _ => if u = 0xFFFFFFFF then 0x1000 else 0x10000
  | none, some q =>
    (match smGet s.kvc q.cache with
     | some c =>
       let (l, r) := c.runOf u
       0x10000 * min c.run (ceilDiv (smGetD q.lens l 0 - 32 * (r * c.run)) 32)
     | none => 0)
  | none, none => 0

/-- The T1 address range of a unit at its handle's current epoch: start and length (R265, R528). -/
def State.shardRange (s : State) (h u : Nat) : Option (Nat × Nat) :=
  match smGet s.tbl h, smGet s.seqs h with
  | some _, _ => match s.extentPlace h u (s.epoch h) with
    | some p => if p.tier = 0 then some (p.addr, 0x10000) else none
    | none => none
  | none, some q => match s.runPlace h u (s.epoch q.cache) with
    | some p => if p.tier = 0 then some (p.addr, s.shardBytes h u) else none
    | none => none
  | none, none => none

/-- The buddy device can be reached (R200). -/
def State.buddyReachable (s : State) : Bool :=
  s.vrn.buddy.isSome && s.vrn.buddyUp && s.vrn.conns.any (fun c => (smGet s.tmt.conns c).any (fun x => x.state == 3))

/-- The entry of a shard in the newest valid manifest. -/
def State.copyEntry (s : State) (h u : Nat) : Option MEnt := s.vrn.ents.find? (fun e => e.handle == h && e.unit == u)

/-- Can a poisoned burst be refetched: it lies in a shard that the newest buddy copy holds unmodified, and the buddy is
reachable (R200, R529)? A shard that the running step has cut is not held unmodified until the step completes. -/
def State.refetchable (s : State) (a : Nat) : Bool :=
  s.buddyReachable && s.shards.any (fun p => !p.2 && !(s.vrn.step.any (fun t => t.cleared.contains p.1)) &&
    (match s.copyEntry (p.1 / 2 ^ 32) (p.1 % 2 ^ 32), s.shardRange (p.1 / 2 ^ 32) (p.1 % 2 ^ 32) with
     | some e, some (b, n) => !e.lost && decide (b ≤ a ∧ a < b + n)
     | _, _ => false))

/-- Is a handle protected, R528: named itself, or a sequence of a named cache? -/
def State.isProtected (s : State) (l : List Nat) (h : Nat) : Bool :=
  l.contains h || (match smGet s.seqs h with | some q => l.contains q.cache | none => false)

/-- Are updates and appends for a unit held by Varnish: at a cut under way (R534), or because its shard is PENDING and unread (R535)? -/
def State.vrnHolds (s : State) (h u : Nat) : Bool :=
  match s.vrn.step with
  | some t => (t.phase == 2 && s.isProtected t.prot h) || (t.phase == 3 && t.todo.contains (runKey h u))
  | none => false

/-- Has a handle PENDING shards that Varnish has not read yet? -/
def State.vrnNeeds (s : State) (h : Nat) : Bool :=
  match s.vrn.step with
  | some t => t.phase == 3 && t.todo.any (fun k => k / 2 ^ 32 == h)
  | none => false

end Machine
end Sys2Proof
end

