-- ==== Sys2Proof/Machine/Memory.lean ====
section
/-!
DEFINITION. Reads and writes of memory with what its codes do: stack bursts (spec 08 R197 to R201, R204), bristle SRAM (04
R111), staging SRAM (R209).
-/
namespace Sys2Proof
namespace Machine

/-- A burst's record; one that is unlisted is good. -/
def State.burst (s : State) (k : Nat) : Burst := smGetD s.stk.bursts k { bad := 0, poison := false, noRefetch := false }

/-- Replaces a burst's record; a good burst is not listed, nor as injected. -/
def State.setBurst (s : State) (k : Nat) (b : Burst) : State :=
  let good := decide (b = { bad := 0, poison := false, noRefetch := false })
  { s with stk := { s.stk with bursts := if good then smDel s.stk.bursts k else smSet s.stk.bursts k b },
           dbg := { s.dbg with injFaults := if good then smDel s.dbg.injFaults k else s.dbg.injFaults } }

/-- Is what is wrong with a burst an injected fault (R622)? -/
def State.injected (s : State) (k : Nat) : Bool := (smGet s.dbg.injFaults k).isSome

/-- Symbols in error of a mask of 36. -/
def symCount (m : Nat) : Nat := (List.range 36).countP (fun i => m.testBit i)

/-- Has the pseudo-channel that holds a burst failed (R204)? -/
def State.pcFailed (s : State) (k : Nat) : Bool :=
  let (m, a) := steer s.localBands (32 * k)
  bit (s.rget MEM_PC_FAILED m) (pcOf a)

/-- Is a burst in the firmware region of R84? -/
def firmwareBurst (k : Nat) : Bool := decide (0x9FF0000000 ≤ 32 * k ∧ 32 * k < 0x9FFFF00000)

/-- Poison in the two reserved areas, R202: a burst of a lease's shard pool is reported to the owner by its pool unit (order kind 14); a
table of the firmware region is rebuilt, by a restart (R87) where firmware does not run. -/
def State.reservedPoison (s : State) (k : Nat) : State :=
  let r := k / 2048
  match s.vrn.leases.find? (fun l => !l.adopted && decide (l.base + 8192 ≤ r ∧ r < l.base + l.gib * 16384)) with
  | some l => s.emit (.order l.owner 14 [r - l.base - 8192])
  | none => if firmwareBurst k && s.running then s.setBurst k { bad := 0, poison := false, noRefetch := false } else s

/-- Poisons a burst found uncorrectable, R199: the poison code word (a write, so that a queued write-back is dropped, R198), the count, the location, the queue for repair. An injected
fault is kept out of lifetime items and repair (R622). -/
def State.poisonBurst (s : State) (k source : Nat) : State :=
  let (m, a) := steer s.localBands (32 * k)
  let s := ({ s with stk := { s.stk with wb := s.stk.wb.filter (· != k) } } : State).setBurst k { s.burst k with bad := 0, poison := true }
  let s := ((if s.injected k then s.fadd MEM_UE_COUNT_COUNT 1 m else (s.fadd MEM_UE_COUNT_COUNT 1 m).evAdd (64 + m) 1).event MEM_ERR_STATUS_UE m).count (1 + m / 2) (m % 2) 5 64 1
  let s := s.rset MEM_UE_ADDR0 (a % 2 ^ 32) m
  let s := ((s.fset MEM_UE_ADDR1_ADDR_HI (a / 2 ^ 32) m).fset MEM_UE_ADDR1_SOURCE source m).fset MEM_UE_ADDR1_PC (pcOf a) m
  let s := if s.injected k then s
    else { s with stk := { s.stk with
        repairQ := s.stk.repairQ ++ [k]
        ueRows := (m * 32 + pcOf a, bankOf a * 65536 + rowOf a, s.pw.onTicks) :: s.stk.ueRows } }
  s.reservedPoison k

/-- Corrects a single-symbol error, R198: counted, a write-back queued, a pin with 1,024 of them recorded for lane repair. -/
def State.correctBurst (s : State) (k : Nat) : State :=
  let (m, a) := steer s.localBands (32 * k)
  let s := ((if s.injected k then s.fadd MEM_CE_COUNT_COUNT 1 m else (s.fadd MEM_CE_COUNT_COUNT 1 m).evAdd (32 + m) 1).event MEM_ERR_STATUS_CE m).count (1 + m / 2) (m % 2) 4 64 1
  let pin := (m * 32 + pcOf a) * 64 + Nat.log2 (s.burst k).bad
  let n := smGetD s.stk.pinCe pin 0 + 1
  if s.injected k then { s with stk := { s.stk with wb := if s.stk.wb.contains k then s.stk.wb else s.stk.wb ++ [k] } }
  else { s with stk := { s.stk with
      wb := if s.stk.wb.contains k then s.stk.wb else s.stk.wb ++ [k]
      pinCe := smSet s.stk.pinCe pin n
      laneReq := if n > 1024 ∧ !s.stk.laneReq.contains pin then s.stk.laneReq ++ [pin] else s.stk.laneReq } }

/-- The controller reads one burst, R197 to R199: is its data good? Four or more symbols in error may escape detection:
then the data is a free value, reported as corrected or not at all. -/
def State.readBurst (s : State) (k source : Nat) : State × Bool :=
  let b := s.burst k
  if s.pcFailed k then (s, false)
  else if b.poison then (s, false)
  else
    let n := symCount b.bad
    if n = 0 then (s, true)
    else if n = 1 then (s.correctBurst k, true)
    else if n ≤ 3 then (s.poisonBurst k source, false)
    else
      let (c, s) := s.fresh 2
      if c = 0 ∨ c = 1 then (s.poisonBurst k source, false)
      else
        let (v, s) := s.fresh 256
        let s := s.memPutLe (32 * k) 32 v
        if c = 2 then (s.setBurst k { b with bad := 0 }, true) else ((s.setBurst k { b with bad := 1 }).correctBurst k, true)

/-- The buddy's granule restores the poisoned bursts of a 256-byte granule that no write has reached (R200). The buddy copy
of an unmodified shard holds the bytes that the burst held. -/
def State.refetchGranule (s : State) (k : Nat) : State :=
  (List.range 8).foldl (fun s i =>
    let j := k / 8 * 8 + i
    let b := s.burst j
    if b.poison && !b.noRefetch then s.setBurst j { b with poison := false } else s) s

/-- The outcome of a read of memory: the bytes, whether any burst was refetched; none where the read is POISONED. -/
structure MemRead where
  state : State
  bytes : Option (List Byte)
  refetched : Bool

/-- A read of bursts k, k + 1, …: poisoned bursts come from the buddy copy where R200 allows. -/
def State.readBursts (s : State) (source : Nat) : Nat → Nat → State × Bool × Bool
  | _, 0 => (s, true, false)
  | k, n + 1 =>
    let r := s.readBurst k source
    let s := r.1
    if r.2 then s.readBursts source (k + 1) n
    else if s.refetchable (32 * k) then
      let r := (s.refetchGranule k).readBursts source (k + 1) n
      (r.1, r.2.1, true)
    else
      let r := s.readBursts source (k + 1) n
      (r.1, false, r.2.2)

/-- Counts the bursts of an access to stack memory for each stack it touches (R590), charged to the owner of the first region. -/
def State.countBursts (s : State) (code a n : Nat) : State :=
  let sl := match smGet s.own (a / 0x10000) with | some o => if o < 64 then o else 64 | none => 64
  let ms := (List.range ((a + n + 31) / 32 - a / 32)).map (fun i => (steer s.localBands (a / 32 * 32 + 32 * i)).1)
  ms.eraseDups.foldl (fun s m => s.count (1 + m / 2) (m % 2) code sl (32 * ms.count m)) s

/-- The stacks that hold [a, a + n) wake (R29, R33). -/
def State.wakeStacks (s : State) (a n : Nat) : State :=
  (((List.range ((a + n + 31) / 32 - a / 32)).map (fun i => (steer s.localBands (a / 32 * 32 + 32 * i)).1)).eraseDups).foldl
    (fun s m => s.wakeDomain (.stack m)) s

/-- The cluster of a bristle wakes (R29, R33, R34). -/
def State.wakeBristle (s : State) (b : Nat) : State := s.wakeDomain (.cluster (b / 384) (b % 384 / 16))

/-- A read of n bytes of stack memory. -/
def State.stackRead (s : State) (a n : Nat) : MemRead :=
  let r := ((s.wakeStacks a n).countBursts 1 a n).readBursts 0 (a / 32) ((a + n + 31) / 32 - a / 32)
  { state := r.1, bytes := if r.2.1 then some (s.memGet a n) else none, refetched := r.2.2 }

/-- A write to one burst of which it covers all or a part, R188, R201, R204: it drops a queued write-back of the burst, one that its own
read queued included (R198). -/
def State.writeBurst (s : State) (k : Nat) (whole : Bool) : State × Bool :=
  if s.pcFailed k then
    let (m, a) := steer s.localBands (32 * k)
    let key := m * 32 + pcOf a
    ({ s with stk := { s.stk with lost := smSet s.stk.lost key (smGetD s.stk.lost key 0 + 1) } }, false)
  else
    let dropWb := fun (s : State) => { s with stk := { s.stk with wb := s.stk.wb.filter (· != k) } }
    if whole then ((dropWb s).setBurst k { bad := 0, poison := false, noRefetch := false }, true)
    else
      let r := s.readBurst k 2
      let s := dropWb r.1
      if r.2 then (s.setBurst k { s.burst k with bad := 0 }, true)
      else
        let (m, _) := steer s.localBands (32 * k)
        ((s.setBurst k { s.burst k with noRefetch := true }).event MEM_ERR_STATUS_POISON_WR m, true)

/-- The bytes of a write that fall into burst k, at their address. -/
def burstPart (a : Nat) (bs : List Byte) (k : Nat) : Nat × List Byte :=
  let lo := max a (32 * k)
  (lo, (bs.drop (lo - a)).take (32 * k + 32 - lo))

/-- A write of bytes to stack memory, burst by burst. -/
def State.stackWrite (s : State) (a : Nat) (bs : List Byte) : State :=
  (List.range ((a + bs.length + 31) / 32 - a / 32)).foldl (fun s i =>
    let k := a / 32 + i
    let p := burstPart a bs k
    let r := s.writeBurst k (p.2.length == 32)
    if r.2 then r.1.memPut p.1 p.2 else r.1) ((s.wakeStacks a bs.length).countBursts 2 a bs.length)

/-- A read of staging SRAM, R209. -/
def State.stagingRead (s : State) (m a n : Nat) : State × Option (List Byte) :=
  let s := (s.wakeDomain (.stretcher m)).count (11 + m) 0 1 64 n
  let ws := eccWords a n
  let s := ws.foldl (fun s w => if s.badBits w = 1 then { (s.fadd MEM_STG_ERR_CE_COUNT 1 m) with ecc := smDel s.ecc w } else s) s
  let s := s.scramble a n
  match ws.find? (fun w => s.badBits w == 2) with
  | some w => ((s.fset MEM_STG_ERR_UE 1 m).fset MEM_STG_UE_ADDR_OFFSET (w - stagingAddr m 0) m, none)
  | none => (s, some (s.memGet a n))

/-- A write of staging SRAM, R209. -/
def State.stagingWrite (s : State) (m a : Nat) (bs : List Byte) : State :=
  let n := bs.length
  let s := (s.wakeDomain (.stretcher m)).count (11 + m) 0 2 64 n
  let ws := eccWords a n
  let s := ws.foldl (fun s w =>
    if a ≤ w ∧ w + 8 ≤ a + n then { s with ecc := smDel s.ecc w }
    else if s.badBits w = 1 then { (s.fadd MEM_STG_ERR_CE_COUNT 1 m) with ecc := smDel s.ecc w }
    else if s.badBits w = 2 then (s.fset MEM_STG_ERR_UE 1 m).fset MEM_STG_UE_ADDR_OFFSET (w - stagingAddr m 0) m
    else s) s
  s.memPut a bs

/-- A read of n bytes of memory by another requester than the owning bristle. -/
def State.busRead (s : State) (a n : Nat) : MemRead :=
  match space a with
  | .stack => s.stackRead a n
  | .sram b _ => let r := (s.wakeBristle b).sramRead b a n; { state := r.1, bytes := r.2, refetched := false }
  | .staging m _ => let r := s.stagingRead m a n; { state := r.1, bytes := r.2, refetched := false }
  | _ => { state := s, bytes := none, refetched := false }

/-- A write of bytes to memory. -/
def State.busWrite (s : State) (a : Nat) (bs : List Byte) : State :=
  if bs.isEmpty then s
  else match space a with
  | .stack => s.stackWrite a bs
  | .sram b _ => (s.wakeBristle b).sramWrite b a bs
  | .staging m _ => s.stagingWrite m a bs
  | _ => s

end Machine
end Sys2Proof
end

