-- ==== Sys2Proof/Machine/Stack.lean ====
section
/-!
DEFINITION. The stack controllers' commands (spec 08) and the codebook expander (07 R181 to R187).
-/
namespace Sys2Proof
namespace Machine

/-! ### Codebook expander, R181 to R187 -/

/-- Address that keys the error record of a codebook word of stack controller m. -/
def cbWordAddr (m off : Nat) : Nat := Blk.base .mem m + 0x40000 + off / 8 * 8

/-- Mode and output format of a slot, MEM_CB_FMT: 0 CB16 BF16, 1 CB16 F16, 2 CB256 BF16, 3 CB256 F16. -/
def State.cbFmt (s : State) (m slot : Nat) : Nat := getBits (s.rget MEM_CB_FMT m) (2 * slot + 1) (2 * slot)

/-- Length in bytes of the record of a compressed row, R181: mode 1 CB16, 2 CB256. -/
def recordLen (mode d : Nat) : Nat := 32 * ceilDiv (2 + (if mode = 1 then d / 2 else d / 8)) 32

/-- A 16-bit codebook value of a slot. -/
def State.cbVal (s : State) (m slot off : Nat) : Nat := leVal (memReadN s.cb (m * 0x10000 + slot * 0x1000 + off) 2)

/-- One element of the expanded row, R182 and R183: the product of its codebook value and the scale, rounded once. -/
def State.cbElem (s : State) (m slot : Nat) (rec : List Byte) (i : Nat) : Nat :=
  let fm := s.cbFmt m slot
  let f := if fm % 2 = 0 then bf16 else f16
  let c :=
    if fm < 2 then
      let b := leField rec (2 + i / 2) 1
      s.cbVal m slot (2 * (if i % 2 = 0 then b % 16 else b / 16))
    else s.cbVal m slot (16 * leField rec (2 + i / 8) 1 + 2 * (i % 8))
  (f.encode .even .infinity ((f.decode c).mul (f.decode (leField rec 0 2)))).bits

/-- Is any element of an expanded row infinite or NaN (R183)? -/
def nonFinite (f : FFmt) (xs : List Nat) : Bool :=
  xs.any (fun x => match f.decode x with | .fin _ _ _ => false | _ => true)

/-- Expands a record of d elements through a slot of stack controller m: the row's bytes, or none where a double-bit error
in the slot poisons it (R186). DESIGN CHOICE (log entry 38): three or more bits in error in one word pass unseen. -/
def State.expand (s : State) (m slot d : Nat) (rec : List Byte) : State × Option (List Byte) :=
  let words := (List.range 512).map (fun k => cbWordAddr m (slot * 0x1000 + 8 * k))
  if words.any (fun w => s.badBits w == 2) then
    ((s.event MEM_CB_STATUS_CB_UE m).fset MEM_CB_STATUS_UE_SLOT slot m, none)
  else
    let s := { s with ecc := smDelIf s.ecc (fun w => words.contains w && s.badBits w == 1) }
    let xs := (List.range d).map (s.cbElem m slot rec)
    let f := if s.cbFmt m slot % 2 = 0 then bf16 else f16
    let s := if nonFinite f xs then s.fadd MEM_CB_STATUS_NONFINITE 1 m else s
    (s, some (xs.flatMap (leBytes 2)))

/-- CODEBOOK_STORE_WRITE, R185: a 32-bit write at offset off of stack controller m's stores; a slot in use rejects it. DESIGN CHOICE (log
entry 38): an error that stands in the other half of the 8-byte word stays. -/
def execCodebookStoreWrite (m off val : Nat) (s : State) : Host.Outcome State Fault Refusal :=
  if m ≥ 20 ∨ off ≥ 0x10000 then .next s
  else if bit (s.rget MEM_CB_INUSE m) (off / 0x1000) then .next (s.fset MEM_CB_STATUS_WR_DISCARD 1 m)
  else .next { s with cb := memWriteN s.cb (m * 0x10000 + off / 4 * 4) (leBytes 4 (val % 2 ^ 32)) }

/-- CODEBOOK_REWRITE, R186: firmware rewrites a slot from its copy, and the slot's errors are gone. -/
def execCodebookRewrite (m slot : Nat) (s : State) : Host.Outcome State Fault Refusal :=
  let lo := cbWordAddr m (slot * 0x1000)
  .next { s with ecc := smDelIf s.ecc (fun w => decide (lo ≤ w ∧ w < lo + 0x1000)) }

/-! ### Reads, writes, corrections -/

/-- Status of an access that R38 and R377 check: none where it is admitted. -/
def State.requestErr (s : State) (who : Requester) (a n : Nat) (write : Bool) : Option Status :=
  match who with
  | .atelier => if n > 0 && space a == .stack && space (a + n - 1) == .stack then none else some .unmapped
  | .slice sl =>
    match s.accessErr sl a n write with
    | some .unmapped => some .unmapped
    | some .denied => some .accessFault
    | none => none

/-- Answers a read whose bursts are all good: its bytes, or the row that its record expands to (R183). -/
def State.answerRead (s : State) (addr len : Nat) (codebook : Option (Nat × Nat)) : State :=
  match codebook with
  | none => s.emit (.data (s.memGet addr len) .ok)
  | some (slot, d) =>
    let r := s.expand (steer s.localBands addr).1 slot d (s.memGet addr len)
    match r.2 with
    | some bs => r.1.emit (.data bs .ok)
    | none => r.1.emit (.data [] .poisoned)

/-- STACK_READ, R197 to R200, R183: the bytes with status OK, or POISONED; a poisoned burst that can be refetched leaves the
read waiting for POISON_REFETCH. `codebook` names the slot and element count of a compressed row. -/
def execStackRead (who : Requester) (addr len : Nat) (codebook : Option (Nat × Nat)) (s : State) : Host.Outcome State Fault Refusal :=
  if len = 0 ∨ addr + len > 0xA000000000 then .next (s.emit (.data (List.replicate len 0) .unmapped))
  else match s.requestErr who addr len false with
  | some st => .next (s.emit (.data (List.replicate len 0) st))
  | none =>
    let s := (s.wakeStacks addr len).countBursts 1 addr len
    let ks := (List.range ((addr + len + 31) / 32 - addr / 32)).map (fun i => addr / 32 + i)
    let s1 := ks.foldl (fun s k => (s.readBurst k 0).1) s
    let bad := ks.filter (fun k => (s1.burst k).poison || s1.pcFailed k)
    if bad.isEmpty then .next (s1.answerRead addr len codebook)
    else if bad.all (fun k => s1.refetchable (32 * k)) then
      .next { s1 with stk := { s1.stk with waiting := s1.stk.waiting ++ [{ who := who, addr := addr, len := len, codebook := codebook, need := bad }] } }
    else .next (s1.emit (.data [] .poisoned))

/-- STACK_WRITE, R188, R189, R201. -/
def execStackWrite (who : Requester) (addr : Nat) (bytes : List Byte) (s : State) : Host.Outcome State Fault Refusal :=
  if bytes.isEmpty ∨ addr + bytes.length > 0xA000000000 then .next (s.emit (.data [] .unmapped))
  else match s.requestErr who addr bytes.length true with
  | some st => .next (s.emit (.data [] st))
  | none => .next ((s.stackWrite addr bytes).emit (.data [] .ok))

/-- The queued write-back of a corrected burst reaches the stack (R198). -/
def State.burstBack (s : State) (k : Nat) : State :=
  ({ s with stk := { s.stk with wb := s.stk.wb.filter (· != k) } } : State).setBurst k { s.burst k with bad := 0 }

/-- CE_WRITEBACK, R198: the corrected burst is stored; a write that came first has dropped the write-back. None is served in
self-refresh, before which the queue was completed (R208). -/
def execCeWriteback (burst : Nat) (s : State) : Host.Outcome State Fault Refusal :=
  if s.stk.wb.contains burst then .next (s.burstBack burst) else .next s

/-- A read that waits, once the granule of burst k was fetched or could not be: it is answered when no burst of it lacks its data, ends
POISONED where one of the granule still does, or waits on. -/
def State.settleRead (s : State) (k : Nat) (ok : Bool) (w : WaitingRead) : State :=
  let need := w.need.filter (fun j => ((s.burst j).poison || s.pcFailed j) && !(ok && j / 8 == k / 8))
  if need.isEmpty then s.answerRead w.addr w.len w.codebook
  else if need.any (fun j => j / 8 == k / 8) then s.emit (.data [] .poisoned)
  else { s with stk := { s.stk with waiting := s.stk.waiting ++ [{ w with need := need }] } }

/-- POISON_REFETCH, R200: the granule of a burst comes from the buddy copy, and its bursts that are still poisoned and that no write
has reached are written back; the reads that wait for it go on, or complete POISONED where it cannot be fetched. A burst that a
whole write has reached since needs no refetch (R201). -/
def execPoisonRefetch (burst : Nat) (reachable : Bool) (s : State) : Host.Outcome State Fault Refusal :=
  let ok := reachable && s.refetchable (32 * burst)
  let mine := fun (w : WaitingRead) => w.need.any (fun j => j / 8 == burst / 8)
  let ws := s.stk.waiting.filter mine
  if ws.isEmpty && !(s.burst burst).poison then .next s
  else
    let s := if ok then s.refetchGranule burst else s
    .next (ws.foldl (fun s w => s.settleRead burst ok w) { s with stk := { s.stk with waiting := s.stk.waiting.filter (fun w => !mine w) } })

/-- PATROL_SCRUB_READ, R203: the next granule of stack m's pass; scrub waits in self-refresh. -/
def execPatrolScrubRead (m : Nat) (s : State) : Host.Outcome State Fault Refusal :=
  if m ≥ 20 ∨ !s.fon MEM_SCRUB_CTL_EN m ∨ s.fget MEM_STATUS_STATE m ≠ 1 then .next s
  else
    let pos := s.fget MEM_SCRUB_POS_POS m
    let k0 := unsteer s.localBands m (pos * 256) / 32
    let s := (List.range 8).foldl (fun s i =>
      let k := k0 + i
      if (s.burst k).poison then s
      else
        let r := s.readBurst k 1
        if r.2 || s.pcFailed k then r.1 else r.1.event MEM_ERR_STATUS_SCRUB_UE m) s
    let pos := (pos + 1) % 2 ^ 27
    let s := s.fset MEM_SCRUB_POS_POS pos m
    let s := s.fset MEM_SCRUB_PROG_PCT (pos * 10000 / 2 ^ 27) m
    .next (if pos = 0 then s.fadd MEM_SCRUB_PROG_PASSES 1 m else s)

/-- PSEUDO_CHANNEL_FAIL, R204: 16 distinct rows with uncorrectable errors within 1 s, or a failed retraining. -/
def execPseudoChannelFail (m pc : Nat) (retrainFailed : Bool) (s : State) : Host.Outcome State Fault Refusal :=
  let rows := ((s.stk.ueRows.filter (fun r => r.1 == m * 32 + pc && decide (s.pw.onTicks ≤ r.2.2 + 100000))).map (·.2.1)).eraseDups
  if m < 20 ∧ pc < 32 ∧ (retrainFailed ∨ rows.length ≥ 16) then
    let s := s.rset MEM_PC_FAILED (s.rget MEM_PC_FAILED m ||| 2 ^ pc) m
    .next (s.event MEM_ERR_STATUS_PC_FAIL m)
  else .next s

/-! ### Repair and retirement, R206, R207, R212 -/

/-- Key of a pseudo-channel's bank. -/
def bankKey (m pc bank : Nat) : Nat := (m * 32 + pc) * 16 + bank

/-- MEM_REMAP fields of a word: row, bank, spare. -/
def remapRow (v : Nat) : Nat × Nat := (getBits v 15 0, getBits v 19 16)

/-- SOFT_REPAIR, R206, R212: a write of MEM_REMAPn of stack m; with REQ it starts a soft repair. -/
def execSoftRepair (m n val : Nat) (s : State) : Host.Outcome State Fault Refusal :=
  if m ≥ 20 ∨ n ≥ 256 then .next s
  else
    let cur := s.rget MEM_REMAP m n
    let pc := n / 8
    let live := fun (j : Nat) => bit (s.rget MEM_REMAP m j) 31 || bit (s.rget MEM_REMAP m j) 29
    let used := bit (smGetD s.stk.sparesUsed (bankKey m pc (getBits val 19 16)) 0) (getBits val 27 26)
    let dup := (List.range 8).any (fun i => let j := 8 * pc + i; j != n && live j && remapRow (s.rget MEM_REMAP m j) == remapRow val)
    if live n || used || dup then .next (s.fset MEM_ERR_STATUS_REMAP_REJECT 1 m)
    else
      let v := putBits (putBits (putBits cur 27 26 (getBits val 27 26)) 19 16 (getBits val 19 16)) 15 0 (getBits val 15 0)
      if bit val 30 then
        let key := bankKey m pc (getBits val 19 16)
        let s := { s with stk := { s.stk with sparesUsed := smSet s.stk.sparesUsed key (smGetD s.stk.sparesUsed key 0 ||| 2 ^ getBits val 27 26) } }
        .next (s.rset MEM_REMAP (putBits v 29 29 1) m n)
      else .next (s.rset MEM_REMAP v m n)

/-- Writes at these addresses mark the granules of every copy that reads them from T1 dirty (R285, R288). -/
def State.copyDirty (s : State) (as : List Nat) : State :=
  { s with cmp := { s.cmp with copies := s.cmp.copies.map (fun c =>
      if c.src.tier = 0 then
        let lo := c.src.loc * 0x10000
        let n := s.unitLen c.handle c.unit * 0x10000
        { c with dirty := ((as.filter (fun a => decide (lo ≤ a ∧ a < lo + n))).map (fun a => (a - lo) / 256)).foldl (fun l g => if l.contains g then l else g :: l) c.dirty }
      else c) } }

/-- A soft repair's copy ends, R206: the row's bursts are in the spare, corrected data and poison as they were; accesses switch; copies
in progress take the row's granules again (R288). -/
def State.repairDone (s : State) (m n : Nat) : State :=
  let v := s.rget MEM_REMAP m n
  let pc := n / 8
  let (row, bank) := remapRow v
  let inRow := fun (k : Nat) =>
    let (m', a) := steer s.localBands (32 * k)
    m' == m && pcOf a == pc && bankOf a == bank && rowOf a == row
  let ks := (s.stk.bursts.filter (fun p => inRow p.1)).map (·.1)
  let s := ks.foldl (fun s k =>
    let r := s.readBurst k 3
    if r.2 then r.1.burstBack k else r.1) s
  let s := s.rset MEM_REMAP (putBits (putBits v 29 29 0) 31 31 1) m n
  let s := (s.fset MEM_REPAIR_SOFT_USED (s.fget MEM_REPAIR_SOFT_USED m + 1) m).evAdd (96 + m) 1
  let s := s.copyDirty (rowGranules s.localBands m pc bank row)
  { s with stk := { s.stk with softRec := s.stk.softRec ++ [(m * 256 + n, v)], repairQ := s.stk.repairQ.filter (fun k => !inRow k) } }

/-- SOFT_REPAIR_COPY_DONE, R206. -/
def execSoftRepairCopyDone (m n : Nat) (s : State) : Host.Outcome State Fault Refusal :=
  if m < 20 ∧ n < 256 ∧ bit (s.rget MEM_REMAP m n) 29 then .next (s.repairDone m n) else .next s

/-- Stack m enters self-refresh, R208: every queued write-back and soft-repair copy is completed first. -/
def State.restStack (s : State) (m : Nat) : State :=
  if s.fget MEM_STATUS_STATE m ≠ 1 then s
  else
    let s := (s.stk.wb.filter (fun k => (steer s.localBands (32 * k)).1 == m)).foldl State.burstBack s
    let s := ((List.range 256).filter (fun n => bit (s.rget MEM_REMAP m n) 29)).foldl (fun s n => s.repairDone m n) s
    s.fset MEM_STATUS_STATE 2 m

/-- Every stack enters self-refresh (R65). -/
def State.selfRefresh (s : State) : State := (List.range 20).foldl State.restStack s

/-- STACK_REFRESH, R208: at the normal rate, or doubled while the stack is at or above 85 °C. Nothing else is visible. -/
def execStackRefresh (m : Nat) (s : State) : Host.Outcome State Fault Refusal :=
  if m < 20 ∧ s.fget MEM_STATUS_STATE m = 1 then
    .next (s.fset MEM_STATUS_REFRESH_2X (if s.fget MEM_STATUS_TEMP m ≥ 85 then 1 else 0) m)
  else .next s

/-- MEM_LAYOUT, R192: a new layout record, in force from the next device reset. -/
def execMemLayout (ch l n : Nat) (s : State) : Host.Outcome State Fault Refusal :=
  .next (s.serve ch 0x0A [(1, l), (2, n)] 0 .secure false (fun _ s =>
    if l + n > 31 ∨ n > 16 then refuseCmd s .badLayout 1
    else okCmd { s with stk := { s.stk with layoutL := l, layoutN := n } }))

end Machine
end Sys2Proof
end

