-- ==== Sys2Proof/Machine/Bristle.lean ====
section
/-!
DEFINITION. The bristle as a machine (spec 04): registers, exposed results, the return stack, taking a trap and leaving
the handler, and the one operation that issues an instruction.
-/
namespace Sys2Proof
namespace Machine

/-- A bristle's state; one that nothing has touched is as after INIT. -/
def State.br (s : State) (b : Nat) : Bristle := smGetD s.brs b (Bristle.init b)

/-- Replaces a bristle's state. -/
def State.setBr (s : State) (b : Nat) (br : Bristle) : State := { s with brs := smSet s.brs b br }

/-- n slots of a class of R593 (0 RETIRED, 1 WASTED, 2 FRONTEND, 3 BACKEND) at bristle b: the cluster's fixed counter (R592), and the
programmable counters of that event. -/
def State.slots (s : State) (b cls n : Nat) : State :=
  if n = 0 then s
  else
    let p := b / 384
    let c := b % 384 / 16
    let v := s.rget PMU_SLOT (1 + p) c cls 0 + s.rget PMU_SLOT (1 + p) c cls 1 * 2 ^ 32 + n
    let s := (s.rset PMU_SLOT (v % 2 ^ 32) (1 + p) c cls 0).rset PMU_SLOT (v / 2 ^ 32 % 2 ^ 16) (1 + p) c cls 1
    s.count (1 + p) c (0x30 + cls) (s.fget BRS_CTL_SLICE b) n

/-- A general register; g0 reads as zero (R106). -/
def Bristle.g (br : Bristle) (r : Nat) : Word64 := if r = 0 then 0 else smGetD br.gpr r 0

/-- A vector register. -/
def Bristle.v (br : Bristle) (r : Nat) : Vec := smGetD br.vec r 0

/-- The visible value of an accumulator, R115. -/
def Bristle.a (br : Bristle) (n : Nat) : Vec := smGetD br.acc n 0

/-- A later write of a register overtakes the load that has not returned, and ends its load-use wait (R104). -/
def Bristle.overtake (br : Bristle) (key : Nat) : Bristle :=
  { br with ready := smDel br.ready key,
            loads := br.loads.map (fun l => if l.dest = some key then { l with dest := none } else l) }

/-- Writes a general register; writes to g0 are discarded (R106). -/
def Bristle.setG (br : Bristle) (r : Nat) (x : Word64) : Bristle :=
  if r = 0 then br else { br.overtake r with gpr := smSet br.gpr r x }

/-- Writes a vector register. -/
def Bristle.setV (br : Bristle) (r : Nat) (x : Vec) : Bristle :=
  { br.overtake (32 + r) with vec := smSet br.vec r x }

/-- Sets VSAT bits. -/
def Bristle.sat (br : Bristle) (bits : Nat) : Bristle := { br with vsat := br.vsat ||| bits }

/-- The accumulator writes that satisfy p become visible, oldest first, with their VSAT bits (R115, R116). -/
def Bristle.showAcc (br : Bristle) (p : PendAcc → Bool) : Bristle :=
  (br.pendAcc.filter p).foldl (fun br w => { br.sat w.sat with acc := smSet br.acc w.acc w.lanes })
    { br with pendAcc := br.pendAcc.filter (fun w => !p w) }

/-- The products that satisfy p become visible, in issue order (R113). -/
def Bristle.showMul (br : Bristle) (p : PendMul → Bool) : Bristle :=
  (br.pendMul.filter p).foldl (fun br m => { br with prod := m.prod }) { br with pendMul := br.pendMul.filter (fun m => !p m) }

/-- What an instruction issuing in pipeline cycle t sees: every exposed write due by then is visible (R113, R115). -/
def Bristle.settle (br : Bristle) (t : Nat) : Bristle :=
  (br.showMul (fun m => decide (m.due ≤ t))).showAcc (fun w => decide (w.due ≤ t))

/-- Every pending write becomes visible: step 1 of trap entry (R122). -/
def Bristle.drain (br : Bristle) : Bristle := (br.showMul (fun _ => true)).showAcc (fun _ => true)

/-- The value a multiply-accumulate adds to: the latest pending write, else the visible value (R116). -/
def Bristle.pendingAcc (br : Bristle) (n : Nat) : Vec :=
  match (br.pendAcc.filter (fun w => w.acc == n)).getLast? with
  | some w => w.lanes
  | none => br.a n

/-- An accumulator write whose last beat is pipeline cycle c: visible 6 pipeline cycles later (R115). -/
def Bristle.writeAcc (br : Bristle) (n : Nat) (lanes : Vec) (c sat : Nat) : Bristle :=
  { br with pendAcc := br.pendAcc ++ [{ acc := n, lanes := lanes, due := c + 6, sat := sat }] }

/-- CALL's push, R117: none on a full stack in trap mode. -/
def Bristle.push (br : Bristle) (trapMode : Bool) (ra : Nat) : Option Bristle :=
  if br.rsDepth = 16 ∧ trapMode then none
  else
    let p := (br.rsPtr + 1) % 16
    some { br with rsPtr := p, rsEnt := smSet br.rsEnt p ra, rsDepth := min 16 (br.rsDepth + 1) }

/-- RET's pop, R117: none on an empty stack in trap mode. -/
def Bristle.pop (br : Bristle) (trapMode : Bool) : Option (Bristle × Nat) :=
  if br.rsDepth = 0 ∧ trapMode then none
  else some ({ br with rsPtr := (br.rsPtr + 15) % 16, rsDepth := br.rsDepth - 1 }, smGetD br.rsEnt br.rsPtr 0)

/-- Pipeline and clock cycles pass. -/
def Bristle.tick (br : Bristle) (n holds : Nat) : Bristle := { br with pcyc := br.pcyc + n, cyc := br.cyc + n + holds }

/-- Does the bristle decode Kengir-V: the ENC of its program since the last INIT (R154)? -/
def State.legacy (s : State) (b : Nat) : Bool := (s.br b).legacy

/-- The instruction as the bristle's encoding has it: a native one is one 32-bit word without LONG (R131). -/
def State.asCoded (s : State) (w : Issue) : Issue := if s.legacy w.b then w else { w with len := 4, long := false }

/-- BRS_STATUS.STATE, R124. -/
def State.brState (s : State) (b : Nat) : Nat := s.fget BRS_STATUS_STATE b

/-- The bristle is RUNNING or HANDLER. -/
def State.brRuns (s : State) (b : Nat) : Bool := s.brState b == 1 || s.brState b == 2

/-- Taking a trap, R121 to R123: pending writes drain; a handled trap saves EPC, ECAUSE and EVAL and goes to BRS_TVEC in
HANDLER; any other stops the bristle in FAULTED, records it in BRS_FAULT…, clears RUN and reports to firmware; the third within 10 s bars
reloads (R123). A POISONED return that waited for this boundary is dropped where another trap is taken there: the spec gives no order
between the two (DESIGN CHOICE, log entry 24). -/
def State.trap (s : State) (b cause epc eval : Nat) : State :=
  let br := { (s.br b).drain with trapReq := none }
  if s.fon BRS_CTL_TRAP_EN b && bit (s.rget BRS_TMASK b) cause && !br.inHandler then
    let tv := s.fget BRS_TVEC_ADDR b
    let s := s.setBr b ({ br with epc := epc, ecause := cause, eval := eval, inHandler := true,
                                  pc := if s.legacy b then tv else tv / 4 * 4 }.tick 2 0)
    (s.fset BRS_STATUS_STATE 2 b).slots b 1 2
  else
    let times := s.pw.onTicks :: br.faultTimes.filter (fun t => decide (s.pw.onTicks ≤ t + 1000000))
    let s := s.setBr b { br with wait := none, faultTimes := times, barred := br.barred || decide (times.length ≥ 3) }
    let s := s.fset BRS_FAULT_CAUSE (if br.inHandler then 10 else cause) b
    let s := s.fset BRS_FAULT_IN_HANDLER (if br.inHandler then 1 else 0) b
    let s := s.fset BRS_FAULT_PC_PC epc b
    let s := s.rset BRS_FAULT_VAL0 (eval % 2 ^ 32) b
    let s := s.fset BRS_FAULT_VAL1_VAL_HI (eval / 2 ^ 32) b
    let s := (s.fset BRS_CTL_RUN 0 b).fset BRS_STATUS_STATE 3 b
    s.emit (.irq .brs b 0)

/-- How an instruction ends: at the next address after n bubbles, at a target after n bubbles, in a trap with a cause
and EVAL, held without issuing, or issued and waiting for its release (R302). -/
inductive Ctl where
  | fall (bubbles : Nat)
  | jump (target bubbles : Nat)
  | trap (cause eval : Nat)
  | hold
  | wait
deriving DecidableEq, Repr

/-- Does a GSEND head the store buffer: it holds its bristle until it has a credit (R153, R318)? -/
def Bristle.awaitsCredit (br : Bristle) : Bool := match br.sbuf with | .gsend _ _ _ :: _ => true | _ => false

/-- May the bristle issue: RUNNING or HANDLER, no WAIT held, no GSEND that waits for a credit, its cluster, palette and device awake and
out of reset? -/
def State.canIssue (s : State) (b : Nat) : Bool :=
  s.brRuns b && (s.br b).wait.isNone && !(s.br b).awaitsCredit && !s.isGated (.palette (b / 384)) && !s.isGated (.cluster (b / 384) (b % 384 / 16)) &&
    !s.pw.devReset

/-- Does a source register wait for a load that has not returned (R103)? -/
def Bristle.outstanding (br : Bristle) (srcs : List Nat) : Bool :=
  br.loads.any (fun l => match l.dest with | some k => srcs.contains k | none => false)

/-- The pipeline cycle in which an instruction with these sources issues, R102. -/
def Bristle.issueAt (br : Bristle) (srcs : List Nat) (vec : Bool) : Nat :=
  srcs.foldl (fun t k => max t (smGetD br.ready k 0)) (if vec then max br.pcyc br.busy else br.pcyc)

/-- Has a buffered store of the whole 8-byte word at w replaced it, as seen at least d pipeline cycles after its issue by an instruction
of cycle t (R105, R111)? -/
def replaced (sb : List StoreEntry) (t d : Nat) (w : Addr) : Bool :=
  sb.any (fun e => match e with
    | .store a bs c => decide (a ≤ w ∧ w + 8 ≤ a + bs.length ∧ c + d ≤ t)
    | _ => false)

/-- The 8-byte words of bristle b's SRAM that hold its bytes [pc, pc + len), which wrap at the SRAM's end (R155). -/
def codeWords (b pc len : Nat) : List Addr :=
  let n := min len (0x40000 - pc)
  eccWords (sramAddr b pc) n ++ (if len > n then eccWords (sramAddr b 0) (len - n) else [])

/-- The words of an instruction that issues in pipeline cycle t are read: single errors corrected, a double error found (R111). The
fetch sees the bristle's own stores from the third pipeline cycle after their issue on (R105). -/
def State.fetch (s : State) (b pc len t : Nat) : State × Bool :=
  let br := s.br b
  (codeWords b pc len).foldl (fun r w =>
    if decide (t < smGetD br.oldBad w 0) then (r.1.recordUe b w, false)
    else if replaced br.sbuf t 3 w then r
    else
      let q := r.1.sramRead b w 8
      (q.1, r.2 && q.2.isSome)) (s, true)

/-- Ends an instruction that issued at address pc. In Kengir-V a bubble follows it, a trapping one too (R102, R165). MISALIGNED at a target
puts the target's internal SRAM address into EVAL: R107 names a faulting internal address, R147 only EPC (DESIGN CHOICE, log entry 24). -/
def State.retire (s : State) (b pc len : Nat) : Ctl → State
  | .fall n =>
    let x := if s.legacy b then 1 else 0
    ((((s.setBr b ({ s.br b with pc := (pc + len) % 2 ^ 18 }.tick (1 + n + x) 0)).slots b 0 1).slots b 3 n)).slots b 2 x
  | .jump tgt n =>
    let x := if s.legacy b then 1 else 0
    let s := (((s.setBr b ({ s.br b with pc := tgt % 2 ^ 18 }.tick (1 + n + x) 0)).slots b 0 1).slots b 1 n).slots b 2 x
    if x = 0 && tgt % 4 != 0 then s.trap b 2 (tgt % 2 ^ 18) (sramAddr b (tgt % 2 ^ 18)) else s
  | .trap c e =>
    let x := if s.legacy b then 1 else 0
    (((s.setBr b ((s.br b).tick (1 + x) 0)).slots b 1 1).slots b 2 x).trap b c pc e
  | .hold => s
  | .wait => s

/-- Issues an instruction, R101 to R105, R122: a trap waiting for the boundary comes first; then the fetch's own checks,
the encoding's, the waits of R102; then the instruction acts on what is visible in its issue cycle. `run` gets the
bristle before exposed writes of the issue cycle are applied, and the state with them applied; on a trap it changes
nothing but what reading SRAM records (R111, R122). -/
def State.issue (s : State) (w : Issue) (legal : Bool) (srcs : List Nat) (vec : Bool)
    (run : Bristle → State → State × Ctl) : State :=
  let b := w.b
  let br := s.br b
  let len := (s.asCoded w).len
  let x := if s.legacy b then 1 else 0
  if !s.canIssue b then s
  else
    match br.trapReq with
    | some (c, e) => s.trap b c br.pc e
    | none =>
      if !s.legacy b && br.pc % 4 != 0 then s.trap b 2 br.pc (sramAddr b br.pc)
      else
        let f := s.fetch b br.pc len (if legal then br.issueAt srcs vec else br.pcyc)
        if !f.2 then f.1.trap b 5 br.pc br.pc
        else if !legal then
          ((((f.1.setBr b (br.tick (1 + x) w.holds)).slots b 1 1).slots b 2 x).slots b 3 w.holds).trap b 1 br.pc w.raw
        else if br.outstanding srcs then s
        else
          let t := br.issueAt srcs vec
          let r := run br ((f.1.setBr b ((br.tick (t - br.pcyc) w.holds).settle t)).slots b 3 (t - br.pcyc + w.holds))
          match r.2 with
          | .hold => s
          | c => (r.1.fset BRS_PC_PC br.pc b).retire b br.pc len c

/-- Is a general register field in range (R132)? -/
def gOk (r : Nat) : Bool := decide (r < 32)
/-- Is a vector register field in range (R132)? -/
def vOk (r : Nat) : Bool := decide (r < 16)
/-- Is an accumulator field in range (R132)? -/
def aOk (r : Nat) : Bool := decide (r < 4)

end Machine
end Sys2Proof
end

