-- ==== Sys2Proof/Machine/Routes.lean ====
section
/-!
DEFINITION. The routes of the fabric (spec 01 R24 to R26): the route of least nominal latency between two dies, the limits it meets,
the dies that serve an address. Dies go by their index of R614, links by their number of R24.
-/
namespace Sys2Proof
namespace Machine

/-! ### The graph of R24 -/

/-- The dies that share a link with die d, each with the link's number. -/
def linkedTo (d : Nat) : List (Nat × Nat) :=
  (List.range 25).filterMap fun l =>
    let e := linkEnds l
    if e.1.1 = d then some (l, e.2.1) else if e.2.1 = d then some (l, e.1.1) else none

/-- A link is a row wrap. -/
def isWrap (l : Nat) : Bool := l == 16 || l == 17

/-- Is a die a stretcher? -/
def isStretcher (d : Nat) : Bool := decide (10 ≤ d ∧ d < 14)

/-- A way through the fabric: the dies from the source to the destination, and the links between them. -/
structure Route where
  dies : List Nat
  links : List Nat
deriving DecidableEq, Repr

/-- Stretchers a route crosses, an end of it that is a stretcher among them (R26). -/
def Route.stretchers (r : Route) : Nat := r.dies.countP isStretcher

/-- The palettes whose meshes a route passes between its ends. -/
def Route.palettes (r : Route) : List Nat := ((r.dies.drop 1).dropLast).filter (fun d => decide (d < 10))

/-- The row wraps a route uses. -/
def Route.wraps (r : Route) : Nat := r.links.countP isWrap

/-- Nominal added latency in ns, R26. -/
def Route.latency (r : Route) : Nat := 15 * r.stretchers + 8 * r.palettes.length + 12 * r.wraps

/-- The limits of R26. -/
def Route.within (r : Route) : Bool :=
  decide (r.stretchers ≤ 3 ∧ r.palettes.length ≤ 2 ∧ r.wraps ≤ 1) && (r.wraps == 0 || decide (r.stretchers ≤ 2))

/-- The ways from the first die of `path` (a route built from its far end) to dst in at most n more links; only palettes and
stretchers are passed through (R26), no die twice. -/
def waysFrom (dst : Nat) : Nat → Route → List Route
  | n, r =>
    match r.dies with
    | [] => []
    | d :: _ =>
      if d = dst then [{ dies := r.dies.reverse, links := r.links.reverse }]
      else match n with
      | 0 => []
      | n + 1 =>
        if decide (14 ≤ d) && !r.links.isEmpty then []
        else (linkedTo d).flatMap fun q =>
          if r.dies.contains q.2 then [] else waysFrom dst n { dies := q.2 :: r.dies, links := q.1 :: r.links }

/-- Is one list of palettes before another in the order of the tie rule: lower-numbered palettes first? -/
def lowerPalettes : List Nat → List Nat → Bool
  | [], [] => false
  | [], _ => true
  | _, [] => false
  | a :: as, b :: bs => if a = b then lowerPalettes as bs else decide (a < b)

/-- The better of two routes, R26: the lower latency, then the lower-numbered palettes. -/
def Route.better (r q : Route) : Route :=
  if q.latency < r.latency ∨ (q.latency = r.latency ∧ lowerPalettes q.palettes r.palettes) then q else r

/-- The route that firmware fixes for a pair of endpoints at bring-up, R26; a die needs none to itself. -/
def route (src dst : Nat) : Option Route :=
  match (waysFrom dst 6 { dies := [src], links := [] }).filter Route.within with
  | [] => none
  | r :: rs => some (rs.foldl Route.better r)

/-- The route in force between two dies: none before bring-up has fixed it (R25). -/
def State.routeOf (s : State) (src dst : Nat) : Option Route := if s.fab.routed then route src dst else none

/-- Does the route in force between two dies use link l? -/
def State.uses (s : State) (src dst l : Nat) : Bool :=
  match s.routeOf src dst with
  | some r => r.links.contains l
  | none => false

/-! ### Where requests go -/

/-- The die that serves an address: requests of one source to one die arrive in issue order (R25, R145). An unmapped address is
served where it is issued (R38), and counts as none of the dies. -/
def State.placeOf (s : State) (a : Addr) : Nat :=
  match space a with
  | .stack => (steer s.localBands (a / 32 * 32)).1 / 2
  | .sram b _ => b / 384
  | .staging m _ => 10 + m
  | .control => (match ctlLoc a with | some l => l.blk.die l.inst | none => 20)
  | .unmapped => 20

/-- Is the way between two dies cut by a link that is down (R27, R44)? -/
def State.cut (s : State) (src dst : Nat) : Bool := s.fab.down.any (fun l => s.uses src dst l)

/-- The die that holds a flag's home (R299, R300). -/
def flagDie (w : Nat) : Nat := if bit w 63 then 10 + getBits w 25 24 else getBits w 17 6 / 384

/-- The die that holds the collector of a target word (R312). -/
def targetDie (t : Nat) : Nat := if bit t 63 then getBits t 59 48 / 384 else 10 + getBits t 17 16

/-- The die an entry of a store buffer goes to. -/
def State.entryDie (s : State) : StoreEntry → Nat
  | .store a _ _ => s.placeOf a
  | .signal f _ => flagDie f
  | .gsend t _ _ => targetDie t

/-- How many entries of a store buffer must leave it before a request to die d may follow them (R25). -/
def State.behindOf (s : State) (d : Nat) (es : List StoreEntry) : Nat :=
  (es.zipIdx.filter (fun q => s.entryDie q.1 == d)).foldl (fun n q => max n (q.2 + 1)) 0

end Machine
end Sys2Proof
end

