-- ==== Sys2Proof/Machine/Sync.lean ====
section
/-!
DEFINITION. Synchronization flags (spec 12 R299 to R311): SIGNAL, WAIT and WAITDEC from issue to release, spin-limit
reports, parking, virtual flags.
-/
namespace Sys2Proof
namespace Machine

/-- Replaces the synchronization state. -/
def State.setSyn (s : State) (y : Sync) : State := { s with syn := y }

/-- A slice beyond its registers. -/
def State.sx (s : State) (sl : Nat) : SliceX := smGetD s.slc sl SliceX.init

/-- Replaces a slice beyond its registers. -/
def State.setSx (s : State) (sl : Nat) (x : SliceX) : State := { s with slc := smSet s.slc sl x }

/-- A quota of a slice, by its place in R379. -/
def State.quota (s : State) (sl i : Nat) : Nat := (s.sx sl).quotas.getD i 0

/-! ### The flag word and its checks, R152, R300, R310 -/

/-- V of the operand word: a virtual flag. -/
def flagVirt (w : Nat) : Bool := bit w 63
/-- Stretcher and table index of a virtual flag as one number. -/
def virtKey (w : Nat) : Nat := getBits w 25 24 * 16384 + getBits w 13 0
/-- Home bristle of a direct flag. -/
def directHome (w : Nat) : Nat := getBits w 17 6
/-- Home bristle and index of a direct flag as one number. -/
def directKey (w : Nat) : Nat := directHome w * 64 + getBits w 5 0

/-- The checks of R310 on a flag word for a sender of slice sl; `pal` is its palette, none for a device agent. -/
def State.flagOk (s : State) (sl : Nat) (pal : Option Nat) (w : Nat) : Bool :=
  getBits w 62 32 == 0 &&
  (if flagVirt w then getBits w 31 26 == sl && getBits w 23 22 == 0
   else getBits w 31 18 == 0 && decide (getBits w 5 0 ≤ 47) && decide (directHome w ≤ 3839) &&
     (match pal with | some p => directHome w / 384 == p | none => true) && s.fget BRS_CTL_SLICE (directHome w) == sl)

/-- Does a virtual flag word translate: allocated, with this generation and slice (R311)? -/
def State.virtOk (s : State) (w : Nat) : Bool :=
  match smGet s.syn.entries (virtKey w) with
  | some e => e.used && e.gen == getBits w 21 14 && e.slice == getBits w 31 26
  | none => false

/-- A flag at its home; one never touched reads zero. -/
def State.flag (s : State) (w : Nat) : Flag :=
  if flagVirt w then smGetD s.syn.virt (virtKey w) { val := 0, wq := [], dq := [] }
  else smGetD s.syn.direct (directKey w) { val := 0, wq := [], dq := [] }

/-- Replaces a flag. -/
def State.setFlag (s : State) (w : Nat) (f : Flag) : State :=
  if flagVirt w then s.setSyn { s.syn with virt := smSet s.syn.virt (virtKey w) f }
  else s.setSyn { s.syn with direct := smSet s.syn.direct (directKey w) f }

/-- Serves the WAITDEC queue: each release takes its threshold from the value (R302). -/
def serveDec (val : Nat) : List Waiter → Nat × List Waiter × List (Nat × Option Nat)
  | [] => (val, [], [])
  | w :: ws =>
    if w.thr ≤ val then
      let r := serveDec (val - w.thr) ws
      (r.1, r.2.1, (w.bid, some val) :: r.2.2)
    else (val, w :: ws, [])

/-- `serve` of R302: WAIT waiters first, then the WAITDEC queue from its head; the releases sent. -/
def Flag.serve (f : Flag) : Flag × List (Nat × Option Nat) :=
  let out := (f.wq.filter (fun w => decide (w.thr ≤ f.val))).map (fun w => (w.bid, some f.val))
  let r := serveDec f.val f.dq
  ({ val := r.1, wq := f.wq.filter (fun w => !decide (w.thr ≤ f.val)), dq := r.2.1 }, out ++ r.2.2)

/-- Applies a change to a flag at its home and serves it. -/
def State.atHome (s : State) (w : Nat) (f : Flag → Flag) : State :=
  let r := (f (s.flag w)).serve
  let s := s.setFlag w r.1
  s.setSyn { s.syn with releases := s.syn.releases ++ r.2 }

/-- A bristle's slice. -/
def State.brSlice (s : State) (b : Nat) : Nat := s.fget BRS_CTL_SLICE b

/-- A SIGNAL reaches its flag's home, R302, R311, R295. `none`: it is held for credit and stays on its way. -/
def State.signalArrive (s : State) (sl w amt : Nat) : Option State :=
  if flagVirt w then
    if s.virtOk w && getBits w 31 26 == sl then some (s.atHome w (fun f => { f with val := (f.val + amt) % 2 ^ 32 }))
    else
      let n := getBits w 25 24
      some ((s.fadd SYN_VF_DROP_COUNT 1 n).event SYN_VF_ERR_SIG_DROP n)
  else if s.brState (directHome w) == 4 || (match smGet s.cmp.turns (directHome w / 16) with | some t => t.cur != sl | none => false) then
    let p := directHome w / 384
    if (s.syn.heldSig.filter (fun h => h.1 / 64 / 384 == p)).length < 256 then
      some (s.setSyn { s.syn with heldSig := s.syn.heldSig ++ [(directHome w * 64 + sl, w, amt)] })
    else none
  else some (s.atHome w (fun f => { f with val := (f.val + amt) % 2 ^ 32 }))

/-- A wait reaches its flag's home; a refused virtual handle returns a refusal (R311). -/
def State.waitArrive (s : State) (b sl w thr : Nat) (dec : Bool) : State :=
  if flagVirt w && !(s.virtOk w && getBits w 31 26 == sl) then
    let s := s.event SYN_VF_ERR_WAIT_REFUSED (getBits w 25 24)
    s.setSyn { s.syn with releases := s.syn.releases ++ [(b, none)] }
  else
    s.atHome w (fun f => if dec then { f with dq := f.dq ++ [{ bid := b, thr := thr }] } else { f with wq := f.wq ++ [{ bid := b, thr := thr }] })

/-- Sender of a flag operation; device agents count from 3,840. -/
def FlagOp.sender : FlagOp → Nat
  | .signal b _ _ _ => b
  | .wait b _ _ _ => b
  | .waitdec b _ _ _ => b

/-- Is it a SIGNAL? -/
def FlagOp.isSignal : FlagOp → Bool
  | .signal _ _ _ _ => true
  | _ => false

/-- The flag word of an operation. -/
def FlagOp.word : FlagOp → Nat
  | .signal _ _ w _ => w
  | .wait _ _ w _ => w
  | .waitdec _ _ w _ => w

/-- Inserts by ascending sender, before what the same sender issued later. -/
def insertOp (o : FlagOp) : List FlagOp → List FlagOp
  | [] => [o]
  | p :: ps => if o.sender ≤ p.sender then o :: p :: ps else p :: insertOp o ps

/-- The order of R302 among operations that arrive in one cycle: SIGNALs, then waits, each by ascending sender. -/
def arrivalOrder (ops : List FlagOp) : List FlagOp :=
  (ops.filter FlagOp.isSignal).foldr insertOp [] ++ (ops.filter (fun o => !o.isSignal)).foldr insertOp []

/-- One operation is served at its home; a held SIGNAL goes back on its way. -/
def State.serveOp (s : State) : FlagOp → State
  | .signal b sl w amt =>
    match s.signalArrive sl w amt with
    | some t => t
    | none => (s.setSyn { s.syn with flight := s.syn.flight ++ [.signal b sl w amt] }).event SYN_ERR_SIG_HOLD (directHome w / 384)
  | .wait b sl w thr => s.waitArrive b sl w thr false
  | .waitdec b sl w thr => s.waitArrive b sl w thr true

/-- Splits the operations on their way into those that arrive now and the rest, in order: an operation named by its place arrives unless
one that its bristle issued earlier to the same home die is still on its way (R25), or register writes wait for that die (R29). Device
agents, numbered from 3,840, are not one source. -/
def State.arrivals (s : State) (ops : List Nat) : List FlagOp × List FlagOp :=
  s.syn.flight.zipIdx.foldl (fun acc q =>
    let o := q.1
    let late := acc.2.any (fun e => e.sender == o.sender && decide (o.sender < 3840) && flagDie e.word == flagDie o.word)
    if ops.contains q.2 && !late && !s.writesWait (flagDie o.word) then (acc.1 ++ [o], acc.2) else (acc.1, acc.2 ++ [o])) ([], [])

/-- FLAG_OPERATION_ARRIVE, R302: the operations at these places of those on their way arrive in one cycle of the home, whose die wakes for
them (R29). -/
def execFlagOperationArrive (ops : List Nat) (s : State) : Host.Outcome State Fault Refusal :=
  let r := s.arrivals ops
  .next ((arrivalOrder r.1).foldl (fun s o => (s.wakeDie (flagDie o.word)).serveOp o) (s.setSyn { s.syn with flight := r.2 }))

/-! ### The instructions -/

/-- SIGNAL, R152, R304: checked at issue (R310), then one store-buffer entry. -/
def execSignal (w : Issue) (rs1 rs2 : Nat) (s : State) : Host.Outcome State Fault Refusal :=
  .next (s.issue w (gOk rs1 && gOk rs2) [rs1, rs2] false (fun _ s =>
    let br := s.br w.b
    let f := (br.g rs1).toNat
    if !s.flagOk (s.brSlice w.b) (some (w.b / 384)) f then (s, .trap 9 w.raw)
    else if br.sbuf.length ≥ 8 then (s, .hold)
    else (s.setBr w.b { br with sbuf := br.sbuf ++ [.signal f ((br.g rs2).toNat % 2 ^ 32)] }, .fall 0)))

/-- A WAIT or WAITDEC at issue: checked, sent to the home, and the bristle holds (R302, R310); none leaves a die that has stopped issuing
(R27). -/
def waitI (dec : Bool) (w : Issue) (rd rs1 rs2 : Nat) (s : State) : State :=
  s.issue w (gOk rd && gOk rs1 && gOk rs2) [rs1, rs2] false (fun _ s =>
    let br := s.br w.b
    let f := (br.g rs1).toNat
    let thr := (br.g rs2).toNat % 2 ^ 32
    let sl := s.brSlice w.b
    if !s.flagOk sl (some (w.b / 384)) f then (s, .trap 9 w.raw)
    else if s.dieStopped (w.b / 384) then (s, .hold)
    else
      let h : HeldWait := { flag := f, threshold := thr, dec := dec, rd := rd, pc := br.pc, len := (s.asCoded w).len, raw := w.raw,
                            reported := false, since := s.pw.onTicks, spun := 0 }
      let s := s.setBr w.b { br with wait := some h }
      let s := s.fset BRS_STATUS_SPIN 1 w.b
      (s.setSyn { s.syn with flight := s.syn.flight ++ [if dec then .waitdec w.b sl f thr else .wait w.b sl f thr] }, .wait))

/-- WAIT, R302. -/
def execWait (w : Issue) (rd rs1 rs2 : Nat) (s : State) : Host.Outcome State Fault Refusal := .next (waitI false w rd rs1 rs2 s)
/-- WAITDEC, R302. -/
def execWaitdec (w : Issue) (rd rs1 rs2 : Nat) (s : State) : Host.Outcome State Fault Refusal := .next (waitI true w rd rs1 rs2 s)

/-- The bristle's wait ends with a value or a refusal, its cluster awake (R309): rd takes the value, or SYNC_FAULT is taken at the wait (R302,
R311), a Kengir-V bubble after either (R165); a trap that waited for the boundary follows (R122). -/
def State.endWait (s : State) (b : Nat) (v : Option Nat) : State :=
  let br := s.br b
  match br.wait with
  | none => s
  | some h =>
    let s := (s.wakeBristle b).fset BRS_STATUS_SPIN 0 b
    let br := { br with wait := none }
    match v with
    | none =>
      let x := if br.legacy then 1 else 0
      ((s.setBr b (br.tick (1 + x) 0)).slots b 2 x).trap b 9 h.pc h.raw
    | some x =>
      let s := (s.setBr b (br.setG h.rd (BitVec.ofNat 64 x))).retire b h.pc h.len (.fall 0)
      match br.trapReq with
      | some (c, e) => s.trap b c (s.br b).pc e
      | none => s

/-- The first release on its way to a bristle, taken out. -/
def takeRelease (b : Nat) : List (Nat × Option Nat) → Option (Option Nat × List (Nat × Option Nat))
  | [] => none
  | (x, v) :: rs =>
    if x = b then some (v, rs) else (takeRelease b rs).map (fun p => (p.1, (x, v) :: p.2))

/-- WAIT_RELEASE, R302: a release reaches the held bristle. -/
def execWaitRelease (b : Nat) (s : State) : Host.Outcome State Fault Refusal :=
  match takeRelease b s.syn.releases with
  | some (v, rest) => .next ((s.setSyn { s.syn with releases := rest }).endWait b v)
  | none => .next s

/-- Withdrawal, R308: a release that was first completes the instruction; else the waiter is removed and releases nothing,
and the bristle's pc stays at the wait. -/
def State.withdraw (s : State) (b : Nat) : State :=
  match (s.br b).wait with
  | none => s
  | some h =>
    match takeRelease b s.syn.releases with
    | some (v, rest) => (s.setSyn { s.syn with releases := rest }).endWait b v
    | none =>
      let f := s.flag h.flag
      let s := s.setFlag h.flag { f with wq := f.wq.filter (fun w => w.bid != b), dq := f.dq.filter (fun w => w.bid != b) }
      let s := s.setSyn { s.syn with flight := s.syn.flight.filter (fun o => o.isSignal || o.sender != b) }
      (s.setBr b { s.br b with wait := none }).fset BRS_STATUS_SPIN 0 b

/-! ### Reports and parking, R307, R309 -/

/-- Bristle cycles a held wait has spun up to now, in the clock in force, whose setting is in units of 100 MHz: 1,000 cycles in a tick of
10 µs (R307). -/
def State.spinCycles (s : State) (b : Nat) (h : HeldWait) : Nat := h.spun + (s.pw.onTicks - h.since) * (1000 * smGetD s.pw.clk (b / 384) 16)

/-- Can the count have reached the limit: by the end of the tick now under way, whose part is not measured (log entry 39)? -/
def State.spunOut (s : State) (b : Nat) (h : HeldWait) : Bool :=
  decide (s.fget SYN_CTL_SPIN_LIMIT (b / 384) ≠ 0 ∧ s.spinCycles b h + 1000 * smGetD s.pw.clk (b / 384) 16 ≥ s.fget SYN_CTL_SPIN_LIMIT (b / 384) * 1024)

/-- Before a palette's clock changes, the count of each of its waits is brought up to now (R307). -/
def State.countSpins (s : State) (p : Nat) : State :=
  { s with brs := smMap s.brs (fun b br => if b / 384 = p then { br with wait := br.wait.map (fun h => { h with spun := s.spinCycles b h, since := s.pw.onTicks }) } else br) }

/-- SPIN_LIMIT_REPORT, R307: one report for the wait, or one more dropped report. -/
def execSpinLimitReport (b : Nat) (s : State) : Host.Outcome State Fault Refusal :=
  let br := s.br b
  let p := b / 384
  match br.wait with
  | none => .next s
  | some h =>
    if h.reported ∨ !s.spunOut b h then .next s
    else
      let s := s.setBr b { br with wait := some { h with reported := true } }
      let q := smGetD s.syn.reports p []
      if q.length ≥ 64 then .next ((s.fadd SYN_DROP_COUNT_RPT 1 p).event SYN_ERR_RPT_DROP p)
      else
        let r : SpinReport := { bid := b, dec := h.dec, virt := flagVirt h.flag, flag := h.flag % 2 ^ 32, thr := h.threshold, val := (s.flag h.flag).val }
        let s := s.setSyn { s.syn with reports := smSet s.syn.reports p (q ++ [r]) }
        .next (s.fset SYN_STATUS_RPT_PEND (q.length + 1) p)

/-- SYN_RPT_POP, R307. -/
def execSynRptPop (p : Nat) (s : State) : Host.Outcome State Fault Refusal :=
  match smGetD s.syn.reports p [] with
  | [] => .next s
  | _ :: rest =>
    let s := s.setSyn { s.syn with reports := smSet s.syn.reports p rest }
    .next (s.fset SYN_STATUS_RPT_PEND rest.length p)

/-- Word i of the oldest report as SYN_RPT0 to SYN_RPT3 show it. -/
def State.rptWord (s : State) (p i : Nat) : Nat :=
  match smGetD s.syn.reports p [] with
  | [] => 0
  | r :: _ => match i with
    | 0 => 2 ^ 31 + (if r.dec then 2 ^ 30 else 0) + (if r.virt then 2 ^ 29 else 0) + r.bid
    | 1 => r.flag
    | 2 => r.thr
    | _ => r.val

/-- Does a bristle let its cluster park: HALTED, FAULTED, or waiting with its report filed? -/
def State.parkable (s : State) (b : Nat) : Bool :=
  s.brState b == 0 || s.brState b == 3 || (match (s.br b).wait with | some h => h.reported | none => false)

/-- CLUSTER_PARK, R309: the cluster is power-gated and keeps everything. -/
def execClusterPark (p c : Nat) (s : State) : Host.Outcome State Fault Refusal :=
  let k := 24 * p + c
  if p < 10 ∧ c < 24 ∧ s.fon SYN_CTL_PARK_EN p ∧ !s.syn.parked.contains k ∧ (List.range 16).all (fun i => s.parkable (16 * k + i)) then
    let s := (s.setSyn { s.syn with parked := k :: s.syn.parked }).gate (.cluster p c)
    .next (s.fset SYN_STATUS_PARKED (s.syn.parked.filter (fun x => x / 24 == p)).length p)
  else .next s

/-! ### Virtual flags, R300 -/

/-- Allocated entries of a stretcher. -/
def State.vfUsed (s : State) (n : Nat) : Nat := (s.syn.entries.filter (fun e => e.2.used && e.1 / 16384 == n)).length

/-- Virtual flags a slice holds. -/
def State.vfOf (s : State) (sl : Nat) : Nat := (s.syn.entries.filter (fun e => e.2.used && e.2.slice == sl)).length

/-- FLAG_ALLOC, R300: a flag that reads zero, on the stretcher with the most free entries (the lowest number on a tie). -/
def execFlagAlloc (ch : Nat) (s : State) : Host.Outcome State Fault Refusal :=
  .next (s.serve ch 0x38 [] 0 .bound false (fun sl s =>
    let n := [1, 2, 3].foldl (fun n m => if s.vfUsed m < s.vfUsed n then m else n) 0
    if s.vfOf sl ≥ s.quota sl 5 ∨ s.vfUsed n ≥ 16384 then refuseCmd s .quotaExceeded
    else
      match smLowestFree s.syn.entries (·.used) (16384 * n) 16384 with
      | none => refuseCmd s .quotaExceeded
      | some k =>
        let gen := match smGet s.syn.entries k with | some e => e.gen | none => 0
        let s := s.setSyn { s.syn with entries := smSet s.syn.entries k { slice := sl, used := true, gen := gen }, virt := smDel s.syn.virt k }
        let s := s.fset SYN_VF_USED_USED (s.vfUsed n) n
        okCmd s [k % 16384 + gen * 2 ^ 14 + n * 2 ^ 24 + sl * 2 ^ 26]))

/-- FLAG_FREE, R300: BUSY while a waiter is queued; a handle that does not translate for the slice is BAD_HANDLE. -/
def execFlagFree (ch handle : Nat) (s : State) : Host.Outcome State Fault Refusal :=
  .next (s.serve ch 0x39 [(1, handle)] 0 .bound false (fun sl s =>
    let w := 2 ^ 63 + handle
    if !s.virtOk w ∨ getBits handle 31 26 ≠ sl ∨ getBits handle 23 22 ≠ 0 then refuseCmd s .badHandle 1
    else
      let f := s.flag w
      if !f.wq.isEmpty ∨ !f.dq.isEmpty then refuseCmd s .busy
      else
        let n := getBits handle 25 24
        let s := s.setSyn { s.syn with
          entries := smSet s.syn.entries (virtKey w) { slice := sl, used := false, gen := (getBits handle 21 14 + 1) % 256 }
          virt := smDel s.syn.virt (virtKey w) }
        okCmd (s.fset SYN_VF_USED_USED (s.vfUsed n) n) [handle]))

end Machine
end Sys2Proof
end

