-- ==== Sys2Proof/Machine/Gather.lean ====
section
/-!
DEFINITION. Gathering (spec 12 R312 to R320): target words and keys, GSEND, credits, bristle collectors, gather slots and
their merges; the merge of attention partials (10 R250).
-/
namespace Sys2Proof
namespace Machine

/-! ### Target words and keys, R310, R312, R313 -/

/-- KIND 1: a bristle collector. -/
def tgtBristle (t : Nat) : Bool := bit t 63
/-- The collector's logical bristle ID. -/
def tgtId (t : Nat) : Nat := getBits t 59 48
/-- RANK of a key. -/
def keyRank (k : Nat) : Nat := getBits k 27 16
/-- PART of a key. -/
def keyPart (k : Nat) : Nat := getBits k 11 0
/-- The SRAM offset a contribution to a bristle collector lands at, R314. -/
def tgtOffset (t k : Nat) : Nat := getBits t 17 0 + (keyRank k * getBits t 47 36 + keyPart k) * 64
/-- The collector port of a target: 8 per gather unit, one per bristle (R318). -/
def tgtPort (t : Nat) : Nat := if tgtBristle t then 32 + tgtId t else getBits t 17 16 * 8 + t % 8

/-- The checks of R310 on a GSEND from a bristle of slice sl. -/
def State.gsendOk (s : State) (sl t k : Nat) : Bool :=
  getBits k 63 28 == 0 && getBits k 15 12 == 0 &&
  (if tgtBristle t then
     getBits t 62 60 == 0 && getBits t 29 18 == 0 && getBits t 5 0 == 0 && decide (tgtId t ≤ 3839) &&
       (decide (getBits t 35 30 ≤ 47) || getBits t 35 30 == 63) && s.fget BRS_CTL_SLICE (tgtId t) == sl &&
       decide (tgtOffset t k < 0x40000)
   else
     getBits t 62 18 == 0 && (decide (getBits t 15 0 < 61440) || (getBits t 15 0 - 61440) / 64 == sl))

/-- GSEND, R153, R310: v(vs) with the target word and key, one store-buffer entry. -/
def execGsend (w : Issue) (vs gt gk : Nat) (s : State) : Host.Outcome State Fault Refusal :=
  .next (s.issue w (vOk vs && gOk gt && gOk gk) [32 + vs, gt, gk] false (fun _ s =>
    let br := s.br w.b
    let t := (br.g gt).toNat
    let k := (br.g gk).toNat
    if !s.gsendOk (s.brSlice w.b) t k then (s, .trap 9 w.raw)
    else if br.sbuf.length ≥ 8 then (s, .hold)
    else (s.setBr w.b { br with sbuf := br.sbuf ++ [.gsend t k (leBytes 64 (br.v vs).toNat)] }, .fall 0)))

/-- Contribution buffers of a port in use. -/
def State.portUsed (s : State) (port : Nat) : Nat := (s.syn.granted.filter (fun c => tgtPort c.target == port)).length

/-- The target word that heads a bristle's store buffer, where that is a GSEND. -/
def State.headGsend (s : State) (b : Nat) : Option Nat :=
  match (s.br b).sbuf with
  | .gsend t _ _ :: _ => some t
  | _ => none

/-- The bristles that request a credit of a port, ascending. -/
def State.requesters (s : State) (port : Nat) : List Nat :=
  (s.brs.filter (fun p => match s.headGsend p.1 with | some t => tgtPort t == port | none => false)).map (·.1)

/-- Whose turn it is at a port, round robin in ascending ID after the last one served (R318). -/
def State.nextAt (s : State) (port : Nat) : Option Nat :=
  let rs := s.requesters port
  let last := smGetD s.syn.lastGrant port 4096
  match rs.find? (fun b => decide (last < 4096 ∧ last < b)) with
  | some b => some b
  | none => rs.head?

/-- The first contribution in flight that satisfies p, taken out. -/
def takeContribution (p : Contribution → Bool) : List Contribution → Option (Contribution × List Contribution)
  | [] => none
  | c :: cs => if p c then some (c, cs) else (takeContribution p cs).map (fun r => (r.1, c :: r.2))

/-- A SIGNAL sent by a device agent for slice sl (R302: device agents come after bristles). -/
def State.deviceSignal (s : State) (sl w amt : Nat) : State :=
  s.setSyn { s.syn with flight := s.syn.flight ++ [.signal 3840 sl w amt] }

/-- May a granted contribution reach its collector: behind register writes that wait for its die (R29), and behind a SIGNAL that its bristle
sent there before (R25)? -/
def State.mayArrive (s : State) (c : Contribution) : Bool :=
  !s.writesWait (targetDie c.target) &&
    !s.syn.flight.any (fun o => o.isSignal && o.sender == c.bid && flagDie o.word == targetDie c.target)

/-- Is bristle b saved, or another slice's turn on its cluster? What comes for slice sl then waits at the palette (R295). -/
def State.awayFrom (s : State) (sl b : Nat) : Bool :=
  s.brState b == 4 || (match smGet s.cmp.turns (b / 16) with | some t => t.cur != sl | none => false)

/-- COLLECTOR_CONTRIBUTION, R311, R314, but not while its collector is saved (R295; log entry 39): written at its place, or discarded in the swatch area; the flag is raised either way. -/
def execCollectorContribution (bid : Nat) (s : State) : Host.Outcome State Fault Refusal :=
  match takeContribution (fun c => c.bid == bid && tgtBristle c.target && s.mayArrive c && !s.awayFrom c.slice (tgtId c.target)) s.syn.granted with
  | none => .next s
  | some (c, rest) =>
    let id := tgtId c.target
    let s := (s.setSyn { s.syn with granted := rest }).wakeBristle id
    let off := tgtOffset c.target c.key
    let s :=
      if off ≥ s.fget BRS_SWATCH_BASE id * 0x1000 then
        (s.fadd SYN_DROP_COUNT_GATHER 1 (id / 384)).event SYN_ERR_GATHER_DROP (id / 384)
      else s.sramWrite id (sramAddr id off) c.data
    let fl := getBits c.target 35 30
    .next (if fl = 63 then s else s.deviceSignal c.slice (id * 64 + fl) 1)

/-! ### The merge of attention partials, R250 -/

/-- A head's partial, R248: m, l and o as F32. -/
structure HeadPart where
  m : Nat
  l : Nat
  o : List Nat
deriving DecidableEq, Repr

/-- Rounded F32 sum. -/
def addF32 (x y : Nat) : Nat := (f32.encode .even .infinity ((f32.decode x).add (f32.decode y))).bits
/-- Rounded F32 difference. -/
def subF32 (x y : Nat) : Nat := (f32.encode .even .infinity ((f32.decode x).add (f32.decode y).neg)).bits
/-- Rounded F32 product. -/
def mulF32 (x y : Nat) : Nat := (f32.encode .even .infinity ((f32.decode x).mul (f32.decode y))).bits
/-- The larger in the order of R175; a NaN gives canonical NaN. -/
def maxF32 (x y : Nat) : Nat := (elemOp .max 5 x y).1

/-- `merge` of R250 for one head. -/
def mergeHead (a p : HeadPart) : HeadPart :=
  let big := maxF32 a.m p.m
  let ea := (expF32 (subF32 a.m big)).1
  let ep := (expF32 (subF32 p.m big)).1
  { m := big, l := addF32 (mulF32 a.l ea) (mulF32 p.l ep),
    o := (a.o.zip p.o).map (fun x => addF32 (mulF32 x.1 ea) (mulF32 x.2 ep)) }

/-- The heads of a partial laid out in lines as R249 numbers them. -/
def partHeads (heads hdim : Nat) (line : Nat → Vec) : List HeadPart :=
  (List.range heads).map (fun h =>
    { m := vget (line (h / 8)) 5 (h % 8 * 2), l := vget (line (h / 8)) 5 (h % 8 * 2 + 1),
      o := (List.range hdim).map (fun i => vget (line (ceilDiv heads 8 + (h * hdim + i) / 16)) 5 (i % 16)) })

/-- Line c of merged heads, in the layout of R249. -/
def headsLine (heads hdim : Nat) (hs : List HeadPart) (c : Nat) : Vec :=
  let cc := ceilDiv heads 8
  let zero : HeadPart := { m := 0, l := 0, o := [] }
  if c < cc then
    vmake 5 ((List.range 16).map (fun i =>
      let h := 8 * c + i / 2
      if h < heads then (if i % 2 = 0 then (hs.getD h zero).m else (hs.getD h zero).l) else 0))
  else
    let k := (c - cc) * 16
    vmake 5 ((List.range 16).map (fun i => (hs.getD (k / hdim) zero).o.getD (k % hdim + i) 0))

/-! ### Gather slots, R315 to R317 -/

/-- A word of a slice slot's header; n counts from slot 61,440. -/
def State.hdr (s : State) (u n i : Nat) : Nat := s.rget SYN_GU_HDR u n i

/-- STATE of a slot's header. -/
def State.slotState (s : State) (u n : Nat) : Nat := s.hdr u n 0 % 256

/-- Sets STATE and keeps the status count of armed slots (R323). -/
def State.setSlotState (s : State) (u n st : Nat) : State :=
  let old := s.slotState u n
  let s := s.rset SYN_GU_HDR (putBits (s.hdr u n 0) 7 0 st) u n 0
  let a := s.fget SYN_GU_STATUS_ARMED u
  s.fset SYN_GU_STATUS_ARMED (if old ≠ 1 ∧ st = 1 then a + 1 else if old = 1 ∧ st ≠ 1 then a - 1 else a) u

/-- Is a slot's header within its ranges, its buffer within the slice's staging, and DONE_FLAG one that the slice may
signal (R315, R316)? `w0` is the word being written at 0x00. -/
def State.hdrOk (s : State) (u n w0 : Nat) : Bool :=
  let op := getBits w0 15 8
  let cpp := s.hdr u n 1 % 65536
  let np := s.hdr u n 1 / 65536
  let buf := s.hdr u n 2
  let heads := s.hdr u n 6 % 65536
  let hdim := s.hdr u n 6 / 65536
  let done := s.hdr u n 4 + s.hdr u n 5 * 2 ^ 32
  let len := (if op = 4 ∨ bit w0 16 then np * cpp else cpp) * 64
  decide (op ≤ 4) && getBits w0 31 17 == 0 && decide (1 ≤ cpp ∧ cpp ≤ 4096) && decide (1 ≤ np ∧ np ≤ 4096) && buf % 64 == 0 &&
    (if op = 3 then decide (cpp = ceilDiv heads 8 + heads * hdim / 16) && (hdim == 64 || hdim == 128 || hdim == 256) && heads != 0
     else heads == 0 && hdim == 0) &&
    decide (0x4000000 ≤ buf ∧ buf + len ≤ 0x6000000) && s.ownsStaging (n / 64) u buf len &&
    (done == 0 || s.flagOk (n / 64) none done)

/-- GATHER_SLOT_ARM, R316: word 0x00 of slice slot 61,440 + n written with STATE 1. -/
def execGatherSlotArm (unit slot val : Nat) (s : State) : Host.Outcome State Fault Refusal :=
  let n := slot - 61440
  if unit ≥ 4 ∨ slot < 61440 ∨ slot ≥ 65536 ∨ val % 256 ≠ 1 then .next s
  else if s.slotState unit n = 1 then .next (s.event SYN_GU_ERR_HDR_REJECT unit)
  else
    let ok := s.hdrOk unit n val
    let s := s.rset SYN_GU_HDR (putBits val 7 0 (s.slotState unit n)) unit n 0
    if !ok then .next ((s.setSlotState unit n 3).event SYN_GU_ERR_HDR_REJECT unit)
    else
      let s := (s.rset SYN_GU_HDR 0 unit n 3).rset SYN_GU_HDR 0 unit n 7
      let s := s.setSyn { s.syn with slots := smSet s.syn.slots (65536 * unit + slot) { got := [] } }
      .next (s.setSlotState unit n 1)

/-- GATHER_SLOT_FREE, R316: STATE 0 frees the slot; later contributions find it not armed. -/
def execGatherSlotFree (unit slot : Nat) (s : State) : Host.Outcome State Fault Refusal :=
  if unit ≥ 4 ∨ slot < 61440 ∨ slot ≥ 65536 then .next s
  else
    let s := s.setSlotState unit (slot - 61440) 0
    .next (s.setSyn { s.syn with slots := smDel s.syn.slots (65536 * unit + slot) })

/-- One merge of a line, R317. -/
def mergeLine (op : Nat) (x y : Vec) : Vec :=
  let z := (List.range 16).map (fun j =>
    let a := vget x 5 j
    let b := vget y 5 j
    match op with
    | 0 => (addLane32 a (f32.decode b)).bits
    | 1 => ofSigned 32 (satInt 32 (toSigned 32 a + toSigned 32 b)).1
    | _ => maxF32 a b)
  vmake 5 z

/-- Contributions in ascending rank, an earlier one before a later one of the same rank. -/
def byRank (xs : List (Nat × Nat × Vec)) : List (Nat × Nat × Vec) :=
  xs.foldl (fun acc x => acc.takeWhile (fun y => decide (y.1 ≤ x.1)) ++ x :: acc.dropWhile (fun y => decide (y.1 ≤ x.1))) []

/-- The result lines of a completed slot: (line, lanes), R317. -/
def slotResult (op cpp heads hdim : Nat) (det : Bool) (got : List (Nat × Nat × Vec)) : List (Nat × Vec) :=
  let seq := if det then byRank got else got
  if op = 4 then got.map (fun g => (g.1 * cpp + g.2.1, g.2.2))
  else
    let held := if det then got.map (fun g => (g.1 * cpp + g.2.1, g.2.2)) else []
    let ranks := (seq.map (·.1)).eraseDups
    let lines :=
      if op = 3 then
        let whole := ranks.filter (fun r => (seq.filter (fun g => g.1 == r)).length == cpp)
        let line (r : Nat) (i : Nat) : Vec := ((seq.find? (fun g => g.1 == r && g.2.1 == i)).map (·.2.2)).getD 0
        let order := if det then whole else
          let rev := (got.reverse.map (·.1)).eraseDups.reverse
          rev.filter whole.contains
        match order.map (fun r => partHeads heads hdim (line r)) with
        | [] => (List.range cpp).map (fun i => (i, (0 : Vec)))
        | p :: ps =>
          let hs := ps.foldl (fun a b => (a.zip b).map (fun x => mergeHead x.1 x.2)) p
          (List.range cpp).map (fun i => (i, headsLine heads hdim hs i))
      else
        (List.range cpp).map (fun i =>
          match (seq.filter (fun g => g.2.1 == i)).map (·.2.2) with
          | [] => (i, (0 : Vec))
          | v :: vs => (i, vs.foldl (mergeLine op) v))
    held ++ lines

/-- A slot whose contributions are all in completes: the buffer is placed, STATE is DONE or FAULT, then DONE_FLAG is raised
(R316). -/
def State.completeSlot (s : State) (u n : Nat) : State :=
  let w0 := s.hdr u n 0
  let cpp := s.hdr u n 1 % 65536
  let np := s.hdr u n 1 / 65536
  if s.hdr u n 3 + s.hdr u n 7 < np * cpp then s
  else
    let got := (smGetD s.syn.slots (65536 * u + 61440 + n) { got := [] }).got
    let lines := slotResult (getBits w0 15 8) cpp (s.hdr u n 6 % 65536) (s.hdr u n 6 / 65536) (bit w0 16) got
    let buf := stagingAddr u (s.hdr u n 2)
    let s := lines.foldl (fun s l => s.stagingWrite u (buf + 64 * l.1) (leBytes 64 l.2.toNat)) s
    let done := s.hdr u n 4 + s.hdr u n 5 * 2 ^ 32
    let s := (s.setSlotState u n (if s.hdr u n 7 = 0 then 2 else 3)).count (11 + u) 0 0x22 (n / 64) 1
    if done = 0 then s else s.deviceSignal (n / 64) done 1

/-- A contribution discarded at a slot that is not armed, or from another slice (R316). -/
def State.notArmed (s : State) (u : Nat) : State := (s.fadd SYN_GU_DROP_COUNT 1 u).event SYN_GU_ERR_NOT_ARMED u

/-! ### Device slots, R225, R249, R315 -/

/-- F32 values as 64-byte lines. -/
def linesOf (vals : List Nat) : List Vec := (List.range (ceilDiv vals.length 16)).map (fun i => vmake 5 ((vals.drop (16 * i)).take 16))

/-- The lanes of lines, in order. -/
def lanesOf (ls : List Vec) : List Nat := ls.flatMap (fun v => velems v 5)

/-- Are all contributions of a device slot in (R316)? -/
def DevSlot.full (g : DevSlot) : Bool := decide (g.ranks.length * g.cpp ≤ g.got.length + g.drops)

/-- The result lines of a device slot, R317. -/
def DevSlot.result (g : DevSlot) : List Vec :=
  let ls := slotResult g.op g.cpp g.heads g.hdim g.det g.got
  (ls.drop (ls.length - g.cpp)).map (·.2)

/-- A device slot changes; the status counts armed slots (R323). -/
def State.armDev (s : State) (u slot : Nat) (g : DevSlot) : State :=
  (s.setSyn { s.syn with dev := smSet s.syn.dev (65536 * u + slot) g }).fadd SYN_GU_STATUS_ARMED 1 u

/-- The device slots of work items that satisfy p are free again: what still comes there finds a slot that is not armed (R316). -/
def State.freeDev (s : State) (p : Nat → Bool) : State :=
  let gone := s.syn.dev.filter (fun d => p d.2.work)
  let s := (gone.filter (fun d => !d.2.full)).foldl (fun (s : State) d => s.fset SYN_GU_STATUS_ARMED (s.fget SYN_GU_STATUS_ARMED (d.1 / 65536) - 1) (d.1 / 65536)) s
  s.setSyn { s.syn with dev := s.syn.dev.filter (fun d => !p d.2.work) }

/-- A contribution reaches a device slot, R316: accepted, or discarded. The ranks expected there bound RANK, and one rank sends as many
partials as it stands among them (DEDUCED, log entry 38). -/
def State.acceptDev (s : State) (u slot slice port key : Nat) (v : Vec) : State :=
  match smGet s.syn.dev (65536 * u + slot) with
  | none => s.notArmed u
  | some g =>
    if g.slice ≠ slice ∨ g.full then s.notArmed u
    else
      let r := keyRank key
      let p := keyPart key
      let put := fun (s : State) (g : DevSlot) =>
        let s := s.setSyn { s.syn with dev := smSet s.syn.dev (65536 * u + slot) g }
        if g.full then s.fset SYN_GU_STATUS_ARMED (s.fget SYN_GU_STATUS_ARMED u - 1) u else s
      let before := (g.got.filter (fun x => x.1 / 65536 == r && x.2.1 == p)).length
      if p ≥ g.cpp ∨ !g.ranks.contains r then (put s { g with drops := g.drops + 1 }).event SYN_GU_ERR_BOUNDS u
      else if (g.det ∨ g.op = 3) ∧ before ≥ g.ranks.count r then (put s { g with drops := g.drops + 1 }).event SYN_GU_ERR_RANK_DUP u
      else (put s { g with got := g.got ++ [(r * 65536 + before, p, v)] }).count (11 + u) port 0x20 slice 1

/-- A partial's lines reach a device slot, contribution i with key GK + i (R313). -/
def State.sendDev (s : State) (gt gk slice : Nat) (ls : List Vec) : State :=
  ((List.range ls.length).zip ls).foldl (fun s x => s.acceptDev (getBits gt 17 16) (getBits gt 15 0) slice (gt % 8) (gk + x.1) x.2) s

/-- A contribution to a slice slot, R316, R317: accepted, or discarded as out of bounds, a duplicate, or not armed. -/
def State.acceptSlice (s : State) (u slot : Nat) (c : Contribution) : State :=
  let n := slot - 61440
  if s.slotState u n ≠ 1 ∨ n / 64 ≠ c.slice then s.notArmed u
  else
    let w0 := s.hdr u n 0
    let op := getBits w0 15 8
    let det := bit w0 16
    let cpp := s.hdr u n 1 % 65536
    let np := s.hdr u n 1 / 65536
    let g := smGetD s.syn.slots (65536 * u + slot) { got := [] }
    let r := keyRank c.key
    let p := keyPart c.key
    let drop := fun (s : State) (f : Fld) => (s.rset SYN_GU_HDR (s.hdr u n 7 + 1) u n 7).event f u
    if p ≥ cpp ∨ ((op = 4 ∨ det) ∧ r ≥ np) then (drop s SYN_GU_ERR_BOUNDS).completeSlot u n
    else if (op = 4 ∨ det ∨ op = 3) ∧ g.got.any (fun x => x.1 == r && x.2.1 == p) then (drop s SYN_GU_ERR_RANK_DUP).completeSlot u n
    else
      let s := (s.rset SYN_GU_HDR (s.hdr u n 3 + 1) u n 3).count (11 + u) (tgtPort c.target % 8) 0x20 c.slice 1
      let s := s.setSyn { s.syn with slots := smSet s.syn.slots (65536 * u + slot) { got := g.got ++ [(r, p, BitVec.ofNat 512 (leVal c.data))] } }
      s.completeSlot u n

end Machine
end Sys2Proof
end

