-- ==== Sys2Proof/Machine/HostMem.lean ====
section
/-!
DEFINITION. Host memory as the device reaches it: windows, PASIDs and apertures (spec 15 R374 to R376), posted writes with
dirty logging and generations (R383, R388), tags of non-posted requests (14 R361), the fault log (R394).
-/
namespace Sys2Proof
namespace Machine

/-! ### A slice's registers: firmware writes the same values on both host dies (spec 15) -/

/-- Reads a field of a slice's SLC block. -/
def State.slcGet (s : State) (f : Fld) (sl : Nat) : Nat := s.fget f 0 sl

/-- Writes a field of a slice's SLC block on both host dies. -/
def State.slcPut (s : State) (f : Fld) (sl v : Nat) : State := (s.fset f v 0 sl).fset f v 1 sl

/-- Adds to a saturating field of a slice's SLC block on both host dies. -/
def State.slcAdd (s : State) (f : Fld) (sl d : Nat) : State := (s.fadd f d 0 sl).fadd f d 1 sl

/-- A slice's state, R372. -/
def State.slState (s : State) (sl : Nat) : Nat := s.slcGet SLC_STATUS_STATE sl

/-- Does a slice exist: is it not FREE? -/
def State.slLive (s : State) (sl : Nat) : Bool := decide (sl < 64) && s.slState sl != 0

/-- A slice's generation, R388. -/
def State.curGen (s : State) (sl : Nat) : Nat := s.slcGet SLC_GEN_CUR sl

/-- Are the slice's doorbells accepted? -/
def State.accepts (s : State) (sl : Nat) : Bool := s.slcGet SLC_CTL_ACCEPT sl != 0

/-- A doorbell ignored under R386, R387 or R392. -/
def State.ignoreDb (s : State) (sl : Nat) : State := s.slcAdd SLC_STATUS_DB_IGNORED sl 1

/-- A transaction of an earlier generation is discarded, R388. -/
def State.lateGen (s : State) (sl : Nat) : State := (s.slcAdd SLC_LATE_COUNT_COUNT sl 1).slcPut SLC_STATUS_LATE_GEN sl 1

/-- Items squashed, counted. -/
def State.squashed (s : State) (sl n : Nat) : State := s.slcAdd SLC_SQUASH_COUNT_COUNT sl n

/-- The port of the driver attached to a slice, by its driver slot. -/
def State.drvPort (s : State) (sl : Nat) : Option Nat := (s.sx sl).driver.map (· / 16)

/-- The slice's event vector, sent where a driver is attached. -/
def State.sliceEvent (s : State) (sl : Nat) : State :=
  match s.drvPort sl with
  | some p => s.sliceMsix sl p (s.slcGet SLC_CTL_EVT_VEC sl)
  | none => s

/-- Writes a fault log entry, R394. -/
def State.faultLog (s : State) (sl kind : Nat) (st : Status) (queue tag addr : Nat) : State :=
  let i := s.slcGet SLC_FLOG_WR_INDEX sl
  let ws := [kind + st.code * 256 + queue % 65536 * 65536, tag % 2 ^ 32, addr % 2 ^ 32, addr / 2 ^ 32 % 2 ^ 32]
  let s := (List.range 4).foldl (fun s w =>
    (s.rset SLC_FLOG (ws.getD w 0) 0 sl (4 * i + w)).rset SLC_FLOG (ws.getD w 0) 1 sl (4 * i + w)) s
  ((s.slcPut SLC_FLOG_WR_INDEX sl ((i + 1) % 16)).slcPut SLC_STATUS_FLOG_NEW sl 1).sliceEvent sl

/-! ### PASIDs and windows, R374, R375, R396 -/

/-- Is a PASID entry a binding of slice sl under index i that covers port p? -/
def pasidHits (sl i p v : Nat) : Bool :=
  bit v 63 && getBits v 61 56 == sl && getBits v 51 48 == i && bit (getBits v 35 32) (p % 4)

/-- The PASID bound on port p for index i of a slice. -/
def State.pasidAt (s : State) (sl p i : Nat) : Option Nat :=
  (s.hl.pasid.find? (fun q => q.1 / 1024 == p / 4 && pasidHits sl i p q.2)).map (fun q => getBits q.2 19 0)

/-- The indices a slice has bound, on any port. -/
def State.boundIdx (s : State) (sl : Nat) : List Nat :=
  (List.range 16).filter (fun i => s.hl.pasid.any (fun q => bit q.2 63 && getBits q.2 61 56 == sl && getBits q.2 51 48 == i))

/-- The primary PASID of a slice on a port: the binding with the lowest index. -/
def State.primaryPasid (s : State) (sl p : Nat) : Nat := (((List.range 16).filterMap (s.pasidAt sl p)).head?).getD 0

/-- Does a window entry hold [a, a + n) for a read or a write? -/
def winHolds (e a n : Nat) (write : Bool) : Bool :=
  bit e 127 && (if write then bit e 125 else bit e 126) &&
  decide (getBits e 63 12 * 4096 ≤ a ∧ a + n ≤ getBits e 63 12 * 4096 + (getBits e 95 64 + 1) * 4096)

/-- The valid windows of a slice, in window order. -/
def State.windows (s : State) (sl : Nat) : List Nat :=
  (List.range 64).filterMap (fun w => match smGet s.hl.win (sl * 64 + w) with
    | some e => if bit e 127 then some e else none
    | none => none)

/-- The PASID of the first window that admits an access through port p, R375. -/
def State.windowFor (s : State) (sl p a n : Nat) (write : Bool) : Option Nat :=
  ((s.windows sl).filterMap (fun e => if winHolds e a n write then s.pasidAt sl p (getBits e 115 112) else none)).head?

/-! ### The device's own BARs, R344, R376 -/

/-- The BARs of a port: function, offset of the register, size. -/
def bars : List (Nat × Nat × Nat) := [(0, 0x10, 2 ^ 26), (0, 0x18, 2 ^ 36), (1, 0x10, 2 ^ 16), (2, 0x10, 2 ^ 24)]

/-- Host address of a BAR of a port. -/
def PortX.barBase (x : PortX) (fn off size : Nat) : Nat :=
  (x.cfgWord fn (off + 4) * 2 ^ 32 + x.cfgWord fn off) / size * size

/-- Does a function decode memory (Memory Space Enable)? -/
def PortX.decodes (x : PortX) (fn : Nat) : Bool := bit (x.cfgWord fn 4) 1

/-- The port whose BAR2 holds [a, a + n), with the offset in it. -/
def State.apertureOf (s : State) (a n : Nat) : Option (Nat × Nat) :=
  ((List.range 8).filterMap (fun p =>
    let x := s.port p
    let b := x.barBase 0 0x18 (2 ^ 36)
    if x.decodes 0 && decide (b ≤ a ∧ a + n ≤ b + 2 ^ 36) then some (p, a - b) else none)).head?

/-- Does [a, a + n) touch any BAR of the device? -/
def State.touchesBar (s : State) (a n : Nat) : Bool :=
  (List.range 8).any (fun p => bars.any (fun (fn, off, size) =>
    let x := s.port p
    let b := x.barBase fn off size
    x.decodes fn && decide (a < b + size ∧ b < a + n)))

/-- The pieces of [off, off + n) of port p's BAR2 as internal ranges, page by page; the failing status otherwise. -/
def State.aperturePieces (s : State) (sl p off n : Nat) : Nat → Except Status (List (Nat × Nat))
  | 0 => .ok []
  | k + 1 =>
    if n = 0 then .ok []
    else
      let e := smGetD s.hl.apt (p * 32768 + off / 0x200000) 0
      let m := min n (0x200000 - off % 0x200000)
      if !bit e 63 then .error .unmapped
      else if getBits e 61 56 ≠ sl then .error .accessFault
      else match s.aperturePieces sl p (off + m) (n - m) k with
        | .ok ps => .ok ((getBits e 47 21 * 0x200000 + off % 0x200000, m) :: ps)
        | .error st => .error st

/-- Where a host address range leads, R376. -/
inductive HostWay where
  | inside (pieces : List (Nat × Nat))
  | host (pasid : Nat)
  | bad (st : Status)
deriving DecidableEq, Repr

/-- A status for an access that is not admitted. -/
def AccessErr.status : AccessErr → Status
  | .unmapped => .unmapped
  | .denied => .accessFault

/-- The first matching case of R376 for an access of slice sl through port p. -/
def State.hostWay (s : State) (sl p a n : Nat) (write : Bool) : HostWay :=
  match s.apertureOf a n with
  | some (q, off) =>
    (match s.aperturePieces sl q off n (n / 0x200000 + 2) with
     | .error st => .bad st
     | .ok ps =>
       (match ps.findSome? (fun r => s.accessErr sl r.1 r.2 write) with
        | some e => .bad e.status
        | none => .inside ps))
  | none =>
    if s.touchesBar a n then .bad .accessFault
    else match s.windowFor sl p a n write with
      | some pasid => .host pasid
      | none => .bad .accessFault

/-! ### Posted writes, R359, R365, R367, R383, R388 -/

/-- Is a window entry a valid LOG window? -/
def logWindow (e : Nat) : Bool := bit e 127 && bit e 124

/-- The LOG windows of a slice as (first page, pages), in window order. -/
def State.logWindows (s : State) (sl : Nat) : List (Nat × Nat) :=
  ((s.windows sl).filter logWindow).map (fun e => (getBits e 63 12, getBits e 95 64 + 1))

/-- Bytes of one dirty map: one bit per page of every LOG window (R383). -/
def State.mapLen (s : State) (sl : Nat) : Nat := ceilDiv ((s.logWindows sl).map (·.2)).sum 8

/-- The stack address of byte j of a slice's dirty map m: the maps follow each other in the regions taken for them (log entry 39). -/
def State.mapAddr (s : State) (sl m j : Nat) : Addr :=
  let k := m * s.mapLen sl + j
  (s.sx sl).dirtyRegs.getD (k / 0x10000) 0 * 0x10000 + k % 0x10000

/-- The bits that the pages of [a, a + n) have in a map of LOG windows, from bit `b` on. -/
def logBits (a n b : Nat) : List (Nat × Nat) → List Nat
  | [] => []
  | (first, len) :: ws =>
    ((List.range ((a + n - 1) / 4096 + 1 - a / 4096)).filterMap (fun i =>
      let pg := a / 4096 + i
      if first ≤ pg ∧ pg < first + len then some (b + pg - first) else none)) ++ logBits a n (b + len) ws

/-- Dirty-page logging of a write of n bytes at a, R383: the bit of every page of a LOG window it touches is set in the active map. -/
def State.logDirty (s : State) (sl a n : Nat) : State :=
  if s.slcGet SLC_DIRTY_EN sl = 0 ∨ n = 0 then s
  else (logBits a n 0 (s.logWindows sl)).foldl (fun s i =>
    let at_ := s.mapAddr sl (s.slcGet SLC_DIRTY_ACTIVE_MAP sl) (i / 8)
    let old := s.memLe at_ 1
    if bit old (i % 8) then s else s.busWrite at_ (leBytes 1 (old + 2 ^ (i % 8)))) s

/-- The bytes of a slice's dirty map m, read from the stacks; none where any of it is poisoned. -/
def State.mapBytes (s : State) (sl m : Nat) : State × Option (List Byte) :=
  let n := s.mapLen sl
  (List.range (s.sx sl).dirtyRegs.length).foldl (fun (acc : State × Option (List Byte)) r =>
    let lo := max (m * n) (r * 0x10000)
    let hi := min (m * n + n) ((r + 1) * 0x10000)
    if hi ≤ lo then acc
    else
      let q := acc.1.busRead (acc.1.mapAddr sl m (lo - m * n)) (hi - lo)
      (q.state, match acc.2, q.bytes with | some x, some y => some (x ++ y) | _, _ => none)) (s, some [])

/-- Zeroes a slice's dirty map m (R384). -/
def State.mapZero (s : State) (sl m : Nat) : State :=
  let n := s.mapLen sl
  (List.range (s.sx sl).dirtyRegs.length).foldl (fun s r =>
    let lo := max (m * n) (r * 0x10000)
    let hi := min (m * n + n) ((r + 1) * 0x10000)
    s.busWrite (s.mapAddr sl m (lo - m * n)) (List.replicate (hi - lo) 0)) s

/-- The pieces a posted write leaves in: none longer than the maximum payload size, none across a 4 KiB boundary (R341). -/
def postPieces (mps a : Nat) (bs : List Byte) : Nat → List (Nat × List Byte)
  | 0 => [(a, bs)]
  | n + 1 =>
    let m := min mps (4096 - a % 4096)
    if bs.length ≤ m then [(a, bs)] else (a, bs.take m) :: postPieces mps (a + m) (bs.drop m) n

/-- A size that Device Control codes: 128 bytes shifted left. -/
def PortX.ctlSize (x : PortX) (fn hi lo : Nat) : Nat := 128 * 2 ^ getBits (x.cfgWord fn 0x78) hi lo

/-- The host's maximum payload size for a function, at most the 512 B the device supports (R341). -/
def PortX.maxPayload (x : PortX) (fn : Nat) : Nat := min 512 (x.ctlSize fn 7 5)

/-- The host's maximum read request size for a function, at most 4,096 B (R341). -/
def PortX.maxRead (x : PortX) (fn : Nat) : Nat := min 4096 (x.ctlSize fn 14 12)

/-- Sends a posted write that has passed its checks: held while the function is not enabled, lost while the link is down. -/
def State.sendPost (s : State) (p fn pasid a : Nat) (ro : Bool) (bytes : List Byte) : State :=
  let x := s.port p
  if !x.up then s
  else if !x.enabled fn then
    s.setPort p { x with held := x.held ++ [{ fn := fn, pasid := pasid, addr := a, ro := ro && bit (x.cfgWord fn 0x78) 4, bytes := bytes }] }
  else (postPieces (x.maxPayload fn) a bytes bytes.length).foldl (fun s q =>
    s.emit (.hostWrite p fn pasid q.1 (ro && bit (x.cfgWord fn 0x78) 4) q.2)) (s.wakeLink p)

/-- Writes to memory in pieces, one after the other. -/
def State.putPieces (s : State) (bytes : List Byte) : List (Nat × Nat) → State
  | [] => s
  | (a, n) :: ps => (s.busWrite a (bytes.take n)).putPieces (bytes.drop n) ps

/-- A write to a host address made for a slice under a generation, R376, R383, R388: the status its maker records, and the
state after it. -/
def State.hostPut (s : State) (p fn sl gen a : Nat) (ro : Bool) (bytes : List Byte) : Status × State :=
  if gen ≠ s.curGen sl then (.squashed, s.lateGen sl)
  else match s.hostWay sl p a bytes.length true with
    | .bad st => (st, s)
    | .inside ps => (.ok, s.putPieces bytes ps)
    | .host pasid =>
      if (s.port p).up then (.ok, ((s.logDirty sl a bytes.length).count (17 + p / 4) (p % 4) 2 sl bytes.length).sendPost p fn pasid a ro bytes) else (.hostLinkDown, s)

/-- Reads memory in pieces; none where any is poisoned. -/
def State.getPieces (s : State) : List (Nat × Nat) → State × Option (List Byte)
  | [] => (s, some [])
  | (a, n) :: ps =>
    let r := s.busRead a n
    let q := r.state.getPieces ps
    (q.1, match r.bytes, q.2 with | some x, some y => some (x ++ y) | _, _ => none)

/-- A read of a host address completed within a command: `got` is what the completion brings. An aperture address reads the
device's own memory instead. While the function that reads is not enabled the read waits (R365): it answers OK with no bytes, which no
completion is. -/
def State.hostGet (s : State) (p sl gen a n : Nat) (got : Status × List Byte) (fn : Nat := 0) : State × (Status × List Byte) :=
  if gen ≠ s.curGen sl then (s.lateGen sl, (.squashed, []))
  else match s.hostWay sl p a n false with
    | .bad st => (s, (st, []))
    | .inside ps =>
      let r := s.getPieces ps
      (r.1, match r.2 with | some b => (.ok, b) | none => (.poisoned, []))
    | .host _ => if !(s.port p).up then (s, (.hostLinkDown, [])) else if (s.port p).enabled fn then (s, got) else (s, (.ok, []))

/-! ### Counter views, R595 -/

/-- Base of a slice's view of its counters in AD0's PMU region. -/
def viewBase (sl : Nat) : Addr := 0x030003300000 + sl * 0x10000

/-- The read-only grant entry that maps a slice's view, R371. -/
def viewGrant (sl : Nat) : Nat := 3 * 2 ^ 62 + sl % 64 * 2 ^ 56 + viewBase sl

/-- Is a slice's view mapped on a port: the attached driver's, and with PMU_USER every port with a work queue of the slice? -/
def State.viewWanted (s : State) (sl p : Nat) : Bool :=
  s.drvPort sl == some p || (s.slcGet SLC_CTL_PMU_USER sl != 0 && s.hl.wqs.any (fun q => q.2.slice == sl && q.2.port == p))

/-- Maps a slice's view where it is wanted, in the lowest free grant entry, and withdraws it elsewhere (R595). -/
def State.mapViews (s : State) (sl : Nat) : State :=
  (List.range 8).foldl (fun s p =>
    let g := (List.range 224).find? (fun i => smGetD s.hl.grant (p * 224 + i) 0 == viewGrant sl)
    if s.viewWanted sl p then
      (match g, ((List.range 223).map (· + 1)).find? (fun i => !bit (smGetD s.hl.grant (p * 224 + i) 0) 63) with
       | none, some i => { s with hl := { s.hl with grant := smSet s.hl.grant (p * 224 + i) (viewGrant sl) } }
       | _, _ => s)
    else match g with
      | some i => { s with hl := { s.hl with grant := smDel s.hl.grant (p * 224 + i) } }
      | none => s) s

/-! ### Tags, R361 -/

/-- The enabled tag width T: 14 bits in flit mode, 10 or 8 as the host enables them. -/
def State.tagWidth (s : State) (p : Nat) : Nat :=
  if s.fon HIF_LINK_STATUS_FLIT p then 14 else if bit ((s.port p).cfgWord 0 0x98) 12 then 10 else 8

/-- log2 of the port's non-posted request limit N. -/
def State.nprLog (s : State) (p : Nat) : Nat := min (s.fget HIF_CTL_NPR_LOG p) (s.tagWidth p - 2)

/-- The lowest index below n that no request of the port holds. -/
def freeIndex (used : List Nat) (lo : Nat) : Nat → Option Nat
  | 0 => none
  | n + 1 => if used.contains lo then freeIndex used (lo + 1) n else some lo

/-- The completion timeout of a port in µs, R362: TIMEOUT_US, or what function 0's Device Control 2 selects. -/
def State.timeoutUs (s : State) (p : Nat) : Nat :=
  if s.fget HIF_CTO_CTL_TIMEOUT_US p ≠ 0 then s.fget HIF_CTO_CTL_TIMEOUT_US p
  else match getBits ((s.port p).cfgWord 0 0x98) 3 0 with
    | 1 => 50 | 2 => 1000 | 5 => 16000 | 6 => 65000 | 9 => 260000 | 10 => 1000000 | 13 => 4000000 | 14 => 17000000 | _ => 50000

/-- Does what a request reads for still want it? -/
def State.wants (s : State) : ReadFor → Bool
  | .wq k => match smGet s.hl.wqs k with | some q => !q.err && q.fetching == 0 && q.head != q.tail | none => false
  | .dma c off =>
    let d := smGetD s.dma c DmaChan.init
    s.fget DMA_CHAN_STATUS_STATE (c / 64) (c % 64) == 1 &&
      (if off = 2 ^ 40 then d.phase == 1 else if off = 2 ^ 41 then decide (4 ≤ d.phase) else d.phase == 2 && d.issued == off)
  | .tmt c psn p =>
    if c ≥ 65536 then s.tmt.revokes.any (fun v => v.index == c - 65536 && !v.asked)
    else match smGet s.tmt.conns c with
      | some x => x.imms.any (fun i => i.psn == psn && (!i.asked || i.issued.contains (p + 8))) ||
                  x.flushes.any (fun f => f.psn == psn && (!f.asked || f.issued.contains (p + 8)))
      | none => false
  | .other _ => false

/-- A request that finds no free index waits, behind those of its port that came before (R361). -/
def State.awaitIndex (s : State) (p fn : Nat) (what : ReadFor) : State :=
  let ws := s.hl.npWait.filter (fun w => s.wants w.2)
  if !(s.port p).up || !(s.port p).enabled fn || ws.contains (p, what) then s
  else { s with hl := { s.hl with npWait := ws ++ [(p, what)] } }

/-- Is it a request's turn at a port: does none wait that came before it? -/
def State.indexTurn (s : State) (p : Nat) (what : ReadFor) : Bool :=
  match s.hl.npWait.find? (fun w => w.1 == p && s.wants w.2) with
  | some w => w.2 == what
  | none => true

/-- Issues a non-posted request, R361: none while no index is free, others wait before it, or its function is not enabled, so it waits. -/
def State.issueRead (s : State) (p fn sl pasid a n : Nat) (ro : Bool) (what : ReadFor) : Option State :=
  let x := s.port p
  if !x.up || !x.enabled fn || !s.indexTurn p what then none
  else
    let lg := s.nprLog p
    match freeIndex ((s.hl.npr.filter (fun r => r.port == p)).map (·.idx)) 0 (2 ^ lg) with
    | none => none
    | some i =>
      let g := smGetD s.hl.gens (p * 4096 + i) 0 % 2 ^ (s.tagWidth p - lg)
      let r : Npr := { port := p, idx := i, tagGen := g, fn := fn, slice := sl, sgen := s.curGen sl, quar := false, what := what,
                       since := s.pw.onTicks, tmo := s.timeoutUs p }
      some ((({ s with hl := { s.hl with npr := s.hl.npr ++ [r], npWait := s.hl.npWait.filter (· != (p, what)), gens := smSet s.hl.gens (p * 4096 + i) (g + 1) } }.wakeLink p).count
        (17 + p / 4) (p % 4) 3 sl 1).emit
        (.hostRead p fn pasid a n (g * 2 ^ lg + i) (ro && bit (x.cfgWord fn 0x78) 4)))

/-- Hands returned data to the requester of a non-posted request. -/
def State.deliver (s : State) (w : ReadFor) (r : Status × List Byte) : State :=
  match w with
  | .wq k =>
    (match smGet s.hl.wqs k with
     | some q => { s with hl := { s.hl with wqs := smSet s.hl.wqs k { q with ret := some r } } }
     | none => s)
  | .dma c off =>
    let d := smGetD s.dma c DmaChan.init
    { s with dma := smSet s.dma c { d with ret := smSet d.ret off r } }
  | .tmt c psn port =>
    if c ≥ 65536 then
      { s with tmt := { s.tmt with revokes := s.tmt.revokes.map (fun v => if v.index = c - 65536 then { v with issued := false } else v) } }
    else (match smGet s.tmt.conns c with
     | some x =>
       let x := { x with imms := x.imms.map (fun i => if i.psn = psn then { i with issued := i.issued.erase port } else i),
                         flushes := x.flushes.map (fun f => if f.psn = psn then { f with issued := f.issued.erase port } else f) }
       { s with tmt := { s.tmt with conns := smSet s.tmt.conns c x } }
     | none => s)
  | .other _ => s

end Machine
end Sys2Proof
end

