-- ==== Sys2Proof/Machine/Dma.lean ====
section
/-!
DEFINITION. DMA channels (spec 13 R324 to R340, R643): control, descriptor fetch and checks, write-back, pause, abort, chain end.
-/
namespace Sys2Proof
namespace Machine

/-- A channel's key. -/
def chanKey (e k : Nat) : Nat := e * 64 + k

/-- A channel beyond its registers. -/
def State.chan (s : State) (e k : Nat) : DmaChan := smGetD s.dma (chanKey e k) DmaChan.init

/-- Replaces a channel. -/
def State.setChan (s : State) (e k : Nat) (d : DmaChan) : State := { s with dma := smSet s.dma (chanKey e k) d }

/-- No channel has anything to do. -/
def State.dmaIdle (s : State) : Bool := s.dma.all (fun e => e.2.phase == 0)

/-- DMA_CHAN_STATUS.STATE: 0 IDLE, 1 RUNNING, 2 PAUSING, 3 PAUSED, 4 ERROR. -/
def State.dstate (s : State) (e k : Nat) : Nat := s.fget DMA_CHAN_STATUS_STATE e k

/-- Changes a channel's STATE. -/
def State.setDstate (s : State) (e k v : Nat) : State := s.fset DMA_CHAN_STATUS_STATE v e k

/-- Do the channel's descriptors lie in host memory? -/
def State.dhost (s : State) (e k : Nat) : Bool := decide (e ≥ 240) && s.fon DMA_CHAN_CTL_DHOST e k

/-- The port of a host channel. -/
def State.dport (s : State) (e k : Nat) : Nat := (e - 240) * 4 + s.fget DMA_CHAN_OWNER_PORT e k

/-- The address in NEXT. -/
def State.dnext (s : State) (e k : Nat) : Nat := s.rget DMA_CHAN_NEXT_LO e k + s.rget DMA_CHAN_NEXT_HI e k * 2 ^ 32

/-- Is the channel one that exists? -/
def chanOk (e k : Nat) : Bool := decide ((e < 240 ∧ k < 8) ∨ (240 ≤ e ∧ e < 242 ∧ k < 64))

/-! ### Accesses, R324, R325, R335 -/

/-- Why an internal access of the channel is not admitted: channel 0 as the atelier core, others as their slice. -/
def State.dmaErr (s : State) (e k a n : Nat) (write : Bool) : Option Status :=
  if dmaCore e k then (if space a = .unmapped ∨ space (a + n - 1) = .unmapped then some .unmapped else none)
  else match s.dmaSlice e k with
  | none => some .accessFault
  | some sl => (s.accessErr sl a n write).map AccessErr.status

/-- The slice of a channel for host accesses, 64 where it has none. -/
def State.dsl (s : State) (e k : Nat) : Nat := (s.dmaSlice e k).getD 64

/-- Drops the requests in flight for a channel: their completions deliver nothing. -/
def State.dropReads (s : State) (e k : Nat) : State :=
  { s with hl := { s.hl with npr := s.hl.npr.map (fun r => match r.what with
      | .dma c _ => if c = chanKey e k then { r with what := .other 0 } else r
      | _ => r) } }

/-- Has the engine's die stopped issuing (R27)? -/
def State.dmaHeld (s : State) (e : Nat) : Bool := s.dieStopped (if e < 240 then e / 24 else 16 + (e - 240))

/-- Has the channel a host request outstanding? -/
def State.dmaWaits (s : State) (e k : Nat) : Bool :=
  s.hl.npr.any (fun r => !r.quar && (match r.what with | .dma c _ => c == chanKey e k | _ => false))

/-! ### Events, R339 -/

/-- An event of a channel: its bit, and the signal where its enable is 1. -/
def State.dmaEvent (s : State) (e k : Nat) (f en : Fld) : State :=
  let s := s.fset f 1 e k
  if !s.fon en e k then s
  else if e ≥ 240 then s.sliceMsix (s.dsl e k) (s.dport e k) (s.fget DMA_CHAN_IRQ_VECTOR e k)
  else if k = 0 then s.emit (.irq .dma e 0)
  else if s.fon DMA_CHAN_IRQ_FLAG_EN e k then
    s.deviceSignal (s.dsl e k) ((16 * e + s.fget DMA_CHAN_IRQ_CORE e k) * 64 + s.fget DMA_CHAN_IRQ_INDEX e k) 1
  else s

/-- CHAIN_END: the channel is IDLE; CUR keeps the last descriptor (R334). -/
def State.chainEnd (s : State) (e k : Nat) : State :=
  ((s.setChan e k { s.chan e k with phase := 0 }).setDstate e k 0).dmaEvent e k DMA_CHAN_STATUS_CHAIN_END DMA_CHAN_IRQ_EN_END

/-- The channel stops in ERROR with LINK_FAULT, R333. -/
def State.linkFault (s : State) (e k : Nat) : State :=
  let s := (s.dropReads e k).setChan e k { s.chan e k with phase := 0, aborting := false, hold := [], ret := [] }
  ((s.setDstate e k 4).fset DMA_CHAN_STATUS_LINK_FAULT 1 e k).fset DMA_CHAN_STATUS_BETWEEN 0 e k

/-! ### Write-back, R326, R332, R334 -/

/-- Writes a descriptor back; none where the write-back fails. Relaxed ordering is clear (R331). -/
def State.writeBack (s : State) (e k : Nat) (st : Status) (xfer : Nat) : Option State :=
  let d := s.chan e k
  let bs := leBytes 4 xfer ++ leBytes 1 st.code ++ List.replicate 10 0 ++ [1]
  if s.dhost e k then
    (match s.hostPut (s.dport e k) 0 (s.dsl e k) d.gen (d.cur + 0x30) false bs with
     | (.ok, t) => some t
     | _ => none)
  else if (s.dmaErr e k (d.cur + 0x30) 16 true).isSome ∨ !isMemory (d.cur + 0x30) 16 then none
  else some (s.busWrite (d.cur + 0x30) bs)

/-- What a write-back leaves: LAST_CODE, the counts, the events, the error history. -/
def State.countWb (s : State) (e k : Nat) (st : Status) : State :=
  let s := s.fset DMA_CHAN_STATUS_LAST_CODE st.code e k
  if st = .ok then
    let s := s.fadd DMA_CHAN_COUNT_DONE 1 e k
    if bit (leField (s.chan e k).desc 1 1) 1 then s.dmaEvent e k DMA_CHAN_STATUS_DESC_DONE DMA_CHAN_IRQ_EN_DONE else s
  else
    let s := (s.fadd DMA_CHAN_COUNT_BAD 1 e k).setChan e k { s.chan e k with bad := true }
    s.dmaEvent e k DMA_CHAN_STATUS_DESC_BAD DMA_CHAN_IRQ_EN_BAD

/-- Reads the NEXT field of CUR, R334: the state and the outcome; none while host data has not returned. -/
def State.rereadNext (s : State) (e k : Nat) : State × Option (Option Nat) :=
  let d := s.chan e k
  let a := d.cur + 0x18
  if s.dhost e k then
    match smGet d.ret (2 ^ 41) with
    | some (st, bs) => (s.setChan e k { d with ret := smDel d.ret (2 ^ 41) }, some (if st = .ok then some (leVal bs) else none))
    | none =>
      if s.dmaWaits e k then (s, none)
      else match s.hostWay (s.dsl e k) (s.dport e k) a 8 false with
      | .bad _ => (s, some none)
      | .inside ps => let r := s.getPieces ps; (r.1, some (r.2.map leVal))
      | .host pasid => ((s.issueRead (s.dport e k) 0 (s.dsl e k) pasid a 8 false (.dma (chanKey e k) (2 ^ 41))).getD (s.awaitIndex (s.dport e k) 0 (.dma (chanKey e k) (2 ^ 41))), none)
  else if (s.dmaErr e k a 8 false).isSome ∨ !isMemory a 8 then (s, some none)
  else
    let r := s.busRead a 8
    (r.state, some (r.bytes.map leVal))

/-- The chain goes on at a NEXT value: a fetch is due, unless the address is not a multiple of 64. -/
def State.follow (s : State) (e k nxt : Nat) : State :=
  if nxt % 64 ≠ 0 then (s.setChan e k { s.chan e k with cur := nxt }).linkFault e k
  else (s.setChan e k { s.chan e k with phase := 1, nxt := nxt }).setDstate e k 1

/-- The reread of a RELOAD, R334; `atEnd`: it came at a chain end, so a zero NEXT raises CHAIN_END. -/
def State.reloadRead (s : State) (e k : Nat) (atEnd : Bool) : State :=
  let ph := if atEnd then 6 else 5
  let s := (s.setChan e k { s.chan e k with phase := ph }).setDstate e k 1
  match s.rereadNext e k with
  | (s, none) => s
  | (s, some none) => s.linkFault e k
  | (s, some (some n)) =>
    if n ≠ 0 then s.follow e k n
    else if atEnd then s.chainEnd e k
    else (s.setChan e k { s.chan e k with phase := 0 }).setDstate e k 0

/-! ### The control register, R336, R337, R643 -/

/-- START, R338, R340. -/
def State.dmaStart (s : State) (e k : Nat) : State :=
  if s.dstate e k ≠ 0 ∧ s.dstate e k ≠ 4 then s.fset DMA_CHAN_STATUS_CTL_IGNORED 1 e k
  else
    let n := s.dnext e k
    let s := (s.setChan e k { s.chan e k with bad := false, failed := false, ret := [], gen := s.curGen (s.dsl e k) }).fset
      DMA_CHAN_STATUS_BETWEEN 0 e k
    if n = 0 then s.chainEnd e k else s.follow e k n

/-- RELOAD, R334. -/
def State.dmaReload (s : State) (e k : Nat) : State :=
  if s.dstate e k = 4 then s
  else
    let idle := s.dstate e k = 0
    let s := s.setChan e k { s.chan e k with bad := false, gen := if idle then s.curGen (s.dsl e k) else (s.chan e k).gen }
    if idle then s.reloadRead e k false else s.fset DMA_CHAN_STATUS_RELOAD_PEND 1 e k

/-- The abort itself, R337: held bytes discarded, the current descriptor written back ABORTED, IDLE. -/
def State.abortNow (s : State) (e k : Nat) : State :=
  let d := s.chan e k
  let s := (s.dropReads e k).setChan e k { d with phase := 0, hold := [], ret := [], aborting := false, failed := false }
  let s := (s.setDstate e k 0).fset DMA_CHAN_STATUS_BETWEEN 0 e k
  if d.phase = 2 ∨ d.phase = 3 ∨ d.phase = 4 then
    match s.writeBack e k .aborted d.wr with
    | some s => s.countWb e k .aborted
    | none => s.linkFault e k
  else s

/-- Runs the actions of R643 that wait: 3 waits for a pause, 2 ABORT, 0 START, 1 RELOAD. -/
def State.runTodo (s : State) (e k : Nat) : List Nat → State
  | [] => s.setChan e k { s.chan e k with todo := [] }
  | t :: ts =>
    if t = 3 then
      if s.dstate e k = 2 then s.setChan e k { s.chan e k with todo := t :: ts } else s.runTodo e k ts
    else if t = 2 then
      if s.dstate e k = 3 then (s.abortNow e k).runTodo e k ts
      else if s.dstate e k = 1 ∨ s.dstate e k = 2 then
        (s.setChan e k { s.chan e k with aborting := true, todo := ts }).setDstate e k 2
      else s.runTodo e k ts
    else if t = 0 then (s.dmaStart e k).runTodo e k ts
    else (s.dmaReload e k).runTodo e k ts

/-- One write to DMA_CHAN_CTL, in the order of R643. -/
def State.dmaCtlWrite (s : State) (e k val : Nat) : State :=
  let st := s.dstate e k
  let was := s.fon DMA_CHAN_CTL_PAUSE e k
  let s := if e ≥ 240 ∧ st = 0 then s.fset DMA_CHAN_CTL_DHOST (getBits val 3 3) e k else s
  let s := s.fset DMA_CHAN_CTL_PAUSE (getBits val 2 2) e k
  let d := s.chan e k
  let (s, pausing) :=
    if bit val 2 && !was then
      if st = 1 then (s.setDstate e k 2, true)
      else if st = 0 then ((s.setDstate e k 3).dmaEvent e k DMA_CHAN_STATUS_PAUSED_EVT DMA_CHAN_IRQ_EN_PAUSED, false)
      else (s, false)
    else if !bit val 2 && was then
      if st = 3 then
        let s := s.fset DMA_CHAN_STATUS_BETWEEN 0 e k
        if d.phase = 0 then
          let s := s.setDstate e k 0
          (if s.fon DMA_CHAN_STATUS_RELOAD_PEND e k then
             (s.fset DMA_CHAN_STATUS_RELOAD_PEND 0 e k).dmaReload e k else s, false)
        else if d.phase = 1 ∧ d.nxt = 0 then
          (if s.fon DMA_CHAN_STATUS_RELOAD_PEND e k then (s.fset DMA_CHAN_STATUS_RELOAD_PEND 0 e k).reloadRead e k true else s.chainEnd e k, false)
        else (s.setDstate e k 1, false)
      else if st = 2 && !d.aborting then (s.setDstate e k 1, false)
      else (s, false)
    else (s, false)
  let acts := (if pausing then [3] else []) ++ (if bit val 31 then [2] else []) ++ (if bit val 0 then [0] else []) ++
    (if bit val 30 then [1] else [])
  if (s.chan e k).aborting then s.setChan e k { s.chan e k with todo := (s.chan e k).todo ++ acts }
  else s.runTodo e k ((s.chan e k).todo ++ acts)

/-- The actions of R643 that waited for a pause go on where the channel has stopped instead (R333). -/
def State.goOn (s : State) (e k : Nat) : State :=
  if s.dstate e k ≠ 2 ∧ !(s.chan e k).todo.isEmpty then s.runTodo e k (s.chan e k).todo else s

/-- May a requester write the channel's registers (R41, R340)? -/
def State.dmaMay (s : State) (who : Requester) (e k : Nat) : Bool :=
  match who with
  | .atelier => true
  | .slice sl => !dmaCore e k && s.dmaSlice e k == some sl

/-- A write of DMA_CHAN_CTL by a requester, discarded where it is not granted. -/
def dmaCtl (who : Requester) (e k val : Nat) (s : State) : State :=
  if chanOk e k && s.dmaMay who e k then s.dmaCtlWrite e k (val % 2 ^ 32) else s

/-- DMA_START: a write of DMA_CHAN_CTL with START set. -/
def execDmaStart (who : Requester) (e k val : Nat) (s : State) : Host.Outcome State Fault Refusal := .next (dmaCtl who e k (putBits val 0 0 1) s)
/-- DMA_PAUSE: a write of DMA_CHAN_CTL with PAUSE set. -/
def execDmaPause (who : Requester) (e k val : Nat) (s : State) : Host.Outcome State Fault Refusal := .next (dmaCtl who e k (putBits val 2 2 1) s)
/-- DMA_RESUME: a write of DMA_CHAN_CTL with PAUSE clear. -/
def execDmaResume (who : Requester) (e k val : Nat) (s : State) : Host.Outcome State Fault Refusal := .next (dmaCtl who e k (putBits val 2 2 0) s)
/-- DMA_ABORT: a write of DMA_CHAN_CTL with ABORT set. -/
def execDmaAbort (who : Requester) (e k val : Nat) (s : State) : Host.Outcome State Fault Refusal := .next (dmaCtl who e k (putBits val 31 31 1) s)
/-- DMA_RELOAD: a write of DMA_CHAN_CTL with RELOAD set. -/
def execDmaReload (who : Requester) (e k val : Nat) (s : State) : Host.Outcome State Fault Refusal := .next (dmaCtl who e k (putBits val 30 30 1) s)

/-- A write to NEXT, R338: kept only while IDLE or in ERROR; bits [63:48] of a cluster channel ignore writes. -/
def State.dmaNextSet (s : State) (e k : Nat) (hi : Bool) (val : Nat) : State :=
  if s.dstate e k ≠ 0 ∧ s.dstate e k ≠ 4 then s.fset DMA_CHAN_STATUS_CTL_IGNORED 1 e k
  else if hi then s.rset DMA_CHAN_NEXT_HI (if e < 240 then val % 2 ^ 16 else val % 2 ^ 32) e k
  else s.rset DMA_CHAN_NEXT_LO (val % 2 ^ 32) e k

/-- DMA_NEXT_WRITE, R338. -/
def execDmaNextWrite (who : Requester) (e k : Nat) (hi : Bool) (val : Nat) (s : State) : Host.Outcome State Fault Refusal :=
  .next (if chanOk e k && s.dmaMay who e k then s.dmaNextSet e k hi val else s)

/-- DMA_PAUSED, R336, R337: with every source access returned, the channel is PAUSED, or its abort runs. What a reread of NEXT returned is
read again after the pause. -/
def execDmaPaused (e k : Nat) (s : State) : Host.Outcome State Fault Refusal :=
  let d := s.chan e k
  let moving := d.phase == 2 && (decide (d.issued > d.rd) || (leField d.desc 0 1 == 0 && decide (d.hold.length ≥ 2 ^ (leField d.desc 2 1 / 16))))
  if chanOk e k && s.dstate e k == 2 && !moving && !d.failed && !s.dmaWaits e k && !(smGet d.ret (2 ^ 40)).isSome then
    if d.aborting then .next ((s.abortNow e k).runTodo e k d.todo)
    else
      let s := (s.setChan e k { d with ret := [] }).setDstate e k 3
      let s := if d.phase = 1 then
          (((s.fset DMA_CHAN_STATUS_BETWEEN 1 e k).rset DMA_CHAN_NEXT_LO (d.nxt % 2 ^ 32) e k).rset DMA_CHAN_NEXT_HI (d.nxt / 2 ^ 32) e k).setChan
            e k { d with rd := 0, wr := 0, issued := 0, hold := [], ret := [] }
        else s
      .next ((s.dmaEvent e k DMA_CHAN_STATUS_PAUSED_EVT DMA_CHAN_IRQ_EN_PAUSED).runTodo e k (s.chan e k).todo)
  else .next s

/-! ### Descriptors, R326, R327 -/

/-- Does [a, a + n) lie in control space? -/
def inControl (a n : Nat) : Bool := decide (0x030000000000 ≤ a + n - 1 ∧ a < 0x040000000000)

/-- The checks of R327 on a descriptor of a channel of engine e. -/
def descOk (e : Nat) (d : List Byte) : Bool :=
  let op := leField d 0 1
  let flags := leField d 1 1
  let sw := leField d 2 1 % 16
  let dw := leField d 2 1 / 16
  let sp := leField d 3 1
  let len := leField d 4 4
  let src := leField d 8 8
  let dst := leField d 0x10 8
  let arg := leField d 0x20 8
  decide (op ≤ 3 ∧ flags < 16 ∧ sp < (if e ≥ 240 then 4 else 1)) &&
  (if op = 0 then
     decide (sw ≤ 6 ∧ dw ≤ 6 ∧ 1 ≤ len ∧ len ≤ 0x10000000 ∧ len % 2 ^ (max sw dw) = 0 ∧ src % 2 ^ sw = 0 ∧ dst % 2 ^ dw = 0 ∧
       arg = 0 ∧ leField d 0x28 4 = 0) &&
     (bit sp 0 || !inControl src len || sw == 2) && (bit sp 1 || !inControl dst len || dw == 2)
   else if op = 1 then
     decide (dw ≤ 6 ∧ 1 ≤ len ∧ len ≤ 0x10000000 ∧ len % 2 ^ dw = 0 ∧ dst % 2 ^ dw = 0 ∧ src = 0 ∧ leField d 0x28 4 = 0) &&
     (bit sp 1 || !inControl dst len || dw == 2)
   else if op = 2 then
     decide (len = 0 ∧ src = 0 ∧ dst = 0 ∧ leField d 2 1 = 0) &&
     (flagVirt arg || decide (e < 240 ∧ directHome arg / 384 = e / 24))
   else decide (len = 0 ∧ src = 0 ∧ dst = 0 ∧ leField d 2 1 = 0 ∧ arg = 0 ∧ leField d 0x28 4 = 0))

/-- A descriptor arrives: skipped (R332), bad (R327), or ready to run. -/
def State.takeDesc (s : State) (e k : Nat) (bs : List Byte) : State :=
  let d := s.chan e k
  let d := { d with desc := bs, rd := 0, wr := 0, issued := 0, hold := [] }
  if bit (leField bs 1 1) 3 && d.bad then s.setChan e k { d with phase := 4, status := .skipped }
  else if !descOk e bs then s.setChan e k { d with phase := 4, status := .badDescriptor }
  else s.setChan e k { d with phase := if leField bs 0 1 = 2 then 3 else 2, status := .ok }

/-- Is an internal write on its way not placed yet: a register write that waits for its die (R29, R330)? -/
def State.unplaced (s : State) : Bool := !s.pw.waiting.isEmpty

/-- DMA_DESCRIPTOR_FETCH, R327, R333: the descriptor at the next address is read and checked; a fetch that fails stops the
channel. On a host channel whose descriptors lie in host memory the first call issues the read and the next one takes
its data. A reread that RELOAD waits for is completed here too. -/
def execDmaDescriptorFetch (e k : Nat) (s : State) : Host.Outcome State Fault Refusal :=
  let d := s.chan e k
  if !chanOk e k then .next s
  else if (d.phase = 5 ∨ d.phase = 6) ∧ s.dstate e k = 1 then .next (s.reloadRead e k (d.phase == 6))
  else if d.phase ≠ 1 ∨ s.dmaHeld e then .next s
  else
    let pausing := s.dstate e k = 2
    let at' := { d with cur := d.nxt }
    if s.dhost e k then
      match smGet d.ret (2 ^ 40) with
      | some (st, bs) =>
        let s := s.setChan e k { at' with ret := smDel d.ret (2 ^ 40) }
        .next (if st = .ok then s.takeDesc e k bs else (s.linkFault e k).goOn e k)
      | none =>
        if pausing ∨ s.dstate e k ≠ 1 ∨ s.dmaWaits e k then .next s
        else match s.hostWay (s.dsl e k) (s.dport e k) d.nxt 64 false with
        | .bad _ => .next ((s.setChan e k at').linkFault e k)
        | .inside ps =>
          let r := s.getPieces ps
          .next (match r.2 with | some bs => (r.1.setChan e k at').takeDesc e k bs | none => (r.1.setChan e k at').linkFault e k)
        | .host pasid => .next ((s.issueRead (s.dport e k) 0 (s.dsl e k) pasid d.nxt 64 false (.dma (chanKey e k) (2 ^ 40))).getD
            (s.awaitIndex (s.dport e k) 0 (.dma (chanKey e k) (2 ^ 40))))
    else if s.dstate e k ≠ 1 then .next s
    else if (s.dmaErr e k d.nxt 64 false).isSome ∨ !isMemory d.nxt 64 then .next ((s.setChan e k at').linkFault e k)
    else
      let r := s.busRead d.nxt 64
      .next (match r.bytes with | some bs => (r.state.setChan e k at').takeDesc e k bs | none => (r.state.setChan e k at').linkFault e k)

/-- DMA_WRITEBACK, R330, R334: every internal write placed, NEXT is reread, the descriptor is written back, and the chain continues or ends. While the channel
is pausing only a descriptor that has failed is written back (R336). -/
def execDmaWriteback (e k : Nat) (s : State) : Host.Outcome State Fault Refusal :=
  let d := s.chan e k
  if !chanOk e k ∨ d.phase ≠ 4 ∨ s.dmaHeld e ∨ s.unplaced ∨ !(s.dstate e k = 1 ∨ (s.dstate e k = 2 ∧ d.failed)) then .next s
  else match s.rereadNext e k with
  | (s, none) => .next s
  | (s, some none) => .next ((s.linkFault e k).goOn e k)
  | (s, some (some n)) =>
    match s.writeBack e k d.status d.wr with
    | none => .next ((s.linkFault e k).goOn e k)
    | some s =>
      let s := s.countWb e k d.status
      let s := s.setChan e k { s.chan e k with failed := false }
      if s.dstate e k = 2 then
        (if n % 64 ≠ 0 then .next (((s.setChan e k { s.chan e k with cur := n }).linkFault e k).goOn e k)
         else .next (s.setChan e k { s.chan e k with phase := 1, nxt := n }))
      else if n ≠ 0 then .next (s.follow e k n)
      else if s.fon DMA_CHAN_STATUS_RELOAD_PEND e k then
        .next ((s.fset DMA_CHAN_STATUS_RELOAD_PEND 0 e k).reloadRead e k true)
      else .next (s.chainEnd e k)

/-- DMA_SIGNAL, R327, R330: every earlier internal write placed, it is checked again as a SIGNAL of the channel's slice, then sent, or SYNC_FAULT. -/
def execDmaSignal (e k : Nat) (s : State) : Host.Outcome State Fault Refusal :=
  let d := s.chan e k
  if !chanOk e k ∨ d.phase ≠ 3 ∨ s.dstate e k ≠ 1 ∨ s.dmaHeld e ∨ s.unplaced then .next s
  else
    let w := leField d.desc 0x20 8
    let sl := if dmaCore e k then (if flagVirt w then getBits w 31 26 else s.fget BRS_CTL_SLICE (directHome w)) else s.dsl e k
    if s.flagOk sl (if e < 240 then some (e / 24) else none) w then
      .next ((s.deviceSignal sl w (leField d.desc 0x28 4)).setChan e k { d with phase := 4, status := .ok })
    else .next (s.setChan e k { d with phase := 4, status := .syncFault })

/-- DMA_NOP, R328: moves nothing. -/
def execDmaNop (e k : Nat) (s : State) : Host.Outcome State Fault Refusal :=
  let d := s.chan e k
  if chanOk e k && d.phase == 2 && leField d.desc 0 1 == 3 && s.dstate e k == 1 then .next (s.setChan e k { d with phase := 4, status := .ok })
  else .next s

/-- A COPY or FILL stops at its first failing access, R332: its write-back carries the status; held and returned bytes go. -/
def State.dmaFail (s : State) (e k : Nat) (st : Status) : State :=
  let d := s.chan e k
  (s.dropReads e k).setChan e k { d with phase := 4, status := st, hold := [], ret := [], issued := d.rd, failed := s.dstate e k == 2 }

/-- Issues n source accesses of a COPY, at most 16 ahead of the holding register, R328. -/
def State.issueSources (s : State) (e k : Nat) : Nat → State
  | 0 => s
  | n + 1 =>
    let d := s.chan e k
    let sw := 2 ^ (leField d.desc 2 1 % 16)
    let a := leField d.desc 8 8 + d.issued
    if d.issued ≥ leField d.desc 4 4 ∨ (d.issued - d.rd) / sw ≥ 16 then s
    else if bit (leField d.desc 3 1) 0 then
      match s.hostWay (s.dsl e k) (s.dport e k) a sw false with
      | .bad st => (s.setChan e k { d with issued := d.issued + sw, ret := smSet d.ret d.issued (st, []) }).issueSources e k n
      | .inside ps =>
        let r := s.getPieces ps
        let x := match r.2 with | some bs => (Status.ok, bs) | none => (Status.poisoned, [])
        (r.1.setChan e k { d with issued := d.issued + sw, ret := smSet d.ret d.issued x }).issueSources e k n
      | .host pasid =>
        match s.issueRead (s.dport e k) 0 (s.dsl e k) pasid a sw (bit (leField d.desc 1 1) 0) (.dma (chanKey e k) d.issued) with
        | some t => (t.setChan e k { d with issued := d.issued + sw }).issueSources e k n
        | none => s.awaitIndex (s.dport e k) 0 (.dma (chanKey e k) d.issued)
    else (s.setChan e k { d with issued := d.issued + sw }).issueSources e k n

/-- Does FENCE hold a descriptor's first access: a write of an earlier one is not placed (R330)? -/
def State.fenced (s : State) (d : DmaChan) : Bool := bit (leField d.desc 1 1) 2 && d.issued == 0 && d.wr == 0 && s.unplaced

/-- DMA_COPY, R328, R330, R336: the engine issues up to n source accesses, in ascending order; none while pausing. -/
def execDmaCopy (e k n : Nat) (s : State) : Host.Outcome State Fault Refusal :=
  let d := s.chan e k
  if chanOk e k && d.phase == 2 && leField d.desc 0 1 == 0 && s.dstate e k == 1 && !s.dmaHeld e && !s.fenced d then .next (s.issueSources e k n) else .next s

/-- The channel stops, R99, R44: ERROR, the current descriptor written back with the status where it can be. -/
def State.dmaStop (s : State) (e k : Nat) (st : Status) : State :=
  let d := s.chan e k
  if s.dstate e k = 0 ∨ s.dstate e k = 4 then s
  else
    let s := if d.phase = 2 ∨ d.phase = 3 ∨ d.phase = 4 then
        (match s.writeBack e k st d.wr with | some t => t.countWb e k st | none => s) else s
    (s.linkFault e k).goOn e k

/-- The channel of a slice that is reset or orphaned stops and writes back SQUASHED under the new generation, R338, R386. -/
def State.dmaSquash (s : State) (e k : Nat) : State :=
  let d := s.chan e k
  let s := (s.dropReads e k).setChan e k { d with phase := 0, hold := [], ret := [], aborting := false, failed := false, todo := [],
                                                  gen := s.curGen (s.dsl e k) }
  let s := (s.setDstate e k 0).fset DMA_CHAN_STATUS_BETWEEN 0 e k
  if d.phase = 2 ∨ d.phase = 3 ∨ d.phase = 4 then
    match s.writeBack e k .squashed d.wr with | some t => t.countWb e k .squashed | none => s
  else s

/-- A channel back to IDLE with its registers at their reset values, R378. -/
def State.dmaClear (s : State) (e k : Nat) : State :=
  let s := (s.dropReads e k).setChan e k DmaChan.init
  (List.range 12).foldl (fun s i => { s with regs := smDel s.regs ((Blk.dma).base e + k * 0x100 + 4 * i) }) s

/-- Host channels a slice holds. -/
def State.dmaCount (s : State) (sl : Nat) : Nat :=
  ((List.range 2).flatMap (fun d => (List.range 64).filter (fun k => s.dmaSlice (240 + d) k == some sl))).length

/-- DMA_ALLOC, R324, R379: the lowest free channel of the die, within the slice's quota. The result numbers channel k of die d as
64 d + k (DEDUCED, log entry 12). -/
def execDmaAlloc (ch die port : Nat) (s : State) : Host.Outcome State Fault Refusal :=
  .next (s.serve ch 0x23 [(1, die), (2, port)] 0 .bound false (fun sl s =>
    if die > 1 then refuseCmd s .badDescriptor 1
    else if port > 3 then refuseCmd s .badDescriptor 2
    else if s.dmaCount sl ≥ s.quota sl 7 then refuseCmd s .quotaExceeded
    else match (List.range 64).find? (fun k => !s.fon DMA_CHAN_OWNER_VALID (240 + die) k) with
    | none => refuseCmd s .quotaExceeded
    | some k =>
      let s := s.dmaClear (240 + die) k
      let s := ((s.fset DMA_CHAN_OWNER_VALID 1 (240 + die) k).fset DMA_CHAN_OWNER_SLICE sl (240 + die) k).fset
        DMA_CHAN_OWNER_PORT port (240 + die) k
      okCmd s [64 * die + k]))

/-- DMA_FREE: BAD_HANDLE for a channel that is not the slice's; BUSY while it is not IDLE (DEDUCED, log entry 12); then cleared
(R378). -/
def execDmaFree (ch chan : Nat) (s : State) : Host.Outcome State Fault Refusal :=
  .next (s.serve ch 0x24 [(1, chan)] 0 .bound false (fun sl s =>
    let e := 240 + chan / 64
    let k := chan % 64
    if chan ≥ 128 ∨ s.dmaSlice e k ≠ some sl then refuseCmd s .badHandle 1
    else if s.dstate e k ≠ 0 then refuseCmd s .busy
    else okCmd (s.dmaClear e k) [chan]))

end Machine
end Sys2Proof
end

