-- ==== Sys2Proof/Machine/Inject.lean ====
section
/-!
DEFINITION. Fault injectors as traffic meets them (spec 26 R619 to R622): which armed entries match an event, when one fires and
how it disarms itself.
-/
namespace Sys2Proof
namespace Machine

/-- One firing: the injector, its ACTION, PARAM and XOR pattern. -/
structure Firing where
  inj : Nat
  action : Nat
  param : Nat
  pattern : Nat

/-- INJ block instance and entry of injector i of a die index (R614): instances of `injD` are the die indices. -/
def injKey (die e : Nat) : Nat := die * 8 + e

/-- Is injector i armed with KIND k? -/
def State.injArmed (s : State) (i k : Nat) : Bool :=
  s.fon INJ_ARM_ARMED 0 i && s.fon INJ_CTL_EN (i / 8) (i % 8) && s.fget INJ_CTL_KIND (i / 8) (i % 8) == k

/-- Does an armed injector act for slice sl: SCOPE DEVICE, or its own slice (R621)? -/
def State.injScope (s : State) (i sl : Nat) : Bool := s.fon INJ_ARM_DEVICE 0 i || s.fget INJ_ARM_SLICE 0 i == sl

/-- Injector i meets a matching event: every PERIOD-th fires, COUNT goes down, and at 0 the entry disarms itself. -/
def State.injMeet (s : State) (i : Nat) : State × Option Firing :=
  let die := i / 8
  let e := i % 8
  let n := smGetD s.dbg.injMatch i 0 + 1
  let s := { s with dbg := { s.dbg with injMatch := smSet s.dbg.injMatch i n } }
  if n % max 1 (s.fget INJ_TRIG_PERIOD die e) ≠ 0 then (s, none)
  else
    let left := s.fget INJ_TRIG_COUNT die e - 1
    let s := (s.fset INJ_TRIG_COUNT left die e).fadd INJ_FIRED_FIRED 1 die e
    let s := if left = 0 then (s.fset INJ_ARM_ARMED 0 0 i).fset INJ_CTL_EN 0 die e else s
    (s, some { inj := i, action := s.fget INJ_CTL_ACTION die e, param := s.fget INJ_PARAM_PARAM die e, pattern := s.fget INJ_CTL_XOR die e })

/-- Every injector of a list meets the event, in order. -/
def State.injMeetAll (s : State) : List Nat → State × List Firing
  | [] => (s, [])
  | i :: is =>
    let (s, f) := s.injMeet i
    let (s, fs) := s.injMeetAll is
    (s, match f with | some x => x :: fs | none => fs)

/-- A packet of a connection passes: a TMT injector of the network die with this DIR and MATCH meets it. -/
def State.injTmt (s : State) (die dir conn sl : Nat) : State × List Firing :=
  s.injMeetAll ((List.range 8).map (injKey (14 + die)) |>.filter (fun i =>
    s.injArmed i 1 && s.injScope i sl && s.fget INJ_CTL_DIR (i / 8) (i % 8) == dir &&
    (s.rget INJ_MATCH (i / 8) (i % 8) == conn || s.rget INJ_MATCH (i / 8) (i % 8) == 0xFFFFFFFF)))

/-- A completion for slice sl arrives on host port p: a HOST injector meets it. -/
def State.injHost (s : State) (p sl : Nat) : State × List Firing :=
  s.injMeetAll ((List.range 8).map (injKey (16 + p / 4)) |>.filter (fun i =>
    s.injArmed i 2 && s.injScope i sl && s.fget INJ_CTL_UNIT (i / 8) (i % 8) == p % 4))

/-- A flit of slice sl arrives on fabric port u of a die: a LINK injector meets it. -/
def State.injLink (s : State) (die u sl : Nat) : State × List Firing :=
  s.injMeetAll ((List.range 8).map (injKey die) |>.filter (fun i => s.injArmed i 3 && s.injScope i sl && s.fget INJ_CTL_UNIT (i / 8) (i % 8) == u))

/-- Fabric ports of a die index. -/
def fabricPorts (die : Nat) : Nat :=
  if die ≤ 9 then 2 else if die ≤ 12 then 6 else if die = 13 then 5 else if die = 18 then 2 else 1

/-- CORRUPT: the pattern XORed into the byte at the offset, where the bytes reach it. -/
def corrupt (f : Firing) (bs : List Byte) : List Byte :=
  bs.mapIdx (fun i b => if i = f.param then b ^^^ BitVec.ofNat 8 f.pattern else b)

/-- Packets of a connection held at this injection point each see one more pass. -/
def State.injPassed (s : State) (dir conn : Nat) : State :=
  { s with dbg := { s.dbg with held := s.dbg.held.map (fun h =>
      if h.path == dir && h.conn == conn
      then { h with left := h.left - 1 } else h) } }

/-! ### Arming and disarming, R619 to R623 -/

/-- An entry is disarmed, and what it holds is let go by its release. -/
def State.injOff (s : State) (i : Nat) : State := (s.fset INJ_ARM_ARMED 0 0 i).fset INJ_CTL_EN 0 (i / 8) (i % 8)

/-- Every armed entry that satisfies a test is disarmed. -/
def State.injOffWhere (s : State) (p : State → Nat → Bool) : State :=
  ((List.range 160).filter (fun i => s.fon INJ_ARM_ARMED 0 i && p s i)).foldl State.injOff s

/-- SLICE_CREATE and the end of a slice's permission disarm DEVICE-scope entries first (R621). -/
def State.injScopeOff (s : State) : State :=
  if (List.range 160).any (fun i => s.fon INJ_ARM_ARMED 0 i && s.fon INJ_ARM_DEVICE 0 i) then
    (s.injOffWhere (fun s i => s.fon INJ_ARM_DEVICE 0 i)).event INJ_ERR_SCOPE_DISARM
  else s

/-- A slice's injectors are disarmed (R623). -/
def State.injSliceOff (s : State) (sl : Nat) : State := s.injOffWhere (fun s i => s.fget INJ_ARM_SLICE 0 i == sl)

end Machine
end Sys2Proof
end

