-- ==== Sys2Proof/Machine/HostLink.lean ====
section
/-!
DEFINITION. Host links (spec 14 R341 to R371): configuration space, BAR2, doorbells, work queues, completions and timeouts, link
power, map entries.
-/
namespace Sys2Proof
namespace Machine

/-! ### Configuration space, R344 to R347 -/

/-- The capabilities of R345 beyond the three standard ones: offset, ID, version (IDs of the base specification, PRESUMED, log
entry 11). -/
def extCaps : List (Nat × Nat × Nat) :=
  [(0x100, 1, 2), (0x148, 3, 1), (0x158, 0x1B, 1), (0x160, 0x18, 1), (0x168, 0x1E, 1), (0x178, 0x19, 1), (0x1A4, 0x25, 1),
   (0x1B0, 0x26, 1), (0x1E0, 0x2A, 1), (0x210, 0x31, 1), (0x240, 0x32, 1), (0x300, 0xB, 1)]

/-- The extended capabilities of a function, in order. -/
def capsOf (fn : Nat) : List (Nat × Nat × Nat) :=
  if fn = 0 then extCaps else extCaps.filter (fun c => c.1 ≤ 0x158 || c.1 == 0x300)

/-- The header word of an extended capability at an offset, linked to the next one of its function. -/
def capHeader (off : Nat) : List (Nat × Nat × Nat) → Option Nat
  | [] => none
  | (o, id, v) :: cs =>
    if o = off then some (id + v * 2 ^ 16 + (match cs with | (n, _, _) :: _ => n | [] => 0) * 2 ^ 20) else capHeader off cs

/-- MSI-X vectors of a function, R344. -/
def vectors (fn : Nat) : Nat := if fn = 0 then 2048 else if fn = 1 then 1025 else 512

/-- The read-only bits of a configuration word of function fn of port p. -/
def State.cfgFixed (s : State) (p fn off : Nat) : Nat :=
  let vid := s.dbg.loaded.vidNow % 2 ^ 16
  let low := s.bootState == 7 || s.bootState == 8
  match capHeader off (capsOf fn) with
  | some v => v
  | none =>
    if off = 0x00 then vid + (0x2064 + fn) * 2 ^ 16
    else if off = 0x04 then 2 ^ 20
    else if off = 0x08 then 0xA1 + (if fn = 0 then 0x120000 else if fn = 1 then 0x010802 else 0x028000) * 256
    else if off = 0x0C then (if fn = 0 && !low then 0x800000 else 0)
    else if off = 0x10 then 4
    else if off = 0x18 then (if fn = 0 then 0xC else 0)
    else if off = 0x2C then vid + 0x2064 * 2 ^ 16
    else if off = 0x34 then 0x40
    else if off = 0x40 then 0x40035001
    else if off = 0x44 then 8
    else if off = 0x50 then 0x7011 + (vectors fn - 1) * 2 ^ 16
    else if off = 0x54 then (if fn = 0 then 0x100000 else if fn = 1 then 0x8000 else 0x40000)
    else if off = 0x58 then (if fn = 0 then 0x108000 else if fn = 1 then 0xD000 else 0x42000)
    else if off = 0x70 then 0x20010
    else if off = 0x74 then 0x10008022
    else if off = 0x7C then 0x18906
    else if off = 0x80 then (s.fget HIF_LINK_STATUS_SPEED p + s.fget HIF_LINK_STATUS_WIDTH p * 16) * 2 ^ 16
    else if off = 0x94 then 0x3000F + (if fn = 0 then 0x800 else 0)
    else if off = 0x9C then 0x7E
    else if off = 0x14C then s.dbg.loaded.serialNow % 2 ^ 32
    else if off = 0x150 then s.dbg.loaded.serialNow / 2 ^ 32 % 2 ^ 32
    else if off = 0x15C then 0x1400
    else if off = 0x16C then (if fn = 0 then 0x1F + 30 * 2 ^ 8 + 2 ^ 16 + 7 * 2 ^ 19 else 0)
    else if off = 0x304 then 0x02010001
    else if off = 0x308 then p + p / 4 * 8 + fn * 16
    else if off = 0x310 then s.bootState + s.fget ATL_BOOT_STATUS_FAIL_CODE * 2 ^ 24
    else if off = 0x314 then 0x01000000
    else if off = 0x318 then (if s.bootState = 7 then 0 else s.rget ATL_FW_VERSION)
    else 0

/-- The writable bits of a configuration word, and those that clear when written as 1. -/
def cfgMask (fn off : Nat) : Nat × Nat :=
  if off = 0x04 then (0x146, 0)
  else if off = 0x0C ∨ off = 0x3C then (0xFF, 0)
  else if off = 0x10 then ((if fn = 0 then 0xFC000000 else if fn = 1 then 0xFFFF0000 else 0xFF000000), 0)
  else if off = 0x14 then (0xFFFFFFFF, 0)
  else if off = 0x1C then ((if fn = 0 then 0xFFFFFFF0 else 0), 0)
  else if off = 0x44 then (0x103, 0x8000)
  else if off = 0x50 then (0xC0000000, 0)
  else if off = 0x78 then (0x71FF, 0xF0000)
  else if off = 0x80 then (0x1CB, 0)
  else if off = 0x98 then ((if fn = 0 then 0x140F else 0x100F), 0)
  else if off = 0x104 ∨ off = 0x110 then (0, 0xFFFFFFFF)
  else if off = 0x108 ∨ off = 0x10C ∨ off = 0x114 then (0xFFFFFFFF, 0)
  else if off = 0x15C then (0x10000, 0)
  else if off = 0x170 ∧ fn = 0 then (0xF, 0)
  else if off = 0x164 ∧ fn = 0 then (0x1FFF1FFF, 0)
  else (0, 0)

/-- A write of a configuration word. A power state other than D0 and D3hot is not taken. -/
def PortX.cfgWrite (x : PortX) (fn off v : Nat) : PortX :=
  let (rw, w1c) := cfgMask fn off
  let old := x.cfgWord fn off
  let v := if off = 0x44 ∧ (v % 4 = 1 ∨ v % 4 = 2) then v / 4 * 4 + old % 4 else v
  x.setCfg fn off ((v &&& rw) + ((old &&& (0xFFFFFFFF ^^^ rw)) &&& (0xFFFFFFFF ^^^ (v &&& w1c))))

/-- CONFIG_REQUEST, R347: retried before step 6 of R74, Unsupported Request for an absent function (every one where VID fails its CRC,
R612), else the word read or
written. A function level reset begun by a write comes as its own command. -/
def execConfigRequest (port fn off : Nat) (write : Option Nat) (s : State) : Host.Outcome State Fault Refusal :=
  if port > 7 then .next s
  else if s.pw.devReset || s.bootState == 0 then .next (s.emit (.cfgReply port fn off 0 true false))
  else
  let s := s.wakeLink port
  if !s.dbg.loaded.vidOk then .next (s.emit (.cfgReply port fn off 0 false true))
  else if fn > 2 || (fn > 0 && (s.bootState == 7 || s.bootState == 8)) then
    let x := s.port port
    .next ((s.setPort port (x.setCfg 0 0x104 (x.cfgWord 0 0x104 ||| 0x100000))).emit (.cfgReply port fn off 0 false true))
  else
    let off := off / 4 * 4
    match write with
    | some v => .next (((s.setPort port ((s.port port).cfgWrite fn off v)).msixDue port fn).emit (.cfgReply port fn off 0 false false))
    | none => .next (s.emit (.cfgReply port fn off (s.cfgFixed port fn off ||| (s.port port).cfgWord fn off) false false))

/-- An advisory error logged in AER, R363, R364, R368: the uncorrectable status bit, the header, the message. -/
def State.aer (s : State) (p b : Nat) (hdr : List Nat) (mayFatal : Bool) : State :=
  let x := s.port p
  let fatal := mayFatal && bit (x.cfgWord 0 0x10C) b
  let x := x.setCfg 0 0x104 (x.cfgWord 0 0x104 ||| 2 ^ b)
  let x := if fatal then x else x.setCfg 0 0x110 (x.cfgWord 0 0x110 ||| 0x2000)
  let x := (List.range hdr.length).foldl (fun x i => x.setCfg 0 (0x11C + 4 * i) (hdr.getD i 0 % 2 ^ 32)) x
  let s := s.setPort p x
  if bit (x.cfgWord 0 0x108) b then s
  else if fatal then (if bit (x.cfgWord 0 0x78) 2 then s.emit (.errMsg p 2) else s)
  else if bit (x.cfgWord 0 0x78) 0 && !bit (x.cfgWord 0 0x114) 13 then s.emit (.errMsg p 0) else s

/-! ### Link, R341, R343, R365, R366 -/

/-- HOST_LINK_UP, R341, R343: speed as HIF_LINK_STATUS codes it; below 16 lanes or 64 GT/s the link is DEGRADED. The link training
state code has no number in the spec: a free value. -/
def execHostLinkUp (port speed width : Nat) (flit : Bool) (s : State) : Host.Outcome State Fault Refusal :=
  if port > 7 ∨ speed = 0 ∨ speed > 6 ∨ !([1, 2, 4, 8, 16].contains width) ∨ (speed = 6 ∧ !flit) ∨ s.pw.devReset ∨
      s.pw.perstLow.contains port ∨ s.pw.refLost.contains port then .next s
  else
    let (c, s) := s.fresh 6
    let s := s.setPort port { s.port port with up := true }
    let s := (s.fset HIF_LINK_STATUS_SPEED speed port).fset HIF_LINK_STATUS_WIDTH width port
    let s := (s.fset HIF_LINK_STATUS_FLIT (if flit then 1 else 0) port).fset HIF_LINK_STATUS_LTSSM c port
    .next (s.fset HIF_LINK_STATUS_DEGRADED (if speed < 6 ∨ width < 16 then 1 else 0) port)

/-- The held posts of a function issue in order, then its withheld messages. -/
def State.releasePosts (s : State) (p fn : Nat) : List HeldPost → State
  | [] => s
  | h :: hs =>
    (if h.bytes.isEmpty then s.msix p fn h.addr else s.sendPost p fn h.pasid h.addr h.ro h.bytes).releasePosts p fn hs

/-- FUNCTION_D0_ENTRY, R365: a function is back in D0 with bus mastering enabled, and its held requests issue. -/
def execFunctionD0Entry (port fn : Nat) (s : State) : Host.Outcome State Fault Refusal :=
  let x := s.port port
  if x.enabled fn && x.up then
    let mine := x.held.filter (fun h => h.fn == fn)
    .next ((s.setPort port { x with held := x.held.filter (fun h => h.fn != fn) }).releasePosts port fn mine)
  else .next s

/-- L1_ENTRY, R366: ASPM L1 enabled, nothing outstanding on the port nor for L1_IDLE_US on its link; a substate where the host has enabled
one in L1 PM Substates Control. -/
def execL1Entry (port : Nat) (sub : Bool) (s : State) : Host.Outcome State Fault Refusal :=
  let x := s.port port
  if x.up && bit (x.cfgWord 0 0x80) 1 && !(s.hl.npr.any (fun r => r.port == port && !r.quar)) && x.held.isEmpty &&
      decide (10 * (s.pw.onTicks + 1 - x.busyTick) ≥ s.fget HIF_CTL_L1_IDLE_US port) && (!sub || getBits (x.cfgWord 0 0x170) 3 2 != 0) then
    .next ((s.fset HIF_LINK_STATUS_L1 1 port).fset HIF_LINK_STATUS_L1_SUB (if sub then 1 else 0) port)
  else .next s

/-- The LTR value of a port, R366: 10 µs while a queue bound to it holds unfetched slots or a host channel on it runs. -/
def State.ltrValue (s : State) (p : Nat) : Nat :=
  if s.hl.wqs.any (fun q => q.2.port == p && q.2.head != q.2.tail) ||
     (List.range 64).any (fun k => s.fon DMA_CHAN_OWNER_VALID (240 + p / 4) k && s.dport (240 + p / 4) k == p && s.dstate (240 + p / 4) k == 1)
  then 10 else 3000

/-- LTR_CHANGE, R366: a changed value is sent once, at least 1 ms after the last one. -/
def execLtrChange (port : Nat) (s : State) : Host.Outcome State Fault Refusal :=
  let x := s.port port
  let v := s.ltrValue port
  if x.up && x.ltr != v && decide (s.pw.onTicks ≥ x.ltrTick + 100) && bit (x.cfgWord 0 0x98) 10 then
    .next ((s.setPort port { x with ltr := v, ltrTick := s.pw.onTicks }).emit (.ltr port v))
  else .next s

/-! ### BAR2, R351 -/

/-- A refused aperture access. -/
def State.aptFault (s : State) (p : Nat) : State := (s.fadd HIF_DISC_COUNT_DISCARD 1 p).event HIF_ERR_STATUS_APT_FAULT p

/-- A memory request that no function takes, R368: Unsupported Request. -/
def State.barUr (s : State) (p : Nat) (read : Bool) : State :=
  let x := s.port p
  let s := s.setPort p (x.setCfg 0 0x104 (x.cfgWord 0 0x104 ||| 0x100000))
  if read then s.emit (.data [] .unmapped) else s

/-- APERTURE_ACCESS, R351: an access of len bytes at offset off of a port's BAR2. No request on the link crosses a 4 KiB boundary. -/
def execApertureAccess (port off len : Nat) (write : Option (List Byte)) (poison : Bool) (s : State) : Host.Outcome State Fault Refusal :=
  let n := match write with | some bs => bs.length | none => len
  if port > 7 ∨ off ≥ 2 ^ 36 ∨ n = 0 ∨ off % 4096 + n > 4096 ∨ s.pw.devReset ∨ !(s.port port).up then .next s
  else
    let s := s.wakeLink port
    let e := smGetD s.hl.apt (port * 32768 + off / 0x200000) 0
    let a := getBits e 47 21 * 0x200000 + off % 0x200000
    let sl := getBits e 61 56
    if !(s.port port).decodes 0 then .next (s.barUr port write.isNone)
    else match write with
    | some bs =>
      if poison then .next ((s.event HIF_ERR_STATUS_POISON_RX port).aer port 12 [] false)
      else if !bit e 63 || (s.accessErr sl a n true).isSome then .next (s.aptFault port)
      else .next ((s.busWrite a bs).count (17 + port / 4) (port % 4) 1 sl n)
    | none =>
      if !bit e 63 || (s.accessErr sl a n false).isSome then .next ((s.aptFault port).emit (.data (List.replicate n 0) .ok))
      else
        let r := s.busRead a n
        .next (match r.bytes with
          | some bs => (r.state.count (17 + port / 4) (port % 4) 2 sl n).emit (.data bs .ok)
          | none => r.state.emit (.data (List.replicate n 0) .poisoned))

/-! ### Work queues, R354 to R357 -/

/-- A work queue of a slice. -/
def State.wq (s : State) (sl q : Nat) : Option Wq := smGet s.hl.wqs (sl * 128 + q)

/-- Replaces a work queue. -/
def State.setWq (s : State) (q : Wq) : State := { s with hl := { s.hl with wqs := smSet s.hl.wqs (q.slice * 128 + q.num) q } }

/-- A queue enters ERROR: its vector is sent and the slice's fault log takes an entry (R355, R394). -/
def State.wqError (s : State) (q : Wq) (st : Status) : State :=
  ((s.setWq { q with err := true, fetching := 0, ret := none }).sliceMsix q.slice q.port q.vec).faultLog q.slice 3 st q.num 0 0

/-- A doorbell is served, R355. -/
def State.ringWq (s : State) (port off val : Nat) : State :=
  let sl := off / 0x1000
  if off % 0x1000 ≥ 0x400 ∨ off % 8 ≠ 0 ∨ sl > 63 then s
  else match s.wq sl (off % 0x1000 / 8) with
  | none => s
  | some q =>
    if q.port ≠ port then (s.setWq { q with dbErr := q.dbErr + 1 }).event HIF_ERR_STATUS_DB_PORT port
    else if !s.accepts sl then s.ignoreDb sl
    else if q.err then s
    else if val / 2 ^ 16 ≠ 0 ∨ val % 2 ^ 16 ≥ q.size then (s.event HIF_ERR_STATUS_DB_BAD port).wqError q .badDescriptor
    else (s.setWq { q with tail := val % 2 ^ 16 }).count (17 + port / 4) (port % 4) 6 sl 1

/-- WQ_DOORBELL, R355, R76: a 32-bit write at offset off of the doorbell pages. Before RUNNING it is held; in RECOVERY and FAILED
function 0 holds no doorbell pages (R347). -/
def execWqDoorbell (port off val : Nat) (s : State) : Host.Outcome State Fault Refusal :=
  if port > 7 ∨ off ≥ 0x40000 ∨ s.pw.devReset ∨ !(s.port port).up then .next s
  else
  let s := s.wakeLink port
  if s.bootState < 5 then .next { s with hl := { s.hl with heldDb := s.hl.heldDb ++ [(port, off, val)] } }
  else if s.bootState = 7 ∨ s.bootState = 8 then .next s
  else .next (s.ringWq port off val)

/-- HELD_DOORBELL_RELEASE, R76: doorbells held before RUNNING are served in arrival order. -/
def State.releaseDoorbells (s : State) : State :=
  let held := s.hl.heldDb
  held.foldl (fun s d => s.ringWq d.1 d.2.1 d.2.2) { s with hl := { s.hl with heldDb := [] } }

/-- Queues a slice holds. -/
def State.wqCount (s : State) (sl : Nat) : Nat := (s.hl.wqs.filter (fun q => q.2.slice == sl)).length

/-- Vectors assigned to a slice on a port. -/
def State.vecCount (s : State) (sl p : Nat) : Nat := (s.hl.vecs.filter (fun v => v.1 / 2048 == p && v.2 == sl)).length

/-- Firmware assigns a vector of a port to a slice that names it, where it is nobody's and the quota allows; none where the
quota does not (R369, R379; log entry 13). -/
def State.assignVec (s : State) (sl p vec : Nat) : Option State :=
  match smGet s.hl.vecs (p * 2048 + vec) with
  | some _ => some s
  | none =>
    if s.vecCount sl p < s.quota sl 8 then some { s with hl := { s.hl with vecs := smSet s.hl.vecs (p * 2048 + vec) sl } } else none

/-- WQ_CREATE, R354, R374, R379, R584: the lowest free queue number. -/
def execWqCreate (ch : Nat) (pb : Status) (ring size pasid port hwb vec : Nat) (s : State) : Host.Outcome State Fault Refusal :=
  .next (s.serve ch 0x20 [] 0 .bound true (fun sl s =>
    if pb ≠ .ok then refuseCmd s pb
    else if !isPow2 size ∨ size < 64 ∨ size > 65536 ∨ port > 7 ∨ vec = 0 ∨ vec > 2047 ∨ pasid > 15 ∨ ring ≥ 2 ^ 64 ∨ hwb ≥ 2 ^ 64 then
      refuseCmd s .badDescriptor 1
    else if !(s.boundIdx sl).contains pasid then refuseCmd s .badHandle
    else if s.wqCount sl ≥ min 128 (s.quota sl 6) ∨ (s.hl.wqs.filter (fun q => q.2.port == port)).length ≥ 512 then
      refuseCmd s .quotaExceeded
    else match s.assignVec sl port vec, freeIndex ((s.hl.wqs.filter (fun q => q.2.slice == sl)).map (·.2.num)) 0 128 with
    | some s, some n =>
      let q : Wq :=
        { slice := sl, num := n, port := port, ring := ring, size := size, pasid := pasid, hwb := hwb, vec := vec, head := 0,
          tail := 0, err := false, dbErr := 0, fetching := 0, tries := 0, ret := none, ready := [], fenced := false }
      okCmd ((s.setWq q).mapViews sl) [n]
    | _, _ => refuseCmd s .quotaExceeded))

/-- A queue back to empty, ERROR cleared, head and tail 0 (R389): a read in flight delivers nothing. -/
def State.emptyWq (s : State) (q : Wq) : State :=
  let k := q.slice * 128 + q.num
  let s := { s with hl := { s.hl with npr := s.hl.npr.map (fun (r : Npr) => if r.what = ReadFor.wq k then { r with what := ReadFor.other 0 } else r) } }
  s.setWq { q with head := 0, tail := 0, err := false, fetching := 0, tries := 0, ret := none }

/-- WQ_RESET, R355: slots fetched already stay accepted (log entry 13). -/
def execWqReset (ch q : Nat) (s : State) : Host.Outcome State Fault Refusal :=
  .next (s.serve ch 0x21 [(1, q)] 0 .bound false (fun sl s =>
    match s.wq sl q with
    | none => refuseCmd s .badHandle 1
    | some w => if q > 127 then refuseCmd s .badHandle 1 else okCmd (s.emptyWq w) [q]))

/-- WQ_DESTROY, R354: BUSY while work of the queue is in flight (log entry 13). -/
def execWqDestroy (ch q : Nat) (s : State) : Host.Outcome State Fault Refusal :=
  .next (s.serve ch 0x22 [(1, q)] 0 .bound false (fun sl s =>
    match s.wq sl q with
    | none => refuseCmd s .badHandle 1
    | some w =>
      if q > 127 then refuseCmd s .badHandle 1
      else if w.fetching ≠ 0 ∨ !w.ready.isEmpty ∨ s.works.any (fun k => k.2.slice == sl && k.2.queue == q) ∨
          s.cph.reqs.any (fun r => r.slice == sl && r.queue == q) then refuseCmd s .busy
      else
        let s := { s with hl := { s.hl with wqs := smDel s.hl.wqs (sl * 128 + q) } }
        let inUse := s.hl.wqs.any (fun o => o.2.slice == sl && o.2.port == w.port && o.2.vec == w.vec)
        okCmd ((if inUse then s else { s with hl := { s.hl with vecs := smDel s.hl.vecs (w.port * 2048 + w.vec) } }).mapViews sl) [q]))

/-! ### Completions, R361 to R364, R368 -/

/-- The outstanding request a tag names. -/
def State.byTag (s : State) (port tag : Nat) : Option Npr :=
  let lg := s.nprLog port
  s.hl.npr.find? (fun r => r.port == port && !r.quar && r.tagGen * 2 ^ lg + r.idx == tag)

/-- Removes a request. -/
def State.dropNpr (s : State) (port idx : Nat) : State :=
  { s with hl := { s.hl with npr := s.hl.npr.filter (fun r => !(r.port == port && r.idx == idx)) } }

/-- UNEXPECTED_COMPLETION's effect, R364. -/
def State.lateCpl (s : State) (port : Nat) (hdr : List Nat) : State :=
  ((s.fadd HIF_LATE_CPL_COUNT_COUNT 1 port).event HIF_ERR_STATUS_LATE_CPL port).aer port 16 hdr false

/-- The last completion of a request, R361, R368, R388: its index is free again; data of an earlier generation is discarded; Unsupported
Request gives UNMAPPED, Completer Abort ACCESS_FAULT, a poisoned completion POISONED. A tag that names nothing outstanding is
unexpected (R364), its header a free value. -/
def State.completeRead (s : State) (port tag : Nat) (st : Status) (bytes : List Byte) : State :=
  match s.byTag port tag with
  | none => let (h, s) := s.fresh 128; s.lateCpl port ((List.range 4).map (fun i => h / 2 ^ (32 * i) % 2 ^ 32))
  | some r =>
    let s := (s.dropNpr port r.idx).count (17 + port / 4) (port % 4) 1 r.slice bytes.length
    let s := if st = .poisoned then (s.event HIF_ERR_STATUS_POISON_RX port).aer port 12 [] false else s
    if r.slice < 64 ∧ r.sgen ≠ s.curGen r.slice then s.lateGen r.slice
    else s.deliver r.what (st, if st = .ok then bytes else [])

/-- HOST_READ_COMPLETION, R361, past the HOST injectors of its port (R622): dropped, poisoned or held. -/
def execHostReadCompletion (port tag : Nat) (st : Status) (bytes : List Byte) (s : State) : Host.Outcome State Fault Refusal :=
  match s.byTag port tag with
  | none => .next (s.completeRead port tag st bytes)
  | some r =>
    let (s, fs) := s.injHost port r.slice
    let st := if fs.any (fun f => f.action == 1) then .poisoned else st
    if fs.any (fun f => f.action == 0) then .next s
    else match fs.find? (fun f => f.action == 2) with
    | some i =>
      let h : InjHeld := { inj := i.inj, path := 2, conn := tag, port := port, slice := r.slice, st := st, bytes := bytes, left := i.param, since := s.pw.onTicks }
      .next { s with dbg := { s.dbg with held := s.dbg.held ++ [h] } }
    | none => .next (s.completeRead port tag st bytes)

/-- Has a request's timeout passed since its transmission, or its report, by the end of the tick under way (R363, R364)? -/
def State.nprDue (s : State) (r : Npr) : Bool := decide (10 * (s.pw.onTicks + 1 - r.since) ≥ r.tmo)

/-- COMPLETION_TIMEOUT, R363, R364: once its timeout has passed the request fails whole, and its index is quarantined. -/
def execCompletionTimeout (port idx : Nat) (s : State) : Host.Outcome State Fault Refusal :=
  match s.hl.npr.find? (fun r => r.port == port && r.idx == idx && !r.quar && s.nprDue r) with
  | none => .next s
  | some r =>
    let s := { s with hl := { s.hl with npr := s.hl.npr.map (fun q => if q = r then { q with quar := true, since := s.pw.onTicks } else q) } }
    let s := (((s.fadd HIF_CTO_COUNT_COUNT 1 port).event HIF_ERR_STATUS_CTO port).aer port 14 [] true).count (17 + port / 4) (port % 4) 0x20 64 1
    if r.slice < 64 ∧ r.sgen ≠ s.curGen r.slice then .next (s.lateGen r.slice)
    else .next (s.deliver r.what (.completionTimeout, []))

/-- UNEXPECTED_COMPLETION, R364: a completion whose tag matches no outstanding request, with its header. -/
def execUnexpectedCompletion (port tag : Nat) (hdr : List Nat) (s : State) : Host.Outcome State Fault Refusal :=
  if (s.byTag port tag).isSome then .next s else .next (s.lateCpl port hdr)

/-- TAG_QUARANTINE_END, R364: one further timeout after the report. -/
def execTagQuarantineEnd (port idx : Nat) (s : State) : Host.Outcome State Fault Refusal :=
  if s.hl.npr.any (fun r => r.port == port && r.idx == idx && r.quar && s.nprDue r) then .next (s.dropNpr port idx) else .next s

/-! ### Map entries and the timeout override, R362, R371 -/

/-- A map entry as it is stored (a 64 KiB region lies in one window of R39 where it lies in any): fields kept, bits that R371 gives as zero cleared; VALID 0 where it breaks its layout. -/
def mapEntry (grant : Bool) (v : Nat) : Nat × Bool :=
  if grant then
    let a := getBits v 47 16 * 0x10000
    let e := bit v 63
    let ok := (ctlLoc a).isSome
    let k := getBits v 62 56 * 2 ^ 56 + a
    if e && !ok then (k, true) else (k + (if e then 2 ^ 63 else 0), false)
  else
    let a := getBits v 47 21 * 0x200000
    let e := bit v 63
    let k := getBits v 61 56 * 2 ^ 56 + a
    if e && !isMemory a 0x200000 then (k, true) else (k + (if e then 2 ^ 63 else 0), false)

/-- HIF_MAP_CMD.READ, R371. An index beyond the table reads zero (DEDUCED from R396, log entry 14). -/
def State.hifMapRead (s : State) (p : Nat) : State :=
  let i := s.fget HIF_MAP_SEL_INDEX p
  let v := if s.fon HIF_MAP_SEL_TABLE p then (if i < 224 then smGetD s.hl.grant (p * 224 + i) 0 else 0) else smGetD s.hl.apt (p * 32768 + i) 0
  (s.rset HIF_MAP_DATA0 (v % 2 ^ 32) p).rset HIF_MAP_DATA1 (v / 2 ^ 32) p

/-- HIF_MAP_CMD.WRITE, R371. -/
def State.hifMapWrite (s : State) (p : Nat) : State :=
  let i := s.fget HIF_MAP_SEL_INDEX p
  let g := s.fon HIF_MAP_SEL_TABLE p
  let (v, bad) := mapEntry g (s.rget HIF_MAP_DATA0 p + s.rget HIF_MAP_DATA1 p * 2 ^ 32)
  if g ∧ i ≥ 224 then s
  else
    let s := if bad then s.event HIF_ERR_STATUS_CFG_REJECT p else s
    if g then { s with hl := { s.hl with grant := smSet s.hl.grant (p * 224 + i) v } }
    else { s with hl := { s.hl with apt := smSet s.hl.apt (p * 32768 + i) v } }

/-- HIF_MAP_READ: the atelier core writes HIF_MAP_CMD.READ. -/
def execHifMapRead (port : Nat) (s : State) : Host.Outcome State Fault Refusal := .next (if port < 8 then s.hifMapRead port else s)
/-- HIF_MAP_WRITE: the atelier core writes HIF_MAP_CMD.WRITE. -/
def execHifMapWrite (port : Nat) (s : State) : Host.Outcome State Fault Refusal := .next (if port < 8 then s.hifMapWrite port else s)

/-- CTO_SET, R362, R370. -/
def execCtoSet (ch port us : Nat) (s : State) : Host.Outcome State Fault Refusal :=
  .next (s.serve ch 0x0B [(1, port), (2, us)] 64 .secure false (fun _ s =>
    if port > 7 then refuseCmd s .badDescriptor 1
    else if us ≠ 0 ∧ (us < 50 ∨ us > 64000000) then refuseCmd s .badDescriptor 2
    else okCmd (s.fset HIF_CTO_CTL_TIMEOUT_US us port)))

end Machine
end Sys2Proof
end

