-- ==== Sys2Proof/Machine/Work.lean ====
section
/-!
DEFINITION. What table and attention work share (spec 09, 10): regions of stack memory (08 R191, 15 R377 to R379), completion
records (R233, R234), delivery and held results (R232, R392), work-queue fetch (14 R356, R357), work records (R226), heat
(11 R276, R277).
-/
namespace Sys2Proof
namespace Machine

/-! ### Regions of stack memory, R191, R377 -/

/-- Regions of 64 KiB in a band. -/
def bandRegions : Nat := 0x50000

/-- Can a region be given to slices (R191, R207)? Not in the buddy bands, not in the top 256 MiB, not retired. -/
def State.grantable (s : State) (r : Nat) : Bool :=
  let b := r / bandRegions
  decide (r < 0xA00000 - 4096) && !(decide (31 - s.buddyBands ≤ b) && decide (b ≤ 30)) && !s.stk.retired.contains r

/-- Is a region free to allocate? -/
def State.regionFree (s : State) (r : Nat) : Bool := s.grantable r && (smGet s.own r).isNone

/-- SLICE_CAP in regions: what slices can be granted, after retirements (R191, R207, R352). -/
def State.sliceCap (s : State) : Nat :=
  (31 - s.buddyBands) * bandRegions + bandRegions - 4096 - (s.stk.retired.filter (fun r =>
    !(decide (31 - s.buddyBands ≤ r / bandRegions) && decide (r / bandRegions ≤ 30)))).length

/-- Regions charged to a slice's stack quota, its hold buffer included (R379). -/
def State.stackUse (s : State) (sl : Nat) : Nat :=
  (s.own.filter (fun p => p.2 == sl || p.2 == 128 + sl)).length + 16 * s.slcGet SLC_HOLD_HOLD_MIB sl

/-- Does an allocation of n regions fit the slice's stack quota? -/
def State.fits (s : State) (sl n : Nat) : Bool := decide (s.stackUse sl + n ≤ s.quota sl 1)

/-- Zero-fills a region: its bytes, and every burst a good one (R378). -/
def State.zeroRegion (s : State) (r : Nat) : State :=
  { s with mem := memClear s.mem (r * 0x10000) 0x10000,
           stk := { s.stk with bursts := smDelIf s.stk.bursts (fun k => decide (r * 2048 ≤ k ∧ k < (r + 1) * 2048)) } }

/-- Gives regions to an owner, zero-filled. -/
def State.takeRegions (s : State) (o : Nat) (rs : List Nat) : State :=
  rs.foldl (fun s r => let s := s.zeroRegion r; { s with own := smSet s.own r o }) s

/-- Does a region lie in the buddy region, R191? -/
def State.inBuddy (s : State) (r : Nat) : Bool := decide (31 - s.buddyBands ≤ r / bandRegions) && decide (r / bandRegions ≤ 30)

/-- Regions become nobody's; those of the buddy region return to the device (R543). -/
def State.freeRegions (s : State) (rs : List Nat) : State :=
  { s with own := smMap (smDelIf s.own (fun r => rs.contains r && !s.inBuddy r)) (fun r o => if rs.contains r then 64 else o) }

/-- Has a slice a serial left? None is used twice before a device reset (R217, R238); with none left nothing is created (log entry 38). -/
def State.serialLeft (s : State) (sl : Nat) : Bool := decide (smGetD s.serial sl 0 + 1 < 2 ^ 26)

/-- The next serial of a slice's handles (R217): handles start at serial 1. -/
def State.newHandle (s : State) (sl : Nat) : Nat × State :=
  let n := smGetD s.serial sl 0 + 1
  (sl * 2 ^ 26 + n % 2 ^ 26, { s with serial := smSet s.serial sl n })

/-- The bristles of a slice: of the clusters it owns and does not give up, ascending. -/
def State.sliceBristles (s : State) (sl : Nat) : List Nat :=
  (s.clOwner.filter (fun p => p.2.contains sl && !(s.sx sl).giving.contains p.1)).flatMap (fun p => (List.range 16).map (16 * p.1 + ·))

/-! ### Completion records, R233, R234, R252 -/

/-- The 32-byte completion record of R233. -/
def cplRecord (tag : Nat) (st : Status) (info bad rows swatch remote first el bagsBad : Nat) : List Byte :=
  leBytes 4 tag ++ leBytes 1 st.code ++ leBytes 1 info ++ leBytes 2 (min bad 65535) ++ leBytes 4 rows ++ leBytes 4 swatch ++
    leBytes 4 remote ++ leBytes 4 first ++ leBytes 4 (min el 0xFFFFFFFF) ++ leBytes 2 (min bagsBad 65535) ++ [0, 1]

/-- FIRST of a descriptor with no position at fault. -/
def noPos : Nat := 0xFFFFFFFF

/-- A record of a descriptor that only completes: no row, no position. -/
def bareRecord (tag : Nat) (st : Status) (info el : Nat) : List Byte := cplRecord tag st info 0 0 0 0 noPos el 0

/-- The first status of an order that some event carries, with the lowest position that led to it (R227, R234). -/
def pickStatus (order : List Status) (ev : List (Status × Nat)) : Status × Nat :=
  match order.find? (fun st => ev.any (fun e => e.1 == st)) with
  | none => (.ok, noPos)
  | some st => (st, (ev.filter (fun e => e.1 == st)).foldl (fun m e => min m e.2) noPos)

/-- The order of R234. -/
def tableOrder : List Status :=
  [.badHandle, .badDescriptor, .accessFault, .unmapped, .completionTimeout, .hostLinkDown, .squashed, .fabricLinkDown, .clusterFault,
   .programFault, .notUpdatable, .poisoned, .tierUnreachable, .indexRange]

/-- The order of R253. -/
def attOrder : List Status :=
  [.squashed, .fabricLinkDown, .clusterFault, .programFault, .badHandle, .positionMismatch, .kvQuota, .poisoned, .tierUnreachable]

/-- Statuses that stop every output of a descriptor (R227). -/
def stopsOutput (st : Status) : Bool :=
  st == .squashed || st == .fabricLinkDown || st == .clusterFault || st == .programFault

/-! ### Delivery, R232, R367, R392 -/

/-- One write of a result: the PASID its address passed its checks under (none: the device's own aperture), the address,
relaxed ordering, the bytes. -/
structure OutWrite where
  way : Option Nat
  addr : Nat
  ro : Bool
  bytes : List Byte

/-- Sends one write of a result; false where it cannot be written. -/
def State.putOut (s : State) (p sl : Nat) (w : OutWrite) (fn : Nat := 0) : State × Bool :=
  match w.way with
  | some pasid =>
    if (s.port p).up then (((s.logDirty sl w.addr w.bytes.length).count (17 + p / 4) (p % 4) 2 sl w.bytes.length).sendPost p fn pasid w.addr w.ro w.bytes, true) else (s, false)
  | none =>
    match s.hostWay sl p w.addr w.bytes.length true with
    | .inside ps => (s.putPieces w.bytes ps, true)
    | _ => (s, false)

/-- Sends writes in order, the last one the completion record; what cannot be written is logged for the slice (R394). -/
def State.putOuts (s : State) (p sl q tag : Nat) (st : Status) (fn : Nat) : List OutWrite → State
  | [] => s
  | w :: ws =>
    let (s, ok) := s.putOut p sl w fn
    let s := if ok then s else
      s.faultLog sl (if ws.isEmpty then 1 else 2) (if (s.port p).up then st else .hostLinkDown) q tag w.addr
    s.putOuts p sl q tag st fn ws

/-- Bytes in a slice's hold buffer. -/
def heldBytes (hs : List HeldResult) : Nat := (hs.map (fun h => (h.writes.map (fun w => w.2.2.2.length)).sum)).sum

/-- Delivers a result of a slice: written, discarded under an earlier generation (R388), or held while the slice is
HOST_ABSENT (R392); none where it would overflow the hold limit, which then waits for the squash. -/
def State.deliverOut (s : State) (p sl gen q tag : Nat) (st : Status) (ws : List OutWrite) (fn : Nat := 0) : Option State :=
  if gen ≠ s.curGen sl then some (s.lateGen sl)
  else if s.slState sl = 4 then
    let x := s.sx sl
    let hs := x.hold ++ [{ port := p, fn := fn, writes := ws.map (fun w => (w.addr, w.ro, w.way.getD 0, w.bytes)) }]
    if heldBytes hs > x.holdLimit * 2 ^ 20 then none
    else some ((s.setSx sl { x with hold := hs }).slcPut SLC_HOLD_USED_MIB sl (ceilDiv (heldBytes hs) (2 ^ 20)))
  else if s.slState sl = 5 then some s
  else some (s.putOuts p sl q tag st fn ws)

/-- The overflow of a hold buffer is marked, R392. -/
def State.holdFull (s : State) (sl : Nat) : State := s.slcPut SLC_STATUS_HOLD_FULL sl 1

/-- PASID of a way that passed its check. -/
def HostWay.pasid : HostWay → Option Nat
  | .host p => some p
  | _ => none

/-- Completes a descriptor that failed its checks or never ran, R221: only the completion record is written; where CPL_ADDR
cannot be written, nothing is, and the fault is logged. -/
def State.completeBare (s : State) (p sl q : Nat) (d : List Byte) (st : Status) (info el : Nat) : State :=
  let cpl := leField d 0x30 8
  let tag := leField d 0x3C 4
  match s.hostWay sl p cpl 32 true with
  | .bad _ => s.faultLog sl 1 st q tag cpl
  | w => ((s.deliverOut p sl (s.curGen sl) q tag st [⟨w.pasid, cpl, false, bareRecord tag st info el⟩]).getD (s.holdFull sl))

/-! ### Work queues: fetch, R356, R357 -/

/-- The opcodes the chapters define: tables, attention, ciphers. -/
def knownOp (op : Nat) : Bool := [0x10, 0x11, 0x20, 0x21, 0x30].contains op

/-- Cuts bytes into descriptor slots. -/
def slotsOf (bs : List Byte) : Nat → List (List Byte)
  | 0 => []
  | n + 1 => bs.take 64 :: slotsOf (bs.drop 64) n

/-- Slots that arrived: head moved and written back (relaxed ordering clear), unknown opcodes completed with BAD_DESCRIPTOR
(R357), the rest ready. -/
def State.takeSlots (s : State) (q : Wq) (bs : List Byte) (el : Nat) : State :=
  let slots := slotsOf bs q.fetching
  let head := (q.head + q.fetching) % q.size
  let s := (s.setWq { q with head := head, fetching := 0, tries := 0, ret := none,
                             ready := q.ready ++ slots.filter (fun d => knownOp (leField d 0 1)) }).count
    (17 + q.port / 4) (q.port % 4) 5 q.slice slots.length
  let s := (s.hostPut q.port 0 q.slice (s.curGen q.slice) q.hwb false (leBytes 4 head)).2
  (slots.filter (fun d => !knownOp (leField d 0 1))).foldl
    (fun s d => s.completeBare q.port q.slice q.num d .badDescriptor 0 el) s

/-- WORK_QUEUE_FETCH, R356, R357: issues the next read of up to 8 slots, no longer than the host allows (R341), or takes the slots that one brought. A read that timed
out is issued once more; a second timeout, or a read the slice's windows refuse, puts the queue in ERROR. Nothing is fetched while the port drains for a function level reset. -/
def execWorkQueueFetch (sl q el : Nat) (s : State) : Host.Outcome State Fault Refusal :=
  match s.wq sl q with
  | none => .next s
  | some w =>
    if w.err then .next s
    else match w.ret with
    | some (st, bs) =>
      .next (match st with
        | .ok => s.takeSlots w bs el
        | .hostLinkDown => s.setWq { w with fetching := 0, ret := none }
        | .completionTimeout =>
          if w.tries = 0 then s.setWq { w with fetching := 0, tries := 1, ret := none } else s.wqError w st
        | st => s.wqError w st)
    | none =>
      if w.fetching ≠ 0 ∨ w.head = w.tail ∨ (s.port w.port).flr.isSome ∨ s.dieStopped (16 + w.port / 4) then .next s
      else
        let a := w.ring + 64 * w.head
        let room := min ((s.port w.port).maxRead 0) (4096 - a % 4096) / 64
        let n := min (min 8 (max 1 room)) (min ((w.tail + w.size - w.head) % w.size) (w.size - w.head))
        match s.hostWay sl w.port a (64 * n) false with
        | .bad st => .next (s.wqError w st)
        | .inside ps =>
          let r := s.getPieces ps
          .next (r.1.setWq { w with fetching := n, ret := some (match r.2 with | some b => (Status.ok, b) | none => (Status.poisoned, [])) })
        | .host p =>
          match s.issueRead w.port 0 sl ((s.pasidAt sl w.port w.pasid).getD p) a (64 * n) false (.wq (sl * 128 + q)) with
          | some s => .next (s.setWq { w with fetching := n })
          | none => .next (s.awaitIndex w.port 0 (.wq (sl * 128 + q)))

/-- Is a descriptor of a queue in work: accepted, its completion record not yet written? -/
def State.queueBusy (s : State) (sl q : Nat) : Bool :=
  s.works.any (fun k => k.2.slice == sl && k.2.queue == q) || s.cph.reqs.any (fun r => r.slice == sl && r.queue == q)

/-- The slot at the front of a queue, where it carries one of these opcodes and its FENCE, if any, is met (R231, R256):
none, with the wait marked, while an earlier descriptor of the queue is in work. -/
def State.frontSlot (s : State) (sl q op fenceByte : Nat) : State × Option (Wq × List Byte) :=
  match s.wq sl q with
  | none => (s, none)
  | some w =>
    match w.ready with
    | [] => (s, none)
    | d :: _ =>
      if leField d 0 1 ≠ op then (s, none)
      else if bit (leField d fenceByte 1) 4 && s.queueBusy sl q then
        (s.setWq { w with fenced := true }, none)
      else (s, some (w, d))

/-- Takes the front slot off its queue; INFO bit 2 where it waited under FENCE. -/
def State.popSlot (s : State) (w : Wq) : State × Nat :=
  (s.setWq { w with ready := w.ready.drop 1, fenced := false }, if w.fenced then 4 else 0)

/-- Reads a list of a descriptor from its address: `got` is what the host read brings. A list of no bytes is empty. -/
def State.readList (s : State) (p sl a n : Nat) (got : HostData) : State × HostData :=
  if n = 0 then (s, (.ok, [])) else s.hostGet p sl (s.curGen sl) a n got

/-- The worst refusal of the ranges a descriptor names, as R234 orders them: (address, length, write). -/
def State.translate (s : State) (p sl : Nat) (rs : List (Nat × Nat × Bool)) : Option Status :=
  let bad := rs.filterMap (fun r => if r.2.1 = 0 then none else
    match s.hostWay sl p r.1 r.2.1 r.2.2 with | .bad st => some st | _ => none)
  if bad.contains .accessFault then some .accessFault else bad.head?

/-- Little-endian values of a list of n-byte items. -/
def leItems (n : Nat) (bs : List Byte) (count : Nat) : List Nat := (List.range count).map (fun i => leField bs (n * i) n)

/-! ### Work in progress -/

/-- A work item. -/
def State.work (s : State) (w : Nat) : Option Work := smGet s.works w

/-- Replaces a work item. -/
def State.setWork (s : State) (w : Nat) (x : Work) : State := { s with works := smSet s.works w x }

/-- Accepts a descriptor, R224, R225: it takes the next acceptance number as its device-wide work number. -/
def State.accept (s : State) (x : Work) : State :=
  { s with works := smSet s.works s.nextWork { x with k := s.nextWork }, nextWork := s.nextWork + 1 }

/-- A work item of a queue and descriptor, before its lists are added. -/
def Work.base (kind sl gen : Nat) (w : Wq) (d : List Byte) (info : Nat) : Work :=
  { kind := kind, slice := sl, gen := gen, port := w.port, queue := w.num, k := 0, arr := 0, desc := d, idx := [], bags := [], wgts := [], data := [],
    newData := [], outPasid := none, cplPasid := none, ents := [], stamp := 0, stage := 0, recs := [], waiting := [], accs := [],
    events := [], nan := [], tier := [], tierOut := [], rows := 0, swatch := 0, remote := 0, info := info }

/-- May a palette post a record to a bristle for a slice? Not while its cluster switches or runs another slice's turn (R294,
R295), while the cluster is declared failed (R99), nor while the bristle is FAULTED. -/
def State.canPost (s : State) (sl b : Nat) : Bool :=
  (match smGet s.cmp.turns (b / 16) with | some t => !t.switching && t.cur == sl | none => true) &&
  !s.failing.contains (b / 16) && s.brState b != 3

/-- The 64-byte work record of R226. -/
def recordBytes (kind op n rfmt state d refs gt gk aux lr beta done work : Nat) : List Byte :=
  leBytes 1 kind ++ leBytes 1 op ++ leBytes 2 n ++ leBytes 1 rfmt ++ leBytes 1 state ++ leBytes 2 d ++ leBytes 8 refs ++ leBytes 8 gt ++
    leBytes 8 gk ++ leBytes 8 aux ++ leBytes 4 lr ++ leBytes 4 beta ++ leBytes 8 done ++ leBytes 4 work ++ leBytes 4 0

/-- WORK_RECORD_POST, R226: the cluster wakes (R309), the record and its references are written into the bristle's SRAM, then flag 47 is raised by 1. -/
def State.postRecord (s : State) (sl b : Nat) (pl : RecPlace) (record refs : List Byte) : State :=
  let s := (s.wakeBristle b).sramWrite b (sramAddr b (pl.refs % 0x40000)) refs
  let s := s.sramWrite b (sramAddr b (pl.slot % 0x40000)) record
  s.deviceSignal sl (b * 64 + 47) 1

/-- The gather unit of an item, R225, R249: unit (k + b) mod 4, or the one COLLECTOR names. -/
def gatherUnit (collector k b : Nat) : Nat := if collector = 0 then (k + b) % 4 else collector - 0x10

/-! ### Heat, R276, R277 -/

/-- CMP_HEAT_CTL of a palette as in force since its last scan (R298). -/
def State.heatCtl (s : State) (p : Nat) (f : Fld) : Nat := getBits (smGetD s.cmp.heatCtl p CMP_HEAT_CTL.rst) f.hi f.lo

/-- The decay period in force. -/
def State.heatPeriod (s : State) (p : Nat) : Nat := s.pw.onTicks / (100 * max 1 (s.heatCtl p CMP_HEAT_CTL_DECAY_MS)) % 256

/-- A counter stamped at period t, as read at period u. -/
def decayed (v t u : Nat) : Nat := v >>> (min ((u + 256 - t) % 256) 16)

/-- HEAT of an extent. -/
def State.extHeat (s : State) (p key : Nat) : Nat :=
  let h := smGetD s.cmp.heat key 0
  decayed (h % 65536) (h / 65536) (s.heatPeriod p)

/-- HEAT of a run. -/
def State.runHeat (s : State) (p key : Nat) : Nat :=
  let e := smGetD s.cmp.run key 0
  decayed (eGet e 0x12 2) (eGet e 0x14 1) (s.heatPeriod p)

/-- A resolved position of a palette is counted, one in every 2^SAMPLE. -/
def State.sampled (s : State) (p : Nat) : State × Bool :=
  let n := smGetD s.cmp.resolved p 0 + 1
  ({ s with cmp := { s.cmp with resolved := smSet s.cmp.resolved p n } }, n % 2 ^ s.heatCtl p CMP_HEAT_CTL_SAMPLE == 0)

/-- The tracker line of an extent on a palette: sixteen sub-counters, decayed to now. -/
def State.trackLine (s : State) (p key : Nat) : Option (List Nat) :=
  (smGet s.cmp.tracker (p * 2 ^ 64 + key)).map (fun l => (List.range 16).map (fun b => decayed (l.getD b 0) (l.getD 16 0) (s.heatPeriod p)))

/-- Total of a tracker line, decayed to period u. -/
def lineTotal (l : List Nat) (u : Nat) : Nat := ((List.range 16).map (fun b => decayed (l.getD b 0) (l.getD 16 0) u)).sum

/-- The line of the palette with the lowest total at period u. -/
def coldestLine (p u : Nat) (t : SMap (List Nat)) : Option Nat :=
  (t.filter (fun q => q.1 / 2 ^ 64 == p)).foldl (fun best q =>
    match best with
    | none => some q.1
    | some k => if lineTotal q.2 u < lineTotal (smGetD t k []) u then some q.1 else some k) none

/-- Counts a position of an extent whose row starts in block b, R276, R277. -/
def State.heatExtent (s : State) (p key b : Nat) : State :=
  let (s, hit) := s.sampled p
  if !hit then s
  else
    let u := s.heatPeriod p
    let h := min 65535 (s.extHeat p key + 1)
    let s := { s with cmp := { s.cmp with heat := smSet s.cmp.heat key (h + u * 65536) } }
    let lines := (s.cmp.tracker.filter (fun q => q.1 / 2 ^ 64 == p)).length
    let bump := fun (l : List Nat) => (List.range 16).map (fun i => if i = b then min 65535 (l.getD i 0 + 1) else l.getD i 0) ++ [u]
    match s.trackLine p key with
    | some l => { s with cmp := { s.cmp with tracker := smSet s.cmp.tracker (p * 2 ^ 64 + key) (bump l) } }
    | none =>
      if h < s.heatCtl p CMP_HEAT_CTL_HOT_THRESH then s
      else
        let t := if lines < 1024 then s.cmp.tracker else
          match coldestLine p u s.cmp.tracker with | some k => smDel s.cmp.tracker k | none => s.cmp.tracker
        { s with cmp := { s.cmp with tracker := smSet t (p * 2 ^ 64 + key) (bump []) } }

/-- Stack address of copy c of a run's entry in its sequence's array, R266. -/
def Seq.entryAddr (q : Seq) (c i : Nat) : Nat :=
  (q.units.getD (c * (q.units.length / 2) + i * 32 / 0x10000) 0) * 0x10000 + i * 32 % 0x10000

/-- Writes the 32 bytes of a run entry into both copies of its sequence's array, R266. -/
def State.entryBytes (s : State) (k v : Nat) : State :=
  match smGet s.seqs (k / 2 ^ 32) with
  | some q => [0, 1].foldl (fun (s : State) c =>
      let a := q.entryAddr c (k % 2 ^ 32)
      (s.memPut a (leBytes 32 v)).setBurst (a / 32) { bad := 0, poison := false, noRefetch := false }) s
  | none => s

/-- A run takes an entry, or a new one. -/
def State.putRun (s : State) (k v : Nat) : State := ({ s with cmp := { s.cmp with run := smSet s.cmp.run k v } } : State).entryBytes k v

/-- The entry of a run that is not allocated (R269). -/
def freeRunEntry (k : Nat) : Nat :=
  let slot := slotVal { tier := 3, home := 0, loc := 0, swidx := 0 }
  eSet (eSet (eSet (eSet 0 0 8 slot) 8 8 slot) 0x18 4 (k % 2 ^ 32)) 0x1C 4 (k / 2 ^ 32)

/-- A run is no longer allocated. -/
def State.dropRun (s : State) (k : Nat) : State :=
  ({ s with cmp := { s.cmp with run := smDel s.cmp.run k } } : State).entryBytes k (freeRunEntry k)

/-- Counts a position of a run, R276. -/
def State.heatRun (s : State) (p key : Nat) : State :=
  let (s, hit) := s.sampled p
  if !hit then s
  else
    let h := min 65535 (s.runHeat p key + 1)
    s.putRun key (eSet (eSet (smGetD s.cmp.run key 0) 0x12 2 h) 0x14 1 (s.heatPeriod p))

/-! ### Map entries as read, R272; writes that copies and checkpoints see, R285, R529 -/

/-- Reads the entry of an exception or run: a poisoned copy 0 is served from copy 1 and rewritten; false where both copies are
poisoned. -/
def State.mapRead (s : State) (p key : Nat) : State × Bool :=
  match smGetD s.cmp.mapBad key 0 with
  | 1 => (({ s with cmp := { s.cmp with mapBad := smDel s.cmp.mapBad key } }).event CMP_ERR_STATUS_MAP_UE p, true)
  | 3 => (s.event CMP_ERR_STATUS_MAP_LOST p, false)
  | _ => (s, true)

/-- The first granule of unit u in what a copy moves, if it moves it: an extent also lies in a segment's copy. -/
def State.copyHolds (s : State) (c : Copy) (h u : Nat) : Option Nat :=
  if c.handle ≠ h then none
  else if c.unit = u then some 0
  else if c.unit < 2 ^ 32 then none
  else
    let g := smGetD s.cmp.seg (c.unit - 2 ^ 32) 0
    if eGet g 0x18 4 ≤ u ∧ u < eGet g 0x18 4 + eGet g 0x16 2 then some ((u - eGet g 0x18 4) * 256) else none

/-- A write of n bytes at offset off of a unit is seen by a copy in progress (its granules are dirty) and by Varnish (the
shard is modified). -/
def State.wroteUnit (s : State) (h u off n : Nat) : State :=
  let gs := (List.range ((off + n - 1) / 256 + 1 - off / 256)).map (off / 256 + ·)
  let s := { s with cmp := { s.cmp with copies := s.cmp.copies.map (fun c =>
      match s.copyHolds c h u with
      | some b => { c with dirty := (gs.map (b + ·)).foldl (fun l g => if l.contains g then l else g :: l) c.dirty }
      | none => c) } }
  if s.isProtected s.vrn.prot h then { s with shards := smSet s.shards (runKey h u) true } else s

/-- The directory handle under which a unit's handle flips: a sequence's cache, or the table itself. -/
def State.dirHandle (s : State) (h : Nat) : Nat := match smGet s.seqs h with | some q => q.cache | none => h

/-- Did the step from slot a to slot b, on palette p, follow the copy procedure (R283): the unit moved, or its swatch gained blocks? -/
def State.copyFlip (s : State) (p : Nat) (a b : Slot) : Bool :=
  let blocks := fun (t : Slot) => if t.swidx = 0 then 0 else eGet (smGetD s.cmp.swatch (p * 8192 + t.swidx - 1) 0) 0 2
  a.tier != b.tier || a.loc != b.loc || blocks a ||| blocks b != blocks a

/-- The stamp of an update or append for a unit, R273, R285 step 6: the work's own; or, where a copy of the unit flipped since, so that
the record was held, the epoch at which it was released. -/
def State.relStamp (s : State) (h u stamp : Nat) : Nat :=
  let e := s.epoch (s.dirHandle h)
  let p := match s.extentPlace h u e with | some w => w.home / 384 | none => 0
  let moved := fun (m : Option Nat) => match m with
    | some m => decide ((stamp + 65536 - eGet m 0x10 2) % 65536 ≥ 32768) && s.copyFlip p (slotOf (eGet m 8 8)) (slotOf (eGet m 0 8))
    | none => false
  let hit := if (smGet s.tbl h).isSome then moved (smGet s.cmp.exc (excKey h u)) || moved ((s.segHolding h u).map (·.2))
    else moved (smGet s.cmp.run (runKey h u))
  if hit then e else stamp

/-- Is a unit HELD by a copy (R285) or by Varnish (R534, R535): do new updates and appends for it wait? -/
def State.unitHeld (s : State) (h u : Nat) : Bool :=
  s.vrnHolds h u || s.cmp.copies.any (fun c => (s.copyHolds c h u).isSome && c.phase != 0)

end Machine
end Sys2Proof
end

