-- ==== Sys2Proof/Machine/Tables.lean ====
section
/-!
DEFINITION. Embedding tables (spec 09): tables and their destruction, lookup and update descriptors, the split of work over
palettes, work records and what they read and write.
-/
namespace Sys2Proof
namespace Machine

/-! ### Parameter blocks, R583 -/

/-- Reads a parameter block of a class N command: in the slice's stack memory or granted staging area. -/
def State.readBlock (s : State) (sl a n : Nat) : Except Status (State × List Byte) :=
  match space a with
  | .control | .sram _ _ => .error .accessFault
  | _ =>
    match s.accessErr sl a n false with
    | some e => .error e.status
    | none =>
      let r := s.busRead a n
      match r.bytes with
      | some bs => .ok (r.state, bs)
      | none => .error .poisoned

/-- Is a program handle 0 or a registered program of the slice? -/
def State.progOk (s : State) (sl h : Nat) : Bool :=
  h == 0 || (match smGet s.progs h with | some p => p.slice == sl | none => false)

/-! ### Table descriptors, R214 to R216 -/

/-- Bytes of a row record, R181 and R216. -/
def rowRecord (mode fmt d : Nat) : Nat := if mode = 0 then 32 * ceilDiv (d * (fmtBits fmt / 8)) 32 else recordLen mode d

/-- Bytes of one state row, R216. -/
def stateRow (d : Nat) : Nat := 32 * ceilDiv (4 * d) 32

/-- The smallest power of two at or above v, up to 256. -/
def pow2Above (v : Nat) : Nat := (([1, 2, 4, 8, 16, 32, 64, 128, 256] : List Nat).find? (fun p => decide (v ≤ p))).getD 256

/-- The slot of a row group, R216. -/
def groupSlot (mode fmt d st : Nat) : Nat :=
  let g := rowRecord mode fmt d + st * stateRow d
  if g ≤ 256 then pow2Above g else roundUp g 256

/-- Does a table descriptor keep every value of R214? -/
def State.tableDescOk (s : State) (sl : Nat) (x : List Byte) : Bool :=
  let rows := leField x 0 8
  let d := leField x 8 2
  let fmt := leField x 0xA 1
  let mode := leField x 0xB 1
  let st := leField x 0xC 1
  let cb := leField x 0x10 8
  decide (1 ≤ rows ∧ rows ≤ 2 ^ 34 ∧ mode ≤ 2 ∧ st ≤ 2 ∧ leField x 0xD 1 ≤ 2 ∧ 1 ≤ d ∧ d ≤ 2048) &&
    leField x 0xE 2 == 0 && leField x 0x20 32 == 0 && s.progOk sl (leField x 0x18 4) && s.progOk sl (leField x 0x1C 4) &&
    (if mode = 0 then decide (1 ≤ fmt ∧ fmt ≤ 5 ∧ d * (fmtBits fmt / 8) ≤ 8192 ∧ cb = 0)
     else decide (3 ≤ fmt ∧ fmt ≤ 4 ∧ st = 0 ∧ d % (if mode = 1 then 2 else 8) = 0) && space cb == .stack && s.ownsStack sl cb 0x1000)

/-- Rows per extent, R262. -/
def rowsPerExtent (slot : Nat) : Nat := 65536 / slot

/-! ### Placement of a new table, R263, R270 -/

/-- The stack of a region of a local band. -/
def localStack (r : Nat) : Nat := r % bandRegions / 0x4000

/-- Is a region in a local band? -/
def State.isLocal (s : State) (r : Nat) : Bool := decide (r / bandRegions < s.localBands)

/-- The palettes on which a slice holds clusters. -/
def State.slicePalettes (s : State) (sl : Nat) : List Nat :=
  (List.range 10).filter (fun p => s.clOwner.any (fun c => c.2.contains sl && c.1 / 24 == p))

/-- The slice's bristles on a palette. -/
def State.bristlesOn (s : State) (sl p : Nat) : List Nat := (s.sliceBristles sl).filter (fun b => b / 384 == p)

/-- The default homes of a segment, R263 and R270: the slice's bristles on the palette of its stack, or on all its palettes. -/
def State.segHomes (s : State) (sl r : Nat) : List Nat :=
  let here := if s.isLocal r then s.bristlesOn sl (localStack r / 2) else []
  if here.isEmpty then s.sliceBristles sl else here

/-- Is one segment of a layout well placed: 1 to 16,384 free regions within one piece of a local band or one woven band, with
the homes R270 gives it? -/
def State.segOk (s : State) (sl : Nat) (g : SegPlace) : Bool :=
  let last := g.loc + g.count - 1
  decide (1 ≤ g.count ∧ g.count ≤ 16384) && g.loc / bandRegions == last / bandRegions &&
    (!s.isLocal g.loc || g.loc / 0x4000 == last / 0x4000) &&
    (List.range g.count).all (fun i => s.regionFree (g.loc + i)) && g.homes == s.segHomes sl g.loc

/-- Extents a layout puts on local pieces of a stack. -/
def State.onStack (s : State) (m : Nat) (gs : List SegPlace) : Nat :=
  ((gs.filter (fun g => s.isLocal g.loc && localStack g.loc == m)).map (·.count)).sum

/-- Free local regions of a stack. -/
def State.freeLocal (s : State) (m : Nat) : Nat :=
  ((List.range s.localBands).map (fun b => ((List.range 0x4000).filter (fun i =>
    s.regionFree (b * bandRegions + m * 0x4000 + i))).length)).sum

/-- Free woven regions. -/
def State.freeWoven (s : State) : Nat :=
  ((List.range (32 - s.localBands)).map (fun b => ((List.range bandRegions).filter (fun i =>
    s.regionFree ((s.localBands + b) * bandRegions + i))).length)).sum

/-- Numbers that never fall. -/
def neverFalls : List Nat → Bool
  | a :: b :: l => decide (a ≤ b) && neverFalls (b :: l)
  | _ => true

/-- Free pieces of stacks are taken in ascending stack number: a stack is used only when those of the list before it are full. -/
def State.filledInOrder (s : State) (gs : List SegPlace) : List Nat → Bool
  | [] => true
  | m :: ms => (decide (s.onStack m gs = s.freeLocal m) || ms.all (fun k => s.onStack k gs == 0)) && s.filledInOrder gs ms

/-- Does a layout follow R263? Locally, equal shares to within one extent over the slice's stacks in ascending order, a share short only
of its stack's free pieces; then woven; then in free pieces of other stacks, in ascending order. A woven placement takes free local
pieces in the same way when the woven bands are full. -/
def State.layoutOk (s : State) (sl band n : Nat) (gs : List SegPlace) : Bool :=
  let pals := s.slicePalettes sl
  let mems := pals.flatMap (fun p => [2 * p, 2 * p + 1])
  let share := n / mems.length
  let most := ceilDiv n mems.length
  let loc := gs.filter (fun g => s.isLocal g.loc)
  let woven := n - (loc.map (·.count)).sum
  let mine := loc.filter (fun g => mems.contains (localStack g.loc))
  let other := loc.filter (fun g => !mems.contains (localStack g.loc))
  gs.all (s.segOk sl) && ((gs.flatMap (fun g => (List.range g.count).map (g.loc + ·))).eraseDups).length == n &&
    (gs.map (·.count)).sum == n &&
    (if band = 1 ∨ (band = 0 ∧ n ≥ 20) then
       mems.all (fun m => let k := s.onStack m gs
         decide (k ≤ most) && (decide (share ≤ k) || decide (k = s.freeLocal m))) &&
       neverFalls (mine.map (fun g => localStack g.loc)) &&
       (other.isEmpty || (woven == s.freeWoven && neverFalls (other.map (fun g => localStack g.loc)) &&
          s.filledInOrder gs ((List.range 20).filter (fun m => !mems.contains m))))
     else woven == n ||
       (woven == s.freeWoven && neverFalls (loc.map (fun g => localStack g.loc)) && s.filledInOrder gs (List.range 20)))

/-- The lowest base of k consecutive free segment indices. -/
def freeSegs (seg : SMap Nat) (k : Nat) : Nat → Nat → Option Nat
  | _, 0 => none
  | b, n + 1 =>
    if b + k > 8192 then none
    else if (List.range k).all (fun i => (smGet seg (b + i)).isNone) then some b
    else freeSegs seg k (b + 1) n

/-- The number of the home list with these IDs: one that has them, or the lowest free of 64, written. -/
def State.homeList (s : State) (ids : List Nat) : Option (Nat × State) :=
  match s.cmp.homes.find? (fun p => p.2 == ids) with
  | some p => some (p.1, s)
  | none =>
    match smLowestFree s.cmp.homes (fun _ => true) 0 64 with
    | some l => some (l, { s with cmp := { s.cmp with homes := smSet s.cmp.homes l ids } })
    | none => none

/-- A map entry of R268 whose NEW and OLD slots are the same. -/
def mapEntry32 (slot count first handle : Nat) : Nat :=
  eSet (eSet (eSet (eSet (eSet 0 0 8 slot) 8 8 slot) 0x16 2 count) 0x18 4 first) 0x1C 4 handle

/-- Writes the segments of a layout from index b, first extent x. -/
def State.putSegs (s : State) (h : Nat) : Nat → Nat → List SegPlace → Option State
  | _, _, [] => some s
  | b, x, g :: gs =>
    match s.homeList g.homes with
    | none => none
    | some (l, s) =>
      let e := mapEntry32 (slotVal { tier := 0, home := l, loc := g.loc, swidx := 0 }) g.count x h
      { s with cmp := { s.cmp with seg := smSet s.cmp.seg b e } }.putSegs h (b + 1) (x + g.count) gs

/-- The lowest codebook slot free on all twenty controllers, R215. -/
def State.freeCodebook (s : State) : Option Nat :=
  (List.range 16).find? (fun k => (List.range 20).all (fun m => !bit (s.rget MEM_CB_INUSE m) k))

/-- Puts a codebook into a slot of every controller, R182 and R185. -/
def State.loadCodebook (s : State) (slot fmtMode : Nat) (bytes : List Byte) : State :=
  (List.range 20).foldl (fun s m =>
    let s := { s with cb := memWriteN s.cb (m * 0x10000 + slot * 0x1000) bytes,
                      ecc := smDelIf s.ecc (fun w => decide (cbWordAddr m (slot * 0x1000) ≤ w ∧ w < cbWordAddr m (slot * 0x1000) + 0x1000)) }
    let s := s.rset MEM_CB_FMT (putBits (s.rget MEM_CB_FMT m) (2 * slot + 1) (2 * slot) fmtMode) m
    s.rset MEM_CB_INUSE (s.rget MEM_CB_INUSE m ||| 2 ^ slot) m) s

/-- Can firmware still demote units of a slice (R290)? Its policy permits spill, heat is not CRITICAL (R287) and a handle of it may leave T1. -/
def State.maySpill (s : State) (sl : Nat) : Bool :=
  s.fon CMP_SLICE_POL_SPILL 0 sl && decide (s.fget GSO_THERM_STATUS_THERM_STATE < 2) &&
    (s.cmp.dir.any (fun p => eGet p.2 0x1C 4 == sl && !bit (eGet p.2 5 1) 1))

/-- Regions change owner with their bytes as they are. -/
def State.ownRegions (s : State) (o : Nat) (rs : List Nat) : State := rs.foldl (fun s r => { s with own := smSet s.own r o }) s

/-- Creates a table from its descriptor, laid out as `gs` says; the status of a refusal otherwise. An adopted table keeps the bytes of
its units and may exceed the stack quota (R543). -/
def State.makeTable (s : State) (sl : Nat) (x : List Byte) (gs : List SegPlace) (adopt : Bool := false) : Except Status (Nat × State) :=
  let rows := leField x 0 8
  let d := leField x 8 2
  let fmt := leField x 0xA 1
  let mode := leField x 0xB 1
  let st := leField x 0xC 1
  let size := groupSlot mode fmt d st
  let rpe := rowsPerExtent size
  let n := ceilDiv rows rpe
  let extents := (s.cmp.seg.map (fun g => eGet g.2 0x16 2)).sum
  if !s.serialLeft sl ∨ s.tbl.length ≥ 4096 ∨ (s.tbl.filter (fun t => t.2.slice == sl)).length ≥ s.quota sl 3 ∨ (s.sliceBristles sl).isEmpty ∨
      extents + n > 2 ^ 24 ∨ (!adopt && !s.fits sl n) then .error .quotaExceeded
  else if mode ≠ 0 ∧ s.freeCodebook.isNone then .error .noCodebookSlot
  else
    match freeSegs s.cmp.seg gs.length 0 8192, smLowestFree s.cmp.dir (fun _ => true) 0 4096 with
    | some b, some di =>
      let cbk := s.freeCodebook.getD 0
      let (h, s1) := s.newHandle sl
      match s1.putSegs h b 0 gs with
      | none => .error .quotaExceeded
      | some s1 =>
        let rs := gs.flatMap (fun g => (List.range g.count).map (g.loc + ·))
        let s1 := if adopt then s1.ownRegions sl rs else s1.takeRegions sl rs
        let e := eSet (eSet (eSet (eSet (eSet (eSet 0 0 4 h) 4 1 1) 8 8 (b + gs.length * 2 ^ 16)) 0x18 2 rpe)
          0x1A 2 (size / 32 + mode * 2 ^ 10 + (if mode = 0 then 0 else cbk) * 2 ^ 12)) 0x1C 4 sl
        let t : Table := { slice := sl, rows := rows, d := d, fmt := fmt, mode := mode, st := st, band := leField x 0xD 1,
                           slot := cbk, oldSlot := cbk, slotFlip := 0, prog := leField x 0x18 4, uprog := leField x 0x1C 4, dying := none }
        .ok (h, { s1 with tbl := smSet s1.tbl h t, cmp := { s1.cmp with dir := smSet s1.cmp.dir di e } })
    | _, _ => .error .quotaExceeded

/-- TABLE_CREATE, R214 to R217, R263: `places` is the layout firmware gives it. Where the slice's quota does not hold it and
spill may still make room, the command waits for firmware's demotions (R290); an empty layout says that none is left. -/
def execTableCreate (ch addr : Nat) (places : List SegPlace) (s : State) : Host.Outcome State Fault Refusal :=
  .next (s.serve ch 0x30 [(1, addr % 2 ^ 32), (2, addr / 2 ^ 32)] 0 .bound true (fun sl s =>
    match s.readBlock sl addr 64 with
    | .error st => refuseCmd s st 1
    | .ok (s1, x) =>
      if !s1.tableDescOk sl x then refuseCmd s .badDescriptor 1
      else
        let mode := leField x 0xB 1
        let n := ceilDiv (leField x 0 8) (rowsPerExtent (groupSlot mode (leField x 0xA 1) (leField x 8 2) (leField x 0xC 1)))
        if !s1.fits sl n && s1.maySpill sl && !places.isEmpty then laterCmd s
        else
          let cb : Except Status (State × List Byte) := if mode = 0 then .ok (s1, []) else s1.readBlock sl (leField x 0x10 8) 0x1000
          match cb with
          | .error st => refuseCmd s st 1
          | .ok (s1, cbs) =>
            match s1.makeTable sl x places with
            | .error st => refuseCmd s st 0
            | .ok (h, s2) =>
              if !s1.layoutOk sl (leField x 0xD 1) n places then laterCmd s
              else
                let s2 := if mode = 0 then s2 else
                  s2.loadCodebook (s1.freeCodebook.getD 0) ((mode - 1) * 2 + (if leField x 0xA 1 = 4 then 1 else 0)) cbs
                okCmd s2 [h]))

/-! ### Destruction, R218 -/

/-- Does a work item name a handle: a table's, or a cache's? -/
def Work.names (w : Work) (h : Nat) : Bool := [0x10, 0x11, 0x20, 0x21].contains w.kind && leField w.desc 4 4 == h

/-- T1 regions that the units of a table hold at its epoch. -/
def State.tableRegions (s : State) (h : Nat) : List Nat :=
  let t := smGet s.tbl h
  let n := match t with | some t => ceilDiv t.rows (max 1 (s.rowShape h).2) | none => 0
  (List.range n).filterMap (fun x => match s.extentPlace h x (s.epoch h) with
    | some p => if p.tier = 0 then some (p.addr / 0x10000) else none
    | none => none)

/-- Home lists that no segment names are free. -/
def State.dropHomes (s : State) : State :=
  { s with cmp := { s.cmp with homes := s.cmp.homes.filter (fun l => s.cmp.seg.any (fun g =>
      (slotOf (eGet g.2 0 8)).home % 64 == l.1 || (slotOf (eGet g.2 8 8)).home % 64 == l.1)) } }

/-- Regions of T1 from loc on that a unit takes there: for a segment, those of the extents that no exception has placed elsewhere (R271). -/
def State.unitRegions (s : State) (h u loc : Nat) : List Nat :=
  ((List.range (s.unitLen h u)).filter (fun i =>
    decide (u < 2 ^ 32) || (smGet s.tbl h).isNone ||
      (match smGet s.cmp.exc (excKey h (eGet (smGetD s.cmp.seg (u - 2 ^ 32) 0) 0x18 4 + i)) with
       | some m => (slotOf (eGet m 0 8)).tier == 3
       | none => true))).map (loc + ·)

/-- The regions that copies had taken at their destinations are free again; a copy given up sets MIG_ABANDON (R287). -/
def State.dropCopies (s : State) (p : Copy → Bool) : State :=
  let cs := s.cmp.copies.filter p
  let regions := cs.flatMap (fun c => if c.swatch.isSome ∨ c.dst.tier ≠ 0 then [] else s.unitRegions c.handle c.unit c.dst.loc)
  let s := cs.foldl (fun s c => s.event CMP_ERR_STATUS_MIG_ABANDON (c.dst.home / 384)) s
  { s with cmp := { s.cmp with copies := s.cmp.copies.filter (fun c => !p c) } }.freeRegions regions

/-- A codebook slot is no longer in use on any controller (R185). -/
def State.freeCodebooks (s : State) (slot : Nat) : State :=
  (List.range 20).foldl (fun s m => s.rset MEM_CB_INUSE (putBits (s.rget MEM_CB_INUSE m) slot slot 0) m) s

/-- The codebook slot of a table at a stamp (R185). -/
def Table.slotAt (t : Table) (stamp : Nat) : Nat := if (stamp + 65536 - t.slotFlip) % 65536 < 32768 then t.slot else t.oldSlot

/-- Everything of a table goes: units, map entries, swatches, heat, its codebook slot, its shards. -/
def State.purgeTable (s : State) (h : Nat) : State :=
  match smGet s.tbl h with
  | none => s
  | some t =>
    let gone := s.tableRegions h ++ (s.cmp.drains.filter (fun d => d.handle == h)).flatMap (·.freed)
    let s := (s.dropCopies (fun c => c.handle == h)).freeRegions gone
    let ours := fun (k : Nat) => k / 2 ^ 24 == h
    let sw := (s.cmp.exc.filter (fun e => ours e.1)).flatMap (fun e =>
      [(slotOf (eGet e.2 0 8)).swidx, (slotOf (eGet e.2 8 8)).swidx].map (fun i => (slotOf (eGet e.2 0 8)).home / 384 * 8192 + i - 1))
    let c := s.cmp
    let c := { c with
      dir := c.dir.filter (fun e => eGet e.2 0 4 != h), seg := c.seg.filter (fun g => eGet g.2 0x1C 4 != h),
      exc := smDelIf c.exc ours, heat := smDelIf c.heat ours, swatch := smDelIf c.swatch sw.contains,
      tracker := smDelIf c.tracker (fun k => ours (k % 2 ^ 64)), drains := c.drains.filter (fun d => d.handle != h),
      mapBad := smDelIf c.mapBad ours, offs := c.offs.filter (fun k => !ours k) }
    let s := { s with cmp := c, tbl := smDel s.tbl h, shards := smDelIf s.shards (fun k => k / 2 ^ 32 == h) }.dropHomes
    if t.mode = 0 then s
    else (s.freeCodebooks t.slot).freeCodebooks t.oldSlot

/-- Tables whose destruction waits, that no work names and that Varnish has read (R549) go, and their commands complete. -/
def State.endTables (s : State) : State :=
  (s.tbl.filter (fun t => t.2.dying.isSome && !s.vrnNeeds t.1 && !s.works.any (fun w => w.2.names t.1))).foldl (fun s t =>
    (s.purgeTable t.1).ack (t.2.dying.getD 320) .ok 0 [t.1]) s

/-- TABLE_DESTROY, R218. -/
def execTableDestroy (ch handle : Nat) (s : State) : Host.Outcome State Fault Refusal :=
  .next (s.serve ch 0x31 [(1, handle)] (handle / 2 ^ 26) .bound false (fun sl s =>
    match smGet s.tbl handle with
    | some t =>
      if t.slice ≠ sl ∨ t.dying.isSome then refuseCmd s .badHandle 1
      else laterCmd { s with tbl := smSet s.tbl handle { t with dying := some ch } }.endTables
    | none => refuseCmd s .badHandle 1))

/-! ### Checks of a lookup or an update, R219 to R221, R228 -/

/-- Has the slice a live table of this handle, R218? -/
def State.liveTable (s : State) (sl h : Nat) : Option Table :=
  match smGet s.tbl h with
  | some t => if t.slice = sl ∧ t.dying.isNone then some t else none
  | none => none

/-- AUTO or a named gather unit. -/
def collectorOk (c : Nat) : Bool := c == 0 || decide (0x10 ≤ c ∧ c ≤ 0x13)

/-- The fields of R219. -/
def lookupFieldsOk (x : List Byte) : Bool :=
  let pool := leField x 1 1
  let n := leField x 8 4
  decide (pool ≤ 4 ∧ leField x 2 1 < 32 ∧ 3 ≤ leField x 3 1 ∧ leField x 3 1 ≤ 5 ∧ 1 ≤ n ∧ n ≤ 2 ^ 20) &&
    (pool == 4 || decide (1 ≤ leField x 0xC 4 ∧ leField x 0xC 4 ≤ 65536)) && (pool == 3 || leField x 0x20 8 == 0) &&
    leField x 0x28 8 % 64 == 0 && leField x 0x30 8 % 32 == 0 &&
    (pool == 4 || leField x 0x18 8 != 0 || leField x 0x38 2 != 0) && collectorOk (leField x 0x3A 1) && leField x 0x3B 1 == 0

/-- Width in bytes of an index. -/
def idxWidth (x : List Byte) : Nat := if bit (leField x 2 1) 2 then 8 else 4

/-- The differences of a list of offsets that starts at 0 and ends at n; none where it falls or exceeds n. -/
def offsetLens (n : Nat) : List Nat → Option (List Nat)
  | [] => some []
  | [a] => if a ≤ n then some [n - a] else none
  | a :: b :: l => if a ≤ b ∧ b ≤ n then (offsetLens n (b :: l)).map ((b - a) :: ·) else none

/-- Bag lengths under R220; none where the bag list breaks it. -/
def bagLens (x : List Byte) (list : List Nat) : Option (List Nat) :=
  let n := leField x 8 4
  if leField x 1 1 = 4 then some (List.replicate n 1)
  else if leField x 0x18 8 = 0 then
    (if leField x 0xC 4 * leField x 0x38 2 = n then some (List.replicate (leField x 0xC 4) (leField x 0x38 2)) else none)
  else if bit (leField x 2 1) 3 then (if list.head? = some 0 then offsetLens n list else none)
  else if list.sum = n then some list else none

/-- Bytes of an element of a format code. -/
def elemBytes (fmt : Nat) : Nat := fmtBits fmt / 8

/-- The PASID under which a write of n bytes at a passes its checks. -/
def State.outPasid (s : State) (p sl a n : Nat) : Option Nat := (s.hostWay sl p a n true).pasid

/-- Lists of a descriptor are read in order; the first that fails gives its status, a short one none. -/
def State.readLists (s : State) (p sl : Nat) : List (Nat × Nat × HostData) → Option (State × Except Status (List (List Byte)))
  | [] => some (s, .ok [])
  | (a, n, got) :: ls =>
    let (s, st, bs) := s.readList p sl a n got
    if st ≠ .ok then some (s, .error st)
    else if bs.length ≠ n then none
    else match s.readLists p sl ls with
      | some (s, .ok r) => some (s, .ok (bs :: r))
      | r => r

/-- Bag b of a lookup's position list, as (position, bag) pairs. -/
def bagPairs (lens : List Nat) : List Nat := (lens.zip (List.range lens.length)).flatMap (fun p => List.replicate p.1 p.2)

/-- LOOKUP, R219 to R221, R224: the descriptor at the front of the queue is checked and accepted, or completed with what it
failed. -/
def execLookup (sl q : Nat) (idx bag wgt : HostData) (el : Nat) (s : State) : Host.Outcome State Fault Refusal :=
  match s.frontSlot sl q 0x10 2 with
  | (s1, none) => .next s1
  | (_, some (w, x)) =>
    let p := w.port
    let n := leField x 8 4
    let bagN := if leField x 1 1 = 4 ∨ leField x 0x18 8 = 0 then 0 else 4 * leField x 0xC 4
    let wgtN := if leField x 1 1 = 3 then 4 * n else 0
    let (s1, info) := s.popSlot w
    let fail := fun (st : Status) => Host.Outcome.next (s1.completeBare p sl q x st info el)
    match s.liveTable sl (leField x 4 4) with
    | none => fail .badHandle
    | some t =>
      if !lookupFieldsOk x then fail .badDescriptor
      else
        let bagBad := s.translate p sl [(leField x 0x18 8, bagN, false)]
        match (if bagBad.isSome then some (s1, .ok [[]]) else s1.readLists p sl [(leField x 0x18 8, bagN, bag)]) with
        | none => .next s
        | some (_, .error st) => fail st
        | some (s2, .ok bl) =>
          match (if bagBad.isSome then some [] else bagLens x (leItems 4 (bl.headD []) (bagN / 4))) with
          | none => fail .badDescriptor
          | some lens =>
            let outN := (if leField x 1 1 = 4 then n else leField x 0xC 4) * t.d * elemBytes (leField x 3 1)
            match s.translate p sl [(leField x 0x10 8, n * idxWidth x, false), (leField x 0x18 8, bagN, false),
                (leField x 0x20 8, wgtN, false), (leField x 0x28 8, outN, true), (leField x 0x30 8, 32, true)] with
            | some st => fail st
            | none =>
              match s2.readLists p sl [(leField x 0x10 8, n * idxWidth x, idx), (leField x 0x20 8, wgtN, wgt)] with
              | none => .next s
              | some (_, .error st) => fail st
              | some (s3, .ok ls) =>
                .next (s3.accept { Work.base 0x10 sl (s.curGen sl) w x info with
                  idx := leItems (idxWidth x) (ls.headD []) n, bags := lens, wgts := leItems 4 (ls.getD 1 []) (wgtN / 4),
                  outPasid := s.outPasid p sl (leField x 0x28 8) outN, cplPasid := s.outPasid p sl (leField x 0x30 8) 32 })

/-- Does a table take an update (R230)? A compressed one takes RAW alone, RAW takes SET alone. -/
def updatable (x : List Byte) (t : Table) : Bool :=
  let raw := bit (leField x 2 1) 6
  (!raw || leField x 1 1 == 0) && (raw || t.mode == 0)

/-- The fields of R228, and what R229 requires of a table that takes the update: without it BAD_DESCRIPTOR (DESIGN CHOICE, log entry
38). -/
def updateFieldsOk (x : List Byte) (t : Table) : Bool :=
  let opt := leField x 1 1
  let fl := leField x 2 1
  let n := leField x 8 4
  decide (opt ≤ 4 ∧ 1 ≤ n ∧ n ≤ 2 ^ 20) && fl &&& 0x8B == 0 && (bit fl 6 || decide (3 ≤ leField x 3 1 ∧ leField x 3 1 ≤ 5)) &&
    leField x 0xC 4 == 0 && leField x 0x28 8 == 0 && leField x 0x30 8 % 32 == 0 && leField x 0x38 4 == 0 &&
    (!updatable x t || ((opt != 3 || decide (1 ≤ t.st)) && (opt != 4 || t.uprog != 0)))

/-- P of R228: bytes of one gradient row. -/
def gradBytes (x : List Byte) (t : Table) : Nat :=
  if bit (leField x 2 1) 6 then rowRecord t.mode t.fmt t.d else t.d * elemBytes (leField x 3 1)

/-- SPARSE_UPDATE, R228, R230. -/
def execSparseUpdate (sl q : Nat) (idx grad : HostData) (el : Nat) (s : State) : Host.Outcome State Fault Refusal :=
  match s.frontSlot sl q 0x11 2 with
  | (s1, none) => .next s1
  | (_, some (w, x)) =>
    let p := w.port
    let n := leField x 8 4
    let (s1, info) := s.popSlot w
    let fail := fun (st : Status) => Host.Outcome.next (s1.completeBare p sl q x st info el)
    match s.liveTable sl (leField x 4 4) with
    | none => fail .badHandle
    | some t =>
      if !updateFieldsOk x t then fail .badDescriptor
      else
        let gN := n * gradBytes x t
        match s.translate p sl [(leField x 0x10 8, n * idxWidth x, false), (leField x 0x18 8, gN, false), (leField x 0x30 8, 32, true)] with
        | some st => fail st
        | none =>
          if !updatable x t then fail .notUpdatable
          else match s1.readLists p sl [(leField x 0x10 8, n * idxWidth x, idx), (leField x 0x18 8, gN, grad)] with
            | none => .next s
            | some (_, .error st) => fail st
            | some (s3, .ok ls) =>
              .next (s3.accept { Work.base 0x11 sl (s.curGen sl) w x info with
                idx := leItems (idxWidth x) (ls.headD []) n, data := ls.getD 1 [],
                cplPasid := s.outPasid p sl (leField x 0x30 8) 32 })

/-! ### The split over palettes, R224 to R226 -/

/-- What becomes of a position before any row is read, R227, R230. -/
inductive PosFate where
  | skip | range | lost | go (p : Place)
deriving DecidableEq, Repr

/-- Resolves a position of table work at its stamp, R271, R272; an update that a copy held has that of its release (R273). -/
def State.posFate (s : State) (w : Work) (t : Table) (stamp i : Nat) : State × PosFate :=
  let h := leField w.desc 4 4
  let row := w.idx.getD i 0
  if w.kind = 0x10 ∧ row = 2 ^ (8 * idxWidth w.desc) - 1 then (s, .skip)
  else if row ≥ t.rows then (s, .range)
  else
    let u := row / max 1 (s.rowShape h).2
    let key := excKey h u
    match s.resolveRow h row (if w.kind = 0x11 then s.relStamp h u stamp else stamp) with
    | none => (s, .lost)
    | some p =>
      if (smGet s.cmp.exc key).isNone then (s, .go p)
      else
        let r := s.mapRead (p.home / 384) key
        (r.1, if r.2 then .go p else .lost)

/-- One group of positions that a lead bristle serves: the palette's key (its bag; the row's home for updates), the lead, the
positions. -/
structure PosGroup where
  key : Nat
  lead : Nat
  poss : List Nat

/-- Adds a position to its group. -/
def addPos (key home i : Nat) : List PosGroup → List PosGroup
  | [] => [⟨key, home, [i]⟩]
  | g :: gs => if g.key = key then { g with poss := g.poss ++ [i] } :: gs else g :: addPos key home i gs

/-- Cuts the positions of a group over the records its palette posts, in order; none where the places do not fit. -/
def cutPlaces : List RecPlace → List Nat → Option (List (RecPlace × List Nat) × List RecPlace)
  | pls, [] => some ([], pls)
  | [], _ :: _ => none
  | p :: pls, i :: is =>
    if p.n = 0 ∨ p.n > 4096 then none
    else (cutPlaces pls ((i :: is).drop p.n)).map (fun r => ((p, (i :: is).take p.n) :: r.1, r.2))

/-- Is an inbox slot of a bristle held by a record whose DONE has not come? -/
def State.inboxBusy (s : State) (b slot : Nat) : Bool := s.works.any (fun w => w.2.recs.any (fun r => r.lead == b && r.slot == slot))

/-- Key of the inbox of a program on a bristle. -/
def ringKey (b prog : Nat) : Nat := b * 2 ^ 32 + prog

/-- Is an inbox slot the next one of the bristle's ring (R226)? The ring of the built-in programs is the device's own: any slot of 64
bytes may be its next (log entry 38). -/
def State.inboxOk (s : State) (b prog slot : Nat) : Bool :=
  slot % 64 == 0 && decide (slot < 0x40000) &&
    (match smGet s.progs prog with
     | some p => slot == p.inboxOff + 64 * (smGetD s.cmp.rings (ringKey b prog) 0 % max 1 p.inboxDepth)
     | none => true)

/-- A record takes the next slot of an inbox. -/
def State.turnRing (s : State) (b prog : Nat) : State :=
  { s with cmp := { s.cmp with rings := smSet s.cmp.rings (ringKey b prog) (smGetD s.cmp.rings (ringKey b prog) 0 + 1) } }

/-- The device slot that merges a bag or head group of a work item: unit and slot. -/
def State.devOf (s : State) (k grp : Nat) : Option (Nat × Nat) :=
  (s.syn.dev.find? (fun d => d.2.work == k && d.2.grp == grp)).map (fun d => (d.1 / 65536, d.1 % 65536))

/-- Is a device slot free to be armed (R315)? -/
def State.devFree (s : State) (u slot : Nat) : Bool := decide (slot < 61440) && (smGet s.syn.dev (65536 * u + slot)).isNone

/-- The target word of a work item's bag or head group, with its device slot armed: the slot it has, or the free one chosen (R225, R249,
R315). None where that one cannot be armed. -/
def State.devTarget (s : State) (u slot : Nat) (g : DevSlot) : Option (Nat × State) :=
  match s.devOf g.work g.grp with
  | some (u, n) => some (n + u * 65536, s)
  | none => if s.devFree u slot then some (slot + u * 65536, s.armDev u slot g) else none

/-- The swatch record that a place names, on the palette of its home. -/
def State.swatchOf (s : State) (p : Place) : Option Nat :=
  if p.swidx = 0 then none else smGet s.cmp.swatch (p.home / 384 * 8192 + p.swidx - 1)

/-- Blocks of an extent held below block b. -/
def heldBelow (blocks b : Nat) : Nat := ((List.range b).filter (fun i => bit blocks i)).length

/-- Replica r of a swatch record: bristle and base block. -/
def replica (e r : Nat) : Nat × Nat := (eGet e (8 + 4 * r) 2, eGet e (10 + 4 * r) 2)

/-- SRAM offset of an extent's byte in a replica, if its block is held. -/
def replicaOffset (e r off : Nat) : Option Nat :=
  if bit (eGet e 0 2) (off / 0x1000) then some ((replica e r).2 * 0x1000 + heldBelow (eGet e 0 2) (off / 0x1000) * 0x1000 + off % 0x1000) else none

/-- The replica that serves a lead, R280: one in its cluster, else in the lowest cluster. -/
def chooseReplica (e lead : Nat) : Nat :=
  let rs := List.range (eGet e 2 1)
  match rs.find? (fun r => (replica e r).1 / 16 == lead / 16) with
  | some r => r
  | none => (rs.foldl (fun best r => if (replica e r).1 / 16 < (replica e best).1 / 16 then r else best) 0)

/-- The replica that serves a row record of n bytes at a place for a lead, R280: its bristle and the row's SRAM offset. None where a block of
the record is not held, or the replica's cluster has been declared failed (R282): then the tier serves it. -/
def State.swatchServes (s : State) (p : Place) (lead n : Nat) : Option (Nat × Nat) :=
  match s.swatchOf p with
  | none => none
  | some e =>
    let off := p.addr % 0x10000
    let held := (List.range ((off + n - 1) / 0x1000 + 1 - off / 0x1000)).all (fun i => bit (eGet e 0 2) (off / 0x1000 + i))
    let b := (replica e (chooseReplica e lead)).1
    if held && decide (eGet e 2 1 ≠ 0) && !s.failing.contains (b / 16) then
      (replicaOffset e (chooseReplica e lead) off).map (fun o => (b, o))
    else none

/-- The references of a record, R224 step 4, R226: the address that serves the row, stack or swatch; bag or position; weight. -/
def State.rowRefs (s : State) (w : Work) (t : Table) (lead stamp : Nat) (is : List Nat) (bags : List Nat) : List Byte :=
  let h := leField w.desc 4 4
  let addr := fun (i : Nat) =>
    let row := w.idx.getD i 0
    match s.resolveRow h row (if w.kind = 0x11 then s.relStamp h (row / max 1 (s.rowShape h).2) stamp else stamp) with
    | none => 0
    | some p => match (if w.kind = 0x10 then s.swatchServes p lead (rowRecord t.mode t.fmt t.d) else none) with
      | some (b, o) => sramAddr b o
      | none => p.addr
  is.flatMap (fun i =>
    leBytes 8 (addr i) ++
      leBytes 4 (if w.kind = 0x10 ∧ leField w.desc 1 1 ≠ 4 then bags.getD i 0 else i) ++
      leBytes 4 (if w.kind = 0x10 ∧ leField w.desc 1 1 = 3 then w.wgts.getD i 0 else 0x3F800000))

/-- The palettes that own counted positions of bag b, R223, R224: the ranks of its partials. -/
def State.bagRanks (s : State) (w : Work) (t : Table) (bags : List Nat) (stamp b : Nat) : List Nat :=
  let ps := ((List.range w.idx.length).filter (fun i => bags.getD i 0 == b)).filterMap (fun i => match (s.posFate w t stamp i).2 with
    | .go p => some (p.home / 384)
    | _ => none)
  ps.eraseDups.mergeSort

/-- The device slot of bag b of a lookup (R225): its ranks, and what merges its lines. -/
def State.bagSlot (s : State) (w : Work) (t : Table) (bags : List Nat) (stamp b : Nat) : DevSlot :=
  { slice := w.slice, work := w.k, grp := b, pos := ((List.range w.idx.length).find? (fun i => bags.getD i 0 == b)).getD 0,
    ranks := s.bagRanks w t bags stamp b, op := if leField w.desc 1 1 = 2 then 2 else 0, det := bit (leField w.desc 2 1) 0,
    cpp := ceilDiv (4 * t.d) 64, heads := 0, hdim := 0, got := [], drops := 0 }

/-- Posts one record of table work, R226. A lookup's carries the target word of its bag's device slot. -/
def State.postTable (s : State) (w : Work) (t : Table) (bags : List Nat) (lead : Nat) (pl : RecPlace) (is : List Nat) (stamp : Nat) :
    Option (State × WRec) :=
  let upd := w.kind == 0x11
  let x := w.desc
  let gb := gradBytes x t
  let prog := if upd then t.uprog else t.prog
  let refs := s.rowRefs w t lead stamp is bags ++ (if upd then is.flatMap (fun i => (w.data.drop (i * gb)).take gb) else [])
  if s.inboxBusy lead pl.slot || !s.inboxOk lead prog pl.slot || decide (pl.refs + refs.length > 0x40000) then none
  else
    let b := bags.getD (is.headD 0) 0
    let target := if upd then some (0, s) else s.devTarget (gatherUnit (leField x 0x3A 1) w.k b) pl.gather (s.bagSlot w t bags stamp b)
    match target with
    | none => none
    | some (gt, s) =>
      let rec64 := recordBytes (if upd then 3 else if leField x 1 1 = 4 then 2 else 1) (leField x 1 1) is.length t.fmt t.st t.d
        (sramAddr lead pl.refs) gt (if upd then 0 else lead / 384 * 65536)
        (if upd then sramAddr lead (pl.refs + 16 * is.length) else 0) (if upd then leField x 0x20 4 else 0) (if upd then leField x 0x24 4 else 0)
        pl.done w.k
      let s := (s.postRecord w.slice lead pl rec64 refs).turnRing lead prog
      some ({ s with recNo := s.recNo + 1 },
        { pal := lead / 384, lead := lead, entry := 0, unit := 0, poss := is, slot := pl.slot, stamp := stamp, ord := s.recNo })

/-- Posts the groups of a palette in order. -/
def State.postGroups (s : State) (w : Work) (t : Table) (bags : List Nat) (stamp : Nat) :
    List PosGroup → List RecPlace → Option (State × List WRec)
  | [], _ => some (s, [])
  | g :: gs, pls =>
    match cutPlaces pls g.poss with
    | none => none
    | some (cut, rest) =>
        let step := cut.foldl (fun acc c => match acc with
          | none => none
          | some (s, rs) => (State.postTable s w t bags g.lead c.1 c.2 stamp).map (fun r => (r.1, rs ++ [r.2]))) (some (s, ([] : List WRec)))
        match step with
        | none => none
        | some (s, rs) => (s.postGroups w t bags stamp gs rest).map (fun r => (r.1, rs ++ r.2))

/-- Counts the positions a palette resolved, R276, R277. -/
def State.countHeat (s : State) (w : Work) (stamp : Nat) (is : List Nat) : State :=
  let h := leField w.desc 4 4
  is.foldl (fun s i =>
    let row := w.idx.getD i 0
    match s.resolveRow h row stamp with
    | some p => s.heatExtent (p.home / 384) (excKey h (row / max 1 (s.rowShape h).2)) (p.addr % 0x10000 / 0x1000)
    | none => s) s

/-- Forwards table work: at first it is stamped and its unservable positions are found; then the positions that wait and can be
posted are, by group. -/
def State.forwardTable (s : State) (k : Nat) (w : Work) (t : Table) (places : List RecPlace) : Option State :=
  let h := leField w.desc 4 4
  let stamp := if w.stage = 0 then s.epoch h else w.stamp
  let fates := (if w.stage = 0 then List.range w.idx.length else w.waiting).foldl
    (fun (acc : State × List (Nat × PosFate)) i => let r := acc.1.posFate w t stamp i; (r.1, acc.2 ++ [(i, r.2)])) (s, [])
  let s := fates.1
  let bags := if w.kind = 0x10 then bagPairs w.bags else []
  let lost := fates.2.filterMap (fun f => if f.2 = .lost then some f.1 else none)
  let ev := fates.2.filterMap (fun f => match f.2 with
    | .range => some (Status.indexRange, f.1) | .lost => some (Status.poisoned, f.1) | _ => none)
  let go := fates.2.filterMap (fun f => match f.2 with | .go p => some (f.1, p) | _ => none)
  let groups := go.foldl (fun gs f =>
    addPos (if w.kind = 0x11 then f.2.home else f.2.home / 384 * 2 ^ 32 + bags.getD f.1 0) f.2.home f.1 gs) []
  let rpe := max 1 (s.rowShape h).2
  let free := groups.filterMap (fun g =>
    let ps := if w.kind = 0x11 then g.poss.filter (fun i => !s.unitHeld h (w.idx.getD i 0 / rpe)) else g.poss
    if ps.isEmpty || !s.canPost w.slice g.lead then none else some { g with poss := ps })
  match s.postGroups w t bags stamp free places with
  | none => none
  | some (s, rs) =>
    let s := if w.stage = 0 then { s with cmp := { s.cmp with arrived := s.cmp.arrived + 1 } } else s
    let posted := free.flatMap (·.poss)
    let s := free.foldl (fun s g => s.count (1 + g.lead / 384) 0 0x20 w.slice g.poss.length) (s.countHeat w stamp posted)
    some (s.setWork k { w with stage := 1, arr := if w.stage = 0 then s.cmp.arrived else w.arr, stamp := stamp, recs := w.recs ++ rs, events := w.events ++ ev,
                               nan := w.nan ++ (if w.kind = 0x10 then (lost.map (fun i => bags.getD i 0)) else []),
                               waiting := (go.map (·.1)).filter (fun i => !posted.contains i) })

/-! ### Rows, R227, R280, R281, R289 -/

/-- What reading a row brought. -/
inductive RowRead where
  | bytes (bs : List Byte) (swatch remote refetched : Bool)
  | poisoned
  | unreachable
  | awaited
deriving DecidableEq, Repr

/-- Reads n bytes of a row group, for a lead bristle: from a swatch that serves its record, else from its tier; `tier` is what the tier
read brought. -/
def State.readRow (s : State) (p : Place) (lead recLen n : Nat) (swatchOk : Bool) (tier : Option (Option (List Byte))) : State × RowRead :=
  match (if swatchOk then s.swatchServes p lead recLen else none) with
  | some (b, o) =>
    let x := (s.wakeBristle b).sramRead b (sramAddr b o) n
    (x.1, match x.2 with | some bs => .bytes bs true false false | none => .poisoned)
  | none =>
    if p.tier = 0 then
      let x := s.stackRead p.addr n
      (x.state, match x.bytes with | some bs => .bytes bs false false x.refetched | none => .poisoned)
    else match tier with
      | none => (s, .awaited)
      | some none => (s, .unreachable)
      | some (some bs) => (s, .bytes (bs.take n) false true false)

/-- A row as F32 values: expanded for a compressed table (by the stack that holds it, or the lead's palette's own) with the codebook that the
stamp names, R185, R222. -/
def State.rowValues (s : State) (t : Table) (stamp : Nat) (p : Place) (lead : Nat) (swatch : Bool) (bs : List Byte) : State × Option (List Nat) :=
  let toF := fun (bs : List Byte) => (leItems (elemBytes t.fmt) bs t.d).map (fun x => (cvtElem 5 t.fmt .even x).1)
  if t.mode = 0 then (s, some (toF bs))
  else
    let m := if p.tier = 0 ∧ !swatch then (steer s.localBands p.addr).1 else lead / 384 * 2
    let r := s.expand m (t.slotAt stamp) t.d bs
    (r.1, r.2.map toF)

/-- One addition of a sum kept by VWACC, R175: fused, saturating. -/
def vwSum (acc w x : Nat) : Nat := (addLane32 acc ((f32.decode w).mul (f32.decode x))).bits

/-- Adds a row to a bag's partial, R222; none is the empty partial. -/
def poolRow (pool wgt : Nat) (acc : Option (List Nat)) (row : List Nat) : List Nat :=
  match pool, acc with
  | 2, some a => (a.zip row).map (fun x => maxF32 x.1 x.2)
  | 2, none => row.map (fun x => maxF32 x x)
  | 4, _ => row
  | _, a => ((a.getD (row.map (fun _ => 0))).zip row).map (fun x => vwSum x.1 wgt x.2)

/-- What the positions of a record have brought so far. -/
structure PoolRun where
  s : State
  acc : Option (List Nat)
  ev : List (Status × Nat)
  nan : Bool
  rows : Nat
  sw : Nat
  rem : Nat
  ref : Bool
  wait : Bool

/-- One position of a POOL or GATHER record. -/
def poolPos (w : Work) (t : Table) (lead stamp : Nat) (r : PoolRun) (i : Nat) : PoolRun :=
  let h := leField w.desc 4 4
  match r.s.resolveRow h (w.idx.getD i 0) stamp with
  | none => { r with ev := r.ev ++ [(.poisoned, i)], nan := true }
  | some p =>
    let len := rowRecord t.mode t.fmt t.d
    match r.s.readRow p lead len len true (smGet w.tier i) with
    | (s, .poisoned) => { r with s := s, ev := r.ev ++ [(.poisoned, i)], nan := true }
    | (s, .unreachable) => { r with s := s, ev := r.ev ++ [(.tierUnreachable, i)], nan := true }
    | (_, .awaited) => { r with wait := true }
    | (s, .bytes bs sw rem ref) =>
      match s.rowValues t stamp p lead sw bs with
      | (s, none) => { r with s := s, ev := r.ev ++ [(.poisoned, i)], nan := true }
      | (s, some v) =>
        { r with s := s, acc := some (poolRow (leField w.desc 1 1) (if leField w.desc 1 1 = 3 then w.wgts.getD i 0 else 0x3F800000) r.acc v),
                 rows := r.rows + 1, sw := r.sw + (if sw then 1 else 0), rem := r.rem + (if rem then 1 else 0), ref := r.ref || ref }

/-- Has every record posted earlier to a bristle for the slice signalled DONE? An inbox is a ring, and its program serves it in order (R226). -/
def State.inboxTurn (s : State) (slice : Nat) (rc : WRec) : Bool :=
  !s.works.any (fun v => v.2.slice == slice && v.2.recs.any (fun r => r.lead == rc.lead && decide (r.ord < rc.ord)))

/-- Device slots whose contributions are all in, and some of which were discarded, end their items with PROGRAM_FAULT (R316). -/
def State.devFaults (s : State) (k : Nat) : State :=
  match s.work k with
  | none => s
  | some w =>
    let bad := (s.syn.dev.filter (fun d => d.2.work == k && d.2.full && decide (d.2.drops > 0))).map (fun d => (Status.programFault, d.2.pos))
    let ev := bad.filter (fun e => !w.events.contains e)
    if ev.isEmpty then s else s.setWork k { w with events := w.events ++ ev }

/-- A POOL or GATHER record is finished, R224 step 7, R225: the lead adds its rows to the bag's sum; with the bag's last record on the
palette the partial goes to the bag's gather unit. A program of the slice's own sends its contributions itself, by GSEND. None where
a tier read is still awaited or an earlier record of the inbox is not done. -/
def State.donePool (s : State) (k : Nat) (w : Work) (t : Table) (rc : WRec) : Option State :=
  let bag := (bagPairs w.bags).getD (rc.poss.headD 0) 0
  let mine := fun (a : Part) => a.pal == rc.pal && a.grp == bag
  let before := ((w.accs.find? mine).map (·.vals))
  let r := rc.poss.foldl (poolPos w t rc.lead rc.stamp) ⟨s, before, [], false, 0, 0, 0, false, false⟩
  if r.wait || !s.inboxTurn w.slice rc then none
  else
    let last := !w.recs.any (fun x => x.ord != rc.ord && x.pal == rc.pal && (bagPairs w.bags).getD (x.poss.headD 0) 0 == bag)
    let s := (r.s.count (1 + rc.pal) 0 0x22 w.slice r.sw).setWork k { w with
      recs := w.recs.filter (fun x => x.ord != rc.ord), events := w.events ++ r.ev,
      accs := w.accs.filter (fun a => !mine a) ++ (match r.acc with | some v => if last then [] else [{ pal := rc.pal, grp := bag, vals := v }] | none => []),
      nan := if r.nan then w.nan ++ [bag] else w.nan, rows := w.rows + r.rows, swatch := w.swatch + r.sw, remote := w.remote + r.rem,
      info := if r.ref then putBits w.info 1 1 1 else w.info }
    some (match last && t.prog == 0, r.acc, s.devOf k bag with
      | true, some v, some (u, n) => (s.sendDev (n + u * 65536) (rc.pal * 65536) w.slice (linesOf v)).devFaults k
      | _, _, _ => s)

/-! ### Updates, R229 to R231, R281, R291 -/

/-- x + a × b, fused, rounded to nearest even in F32. -/
def fmaF32 (x a b : Nat) : Nat := (f32.encode .even .infinity ((f32.decode x).add ((f32.decode a).mul (f32.decode b)))).bits

/-- The sign of an F32 value flipped. -/
def negF32 (x : Nat) : Nat := x ^^^ 0x80000000

/-- The gradient row of a position as F32. -/
def gradRow (w : Work) (t : Table) (i : Nat) : List Nat :=
  let f := leField w.desc 3 1
  (leItems (elemBytes f) (w.data.drop (i * gradBytes w.desc t)) t.d).map (fun x => (cvtElem 5 f .even x).1)

/-- The gradient of a row: the sum in ascending position, or the last one under SET. -/
def gradSum (w : Work) (t : Table) (is : List Nat) : List Nat :=
  match is with
  | [] => []
  | i :: rest =>
    if leField w.desc 1 1 = 0 then gradRow w t (rest.getLastD i)
    else rest.foldl (fun a j => (a.zip (gradRow w t j)).map (fun x => addF32 x.1 x.2)) (gradRow w t i)

/-- Row and state row after an update, R229; `own` is what a CUSTOM program computed for row and state rows. -/
def updated (opt lr beta : Nat) (r m g own : List Nat) (d : Nat) : List Nat × List Nat :=
  match opt with
  | 0 => (g, [])
  | 1 => ((r.zip g).map (fun x => addF32 x.1 x.2), [])
  | 2 => ((r.zip g).map (fun x => fmaF32 x.1 (negF32 lr) x.2), [])
  | 3 =>
    let m' := (m.zip g).map (fun x => fmaF32 x.2 beta x.1)
    ((r.zip m').map (fun x => fmaF32 x.1 (negF32 lr) x.2), m')
  | _ => (own.take d, own.drop d)

/-- Writes bytes at offset o of a row group: into its tier, and into every replica of its swatch the parts that lie in held blocks
(row record only, R281). A write to T2 or T3 goes out to the holder. -/
def State.writeRow (s : State) (h row : Nat) (p : Place) (o : Nat) (isRecord : Bool) (bs : List Byte) : State :=
  let s := if p.tier = 0 then s.busWrite (p.addr + o) bs
           else s.emit (.note 1 (h :: row :: p.tier :: (p.addr + o) :: bs.map (·.toNat)))
  let s := s.wroteUnit h (row / max 1 (s.rowShape h).2) (p.addr % 0x10000 + o) bs.length
  match (if isRecord then s.swatchOf p else none) with
  | none => s
  | some e =>
    (List.range (eGet e 2 1)).foldl (fun s r => (List.range (ceilDiv bs.length 32)).foldl (fun s j =>
      match replicaOffset e r (p.addr % 0x10000 + o + 32 * j) with
      | some a => let b := (replica e r).1; (s.wakeBristle b).sramWrite b (sramAddr b a) ((bs.drop (32 * j)).take 32)
      | none => s) s) s

/-- Bytes padded with zeros to n. -/
def padTo (n : Nat) (bs : List Byte) : List Byte := bs ++ List.replicate (n - bs.length) 0

/-- What an UPDATE record has brought so far. -/
structure UpdRun where
  s : State
  ev : List (Status × Nat)
  own : List Nat
  rows : Nat
  rem : Nat
  ref : Bool
  wait : Bool
  out : List Nat

/-- One row of an UPDATE record whose last position it holds: read where the optimizer needs it, updated once with the sum over all its
positions, converted and written (R229, R230). A tier's write is awaited (R291). -/
def updateRow (w : Work) (t : Table) (rc : WRec) (r : UpdRun) (row : Nat) : UpdRun :=
  let h := leField w.desc 4 4
  let x := w.desc
  let opt := leField x 1 1
  let is := (List.range w.idx.length).filter (fun i => w.idx.getD i 0 == row)
  let first := is.headD 0
  let per := t.d * (1 + t.st)
  let skip := fun (s : State) (st : Status) => { r with s := s, ev := r.ev ++ [(st, first)], own := if opt = 4 then r.own.drop per else r.own }
  match r.s.resolveRow h row (r.s.relStamp h (row / max 1 (r.s.rowShape h).2) rc.stamp) with
  | none => skip r.s .poisoned
  | some p =>
    let len := rowRecord t.mode t.fmt t.d
    let far := p.tier ≠ 0
    let tier := smGet w.tier first
    let done := fun (s : State) (ref : Bool) =>
      { r with s := s, rows := r.rows + 1, rem := r.rem + (if far then 1 else 0), ref := r.ref || ref, out := if far then first :: r.out else r.out }
    if bit (leField x 2 1) 6 then done (r.s.writeRow h row p 0 true (padTo len ((w.data.drop (is.getLastD 0 * gradBytes x t)).take len))) false
    else
      let need := if opt = 0 then 0 else if opt = 3 ∨ opt = 4 then len + t.st * stateRow t.d else len
      let got := if need = 0 then (r.s, RowRead.bytes [] false false false) else r.s.readRow p rc.lead len need false tier
      match got with
      | (s, .poisoned) => skip s .poisoned
      | (s, .unreachable) => skip s .tierUnreachable
      | (_, .awaited) => { r with wait := true }
      | (s, .bytes bs _ _ ref) =>
        let rowF := (leItems (elemBytes t.fmt) bs t.d).map (fun v => (cvtElem 5 t.fmt .even v).1)
        let m := leItems 4 (bs.drop len) t.d
        let (rv, mv) := updated opt (leField x 0x20 4) (leField x 0x24 4) rowF m (gradSum w t is) (r.own.take per) t.d
        let sr := bit (leField x 2 1) 5
        let br := s.br rc.lead
        let (es, g) := cvtList t.fmt 5 sr br.srState rv
        let s := if sr then s.setBr rc.lead { br with srState := g } else s
        let s := s.writeRow h row p 0 true (padTo len (es.flatMap (fun e => leBytes (elemBytes t.fmt) e.1)))
        let s := if mv.isEmpty then s else (List.range (ceilDiv mv.length t.d)).foldl (fun s j =>
          s.writeRow h row p (len + j * stateRow t.d) false (padTo (stateRow t.d) (((mv.drop (j * t.d)).take t.d).flatMap (leBytes 4)))) s
        { done s ref with own := if opt = 4 then r.own.drop per else r.own }

/-- An UPDATE record is finished: its rows are changed, then its swatch replicas; a row named more often than a record holds is changed
with its last one. Records of one bristle are served in the order in which they reached it, and a queue's updates of one table
in queue order (R231). -/
def State.doneUpdate (s : State) (k : Nat) (w : Work) (t : Table) (rc : WRec) (vals : List Nat) : Option State :=
  let h := leField w.desc 4 4
  let later := fun (row : Nat) => w.recs.any (fun x => decide (x.ord > rc.ord) && x.poss.any (fun i => w.idx.getD i 0 == row))
  let rows := ((rc.poss.map (fun i => w.idx.getD i 0)).eraseDups).filter (fun row => !later row)
  let earlier := s.works.any (fun v => v.2.kind == 0x11 && v.2.names h &&
    v.2.slice == w.slice && v.2.queue == w.queue && decide (v.1 < k) &&
      (v.2.waiting ++ v.2.recs.flatMap (·.poss)).any (fun i => rows.contains (v.2.idx.getD i 0)))
  let r := rows.foldl (updateRow w t rc) ⟨s, [], vals, 0, 0, false, false, []⟩
  if earlier || r.wait || !s.inboxTurn w.slice rc || (leField w.desc 1 1 = 4 && vals.length != rows.length * t.d * (1 + t.st)) then none
  else some (r.s.setWork k { w with
      recs := w.recs.filter (fun x => x.ord != rc.ord), events := w.events ++ r.ev, rows := w.rows + r.rows, remote := w.remote + r.rem,
      tierOut := r.out ++ w.tierOut, info := if r.ref then putBits w.info 1 1 1 else w.info })

end Machine
end Sys2Proof
end

