-- ==== Sys2Proof/Machine/Attention.lean ====
section
/-!
DEFINITION. Key/value caches, sequences, attention steps and bulk appends (spec 10), and the commands that table and attention
work share: WORK_FORWARD, WORK_RECORD_DONE, OUTPUT_DELIVERY.
-/
namespace Sys2Proof
namespace Machine

/-! ### Caches and sequences, R237 to R239 -/

/-- Does a cache descriptor keep every value of R237? -/
def State.cacheDescOk (s : State) (sl : Nat) (x : List Byte) : Bool :=
  let kvh := leField x 2 1
  let grp := leField x 3 1
  let run := leField x 7 1
  let sc := leField x 8 4
  decide (1 ≤ leField x 0 2 ∧ leField x 0 2 ≤ 256) && ([1, 2, 4, 8, 16, 32, 64] : List Nat).contains kvh &&
    ([1, 2, 4, 8] : List Nat).contains grp && decide (kvh * grp ≤ 128) && ([64, 128, 256] : List Nat).contains (leField x 4 2) &&
    decide (1 ≤ leField x 6 1 ∧ leField x 6 1 ≤ 2 ∧ 1 ≤ run ∧ run ≤ 16 ∧ kvh * grp * run ≤ 512) &&
    getBits sc 30 23 != 255 && sc % 2 ^ 31 != 0 && decide (1 ≤ leField x 0xC 4 ∧ leField x 0xC 4 ≤ 65536) &&
    leField x 0x10 4 % 32 == 0 && decide (32 ≤ leField x 0x10 4 ∧ leField x 0x10 4 ≤ 2 ^ 20) && s.progOk sl (leField x 0x14 4) &&
    leField x 0x18 8 == 0

/-- Creates a cache from its descriptor. Where its sequence index lies is firmware's own and left open. -/
def State.makeCache (s : State) (sl : Nat) (x : List Byte) : Except Status (Nat × State) :=
  if !s.serialLeft sl ∨ s.kvc.length ≥ 256 ∨ (s.kvc.filter (fun c => c.2.slice == sl)).length ≥ s.quota sl 4 then .error .quotaExceeded
  else match smLowestFree s.cmp.dir (fun _ => true) 4096 256 with
    | none => .error .quotaExceeded
    | some di =>
      let c : Cache := { slice := sl, layers := leField x 0 2, kvh := leField x 2 1, group := leField x 3 1, hd := leField x 4 2,
                         fmt := leField x 6 1, run := leField x 7 1, scale := leField x 8 4, maxSeq := leField x 0xC 4,
                         maxPos := leField x 0x10 4, prog := leField x 0x14 4, dying := none }
      let (h, s) := s.newHandle sl
      let (a0, s) := s.fresh 64
      let (a1, s) := s.fresh 64
      let e := eSet (eSet (eSet (eSet (eSet (eSet (eSet 0 0 4 h) 4 1 2) 8 8 a0) 0x10 8 a1) 0x18 2 c.run) 0x1A 2 c.runsPerHg) 0x1C 4 sl
      .ok (h, { s with kvc := smSet s.kvc h c, cmp := { s.cmp with dir := smSet s.cmp.dir di e } })

/-- CACHE_CREATE, R237. -/
def execCacheCreate (ch addr : Nat) (s : State) : Host.Outcome State Fault Refusal :=
  .next (s.serve ch 0x32 [(1, addr % 2 ^ 32), (2, addr / 2 ^ 32)] 0 .bound true (fun sl s =>
    match s.readBlock sl addr 32 with
    | .error st => refuseCmd s st 1
    | .ok (s1, x) =>
      if !s1.cacheDescOk sl x then refuseCmd s .badDescriptor 1
      else match s1.makeCache sl x with
      | .error st => refuseCmd s st
      | .ok (h, s2) => okCmd s2 [h]))

/-- Regions of one copy of a sequence's run-entry array, R266. -/
def Cache.arrayRegions (c : Cache) : Nat := ceilDiv (c.layers * c.hgCount * c.runsPerHg * 32) 0x10000

/-- Are regions fit for the two copies of a run-entry array: n free ones of the woven bands? -/
def State.arrayOk (s : State) (n : Nat) (regions : List Nat) : Bool :=
  regions.length == n && regions.eraseDups.length == n && regions.all (fun r => s.regionFree r && !s.isLocal r)

/-- Runs of one sequence of a cache, R266. -/
def Cache.runCount (c : Cache) : Nat := c.layers * c.hgCount * c.runsPerHg

/-- Creates an empty sequence: no run of its array is allocated. -/
def State.makeSeq (s : State) (sl cache : Nat) (regions : List Nat) : Nat × State :=
  let (h, s) := s.newHandle sl
  let s := s.takeRegions (128 + sl) regions
  let s : State := { s with seqs := smSet s.seqs h { units := regions, cache := cache, lens := [], truncTo := none, dying := none } }
  let n := match smGet s.kvc cache with | some c => c.runCount | none => 0
  (h, (List.range n).foldl (fun s i => s.entryBytes (runKey h i) (freeRunEntry (runKey h i))) s)

/-- SEQ_CREATE, R239, R266: `regions` are the woven regions firmware takes for the two copies of the run-entry array. -/
def execSeqCreate (ch cache : Nat) (regions : List Nat) (s : State) : Host.Outcome State Fault Refusal :=
  .next (s.serve ch 0x34 [(1, cache)] (cache / 2 ^ 26) .bound false (fun sl s =>
    match smGet s.kvc cache with
    | none => refuseCmd s .badHandle 1
    | some c =>
      let n := 2 * c.arrayRegions
      if c.slice ≠ sl ∨ c.dying.isSome then refuseCmd s .badHandle 1
      else if (s.seqs.filter (fun q => q.2.cache == cache)).length ≥ c.maxSeq || !s.serialLeft sl then refuseCmd s .quotaExceeded
      else if !s.fits sl n then (if s.maySpill sl && !regions.isEmpty then laterCmd s else refuseCmd s .quotaExceeded)
      else if !s.arrayOk n regions then laterCmd s
      else
        let (h, s) := s.makeSeq sl cache regions
        okCmd s [h]))

/-- LEN of a layer. -/
def Seq.len (q : Seq) (l : Nat) : Nat := smGetD q.lens l 0

/-- Does an entry for a sequence of a descriptor that was among the first k to reach an entry palette still run or wait, or has Varnish
still to read the sequence (R246, R549)? -/
def State.seqBusy (s : State) (h k : Nat) : Bool :=
  s.vrnNeeds h || s.works.any (fun w => decide (w.2.arr ≠ 0 ∧ w.2.arr ≤ k) && w.2.ents.any (fun e => e.seqH == h && decide (e.phase < 2)))

/-- The T1 pages of a run that lie wholly at or beyond position n, of a run starting at page p0. -/
def runPages (w : Place) (c : Cache) (p0 n : Nat) : List Nat :=
  ((List.range c.run).filter (fun j => decide (n ≤ 32 * (p0 + j)))).map (fun j => pageAddr w c j / 0x10000)

/-- Frees what a sequence holds at or beyond position n (R239): pages, and runs of which no page is left. -/
def State.freeFrom (s : State) (h n : Nat) : State :=
  match smGet s.seqs h with
  | none => s
  | some q =>
    match smGet s.kvc q.cache with
    | none => s
    | some c =>
      (s.cmp.run.filter (fun r => r.1 / 2 ^ 32 == h)).foldl (fun s r =>
        let i := r.1 % 2 ^ 32
        let p0 := i % c.runsPerHg * c.run
        let whole := decide (n ≤ 32 * p0)
        let stop := fun (k : Copy) => k.handle == h && k.unit == i && whole
        let s := s.dropCopies stop
        match s.runPlace h i (s.epoch q.cache) with
        | some w =>
          let pages := if w.tier = 0 then runPages w c p0 n else []
          if whole then
            let s := s.freeRegions (pages ++ (if w.tier = 0 then (List.range c.run).map (fun j => pageAddr w c j / 0x10000) else []))
            { s.dropRun r.1 with shards := smDel s.shards r.1 }
          else pages.foldl (fun s a => if smGet s.own a = some c.slice then { s with own := smSet s.own a (256 + c.slice) } else s) s
        | none => s) s

/-- Truncates every layer to n. -/
def State.truncate (s : State) (h n : Nat) : State :=
  match smGet s.seqs h with
  | none => s
  | some q =>
    let s := s.freeFrom h n
    { s with seqs := smSet s.seqs h { q with lens := smMap q.lens (fun _ l => min l n), truncTo := none } }

/-- A sequence goes, with every page and its array. -/
def State.purgeSeq (s : State) (h : Nat) : State :=
  match smGet s.seqs h with
  | none => s
  | some q =>
    let s := s.freeFrom h 0
    let gone := (s.cmp.drains.filter (fun d => d.runs.any (fun r => r / 2 ^ 32 == h))).flatMap (·.freed)
    let s := s.freeRegions (q.units ++ (if s.cmp.drains.any (fun d => d.runs.any (fun r => r / 2 ^ 32 != h)) then [] else gone))
    { s with seqs := smDel s.seqs h, shards := smDelIf s.shards (fun k => k / 2 ^ 32 == h) }

/-- A cache goes from the directory. -/
def State.purgeCache (s : State) (h : Nat) : State :=
  { s with kvc := smDel s.kvc h,
           cmp := { s.cmp with dir := s.cmp.dir.filter (fun e => eGet e.2 0 4 != h), drains := s.cmp.drains.filter (fun d => d.handle != h) } }

/-- Truncations and destructions whose earlier entries have completed take effect, and their commands complete. A truncation comes before
a destruction that followed it. -/
def State.endSeqs (s : State) : State :=
  let s := s.seqs.foldl (fun s q => match q.2.truncTo with
    | some (n, ch, k) => if s.seqBusy q.1 k then s else (s.truncate q.1 n).ack ch .ok 0 [q.1]
    | none => s) s
  let s := s.seqs.foldl (fun s q => match q.2.dying with
    | some (ch, k) => if s.seqBusy q.1 k || q.2.truncTo.isSome then s else (s.purgeSeq q.1).ack ch .ok 0 [q.1]
    | none => s) s
  (s.kvc.filter (fun c => c.2.dying.isSome && !s.seqs.any (fun q => q.2.cache == c.1) && !s.works.any (fun w => w.2.names c.1))).foldl
    (fun s c => (s.purgeCache c.1).ack (c.2.dying.getD 320) .ok 0 [c.1]) s

/-- The live sequence of a slice, if it is one. -/
def State.liveSeq (s : State) (sl h : Nat) : Option Seq :=
  match smGet s.seqs h with
  | some q => if h / 2 ^ 26 = sl ∧ q.dying.isNone then some q else none
  | none => none

/-- SEQ_TRUNCATE, R239. -/
def execSeqTruncate (ch handle len : Nat) (s : State) : Host.Outcome State Fault Refusal :=
  .next (s.serve ch 0x35 [(1, handle), (2, len)] (handle / 2 ^ 26) .bound false (fun sl s =>
    match s.liveSeq sl handle with
    | none => refuseCmd s .badHandle 1
    | some q =>
      if q.truncTo.isSome then refuseCmd s .busy 1
      else laterCmd { s with seqs := smSet s.seqs handle { q with truncTo := some (len, ch, s.cmp.arrived) } }.endSeqs))

/-- SEQ_DESTROY, R239. -/
def execSeqDestroy (ch handle : Nat) (s : State) : Host.Outcome State Fault Refusal :=
  .next (s.serve ch 0x36 [(1, handle)] (handle / 2 ^ 26) .bound false (fun sl s =>
    match s.liveSeq sl handle with
    | none => refuseCmd s .badHandle 1
    | some q => laterCmd { s with seqs := smSet s.seqs handle { q with dying := some (ch, s.cmp.arrived) } }.endSeqs))

/-- CACHE_DESTROY, R239: every sequence of the cache, then the cache. -/
def execCacheDestroy (ch handle : Nat) (s : State) : Host.Outcome State Fault Refusal :=
  .next (s.serve ch 0x33 [(1, handle)] (handle / 2 ^ 26) .bound false (fun sl s =>
    match smGet s.kvc handle with
    | none => refuseCmd s .badHandle 1
    | some c =>
      if c.slice ≠ sl ∨ c.dying.isSome then refuseCmd s .badHandle 1
      else laterCmd { s with kvc := smSet s.kvc handle { c with dying := some ch },
                             seqs := smMap s.seqs (fun _ q => if q.cache = handle ∧ q.dying.isNone then { q with dying := some (320, s.cmp.arrived) } else q) }.endSeqs))

/-! ### Descriptors, R242 to R244, R255 -/

/-- The live cache of a slice, if it is one. -/
def State.liveCache (s : State) (sl h : Nat) : Option Cache :=
  match smGet s.kvc h with
  | some c => if c.slice = sl ∧ c.dying.isNone then some c else none
  | none => none

/-- Query heads. -/
def Cache.qh (c : Cache) : Nat := c.kvh * c.group

/-- Bytes of one entry's new key and value in a format. -/
def Cache.newBytes (c : Cache) (f : Nat) : Nat := 2 * c.kvh * c.hd * elemBytes f

/-- Bytes of one entry's queries or outputs in a format. -/
def Cache.headBytes (c : Cache) (f : Nat) : Nat := c.qh * c.hd * elemBytes f

/-- The fields of R242. -/
def stepFieldsOk (x : List Byte) (c : Cache) : Bool :=
  let fl := leField x 1 1
  let app := bit fl 2
  decide (fl &&& 0xE8 = 0 ∧ 1 ≤ leField x 2 1 ∧ leField x 2 1 ≤ 4 ∧ 3 ≤ leField x 3 1 ∧ leField x 3 1 ≤ 5 ∧ leField x 8 2 < c.layers ∧
      1 ≤ leField x 0xA 2 ∧ leField x 0xA 2 ≤ 256) && (!app || decide (1 ≤ leField x 0xC 1 ∧ leField x 0xC 1 ≤ 4)) &&
    collectorOk (leField x 0xD 1) && leField x 0xE 2 == 0 && leField x 0x38 4 == 0 && leField x 0x10 8 % 8 == 0 && leField x 0x18 8 % 64 == 0 &&
    (if app then leField x 0x20 8 % 64 == 0 else leField x 0x20 8 == 0) && leField x 0x28 8 % 64 == 0 && leField x 0x30 8 % 32 == 0

/-- An entry that waits. -/
def newEntry (seqH layer pos n : Nat) : AttEntry :=
  { seqH := seqH, layer := layer, pos := pos, n := n, phase := 0, status := .ok, appended := false, bound := 0, todo := [] }

/-- ATTENTION_STEP, R242 to R245. -/
def execAttentionStep (sl q : Nat) (ents qry new : HostData) (el : Nat) (s : State) : Host.Outcome State Fault Refusal :=
  match s.frontSlot sl q 0x20 1 with
  | (s1, none) => .next s1
  | (_, some (w, x)) =>
    let p := w.port
    let (s1, info) := s.popSlot w
    let fail := fun (st : Status) => Host.Outcome.next (s1.completeBare p sl q x st info el)
    match s.liveCache sl (leField x 4 4) with
    | none => fail .badHandle
    | some c =>
      if !stepFieldsOk x c then fail .badDescriptor
      else
        let num := leField x 0xA 2
        let eN := 8 * num
        let qN := num * c.headBytes (leField x 2 1)
        let nN := if bit (leField x 1 1) 2 then num * c.newBytes (leField x 0xC 1) else 0
        let oN := num * c.headBytes (leField x 3 1)
        match s.translate p sl [(leField x 0x10 8, eN, false), (leField x 0x18 8, qN, false), (leField x 0x20 8, nN, false),
            (leField x 0x28 8, oN, true), (leField x 0x30 8, 32 + num, true)] with
        | some st => fail st
        | none =>
          match s1.readLists p sl [(leField x 0x10 8, eN, ents), (leField x 0x18 8, qN, qry), (leField x 0x20 8, nN, new)] with
          | none => .next s
          | some (_, .error st) => fail st
          | some (s2, .ok ls) =>
            let es := (List.range num).map (fun e => newEntry (leField (ls.headD []) (8 * e) 4) (leField x 8 2) (leField (ls.headD []) (8 * e + 4) 4) 1)
            .next (s2.accept { Work.base 0x20 sl (s.curGen sl) w x info with
              ents := es, data := ls.getD 1 [], newData := ls.getD 2 [],
              outPasid := s.outPasid p sl (leField x 0x28 8) oN, cplPasid := s.outPasid p sl (leField x 0x30 8) (32 + num) })

/-- The fields of R255. -/
def appendFieldsOk (x : List Byte) (c : Cache) : Bool :=
  decide (leField x 1 1 &&& 0xEF = 0 ∧ 1 ≤ leField x 2 1 ∧ leField x 2 1 ≤ 4 ∧ leField x 3 1 = 0 ∧ 1 ≤ leField x 0x10 4 ∧ leField x 0x10 4 ≤ 65536 ∧
      1 ≤ leField x 0x16 2 ∧ leField x 0x14 2 + leField x 0x16 2 ≤ c.layers ∧ leField x 0x20 8 = 0 ∧ leField x 0x28 8 = 0 ∧
      leField x 0x30 8 % 32 = 0 ∧ leField x 0x38 4 = 0)

/-- KV_APPEND, R255. -/
def execKvAppend (sl q : Nat) (src : HostData) (el : Nat) (s : State) : Host.Outcome State Fault Refusal :=
  match s.frontSlot sl q 0x21 1 with
  | (s1, none) => .next s1
  | (_, some (w, x)) =>
    let p := w.port
    let (s1, info) := s.popSlot w
    let fail := fun (st : Status) => Host.Outcome.next (s1.completeBare p sl q x st info el)
    match s.liveCache sl (leField x 4 4) with
    | none => fail .badHandle
    | some c =>
      if !appendFieldsOk x c then fail .badDescriptor
      else
        let n := leField x 0x10 4
        let sN := leField x 0x16 2 * n * c.newBytes (leField x 2 1)
        match s.translate p sl [(leField x 0x18 8, sN, false), (leField x 0x30 8, 32, true)] with
        | some st => fail st
        | none =>
          match s1.readLists p sl [(leField x 0x18 8, sN, src)] with
          | none => .next s
          | some (_, .error st) => fail st
          | some (s2, .ok ls) =>
            let es := (List.range (leField x 0x16 2)).map (fun i => newEntry (leField x 8 4) (leField x 0x14 2 + i) (leField x 0xC 4) n)
            .next (s2.accept { Work.base 0x21 sl (s.curGen sl) w x info with
              ents := es, newData := ls.headD [], cplPasid := s.outPasid p sl (leField x 0x30 8) 32 })

/-! ### Placing runs, R264, R284 -/

/-- The stretchers a palette's ports reach, R24. -/
def palStretchers (p : Nat) : List Nat := match p % 5 with | 0 => [0] | 1 => [0, 1] | 2 => [1, 2] | 3 => [2, 3] | _ => [3]

/-- hops of R284. -/
def hops (p q : Nat) : Nat :=
  if p = q then 0
  else if (palStretchers p).any (palStretchers q).contains ∨ (p / 5 = q / 5 ∧ (p % 5 = 0 ∧ q % 5 = 4 ∨ p % 5 = 4 ∧ q % 5 = 0)) then 1
  else 2

/-- Does f hold somewhere below n? -/
def anyBelow (f : Nat → Bool) : Nat → Bool
  | 0 => false
  | n + 1 => f n || anyBelow f n

/-- Are n consecutive regions from r free, within one piece of a local band? -/
def State.runFits (s : State) (r n : Nat) : Bool :=
  s.isLocal r && r / 0x4000 == (r + n - 1) / 0x4000 && (List.range n).all (fun i => s.regionFree (r + i))

/-- Has a stack n consecutive free regions in a local band? -/
def State.stackRoom (s : State) (m n : Nat) : Bool :=
  anyBelow (fun b => anyBelow (fun i => s.runFits (b * bandRegions + m * 0x4000 + i) n) 0x4000) s.localBands

/-- The stack of a T1 run. -/
def runStackOf (e : Nat) : Option Nat :=
  let t := slotOf (eGet e 0 8)
  if t.tier = 0 then some (localStack t.loc) else none

/-- Reserved runs of a cache on a stack. -/
def State.runsOn (s : State) (cache m : Nat) : Nat :=
  (s.cmp.run.filter (fun r => runStackOf r.2 == some m && (match smGet s.seqs (r.1 / 2 ^ 32) with | some q => q.cache == cache | none => false))).length

/-- The best of a list, an earlier one on a tie. -/
def argMin (f : Nat → Nat) : List Nat → Option Nat
  | [] => none
  | a :: l => match argMin f l with | some b => some (if f a ≤ f b then a else b) | none => some a

/-- The stack R264 chooses for a run of a cache; none where no stack has room. -/
def State.runStack (s : State) (sl cache n : Nat) : Option Nat :=
  let own := (s.slicePalettes sl).flatMap (fun p => [2 * p, 2 * p + 1])
  match argMin (s.runsOn cache) (own.filter (fun m => s.stackRoom m n)) with
  | some m => some m
  | none => argMin (s.runsOn cache) (((List.range 20).filter (fun m => !own.contains m)).filter (fun m => s.stackRoom m n))

/-- The home bristle R264 chooses beside a stack. -/
def State.runHome (s : State) (sl m : Nat) : Option Nat :=
  match argMin (hops (m / 2)) (s.slicePalettes sl) with
  | none => none
  | some p => argMin (fun b => (s.cmp.run.filter (fun r => (slotOf (eGet r.2 0 8)).home == b)).length) (s.bristlesOn sl p)

/-- Reserves a run where firmware places it: none where the place does not follow R264. -/
def State.reserveRun (s : State) (c : Cache) (cache seqH i : Nat) (w : UnitPlace) : Option State :=
  if w.tier = 0 ∧ s.runFits w.loc c.run ∧ s.runStack c.slice cache c.run = some (localStack w.loc) ∧
      s.runHome c.slice (localStack w.loc) = some w.home then
    let s := s.takeRegions (256 + c.slice) ((List.range c.run).map (w.loc + ·))
    some (s.putRun (runKey seqH i) (mapEntry32 (slotVal { tier := 0, home := w.home, loc := w.loc, swidx := 0 }) 0 i seqH))
  else none

/-! ### Pages, R240, R241 -/

/-- Offset in a page of the key element (head slot k of the page, position pp of it, dimension dim). -/
def keyOffset (hd k pp dim : Nat) : Nat := k * 64 * hd + pp / 16 * 16 * hd + 64 * (dim / 4) + 16 * (dim % 4) + pp % 16

/-- Offset in a page of the value element. -/
def valOffset (hd k pp dim : Nat) : Nat :=
  k * 64 * hd + 32 * hd + pp / 16 * 16 * hd + 64 * (4 * (dim / 16) + pp % 16 / 4) + 16 * (pp % 4) + dim % 16

/-- KV heads of head group g. -/
def Cache.headsOf (c : Cache) (g : Nat) : Nat := min c.hg (c.kvh - g * c.hg)

/-- An element converted to the cache's format, and whether it saturated, R243: one in that format already stays as it is. -/
def Cache.conv (c : Cache) (f x : Nat) : Nat × Bool :=
  if f = c.fmt then (x, false) else let r := cvtElem c.fmt f .even x; (r.1, bit r.2 4)

/-- The elements of a piece of new data or queries, converted: bytes and whether any saturated. -/
def Cache.convList (c : Cache) (f : Nat) (bs : List Byte) (n : Nat) : List Byte × Bool :=
  let es := (leItems (elemBytes f) bs n).map (c.conv f)
  (es.flatMap (fun e => leBytes 1 e.1), es.any (·.2))

/-- What byte o of a head slot holds, R241: of the values, the position in the page, the dimension. -/
def slotElem (hd o : Nat) : Bool × Nat × Nat :=
  let r := o % (32 * hd)
  let v := r % (16 * hd) / 64
  let e := r % 64
  if o / (32 * hd) = 0 then (false, r / (16 * hd) * 16 + e % 16, 4 * v + e / 16)
  else (true, r / (16 * hd) * 16 + 4 * (v % 4) + e / 16, 16 * (v / 4) + e % 16)

/-- A masked write of one burst: whole where every byte is given, else merged (R188, R201). -/
def State.maskWrite (s : State) (k : Nat) (bs : List (Option Byte)) : State :=
  let r := ((s.wakeStacks (32 * k) 32).countBursts 2 (32 * k) 32).writeBurst k (bs.all (·.isSome))
  if r.2 then ((List.range 32).zip bs).foldl (fun s b => match b.2 with | some v => s.memPut (32 * k + b.1) [v] | none => s) r.1 else r.1

/-- Where a run lies for an append, R273. -/
def State.tailPlace (s : State) (seqH i stamp : Nat) : Option Place := s.runPlace seqH i (s.relStamp seqH i stamp)

/-- Writes the new keys and values of an entry's positions that fall in page pg of head group g, burst by burst: `kv i` holds the keys of
all KV heads, then the values, of position i of the entry, converted already. -/
def State.writePage (s : State) (c : Cache) (x : AttEntry) (stamp g pg : Nat) (kv : Nat → List Byte) : State :=
  let i := c.runIndex x.layer g (pg / c.run)
  match s.tailPlace x.seqH i stamp with
  | none => s
  | some w =>
    (List.range (c.headsOf g)).foldl (fun s k => (List.range (2 * c.hd)).foldl (fun s j =>
      let bs := (List.range 32).map (fun o =>
        let (v, pp, dim) := slotElem c.hd (32 * j + o)
        let pos := 32 * pg + pp
        if x.pos ≤ pos ∧ pos < x.pos + x.n then (kv (pos - x.pos))[((if v then c.kvh else 0) + g * c.hg + k) * c.hd + dim]? else none)
      if bs.all (·.isNone) then s
      else
        let o := k * 64 * c.hd + 32 * j
        (s.maskWrite ((pageAddr w c pg + o) / 32) bs).wroteUnit x.seqH i (pg % c.run * 0x10000 + o) 32) s) s

/-! ### Starting an entry, R246, R247 -/

/-- Has every entry accepted earlier for the sequence and layer completed? Descriptors count from their arrival at the entry palette
(R246). -/
def State.entryTurn (s : State) (k e : Nat) (x : AttEntry) (arr : Nat) : Bool :=
  s.works.all (fun w => if w.2.arr = 0 ∨ w.2.arr > arr then true else ((List.range w.2.ents.length).zip w.2.ents).all (fun y =>
    (w.1 == k && decide (e ≤ y.1)) || y.2.seqH != x.seqH || y.2.layer != x.layer || y.2.phase == 2))

/-- Pages, by number, that hold positions of an entry. -/
def AttEntry.pages (x : AttEntry) : List Nat := (List.range ((x.pos + x.n - 1) / 32 + 1 - x.pos / 32)).map (x.pos / 32 + ·)

/-- Runs, by number in the head group, that hold positions of an entry. -/
def AttEntry.runs (x : AttEntry) (c : Cache) : List Nat := (x.pages.map (· / c.run)).eraseDups

/-- The runs an append opens, run by run and head group by head group: those with no entry yet (R264). -/
def State.newRuns (s : State) (c : Cache) (x : AttEntry) : List (Nat × Nat) :=
  ((x.runs c).flatMap (fun u => (List.range c.hgCount).map (fun g => (u, g)))).filter (fun p =>
    (smGet s.cmp.run (runKey x.seqH (c.runIndex x.layer p.2 p.1))).isNone)

/-- Is a page allocated: is its region charged to the slice (R240, R257)? -/
def State.pageTaken (s : State) (c : Cache) (x : AttEntry) (stamp g pg : Nat) : Bool :=
  match s.tailPlace x.seqH (c.runIndex x.layer g (pg / c.run)) stamp with
  | some w => smGet s.own (pageAddr w c pg / 0x10000) == some c.slice
  | none => false

/-- The pages an append allocates: (head group, page). One that an entry set back left allocated is not taken again (R247). -/
def State.newPages (s : State) (c : Cache) (x : AttEntry) (stamp : Nat) : List (Nat × Nat) :=
  (x.pages.flatMap (fun pg => (List.range c.hgCount).map (fun g => (g, pg)))).filter (fun p => !s.pageTaken c x stamp p.1 p.2)

/-- Reserves the runs an append opens, run by run and head group by head group; none where a place does not follow R264. -/
def State.reserveRuns (s : State) (c : Cache) (cache seqH layer : Nat) : List (Nat × Nat) → List UnitPlace → Option State
  | [], [] => some s
  | (u, g) :: l, w :: ws =>
    match s.reserveRun c cache seqH (c.runIndex layer g u) w with
    | some s => s.reserveRuns c cache seqH layer l ws
    | none => none
  | _, _ => none

/-- Allocates, zero-filled, the pages an append takes. -/
def State.takePages (s : State) (c : Cache) (x : AttEntry) (stamp : Nat) (ps : List (Nat × Nat)) : State :=
  ps.foldl (fun s p => match s.tailPlace x.seqH (c.runIndex x.layer p.1 (p.2 / c.run)) stamp with
    | some w => s.takeRegions c.slice [pageAddr w c p.2 / 0x10000]
    | none => s) s

/-- Reads the entry of a run, R272: a poisoned copy 0 is served from copy 1 and rewritten; false where both are poisoned. -/
def State.runMapRead (s : State) (p seqH i : Nat) : State × Bool :=
  match smGet s.seqs seqH with
  | none => (s, true)
  | some q =>
    let k0 := q.entryAddr 0 i / 32
    if !(s.burst k0).poison then (s, true)
    else if (s.burst (q.entryAddr 1 i / 32)).poison then (s.event CMP_ERR_STATUS_MAP_LOST p, false)
    else ((s.setBurst k0 { bad := 0, poison := false, noRefetch := false }).event CMP_ERR_STATUS_MAP_UE p, true)

/-- Is there a stack where firmware could place a run? -/
def State.anyRoom (s : State) (sl cache n : Nat) : Bool := (s.runStack sl cache n).isSome

/-- What starting an entry's append gives: held (not yet), failed, or done; `lost` where a run's entry cannot be read, so that its
positions are poisoned (R272). -/
inductive AppendRes where
  | held | quota | done (s : State) (lost : Bool)

/-- The append of R245 step 3 and R255: quota and room first, then runs, pages, the write, LEN. A unit HELD by a copy holds the
append (R285); spill may still make room unless the command names no place at all (R290). -/
def State.append (s : State) (c : Cache) (cache : Nat) (x : AttEntry) (stamp : Nat) (kv : Nat → List Byte) (runs : List UnitPlace) (more : Bool) :
    AppendRes :=
  match smGet s.seqs x.seqH with
  | none => .quota
  | some q =>
    let units := (x.runs c).flatMap (fun u => (List.range c.hgCount).map (fun g => c.runIndex x.layer g u))
    let opens := s.newRuns c x
    if units.any (s.unitHeld x.seqH) then .held
    else if s.isProtected s.vrn.prot x.seqH && decide (s.shards.length + opens.length > 2097152) then .quota
    else if !s.fits c.slice (s.newPages c x stamp).length then (if s.maySpill c.slice && more then .held else .quota)
    else if !opens.isEmpty && !s.anyRoom c.slice cache c.run then (if s.maySpill c.slice && more then .held else .quota)
    else match s.reserveRuns c cache x.seqH x.layer opens runs with
      | none => .held
      | some s =>
        let s := s.takePages c x stamp (s.newPages c x stamp)
        let r := units.foldl (fun (acc : State × List Nat) i =>
          let p := match acc.1.tailPlace x.seqH i stamp with | some w => w.home / 384 | none => 0
          let m := acc.1.runMapRead p x.seqH i
          (m.1, if m.2 then acc.2 else i :: acc.2)) (s, [])
        let s := x.pages.foldl (fun s pg => (List.range c.hgCount).foldl (fun s g =>
          if r.2.contains (c.runIndex x.layer g (pg / c.run)) then s else s.writePage c x stamp g pg kv) s) r.1
        .done { s with seqs := smSet s.seqs x.seqH { q with lens := smSet q.lens x.layer (x.pos + x.n) } } !r.2.isEmpty

/-- The first failed check of R246 before quotas, for a descriptor that was number `arr` to reach its entry palette. -/
def State.entryCheck (s : State) (arr : Nat) (c : Cache) (cache : Nat) (append : Bool) (x : AttEntry) : Option Status :=
  match smGet s.seqs x.seqH with
  | none => some .badHandle
  | some q =>
    if q.cache != cache || x.seqH / 2 ^ 26 != c.slice || (match q.dying with | some (_, m) => decide (m < arr) | none => false) then some .badHandle
    else if x.pos ≠ q.len x.layer then some .positionMismatch
    else if append ∧ x.pos + x.n > c.maxPos then some .kvQuota
    else none

/-- Replaces an entry. -/
def Work.setEnt (w : Work) (e : Nat) (x : AttEntry) : Work := { w with ents := w.ents.set e x }

/-- The runs an entry reads: (head group, run). -/
def Cache.runsBelow (c : Cache) (bound : Nat) : List (Nat × Nat) :=
  (List.range c.hgCount).flatMap (fun g => (List.range (ceilDiv bound (32 * c.run))).map (fun u => (g, u)))

/-- The queries of entry e for head group g, converted, head after head. -/
def Work.queriesOf (w : Work) (c : Cache) (e g : Nat) : List Byte × Bool :=
  let f := leField w.desc 2 1
  c.convList f (w.data.drop (e * c.headBytes f + g * c.hg * c.group * c.hd * elemBytes f)) (c.headsOf g * c.group * c.hd)

/-- The stamp at which an entry resolves run u of its layer, R273: its work's; for a run it appends to, that of the append. -/
def State.entryStamp (s : State) (c : Cache) (w : Work) (x : AttEntry) (i u : Nat) : Nat :=
  if x.appended && (x.runs c).contains u then s.relStamp x.seqH i w.stamp else w.stamp

/-- The home bristles of the runs of head group g that an entry reads, run by run: the ranks of its partials (R313). -/
def State.entryRanks (s : State) (c : Cache) (w : Work) (x : AttEntry) (g : Nat) : List Nat :=
  (List.range (ceilDiv x.bound (32 * c.run))).filterMap (fun u =>
    let i := c.runIndex x.layer g u
    (s.runPlace x.seqH i (s.entryStamp c w x i u)).map (·.home))

/-- The device slot of head group g of entry e (R249, R250). -/
def State.entrySlot (s : State) (c : Cache) (w : Work) (e : Nat) (x : AttEntry) (g : Nat) : DevSlot :=
  let heads := c.headsOf g * c.group
  { slice := w.slice, work := w.k, grp := e * 65536 + g, pos := e, ranks := s.entryRanks c w x g, op := 3, det := bit (leField w.desc 1 1) 0,
    cpp := ceilDiv heads 8 + heads * c.hd / 16, heads := heads, hdim := c.hd, got := [], drops := 0 }

/-- Posts the record of one run of an entry that has started, R245 step 4, R251; none where the place does not fit. -/
def State.postRun (s : State) (k e : Nat) (w : Work) (c : Cache) (x : AttEntry) (g u : Nat) (p : Place) (pl : RecPlace) : Option State :=
  let n := min c.run (ceilDiv (x.bound - u * 32 * c.run) 32)
  let refs := (List.range n).flatMap (fun j => leBytes 8 (pageAddr p c j) ++ leBytes 4 (min 32 (x.bound - (u * c.run + j) * 32)) ++ leBytes 4 e)
  let qs := (w.queriesOf c e g).1
  if s.inboxBusy p.home pl.slot || !s.inboxOk p.home c.prog pl.slot || decide (pl.refs + refs.length + qs.length > 0x40000) then none
  else
    let i := c.runIndex x.layer g u
    (s.devTarget (gatherUnit (leField w.desc 0xD 1) w.k e) pl.gather (s.entrySlot c w e x g)).map (fun (gt, s) =>
      let s := s.heatRun (p.home / 384) (runKey x.seqH i)
      let rec64 := recordBytes 4 0 n c.fmt c.group c.hd (sramAddr p.home pl.refs) gt (p.home * 65536)
        (sramAddr p.home (pl.refs + 16 * n)) c.scale 0 pl.done w.k
      let o := s.recNo
      let s := { (s.postRecord w.slice p.home pl rec64 (refs ++ qs)).turnRing p.home c.prog with recNo := o + 1 }
      let rc : WRec := { pal := p.home / 384, lead := p.home, entry := e, unit := g * 2 ^ 32 + u, poss := [], slot := pl.slot,
                         stamp := s.entryStamp c w x i u, ord := o }
      s.setWork k { w.setEnt e { x with todo := x.todo.filter (· != (g, u)) } with recs := w.recs ++ [rc] })

/-- Posts what an entry's palettes can post now (R245 step 4): a run whose home cannot take a record waits alone; one whose map entry is
lost makes the entry POISONED (R272). -/
def State.postRuns (s : State) (k e : Nat) (c : Cache) : List (Nat × Nat) → List RecPlace → State
  | [], _ => s
  | (g, u) :: rs, pls =>
    match s.work k with
    | none => s
    | some w =>
      match w.ents[e]? with
      | none => s
      | some x =>
        let i := c.runIndex x.layer g u
        let lost := fun (s : State) => s.setWork k { w.setEnt e { x with todo := x.todo.filter (· != (g, u)) } with
          events := w.events ++ [(Status.poisoned, e)], nan := w.nan ++ [e] }
        match s.runPlace x.seqH i (s.entryStamp c w x i u) with
        | none => (lost s).postRuns k e c rs pls
        | some p =>
          let r := s.runMapRead (p.home / 384) x.seqH i
          if !r.2 then (lost r.1).postRuns k e c rs pls
          else if !s.canPost w.slice p.home then s.postRuns k e c rs pls
          else match pls with
            | [] => s
            | pl :: pls => ((r.1.postRun k e w c x g u p pl).getD s).postRuns k e c rs pls

/-- An entry of a work item ends once every record of it is done and its gather slots are complete: its status, and LEN set back where it
had appended and failed (R247, R254). -/
def State.settleEntry (s : State) (k e : Nat) : State :=
  match s.work k with
  | none => s
  | some w =>
    match w.ents[e]? with
    | none => s
    | some x =>
      let st := (pickStatus attOrder (w.events.filter (fun v => v.2 == e))).1
      let open' := st == .ok && s.syn.dev.any (fun d => d.2.work == k && d.2.pos == e && !d.2.full)
      if x.phase ≠ 1 ∨ !(x.todo.isEmpty || stopsOutput st) ∨ w.recs.any (fun r => r.entry == e) ∨ open' then s
      else
        let s := s.setWork k (w.setEnt e { x with phase := 2, status := st, todo := [] })
        if x.appended ∧ stopsOutput st then
          match smGet s.seqs x.seqH with
          | some q => { s with seqs := smSet s.seqs x.seqH { q with lens := smSet q.lens x.layer x.pos } }
          | none => s
        else s

/-- ATTENTION_ENTRY_START, R245 to R247, R255, R264: an entry whose turn has come is checked, appends where it must, and posts the records
that its palettes can take; one that has started posts those that waited. `runs` and `places` are firmware's and the palettes'
choices. -/
def execAttentionEntryStart (w e : Nat) (runs : List UnitPlace) (places : List RecPlace) (s : State) : Host.Outcome State Fault Refusal :=
  match s.work w with
  | none => .next s
  | some k =>
    match k.ents[e]?, smGet s.kvc (leField k.desc 4 4) with
    | some x, some c =>
      let cache := leField k.desc 4 4
      let bulk := k.kind == 0x21
      let app := bulk || bit (leField k.desc 1 1) 2
      let waits := match smGet s.seqs x.seqH with
        | some q => (match q.truncTo with | some (_, _, m) => decide (m < k.arr) | none => false)
        | none => false
      if x.phase == 1 then .next (((s.postRuns w e c x.todo places).settleEntry w e).endSeqs)
      else if k.stage == 0 || x.phase != 0 || !s.entryTurn w e x k.arr || waits then .next s
      else
        let fail := fun (st : Status) => Host.Outcome.next ((s.setWork w ({ k with events := k.events ++ [(st, e)] }.setEnt e { x with phase := 2, status := st })).endSeqs)
        match s.entryCheck k.arr c cache app x with
        | some st => fail st
        | none =>
          let f := if bulk then leField k.desc 2 1 else leField k.desc 0xC 1
          let kv := fun (i : Nat) => c.convList f (k.newData.drop ((e * x.n + i) * c.newBytes f)) (2 * c.kvh * c.hd)
          let res := if app then s.append c cache x k.stamp (fun i => (kv i).1) runs (!places.isEmpty) else .done s false
          match res with
          | .held => .next s
          | .quota => fail .kvQuota
          | .done s lost =>
            let bound := if bulk then 0 else if app then x.pos + x.n else x.pos
            let x := { x with phase := 1, appended := app, bound := bound, todo := c.runsBelow bound }
            let sat := (app && (List.range x.n).any (fun i => (kv i).2)) ||
              (!bulk && (c.convList (leField k.desc 2 1) (k.data.drop (e * c.headBytes (leField k.desc 2 1))) (c.qh * c.hd)).2)
            let k := { k with info := if sat then putBits k.info 3 3 1 else k.info,
                              events := if lost then k.events ++ [(Status.poisoned, e)] else k.events, nan := if lost then k.nan ++ [e] else k.nan }
            .next ((((s.setWork w (k.setEnt e x)).postRuns w e c x.todo places).settleEntry w e).endSeqs)
    | _, _ => .next s

/-! ### The partial of a run and its merge, R248, R250 -/

/-- The partial of one query head over positions: `q` its query, `ks` and `vs` the keys and values of the attended positions in
ascending order, in the cache's format. -/
def headPartial (c : Cache) (q : List Nat) (ks vs : List (List Nat)) : HeadPart :=
  let f := fun (x : Nat) => (cvtElem 5 c.fmt .even x).1
  let dots := ks.map (fun k => mulF32 ((q.zip k).foldl (fun d x => fmaF32 d (f x.1) (f x.2)) 0) c.scale)
  let m := dots.foldl maxF32 0xFF800000
  let ws := dots.map (fun d => f (cvtElem c.fmt 5 .even (expF32 (subF32 d m)).1).1)
  { m := m, l := ws.foldl addF32 0,
    o := (List.range c.hd).map (fun i => (ws.zip vs).foldl (fun o x => fmaF32 o x.1 (f (x.2.getD i 0))) 0) }

/-- Reads the blocks of a run that hold attended positions: page by page, head slot by head slot. -/
def State.readPages (s : State) (c : Cache) (p : Place) (heads cnt : Nat) : State × Option (SMap (List Byte)) × Bool :=
  let jobs := (List.range (ceilDiv cnt 32)).flatMap (fun j => (List.range heads).flatMap (fun k =>
    (List.range (ceilDiv (min 32 (cnt - 32 * j)) 16)).flatMap (fun b =>
      [j * 0x10000 + k * 64 * c.hd + b * 16 * c.hd, j * 0x10000 + k * 64 * c.hd + 32 * c.hd + b * 16 * c.hd])))
  jobs.foldl (fun (acc : State × Option (SMap (List Byte)) × Bool) o =>
    let r := acc.1.stackRead (pageAddr p c (o / 0x10000) + o % 0x10000) (16 * c.hd)
    (r.state, match acc.2.1, r.bytes with | some m, some bs => some (smSet m o bs) | _, _ => none, acc.2.2 || r.refetched)) (s, some [], false)

/-- An element of a run's pages: from the blocks read, or from a tier's bytes. -/
def runByte (c : Cache) (blocks : SMap (List Byte)) (o : Nat) : Nat :=
  let b := o / (16 * c.hd) * (16 * c.hd)
  ((smGetD blocks b []).getD (o - b) 0).toNat

/-- Key of a tier read of attention work: entry and run. -/
def runTierKey (e unit : Nat) : Nat := e * 2 ^ 48 + unit

/-- An ATTN record is finished, R248: its partial goes to the entry's gather unit in the contributions of R249. A program of the slice's
own sends them itself, by GSEND (R251). None where a tier read is awaited or an earlier record of the inbox is not done. -/
def State.doneAttn (s : State) (k : Nat) (w : Work) (c : Cache) (rc : WRec) : Option State :=
  match w.ents[rc.entry]? with
  | none => none
  | some x =>
    let g := rc.unit / 2 ^ 32
    let u := rc.unit % 2 ^ 32
    let heads := c.headsOf g
    let cnt := min (32 * c.run) (x.bound - u * 32 * c.run)
    let drop := fun (w : Work) => { w with recs := w.recs.filter (fun r => r.ord != rc.ord) }
    let bad := fun (s : State) (st : Status) => some ((s.setWork k (drop { w with events := w.events ++ [(st, rc.entry)], nan := w.nan ++ [rc.entry] })).settleEntry k rc.entry)
    if !s.inboxTurn w.slice rc then none
    else match s.runPlace x.seqH (c.runIndex x.layer g u) rc.stamp with
    | none => bad s .poisoned
    | some p =>
      let pages := ceilDiv cnt 32
      let got : Option (State × Except Status (SMap (List Byte) × Bool)) :=
        if p.tier = 0 then
          let r := s.readPages c p heads cnt
          some (r.1, match r.2.1 with | some m => .ok (m, r.2.2) | none => .error .poisoned)
        else match smGet w.tier (runTierKey rc.entry rc.unit) with
          | none => none
          | some none => some (s, .error .tierUnreachable)
          | some (some bs) => some (s, .ok ((List.range (bs.length / (16 * c.hd))).map (fun i => (i * 16 * c.hd, (bs.drop (i * 16 * c.hd)).take (16 * c.hd))), false))
      match got with
      | none => none
      | some (s, .error st) => bad s st
      | some (s, .ok (blocks, ref)) =>
        let q := ((w.queriesOf c rc.entry g).1).map (·.toNat)
        let el := fun (off : Nat → Nat → Nat → Nat → Nat) (kh i : Nat) =>
          (List.range c.hd).map (fun dim => runByte c blocks (i / 32 * 0x10000 + off c.hd kh (i % 32) dim))
        let parts := (List.range (heads * c.group)).map (fun h =>
          let kh := h / c.group
          headPartial c ((q.drop (h * c.hd)).take c.hd) ((List.range cnt).map (el keyOffset kh)) ((List.range cnt).map (el valOffset kh)))
        let n := ceilDiv (heads * c.group) 8 + heads * c.group * c.hd / 16
        let lines := (List.range n).map (headsLine (heads * c.group) c.hd parts)
        let w := { w with rows := w.rows + pages, info := if ref then putBits w.info 1 1 1 else w.info,
                          remote := if p.tier = 0 then w.remote else w.remote + pages }
        let s := s.setWork k (drop w)
        let s := match c.prog == 0, s.devOf k (rc.entry * 65536 + g) with
          | true, some (u, n) => (s.sendDev (n + u * 65536) (rc.lead * 65536) w.slice lines).devFaults k
          | _, _ => s
        some (s.settleEntry k rc.entry)

/-! ### What both kinds of work share -/

/-- WORK_FORWARD, R224, R226, R273: a descriptor reaches its entry palette, in queue order; table work is stamped and its records
are posted as far as they can be, and again when held ones can. -/
def execWorkForward (w : Nat) (places : List RecPlace) (s : State) : Host.Outcome State Fault Refusal :=
  match s.work w with
  | none => .next s
  | some k =>
    if s.dieStopped (16 + k.port / 4) then .next s
    else if k.stage = 0 ∧ s.works.any (fun v => decide (v.1 < w) && v.2.stage == 0 && v.2.slice == k.slice && v.2.queue == k.queue) then .next s
    else if k.kind = 0x10 ∨ k.kind = 0x11 then
      match smGet s.tbl (leField k.desc 4 4) with
      | none => .next s
      | some t => .next ((s.forwardTable w k t places).getD s)
    else if (k.kind = 0x20 ∨ k.kind = 0x21) ∧ k.stage = 0 then
      let s := { s with cmp := { s.cmp with arrived := s.cmp.arrived + 1 } }
      .next (s.setWork w { k with stage := 1, arr := s.cmp.arrived, stamp := s.epoch (leField k.desc 4 4) })
    else .next s

/-- WORK_RECORD_DONE, R226, R229, R248, R281: record i of a work item has done its work and signals DONE. `vals` are the row and state rows
that a CUSTOM update program of the slice's own computed (R229). -/
def execWorkRecordDone (w i : Nat) (vals : List Nat) (s : State) : Host.Outcome State Fault Refusal :=
  match s.work w with
  | none => .next s
  | some k =>
    match k.recs[i]? with
    | none => .next s
    | some rc =>
      if s.brState rc.lead == 3 || (match smGet s.cmp.turns (rc.lead / 16) with | some t => t.switching || t.cur != k.slice | none => false) then .next s
      else
        let h := leField k.desc 4 4
        .next ((match k.kind, smGet s.tbl h, smGet s.kvc h with
          | 0x10, some t, _ => s.donePool w k t rc
          | 0x11, some t, _ => s.doneUpdate w k t rc vals
          | 0x20, _, some c => (s.doneAttn w k c rc).map State.endSeqs
          | _, _, _ => none).getD s)

/-- Records that satisfy p are lost with a status: their work goes on without them and ends with it (R44, R99, R123). -/
def State.failRecords (s : State) (p : Work → WRec → Bool) (st : Status) : State :=
  s.works.foldl (fun s kw =>
    match s.work kw.1 with
    | none => s
    | some w =>
      let gone := w.recs.filter (p w)
      if gone.isEmpty then s
      else if w.kind = 0x20 then
        let es := (gone.map (·.entry)).eraseDups
        es.foldl (fun s e => s.settleEntry kw.1 e) (s.setWork kw.1 { w with recs := w.recs.filter (fun r => !p w r), events := w.events ++ es.map (fun e => (st, e)) })
      else
        let first := (gone.flatMap (·.poss)).foldl min noPos
        s.setWork kw.1 { w with recs := w.recs.filter (fun r => !p w r), events := w.events ++ [(st, first)] }) s

/-! ### Outputs, R222, R232, R250, R252 -/

/-- Elements as they leave: converted to OUT_FMT, and whether any is infinite or NaN. -/
def outElems (fmt : Nat) (xs : List Nat) : List Byte × Bool :=
  let es := xs.map (fun x => (cvtElem fmt 5 .even x).1)
  (es.flatMap (leBytes (elemBytes fmt)), match fmtFloat fmt with | some f => nonFinite f es | none => false)

/-- Canonical NaN in every element. -/
def nanOut (fmt n : Nat) : List Byte × Bool := outElems fmt (List.replicate n 0x7FC00000)

/-- The pooled bag b of a lookup with n counted rows. -/
def State.bagOut (s : State) (w : Work) (t : Table) (n b : Nat) : List Byte × Bool :=
  let pool := leField w.desc 1 1
  let fmt := leField w.desc 3 1
  if w.nan.contains b then nanOut fmt t.d
  else
    let v := match s.syn.dev.find? (fun d => d.2.work == w.k && d.2.grp == b) with
      | none => List.replicate t.d 0
      | some d => (lanesOf d.2.result).take t.d
    let inv := (f32.encode .even .infinity ((FV.ofInt 1).div (FV.ofInt n))).bits
    outElems fmt (if pool = 1 ∧ n ≠ 0 then v.map (fun x => mulF32 x inv) else v)

/-- Is a position of a lookup counted: neither padding nor out of range (R222)? -/
def Work.counted (w : Work) (t : Table) (i : Nat) : Bool :=
  let row := w.idx.getD i 0
  row != 2 ^ (8 * idxWidth w.desc) - 1 && decide (row < t.rows)

/-- The outputs of a lookup, one write a bag. -/
def State.lookupOuts (s : State) (w : Work) (t : Table) : List (List Byte × Bool) :=
  let bags := bagPairs w.bags
  (List.range w.bags.length).map (fun b =>
    s.bagOut w t (((List.range w.idx.length).filter (fun i => bags.getD i 0 == b && w.counted t i)).length) b)

/-- The output of entry e of an attention step, R250, R254. -/
def State.entryOut (s : State) (w : Work) (c : Cache) (e : Nat) (x : AttEntry) : List Byte × Bool :=
  let fmt := leField w.desc 3 1
  if x.status ≠ .ok then nanOut fmt (c.qh * c.hd)
  else
    let outs := (List.range c.hgCount).map (fun g =>
      let heads := c.headsOf g * c.group
      match s.syn.dev.find? (fun d => d.2.work == w.k && d.2.grp == e * 65536 + g) with
      | none => List.replicate (heads * c.hd) 0
      | some d =>
        let ls := d.2.result
        (partHeads heads c.hd (fun i => ls.getD i 0)).flatMap (fun h => h.o.map (fun o => (f32.encode .even .infinity ((f32.decode o).div (f32.decode h.l))).bits)))
    outElems fmt outs.flatten

/-- Statuses that count in BAD of an attention record. -/
def entryBad (st : Status) : Bool := st == .badHandle || st == .positionMismatch || st == .kvQuota

/-- The record's status and FIRST, and the writes before it. -/
def State.workOuts (s : State) (w : Work) : Status × Nat × List OutWrite × Bool :=
  let out := leField w.desc 0x28 8
  let cpl := leField w.desc 0x30 8
  let h := leField w.desc 4 4
  let writes := fun (ro : Bool) (step : Nat) (os : List (Nat × List Byte × Bool)) =>
    (os.map (fun o => (⟨w.outPasid, out + o.1 * step, ro, o.2.1⟩ : OutWrite)), os.any (fun o => o.2.2))
  match w.kind with
  | 0x10 =>
    let (st, first) := pickStatus tableOrder w.events
    (match smGet s.tbl h with
     | some t =>
       let r := if stopsOutput st then ([], false) else
         writes (bit (leField w.desc 2 1) 1) (t.d * elemBytes (leField w.desc 3 1)) ((List.range w.bags.length).zip (s.lookupOuts w t))
       (st, first, r.1, r.2)
     | none => (st, first, [], false))
  | 0x11 => let r := pickStatus tableOrder w.events; (r.1, r.2, [], false)
  | _ =>
    let es := (List.range w.ents.length).zip w.ents
    let (st, first) := pickStatus attOrder (es.filterMap (fun e => if e.2.status = .ok then none else some (e.2.status, e.1)))
    if w.kind = 0x21 then
      (st, ((es.filter (fun e => e.2.status != .ok)).map (·.1)).headD noPos, [], false)
    else match smGet s.kvc h with
      | none => (st, first, [], false)
      | some c =>
        let r := writes (bit (leField w.desc 1 1) 1) (c.headBytes (leField w.desc 3 1))
          ((es.filter (fun e => e.2.status == .ok || e.2.status == .poisoned || e.2.status == .tierUnreachable)).map (fun e => (e.1, s.entryOut w c e.1 e.2)))
        (st, first, (if st = .squashed then [] else r.1) ++ [⟨w.cplPasid, cpl + 32, false, w.ents.flatMap (fun e => leBytes 1 e.status.code)⟩], r.2)

/-- Is a work item ready to deliver: forwarded, every record done, every tier write placed, every entry ended, every bag that is written
merged? -/
def State.workDone (s : State) (w : Work) : Bool :=
  w.stage != 0 && w.waiting.isEmpty && w.recs.isEmpty && w.tierOut.isEmpty && w.ents.all (fun e => e.phase == 2) &&
    (w.kind != 0x10 || stopsOutput (pickStatus tableOrder w.events).1 ||
      s.syn.dev.all (fun d => d.2.work != w.k || d.2.full || w.nan.contains d.2.grp))

/-- A work item leaves, its gather slots are free, and what waited for it goes on. -/
def State.endWork (s : State) (k : Nat) : State := ((({ s with works := smDel s.works k } : State).freeDev (· == k)).endSeqs).endTables

/-- Delivers a finished item's outputs and its completion record behind them, R232, R233, R252; none where its slice's hold
buffer is full. -/
def State.deliverWork (s : State) (k : Nat) (w : Work) (el : Nat) : Option State :=
  let (st, first, outs, nonf) := s.workOuts w
  let att := w.kind == 0x20 || w.kind == 0x21
  let badN := if att then (w.ents.filter (fun e => entryBad e.status)).length else (w.events.filter (fun e => e.1 == .indexRange)).length
  let badN := if w.kind = 0x21 then (w.ents.filter (fun e => e.status != .ok)).length else badN
  let nans := if att then (w.ents.filter (fun e => e.status == .poisoned || e.status == .tierUnreachable)).length
    else if stopsOutput st then 0 else w.nan.eraseDups.length
  let info := if nonf then putBits w.info 0 0 1 else w.info
  let tag := leField w.desc 0x3C 4
  let rec32 := cplRecord tag st info badN w.rows w.swatch w.remote first el nans
  (s.deliverOut w.port w.slice w.gen w.queue tag st (outs ++ [⟨w.cplPasid, leField w.desc 0x30 8, false, rec32⟩])).map (·.endWork k)

/-- OUTPUT_DELIVERY, R232. -/
def execOutputDelivery (w el : Nat) (s : State) : Host.Outcome State Fault Refusal :=
  match s.work w with
  | none => .next s
  | some k => if !s.workDone k ∨ k.kind = 0x30 then .next s else .next ((s.deliverWork w k el).getD (s.holdFull k.slice))

/-! ### Contributions, R316 -/

/-- GATHER_CONTRIBUTION, R316, R317: at the slot that its target names, whose stretcher wakes (R29). A device slot's result, once complete, serves its work item. -/
def execGatherContribution (bid : Nat) (s : State) : Host.Outcome State Fault Refusal :=
  match takeContribution (fun c => c.bid == bid && !tgtBristle c.target && s.mayArrive c) s.syn.granted with
  | none => .next s
  | some (c, rest) =>
    let u := getBits c.target 17 16
    let slot := getBits c.target 15 0
    let s := (s.setSyn { s.syn with granted := rest }).wakeDomain (.stretcher u)
    if slot ≥ 61440 then .next (s.acceptSlice u slot c)
    else
      let s := s.acceptDev u slot c.slice (tgtPort c.target % 8) c.key (BitVec.ofNat 512 (leVal c.data))
      match smGet s.syn.dev (65536 * u + slot) with
      | some d => if d.full then
          let s := s.devFaults d.work
          .next (match s.work d.work with
            | some w => if w.kind = 0x20 then (s.settleEntry d.work d.pos).endSeqs else s
            | none => s)
        else .next s
      | none => .next s

end Machine
end Sys2Proof
end

