-- ==== Sys2Proof/Machine/Aes.lean ====
section
/-!
DEFINITION. The cipher algorithms of R509: AES of FIPS 197 with keys of 128 or 256 bits, the modes CBC, CTR, CFB-128 and OFB of
SP 800-38A, CMAC of SP 800-38B and GCM of SP 800-38D with 96-bit IVs. A block is a 128-bit number, its first byte the most significant.
-/
namespace Sys2Proof
namespace Machine

/-! ### The field GF(2^8) and the S-box -/

/-- Multiplication by x modulo x^8 + x^4 + x^3 + x + 1. -/
def xtime (a : Nat) : Nat := if a < 128 then 2 * a else (2 * a - 256) ^^^ 0x1B

/-- Multiplication in GF(2^8), by the low n bits of b. -/
def gmul (a : Nat) : Nat → Nat → Nat
  | 0, _ => 0
  | n + 1, b => (if b % 2 = 1 then a else 0) ^^^ gmul (xtime a) n (b / 2)

/-- Squaring in GF(2^8). -/
def gsq (a : Nat) : Nat := gmul a 8 a

/-- The multiplicative inverse, a^254, with 0 for 0. -/
def ginv (a : Nat) : Nat :=
  let a2 := gsq a
  let a3 := gmul a2 8 a
  let a12 := gsq (gsq a3)
  let a15 := gmul a12 8 a3
  let a240 := gsq (gsq (gsq (gsq a15)))
  let a252 := gmul a240 8 a12
  gmul a252 8 a2

/-- Rotation of a byte to the left. -/
def rotl8 (a n : Nat) : Nat := (a * 2 ^ n + a / 2 ^ (8 - n)) % 256

/-- SubBytes on one byte. -/
def sbox (a : Nat) : Nat :=
  let b := ginv a
  b ^^^ rotl8 b 1 ^^^ rotl8 b 2 ^^^ rotl8 b 3 ^^^ rotl8 b 4 ^^^ 0x63

/-- InvSubBytes on one byte. -/
def invSbox (a : Nat) : Nat := ginv (rotl8 a 1 ^^^ rotl8 a 3 ^^^ rotl8 a 6 ^^^ 0x05)

/-! ### Blocks -/

/-- The sixteen bytes of a block, first byte first. -/
def blockBytes (b : Nat) : List Nat := (List.range 16).map (fun i => b / 2 ^ (8 * (15 - i)) % 256)

/-- A block from its bytes. -/
def blockOf (bs : List Nat) : Nat := bs.foldl (fun a b => a * 256 + b) 0

/-- ShiftRows: byte i of the result is byte 5 i mod 16 of the state. -/
def shiftRows (bs : List Nat) : List Nat := (List.range 16).map (fun i => bs.getD (5 * i % 16) 0)

/-- InvShiftRows. -/
def invShiftRows (bs : List Nat) : List Nat := (List.range 16).map (fun i => bs.getD (13 * i % 16) 0)

/-- A column mix with the row coefficients c0 to c3. -/
def mixWith (c0 c1 c2 c3 : Nat) (bs : List Nat) : List Nat :=
  (List.range 16).map (fun i =>
    let g := i / 4 * 4
    let at' := fun k => bs.getD (g + (i + k) % 4) 0
    gmul (at' 0) 4 c0 ^^^ gmul (at' 1) 4 c1 ^^^ gmul (at' 2) 4 c2 ^^^ gmul (at' 3) 4 c3)

/-- MixColumns. -/
def mixColumns (bs : List Nat) : List Nat := mixWith 2 3 1 1 bs

/-- InvMixColumns. -/
def invMixColumns (bs : List Nat) : List Nat := mixWith 14 11 13 9 bs

/-! ### Key expansion -/

/-- SubWord on a 32-bit word. -/
def subWord (w : Nat) : Nat :=
  sbox (w / 2 ^ 24 % 256) * 2 ^ 24 + sbox (w / 2 ^ 16 % 256) * 2 ^ 16 + sbox (w / 256 % 256) * 256 + sbox (w % 256)

/-- Round constant i, as a word. -/
def rcon : Nat → Nat
  | 0 => 0
  | 1 => 2 ^ 24
  | n + 1 => xtime (rcon n / 2 ^ 24) * 2 ^ 24

/-- The next key words, newest first. -/
def expandKey (nk : Nat) : Nat → List Nat → List Nat
  | 0, ws => ws
  | n + 1, ws =>
    let i := ws.length
    let t := ws.headD 0
    let t := if i % nk = 0 then subWord (t * 256 % 2 ^ 32 + t / 2 ^ 24) ^^^ rcon (i / nk)
             else if nk > 6 ∧ i % nk = 4 then subWord t else t
    expandKey nk n ((ws.getD (nk - 1) 0 ^^^ t) :: ws)

/-- Words of a key, first word first. -/
def keyWords (key : List Byte) : List Nat := (List.range (key.length / 4)).map (fun i => beVal ((key.drop (4 * i)).take 4))

/-- The round keys, as blocks, of a 16- or 32-byte key. -/
def roundKeys (key : List Byte) : List Nat :=
  let ws := keyWords key
  let nk := ws.length
  let all := (expandKey nk (4 * (nk + 7) - nk) ws.reverse).reverse
  (List.range (nk + 7)).map (fun r => ((all.drop (4 * r)).take 4).foldl (fun a w => a * 2 ^ 32 + w) 0)

/-- The rounds after the first AddRoundKey. -/
def encRounds : List Nat → Nat → Nat
  | [], b => b
  | [k], b => blockOf (shiftRows ((blockBytes b).map sbox)) ^^^ k
  | k :: ks, b => encRounds ks (blockOf (mixColumns (shiftRows ((blockBytes b).map sbox))) ^^^ k)

/-- AES encryption of a block under its round keys. -/
def aesEnc (rks : List Nat) (b : Nat) : Nat := encRounds rks.tail (b ^^^ rks.headD 0)

/-- The inverse rounds, from round keys last first. -/
def decRounds : List Nat → Nat → Nat
  | [], b => b
  | [k], b => blockOf ((invShiftRows (blockBytes b)).map invSbox) ^^^ k
  | k :: ks, b => decRounds ks (blockOf (invMixColumns (blockBytes (blockOf ((invShiftRows (blockBytes b)).map invSbox) ^^^ k))))

/-- AES decryption of a block. -/
def aesDec (rks : List Nat) (b : Nat) : Nat := decRounds rks.reverse.tail (b ^^^ rks.reverse.headD 0)

/-! ### Modes -/

/-- Data as blocks, the last one padded with zeros. -/
def toBlocks (bs : List Byte) : List Nat :=
  (List.range (ceilDiv bs.length 16)).map (fun i =>
    let part := (bs.drop (16 * i)).take 16
    beVal part * 2 ^ (8 * (16 - part.length)))

/-- The first n bytes of blocks. -/
def fromBlocks (ks : List Nat) (n : Nat) : List Byte := (ks.flatMap (fun b => beBytes 16 b)).take n

/-- Bytewise exclusive or of data with keystream blocks. -/
def xorStream (bs : List Byte) (ks : List Nat) : List Byte := List.zipWith (· ^^^ ·) bs (fromBlocks ks bs.length)

/-- CBC encryption: the ciphertext blocks. -/
def cbcEnc (rks : List Nat) : Nat → List Nat → List Nat
  | _, [] => []
  | iv, p :: ps =>
    let c := aesEnc rks (p ^^^ iv)
    c :: cbcEnc rks c ps

/-- CBC decryption: the plaintext blocks. -/
def cbcDec (rks : List Nat) : Nat → List Nat → List Nat
  | _, [] => []
  | iv, c :: cs => (aesDec rks c ^^^ iv) :: cbcDec rks c cs

/-- CTR keystream blocks: the whole 128-bit block counts (R509). -/
def ctrStream (rks : List Nat) (iv n : Nat) : List Nat := (List.range n).map (fun i => aesEnc rks ((iv + i) % 2 ^ 128))

/-- CFB-128 encryption: ciphertext blocks of plaintext blocks. -/
def cfbEnc (rks : List Nat) : Nat → List Nat → List Nat
  | _, [] => []
  | iv, p :: ps =>
    let c := p ^^^ aesEnc rks iv
    c :: cfbEnc rks c ps

/-- CFB-128 decryption. -/
def cfbDec (rks : List Nat) : Nat → List Nat → List Nat
  | _, [] => []
  | iv, c :: cs => (c ^^^ aesEnc rks iv) :: cfbDec rks c cs

/-- OFB keystream blocks. -/
def ofbStream (rks : List Nat) : Nat → Nat → List Nat
  | _, 0 => []
  | iv, n + 1 =>
    let k := aesEnc rks iv
    k :: ofbStream rks k n

/-- Doubling in GF(2^128) as CMAC has it. -/
def cmacDbl (b : Nat) : Nat := if b < 2 ^ 127 then 2 * b else (2 * b - 2 ^ 128) ^^^ 0x87

/-- CMAC of data: a 128-bit MAC. -/
def cmac (rks : List Nat) (bs : List Byte) : Nat :=
  let k1 := cmacDbl (aesEnc rks 0)
  let whole := bs.length % 16 == 0 && bs.length != 0
  let blocks := if bs.isEmpty then [2 ^ 127]
    else if whole then toBlocks bs
    else toBlocks (bs ++ [BitVec.ofNat 8 0x80])
  let last := (blocks.getLast?.getD 0) ^^^ (if whole then k1 else cmacDbl k1)
  (blocks.dropLast ++ [last]).foldl (fun c p => aesEnc rks (c ^^^ p)) 0

/-- Multiplication in GF(2^128) as GCM has it: n bits of x still to take, most significant first. -/
def ghashMul (x : Nat) : Nat → Nat → Nat → Nat
  | 0, z, _ => z
  | n + 1, z, v =>
    ghashMul x n (if bit x n then z ^^^ v else z) (if v % 2 = 1 then v / 2 ^^^ (0xE1 * 2 ^ 120) else v / 2)

/-- GHASH of blocks under H. -/
def ghash (h : Nat) (blocks : List Nat) : Nat := blocks.foldl (fun y b => ghashMul (y ^^^ b) 128 0 h) 0

/-- The counter blocks of GCM: each adds 1 to its low 32 bits. -/
def gcmStream (rks : List Nat) (j0 n : Nat) : List Nat :=
  (List.range n).map (fun i => aesEnc rks (j0 / 2 ^ 32 * 2 ^ 32 + (j0 + 1 + i) % 2 ^ 32))

/-- The full 16-byte GCM tag of additional data and ciphertext under a 96-bit IV. -/
def gcmTag (rks : List Nat) (iv : List Byte) (aad ct : List Byte) : Nat :=
  let j0 := beVal iv * 2 ^ 32 + 1
  ghash (aesEnc rks 0) (toBlocks aad ++ toBlocks ct ++ [aad.length * 8 * 2 ^ 64 + ct.length * 8]) ^^^ aesEnc rks j0

/-- GCM encryption or decryption of the data itself. -/
def gcmCrypt (rks : List Nat) (iv bs : List Byte) : List Byte :=
  xorStream bs (gcmStream rks (beVal iv * 2 ^ 32 + 1) (ceilDiv bs.length 16))

end Machine
end Sys2Proof
end

