-- ==== Sys2Proof/Machine/NetBase.lean ====
section
/-!
DEFINITION. What the Ethernet ports share (spec 17): statistics (R444), extraction keys and the classifier (R430 to R434), port
presence (R424), the receive buffer's occupancy (R437), and frame headers of IEEE 802.3, IPv4, IPv6 and UDP (R460).
-/
namespace Sys2Proof
namespace Machine

/-! ### Ports and statistics -/

/-- Replaces the network part of the state. -/
def State.setNet (s : State) (n : Net) : State := { s with net := n }

/-- Does a port exist in the die's mode, R424? -/
def State.portPresent (s : State) (die j : Nat) : Bool :=
  decide (j < 8) && j % 2 ^ s.fget PKT_MODE_MODE die == 0

/-- Bytes per ns of a port in the die's mode, R424, R454. -/
def State.portRate (s : State) (die : Nat) : Nat := 25 * 2 ^ s.fget PKT_MODE_MODE die

/-- Is the link up? -/
def State.linkUp (s : State) (die j : Nat) : Bool := s.fon PKT_PORT_STATUS_UP die j

/-- Adds to a 64-bit statistic at offset 0x100 + o of a port, R444: it wraps at 2^64. -/
def State.stat (s : State) (die j o d : Nat) : State :=
  let v := (s.rget PKT_STAT die j (o / 4) + s.rget PKT_STAT die j (o / 4 + 1) * 2 ^ 32 + d) % 2 ^ 64
  (s.rset PKT_STAT (v % 2 ^ 32) die j (o / 4)).rset PKT_STAT (v / 2 ^ 32) die j (o / 4 + 1)

/-- May n ns have passed since the tick `since`? Instants within a tick of 10 µs are not held (log entry 40). -/
def State.mayHavePassed (s : State) (since n : Nat) : Bool := decide (10000 * (s.pw.onTicks + 1 - since) ≥ n)

/-! ### Keys, R430 and R431 -/

/-- Width in bytes of a window word. -/
def winWidth (w : Nat) : Nat := 2 ^ getBits w 17 16

/-- The deepest point of a profile. -/
def State.deepest (s : State) (die j p : Nat) : Nat :=
  (List.range 16).foldl (fun m w =>
    let v := s.rget PKT_WIN die j p w
    if bit v 31 then max m (getBits v 8 0 + winWidth v) else m) 0

/-- Key word w of a frame under the profile in force; word 16 is META. `dir` is 1 for transmit. -/
def State.keyWord (s : State) (die j dir : Nat) (frame : List Byte) (w : Nat) : Nat :=
  let p := s.fget PKT_PORT_CTL_PROF die j
  if w = 16 then frame.length * 2 ^ 16 + p * 32 + dir * 16 + j
  else
    let v := s.rget PKT_WIN die j p w
    let o := getBits v 8 0
    let n := winWidth v
    if bit v 31 && decide (o + n ≤ frame.length) then beVal ((frame.drop o).take n) else 0

/-! ### Classification, R433 and R434 -/

/-- Word w of rule i of a die (36: its hit count). -/
def State.ruleWord (s : State) (die i w : Nat) : Nat := smGetD s.net.rules ((die * 1024 + i) * 64 + w) 0

/-- Sets a rule word. -/
def State.setRuleWord (s : State) (die i w v : Nat) : State :=
  s.setNet { s.net with rules := smSet s.net.rules ((die * 1024 + i) * 64 + w) v }

/-- The valid rules of a die, in order. -/
def State.validRules (s : State) (die : Nat) : List Nat :=
  s.net.rules.filterMap (fun e =>
    if e.1 % 64 == 34 && e.1 / 64 / 1024 == die && bit e.2 31 then some (e.1 / 64 % 1024) else none)

/-- Does a rule match a key on a port and direction? -/
def State.ruleHits (s : State) (die j dir i : Nat) (key : Nat → Nat) : Bool :=
  let c := s.ruleWord die i 34
  bit c (16 + j) && bit c dir &&
    (List.range 17).all (fun w => (key w ^^^ s.ruleWord die i w) &&& s.ruleWord die i (17 + w) == 0)

/-- Classifies a frame of a port, `dir` 1 for transmit: the action word; the rule's hit and the port's statistic are counted. -/
def State.classify (s : State) (die j dir : Nat) (frame : List Byte) : State × Nat :=
  let dflt := s.rget (if dir = 0 then PKT_PORT_DEF_RX else PKT_PORT_DEF_TX) die j
  if frame.length < s.deepest die j (s.fget PKT_PORT_CTL_PROF die j) then (s.stat die j (if dir = 0 then 0x50 else 0x60) 1, dflt)
  else match (s.validRules die).find? (fun i => s.ruleHits die j dir i (s.keyWord die j dir frame)) with
  | some i => (s.setRuleWord die i 36 (satAdd 32 (s.ruleWord die i 36) 1), s.ruleWord die i 35)
  | none => (s.stat die j (if dir = 0 then 0x58 else 0x68) 1, dflt)

/-- The class an action gives a frame. -/
def State.actClass (s : State) (die j dir : Nat) (frame : List Byte) (act : Nat) : Nat :=
  if bit act 27 then s.keyWord die j dir frame (getBits act 31 28) / 2 ^ getBits act 26 22 % 8 else getBits act 2 0

/-- The colour and the queue of an action. -/
def actColour (act : Nat) : Nat := getBits act 5 4
/-- The queue of an action. -/
def actQueue (act : Nat) : Nat := getBits act 13 8

/-- Is an action word stored as given (COLOUR not 3, CBIT at most 29; R435, R443)? -/
def actOk (act : Nat) : Bool := actColour act != 3 && decide (getBits act 26 22 ≤ 29)

/-! ### The receive buffer, R437 -/

/-- Bytes that class c holds in a die's receive buffer: frames for TMT and for MGMT not yet taken. -/
def State.rxOcc (s : State) (die : Nat) (p : Nat → Bool) : Nat :=
  ((s.tmt.rx.filter (fun k => k.die == die && p k.cls)).map (·.size)).sum +
    ((s.net.mgmt.filter (fun k => k.port / 8 == die && p k.cls)).map (·.size)).sum

/-! ### Headers -/

/-- One's complement sum of 16-bit big-endian words. -/
def onesSum : List Byte → Nat
  | [] => 0
  | [a] => a.toNat * 256
  | a :: b :: bs => a.toNat * 256 + b.toNat + onesSum bs

/-- The Internet checksum of a one's complement sum. -/
def inetSum (v : Nat) : Nat :=
  let v := v % 65536 + v / 65536
  let v := v % 65536 + v / 65536
  let v := v % 65536 + v / 65536
  65535 - v

/-- MAC address of a port, R443. -/
def State.portMac (s : State) (die j : Nat) : Nat :=
  s.fget PKT_PORT_MAC_HI_ADDR die j % 65536 * 2 ^ 32 + s.rget PKT_PORT_MAC_LO die j

/-- The addresses of a port set by NET_ADDR: IPv4 as 32 bits, IPv6 as 128. -/
def State.ip4 (s : State) (port : Nat) : Nat := smGetD s.net.ip port 0
/-- IPv6 address of a port. -/
def State.ip6 (s : State) (port : Nat) : Nat := smGetD s.net.ip (16 + port) 0

/-- An IPv4 header without options, R460: total length, DSCP and ECN byte, protocol, addresses. -/
def ipv4Header (tos len proto src dst : Nat) : List Byte :=
  let h := fun (c : Nat) => [BitVec.ofNat 8 0x45, BitVec.ofNat 8 tos] ++ beBytes 2 len ++ beBytes 2 0 ++ beBytes 2 0x4000 ++
    [BitVec.ofNat 8 64, BitVec.ofNat 8 proto] ++ beBytes 2 c ++ beBytes 4 src ++ beBytes 4 dst
  h (inetSum (onesSum (h 0)))

/-- An IPv6 header without extension headers: traffic class, payload length, next header, hop limit, addresses. -/
def ipv6Header (tc len nh hop src dst : Nat) : List Byte :=
  beBytes 4 (6 * 2 ^ 28 + tc * 2 ^ 20) ++ beBytes 2 len ++ [BitVec.ofNat 8 nh, BitVec.ofNat 8 hop] ++ beBytes 16 src ++ beBytes 16 dst

/-- One's complement sum of the IPv6 pseudo-header. -/
def pseudo6 (src dst len nh : Nat) : Nat := onesSum (beBytes 16 src ++ beBytes 16 dst ++ beBytes 4 len ++ beBytes 4 nh)

/-- A UDP datagram: checksum 0 over IPv4 (v6 none), computed over IPv6, where 0 is sent as 0xFFFF. -/
def udpDatagram (v6 : Option (Nat × Nat)) (sport dport : Nat) (body : List Byte) : List Byte :=
  let n := 8 + body.length
  let h := fun (c : Nat) => beBytes 2 sport ++ beBytes 2 dport ++ beBytes 2 n ++ beBytes 2 c
  match v6 with
  | none => h 0 ++ body
  | some (src, dst) =>
    let c := inetSum (pseudo6 src dst n 17 + onesSum (h 0) + onesSum body)
    h (if c = 0 then 0xFFFF else c) ++ body

/-- An Ethernet frame without FCS: an 802.1Q tag where tci is given. A frame shorter than 60 bytes is filled with zeros. -/
def etherFrame (dst src : Nat) (tci : Option Nat) (etype : Nat) (body : List Byte) : List Byte :=
  let f := beBytes 6 dst ++ beBytes 6 src ++ (match tci with | some t => beBytes 2 0x8100 ++ beBytes 2 t | none => []) ++
    beBytes 2 etype ++ body
  f ++ List.replicate (60 - f.length) 0

/-- Hands a frame to the transmit side of its port: it waits at its source for admission (R446). -/
def State.toSource (s : State) (f : TxFrame) : State := s.setNet { s.net with source := s.net.source ++ [f] }

/-- A frame the atelier firmware sends on a port. -/
def State.fwFrame (s : State) (port : Nat) (bytes : List Byte) (mark : Bool := false) : State :=
  s.toSource { src := 65536, slice := 64, port := port, bytes := bytes, mark := mark }

end Machine
end Sys2Proof
end

