-- ==== Sys2Proof/Machine/TmtBase.lean ====
section
/-!
DEFINITION. What the TMT engine's steps share (spec 19, 20): contexts, completion queues (R466, R475), packets built and sealed
(R460 to R463, R485), acknowledgements (R463), accepting requests (R468), breaking and freeing connections (R482, R495, R500),
regions and their checks (R503), and what slice and port events do (R506).
-/
namespace Sys2Proof
namespace Machine

/-! ### Contexts -/

/-- Replaces the TMT part of the state. -/
def State.setTmt (s : State) (t : Tmt) : State := { s with tmt := t }

/-- A connection that is not FREE. -/
def State.conn (s : State) (c : Nat) : Option Conn := smGet s.tmt.conns c

/-- Replaces a connection's context. -/
def State.setConn (s : State) (c : Nat) (x : Conn) : State := s.setTmt { s.tmt with conns := smSet s.tmt.conns c x }

/-- Changes a connection's context where it exists. -/
def State.modConn (s : State) (c : Nat) (f : Conn → Conn) : State :=
  match s.conn c with
  | some x => s.setConn c (f x)
  | none => s

/-- Uses a context: it becomes the most recently used of its die. -/
def State.touchConn (s : State) (c : Nat) : State :=
  let n := s.tmt.clock + 1
  (s.setTmt { s.tmt with clock := n }).modConn c (fun x => { x with used := n })

/-- Asks for a context that is not cached: at most 64 fetches of a die are in flight (R497). -/
def State.needConn (s : State) (c : Nat) : State :=
  match s.conn c with
  | some x =>
    if x.cached || s.tmt.fetch.contains c then s
    else if (s.tmt.fetch.filter (fun d => (s.conn d).any (fun y => y.die == x.die))).length ≥ 64 then s
    else s.setTmt { s.tmt with fetch := s.tmt.fetch ++ [c] }
  | none => s

/-- The slice that a connection works for: 0 to 63, or 64 for the device. -/
def Conn.ipv6 (x : Conn) : Bool := bit x.flags 0
/-- Frames carry an 802.1Q tag. -/
def Conn.vlan (x : Conn) : Bool := bit x.flags 1
/-- Packets are sealed. -/
def Conn.enc (x : Conn) : Bool := bit x.flags 2
/-- The context is pinned. -/
def Conn.pinned (x : Conn) : Bool := bit x.flags 3
/-- The context is backed by host memory. -/
def Conn.hostCtx (x : Conn) : Bool := bit x.flags 4

/-- Difference of PSNs as an s32 value, R479. -/
def psnDiff (a b : Nat) : Int := toSigned 32 ((a + 2 ^ 32 - b) % 2 ^ 32)

/-- Does a time in ns lie in the present tick? Finer instants are the commands' own (log entry 18). -/
def State.atNow (s : State) (now : Nat) : Bool := decide (now / 10000 = s.pw.onTicks)

/-- Packets of a message, R464. -/
def packetsOf (payload len : Nat) : Nat := max 1 (ceilDiv len payload)

/-! ### Completion queues, R466, R475 -/

/-- Entries software has not taken yet. -/
def TmtCq.used (q : TmtCq) : Nat := (q.written % q.size + q.size - q.head) % q.size

/-- Has a queue room for k more entries: size − 1 in all (log entry 15)? -/
def TmtCq.room (q : TmtCq) (k : Nat) : Bool := decide (q.used + k < q.size) && !q.err

/-- A completion entry without its phase, R475. -/
def tmtEntry (wrid value bytes imm conn op : Nat) (st : Status) (sub flags : Nat) : List Byte :=
  leBytes 8 wrid ++ leBytes 8 value ++ leBytes 4 bytes ++ leBytes 4 imm ++ leBytes 2 conn ++
    [BitVec.ofNat 8 op, BitVec.ofNat 8 st.code, BitVec.ofNat 8 sub, BitVec.ofNat 8 flags, 0]

/-- Writes an entry into a queue that has room, with its phase, and sends the armed vector. -/
def State.writeCq (s : State) (key : Nat) (e : List Byte) : State :=
  match smGet s.tmt.cqs key with
  | none => s
  | some q =>
    let rec32 := e ++ [BitVec.ofNat 8 (1 - q.written / q.size % 2)]
    let a := q.ring + 32 * (q.written % q.size)
    let s := s.setTmt { s.tmt with cqs := smSet s.tmt.cqs key { q with written := q.written + 1, arm := false } }
    let s := match q.port with
      | some p =>
        (match s.hostWay q.slice p a 32 true with
         | .bad st => s.faultLog q.slice 1 st q.num 0 a
         | w => (s.deliverOut p q.slice (s.curGen q.slice) q.num 0 .ok [⟨w.pasid, a, false, rec32⟩] 2).getD (s.holdFull q.slice))
      | none => s.busWrite a rec32
    if q.arm then
      match (match q.port with | some p => some p | none => s.drvPort q.slice) with
      | some p => s.msix p 2 q.vec
      | none => s
    else s

/-- Posts an entry whose order no connection fixes: written now, or once its queue has room. -/
def State.postCq (s : State) (key : Nat) (e : List Byte) : State :=
  match smGet s.tmt.cqs key with
  | none => s
  | some q =>
    if q.room 1 && !(s.tmt.posts.any (fun x => x.cq == key)) then s.writeCq key e
    else s.setTmt { s.tmt with posts := s.tmt.posts ++ [{ cq := key, entry := e }] }

/-- Writes waiting entries of a queue while it has room. -/
def State.drainPosts (s : State) (key : Nat) : Nat → State
  | 0 => s
  | n + 1 =>
    match s.tmt.posts.find? (fun x => x.cq == key), smGet s.tmt.cqs key with
    | some x, some q =>
      if q.room 1 then ((s.setTmt { s.tmt with posts := s.tmt.posts.erase x }).writeCq key x.entry).drainPosts key n else s
    | _, _ => s

/-- The completion queue of a send queue, as a key. -/
def State.cqOf (s : State) (sq : Nat) : Nat :=
  match smGet s.tmt.sqs sq with
  | some q => q.slice * 256 + q.cq
  | none => 65536

/-- Answers a setup request, R490: firmware's own (no queue) leaves its result under the tag. -/
def State.setupDone (s : State) (sq : Option Nat) (op reqId conn : Nat) (st : Status) (value : Nat) : State :=
  match sq with
  | some k => s.postCq (s.cqOf k) (tmtEntry reqId value 0 0 conn op st 0 0)
  | none => s.setTmt { s.tmt with results := smSet s.tmt.results reqId (st, value, []) }

/-! ### Sending packets -/

/-- Marks every request of a list that has not ended with a status. -/
def endReqs (st : Status) (rs : List Req) : List Req :=
  rs.map (fun r => if r.done then r else { r with done := true, status := st, stPsn := (r.first + r.acked) % 2 ^ 32, places := 0 })

/-- A connection breaks, R482, R485, R500, R515: outstanding requests end, its packets are discarded. -/
def State.breakConn (s : State) (c : Nat) (st : Status) : State :=
  match s.conn c with
  | none => s
  | some x =>
    let s := match x.probing with
      | some (sq, reqId) => s.setupDone (if sq < 65536 then some sq else none) 0x11 reqId c .connBroken 0
      | none => s
    let x := { x with state := 4, reqs := endReqs st x.reqs, pkts := [], timer := none, probing := none, cached := true,
                      held := [], imms := [], flushes := [] }
    (s.setConn c x).setTmt { (s.setConn c x).tmt with
      rx := s.tmt.rx.filter (fun k => k.conn != c), miss := s.tmt.miss.filter (fun k => k.conn != c), fetch := s.tmt.fetch.erase c }

/-- The bytes of a TMT packet after UDP, R461, R462, R485: base header, IV and sealed part, or extension and payload as they are. -/
def tmtBody (x : Conn) (key : Option (List Byte)) (op fl psn msn : Nat) (ext payload : List Byte) : List Byte :=
  let hdr := [BitVec.ofNat 8 (0x10 + (if x.enc then 8 else 0) + fl), BitVec.ofNat 8 op] ++ beBytes 2 x.peerConn ++
    beBytes 2 x.peerIncarn ++ beBytes 2 payload.length ++ beBytes 4 psn ++ beBytes 4 msn
  match key with
  | none => hdr ++ ext ++ payload
  | some k =>
    let rks := roundKeys k
    let iv := beBytes 8 x.iv
    let nonce := beBytes 4 x.txSalt ++ iv
    let ct := gcmCrypt rks nonce (ext ++ payload)
    hdr ++ iv ++ ct ++ beBytes 16 (gcmTag rks nonce (hdr ++ iv) ct)

/-- The frame of a packet, R460. -/
def State.tmtFrame (s : State) (c : Nat) (x : Conn) (body : List Byte) : List Byte :=
  let sport := 49152 + c * 40503 % 16384
  let dport := s.fget TMT_CTL_UDP_PORT x.die
  let p := x.die * 8 + x.port
  let tos := x.dscp * 4 + 2
  let tci := if x.vlan then some x.tci else none
  let ip := if x.ipv6 then
      let u := udpDatagram (some (s.ip6 p, x.peerIp)) sport dport body
      ipv6Header tos u.length 17 64 (s.ip6 p) x.peerIp ++ u
    else
      let u := udpDatagram none sport dport body
      ipv4Header tos (20 + u.length) 17 (s.ip4 p) x.peerIp ++ u
  etherFrame x.nextHop (s.portMac x.die x.port) tci (if x.ipv6 then 0x86DD else 0x0800) ip

/-- A built frame leaves the engine past the injectors (R622). -/
def State.tmtOut (s : State) (c : Nat) (x : Conn) (frame : List Byte) : State :=
  let (s, fs) := s.injTmt x.die 0 c x.slice
  let s := s.injPassed 0 c
  let f : TxFrame := { src := c, slice := x.slice, port := x.die * 8 + x.port, bytes := (fs.filter (fun f => f.action == 1)).foldl (fun b f => corrupt f b) frame, mark := false }
  if fs.any (fun f => f.action == 0) then s
  else match fs.find? (fun f => f.action == 2) with
  | some i => { s with dbg := { s.dbg with held := s.dbg.held ++ [{ inj := i.inj, path := 0, conn := c, port := f.port, slice := f.slice, st := .ok, bytes := f.bytes, left := i.param, since := s.pw.onTicks }] } }
  | none => s.toSource f

/-- Sends one packet of a connection. A sealed connection whose counter has reached 2^48 sends nothing more and breaks (R485). -/
def State.tmtTx (s : State) (c op fl psn msn : Nat) (ext payload : List Byte) : State :=
  match s.conn c with
  | none => s
  | some x =>
    if !s.fon TMT_CTL_EN x.die then s
    else if x.enc then
      if x.iv ≥ 2 ^ 48 then s.breakConn c .connBroken
      else
        let key := (smGet s.cph.slots x.key).map (·.key)
        let frame := s.tmtFrame c x (tmtBody x (some (key.getD [])) op fl psn msn ext payload)
        let s := ((s.setConn c { x with iv := x.iv + 1 }).fadd CPH_INL_TX_COUNT_COUNT 1 x.die).count (15 + x.die) 0 0x20 x.slice (ext.length + payload.length)
        let s := (s.count (15 + x.die) 0 0x10 x.slice 1).tmtOut c x frame
        if x.iv + 1 ≥ 2 ^ 48 then s.breakConn c .connBroken else s
    else (s.count (15 + x.die) 0 0x10 x.slice 1).tmtOut c x (s.tmtFrame c x (tmtBody x none op fl psn msn ext payload))

/-- SACK bytes of a receive map: bit i, from bit 7 of the first byte, is PSN EPSN + 1 + i. -/
def sackBytes (rmap : Nat) : List Byte :=
  (List.range 32).map (fun m => BitVec.ofNat 8 ((List.range 8).foldl (fun a b => a * 2 + (if bit rmap (8 * m + b + 1) then 1 else 0)) 0))

/-- Sends an acknowledgement, R463, R480: CODE and the PSN and SUB it names. CE marks and packets counted start anew. -/
def State.sendAck (s : State) (c : Nat) (code npsn sub : Nat) : State :=
  match s.conn c with
  | none => s
  | some x =>
    let ext := beBytes 4 x.epsn ++ beBytes 4 x.high ++ sackBytes x.rmap ++ beBytes 4 npsn ++
      [BitVec.ofNat 8 code, BitVec.ofNat 8 sub] ++ beBytes 2 (min x.ce 65535)
    ((s.setConn c { x with ce := 0, since := 0 }).count (15 + x.die) 0 0x12 x.slice 1).tmtTx c 0x10 0 0 0 ext []

/-- RETH: KEY, OFFSET, MLEN. -/
def reth (key off mlen : Nat) : List Byte := beBytes 4 key ++ beBytes 8 off ++ beBytes 4 mlen

/-! ### Accepting requests, R468 -/

/-- A request with nothing sent. -/
def Req.base (o : Origin) (op flags laddr len rkey roff imm add wrid gen port payload : Nat) : Req :=
  { origin := o, op := op, flags := flags, laddr := laddr, len := len, rkey := rkey, roff := roff, imm := imm, add := add, wrid := wrid,
    gen := gen, port := port, msn := 0, first := 0, n := if op ≤ 1 then packetsOf payload len else 1, sent := 0, acked := 0, status := .ok,
    stPsn := 0, sub := 0, remote := false, retried := false, done := false, value := 0,
    missing := if op = 2 then [(0, len)] else [], asks := [], places := 0, asked := 0 }

/-- Can a connection hold another request of an operation: 1,024 in all, 16 FETCH_ADDs? -/
def Conn.holds (x : Conn) (op : Nat) : Bool :=
  decide (x.reqs.length < 1024) && (op != 4 || decide ((x.reqs.filter (fun r => r.op == 4)).length < 16))

/-- Accepts a request onto a connection: it takes the next message number. -/
def State.acceptReq (s : State) (c : Nat) (r : Req) : State :=
  s.modConn c (fun x => { x with reqs := x.reqs ++ [{ r with msn := x.msn }], msn := (x.msn + 1) % 2 ^ 32 })

/-- A request of the device itself, for storage, tiers, Varnish or the hierarchy: its result is left under the tag. None where
the connection cannot take it now. -/
def State.deviceReq (s : State) (c op flags laddr len rkey roff : Nat) : Option (State × Nat) :=
  match s.conn c with
  | some x =>
    if x.state = 4 || x.state = 5 || !x.holds op then none
    else
      let t := s.tmt.nextTag
      let gen := if x.slice < 64 then s.curGen x.slice else 0
      some ((s.setTmt { s.tmt with nextTag := t + 1 }).acceptReq c
        (Req.base (.device t) op flags laddr len rkey roff 0 0 0 gen 0 x.payload), t)
  | none => none

/-- Takes the result of a device request, if it has one. -/
def State.takeResult (s : State) (t : Nat) : Option (State × Status × Nat × List Byte) :=
  match smGet s.tmt.results t with
  | some r => some (s.setTmt { s.tmt with results := smDel s.tmt.results t }, r)
  | none => none

/-! ### Regions, R501 to R503 -/

/-- The SUB with which a target refuses an access of n bytes at off of the region a key names, R503; none when it is admitted. -/
def State.regionErr (s : State) (x : Conn) (c key off n perm : Nat) : Option Nat :=
  match smGet s.tmt.mrs (key % 2 ^ 24) with
  | none => some 0
  | some r =>
    if !r.valid || r.slice != x.slice || !(r.rconn == 0xFFFFFFFF || r.rconn == c) then some 0
    else if r.epoch ≠ key / 2 ^ 24 then some 1
    else if off + n > r.len then some 2
    else if !bit r.perm perm then some 3
    else if n = 0 then none
    else if r.lhost then
      match s.hostWay r.slice r.port (r.addr + off) n (perm == 0) with
      | .bad _ => some 3
      | _ => none
    else if r.slice = 64 then none
    else match s.accessErr r.slice (r.addr + off) n (perm != 1) with
      | some _ => some 3
      | none => none

/-- Writes bytes into a region, once admitted. -/
def State.regionPut (s : State) (r : Region) (off : Nat) (bs : List Byte) : State :=
  if r.lhost then (s.hostPut r.port 2 r.slice (s.curGen r.slice) (r.addr + off) false bs).2 else s.busWrite (r.addr + off) bs

/-! ### Ending connections, R495, R506 -/

/-- The context place of a connection in stack memory: its region, given back once no other context lies there (R496). -/
def State.dropBacking (s : State) (c : Nat) (x : Conn) : State :=
  if x.hostCtx then s
  else if s.tmt.conns.any (fun e => e.1 != c && !e.2.hostCtx && e.2.backing / 64 == x.backing / 64) then s
  else s.freeRegions [x.backing / 64]

/-- A connection becomes FREE: its context, pin and backing go; the CLOSE that asked is answered. -/
def State.freeConn (s : State) (c : Nat) : State :=
  match s.conn c with
  | none => s
  | some x =>
    let s := s.dropBacking c x
    let s := s.setTmt { s.tmt with conns := smDel s.tmt.conns c, rx := s.tmt.rx.filter (fun k => k.conn != c),
                                   miss := s.tmt.miss.filter (fun k => k.conn != c), fetch := s.tmt.fetch.erase c }
    match x.closing with
    | some (sq, reqId) => s.setupDone (if sq < 65536 then some sq else none) 0x12 reqId c .ok 0
    | none => s

/-- Ends a connection as CLOSE does; with `abort` its outstanding requests break at once (R495). -/
def State.closeConn (s : State) (c : Nat) (abort : Bool) (asker : Option (Nat × Nat)) : State :=
  match s.conn c with
  | none => s
  | some x =>
    let s := match x.probing with
      | some (sq, reqId) => s.setupDone (if sq < 65536 then some sq else none) 0x11 reqId c .connBroken 0
      | none => s
    let now := abort || x.state == 1 || x.state == 4
    let x := { x with state := 5, probing := none, closing := asker, stateTick := s.pw.onTicks, reqs := if now then endReqs .connBroken x.reqs else x.reqs,
                      pkts := if now then [] else x.pkts }
    let s := s.setConn c x
    if x.reqs.isEmpty then s.freeConn c else s

/-- An index leaves the table: its epoch stays, and one that has reached 255 is retired (R502). -/
def State.dropRegion (s : State) (i : Nat) : State :=
  match smGet s.tmt.mrs i with
  | some r => s.setTmt { s.tmt with mrs := smSet s.tmt.mrs i { r with valid := false, epoch := min r.epoch 255, retired := decide (r.epoch ≥ 255) } }
  | none => s

/-- A region is revoked with FREE at once (R506): its epoch advances and its index is free. -/
def State.forceRevoke (s : State) (i : Nat) : State :=
  match smGet s.tmt.mrs i with
  | some r => (s.setTmt { s.tmt with mrs := smSet s.tmt.mrs i { r with epoch := r.epoch + 1 } }).dropRegion i
  | none => s

/-- The connections that satisfy a predicate. -/
def State.connsWhere (s : State) (p : Conn → Bool) : List Nat := smKeys s.tmt.conns p

/-- Slice reset of scope WORK, R506: outstanding requests end with SQUASHED; connections stay, their PSNs contiguous. -/
def State.tmtSquash (s : State) (sl : Nat) : State :=
  (s.connsWhere (fun x => x.slice == sl)).foldl (fun s c =>
    s.modConn c (fun x =>
      let n := (x.reqs.filter (fun r => !r.done)).length
      if n = 0 then x else
        { x with reqs := endReqs .squashed x.reqs, ghosts := x.ghosts ++ x.reqs.filter (fun r => !r.done && decide (r.sent > 0)) })) s

/-- Slice reset of scope FULL, R506: queues, connections and regions of the slice go. -/
def State.tmtPurge (s : State) (sl : Nat) : State :=
  let s := (s.connsWhere (fun x => x.slice == sl)).foldl (fun s c => (s.closeConn c true none).freeConn c) s
  let s := (smKeys s.tmt.mrs (fun r => r.valid && r.slice == sl)).foldl (fun s i => s.forceRevoke i) s
  s.setTmt { s.tmt with sqs := smDelIf s.tmt.sqs (fun k => k / 256 == sl), cqs := smDelIf s.tmt.cqs (fun k => k / 256 == sl),
                        setup := s.tmt.setup.filter (fun r => r.sq / 256 != sl), posts := s.tmt.posts.filter (fun x => x.cq / 256 != sl) }

/-- FLR of function 2 or a port reset, R506: queues reached through the port go, connections and regions that use it break. -/
def State.tmtPortGone (s : State) (p : Nat) : State :=
  let gone := smKeys s.tmt.sqs (fun q => q.port == some p)
  let s := (smKeys s.tmt.conns (fun x => (x.hostCtx && x.ctxPort == p) ||
      x.reqs.any (fun r => match r.origin with | .sq k => gone.contains k | _ => false))).foldl (fun s c => s.breakConn c .connBroken) s
  let s := (smKeys s.tmt.mrs (fun r => r.valid && r.lhost && r.port == p)).foldl (fun s i => s.forceRevoke i) s
  s.setTmt { s.tmt with sqs := s.tmt.sqs.filter (fun e => e.2.port != some p), cqs := s.tmt.cqs.filter (fun e => e.2.port != some p) }

/-- TMT connections a slice holds (R379). -/
def State.connCount (s : State) (sl : Nat) : Nat := (s.connsWhere (fun x => x.slice == sl)).length

/-- Is any connection PROBING, ESTABLISHED or CLOSING (GSO_MSTATE.BLK_TMT, R492)? -/
def State.tmtBusy (s : State) : Bool := s.tmt.conns.any (fun e => e.2.state == 2 || e.2.state == 3 || e.2.state == 5)

end Machine
end Sys2Proof
end

