-- ==== Sys2Proof/Machine/NvmBase.lean ====
section
/-!
DEFINITION. Storage controllers (spec 16): their state, host accesses, completion entries (R402, R405), remote transfers (R413, R415),
recorded operations (R418 to R420). Layouts of the NVM Express Base Specification are the family's (log entry 20).
-/
namespace Sys2Proof
namespace Machine

/-! ### Controllers, R397, R398 -/

/-- A controller. -/
def State.ctl (s : State) (c : Nat) : Nvm := smGetD s.nvm.ctrl c Nvm.init

/-- Replaces a controller. -/
def State.setCtl (s : State) (c : Nat) (x : Nvm) : State := { s with nvm := { s.nvm with ctrl := smSet s.nvm.ctrl c x } }

/-- The slice that owns a controller. -/
def State.nvmOwner (s : State) (c : Nat) : Option Nat :=
  if s.fon NVC_OWNER_VALID 0 c then some (s.fget NVC_OWNER_SLICE 0 c) else none

/-- A generic status: SCT, SC, DNR in one field (status field without its phase bit). -/
def nvmStatus (sct sc : Nat) (dnr : Bool := false) : Nat := sc + sct * 256 + (if dnr then 0x4000 else 0)

/-- Where a host access of a controller leads: the owner's windows, the owner's primary PASID (R398). -/
def State.nvmWay (s : State) (c sl a n : Nat) (write : Bool) : HostWay :=
  match s.hostWay sl c a n write with
  | .host _ => .host (s.primaryPasid sl c)
  | w => w

/-- The controller stops, R402: CFS, the event, a QUEUE_ERROR fault log entry. -/
def State.nvmCfs (s : State) (c : Nat) (st : Status) (queue tag addr : Nat) : State :=
  let s := (s.setCtl c { s.ctl c with cfs := true }).event NVC_ERR_STATUS_CFS
  match s.nvmOwner c with
  | some sl => s.faultLog sl 3 st queue tag addr
  | none => s

/-- Commands in progress on a controller: those fetched and not yet posted, held asynchronous event requests included. -/
def Nvm.inflight (n : Nvm) : Nat := n.cmds.length + n.posts.length + n.aers.length

/-- Commands in progress on all controllers. -/
def State.nvmInflight (s : State) : Nat := (s.nvm.ctrl.map (fun p => p.2.inflight)).sum

/-- What ends a controller's idleness happens now (R421). -/
def State.nvmBusy (s : State) (c : Nat) : State := s.setCtl c { s.ctl c with idle := s.pw.onTicks }

/-! ### Completion entries, R402, R405 -/

/-- Bytes of a completion entry as the base specification has it. -/
def cqEntry (dw0 sqHead sq cid status : Nat) (phase : Bool) : List Byte :=
  leBytes 4 dw0 ++ leBytes 4 0 ++ leBytes 2 sqHead ++ leBytes 2 sq ++ leBytes 2 cid ++ leBytes 2 (status * 2 + (if phase then 1 else 0))

/-- Has a completion queue room for an entry? -/
def NvmQueue.room (q : NvmQueue) : Bool := (q.dev + 1) % q.size != q.host

/-- Posts an entry into a queue with room; none where a held result does not fit (R392). -/
def State.nvmPut (s : State) (c : Nat) (x : NvmPost) : Option State :=
  let n := s.ctl c
  match smGet n.cqs x.cq, s.nvmOwner c with
  | some q, some sl =>
    let a := q.base + 16 * q.dev
    let head := ((smGet n.sqs x.sq).map (·.dev)).getD 0
    match s.nvmWay c sl a 16 true with
    | .bad st => some (s.nvmCfs c st x.cq x.cid a)
    | w =>
      match s.deliverOut c sl (s.curGen sl) x.cq x.cid .ok [⟨w.pasid, a, false, cqEntry x.dw0 head x.sq x.cid x.status q.phase⟩] 1 with
      | none => none
      | some s =>
        let d := (q.dev + 1) % q.size
        let s := s.setCtl c { n with cqs := smSet n.cqs x.cq { q with dev := d, phase := if d = 0 then !q.phase else q.phase } }
        some (if q.ien then s.msix c 1 q.vec else s)
  | _, _ => some s

/-- Posts an entry, or keeps it while its queue has no room, an earlier one waits, or the hold buffer is full. -/
def State.nvmPost (s : State) (c : Nat) (x : NvmPost) : State :=
  let n := s.ctl c
  let keep := fun (s : State) => s.setCtl c { s.ctl c with posts := (s.ctl c).posts ++ [x] }
  match smGet n.cqs x.cq with
  | none => s
  | some q =>
    if n.cfs then s
    else if !q.room || n.posts.any (fun y => y.cq == x.cq) then keep s
    else match s.nvmPut c x with
    | some s => s
    | none => keep (match s.nvmOwner c with | some sl => s.holdFull sl | none => s)

/-- Posts waiting entries of a queue while it has room. -/
def State.nvmDrain (s : State) (c cq : Nat) : Nat → State
  | 0 => s
  | k + 1 =>
    let n := s.ctl c
    match n.posts.find? (fun x => x.cq == cq), smGet n.cqs cq with
    | some x, some q =>
      if n.cfs || !q.room then s
      else match (s.setCtl c { n with posts := n.posts.erase x }).nvmPut c x with
        | some s => (s.nvmBusy c).nvmDrain c cq k
        | none => s
    | _, _ => s

/-- Ends a command: its completion entry, with an error log entry where it failed. -/
def State.nvmEnd (s : State) (c sq cid dw0 status : Nat) (ns : Nat := 64) : State :=
  let n := s.ctl c
  let n := if status = 0 then n else
    { n with errCount := n.errCount + 1, errors := ((n.errCount + 1, sq, cid, status) :: n.errors).take 64,
             mediaErrs := if status % 0x4000 = 0x281 then n.mediaErrs + 1 else n.mediaErrs }
  let cq := if sq = 0 then 0 else ((smGet n.sqs sq).map (·.cq)).getD 0
  (((s.setCtl c n).nvmBusy c).count 19 c 1 ((s.nvmOwner c).getD 64) 1).nvmPost c { cq := cq, dw0 := dw0, sq := sq, cid := cid, status := status, ns := ns }

/-- Raises an asynchronous event: the oldest outstanding request completes with it, or it waits for one. -/
def State.nvmEvent (s : State) (c dw0 : Nat) : State :=
  let n := s.ctl c
  if !n.rdy then s
  else match n.aers with
  | cid :: rest => (s.setCtl c { n with aers := rest }).nvmEnd c 0 cid dw0 0
  | [] => if n.events.contains dw0 then s else s.setCtl c { n with events := n.events ++ [dw0] }

/-! ### Remote transfers, R413, R415 -/

/-- The storage buffer of a tag, R210, R413: 16,384 buffers of 8 KiB, 4,096 in each staging window. -/
def bufferOf (t : Nat) : Addr := stagingAddr (t % 16384 / 4096) (0x1000000 + t % 4096 * 8192)

/-- Does a request of the device outstanding on some connection use the buffer that a tag would take? -/
def State.bufferBusy (s : State) (t : Nat) : Bool :=
  s.tmt.conns.any (fun c => c.2.reqs.any (fun r => match r.origin with | .device u => u % 16384 == t % 16384 && !r.done | _ => false))

/-- Has a connection failed for a transfer? -/
def State.connDead (s : State) (c : Nat) : Bool :=
  match s.conn c with
  | some x => x.state == 4 || x.state == 5
  | none => true

/-- Asks for as much of a transfer as connection and buffers take; after the last WRITE has returned, the closing FLUSH. -/
def State.xferIssue (s : State) (x : Xfer) : Nat → State × Xfer
  | 0 => (s, x)
  | k + 1 =>
    match x.todo with
    | [] =>
      if x.write && x.tags.isEmpty && x.flush.isNone && !x.flushed then
        match s.deviceReq x.conn 3 0 0 0 0 0 with
        | some (s, t) => (s, { x with flush := some t })
        | none => (s, x)
      else (s, x)
    | (o, n) :: rest =>
      if s.bufferBusy s.tmt.nextTag then (s, x)
      else
        let m := min n 8192
        let buf := bufferOf s.tmt.nextTag
        match s.deviceReq x.conn (if x.write then 0 else 2) 0 buf m x.rkey o with
        | none => (s, x)
        | some (s, t) =>
          let s := if x.write then s.busWrite buf (if x.data.isEmpty then leBytes m 0 else (x.data.drop x.off).take m) else s
          s.xferIssue { x with todo := if n ≤ 8192 then rest else (o + m, n - m) :: rest, off := x.off + m, tags := x.tags ++ [(t, x.off, m)] } k

/-- Is a transfer over? -/
def Xfer.done (x : Xfer) : Bool := x.todo.isEmpty && x.tags.isEmpty && x.flush.isNone && (!x.write || x.flushed)

/-- The status of R415 for a TMT request that failed. -/
def tmtFailure (st : Status) : Nat :=
  match st with
  | .accessFault | .regionRevoked => nvmStatus 2 0x86 true
  | .fabricLinkDown => nvmStatus 0 6 true
  | _ => nvmStatus 0 0x22

/-- REMOTE_FAIL, where a remote transfer ends in Access Denied or Transient Transport Error. -/
def State.remoteFail (s : State) (status : Nat) : State := if status % 0x4000 = 6 then s else s.event NVC_ERR_STATUS_REMOTE_FAIL

/-- Tags that nobody waits for any more. -/
def Xfer.allTags (x : Xfer) : List Nat := x.tags.map (·.1) ++ x.flush.toList

/-- Forgets a transfer: what still returns for it is discarded. -/
def State.xferDrop (s : State) (x : Xfer) : State := { s with nvm := { s.nvm with dead := s.nvm.dead ++ x.allTags } }

/-- Is a command one of a queue and CID? -/
def NvmCmd.is (x : NvmCmd) (q cid : Nat) : Bool := x.sq == q && x.cid == cid

/-- Takes a command out of progress and completes it with a status. -/
def State.nvmFinish (s : State) (c : Nat) (x : NvmCmd) (status : Nat) : State :=
  let s := s.setCtl c { s.ctl c with cmds := (s.ctl c).cmds.erase x }
  let s := s.xferDrop x.xfer
  s.nvmEnd c x.sq x.cid 0 status x.ns

/-- The parts of PRP pages that data [off, off + n) of a command fill. -/
def prpParts : List (Nat × Nat) → Nat → List Byte → List (Nat × List Byte)
  | [], _, _ => []
  | (a, len) :: ps, off, bs =>
    if bs.isEmpty then []
    else if off ≥ len then prpParts ps (off - len) bs
    else (a + off, bs.take (len - off)) :: prpParts ps 0 (bs.drop (len - off))

/-- Sends read data to the host pages: none where a page is no longer admitted; a full hold buffer is marked. -/
def State.nvmSend (s : State) (c sl q cid : Nat) (parts : List (Nat × List Byte)) : Option State :=
  let ways := parts.map (fun p => (s.nvmWay c sl p.1 p.2.length true, p))
  if ways.any (fun w => match w.1 with | .bad _ => true | _ => false) then none
  else some ((s.deliverOut c sl (s.curGen sl) q cid .ok (ways.map (fun w => ⟨w.1.pasid, w.2.1, false, w.2.2⟩)) 1).getD (s.holdFull sl))

/-- Puts a command in another's place. -/
def State.putCmd (s : State) (c : Nat) (x y : NvmCmd) : State :=
  s.setCtl c { s.ctl c with cmds := (s.ctl c).cmds.map (fun w => if w = x then y else w) }

/-- A command goes on after something returned for it. -/
def State.nvmGoOn (s : State) (c : Nat) (x : NvmCmd) : State :=
  let (s, f) := s.xferIssue x.xfer 2048
  let z := { x with xfer := f, backed := x.backed || !f.allTags.isEmpty }
  let s := s.putCmd c x z
  if f.done then s.nvmFinish c z 0
  else if f.allTags.isEmpty && s.connDead f.conn then (s.remoteFail (nvmStatus 0 0x22)).nvmFinish c z (nvmStatus 0 0x22)
  else s

/-- A transfer without a request that has returned. -/
def Xfer.without (x : Xfer) (t : Nat) : Xfer :=
  if x.flush = some t then { x with flush := none, flushed := true } else { x with tags := x.tags.filter (·.1 != t) }

/-- The answer to a command's request t. -/
def State.nvmAnswer (s : State) (c : Nat) (x : NvmCmd) (t : Nat) (st : Status) : State :=
  let y := { x with xfer := x.xfer.without t }
  let s := s.putCmd c x y
  if st ≠ .ok then (s.remoteFail (tmtFailure st)).nvmFinish c y (tmtFailure st)
  else if x.xfer.write then s.nvmGoOn c y
  else match x.xfer.tags.find? (·.1 == t), s.nvmOwner c with
  | some (_, off, n), some sl =>
    let r := s.busRead (bufferOf t) n
    (match r.bytes with
     | none => r.state.nvmFinish c y (nvmStatus 2 0x81 true)
     | some bs =>
       match r.state.nvmSend c sl x.sq x.cid (prpParts x.prps off bs) with
       | some s => s.nvmGoOn c y
       | none => r.state.nvmFinish c y (nvmStatus 0 4 true))
  | _, _ => s

/-! ### Recorded operations, R418 to R420 -/

/-- Chunks of 1 MiB of some bytes. -/
def chunksOf (bytes : Nat) : Nat := ceilDiv bytes 0x100000

/-- SPROG of R418. -/
def sprog (pos total : Nat) : Nat := if total = 0 then 65535 else min (pos * 65536 / total) 65535

/-- PCT of R418. -/
def opPct (pos total : Nat) : Nat := if total = 0 then 10000 else pos * 10000 / total

/-- The namespace, by its place in the operation, and the chunk in it, where chunk pos of an operation lies. -/
def opPlace : List RecNs → Nat → Nat → Option (Nat × RecNs × Nat)
  | [], _, _ => none
  | r :: rs, pos, i => if pos < chunksOf r.bytes then some (i, r, pos) else opPlace rs (pos - chunksOf r.bytes) (i + 1)

/-- Shows an operation in its registers, R423. -/
def State.showOp (s : State) (c st : Nat) (o : RecOp) : State :=
  let s := ((s.fset NVC_OP_STATUS_KIND o.kind 0 c).fset NVC_OP_STATUS_STATE st 0 c).fset NVC_OP_STATUS_NS
    (((opPlace o.nss o.pos 0).map (fun x => x.2.1.num % 64)).getD 0) 0 c
  let s := (s.rset NVC_OP_POS o.pos 0 c).rset NVC_OP_TOTAL o.total 0 c
  (s.fset NVC_OP_PROG_SPROG (if st = 5 then 65535 else sprog o.pos o.total) 0 c).fset NVC_OP_PROG_PCT (opPct o.pos o.total) 0 c

/-- STATE of a controller's operation: 0 IDLE, 1 RUNNING, 2 HELD, 3 PENDING, 4 FAILED, 5 COMPLETED. -/
def State.opState (s : State) (c : Nat) : Nat := s.fget NVC_OP_STATUS_STATE 0 c

/-- Replaces an operation. -/
def State.setOp (s : State) (c : Nat) (o : RecOp) : State := { s with nvm := { s.nvm with ops := smSet s.nvm.ops c o } }

/-- A namespace as an operation records it, R419. -/
def Namespace.recorded (n : Namespace) (num : Nat) : RecNs :=
  { num := num, nguid := n.nguid, kind := n.kind, bytes := n.bytes, serial := n.serial, roff := n.roff }

/-- Bytes of a block under a format. -/
def blockSize (lbaf : Nat) : Nat := if lbaf = 0 then 512 else 4096

/-- A namespace takes a new format, R416. -/
def Namespace.reformat (n : Namespace) (lbaf : Nat) : Namespace := { n with lbaf := lbaf, blocks := n.bytes / blockSize lbaf }

/-- Gives namespaces their new format. -/
def State.reformat (s : State) (lbaf : Nat) (ns : List Nat) : State :=
  ns.foldl (fun s i => match smGet s.nvm.ns i with
    | some n => { s with nvm := { s.nvm with ns := smSet s.nvm.ns i (n.reformat lbaf) } }
    | none => s) s

/-- An operation ends, R418, R419: the Format command completes, or the Sanitize Operation Completed notice is raised; the record is
cleared, or stays in flash where that write fails. -/
def State.endOp (s : State) (c : Nat) (o : RecOp) (good recOk : Bool) : State :=
  let nums := (o.nss.map (·.num)).filter (· < 64)
  let s := if recOk then { s with nvm := { s.nvm with ops := smDel s.nvm.ops c } }
    else (s.setOp c { o with ended := true, cmd := none, chunk := none }).event NVC_ERR_STATUS_REC_WRITE_FAIL
  let s := (s.showOp c (if good then 5 else 4) o).nvmBusy c
  if o.kind = 1 then
    let s := if good then s.reformat o.lbaf nums else s
    match o.cmd with
    | some (sq, cid) => s.nvmEnd c sq cid 0 (if good then 0 else nvmStatus 0 0x22)
    | none => s
  else
    let s := { s with nvm := { s.nvm with san := smSet s.nvm.san c (if good then 1 else 3),
                                          failed := if good then s.nvm.failed.filter (fun f => f / 64 != c) else
                                            s.nvm.failed.filter (fun f => f / 64 != c) ++ nums.map (64 * c + ·) } }
    s.nvmEvent c 0x810106

/-- A chunk is done, R418, R419: POS advances; the record is written each time PCT reaches a multiple of 100. -/
def State.opAdvance (s : State) (c : Nat) (o : RecOp) (recOk : Bool) : State :=
  let p := o.pos + 1
  let o := { o with pos := p, chunk := none, verdict := 0, bad := none }
  if p ≥ o.total then s.endOp c o true recOk
  else
    let due := decide (opPct p o.total / 100 ≠ opPct (p - 1) o.total / 100)
    let o := if due && recOk then { o with saved := some p } else o
    let s := if due && !recOk then s.event NVC_ERR_STATUS_REC_WRITE_FAIL else s
    (s.setOp c o).showOp c 1 o

/-- A remote chunk has failed: it is tried again, or the operation ends (R418). -/
def State.chunkFailed (s : State) (c : Nat) (o : RecOp) (status : Nat) : State :=
  (s.setOp c { o with chunk := none, verdict := 2, bad := some ((o.bad.map (·.1)).getD s.pw.onTicks, s.pw.onTicks) }).remoteFail status

/-- The answer to a request t of an operation's chunk. -/
def State.opAnswer (s : State) (c : Nat) (o : RecOp) (x : Xfer) (t : Nat) (st : Status) : State :=
  if st ≠ .ok then
    (s.xferDrop (x.without t)).chunkFailed c o (tmtFailure st)
  else
    let (s, z) := s.xferIssue (x.without t) 2048
    if z.done then s.setOp c { o with chunk := none, verdict := 1 } else s.setOp c { o with chunk := some z }

/-! ### What a controller waits for -/

/-- Does a namespace have a command fetched and not yet posted on one of some controllers? -/
def State.nsBusy (s : State) (n : Nat) (cs : List Nat) : Bool :=
  cs.any (fun c => (s.ctl c).cmds.any (fun x => x.ns == n) || (s.ctl c).posts.any (fun x => x.ns == n))

/-- Submission queues whose deletion is complete, R404: removed, and the deletion's command completes. -/
def State.nvmDeletes (s : State) (c : Nat) : State :=
  (smKeys (s.ctl c).sqs (fun q => q.deleting.isSome)).foldl (fun s i =>
    let n := s.ctl c
    if n.cmds.any (fun x => x.sq == i) || n.posts.any (fun x => x.sq == i) then s
    else match smGet n.sqs i with
      | some q => (s.setCtl c { n with sqs := smDel n.sqs i }).nvmEnd c 0 (q.deleting.getD 0) 0 0
      | none => s) s

/-- Shutdown is complete once every fetched command has posted, R403. -/
def State.nvmShut (s : State) (c : Nat) : State :=
  let n := s.ctl c
  if n.shst = 1 && n.cmds.isEmpty && n.posts.isEmpty then s.setCtl c { n with shst := 2 } else s

/-- A namespace ends: its regions are given back. -/
def State.dropNs (s : State) (i : Nat) : State :=
  match smGet s.nvm.ns i with
  | none => s
  | some n =>
    let s := s.freeRegions n.regions
    { s with nvm := { s.nvm with ns := smDel s.nvm.ns i, failed := s.nvm.failed.filter (fun f => f % 64 != i),
                                 ops := smMap s.nvm.ops (fun _ o => { o with nss := o.nss.map (fun (r : RecNs) => if r.num = i then { r with num := 64 } else r) }) } }

/-- Detachments and destructions that are complete, R412. -/
def State.nvmNsEnds (s : State) : State :=
  (smKeys s.nvm.ns (fun n => n.ending.isSome)).foldl (fun s i =>
    match smGet s.nvm.ns i with
    | some n =>
      (match n.ending with
       | some (ch, c) =>
         if s.nsBusy i (if c = 8 then List.range 8 else [c]) then s
         else if c = 8 then (s.dropNs i).ack ch .ok 0 [i]
         else ({ s with nvm := { s.nvm with ns := smSet s.nvm.ns i { n with ending := none } } }).ack ch .ok 0 [i]
       | none => s)
    | none => s) s

/-- What follows from commands that ended. -/
def State.nvmSettle (s : State) : State := ((List.range 8).foldl (fun s c => (s.nvmDeletes c).nvmShut c) s).nvmNsEnds

/-- Hands results of the device's own requests to the storage controllers, R413. -/
def State.nvmResults (s : State) : State :=
  (s.tmt.results.map (·.1)).foldl (fun s t =>
    let cmd := (List.range 8).findSome? (fun c => ((s.ctl c).cmds.find? (fun x => x.xfer.allTags.contains t)).map (fun x => (c, x)))
    let op := s.nvm.ops.findSome? (fun o => match o.2.chunk with | some x => if x.allTags.contains t then some (o.1, o.2, x) else none | none => none)
    match s.takeResult t with
    | none => s
    | some (s', st, _, _) =>
      match cmd, op with
      | some (c, x), _ => (s'.nvmAnswer c x t st).nvmSettle
      | none, some (c, o, x) => s'.opAnswer c o x t st
      | none, none => if s.nvm.dead.contains t then { s' with nvm := { s'.nvm with dead := s'.nvm.dead.filter (· != t) } } else s) s

/-! ### Resets, R422 -/

/-- What a controller keeps through a reset: its error log and counts. -/
def Nvm.afterReset (n : Nvm) : Nvm :=
  { Nvm.init with errors := n.errors, errCount := n.errCount, mediaErrs := n.mediaErrs, reads := n.reads, writes := n.writes }

/-- Controller reset, R422: queues deleted, fetched commands end without completion entries, registers at reset values. -/
def State.nvmReset (s : State) (c : Nat) : State :=
  let s := (s.ctl c).cmds.foldl (fun s x => s.xferDrop x.xfer) s
  let s := s.setCtl c (s.ctl c).afterReset
  let s := { s with nvm := { s.nvm with ops := smMap s.nvm.ops (fun k o => if k = c then { o with cmd := none } else o) } }
  s.nvmSettle

/-- Is CC.EN set? -/
def Nvm.en (n : Nvm) : Bool := bit n.cc 0

/-- Do MPS, CSS and AMS of a CC value keep to R402? -/
def ccOk (cc : Nat) : Bool := getBits cc 6 4 == 0 && getBits cc 10 7 == 0 && getBits cc 13 11 == 0

/-- RDY follows EN with an owner and the device RUNNING, R402. -/
def State.nvmReady (s : State) (c : Nat) : State :=
  let n := s.ctl c
  s.setCtl c { n with rdy := n.en && !n.cfs && (s.nvmOwner c).isSome && s.running, idle := s.pw.onTicks }

/-- The controllers of a slice. -/
def State.nvmOf (s : State) (sl : Nat) : List Nat := (List.range 8).filter (fun c => s.nvmOwner c == some sl)

/-- Slice reset of scope WORK: every controller of the slice is reset. -/
def State.nvmSquash (s : State) (sl : Nat) : State := (s.nvmOf sl).foldl State.nvmReset s

/-- Slice reset of scope FULL or SLICE_DESTROY: besides, its namespaces go and its controllers have no owner; recorded operations go on. -/
def State.nvmPurge (s : State) (sl : Nat) : State :=
  let s := s.nvmSquash sl
  let s := (smKeys s.nvm.ns (fun n => n.slice == sl)).foldl State.dropNs s
  (s.nvmOf sl).foldl (fun s c => s.rset NVC_OWNER 0 0 c) s

/-- On entry to HELD the record is written, R419, R420. -/
def State.nvmHold (s : State) : State :=
  s.nvm.ops.foldl (fun s p => if s.opState p.1 = 1 ∧ !p.2.ended then (s.setOp p.1 { p.2 with saved := some p.2.pos }).fset NVC_OP_STATUS_STATE 2 0 p.1 else s) s

/-- RUNNING again: held operations go on, ready follows. -/
def State.nvmRelease (s : State) : State :=
  let s := (List.range 8).foldl State.nvmReady s
  s.nvm.ops.foldl (fun s p => if s.opState p.1 = 2 then s.fset NVC_OP_STATUS_STATE 1 0 p.1 else s) s

/-- Firmware reads the records at step 14 of a boot, R420: a scratch operation is complete; a remote one is PENDING at its
recorded position, its scratch namespaces done. -/
def State.nvmBoot (s : State) : State :=
  s.nvm.ops.foldl (fun s p =>
    let (c, o) := p
    if o.saved.isNone then { s with nvm := { s.nvm with ops := smDel s.nvm.ops c } }
    else if o.nss.all (fun r => r.kind == 1) then
      let s := { s with nvm := { s.nvm with ops := smDel s.nvm.ops c } }
      if o.kind = 2 then ({ s with nvm := { s.nvm with san := smSet s.nvm.san c 1 } }).showOp c 5 { o with pos := o.total } else s
    else
      let o := { o with pos := o.saved.getD 0, cmd := none, chunk := none, verdict := 0, bad := none, ended := false, started := false,
                        nss := o.nss.map (fun (r : RecNs) => { r with num := 64 }) }
      (s.setOp c o).showOp c 3 o) s

end Machine
end Sys2Proof
end

