-- ==== Sys2Proof/Machine/NvmAdmin.lean ====
section
/-!
DEFINITION. Storage controllers (spec 16): enabling, shutdown, doorbells (R401 to R405), fetching and PRPs (R410), the admin commands (R404
to R409, R416, R417), power states (R421). Layouts of the NVM Express Base Specification are the family's (log entry 20).
-/
namespace Sys2Proof
namespace Machine

/-! ### Controller registers and doorbells, R401 to R405 -/

/-- CC.EN becomes 1, R402: the admin queues stand; RDY follows, or CFS is set where CC or AQA breaks its rules. -/
def State.nvmEnable (s : State) (c aqa asq acq cc : Nat) : State :=
  let an := getBits aqa 11 0 + 1
  let cn := getBits aqa 27 16 + 1
  let q : NvmQueue := { base := asq / 4096 * 4096, size := an, dev := 0, host := 0, phase := true, vec := 0, ien := true, cq := 0, deleting := none }
  let n := { s.ctl c with cc := cc, aqa := aqa, asq := asq / 4096 * 4096, acq := acq / 4096 * 4096, shst := 0,
                          sqs := [(0, q)], cqs := [(0, { q with base := acq / 4096 * 4096, size := cn })] }
  let s := s.setCtl c n
  if !ccOk cc || an < 2 || cn < 2 then s.nvmCfs c .badDescriptor 0 0 0 else s.nvmReady c

/-- CONTROLLER_ENABLE, R402: the host writes AQA, ASQ, ACQ and then CC with EN set. -/
def execControllerEnable (c aqa asq acq cc : Nat) (s : State) : Host.Outcome State Fault Refusal :=
  if c > 7 ∨ (s.ctl c).en ∨ !bit cc 0 then .next s else .next (s.nvmEnable c aqa asq acq cc)

/-- CONTROLLER_RESET, R422: CC.EN becomes 0. -/
def execControllerReset (c : Nat) (s : State) : Host.Outcome State Fault Refusal :=
  if c > 7 ∨ !(s.ctl c).en then .next s else .next (s.nvmReset c)

/-- CC.SHN is written: fetching stops, SHST completes once every fetched command has posted (R403). -/
def State.nvmShutdown (s : State) (c shn : Nat) : State :=
  let n := s.ctl c
  (s.setCtl c { n with cc := putBits n.cc 15 14 shn, shst := if n.shst = 0 then 1 else n.shst }).nvmShut c

/-- SHUTDOWN_REQUEST, R403: SHN normal (1) or abrupt (2). -/
def execShutdownRequest (c shn : Nat) (s : State) : Host.Outcome State Fault Refusal :=
  if c > 7 ∨ !(s.ctl c).en ∨ shn = 0 ∨ shn > 2 then .next s else .next (s.nvmShutdown c shn)

/-- A doorbell brings a controller out of PS2 and PS3, R421. -/
def Nvm.wake (n : Nvm) (now : Nat) : Nvm := { n with ps := if n.ps ≥ 2 then n.lastOp else n.ps, idle := now }

/-- A doorbell reaches a ready controller of a slice that accepts doorbells; none where it does not. -/
def State.nvmDb (s : State) (c : Nat) : Option State :=
  let n := s.ctl c
  if c > 7 || !n.rdy || n.cfs then none
  else match s.nvmOwner c with
  | none => none
  | some sl => some (if s.accepts sl then s.setCtl c (n.wake s.pw.onTicks) else s.ignoreDb sl)

/-- SQ_TAIL_DOORBELL, R405: events Invalid Doorbell Register and Invalid Doorbell Write Value. -/
def execSqTailDoorbell (c y val : Nat) (s : State) : Host.Outcome State Fault Refusal :=
  match s.nvmDb c with
  | none => .next s
  | some s' =>
    if !((s.nvmOwner c).any s.accepts) then .next s'
    else
      let n := s'.ctl c
      match smGet n.sqs y with
      | none => .next (s'.nvmEvent c 0x010000)
      | some q => if val % 65536 ≥ q.size then .next (s'.nvmEvent c 0x010100)
                  else .next (s'.setCtl c { n with sqs := smSet n.sqs y { q with host := val % 65536 } })

/-- CQ_HEAD_DOORBELL, R405; entries that wait for room are posted. -/
def execCqHeadDoorbell (c y val : Nat) (s : State) : Host.Outcome State Fault Refusal :=
  match s.nvmDb c with
  | none => .next s
  | some s' =>
    if !((s.nvmOwner c).any s.accepts) then .next s'
    else
      let n := s'.ctl c
      match smGet n.cqs y with
      | none => .next (s'.nvmEvent c 0x010000)
      | some q => if val % 65536 ≥ q.size then .next (s'.nvmEvent c 0x010100)
                  else .next ((s'.setCtl c { n with cqs := smSet n.cqs y { q with host := val % 65536 } }).nvmDrain c y 65536).nvmSettle

/-! ### Fetching, R402, R405, R410 -/

/-- A read of a host address by a controller. -/
def State.nvmRead (s : State) (c sl a n : Nat) (got : HostData) : State × HostData :=
  match s.nvmWay c sl a n false with
  | .bad st => (s, (st, []))
  | .inside ps =>
    let r := s.getPieces ps
    (r.1, match r.2 with | some b => (.ok, b) | none => (.poisoned, []))
  | .host _ => if (s.port c).up && (s.port c).enabled 1 then (s, got) else (s, (.hostLinkDown, []))

/-- Has a submission queue an entry to fetch? Admin commands wait while the atelier does not run (R406). -/
def Nvm.offers (fw : Bool) (p : Nat × NvmQueue) : Bool := p.2.dev != p.2.host && p.2.deleting.isNone && (p.1 != 0 || fw)

/-- The queue to fetch from (R405): the one whose turn it is while its burst lasts, else the next with an entry in round robin, the admin
queue first in each round. -/
def Nvm.nextSq (n : Nvm) (fw : Bool) : Option Nat :=
  let on := n.sqs.find? (fun p => p.1 == n.turn && decide (0 < n.left) && Nvm.offers fw p)
  ((on.or ((n.sqs.filter (n.turn < ·.1) ++ n.sqs.filter (·.1 ≤ n.turn)).find? (Nvm.offers fw)))).map (·.1)

/-- The Arbitration Burst of feature 0x01: 2 to the power of AB commands, 7 for no limit. -/
def Nvm.burst (n : Nvm) : Nat :=
  let ab := smGetD n.feats (2 ^ 20) 0 % 8
  if ab = 7 then 65536 else 2 ^ ab

/-- A command is fetched from queue q: its turn goes on or begins. -/
def Nvm.tookFrom (n : Nvm) (q : Nat) : Nvm :=
  if n.turn = q ∧ 0 < n.left then { n with left := n.left - 1 } else { n with turn := q, left := n.burst - 1 }

/-- Fetches the entry at the head of a submission queue: the owner and the entry's 64 bytes, or the state where nothing is fetched
(not ready, not the queue's turn, at a limit) or CFS is set. -/
def State.nvmFetch (s : State) (c q : Nat) (sqe : HostData) : Except State (State × Nat × List Byte) :=
  let n := s.ctl c
  match s.nvmOwner c, smGet n.sqs q with
  | some sl, some sq =>
    if c > 7 || !n.rdy || n.cfs || n.shst != 0 || decide (n.inflight ≥ 4096) || decide (s.nvmInflight ≥ 16384) || n.nextSq s.fwRuns != some q then
      .error s
    else
      let a := sq.base + 64 * sq.dev
      match s.nvmRead c sl a 64 sqe with
      | (s1, (.ok, bs)) =>
        if bs.length < 64 then .error s
        else .ok (s1.setCtl c { n.tookFrom q with sqs := smSet n.sqs q { sq with dev := (sq.dev + 1) % sq.size }, idle := s.pw.onTicks }, sl, bs.take 64)
      | (_, (.hostLinkDown, _)) => .error s
      | (s1, (st, _)) => .error (s1.nvmCfs c st q 0 a)
  | _, _ => .error s

/-- Fields of an entry: opcode, CID, NSID, command doubleword i (10 to 15). -/
def sqOp (d : List Byte) : Nat := leField d 0 1
def sqCid (d : List Byte) : Nat := leField d 2 2
def sqNsid (d : List Byte) : Nat := leField d 4 4
def sqDw (d : List Byte) (i : Nat) : Nat := leField d (4 * i) 4

/-- PSDT and FUSE are 0 (R410). -/
def sqPlain (d : List Byte) : Bool := leField d 1 1 &&& 0xC3 == 0

/-- The admin opcodes of R406. -/
def adminOps : List Nat := [0, 1, 2, 4, 5, 6, 8, 9, 10, 12, 0x80, 0x84]

/-- The I/O opcodes of R410. -/
def ioOps : List Nat := [0, 1, 2, 8, 9]

/-- Runs a command of queue q: every other opcode of the table waits for its own command; an opcode that the table does not have
completes with Invalid Command Opcode, whichever command fetches it. -/
def nvmRow (c q : Nat) (sqe : HostData) (mine : List Byte → Bool) (run : State → Nat → List Byte → Option State) (s : State) : State :=
  match s.nvmFetch c q sqe with
  | .error s' => s'
  | .ok (s1, sl, d) =>
    let cid := sqCid d
    if !(if q = 0 then adminOps else ioOps).contains (sqOp d) then (s1.nvmEnd c q cid 0 (nvmStatus 0 1)).nvmSettle
    else if !mine d then s
    else if !sqPlain d then (s1.nvmEnd c q cid 0 (nvmStatus 0 2)).nvmSettle
    else match run s1 sl d with
    | some s2 => s2.nvmSettle
    | none => s

/-! ### PRPs, R410, R415 -/

/-- Data Transfer Error, R415. -/
def dataErr (st : Status) : Nat := nvmStatus 0 4 (st != .completionTimeout)

/-- PRP Offset Invalid. -/
def prpBad : Nat := nvmStatus 0 0x13

/-- Reads `need` entries of a PRP list, following its pages; `got` is what the host reads bring, in order. An error without a status
stands for data that has not come. -/
def State.readPrps (s : State) (c sl : Nat) : Nat → Nat → Nat → HostData → Except (Option Nat) (State × List Nat)
  | 0, _, _, _ => .error (some prpBad)
  | k + 1, a, need, got =>
    if a % 8 ≠ 0 then .error (some prpBad)
    else
      let cap := (4096 - a % 4096) / 8
      let m := min need cap
      match s.nvmRead c sl a (8 * m) (got.1, got.2.take (8 * m)) with
      | (s1, (.ok, bs)) =>
        if bs.length < 8 * m then .error none
        else
          let es := leItems 8 bs m
          if need ≤ cap then .ok (s1, es)
          else match s1.readPrps c sl k (es.getLast?.getD 0) (need - (cap - 1)) (got.1, got.2.drop (8 * m)) with
            | .ok (s2, rest) => .ok (s2, es.dropLast ++ rest)
            | .error e => .error e
      | (_, (.hostLinkDown, _)) => .error none
      | (_, (st, _)) => .error (some (dataErr st))

/-- The PRP pages of a transfer of n bytes. -/
def State.prpPages (s : State) (c sl : Nat) (d : List Byte) (n : Nat) (lst : HostData) : Except (Option Nat) (State × List (Nat × Nat)) :=
  let p1 := leField d 24 8
  let p2 := leField d 32 8
  let n1 := min n (4096 - p1 % 4096)
  let rest := n - n1
  if n = 0 then .ok (s, [])
  else if p1 % 4 ≠ 0 then .error (some prpBad)
  else if rest = 0 then .ok (s, [(p1, n1)])
  else if rest ≤ 4096 then if p2 % 4096 ≠ 0 then .error (some prpBad) else .ok (s, [(p1, n1), (p2, rest)])
  else match s.readPrps c sl 3 p2 (ceilDiv rest 4096) lst with
  | .error e => .error e
  | .ok (s, es) =>
    if es.any (fun e => e % 4096 != 0) then .error (some prpBad)
    else .ok (s, (p1, n1) :: es.mapIdx (fun i e => (e, min 4096 (rest - 4096 * i))))

/-- Are the pages within the owner's windows? -/
def State.pagesOk (s : State) (c sl : Nat) (write : Bool) (ps : List (Nat × Nat)) : Bool :=
  ps.all (fun p => match s.nvmWay c sl p.1 p.2 write with | .bad _ => false | _ => true)

/-- Reads data of pages: device memory where a page is in an aperture, else what the host reads bring, in order. -/
def State.nvmGather (s : State) (c sl : Nat) : List (Nat × Nat) → HostData → Except (Option Nat) (State × List Byte)
  | [], _ => .ok (s, [])
  | (a, n) :: ps, got =>
    let host := match s.nvmWay c sl a n false with | .host _ => true | _ => false
    match s.nvmRead c sl a n (got.1, got.2.take n) with
    | (s1, (.ok, bs)) =>
      if bs.length < n then .error none
      else match s1.nvmGather c sl ps (if host then (got.1, got.2.drop n) else got) with
        | .ok (s2, rest) => .ok (s2, bs ++ rest)
        | .error e => .error e
    | (_, (.hostLinkDown, _)) => .error none
    | (_, (st, _)) => .error (some (dataErr st))

/-- Returns data of an admin command to its pages and completes it. -/
def State.nvmReturn (s : State) (c sl : Nat) (d : List Byte) (lst : HostData) (bytes : List Byte) (dw0 : Nat := 0) : Option State :=
  let cid := sqCid d
  match s.prpPages c sl d bytes.length lst with
  | .error none => none
  | .error (some st) => some (s.nvmEnd c 0 cid 0 st)
  | .ok (s1, ps) =>
    match s1.nvmSend c sl 0 cid (prpParts ps 0 bytes) with
    | none => some (s1.nvmEnd c 0 cid 0 (nvmStatus 0 4 true))
    | some s2 => some (s2.nvmEnd c 0 cid dw0 0)

/-- An admin command of one opcode. -/
def nvmAdmin (c op : Nat) (sqe : HostData) (run : State → Nat → List Byte → Option State) (s : State) : Host.Outcome State Fault Refusal :=
  .next (nvmRow c 0 sqe (fun d => sqOp d == op) run s)

/-- Completes an admin command at once. -/
def State.nvmDone (s : State) (c : Nat) (d : List Byte) (status : Nat) (dw0 : Nat := 0) : Option State :=
  some (s.nvmEnd c 0 (sqCid d) dw0 status)

/-- Invalid Field in Command. -/
def badField : Nat := nvmStatus 0 2

/-! ### Queues, R399, R404 -/

/-- Queue pairs a slice holds: I/O completion queues of its controllers. -/
def State.pairsHeld (s : State) (sl : Nat) : Nat := ((s.nvmOf sl).map (fun c => (s.ctl c).cqs.length - 1)).sum

/-- May an I/O queue lie at an address: within the owner's windows with R and W? -/
def State.nvmRing (s : State) (c sl a n : Nat) : Bool := s.pagesOk c sl true [(a, n)] && s.pagesOk c sl false [(a, n)]

/-- CREATE_IO_CQ, R399, R404; creating the first I/O queue with other entry sizes than R402's breaks the CC rules. -/
def execCreateIoCq (c : Nat) (sqe : HostData) (s : State) : Host.Outcome State Fault Refusal :=
  nvmAdmin c 5 sqe (fun s sl d =>
    let n := s.ctl c
    let qid := getBits (sqDw d 10) 15 0
    let size := getBits (sqDw d 10) 31 16 + 1
    let base := leField d 24 8
    let vec := getBits (sqDw d 11) 31 16
    if getBits n.cc 19 16 ≠ 6 ∨ getBits n.cc 23 20 ≠ 4 then some (s.nvmCfs c .badDescriptor 0 (sqCid d) 0)
    else if qid = 0 ∨ qid > 1024 ∨ (smGet n.cqs qid).isSome ∨ s.pairsHeld sl ≥ s.quota sl 10 ∨ n.cqs.length > 1024 then s.nvmDone c d (nvmStatus 1 1)
    else if size < 2 then s.nvmDone c d (nvmStatus 1 2)
    else if !bit (sqDw d 11) 0 then s.nvmDone c d badField
    else if base % 4096 ≠ 0 then s.nvmDone c d prpBad
    else if !s.nvmRing c sl base (16 * size) then s.nvmDone c d badField
    else if vec > 1024 then s.nvmDone c d (nvmStatus 1 8)
    else
      let q : NvmQueue := { base := base, size := size, dev := 0, host := 0, phase := true, vec := vec, ien := bit (sqDw d 11) 1, cq := 0, deleting := none }
      (s.setCtl c { n with cqs := smSet n.cqs qid q }).nvmDone c d 0) s

/-- CREATE_IO_SQ, R404: its own completion queue, which no other submission queue uses. -/
def execCreateIoSq (c : Nat) (sqe : HostData) (s : State) : Host.Outcome State Fault Refusal :=
  nvmAdmin c 1 sqe (fun s sl d =>
    let n := s.ctl c
    let qid := getBits (sqDw d 10) 15 0
    let size := getBits (sqDw d 10) 31 16 + 1
    let base := leField d 24 8
    let cq := getBits (sqDw d 11) 31 16
    if cq = 0 ∨ (smGet n.cqs cq).isNone ∨ n.sqs.any (fun q => q.1 != 0 && q.2.cq == cq) then s.nvmDone c d (nvmStatus 1 0)
    else if qid = 0 ∨ qid > 1024 ∨ (smGet n.sqs qid).isSome then s.nvmDone c d (nvmStatus 1 1)
    else if size < 2 then s.nvmDone c d (nvmStatus 1 2)
    else if !bit (sqDw d 11) 0 then s.nvmDone c d badField
    else if base % 4096 ≠ 0 then s.nvmDone c d prpBad
    else if !s.nvmRing c sl base (64 * size) then s.nvmDone c d badField
    else
      let q : NvmQueue := { base := base, size := size, dev := 0, host := 0, phase := true, vec := 0, ien := false, cq := cq, deleting := none }
      (s.setCtl c { n with sqs := smSet n.sqs qid q }).nvmDone c d 0) s

/-- DELETE_IO_CQ, R404: only after its submission queue is deleted. -/
def execDeleteIoCq (c : Nat) (sqe : HostData) (s : State) : Host.Outcome State Fault Refusal :=
  nvmAdmin c 4 sqe (fun s _ d =>
    let n := s.ctl c
    let qid := getBits (sqDw d 10) 15 0
    if qid = 0 ∨ (smGet n.cqs qid).isNone then s.nvmDone c d (nvmStatus 1 1)
    else if n.sqs.any (fun q => q.1 != 0 && q.2.cq == qid) then s.nvmDone c d (nvmStatus 1 0xC)
    else (s.setCtl c { n with cqs := smDel n.cqs qid, posts := n.posts.filter (fun x => x.cq != qid) }).nvmDone c d 0) s

/-- DELETE_IO_SQ, R404: commands that have not reached their backing end with Command Aborted due to SQ Deletion; the deletion
completes after all of the queue's commands have posted. -/
def execDeleteIoSq (c : Nat) (sqe : HostData) (s : State) : Host.Outcome State Fault Refusal :=
  nvmAdmin c 0 sqe (fun s _ d =>
    let n := s.ctl c
    let qid := getBits (sqDw d 10) 15 0
    match (if qid = 0 then none else smGet n.sqs qid) with
    | none => s.nvmDone c d (nvmStatus 1 1)
    | some q =>
      if q.deleting.isSome then s.nvmDone c d (nvmStatus 1 1)
      else
        let s := s.setCtl c { n with sqs := smSet n.sqs qid { q with deleting := some (sqCid d) } }
        some ((n.cmds.filter (fun x => x.sq == qid && !x.backed)).foldl (fun s x => s.nvmFinish c x (nvmStatus 0 8)) s)) s

/-! ### Identify, R409 -/

/-- A structure of n bytes from its fields, given as (offset, bytes); what no field covers is zero. -/
def layoutOf (n : Nat) (fs : List (Nat × List Byte)) : List Byte :=
  (List.range n).map (fun i => match fs.find? (fun f => decide (f.1 ≤ i ∧ i < f.1 + f.2.length)) with
    | some f => f.2.getD (i - f.1) 0
    | none => 0)

/-- Hexadecimal digits of a number, n of them, as characters. -/
def hexChars (n v : Nat) : List Byte :=
  (List.range n).map (fun i => let x := v / 16 ^ (n - 1 - i) % 16; BitVec.ofNat 8 (if x < 10 then 48 + x else 55 + x))

/-- Characters as bytes, padded with spaces to n. -/
def padChars (n : Nat) (bs : List Byte) : List Byte := (bs ++ List.replicate n 32).take n

/-- A string's characters as bytes. -/
def charsOf (t : String) : List Byte := t.toList.map (fun ch => BitVec.ofNat 8 ch.toNat)

/-- A power state descriptor of R421: MP in 10 mW, NOPS, ENLAT, EXLAT. -/
def psd (mp : Nat) (op : Bool) (en ex : Nat) : List Byte :=
  leBytes 2 mp ++ [0, if op then 0 else 2] ++ leBytes 4 en ++ leBytes 4 ex

/-- The Identify Controller structure, R397, R403, R409, R421. -/
def State.idController (s : State) (c : Nat) : List Byte :=
  let f := s.dbg.loaded
  let sn := hexChars 16 f.serialNow
  layoutOf 4096
    [(0, leBytes 2 f.vidNow), (2, leBytes 2 f.vidNow), (4, padChars 20 sn), (24, padChars 40 (charsOf "AKM-T2064 NVC")),
     (64, padChars 8 (hexChars 8 (s.rget ATL_FW_VERSION))), (77, [8]), (78, leBytes 2 (c + 1)), (80, leBytes 4 0x20000),
     (84, leBytes 4 2000), (88, leBytes 4 1000000), (92, leBytes 4 0x100), (111, [1]), (256, leBytes 2 2), (258, [3]), (259, [3]),
     (262, [63]), (263, [3]), (265, [1]), (328, leBytes 4 2), (512, [0x66]), (513, [0x44]), (516, leBytes 4 64), (520, leBytes 2 0xC),
     (768, charsOf "nqn.2030-01.com.aukinmicro:t2064:" ++ sn ++ charsOf ":" ++ hexChars 1 c),
     (2048, psd 100 true 0 0), (2080, psd 60 true 10 10), (2112, psd 20 false 100 200), (2144, psd 2 false 1000 2000)]

/-- The Identify Namespace structure, R409. -/
def Namespace.identify (n : Namespace) : List Byte :=
  layoutOf 4096
    [(0, leBytes 8 n.blocks), (8, leBytes 8 n.blocks), (16, leBytes 8 n.blocks), (25, [1]), (26, [BitVec.ofNat 8 n.lbaf]), (30, [1]), (33, [1]),
     (104, leBytes 16 n.nguid), (128, leBytes 4 (9 * 65536)), (132, leBytes 4 (12 * 65536))]

/-- A namespace attached to a controller under an NSID, with its number; one being destroyed is not. -/
def State.nsAt (s : State) (c nsid : Nat) : Option (Nat × Namespace) :=
  if nsid = 0 then none
  else match smGet s.nvm.ns (nsid - 1) with
  | some n => if n.ctrls.contains c then some (nsid - 1, n) else none
  | none => none

/-- Invalid Namespace or Format, R415. -/
def badNs : Nat := nvmStatus 0 0xB true

/-- CNS of an Identify command. -/
def sqCns (d : List Byte) : Nat := getBits (sqDw d 10) 7 0

/-- Identify of one CNS; a CNS that R406 does not list completes with Invalid Field in Command. -/
def nvmIdentify (c cns : Nat) (sqe : HostData) (run : State → Nat → List Byte → Option State) (s : State) : Host.Outcome State Fault Refusal :=
  .next (nvmRow c 0 sqe (fun d => sqOp d == 6 && (sqCns d == cns || decide (sqCns d > 3)))
    (fun s sl d => if sqCns d > 3 then s.nvmDone c d badField else run s sl d) s)

/-- IDENTIFY_NAMESPACE. -/
def execIdentifyNamespace (c : Nat) (sqe : HostData) (s : State) : Host.Outcome State Fault Refusal :=
  nvmIdentify c 0 sqe (fun s sl d =>
    match s.nsAt c (sqNsid d) with
    | none => s.nvmDone c d badNs
    | some (_, n) => s.nvmReturn c sl d (.ok, []) n.identify) s

/-- IDENTIFY_CONTROLLER. -/
def execIdentifyController (c : Nat) (sqe : HostData) (s : State) : Host.Outcome State Fault Refusal :=
  nvmIdentify c 1 sqe (fun s sl d => s.nvmReturn c sl d (.ok, []) (s.idController c)) s

/-- IDENTIFY_NS_LIST: NSIDs above the one named, ascending. -/
def execIdentifyNsList (c : Nat) (sqe : HostData) (s : State) : Host.Outcome State Fault Refusal :=
  nvmIdentify c 2 sqe (fun s sl d =>
    if sqNsid d ≥ 0xFFFFFFFE then s.nvmDone c d badNs
    else
      let ids := (s.nvm.ns.filter (fun n => n.2.ctrls.contains c && decide (n.1 + 1 > sqNsid d))).map (·.1 + 1)
      s.nvmReturn c sl d (.ok, []) (layoutOf 4096 [(0, ids.flatMap (leBytes 4))])) s

/-- IDENTIFY_NS_DESCRIPTORS: the NGUID. -/
def execIdentifyNsDescriptors (c : Nat) (sqe : HostData) (s : State) : Host.Outcome State Fault Refusal :=
  nvmIdentify c 3 sqe (fun s sl d =>
    match s.nsAt c (sqNsid d) with
    | none => s.nvmDone c d badNs
    | some (_, n) => s.nvmReturn c sl d (.ok, []) (layoutOf 4096 [(0, [2, 16, 0, 0] ++ leBytes 16 n.nguid)])) s

/-! ### Log pages, R408, R418 -/

/-- PF0's junction temperature in kelvin. -/
def State.pf0Kelvin (s : State) : Nat := smGetD s.pw.temps 18 0 + 273

/-- A feature's current value: identifier and selector. -/
def Nvm.feat (n : Nvm) (fid sel : Nat) : Nat :=
  smGetD n.feats (fid * 2 ^ 20 + sel) (if fid = 4 ∧ sel = 0 then 0xFFFF else if fid = 0xB then 0x11F else if fid = 0xC ∧ sel = 64 then 1
    else if fid = 0xC ∧ sel < 3 then (sel + 1) * 8 + (if sel = 0 then 5 else if sel = 1 then 100 else 2000) * 256 else 0)

/-- The SMART / Health Information page. -/
def State.healthPage (s : State) (c : Nat) : List Byte :=
  let n := s.ctl c
  let t := s.pf0Kelvin
  layoutOf 512
    [(0, [if n.feat 4 0 ≤ t ∨ t < n.feat 4 0x100000 then 2 else 0]), (1, leBytes 2 t), (3, [100]), (64, leBytes 16 n.reads),
     (80, leBytes 16 n.writes), (112, leBytes 16 (s.lifeCount 1)), (128, leBytes 16 (s.lifeCount 0 / 3600)),
     (144, leBytes 16 (s.lifeCount 3 + s.lifeCount 8)), (160, leBytes 16 n.mediaErrs), (176, leBytes 16 n.errCount)]

/-- The Error Information page: 64 entries, newest first. -/
def State.errorPage (s : State) (c : Nat) : List Byte :=
  layoutOf 4096 ((s.ctl c).errors.mapIdx (fun i e =>
    (64 * i, leBytes 8 e.1 ++ leBytes 2 e.2.1 ++ leBytes 2 e.2.2.1 ++ leBytes 2 (e.2.2.2 * 2))))

/-- The Commands Supported and Effects page: CSUPP, and LBCC for commands that change data. -/
def effectsPage : List Byte :=
  layoutOf 4096 (adminOps.map (fun o => (4 * o, leBytes 4 (if o ≥ 0x80 then 3 else 1))) ++
    ioOps.map (fun o => (1024 + 4 * o, leBytes 4 (if o = 1 ∨ o ≥ 8 then 3 else 1))))

/-- The Sanitize Status page: SPROG and SSTAT. -/
def State.sanPage (s : State) (c : Nat) : List Byte :=
  let running := match smGet s.nvm.ops c with | some o => o.kind == 2 && !o.ended | none => false
  let pos := match smGet s.nvm.ops c with | some o => sprog o.pos o.total | none => 65535
  layoutOf 512 [(0, leBytes 2 (if running then pos else 65535)), (2, leBytes 2 (if running then 2 else smGetD s.nvm.san c 0))]

/-- A log page's bytes. -/
def State.logPage (s : State) (c lid : Nat) : Option (List Byte) :=
  match lid with
  | 1 => some (s.errorPage c)
  | 2 => some (s.healthPage c)
  | 5 => some effectsPage
  | 0x81 => some (s.sanPage c)
  | _ => none

/-- GET_LOG_PAGE, R408. -/
def execGetLogPage (c : Nat) (sqe lst : HostData) (s : State) : Host.Outcome State Fault Refusal :=
  nvmAdmin c 2 sqe (fun s sl d =>
    match s.logPage c (getBits (sqDw d 10) 7 0) with
    | none => s.nvmDone c d (nvmStatus 1 9)
    | some bs =>
      let n := (getBits (sqDw d 10) 31 16 + getBits (sqDw d 11) 15 0 * 65536 + 1) * 4
      let off := sqDw d 12 + sqDw d 13 * 2 ^ 32
      if n > 0x100000 ∨ off % 4 ≠ 0 ∨ off > bs.length then s.nvmDone c d badField
      else s.nvmReturn c sl d lst ((bs.drop off ++ List.replicate n 0).take n)) s

/-! ### Abort, features, events, R406, R407 -/

/-- ABORT: a command that has not yet reached its backing, or an asynchronous event request. -/
def execAbort (c : Nat) (sqe : HostData) (s : State) : Host.Outcome State Fault Refusal :=
  nvmAdmin c 8 sqe (fun s _ d =>
    let n := s.ctl c
    let sq := getBits (sqDw d 10) 15 0
    let cid := getBits (sqDw d 10) 31 16
    match n.cmds.find? (fun x => x.is sq cid && !x.backed) with
    | some x => (s.nvmFinish c x (nvmStatus 0 7)).nvmDone c d 0 0
    | none =>
      if sq = 0 ∧ n.aers.contains cid then ((s.setCtl c { n with aers := n.aers.erase cid }).nvmEnd c 0 cid 0 (nvmStatus 0 7)).nvmDone c d 0 0
      else s.nvmDone c d 0 1) s

/-- The features of R407. -/
def nvmFeatures : List Nat := [1, 2, 4, 7, 8, 9, 0xB, 0xC]

/-- The selector within a feature that CDW11 names: the temperature sensor and threshold type, the vector. -/
def featSel (fid dw11 : Nat) : Nat := if fid = 4 then getBits dw11 21 16 * 65536 else if fid = 9 then getBits dw11 15 0 else if fid = 0xC then 64 else 0

/-- Queues of R407: the smaller of 1,024 and the owner's remaining quota plus the queues already created, 0's based. -/
def State.queueCount (s : State) (c sl : Nat) : Nat :=
  let n := min 1024 (s.quota sl 10 - s.pairsHeld sl + ((s.ctl c).cqs.length - 1)) - 1
  n * 65536 + n

/-- SET_FEATURES, R407: the current value only; Autonomous Power State Transition brings 256 bytes of table. -/
def execSetFeatures (c : Nat) (sqe data : HostData) (s : State) : Host.Outcome State Fault Refusal :=
  nvmAdmin c 9 sqe (fun s sl d =>
    let n := s.ctl c
    let fid := getBits (sqDw d 10) 7 0
    let v := sqDw d 11
    if !nvmFeatures.contains fid then s.nvmDone c d badField
    else if bit (sqDw d 10) 31 then s.nvmDone c d (nvmStatus 1 0xD)
    else
      let put := fun (n : Nvm) (w : Nat) => { n with feats := smSet n.feats (fid * 2 ^ 20 + featSel fid v) w }
      if fid = 2 then
        let ps := v % 32
        if ps > 3 then s.nvmDone c d badField
        else (s.setCtl c { put n v with ps := ps, lastOp := if ps ≤ 1 then ps else n.lastOp }).nvmDone c d 0
      else if fid = 7 then s.nvmDone c d 0 (s.queueCount c sl)
      else if fid = 4 then (s.setCtl c (put n (v % 65536))).nvmDone c d 0
      else if fid = 9 ∧ v % 65536 > 1024 then s.nvmDone c d badField
      else if fid = 0xC then
        match s.prpPages c sl d 256 (.ok, []) with
        | .error e => (match e with | none => none | some st => s.nvmDone c d st)
        | .ok (s, ps) =>
          match s.nvmGather c sl ps data with
          | .error none => none
          | .error (some st) => s.nvmDone c d st
          | .ok (s, bs) =>
            let feats := (List.range 32).foldl (fun m i => smSet m (0xC * 2 ^ 20 + i) (leField bs (8 * i) 8)) (put (s.ctl c) (v % 2)).feats
            (s.setCtl c { s.ctl c with feats := feats }).nvmDone c d 0
      else (s.setCtl c (put n v)).nvmDone c d 0) s

/-- GET_FEATURES, R407: SEL current or default. -/
def execGetFeatures (c : Nat) (sqe : HostData) (s : State) : Host.Outcome State Fault Refusal :=
  nvmAdmin c 10 sqe (fun s sl d =>
    let fid := getBits (sqDw d 10) 7 0
    let sel := getBits (sqDw d 10) 10 8
    let n := if sel = 1 then Nvm.init else s.ctl c
    if !nvmFeatures.contains fid ∨ sel > 1 then s.nvmDone c d badField
    else if fid = 7 then s.nvmDone c d 0 (s.queueCount c sl)
    else if fid = 2 then s.nvmDone c d 0 (if sel = 1 then 0 else putBits (n.feat 2 0) 4 0 n.ps)
    else if fid = 0xC then
      s.nvmReturn c sl d (.ok, []) ((List.range 32).flatMap (fun i => leBytes 8 (n.feat 0xC i))) (n.feat 0xC 64)
    else s.nvmDone c d 0 (n.feat fid (featSel fid (sqDw d 11)))) s

/-- ASYNC_EVENT_REQUEST: at most four outstanding; an event that waits completes it at once. -/
def execAsyncEventRequest (c : Nat) (sqe : HostData) (s : State) : Host.Outcome State Fault Refusal :=
  nvmAdmin c 12 sqe (fun s _ d =>
    let n := s.ctl c
    if n.aers.length ≥ 4 then s.nvmDone c d (nvmStatus 1 5)
    else match n.events with
    | e :: es => (s.setCtl c { n with events := es }).nvmDone c d 0 e
    | [] => some (s.setCtl c { n with aers := n.aers ++ [sqCid d] })) s

/-! ### Format and Sanitize, R416 to R418 -/

/-- Format In Progress and Sanitize In Progress. -/
def opBusy (kind : Nat) : Nat := if kind = 1 then nvmStatus 0 0x84 else nvmStatus 0 0x1D true

/-- The refusal of a Format or Sanitize while the controller's recorded operation is neither IDLE nor COMPLETED (R416); a Block Erase
takes over from a sanitize that failed (R418). -/
def State.opRefusal (s : State) (c : Nat) (erase : Bool) : Option Nat :=
  let st := s.opState c
  let kind := s.fget NVC_OP_STATUS_KIND 0 c
  if st = 0 ∨ st = 5 ∨ (st = 4 ∧ kind = 2 ∧ erase) then none else some (opBusy kind)

/-- Starts a recorded operation, R418, R419: its record is written, or that write fails and none is there. -/
def State.startOp (s : State) (c kind lbaf : Nat) (nss : List (Nat × Namespace)) (cmd : Option (Nat × Nat)) (recOk : Bool) : State :=
  let rs := nss.map (fun p => p.2.recorded p.1)
  let o : RecOp := { kind := kind, lbaf := lbaf, nss := rs, pos := 0, total := (rs.map (fun r => chunksOf r.bytes)).sum, cmd := cmd, chunk := none,
                     verdict := 0, bad := none, saved := if recOk then some 0 else none, started := false, ended := false }
  let s := { s with nvm := { s.nvm with failed := s.nvm.failed.filter (fun f => f / 64 != c) } }
  let s := if recOk then s else s.event NVC_ERR_STATUS_REC_WRITE_FAIL
  if o.total = 0 then s.endOp c o true true else (s.setOp c o).showOp c 1 o

/-- Namespaces attached to a controller, by number. -/
def State.nsOf (s : State) (c : Nat) : List (Nat × Namespace) := s.nvm.ns.filter (fun n => n.2.ctrls.contains c)

/-- FORMAT_NVM, R416. -/
def execFormatNvm (c : Nat) (sqe : HostData) (s : State) (recOk : Bool := true) : Host.Outcome State Fault Refusal :=
  nvmAdmin c 0x80 sqe (fun s _ d =>
    let w := sqDw d 10
    let lbaf := getBits w 3 0
    let ses := getBits w 11 9
    let targets := if sqNsid d = 0xFFFFFFFF then some (s.nsOf c) else (s.nsAt c (sqNsid d)).map (fun n => [n])
    match targets with
    | none => s.nvmDone c d badNs
    | some ns =>
      if lbaf > 1 ∨ getBits w 13 12 ≠ 0 then s.nvmDone c d (nvmStatus 1 0xA)
      else if bit w 4 ∨ getBits w 7 5 ≠ 0 ∨ ses > 1 then s.nvmDone c d badField
      else match s.opRefusal c false with
      | some st => s.nvmDone c d st
      | none =>
        if ses = 0 then (s.reformat lbaf (ns.map (·.1))).nvmDone c d 0
        else some (s.startOp c 1 lbaf ns (some (0, sqCid d)) recOk)) s

/-- SANACT of a Sanitize command. -/
def sanAct (d : List Byte) : Nat := getBits (sqDw d 10) 2 0

/-- Sanitize of one action; the others complete with Invalid Field in Command. -/
def nvmSanitize (c act : Nat) (sqe : HostData) (run : State → Nat → List Byte → Option State) (s : State) : Host.Outcome State Fault Refusal :=
  .next (nvmRow c 0 sqe (fun d => sqOp d == 0x84 && (sanAct d == act || !(sanAct d == 1 || sanAct d == 2)))
    (fun s sl d => if sanAct d = 1 ∨ sanAct d = 2 then run s sl d else s.nvmDone c d badField) s)

/-- BLOCK_ERASE, R417: every namespace attached to the controller; the command completes as the operation starts. -/
def execBlockErase (c : Nat) (sqe : HostData) (s : State) (recOk : Bool := true) : Host.Outcome State Fault Refusal :=
  nvmSanitize c 2 sqe (fun s _ d =>
    match s.opRefusal c true with
    | some st => s.nvmDone c d st
    | none => (s.nvmEnd c 0 (sqCid d) 0 0).startOp c 2 0 (s.nsOf c) none recOk) s

/-- EXIT_FAILURE_MODE, R417. -/
def execExitFailureMode (c : Nat) (sqe : HostData) (s : State) : Host.Outcome State Fault Refusal :=
  nvmSanitize c 1 sqe (fun s _ d =>
    let s := { s with nvm := { s.nvm with failed := s.nvm.failed.filter (fun f => f / 64 != c) } }
    let s := if s.opState c = 4 ∧ s.fget NVC_OP_STATUS_KIND 0 c = 2 then (s.fset NVC_OP_STATUS_STATE 0 0 c).fset NVC_OP_STATUS_KIND 0 0 c else s
    s.nvmDone c d 0) s

/-! ### Power states, R421 -/

/-- Is a controller idle: no command outstanding (asynchronous event requests apart, DEDUCED, log entry 39), no doorbell pending, no recorded
operation RUNNING? -/
def State.nvmIdle (s : State) (c : Nat) : Bool :=
  let n := s.ctl c
  n.cmds.isEmpty && n.posts.isEmpty && n.sqs.all (fun q => q.2.dev == q.2.host) && s.opState c != 1

/-- Has a controller been idle for the idle time that its table gives for its state (in ms; 0: no transition)? -/
def State.idleOver (s : State) (c : Nat) : Bool :=
  let n := s.ctl c
  let ms := n.feat 0xC n.ps / 256 % 2 ^ 24
  ms != 0 && decide (s.pw.onTicks ≥ n.idle + 100 * ms)

/-- POWER_STATE_TRANSITION, R421: an idle time has expired, and the table names this state. -/
def execPowerStateTransition (c ps : Nat) (s : State) : Host.Outcome State Fault Refusal :=
  let n := s.ctl c
  if c ≤ 7 ∧ n.rdy ∧ s.nvmIdle c ∧ n.feat 0xC 64 % 2 = 1 ∧ ps ≤ 3 ∧ s.idleOver c ∧ getBits (n.feat 0xC n.ps) 7 3 = ps then
    .next (s.setCtl c { n with ps := ps, lastOp := if ps ≤ 1 then ps else n.lastOp })
  else .next s

end Machine
end Sys2Proof
end

