-- ==== Sys2Proof/Machine/Composition.lean ====
section
/-!
DEFINITION. Composition (spec 11): scans, swatches, the copy procedure, flips and drains, tiers, time-slicing of clusters, the
placement commands, the indirect window.
-/
namespace Sys2Proof
namespace Machine

/-! ### Units -/

/-- Number that stands for segment i as a unit of a copy. -/
def segUnit (i : Nat) : Nat := 2 ^ 32 + i

/-- The slice of a table or sequence. -/
def ownerOf (h : Nat) : Nat := h / 2 ^ 26

/-- Extents of a table. -/
def State.extentCount (s : State) (h : Nat) : Nat :=
  match smGet s.tbl h with | some t => ceilDiv t.rows (max 1 (s.rowShape h).2) | none => 0

/-- Where a unit lies at its handle's epoch, as tier, LOC and home; none for a unit that does not exist. -/
def State.unitAt (s : State) (h u : Nat) : Option UnitPlace :=
  match smGet s.tbl h with
  | some _ =>
    if u ≥ 2 ^ 32 then
      if (s.segIndices h).contains (u - 2 ^ 32) then
        let t := pickSlot (smGetD s.cmp.seg (u - 2 ^ 32) 0) (s.epoch h)
        some { tier := t.tier, loc := t.loc, home := t.home }
      else none
    else (s.extentPlace h u (s.epoch h)).map (fun p => { tier := p.tier, loc := p.addr / 0x10000, home := p.home })
  | none => (s.runPlace h u (s.epoch (s.dirHandle h))).map (fun p => { tier := p.tier, loc := p.addr / 0x10000, home := p.home })

/-- HEAT of a unit (a segment's: the sum over its extents). -/
def State.unitHeat (s : State) (h u : Nat) : Nat :=
  match smGet s.tbl h with
  | some _ =>
    if u ≥ 2 ^ 32 then
      let g := smGetD s.cmp.seg (u - 2 ^ 32) 0
      ((List.range (eGet g 0x16 2)).map (fun i => s.extHeat (s.homeOf ((pickSlot g (s.epoch h)).home % 64) i / 384) (excKey h (eGet g 0x18 4 + i)))).sum
    else match s.unitAt h u with | some p => s.extHeat (p.home / 384) (excKey h u) | none => 0
  | none => match s.unitAt h u with | some p => s.runHeat (p.home / 384) (runKey h u) | none => 0

/-- The FLAGS byte of a unit's own map entry. -/
def State.unitFlags (s : State) (h u : Nat) : Nat :=
  if (smGet s.tbl h).isSome then
    (if u ≥ 2 ^ 32 then eGet (smGetD s.cmp.seg (u - 2 ^ 32) 0) 0x15 1 else eGet (smGetD s.cmp.exc (excKey h u) 0) 0x15 1)
  else eGet (smGetD s.cmp.run (runKey h u) 0) 0x15 1

/-- Changes a unit's own map entry. -/
def State.onEntry (s : State) (h u : Nat) (f : Nat → Nat) : State :=
  let c := s.cmp
  if (smGet s.tbl h).isSome then
    if u ≥ 2 ^ 32 then
      (match smGet c.seg (u - 2 ^ 32) with
       | some e => { s with cmp := { c with seg := smSet c.seg (u - 2 ^ 32) (f e) } }
       | none => s)
    else match smGet c.exc (excKey h u) with
      | some e => { s with cmp := { c with exc := smSet c.exc (excKey h u) (f e) } }
      | none => s
  else match smGet c.run (runKey h u) with
    | some e => s.putRun (runKey h u) (f e)
    | none => s

/-- Is a unit MOVING: a copy holds it, or its entry's flag says that its flip's drain has not ended? -/
def State.unitMoving (s : State) (h u : Nat) : Bool :=
  s.cmp.copies.any (fun c => (s.copyHolds c h u).isSome) || bit (s.unitFlags h u) 1

/-- Does a handle await the drain of a flip? -/
def State.draining (s : State) (h : Nat) : Bool := s.cmp.drains.any (fun d => d.handle == s.dirHandle h)

/-! ### Flips and drains, R274, R275 -/

/-- A slot with DEFAULT tier. -/
def defaultSlot (swidx : Nat) : Nat := slotVal { tier := 3, home := 0, loc := 0, swidx := swidx }

/-- Step 1 and 2 of a flip for one handle: entries take their new slots, the epoch moves on, the drain begins. -/
def State.flip (s : State) (h : Nat) (units : List (Nat × Nat × Nat)) (freed : List Nat) : State :=
  let dh := s.dirHandle h
  let e := (s.epoch dh + 1) % 65536
  let s := units.foldl (fun s (u : Nat × Nat × Nat) => s.onEntry u.1 u.2.1 (fun m =>
    eSet (eSet (eSet m 8 8 (eGet m 0 8)) 0 8 u.2.2) 0x10 2 e)) s
  let s := s.setDir dh (fun d => eSet (eSet d 6 2 e) 5 1 (putBits (eGet d 5 1) 2 2 1))
  let keys := fun (p : Nat × Nat × Nat → Bool) (f : Nat × Nat × Nat → Nat) => (units.filter p).map f
  let isT := fun (u : Nat × Nat × Nat) => (smGet s.tbl u.1).isSome
  let d : Drain :=
    { handle := dh, epoch := e,
      segs := keys (fun u => isT u && decide (u.2.1 ≥ 2 ^ 32)) (fun u => u.2.1 - 2 ^ 32),
      excs := keys (fun u => isT u && decide (u.2.1 < 2 ^ 32)) (fun u => excKey u.1 u.2.1),
      runs := keys (fun u => !isT u) (fun u => runKey u.1 u.2.1), freed := freed }
  { s with cmp := { s.cmp with drains := s.cmp.drains ++ [d] } }

/-- Is a work item that names a handle, stamped below its current epoch, not yet complete (R274)? -/
def State.oldWork (s : State) (h e : Nat) : Bool := s.works.any (fun w => w.2.names h && w.2.stage != 0 && w.2.stamp != e)

/-- Swatch records that no slot names are free. -/
def State.dropSwatches (s : State) : State :=
  let used := s.cmp.exc.flatMap (fun e =>
    let p := match s.extentPlace (e.1 / 2 ^ 24) (e.1 % 2 ^ 24) (s.epoch (e.1 / 2 ^ 24)) with | some w => w.home / 384 | none => 0
    ([slotOf (eGet e.2 0 8), slotOf (eGet e.2 8 8)].filter (fun t => t.swidx != 0)).map (fun t => p * 8192 + t.swidx - 1))
  let coming := s.cmp.copies.filterMap (fun c => c.swatch.map (fun w => c.dst.home / 384 * 8192 + w.1 - 1))
  { s with cmp := { s.cmp with swatch := s.cmp.swatch.filter (fun w => used.contains w.1 || coming.contains w.1) } }

/-- The swatches of these extents of a table are flipped off, in one flip. -/
def State.offFlip (s : State) (h : Nat) (xs : List Nat) : State :=
  let us := xs.filterMap (fun x =>
    let t := slotOf (eGet (smGetD s.cmp.exc (excKey h x) 0) 0 8)
    if t.swidx = 0 then none else some (h, x, slotVal { t with swidx := 0 }))
  if us.isEmpty then s else s.flip h us []

/-- The drain of a handle's flips ends: OLD is NEW in every entry they changed, what they superseded is free, a codebook slot that no
epoch in force names is no longer in use (R185). Swatches that waited to be flipped off are. -/
def State.endDrain (s : State) (h : Nat) : State :=
  let ds := s.cmp.drains.filter (fun d => d.handle == h)
  let settle := fun (m : Nat) => eSet (eSet m 8 8 (eGet m 0 8)) 0x15 1 (putBits (eGet m 0x15 1) 1 1 0)
  let upd := fun (m : SMap Nat) (ks : List Nat) => smMap m (fun k v => if ks.contains k then settle v else v)
  let c := s.cmp
  let s := { s with cmp := { c with seg := upd c.seg (ds.flatMap Drain.segs), exc := upd c.exc (ds.flatMap Drain.excs),
                                    drains := c.drains.filter (fun d => d.handle != h) } }
  let s := (ds.flatMap Drain.runs).foldl (fun s k => match smGet s.cmp.run k with | some v => s.putRun k (settle v) | none => s) s
  let s := s.setDir h (fun d => eSet d 5 1 (putBits (eGet d 5 1) 2 2 0))
  let s := match smGet s.tbl h with
    | some t => if t.slot = t.oldSlot then s else { s.freeCodebooks t.oldSlot with tbl := smSet s.tbl h { t with oldSlot := t.slot } }
    | none => s
  let s := ((s.freeRegions (ds.flatMap Drain.freed)).dropHomes).dropSwatches
  let mine := s.cmp.offs.filter (fun k => k / 2 ^ 24 == h)
  ({ s with cmp := { s.cmp with offs := s.cmp.offs.filter (fun k => k / 2 ^ 24 != h) } } : State).offFlip h (mine.map (· % 2 ^ 24))

/-- DRAIN_END, R274, R275: every piece of work stamped before the flip has completed. -/
def execDrainEnd (handle : Nat) (s : State) : Host.Outcome State Fault Refusal :=
  if s.fwRuns && s.cmp.drains.any (fun d => d.handle == handle) && !s.oldWork handle (s.epoch handle) then .next (s.endDrain handle) else .next s

/-! ### Swatches, R278 to R282 -/

/-- Extents with a replica on bristles that satisfy p, as exception keys. -/
def State.swatchedOn (s : State) (p : Nat → Bool) : List Nat :=
  s.cmp.exc.filterMap (fun e =>
    let t := slotOf (eGet e.2 0 8)
    match s.extentPlace (e.1 / 2 ^ 24) (e.1 % 2 ^ 24) (s.epoch (e.1 / 2 ^ 24)) with
    | none => none
    | some w =>
      let rec32 := smGetD s.cmp.swatch (w.home / 384 * 8192 + t.swidx - 1) 0
      if t.swidx ≠ 0 ∧ (List.range (eGet rec32 2 1)).any (fun r => p (replica rec32 r).1) then some e.1 else none)

/-- Swatches with a replica on bristles that satisfy p are flipped off, R282, one flip for each table; while a table drains its flip waits
(R274). Copies that would add such a replica are given up. -/
def State.swatchOff (s : State) (p : Nat → Bool) : State :=
  let s := s.dropCopies (fun c => match c.swatch with
    | some w => (List.range (eGet w.2 2 1)).any (fun r => p (replica w.2 r).1)
    | none => false)
  let ks := s.swatchedOn p
  ((ks.map (· / 2 ^ 24)).eraseDups).foldl (fun s h =>
    let mine := ks.filter (fun k => k / 2 ^ 24 == h)
    if s.draining h then { s with cmp := { s.cmp with offs := (s.cmp.offs ++ mine).eraseDups } } else s.offFlip h (mine.map (· % 2 ^ 24))) s

/-- Swatches with a replica on bristles that satisfy p are flipped off, and as the SRAM is lost or about to be overwritten, work that still
resolves them is served from the tier at once (R282). -/
def State.swatchLost (s : State) (p : Nat → Bool) : State :=
  let s := s.swatchOff p
  { s with cmp := { s.cmp with swatch := smMap s.cmp.swatch (fun _ e =>
      if (List.range (eGet e 2 1)).any (fun r => p (replica e r).1) then eSet e 0 2 0 else e) } }

/-- Has a cluster no replica of a swatch in force, superseded, or coming (R282, R293)? -/
def State.swatchFree (s : State) (e : Nat) : Bool :=
  !s.cmp.swatch.any (fun w => (List.range (eGet w.2 2 1)).any (fun r => (replica w.2 r).1 / 16 == e))

/-- Sub-counter of a block of an extent on a palette. -/
def State.subCount (s : State) (p key b : Nat) : Nat := match s.trackLine p key with | some l => l.getD b 0 | none => 0

/-- The longest stretch of consecutive members of a list that satisfy p, the first of equals. -/
def longestRun (p : Nat → Bool) (l : List Nat) : List Nat :=
  (l.foldl (fun (acc : List Nat × List Nat) x =>
    let cur := if p x then acc.1 ++ [x] else []
    (cur, if cur.length > acc.2.length then cur else acc.2)) ([], [])).2

/-- The blocks a removal leaves: blocks to be removed go; a replica is packed and nothing is copied, so of what is left only blocks that
follow one another there keep their places, the longest stretch of them (DESIGN CHOICE, log entry 38). -/
def trimBlocks (blocks : Nat) (keep : Nat → Bool) : Nat :=
  (longestRun keep ((List.range 16).filter (bit blocks))).foldl (fun m b => m + 2 ^ b) 0

/-- First SRAM block of the swatch area that a slice's bristles on palette p are to have (R278). -/
def State.swatchFrom (s : State) (p sl : Nat) : Nat := 64 - s.fget CMP_SWATCH_CTL_BUDGET p * s.fget CMP_SLICE_POL_SWATCH_PCT p sl / 100

/-- Removes blocks from the front and back of a record: replicas' bases move up by the blocks gone from the front. -/
def trimRecord (e blocks : Nat) : Nat :=
  let lo := ((List.range 16).find? (fun b => bit blocks b)).getD 0
  let gone := heldBelow (eGet e 0 2) lo
  (List.range (eGet e 2 1)).foldl (fun m r => eSet m (10 + 4 * r) 2 ((replica e r).2 + gone)) (eSet e 0 2 blocks)

/-- The removals of a scan on palette p, R278, R279 step 1: (exception key, new blocks). Cold blocks go, and those beyond a smaller new
size. -/
def State.scanRemovals (s : State) (p : Nat) : List (Nat × Nat) :=
  let cold := s.fget CMP_HEAT_CTL_HOT_THRESH p / 64
  let on := s.fon CMP_SWATCH_CTL_EN p
  s.cmp.exc.filterMap (fun e =>
    let h := e.1 / 2 ^ 24
    let x := e.1 % 2 ^ 24
    match s.extentPlace h x (s.epoch h) with
    | some w =>
      if w.swidx = 0 ∨ w.home / 384 ≠ p ∨ s.unitMoving h x ∨ s.draining h then none
      else
        let m := smGetD s.cmp.swatch (p * 8192 + w.swidx - 1) 0
        let b := eGet m 0 2
        let inside := fun (i : Nat) => (List.range (eGet m 2 1)).all (fun r => decide (s.swatchFrom p (ownerOf h) ≤ (replica m r).2 + heldBelow b i))
        let keep := if on then trimBlocks b (fun i => decide (s.subCount p e.1 i ≥ cold) && inside i) else 0
        if keep = b then none else some (e.1, keep)
    | none => none)

/-- A swatch record that no slot and no copy uses, on palette p. -/
def State.freeSwatch (s : State) (p : Nat) : Option Nat :=
  (smLowestFree s.cmp.swatch (fun _ => true) (p * 8192) 8192).map (fun k => k - p * 8192 + 1)

/-- Carries out removals, one flip for each handle. -/
def State.removeBlocks (s : State) (p : Nat) (rs : List (Nat × Nat)) : State :=
  ((rs.map (fun r => r.1 / 2 ^ 24)).eraseDups).foldl (fun s h =>
    let mine := rs.filter (fun r => r.1 / 2 ^ 24 == h)
    let r := mine.foldl (fun (acc : State × List (Nat × Nat × Nat)) r =>
      let s := acc.1
      let t := slotOf (eGet (smGetD s.cmp.exc r.1 0) 0 8)
      if r.2 = 0 then (s, acc.2 ++ [(h, r.1 % 2 ^ 24, slotVal { t with swidx := 0 })])
      else match s.freeSwatch p with
        | none => acc
        | some n =>
          let e := trimRecord (smGetD s.cmp.swatch (p * 8192 + t.swidx - 1) 0) r.2
          ({ s with cmp := { s.cmp with swatch := smSet s.cmp.swatch (p * 8192 + n - 1) e } },
            acc.2 ++ [(h, r.1 % 2 ^ 24, slotVal { t with swidx := n })])) (s, [])
    if r.2.isEmpty then r.1 else r.1.flip h r.2 []) s

/-- Blocks of a bristle's swatch area that records in force, or coming, take. -/
def State.swatchTaken (s : State) (b : Nat) : List Nat :=
  let recs := (s.cmp.swatch.filter (fun w => w.1 / 8192 == b / 384)).map (·.2)
  recs.flatMap (fun e => ((List.range (eGet e 2 1)).filter (fun r => (replica e r).1 == b)).flatMap (fun r =>
    (List.range (heldBelow (eGet e 0 2) 16)).map ((replica e r).2 + ·)))

/-- Blocks of an extent that a record in force holds. -/
def State.heldBlocks (s : State) (p key : Nat) : Nat :=
  let t := slotOf (eGet (smGetD s.cmp.exc key 0) 0 8)
  if t.swidx = 0 then 0 else eGet (smGetD s.cmp.swatch (p * 8192 + t.swidx - 1) 0) 0 2

/-- Blocks of an extent that a scan adds where there is room, R279 step 2: tracked, not held, and hot enough. -/
def State.hotBlocks (s : State) (p key : Nat) : List Nat :=
  (List.range 16).filter (fun b => !bit (s.heldBlocks p key) b && decide (s.subCount p key b ≥ s.fget CMP_HEAT_CTL_HOT_THRESH p / 16))

/-- The highest sub-counter of a list of blocks. -/
def State.topCount (s : State) (p key : Nat) (bs : List Nat) : Nat := bs.foldl (fun m b => max m (s.subCount p key b)) 0

/-- First and last blocks between which a bristle of a slice may take replicas (R278): within the smaller of its area and the one that a
load would give it. -/
def State.swatchLow (s : State) (p sl b : Nat) : Nat := max (s.fget BRS_SWATCH_BASE b) (s.swatchFrom p sl)

/-- The slice's bristles on palette p that may take replicas: in clusters that time-slicing does not share (R278). -/
def State.swatchBristles (s : State) (p sl : Nat) : List Nat :=
  (s.bristlesOn sl p).filter (fun b => (smGet s.cmp.turns (b / 16)).isNone && !s.failing.contains (b / 16))

/-- Has a bristle n consecutive free blocks of swatch area? -/
def State.swatchRoom (s : State) (p sl b n : Nat) : Bool :=
  let lo := s.swatchLow p sl b
  let taken := s.swatchTaken b
  (List.range (64 + 1 - (lo + n))).any (fun i => (List.range n).all (fun j => !taken.contains (lo + i + j)))

/-- Clusters of palette p where a slice has room for a replica of n blocks. -/
def State.roomClusters (s : State) (p sl n : Nat) : List Nat :=
  (((s.swatchBristles p sl).filter (fun b => s.swatchRoom p sl b n)).map (· / 16)).eraseDups

/-- Replicas that R279 gives a record whose hottest added block counts `top`. -/
def State.wantReps (s : State) (p top : Nat) : Nat := min (s.fget CMP_SWATCH_CTL_MAXREP p) (1 + top / max 1 (s.fget CMP_HEAT_CTL_HOT_THRESH p))

/-- May a copy start on palette p: fewer than MAX_ACTIVE run there (R284), and heat is not CRITICAL (R287)? -/
def State.copyRoom (s : State) (p : Nat) : Bool :=
  decide ((s.cmp.copies.filter (fun c => c.src.home / 384 == p)).length < s.fget CMP_MIG_CTL_MAX_ACTIVE p) &&
    decide (s.fget GSO_THERM_STATUS_THERM_STATE < 2)

/-- Is a swatch record for an extent one that R278 and R279 have a scan add on palette p? It holds what is held and the hot blocks (all,
unless one more would fit nowhere), in as many replicas as R279 gives where the areas have room. -/
def State.swatchAddOk (s : State) (p key e : Nat) : Bool :=
  let h := key / 2 ^ 24
  let x := key % 2 ^ 24
  let sl := ownerOf h
  let n := heldBelow (eGet e 0 2) 16
  let reps := (List.range (eGet e 2 1)).map (replica e)
  let old := s.heldBlocks p key
  let hot := s.hotBlocks p key
  let added := (List.range 16).filter (fun b => bit (eGet e 0 2) b && !bit old b)
  match s.unitAt h x with
  | none => false
  | some w =>
    s.fon CMP_SWATCH_CTL_EN p && w.home / 384 == p && !s.unitMoving h x && s.copyRoom p && !added.isEmpty &&
      added.all hot.contains && (hot.all added.contains || (s.roomClusters p sl (n + 1)).isEmpty) && old &&& eGet e 0 2 == old && eGet e 4 4 == x &&
      decide (1 ≤ reps.length) && reps.length == min (s.wantReps p (s.topCount p key added)) (s.roomClusters p sl n).length &&
      ((reps.map (fun r => r.1 / 16)).eraseDups).length == reps.length && eGet e 3 1 == 0 && eGet e 0x18 8 == 0 &&
      reps.all (fun r => (s.swatchBristles p sl).contains r.1 && decide (s.swatchLow p sl r.1 ≤ r.2 ∧ r.2 + n ≤ 64) &&
        (List.range n).all (fun i => !(s.swatchTaken r.1).contains (r.2 + i)))

/-- The extents of palette p, as exception keys, for which a scan still has blocks to add and room to add them (R279 step 2). -/
def State.swatchDue (s : State) (p : Nat) : List Nat :=
  if !s.fon CMP_SWATCH_CTL_EN p || !s.copyRoom p then []
  else ((s.cmp.tracker.filter (fun q => q.1 / 2 ^ 64 == p)).map (fun q => q.1 % 2 ^ 64)).filter (fun key =>
    let h := key / 2 ^ 24
    (match s.unitAt h (key % 2 ^ 24) with | some w => w.home / 384 == p | none => false) && !s.unitMoving h (key % 2 ^ 24) &&
      !(s.hotBlocks p key).isEmpty && !(s.roomClusters p (ownerOf h) (heldBelow (s.heldBlocks p key) 16 + 1)).isEmpty)

/-! ### Copies, R283 to R288 -/

/-- Step 1 of the copy procedure: the destination is allocated, an extent without an exception gets one, MOVING is set. None
where it cannot start. -/
def State.startCopy (s : State) (h u : Nat) (dst : UnitPlace) (sw : Option (Nat × Nat)) : Option State :=
  match s.unitAt h u with
  | none => none
  | some src =>
    let p := src.home / 384
    let isX := (smGet s.tbl h).isSome && decide (u < 2 ^ 32)
    let fresh := isX && (smGet s.cmp.exc (excKey h u)).isNone
    if s.unitMoving h u || !s.copyRoom p then none
    else if fresh && decide (s.cmp.exc.length ≥ 2 ^ 20) then some (s.event CMP_ERR_STATUS_EXC_FULL p)
    else if sw.isNone && dst.tier == 0 && !(s.unitRegions h u dst.loc).all s.regionFree then none
    else
      let s := if fresh then { s with cmp := { s.cmp with exc := smSet s.cmp.exc (excKey h u) (mapEntry32 (defaultSlot 0) 0 u h) } } else s
      let s := s.onEntry h u (fun m => eSet m 0x15 1 (putBits (eGet m 0x15 1) 1 1 1))
      let s := if sw.isNone ∧ dst.tier = 0 then s.takeRegions (256 + ownerOf h) (s.unitRegions h u dst.loc) else s
      let s := match sw with
        | some (n, e) => { s with cmp := { s.cmp with swatch := smSet s.cmp.swatch (p * 8192 + n - 1) e } }
        | none => s
      let c : Copy := { handle := h, unit := u, src := src, dst := dst, phase := 0, passes := 0, dirty := [], swatch := sw }
      some { s with cmp := { s.cmp with copies := s.cmp.copies ++ [c] } }

/-- Reads n bytes of stack memory at src for a copy, burst by burst (R198, R199): which bursts, from the first, are poisoned. Only bursts
with something amiss need the look, and every one where a pseudo-channel has failed. -/
def State.copyRead (s : State) (src n : Nat) : State × List Nat :=
  let ks := if (List.range 20).any (fun m => s.rget MEM_PC_FAILED m != 0) then List.range (n / 32)
    else (s.stk.bursts.filter (fun p => decide (src / 32 ≤ p.1 ∧ p.1 < (src + n) / 32))).map (fun p => p.1 - src / 32)
  ks.foldl (fun (acc : State × List Nat) i =>
    let r := acc.1.readBurst (src / 32 + i) 0
    (r.1, if r.2 then acc.2 else acc.2 ++ [i])) (s, [])

/-- Copies n bytes of stack memory, a poisoned burst as the poison code word (R285). -/
def State.copyStack (s : State) (src dst n : Nat) : State :=
  let (s, bad) := s.copyRead src n
  let s : State := { s with mem := memCopy s.mem src dst n,
                            stk := { s.stk with bursts := smDelIf s.stk.bursts (fun k => decide (dst / 32 ≤ k ∧ k < (dst + n) / 32)) } }
  bad.foldl (fun s i => s.setBurst (dst / 32 + i) { bad := 0, poison := true, noRefetch := (s.burst (src / 32 + i)).noRefetch }) s

/-- Writes a block into a replica; the words of poisoned bursts stay uncorrectable there, so that their data is never returned (R200;
DESIGN CHOICE, log entry 38). -/
def State.fillBlock (s : State) (b o : Nat) (bytes : List Byte) (bad : List Nat) : State :=
  let a := sramAddr b o
  let s := (s.wakeBristle b).sramWrite b a bytes
  { s with ecc := bad.foldl (fun m i => (List.range 4).foldl (fun m j => smSet m (a + 32 * i + 8 * j) 3) m) s.ecc }

/-- The regions of a copy's unit as (region at the source, region at the destination). -/
def State.copyPairs (s : State) (c : Copy) : List (Nat × Nat) :=
  (s.unitRegions c.handle c.unit 0).map (fun i => (c.src.loc + i, c.dst.loc + i))

/-- Moves the bytes of a copy's unit: T1 to T1, from a tier's bytes into T1, out to a tier, or blocks into replicas. -/
def State.moveUnit (s : State) (c : Copy) (bytes : List Byte) : State :=
  match c.swatch with
  | some (_, e) =>
    (List.range 16).foldl (fun s b =>
      if !bit (eGet e 0 2) b then s
      else
        let (s, bad) := if c.src.tier = 0 then s.copyRead (c.src.loc * 0x10000 + b * 0x1000) 0x1000 else (s, [])
        let data := if c.src.tier = 0 then s.memGet (c.src.loc * 0x10000 + b * 0x1000) 0x1000 else (bytes.drop (b * 0x1000)).take 0x1000
        (List.range (eGet e 2 1)).foldl (fun s r => match replicaOffset e r (b * 0x1000) with
          | some o => s.fillBlock (replica e r).1 o data bad
          | none => s) s) s
  | none =>
    (s.copyPairs c).foldl (fun s (a, b) =>
      let i := b - c.dst.loc
      if c.dst.tier = 0 then
        if c.src.tier = 0 then s.copyStack (a * 0x10000) (b * 0x10000) 0x10000
        else s.stackWrite (b * 0x10000) ((bytes.drop (i * 0x10000)).take 0x10000)
      else
        let (s, bad) := if c.src.tier = 0 then s.copyRead (a * 0x10000) 0x10000 else (s, [])
        let data := if c.src.tier = 0 then s.memGet (a * 0x10000) 0x10000 else (bytes.drop (i * 0x10000)).take 0x10000
        let data := ((List.range 0x10000).zip data).map (fun x => if bad.contains (x.1 / 32) then 0 else x.2.toNat)
        let s := s.emit (.note 2 (c.handle :: c.unit :: c.dst.tier :: b :: data))
        if bad.isEmpty then s else s.emit (.note 3 (c.handle :: c.unit :: c.dst.tier :: b :: bad))) s

/-- Replaces a copy. -/
def State.setCopy (s : State) (c : Copy) : State :=
  { s with cmp := { s.cmp with copies := s.cmp.copies.map (fun d => if d.handle = c.handle ∧ d.unit = c.unit then c else d) } }

/-- The copy of a unit. -/
def State.copyOf (s : State) (h u : Nat) : Option Copy := s.cmp.copies.find? (fun c => c.handle == h && c.unit == u)

/-- Are update records or appends in flight for a unit? -/
def State.unitBusy (s : State) (c : Copy) : Bool :=
  let rpe := max 1 (s.rowShape c.handle).2
  s.works.any (fun w => w.2.kind == 0x11 && w.2.names c.handle && (w.2.recs.flatMap (·.poss)).any (fun i =>
    (s.copyHolds c c.handle (w.2.idx.getD i 0 / rpe)).isSome))

/-- COPY_PASS_DONE, R285 steps 2 to 4: a pass over the unit ends; HELD is set once at most 8 granules are dirty or 4 passes have
run. `bytes` are the unit's bytes where its source is a tier: there the granules dirty under HELD take a last pass of their own. -/
def execCopyPassDone (handle unit : Nat) (bytes : List Byte) (s : State) : Host.Outcome State Fault Refusal :=
  match s.copyOf handle unit with
  | some c =>
    let far := c.src.tier != 0
    if !s.fwRuns || (far && bytes.length != s.unitLen handle unit * 0x10000) then .next s
    else if c.phase = 1 then
      .next (if far && !s.unitBusy c then ((s.moveUnit c bytes).count (1 + c.dst.home / 384) 0 0x23 64 (c.dirty.length * 256)).setCopy { c with dirty := [] } else s)
    else if c.phase ≠ 0 then .next s
    else
      let s := (s.moveUnit c bytes).count (1 + c.dst.home / 384) 0 0x23 64 (s.unitLen handle unit * 0x10000)
      if c.dirty.length ≤ 8 ∨ c.passes ≥ 3 then
        .next ((s.setCopy { c with phase := 1, passes := c.passes + 1 }).onEntry handle unit (fun m => eSet m 0x15 1 (putBits (eGet m 0x15 1) 2 2 1)))
      else .next (s.setCopy { c with passes := c.passes + 1, dirty := [] })
  | none => .next s

/-- COPY_HELD_DRAINED, R285 step 4: those in flight have completed and the remaining dirty granules are copied; a tier's come by
COPY_PASS_DONE first. -/
def execCopyHeldDrained (handle unit : Nat) (s : State) : Host.Outcome State Fault Refusal :=
  match s.copyOf handle unit with
  | some c =>
    if !s.fwRuns || c.phase ≠ 1 || s.unitBusy c || (c.src.tier ≠ 0 && !c.dirty.isEmpty) then .next s
    else .next ((if c.dirty.isEmpty then s else s.moveUnit c []).setCopy { c with phase := 2, dirty := [] })
  | none => .next s

/-- A unit has been promoted for the commands that wait for it; those with none left complete (R296). -/
def State.settleAsks (s : State) : State :=
  let waits := fun (a : Ask) => a.units.any (fun u => s.cmp.copies.any (fun c => c.handle == u.1 && c.unit == u.2))
  let inT1 := fun (u : Nat × Nat) => match s.unitAt u.1 u.2 with | some p => p.tier == 0 | none => false
  let fin := s.cmp.asks.filter (fun a => a.kind != 2 && !waits a)
  let s1 := { s with cmp := { s.cmp with asks := s.cmp.asks.filter (fun a => a.kind == 2 || waits a) } }
  fin.foldl (fun s a =>
    if a.kind = 1 then s.ack a.ch .ok 0 [(a.units.filter inT1).length]
    else if a.units.all inT1 then (s.setDir a.handle (fun d => eSet d 5 1 (putBits (eGet d 5 1) 1 0 a.flags))).ack a.ch .ok 0 []
    else s.ack a.ch .quotaExceeded 0 []) s1

/-- Number that stands for codebook slot k as what a table's flip changes (R185). -/
def slotUnit (k : Nat) : Nat := 2 ^ 33 + k

/-- A table moves to codebook slot k, R185: one that firmware has written and marked in use on every controller, in the table's format,
and that no other table has. -/
def State.flipSlot (s : State) (h k : Nat) : State :=
  match smGet s.tbl h with
  | none => s
  | some t =>
    let ready := (List.range 20).all (fun m => bit (s.rget MEM_CB_INUSE m) k && s.cbFmt m k == s.cbFmt m t.slot)
    if t.mode = 0 || k ≥ 16 || !ready || s.draining h || s.tbl.any (fun x => x.2.mode != 0 && (x.2.slot == k || x.2.oldSlot == k)) then s
    else
      let s := (s.flip h [] []).setDir h (fun d => eSet d 0x1A 2 (putBits (eGet d 0x1A 2) 15 12 k))
      { s with tbl := smSet s.tbl h { t with slot := k, oldSlot := t.slot, slotFlip := s.epoch h } }

/-- Pages of a run, by place in it, that hold positions (R240). -/
def State.runPagesUsed (s : State) (h u : Nat) : Nat :=
  match smGet s.seqs h with
  | some q => (match smGet s.kvc q.cache with
    | some c => min c.run (ceilDiv (q.len (c.runOf u).1) 32 - (c.runOf u).2 * c.run)
    | none => 0)
  | none => 0

/-- EPOCH_FLIP, R274, R285 steps 5 and 6: the unit's new slot takes over at the next epoch; or, for the number of a codebook slot, the
table moves to that slot (R185). -/
def execEpochFlip (handle unit : Nat) (s : State) : Host.Outcome State Fault Refusal :=
  if !s.fwRuns then .next s
  else if unit ≥ 2 ^ 33 then .next (s.flipSlot handle (unit - 2 ^ 33))
  else match s.copyOf handle unit with
  | some c =>
    if c.phase ≠ 2 ∨ s.draining handle then .next s
    else
      let sl := ownerOf handle
      let isT := (smGet s.tbl handle).isSome
      let cur := slotOf (eGet (if isT then (if unit ≥ 2 ^ 32 then smGetD s.cmp.seg (unit - 2 ^ 32) 0 else smGetD s.cmp.exc (excKey handle unit) 0)
                               else smGetD s.cmp.run (runKey handle unit) 0) 0 8)
      let slot := match c.swatch with
        | some (k, _) => { cur with swidx := k }
        | none => { tier := c.dst.tier, loc := c.dst.loc, home := if isT ∧ unit ≥ 2 ^ 32 then cur.home else c.dst.home,
                    swidx := if isT ∧ unit < 2 ^ 32 ∧ c.dst.home / 384 = c.src.home / 384 then cur.swidx else 0 }
      let pairs := if c.swatch.isSome then [] else s.copyPairs c
      let s := { s with cmp := { s.cmp with copies := s.cmp.copies.filter (fun d => !(d.handle == handle && d.unit == unit)) } }
      let s := s.onEntry handle unit (fun m => eSet m 0x15 1 (putBits (eGet m 0x15 1) 2 2 0))
      let used := fun (p : Nat × Nat) => isT || (if c.src.tier = 0 then smGet s.own p.1 == some sl else decide (p.2 - c.dst.loc < s.runPagesUsed handle unit))
      let s := if c.dst.tier = 0 then (pairs.filter used).foldl (fun s p => { s with own := smSet s.own p.2 sl }) s else s
      let srcR := if c.src.tier = 0 then pairs.map (·.1) else []
      let s := srcR.foldl (fun s r => { s with own := smSet s.own r (256 + sl) }) s
      .next ((s.flip handle [(handle, unit, slotVal slot)] srcR).settleAsks)
  | none => .next s

/-! ### The scan, R279, R284, R290, R291 -/

/-- L of R284: heat on a stack of T1 units in local bands. -/
def State.stackHeat (s : State) (m : Nat) : Nat :=
  let at' := fun (h u : Nat) => match s.unitAt h u with
    | some p => if p.tier = 0 ∧ s.isLocal p.loc ∧ localStack p.loc = m then s.unitHeat h u else 0
    | none => 0
  ((s.cmp.heat.map (fun e => at' (e.1 / 2 ^ 24) (e.1 % 2 ^ 24))).sum) + ((s.cmp.run.map (fun e => at' (e.1 / 2 ^ 32) (e.1 % 2 ^ 32))).sum)

/-- Is a unit pinned against balance: PIN_PLACE of its handle or its slice? -/
def State.pinned (s : State) (h : Nat) : Bool :=
  bit (eGet (s.dirEntry (s.dirHandle h)) 5 1) 0 || s.fon CMP_SLICE_POL_PIN_PLACE 0 (ownerOf h)

/-- The local unpinned units on a stack that do not move, with their heat. -/
def State.movable (s : State) (m : Nat) : List (Nat × Nat × Nat) :=
  let us := s.cmp.heat.map (fun e => (e.1 / 2 ^ 24, e.1 % 2 ^ 24)) ++ s.cmp.run.map (fun e => (e.1 / 2 ^ 32, e.1 % 2 ^ 32))
  us.filterMap (fun u => match s.unitAt u.1 u.2 with
    | some p => if p.tier = 0 ∧ s.isLocal p.loc ∧ localStack p.loc = m ∧ !s.pinned u.1 ∧ !s.unitMoving u.1 u.2 then
        some (u.1, u.2, s.unitHeat u.1 u.2) else none
    | none => none)

/-- Heat of the units whose home a bristle is. -/
def State.bristleHeat (s : State) (b : Nat) : Nat :=
  ((s.cmp.heat.map (fun e => match s.unitAt (e.1 / 2 ^ 24) (e.1 % 2 ^ 24) with
      | some p => if p.home = b then s.unitHeat (e.1 / 2 ^ 24) (e.1 % 2 ^ 24) else 0 | none => 0)).sum) +
    ((s.cmp.run.map (fun e => if (slotOf (eGet e.2 0 8)).home = b then s.runHeat (b / 384) e.1 else 0)).sum)

/-- Heat on the twenty stacks, and its mean. -/
def State.heatMean (s : State) : List Nat × Nat := let ls := (List.range 20).map s.stackHeat; (ls, ls.sum / 20)

/-- Is stack m over the limit of R284? -/
def State.overMean (s : State) (m : Nat) : Bool :=
  let (ls, mean) := s.heatMean
  decide (ls.getD m 0 * 100 > mean * (100 + s.fget CMP_MIG_CTL_IMBAL_PCT (m / 2)))

/-- The units the loop of R284 may take from stack m: the hottest of those with heat at most L − mean. -/
def State.hottestUnits (s : State) (m : Nat) : List (Nat × Nat × Nat) :=
  let (ls, mean) := s.heatMean
  let us := (s.movable m).filter (fun v => decide (v.2.2 + mean ≤ ls.getD m 0))
  us.filter (fun v => us.all (fun w => decide (w.2.2 ≤ v.2.2)))

/-- The stacks the loop of R284 may take for a unit of a slice on stack m: those of least cost. -/
def State.cheapest (s : State) (sl m : Nat) : List Nat :=
  let (ls, mean) := s.heatMean
  let ds := ((s.slicePalettes sl).flatMap (fun q => [2 * q, 2 * q + 1])).filter (· != m)
  let cost := fun (d : Nat) => ls.getD d 0 * 16 + s.fget CMP_MIG_CTL_LOCW (m / 2) * mean * hops (m / 2) (d / 2)
  ds.filter (fun d => ds.all (fun k => decide (cost d ≤ cost k)))

/-- Does moving heat v from stack m to d help (R284)? -/
def State.moveHelps (s : State) (m d v : Nat) : Bool := let ls := s.heatMean.1; decide (ls.getD d 0 + v < ls.getD m 0 - v)

/-- The loop of R284 for one stack: may this unit move to this place for balance? -/
def State.balanceOk (s : State) (h u : Nat) (src dst : UnitPlace) : Bool :=
  let m := localStack src.loc
  let d := localStack dst.loc
  s.fon CMP_MIG_CTL_EN (m / 2) && s.isLocal src.loc && s.isLocal dst.loc && s.overMean m &&
    (s.hottestUnits m).any (fun v => v.1 == h && v.2.1 == u && s.moveHelps m d v.2.2) && (s.cheapest (ownerOf h) m).contains d &&
    argMin s.bristleHeat (s.bristlesOn (ownerOf h) (d / 2)) == some dst.home

/-- Has the loop of R284 a move to make from stack m, whichever of equals it takes, and room for it? -/
def State.balanceDue (s : State) (m : Nat) : Bool :=
  s.fon CMP_MIG_CTL_EN (m / 2) && s.overMean m && !(s.hottestUnits m).isEmpty &&
    (s.hottestUnits m).all (fun v => let ds := s.cheapest (ownerOf v.1) m
      !ds.isEmpty && ds.all (fun d => s.moveHelps m d v.2.2 && s.stackRoom d (s.unitLen v.1 v.2.1)))

/-- Is a spill target of a slice usable for a slot in T2 or T3 (R269, R290, R292)? -/
def State.targetOk (s : State) (sl : Nat) (w : UnitPlace) : Bool :=
  let spill := s.fget CMP_SLICE_POL_SPILL 0 sl
  if w.tier = 1 then
    (spill == 1 || spill == 2) && decide (w.loc / 2 ^ 29 < (smGetD s.cmp.targets sl []).length) && !s.cmp.unusable.contains (sl * 16 + w.loc / 2 ^ 29)
  else (spill == 2 || spill == 3) && !s.cmp.unusable.contains (sl * 16 + 8)

/-- Is a run the tail of its sequence, layer and head group? -/
def State.tailRun (s : State) (h u : Nat) : Bool :=
  match smGet s.seqs h with
  | some q => (match smGet s.kvc q.cache with
    | some c => decide (u % c.runsPerHg = (q.len (u / c.runsPerHg / c.hgCount) - 1) / (32 * c.run))
    | none => false)
  | none => false

/-- Is a unit's T1 region retired (R207)? -/
def State.unitRetired (s : State) (h u : Nat) (src : UnitPlace) : Bool :=
  src.tier == 0 && (List.range (s.unitLen h u)).any (fun i => s.stk.retired.contains (src.loc + i))

/-- Does a unit lie in the buddy region, from which firmware moves what was adopted (R543)? -/
def State.unitAdopted (s : State) (h u : Nat) (src : UnitPlace) : Bool :=
  src.tier == 0 && (List.range (s.unitLen h u)).any (fun i => s.inBuddy (src.loc + i))

/-- Is the target of a unit in T2 or T3 marked unusable (R292)? -/
def State.lostTarget (s : State) (sl : Nat) (src : UnitPlace) : Bool :=
  src.tier != 0 && s.cmp.unusable.contains (sl * 16 + (if src.tier = 1 then src.loc / 2 ^ 29 else 8))

/-- The T1 units of a slice that firmware may demote (R290): segments of its tables, or single extents and runs; none of a PIN_T1 handle,
no tail run. -/
def State.demotable (s : State) (sl : Nat) (whole : Bool) : List (Nat × Nat) :=
  let free := fun (h : Nat) => !bit (eGet (s.dirEntry (s.dirHandle h)) 5 1) 1
  let inT1 := fun (v : Nat × Nat) => (match s.unitAt v.1 v.2 with | some p => p.tier == 0 | none => false) && !s.unitMoving v.1 v.2
  let ts := (s.tbl.filter (fun t => t.2.slice == sl && free t.1)).map (·.1)
  (if whole then ts.flatMap (fun h => (s.segIndices h).map (fun i => (h, segUnit i)))
   else ts.flatMap (fun h => (List.range (s.extentCount h)).map (fun x => (h, x))) ++
     ((s.cmp.run.map (fun e => (e.1 / 2 ^ 32, e.1 % 2 ^ 32))).filter (fun v => ownerOf v.1 == sl && free v.1 && !s.tailRun v.1 v.2))).filter inT1

/-- Is a unit the one firmware demotes next (R290): the coldest, whole segments before single extents? -/
def State.demoteNext (s : State) (sl h u : Nat) : Bool :=
  let coldest := fun (l : List (Nat × Nat)) => l.contains (h, u) && l.all (fun v => decide (s.unitHeat h u ≤ s.unitHeat v.1 v.2))
  let segs := s.demotable sl true
  if segs.isEmpty then coldest (s.demotable sl false) else coldest segs

/-- Is a unit in T2 or T3 hot enough for a scan to promote (R291)? -/
def State.promotable (s : State) (h u : Nat) (src : UnitPlace) : Bool :=
  src.tier != 0 && decide (s.unitHeat h u ≥ s.fget CMP_HEAT_CTL_HOT_THRESH (src.home / 384))

/-- The units in T2 or T3 with a home on palette p that a scan has to promote: hot, within quota, and with room (R291). -/
def State.promotionsDue (s : State) (p : Nat) : List (Nat × Nat) :=
  let us := s.cmp.heat.map (fun e => (e.1 / 2 ^ 24, e.1 % 2 ^ 24)) ++ s.cmp.run.map (fun e => (e.1 / 2 ^ 32, e.1 % 2 ^ 32))
  us.filter (fun v => match s.unitAt v.1 v.2 with
    | some src => src.home / 384 == p && s.promotable v.1 v.2 src && !s.unitMoving v.1 v.2 && s.fits (ownerOf v.1) (s.unitLen v.1 v.2) &&
        (List.range 20).any (fun m => s.stackRoom m (s.unitLen v.1 v.2))
    | none => false)

/-- May firmware start this move (R283 to R292)? Retirement, demotion and moves out of the buddy region (R543) go on while scans are off (R297); a unit on a target marked
unusable comes back from its buddy copy (R292). -/
def State.moveOk (s : State) (h u : Nat) (dst : UnitPlace) : Bool :=
  let sl := ownerOf h
  match s.unitAt h u with
  | none => false
  | some src =>
    let p := src.home / 384
    let on := s.fon CMP_SCAN_CTL_EN p
    s.copyRoom p && decide (dst.tier ≤ 2) &&
    (dst.tier != 0 || s.runFits dst.loc (s.unitLen h u) || (!s.isLocal dst.loc && !s.isLocal src.loc)) &&
    (if dst.tier = 0 ∧ src.tier = 0 then s.unitRetired h u src || s.unitAdopted h u src || (on && s.balanceOk h u src dst)
     else if dst.tier = 0 then
       s.fits sl (s.unitLen h u) && ((s.lostTarget sl src && (s.copyEntry h u).isSome) || (on && s.promotable h u src))
     else src.tier == 0 && s.targetOk sl dst && s.demoteNext sl h u)

/-- Palette p's scan with the additions and moves that firmware chose, R279, R284, R290, R291: removals first, then additions, then moves,
each where its rules allow it, in order; none where one of them is not allowed, additions or stacks come out of order, or something
that the rules have a scan do is left undone. -/
def State.scan (s : State) (p : Nat) (adds : List (Nat × Nat)) (moves : List (Nat × Nat × UnitPlace)) : Option State :=
  let on := s.fon CMP_SCAN_CTL_EN p
  let gone := if on then (s.scanRemovals p).take 256 else []
  let s1 := s.removeBlocks p gone
  let order := adds.map (fun a => s1.topCount p a.1 (s1.hotBlocks p a.1))
  let s2 := adds.foldl (fun (acc : Option State) a => match acc with
    | none => none
    | some s => match s.freeSwatch p, s.unitAt (a.1 / 2 ^ 24) (a.1 % 2 ^ 24) with
      | some n, some src => if on && s.swatchAddOk p a.1 a.2 then s.startCopy (a.1 / 2 ^ 24) (a.1 % 2 ^ 24) src (some (n, a.2)) else none
      | _, _ => none) (some s1)
  match s2 with
  | none => none
  | some s2 =>
    let fullUp := decide (adds.length + gone.length ≥ 256)
    let balanced := moves.filterMap (fun m => match s2.unitAt m.1 m.2.1 with
      | some src => if src.tier = 0 ∧ m.2.2.tier = 0 ∧ !s2.unitRetired m.1 m.2.1 src ∧ !s2.unitAdopted m.1 m.2.1 src then some (localStack src.loc) else none
      | none => none)
    let s3 := moves.foldl (fun (acc : Option State) m => match acc with
      | none => none
      | some s => if s.moveOk m.1 m.2.1 m.2.2 then s.startCopy m.1 m.2.1 m.2.2 none else none) (some s2)
    match s3 with
    | none => none
    | some s3 =>
      let served := fun (v : Nat × Nat) => moves.any (fun m => m.1 == v.1 && m.2.1 == v.2)
      if decide (adds.length + gone.length > 256) || !neverFalls order.reverse || !neverFalls (balanced.map s2.stackHeat).reverse ||
          balanced.any (fun m => m / 2 != p) then none
      else if on && s3.copyRoom p && ((!fullUp && !(s3.swatchDue p).isEmpty) ||
          (s2.promotionsDue p).any (fun v => !served v && s3.fits (ownerOf v.1) (s3.unitLen v.1 v.2)) ||
          [2 * p, 2 * p + 1].any (fun m => s2.balanceDue m && !balanced.contains m)) then none
      else some s3.settleAsks

/-- COMPOSITION_SCAN, R279, R284, R290, R291, R298: register values written since the last scan of palette p apply, then it takes its
decisions. `adds` are (exception key, swatch record), `moves` (handle, unit, place), what R279 to R291 leave to firmware; a scan
that they do not allow does nothing. -/
def execCompositionScan (p : Nat) (adds : List (Nat × Nat)) (moves : List (Nat × Nat × UnitPlace)) (s : State) : Host.Outcome State Fault Refusal :=
  if p ≥ 10 ∨ !s.fwRuns then .next s
  else .next ((({ s with cmp := { s.cmp with heatCtl := smSet s.cmp.heatCtl p (s.rget CMP_HEAT_CTL p) } } : State).scan p adds moves).getD s)

/-- The lowest woven region from r on that is free. -/
def State.wovenFree (s : State) (r : Nat) : Nat → Option Nat
  | 0 => none
  | n + 1 => if s.regionFree r && !s.isLocal r then some r else s.wovenFree (r + 1) n

/-- A retired region of a scratch namespace moves to a free woven region, its contents unchanged (R283, R411); with none free it stays. -/
def State.moveNsRegion (s : State) (r : Nat) : State :=
  match s.nvm.ns.find? (fun n => n.2.regions.contains r), s.wovenFree (s.localBands * bandRegions) 0xA00000 with
  | some (i, n), some d =>
    let s := ((s.takeRegions n.slice [d]).copyStack (r * 0x10000) (d * 0x10000) 0x10000).freeRegions [r]
    { s with nvm := { s.nvm with ns := smSet s.nvm.ns i { n with regions := n.regions.map (fun x => if x = r then d else x) } } }
  | _, _ => s

/-- LOCATION_RETIRE, R207: a queued location with no spare row left in its bank, or whose pseudo-channel has all eight soft
entries in use: its 64 KiB regions leave the allocator and are counted, and a lifetime record is written (R606); a copy on its way
there is given up (R287). -/
def execLocationRetire (burst : Nat) (s : State) : Host.Outcome State Fault Refusal :=
  let (m, a) := steer s.localBands (32 * burst)
  let full := (List.range 8).all (fun i => let v := s.rget MEM_REMAP m (8 * pcOf a + i); bit v 31 || bit v 29)
  let noSpare := smGetD s.stk.sparesUsed (bankKey m (pcOf a) (bankOf a)) 0 % 16 == 15
  if s.stk.repairQ.contains burst ∧ (full ∨ noSpare) then
    let rs := (rowRegions s.localBands m (pcOf a) (bankOf a) (rowOf a)).filter (fun r => !s.stk.retired.contains r)
    let s := s.dropCopies (fun c => c.swatch.isNone && c.dst.tier == 0 && (s.unitRegions c.handle c.unit c.dst.loc).any rs.contains)
    let s := { s with stk := { s.stk with retired := s.stk.retired ++ rs, repairQ := s.stk.repairQ.filter (· != burst) } }
    let s := rs.foldl State.moveNsRegion s
    .next (((s.fadd MEM_REPAIR_RETIRED rs.length m).evAdd (160 + m) rs.length).event MEM_ERR_STATUS_RETIRED m).writeLifeRecord.ddtRewrite
  else .next s

/-- MAP_ENTRY_REBUILD, R272: firmware rebuilds an entry, both of whose copies were poisoned, from its journal. -/
def execMapEntryRebuild (handle unit : Nat) (s : State) : Host.Outcome State Fault Refusal :=
  if !s.fwRuns then .next s
  else if (smGet s.seqs handle).isSome then
    let k := runKey handle unit
    .next (s.entryBytes k (smGetD s.cmp.run k (freeRunEntry k)))
  else .next { s with cmp := { s.cmp with mapBad := smDel s.cmp.mapBad (excKey handle unit) } }

/-! ### Tier reads, R289, R292 -/

/-- The unit, with its place, that a tier read of a work item serves: position of table work, or entry and run. -/
def State.tierUnit (s : State) (w : Work) (pos : Nat) : Option (Nat × UnitPlace) :=
  if w.kind = 0x20 then
    match w.ents[pos / 2 ^ 48]?, smGet s.kvc (leField w.desc 4 4) with
    | some x, some c =>
      let i := c.runIndex x.layer (pos / 2 ^ 32 % 2 ^ 16) (pos % 2 ^ 32)
      (s.unitAt x.seqH i).map (fun p => (x.seqH, p))
    | _, _ => none
  else
    let h := leField w.desc 4 4
    (s.unitAt h (w.idx.getD pos 0 / max 1 (s.rowShape h).2)).map (fun p => (h, p))

/-- TIER_READ_COMPLETE, R289: the holder's data arrives; for a row whose write went out to the holder, the holder has placed it: TMT
FLUSH for T2, the storage write's completion for T3 (R291). -/
def execTierReadComplete (w pos : Nat) (bytes : List Byte) (s : State) : Host.Outcome State Fault Refusal :=
  match s.work w with
  | none => .next s
  | some k =>
    .next (s.setWork w (if k.tierOut.contains pos then { k with tierOut := k.tierOut.filter (· != pos) }
      else { k with tier := smSet k.tier pos (some bytes) }))

/-- TIER_READ_FAIL, R287, R292: the position is TIER_UNREACHABLE, the target is unusable until its slice names it again, and a copy on its
way there is given up. -/
def execTierReadFail (w pos : Nat) (s : State) : Host.Outcome State Fault Refusal :=
  match s.work w with
  | none => .next s
  | some k =>
    match s.tierUnit k pos with
    | none => .next s
    | some (h, p) =>
      if p.tier ≠ 1 ∧ p.tier ≠ 2 then .next s
      else
        let mark := ownerOf h * 16 + (if p.tier = 1 then p.loc / 2 ^ 29 else 8)
        let s := s.event CMP_ERR_STATUS_TIER_UNREACH (p.home / 384)
        let s := { s with cmp := { s.cmp with unusable := if s.cmp.unusable.contains mark then s.cmp.unusable else mark :: s.cmp.unusable } }
        let s := s.dropCopies (fun c => c.dst.tier == p.tier && ownerOf c.handle == ownerOf h && (p.tier == 2 || c.dst.loc / 2 ^ 29 == p.loc / 2 ^ 29))
        let out := k.tierOut.contains pos
        .next (s.setWork w { k with tierOut := k.tierOut.filter (· != pos), tier := if out then k.tier else smSet k.tier pos none,
                                    events := if out then k.events ++ [(.tierUnreachable, pos)] else k.events })

/-! ### Time-slicing, R293 to R295 -/

/-- The bristles of cluster c of palette p. -/
def clusterBristles (p c : Nat) : List Nat := (List.range 16).map (p * 384 + c * 16 + ·)

/-- May a turn end (R293): its quantum is over; or after 2 ms nothing of the cluster computes; or its slice is being reset? -/
def State.turnOver (s : State) (p c : Nat) (t : Turn) : Bool :=
  let ran := s.pw.onTicks - t.since
  decide (ran ≥ 100 * getBits t.ctl 15 0) ||
    (decide (ran ≥ 200) && (clusterBristles p c).all (fun b => s.brState b == 0 || s.brState b == 3 ||
      (match (s.br b).wait with | some h => h.reported | none => false))) ||
    (s.sx t.cur).cmd == 2

/-- Key of a channel saved for a slice. -/
def savedChanKey (sl e k : Nat) : Nat := (sl * 240 + e) * 8 + k

/-- TURN_END, R293, R294 steps 1 and 2, R308, R338: bristles stop at an instruction boundary with their waits withdrawn, DMA
channels 1 to 7 pause, the palette posts nothing more to the cluster. A parked cluster wakes (R309). Firmware ends turns: none ends
while it does not run or restarts (R84, R86), nor before the drain that ends the cluster's swatches (R282). -/
def execTurnEnd (p c : Nat) (s : State) : Host.Outcome State Fault Refusal :=
  match smGet s.cmp.turns (24 * p + c) with
  | none => .next s
  | some t =>
    if !s.fwRuns || t.switching || !s.fon CMP_TSLICE_CTL_OVERSUB p || decide (t.slices.length < 2) || !s.swatchFree (24 * p + c) || !s.turnOver p c t then .next s
    else
      let s := (clusterBristles p c).foldl (fun s b =>
        let s := (s.wakeBristle b).withdraw b
        let st := s.brState b
        (s.setBr b { s.br b with saved := some st }).fset BRS_STATUS_STATE 4 b) s
      let e := 24 * p + c
      let s := (List.range 7).foldl (fun s i =>
        let k := i + 1
        let ctl := s.rget DMA_CHAN_CTL e k
        let x : SavedChan := { ctl := ctl, status := 0, next := 0, irq := 0, count := 0, chan := DmaChan.init }
        let s := { s with dmaSaved := smSet s.dmaSaved (savedChanKey t.cur e k) x }
        if bit ctl 2 then s else s.dmaCtlWrite e k (putBits ctl 2 2 1)) s
      .next { s with cmp := { s.cmp with turns := smSet s.cmp.turns e { t with switching := true } } }

/-- A waiter list as pairs, and back. -/
def waiterPairs (ws : List Waiter) : List (Nat × Nat) := ws.map (fun w => (w.bid, w.thr))

/-- Saves one bristle's state for its slice, R125, R294. -/
def State.saveBristle (s : State) (sl b : Nat) : State :=
  let br := s.br b
  let lo := sramAddr b 0
  let fl := (s.syn.direct.filter (fun f => f.1 / 64 == b)).map (fun f => (f.1 % 64, f.2.val, waiterPairs f.2.wq, waiterPairs f.2.dq))
  let image := (s.mem.filter (fun m => decide (lo ≤ m.1 ∧ m.1 < lo + 0x40000))).map (fun m => (m.1 - lo, m.2))
  let x : SavedBristle :=
    { br := { br with saved := none }, ctl := s.rget BRS_CTL b, brsPc := s.rget BRS_PC b, tvec := s.rget BRS_TVEC b,
      tmask := s.rget BRS_TMASK b, swatch := s.rget BRS_SWATCH b, state := br.saved.getD 0, flags := fl, sram := image }
  { s with cmp := { s.cmp with saved := smSet s.cmp.saved (sl * 4096 + b) x } }

/-- Restores one bristle for a slice: as saved, or as a new bristle of the slice, HALTED, where nothing was saved yet. -/
def State.restoreBristle (s : State) (sl b : Nat) : State :=
  let lo := sramAddr b 0
  let s : State := { s with mem := memClear s.mem lo 0x40000, ecc := smDelIf s.ecc (fun w => decide (lo ≤ w ∧ w < lo + 0x40000)) }
  let s := s.setSyn { s.syn with direct := smDelIf s.syn.direct (fun k => k / 64 == b) }
  let s : State := match smGet s.cmp.saved (sl * 4096 + b) with
    | some x =>
      let s := { s with mem := x.sram.foldl (fun (m : SMap Byte) (q : Nat × Byte) => memWrite m (lo + q.1) q.2) s.mem }
      let s := { s with cmp := { s.cmp with saved := smDel s.cmp.saved (sl * 4096 + b) } }
      let s := x.flags.foldl (fun (s : State) f =>
        let g : Flag := { val := f.2.1, wq := f.2.2.1.map (fun w => { bid := w.1, thr := w.2 }), dq := f.2.2.2.map (fun w => { bid := w.1, thr := w.2 }) }
        s.setSyn { s.syn with direct := smSet s.syn.direct (b * 64 + f.1) g }) s
      let s := (((s.setBr b x.br).rset BRS_CTL x.ctl b).rset BRS_PC x.brsPc b).rset BRS_TVEC x.tvec b
      ((s.rset BRS_TMASK x.tmask b).rset BRS_SWATCH x.swatch b).fset BRS_STATUS_STATE x.state b
    | none => ((s.setBr b (Bristle.init b)).rset BRS_CTL (sl * 65536) b).fset BRS_STATUS_STATE 0 b
  let mine := fun (h : Nat × Nat × Nat) => h.1 == b * 64 + sl
  let held := s.syn.heldSig.filter mine
  held.foldl (fun s h => s.atHome h.2.1 (fun f => { f with val := (f.val + h.2.2) % 2 ^ 32 }))
    (s.setSyn { s.syn with heldSig := s.syn.heldSig.filter (fun h => !mine h) })

/-- Saves a cluster channel's paused state, and puts back the incoming slice's. -/
def State.swapChannel (s : State) (e k out inc : Nat) : State :=
  let was := smGetD s.dmaSaved (savedChanKey out e k) { ctl := 0, status := 0, next := 0, irq := 0, count := 0, chan := DmaChan.init }
  let x : SavedChan :=
    { ctl := was.ctl, status := s.rget DMA_CHAN_STATUS e k, next := s.dnext e k, irq := s.rget DMA_CHAN_IRQ e k,
      count := s.rget DMA_CHAN_COUNT e k, chan := s.chan e k }
  let y := smGetD s.dmaSaved (savedChanKey inc e k) { ctl := 0, status := 0, next := 0, irq := 0, count := 0, chan := DmaChan.init }
  let s := { s with dmaSaved := smSet (smDel s.dmaSaved (savedChanKey inc e k)) (savedChanKey out e k) x }
  let s := (((s.rset DMA_CHAN_CTL (putBits y.ctl 2 2 (if y.status % 8 = 3 then 1 else getBits y.ctl 2 2)) e k).rset DMA_CHAN_STATUS y.status e k).rset
    DMA_CHAN_IRQ y.irq e k).rset DMA_CHAN_COUNT y.count e k
  let s := ((s.rset DMA_CHAN_NEXT_LO (y.next % 2 ^ 32) e k).rset DMA_CHAN_NEXT_HI (y.next / 2 ^ 32) e k).setChan e k y.chan
  if !bit y.ctl 2 && s.fon DMA_CHAN_CTL_PAUSE e k then s.dmaCtlWrite e k (putBits y.ctl 2 2 0) else s

/-- The slice whose turn follows, in ascending order. -/
def Turn.after (t : Turn) : Nat :=
  match t.slices.find? (fun x => decide (x > t.cur)) with
  | some x => x
  | none => t.slices.headD t.cur

/-- TURN_SWITCH_COMPLETE, R294 steps 2 to 5, R295: the outgoing slice's state is saved, the incoming one's restored, its bristles
resume and signals held for them are applied. PLACE_ADMIN commands for these slices complete. -/
def execTurnSwitchComplete (p c : Nat) (s : State) : Host.Outcome State Fault Refusal :=
  let e := 24 * p + c
  match smGet s.cmp.turns e with
  | none => .next s
  | some t =>
    let quiet := (clusterBristles p c).all (fun b => (s.br b).loads.isEmpty && (s.br b).sbuf.isEmpty) &&
      (List.range 7).all (fun i => s.dstate e (i + 1) != 1 && s.dstate e (i + 1) != 2)
    if !s.fwRuns || !t.switching || !quiet then .next s
    else
      let inc := t.after
      let s := (clusterBristles p c).foldl (fun s b => (s.saveBristle t.cur b).restoreBristle inc b) s
      let s := (List.range 7).foldl (fun s i => s.swapChannel e (i + 1) t.cur inc) s
      let s := { s with cmp := { s.cmp with turns := smSet s.cmp.turns e { t with cur := inc, switching := false, since := s.pw.onTicks, ctl := s.rget CMP_TSLICE_CTL p } } }
      let fin := s.cmp.asks.filter (fun a => a.kind == 2 && t.slices.contains a.handle)
      let s := { s with cmp := { s.cmp with asks := s.cmp.asks.filter (fun a => !(a.kind == 2 && t.slices.contains a.handle)) } }
      .next (fin.foldl (fun s a => ((List.range 10).foldl (fun s q => s.fset CMP_SLICE_POL_PIN_CLUSTERS a.flags q a.handle) s).ack a.ch .ok 0 []) s)

/-! ### Placement commands, R296 -/

/-- Units of a handle: extents of a table; runs of a sequence, or of a cache's sequences one after another, in the order of R271. -/
def State.unitCount (s : State) (h : Nat) : Nat :=
  match smGet s.tbl h with
  | some _ => s.extentCount h
  | none =>
    let per := Cache.runCount
    match smGet s.seqs h with
    | some q => (match smGet s.kvc q.cache with | some c => per c | none => 0)
    | none => match smGet s.kvc h with
      | some c => per c * (s.seqs.filter (fun q => q.2.cache == h)).length
      | none => 0

/-- Unit i of a handle as (table or sequence handle, unit). -/
def State.unitRef (s : State) (h i : Nat) : Nat × Nat :=
  match smGet s.kvc h with
  | some c =>
    let per := max 1 c.runCount
    ((((s.seqs.filter (fun q => q.2.cache == h)).map (·.1)).getD (i / per) 0), i % per)
  | none => (h, i)

/-- Is a handle a slice's live table, cache or sequence? -/
def State.placeHandle (s : State) (sl h : Nat) : Bool :=
  (s.liveTable sl h).isSome || (s.liveCache sl h).isSome || (s.liveSeq sl h).isSome

/-- The units of a handle that exist in T2 or T3. -/
def State.spilled (s : State) (h : Nat) : List (Nat × Nat) :=
  ((List.range (s.unitCount h)).map (s.unitRef h)).filter (fun u => match s.unitAt u.1 u.2 with | some p => p.tier != 0 | none => false)

/-- Starts the promotions firmware chose for these units, within the slice's quota. -/
def State.promote (s : State) (sl : Nat) (us : List (Nat × Nat)) (places : List (Nat × UnitPlace)) : State × List (Nat × Nat) :=
  (us.zip places).foldl (fun (acc : State × List (Nat × Nat)) u =>
    let coming := (acc.1.cmp.copies.filter (fun c => c.dst.tier == 0 && c.src.tier != 0 && ownerOf c.handle == sl)).map (fun c => acc.1.unitLen c.handle c.unit)
    if u.2.2.tier = 0 ∧ acc.1.fits sl (acc.1.unitLen u.1.1 u.1.2 + coming.sum) ∧ acc.1.runFits u.2.2.loc (acc.1.unitLen u.1.1 u.1.2) then
      match acc.1.startCopy u.1.1 u.1.2 u.2.2 none with
      | some s => (s, acc.2 ++ [u.1])
      | none => acc
    else acc) (s, [])

/-- PLACE_PIN: bits 0 and 1 of `flags` are PIN_PLACE and PIN_T1; with PIN_T1 units in T2 or T3 are promoted first. -/
def execPlacePin (ch handle flags : Nat) (places : List (Nat × UnitPlace)) (s : State) : Host.Outcome State Fault Refusal :=
  .next (s.serve ch 0x40 [(1, handle), (2, flags)] (handle / 2 ^ 26) .bound false (fun sl s =>
    if (s.liveTable sl handle).isNone && (s.liveCache sl handle).isNone then refuseCmd s .badHandle 1
    else if flags ≥ 4 then refuseCmd s .badDescriptor 2
    else
      let us := if bit flags 1 then s.spilled handle else []
      let need := (us.map (fun u => s.unitLen u.1 u.2)).sum
      if us.isEmpty then okCmd (s.setDir handle (fun d => eSet d 5 1 (putBits (eGet d 5 1) 1 0 flags)))
      else if !s.fits sl need then refuseCmd s .quotaExceeded
      else
        let r := s.promote sl us places
        if r.2.length ≠ us.length then laterCmd s
        else laterCmd { r.1 with cmp := { r.1.cmp with asks := r.1.cmp.asks ++ [{ ch := ch, handle := handle, kind := 0, flags := flags, units := us, done := 0 }] } }))

/-- PLACE_HINT: HOT raises HEAT to HOT_THRESH, COLD clears it. -/
def execPlaceHint (ch handle first count hot : Nat) (s : State) : Host.Outcome State Fault Refusal :=
  .next (s.serve ch 0x41 [(1, handle), (2, first), (3, count), (4, hot)] (handle / 2 ^ 26) .bound false (fun sl s =>
    if !s.placeHandle sl handle then refuseCmd s .badHandle 1
    else if first ≥ s.unitCount handle then refuseCmd s .badDescriptor 2
    else if count = 0 ∨ count > 65536 ∨ first + count > s.unitCount handle then refuseCmd s .badDescriptor 3
    else if hot ≥ 2 then refuseCmd s .badDescriptor 4
    else okCmd ((List.range count).foldl (fun s i =>
      let u := s.unitRef handle (first + i)
      match s.unitAt u.1 u.2 with
      | none => s
      | some w =>
        let p := w.home / 384
        let t := s.fget CMP_HEAT_CTL_HOT_THRESH p
        let v := if hot = 1 then max (s.unitHeat u.1 u.2) t else 0
        let now := s.heatPeriod p
        if (smGet s.tbl u.1).isSome then { s with cmp := { s.cmp with heat := smSet s.cmp.heat (excKey u.1 u.2) (v + now * 65536) } }
        else s.onEntry u.1 u.2 (fun m => eSet (eSet m 0x12 2 v) 0x14 1 now)) s)))

/-- PLACE_PROMOTE: the units of the range in T2 or T3 that fit within quota; completes after their flips with the number promoted. -/
def execPlacePromote (ch handle first count : Nat) (places : List (Nat × UnitPlace)) (s : State) : Host.Outcome State Fault Refusal :=
  .next (s.serve ch 0x42 [(1, handle), (2, first), (3, count)] (handle / 2 ^ 26) .bound false (fun sl s =>
    if !s.placeHandle sl handle then refuseCmd s .badHandle 1
    else if first ≥ s.unitCount handle then refuseCmd s .badDescriptor 2
    else if count = 0 ∨ count > 65536 ∨ first + count > s.unitCount handle then refuseCmd s .badDescriptor 3
    else
      let us := ((List.range count).map (fun i => s.unitRef handle (first + i))).filter (fun u =>
        match s.unitAt u.1 u.2 with | some p => p.tier != 0 | none => false)
      let r := s.promote sl us places
      if r.2.isEmpty then okCmd s [0]
      else laterCmd { r.1 with cmp := { r.1.cmp with asks := r.1.cmp.asks ++ [{ ch := ch, handle := handle, kind := 1, flags := 0, units := r.2, done := 0 }] } }))

/-- PLACE_QUERY: units per tier, swatch blocks, units MOVING, EPOCH. -/
def execPlaceQuery (ch handle : Nat) (s : State) : Host.Outcome State Fault Refusal :=
  .next (s.serve ch 0x43 [(1, handle)] (handle / 2 ^ 26) .bound false (fun sl s =>
    if !s.placeHandle sl handle then refuseCmd s .badHandle 1
    else
      let us := (List.range (s.unitCount handle)).map (s.unitRef handle)
      let inTier := fun (t : Nat) => (us.filter (fun u => match s.unitAt u.1 u.2 with | some p => p.tier == t | none => false)).length
      let blocks := (us.map (fun u => if (smGet s.tbl u.1).isNone then 0 else
        match s.extentPlace u.1 u.2 (s.epoch u.1) with
        | some p => if p.swidx = 0 then 0 else
            let e := smGetD s.cmp.swatch (p.home / 384 * 8192 + p.swidx - 1) 0
            heldBelow (eGet e 0 2) 16 * eGet e 2 1
        | none => 0)).sum
      okCmd s [inTier 0, inTier 1, inTier 2, blocks, (us.filter (fun u => s.unitMoving u.1 u.2)).length, s.epoch (s.dirHandle handle)]))

/-- PLACE_POLICY: the slice's own policy on all palettes; targets named again are usable again (R292). -/
def execPlacePolicy (ch : Nat) (pb : Status) (spill pct pinPlace t3 : Nat) (targets : List Nat) (s : State) : Host.Outcome State Fault Refusal :=
  .next (s.serve ch 0x44 [] 0 .bound true (fun sl s =>
    if pb ≠ .ok then refuseCmd s pb
    else if spill > 3 ∨ pct > 100 ∨ pinPlace > 1 ∨ t3 > 63 ∨ targets.length > 8 then refuseCmd s .badDescriptor 1
    else if decide (2 ≤ spill) && (match smGet s.nvm.ns t3 with | some n => n.slice != sl || n.kind != 2 || n.lbaf != 1 | none => true) then refuseCmd s .badDescriptor 1
    else if decide (2 ≤ spill) && (match smGet s.nvm.ns t3 with | some n => !n.ctrls.isEmpty | none => false) then refuseCmd s .busy 1
    else
      let s := (List.range 10).foldl (fun s p =>
        s.rset CMP_SLICE_POL (putBits (putBits (putBits (putBits (s.rget CMP_SLICE_POL p sl) 24 24 pinPlace) 21 16 t3) 13 12 spill) 11 4 pct) p sl) s
      okCmd { s with cmp := { s.cmp with targets := smSet s.cmp.targets sl targets, unusable := s.cmp.unusable.filter (fun u => u / 16 != sl) } }))

/-- PLACE_ADMIN: exempts or re-admits a slice, at the next turn boundary of a cluster it shares. -/
def execPlaceAdmin (ch sl pin : Nat) (s : State) : Host.Outcome State Fault Refusal :=
  .next (s.serve ch 0x45 [(1, sl), (2, pin)] sl .secure false (fun _ s =>
    if sl ≥ 64 then refuseCmd s .badDescriptor 1
    else if pin ≥ 2 then refuseCmd s .badDescriptor 2
    else if s.cmp.turns.any (fun t => t.2.slices.contains sl && decide (t.2.slices.length ≥ 2)) then
      laterCmd { s with cmp := { s.cmp with asks := s.cmp.asks ++ [{ ch := ch, handle := sl, kind := 2, flags := pin, units := [], done := 0 }] } }
    else okCmd ((List.range 10).foldl (fun s q => s.fset CMP_SLICE_POL_PIN_CLUSTERS pin q sl) s)))

/-! ### The indirect window, R266, R297 -/

/-- Exception bits of segments in index order, one bit an extent: extent number i over all segments. -/
def State.excBits (s : State) : List Bool :=
  s.cmp.seg.flatMap (fun g => (List.range (eGet g.2 0x16 2)).map (fun i => (smGet s.cmp.exc (excKey (eGet g.2 0x1C 4) (eGet g.2 0x18 4 + i))).isSome))

/-- 32 bytes of a part as palette p holds it: parts of R297's CMP_IND_SEL. -/
def State.cmpPart (s : State) (p part index : Nat) : Nat :=
  match smGet s.cmp.writes ((p * 16 + part) * 2 ^ 24 + index) with
  | some v => v
  | none =>
    match part with
    | 0 => smGetD s.cmp.dir index 0
    | 1 => smGetD s.cmp.seg index 0
    | 2 => ((List.range 16).map (fun i => ((smGetD s.cmp.homes (index / 4096) []).getD (index % 4096 * 16 + i) 0) * 2 ^ (16 * i))).sum
    | 3 => ((List.range 256).map (fun i => if (s.excBits).getD (index * 256 + i) false then 2 ^ i else 0)).sum
    | 4 => smGetD s.cmp.swatch (p * 8192 + index) 0
    | _ => 0

/-- Reads the selected entry into the data registers. -/
def State.cmpIndRead (s : State) (p : Nat) : State :=
  let v := s.cmpPart p (s.fget CMP_IND_SEL_PART p) (s.fget CMP_IND_SEL_INDEX p)
  (List.range 8).foldl (fun s n => s.rset CMP_IND_DATA (getBits v (32 * n + 31) (32 * n)) p n) s

/-- A directory entry that names another codebook slot moves its table there at the epoch it names (R185, R267). -/
def State.slotWritten (s : State) (v : Nat) : State :=
  match smGet s.tbl (eGet v 0 4) with
  | none => s
  | some t =>
    let k := getBits (eGet v 0x1A 2) 15 12
    if t.mode = 0 ∨ t.slot = k then s else { s with tbl := smSet s.tbl (eGet v 0 4) { t with slot := k, oldSlot := t.slot, slotFlip := eGet v 6 2 } }

/-- Is an index within a part of the map (R266)? -/
def partHas (part index : Nat) : Bool :=
  match part with
  | 0 => decide (index < 4352)
  | 1 => decide (index < 8192)
  | 2 => decide (index / 4096 < 64 ∧ index % 4096 < 240)
  | 3 => decide (index < 65536)
  | 4 => decide (index < 8192)
  | _ => false

/-- An entry that all ten palettes hold alike becomes the map's. -/
def State.commitPart (s : State) (part index : Nat) : State :=
  let key := fun (p : Nat) => (p * 16 + part) * 2 ^ 24 + index
  match smGet s.cmp.writes (key 0) with
  | none => s
  | some v =>
    if (List.range 10).all (fun p => smGet s.cmp.writes (key p) == some v) then
      let c := { s.cmp with writes := smDelIf s.cmp.writes (fun k => k % 2 ^ 28 == part * 2 ^ 24 + index) }
      match part with
      | 0 => ({ s with cmp := { c with dir := if v = 0 then smDel c.dir index else smSet c.dir index v } } : State).slotWritten v
      | 1 => { s with cmp := { c with seg := if v = 0 then smDel c.seg index else smSet c.seg index v } }
      | 2 =>
        let l := smGetD c.homes (index / 4096) []
        let at' := index % 4096 * 16
        let ids := (List.range 16).map (fun i => getBits v (16 * i + 15) (16 * i))
        { s with cmp := { c with homes := smSet c.homes (index / 4096) (l.take at' ++ ids ++ l.drop (at' + 16)) } }
      | _ => s
    else s

/-- Writes the data registers to the selected entry of palette p. -/
def State.cmpIndWrite (s : State) (p : Nat) : State :=
  let part := s.fget CMP_IND_SEL_PART p
  let index := s.fget CMP_IND_SEL_INDEX p
  let v := ((List.range 8).map (fun n => s.rget CMP_IND_DATA p n * 2 ^ (32 * n))).sum
  if !partHas part index then s
  else if part = 4 then { s with cmp := { s.cmp with swatch := if v = 0 then smDel s.cmp.swatch (p * 8192 + index) else smSet s.cmp.swatch (p * 8192 + index) v } }
  else
    ({ s with cmp := { s.cmp with writes := smSet s.cmp.writes ((p * 16 + part) * 2 ^ 24 + index) v } }).commitPart part index

/-- CMP_IND_READ: a write of 1 to CMP_IND_CMD.READ. -/
def execCmpIndRead (p : Nat) (s : State) : Host.Outcome State Fault Refusal := .next (if p < 10 then s.cmpIndRead p else s)
/-- CMP_IND_WRITE: a write of 1 to CMP_IND_CMD.WRITE. -/
def execCmpIndWrite (p : Nat) (s : State) : Host.Outcome State Fault Refusal := .next (if p < 10 then s.cmpIndWrite p else s)

end Machine
end Sys2Proof
end

