-- ==== Sys2Proof/Machine/BristleCtl.lean ====
section
/-!
DEFINITION. Loading, starting and stopping a bristle (spec 04 R123 to R130), a cluster's failure (R99), and the write of a control
register whose die sleeps (spec 01 R29).
-/
namespace Sys2Proof
namespace Machine

/-! ### Writes to a sleeping die, R29, R33, R40 -/

/-- A write of a control register: it waits while its die is gated, and behind writes that wait for the same die; else it acts. -/
def State.orWait (s : State) (b : Blk) (inst addr val : Nat) (f : State → State) : State :=
  match domainOf b inst with
  | some d =>
    if s.isGated d || s.pw.waiting.any (fun w => w.dom == d) then
      s.setPw { s.pw with waiting := s.pw.waiting ++ [{ dom := d, addr := addr, val := val }] }
    else f s
  | none => f s

/-! ### RUN, INIT and the configuration registers, R124, R126, R128 -/

/-- RUN is set on a HALTED bristle: it goes on at its PC, in its handler if it was halted there. A write of BRS_PC sets that PC; after a
halt it is the next instruction's, while BRS_PC reads the one last issued (DEDUCED, log entry 24). -/
def State.startBristle (s : State) (b : Nat) : State :=
  let s := s.fset BRS_CTL_RUN 1 b
  if s.brState b = 0 then
    (s.setBr b { s.br b with stopped := false }).fset BRS_STATUS_STATE (if (s.br b).inHandler then 2 else 1) b
  else s

/-- RUN is cleared, R124, R308: a held wait is withdrawn, the bristle halts at the instruction boundary and holds until RUN is set
again (R103). BRS_PC goes on reading the instruction last issued, a withdrawn wait's own PC among these. -/
def State.haltBristle (s : State) (b : Nat) : State :=
  let s := s.withdraw b
  if s.brRuns b then
    ((s.fset BRS_CTL_RUN 0 b).fset BRS_STATUS_STATE 0 b).setBr b { s.br b with stopped := true }
  else s

/-- INIT, R106, R117, R128, R178: registers, the PC that BRS_PC shows among them, return stack, pending writes and counters are cleared, with its 48 direct flags, whose waiters stay queued (R299);
`enc` is the encoding of the program until the next INIT (R154). Loads that have not returned write nothing; stores already issued stay
on their way. A faulted bristle is HALTED. -/
def State.initBristle (s : State) (b : Nat) (enc : Bool) : State :=
  let o := s.br b
  let n : Bristle := { Bristle.init b with sbuf := o.sbuf, loads := o.loads.map (fun l => { l with dest := none, bytes := [0], served := true, behind := 0 }),
                                           saved := o.saved, faultTimes := o.faultTimes, legacy := enc, barred := o.barred }
  let s := ((s.setBr b n).fset BRS_SRAM_ERR_CE_COUNT 0 b).fset BRS_PC_PC 0 b
  let s := (s.syn.direct.filter (fun f => f.1 / 64 == b)).foldl (fun s f =>
    s.setSyn { s.syn with direct := smSet s.syn.direct f.1 { f.2 with val := 0 } }) s
  if s.brState b = 3 then s.fset BRS_STATUS_STATE 0 b else s

/-- A write of BRS_CTL, R128. -/
def State.brsCtlWrite (s : State) (b val : Nat) : State :=
  if s.brRuns b then
    let other := bit val 31 || getBits val 21 16 != s.fget BRS_CTL_SLICE b || getBits val 3 1 != getBits (s.rget BRS_CTL b) 3 1
    let s := if other then s.fset BRS_STATUS_CTL_IGNORED 1 b else s
    if bit val 0 then s else s.haltBristle b
  else
    let s := if bit val 31 then s.initBristle b (bit val 1) else s
    let s := s.rset BRS_CTL (getBits val 21 16 * 0x10000 + getBits val 3 1 * 2) b
    if bit val 0 then s.startBristle b else s

/-- A write of another configuration register of a bristle, R128. -/
def State.brsCfgWrite (s : State) (b off val : Nat) : State :=
  if off = 0 then s.brsCtlWrite b val
  else if off = 0x08 ∨ off = 0x0C ∨ off = 0x10 ∨ off = 0x24 then
    if s.brRuns b then s.fset BRS_STATUS_CTL_IGNORED 1 b
    else if off = 0x08 then (s.fset BRS_PC_PC val b).setBr b { s.br b with pc := val % 2 ^ 18 }
    else if off = 0x0C then s.fset BRS_TVEC_ADDR val b
    else if off = 0x10 then s.rset BRS_TMASK (getBits val 9 1 * 2) b
    else s.fset BRS_SWATCH_BASE (min 64 (getBits val 6 0)) b
  else s

/-- BRS_RUN_SET, R124. -/
def execBrsRunSet (b : Nat) (s : State) : Host.Outcome State Fault Refusal :=
  if b ≥ 3840 then .next s
  else
    let v := putBits (s.rget BRS_CTL b) 0 0 1
    .next (s.orWait .brs b (BRS_CTL.addr b 0 0 0) v (fun s => s.brsCtlWrite b v))

/-- BRS_RUN_CLEAR, R124. -/
def execBrsRunClear (b : Nat) (s : State) : Host.Outcome State Fault Refusal :=
  if b ≥ 3840 then .next s
  else
    let v := putBits (s.rget BRS_CTL b) 0 0 0
    .next (s.orWait .brs b (BRS_CTL.addr b 0 0 0) v (fun s => s.brsCtlWrite b v))

/-- BRS_INIT, R128: a write of BRS_CTL with INIT set. -/
def execBrsInit (b val : Nat) (s : State) : Host.Outcome State Fault Refusal :=
  if b ≥ 3840 then .next s
  else .next (s.orWait .brs b (BRS_CTL.addr b 0 0 0) (putBits val 31 31 1) (fun s => s.brsCtlWrite b (putBits val 31 31 1)))

/-- BRS_CONFIG_WRITE, R128: a write at offset off of bristle b's registers. -/
def execBrsConfigWrite (b off val : Nat) (s : State) : Host.Outcome State Fault Refusal :=
  if b ≥ 3840 then .next s
  else .next (s.orWait .brs b (BRS_CTL.addr b 0 0 0 + off) (val % 2 ^ 32) (fun s => s.brsCfgWrite b off (val % 2 ^ 32)))

/-! ### The cluster map, R97, R130 -/

/-- Entry of logical cluster c in the cluster map of palette p. -/
def State.cmapEntry (s : State) (p c : Nat) : Nat := getBits (s.rget PAL_CMAP p (c / 4)) (8 * (c % 4) + 7) (8 * (c % 4))

/-- Puts a cluster map entry. -/
def State.setCmap (s : State) (p c v : Nat) : State :=
  s.rset PAL_CMAP (putBits (s.rget PAL_CMAP p (c / 4)) (8 * (c % 4) + 7) (8 * (c % 4)) v) p (c / 4)

/-- The SRAM of a bristle on another physical cluster: zero, without errors. -/
def State.freshSram (s : State) (b : Nat) : State :=
  let lo := sramAddr b 0
  { s with mem := memClear s.mem lo 0x40000, ecc := smDelIf s.ecc (fun w => decide (lo ≤ w ∧ w < lo + 0x40000)) }

/-- A bristle that another physical cluster carries from now on (R97, R99, R130): its core's registers as after INIT, its SRAM zero. The spec
says only that the failed cluster's contents are lost, and nothing of a map write (DESIGN CHOICE, log entry 24). Its BRS registers, kept by
logical offset (R100), stay. -/
def State.freshBristle (s : State) (b : Nat) : State :=
  (s.setBr b { Bristle.init b with legacy := s.fon BRS_CTL_ENC b, faultTimes := (s.br b).faultTimes, barred := (s.br b).barred }).freshSram b

/-- One entry of a write to the cluster map: discarded in the cases of R130. Its reserved bits stay zero. A cluster that moves shows the
other physical cluster's contents. -/
def State.cmapWrite (s : State) (p c v : Nat) : State :=
  let ph := v % 32
  let busy := (clusterBristles p c).any (fun b => s.brRuns b || s.brState b == 4)
  let taken := (List.range 24).any (fun o => o != c && s.cmapEntry p o % 32 == ph)
  if busy || !bit v 7 || decide (ph > 25) || bit (s.rget PAL_CHEALTH p) ph || taken || s.cmapEntry p c % 32 == ph then s
  else (clusterBristles p c).foldl State.freshBristle (s.setCmap p c (0x80 + ph))

/-- PAL_CMAP_WRITE, R130: the entries of register n in ascending order, each judged against the map as it then stands. -/
def State.palCmapWrite (s : State) (p n val : Nat) : State :=
  (List.range 4).foldl (fun s i => s.cmapWrite p (4 * n + i) (getBits val (8 * i + 7) (8 * i))) s

/-- PAL_CMAP_WRITE, R130. -/
def execPalCmapWrite (p n val : Nat) (s : State) : Host.Outcome State Fault Refusal :=
  if p > 9 ∨ n > 5 then .next s
  else .next (s.orWait .pal p (PAL_CMAP.addr p n 0 0) (val % 2 ^ 32) (fun s => s.palCmapWrite p n (val % 2 ^ 32)))

/-! ### Loading programs, R123, R126, R278 -/

/-- Base of a bristle's swatch area at a program load, R278. -/
def State.swatchBase (s : State) (b sl : Nat) : Nat :=
  64 - s.fget CMP_SWATCH_CTL_BUDGET (b / 384) * s.fget CMP_SLICE_POL_SWATCH_PCT (b / 384) sl / 100

/-- The bytes of a program's image as the cluster DMA reads them. -/
def State.progImage (s : State) (prog : Nat) : State × List Byte :=
  match smGet s.progs prog with
  | none => (s, [])
  | some p => let r := s.busRead p.addr p.len; (r.state, r.bytes.getD [])

/-- Loads program prog into bristle b for slice sl and starts it at pc, R126: code and data from SRAM offset 0, INIT, the registers,
RUN. ENC and RSTK_MODE are the program's; for the built-in program they and the SRAM stay. Before, the bristle's replicas are flipped off
(R282); the program's inbox ring begins anew. -/
def State.loadBristle (s : State) (sl b prog pc : Nat) : State :=
  let (s, img) := (s.swatchLost (· == b)).progImage prog
  let s := if img.isEmpty then s else s.sramWrite b (sramAddr b 0) img
  let s := match smGet s.progs prog with
    | some p => (s.fset BRS_CTL_ENC p.enc b).fset BRS_CTL_RSTK_MODE p.rstk b
    | none => s
  let s := s.initBristle b (s.fon BRS_CTL_ENC b)
  let s := (s.fset BRS_CTL_SLICE sl b).fset BRS_SWATCH_BASE (s.swatchBase b sl) b
  let s := (s.fset BRS_PC_PC pc b).setBr b { s.br b with pc := pc % 2 ^ 18 }
  let s := { s with loaded := smSet s.loaded (sl * 4096 + b) { prog := prog, pc := pc },
                    cmp := { s.cmp with rings := smDel s.cmp.rings (ringKey b prog) } }
  s.startBristle b

/-- Reloads what a bristle was last loaded with (R99, R123, R389). -/
def State.reloadBristle (s : State) (b : Nat) : State :=
  let sl := s.fget BRS_CTL_SLICE b
  let l := smGetD s.loaded (sl * 4096 + b) { prog := 0, pc := 0 }
  s.loadBristle sl b l.prog l.pc

/-- FAULT_RELOAD, R123: the bristle's items end with PROGRAM_FAULT, and it is reloaded unless a third fatal fault within 10 s has barred
it until its slice loads the program again. -/
def execFaultReload (b : Nat) (s : State) : Host.Outcome State Fault Refusal :=
  if s.brState b != 3 || !s.fwRuns then .next s
  else
    let s := s.failRecords (fun _ r => r.lead == b) .programFault
    .next (if (s.br b).barred then s else s.reloadBristle b)

/-! ### A cluster fails in service, R99 -/

/-- Physical clusters of palette p that are healthy and carry no logical cluster, ascending. -/
def State.spareClusters (s : State) (p : Nat) : List Nat :=
  (List.range 26).filter (fun ph => !bit (s.rget PAL_CHEALTH p) ph && !(List.range 24).any (fun c => s.cmapEntry p c % 32 == ph))

/-- A bristle of a cluster that a spare has taken over gets its slice's program again, R99: one that was halted stays halted (DESIGN
CHOICE, log entry 24), one that was being saved is SAVED as running, one barred by R123 stays FAULTED. -/
def State.revive (s : State) (b st : Nat) : State :=
  match smGet s.loaded (s.fget BRS_CTL_SLICE b * 4096 + b) with
  | none => s
  | some _ =>
    if (s.br b).barred then s.fset BRS_STATUS_STATE 3 b
    else
      let s := s.reloadBristle b
      if st = 0 then s.haltBristle b
      else if st = 4 then (s.setBr b { s.br b with saved := some 1 }).fset BRS_STATUS_STATE 4 b
      else s

/-- Logical cluster c of palette p has failed, R99: its physical cluster is marked, its work ends with CLUSTER_FAULT, its DMA channels stop,
its swatches are flipped off, its bristles' contents are lost. -/
def State.clusterDown (s : State) (p c : Nat) : State :=
  let bs := clusterBristles p c
  let ph := s.cmapEntry p c % 32
  let s := s.rset PAL_CHEALTH (putBits (s.rget PAL_CHEALTH p) ph ph 1) p
  let s := s.failRecords (fun _ r => bs.contains r.lead) .clusterFault
  let s := (List.range 8).foldl (fun s k => s.dmaStop (24 * p + c) k .clusterFault) s
  let s := s.swatchLost (fun b => bs.contains b)
  let s := bs.foldl (fun s b => (((s.withdraw b).fset BRS_CTL_RUN 0 b).freshBristle b).fset BRS_STATUS_STATE 0 b) s
  { s with failing := s.failing.filter (· != 24 * p + c) }

/-- CLUSTER_FAILURE, R99: a spare takes the failed cluster's place, recorded in flash, and its programs are reloaded; without one the device
has FAILED. -/
def execClusterFailure (p c : Nat) (s : State) : Host.Outcome State Fault Refusal :=
  if p > 9 ∨ c > 23 then .next s
  else
    let ph := s.cmapEntry p c % 32
    let was := (clusterBristles p c).map (fun b => (b, s.brState b))
    let s := s.clusterDown p c
    match s.spareClusters p with
    | n :: _ =>
      let s := (s.setCmap p c (0x80 + n)).evAdd (192 + p) 1
      let s := { s with atl := { s.atl with clusterMapFlash := s.atl.clusterMapFlash ++ [(p, ph)] } }
      .next (was.foldl (fun s q => s.revive q.1 q.2) s)
    | [] =>
      let s := s.fset ATL_BOOT_STATUS_FAIL_CODE Status.clusterSpares.code
      .next ((s.setPw { s.pw with bootFault := true }).bootTo 8)

end Machine
end Sys2Proof
end

