-- ==== Sys2Proof/Machine/HrcBase.lean ====
section
/-!
DEFINITION. The hierarchy's records, and the acknowledgement of a fence once its revocations are complete (spec 23 R558).
-/
namespace Sys2Proof
namespace Machine

/-- Replaces the hierarchy's part of the state. -/
def State.setHrc (s : State) (h : Hrc) : State := { s with hrc := h }

/-- The device's own member number. -/
def State.selfNum (s : State) : Nat := s.fget HRC_STATUS_MEMBER

/-- Does the device belong to a job? -/
def State.inJob (s : State) : Bool := s.fget HRC_STATUS_STATE != 0

/-- Is the device its job's manager? -/
def State.isManager (s : State) : Bool := s.inJob && s.fget HRC_STATUS_ROLE == 0

/-- A FENCE_DONE counts at the manager: a takeover is over once nobody's is awaited (R568). -/
def State.countFence (s : State) (m f : Nat) : State :=
  let l := s.hrc.waitFence.filter (· != m * 1024 + f)
  let s := s.setHrc { s.hrc with waitFence := l }
  if l.isEmpty then s.fset HRC_STATUS_TAKEOVER 0 else s

/-- The device's own fence of f is complete: FENCE_DONE goes to the manager (order kind 2). -/
def State.fenceEnds (s : State) (f : Nat) : State :=
  if s.isManager then s.countFence s.selfNum f else s.emit (.order s.hrc.mgr 2 [f])

/-- Fences of which no revocation is under way any more are acknowledged. -/
def State.fenceSettle (s : State) : State :=
  let ended := s.hrc.fences.filter (fun x => !x.2.any (fun i => s.tmt.revokes.any (fun v => v.index == i)))
  ended.foldl (fun s x => s.fenceEnds x.1) (s.setHrc { s.hrc with fences := s.hrc.fences.filter (fun x => !ended.contains x) })

end Machine
end Sys2Proof
end

