-- ==== Sys2Proof/Machine/Scalar.lean ====
section
/-!
DEFINITION. The scalar instructions of Kengir (spec 05 R136 to R138, R146, R147): arithmetic, immediates, multiplies,
special registers, control transfers, each with the fields its format gives it.
-/
namespace Sys2Proof
namespace Machine

/-- Writes rd and falls through. -/
def wr (s : State) (b rd : Nat) (x : Word64) : State × Ctl := (s.setBr b ((s.br b).setG rd x), .fall 0)

/-- A register-register operation, format R. -/
def aluR (f : Word64 → Word64 → Word64) (w : Issue) (rd rs1 rs2 : Nat) (s : State) : State :=
  s.issue w (gOk rd && gOk rs1 && gOk rs2) [rs1, rs2] false
    (fun _ s => wr s w.b rd (f ((s.br w.b).g rs1) ((s.br w.b).g rs2)))

/-- A register-immediate operation, format I. -/
def aluI (f : Word64 → Word64 → Word64) (ext : Issue → Nat → Word64) (w : Issue) (rd rs1 imm : Nat) (s : State) : State :=
  s.issue w (gOk rd && gOk rs1) [rs1] false (fun _ s => wr s w.b rd (f ((s.br w.b).g rs1) (ext (s.asCoded w) imm)))

/-- Width of the immediate: 16 bits, or 32 with LONG (R137, R157). -/
def immBits (w : Issue) : Nat := if w.long then 32 else 16

/-- The sign-extended immediate. -/
def sext (w : Issue) (imm : Nat) : Word64 := BitVec.ofInt 64 (toSigned (immBits w) imm)
/-- The zero-extended immediate. -/
def zext (w : Issue) (imm : Nat) : Word64 := BitVec.ofNat 64 (imm % 2 ^ immBits w)

/-- A Boolean as a register value. -/
def b2w (c : Bool) : Word64 := if c then 1 else 0

/-- Shift left by the low six bits. -/
def sll64 (x y : Word64) : Word64 := x <<< (y.toNat % 64)
/-- Shift right, zero fill. -/
def srl64 (x y : Word64) : Word64 := x >>> (y.toNat % 64)
/-- Shift right, sign fill. -/
def sra64 (x y : Word64) : Word64 := x.sshiftRight (y.toNat % 64)
/-- The smaller as signed. -/
def smin64 (x y : Word64) : Word64 := if x.slt y then x else y
/-- The larger as signed. -/
def smax64 (x y : Word64) : Word64 := if x.slt y then y else x
/-- The smaller as unsigned. -/
def umin64 (x y : Word64) : Word64 := if x.ult y then x else y
/-- The larger as unsigned. -/
def umax64 (x y : Word64) : Word64 := if x.ult y then y else x

/-- ADD, R136. -/
def execAdd (w : Issue) (rd rs1 rs2 : Nat) (s : State) : Host.Outcome State Fault Refusal := .next (aluR (· + ·) w rd rs1 rs2 s)
/-- SUB, R136. -/
def execSub (w : Issue) (rd rs1 rs2 : Nat) (s : State) : Host.Outcome State Fault Refusal := .next (aluR (· - ·) w rd rs1 rs2 s)
/-- AND, R136. -/
def execAndI (w : Issue) (rd rs1 rs2 : Nat) (s : State) : Host.Outcome State Fault Refusal := .next (aluR (· &&& ·) w rd rs1 rs2 s)
/-- OR, R136. -/
def execOrI (w : Issue) (rd rs1 rs2 : Nat) (s : State) : Host.Outcome State Fault Refusal := .next (aluR (· ||| ·) w rd rs1 rs2 s)
/-- XOR, R136. -/
def execXorI (w : Issue) (rd rs1 rs2 : Nat) (s : State) : Host.Outcome State Fault Refusal := .next (aluR (· ^^^ ·) w rd rs1 rs2 s)
/-- SLL, R136. -/
def execSll (w : Issue) (rd rs1 rs2 : Nat) (s : State) : Host.Outcome State Fault Refusal := .next (aluR sll64 w rd rs1 rs2 s)
/-- SRL, R136. -/
def execSrl (w : Issue) (rd rs1 rs2 : Nat) (s : State) : Host.Outcome State Fault Refusal := .next (aluR srl64 w rd rs1 rs2 s)
/-- SRA, R136. -/
def execSra (w : Issue) (rd rs1 rs2 : Nat) (s : State) : Host.Outcome State Fault Refusal := .next (aluR sra64 w rd rs1 rs2 s)
/-- SLT, R136. -/
def execSlt (w : Issue) (rd rs1 rs2 : Nat) (s : State) : Host.Outcome State Fault Refusal :=
  .next (aluR (fun x y => b2w (x.slt y)) w rd rs1 rs2 s)
/-- SLTU, R136. -/
def execSltu (w : Issue) (rd rs1 rs2 : Nat) (s : State) : Host.Outcome State Fault Refusal :=
  .next (aluR (fun x y => b2w (x.ult y)) w rd rs1 rs2 s)
/-- MIN, R136. -/
def execMinI (w : Issue) (rd rs1 rs2 : Nat) (s : State) : Host.Outcome State Fault Refusal := .next (aluR smin64 w rd rs1 rs2 s)
/-- MAX, R136. -/
def execMaxI (w : Issue) (rd rs1 rs2 : Nat) (s : State) : Host.Outcome State Fault Refusal := .next (aluR smax64 w rd rs1 rs2 s)
/-- MINU, R136. -/
def execMinu (w : Issue) (rd rs1 rs2 : Nat) (s : State) : Host.Outcome State Fault Refusal := .next (aluR umin64 w rd rs1 rs2 s)
/-- MAXU, R136. -/
def execMaxu (w : Issue) (rd rs1 rs2 : Nat) (s : State) : Host.Outcome State Fault Refusal := .next (aluR umax64 w rd rs1 rs2 s)

/-- ADDI, R137. -/
def execAddi (w : Issue) (rd rs1 imm : Nat) (s : State) : Host.Outcome State Fault Refusal := .next (aluI (· + ·) sext w rd rs1 imm s)
/-- ANDI, R137. -/
def execAndi (w : Issue) (rd rs1 imm : Nat) (s : State) : Host.Outcome State Fault Refusal := .next (aluI (· &&& ·) zext w rd rs1 imm s)
/-- ORI, R137. -/
def execOri (w : Issue) (rd rs1 imm : Nat) (s : State) : Host.Outcome State Fault Refusal := .next (aluI (· ||| ·) zext w rd rs1 imm s)
/-- XORI, R137. -/
def execXori (w : Issue) (rd rs1 imm : Nat) (s : State) : Host.Outcome State Fault Refusal := .next (aluI (· ^^^ ·) zext w rd rs1 imm s)
/-- SLTI, R137. -/
def execSlti (w : Issue) (rd rs1 imm : Nat) (s : State) : Host.Outcome State Fault Refusal :=
  .next (aluI (fun x y => b2w (x.slt y)) sext w rd rs1 imm s)
/-- SLTIU, R137. -/
def execSltiu (w : Issue) (rd rs1 imm : Nat) (s : State) : Host.Outcome State Fault Refusal :=
  .next (aluI (fun x y => b2w (x.ult y)) sext w rd rs1 imm s)
/-- SLI, R137: rs1 shifted left by 16, ORed with the 16-bit immediate. LONG is refused (R158). -/
def execSli (w : Issue) (rd rs1 imm : Nat) (s : State) : Host.Outcome State Fault Refusal :=
  .next (s.issue w (gOk rd && gOk rs1 && !(s.asCoded w).long) [rs1] false
    (fun _ s => wr s w.b rd (((s.br w.b).g rs1 <<< 16) ||| BitVec.ofNat 64 (imm % 2 ^ 16))))
/-- LUI, R137. LONG is refused (R158). -/
def execLui (w : Issue) (rd imm : Nat) (s : State) : Host.Outcome State Fault Refusal :=
  .next (s.issue w (gOk rd && !(s.asCoded w).long) [] false (fun _ s => wr s w.b rd (BitVec.ofInt 64 (toSigned 16 imm) <<< 16)))
/-- A shift by an immediate amount, R137: legal when imm[15:6] says so and without LONG (R158, R161). -/
def shiftI (f : Word64 → Word64 → Word64) (w : Issue) (rd rs1 imm : Nat) (s : State) : State :=
  s.issue w (gOk rd && gOk rs1 && !(s.asCoded w).long && decide (imm < 64)) [rs1] false
    (fun _ s => wr s w.b rd (f ((s.br w.b).g rs1) (BitVec.ofNat 64 imm)))
/-- SLLI, R137. -/
def execSlli (w : Issue) (rd rs1 imm : Nat) (s : State) : Host.Outcome State Fault Refusal := .next (shiftI sll64 w rd rs1 imm s)
/-- SRLI, R137. -/
def execSrli (w : Issue) (rd rs1 imm : Nat) (s : State) : Host.Outcome State Fault Refusal := .next (shiftI srl64 w rd rs1 imm s)
/-- SRAI, R137. -/
def execSrai (w : Issue) (rd rs1 imm : Nat) (s : State) : Host.Outcome State Fault Refusal := .next (shiftI sra64 w rd rs1 imm s)
/-- LADR, R137: the internal address of byte zext(imm16) × 4 of the bristle's own SRAM. -/
def execLadr (w : Issue) (rd imm : Nat) (s : State) : Host.Outcome State Fault Refusal :=
  .next (s.issue w (gOk rd && !(s.asCoded w).long) [] false
    (fun _ s => wr s w.b rd (BitVec.ofNat 64 (sramAddr w.b (imm % 2 ^ 16 * 4)))))

/-! ### Multiplies and special registers, R113, R138, R107 -/

/-- Starts a multiply: the product is due four pipeline cycles after the issue, R113. -/
def mulStart (f : Word64 → Word64 → BitVec 128) (w : Issue) (rs1 rs2 : Nat) (s : State) : State :=
  s.issue w (gOk rs1 && gOk rs2) [rs1, rs2] false (fun _ s =>
    let br := s.br w.b
    (s.setBr w.b { br with pendMul := br.pendMul ++ [{ prod := f (br.g rs1) (br.g rs2), due := br.pcyc + 4 }] }, .fall 0))
/-- MUL, R138. -/
def execMul (w : Issue) (rs1 rs2 : Nat) (s : State) : Host.Outcome State Fault Refusal :=
  .next (mulStart (fun x y => x.signExtend 128 * y.signExtend 128) w rs1 rs2 s)
/-- MULU, R138. -/
def execMulu (w : Issue) (rs1 rs2 : Nat) (s : State) : Host.Outcome State Fault Refusal :=
  .next (mulStart (fun x y => x.setWidth 128 * y.setWidth 128) w rs1 rs2 s)
/-- MUL_PRODUCT_VISIBLE, R113: products that are due by the bristle's next pipeline cycle show in MLO and MHI. -/
def execMulProductVisible (b : Nat) (s : State) : Host.Outcome State Fault Refusal :=
  .next (s.setBr b ((s.br b).showMul (fun m => decide (m.due ≤ (s.br b).pcyc))))

/-- The value of a special register for a read in the bristle's issue cycle, R107; none for 13 and above. -/
def State.special (s : State) (b n : Nat) : Option Word64 :=
  let br := s.br b
  match n with
  | 0 => some (br.prod.setWidth 64)
  | 1 => some ((br.prod >>> 64).setWidth 64)
  | 2 => some (BitVec.ofNat 64 br.vsat)
  | 3 => some (BitVec.ofNat 64 b)
  | 4 => some (BitVec.ofNat 64 br.cyc)
  | 5 => some (BitVec.ofNat 64 br.pcyc)
  | 6 => some (BitVec.ofNat 64 (br.rsPtr + 16 * br.rsDepth))
  | 7 => some (BitVec.ofNat 64 (smGetD br.rsEnt br.rsPtr 0))
  | 8 => some (BitVec.ofNat 64 br.epc)
  | 9 => some (BitVec.ofNat 64 br.ecause)
  | 10 => some (BitVec.ofNat 64 br.eval)
  | 11 => some br.scratch
  | 12 => some (BitVec.ofNat 64 (s.fget BRS_CTL_SLICE b))
  | _ => none

/-- MFSR, R138. -/
def execMfsr (w : Issue) (rd n : Nat) (s : State) : Host.Outcome State Fault Refusal :=
  .next (s.issue w (gOk rd && decide (n < 13)) [] false (fun _ s => wr s w.b rd ((s.special w.b n).getD 0)))

/-- The special registers that MTSR may write, R107: VSAT, RSD, RST, EPC, SCRATCH. -/
def writableSpecial (n : Nat) : Bool := [2, 6, 7, 8, 11].contains n

/-- The effect of MTSR on the bristle. `set` holds the VSAT bits the hardware sets in the same cycle, which stay set. -/
def Bristle.writeSpecial (br : Bristle) (n : Nat) (x : Word64) (set : Nat) : Bristle :=
  match n with
  | 2 => { br with vsat := x.toNat % 64 ||| set }
  | 6 => { br with rsPtr := x.toNat % 16, rsDepth := min 16 (getBits x.toNat 8 4) }
  | 7 => { br with rsEnt := smSet br.rsEnt br.rsPtr (x.toNat % 2 ^ 18) }
  | 8 => { br with epc := x.toNat % 2 ^ 18 }
  | _ => { br with scratch := x }

/-- MTSR, R138: read-only and reserved numbers trap with ILLEGAL_INSTR. -/
def execMtsr (w : Issue) (n rs1 : Nat) (s : State) : Host.Outcome State Fault Refusal :=
  .next (s.issue w (gOk rs1 && writableSpecial n) [rs1] false (fun pre s =>
    let br := s.br w.b
    let now := (pre.pendAcc.filter (fun p => p.due == br.pcyc)).foldl (fun x p => x ||| p.sat) 0
    (s.setBr w.b (br.writeSpecial n (br.g rs1) now), .fall 0)))

/-! ### Control transfer, R146, R147, R164 -/

/-- The target of a displaced transfer: PC + 4 × off natively, the next instruction plus off in Kengir-V. -/
def State.branchTarget (s : State) (w : Issue) (off : Int) : Nat :=
  let pc := (s.br w.b).pc
  if s.legacy w.b then (((pc + w.len : Nat) : Int) + off).emod (2 ^ 18) |>.toNat
  else ((pc : Int) + 4 * off).emod (2 ^ 18) |>.toNat

/-- The target of J and CALL: tgt16 × 4 natively, the next instruction plus the displacement in Kengir-V. -/
def State.jumpTarget (s : State) (w : Issue) (tgt : Int) : Nat :=
  if s.legacy w.b then s.branchTarget w tgt else (4 * tgt).emod (2 ^ 18) |>.toNat

/-- A conditional branch: a taken one costs two bubbles (R102). -/
def branch (c : Word64 → Word64 → Bool) (w : Issue) (rs1 rs2 : Nat) (off : Int) (s : State) : State :=
  s.issue w (gOk rs1 && gOk rs2) [rs1, rs2] false (fun _ s =>
    if c ((s.br w.b).g rs1) ((s.br w.b).g rs2) then (s, .jump (s.branchTarget w off) 2) else (s, .fall 0))

/-- BEQ, R146. -/
def execBeq (w : Issue) (rs1 rs2 : Nat) (off : Int) (s : State) : Host.Outcome State Fault Refusal :=
  .next (branch (fun x y => x == y) w rs1 rs2 off s)
/-- BNE, R146. -/
def execBne (w : Issue) (rs1 rs2 : Nat) (off : Int) (s : State) : Host.Outcome State Fault Refusal :=
  .next (branch (fun x y => x != y) w rs1 rs2 off s)
/-- BLT, R146. -/
def execBlt (w : Issue) (rs1 rs2 : Nat) (off : Int) (s : State) : Host.Outcome State Fault Refusal :=
  .next (branch (fun x y => x.slt y) w rs1 rs2 off s)
/-- BGE, R146. -/
def execBge (w : Issue) (rs1 rs2 : Nat) (off : Int) (s : State) : Host.Outcome State Fault Refusal :=
  .next (branch (fun x y => !x.slt y) w rs1 rs2 off s)
/-- BLTU, R146. -/
def execBltu (w : Issue) (rs1 rs2 : Nat) (off : Int) (s : State) : Host.Outcome State Fault Refusal :=
  .next (branch (fun x y => x.ult y) w rs1 rs2 off s)
/-- BGEU, R146. -/
def execBgeu (w : Issue) (rs1 rs2 : Nat) (off : Int) (s : State) : Host.Outcome State Fault Refusal :=
  .next (branch (fun x y => !x.ult y) w rs1 rs2 off s)

/-- J, R146. -/
def execJ (w : Issue) (tgt : Int) (s : State) : Host.Outcome State Fault Refusal :=
  .next (s.issue w true [] false (fun _ s => (s, .jump (s.jumpTarget w tgt) 2)))

/-- A call to a target: pushes the return address, or traps with RSTK_OVERFLOW and pushes nothing (R117, R147). EVAL holds the instruction
word: R107 leaves open which of its two contents this cause has (DESIGN CHOICE, log entry 24; so for RSTK_UNDERFLOW and BREAK). -/
def callTo (w : Issue) (s : State) (target : Nat) : State × Ctl :=
  let br := s.br w.b
  match br.push (s.fon BRS_CTL_RSTK_MODE w.b) ((br.pc + (s.asCoded w).len) % 2 ^ 18) with
  | none => (s, .trap 6 w.raw)
  | some br => (s.setBr w.b br, .jump target 2)

/-- CALL, R117. -/
def execCall (w : Issue) (tgt : Int) (s : State) : Host.Outcome State Fault Refusal :=
  .next (s.issue w true [] false (fun _ s => callTo w s (s.jumpTarget w tgt)))
/-- JR, R147: rs1[17:0]. -/
def execJr (w : Issue) (rs1 : Nat) (s : State) : Host.Outcome State Fault Refusal :=
  .next (s.issue w (gOk rs1) [rs1] false (fun _ s => (s, .jump (((s.br w.b).g rs1).toNat % 2 ^ 18) 2)))
/-- CALLR, R147. -/
def execCallr (w : Issue) (rs1 : Nat) (s : State) : Host.Outcome State Fault Refusal :=
  .next (s.issue w (gOk rs1) [rs1] false (fun _ s => callTo w s (((s.br w.b).g rs1).toNat % 2 ^ 18)))
/-- RET, R117: one bubble, or RSTK_UNDERFLOW on an empty stack in trap mode. -/
def execRet (w : Issue) (s : State) : Host.Outcome State Fault Refusal :=
  .next (s.issue w true [] false (fun _ s =>
    match (s.br w.b).pop (s.fon BRS_CTL_RSTK_MODE w.b) with
    | none => (s, .trap 7 w.raw)
    | some (br, ra) => (s.setBr w.b br, .jump ra 1)))
/-- ERET, R122 and R147: leaves the handler; outside it, ILLEGAL_INSTR. -/
def execEret (w : Issue) (s : State) : Host.Outcome State Fault Refusal :=
  .next (s.issue w (s.br w.b).inHandler [] false (fun _ s =>
    let br := s.br w.b
    ((s.setBr w.b { br with inHandler := false }).fset BRS_STATUS_STATE 1 w.b, .jump br.epc 2)))
/-- BREAK, R146: traps with BREAK at the instruction itself. -/
def execBreakI (w : Issue) (s : State) : Host.Outcome State Fault Refusal :=
  .next (s.issue w true [] false (fun _ s => (s, .trap 8 w.raw)))
/-- MOV, R161: OR d, s, g0. -/
def execMov (w : Issue) (d src : Nat) (s : State) : Host.Outcome State Fault Refusal := .next (aluR (· ||| ·) w d src 0 s)

end Machine
end Sys2Proof
end

