-- ==== Sys2Proof/Machine/Mailbox.lean ====
section
/-!
DEFINITION. Mailboxes (spec 24 R571 to R585): who reaches which channel, messages and notices, heartbeats, bindings, programs.
-/
namespace Sys2Proof
namespace Machine

/-! ### Paths, R571, R572, R574 -/

/-- What becomes of an access to a channel: served; refused by MBX_SEC; refused as a grant page access of a port; out of reach. -/
inductive MbxReach where
  | served | secDenied | refused (p : Nat) | none
deriving DecidableEq, Repr

/-- May a secure channel be written: bit b of MBX_SEC, or channel 0 in RECOVERY (R572)? Bit 8 is always 1; bit 9 is 1 while the debug
port is OPEN, and bank 9 is out of reach otherwise. -/
def State.secOk (s : State) (b c : Nat) : Bool := decide (b ≥ 8) || bit (s.rget MBX_SEC) b || (c == 0 && s.bootState == 7)

/-- The table of R574 for channel c of bank b. -/
def State.mbxReach (s : State) (who : MbxPath) (b c : Nat) : MbxReach :=
  let sec : MbxReach := if s.secOk b c then .served else .secDenied
  match who with
  | .atelier => .served
  | .port p => if p != b || p > 7 then .none else if c < 16 then sec else .refused p
  | .grant p sl =>
    if p != b || p > 7 then .none
    else if c ≥ 16 && s.fon MBX_CH_BIND_VALID 0 b c && s.fget MBX_CH_BIND_SLICE 0 b c == sl then .served else .refused p
  | .smbus => if b != 8 then .none else if c < 16 then sec else .served
  | .debug => if b != 9 || s.dbg.fuses.dbgDisable || s.dbg.softClosed then .none else if c < 16 then sec else .served

/-- A refused grant page access, R349. -/
def State.grantFault (s : State) (p : Nat) : State := (s.fadd HIF_DISC_COUNT_DISCARD 1 p).event HIF_ERR_STATUS_GRANT_FAULT p

/-- A write to a secure channel of a bank that may not write it, R572. -/
def State.secDenied (s : State) (b c : Nat) : State := (s.fset MBX_CH_STATUS_SEC_DENIED 1 0 b c).event MBX_ERR_SEC_DENIED

/-- A write to a full IN side, R575. -/
def State.overrun (s : State) (b c : Nat) : State := (s.fset MBX_CH_STATUS_OVERRUN 1 0 b c).event MBX_ERR_OVERRUN

/-- A write to channel c of bank b by a path: served, or its refusal. -/
def State.mbxAdmit (s : State) (who : MbxPath) (b c : Nat) (f : State → State) : State :=
  match s.mbxReach who b c with
  | .served => f s
  | .secDenied => s.secDenied b c
  | .refused p => s.grantFault p
  | .none => s

/-! ### Messages, R575 to R577, R579, R581, R583 -/

/-- The commands of R583 with those that chapters 25 and 26 add. -/
def listedCmd (c : Nat) : Bool :=
  decide (c ≤ 0x0C) || decide (0x10 ≤ c ∧ c ≤ 0x1C) || decide (0x20 ≤ c ∧ c ≤ 0x24) || c == 0x28 || c == 0x29 ||
  decide (0x30 ≤ c ∧ c ≤ 0x36) || c == 0x38 || c == 0x39 || decide (0x40 ≤ c ∧ c ≤ 0x45) || c == 0x48 || c == 0x49 ||
  decide (0x4C ≤ c ∧ c ≤ 0x55) || decide (0x58 ≤ c ∧ c ≤ 0x5C) || decide (0x60 ≤ c ∧ c ≤ 0x64) || decide (0x68 ≤ c ∧ c ≤ 0x6D) ||
  decide (0x70 ≤ c ∧ c ≤ 0x7E)

/-- The diagnostic commands that a FAILED device serves on channels 0 and 16, R579: those of class D of R583. -/
def diagCmd (c : Nat) : Bool := c == 0 || c == 1 || c == 0x77 || c == 0x78

/-- The argument word that no form of a listed command takes: a mode of TIME_SET, a field of FUSE_PROGRAM, a flag above 1 (R584). -/
def badWord (cmd w1 w2 : Nat) : Nat :=
  if cmd = 0x75 ∧ w1 > 3 ∨ cmd = 0x79 ∧ (w1 = 0 ∨ w1 > 5) ∨ cmd = 0x72 ∧ w1 > 1 then 1
  else if (cmd = 0x60 ∨ cmd = 0x7B) ∧ w2 > 1 then 2 else 0

/-- What firmware does with a full IN side by itself: in FAILED all but diagnostic commands are not ready; a header committed again with
the SEQ last acknowledged gets the recorded results (R581); an unlisted command or reserved header bits are BAD_COMMAND (R583,
R584), NOT_BOUND coming first; a word that no form of the command takes is BAD_DESCRIPTOR (R584). Any other message waits for its command. -/
def State.mbxAnswer (s : State) (ch : Nat) : State :=
  let b := ch / 32
  let c := ch % 32
  let h := s.rget MBX_IN 0 b c 0
  if !s.fon MBX_CH_STATUS_IN_FULL 0 b c || s.mbx.busy.contains ch then s
  else if s.bootState = 8 then
    if (c == 0 || c == 16) && diagCmd (getBits h 7 0) then s else s.ack ch .notReady 0 []
  else if !s.fwRuns then s
  else if smGet s.mbx.acked ch = some (getBits h 15 8 + 1) then
    let r := smGetD s.mbx.results ch []
    s.ackRc ch (r.headD 0) (r.drop 1)
  else if c ≥ 16 && !s.fon MBX_CH_BIND_VALID 0 b c then s.ack ch .notBound 0 []
  else if getBits h 31 17 ≠ 0 ∨ !listedCmd (getBits h 7 0) then s.ack ch .badCommand 0 []
  else
    let arg := badWord (getBits h 7 0) (s.rget MBX_IN 0 b c 1) (s.rget MBX_IN 0 b c 2)
    if arg = 0 then s
    else if (getBits h 7 0 = 0x60 ∨ getBits h 7 0 = 0x72) ≠ decide (c ≥ 16) then s.ack ch (if c < 16 then .notBound else .denied) 0 []
    else s.ack ch .badDescriptor arg []

/-- Firmware's round over the full IN sides when it starts to serve them, R579, R581. -/
def State.mbxRound (s : State) : State := (List.range 320).foldl State.mbxAnswer s

/-- A header write, R575: IN_FULL, DONE cleared, the atelier core interrupted. -/
def State.mbxHeader (s : State) (b c hdr : Nat) : State :=
  if s.fon MBX_CH_STATUS_IN_FULL 0 b c then s.overrun b c
  else
    let s := (s.rset MBX_IN (hdr % 2 ^ 32) 0 b c 0).fset MBX_CH_STATUS_IN_FULL 1 0 b c
    ((s.fset MBX_IN_ACK_DONE 0 0 b c).emit (.irq .mbx b c)).mbxAnswer (32 * b + c)

/-- A module in M2 wakes for a host's or the SMBus's access, R66, R579. -/
def State.mbxWake (s : State) (who : MbxPath) : State :=
  match who with
  | .port _ | .grant _ _ | .smbus => if s.fget GSO_MSTATE_STATE = 2 then s.wakeModule else s
  | _ => s

/-- MAILBOX_COMMIT, R575: a write of MBX_IN0 of a channel. -/
def execMailboxCommit (who : MbxPath) (ch hdr : Nat) (s : State) : Host.Outcome State Fault Refusal :=
  if ch ≥ 320 || s.pw.devReset then .next s
  else
    let s := s.mbxWake who
    .next (s.mbxAdmit who (ch / 32) (ch % 32) (fun s => s.mbxHeader (ch / 32) (ch % 32) hdr))

/-! ### Notices, R578 -/

/-- The channel that takes a slice's notices: the lowest one of its driver's bank that is bound to it. -/
def State.noticeChan (s : State) (sl : Nat) : Option Nat :=
  match (s.sx sl).driver with
  | none => none
  | some d => ((s.boundChans (d / 16) sl).head?).map (fun c => 32 * (d / 16) + c)

/-- The queue that feeds a channel: its slice's, or a secure bank's; none otherwise. -/
def State.noticeQueue (s : State) (ch : Nat) : Option NoticeQueue :=
  let b := ch / 32
  let c := ch % 32
  if c < 16 then (if c == 0 && bit (s.rget MBX_SEC) b then smGet s.mbx.bankQ b else none)
  else
    let sl := s.fget MBX_CH_BIND_SLICE 0 b c
    if s.fon MBX_CH_BIND_VALID 0 b c && s.noticeChan sl == some ch then smGet s.mbx.sliceQ sl else none

/-- Replaces the queue that feeds a channel. -/
def State.setNoticeQueue (s : State) (ch : Nat) (q : NoticeQueue) : State :=
  if ch % 32 < 16 then { s with mbx := { s.mbx with bankQ := smSet s.mbx.bankQ (ch / 32) q } }
  else { s with mbx := { s.mbx with sliceQ := smSet s.mbx.sliceQ (s.fget MBX_CH_BIND_SLICE 0 (ch / 32) (ch % 32)) q } }

/-- Notices queued for a channel, as PENDING reads it. -/
def State.pendingNotices (s : State) (ch : Nat) : Nat := min 255 (((s.noticeQueue ch).map (·.items.length)).getD 0)

/-- May firmware deliver a notice now, R579: it runs, or the device has FAILED and this is a DEVICE_EVENT. -/
def State.delivers (s : State) (n : Notice) : Bool := (s.fwRuns) || (s.bootState == 8 && n.kind == 4)

/-- Writes words 1 to 7 of an OUT side. -/
def State.putOutWords (s : State) (b c : Nat) (ws : List Nat) : State :=
  (List.range 7).foldl (fun s i => s.rset MBX_OUT (ws.getD i 0) 0 b c (i + 1)) s

/-- NOTICE_LOAD, R576, R578: the oldest notice of the channel's queue goes into its empty OUT side. SEQ counts the notices delivered,
the first as 1 (DEDUCED, log entry 27). -/
def execNoticeLoad (ch : Nat) (s : State) : Host.Outcome State Fault Refusal :=
  let b := ch / 32
  let c := ch % 32
  if ch ≥ 320 || s.fon MBX_CH_STATUS_OUT_FULL 0 b c then .next s
  else match s.noticeQueue ch with
  | none => .next s
  | some q =>
    match q.items with
    | [] => .next s
    | n :: rest =>
      if !s.delivers n then .next s
      else
        let sq := smGetD s.mbx.outSeq ch 0 + 1
        let s := s.setNoticeQueue ch { items := rest, dropped := 0 }
        let s := { s with mbx := { s.mbx with outSeq := smSet s.mbx.outSeq ch sq, loaded := smSet s.mbx.loaded ch n } }
        let s := (s.putOutWords b c n.words).rset MBX_OUT (min 65535 q.dropped * 0x10000 + sq % 256 * 256 + n.kind % 256) 0 b c 0
        .next ((s.fset MBX_CH_STATUS_OUT_FULL 1 0 b c).channelIrq ch)

/-- A write of MBX_OUT_ACK, R578. -/
def State.outAck (s : State) (b c val : Nat) : State :=
  let ch := 32 * b + c
  if getBits val 23 16 = getBits (s.rget MBX_OUT 0 b c 0) 15 8 then
    { (s.fset MBX_CH_STATUS_OUT_FULL 0 0 b c) with mbx := { s.mbx with loaded := smDel s.mbx.loaded ch } }
  else s.fset MBX_CH_STATUS_SEQ_MISMATCH 1 0 b c

/-- NOTICE_ACK, R578. -/
def execNoticeAck (who : MbxPath) (ch val : Nat) (s : State) : Host.Outcome State Fault Refusal :=
  if ch ≥ 320 || s.pw.devReset then .next s
  else
    let s := s.mbxWake who
    .next (s.mbxAdmit who (ch / 32) (ch % 32) (fun s => s.outAck (ch / 32) (ch % 32) val))

/-- A driver attaches in bank b, R578: a notice of the slice loaded in another bank returns to the head of its queue. -/
def State.noticesFollow (s : State) (sl b : Nat) : State :=
  (List.range 320).foldl (fun s ch =>
    let p := ch / 32
    let c := ch % 32
    if p != b && c ≥ 16 && s.fon MBX_CH_STATUS_OUT_FULL 0 p c && s.fon MBX_CH_BIND_VALID 0 p c && s.fget MBX_CH_BIND_SLICE 0 p c == sl then
      match smGet s.mbx.loaded ch with
      | none => s
      | some n =>
        let q := smGetD s.mbx.sliceQ sl { items := [], dropped := 0 }
        let s := s.fset MBX_CH_STATUS_OUT_FULL 0 0 p c
        { s with mbx := { s.mbx with loaded := smDel s.mbx.loaded ch, sliceQ := smSet s.mbx.sliceQ sl { q with items := n :: q.items } } }
    else s) s

/-! ### Heartbeats, R582, R390, R391 -/

/-- Slices attached through driver slot d of bank b. -/
def State.slotSlices (s : State) (b d : Nat) : List Nat := (List.range 64).filter (fun sl => (s.sx sl).driver == some (b * 16 + d))

/-- A beat of a driver slot. -/
def State.beatSlot (s : State) (b d : Nat) : State :=
  if (s.slotSlices b d).isEmpty then s
  else
    let s := s.fadd MBX_HB_BEATS 1 0 b d
    { s with mbx := { s.mbx with beats := smSet s.mbx.beats (b * 16 + d) s.pw.onTicks } }

/-- Periods of 1 s missed by a driver slot, 0 to 3, R391, R582; the count stands still during an atelier restart (R86). -/
def State.missedBeats (s : State) (b d : Nat) : Nat :=
  if (s.slotSlices b d).isEmpty then 0
  else min 3 ((s.pw.onTicks - (if s.bootState = 6 then s.pw.restartTicks else 0) - smGetD s.mbx.beats (b * 16 + d) 0) / 100000)

/-- Does a path reach heartbeat slot d of bank b, R574? -/
def State.hbReach (s : State) (who : MbxPath) (b d : Nat) : MbxReach :=
  match who with
  | .atelier => .served
  | .port p => if p != b || p > 7 then .none else .refused p
  | .grant p sl => if p != b || p > 7 then .none else if (s.sx sl).driver == some (b * 16 + d) then .served else .refused p
  | .smbus => if b == 8 then .served else .none
  | .debug => if b == 9 && !s.dbg.fuses.dbgDisable && !s.dbg.softClosed then .served else .none

/-- HOST_HEARTBEAT, R582: a write of any value to MBX_HBd. -/
def execHostHeartbeat (who : MbxPath) (bank d : Nat) (s : State) : Host.Outcome State Fault Refusal :=
  if bank > 9 ∨ d > 15 ∨ s.pw.devReset then .next s
  else
    let s := s.mbxWake who
    match s.hbReach who bank d with
    | .served => .next (s.beatSlot bank d)
    | .refused p => .next (s.grantFault p)
    | _ => .next s

/-- The count of missed periods starts again from zero after a restart, R391. -/
def State.restartBeats (s : State) : State :=
  let ks := ((List.range 64).filterMap (fun sl => (s.sx sl).driver)).eraseDups
  { s with mbx := { s.mbx with beats := ks.foldl (fun m k => smSet m k s.pw.onTicks) s.mbx.beats } }

/-! ### The banks as registers, R585 -/

/-- A word of a bank as a path reads it, at offset off of bank b: a word it may not read is zero. -/
def State.mbxRead (s : State) (who : MbxPath) (b off : Nat) : State × Nat :=
  if off < 0x1000 then
    let c := off / 0x80
    let o := off % 0x80
    match s.mbxReach who b c with
    | .served =>
      (s, if o < 0x20 then s.rget MBX_IN 0 b c (o / 4) else if o < 0x40 then s.rget MBX_OUT 0 b c (o / 4 - 8)
        else if o = 0x40 then s.rget MBX_IN_ACK 0 b c
        else if o = 0x48 then s.rget MBX_CH_STATUS 0 b c + (if c < 16 then 2 ^ 31 else 0) + s.pendingNotices (32 * b + c) * 256
        else if o = 0x4C then s.rget MBX_CH_BIND 0 b c else 0)
    | .refused p => (s.grantFault p, 0)
    | _ => (s, 0)
  else if off < 0x1040 then
    let d := (off - 0x1000) / 4
    match s.hbReach who b d with
    | .served => (s, s.rget MBX_HB 0 b d + s.missedBeats b d * 0x10000)
    | .refused p => (s.grantFault p, 0)
    | _ => (s, 0)
  else (s, 0)

/-- The atelier core writes a bank: results, acknowledgement, OUT side and binding as well (R585). -/
def State.mbxCoreWrite (s : State) (b c o val : Nat) : State :=
  if o < 0x20 then s.rset MBX_IN val 0 b c (o / 4)
  else if o < 0x40 then
    let s := s.rset MBX_OUT val 0 b c (o / 4 - 8)
    if o = 0x20 then (s.fset MBX_CH_STATUS_OUT_FULL 1 0 b c).channelIrq (32 * b + c) else s
  else if o = 0x40 then
    let s := (s.rset MBX_IN_ACK (2 ^ 31 + getBits val 23 0) 0 b c).fset MBX_CH_STATUS_IN_FULL 0 0 b c
    if bit (s.rget MBX_IN 0 b c 0) 16 then s.channelIrq (32 * b + c) else s
  else if o = 0x4C then (if c < 16 then s else s.rset MBX_CH_BIND (getBits val 31 31 * 2 ^ 31 + getBits val 5 0) 0 b c)
  else s

/-- A path writes a word of a bank, R574, R575, R578, R582, R585. -/
def State.mbxWrite (s : State) (who : MbxPath) (b off val : Nat) : State :=
  if off < 0x1000 then
    let c := off / 0x80
    let o := off % 0x80
    s.mbxAdmit who b c (fun s =>
      if o = 0 && who != .atelier then s.mbxHeader b c val
      else if o = 0x44 then s.outAck b c val
      else if o = 0x48 then s.rset MBX_CH_STATUS (clearBits (s.rget MBX_CH_STATUS 0 b c) (getBits val 4 2 * 4)) 0 b c
      else if who = .atelier then s.mbxCoreWrite b c o val
      else if o < 0x20 then
        (if s.fon MBX_CH_STATUS_IN_FULL 0 b c then s.overrun b c else s.rset MBX_IN val 0 b c (o / 4))
      else s)
  else if off < 0x1040 then
    let d := (off - 0x1000) / 4
    match s.hbReach who b d with
    | .served => s.beatSlot b d
    | .refused p => s.grantFault p
    | _ => s
  else s

/-! ### Commands of the firmware itself, R573, R583 -/

/-- A free grant entry of port p for a bank: the one asked for where it is free, else the lowest (R574). -/
def State.freeEntry (s : State) (p g : Nat) : Option Nat :=
  let free := fun (i : Nat) => !bit (smGetD s.hl.grant (p * 224 + i) 0) 63
  if g ≠ 0 ∧ g < 224 ∧ free g then some g else ((List.range 223).map (· + 1)).find? free

/-- MBX_BIND, R373, R573, R574: word 3 is VALID and the slice; `entry` is the grant entry firmware takes. -/
def execMbxBind (ch bank chan w3 entry : Nat) (s : State) : Host.Outcome State Fault Refusal :=
  .next (s.serve ch 0x0C [(1, bank), (2, chan), (3, w3)] (w3 % 64) .secure false (fun _ s =>
    if bank > 9 then refuseCmd s .badDescriptor 1
    else if chan < 16 ∨ chan > 31 then refuseCmd s .badDescriptor 2
    else if getBits w3 30 6 ≠ 0 then refuseCmd s .badDescriptor 3
    else if bit w3 31 ∧ !s.slLive (w3 % 64) then refuseCmd s .badHandle 3
    else
      match (if bank < 8 ∧ bit w3 31 then s.freeEntry bank entry else some 0) with
      | none => refuseCmd s .quotaExceeded
      | some g =>
        let t := 32 * bank + chan
        if s.mbx.busy.contains t then okCmd { s with mbx := { s.mbx with binds := smSet s.mbx.binds t (w3, g) } }
        else okCmd (s.applyBind t w3 g)))

/-- Every channel of a slice is unbound, R573. -/
def State.unbindSlice (s : State) (sl : Nat) : State :=
  (List.range 10).foldl (fun s b => (s.boundChans b sl).foldl (fun s c => s.applyBind (32 * b + c) 0 0) s) s

/-- A mailbox channel's NOP, R583. -/
def State.mbxNop (s : State) (ch : Nat) : State :=
  s.serve ch 0 [] 64 .diag false (fun _ s => okCmd s [s.rget ATL_FW_VERSION, s.rget ATL_BOOT_STATUS])

/-- NOP: of a Kengir-V bristle, decoded as ADD g0, g0, g0 (R161), or of a mailbox channel (R583). -/
def execNop (who : NopWho) (s : State) : Host.Outcome State Fault Refusal :=
  match who with
  | .bristle w => .next (aluR (· + ·) w 0 0 0 s)
  | .mailbox ch => .next (s.mbxNop ch)

/-- DIAG_READ, R90, R583: the first 28 bytes of a record of the crash log. -/
def execDiagRead (ch index : Nat) (s : State) : Host.Outcome State Fault Refusal :=
  .next (s.serve ch 1 [(1, index)] 64 .diag false (fun _ s =>
    match s.atl.crashLog[index]? with
    | none => refuseCmd s .badDescriptor 1
    | some r => okCmd s ((List.range 7).map (fun i => leField r (4 * i) 4))))

/-- May firmware load a program there, R126: the bristle is the slice's, HALTED or FAULTED. -/
def State.progPlaceOk (s : State) (sl : Nat) (x : ProgPlace) : Bool :=
  decide (x.b < 3840) && (s.sliceBristles sl).contains x.b && s.fget BRS_CTL_SLICE x.b == sl && (s.brState x.b == 0 || s.brState x.b == 3)

/-- PROG_LOAD, R126, R226, R278, R583: the program is registered and loaded where firmware places it. The spec gives its fields no ranges: an
image of 1 to 256 KiB, a ring of records within the SRAM (DESIGN CHOICE, log entry 27). -/
def execProgLoad (ch : Nat) (pb : Status) (addr len enc rstk off depth : Nat) (loads : List ProgPlace) (s : State) : Host.Outcome State Fault Refusal :=
  .next (s.serve ch 0x28 [] 0 .bound true (fun sl s =>
    if pb ≠ .ok then refuseCmd s pb
    else if enc > 1 ∨ rstk > 1 ∨ len = 0 ∨ len > 0x40000 ∨ off % 64 ≠ 0 ∨ depth = 0 ∨ off + 64 * depth > 0x40000 ∨ addr ≥ 2 ^ 48 then
      refuseCmd s .badDescriptor 1
    else match s.accessErr sl addr len false with
    | some e => refuseCmd s e.status
    | none =>
      if !s.serialLeft sl then refuseCmd s .quotaExceeded else
      let (h, s) := s.newHandle sl
      let s := { s with progs := smSet s.progs h { slice := sl, addr := addr, len := len, enc := enc, rstk := rstk, inboxOff := off, inboxDepth := depth } }
      let s := (loads.filter (s.progPlaceOk sl)).foldl (fun s x =>
        let s := (s.fset BRS_CTL_TRAP_EN (if x.trapEn then 1 else 0) x.b).fset BRS_TVEC_ADDR x.tvec x.b
        let s := (s.rset BRS_TMASK (getBits x.tmask 9 1 * 2) x.b).setBr x.b { s.br x.b with faultTimes := [], barred := false }
        s.loadBristle sl x.b h (x.pc % 2 ^ 18)) s
      okCmd s [h]))

/-- Does a table or cache of its slice name a program? -/
def State.progUsed (s : State) (h : Nat) : Bool :=
  s.tbl.any (fun t => t.2.prog == h || t.2.uprog == h) || s.kvc.any (fun c => c.2.prog == h)

/-- PROG_FREE, R583: BUSY while a table or cache names the program (DESIGN CHOICE, log entry 27). -/
def execProgFree (ch handle : Nat) (s : State) : Host.Outcome State Fault Refusal :=
  .next (s.serve ch 0x29 [(1, handle)] 0 .bound false (fun sl s =>
    if handle = 0 ∨ !s.progOk sl handle then refuseCmd s .badHandle 1
    else if s.progUsed handle then refuseCmd s .busy
    else okCmd { s with progs := smDel s.progs handle, loaded := smMap s.loaded (fun _ l => if l.prog = handle then { prog := 0, pc := l.pc } else l) } [handle]))

end Machine
end Sys2Proof
end

