-- ==== Sys2Proof/Machine/PmuBase.lean ====
section
/-!
DEFINITION. Counters and their events (spec 25 R586 to R591), allocation state (R594 to R596), dump sets (R597 to R600) and
device time (R601) as other parts of the device use them.
-/
namespace Sys2Proof
namespace Machine

/-- Replaces the counters' typed state. -/
def State.setPmu (s : State) (p : Pmu) : State := { s with pmu := p }

/-! ### Events, R590 -/

/-- The event of a code on the die of a PMU instance: how many units it has, and whether it honours the slice filter (column S). -/
def pmuEvent (inst code : Nat) : Option (Nat × Bool) :=
  if code = 0x7F then some (1, false)
  else if inst = 0 then (if code = 1 ∨ code = 2 then some (1, false) else none)
  else if inst ≤ 10 then
    (match code with
     | 0x01 | 0x02 => some (2, true)
     | 0x04 | 0x05 => some (2, false)
     | 0x10 | 0x11 | 0x12 => some (2, false)
     | 0x20 | 0x21 | 0x22 => some (1, true)
     | 0x23 => some (1, false)
     | 0x30 | 0x31 | 0x32 | 0x33 | 0x38 | 0x40 => some (24, true)
     | _ => none)
  else if inst ≤ 14 then
    (match code with
     | 0x01 | 0x02 => some (1, false)
     | 0x10 | 0x11 | 0x12 => some (6, false)
     | 0x20 | 0x21 => some (8, true)
     | 0x22 => some (1, true)
     | _ => none)
  else if inst ≤ 16 then
    (match code with
     | 0x01 | 0x02 | 0x03 | 0x04 => some (8, false)
     | 0x10 | 0x11 | 0x12 | 0x13 | 0x14 => some (1, true)
     | 0x20 => some (1, true)
     | 0x30 | 0x31 => some (1, false)
     | _ => none)
  else if inst ≤ 18 then
    (match code with
     | 0x01 | 0x02 | 0x03 | 0x04 | 0x05 | 0x06 => some (4, true)
     | 0x10 => some (1, true)
     | 0x20 => some (4, false)
     | _ => none)
  else
    (match code with
     | 0x01 | 0x02 => some (8, true)
     | 0x10 => some (4, true)
     | 0x20 | 0x21 => some (1, false)
     | _ => none)

/-! ### Counters, R587 to R591, R594 -/

/-- Is counter k of an instance allocated to a slice? -/
def State.counterOf (s : State) (sl inst k : Nat) : Bool :=
  s.fon PMU_OWNER_VALID inst k && !s.fon PMU_OWNER_DEVICE inst k && s.fget PMU_OWNER_SLICE inst k == sl

/-- The IDs of the counters a slice holds. -/
def State.countersOf (s : State) (sl : Nat) : List Nat := (List.range 320).filter (fun id => s.counterOf sl (id / 16) (id % 16))

/-- A dump ID's present value: a counter, or a slot counter of R592. -/
def State.dumpValue (s : State) (id : Nat) : Nat :=
  if id < 0x1000 then s.counter (id / 16) (id % 16)
  else
    let x := id - 0x1000
    s.rget PMU_SLOT (1 + x / 96) (x / 4 % 24) (x % 4) 0 + s.rget PMU_SLOT (1 + x / 96) (x / 4 % 24) (x % 4) 1 * 2 ^ 32

/-- The window of an instance begins anew: every counter's increase is measured from here (R591). -/
def State.restartWindow (s : State) (inst : Nat) : State :=
  s.setPmu { s.pmu with win := (List.range 16).foldl (fun m k => smSet m (inst * 16 + k) (s.counter inst k)) s.pmu.win,
                        winAt := smSet s.pmu.winAt inst (s.pw.onTicks * 10) }

/-- When an instance's window ends, in µs of the crystal (R591). -/
def State.windowEnds (s : State) (inst : Nat) : Nat := smGetD s.pmu.winAt inst s.pmu.winBase + s.fget PMU_CTL_WIN_US inst

/-- A counter is freed: disabled, zeroed, owned by nobody, out of its slice's view (R594). -/
def State.freeCounter (s : State) (id : Nat) : State :=
  let i := id / 16
  let k := id % 16
  let s := (((s.rset PMU_EVSEL 0 i k).rset PMU_OWNER 0 i k).setCounter i k 0).rset PMU_WIN_LO 0 i k
  let s := s.rset PMU_WIN_HI 0 i k
  s.setPmu { s.pmu with win := smDel s.pmu.win id, views := smDelIf s.pmu.views (fun j => smGet s.pmu.views j == some id) }

/-- The lowest free index of a slice's view. -/
def State.freeView (s : State) (sl : Nat) : Nat :=
  ((List.range 64).find? (fun j => (smGet s.pmu.views (64 * sl + j)).isNone)).getD 0

/-! ### Dump sets, R597 to R600 -/

/-- Bytes of a record of n values: the smallest power of two at or above 32 + 8 n (R597). -/
def dumpLen (n : Nat) : Nat := (([64, 128, 256, 512, 1024, 2048, 4096] : List Nat).find? (fun l => decide (32 + 8 * n ≤ l))).getD 4096

/-- The sum of record bytes per microsecond over dump sets, as a fraction. -/
def dumpRate (l : List (Nat × Nat)) : Nat × Nat := l.foldl (fun q x => (q.1 * x.2 + x.1 * q.2, q.2 * x.2)) (0, 1)

/-- The bytes and periods of every set there is. -/
def State.dumpLoads (s : State) : List (Nat × Nat) := s.pmu.dumps.map (fun d => (dumpLen d.2.ids.length, d.2.period))

/-- Replaces a dump set. -/
def State.setDump (s : State) (d : Nat) (x : DumpSet) : State := s.setPmu { s.pmu with dumps := smSet s.pmu.dumps d x }

/-- A dump set ends: its registers read zero again and the answer of a write in flight is forgotten. -/
def State.dropDump (s : State) (d : Nat) : State :=
  let t := match smGet s.pmu.dumps d with | some x => x.tag.toList | none => []
  let s := { s with nvm := { s.nvm with dead := s.nvm.dead ++ t } }
  let s := (((s.rset PMU_DUMP_CTL 0 0 d).rset PMU_DUMP_SEQ 0 0 d).rset PMU_DUMP_DROP 0 0 d).rset PMU_DUMP_WR 0 0 d
  s.setPmu { s.pmu with dumps := smDel s.pmu.dumps d }

/-- A set stops, R599: ACTIVE clears, DUMP_FAULT is set, and the slice's fault log tells of it. -/
def State.stopDump (s : State) (d : Nat) (x : DumpSet) (st : Status) (addr : Nat) : State :=
  ((s.fset PMU_DUMP_CTL_ACTIVE 0 0 d).event PMU_ERR_DUMP_FAULT).faultLog x.slice 2 st 0xFFFF 0 addr

/-- Is a status a refusal by a TMT target or of the local address (R475), which stops a set? A broken connection is none. -/
def tmtRefusal (st : Status) : Bool :=
  match st with
  | .accessFault | .unmapped | .poisoned | .regionRevoked | .remoteInvalid | .targetBusy => true
  | _ => false

/-- Hands results of the device's own requests to the dump sets that made them. -/
def State.dumpResults (s : State) : State :=
  s.pmu.dumps.foldl (fun s q =>
    match q.2.tag with
    | none => s
    | some t =>
      match s.takeResult t with
      | none => s
      | some (s', st, _, _) =>
        let x := { q.2 with tag := none }
        let s' := s'.setDump q.1 x
        if tmtRefusal st then s'.stopDump q.1 x st 0 else s') s

/-- M2 suspends every set that runs (R600). -/
def State.suspendDumps (s : State) : State :=
  s.pmu.dumps.foldl (fun s q => if s.fon PMU_DUMP_CTL_ACTIVE 0 q.1 then s.fset PMU_DUMP_CTL_SUSPENDED 1 0 q.1 else s) s

/-- Time stepped to t: each set's next snapshot is at the first multiple of its period after t and carries STEP (R600). -/
def State.stepDumps (s : State) (t : Nat) : State :=
  s.pmu.dumps.foldl (fun s q => s.setDump q.1 { q.2 with stepped := true, last := t }) s

/-- FULL reset and destruction of a slice, R596: its dump sets are destroyed, its counters freed. -/
def State.pmuPurge (s : State) (sl : Nat) : State :=
  let s := (s.pmu.dumps.filter (fun q => q.2.slice == sl)).foldl (fun s q => s.dropDump q.1) s
  (s.countersOf sl).foldl State.freeCounter s

/-! ### Device time, R601 -/

/-- Device time advances by n nanoseconds of its crystal, scaled by the rate in force. -/
def State.passTime (s : State) (n : Nat) : State :=
  let r := s.pmu.rem + n * (1000000000 + toSigned 32 (s.rget PMU_TIME_ADJ))
  s.setPmu { s.pmu with ns := ((s.pmu.ns : Int) + r / 1000000000).toNat % (2 ^ 48 * 1000000000), rem := r % 1000000000 }

end Machine
end Sys2Proof
end

