-- ==== Sys2Proof/Machine/Packet.lean ====
section
/-!
DEFINITION. Ethernet ports (spec 17): receiving a frame with its checks, classification and admission, the TMT header checks of
R465, priority flow control, management frames, link changes and the classifier's registers.
-/
namespace Sys2Proof
namespace Machine

/-! ### MAC control frames, R427, R438 -/

/-- A PFC frame for one class with its quanta. -/
def State.pfcFrame (s : State) (die j cls quanta : Nat) : List Byte :=
  etherFrame 0x0180C2000001 (s.portMac die j) none 0x8808
    (beBytes 2 0x0101 ++ beBytes 2 (2 ^ cls) ++ (List.range 8).flatMap (fun c => beBytes 2 (if c = cls then quanta else 0)))

/-- Sends a PFC frame on a port and shows its effect in XOFF_SENT. -/
def State.sendPfc (s : State) (die j cls quanta : Nat) : State :=
  let x := s.fget PKT_PORT_STATUS_XOFF_SENT die j
  let s := s.setNet { s.net with xoffAt := smSet s.net.xoffAt (64 * die + 8 * j + cls) s.pw.onTicks }
  ((s.emit (.frame die j (s.pfcFrame die j cls quanta))).stat die j 0x80 1).fset PKT_PORT_STATUS_XOFF_SENT
    (putBits x cls cls (if quanta = 0 then 0 else 1)) die j

/-- How long n quanta last on a port of the die, in ns, rounded up: a quantum is 512 bit times (IEEE 802.1Q, which R426 names). -/
def State.quantaNs (s : State) (die n : Nat) : Nat := ceilDiv (n * 64) (s.portRate die)

/-- XOFF of a class, in bytes. -/
def State.xoff (s : State) (die c : Nat) : Nat := s.fget PKT_CLASS_CTL_XOFF die c * 65536

/-- PFC_XOFF_SEND, R438: a class at XOFF stops every enabled port that has not stopped its partner yet. -/
def State.xoffCheck (s : State) (die c : Nat) : State :=
  if s.xoff die c ≠ 0 ∧ s.rxOcc die (· == c) ≥ s.xoff die c then
    (List.range 8).foldl (fun s j =>
      if s.portPresent die j && s.linkUp die j && bit (s.fget PKT_PORT_CTL_PFC_EN die j) c && !bit (s.fget PKT_PORT_STATUS_XOFF_SENT die j) c
      then s.sendPfc die j c 0xFFFF else s) s
  else s

/-- PFC_FRAME_RX, R438: each class the frame names is paused for the quanta it gives, or released by quanta 0. -/
def State.pfcRx (s : State) (die j : Nat) (frame : List Byte) : State :=
  let en := beVal ((frame.drop 16).take 2)
  let quanta := fun (c : Nat) => beVal ((frame.drop (18 + 2 * c)).take 2)
  let p := (List.range 8).foldl (fun p c => if bit en c then putBits p c c (if quanta c = 0 then 0 else 1) else p)
    (s.fget PKT_PORT_STATUS_PAUSED die j)
  let t := (List.range 8).foldl (fun t c =>
    if bit en c then smSet t (64 * die + 8 * j + c) (s.pw.onTicks, s.quantaNs die (quanta c)) else t) s.net.paused
  ((s.setNet { s.net with paused := t }).fset PKT_PORT_STATUS_PAUSED p die j).stat die j 0x88 1

/-! ### The checks of R465 -/

/-- Why a frame for TMT is discarded. -/
inductive TmtBad where
  | header | stale | auth
deriving DecidableEq, Repr

/-- Extension bytes of a packet, R462. -/
def extLen (op fl : Nat) : Option Nat :=
  match op with
  | 0 => some 16
  | 1 => some (if bit fl 0 then 20 else 16)
  | 2 => some 16
  | 3 => some 8
  | 4 => some 0
  | 5 => some 24
  | 6 => some 16
  | 0x10 => some 48
  | _ => none

/-- PLEN an opcode may carry. -/
def plenOk (op n : Nat) : Bool := if op ≤ 1 then decide (n ≤ 8192) else if op = 3 then decide (1 ≤ n ∧ n ≤ 8192) else n == 0

/-- The IP and UDP layers of a frame: whether they hold, whether it is CE-marked, and the UDP body. -/
def State.udpOf (s : State) (die : Nat) (frame : List Byte) : Option (Bool × List Byte) :=
  let e := if beVal ((frame.drop 12).take 2) = 0x8100 then 16 else 12
  let et := beVal ((frame.drop e).take 2)
  let ip := frame.drop (e + 2)
  let b := fun (i : Nat) => (ip.getD i 0).toNat
  let udp := if et = 0x0800 ∧ b 0 = 0x45 ∧ b 9 = 17 then
      some (b 1 % 4 == 3, ip.drop 20, onesSum ((ip.drop 12).take 8) + 17)
    else if et = 0x86DD ∧ b 0 / 16 = 6 ∧ b 6 = 17 then
      some (b 1 / 16 % 4 == 3, ip.drop 40, onesSum ((ip.drop 8).take 32) + 17)
    else none
  match udp with
  | none => none
  | some (ce, u, pseudo) =>
    let n := beVal ((u.drop 4).take 2)
    let u := u.take n
    if n < 8 ∨ u.length < n ∨ beVal ((u.drop 2).take 2) ≠ s.fget TMT_CTL_UDP_PORT die then none
    else if beVal ((u.drop 6).take 2) ≠ 0 ∧ inetSum (pseudo + n + onesSum u) ≠ 0 then none
    else some (ce, u.drop 8)

/-- Reads a frame for TMT under the checks of R465, in order. -/
def State.parseTmt (s : State) (die cls size : Nat) (frame : List Byte) : Except TmtBad TPkt :=
  match s.udpOf die frame with
  | none => .error .header
  | some (ce, body) =>
    let b0 := (body.getD 0 0).toNat
    let op := (body.getD 1 0).toNat
    let fl := b0 % 8
    let enc := bit b0 3
    let plen := beVal ((body.drop 6).take 2)
    match extLen op fl with
    | none => .error .header
    | some el =>
      let need := 16 + (if enc then 24 else 0) + el + plen
      if b0 / 16 ≠ 1 ∨ !plenOk op plen ∨ body.length ≠ need then .error .header
      else
        let c := beVal ((body.drop 2).take 2)
        match s.conn c with
        | none => .error .stale
        | some x =>
          if x.die ≠ die ∨ x.incarn ≠ beVal ((body.drop 4).take 2) ∨ !(x.state == 2 || x.state == 3 || x.state == 5) then .error .stale
          else if enc ≠ x.enc then .error .auth
          else
            let psn := beVal ((body.drop 8).take 4)
            let msn := beVal ((body.drop 12).take 4)
            let mk : List Byte → TPkt := fun rest => ⟨die, cls, size, ce, c, op, fl, psn, msn, rest.take el, rest.drop el⟩
            if enc then
              let rks := roundKeys ((smGet s.cph.slots x.key).map (·.key) |>.getD [])
              let nonce := beBytes 4 x.rxSalt ++ (body.drop 16).take 8
              let ct := (body.drop 24).take (el + plen)
              if gcmTag rks nonce (body.take 24) ct = beVal (body.drop (24 + el + plen)) then .ok (mk (gcmCrypt rks nonce ct)) else .error .auth
            else .ok (mk (body.drop 16))

/-- A packet whose context is not on chip waits in the miss buffer, within its limits (R499). -/
def State.missWait (s : State) (k : TPkt) : State :=
  let w := s.tmt.miss.filter (fun m => m.die == k.die)
  if w.length ≥ 1024 ∨ (w.map (·.size)).sum + k.size > 2 ^ 21 ∨ (w.filter (fun m => m.conn == k.conn)).length ≥ 256 then
    (s.fadd TMT_CNT_MISSDROP_COUNT 1 k.die).event TMT_CTX_ERR_MISS_DROP k.die
  else ((s.setTmt { s.tmt with miss := s.tmt.miss ++ [k] }).fadd TMT_CNT_MISS_COUNT 1 k.die).count (15 + k.die) 0 0x13 (((s.conn k.conn).map (·.slice)).getD 64) 1

/-- A frame for TMT past its ingress injectors: checked, then at its context or in the miss buffer. -/
def State.tmtAccept (s : State) (die cls size : Nat) (frame : List Byte) : State :=
  if !s.fon TMT_CTL_EN die then s
  else match s.parseTmt die cls size frame with
  | .error .header => s.fadd TMT_CNT_BADHDR_COUNT 1 die
  | .error .stale => (s.fadd TMT_CNT_STALE_COUNT 1 die).event TMT_ERR_STATUS_STALE die
  | .error .auth => (s.fadd TMT_CNT_AUTH_COUNT 1 die).event TMT_ERR_STATUS_AUTH_FAIL die
  | .ok k =>
    let s := if k.ce then s.fadd TMT_CNT_CE_COUNT 1 die else s
    match s.conn k.conn with
    | none => s
    | some x =>
      let s := if k.ce then s.count (15 + die) 0 0x14 x.slice 1 else s
      let s := if x.enc then (s.fadd CPH_INL_RX_COUNT_COUNT 1 die).count (15 + die) 0 0x20 x.slice (k.ext.length + k.payload.length) else s
      if x.cached then s.setTmt { s.tmt with rx := s.tmt.rx ++ [k] } else (s.needConn k.conn).missWait k

/-- A frame for TMT meets the ingress injectors of its connection (R622): dropped, corrupted or held before R465. -/
def State.tmtIngress (s : State) (die j cls size : Nat) (frame : List Byte) : State :=
  match s.udpOf die frame with
  | none => s.tmtAccept die cls size frame
  | some (_, body) =>
    let c := beVal ((body.drop 2).take 2)
    match s.conn c with
    | none => s.tmtAccept die cls size frame
    | some x =>
      let (s, fs) := s.injTmt die 1 c x.slice
      let s := s.injPassed 1 c
      let frame := (fs.filter (fun f => f.action == 1)).foldl (fun b f => corrupt f b) frame
      if fs.any (fun f => f.action == 0) then s
      else match fs.find? (fun f => f.action == 2) with
      | some i =>
        let h : InjHeld := { inj := i.inj, path := 1, conn := c, port := die * 8 + j, slice := cls, st := .ok, bytes := frame, left := i.param, since := s.pw.onTicks }
        { s with dbg := { s.dbg with held := s.dbg.held ++ [h] } }
      | none => s.tmtAccept die cls size frame

/-! ### FRAME_RECEIVE, R428, R434, R437 -/

/-- A classified frame that both conditions of R437 admit goes to its queue's destination. -/
def State.deliverFrame (s : State) (die j : Nat) (frame : List Byte) (act stamp : Nat) : State :=
  let size := frame.length + 4
  let c := s.actClass die j 0 frame act
  let col := actColour act
  let lim := s.fget (if col = 0 then PKT_CLASS_CTL_GRN_LIM else if col = 1 then PKT_CLASS_CTL_YEL_LIM else PKT_CLASS_CTL_RED_LIM) die c
  if s.rxOcc die (· == c) + size > lim * 65536 then s.stat die j (0x90 + 8 * c) 1
  else if s.rxOcc die (fun _ => true) + size > 2 ^ 24 then (s.stat die j (0x90 + 8 * c) 1).event PKT_ERR_STATUS_BUF_FULL die
  else
    let d := s.fget PKT_QDEST_DEST die (actQueue act)
    if d = 1 then (s.tmtIngress die j c size frame).xoffCheck die c
    else if d = 2 then
      if (s.net.mgmt.filter (fun f => f.port / 8 == die)).length ≥ 256 then (s.stat die j 0x70 1).event PKT_ERR_STATUS_MGMT_DROP die
      else (s.setNet { s.net with mgmt := s.net.mgmt ++ [{ port := die * 8 + j, cls := c, size := size, bytes := frame, stamp := stamp }] }).xoffCheck die c
    else s.stat die j 0x70 1

/-- FRAME_RECEIVE, R428 to R438, R465: a frame without its FCS, whether that was correct, the codewords its FEC corrected and could
not correct, and the timestamp of its start in ns. -/
def execFrameReceive (die port : Nat) (frame : List Byte) (fcsOk : Bool) (corr uncorr stamp : Nat) (s : State) :
    Host.Outcome State Fault Refusal :=
  if die > 1 ∨ !s.portPresent die port ∨ !s.linkUp die port then .next s
  else
    let s := if corr = 0 then s else s.stat die port 0x20 corr
    let size := frame.length + 4
    if uncorr ≠ 0 then .next (s.stat die port 0x28 uncorr)
    else if !fcsOk then .next (s.stat die port 0x30 1)
    else if size < 64 then .next (s.stat die port 0x38 1)
    else if size > s.fget PKT_MODE_MAX_FRAME die then .next (s.stat die port 0x40 1)
    else if beVal ((frame.drop 12).take 2) = 0x8808 then
      .next (if beVal ((frame.drop 14).take 2) = 0x0101 then s.pfcRx die port frame else s.stat die port 0x48 1)
    else
      let s := (((s.stat die port 0 1).stat die port 8 size).count (15 + die) port 1 64 size).count (15 + die) port 3 64 1
      let (s, act) := s.classify die port 0 frame
      .next (s.deliverFrame die port frame act stamp)

/-- PFC_PAUSE_EXPIRY, R438: the quanta of a class run out. -/
def execPfcPauseExpiry (die port cls : Nat) (s : State) : Host.Outcome State Fault Refusal :=
  let (at', ns) := smGetD s.net.paused (64 * die + 8 * port + cls) (0, 0)
  if die > 1 ∨ port > 7 ∨ cls > 7 ∨ !s.mayHavePassed at' ns then .next s
  else .next (s.fset PKT_PORT_STATUS_PAUSED (putBits (s.fget PKT_PORT_STATUS_PAUSED die port) cls cls 0) die port)

/-- Does a port hold its partner off for a class? -/
def State.heldOff (s : State) (die port cls : Nat) : Bool :=
  decide (die ≤ 1 ∧ port ≤ 7 ∧ cls ≤ 7) && s.linkUp die port && bit (s.fget PKT_PORT_STATUS_XOFF_SENT die port) cls

/-- PFC_REPEAT, R438: 16,384 quanta after the last PFC frame the occupancy is still at or above XOFF − 2 units. -/
def execPfcRepeat (die port cls : Nat) (s : State) : Host.Outcome State Fault Refusal :=
  .next (if s.heldOff die port cls && s.mayHavePassed (smGetD s.net.xoffAt (64 * die + 8 * port + cls) 0) (s.quantaNs die 16384) &&
      s.xoff die cls != 0 && decide (s.rxOcc die (· == cls) + 2 * 65536 ≥ s.xoff die cls)
    then s.sendPfc die port cls 0xFFFF else s)

/-- PFC_XON_SEND, R438: the occupancy has fallen below XOFF − 2 units (or PFC is off for the class). -/
def execPfcXonSend (die port cls : Nat) (s : State) : Host.Outcome State Fault Refusal :=
  .next (if s.heldOff die port cls && (s.xoff die cls == 0 || decide (s.rxOcc die (· == cls) + 2 * 65536 < s.xoff die cls))
    then s.sendPfc die port cls 0 else s)

/-! ### MGMT_FRAME, R439 -/

/-- The answer to an ARP request for the port's IPv4 address. -/
def State.arpReply (s : State) (port : Nat) (b : List Byte) : Option (List Byte) :=
  if b.take 8 == beBytes 6 0x000108000604 ++ beBytes 2 1 && beVal ((b.drop 24).take 4) == s.ip4 port && s.ip4 port != 0 then
    some (beBytes 6 0x000108000604 ++ beBytes 2 2 ++ beBytes 6 (s.portMac (port / 8) (port % 8)) ++ beBytes 4 (s.ip4 port) ++ (b.drop 8).take 10)
  else none

/-- The answer to an ICMP echo request for the port's IPv4 address: an IPv4 packet. -/
def State.echo4 (s : State) (port : Nat) (b : List Byte) : Option (List Byte) :=
  let n := beVal ((b.drop 2).take 2)
  let m := (b.take n).drop 20
  if (b.getD 0 0).toNat = 0x45 && (b.getD 9 0).toNat == 1 && beVal ((b.drop 16).take 4) == s.ip4 port && s.ip4 port != 0 && (m.getD 0 1).toNat == 8 then
    let h := fun (c : Nat) => beBytes 2 0 ++ beBytes 2 c ++ m.drop 4
    some (ipv4Header 0 n 1 (s.ip4 port) (beVal ((b.drop 12).take 4)) ++ h (inetSum (onesSum (h 0))))
  else none

/-- An ICMPv6 packet from the port's address. -/
def State.icmp6 (s : State) (port dst : Nat) (m : Nat → List Byte) : List Byte :=
  let n := (m 0).length
  ipv6Header 0 n 58 255 (s.ip6 port) dst ++ m (inetSum (pseudo6 (s.ip6 port) dst n 58 + onesSum (m 0)))

/-- The answer to an ICMPv6 echo request or a neighbour solicitation for the port's IPv6 address. -/
def State.answer6 (s : State) (port : Nat) (b : List Byte) : Option (List Byte) :=
  let n := beVal ((b.drop 4).take 2)
  let m := (b.drop 40).take n
  let src := beVal ((b.drop 8).take 16)
  if (b.getD 6 0).toNat ≠ 58 ∨ s.ip6 port = 0 then none
  else if (m.getD 0 0).toNat = 128 ∧ beVal ((b.drop 24).take 16) = s.ip6 port then
    some (s.icmp6 port src (fun c => beBytes 2 0x8100 ++ beBytes 2 c ++ m.drop 4))
  else if (m.getD 0 0).toNat = 135 ∧ beVal ((m.drop 8).take 16) = s.ip6 port then
    some (s.icmp6 port src (fun c => beBytes 2 0x8800 ++ beBytes 2 c ++ beBytes 4 0x60000000 ++ beBytes 16 (s.ip6 port) ++
      beBytes 2 0x0201 ++ beBytes 6 (s.portMac (port / 8) (port % 8))))
  else none

/-! ### Gate lists where ports come and go, R453, R455 to R457 -/

/-- BASE of a bank in ns. -/
def State.gclBase (s : State) (die j b : Nat) : Nat :=
  (s.fget SCH_GCL_BASE_SH_SEC_HI die j b * 2 ^ 32 + s.rget SCH_GCL_BASE_SL die j b) * 1000000000 + s.fget SCH_GCL_BASE_NS_NS die j b
/-- CYCLE of a bank. -/
def State.gclCycle (s : State) (die j b : Nat) : Nat := s.fget SCH_GCL_CYCLE_CYCLE_NS die j b

/-- The first cycle start of a bank at or after t (ns): BASE + k × CYCLE for the first whole k ≥ 0 that reaches it. -/
def State.cycleStart (s : State) (die j b t : Nat) : Nat :=
  let base := s.gclBase die j b
  let cyc := max 1 (s.gclCycle die j b)
  if base ≥ t then base else base + ceilDiv (t - base) cyc * cyc

/-- A port's gate list state. -/
def State.gateOf (s : State) (die j : Nat) : GateList :=
  smGetD s.net.gate (die * 8 + j) { cycle := 0, entryAt := 0, takeAt := none, bank := 0, asleep := false }

/-- Replaces it. -/
def State.setGate (s : State) (die j : Nat) (g : GateList) : State := s.setNet { s.net with gate := smSet s.net.gate (die * 8 + j) g }

/-- Gates follow IDLE_MASK: no list runs. -/
def State.gatesIdle (s : State) (die j : Nat) : State :=
  ((s.fset SCH_PORT_STATUS_RUNNING 0 die j).fset SCH_PORT_STATUS_GATES
    (if s.fon SCH_PORT_CTL_GATE_EN die j then s.fget SCH_PORT_CTL_IDLE_MASK die j else 0xFF) die j).fset SCH_PORT_STATUS_ENTRY 0 die j

/-- The bank that runs next: the one switched to, else the one in force. -/
def State.nextBank (s : State) (die j : Nat) : Nat :=
  if s.fon SCH_PORT_STATUS_SWITCH_PEND die j then (s.gateOf die j).bank else s.fget SCH_PORT_STATUS_OPER_BANK die j

/-- M2 stops a port's list until the port is up again (R457). -/
def State.gateSleep (s : State) (die j : Nat) : State :=
  if s.fon SCH_PORT_CTL_GATE_EN die j then (s.gatesIdle die j).setGate die j { s.gateOf die j with takeAt := none, asleep := true } else s

/-- A port is up after M2: its list resumes at the next cycle start (R457), where device time is valid (R456). -/
def State.gateResume (s : State) (die j : Nat) : State :=
  let g := s.gateOf die j
  if g.asleep then
    s.setGate die j { g with asleep := false
                             takeAt := if s.fon SCH_PORT_CTL_GATE_EN die j && s.fon PMU_TIME_STATUS_VALID then some (s.cycleStart die j (s.nextBank die j) s.pmu.ns) else none }
  else s

/-! ### Links, R425, R440 -/

/-- Discards the frames of a port's transmit queues, and the one being sent is lost; deficits and credits stay (R457). -/
def State.dropQueues (s : State) (die j : Nat) : State :=
  let p := die * 8 + j
  let n := ((s.net.txq.filter (fun e => e.1 / 64 == p)).map (fun e => e.2.length)).sum
  let s := s.setNet { s.net with txq := smDelIf s.net.txq (fun k => k / 64 == p)
                                 wire := match smGet s.net.wire p with
                                   | some w => smSet s.net.wire p { w with lost := true }
                                   | none => s.net.wire }
  if n = 0 then s else s.stat die j 0x78 n

/-- A port's link goes down: R440 and the disabling of R443. -/
def State.portDown (s : State) (die j : Nat) : State :=
  (((s.fset PKT_PORT_STATUS_UP 0 die j).fset PKT_PORT_STATUS_FEC_LOCK 0 die j).fset PKT_PORT_STATUS_SPEED 0 die j).dropQueues die j

/-- PORT_LINK_DOWN, R440. -/
def execPortLinkDown (die port : Nat) (s : State) : Host.Outcome State Fault Refusal :=
  .next (if die ≤ 1 ∧ port ≤ 7 ∧ s.linkUp die port then s.portDown die port else s)

/-- PORT_LINK_UP, R425: an enabled port trains and comes up, at its mode's speed; in M2 every lane is down. -/
def execPortLinkUp (die port : Nat) (s : State) : Host.Outcome State Fault Refusal :=
  .next (if die ≤ 1 ∧ s.portPresent die port ∧ s.fon PKT_PORT_CTL_EN die port ∧ !s.pw.gated.contains (.net die) ∧ !s.pw.refLost.contains (8 + die) ∧
      !s.linkUp die port then
    (((s.fset PKT_PORT_STATUS_UP 1 die port).fset PKT_PORT_STATUS_FEC_LOCK 1 die port).fset PKT_PORT_STATUS_SPEED (s.fget PKT_MODE_MODE die + 1) die port).gateResume
      die port
  else s)

/-! ### Registers with a meaning of their own, R425, R432, R435, R441 -/

/-- Only the atelier core is granted the network dies' registers. -/
def coreOnly (who : Requester) : Bool := who == .atelier

/-- A rejected write of the PKT region. -/
def State.pktReject (s : State) (die : Nat) : State := s.event PKT_ERR_STATUS_CFG_REJECT die

/-- The write of PKT_MODE: unchanged where LOCK is set, where a field is out of range, and where MODE changes under an enabled port. -/
def State.pktMode (s : State) (die val : Nat) : State :=
  let mf := getBits val 29 16
  let mode := getBits val 1 0
  if s.fon PKT_LOCK_LOCK die then s
  else if mf < 1518 ∨ mf > 9216 ∨ mode = 3 ∨ (mode ≠ s.fget PKT_MODE_MODE die ∧ (List.range 8).any (fun j => s.fon PKT_PORT_CTL_EN die j)) then
    s.pktReject die
  else (s.fset PKT_MODE_MAX_FRAME mf die).fset PKT_MODE_MODE mode die

/-- PKT_MODE_WRITE, R425. -/
def execPktModeWrite (who : Requester) (die val : Nat) (s : State) : Host.Outcome State Fault Refusal :=
  .next (if coreOnly who ∧ die ≤ 1 then s.pktMode die val else s)

/-- PROFILE_SWITCH, R432: lookups that start after the write use the other profile. -/
def execProfileSwitch (who : Requester) (die port prof : Nat) (s : State) : Host.Outcome State Fault Refusal :=
  .next (if coreOnly who ∧ die ≤ 1 ∧ port ≤ 7 then s.fset PKT_PORT_CTL_PROF (prof % 2) die port else s)

/-- The write of a profile window: discarded for the profile in force and for WIDTH 3. -/
def State.winWrite (s : State) (die port prof w val : Nat) : State :=
  if s.fget PKT_PORT_CTL_PROF die port = prof ∨ getBits val 17 16 = 3 then s.pktReject die
  else s.rset PKT_WIN (val &&& 0x800301FF) die port prof w

/-- WINDOW_WRITE, R432. -/
def execWindowWrite (who : Requester) (die port prof w val : Nat) (s : State) : Host.Outcome State Fault Refusal :=
  .next (if coreOnly who ∧ die ≤ 1 ∧ port ≤ 7 ∧ prof ≤ 1 ∧ w ≤ 15 then s.winWrite die port prof w val else s)

/-- Reads the selected rule into the data words. -/
def State.ruleGet (s : State) (die : Nat) : State :=
  let i := s.fget PKT_RULE_SEL_INDEX die
  ((List.range 36).foldl (fun s w => s.rset PKT_RULE_DATA (s.ruleWord die i w) die w) s).rset PKT_RULE_HITS (s.ruleWord die i 36) die

/-- A rule word as stored: reserved bits are zero, and a bad action leaves VALID 0. -/
def State.ruleStored (s : State) (die w : Nat) : Nat :=
  let v := s.rget PKT_RULE_DATA die w
  if w = 34 then (if actOk (s.rget PKT_RULE_DATA die 35) then v &&& 0x80FF0003 else v &&& 0x00FF0003)
  else if w = 35 then v &&& 0xFFC03F37 else v

/-- Writes the data words to the selected rule as one update, R435. -/
def State.rulePut (s : State) (die : Nat) : State :=
  let i := s.fget PKT_RULE_SEL_INDEX die
  let ok := actOk (s.rget PKT_RULE_DATA die 35)
  let s := (List.range 36).foldl (fun s w => s.setRuleWord die i w (s.ruleStored die w)) s
  if ok then s else s.pktReject die

/-- RULE_READ, R441. -/
def execRuleRead (who : Requester) (die : Nat) (s : State) : Host.Outcome State Fault Refusal :=
  .next (if coreOnly who ∧ die ≤ 1 then s.ruleGet die else s)
/-- RULE_WRITE, R435. -/
def execRuleWrite (who : Requester) (die : Nat) (s : State) : Host.Outcome State Fault Refusal :=
  .next (if coreOnly who ∧ die ≤ 1 then s.rulePut die else s)
/-- RULE_CLEAR_HITS, R441. -/
def execRuleClearHits (who : Requester) (die : Nat) (s : State) : Host.Outcome State Fault Refusal :=
  .next (if coreOnly who ∧ die ≤ 1 then s.setRuleWord die (s.fget PKT_RULE_SEL_INDEX die) 36 0 else s)

/-- STAT_CLR, R443, R444: every statistic of a port becomes 0. -/
def execStatClr (who : Requester) (die port : Nat) (s : State) : Host.Outcome State Fault Refusal :=
  .next (if coreOnly who ∧ die ≤ 1 ∧ port ≤ 7 then (List.range 52).foldl (fun s w => s.rset PKT_STAT 0 die port w) s else s)

end Machine
end Sys2Proof
end

