-- ==== Sys2Proof/Machine/Schedule.lean ====
section
/-!
DEFINITION. Traffic scheduling (spec 18): admission to transmit queues, eligibility and choice, credit shapers and gate lists.
-/
namespace Sys2Proof
namespace Machine

/-! ### Configuration in force, R452 -/

/-- A scheduler register's value in force: as it stood at the last refill, or its reset value. -/
def State.effReg (s : State) (r : Reg) (die : Nat) (i j k : Nat := 0) : Nat :=
  match smGet s.net.eff (r.addr die i j k) with
  | some w => w.toNat
  | none => r.resetAt i

/-- A field of a register in force. -/
def State.effFld (s : State) (f : Fld) (die : Nat) (i j k : Nat := 0) : Nat := getBits (s.effReg f.reg die i j k) f.hi f.lo

/-- A queue of a port, and a slice's shaper on it, as keys. -/
def qKey (die j q : Nat) : Nat := (die * 8 + j) * 64 + q
/-- A slice's shaper on a port. -/
def slKey (die j sl : Nat) : Nat := 2 ^ 16 + (die * 8 + j) * 64 + sl

/-- A queue's frames, oldest first. -/
def State.txQueue (s : State) (die j q : Nat) : List TxQueued := smGetD s.net.txq (qKey die j q) []

/-- Size of a frame with its FCS, and its counted length (R447). -/
def TxFrame.size (f : TxFrame) : Nat := f.bytes.length + 4
/-- Counted length of a frame. -/
def State.counted (s : State) (die j : Nat) (f : TxFrame) : Nat := f.size + s.effFld SCH_PORT_CTL_OVERHEAD die j

/-- Bytes in a queue, and in a die's transmit buffer. -/
def State.txOcc (s : State) (die j q : Nat) : Nat := ((s.txQueue die j q).map (fun f => f.frame.size)).sum
/-- Bytes in a die's transmit buffer. -/
def State.txBuf (s : State) (die : Nat) : Nat :=
  ((s.net.txq.filter (fun e => e.1 / 512 == die)).map (fun e => (e.2.map (fun f => f.frame.size)).sum)).sum

/-! ### TX_ENQUEUE, R446 -/

/-- The queue, class and colour of a source's first frame, R445: those of its classification, which a frame held at its source keeps. -/
def State.txClass (s : State) (die : Nat) (f : TxFrame) : State × Nat × Nat × Nat :=
  match smGet s.net.held (die * 2 ^ 17 + f.src) with
  | some (q, c) => (s, q % 64, c, 0)
  | none =>
    let (t, act) := s.classify die (f.port % 8) 1 f.bytes
    (t, actQueue act, s.actClass die (f.port % 8) 1 f.bytes act, actColour act)

/-- A source no longer holds its first frame: BACKLOG shows whether another source holds one of its queue (R446). -/
def State.txTake (s : State) (die : Nat) (f : TxFrame) : State :=
  let k := die * 2 ^ 17 + f.src
  let q := match smGet s.net.held k with | some (q, _) => some q | none => none
  let h := smDel s.net.held k
  let s := s.setNet { s.net with source := s.net.source.erase f, held := h }
  match q with
  | some q => if h.any (fun e => e.2.1 == q) then s else s.fset SCH_Q_STATUS_BACKLOG 0 die (q / 64 % 8) (q % 64)
  | none => s

/-- TX_ENQUEUE, R445, R446: the first frame a source (a connection, or 65,536 firmware) holds for a die is classified and admitted; a
green one that does not fit stays at its source, any other is discarded. Frames for a port whose link is down are discarded. -/
def execTxEnqueue (die src : Nat) (s : State) : Host.Outcome State Fault Refusal :=
  match s.net.source.find? (fun f => f.src == src && f.port / 8 == die) with
  | none => .next s
  | some f =>
    let j := f.port % 8
    let (t, q, c, col) := s.txClass die f
    if !s.linkUp die j then .next ((t.txTake die f).stat die j 0x78 1)
    else
      let lim := s.effFld (if col = 0 then SCH_Q_LIM_GRN else if col = 1 then SCH_Q_LIM_YEL else SCH_Q_LIM_RED) die j q
      if s.txOcc die j q + f.size ≤ lim * 4096 ∧ s.txBuf die + f.size ≤ 2 ^ 23 then
        let e : TxQueued := { frame := f, cls := c }
        let s := t.txTake die f
        .next (s.setNet { s.net with txq := smSet s.net.txq (qKey die j q) (s.txQueue die j q ++ [e]) })
      else if col = 0 then
        .next ((t.setNet { t.net with held := smSet t.net.held (die * 2 ^ 17 + f.src) (qKey die j q, c) }).fset SCH_Q_STATUS_BACKLOG 1 die j q)
      else .next ((t.txTake die f).fadd SCH_Q_DROP_COUNT 1 die j q)

/-! ### Gate lists, R453, R454 -/

/-- Does t (ns of 1588 time) lie in the present 10 µs of device time? Finer instants are the commands' own (log entry 40). -/
def State.inTick (s : State) (t : Nat) : Bool := decide (s.pmu.ns ≤ t ∧ t < s.pmu.ns + 10010)

/-- LEN of a bank. -/
def State.gclLen (s : State) (die j b : Nat) : Nat := s.fget SCH_GCL_BASE_SH_LEN die j b

/-- The segments of one cycle of a bank as (end offset, mask, entry): entries in order, cut at the cycle's end, the last held until it. -/
def State.gclSegs (s : State) (die j b : Nat) : List (Nat × Nat × Nat) :=
  let n := s.gclLen die j b
  let cyc := s.gclCycle die j b
  let ends := (List.range n).foldl (fun (acc : Nat × List (Nat × Nat × Nat)) e =>
    let stop := if e + 1 = n then cyc else min cyc (acc.1 + s.rget SCH_GCL_INTVL die j b e)
    (stop, if acc.1 < stop then acc.2 ++ [(stop, s.fget SCH_GCL_MASK_MASK die j b e, e)] else acc.2)) (0, [])
  ends.2

/-- The segment that holds an offset of the cycle. -/
def segAt (segs : List (Nat × Nat × Nat)) (o : Nat) : Option (Nat × Nat × Nat) := segs.find? (fun g => decide (o < g.1))

/-- The first instant at or after offset o at which gate g passes from open to closed, over the cycles that follow; none if it never does. -/
def nextClose (segs : List (Nat × Nat × Nat)) (cyc g o : Nat) : Option Nat :=
  let two := segs ++ segs.map (fun x => (x.1 + cyc, x.2.1, x.2.2)) ++ segs.map (fun x => (x.1 + 2 * cyc, x.2.1, x.2.2))
  let pairs := two.zip (two.drop 1)
  (pairs.find? (fun p => bit p.1.2.1 g && !bit p.2.2.1 g && decide (o < p.1.1))).map (fun p => p.1.1)

/-- The start of the cycle of the list in force that holds time t (ns). -/
def State.cycleOf (s : State) (die j t : Nat) : Nat :=
  let start := (s.gateOf die j).cycle
  let cyc := max 1 (s.gclCycle die j (s.fget SCH_PORT_STATUS_OPER_BANK die j))
  start + (t - start) / cyc * cyc

/-- Does the guard band let a frame of gate g start at time t (ps), R454: the gate's next close is at least G away? -/
def State.guardOk (s : State) (die j g t : Nat) : Bool :=
  let b := s.fget SCH_PORT_STATUS_OPER_BANK die j
  let start := s.cycleOf die j (t / 1000)
  match nextClose (s.gclSegs die j b) (s.gclCycle die j b) g (t / 1000 - start) with
  | none => true
  | some o => decide (((start + o) * 1000 - t) * s.portRate die ≥ (s.fget PKT_MODE_MAX_FRAME die + s.effFld SCH_PORT_CTL_OVERHEAD die j) * 1000)

/-- May a frame of gate g start at time t (ps), R453, R454: the gate is open then and, under a list in force, outside its guard band? -/
def State.gateAllows (s : State) (die j g t : Nat) : Bool :=
  if !s.fon SCH_PORT_CTL_GATE_EN die j then true
  else if !s.fon SCH_PORT_STATUS_RUNNING die j then bit (s.fget SCH_PORT_STATUS_GATES die j) g
  else
    match segAt (s.gclSegs die j (s.fget SCH_PORT_STATUS_OPER_BANK die j)) (t / 1000 - s.cycleOf die j (t / 1000)) with
    | some x => bit x.2.1 g && s.guardOk die j g t
    | none => false

/-- Has a bank's takeover instant come by time t (ns)? -/
def State.takeDue (s : State) (die j t : Nat) : Bool := (s.gateOf die j).takeAt.any (fun a => decide (a ≤ t))

/-! ### Eligibility and choice, R448, R449 -/

/-- Credit of a queue or a slice's shaper, in 1/4,096 byte. -/
def State.credit (s : State) (k : Nat) : Int := smGetD s.net.credit k 0

/-- Is a queue eligible at time t (ps)? -/
def State.eligible (s : State) (die j q t : Nat) : Bool :=
  match (s.txQueue die j q).head? with
  | none => false
  | some f =>
    s.linkUp die j && s.gateAllows die j (s.effFld SCH_Q_CTL_GATE die j q) t &&
    !bit (s.fget PKT_PORT_STATUS_PAUSED die j) f.cls &&
    (s.effFld SCH_Q_CTL_SHAPE die j q == 0 || decide (s.credit (qKey die j q) ≥ 0)) &&
    (s.effFld SCH_PORT_CTL_SLC_SHAPE_EN die j == 0 || decide (f.frame.slice ≥ 64) || decide (s.credit (slKey die j f.frame.slice) ≥ 0))

/-- A queue's deficit. -/
def State.deficitOf (s : State) (die j q : Nat) : Nat := smGetD s.net.deficit (qKey die j q) 0

/-- Sets a queue's deficit. -/
def State.setDeficit (s : State) (die j q v : Nat) : State := s.setNet { s.net with deficit := smSet s.net.deficit (qKey die j q) v }

/-- Deficit round robin among the eligible queues of one priority, from the queue whose turn it is: the queue that sends, with its
turn and deficits kept. -/
def State.drr (s : State) (die j pr : Nat) (ok : List Nat) (cur : Nat) (added : Bool) : Nat → State × Option Nat
  | 0 => (s, none)
  | n + 1 =>
    if !ok.contains cur then s.drr die j pr ok ((cur + 1) % 64) false n
    else
      let s := if added then s else s.setDeficit die j cur (s.deficitOf die j cur + s.effFld SCH_Q_CTL_QUANTUM die j cur)
      let need := match (s.txQueue die j cur).head? with | some f => s.counted die j f.frame | none => 0
      if need ≤ s.deficitOf die j cur then
        ((s.setDeficit die j cur (s.deficitOf die j cur - need)).setNet
          { (s.setDeficit die j cur (s.deficitOf die j cur - need)).net with turn := smSet s.net.turn ((die * 8 + j) * 8 + pr) (cur, true) }, some cur)
      else s.drr die j pr ok ((cur + 1) % 64) false n

/-- SCHEDULE_PICK, R448, R449: the idle port starts the head frame of the queue chosen at time t, in ps of 1588 time. A frame that
firmware marked carries a timestamp (R429). -/
def execSchedulePick (die port t : Nat) (s : State) : Host.Outcome State Fault Refusal :=
  if die > 1 ∨ port > 7 ∨ (smGet s.net.wire (die * 8 + port)).isSome ∨ !s.inTick (t / 1000) ∨ s.takeDue die port (t / 1000) then .next s
  else
    let el := (List.range 64).filter (fun q => s.eligible die port q t)
    let pr := el.foldl (fun m q => max m (s.effFld SCH_Q_CTL_PRIO die port q)) 0
    let ok := el.filter (fun q => s.effFld SCH_Q_CTL_PRIO die port q == pr)
    if ok.isEmpty then .next s
    else
      let (cur, added) := smGetD s.net.turn ((die * 8 + port) * 8 + pr) (0, false)
      match s.drr die port pr ok cur added 12000 with
      | (_, none) => .next s
      | (s, some q) =>
        match s.txQueue die port q with
        | [] => .next s
        | f :: rest =>
          let w : OnWire := { q := q, frame := f.frame, counted := s.counted die port f.frame, sent := 0, lost := false }
          let s := s.setNet { s.net with txq := (if rest.isEmpty then smDel s.net.txq (qKey die port q) else smSet s.net.txq (qKey die port q) rest),
                                         wire := smSet s.net.wire (die * 8 + port) w }
          let s := if f.frame.mark then s.emit (.txStamp die port (t / 1000)) else s
          .next (if rest.isEmpty then s.setDeficit die port q 0 else s)

/-! ### Credits, R450 to R452 -/

/-- Debits the frame a port is sending up to `sent` (1/4,096 byte): its queue's credit and its slice's. -/
def State.debit (s : State) (die j sent : Nat) : State :=
  match smGet s.net.wire (die * 8 + j) with
  | none => s
  | some w =>
    let upto := min (w.counted * 4096) (max w.sent sent)
    let d : Int := (upto - w.sent : Nat)
    let k := qKey die j w.q
    let c := smSet s.net.credit k (s.credit k - d)
    let c := if w.frame.slice < 64 then smSet c (slKey die j w.frame.slice) (s.credit (slKey die j w.frame.slice) - d) else c
    s.setNet { s.net with credit := c, wire := smSet s.net.wire (die * 8 + j) { w with sent := upto } }

/-- FRAME_TRANSMIT_END, R448, R450: the frame has left; what was not debited yet is. A frame whose link went down is lost. -/
def execFrameTransmitEnd (die port : Nat) (s : State) : Host.Outcome State Fault Refusal :=
  match smGet s.net.wire (die * 8 + port) with
  | none => .next s
  | some w =>
    let s := s.debit die port (w.counted * 4096)
    let s := s.setNet { s.net with wire := smDel s.net.wire (die * 8 + port) }
    .next (if !w.lost then ((((s.stat die port 0x10 1).stat die port 0x18 w.frame.size).count (15 + die) port 2 64 w.frame.size).count (15 + die) port 4 64 1).emit (.frame die port w.frame.bytes)
      else s.stat die port 0x78 1)

/-- What a refill adds at a rate in Mb/s, in 1/4,096 byte: floor(RATE × 104.8576). -/
def refillOf (mbps : Nat) : Nat := mbps * 1048576 / 10000

/-- One credit after a refill: it rises and is capped. -/
def refilled (c : Int) (mbps burst : Nat) : Int := min (c + refillOf mbps) (burst * 4096 : Nat)

/-- Registers of the scheduler of a die, as written. -/
def State.schRegs (s : State) (die : Nat) : SMap Word32 :=
  s.regs.filter (fun e => match ctlLoc e.1 with | some ⟨.sch, i, _⟩ => i == die | _ => false)

/-- A queue at a refill: new configuration takes effect, then its credit rises. A change of PRIO or QUANTUM ends its turn. -/
def State.refillQueue (s old : State) (die j q : Nat) : State :=
  let k := qKey die j q
  let raised := old.effFld SCH_Q_CTL_SHAPE die j q = 0 ∧ s.effFld SCH_Q_CTL_SHAPE die j q = 1
  let c := if raised then 0 else refilled (s.credit k) (s.effFld SCH_Q_RATE_RATE_MBPS die j q) (s.effFld SCH_Q_BURST_BURST die j q)
  let s := if c = s.credit k then s else s.setNet { s.net with credit := smSet s.net.credit k c }
  let pr := old.effFld SCH_Q_CTL_PRIO die j q
  if pr ≠ s.effFld SCH_Q_CTL_PRIO die j q ∨ old.effFld SCH_Q_CTL_QUANTUM die j q ≠ s.effFld SCH_Q_CTL_QUANTUM die j q then
    let s := s.setDeficit die j q 0
    let tk := (die * 8 + j) * 8 + pr
    match smGet s.net.turn tk with
    | some (cur, _) => if cur = q then s.setNet { s.net with turn := smSet s.net.turn tk ((q + 1) % 64, false) } else s
    | none => s
  else s

/-- Refills a die has had in the present tick: 10 µs hold at most 49, at 204.8 ns each (R450). -/
def State.refillsNow (s : State) (die : Nat) : Nat :=
  match smGet s.net.refills die with
  | some (t, n) => if t = s.pw.onTicks then n else 0
  | none => 0

/-- SHAPER_REFILL, R450 to R452: `sent` says, by port, how much of the frame it is sending has left (1/4,096 byte). -/
def execShaperRefill (die : Nat) (sent : List Nat) (s : State) : Host.Outcome State Fault Refusal :=
  if die > 1 ∨ s.refillsNow die ≥ 49 then .next s
  else
    let s := s.setNet { s.net with refills := smSet s.net.refills die (s.pw.onTicks, s.refillsNow die + 1) }
    let s := (List.range 8).foldl (fun s j => s.debit die j (sent.getD j 0)) s
    let old := s
    let s := s.setNet { s.net with eff := smDelIf s.net.eff (fun a => (ctlLoc a).any (fun l => l.inst == die)) }
    let s := s.setNet { s.net with eff := (old.schRegs die).foldl (fun m e => smSet m e.1 e.2) s.net.eff }
    .next ((List.range 8).foldl (fun s j =>
      let s := (List.range 64).foldl (fun s q => s.refillQueue old die j q) s
      (List.range 64).foldl (fun s sl =>
        let k := slKey die j sl
        let c := refilled (s.credit k) (s.effFld SCH_SLC_RATE_SHARE die j sl * s.portRate die * 8) (s.effFld SCH_SLC_BURST_BURST die j sl)
        if c = s.credit k then s else s.setNet { s.net with credit := smSet s.net.credit k c }) s) s)

/-! ### Lists in motion, R455, R456 -/

/-- Is device time valid (R601)? -/
def State.clockValid (s : State) : Bool := s.fon PMU_TIME_STATUS_VALID

/-- The first cycle start of a bank at least 2 µs after t (ns), R455, R456. -/
def State.firstStart (s : State) (die j b t : Nat) : Nat := s.cycleStart die j b (t + 2000)

/-- The segment in force at time t (ns) shows in the status. -/
def State.showEntry (s : State) (die j start t : Nat) : State :=
  let b := s.fget SCH_PORT_STATUS_OPER_BANK die j
  let cyc := max 1 (s.gclCycle die j b)
  let start := start + (t - start) / cyc * cyc
  match segAt (s.gclSegs die j b) (t - start) with
  | some g => ((s.fset SCH_PORT_STATUS_GATES g.2.1 die j).fset SCH_PORT_STATUS_ENTRY g.2.2 die j).setGate die j { s.gateOf die j with cycle := start, entryAt := t }
  | none => s

/-- GATE_ENTRY_CHANGE, R453: at time t (ns) an entry or a cycle begins. A list held back by R456 starts at its first cycle start. -/
def execGateEntryChange (die port t : Nat) (s : State) : Host.Outcome State Fault Refusal :=
  if die > 1 ∨ port > 7 ∨ !s.fon SCH_PORT_CTL_GATE_EN die port ∨ !s.fon SCH_PORT_STATUS_RUNNING die port ∨ !s.clockValid ∨ !s.inTick t ∨ s.takeDue die port t then .next s
  else .next (s.showEntry die port (s.gateOf die port).cycle t)

/-- Are a bank's CYCLE, LEN and first LEN intervals in range (R455)? -/
def State.bankOk (s : State) (die j b : Nat) : Bool :=
  let n := s.gclLen die j b
  decide (1000 ≤ s.gclCycle die j b ∧ s.gclCycle die j b ≤ 1000000000 ∧ 1 ≤ n ∧ n ≤ 256) &&
    (List.range n).all (fun e => decide (8 ≤ s.rget SCH_GCL_INTVL die j b e ∧ s.rget SCH_GCL_INTVL die j b e ≤ 1000000000))

/-- A rejected write of the SCH region. -/
def State.schReject (s : State) (die : Nat) : State := s.event SCH_ERR_STATUS_CFG_REJECT die

/-- A switch to ADMIN_BANK written at time t (ns), R455; where device time is not valid the list waits (R456), as in M2 for its port (R457). -/
def State.startSwitch (s : State) (die j t : Nat) : State :=
  let b := s.fget SCH_PORT_CTL_ADMIN_BANK die j
  let s := s.fset SCH_PORT_STATUS_SWITCH_PEND 1 die j
  let g := { s.gateOf die j with bank := b }
  if !s.clockValid then (s.setGate die j { g with takeAt := none }).event SCH_ERR_STATUS_GCL_WAIT die
  else s.setGate die j { g with takeAt := if g.asleep then none else some (s.firstStart die j b t) }

/-- A write of SCH_PORT_CTL at time t (ns): fields, then a switch where SWITCH is written or GATE_EN rises; a bank out of range or in
force is refused. Clearing GATE_EN opens every gate. -/
def State.schPortCtl (s : State) (die j val t : Nat) : State :=
  let was := s.fon SCH_PORT_CTL_GATE_EN die j
  let en := bit val 31
  let s := (((s.fset SCH_PORT_CTL_SLC_SHAPE_EN (getBits val 30 30) die j).fset SCH_PORT_CTL_ADMIN_BANK (getBits val 24 24) die j).fset
    SCH_PORT_CTL_IDLE_MASK (getBits val 15 8) die j).fset SCH_PORT_CTL_OVERHEAD (getBits val 5 0) die j
  let b := getBits val 24 24
  let running := s.fon SCH_PORT_STATUS_RUNNING die j
  let s :=
    if !en then ((s.fset SCH_PORT_CTL_GATE_EN 0 die j).fset SCH_PORT_STATUS_SWITCH_PEND 0 die j).setGate die j { s.gateOf die j with takeAt := none } |>.gatesIdle die j
    else if bit val 29 || !was then
      if !s.bankOk die j b || (running && b == s.fget SCH_PORT_STATUS_OPER_BANK die j) then s.schReject die
      else (s.fset SCH_PORT_CTL_GATE_EN 1 die j).startSwitch die j t
    else s
  if s.fon SCH_PORT_STATUS_RUNNING die j then s else s.gatesIdle die j

/-- GCL_SWITCH, R455: a write of SCH_PORT_CTL with SWITCH or a rising GATE_EN, at time t (ns) of the present tick. -/
def execGclSwitch (who : Requester) (die port val t : Nat) (s : State) : Host.Outcome State Fault Refusal :=
  .next (if coreOnly who ∧ die ≤ 1 ∧ port ≤ 7 ∧ s.inTick t then s.schPortCtl die port val t else s)

/-- GCL_TAKEOVER, R455: the bank switched to takes over at its cycle start; after R456 it may be the bank that ran before. -/
def execGclTakeover (die port t : Nat) (s : State) : Host.Outcome State Fault Refusal :=
  if die > 1 ∨ port > 7 ∨ !s.fon SCH_PORT_CTL_GATE_EN die port ∨ !s.clockValid ∨ !s.inTick t then .next s
  else match (s.gateOf die port).takeAt with
  | none => .next s
  | some at' =>
    if t < at' then .next s
    else
      let b := s.nextBank die port
      let s := ((s.fset SCH_PORT_STATUS_OPER_BANK b die port).fset SCH_PORT_STATUS_RUNNING 1 die port).fset SCH_PORT_STATUS_SWITCH_PEND 0 die port
      .next ((s.setGate die port { s.gateOf die port with takeAt := none, cycle := at' }).showEntry die port at' at')

/-- Lists after device time becomes valid at t (ns), R456: each starts at its first cycle start at least 2 µs later. -/
def State.gclValid (s : State) (t : Nat) : State :=
  (List.range 16).foldl (fun s p =>
    let die := p / 8
    let j := p % 8
    if s.fon SCH_PORT_CTL_GATE_EN die j && !(s.gateOf die j).asleep then
      s.setGate die j { s.gateOf die j with takeAt := some (s.firstStart die j (s.nextBank die j) t) }
    else s) s

/-- Lists when device time is stepped to t (ns), R456: gates follow IDLE_MASK until the next start; GCL_RESYNC counts. -/
def State.gclStep (s : State) (t : Nat) : State :=
  ((List.range 16).foldl (fun s p =>
    if s.fon SCH_PORT_STATUS_RUNNING (p / 8) (p % 8) then (s.gatesIdle (p / 8) (p % 8)).fadd SCH_GCL_RESYNC_COUNT 1 (p / 8) (p % 8) else s) s).gclValid t

/-- Lists while device time is not valid, R456. -/
def State.gclInvalid (s : State) : State :=
  (List.range 16).foldl (fun s p =>
    if s.fon SCH_PORT_CTL_GATE_EN (p / 8) (p % 8) then
      ((s.gatesIdle (p / 8) (p % 8)).setGate (p / 8) (p % 8) { s.gateOf (p / 8) (p % 8) with takeAt := none }).event SCH_ERR_STATUS_GCL_WAIT (p / 8)
    else s) s

end Machine
end Sys2Proof
end

