-- ==== Sys2Proof/Machine/Pmu.lean ====
section
/-!
DEFINITION. The commands of counters, dump sets, device time and the calendar (spec 25 R586 to R604).
-/
namespace Sys2Proof
namespace Machine

/-- Is a command on a channel a secure one's (or firmware's own)? -/
def secureChan (ch : Nat) : Bool := decide (ch ≥ 320 ∨ ch % 32 < 16)

/-! ### Allocation, R594, R595 -/

/-- A counter is set up: its event enabled, its filter on the slice it is for, its owner (R594). -/
def State.takeCounter (s : State) (inst k ev : Nat) (owner : Option Nat) (chain : Bool) : State :=
  let c := if chain then 2 ^ 30 else 0
  let s := match owner with
    | some sl => (s.rset PMU_EVSEL (2 ^ 31 + c + sl * 2 ^ 24 + 2 ^ 23 + ev % 65536) inst k).rset PMU_OWNER (2 ^ 31 + sl) inst k
    | none => (s.rset PMU_EVSEL (2 ^ 31 + c + ev % 65536) inst k).rset PMU_OWNER (2 ^ 31 + 2 ^ 30) inst k
  let s := s.setCounter inst k 0
  let id := inst * 16 + k
  let s := s.setPmu { s.pmu with win := smSet s.pmu.win id 0 }
  match owner with
  | some sl => s.setPmu { s.pmu with views := smSet s.pmu.views (64 * sl + s.freeView sl) id }
  | none => s

/-- PMU_ALLOC, R594: word 3 is PAIR on a bound channel, the slice or 0xFF for the device on a secure one. -/
def execPmuAlloc (ch inst ev w3 : Nat) (s : State) : Host.Outcome State Fault Refusal :=
  .next (s.serve ch 0x70 [(1, inst), (2, ev), (3, w3)] 64 .either false (fun bound s =>
    let sec := secureChan ch
    let pair := !sec && bit w3 0
    let owner : Option Nat := if !sec then some bound else if w3 = 0xFF then none else some w3
    match if inst > 19 then none else pmuEvent inst (ev % 256) with
    | none => refuseCmd s .badDescriptor (if inst > 19 then 1 else 2)
    | some (units, perSlice) =>
      if ev / 256 ≥ units ∨ (owner.isSome ∧ !perSlice) then refuseCmd s .badDescriptor 2
      else if sec ∧ w3 ≠ 0xFF ∧ w3 > 63 then refuseCmd s .badDescriptor 3
      else if sec ∧ w3 ≤ 63 ∧ !s.slLive w3 then refuseCmd s .badHandle 3
      else
        let held := match owner with | some sl => (s.countersOf sl).length | none => 0
        let free := fun (k : Nat) => !s.fon PMU_OWNER_VALID inst k
        let k := (List.range 12).find? (fun k => free k && (!pair || (k % 2 == 0 && free (k + 1))))
        match k with
        | none => refuseCmd s .quotaExceeded
        | some k =>
          if held + (if pair then 2 else 1) > 64 then refuseCmd s .quotaExceeded
          else
            let j := match owner with | some sl => s.freeView sl | none => 0
            let s := s.takeCounter inst k ev owner false
            let s := if pair then s.takeCounter inst (k + 1) 0 owner true else s
            okCmd s [inst * 16 + k, j]))

/-- Does a dump set name a counter? -/
def State.dumped (s : State) (id : Nat) : Bool := s.pmu.dumps.any (fun q => q.2.ids.contains id)

/-- PMU_FREE, R594: an even counter takes the odd one chained to it along. -/
def execPmuFree (ch id : Nat) (s : State) : Host.Outcome State Fault Refusal :=
  .next (s.serve ch 0x71 [(1, id)] 64 .either false (fun bound s =>
    let i := id / 16
    let k := id % 16
    if id ≥ 320 ∨ !s.fon PMU_OWNER_VALID i k ∨ (!secureChan ch ∧ !s.counterOf bound i k) then refuseCmd s .badHandle 1
    else
      let mate := k % 2 == 0 && s.fon PMU_OWNER_VALID i (k + 1) && s.fon PMU_EVSEL_CHAIN i (k + 1)
      if s.dumped id || (mate && s.dumped (id + 1)) then refuseCmd s .busy 1
      else okCmd (if mate then (s.freeCounter id).freeCounter (id + 1) else s.freeCounter id)))

/-- PMU_USER, R595. -/
def execPmuUser (ch : Nat) (permit : Bool) (s : State) : Host.Outcome State Fault Refusal :=
  .next (s.serve ch 0x72 [(1, if permit then 1 else 0)] 64 .bound false (fun sl s =>
    okCmd ((s.slcPut SLC_CTL_PMU_USER sl (if permit then 1 else 0)).mapViews sl)))

/-! ### Counting, R587, R589, R591 -/

/-- The atelier core loads half of a counter; `add` occurrences of the same cycle count on top (R589). -/
def State.loadCounter (s : State) (inst k : Nat) (hi : Bool) (val add : Nat) : State :=
  let s := if hi then s.rset PMU_CNT_HI (val % 65536) inst k else s.rset PMU_CNT_LO (val % 2 ^ 32) inst k
  if s.counts inst k && add != 0 then s.bump inst k add else s

/-- PMU_COUNTER_LOAD, R589. -/
def execPmuCounterLoad (id : Nat) (hi : Bool) (val add : Nat) (s : State) : Host.Outcome State Fault Refusal :=
  if id < 320 then .next (s.loadCounter (id / 16) (id % 16) hi val add) else .next s

/-- PMU_WINDOW_END, R591: WIN_US of the crystal has passed since the window began, or passes within the present 10 µs; while the instance's
EN is 1 every enabled counter copies its increase, and the next window begins where this one ended. -/
def execPmuWindowEnd (inst : Nat) (s : State) : Host.Outcome State Fault Refusal :=
  if inst < 20 ∧ s.fon PMU_CTL_EN inst ∧ s.windowEnds inst < s.pw.onTicks * 10 + 10 then
    let ends := s.windowEnds inst
    let s := (List.range 16).foldl (fun s k =>
      if s.fon PMU_EVSEL_EN inst k then
        let v := (s.counter inst k + 2 ^ 48 - smGetD s.pmu.win (inst * 16 + k) 0) % 2 ^ 48
        (s.rset PMU_WIN_LO (v % 2 ^ 32) inst k).rset PMU_WIN_HI (v / 2 ^ 32) inst k
      else s) s
    let s := s.restartWindow inst
    .next (s.setPmu { s.pmu with winAt := smSet s.pmu.winAt inst ends })
  else .next s

/-- COUNTER_WRAP, R587: the n occurrences of a counter's event with which it wraps. -/
def execCounterWrap (id n : Nat) (s : State) : Host.Outcome State Fault Refusal :=
  let i := id / 16
  let k := id % 16
  if id < 320 ∧ s.counts i k ∧ s.counter i k + n ≥ 2 ^ 48 then .next (s.bump i k n) else .next s

/-! ### Dump sets, R597 to R600 -/

/-- The parameter block of DUMP_CREATE: in the slice's memory for a bound channel; for a secure one at the host address its
words give, as it was read through the port. -/
def State.dumpBlock (s : State) (ch sl addr n : Nat) (got : HostData) : Except Status (State × List Byte) :=
  if secureChan ch then (if got.1 = .ok then .ok (s, got.2.take n) else .error got.1) else s.readBlock sl addr n

/-- The check of a ring or head address, R597. -/
def State.dumpPlace (s : State) (sl dest a n : Nat) (write : Bool) : Option Status :=
  if dest = 0 then
    (match space a with
     | .stack | .staging _ _ => (s.accessErr sl a n write).map AccessErr.status
     | .unmapped => some .unmapped
     | _ => some .accessFault)
  else if dest = 1 then
    (match s.hostWay sl ((s.drvPort sl).getD 0) a n write with
     | .bad st => some st
     | _ => none)
  else none

/-- DUMP_CREATE, R597. -/
def execDumpCreate (ch sl addr : Nat) (got : HostData) (s : State) : Host.Outcome State Fault Refusal :=
  .next (s.serve ch 0x73 ([(1, addr % 2 ^ 32), (2, addr / 2 ^ 32)] ++ if ch % 32 < 16 then [(3, sl)] else []) sl .either true (fun sl s =>
    let sec := secureChan ch
    if sec ∧ sl > 63 then refuseCmd s .badDescriptor 3
    else if sec ∧ !s.slLive sl then refuseCmd s .badHandle 3
    else match s.dumpBlock ch sl addr 40 got with
    | .error st => refuseCmd s st 1
    | .ok (s, h) =>
      let period := leField h 0 4
      let n := leField h 4 2
      let dest := leField h 6 1
      let mode := leField h 7 1
      let ring := leField h 8 8
      let size := leField h 0x10 4
      let len := dumpLen n
      if period < 1 ∨ period > 1000000 ∨ n < 1 ∨ n > 256 ∨ dest > 2 ∨ mode > 1 ∨ (mode = 1 ∧ dest = 2) ∨
         !isPow2 size ∨ size < 4096 ∨ size > 0x10000000 ∨ size < len ∨ ring % size ≠ 0 ∨ leField h 0x1C 4 ≠ 0 then
        refuseCmd s .badDescriptor 1
      else match s.dumpBlock ch sl addr (40 + 2 * n) got with
      | .error st => refuseCmd s st 1
      | .ok (s, b) =>
        let ids := (List.range n).map (fun i => leField b (40 + 2 * i) 2)
        let conn := leField h 0x14 4
        let head := leField h 0x20 8
        if ids.any (fun i => !(decide (i < 320) || decide (0x1000 ≤ i ∧ i < 0x1000 + 960))) then refuseCmd s .badDescriptor 1
        else if !sec && ids.any (fun i => decide (i ≥ 320) || !s.counterOf sl (i / 16) (i % 16)) then refuseCmd s .badHandle 1
        else if dest = 2 ∧ !(match s.conn conn with | some c => c.slice == sl | none => false) then refuseCmd s .badHandle 1
        else match (s.dumpPlace sl dest ring size true).orElse (fun _ => if mode = 1 then s.dumpPlace sl dest head 4 false else none) with
        | some st => refuseCmd s st 1
        | none =>
          let q := dumpRate ((len, period) :: s.dumpLoads)
          match (List.range 16).find? (fun d => (smGet s.pmu.dumps d).isNone) with
          | none => refuseCmd s .quotaExceeded
          | some d =>
            if q.1 > 4000 * q.2 then refuseCmd s .quotaExceeded
            else
              let x : DumpSet :=
                { slice := sl, ids := ids, period := period, dest := dest, mode := mode, ring := ring, size := size, conn := conn,
                  rkey := leField h 0x18 4, headAddr := head, head := 0, dropped := 0, wasSusp := false, stepped := false,
                  last := s.pmu.ns, tag := none }
              let s := (s.dropDump d).setDump d x
              okCmd (s.rset PMU_DUMP_CTL (2 ^ 31 + sl * 2 ^ 24 + (n - 1) * 4 + dest) 0 d) [d]))

/-- DUMP_DESTROY, R597. -/
def execDumpDestroy (ch d : Nat) (s : State) : Host.Outcome State Fault Refusal :=
  .next (s.serve ch 0x74 [(1, d)] 64 .either false (fun bound s =>
    match smGet s.pmu.dumps d with
    | some x => if secureChan ch || x.slice == bound then okCmd (s.dropDump d) else refuseCmd s .badHandle 1
    | none => refuseCmd s .badHandle 1))

/-- A record is dropped, R599. -/
def State.dropRecord (s : State) (d : Nat) (x : DumpSet) : State :=
  (((s.fadd PMU_DUMP_DROP_VALUE 1 0 d).event PMU_ERR_DUMP_DROP).setDump d { x with dropped := satAdd 32 x.dropped 1 })

/-- The bytes of a record, R598: header, values, and zeros up to its length. -/
def State.dumpRecord (s : State) (d : Nat) (x : DumpSet) : List Byte :=
  let flags := (if s.clockValid then 1 else 0) + (if x.stepped then 2 else 0) + (if x.wasSusp then 4 else 0)
  let n := x.ids.length
  leBytes 8 x.last ++ leBytes 4 (s.rget PMU_DUMP_SEQ 0 d) ++ leBytes 4 x.dropped ++ leBytes 2 n ++ leBytes 1 d ++ leBytes 1 flags ++
    leBytes 12 0 ++ x.ids.flatMap (fun i => leBytes 8 (s.dumpValue i)) ++ leBytes (dumpLen n - 32 - 8 * n) 0

/-- Has a STOP ring room for one more record? One record's place stays free, which tells a full ring from an empty one (log
entry 28). -/
def dumpRoom (x : DumpSet) (wr : Nat) : Bool :=
  x.mode == 0 || decide ((wr + x.size - x.head % x.size) % x.size + dumpLen x.ids.length < x.size)

/-- The consumer's head as it reads now: internal memory, or what the host read brings (R598). -/
def State.readHead (s : State) (x : DumpSet) (got : HostData) : State × Nat :=
  if x.dest = 0 then
    let r := s.busRead x.headAddr 4
    match s.dumpPlace x.slice 0 x.headAddr 4 false, r.bytes with
    | none, some bs => (r.state, leVal bs)
    | _, _ => (s, x.head)
  else
    let r := s.hostGet ((s.drvPort x.slice).getD 0) x.slice (s.curGen x.slice) x.headAddr 4 got
    (r.1, if r.2.1 = .ok ∧ r.2.2.length ≥ 4 then leVal (r.2.2.take 4) else x.head)

/-- Where a TMT record stands until it is sent: a page of the firmware region (log entry 28). -/
def dumpBuffer (d : Nat) : Addr := 0x009FF0000000 + d * 0x1000

/-- Writes a record at the ring's next place: the state after it, or the status that stops the set. -/
def State.writeRecord (s : State) (d : Nat) (x : DumpSet) (wr : Nat) (bs : List Byte) : Except (Status × Nat) (State × Option Nat) :=
  let a := x.ring + wr
  if x.dest = 0 then
    (match s.dumpPlace x.slice 0 a bs.length true with
     | some st => .error (st, 0)
     | none => .ok (s.busWrite a bs, none))
  else if x.dest = 1 then
    (match s.hostPut ((s.drvPort x.slice).getD 0) 0 x.slice (s.curGen x.slice) a false bs with
     | (.accessFault, _) => .error (.accessFault, a)
     | (.unmapped, _) => .error (.unmapped, a)
     | (_, s) => .ok (s, none))
  else
    (match (s.memPut (dumpBuffer d) bs).deviceReq x.conn 0 0 (dumpBuffer d) bs.length x.rkey a with
     | some (s, t) => .ok (s, some t)
     | none => .ok (s, none))

/-- A snapshot taken at the set's next time: its record is dropped, written, or stops the set (R598, R599). -/
def State.snapshot (s : State) (d : Nat) (x : DumpSet) (got : HostData) : State :=
  let s := s.fadd PMU_DUMP_SEQ_VALUE 1 0 d
  let wr := s.rget PMU_DUMP_WR 0 d
  let (s, x) := if dumpRoom x wr then (s, x) else
    let r := s.readHead x got
    (r.1, { x with head := r.2 })
  let st := s.slState x.slice
  let unable := match x.dest with
    | 2 => !(match s.conn x.conn with | some c => c.state == 3 && c.slice == x.slice && c.holds 0 | none => false)
    | _ => false
  if !dumpRoom x wr || st == 4 || st == 5 || x.tag.isSome || unable then s.dropRecord d x
  else
    let bs := s.dumpRecord d x
    match s.writeRecord d x wr bs with
    | .error (e, a) => (s.setDump d x).stopDump d x e a
    | .ok (s, t) =>
      let s := s.setDump d { x with dropped := 0, wasSusp := false, stepped := false, tag := t }
      s.rset PMU_DUMP_WR ((wr + bs.length) % x.size) 0 d

/-- DUMP_SNAPSHOT, R598: device time has reached the set's next multiple of PERIOD_US; `head` is what a read of the consumer's head
in host memory brings. -/
def execDumpSnapshot (d : Nat) (head : HostData) (s : State) : Host.Outcome State Fault Refusal :=
  match smGet s.pmu.dumps d with
  | none => .next s
  | some x =>
    let p := x.period * 1000
    let t := (x.last / p + 1) * p
    if !s.fon PMU_DUMP_CTL_ACTIVE 0 d || s.fon PMU_DUMP_CTL_SUSPENDED 0 d || decide (s.pmu.ns < t) then .next s
    else .next (s.snapshot d { x with last := t } head)

/-! ### Device time, R601 to R603 -/

/-- Time is set or stepped to t: gate lists and dump sets follow, STEPS counts (R456, R600, R602). -/
def State.stepTime (s : State) (t : Nat) : State :=
  let s := s.setPmu { s.pmu with ns := t % (2 ^ 48 * 1000000000), rem := 0 }
  let s := (s.fadd PMU_TIME_STEPS_COUNT 1).stepDumps s.pmu.ns
  if s.clockValid then s.gclStep s.pmu.ns else s

/-- TIME_SET, R602: VALID becomes 1. -/
def execTimeSet (ch lo hi ns : Nat) (s : State) : Host.Outcome State Fault Refusal :=
  .next (s.serve ch 0x75 [(1, 0), (2, lo), (3, hi), (4, ns)] 64 .secure false (fun _ s =>
    if hi > 0xFFFF then refuseCmd s .badDescriptor 3
    else if ns ≥ 1000000000 then refuseCmd s .badDescriptor 4
    else
      let t := (lo % 2 ^ 32 + hi * 2 ^ 32) * 1000000000 + ns
      let was := s.clockValid
      let s := (s.stepTime t).fset PMU_TIME_STATUS_VALID 1
      okCmd (if was then s else s.gclValid t)))

/-- TIME_STEP, R602: the offset is a signed 64-bit number of ns; time wraps with its 48-bit seconds. -/
def execTimeStep (ch lo hi : Nat) (s : State) : Host.Outcome State Fault Refusal :=
  .next (s.serve ch 0x75 [(1, 1), (2, lo), (3, hi)] 64 .secure false (fun _ s =>
    let d := toSigned 64 (lo % 2 ^ 32 + hi % 2 ^ 32 * 2 ^ 32)
    okCmd (s.stepTime (((s.pmu.ns : Int) + d) % (2 ^ 48 * 1000000000)).toNat)))

/-- TIME_ADJ, R602. -/
def execTimeAdj (ch ppb : Nat) (s : State) : Host.Outcome State Fault Refusal :=
  .next (s.serve ch 0x75 [(1, 2), (2, ppb)] 64 .secure false (fun _ s =>
    let v := toSigned 32 (ppb % 2 ^ 32)
    if v < -500000 ∨ v > 500000 then refuseCmd s .badDescriptor 2
    else okCmd (s.rset PMU_TIME_ADJ (ppb % 2 ^ 32))))

/-- TIME_SOURCE, R602. -/
def execTimeSource (ch src port utc : Nat) (s : State) : Host.Outcome State Fault Refusal :=
  .next (s.serve ch 0x75 ([(1, 3), (2, src), (3, utc)] ++ if src = 2 then [(4, port)] else []) 64 .secure false (fun _ s =>
    if src > 3 ∨ (src = 2 ∧ port > 15) then refuseCmd s .badDescriptor 2
    else if utc > 0xFFFF then refuseCmd s .badDescriptor 3
    else
      let s := (s.fset PMU_TIME_STATUS_SRC src).fset PMU_TIME_STATUS_PORT (if src = 2 then port % 8 else 0)
      let s := if src = 2 then s.setPmu { s.pmu with srcPort := port } else s.fset PMU_TIME_STATUS_LOCKED 0
      okCmd (if utc = 0xFFFF then s else (s.fset PMU_TIME_STATUS_UTC_OFFSET utc).fset PMU_TIME_STATUS_UTC_KNOWN 1)))

/-- Firmware's 1588 servo, R602: an offset over 1 µs is stepped away, a smaller one turned into a rate; LOCKED while it stays within
100 ns, and the first lock makes device time VALID (R601). -/
def State.servo (s : State) (off ppb : Int) : State :=
  let small := decide (-100 ≤ off ∧ off ≤ 100)
  let s := if -1000 ≤ off ∧ off ≤ 1000 then s.rset PMU_TIME_ADJ ((max (-500000) (min 500000 ppb)) % 2 ^ 32).toNat
    else s.stepTime (((s.pmu.ns : Int) - off) % (2 ^ 48 * 1000000000)).toNat
  let s := s.fset PMU_TIME_STATUS_LOCKED (if small then 1 else 0)
  if small && !s.clockValid then (s.fset PMU_TIME_STATUS_VALID 1).gclValid s.pmu.ns else s

/-- What a 1588 frame on port j of a network die does to device time, `t` the state after the protocol's answers: SOURCE names that port
(R602). -/
def State.disciplined (s : State) (die j : Nat) (m : Option (Int × Int)) (t : State) : State :=
  match m with
  | some (off, ppb) => if s.fget PMU_TIME_STATUS_SRC = 2 ∧ s.pmu.srcPort = die * 8 + j then t.servo off ppb else t
  | none => t

/-- MGMT_FRAME, R439: firmware answers ARP, neighbour solicitation and ICMP echo for the port's addresses; frames of IEEE 1588 go to its
protocol, whose own frames are `ptp`, and `servo`, where the protocol has a measurement, is the offset of device time in ns and the rate in ppb
that firmware finds (R602); any other is discarded and counted. -/
def execMgmtFrame (die : Nat) (ptp : List (List Byte)) (s : State) (servo : Option (Int × Int) := none) : Host.Outcome State Fault Refusal :=
  if !(s.fwRuns) then .next s
  else match s.net.mgmt.find? (fun f => f.port / 8 == die) with
  | none => .next s
  | some f =>
    let s := s.setNet { s.net with mgmt := s.net.mgmt.erase f }
    let j := f.port % 8
    let tag := beVal ((f.bytes.drop 12).take 2) = 0x8100
    let e := if tag then 16 else 12
    let et := beVal ((f.bytes.drop e).take 2)
    let b := f.bytes.drop (e + 2)
    let reply := if et = 0x0806 then s.arpReply f.port b else if et = 0x0800 then s.echo4 f.port b else if et = 0x86DD then s.answer6 f.port b else none
    if et = 0x88F7 then .next (s.disciplined die j servo (ptp.foldl (fun s p => s.fwFrame f.port p true) s))
    else match reply with
    | some r =>
      .next (s.fwFrame f.port (etherFrame (beVal ((f.bytes.drop 6).take 6)) (s.portMac die j)
        (if tag then some (beVal ((f.bytes.drop 14).take 2)) else none) et r))
    | none => .next (s.stat die j 0x70 1)

/-- PPS_OUT_EDGE, R603: PPS_OUT (pin 0) rises where a second of device time began within the last 10 µs of the crystal; 100 ms, which is
10,000 ticks, later it falls. -/
def execPpsOutEdge (s : State) : Host.Outcome State Fault Refusal :=
  match s.pmu.ppsHigh with
  | some t => if s.pw.onTicks ≥ t + 10000 then .next ((s.setPmu { s.pmu with ppsHigh := none }).emit (.pin 0 0)) else .next s
  | none =>
    if s.fon PMU_PPS_CTL_OUT_EN ∧ s.clockValid ∧ s.pmu.ns % 1000000000 < 10005 then
      .next ((s.setPmu { s.pmu with ppsHigh := some s.pw.onTicks }).emit (.pin 0 1))
    else .next s

/-- PPS_IN_EDGE, R603: the edge is timestamped. -/
def execPpsInEdge (s : State) : Host.Outcome State Fault Refusal :=
  if s.fon PMU_PPS_CTL_IN_EN then
    let sec := s.pmu.ns / 1000000000
    let s := (s.rset PMU_PPS_IN_NS (s.pmu.ns % 1000000000)).rset PMU_PPS_IN_SL (sec % 2 ^ 32)
    .next ((s.rset PMU_PPS_IN_SH (sec / 2 ^ 32 % 65536)).event PMU_ERR_PPS_NEW)
  else .next s

/-! ### Calendar, R604 -/

/-- CAL_SET, R604. -/
def execCalSet (ch lo hi : Nat) (s : State) : Host.Outcome State Fault Refusal :=
  .next (s.serve ch 0x76 [(1, lo), (2, hi)] 64 .secure false (fun _ s =>
    okCmd (s.setPw { s.pw with rtcTicks := (lo % 2 ^ 32 + hi % 2 ^ 32 * 2 ^ 32) * 100000, calValid := true })))

/-- CALENDAR_CHECK, R604: once RUNNING after a boot, while device time is VALID and its UTC offset known, the calendar is set from it; 60 s
(6,000,000 ticks) after each check it is rewritten where it is not valid or differs from device time by 1 s or more. -/
def execCalendarCheck (s : State) : Host.Outcome State Fault Refusal :=
  let due := match s.pmu.calCheck with | some t => decide (s.pw.onTicks ≥ t + 6000000) | none => true
  let first := s.pmu.calCheck.isNone
  let off := s.fget PMU_TIME_STATUS_UTC_OFFSET * 1000000000
  let t := (s.pmu.ns - off) / 10000
  let far := decide (t ≥ s.pw.rtcTicks + 100000 ∨ s.pw.rtcTicks ≥ t + 100000)
  if !s.fwRuns || !due then .next s
  else
    let r := s.setPmu { s.pmu with calCheck := some s.pw.onTicks }
    if s.clockValid && s.fon PMU_TIME_STATUS_UTC_KNOWN && (first || far || !s.pw.calValid) then
      .next (r.setPw { s.pw with rtcTicks := t, calValid := true })
    else .next r

end Machine
end Sys2Proof
end

