-- ==== Sys2Proof/Machine/Fuses.lean ====
section
/-!
DEFINITION. Identity, fuses, the debug port and fault injectors (spec 26 R612 to R623), reference clocks (27 R636).
-/
namespace Sys2Proof
namespace Machine

/-- Replaces the debug state. -/
def State.setDbg (s : State) (d : Debug) : State := { s with dbg := d }

/-! ### What the fuses say, R612 -/

/-- The security-version floor: a field that fails its CRC counts as 64. -/
def Fuses.floor (f : Fuses) : Nat := if f.secverOk then f.secver else 64

/-- Is anchor a revoked, by its bit or by a failed CRC? -/
def Fuses.revoked (f : Fuses) (a : Nat) : Bool :=
  !f.revokeOk || bit f.revoke a || !(match f.anchors[a]? with | some x => x.crcOk | none => false)

/-- Does anchor a hold this digest and stand? -/
def Fuses.anchorHas (f : Fuses) (digest a : Nat) : Bool :=
  (match f.anchors[a]? with | some x => x.written && x.digest == digest | none => false) && !f.revoked a

/-- Does any field fail its CRC? -/
def Fuses.fieldErr (f : Fuses) : Bool :=
  !(f.serialOk && f.vidOk && f.jtagOk && f.macOk && f.revokeOk && f.secverOk) || f.anchors.any (fun a => !a.crcOk) ||
    f.dies.any (fun d => !d.2.crcOk)

/-- The anchor check of R81 with the fuses as loaded. -/
def State.anchorOk (s : State) (digest : Nat) : Bool := (List.range 4).any (s.dbg.loaded.anchorHas digest)

/-- The floor of the version check with the fuses as loaded. -/
def State.secFloor (s : State) : Nat := s.dbg.loaded.floor

/-- Step 3 of a boot, R74: the fuses are loaded. -/
def State.loadFuses (s : State) : State := s.setDbg { s.dbg with loaded := s.dbg.fuses }

/-- Identity words of a die, R624; zero where the CRC fails. -/
def Fuses.dieWords (f : Fuses) (d : Nat) : List Nat :=
  match smGet f.dies d with
  | some x =>
    if x.crcOk then [x.lot % 2 ^ 32, x.lot / 2 ^ 32 % 65536, x.wafer % 32 * 2 ^ 24 + x.x % 256 * 256 + x.y % 256,
                     2 ^ 31 + x.type % 8 * 65536 + x.fuseRev % 256, 0]
    else [0, 0, 0, 0, 0]
  | none => [0, 0, 0, 0, 0]

/-- ID_READ, R624. -/
def execIdRead (ch die : Nat) (s : State) : Host.Outcome State Fault Refusal :=
  .next (s.serve ch 0x78 [(1, die)] 64 .diag false (fun _ s =>
    let f := s.dbg.loaded
    if die = 0xFF then okCmd s [f.serialNow % 2 ^ 32, f.serialNow / 2 ^ 32, f.vidNow, f.macNow % 2 ^ 32, f.macNow / 2 ^ 32 % 65536]
    else if die > 19 then refuseCmd s .badDescriptor 1
    else okCmd s (f.dieWords die)))

/-! ### Programming fuses, R615 -/

/-- What stands before every fuse command: word 1 names the field, word 7 the key, and there is no emergency. -/
def State.fuseCmd (s : State) (ch field : Nat) (ws : List (Nat × Nat)) (key : Nat) (pb : Bool) (run : State → CmdResult) : State :=
  s.serve ch 0x79 ([(1, field)] ++ ws ++ [(7, key)]) 64 .secure pb (fun _ s =>
    if key ≠ 0x46555345 then refuseCmd s .badDescriptor 7
    else if s.emergency then refuseCmd s .busy
    else run s)

/-- Replaces the fuses as blown. -/
def State.blow (s : State) (f : Fuses) : State := s.setDbg { s.dbg with fuses := f }

/-- The answer of a command some of whose bits may not verify. -/
def fuseAnswer (s : State) (fails : Option Nat) : CmdResult :=
  match fails with
  | none => okCmd s
  | some _ => refuseCmd s .fuseError

/-- A halt of the atelier core ends: it resumes where it stopped and serves the full channels again (R579, R618). -/
def State.resumeCore (s : State) : State :=
  if s.atl.coreHalted then ({ s with atl := { s.atl with coreHalted := false } } : State).mbxRound else s

/-- The debug port is closed: a halt ends, the core resumes, bank 9 loses its secure access (R616, R618). -/
def State.closePort (s : State) : State :=
  (s.fset MBX_SEC_BANKS (s.fget MBX_SEC_BANKS % 512)).resumeCore

/-- FUSE_DBG_DISABLE, R615: three copies; any one blown reads blown. -/
def execFuseDbgDisable (ch key : Nat) (fails : Option Nat) (s : State) : Host.Outcome State Fault Refusal :=
  .next (s.fuseCmd ch 1 [] key false (fun s =>
    if s.dbg.fuses.dbgDisable then okCmd s
    else if fails = some 0 then fuseAnswer s fails
    else fuseAnswer (s.blow { s.dbg.fuses with dbgDisable := true }).closePort fails))

/-- FUSE_INJ_DISABLE, R615. -/
def execFuseInjDisable (ch key : Nat) (fails : Option Nat) (s : State) : Host.Outcome State Fault Refusal :=
  .next (s.fuseCmd ch 2 [] key false (fun s =>
    if s.dbg.fuses.injDisable then okCmd s
    else if fails = some 0 then fuseAnswer s fails
    else fuseAnswer ((s.blow { s.dbg.fuses with injDisable := true }).injOffWhere (fun _ _ => true)) fails))

/-- The flash offset of the image in the confirmed slot, where the slot holds one. -/
def State.confirmedImage (s : State) : Option Nat :=
  match s.atl.bootRecord with
  | some r => if headerOk s.atl.flash (slotAt r.confirmed) then some (slotAt r.confirmed) else none
  | none => none

/-- FUSE_SECVER, R615. -/
def execFuseSecver (ch key floor : Nat) (fails : Option Nat) (s : State) : Host.Outcome State Fault Refusal :=
  .next (s.fuseCmd ch 3 [(2, floor)] key false (fun s =>
    let top := match s.confirmedImage with | some i => imageSecVer s.atl.flash i | none => 0
    let f := s.dbg.fuses
    if floor > 64 ∨ floor > top then refuseCmd s .badVersion 2
    else if floor ≤ f.floor then okCmd s
    else match fails with
      | none => okCmd (s.blow { f with secver := floor })
      | some k => fuseAnswer (s.blow { f with secver := min floor (f.secver + k), secverOk := false }) fails))

/-- ANCHOR_WRITE, R615: the digest is 48 bytes of the parameter block. A failure leaves the one bits before it blown. -/
def execAnchorWrite (ch key slot : Nat) (got : HostData) (fails : Option Nat) (s : State) : Host.Outcome State Fault Refusal :=
  .next (s.fuseCmd ch 4 [(2, slot)] key true (fun s =>
    let f := s.dbg.fuses
    if slot > 3 then refuseCmd s .badDescriptor 2
    else if got.1 ≠ .ok then refuseCmd s got.1
    else match f.anchors[slot]? with
    | none => refuseCmd s .badDescriptor 2
    | some a =>
      if a.written then refuseCmd s .busy 2
      else
        let d := leVal (got.2.take 48)
        match fails with
        | none => okCmd (s.blow { f with anchors := f.anchors.set slot { written := true, digest := d, crcOk := true } })
        | some k =>
          let ones := ((List.range 384).filter (fun i => bit d i)).take k
          let v := ones.foldl (fun v i => v + 2 ^ i) 0
          fuseAnswer (s.blow { f with anchors := f.anchors.set slot { written := !ones.isEmpty, digest := v, crcOk := false } }) fails))

/-- ANCHOR_REVOKE, R615: refused where no standing anchor would match the confirmed slot's image. -/
def execAnchorRevoke (ch key slot : Nat) (fails : Option Nat) (s : State) : Host.Outcome State Fault Refusal :=
  .next (s.fuseCmd ch 5 [(2, slot)] key false (fun s =>
    let f := s.dbg.fuses
    let f' := { f with revoke := f.revoke ||| 2 ^ slot }
    let left := match s.confirmedImage with
      | some i => (List.range 4).any (f'.anchorHas (imageAnchor s.atl.flash i))
      | none => false
    if slot > 3 then refuseCmd s .badDescriptor 2
    else if !left then refuseCmd s .busy 2
    else match fails with
      | none => okCmd (s.blow f')
      | some _ => fuseAnswer (s.blow { f with revokeOk := false }) fails))

/-! ### The debug port, R616 to R618 -/

/-- The port's state: 0 OPEN, 1 CLOSED_SOFT, 2 CLOSED (R616). -/
def State.dbgState (s : State) : Nat := if s.dbg.fuses.dbgDisable then 2 else if s.dbg.softClosed then 1 else 0

/-- Is the port powered and OPEN? -/
def State.dbgOpen (s : State) : Bool := s.dbgState == 0 && !s.pw.lockout

/-- The port goes to CLOSED_SOFT. -/
def State.softClose (s : State) : State :=
  if s.dbgState = 0 then ((s.setDbg { s.dbg with softClosed := true }).fset FUS_DBG_CTL_CLOSE 1).closePort else s

/-- DBG_CLOSE, R616. -/
def execDbgClose (ch : Nat) (s : State) : Host.Outcome State Fault Refusal :=
  .next (s.serve ch 0x7A [] 64 .secure false (fun _ s => okCmd s.softClose))

/-- DEBUG_SOFT_CLOSE, R616: only the atelier core is granted the register. -/
def execDebugSoftClose (who : Requester) (s : State) : Host.Outcome State Fault Refusal :=
  .next (if coreOnly who then s.softClose else s)

/-- IDCODE, R617: served in every state of the port. -/
def execIdcode (s : State) : Host.Outcome State Fault Refusal :=
  if s.pw.lockout then .next s
  else .next (s.emit (.jtag (0x10000000 + 0x2064 * 4096 + s.dbg.loaded.mfrNow * 2 + 1)))

/-- BYPASS, R617: any code that selects nothing else shifts n bits through one bit, first in first out after a 0. -/
def execBypass (code bits n : Nat) (s : State) : Host.Outcome State Fault Refusal :=
  if s.pw.lockout ∨ code = 1 ∨ (s.dbgOpen ∧ 2 ≤ code ∧ code ≤ 4) then .next s
  else .next (s.emit (.jtag (bits * 2 % 2 ^ n)))

/-- ATL_HALT, R618: refused, with capture 0, while the device is in a job. -/
def execAtlHalt (s : State) : Host.Outcome State Fault Refusal :=
  if !s.dbgOpen then .next s
  else if s.inJob || s.pw.devReset || s.fget GSO_MSTATE_STATE == 3 then .next (s.emit (.jtag 0))
  else .next (({ s with atl := { s.atl with coreHalted := true } } : State).emit (.jtag 1))

/-- ATL_RESUME, R617. -/
def execAtlResume (s : State) : Host.Outcome State Fault Refusal :=
  if !s.dbgOpen then .next s
  else .next (s.resumeCore.emit (.jtag 0))

/-! ### Fault injectors, R619 to R623 -/

/-- INJ_PERMIT, R620, R621. -/
def execInjPermit (ch sl : Nat) (permit : Bool) (s : State) : Host.Outcome State Fault Refusal :=
  .next (s.serve ch 0x7B [(1, sl), (2, if permit then 1 else 0)] 64 .secure false (fun _ s =>
    if !s.slLive sl then refuseCmd s .badHandle 1
    else if permit then okCmd (s.slcPut SLC_CTL_TEST_PERM sl 1)
    else okCmd (s.injScopeOff.slcPut SLC_CTL_TEST_PERM sl 0)))

/-- Is (kind, die, unit) one of R619's, with the address on the stack or palette named? -/
def State.injPlace (s : State) (kind die unit addr : Nat) : Bool :=
  match kind with
  | 1 => (die == 14 || die == 15) && unit == 0
  | 2 => (die == 16 || die == 17) && decide (unit ≤ 3)
  | 3 => decide (die ≤ 19 ∧ unit < fabricPorts die)
  | 4 => decide (die ≤ 9 ∧ unit ≤ 1) && space addr == .stack && (steer s.localBands addr).1 == 2 * die + unit
  | 5 => decide (die ≤ 9) && unit == 0 && addr % 8 == 0 && (match space addr with | .sram b _ => b / 384 == die | _ => false)
  | _ => false

/-- The fields of INJ_ARM's block in range, R620. -/
def State.injFields (s : State) (b : List Byte) : Bool :=
  let f := leField b
  let kind := f 0 1
  let act := f 1 1
  let match_ := f 8 4
  s.injPlace kind (f 4 2) (f 6 2) (f 0x10 8) &&
  decide (act ≤ (if kind = 3 then 3 else if kind ≤ 2 then 2 else 1)) && decide (f 2 1 ≤ (if kind = 1 then 1 else 0)) && decide (f 3 1 ≤ 1) &&
  !(act == 3 && f 3 1 == 0) &&
  (kind != 1 || match_ == 0xFFFFFFFF || decide (match_ < 65536)) && !(kind == 1 && match_ == 0xFFFFFFFF && f 3 1 == 0) &&
  decide (1 ≤ f 0xC 2 ∧ 1 ≤ f 0xE 2) && (decide (kind ≤ 3) || f 0xE 2 == 1) &&
  (if kind ≤ 3 && act == 1 then f 0x1A 1 != 0
   else if kind == 1 && act == 2 then decide (1 ≤ f 0x18 2 ∧ f 0x18 2 ≤ 255)
   else if kind == 2 && act == 2 then f 0x18 2 != 0
   else if kind == 3 && act == 2 then f 0x18 2 == 0 else true) &&
  f 0x1B 5 == 0

/-- The lowest n symbols or bits not yet in error, added to a mask of w: where an injected fault strikes (log entry 28). -/
def strike (w n m : Nat) : Nat := (((List.range w).filter (fun i => !bit m i)).take n).foldl (fun m i => m + 2 ^ i) m

/-- STACK and SRAM entries act as they are armed: one or two symbols, one or two bits (R622). -/
def State.injStrike (s : State) (kind act addr : Nat) : State :=
  let n := act + 1
  if kind = 4 then
    let k := addr / 32
    let b := s.burst k
    let s := s.setBurst k { b with bad := strike 36 n b.bad }
    { s with dbg := { s.dbg with injFaults := smSet s.dbg.injFaults k 1 } }
  else
    let w := addr / 8 * 8
    let m := strike 72 n (smGetD s.ecc w 0)
    { s with ecc := smSet s.ecc w m, dbg := { s.dbg with injFaults := smSet s.dbg.injFaults (injWord w) m } }

/-- A STACK or SRAM entry's one event is its arming: it has fired and disarms itself (R622, R623). -/
def State.injSpent (s : State) (i : Nat) : State :=
  (((s.fset INJ_TRIG_COUNT 0 (i / 8) (i % 8)).fset INJ_FIRED_FIRED 1 (i / 8) (i % 8))).injOff i

/-- Writes entry e of a die from the block and arms it, EN last (R626). -/
def State.injLoad (s : State) (i sl : Nat) (b : List Byte) : State :=
  let die := i / 8
  let e := i % 8
  let f := leField b
  let s := ((s.rset INJ_MATCH (f 8 4) die e).rset INJ_TRIG (f 0xC 2 * 65536 + f 0xE 2) die e).rset INJ_PARAM (f 0x18 2) die e
  let s := ((s.rset INJ_ADDR_LO (f 0x10 4) die e).rset INJ_ADDR_HI (f 0x14 2) die e).rset INJ_FIRED 0 die e
  let s := s.rset INJ_ARM (2 ^ 31 + f 3 1 * 2 ^ 30 + sl) 0 i
  let s := s.rset INJ_CTL (2 ^ 31 + f 0 1 * 2 ^ 28 + f 1 1 * 2 ^ 26 + f 2 1 * 2 ^ 25 + f 0x1A 1 * 2 ^ 16 + f 6 2) die e
  s.setDbg { s.dbg with injMatch := smDel s.dbg.injMatch i }

/-- INJ_ARM, R620: its checks in their order; arming wakes a gated die (R623). -/
def execInjArm (ch sl : Nat) (got : HostData) (s : State) : Host.Outcome State Fault Refusal :=
  .next (s.serve ch 0x7C [(1, sl)] 64 .secure true (fun _ s =>
    if s.dbg.fuses.injDisable then refuseCmd s .denied
    else if sl > 63 ∨ s.slcGet SLC_CTL_TEST_PERM sl = 0 then refuseCmd s .denied 1
    else if got.1 ≠ .ok then refuseCmd s got.1
    else
      let b := got.2.take 32
      let f := leField b
      let die := f 4 2
      if b.length < 32 ∨ !s.injFields b then refuseCmd s .badDescriptor
      else if f 3 1 = 0 ∧ f 0 1 = 1 ∧ !(match s.conn (f 8 4) with | some x => x.slice == sl | none => false) then refuseCmd s .badHandle
      else if f 3 1 = 0 ∧ f 0 1 = 4 ∧ !s.ownsStack sl (f 0x10 8 / 32 * 32) 32 then refuseCmd s .badHandle
      else if f 3 1 = 0 ∧ f 0 1 = 5 ∧ (s.accessErr sl (f 0x10 8) 8 true).isSome then refuseCmd s .badHandle
      else if f 3 1 = 1 ∧ (List.range 64).any (fun k => s.slLive k && s.slcGet SLC_CTL_TEST_PERM k == 0) then refuseCmd s .denied
      else match (List.range 8).find? (fun e => !s.fon INJ_ARM_ARMED 0 (die * 8 + e)) with
      | none => refuseCmd s .quotaExceeded
      | some e =>
        let i := die * 8 + e
        let s := (s.wakeDie die).injLoad i sl b
        if f 0 1 ≥ 4 then okCmd ((s.injSpent i).injStrike (f 0 1) (f 1 1) (f 0x10 8)) [i]
        else okCmd s [i]))

/-- Is an injector inert: not armed, and nothing that it held on its way still (R620)? -/
def State.injInert (s : State) (i : Nat) : Bool := !s.fon INJ_ARM_ARMED 0 i && !s.dbg.held.any (fun h => h.inj == i)

/-- INJ_DISARM commands whose injectors are all inert complete (R620). -/
def State.endDisarms (s : State) : State :=
  let done := s.dbg.disarms.filter (fun d => d.2.all s.injInert)
  done.foldl (fun s d => s.ack d.1 .ok 0 []) (s.setDbg { s.dbg with disarms := s.dbg.disarms.filter (fun d => !d.2.all s.injInert) })

/-- The entries are cleared; the command completes at once where they are inert, else once what they hold is released. -/
def State.disarm (s : State) (ch : Nat) (is : List Nat) : CmdResult :=
  let s := is.foldl State.injOff s
  if is.all s.injInert then okCmd s
  else { state := s.setDbg { s.dbg with disarms := s.dbg.disarms ++ [(ch, is)] }, status := .ok, done := false }

/-- INJ_DISARM, R620. -/
def execInjDisarm (ch id sl : Nat) (s : State) : Host.Outcome State Fault Refusal :=
  .next (s.serve ch 0x7D ([(1, id)] ++ if id = 0xFFFF then [(2, sl)] else []) 64 .secure false (fun _ s =>
    if id = 0xFFFF then (if sl > 63 then refuseCmd s .badDescriptor 2 else s.disarm ch ((List.range 160).filter (fun i => s.fget INJ_ARM_SLICE 0 i == sl)))
    else if id > 159 then refuseCmd s .badDescriptor 1
    else s.disarm ch [id]))

/-- INJ_QUERY, R620. -/
def execInjQuery (ch id : Nat) (s : State) : Host.Outcome State Fault Refusal :=
  .next (s.serve ch 0x7E [(1, id)] 64 .secure false (fun _ s =>
    if id > 159 then refuseCmd s .badDescriptor 1
    else okCmd s [s.fget INJ_FIRED_FIRED (id / 8) (id % 8), s.fget INJ_ARM_ARMED 0 id]))

/-- May a held packet or completion go on: PARAM later packets of its connection have passed or 100 µs have, or the completion's PARAM µs, by
the end of the tick under way (R622)? -/
def State.heldDue (s : State) (h : InjHeld) : Bool :=
  let us := 10 * (s.pw.onTicks + 1 - h.since)
  if h.path = 2 then decide (us ≥ h.left) else h.left == 0 || decide (us ≥ 100)

/-- A held packet or completion goes on from where it was held. -/
def State.letGo (s : State) (h : InjHeld) : State :=
  if h.path = 2 then s.completeRead h.port h.conn h.st h.bytes
  else if h.path = 1 then s.tmtAccept (h.port / 8) h.slice (h.bytes.length + 4) h.bytes
  else s.toSource { src := h.conn, slice := h.slice, port := h.port, bytes := h.bytes, mark := false }

/-- INJECTED_REORDER_RELEASE, R622: the i-th held packet or completion goes on once it is due; an INJ_DISARM that waited for it may complete. -/
def execInjectedReorderRelease (i : Nat) (s : State) : Host.Outcome State Fault Refusal :=
  match s.dbg.held[i]? with
  | none => .next s
  | some h =>
    if s.heldDue h then .next ((s.setDbg { s.dbg with held := s.dbg.held.eraseIdx i }).letGo h).endDisarms else .next s

end Machine
end Sys2Proof
end

