-- ==== Sys2Proof/Machine/VrnBase.lean ====
section
/-!
DEFINITION. What Varnish does as results of its own TMT requests return (spec 22): the manifest of a step (R538 to R540) and its
writes (R534), the reads and checks of a restore (R541), verification of a candidate.
-/
namespace Sys2Proof
namespace Machine

/-- Replaces the Varnish part of the state. -/
def State.setVrn (s : State) (v : Varnish) : State := { s with vrn := v }

/-- Replaces the running step. -/
def State.setStep (s : State) (t : VStep) : State := s.setVrn { s.vrn with step := some t }

/-- Replaces the running restore. -/
def State.setRestore (s : State) (r : VRestore) : State := s.setVrn { s.vrn with restore := some r }

/-- The module serial, zero where its CRC fails (R612). -/
def State.moduleSerial (s : State) : Nat := if s.dbg.loaded.serialOk then s.dbg.loaded.serial else 0

/-- Nobody waits any more for these requests of the device. -/
def State.forgetTags (s : State) (ts : List Nat) : State := { s with nvm := { s.nvm with dead := s.nvm.dead ++ ts } }

/-! ### Places, R210, R530, R545 -/

/-- Staging buffer i of 64: 1 MiB each, sixteen in each window's Varnish area (R210). -/
def vrnBuffer (i : Nat) : Addr := stagingAddr (i / 16) (0x3000000 + i % 16 * 0x100000)

/-- Bytes of a manifest area, 256 MiB. -/
def manifestArea : Nat := 0x10000000

/-- Bytes from one slot's manifest area to the next, and from a slot's base to its shard area, in the persistent copy of a length. -/
def persistSlot (len : Nat) : Nat := manifestArea + (len - 2 * manifestArea) / 2

/-- Offset of slot k's manifest in a lease, or in a persistent area at `off` of `len` bytes. -/
def manifestAt (persist : Bool) (off len k : Nat) : Nat := if persist then off + k * persistSlot len else k * manifestArea

/-- Offset of pool unit u: of the lease, or of slot k's shard area in a persistent area. -/
def sourceAt (persist : Bool) (off len k u : Nat) : Nat :=
  (if persist then off + k * persistSlot len + manifestArea else 2 * manifestArea) + u * 0x10000

/-- Pool units of a shard copy, R531. -/
def unitsOf (bytes : Nat) : Nat := ceilDiv bytes 0x10000

/-- The connections of a step, its region key, and the place of what it writes: a function of slot and pool unit. -/
def State.stepTarget (s : State) (t : VStep) : List Nat × Nat × Nat × Nat :=
  if t.kind = 1 then (s.vrn.conns, s.vrn.rkey, 0, 0)
  else match s.vrn.target with
  | some (c, k, off, len) => ([c], k, off, len)
  | none => ([], 0, 0, 0)

/-! ### The manifest, R538 to R540 -/

/-- A shard entry's 64 bytes, R540. -/
def MEnt.bytes64 (e : MEnt) : List Byte :=
  leBytes 4 e.handle ++ leBytes 4 e.unit ++ leBytes 4 e.step ++ leBytes 4 e.loc ++ leBytes 4 e.bytes ++
    [if e.lost then 1 else 0] ++ leBytes 11 0 ++ (if e.lost then leBytes 32 0 else beBytes 32 e.digest)

/-- A handle record's 128 bytes, R539: its entries from index `first` on, its LEN values at body offset `lenOff`. -/
def HRec.bytes128 (h : HRec) (nsh first lenOff : Nat) : List Byte :=
  leBytes 4 h.handle ++ [BitVec.ofNat 8 h.kind] ++ leBytes 3 0 ++ leBytes 4 h.parent ++ leBytes 4 nsh ++ leBytes 4 first ++
    leBytes 4 lenOff ++ leBytes 8 0 ++ h.desc ++ leBytes (64 - h.desc.length) 0 ++ leBytes 32 0

/-- The handle records of a body: `first` the next entry's index, `off` the body offset of the next LEN array. -/
def recordsBytes (ents : List MEnt) : List HRec → Nat → Nat → List Byte
  | [], _, _ => []
  | h :: hs, first, off =>
    let n := (ents.filter (fun e => e.handle == h.handle)).length
    h.bytes128 n (if n = 0 then 0 else first) (if h.kind = 3 then off else 0) ++ recordsBytes ents hs (first + n) (off + 4 * h.lens.length)

/-- The body: handle records, shard entries, LEN arrays. -/
def manifestBody (recs : List HRec) (ents : List MEnt) : List Byte :=
  recordsBytes ents recs 0 (128 * recs.length + 64 * ents.length) ++ ents.flatMap MEnt.bytes64 ++
    recs.flatMap (fun h => h.lens.flatMap (leBytes 4))

/-- Bytes of a body. -/
def bodyLen (recs : List HRec) (ents : List MEnt) : Nat :=
  128 * recs.length + 64 * ents.length + 4 * (recs.map (·.lens.length)).sum

/-- Bytes 0x00 to 0x2F of a header, R538. -/
def State.headerBytes (s : State) (t : VStep) : List Byte :=
  leBytes 4 0x4D4E5256 ++ leBytes 2 1 ++ [BitVec.ofNat 8 (t.num % 2), if t.kind = 2 then 1 else 0] ++ leBytes 4 t.num ++
    leBytes 4 (if t.kind = 2 then s.rget VRN_PERSIST_DONE else s.vrn.prev) ++ leBytes 8 s.moduleSerial ++
    leBytes 4 (s.rget HRC_JOB) ++ leBytes 4 t.recs.length ++ leBytes 4 t.ents.length ++ leBytes 4 (bodyLen t.recs t.ents) ++
    leBytes 8 t.cutTime

/-- The round keys of the job's manifest key, in device slot 1,024. -/
def State.manifestKeys (s : State) : List Nat := roundKeys (((smGet s.cph.slots 1024).map (·.key)).getD [])

/-- Is slot 1,024 LOADED (R536)? -/
def State.manifestKeyOk (s : State) : Bool := (smGet s.cph.slots 1024).any (fun e => e.state == 2)

/-- A header with its CMAC over bytes 0x00 to 0x2F and the body. -/
def State.header64 (s : State) (t : VStep) : List Byte :=
  let h := s.headerBytes t
  h ++ beBytes 16 (cmac s.manifestKeys (h ++ manifestBody t.recs t.ents))

/-- A list of bytes cut into pieces of at most 1 MiB at rising offsets. -/
def mibPieces (off : Nat) (bs : List Byte) : List (Nat × List Byte) :=
  (List.range (ceilDiv bs.length 0x100000)).map (fun i => (off + i * 0x100000, (bs.drop (i * 0x100000)).take 0x100000))

/-! ### Writing, R534 -/

/-- The lowest staging buffer that neither the step nor the restore uses. -/
def State.vrnFree (s : State) : Option Nat :=
  let busy : List Nat := (match s.vrn.step with | some (t : VStep) => t.out.map (fun x => x.2) | none => ([] : List Nat)) ++
    (match s.vrn.restore with | some (r : VRestore) => r.out.map (fun x => x.2.1) | none => [])
  (List.range 64).find? (fun i => !busy.contains i)

/-- Writes bytes at an offset of a step's target, through a staging buffer; none where no buffer or connection takes it now. -/
def State.vrnWrite (s : State) (t : VStep) (off : Nat) (bs : List Byte) : Option (State × VStep) :=
  let (conns, rkey, _, _) := s.stepTarget t
  match s.vrnFree with
  | none => none
  | some i =>
    let s := s.busWrite (vrnBuffer i) bs
    match conns.findSome? (fun c => s.deviceReq c 0 0 (vrnBuffer i) bs.length rkey off) with
    | none => none
    | some (s, tag) => some (s, { t with out := t.out ++ [(tag, i)] })

/-- Issues what a step has to write or FLUSH, and moves to its next phase when a phase is over: after the last shard, the body,
and the header, a FLUSH on each connection. -/
def State.vrnGo (s : State) (t : VStep) : Nat → State × VStep
  | 0 => (s, t)
  | n + 1 =>
    match t.toFlush with
    | c :: cs =>
      (match s.deviceReq c 3 0 0 0 0 0 with
       | some (s, tag) => s.vrnGo { t with toFlush := cs, flushes := t.flushes ++ [tag] } n
       | none => (s, t))
    | [] =>
      match t.parts with
      | (off, bs) :: ps =>
        (match (s.setStep t).vrnWrite t off bs with
         | some (s, t) => s.vrnGo { t with parts := ps } n
         | none => (s, t))
      | [] =>
        if t.phase < 3 || t.phase > 5 || t.verdict != .ok || !t.todo.isEmpty || !t.out.isEmpty || !t.flushes.isEmpty then (s, t)
        else
          let (conns, _, off, len) := s.stepTarget t
          let base := manifestAt (t.kind == 2) off len (t.num % 2)
          if !t.flushing then s.vrnGo { t with flushing := true, toFlush := conns } n
          else if t.phase = 3 then s.vrnGo { t with phase := 4, flushing := false, parts := mibPieces (base + 64) (manifestBody t.recs t.ents) } n
          else if t.phase = 4 then s.vrnGo { t with phase := 5, flushing := false, parts := [(base, s.header64 t)] } n
          else (s, { t with phase := 6 })

/-- Advances the running step as far as it goes. -/
def State.vrnAdvance (s : State) : State :=
  match s.vrn.step with
  | some t => let (s, t) := s.vrnGo t 1024; s.setStep t
  | none => s

/-- The answer to request `tag` of the running step. -/
def State.stepAnswer (s : State) (t : VStep) (tag : Nat) (st : Status) : State :=
  let units := if t.phase = 4 && t.out.any (·.1 == tag) then 16 else 0
  let s := s.rset VRN_PROG_POS (min (s.rget VRN_PROG_TOTAL) (s.rget VRN_PROG_POS + units))
  let t := { t with out := t.out.filter (·.1 != tag), flushes := t.flushes.filter (· != tag),
                    verdict := if st = .ok then t.verdict else .buddyLost }
  (s.setStep t).vrnAdvance

/-! ### Restores, R541 -/

/-- Where a restore reads: its connection and key (none: its own buddy region), the base of the lease there, the area's offset and
length. -/
def State.restoreSource (s : State) (r : VRestore) : Option (Nat × Nat) × Nat × Nat × Nat :=
  if r.persist then
    match s.vrn.target with
    | some (c, k, off, len) => (some (c, k), 0, off, len)
    | none => (some (0, 0), 0, 0, 0)
  else if r.mode = 0 then (none, ((s.vrn.leases.find? (fun l => l.owner == r.owner)).map (·.base)).getD 0 * 0x10000, 0, 0)
  else (some (s.vrn.conns.headD 65536, s.vrn.rkey), 0, 0, 0)

/-- n bytes at an offset of a restore's source: of its own memory, or as read over TMT; none where a burst is poisoned or a read
failed. -/
def State.restoreBytes (s : State) (r : VRestore) (off n : Nat) : Option (List Byte) :=
  match s.restoreSource r with
  | (none, base, _, _) => (s.busRead (base + off) n).bytes
  | _ =>
    let parts := (List.range (max 1 (ceilDiv n 0x100000))).map (fun i => smGet r.got (off + i * 0x100000))
    if parts.all (·.isSome) then some ((parts.flatMap (·.getD [])).take n) else none

/-- The header of slot k, if it has its MAGIC and VER, names the slot and the owner, and gives a body that fits (R536). -/
def State.slotHeader (s : State) (r : VRestore) (k : Nat) : Option (List Byte) :=
  let (_, _, off, len) := s.restoreSource r
  match s.restoreBytes r (manifestAt r.persist off len k) 64 with
  | none => none
  | some h =>
    if leField h 0 4 = 0x4D4E5256 ∧ leField h 4 2 = 1 ∧ leField h 6 1 = k ∧ leField h 7 1 = (if r.persist then 1 else 0) ∧
        leField h 0x10 8 = r.serial ∧ leField h 0x24 4 + 64 ≤ manifestArea then some h else none

/-- Header and body of slot k, if its CMAC verifies. -/
def State.slotManifest (s : State) (r : VRestore) (k : Nat) : Option (List Byte × List Byte) :=
  let (_, _, off, len) := s.restoreSource r
  match s.slotHeader r k with
  | none => none
  | some h =>
    match s.restoreBytes r (manifestAt r.persist off len k + 64) (leField h 0x24 4) with
    | none => none
    | some b =>
      let b := b.take (leField h 0x24 4)
      if cmac s.manifestKeys (h.take 0x30 ++ b) = beVal (h.drop 0x30) then some (h, b) else none

/-- The shard entries of a manifest. -/
def entriesOf (h b : List Byte) : List MEnt :=
  (List.range (leField h 0x20 4)).map (fun i =>
    let e := (b.drop (128 * leField h 0x1C 4 + 64 * i)).take 64
    { handle := leField e 0 4, unit := leField e 4 4, step := leField e 8 4, loc := leField e 0xC 4, bytes := leField e 0x10 4,
      lost := bit (leField e 0x14 1) 0, digest := beVal ((e.drop 0x20).take 32) })

/-- The handle records of a manifest. -/
def recordsOf (h b : List Byte) : List HRec :=
  (List.range (leField h 0x1C 4)).map (fun i =>
    let e := (b.drop (128 * i)).take 128
    let layers := leField ((((List.range (leField h 0x1C 4)).map (fun j => (b.drop (128 * j)).take 128)).find?
      (fun c => leField c 0 4 == leField e 8 4)).getD []) 0x20 2
    { handle := leField e 0 4, kind := leField e 4 1, parent := leField e 8 4, desc := (e.drop 0x20).take 64,
      lens := if leField e 4 1 = 3 then (List.range layers).map (fun l => leField b (leField e 0x14 4 + 4 * l) 4) else [] })

/-- Offset of a shard's copy in a restore's source. -/
def State.copyAt (s : State) (r : VRestore) (e : MEnt) : Nat :=
  let (_, _, off, len) := s.restoreSource r
  sourceAt r.persist off len r.slot e.loc

/-- Does an entry verify: LOST, or a copy whose SHA-256 equals its DIGEST? -/
def State.entryOk (s : State) (r : VRestore) (e : MEnt) : Bool :=
  e.lost || (match s.restoreBytes r (s.copyAt r e) e.bytes with | some bs => sha256 (bs.take e.bytes) == e.digest | none => false)

/-- The entries of the candidate. -/
def State.candidate (s : State) (r : VRestore) : List MEnt :=
  match s.slotManifest r r.slot with
  | some (h, b) => entriesOf h b
  | none => []

/-- Of the slots still to try, the one R541 picks: the higher STEP where both are valid. -/
def State.pickSlotOf (s : State) (r : VRestore) : Option Nat :=
  match r.slots with
  | [] => none
  | [k] => some k
  | _ =>
    let step := fun k => match s.slotHeader r k with | some h => leField h 8 4 | none => 0
    some (if step 1 > step 0 then 1 else 0)

/-- Progress of a restore counts the candidate's units anew (R548). -/
def State.restoreTotal (s : State) (r : VRestore) : State :=
  (s.rset VRN_PROG_POS 0).rset VRN_PROG_TOTAL (((s.candidate r).map (fun e => unitsOf e.bytes)).sum)

/-- Starts on a candidate: its copies are to be read and verified; with none left the stage is 3. -/
def State.tryCandidate (s : State) (r : VRestore) : State × VRestore :=
  match s.pickSlotOf r with
  | none => (s, { r with stage := 3 })
  | some k =>
    let r := { r with slot := k, stage := 2 }
    let s := s.restoreTotal r
    let es := (s.candidate r).filter (fun e => !e.lost)
    match s.restoreSource r with
    | (none, _, _, _) =>
      if es.all (s.entryOk r) then (s.rset VRN_PROG_POS (s.rget VRN_PROG_TOTAL), { r with stage := 4 }) else (s, { r with stage := 3 })
    | _ => (s, { r with todo := es.map (fun e => (s.copyAt r e, e.bytes)) })

/-- Issues reads of a restore while buffers and the connection take them. -/
def State.restoreIssue (s : State) (r : VRestore) : Nat → State × VRestore
  | 0 => (s, r)
  | n + 1 =>
    match r.todo, s.restoreSource r, (s.setRestore r).vrnFree with
    | (off, len) :: rest, (some (c, k), _, _, _), some i =>
      let m := min len 0x100000
      (match s.deviceReq c 2 0 (vrnBuffer i) m k off with
       | some (s, tag) =>
         s.restoreIssue { r with todo := if len ≤ 0x100000 then rest else (off + m, len - m) :: rest, out := r.out ++ [(tag, i, off, m)] } n
       | none => (s, r))
    | _, _, _ => (s, r)

/-- Moves a restore on: headers, then bodies, then the candidate's copies, until it is verified or has failed. -/
def State.restoreGo (s : State) (r : VRestore) : Nat → State × VRestore
  | 0 => (s, r)
  | n + 1 =>
    let (s, r) := s.restoreIssue r 64
    if !r.todo.isEmpty || !r.out.isEmpty then (s, r)
    else if r.stage = 0 then
      let (_, _, off, len) := s.restoreSource r
      let ks := (List.range 2).filter (fun k => (s.slotHeader r k).isSome)
      let need := ks.map (fun k => (manifestAt r.persist off len k + 64, ((s.slotHeader r k).map (fun h => leField h 0x24 4)).getD 0))
      s.restoreGo { r with stage := 1, slots := ks, todo := if r.mode = 0 && !r.persist then [] else need.filter (fun x => x.2 != 0) } n
    else if r.stage = 1 then
      let r := { r with slots := r.slots.filter (fun k => (s.slotManifest r k).isSome) }
      if r.mode = 3 then (s, { r with stage := 5 })
      else
        let (s, r) := s.tryCandidate r
        if r.stage = 2 then s.restoreGo r n else (s, r)
    else if r.stage = 2 then
      let es := s.candidate r
      if es.all (s.entryOk r) then (s.rset VRN_PROG_POS (s.rget VRN_PROG_TOTAL), { r with stage := 4 }) else (s, { r with stage := 3 })
    else (s, r)

/-- The answer to request `tag` of the restore: what was read is kept; a copy whose digest fails stops the reading at once (R544). -/
def State.restoreAnswer (s : State) (r : VRestore) (tag : Nat) (st : Status) : State :=
  match r.out.find? (fun x => x.1 == tag) with
  | none => s
  | some (_, i, off, n) =>
    let x := s.busRead (vrnBuffer i) n
    let s := x.state
    let r := { r with out := r.out.filter (fun y => y.1 != tag),
                      got := match st, x.bytes with | .ok, some bs => smSet r.got off bs | _, _ => smDel r.got off }
    let bad := r.stage == 2 && (s.candidate r).any (fun e => s.copyAt r e == off && !s.entryOk r e)
    if bad then
      let s := s.forgetTags (r.out.map (·.1))
      s.setRestore { r with stage := 3, todo := [], out := [] }
    else
      let s := if r.stage = 2 then s.rset VRN_PROG_POS (s.rget VRN_PROG_POS + unitsOf n) else s
      let (s, r) := s.restoreGo r 8
      s.setRestore r

/-- Hands results of the device's own requests to Varnish. -/
def State.vrnResults (s : State) : State :=
  (s.tmt.results.map (·.1)).foldl (fun s tag =>
    match s.takeResult tag with
    | none => s
    | some (s', st, _, _) =>
      match s.vrn.step, s.vrn.restore with
      | some t, r =>
        if t.out.any (·.1 == tag) || t.flushes.contains tag then s'.stepAnswer t tag st
        else (match r with
          | some r => if r.out.any (fun x => x.1 == tag) then s'.restoreAnswer r tag st else s
          | none => s)
      | none, some r => if r.out.any (fun x => x.1 == tag) then s'.restoreAnswer r tag st else s
      | none, none => s) s

/-- Every result of the device's own requests is handed to whom it concerns. -/
def State.deviceResults (s : State) : State := s.vrnResults.nvmResults.dumpResults

end Machine
end Sys2Proof
end

