-- ==== Sys2Proof/Machine/Tmt.lean ====
section
/-!
DEFINITION. TMT work requests and packets (spec 19): doorbells, acceptance, sending, the target's side of each packet,
acknowledgements and the congestion window, retransmission, completions.
-/
namespace Sys2Proof
namespace Machine

/-! ### Doorbells, R466, R491 -/

/-- The 64-byte slots of a ring from head on, n of them, as their bytes. -/
def State.ringRead (s : State) (q : TmtSq) (n : Nat) (got : HostData) : State × HostData :=
  match q.port with
  | none =>
    ((List.range n).foldl (fun (acc : State × HostData) i =>
      let r := acc.1.busRead (q.ring + 64 * ((q.head + i) % q.size)) 64
      (r.state, match acc.2, r.bytes with
        | (.ok, bs), some b => (.ok, bs ++ b)
        | (.ok, _), none => (.poisoned, [])
        | e, _ => e)) (s, (.ok, [])))
  | some p =>
    (List.range n).foldl (fun (acc : State × HostData) i =>
      let r := acc.1.hostGet p q.slice (s.curGen q.slice) (q.ring + 64 * ((q.head + i) % q.size)) 64 (got.1, (got.2.drop (64 * i)).take 64) 2
      (r.1, match acc.2, r.2 with
        | (.ok, bs), (.ok, b) => if b.length = 64 then (.ok, bs ++ b) else (.aborted, [])
        | (.ok, _), e => e
        | e, _ => e)) (s, (.ok, []))

/-- Takes fetched setup requests into the FIFO of their die, R491: NOT_READY before RUNNING, SETUP_BUSY when it is full,
BAD_DESCRIPTOR for an opcode no setup request has. -/
def State.takeSetup (s : State) (sq die : Nat) : List (List Byte) → State
  | [] => s
  | r :: rs =>
    let op := leField r 0 1
    let id := leField r 0x30 8
    let s :=
      if s.bootState < 5 then s.setupDone (some sq) op id 0 .notReady 0
      else if !(0x10 ≤ op && op ≤ 0x14) then s.setupDone (some sq) op id 0 .badDescriptor 0
      else if (s.tmt.setup.filter (fun x => x.die == die)).length ≥ 256 then
        (s.setupDone (some sq) op id 0 .setupBusy 0).event TMT_CTX_ERR_SETUP_BUSY die
      else s.setTmt { s.tmt with setup := s.tmt.setup ++ [{ die := die, sq := sq, bytes := r }] }
    s.takeSetup sq die rs

/-- A send queue falls into ERROR, R355. -/
def State.tmtSqError (s : State) (key : Nat) : State :=
  match smGet s.tmt.sqs key with
  | some q => s.setTmt { s.tmt with sqs := smSet s.tmt.sqs key { q with err := true } }
  | none => s

/-- May a doorbell page of slice sl be written: through function 2, or by a requester the page is granted to? -/
def dbMay (port : Option Nat) (who : Requester) (sl : Nat) : Bool :=
  port.isSome || (match who with | .atelier => true | .slice k => k == sl)

/-- The tail is accepted, refused or ignored. Setup requests of a ring in host memory that `got` does not bring are fetched with a
later doorbell. -/
def State.sqTail (s : State) (key : Nat) (q : TmtSq) (val : Nat) (got : HostData) : State :=
  if !s.accepts q.slice then s.ignoreDb q.slice
  else if q.err then s
  else if val / 2 ^ 16 ≠ 0 ∨ val % 2 ^ 16 ≥ q.size then
    (match q.port with | some p => s.event HIF_ERR_STATUS_DB_BAD p | none => s).tmtSqError key
  else
    let n := (val % 2 ^ 16 + q.size - q.head) % q.size
    if q.setup then
      match s.ringRead q n got with
      | (s, (.ok, bs)) =>
        (s.setTmt { s.tmt with sqs := smSet s.tmt.sqs key { q with tail := val % 2 ^ 16, head := val % 2 ^ 16 } }).takeSetup key q.die
          ((List.range n).map (fun i => (bs.drop (64 * i)).take 64))
      | (s, (.aborted, _)) => s.setTmt { s.tmt with sqs := smSet s.tmt.sqs key { q with tail := val % 2 ^ 16 } }
      | (s, (st, _)) => (s.tmtSqError key).faultLog q.slice 3 st q.num 0 (q.ring + 64 * q.head)
    else s.setTmt { s.tmt with sqs := smSet s.tmt.sqs key { q with tail := val % 2 ^ 16 } }

/-- TMT_SQ_DOORBELL, R466, R355, R491: the new tail of a send queue, written through function 2 of a port or through the doorbell
pages of the network dies. `got` is what the fetch of newly covered setup requests brings from a ring in host memory. -/
def execTmtSqDoorbell (port : Option Nat) (who : Requester) (off val : Nat) (got : HostData) (s : State) :
    Host.Outcome State Fault Refusal :=
  let sl := off / 0x1000
  let key := sl * 256 + off % 0x1000 / 8
  if off ≥ 0x40000 ∨ off % 0x1000 ≥ 0x800 ∨ off % 8 ≠ 0 ∨ !dbMay port who sl then .next s
  else match smGet s.tmt.sqs key with
  | none => .next s
  | some q =>
    match port, q.port with
    | some a, some b =>
      if a ≠ b then .next ((s.setTmt { s.tmt with sqs := smSet s.tmt.sqs key { q with dbErr := q.dbErr + 1 } }).event HIF_ERR_STATUS_DB_PORT a)
      else .next (s.sqTail key q val got)
    | _, _ => .next (s.sqTail key q val got)

/-- TMT_CQ_DOORBELL, R466: the head software has reached, and ARM. Entries that waited for room are written. -/
def execTmtCqDoorbell (port : Option Nat) (who : Requester) (off val : Nat) (s : State) : Host.Outcome State Fault Refusal :=
  let sl := off / 0x1000
  let o := off % 0x1000
  let key := sl * 256 + (o - 0x800) / 8
  if off ≥ 0x40000 ∨ o < 0x800 ∨ o % 8 ≠ 0 ∨ !dbMay port who sl then .next s
  else match smGet s.tmt.cqs key with
  | none => .next s
  | some q =>
    let wrong := match port, q.port with | some a, some b => a != b | _, _ => false
    if wrong then
      .next ((s.setTmt { s.tmt with cqs := smSet s.tmt.cqs key { q with dbErr := q.dbErr + 1 } }).event HIF_ERR_STATUS_DB_PORT (port.getD 0))
    else if !s.accepts sl then .next (s.ignoreDb sl)
    else if q.err then .next s
    else if getBits val 30 16 ≠ 0 ∨ val % 2 ^ 16 ≥ q.size then
      .next ((match q.port with | some p => s.event HIF_ERR_STATUS_DB_BAD p | none => s).setTmt
        { s.tmt with cqs := smSet s.tmt.cqs key { q with err := true } })
    else
      let s := s.setTmt { s.tmt with cqs := smSet s.tmt.cqs key { q with head := val % 2 ^ 16, arm := bit val 31 } }
      .next (s.drainPosts key 65536)

/-! ### Work requests, R467, R468 -/

/-- Is every byte of a list zero? -/
def zeros (bs : List Byte) : Bool := bs.all (fun b => b == 0)

/-- The first two checks of R468: fields, then lengths. -/
def wrOk (d : List Byte) : Bool :=
  let op := leField d 0 1
  let len := leField d 0x10 4
  decide (op ≤ 4 ∧ leField d 1 1 < 16) && zeros ((d.drop 2).take 2) && zeros ((d.drop 0x24).take 4) && zeros (d.drop 0x38) &&
    (op == 1 || leField d 0x20 4 == 0) && (op == 4 || leField d 0x28 8 == 0) && (decide (op < 3) || leField d 8 8 == 0) &&
    (match op with
     | 0 | 2 => decide (1 ≤ len ∧ len ≤ 2 ^ 30)
     | 1 => decide (len ≤ 2 ^ 30)
     | 3 => len == 0
     | _ => len == 8 && leField d 0x18 8 % 8 == 0)

/-- The check of a request's local range, R468: the failing status. -/
def State.localErr (s : State) (sl port a n : Nat) (host write : Bool) : Option Status :=
  if n = 0 then none
  else if host then
    match s.hostWay sl port a n write with
    | .bad st => some st
    | _ => none
  else (s.accessErr sl a n write).map AccessErr.status

/-- Runs the request at the head of a send queue where it is the row's operation (or one no row has): refused with its status, or
accepted onto its connection. -/
def tmtRequest (op sl q : Nat) (wr : HostData) (s : State) : State :=
  let key := sl * 256 + q
  match smGet s.tmt.sqs key with
  | none => s
  | some sq =>
    if sq.setup || sq.err || sq.head == sq.tail then s
    else match s.ringRead sq 1 wr with
    | (_, (.aborted, _)) => s
    | (s, (.ok, d)) =>
      let o := leField d 0 1
      if o ≠ op ∧ o ≤ 4 then s
      else
        let pop := fun (s : State) => s.setTmt { s.tmt with sqs := smSet s.tmt.sqs key { sq with head := (sq.head + 1) % sq.size } }
        let c := leField d 4 4
        let fail := fun (s : State) (st : Status) => (pop s).postCq (s.cqOf key) (tmtEntry (leField d 0x30 8) 0 0 0 (c % 65536) o st 0 0)
        if !wrOk d then fail s .badDescriptor
        else match s.conn c with
        | none => fail s .badHandle
        | some x =>
          let port := (match sq.port with | some p => some p | none => s.drvPort sl).getD 0
          if x.slice ≠ sl ∨ x.die ≠ sq.die then fail s .badHandle
          else if x.state = 4 ∨ x.state = 5 then fail s .connBroken
          else match (if o ≤ 2 then s.localErr sl port (leField d 8 8) (leField d 0x10 4) (bit (leField d 1 1) 2) (o == 2) else none) with
          | some st => fail s st
          | none =>
            if !x.cached then s.needConn c
            else if !x.holds o then s
            else
              let r := Req.base (.sq key) o (leField d 1 1) (leField d 8 8) (leField d 0x10 4) (leField d 0x14 4) (leField d 0x18 8)
                (leField d 0x20 4) (leField d 0x28 8) (leField d 0x30 8) (s.curGen sl) port x.payload
              ((pop s).touchConn c).acceptReq c r
    | (s, (st, _)) => (s.tmtSqError key).faultLog sl 3 st q 0 (sq.ring + 64 * sq.head)

/-- TMT_WRITE, R468, R469. -/
def execTmtWrite (sl q : Nat) (wr : HostData) (s : State) : Host.Outcome State Fault Refusal := .next (tmtRequest 0 sl q wr s)
/-- TMT_WRITE_IMM, R468, R469. -/
def execTmtWriteImm (sl q : Nat) (wr : HostData) (s : State) : Host.Outcome State Fault Refusal := .next (tmtRequest 1 sl q wr s)
/-- TMT_READ, R468, R469. -/
def execTmtRead (sl q : Nat) (wr : HostData) (s : State) : Host.Outcome State Fault Refusal := .next (tmtRequest 2 sl q wr s)
/-- TMT_FLUSH, R468, R469. -/
def execTmtFlush (sl q : Nat) (wr : HostData) (s : State) : Host.Outcome State Fault Refusal := .next (tmtRequest 3 sl q wr s)
/-- TMT_FETCH_ADD, R468 to R470. -/
def execTmtFetchAdd (sl q : Nat) (wr : HostData) (s : State) : Host.Outcome State Fault Refusal := .next (tmtRequest 4 sl q wr s)

/-! ### Sending, R481 to R485 -/

/-- Window places a connection holds, R483: packets in flight and what its READs hold. -/
def Conn.places (x : Conn) : Nat := (x.pkts.filter (fun p => p.phase == 0)).length + (x.reqs.map (·.places)).sum

/-- A request that may send: not ended, not refused, and with FENCE every earlier one done. -/
def maySend (before : List Req) (r : Req) : Bool :=
  !r.done && r.status == .ok && decide (r.sent < r.n) && (!bit r.flags 1 || before.all Req.done)

/-- The first request with a packet to send, in acceptance order: a request waits for the packets of earlier ones. -/
def nextReq : List Req → List Req → Option Req
  | _, [] => none
  | before, r :: rs =>
    if maySend before r then some r
    else if !r.done && r.status == .ok && decide (r.sent < r.n) then none
    else nextReq (before ++ [r]) rs

/-- Replaces the request with a message number. -/
def Conn.setReq (x : Conn) (r : Req) : Conn := { x with reqs := x.reqs.map (fun q => if q.msn = r.msn then r else q) }

/-- Source bytes of a write request's packet, read at each transmission (R469); host data comes as the read brings it. -/
def State.reqBytes (s : State) (x : Conn) (r : Req) (off n : Nat) (src : HostData) : State × HostData :=
  if n = 0 then (s, (.ok, []))
  else if bit r.flags 2 then
    match s.hostGet r.port x.slice r.gen (r.laddr + off) n src 2 with
    | (s, (.ok, bs)) => (s, if bs.length = n then (.ok, bs) else (.aborted, []))
    | e => e
  else
    let q := s.busRead (r.laddr + off) n
    (q.state, match q.bytes with | some b => (.ok, b) | none => (.poisoned, []))

/-- The request keeps the status of its lowest refusal and sends nothing more; it is done once all it sent is answered. -/
def Req.refuse (r : Req) (st : Status) (psn sub : Nat) (remote : Bool) : Req :=
  let lower := r.status == .ok || decide (psnDiff psn r.stPsn < 0)
  let r := if lower then { r with status := st, stPsn := psn, sub := sub, remote := remote } else r
  { r with n := r.sent, places := 0 }

/-- Is a request done: everything it needs has come (R469)? -/
def Req.settle (r : Req) : Req :=
  if r.done then r
  else if r.status ≠ .ok then { r with done := decide (r.sent ≤ r.acked) }
  else if r.op ≤ 1 then { r with done := decide (r.sent = r.n ∧ r.acked = r.n) }
  else if r.op = 2 then { r with done := decide (r.sent ≥ 1) && r.missing.isEmpty }
  else r

/-- Sends one packet of a request under a PSN: the bytes [off, off + n) of its message (or the range a READ asks for). A source that
cannot be read sends nothing and gives the failing status. -/
def State.sendReq (s : State) (c : Nat) (x : Conn) (r : Req) (psn off n : Nat) (again : Bool) (src : HostData) :
    Option (State × Option Status) :=
  let first := if off = 0 then 2 else 0
  let last := decide (r.op > 1) || off + n == r.len
  let fl := first + (if last then 1 else 0) + (if last || again then 4 else 0)
  if r.op ≤ 1 then
    match s.reqBytes x r off n src with
    | (_, (.aborted, _)) => none
    | (s, (.ok, bs)) =>
      some (s.tmtTx c r.op fl psn r.msn (reth r.rkey (r.roff + off) r.len ++ (if r.op = 1 && last then beBytes 4 r.imm else [])) bs, none)
    | (s, (st, _)) => some (s, some st)
  else if r.op = 2 then some (s.tmtTx c 2 (fl ||| 2) psn r.msn (reth r.rkey (r.roff + off) n) [], none)
  else if r.op = 3 then some (s.tmtTx c 4 fl psn r.msn [] [], none)
  else some (s.tmtTx c 5 fl psn r.msn (reth r.rkey r.roff 8 ++ beBytes 8 r.add) [], none)

/-- The lost packet to resend first: the lowest PSN. -/
def Conn.lost (x : Conn) : Option SentPkt :=
  (x.pkts.filter (fun p => p.phase == 1 || p.phase == 3)).foldl (fun m p =>
    match m with
    | none => some p
    | some q => if psnDiff p.psn q.psn < 0 then some p else m) none

/-- May a PSN be sent: fewer than 4,096 beyond the oldest packet not acknowledged (R479)? -/
def Conn.inMap (x : Conn) (psn : Nat) : Bool := x.pkts.all (fun p => decide (p.phase ≥ 2 ∨ psnDiff psn p.psn < 4096))

/-- Resends a lost packet with its own PSN. Where its source cannot be read nothing leaves: the request keeps that status and
the packet counts as sent, so that R482 ends the attempts (log entry 18). -/
def State.resend (s : State) (c : Nat) (x : Conn) (p : SentPkt) (src : HostData) (now : Nat) : State :=
  match (x.reqs ++ x.ghosts).find? (fun r => r.msn == p.msn) with
  | none => s.setConn c { x with pkts := x.pkts.erase p }
  | some r =>
    let again := decide (p.times > 0)
    let r := { r with retried := r.retried || again, places := if r.op = 2 then packetsOf x.payload p.len else r.places, asked := now }
    let y := { x with pkts := x.pkts.map (fun (k : SentPkt) => if k.psn = p.psn then { p with phase := 0, times := p.times + 1, sentAt := now } else k),
                      timer := if x.timer.isNone then some now else x.timer }.setReq r
    let s' := ((if again then (s.fadd TMT_CNT_RETX_COUNT 1 x.die).count (15 + x.die) 0 0x11 x.slice 1 else s).setConn c y).touchConn c
    match s'.sendReq c y r p.psn p.off p.len again src with
    | none => s
    | some (s', none) => s'
    | some (s', some st) => s'.modConn c (fun z => z.setReq ((r.refuse st p.psn 0 false).settle))

/-- Sends the next new packet of a request; one whose source cannot be read takes no PSN and ends its message there. -/
def State.sendNew (s : State) (c : Nat) (x : Conn) (r : Req) (src : HostData) (now : Nat) : State :=
  let psn := x.nextPsn
  let off := if r.op ≤ 1 then r.sent * x.payload else 0
  let n := if r.op ≤ 1 then min x.payload (r.len - off) else if r.op = 2 then r.len else 0
  let p : SentPkt := { psn := psn, msn := r.msn, off := off, len := n, phase := 0, times := 1, sentAt := now, rnr := 0 }
  let r' := { r with first := if r.sent = 0 then psn else r.first, sent := r.sent + 1, asked := now,
                     places := if r.op = 2 then packetsOf x.payload r.len else 0,
                     asks := if r.op = 2 then [(psn, 0, r.len)] else [] }
  let y := { x with pkts := x.pkts ++ [p], nextPsn := (psn + 1) % 2 ^ 32, timer := if x.timer.isNone then some now else x.timer }.setReq r'
  match ((s.setConn c y).touchConn c).sendReq c y r' psn off n false src with
  | none => s
  | some (s', none) => s'
  | some (s', some st) => s'.setConn c (x.setReq (({ r with first := if r.sent = 0 then psn else r.first }.refuse st psn 0 false).settle))

/-- PACKET_SEND, R483: while its window allows it, a connection resends its lowest lost packet or sends its next new one. `src` is
what a read of a host source brings, `now` the time in ns, within the present tick. -/
def execPacketSend (c : Nat) (src : HostData) (now : Nat) (s : State) : Host.Outcome State Fault Refusal :=
  match s.conn c with
  | none => .next s
  | some x =>
    if !s.atNow now || !(x.state == 3 || x.state == 5) || !s.fon TMT_CTL_EN x.die || s.dieStopped (14 + x.die) then .next s
    else if !x.cached then .next (s.needConn c)
    else if x.places ≥ x.cwnd / 256 then .next s
    else match x.lost with
    | some p => .next (s.resend c x p src now)
    | none =>
      match nextReq [] x.reqs with
      | none => .next s
      | some r => .next (if x.inMap x.nextPsn then s.sendNew c x r src now else s)

/-! ### The target: arrival of numbered packets, R479, R480 -/

/-- Takes a packet out of a die's receive buffer. -/
def State.dropRx (s : State) (k : TPkt) : State := s.setTmt { s.tmt with rx := s.tmt.rx.erase k }

/-- The packet at the front of a die's receive order, where it has an opcode and its context is on chip. -/
def State.frontPkt (s : State) (die op : Nat) : Option (TPkt × Conn) :=
  match s.tmt.rx.find? (fun k => k.die == die) with
  | some k =>
    if k.op = op then
      match s.conn k.conn with
      | some x => if x.cached then some (k, x) else none
      | none => none
    else none
  | none => none

/-- Where a PSN lies against the receive map. -/
inductive PsnPlace where
  | fresh | dup | beyond
deriving DecidableEq, Repr

/-- The treatment of R479. -/
def Conn.place (x : Conn) (psn : Nat) : PsnPlace :=
  let d := psnDiff psn x.epsn
  if d < 0 then .dup
  else if d ≥ 4096 then .beyond
  else if bit x.rmap d.toNat then .dup else .fresh

/-- Shifts a receive map past its set low bits, with how many there were. -/
def advance : Nat → Nat → Nat → Nat × Nat
  | 0, m, k => (m, k)
  | n + 1, m, k => if m % 2 = 1 then advance n (m / 2) (k + 1) else (m, k)

/-- Marks a PSN received: the map, EPSN, the highest PSN, the counts since the last ACK. -/
def Conn.mark (x : Conn) (psn : Nat) : Conn :=
  let (m, k) := advance 4097 (x.rmap ||| 2 ^ (psnDiff psn x.epsn).toNat) 0
  { x with rmap := m, epsn := (x.epsn + k) % 2 ^ 32, high := if psnDiff psn x.high > 0 then psn else x.high,
           since := x.since + 1, refused := x.refused.filter (fun p => decide (psnDiff psn p < 2 ^ 21)) }

/-- The earliest packet since the last ACK came in this tick. -/
def Conn.stampAck (x : Conn) (tick : Nat) : Conn := if x.since = 0 then { x with ackTick := tick } else x

/-- What the target does with a numbered packet's content: admitted as it stands, or refused with CODE and SUB. -/
inductive Verdict where
  | taken
  | nak (code sub : Nat)
deriving DecidableEq, Repr

/-- ACK_EVERY of a connection. -/
def Conn.ackEvery (x : Conn) : Nat := getBits x.ackCtl 23 16

/-- Receives a numbered packet: a duplicate is acknowledged at once, one beyond the map discarded, a fresh one is handed to `run`,
marked and acknowledged as R480 says. A packet refused by NAK_RNR before is run again (log entry 16). -/
def State.receive (s : State) (k : TPkt) (x : Conn) (run : State → State × Verdict) : State :=
  let c := k.conn
  let s := ((s.dropRx k).touchConn c).modConn c (fun y => { y with ce := y.ce + (if k.ce then 1 else 0) })
  let again := x.rnr.contains k.psn
  match (if again then PsnPlace.fresh else x.place k.psn) with
  | .beyond => (s.fadd TMT_CNT_OOW_COUNT 1 x.die).event TMT_ERR_STATUS_OOW x.die
  | .dup => (s.fadd TMT_CNT_DUP_COUNT 1 x.die).sendAck c 0 0 0
  | .fresh =>
    let (s, v) := run s
    let order := k.psn != x.epsn
    let s := s.modConn c (fun y => if again then y else (y.stampAck s.pw.onTicks).mark k.psn)
    match v with
    | .nak code sub =>
      (s.modConn c (fun y =>
        { y with priors := if k.op > 1 || y.priors.contains k.psn then y.priors else y.priors ++ [k.psn],
                 refused := if k.op > 1 || y.refused.contains k.psn then y.refused else y.refused ++ [k.psn],
                 rnr := if code = 2 then (if again then y.rnr else y.rnr ++ [k.psn]) else y.rnr.erase k.psn })).sendAck c code k.psn sub
    | .taken =>
      let s := s.modConn c (fun y => { y with rnr := y.rnr.erase k.psn, refused := y.refused.erase k.psn, priors := y.priors.erase k.psn })
      if order || again || bit k.flags 2 then s.sendAck c 0 0 0
      else match s.conn c with
      | some y => if y.since ≥ y.ackEvery then s.sendAck c 0 0 0 else s
      | none => s

/-- Checks and places a write packet, R469, R503: the packet's KEY, OFFSET and MLEN. -/
def State.placeWrite (s : State) (k : TPkt) (x : Conn) : State × Verdict :=
  let key := beVal (k.ext.take 4)
  let off := beVal ((k.ext.drop 4).take 8)
  let n := k.payload.length
  if n > x.payload ∨ n > beVal ((k.ext.drop 12).take 4) then (s, .nak 3 0)
  else match s.regionErr x k.conn key off n 0 with
  | some sub => (s, .nak 1 sub)
  | none =>
    match smGet s.tmt.mrs (key % 2 ^ 24) with
    | none => (s, .nak 1 0)
    | some r =>
      let s := s.regionPut r off k.payload
      (if r.lhost && n != 0 then s.modConn k.conn (fun y => { y with wrote := y.wrote ++ [(k.psn, r.port)] }) else s, .taken)

/-- WRITE_PACKET, R479, R503: the front packet of a die is a WRITE. -/
def execWritePacket (die : Nat) (s : State) : Host.Outcome State Fault Refusal :=
  match s.frontPkt die 0 with
  | some (k, x) => .next (s.receive k x (fun s => s.placeWrite k x))
  | none => .next s

/-- Entries already owed to a target completion queue by WRITE_IMMs that have arrived. -/
def State.owed (s : State) (slice tcq : Nat) : Nat :=
  (s.tmt.conns.map (fun e => if e.2.slice = slice ∧ e.2.tcq = tcq then e.2.imms.length else 0)).sum

/-- WRITE_IMM_PACKET, R473, R479: as a WRITE; its LAST packet is refused with NAK_RNR while the target completion queue is full, and
otherwise leaves a target completion owed. -/
def execWriteImmPacket (die : Nat) (s : State) : Host.Outcome State Fault Refusal :=
  match s.frontPkt die 1 with
  | none => .next s
  | some (k, x) =>
    .next (s.receive k x (fun s =>
      if !bit k.flags 0 then s.placeWrite k x
      else match smGet s.tmt.cqs (x.slice * 256 + x.tcq) with
      | none => (s, .nak 3 1)
      | some q =>
        if !q.room (1 + s.owed x.slice x.tcq) then (s, .nak 2 0)
        else
          let (s, v) := s.placeWrite k x
          if v = .taken then
            let mlen := beVal ((k.ext.drop 12).take 4)
            let i : TgtImm := { psn := k.psn, n := packetsOf x.payload mlen, imm := beVal ((k.ext.drop 16).take 4), mlen := mlen, asked := false, issued := [] }
            (s.modConn k.conn (fun y => { y with imms := y.imms ++ [i] }), v)
          else (s, v)))

/-- FLUSH_PACKET, R474: a FLUSH arrives and waits for the writes before it. -/
def execFlushPacket (die : Nat) (s : State) : Host.Outcome State Fault Refusal :=
  match s.frontPkt die 4 with
  | none => .next s
  | some (k, x) =>
    .next (s.receive k x (fun s =>
      (s.modConn k.conn (fun y => { y with flushes := y.flushes ++ [{ psn := k.psn, asked := false, issued := [] }] }), .taken)))

/-- Are all packets below a PSN received? -/
def Conn.ready (x : Conn) (psn : Nat) : Bool := decide (psnDiff psn x.epsn < 0)

/-- Issues a zero-length read on each port of a list, R474; one that finds no index waits for it (R361), listed as 8 + its port; a
port that is down completes nothing and is not waited for. -/
def State.zeroReads (s : State) (c psn : Nat) (x : Conn) : List Nat → State × List Nat
  | [] => (s, [])
  | p :: ps =>
    match s.issueRead p 2 x.slice (s.primaryPasid x.slice p) 0 0 false (.tmt c psn p) with
    | some s => let (s, l) := s.zeroReads c psn x ps; (s, p :: l)
    | none =>
      let (t, l) := (s.awaitIndex p 2 (.tmt c psn p)).zeroReads c psn x ps
      (t, if (s.port p).up then (p + 8) :: l else l)

/-- Tries the zero-length reads that wait for an index again: those outstanding stay. -/
def State.zeroAgain (s : State) (c psn : Nat) (x : Conn) (issued : List Nat) : State × List Nat :=
  let (s, l) := s.zeroReads c psn x ((issued.filter (8 ≤ ·)).map (· - 8))
  (s, issued.filter (· < 8) ++ l)

/-- The ports that carried writes before a PSN. -/
def Conn.portsBefore (x : Conn) (psn : Nat) : List Nat :=
  ((x.wrote.filter (fun w => decide (psnDiff w.1 psn ≤ 0))).map (·.2)).eraseDups

/-- FLUSH_DONE, R474: the first FLUSH with nothing missing before it issues its zero-length reads; once they are back, FLUSH_DONE
leaves. -/
def execFlushDone (c : Nat) (s : State) : Host.Outcome State Fault Refusal :=
  match s.conn c with
  | none => .next s
  | some x =>
    if !x.cached then .next (s.needConn c)
    else match x.flushes.find? (fun f => x.ready f.psn) with
    | none => .next s
    | some f =>
      let put := fun (s : State) (g : TgtFlush) => s.modConn c (fun y => { y with flushes := y.flushes.map (fun h => if h.psn = f.psn then g else h) })
      if !f.asked then
        let (s, l) := s.zeroReads c f.psn x (x.portsBefore f.psn)
        .next (put s { f with asked := true, issued := l })
      else if f.issued.any (8 ≤ ·) then
        let (s, l) := s.zeroAgain c f.psn x f.issued
        .next (put s { f with issued := l })
      else if !f.issued.isEmpty then .next s
      else
        let s := s.modConn c (fun y => { y with flushes := y.flushes.filter (fun h => h.psn != f.psn),
                                                wrote := y.wrote.filter (fun w => decide (psnDiff w.1 f.psn > 0)) })
        .next (s.sendAck c 5 f.psn 0)

/-- TARGET_COMPLETION, R473: the first WRITE_IMM with nothing missing before it writes its entry and raises the flag; one with a
refused packet writes nothing. Reads of R474 come first where the queue lies behind another port than the data. -/
def execTargetCompletion (c : Nat) (s : State) : Host.Outcome State Fault Refusal :=
  match s.conn c with
  | none => .next s
  | some x =>
    if !x.cached then .next (s.needConn c)
    else match x.imms.find? (fun i => x.ready i.psn) with
    | none => .next s
    | some i =>
      let drop := fun (s : State) => s.modConn c (fun y => { y with imms := y.imms.filter (fun h => h.psn != i.psn) })
      let put := fun (s : State) (j : TgtImm) => s.modConn c (fun y => { y with imms := y.imms.map (fun h => if h.psn = i.psn then j else h) })
      let cut := x.refused.any (fun p => decide (psnDiff p i.psn ≤ 0 ∧ psnDiff i.psn p < i.n))
      if cut then .next (drop s)
      else match smGet s.tmt.cqs (x.slice * 256 + x.tcq) with
      | none => .next (drop s)
      | some q =>
        let ports := (x.portsBefore i.psn).filter (fun p => q.port != some p)
        if !i.asked && !ports.isEmpty then
          let (s, l) := s.zeroReads c i.psn x ports
          .next (put s { i with asked := true, issued := l })
        else if i.issued.any (8 ≤ ·) then
          let (s, l) := s.zeroAgain c i.psn x i.issued
          .next (put s { i with issued := l })
        else if !i.issued.isEmpty || !q.room 1 then .next s
        else
          let prior := x.priors.any (fun p => decide (psnDiff p i.psn < 0))
          let s := (drop s).modConn c (fun y => { y with priors := y.priors.filter (fun p => decide (psnDiff p i.psn > 0)) })
          let s := s.writeCq (x.slice * 256 + x.tcq) (tmtEntry 0 0 i.mlen i.imm c 1 .ok 0 (1 + (if prior then 2 else 0)))
          .next (if x.flagWord = 0 then s else s.deviceSignal x.slice x.flagWord 1)

/-! ### READ and FETCH_ADD at the target, R469, R470, R477 -/

/-- Sends the READ_RESP packets of a READ_REQ. -/
def State.sendResps (s : State) (c psn msn payload total off : Nat) : List Byte → Nat → State
  | _, 0 => s
  | bs, n + 1 =>
    let part := bs.take payload
    let fl := (if off = 0 then 2 else 0) + (if off + part.length = total then 1 else 0)
    (s.tmtTx c 3 fl 0 msn (beBytes 4 psn ++ beBytes 4 off) part).sendResps c psn msn payload total (off + part.length) (bs.drop payload) n

/-- Serves an admitted READ_REQ; `data` is what a read of a host region brings. None while that data does not fit. -/
def State.serveRead (s : State) (k : TPkt) (x : Conn) (data : HostData) : Option State :=
  let key := beVal (k.ext.take 4)
  let off := beVal ((k.ext.drop 4).take 8)
  let n := beVal ((k.ext.drop 12).take 4)
  match smGet s.tmt.mrs (key % 2 ^ 24) with
  | none => some (s.sendAck k.conn 1 k.psn 0)
  | some r =>
    let got : State × HostData :=
      if r.lhost then s.hostGet r.port r.slice (s.curGen r.slice) (r.addr + off) n data 2
      else
        let q := s.busRead (r.addr + off) n
        (q.state, match q.bytes with | some b => (.ok, b) | none => (.poisoned, []))
    match got with
    | (s, (.ok, bs)) => if bs.length = n then some (s.sendResps k.conn k.psn k.msn x.payload n 0 bs (packetsOf x.payload n)) else none
    | (s, (.poisoned, _)) => some (s.sendAck k.conn 4 k.psn 0)
    | (s, _) => some (s.sendAck k.conn 1 k.psn 3)

/-- READ_REQ, R469, R477, R479: a READ that waited is served once every earlier packet has come; otherwise the front READ_REQ is
checked, and served at once, or again where it is a repeat, or held. -/
def execReadReq (die c : Nat) (data : HostData) (s : State) : Host.Outcome State Fault Refusal :=
  let waiting := match s.conn c with
    | some x => if x.cached && x.die == die then (x.held.find? (fun (k : TPkt) => k.op == 2 && x.ready k.psn)).map (fun k => (k, x)) else none
    | none => none
  match waiting with
  | some (k, x) =>
    .next (((s.modConn c (fun y => { y with held := y.held.erase k })).serveRead k x data).getD s)
  | none =>
    match s.frontPkt die 2 with
    | none => .next s
    | some (k, x) =>
      let n := beVal ((k.ext.drop 12).take 4)
      let bad := decide (n = 0 ∨ n > 2 ^ 30)
      let err := s.regionErr x k.conn (beVal (k.ext.take 4)) (beVal ((k.ext.drop 4).take 8)) n 1
      match x.place k.psn with
      | .dup =>
        let s' := s.receive k x (fun s => (s, .taken))
        if bad || x.held.any (fun h => h.psn == k.psn) then .next s'
        else match err with
        | some sub => .next (s'.sendAck k.conn 1 k.psn sub)
        | none => .next ((s'.serveRead k x data).getD s)
      | .beyond => .next (s.receive k x (fun s => (s, .taken)))
      | .fresh =>
        if bad then .next (s.receive k x (fun s => (s, .nak 3 0)))
        else match err with
        | some sub => .next (s.receive k x (fun s => (s, .nak 1 sub)))
        | none =>
          let s' := s.receive k x (fun s => (s, .taken))
          if k.psn = x.epsn then .next ((s'.serveRead k x data).getD s)
          else .next (s'.modConn k.conn (fun y => { y with held := y.held ++ [k] }))

/-- Performs an admitted FETCH_ADD at the stack controller and answers it; the sixteen last results are kept. -/
def State.serveAdd (s : State) (k : TPkt) : State :=
  let key := beVal (k.ext.take 4)
  let off := beVal ((k.ext.drop 4).take 8)
  match smGet s.tmt.mrs (key % 2 ^ 24) with
  | none => s.sendAck k.conn 1 k.psn 0
  | some r =>
    let a := r.addr + off
    let q := s.busRead a 8
    match q.bytes with
    | none => q.state.sendAck k.conn 4 k.psn 0
    | some b =>
      let old := leVal b
      let s := q.state.busWrite a (leBytes 8 ((old + beVal ((k.ext.drop 16).take 8)) % 2 ^ 64))
      let s := s.modConn k.conn (fun y => { y with adds := ((k.psn, old) :: y.adds).take 16 })
      s.tmtTx k.conn 6 3 0 k.msn (beBytes 4 k.psn ++ beBytes 4 0 ++ beBytes 8 old) []

/-- FETCH_ADD_PACKET, R470, R477, R479: as a READ_REQ; a repeat is answered from the store. -/
def execFetchAddPacket (die c : Nat) (s : State) : Host.Outcome State Fault Refusal :=
  let waiting : Option TPkt := match s.conn c with
    | some x => if x.cached && x.die == die then x.held.find? (fun (k : TPkt) => k.op == 5 && x.ready k.psn) else none
    | none => none
  match waiting with
  | some k => .next ((s.modConn c (fun y => { y with held := y.held.erase k })).serveAdd k)
  | none =>
    match s.frontPkt die 5 with
    | none => .next s
    | some (k, x) =>
      let key := beVal (k.ext.take 4)
      let off := beVal ((k.ext.drop 4).take 8)
      match x.place k.psn with
      | .dup =>
        let s := s.receive k x (fun s => (s, .taken))
        (match x.adds.find? (fun (e : Nat × Nat) => e.1 == k.psn) with
         | some e => .next (s.tmtTx k.conn 6 3 0 k.msn (beBytes 4 k.psn ++ beBytes 4 0 ++ beBytes 8 e.2) [])
         | none => .next s)
      | .beyond => .next (s.receive k x (fun s => (s, .taken)))
      | .fresh =>
        match s.regionErr x k.conn key off 8 2 with
        | some sub => .next (s.receive k x (fun s => (s, .nak 1 sub)))
        | none =>
          let a := (match smGet s.tmt.mrs (key % 2 ^ 24) with | some r => if r.lhost then 2 ^ 48 else r.addr + off | none => 2 ^ 48)
          if space a ≠ Space.stack then .next (s.receive k x (fun s => (s, .nak 3 1)))
          else if a % 8 ≠ 0 then .next (s.receive k x (fun s => (s, .nak 3 2)))
          else
            let s' := s.receive k x (fun s => (s, .taken))
            if k.psn = x.epsn then .next (s'.serveAdd k)
            else .next (s'.modConn k.conn (fun y => { y with held := y.held ++ [k] }))

/-! ### Responses at the requester -/

/-- Takes [o, o + n) out of ranges that are still missing. -/
def takeRange (o n : Nat) (ms : List (Nat × Nat)) : List (Nat × Nat) :=
  ms.flatMap (fun m =>
    let lo := max m.1 o
    let hi := min (m.1 + m.2) (o + n)
    if lo ≥ hi then [m]
    else (if m.1 < lo then [(m.1, lo - m.1)] else []) ++ (if hi < m.1 + m.2 then [(hi, m.1 + m.2 - hi)] else []))

/-- Places returned bytes at a request's local address. -/
def State.placeLocal (s : State) (x : Conn) (r : Req) (off : Nat) (bs : List Byte) : State × Status :=
  if bit r.flags 2 then
    let (st, s) := s.hostPut r.port 2 x.slice r.gen (r.laddr + off) (bit r.flags 3) bs
    (s, st)
  else (s.busWrite (r.laddr + off) bs, .ok)

/-- READ_RESP, R469, R481: the data of the front READ_RESP is placed; a READ with nothing missing is done. -/
def execReadResp (die now : Nat) (s : State) : Host.Outcome State Fault Refusal :=
  if !s.atNow now then .next s
  else match s.frontPkt die 3 with
  | none => .next s
  | some (k, x) =>
    let s := ((s.dropRx k).touchConn k.conn).modConn k.conn (fun y => { y with ce := y.ce + (if k.ce then 1 else 0) })
    let rpsn := beVal (k.ext.take 4)
    match x.reqs.findSome? (fun r => (r.asks.find? (fun a => a.1 == rpsn)).map (fun a => (r, a))) with
    | none => .next s
    | some (r, a) =>
      let off := a.2.1 + beVal ((k.ext.drop 4).take 4)
      if r.done || off + k.payload.length > r.len then .next s
      else
        let (s, st) := s.placeLocal x r off k.payload
        if st = .ok then
          let ms := takeRange off k.payload.length r.missing
          .next (s.modConn k.conn (fun y => y.setReq ({ r with missing := ms, asked := now, places := if ms.isEmpty then 0 else r.places }.settle)))
        else .next (s.modConn k.conn (fun y => y.setReq ((r.refuse st rpsn 0 false).settle)))

/-- FA_RESP, R469: the previous value arrives. -/
def execFaResp (die : Nat) (s : State) : Host.Outcome State Fault Refusal :=
  match s.frontPkt die 6 with
  | none => .next s
  | some (k, x) =>
    let s := ((s.dropRx k).touchConn k.conn).modConn k.conn (fun y => { y with ce := y.ce + (if k.ce then 1 else 0) })
    match x.reqs.find? (fun r => r.op == 4 && r.sent == 1 && r.first == beVal (k.ext.take 4) && !r.done) with
    | none => .next s
    | some r => .next (s.modConn k.conn (fun y => y.setReq { r with value := beVal ((k.ext.drop 8).take 8), done := true }))

/-! ### Congestion window, R484 -/

/-- ECN_CUT of a connection. -/
def Conn.ecnCut (x : Conn) : Nat := getBits x.ccCtl 11 8
/-- REORDER of a connection. -/
def Conn.reorder (x : Conn) : Nat := getBits x.ccCtl 7 0

/-- Growth of the window by n newly acknowledged packets. -/
def growWindow (ssthresh : Nat) : Nat → Nat → Nat
  | 0, w => w
  | n + 1, w => growWindow ssthresh n (w + (if w < ssthresh then 256 else 65536 / w))

/-- cc_ack. -/
def Conn.ccAck (x : Conn) (newly ece ackPsn : Nat) : Conn :=
  if ece ≠ 0 then
    if psnDiff ackPsn x.cut ≥ 0 then
      let w := max 512 (x.cwnd - x.cwnd * x.ecnCut / 16)
      { x with cwnd := w, ssthresh := w, cut := x.nextPsn }
    else x
  else { x with cwnd := min (growWindow x.ssthresh newly x.cwnd) 1048576 }

/-- cc_loss. -/
def Conn.ccLoss (x : Conn) (psn : Nat) : Conn :=
  if psnDiff psn x.cut ≥ 0 then
    let w := max 512 (x.cwnd / 2)
    { x with cwnd := w, ssthresh := w, cut := x.nextPsn }
  else x

/-- cc_timeout. -/
def Conn.ccTimeout (x : Conn) : Conn := { x with ssthresh := max 512 (x.cwnd / 2), cwnd := 512, cut := x.nextPsn }

/-! ### Round trips, R482 -/

/-- RTO_MIN_US and RTO_MAX_MS of a connection, in ns. -/
def Conn.rtoMin (x : Conn) : Nat := getBits x.rtoCtl 15 0 * 1000
/-- RTO_MAX in ns. -/
def Conn.rtoMax (x : Conn) : Nat := getBits x.rtoCtl 31 16 * 1000000

/-- The computed RTO; RTO_MIN before the first measurement. -/
def Conn.rtoNow (x : Conn) : Nat :=
  match x.srtt with
  | none => x.rtoMin
  | some r => max x.rtoMin (min x.rtoMax (r + 4 * x.rttvar))

/-- Takes a measured round trip, gains 1/8 and 1/4 (the first sample as RFC 6298 has it, log entry 17). -/
def Conn.sample (x : Conn) (r : Nat) : Conn :=
  match x.srtt with
  | none => { x with srtt := some r, rttvar := r / 2 }
  | some m =>
    let d := if m < r then r - m else m - r
    { x with srtt := some ((7 * m + r) / 8), rttvar := (3 * x.rttvar + d) / 4 }

/-! ### ACK, R481 -/

/-- Is a PSN acknowledged by an ACK with this ACK_PSN and SACK? -/
def ackedBy (ackPsn : Nat) (sack : List Nat) (psn : Nat) : Bool :=
  decide (psnDiff psn ackPsn < 0) || sack.any (fun i => (ackPsn + 1 + i) % 2 ^ 32 == psn)

/-- The bits set in SACK bytes. -/
def sackSet (bs : List Byte) : List Nat :=
  (List.range 256).filter (fun i => bit ((bs.getD (i / 8) 0).toNat) (7 - i % 8))

/-- The status that a NAK gives its request. -/
def nakStatus (code sub : Nat) : Status :=
  if code = 1 then (if sub = 1 then .regionRevoked else .accessFault) else if code = 3 then .remoteInvalid else .poisoned

/-- RNR_RETRY of a connection. -/
def Conn.rnrRetry (x : Conn) : Nat := getBits x.retryCtl 11 8
/-- RETRY_MAX of a connection. -/
def Conn.retryMax (x : Conn) : Nat := getBits x.retryCtl 3 0

/-- The outstanding request that sent a PSN. -/
def Conn.reqOf (x : Conn) (psn : Nat) : Option Req :=
  match x.pkts.find? (fun p => p.psn == psn) with
  | some p => x.reqs.find? (fun r => r.msn == p.msn)
  | none => x.reqs.find? (fun r => !r.done && decide (r.op ≠ 2 ∧ 0 < r.sent ∧ psnDiff psn r.first ≥ 0 ∧ psnDiff psn r.first < r.sent) ||
      r.asks.any (fun a => a.1 == psn))

/-- Applies the CODE of an ACK to the packet it names. -/
def Conn.applyCode (x : Conn) (code npsn sub now : Nat) : Conn :=
  match x.reqOf npsn with
  | none => x
  | some r =>
    if r.done then x
    else if code = 5 then (if r.op = 3 then x.setReq { r with done := true } else x)
    else if code = 2 then
      (match x.pkts.find? (fun p => p.psn == npsn) with
       | some p =>
         if p.phase ≥ 2 then x
         else if p.rnr + 1 ≥ x.rnrRetry then { x with pkts := x.pkts.erase p }.setReq ({ r.refuse .targetBusy npsn sub true with acked := r.acked + 1 }.settle)
         else { x with pkts := x.pkts.map (fun (q : SentPkt) => if q.psn = npsn then { q with phase := 2, rnr := q.rnr + 1, sentAt := now } else q) }
       | none => x)
    else if code = 0 then x
    else x.setReq ((r.refuse (nakStatus code sub) npsn sub true).settle)

/-- Takes one packet as acknowledged: its round trip where it was sent once, its request's count. -/
def Conn.ackOne (x : Conn) (p : SentPkt) (now : Nat) : Conn :=
  let x := if p.times = 1 then x.sample (now - p.sentAt) else x
  match x.reqs.find? (fun r => r.msn == p.msn) with
  | some r => x.setReq ({ r with acked := r.acked + 1, asked := if r.op = 2 then now else r.asked }.settle)
  | none => x

/-- The timer runs from now while any packet is in flight (R482). -/
def Conn.retime (x : Conn) (now : Nat) : Conn := { x with timer := if x.pkts.any (fun p => p.phase == 0) then some now else none }

/-- The whole of an ACK or NAK at the sender. One that acknowledges nothing new shows no loss (R486). -/
def Conn.takeAck (x : Conn) (ackPsn : Nat) (sack : List Nat) (code npsn sub ece now : Nat) : Conn :=
  let busy := if code = 2 then x.pkts.find? (fun p => p.psn == npsn && decide (p.phase < 2)) else none
  let x := match busy with
    | some p => (if p.times = 1 then x.sample (now - p.sentAt) else x).applyCode code npsn sub now
    | none => x
  let hit := fun (p : SentPkt) => decide (p.phase < 2) && decide (p.times > 0) && ackedBy ackPsn sack p.psn
  let acked := x.pkts.filter hit
  let x := { x with pkts := x.pkts.filter (fun p => !hit p) }
  let x := acked.foldl (fun x p => x.ackOne p now) x
  let x := if code = 0 || code = 2 then x else x.applyCode code npsn sub now
  if acked.isEmpty && busy.isNone then x else
  let x := x.ccAck (acked.length + (if busy.isSome then 1 else 0)) ece ackPsn
  let lost := x.pkts.filter (fun p => p.phase == 0 && decide ((sack.filter (fun i => decide (psnDiff ((ackPsn + 1 + i) % 2 ^ 32) p.psn > 0))).length ≥ x.reorder))
  let x := lost.foldl (fun x p => { x with pkts := x.pkts.map (fun (q : SentPkt) => if q.psn = p.psn then { q with phase := 1 } else q) }.ccLoss p.psn) x
  { x with expiries := 0, rto := x.rtoNow }.retime now

/-- ACK, R481 to R484: the front ACK of a die. The probe's acknowledgement establishes its connection (R494). -/
def execAck (die now : Nat) (s : State) : Host.Outcome State Fault Refusal :=
  if !s.atNow now then .next s
  else match s.frontPkt die 0x10 with
  | none => .next s
  | some (k, x) =>
    let c := k.conn
    let s := ((s.dropRx k).touchConn c).modConn c (fun y => { y with ce := y.ce + (if k.ce then 1 else 0) })
    let ackPsn := beVal (k.ext.take 4)
    let sack := sackSet ((k.ext.drop 8).take 32)
    let code := beVal ((k.ext.drop 44).take 1)
    if x.state = 2 then
      if ackedBy ackPsn sack 0 then
        let s := s.modConn c (fun y => { y with state := 3, pkts := [], probing := none, timer := none })
        .next (match x.probing with
          | some (sq, reqId) => s.setupDone (if sq < 65536 then some sq else none) 0x11 reqId c .ok 0
          | none => s)
      else .next s
    else .next (s.modConn c (fun y => y.takeAck ackPsn sack code (beVal ((k.ext.drop 40).take 4)) (beVal ((k.ext.drop 45).take 1))
      (beVal ((k.ext.drop 46).take 2)) now))

/-- ACK_DELAY_EXPIRY, R480: ACK_DELAY_NS after the earliest packet that no ACK covers, one leaves. -/
def execAckDelayExpiry (c : Nat) (s : State) : Host.Outcome State Fault Refusal :=
  match s.conn c with
  | some x => .next (if x.since = 0 || !s.mayHavePassed x.ackTick (getBits x.ackCtl 15 0) then s else if x.cached then s.sendAck c 0 0 0 else s.needConn c)
  | none => .next s

/-- A READ whose bytes have not all come one RTO after they last moved is asked again for what is missing: new PSNs, the same message. -/
def Conn.askAgain (x : Conn) (now : Nat) : Conn :=
  x.reqs.foldl (fun x r =>
    if r.op = 2 && !r.done && r.status == .ok && decide (r.sent ≥ 1) && !r.missing.isEmpty && !(x.pkts.any (fun p => p.msn == r.msn)) && decide (r.asked + x.rto ≤ now)
    then
      let ps : List SentPkt := r.missing.mapIdx (fun i m =>
        { psn := (x.nextPsn + i) % 2 ^ 32, msn := r.msn, off := m.1, len := m.2, phase := 1, times := 0, sentAt := now, rnr := 0 })
      { x with pkts := x.pkts ++ ps, nextPsn := (x.nextPsn + ps.length) % 2 ^ 32 }.setReq
        { r with n := r.n + ps.length, sent := r.sent + ps.length, places := 0, asks := r.asks ++ ps.map (fun (p : SentPkt) => (p.psn, p.off, p.len)), asked := now }
    else x) x

/-- RETRANSMISSION_TIMEOUT, R481, R482: one RTO after the timer started, or after a READ's bytes last moved. -/
def execRetransmissionTimeout (c now : Nat) (s : State) : Host.Outcome State Fault Refusal :=
  match s.conn c with
  | none => .next s
  | some x =>
    if !s.atNow now || !(x.state == 3 || x.state == 5) then .next s
    else if !x.cached then .next (s.needConn c)
    else
      let due := match x.timer with | some t => decide (t + x.rto ≤ now) && x.pkts.any (fun p => p.phase == 0) | none => false
      let again := x.askAgain now
      if !due && again == x then .next s
      else
        let s := (s.touchConn c).fadd TMT_CNT_RTO_COUNT 1 x.die
        if x.expiries + 1 ≥ x.retryMax then .next ((s.breakConn c .retryExceeded).event TMT_ERR_STATUS_CONN_FAIL x.die)
        else
          let y := { again with pkts := again.pkts.map (fun (p : SentPkt) => if p.phase = 0 then { p with phase := 1 } else p),
                                expiries := x.expiries + 1, rto := min x.rtoMax (2 * x.rto), timer := none }
          .next (s.modConn c (fun z => { y.ccTimeout with used := z.used }))

/-- How long a packet waits after its NAK_RNR, in ns (R473): RNR_US, doubled at each refusal after the first. -/
def Conn.rnrWait (x : Conn) (p : SentPkt) : Nat := getBits x.retryCtl 31 24 * 1000 * 2 ^ (p.rnr - 1)

/-- RNR_RESEND, R473: the delay of a packet refused with NAK_RNR is over. -/
def execRnrResend (c psn : Nat) (s : State) (now : Nat := 0) : Host.Outcome State Fault Refusal :=
  .next (if s.atNow now then s.modConn c (fun x => { x with pkts := x.pkts.map (fun (p : SentPkt) =>
      if p.psn = psn ∧ p.phase = 2 ∧ p.sentAt + x.rnrWait p ≤ now then { p with phase := 3 } else p) })
    else s)

/-! ### Sender completions, R472 -/

/-- BYTES of a request's entry. -/
def Req.bytesOut (r : Req) (payload : Nat) : Nat :=
  if r.op ≤ 1 then (if r.status = .ok then r.len else min r.len ((psnDiff r.stPsn r.first).toNat * payload))
  else if r.op = 2 then (if r.status = .ok then r.len else r.len - (r.missing.map (·.2)).sum)
  else 0

/-- SENDER_COMPLETION, R472: the oldest request of a connection is done; its entry is written once its queue has room. A closing
connection with nothing left becomes FREE. A result of the device's own request is handed to the storage controllers (R413) and Varnish. -/
def execSenderCompletion (c : Nat) (s : State) : Host.Outcome State Fault Refusal :=
  match s.conn c with
  | none => .next s
  | some x =>
    match x.reqs with
    | [] => .next (if x.state = 5 then s.freeConn c else s)
    | r :: rs =>
      if !r.done then .next s
      else
        let fl := (if r.remote then 4 else 0) + (if r.retried then 8 else 0)
        let e := tmtEntry r.wrid r.value (r.bytesOut x.payload) 0 c r.op r.status r.sub fl
        let fin := fun (s : State) => let s := s.setConn c { x with reqs := rs }; if rs.isEmpty && x.state == 5 then s.freeConn c else s
        match r.origin with
        | .device t => .next (fin (s.setTmt { s.tmt with results := smSet s.tmt.results t (r.status, r.value, []) })).deviceResults
        | .sq k =>
          if bit r.flags 0 && r.status == .ok then .next (fin s)
          else match smGet s.tmt.cqs (s.cqOf k) with
          | none => .next (fin s)
          | some q => if q.room 1 then .next ((fin s).writeCq (s.cqOf k) e) else .next s

end Machine
end Sys2Proof
end

