-- ==== Sys2Proof/Machine/TmtSetup.lean ====
section
/-!
DEFINITION. TMT connections, contexts and regions (spec 20): OPEN, BIND and CLOSE with their limits, the context cache, region
registration and revocation, and the queues' creation (R466).
-/
namespace Sys2Proof
namespace Machine

/-! ### The context cache, R496 to R500 -/

/-- Contexts of a die on chip. -/
def State.cachedOn (s : State) (die : Nat) : Nat := smCount s.tmt.conns (fun x => x.cached && x.die == die)

/-- Internal address of a context in stack memory. -/
def ctxAddr (backing : Nat) : Addr := backing / 64 * 0x10000 + backing % 64 * 1024

/-- The least recently used context of a die that may be evicted: none with packets that have reached it. -/
def State.lruConn (s : State) (die : Nat) : Option Nat :=
  (s.tmt.conns.foldl (fun (m : Option (Nat × Nat)) e =>
    if e.2.cached && e.2.die == die && !e.2.pinned && e.2.state != 4 && !(s.tmt.rx.any (fun k => k.conn == e.1)) then
      match m with
      | some (_, u) => if e.2.used < u then some (e.1, e.2.used) else m
      | none => some (e.1, e.2.used)
    else m) none).map (·.1)

/-- A fetch or write-back failed, R500: the connection breaks. -/
def State.ctxFault (s : State) (c : Nat) (die : Nat) : State := (s.breakConn c .connBroken).event TMT_CTX_ERR_CTX_FAULT die

/-- Writes the least recently used context of a die back and frees its place in the cache; its 1 KiB layout is private, so its bytes
are free values. -/
def State.evict (s : State) (die : Nat) : State :=
  match s.lruConn die with
  | none => s
  | some c =>
    match s.conn c with
    | none => s
    | some x =>
      let (v, s) := s.fresh 8192
      let bs := leBytes 1024 v
      let s := s.fadd TMT_CNT_EVICT_COUNT 1 die
      let out := fun (s : State) => s.modConn c (fun y => { y with cached := false, copy := bs })
      if x.hostCtx then
        let (st, s) := s.hostPut x.ctxPort 2 x.slice (s.curGen x.slice) x.ctxAddr false bs
        if st = .ok then out s else s.ctxFault c die
      else out (s.busWrite (ctxAddr x.backing) bs)

/-- Makes room for one more context of a die. -/
def State.makeRoom (s : State) (die : Nat) : State := if s.cachedOn die ≥ 4096 then s.evict die else s

/-- Do packets wait for a context whose fetch has not begun, where fewer than 64 fetches of the die are in flight (R497)? -/
def State.ctxNeeded (s : State) (c die : Nat) : Bool :=
  s.tmt.miss.any (fun k => k.conn == c) && decide ((s.tmt.fetch.filter (fun d => (s.conn d).any (fun y => y.die == die))).length < 64)

/-- CONTEXT_FETCH, R497 to R500: a context comes on chip, after an eviction where the cache is full, and its waiting packets are
served in arrival order. `got` is what a read of a host context brings. -/
def execContextFetch (c : Nat) (got : HostData) (s : State) : Host.Outcome State Fault Refusal :=
  match s.conn c with
  | none => .next s
  | some x =>
    if x.cached || !(s.tmt.fetch.contains c || s.ctxNeeded c x.die) || (decide (s.cachedOn x.die ≥ 4096) && (s.lruConn x.die).isNone) then .next s
    else
      let s0 := s
      let s := s.makeRoom x.die
      let done := fun (s : State) =>
        let s := (s.modConn c (fun y => { y with cached := true })).touchConn c
        s.setTmt { s.tmt with fetch := s.tmt.fetch.erase c, miss := s.tmt.miss.filter (fun k => k.conn != c),
                              rx := s.tmt.rx ++ s.tmt.miss.filter (fun k => k.conn == c) }
      if x.hostCtx then
        match s.hostGet x.ctxPort x.slice (s.curGen x.slice) x.ctxAddr 1024 got 2 with
        | (s, (.ok, bs)) => if bs.length ≠ 1024 then .next s0 else .next (if bs = x.copy then done s else s.ctxFault c x.die)
        | (s, _) => .next (s.ctxFault c x.die)
      else
        let r := s.busRead (ctxAddr x.backing) 1024
        .next (if r.bytes = some x.copy then done r.state else r.state.ctxFault c x.die)

/-! ### OPEN, R489, R493, R523 -/

/-- A slot number for a context in stack memory: a free one of a region that holds the slice's contexts, or slot 0 of a new region. -/
def State.ctxSlot (s : State) (sl region : Nat) : Option (Nat × Bool) :=
  let mine := s.tmt.conns.filter (fun e => !e.2.hostCtx && e.2.slice == sl)
  let regions := (mine.map (fun e => e.2.backing / 64)).eraseDups
  let free := regions.findSome? (fun r =>
    ((List.range 64).find? (fun k => !mine.any (fun e => e.2.backing == r * 64 + k))).map (r * 64 + ·))
  match free with
  | some b => some (b, false)
  | none => if s.regionFree region && (sl == 64 || s.fits sl 1) then some (region * 64, true) else none

/-- A key slot by number. -/
def State.keySlot (s : State) (k : Nat) : KeySlot :=
  smGetD s.cph.slots k { state := 0, slice := if k ≥ 1024 then 64 else 0, klen := 0, usage := 0, key := [], salts := [], drainCh := 320, toFree := false }

/-- May a connection of a slice seal with a slot under a transmit salt, R493, R523? -/
def State.saltOk (s : State) (sl k salt : Nat) : Bool :=
  let e := s.keySlot k
  e.state == 2 && e.slice == sl && bit e.usage 3 && !e.salts.contains salt &&
    decide (e.salts.length < (if k ≥ 1024 then 256 else 64))

/-- A context as OPEN makes it. -/
def Conn.opened (sl die port flags payload dscp tci ctx ctxPort tcq key txs rxs flag backing : Nat) : Conn :=
  { slice := sl, die := die, port := port, state := 1, incarn := 0, flags := flags, payload := payload, dscp := dscp, tci := tci,
    ctxAddr := ctx, ctxPort := ctxPort, tcq := tcq, key := key, txSalt := txs, rxSalt := rxs, flagWord := flag, peerConn := 0, peerIncarn := 0,
    peerIp := 0, nextHop := 0, ccCtl := 0, ackCtl := 0, rtoCtl := 0, retryCtl := 0, backing := backing, cached := true, used := 0, copy := [],
    iv := 0, nextPsn := 0, msn := 0, cwnd := 0, ssthresh := 1048576, cut := 0, srtt := none, rttvar := 0, rto := 0, timer := none,
    expiries := 0, reqs := [], ghosts := [], pkts := [], epsn := 0, rmap := 0, high := 2 ^ 32 - 1, ce := 0, since := 0, ackTick := 0, refused := [],
    rnr := [], priors := [], imms := [], flushes := [], held := [], adds := [], wrote := [], probing := none, closing := none, stateTick := 0 }

/-- Puts an opened connection under the lowest free number, with its incarnation (R493): one more than the number last had. -/
def State.enterConn (s : State) (x : Conn) : Option (State × Nat × Nat) :=
  match smLowestFree s.tmt.conns (fun _ => true) 0 65536 with
  | none => none
  | some c =>
    let inc := match smGet s.tmt.incarns c with | some i => (i + 1) % 65536 | none => 0
    let s := s.makeRoom x.die
    let s := s.setTmt { s.tmt with incarns := smSet s.tmt.incarns c inc, conns := smSet s.tmt.conns c { x with incarn := inc } }
    some (s.touchConn c, c, inc)

/-- Takes the front request of a die's setup FIFO where firmware serves it (R491) and it has the row's opcode. -/
def State.takeSetupReq (s : State) (die op : Nat) : Option (SetupReq × State) :=
  if s.fwRuns then
    match s.tmt.setup.find? (fun r => r.die == die) with
    | some r => if leField r.bytes 0 1 = op then some (r, s.setTmt { s.tmt with setup := s.tmt.setup.erase r }) else none
    | none => none
  else none

/-- The port a setup queue's host addresses go through. -/
def State.setupPort (s : State) (sq : Nat) : Nat :=
  (match smGet s.tmt.sqs sq with
   | some q => (match q.port with | some p => some p | none => s.drvPort q.slice)
   | none => none).getD 0

/-- OPEN, R489, R493, R523: reserves a connection number and context. `region` is the 64 KiB region firmware takes where the slice
needs a new one for contexts. -/
def execOpenConn (die region : Nat) (s : State) : Host.Outcome State Fault Refusal :=
  match s.takeSetupReq die 0x10 with
  | none => .next s
  | some (r, s) =>
    let d := r.bytes
    let sl := r.sq / 256
    let fl := leField d 1 1
    let port := leField d 2 1
    let pay := leField d 3 1
    let ctx := leField d 8 8
    let tcq := leField d 0x10 2
    let key := leField d 0x12 2
    let txs := leField d 0x14 4
    let flag := leField d 0x20 8
    let fail := fun (s : State) (st : Status) => Host.Outcome.next (s.setupDone (some r.sq) 0x10 (leField d 0x30 8) 0 st 0)
    let hp := s.setupPort r.sq
    let frame := 1024 * 2 ^ pay + 82 + (if bit fl 0 then 20 else 0) + (if bit fl 1 then 4 else 0) + (if bit fl 2 then 24 else 0)
    let unlisted := zeros ((d.drop 5).take 1) && zeros ((d.drop 0x1C).take 4) && zeros ((d.drop 0x28).take 8) && zeros (d.drop 0x38)
    if fl ≥ 32 ∨ !unlisted ∨ !s.portPresent die port ∨ pay > 3 ∨ leField d 4 1 > 63 ∨ (bit fl 4 ∧ ctx % 1024 ≠ 0) ∨
        (bit fl 2 ∧ txs = leField d 0x18 4) then fail s .badDescriptor
    else if frame > s.fget PKT_MODE_MAX_FRAME die then fail s .badDescriptor
    else if !(tcq == 0xFFFF || (smGet s.tmt.cqs (sl * 256 + tcq)).isSome) || (bit fl 2 && !s.saltOk sl key txs) ||
        !(flag == 0 || s.flagOk sl none flag) then fail s .badHandle
    else match (if bit fl 4 then s.localErr sl hp ctx 1024 true false <|> s.localErr sl hp ctx 1024 true true else none) with
    | some st => fail s st
    | none =>
      let pinned := smCount s.tmt.conns (fun x => x.pinned && x.die == die)
      if s.connCount sl ≥ s.quota sl 9 ∨ (bit fl 3 ∧ pinned ≥ 1024) then fail s .quotaExceeded
      else match (if bit fl 4 then some (0, false) else s.ctxSlot sl region) with
      | none => fail s .quotaExceeded
      | some (backing, isNew) =>
        let x := Conn.opened sl die port fl (1024 * 2 ^ pay) (leField d 4 1) (leField d 6 2) ctx hp tcq key txs (leField d 0x18 4) flag backing
        match s.enterConn x with
        | none => fail s .quotaExceeded
        | some (s, c, inc) =>
          let s := if isNew then s.takeRegions (128 + sl) [region] else s
          let e := s.keySlot key
          let s := if bit fl 2 then { s with cph := { s.cph with slots := smSet s.cph.slots key { e with salts := e.salts ++ [txs] } } } else s
          .next (s.setupDone (some r.sq) 0x10 (leField d 0x30 8) c .ok (c + inc * 65536))

/-! ### BIND and the probe, R494 -/

/-- Starts the probe of a connection: parameters of the die as they stand (R487), PSN 0 sent, the first request's PSN 1. -/
def State.startProbe (s : State) (c : Nat) (peer incarn ip hop : Nat) (asker : Option (Nat × Nat)) : State :=
  match s.conn c with
  | none => s
  | some x =>
    let cc := s.rget TMT_CC_CTL x.die
    let rto := s.rget TMT_RTO_CTL x.die
    let p : SentPkt := { psn := 0, msn := 0, off := 0, len := 0, phase := 0, times := 1, sentAt := 10000 * s.pw.onTicks, rnr := 0 }
    let x := { x with state := 2, peerConn := peer, peerIncarn := incarn, peerIp := ip, nextHop := hop, ccCtl := cc,
                      ackCtl := s.rget TMT_ACK_CTL x.die, rtoCtl := rto, retryCtl := s.rget TMT_RETRY_CTL x.die,
                      cwnd := getBits cc 28 16 * 256, ssthresh := 1048576, rto := getBits rto 15 0 * 1000, nextPsn := 1, cut := 0,
                      msn := max x.msn 1, pkts := [p], probing := some (asker.getD (65536, 0)), stateTick := s.pw.onTicks }
    (s.setConn c x).tmtTx c 4 7 0 0 [] []

/-- BIND, R489, R494: records the peer of an OPENED connection and starts the probe. It completes when the probe ends. -/
def execBindConn (die : Nat) (s : State) : Host.Outcome State Fault Refusal :=
  match s.takeSetupReq die 0x11 with
  | none => .next s
  | some (r, s) =>
    let d := r.bytes
    let c := leField d 4 4
    match s.conn c with
    | some x =>
      if x.state = 1 ∧ x.slice = r.sq / 256 ∧ x.die = die then
        if !x.cached then .next (s.setTmt { s.tmt with setup := r :: s.tmt.setup } |>.needConn c)
        else
          -- an address of 16 bytes in network order; IPv4 in its last four
          .next (s.startProbe c (leField d 0xA 2) (leField d 8 2) (beVal ((d.drop 0x10).take 16)) (beVal ((d.drop 0x20).take 6))
            (some (r.sq, leField d 0x30 8)))
      else .next (s.setupDone (some r.sq) 0x11 (leField d 0x30 8) (c % 65536) .badHandle 0)
    | none => .next (s.setupDone (some r.sq) 0x11 (leField d 0x30 8) (c % 65536) .badHandle 0)

/-- PROBE_SEND, R494: PROBE_MS after the last copy, the probe is sent again and counts as a resend. -/
def execProbeSend (c now : Nat) (s : State) : Host.Outcome State Fault Refusal :=
  match s.conn c with
  | none => .next s
  | some x =>
    if x.state ≠ 2 || !s.atNow now || x.pkts.any (fun p => decide (now < p.sentAt + 1000000 * s.fget TMT_SETUP_CTL_PROBE_MS x.die)) then .next s
    else if !x.cached then .next (s.needConn c)
    else
      let s := s.modConn c (fun y => { y with pkts := y.pkts.map (fun (p : SentPkt) => { p with times := p.times + 1, sentAt := now }) })
      .next ((s.fadd TMT_CNT_RETX_COUNT 1 x.die).tmtTx c 4 7 0 0 [] [])

/-- PROBE_TIMEOUT, R494: SETUP_S passes without an acknowledgement, so the BIND fails and the connection is OPENED again. -/
def execProbeTimeout (c : Nat) (s : State) : Host.Outcome State Fault Refusal :=
  match s.conn c with
  | none => .next s
  | some x =>
    if x.state ≠ 2 || s.pw.onTicks - x.stateTick < 100000 * s.fget TMT_SETUP_CTL_SETUP_S x.die then .next s
    else
      let s := s.setConn c { x with state := 1, pkts := [], probing := none }
      .next (match x.probing with
        | some (sq, reqId) => s.setupDone (if sq < 65536 then some sq else none) 0x11 reqId c .setupTimeout 0
        | none => s)

/-! ### CLOSE, R495 -/

/-- CLOSE, R489, R495: accepted requests finish, or break at once under ABORT; the completion comes when the connection is FREE. -/
def execClose (die : Nat) (s : State) : Host.Outcome State Fault Refusal :=
  match s.takeSetupReq die 0x12 with
  | none => .next s
  | some (r, s) =>
    let c := leField r.bytes 4 4
    let id := leField r.bytes 0x30 8
    match s.conn c with
    | some x =>
      if x.slice = r.sq / 256 ∧ x.die = die ∧ x.state ≠ 5 then .next (s.closeConn c (bit (leField r.bytes 1 1) 0) (some (r.sq, id)))
      else .next (s.setupDone (some r.sq) 0x12 id (c % 65536) .badHandle 0)
    | none => .next (s.setupDone (some r.sq) 0x12 id (c % 65536) .badHandle 0)

/-- CLOSE_TIMEOUT, R495: CLOSE_MS passes, so outstanding requests break, and the context is freed once their entries are written. -/
def execCloseTimeout (c : Nat) (s : State) : Host.Outcome State Fault Refusal :=
  match s.conn c with
  | none => .next s
  | some x =>
    if x.state ≠ 5 || s.pw.onTicks - x.stateTick < 100 * s.fget TMT_CLOSE_CTL_CLOSE_MS x.die then .next s
    else
      let s := s.setConn c { x with reqs := endReqs .connBroken x.reqs, pkts := [] }
      .next (if x.reqs.isEmpty then s.freeConn c else s)

/-! ### Regions, R501 to R505 -/

/-- Valid regions, of a slice and in all. -/
def State.mrCount (s : State) (p : Nat → Bool) : Nat := smCount s.tmt.mrs (fun r => r.valid && p r.slice)

/-- The lowest usable index. -/
def State.freeIndexMr (s : State) : Option Nat := smLowestFree s.tmt.mrs (fun r => r.valid || r.retired) 0 16384

/-- Registers a region: its key, under the index's next epoch. -/
def State.enterMr (s : State) (sl perm rconn : Nat) (lhost : Bool) (port addr len : Nat) : Option (State × Nat) :=
  match s.freeIndexMr with
  | none => none
  | some i =>
    let e := match smGet s.tmt.mrs i with | some r => r.epoch + 1 | none => 0
    let r : Region := { valid := true, slice := sl, perm := perm, rconn := rconn, lhost := lhost, port := port, addr := addr, len := len,
                        epoch := e, retired := false }
    some (s.setTmt { s.tmt with mrs := smSet s.tmt.mrs i r }, e * 2 ^ 24 + i)

/-- The range check of MR_REG, R501. -/
def State.mrRangeErr (s : State) (sl perm : Nat) (lhost : Bool) (port addr len : Nat) : Option Status :=
  if lhost then
    match (if bit perm 1 then s.localErr sl port addr len true false else none) with
    | some st => some st
    | none => if bit perm 0 then s.localErr sl port addr len true true else none
  else match space addr, space (addr + len - 1) with
  | .stack, .stack => if s.ownsStack sl addr len then none else some .accessFault
  | .staging m o, .staging k _ => if m = k ∧ s.ownsStaging sl m o len then none else some .accessFault
  | .unmapped, _ => some .unmapped
  | _, .unmapped => some .unmapped
  | _, _ => some .accessFault

/-- MR_REG, R489, R501: registers a region and returns its key. -/
def execMrReg (die : Nat) (s : State) : Host.Outcome State Fault Refusal :=
  match s.takeSetupReq die 0x13 with
  | none => .next s
  | some (r, s) =>
    let d := r.bytes
    let sl := r.sq / 256
    let lhost := bit (leField d 1 1) 2
    let perm := leField d 2 1
    let rc := leField d 4 4
    let addr := leField d 8 8
    let len := leField d 0x10 8
    let port := s.setupPort r.sq
    let fin := fun (s : State) (st : Status) (v : Nat) => Host.Outcome.next (s.setupDone (some r.sq) 0x13 (leField d 0x30 8) 0 st v)
    let foreign := rc != 0xFFFFFFFF && (s.conn rc).any (fun x => x.slice != sl)
    if perm = 0 ∨ perm > 7 ∨ (bit perm 2 ∧ lhost) ∨ foreign ∨ len = 0 ∨ len > 2 ^ 40 ∨ (leField d 1 1 ≠ 0 ∧ leField d 1 1 ≠ 4) then fin s .badDescriptor 0
    else match s.mrRangeErr sl perm lhost port addr len with
    | some st => fin s st 0
    | none =>
      if s.mrCount (· == sl) ≥ 1024 then fin s .quotaExceeded 0
      else match s.enterMr sl perm rc lhost port addr len with
      | none => fin s .quotaExceeded 0
      | some (s, k) => fin s .ok k

/-- Advances a region's epoch, as MR_REVOKE does on both dies (R504). -/
def State.startRevoke (s : State) (i : Nat) (r : Region) (free : Bool) (sq : Option Nat) (reqId : Nat) : State :=
  let v : Revoke := { index := i, epoch := r.epoch, free := free || r.epoch == 255, sq := sq, reqId := reqId, asked := false, issued := false }
  s.setTmt { s.tmt with mrs := smSet s.tmt.mrs i { r with epoch := r.epoch + 1 }, revokes := s.tmt.revokes ++ [v] }

/-- MR_REVOKE, R504: the epoch of a current key advances on both network dies; the completion follows with REVOKE_COMPLETE. -/
def execMrRevoke (die : Nat) (s : State) : Host.Outcome State Fault Refusal :=
  match s.takeSetupReq die 0x14 with
  | none => .next s
  | some (r, s) =>
    let key := leField r.bytes 4 4
    let id := leField r.bytes 0x30 8
    let i := key % 2 ^ 24
    match smGet s.tmt.mrs i with
    | some m =>
      if m.valid && m.slice == r.sq / 256 && m.epoch == key / 2 ^ 24 then .next (s.startRevoke i m (bit (leField r.bytes 1 1) 0) (some r.sq) id)
      else .next (s.setupDone (some r.sq) 0x14 id 0 .badHandle 0)
    | none => .next (s.setupDone (some r.sq) 0x14 id 0 .badHandle 0)

/-- Is a packet admitted under a key still to be served? -/
def State.keyHeld (s : State) (key : Nat) : Bool :=
  s.tmt.conns.any (fun e => e.2.held.any (fun k => beVal (k.ext.take 4) == key))

/-- REVOKE_COMPLETE, R505: once every packet admitted under the old epoch is finished, with a zero-length read behind writes to
host memory, the revoke completes; under FREE the entry is invalid from then on. -/
def execRevokeComplete (i : Nat) (s : State) : Host.Outcome State Fault Refusal :=
  match s.tmt.revokes.find? (fun v => v.index == i), smGet s.tmt.mrs i with
  | some v, some r =>
    let put := fun (s : State) (w : Revoke) => s.setTmt { s.tmt with revokes := s.tmt.revokes.map (fun u => if u = v then w else u) }
    if s.keyHeld (v.epoch * 2 ^ 24 + i) || v.issued then .next s
    else if r.lhost && bit r.perm 0 && !v.asked then
      match s.issueRead r.port 2 r.slice (s.primaryPasid r.slice r.port) 0 0 false (.tmt (65536 + i) 0 r.port) with
      | some s => .next (put s { v with asked := true, issued := true })
      | none => .next (if (s.port r.port).up then s.awaitIndex r.port 2 (.tmt (65536 + i) 0 r.port) else put s { v with asked := true })
    else
      let s := s.setTmt { s.tmt with revokes := s.tmt.revokes.erase v }
      let s := (if v.free then s.dropRegion i else s).fenceSettle
      .next (s.setupDone v.sq 0x14 v.reqId 0 .ok (if v.free then 0 else r.epoch * 2 ^ 24 + i))
  | _, _ => .next s

/-! ### Queues, R466 -/

/-- TMTQ_CREATE, R466, R488: kind 0 a send queue, 1 a completion queue, 2 a setup queue, in host memory through a port or in the
slice's stack memory; `cq` is the completion queue that a send or setup queue uses (log entry 15). -/
def execTmtqCreate (ch : Nat) (pb : Status) (kind die : Nat) (port : Option Nat) (ring size vec cq : Nat) (s : State) :
    Host.Outcome State Fault Refusal :=
  .next (s.serve ch 0x48 [] 0 .bound true (fun sl s =>
    let entry := if kind = 1 then 32 else 64
    if pb ≠ .ok then refuseCmd s pb
    else if kind > 2 ∨ die > 1 ∨ !isPow2 size ∨ size < 64 ∨ size > 65536 ∨ vec > 511 ∨ port.any (fun p => decide (p > 7)) ∨ ring % entry ≠ 0 then
      refuseCmd s .badDescriptor 1
    else
      let err := match port with
        | some p => s.localErr sl p ring (entry * size) true (kind == 1)
        | none => if s.ownsStack sl ring (entry * size) then none else some .accessFault
      match err with
      | some st => refuseCmd s st 1
      | none =>
        let mine := fun (k : Nat) => k / 256 == sl
        if kind = 1 then
          let used := s.tmt.cqs.filter (fun e => mine e.1)
          if used.length ≥ 256 ∨ s.tmt.cqs.length ≥ 4096 then refuseCmd s .quotaExceeded
          else
            let n := (freeIndex (used.map (fun e => e.1 % 256)) 0 256).getD 0
            let e : TmtCq :=
              { slice := sl, num := n, port := port, ring := ring, size := size, vec := vec, written := 0, head := 0, arm := false,
                err := false, dbErr := 0 }
            okCmd (s.setTmt { s.tmt with cqs := smSet s.tmt.cqs (sl * 256 + n) e }) [n]
        else
          let used := s.tmt.sqs.filter (fun e => mine e.1)
          if (smGet s.tmt.cqs (sl * 256 + cq)).isNone ∨ cq > 255 then refuseCmd s .badHandle 1
          else if used.length ≥ 256 ∨ s.tmt.sqs.length ≥ 4096 then refuseCmd s .quotaExceeded
          else
            let n := (freeIndex (used.map (fun e => e.1 % 256)) 0 256).getD 0
            let e : TmtSq :=
              { slice := sl, num := n, die := die, setup := kind == 2, port := port, ring := ring, size := size, cq := cq, head := 0,
                tail := 0, err := false, dbErr := 0 }
            okCmd (s.setTmt { s.tmt with sqs := smSet s.tmt.sqs (sl * 256 + n) e }) [n]))

/-- TMTQ_DESTROY, R466: a completion queue that a send queue or a connection names is refused with BUSY (log entry 15). -/
def execTmtqDestroy (ch kind q : Nat) (s : State) : Host.Outcome State Fault Refusal :=
  .next (s.serve ch 0x49 [(1, q)] 0 .bound false (fun sl s =>
    let key := sl * 256 + q
    if q > 255 then refuseCmd s .badHandle 1
    else if kind = 1 then
      if (smGet s.tmt.cqs key).isNone then refuseCmd s .badHandle 1
      else if s.tmt.sqs.any (fun e => e.2.slice == sl && e.2.cq == q) || s.tmt.conns.any (fun e => e.2.slice == sl && e.2.tcq == q) then refuseCmd s .busy 1
      else okCmd (s.setTmt { s.tmt with cqs := smDel s.tmt.cqs key, posts := s.tmt.posts.filter (fun x => x.cq != key) })
    else
      if (smGet s.tmt.sqs key).isNone then refuseCmd s .badHandle 1
      else if s.tmt.conns.any (fun e => e.2.reqs.any (fun r => r.origin == .sq key)) then refuseCmd s .busy 1
      else okCmd (s.setTmt { s.tmt with sqs := smDel s.tmt.sqs key })))

end Machine
end Sys2Proof
end

