-- ==== Sys2Proof/Machine/Cipher.lean ====
section
/-!
DEFINITION. Cipher engines and key slots (spec 21): key slots (R510 to R515), requests (R516 to R518) and their completion (R520 to
R522).
-/
namespace Sys2Proof
namespace Machine

/-! ### Key slots, R510 to R515 -/

/-- Replaces a key slot. -/
def State.setKeySlot (s : State) (k : Nat) (e : KeySlot) : State := { s with cph := { s.cph with slots := smSet s.cph.slots k e } }

/-- Slots a slice holds. -/
def State.keysHeld (s : State) (sl : Nat) : Nat := smCount s.cph.slots (fun e => e.state != 0 && e.slice == sl)

/-- The slot a command of a slice names, if it is the slice's own; every other one answers BAD_HANDLE (R510). -/
def State.ownSlot (s : State) (sl k : Nat) : Option KeySlot :=
  let e := s.keySlot k
  if k < 1024 ∧ e.state ≠ 0 ∧ e.slice = sl then some e else none

/-- KEY_ALLOC, R511: the lowest free slice slot, within the quota. -/
def execKeyAlloc (ch : Nat) (s : State) : Host.Outcome State Fault Refusal :=
  .next (s.serve ch 0x4C [] 0 .bound false (fun sl s =>
    if s.keysHeld sl ≥ s.quota sl 12 then refuseCmd s .quotaExceeded
    else match smLowestFree s.cph.slots (fun e => e.state != 0) 0 1024 with
    | none => refuseCmd s .quotaExceeded
    | some k => okCmd (s.setKeySlot k { s.keySlot k with state := 1, slice := sl }) [k]))

/-- Does a 64-byte key block keep to R512? -/
def keyBlockOk (bs : List Byte) : Bool :=
  let klen := leField bs 32 1
  let usage := leField bs 33 1
  decide (klen ≤ 1 ∧ 1 ≤ usage ∧ usage ≤ 15) && (klen == 1 || (bs.drop 16 |>.take 16).all (· == 0)) && (bs.drop 34).all (· == 0)

/-- A slot loaded from a good key block. -/
def KeySlot.load (e : KeySlot) (bs : List Byte) : KeySlot :=
  { e with state := 2, klen := leField bs 32 1, usage := leField bs 33 1, key := bs.take (if leField bs 32 1 = 0 then 16 else 32), salts := [] }

/-- KEY_LOAD, R512: the block is read, then zeroed, whether the load succeeds or not; one whose address fails its check is not
read. -/
def execKeyLoad (ch slot addr : Nat) (s : State) : Host.Outcome State Fault Refusal :=
  .next (s.serve ch 0x4D [(1, slot), (2, addr % 2 ^ 32), (3, addr / 2 ^ 32)] 0 .bound false (fun sl s =>
    match s.ownSlot sl slot with
    | none => refuseCmd s .badHandle 1
    | some e =>
      if e.state ≠ 1 then refuseCmd s .busy 1
      else if addr % 64 ≠ 0 then refuseCmd s .accessFault 2
      else match (s.wakeDomain .portfolio).readBlock sl addr 64 with
      | .error .poisoned => refuseCmd (((s.wakeDomain .portfolio).busWrite addr (leBytes 64 0)).event CPH_ERR_STATUS_LOAD_REJECT) .badDescriptor 2
      | .error _ => refuseCmd s .accessFault 2
      | .ok (s, bs) =>
        let s := s.busWrite addr (leBytes 64 0)
        if keyBlockOk bs then okCmd (s.setKeySlot slot (e.load bs)) [slot]
        else refuseCmd (s.event CPH_ERR_STATUS_LOAD_REJECT) .badDescriptor 2))

/-- Does a connection that is not FREE seal with a slot? -/
def State.slotInUse (s : State) (k : Nat) : Bool := s.tmt.conns.any (fun c => c.2.enc && c.2.key == k)

/-- A slot zeroed: EMPTY, or FREE. -/
def State.zeroSlot (s : State) (k : Nat) (free : Bool) : State :=
  let e := s.keySlot k
  s.setKeySlot k { state := if free then 0 else 1, slice := if free ∧ k < 1024 then 0 else e.slice, klen := 0, usage := 0, key := [], salts := [],
                   drainCh := 320, toFree := false }

/-- KEY_ERASE and KEY_FREE, R511, R514. -/
def eraseKey (ch slot : Nat) (free : Bool) (s : State) : State :=
  s.serve ch (if free then 0x4F else 0x4E) [(1, slot)] 0 .bound false (fun sl s =>
    match s.ownSlot sl slot with
    | none => refuseCmd s .badHandle 1
    | some e =>
      if e.state = 1 then okCmd (if free then s.zeroSlot slot true else s) [slot]
      else if e.state = 3 ∨ s.slotInUse slot then refuseCmd s .busy 1
      else if e.state = 4 then okCmd (s.zeroSlot slot free) [slot]
      else laterCmd (s.setKeySlot slot { e with state := 3, drainCh := ch, toFree := free }))

/-- KEY_ERASE. -/
def execKeyErase (ch slot : Nat) (s : State) : Host.Outcome State Fault Refusal := .next (eraseKey ch slot false s)

/-- KEY_FREE. -/
def execKeyFree (ch slot : Nat) (s : State) : Host.Outcome State Fault Refusal := .next (eraseKey ch slot true s)

/-- The slot a request names. -/
def CipherReq.slot (r : CipherReq) : Nat := leField r.desc 4 2

/-- An erase ends: every copy zeroed and the command complete, R514. -/
def State.endErase (s : State) (slot : Nat) : State :=
  let e := s.keySlot slot
  let s := s.zeroSlot slot e.toFree
  if e.drainCh < 320 then s.ack e.drainCh .ok 0 [slot] else s

/-- KEY_DRAIN_COMPLETE, R514: once no accepted request names the slot. -/
def execKeyDrainComplete (slot : Nat) (s : State) : Host.Outcome State Fault Refusal :=
  if (s.keySlot slot).state = 3 ∧ !s.cph.reqs.any (fun r => r.slot == slot) then .next (s.endErase slot) else .next s

/-- KEY_SLOT_UE, R515: `copy` is the die that found the error, 0 PF0, 1 ND0, 2 ND1. A slot being erased is zeroed with no drain. -/
def execKeySlotUe (slot copy : Nat) (s : State) : Host.Outcome State Fault Refusal :=
  let e := s.keySlot slot
  if (e.state ≠ 2 ∧ e.state ≠ 3) ∨ copy > 2 then .next s
  else
    let s := if copy = 0 then s.event CPH_ERR_STATUS_KEY_UE else s.event CPH_INL_ERR_KEY_UE (copy - 1)
    let s := { s with cph := { s.cph with reqs := s.cph.reqs.map (fun (r : CipherReq) =>
      if r.slot = slot ∧ r.fault.isNone then { r with fault := some .keyFault } else r) } }
    let s := (s.connsWhere (fun c => c.enc && c.key == slot)).foldl (fun s c => s.breakConn c .connBroken) s
    let s := s.setKeySlot slot { e with state := 4 }
    .next (if e.state = 3 then s.endErase slot else s)

/-! ### Requests, R516 to R518 -/

/-- The 64-byte completion record of R520. -/
def cipherRecord (tag : Nat) (st : Status) (info engine bytes el : Nat) (out : List Byte) : List Byte :=
  leBytes 4 tag ++ [BitVec.ofNat 8 st.code, BitVec.ofNat 8 info, BitVec.ofNat 8 engine, 0] ++ leBytes 4 bytes ++ leBytes 4 (min el 0xFFFFFFFF) ++
    (out ++ leBytes 16 0).take 16 ++ leBytes 31 0 ++ [1]

/-- MODE, R516. -/
def cMode (d : List Byte) : Nat := getBits (leField d 1 1) 2 0

/-- DECRYPT. -/
def cDecrypt (d : List Byte) : Bool := bit (leField d 1 1) 3

/-- A FLAGS bit: 0 RO, 1 SRC_INT, 2 DST_INT, 3 AAD_INT, 5 TAG_CHECK. -/
def cFlag (d : List Byte) (i : Nat) : Bool := bit (leField d 2 1) i

/-- LEN in range for its mode, R509. -/
def cLenOk (mode len : Nat) : Bool :=
  decide (len ≤ 2 ^ 30) && (match mode with
    | 0 => decide (16 ≤ len) && len % 16 == 0
    | 1 | 2 | 3 => decide (1 ≤ len)
    | _ => true)

/-- TAGLEN allowed for its mode, R509. -/
def cTagOk (mode t : Nat) : Bool :=
  match mode with
  | 4 => t == 4 || t == 8 || decide (12 ≤ t ∧ t ≤ 16)
  | 5 => decide (8 ≤ t ∧ t ≤ 16)
  | _ => t == 0

/-- Stage 1 of R517: fields as R509 and R516 allow. -/
def cipherFieldsOk (d : List Byte) : Bool :=
  let m := cMode d
  let fl := leField d 2 1
  decide (m ≤ 5 ∧ leField d 1 1 < 16 ∧ fl < 64) && !(m == 5 && cDecrypt d) && cTagOk m (leField d 3 1) && leField d 6 2 == 0 &&
    cLenOk m (leField d 8 4) && (if m == 4 then decide (leField d 0xC 4 ≤ 2 ^ 24) else leField d 0xC 4 == 0 && leField d 0x20 8 == 0) &&
    (m != 5 || leField d 0x18 8 == 0) && leField d 0x28 8 % 32 == 0 && leField d 0x30 8 % 64 == 0 && leField d 0x38 4 == 0 &&
    (!cFlag d 5 || m == 5 || (m == 4 && cDecrypt d))

/-- The USAGE bit of a mode, R512. -/
def usageBit (mode : Nat) : Nat := if mode ≤ 3 then 0 else mode - 3

/-- Stages 2 to 4 of R517. -/
def State.cipherKeyErr (s : State) (sl : Nat) (d : List Byte) : Option Status :=
  match s.ownSlot sl (leField d 4 2) with
  | none => some .badHandle
  | some e => if e.state = 4 then some .keyFault else if e.state ≠ 2 then some .keyInvalid
    else if !bit e.usage (usageBit (cMode d)) then some .keyUsage else none

/-- The check of one range of a request: internal under R377 and R41 (memory only), else translated under R376. -/
def State.cipherRange (s : State) (p sl : Nat) (inside : Bool) (a n : Nat) (write : Bool) : Option Status :=
  if n = 0 then none
  else if inside then
    match s.accessErr sl a n write with
    | some e => some e.status
    | none => if isMemory a n then none else some .accessFault
  else match s.hostWay sl p a n write with
  | .bad st => some st
  | _ => none

/-- Output bytes of a request. -/
def cOutLen (d : List Byte) : Nat := if cMode d = 5 then 0 else leField d 8 4

/-- Stage 5 of R517. -/
def State.cipherRangeErr (s : State) (p sl : Nat) (d : List Byte) : Option Status :=
  s.cipherRange p sl (cFlag d 1) (leField d 0x10 8) (leField d 8 4) false <|>
  s.cipherRange p sl (cFlag d 2) (leField d 0x18 8) (cOutLen d) true <|>
  s.cipherRange p sl (cFlag d 3) (leField d 0x20 8) (leField d 0xC 4) false <|>
  s.cipherRange p sl (cFlag d 1) (leField d 0x28 8) 32 false

/-- A request that fails its checks: nothing but the completion record is written; where CPL_ADDR cannot be, the fault is
logged. -/
def State.cipherBare (s : State) (p sl q : Nat) (d : List Byte) (st : Status) (el : Nat) : State :=
  let cpl := leField d 0x30 8
  let tag := leField d 0x3C 4
  match s.hostWay sl p cpl 64 true with
  | .bad _ => s.faultLog sl 1 st q tag cpl
  | w => ((s.deliverOut p sl (s.curGen sl) q tag st [⟨w.pasid, cpl, false, cipherRecord tag st 0 0 0 el []⟩]).getD (s.holdFull sl))

/-- Requests on an engine's queue. -/
def State.engineLoad (s : State) (e : Nat) : Nat := (s.cph.reqs.filter (fun r => r.engine == e)).length

/-- The engine a request goes to, R518: the enabled one that holds the fewest requests, the lowest-numbered on a tie, while its
queue has room. -/
def State.pickEngine (s : State) : Option Nat :=
  ((List.range 4).filter (fun e => bit (s.fget CPH_CTL_ENG_EN) e && decide (s.engineLoad e < 256))).foldl (fun b e =>
    match b with
    | none => some e
    | some x => if s.engineLoad e < s.engineLoad x then some e else some x) none

/-- Reads bytes of memory burst by burst up to the first poisoned one: the bytes before it. -/
def State.goodPrefix (s : State) (a n : Nat) : Nat → State × List Byte
  | 0 => (s, [])
  | k + 1 =>
    if n = 0 then (s, [])
    else
      let m := min n (32 - a % 32)
      let r := s.busRead a m
      match r.bytes with
      | none => (r.state, [])
      | some bs =>
        let (s, rest) := r.state.goodPrefix (a + m) (n - m) k
        (s, bs ++ rest)

/-- Reads an input of a request: an internal range, or host data that the operand brings. Where the read fails part of the way,
the bytes are those before the failure. -/
def State.cipherRead (s : State) (p sl : Nat) (inside : Bool) (a n : Nat) (got : HostData) : State × HostData :=
  if n = 0 then (s, (.ok, []))
  else if inside then
    let (s, bs) := s.goodPrefix a n (n / 32 + 2)
    (s, (if bs.length < n then Status.poisoned else Status.ok, bs))
  else s.hostGet p sl (s.curGen sl) a n got

/-- A read that brought less than it asked for with status OK is no completion of it. -/
def shortRead (n : Nat) (r : HostData) : Bool := r.1 == Status.ok && decide (r.2.length < n)

/-- Accepts the cipher request at the front of a work queue, R517, R518; a request of another mode or direction waits for its own
command. A request wakes PF0 (R525). -/
def cipherAccept (mode : Nat) (decrypt : Bool) (sl q : Nat) (src aad param : HostData) (el : Nat) (s : State) : State :=
  match s.frontSlot sl q 0x30 2 with
  | (s1, none) => s1
  | (_, some (w, d)) =>
    let p := w.port
    if cMode d ≤ 5 ∧ (cMode d ≠ mode ∨ (mode ≠ 5 ∧ cDecrypt d ≠ decrypt)) then s
    else
      let (s1, _) := (s.wakeDomain .portfolio).popSlot w
      let bad := if !cipherFieldsOk d then some Status.badDescriptor else s.cipherKeyErr sl d <|> s.cipherRangeErr p sl d
      match bad with
      | some st => s1.cipherBare p sl q d st el
      | none =>
        match s.pickEngine with
        | none => s
        | some e =>
          match s.hostWay sl p (leField d 0x30 8) 64 true with
          | .bad st => s1.faultLog sl 1 st q (leField d 0x3C 4) (leField d 0x30 8)
          | cpl =>
            let (s2, par) := s1.cipherRead p sl (cFlag d 1) (leField d 0x28 8) 32 param
            let (s3, ad) := s2.cipherRead p sl (cFlag d 3) (leField d 0x20 8) (leField d 0xC 4) aad
            let (s4, data) := s3.cipherRead p sl (cFlag d 1) (leField d 0x10 8) (leField d 8 4) src
            if shortRead 32 par || shortRead (leField d 0xC 4) ad || shortRead (leField d 8 4) data then s
            else
              let dst := if cFlag d 2 ∨ cOutLen d = 0 then none else (s.hostWay sl p (leField d 0x18 8) (cOutLen d) true).pasid
              let r : CipherReq :=
                { engine := e, slice := sl, gen := s.curGen sl, port := p, queue := q, k := s.nextWork, desc := d, dstPasid := dst,
                  cplPasid := cpl.pasid, src := (data.1, data.2.take (leField d 8 4)), aad := (ad.1, ad.2.take (leField d 0xC 4)),
                  param := (par.1, par.2.take 32), fault := none }
              { s4 with cph := { s4.cph with reqs := s4.cph.reqs ++ [r] }, nextWork := s4.nextWork + 1 }

/-- CBC_ENCRYPT. -/
def execCbcEncrypt (sl q : Nat) (src aad param : HostData) (el : Nat) (s : State) : Host.Outcome State Fault Refusal :=
  .next (cipherAccept 0 false sl q src aad param el s)

/-- CBC_DECRYPT. -/
def execCbcDecrypt (sl q : Nat) (src aad param : HostData) (el : Nat) (s : State) : Host.Outcome State Fault Refusal :=
  .next (cipherAccept 0 true sl q src aad param el s)

/-- CTR_ENCRYPT. -/
def execCtrEncrypt (sl q : Nat) (src aad param : HostData) (el : Nat) (s : State) : Host.Outcome State Fault Refusal :=
  .next (cipherAccept 1 false sl q src aad param el s)

/-- CTR_DECRYPT. -/
def execCtrDecrypt (sl q : Nat) (src aad param : HostData) (el : Nat) (s : State) : Host.Outcome State Fault Refusal :=
  .next (cipherAccept 1 true sl q src aad param el s)

/-- CFB128_ENCRYPT. -/
def execCfb128Encrypt (sl q : Nat) (src aad param : HostData) (el : Nat) (s : State) : Host.Outcome State Fault Refusal :=
  .next (cipherAccept 2 false sl q src aad param el s)

/-- CFB128_DECRYPT. -/
def execCfb128Decrypt (sl q : Nat) (src aad param : HostData) (el : Nat) (s : State) : Host.Outcome State Fault Refusal :=
  .next (cipherAccept 2 true sl q src aad param el s)

/-- OFB_ENCRYPT. -/
def execOfbEncrypt (sl q : Nat) (src aad param : HostData) (el : Nat) (s : State) : Host.Outcome State Fault Refusal :=
  .next (cipherAccept 3 false sl q src aad param el s)

/-- OFB_DECRYPT. -/
def execOfbDecrypt (sl q : Nat) (src aad param : HostData) (el : Nat) (s : State) : Host.Outcome State Fault Refusal :=
  .next (cipherAccept 3 true sl q src aad param el s)

/-- GCM_ENCRYPT. -/
def execGcmEncrypt (sl q : Nat) (src aad param : HostData) (el : Nat) (s : State) : Host.Outcome State Fault Refusal :=
  .next (cipherAccept 4 false sl q src aad param el s)

/-- GCM_DECRYPT. -/
def execGcmDecrypt (sl q : Nat) (src aad param : HostData) (el : Nat) (s : State) : Host.Outcome State Fault Refusal :=
  .next (cipherAccept 4 true sl q src aad param el s)

/-- CMAC. -/
def execCmac (sl q : Nat) (src aad param : HostData) (el : Nat) (s : State) : Host.Outcome State Fault Refusal :=
  .next (cipherAccept 5 false sl q src aad param el s)

/-! ### Completion, R509, R520 to R522 -/

/-- Data and OUT of a request under its round keys, R509: mode, direction, IV block, additional data, TAGLEN, input. -/
def cipherRun (rks : List Nat) (mode : Nat) (decrypt : Bool) (iv aad : List Byte) (tagLen : Nat) (bs : List Byte) : List Byte × List Byte :=
  let v := beVal (iv.take 16)
  let n := bs.length
  let ins := toBlocks bs
  let whole := n % 16 == 0
  match mode with
  | 0 =>
    let outs := if decrypt then cbcDec rks v ins else cbcEnc rks v ins
    (fromBlocks outs n, beBytes 16 ((if decrypt then ins else outs).getLast?.getD 0))
  | 1 => (xorStream bs (ctrStream rks v (ceilDiv n 16)), beBytes 16 ((v + ceilDiv n 16) % 2 ^ 128))
  | 2 =>
    let outs := if decrypt then cfbDec rks v ins else cfbEnc rks v ins
    (fromBlocks outs n, if whole then beBytes 16 ((if decrypt then ins else outs).getLast?.getD 0) else leBytes 16 0)
  | 3 =>
    let ks := ofbStream rks v (ceilDiv n 16)
    (xorStream bs ks, if whole then beBytes 16 (ks.getLast?.getD 0) else leBytes 16 0)
  | 4 =>
    let outs := gcmCrypt rks (iv.take 12) bs
    (outs, (beBytes 16 (gcmTag rks (iv.take 12) aad (if decrypt then bs else outs))).take tagLen)
  | _ => ([], (beBytes 16 (cmac rks bs)).take tagLen)

/-- What a request ends with: status, ZEROED, its writes of output in order, BYTES, OUT. -/
structure CipherEnd where
  status : Status
  zeroed : Bool
  writes : List (List Byte)
  bytes : Nat
  out : List Byte

/-- How a request ends, R521: one that fails writes the output of the blocks before the failure; a GCM decryption with TAG_CHECK
then overwrites what it wrote with zeros. -/
def State.cipherEnd (s : State) (r : CipherReq) : CipherEnd :=
  let d := r.desc
  let e := s.keySlot r.slot
  let checked := cFlag d 5
  let bad := r.fault.getD (if r.param.1 ≠ .ok then r.param.1 else if r.aad.1 ≠ .ok then r.aad.1 else r.src.1)
  let started := r.fault.isNone && r.param.1 == Status.ok && r.aad.1 == Status.ok
  let data := if bad = .ok then r.src.2 else if started then r.src.2.take (r.src.2.length / 16 * 16) else []
  let (outs, tag) := cipherRun (roundKeys e.key) (cMode d) (cDecrypt d) r.param.2 r.aad.2 (leField d 3 1) data
  let match_ := tag == (r.param.2.drop 16).take (leField d 3 1)
  if bad ≠ .ok then
    if checked && cMode d == 4 then { status := bad, zeroed := true, writes := [outs, leBytes outs.length 0], bytes := 0, out := [] }
    else { status := bad, zeroed := false, writes := [outs], bytes := outs.length, out := [] }
  else if checked && !match_ then
    { status := .authFailed, zeroed := cMode d == 4, writes := if cMode d = 4 then [outs, leBytes outs.length 0] else [], bytes := 0, out := [] }
  else { status := .ok, zeroed := false, writes := [outs], bytes := outs.length, out := tag }

/-- The failure of a request's output where it cannot be written now: its port down, or its range no longer admitted. -/
def State.cipherOutErr (s : State) (r : CipherReq) : Option Status :=
  let d := r.desc
  if cOutLen d = 0 then none
  else if r.dstPasid.isSome then if (s.port r.port).up then none else some .hostLinkDown
  else s.cipherRange r.port r.slice (cFlag d 2) (leField d 0x18 8) (cOutLen d) true

/-- Engine e has processed n more bytes. -/
def State.engineBytes (s : State) (e n : Nat) : State :=
  let b := smGetD s.cph.bytes e 0 + n
  { s with cph := { s.cph with bytes := smSet s.cph.bytes e b } }.rset CPH_ENG_KIB (b / 1024 % 2 ^ 32) 0 e

/-- Ends a request: output in ascending order, then the completion record, relaxed ordering clear (R520); AUTH_FAILED is counted
(R521). None where a held result does not fit (R392). -/
def State.finishCipher (s : State) (r : CipherReq) (el : Nat) : Option State :=
  let d := r.desc
  let tag := leField d 0x3C 4
  let e0 := s.cipherEnd r
  let e : CipherEnd := match s.cipherOutErr r with
    | some st => { status := st, zeroed := false, writes := [], bytes := 0, out := [] }
    | none => e0
  let info := (if e.zeroed then 1 else 0) + (if cMode d ≥ 1 ∧ cMode d ≤ 3 ∧ leField d 8 4 % 16 ≠ 0 then 2 else 0)
  let outs := e.writes.filter (fun b => !b.isEmpty)
  let cpl : OutWrite := ⟨r.cplPasid, leField d 0x30 8, false, cipherRecord tag e.status info r.engine e.bytes el e.out⟩
  let hostOuts := if cFlag d 2 then [] else outs.map (fun b => (⟨r.dstPasid, leField d 0x18 8, cFlag d 0, b⟩ : OutWrite))
  match s.deliverOut r.port r.slice r.gen r.queue tag e.status (hostOuts ++ [cpl]) with
  | none => none
  | some s1 =>
    let s1 := if cFlag d 2 ∧ r.gen = s.curGen r.slice then outs.foldl (fun s b => s.busWrite (leField d 0x18 8) b) s1 else s1
    let s1 := if e.status = .authFailed then (s1.fadd CPH_AUTH_FAIL_COUNT_COUNT 1).event CPH_ERR_STATUS_AUTH_FAIL else s1
    let n := r.src.2.length + r.aad.2.length
    some ((s1.engineBytes r.engine n).count 19 r.engine 0x10 r.slice n)

/-- CIPHER_REQUEST_COMPLETE, R520: request i of those accepted, among the first 64 of its engine's queue (R519). -/
def execCipherRequestComplete (i el : Nat) (s : State) : Host.Outcome State Fault Refusal :=
  match s.cph.reqs[i]? with
  | none => .next s
  | some r =>
    if ((s.cph.reqs.take i).filter (fun x => x.engine == r.engine)).length ≥ 64 then .next s
    else match s.finishCipher r el with
    | none => .next (s.holdFull r.slice)
    | some s => .next { s with cph := { s.cph with reqs := s.cph.reqs.eraseIdx i } }

/-- Accepted requests that satisfy p complete with a status, R525, R521. -/
def State.endCipher (s : State) (p : CipherReq → Bool) (st : Status) : State :=
  let mine := s.cph.reqs.filter p
  let s := { s with cph := { s.cph with reqs := s.cph.reqs.filter (fun r => !p r) } }
  mine.foldl (fun s r =>
    let (el, s) := s.fresh 32
    (s.finishCipher { r with fault := some st, gen := s.curGen r.slice } el).getD s) s

/-- A slice's slots are erased and freed, R525. -/
def State.freeKeys (s : State) (sl : Nat) : State :=
  (smKeys s.cph.slots (fun e => e.state != 0 && e.slice == sl)).foldl (fun s k =>
    let s := if (s.keySlot k).drainCh < 320 then s.ack (s.keySlot k).drainCh .ok 0 [k] else s
    s.zeroSlot k true) s

end Machine
end Sys2Proof
end

