-- ==== Sys2Proof/Machine/Varnish.lean ====
section
/-!
DEFINITION. Varnish (spec 22): protection, step requests (R532, R533), steps (R534 to R537), restores (R541 to R544), the persistent
copy (R545), what the registers show (R551).
-/
namespace Sys2Proof
namespace Machine

/-! ### What the registers show, R547, R548, R551 -/

/-- STATE of VRN_STATUS. -/
def State.vrnState (s : State) : Nat :=
  match s.vrn.step, s.vrn.restore with
  | some t, _ => if t.phase = 1 then 1 else if t.phase ≤ 2 then 2 else if t.phase = 3 then 3 else 4
  | none, some r => if r.mode = 3 then 0 else if r.stage = 4 then 6 else 5
  | none, none => 0

/-- KIND of VRN_STATUS. -/
def State.vrnKind (s : State) : Nat :=
  match s.vrn.step, s.vrn.restore with
  | some t, _ => t.kind
  | none, some r => if r.mode = 3 then 0 else 3
  | none, none => 0

/-- Has a protected shard no entry in a valid manifest on the buddy (R547)? -/
def State.unprotected (s : State) : Bool := s.shards.any (fun p => (s.copyEntry (p.1 / 2 ^ 32) (p.1 % 2 ^ 32)).isNone)

/-- VRN_STATUS. -/
def State.vrnStatus (s : State) : Nat :=
  (if s.vrn.buddy.isSome then 2 ^ 31 else 0) + (if s.vrn.target.isSome then 2 ^ 30 else 0) + (if s.unprotected then 2 ^ 29 else 0) +
    (if s.vrn.reqs.isEmpty then 0 else 2 ^ 28) + ((s.vrn.step.map (·.cause)).getD 0) * 256 + s.vrnKind * 16 + s.vrnState

/-- Pool units of the own lease. -/
def State.poolUnits (s : State) : Nat := s.vrn.gib * 16384 - 8192

/-- Free pool units of the own lease: neither the newest valid manifest nor the running step names them. -/
def State.poolFree (s : State) : Nat :=
  let mine := match s.vrn.step with
    | some t => if t.kind = 1 then ((t.ents.filter (fun e => e.step == t.num && !e.lost)).map (fun e => unitsOf e.bytes)).sum else 0
    | none => 0
  s.poolUnits - (s.vrn.held.map (·.2)).sum - mine

/-- PCT of VRN_PROG. -/
def State.vrnPct (s : State) : Nat :=
  let t := s.rget VRN_PROG_TOTAL
  if t = 0 then 0 else s.rget VRN_PROG_POS * 10000 / t

/-- The slices that hold protected handles. -/
def State.vrnSlices (s : State) : List Nat := (s.vrn.prot.map (· / 2 ^ 26)).eraseDups

/-- An event of VRN_ERR_STATUS: firmware reports it to the owning slices (R578). -/
def State.vrnEvent (s : State) (f : Fld) : State :=
  let s := s.event f
  s.vrnSlices.foldl (fun s sl => s.noticeSlice sl { kind := 2, words := [s.rget VRN_STEP_CUR, s.rget VRN_LAST, s.vrnStatus, 0] }) s

/-! ### Protection, R528, R529 -/

/-- The units of a handle: a table's extents and codebook, the reserved runs of a sequence or of a cache's sequences, as keys. -/
def State.shardKeys (s : State) (h : Nat) : List Nat :=
  match smGet s.tbl h with
  | some t =>
    (List.range (ceilDiv t.rows (max 1 (s.rowShape h).2))).map (runKey h) ++ (if t.mode = 0 then [] else [runKey h 0xFFFFFFFF])
  | none =>
    let seqs := if (smGet s.kvc h).isSome then smKeys s.seqs (fun q => q.cache == h) else [h]
    (s.cmp.run.filter (fun r => seqs.contains (r.1 / 2 ^ 32) && decide (0 < s.shardBytes (r.1 / 2 ^ 32) (r.1 % 2 ^ 32)))).map (·.1)

/-- Protects a handle: its shards are new to the buddy. -/
def State.protect (s : State) (h : Nat) : State :=
  if s.vrn.prot.contains h then s
  else { s.setVrn { s.vrn with prot := s.vrn.prot ++ [h] } with shards := (s.shardKeys h).foldl (fun m k => smSet m k true) s.shards }

/-- Withdraws a handle's protection. -/
def State.unprotect (s : State) (h : Nat) : State :=
  let l := s.vrn.prot.erase h
  { s.setVrn { s.vrn with prot := l } with shards := smDelIf s.shards (fun k => !s.isProtected l (k / 2 ^ 32)) }

/-- Protects or withdraws; during a cut the change waits for the next one (R549). -/
def State.setProtect (s : State) (h : Nat) (on : Bool) : State :=
  if s.vrn.step.any (fun t => t.phase == 2) then s.setVrn { s.vrn with queued := s.vrn.queued ++ [(h, on)] }
  else if on then s.protect h else s.unprotect h

/-- VRN_PROTECT, R528. -/
def execVrnProtect (ch handle : Nat) (on : Bool) (s : State) : Host.Outcome State Fault Refusal :=
  .next (s.serve ch 0x60 [(1, handle), (2, if on then 1 else 0)] (handle / 2 ^ 26) .bound false (fun sl s =>
    let live := (match smGet s.tbl handle with | some t => t.slice == sl && t.dying.isNone | none => false) ||
      (match smGet s.kvc handle with | some c => c.slice == sl && c.dying.isNone | none => false) ||
      (match smGet s.seqs handle with | some q => handle / 2 ^ 26 == sl && q.dying.isNone | none => false)
    if !live then refuseCmd s .badHandle 1
    else if on ∧ s.shards.length + ((s.shardKeys handle).filter (fun k => (smGet s.shards k).isNone)).length > 2097152 then refuseCmd s .quotaExceeded
    else okCmd (s.setProtect handle on)))

/-- A copy is reported invalid by the buddy, R202, R549: the shard goes again with the next step. -/
def State.vrnInvalidate (s : State) (h u : Nat) : State :=
  if (smGet s.shards (runKey h u)).isSome then ({ s with shards := smSet s.shards (runKey h u) true }).vrnEvent VRN_ERR_STATUS_BUDDY_INVALIDATED else s

/-! ### Requests, R532, R533 -/

/-- Can a step of a kind run at all: a buddy or a persistent target, and the manifest key (R532, R536)? -/
def State.vrnAble (s : State) (kind : Nat) : Bool :=
  s.manifestKeyOk && (if kind = 1 then s.vrn.buddy.isSome else s.vrn.target.isSome)

/-- HOLD_CAUSE of a request now, 0 where none holds it (R533). -/
def State.holdCause (s : State) : Nat :=
  if s.fget GSO_PWR_STATUS_VIN_STATE == 1 || s.fon GSO_PWR_STATUS_OC_THROTTLE then 1
  else if s.fon GSO_THERM_STATUS_THERM_STATE then 2 else if s.running then 0 else 3

/-- A step with nothing done. -/
def VStep.base (kind num phase cause : Nat) (chs : List Nat) : VStep :=
  { kind := kind, num := num, phase := phase, cause := cause, prot := [], ents := [], recs := [], cutTime := 0, todo := [], cleared := [],
    parts := [], out := [], toFlush := [], flushes := [], flushing := false, verdict := .ok, chs := chs }

/-- Starts a step, or holds it (R533). -/
def State.beginStep (s : State) (kind : Nat) (chs : List Nat) : State :=
  if s.holdCause ≠ 0 then (s.setStep (VStep.base kind 0 1 s.holdCause chs)).vrnEvent VRN_ERR_STATUS_STEP_HELD
  else
    let n := (s.rget VRN_STEP_CUR + 1) % 2 ^ 32
    let s := (s.setStep (VStep.base kind n 0 0 chs)).rset VRN_STEP_CUR n
    s.setVrn { s.vrn with started := s.pw.onTicks }

/-- Is Varnish idle and free to start a step? An ISOLATED device starts none (R560). -/
def State.vrnIdle (s : State) : Bool := s.vrn.step.isNone && s.vrn.restore.isNone && s.fget HRC_STATUS_STATE != 4

/-- Records a request as pending, merged with one of its kind. -/
def addReq (kind : Nat) (chs : List Nat) : List (Nat × List Nat) → List (Nat × List Nat)
  | [] => [(kind, chs)]
  | (k, cs) :: l => if k = kind then (k, cs ++ chs) :: l else (k, cs) :: addReq kind chs l

/-- The number of the step that will serve a request now pending. -/
def State.servedBy (s : State) (kind : Nat) : Nat :=
  s.rget VRN_STEP_CUR + 1 + (if s.vrn.step.any (fun t => t.phase == 1) then 1 else 0) +
    (s.vrn.reqs.takeWhile (fun r => r.1 != kind)).length

/-- A request for a step: the state after it and the number of the step that will serve it; none where it is refused with NO_BUDDY. -/
def State.requestStep (s : State) (kind : Nat) (chs : List Nat) : Option (State × Nat) :=
  if !s.vrnAble kind then none
  else if s.vrnIdle then
    let n := s.rget VRN_STEP_CUR + 1
    some (s.beginStep kind chs, n)
  else
    let s := s.setVrn { s.vrn with reqs := addReq kind chs s.vrn.reqs }
    some (s, s.servedBy kind)

/-- A departure whose final step has ended is told to the manager (order kind 8, R566). -/
def State.leaveOn (s : State) (n : Nat) : State :=
  match s.hrc.leaveStep with
  | some k => if k ≤ n then ({ s with hrc := { s.hrc with leaveStep := none } } : State).emit (.order s.hrc.mgr 8 [s.fget HRC_STATUS_MEMBER]) else s
  | none => s

/-- Starts the next pending request; one that cannot run any more ends with NO_BUDDY. -/
def State.nextStep (s : State) : Nat → State
  | 0 => s
  | n + 1 =>
    match s.vrn.reqs with
    | [] => s
    | (k, cs) :: l =>
      if !s.vrnIdle then s
      else
        let s := s.setVrn { s.vrn with reqs := l }
        if s.vrnAble k then s.beginStep k cs
        else
          let s := ((s.rset VRN_LAST (Status.noBuddy.code * 2 ^ 24)).vrnEvent VRN_ERR_STATUS_STEP_FAIL)
          let s := if k = 1 then s.leaveOn (s.rget VRN_STEP_CUR + 1) else s
          (cs.foldl (fun s c => s.ack c .noBuddy 0 []) s).nextStep n

/-- VRN_STEP, R532: completes on acceptance. -/
def execVrnStep (ch : Nat) (s : State) : Host.Outcome State Fault Refusal :=
  .next (s.serve ch 0x61 [] 0 .secure false (fun _ s =>
    match s.requestStep 1 [] with
    | some (s, n) => okCmd s [n]
    | none => refuseCmd s .noBuddy))

/-- VRN_DRAIN, R545: completes when the persistent step ends. -/
def execVrnDrain (ch : Nat) (s : State) : Host.Outcome State Fault Refusal :=
  .next (s.serve ch 0x64 [] 0 .secure false (fun _ s =>
    match s.requestStep 2 [ch] with
    | some (s, _) => laterCmd s
    | none => refuseCmd s .noBuddy))

/-- STEP_PERIOD_EXPIRY, R532: PERIOD_MS after the last step's start, with periodic steps enabled. -/
def execStepPeriodExpiry (s : State) : Host.Outcome State Fault Refusal :=
  let p := s.fget VRN_CTL_PERIOD_MS
  if s.fon VRN_CTL_EN ∧ p ≠ 0 ∧ s.pw.onTicks - s.vrn.started ≥ 100 * p then
    .next (match s.requestStep 1 [] with | some (s, _) => s | none => s)
  else .next s

/-- HELD_STEP_RELEASE, R533: no emergency for 10 ms (1,000 samples) and the atelier RUNNING. -/
def execHeldStepRelease (s : State) : Host.Outcome State Fault Refusal :=
  match s.vrn.step with
  | some t =>
    if t.phase = 1 ∧ s.pw.calm ≥ 1000 ∧ s.running ∧ !s.emergency then .next ((s.setVrn { s.vrn with step := none }).beginStep t.kind t.chs) else .next s
  | none => .next s

/-! ### Steps, R534 to R537 -/

/-- Protection changes that waited for a cut take effect. -/
def State.applyQueued (s : State) : State :=
  s.vrn.queued.foldl (fun s q => if q.2 then s.protect q.1 else s.unprotect q.1) (s.setVrn { s.vrn with queued := [] })

/-- A step that has not passed its cut is held as a request is, R57, R62, R533: the records that its cut held go on, and its number is
the released step's. -/
def State.holdStep (s : State) (t : VStep) : State :=
  let s := (s.rset VRN_STEP_CUR (t.num - 1)).setStep (VStep.base t.kind 0 1 s.holdCause t.chs)
  ((s.applyQueued.vrnEvent VRN_ERR_STATUS_STEP_HELD).endTables).endSeqs

/-- CHECKPOINT_STEP, R534 step 1: the cut begins; new updates and appends for protected handles are held. -/
def execCheckpointStep (s : State) : Host.Outcome State Fault Refusal :=
  match s.vrn.step with
  | some t =>
    if t.phase ≠ 0 then .next s
    else if s.holdCause ≠ 0 then .next (s.holdStep t)
    else .next (s.setStep { t with phase := 2, prot := s.vrn.prot })
  | none => .next s

/-- A table's descriptor, R214, with CB_ADDR zero. -/
def Table.desc (t : Table) : List Byte :=
  leBytes 8 t.rows ++ leBytes 2 t.d ++ leBytes 1 t.fmt ++ leBytes 1 t.mode ++ leBytes 1 t.st ++ leBytes 1 t.band ++ leBytes 2 0 ++
    leBytes 8 0 ++ leBytes 4 t.prog ++ leBytes 4 t.uprog ++ leBytes 32 0

/-- A cache's descriptor, R237. -/
def Cache.desc (c : Cache) : List Byte :=
  leBytes 2 c.layers ++ leBytes 1 c.kvh ++ leBytes 1 c.group ++ leBytes 2 c.hd ++ leBytes 1 c.fmt ++ leBytes 1 c.run ++
    leBytes 4 c.scale ++ leBytes 4 c.maxSeq ++ leBytes 4 c.maxPos ++ leBytes 4 c.prog ++ leBytes 8 0

/-- Handle records of a cut, in ascending handle order: protected tables and caches, their sequences, and the cache of a sequence
protected by itself. -/
def State.cutRecords (s : State) (prot : List Nat) : List HRec :=
  let tabs : List HRec := (s.tbl.filter (fun t => prot.contains t.1)).map (fun t => ⟨t.1, 1, 0, t.2.desc, []⟩)
  let seqs := s.seqs.filter (fun q => s.isProtected prot q.1)
  let caches : List HRec := (s.kvc.filter (fun c => prot.contains c.1 || seqs.any (fun q => q.2.cache == c.1))).map
    (fun c => ⟨c.1, 2, 0, c.2.desc, []⟩)
  let qs : List HRec := seqs.map (fun q => ⟨q.1, 3, q.2.cache, [],
    (List.range (((smGet s.kvc q.2.cache).map (·.layers)).getD 0)).map q.2.len⟩)
  ((tabs ++ caches ++ qs).foldl (fun m r => smSet m r.handle r) ([] : SMap HRec)).map (·.2)

/-- Does an update that names a protected handle still run? Appends are placed when their entry starts, so none is in flight. -/
def State.cutWaits (s : State) (prot : List Nat) : Bool :=
  s.works.any (fun w => w.2.kind == 0x11 && !w.2.recs.isEmpty && prot.any (fun h => w.2.names h))

/-- Are these unit ranges (first, count) within a pool and apart from each other and from the ranges held? -/
def rangesOk (pool : Nat) (held : List (Nat × Nat)) : List (Nat × Nat) → Bool
  | [] => true
  | (a, n) :: l => decide (a + n ≤ pool) && (held ++ l).all (fun r => decide (a + n ≤ r.1 ∨ r.1 + r.2 ≤ a)) && rangesOk pool held l

/-- First units of copies laid one after another. -/
def packUnits : Nat → List Nat → List Nat
  | _, [] => []
  | a, b :: l => a :: packUnits (a + unitsOf b) l

/-- A shard entry at the cut: a copy of this step, or the one of the newest valid manifest. -/
def State.cutEntry (s : State) (num : Nat) (locs : SMap Nat) (k : Nat) : MEnt :=
  let h := k / 2 ^ 32
  let u := k % 2 ^ 32
  match smGet locs k, s.copyEntry h u with
  | none, some e => e
  | l, _ => { handle := h, unit := u, step := num, loc := l.getD 0, bytes := s.shardBytes h u, lost := false, digest := 0 }

/-- STEP_CUT_END, R534 steps 1 and 2: the updates in flight are DONE. `locs` are the first pool units the owner allocates, in key
order; none at all where the pool has no room for some shard in one piece. A persistent step lays its copies in manifest order (R545). -/
def execStepCutEnd (locs : List Nat) (s : State) : Host.Outcome State Fault Refusal :=
  match s.vrn.step with
  | none => .next s
  | some t =>
    if t.phase ≠ 2 then .next s
    else if s.holdCause ≠ 0 then .next (s.holdStep t)
    else if s.cutWaits t.prot then .next s
    else
      let live := (s.shards.filter (fun p => s.isProtected t.prot (p.1 / 2 ^ 32) && decide (0 < s.shardBytes (p.1 / 2 ^ 32) (p.1 % 2 ^ 32)))).map (·.1)
      let stale := fun k => smGetD s.shards k true || (match s.copyEntry (k / 2 ^ 32) (k % 2 ^ 32) with
        | some e => e.bytes != s.shardBytes (k / 2 ^ 32) (k % 2 ^ 32) | none => true)
      let copy := if t.kind = 1 then live.filter stale else live
      let sizes := copy.map (fun k => s.shardBytes (k / 2 ^ 32) (k % 2 ^ 32))
      let need := (sizes.map unitsOf).sum
      let room := if t.kind = 1 then s.poolFree else (match s.vrn.target with | some (_, _, _, len) => (len - 2 * manifestArea) / 2 / 0x10000 | none => 0)
      let recs := s.cutRecords t.prot
      let full := bodyLen recs (live.map (s.cutEntry t.num [])) + 64 > manifestArea
      let fail := fun (st : Status) => Host.Outcome.next ((s.setStep { t with phase := 3, verdict := st }).applyQueued)
      if need > room then fail .buddyFull
      else if full then fail .manifestFull
      else
        let locs := if t.kind = 1 then locs else packUnits 0 sizes
        if t.kind = 1 ∧ locs.isEmpty ∧ !copy.isEmpty then fail .buddyFull
        else if locs.length ≠ copy.length ∨ (t.kind = 1 && !rangesOk s.poolUnits s.vrn.held (locs.zip (sizes.map unitsOf))) then .next s
        else
          let ents := live.map (s.cutEntry t.num (copy.zip locs))
          let total := need + ceilDiv (bodyLen recs ents) 0x10000
          let s := (s.rset VRN_PROG_POS 0).rset VRN_PROG_TOTAL total
          let s := s.setStep { t with phase := 3, ents := ents, recs := recs, cutTime := s.pmu.ns, todo := copy,
                                      cleared := if t.kind = 1 then copy else [] }
          let s := if t.kind = 1 then { s with shards := smMap s.shards (fun k m => if copy.contains k then false else m) } else s
          .next s.applyQueued.vrnAdvance

/-- Reads a shard at its handle's epoch: the state after it, and its bytes, or none where a burst stays poisoned. A unit that lies in
a tier comes as `tier` brings it. -/
def State.readShard (s : State) (h u n : Nat) (tier : HostData) : State × Option (List Byte) :=
  if u = 0xFFFFFFFF then (s, some (memReadN s.cb (((smGet s.tbl h).map (·.slot)).getD 0 * 0x1000) 0x1000))
  else match s.shardRange h u with
  | some (a, _) => let r := s.busRead a n; (r.state, r.bytes)
  | none => if tier.1 = .ok ∧ tier.2.length = n then (s, some tier.2) else (s, none)

/-- Does a held update, a held append, or a waiting destruction or truncation want a shard read (R535, R549)? -/
def State.shardWanted (s : State) (h u : Nat) : Bool :=
  match smGet s.tbl h, smGet s.seqs h with
  | some t, _ => t.dying.isSome || s.works.any (fun w => w.2.kind == 0x11 && leField w.2.desc 4 4 == h &&
      w.2.waiting.any (fun i => w.2.idx.getD i 0 / max 1 (s.rowShape h).2 == u))
  | none, some q => (match smGet s.kvc q.cache with
    | some c => c.dying.isSome || q.dying.isSome || q.truncTo.isSome || s.works.any (fun w => w.2.arr != 0 && w.2.ents.any (fun x =>
        x.seqH == h && x.phase == 0 && (x.runs c).any (fun r => (List.range c.hgCount).any (fun g => c.runIndex x.layer g r == u))))
    | none => true)
  | none, none => true

/-- May a PENDING shard be read now: it is the first in handle and unit order, or one that something waits for (R534, R535)? -/
def State.shardNext (s : State) (t : VStep) (h u : Nat) : Bool :=
  s.shardWanted h u || (t.todo.head? == some (runKey h u) && !t.todo.any (fun k => s.shardWanted (k / 2 ^ 32) (k % 2 ^ 32)))

/-- SHARD_COPIED, R534 step 3, R535, R537: a PENDING shard is read into staging, hashed and written to its units; a source that
stays poisoned is listed LOST. Destructions that waited for the read go on (R549). -/
def execShardCopied (h u : Nat) (tier : HostData) (s : State) : Host.Outcome State Fault Refusal :=
  match s.vrn.step with
  | none => .next s
  | some t =>
    let k := runKey h u
    match t.ents.find? (fun e => e.handle == h && e.unit == u && t.todo.contains k) with
    | none => .next s
    | some e =>
      if t.phase ≠ 3 ∨ t.verdict ≠ .ok ∨ !s.shardNext t h u then .next s
      else
        let put := fun (t : VStep) (x : MEnt) => { t with todo := t.todo.erase k, ents := t.ents.map (fun y => if y.handle = h ∧ y.unit = u then x else y) }
        let count := fun (s : State) => ((s.rset VRN_PROG_POS (s.rget VRN_PROG_POS + unitsOf e.bytes)).count 19 0 0x20 64 e.bytes).count 19 0 0x21 64 e.bytes
        match s.readShard h u e.bytes tier with
        | (s1, none) =>
          .next ((count ((s1.setStep (put t { e with lost := true })).vrnEvent VRN_ERR_STATUS_SHARD_LOST)).vrnAdvance.endTables.endSeqs)
        | (s1, some bs) =>
          let (_, _, off, len) := s1.stepTarget t
          (match s1.vrnWrite t (sourceAt (t.kind == 2) off len (t.num % 2) e.loc) bs with
           | none => .next s
           | some (s2, t) => .next ((count (s2.setStep (put t { e with digest := sha256 bs }))).vrnAdvance.endTables.endSeqs))

/-- The step ends with a status: what it shows, its channels, and the next request. -/
def State.endStep (s : State) (t : VStep) (st : Status) : State :=
  let s := s.forgetTags (t.out.map (·.1) ++ t.flushes)
  let s := s.setVrn { s.vrn with step := none }
  let s := s.rset VRN_LAST (st.code * 2 ^ 24 + min (2 ^ 22 - 1) (t.ents.filter (·.lost)).length)
  let s := s.vrnEvent (if st = .ok then VRN_ERR_STATUS_STEP_DONE else VRN_ERR_STATUS_STEP_FAIL)
  let s := t.chs.foldl (fun s c => s.ack c st 0 [t.num]) s
  (if t.kind = 1 then s.leaveOn t.num else s).endTables.endSeqs.nextStep 4

/-- STEP_COMPLETE, R534 step 6, R531, R545: the header is placed; the newest valid manifest is this step's, and units that only the
one before named are free. A job step served by this step is complete. -/
def execStepComplete (s : State) : Host.Outcome State Fault Refusal :=
  let s := s.vrnAdvance
  match s.vrn.step with
  | none => .next s
  | some t =>
    if t.phase ≠ 6 ∨ t.verdict ≠ .ok then .next s
    else if t.kind = 1 then
      let s := s.setVrn { s.vrn with ents := t.ents, prev := t.num, held := (t.ents.filter (fun e => !e.lost)).map (fun e => (e.loc, unitsOf e.bytes)) }
      let s := s.rset VRN_STEP_DONE t.num
      let s := match s.hrc.jwait with
        | some (j, n) => if n ≤ t.num then { s with hrc := { s.hrc with jdone := j, jwait := none } } else s
        | none => s
      .next (s.endStep t .ok)
    else .next ((s.rset VRN_PERSIST_DONE t.num).endStep t .ok)

/-- Has a step lost its target, R537: a connection broke or is gone, or the buddy was declared failed? -/
def State.stepLost (s : State) (t : VStep) : Bool :=
  decide (2 ≤ t.phase) && ((s.stepTarget t).1.any s.connDead || (s.stepTarget t).1.isEmpty || (t.kind == 1 && !s.vrn.buddyUp))

/-- STEP_FAIL, R537, R532: the step ends; the bits that its cut cleared are set again. -/
def execStepFail (s : State) : Host.Outcome State Fault Refusal :=
  match s.vrn.step with
  | none => .next s
  | some t =>
    let st := if t.verdict ≠ .ok then t.verdict else if s.stepLost t then .buddyLost else .ok
    if st = .ok then .next s
    else
      let s := { s with shards := smMap s.shards (fun k m => m || t.cleared.contains k) }
      .next (s.applyQueued.endStep t st)

/-! ### The persistent copy, R545 -/

/-- VRN_PERSIST_SET, R545. -/
def execVrnPersistSet (ch : Nat) (pb : Status) (conn rkey roff len : Nat) (s : State) : Host.Outcome State Fault Refusal :=
  .next (s.serve ch 0x63 [] 0 .secure true (fun _ s =>
    if pb ≠ .ok then refuseCmd s pb
    else if !(s.conn conn).any (fun x => x.slice == 64) then refuseCmd s .badHandle 1
    else if len < 2 * manifestArea + 0x20000 then refuseCmd s .badDescriptor 1
    else if s.vrn.step.any (fun t => t.kind == 2) || s.vrn.restore.any (·.persist) then refuseCmd s .busy
    else okCmd (s.setVrn { s.vrn with target := some (conn, rkey, roff, len) })))

/-! ### Restores, R541 to R544 -/

/-- The header reads of a restore from its source. -/
def State.headerReads (s : State) (r : VRestore) : List (Nat × Nat) :=
  match s.restoreSource r with
  | (none, _, _, _) => []
  | (_, _, off, len) => [(manifestAt r.persist off len 0, 64), (manifestAt r.persist off len 1, 64)]

/-- Starts a restore. -/
def State.startRestore (s : State) (mode sl ch owner serial : Nat) : State :=
  let r : VRestore := { mode := mode, slice := sl, ch := ch, owner := owner, serial := serial, persist := mode == 2, stage := 0, slots := [],
                        slot := 0, todo := [], out := [], got := [] }
  let (s, r) := s.restoreGo { r with todo := s.headerReads r } 8
  s.setRestore r

/-- The manifests of the own lease are read, R544: steps number on from the higher valid STEP, and what the newer valid manifest names is not
overwritten. -/
def State.takeHeaders (s : State) (r : VRestore) : State :=
  let s1 := s.setVrn { s.vrn with restore := none }
  (match (s.pickSlotOf r).bind (s.slotManifest r) with
  | some (h, b) =>
    let n := leField h 8 4
    let s1 := s1.rset VRN_STEP_CUR (max n (s1.rget VRN_STEP_CUR))
    s1.setVrn { s1.vrn with prev := n, held := ((entriesOf h b).filter (fun (e : MEnt) => !e.lost)).map (fun (e : MEnt) => (e.loc, unitsOf e.bytes)) }
  | none => s1).nextStep 4

/-- The restore ends: its channel or order is answered. -/
def State.endRestore (s : State) (r : VRestore) (st : Status) (step lost : Nat) : State :=
  let s := s.forgetTags (r.out.map (·.1))
  let s := (s.setVrn { s.vrn with restore := none }).rset VRN_LAST (st.code * 2 ^ 24 + min (2 ^ 22 - 1) lost)
  (s.ack r.ch st 0 [step]).nextStep 4

/-- ADOPT, R541 to R543: by VRN_RESTORE, or (channel 320 and above) by a manager's order. BUSY while the lease's owner is not declared failed. -/
def execAdopt (ch sl owner : Nat) (s : State) : Host.Outcome State Fault Refusal :=
  .next (s.serve ch 0x62 [] sl .secure true (fun _ s =>
    match s.vrn.leases.find? (fun l => l.owner == owner && !l.adopted) with
    | none => refuseCmd s .badDescriptor 1
    | some l =>
      if !s.slLive sl then refuseCmd s .badDescriptor 1
      else if !(smGet s.hrc.members owner).any (fun m => m.state == 2) || !s.vrn.step.isNone || !s.vrn.restore.isNone then refuseCmd s .busy
      else laterCmd (s.startRestore 0 sl ch owner l.serial)))

/-- PULL, R541, R542, R544: the device's own lease on its buddy, read by TMT READ. -/
def execPull (ch sl : Nat) (s : State) : Host.Outcome State Fault Refusal :=
  .next (s.serve ch 0x62 [] sl .secure true (fun _ s =>
    if s.vrn.buddy.isNone then refuseCmd s .noBuddy
    else if !s.slLive sl then refuseCmd s .badDescriptor 1
    else if !s.vrn.step.isNone || !s.vrn.restore.isNone then refuseCmd s .busy
    else laterCmd (s.startRestore 1 sl ch 0 s.moduleSerial)))

/-- PERSIST, R541, R542, R544: the persistent copy, whose owner the serial names. -/
def execPersist (ch sl serial : Nat) (s : State) : Host.Outcome State Fault Refusal :=
  .next (s.serve ch 0x62 [] sl .secure true (fun _ s =>
    if s.vrn.target.isNone then refuseCmd s .noCheckpoint
    else if !s.slLive sl then refuseCmd s .badDescriptor 1
    else if !s.vrn.step.isNone || !s.vrn.restore.isNone then refuseCmd s .busy
    else laterCmd (s.startRestore 2 sl ch 0 serial)))

/-- RESTORE_FALLBACK, R541: the other slot alone, then the persistent copy, then NO_CHECKPOINT. -/
def execRestoreFallback (s : State) : Host.Outcome State Fault Refusal :=
  match s.vrn.restore with
  | none => .next s
  | some r =>
    if r.stage ≠ 3 then .next s
    else
      let s := s.vrnEvent VRN_ERR_STATUS_RESTORE_FALLBACK
      let r := { r with slots := r.slots.filter (· != r.slot), todo := [], out := [] }
      if !r.slots.isEmpty then
        let (s, r) := s.tryCandidate r
        let (s, r) := s.restoreGo r 8
        .next (s.setRestore r)
      else if !r.persist ∧ s.vrn.target.isSome then
        let r := { r with persist := true, stage := 0, slots := [], got := [] }
        let (s, r) := s.restoreGo { r with todo := s.headerReads r } 8
        .next (s.setRestore r)
      else .next (s.endRestore r .noCheckpoint 0 0)

/-- What the creation of handles has left and made: old and new handles, how many were skipped, the layouts, run places, run-entry
arrays and further regions not yet taken. -/
structure Restored where
  s : State
  made : List (Nat × Nat)
  skipped : Nat
  tabs : List (List SegPlace)
  runs : List UnitPlace
  arrays : List (List Nat)
  extra : List Nat

/-- Consecutive regions as segments within a band, of at most 16,384 (R263). -/
def groupSegs (homes : Nat → List Nat) : List Nat → List SegPlace
  | [] => []
  | r :: l =>
    match groupSegs homes l with
    | g :: gs => if g.loc = r + 1 ∧ g.count < 16384 ∧ r / bandRegions = g.loc / bandRegions then { g with loc := r, count := g.count + 1, homes := homes r } :: gs
                 else { loc := r, count := 1, homes := homes r } :: g :: gs
    | [] => [{ loc := r, count := 1, homes := homes r }]

/-- Every burst of n bytes at a carries the poison code word (R542). -/
def State.poisonUnit (s : State) (a n : Nat) : State :=
  (List.range (n / 32)).foldl (fun s i => s.setBurst (a / 32 + i) { bad := 0, poison := true, noRefetch := true }) s

/-- The region of pool unit u of an adopted lease. -/
def State.poolRegion (s : State) (r : VRestore) (u : Nat) : Nat :=
  ((s.vrn.leases.find? (fun l => l.owner == r.owner)).map (·.base)).getD 0 + 8192 + u

/-- Is the restore one in place: ADOPT that accepted the lease itself? -/
def VRestore.inPlace (r : VRestore) : Bool := r.mode == 0 && !r.persist

/-- Regions of a table's extents in place: its copies' units, and for LOST ones further regions. -/
def adoptRegions (at' : Nat → Nat) : List MEnt → List Nat → Option (List Nat × List Nat)
  | [], x => some ([], x)
  | e :: es, x =>
    if e.lost then
      match x with
      | y :: ys => (adoptRegions at' es ys).map (fun p => (y :: p.1, p.2))
      | [] => none
    else (adoptRegions at' es x).map (fun p => (at' e.loc :: p.1, p.2))

/-- The bytes of a copy that verified. -/
def State.copyBytes (s : State) (r : VRestore) (e : MEnt) : List Byte := ((s.restoreBytes r (s.copyAt r e) e.bytes).getD []).take e.bytes

/-- Loads a restored table's codebook; a LOST one has every word uncorrectable. -/
def State.restoreCodebook (s : State) (r : VRestore) (slot fm : Nat) (e : MEnt) : State :=
  if e.lost then
    let s := s.loadCodebook slot fm (leBytes 0x1000 0)
    { s with ecc := (List.range 20).foldl (fun m c => (List.range 512).foldl (fun m i => smSet m (cbWordAddr c (slot * 0x1000 + 8 * i)) 3) m) s.ecc }
  else s.loadCodebook slot fm (s.copyBytes r e)

/-- Restores a table: none where the layout given does not fit it. -/
def restoreTable (r : VRestore) (h : HRec) (es : List MEnt) (a : Restored) : Option Restored :=
  let s := a.s
  let x := h.desc
  let ext := es.filter (fun e => e.unit != 0xFFFFFFFF)
  let skip := { a with skipped := a.skipped + 1, made := a.made ++ [(h.handle, 0)] }
  let place : Option (List SegPlace × List Nat × List (List SegPlace)) :=
    if r.inPlace then (adoptRegions (s.poolRegion r) ext a.extra).map (fun p => (groupSegs (s.segHomes r.slice) p.1, p.2, a.tabs))
    else match a.tabs with
      | g :: gs => if s.layoutOk r.slice (leField x 0xD 1) ext.length g then some (g, a.extra, gs) else none
      | [] => none
  if !s.progOk r.slice (leField x 0x18 4) || !s.progOk r.slice (leField x 0x1C 4) then some skip
  else match place with
  | none => none
  | some (gs, extra, tabs) =>
    match s.makeTable r.slice x gs r.inPlace with
    | .error _ => some { skip with extra := extra, tabs := tabs }
    | .ok (n, s1) =>
      let s1 := match es.find? (fun e => e.unit == 0xFFFFFFFF) with
        | some e => s1.restoreCodebook r (s.freeCodebook.getD 0) ((leField x 0xB 1 - 1) * 2 + (if leField x 0xA 1 = 4 then 1 else 0)) e
        | none => s1
      let s1 := ext.foldl (fun s2 e => match s2.extentPlace n e.unit (s2.epoch n) with
        | some p => if e.lost then s2.poisonUnit p.addr 0x10000 else if r.inPlace then s2 else s2.stackWrite p.addr (s2.copyBytes r e)
        | none => s2) s1
      some { a with s := s1, made := a.made ++ [(h.handle, n)], extra := extra, tabs := tabs }

/-- Restores a cache. -/
def restoreCache (r : VRestore) (h : HRec) (a : Restored) : Option Restored :=
  let skip := { a with skipped := a.skipped + 1, made := a.made ++ [(h.handle, 0)] }
  if !a.s.progOk r.slice (leField h.desc 0x14 4) then some skip
  else match a.s.makeCache r.slice h.desc with
  | .error _ => some skip
  | .ok (n, s) => some { a with s := s, made := a.made ++ [(h.handle, n)] }

/-- Restores the runs of a sequence. In place, a run keeps its copy's units, with the units behind them reserved for its further
pages where no other copy lies there; every other run goes where firmware places it under R264. -/
def restoreRuns (r : VRestore) (all : List MEnt) (c : Cache) (cache n : Nat) : List MEnt → Restored → Option Restored
  | [], a => some a
  | e :: es, a =>
    match a.runs with
    | [] => none
    | w :: ws =>
      let s := a.s
      let k := e.bytes / 0x10000
      let named := fun u => all.any (fun x => !x.lost && decide (x.loc ≤ u ∧ u < x.loc + unitsOf x.bytes))
      let here := r.inPlace && !e.lost && (List.range (c.run - k)).all (fun i => !named (e.loc + k + i))
      let place : Option (State × Nat) :=
        if here then
          if (s.sliceBristles r.slice).contains w.home then
            let loc := s.poolRegion r e.loc
            let m := mapEntry32 (slotVal { tier := 0, home := w.home, loc := loc, swidx := 0 }) 0 e.unit n
            let s := s.ownRegions r.slice ((List.range k).map (loc + ·))
            let s := s.ownRegions (256 + r.slice) ((List.range (c.run - k)).map (loc + k + ·))
            some ({ s with cmp := { s.cmp with run := smSet s.cmp.run (runKey n e.unit) m } }, loc)
          else none
        else (s.reserveRun c cache n e.unit w).map (fun s2 => (s2.takeRegions r.slice ((List.range k).map (w.loc + ·)), w.loc))
      match place with
      | none => none
      | some (s, loc) =>
        let s := if e.lost then s.poisonUnit (loc * 0x10000) e.bytes else if here then s else s.stackWrite (loc * 0x10000) (s.copyBytes r e)
        restoreRuns r all c cache n es { a with s := s, runs := ws }

/-- Restores a sequence in its restored cache; skipped where the cache was. -/
def restoreSeq (r : VRestore) (all : List MEnt) (h : HRec) (es : List MEnt) (a : Restored) : Option Restored :=
  let cache := ((a.made.find? (fun p => p.1 == h.parent)).map (·.2)).getD 0
  match smGet a.s.kvc cache with
  | none => some { a with skipped := a.skipped + 1, made := a.made ++ [(h.handle, 0)] }
  | some c =>
    match a.arrays with
    | [] => none
    | g :: gs =>
      if !a.s.arrayOk (2 * c.arrayRegions) g then none
      else
        let (n, s) := a.s.makeSeq r.slice cache g
        let s := { s with seqs := smMap s.seqs (fun k (q : Seq) => if k = n then { q with lens := (List.range h.lens.length).zip h.lens } else q) }
        restoreRuns r all c cache n es { a with s := s, made := a.made ++ [(h.handle, n)], arrays := gs }

/-- Restores every handle of a manifest in order. -/
def restoreAll (r : VRestore) (all : List MEnt) : List HRec → Restored → Option Restored
  | [], a => some a
  | h :: hs, a =>
    let es := all.filter (fun e => e.handle == h.handle)
    match (if h.kind = 1 then restoreTable r h es a else if h.kind = 2 then restoreCache r h a else restoreSeq r all h es a) with
    | none => none
    | some b => restoreAll r all hs b

/-- T1 regions that a restore by copying takes: extents, pages, run-entry arrays. -/
def restoreNeed (ents : List MEnt) (arrays : List (List Nat)) : Nat :=
  ((ents.filter (fun e => e.unit != 0xFFFFFFFF)).map (fun e => unitsOf e.bytes)).sum + (arrays.map (·.length)).sum

/-- The restore record of R542: STEP, CUT_TIME, skipped handles, LOST shards, how many handles, then each old and new handle. -/
def restoreRecord (h : List Byte) (a : Restored) (lost : Nat) : List Byte :=
  leBytes 4 (leField h 8 4) ++ leBytes 8 (leField h 0x28 8) ++ leBytes 4 a.skipped ++ leBytes 4 lost ++ leBytes 4 a.made.length ++
    a.made.flatMap (fun p => leBytes 4 p.1 ++ leBytes 4 p.2)

/-- RESTORE_COMPLETE, R542 to R544: the accepted manifest's handles are created and its units written; adopted handles are
protected, their bits set (R547). `tabs`, `runs`, `arrays`, `extra` and `recs` are the places firmware gives tables, runs, run-entry arrays,
LOST units and the restore record. The reading of the own lease ends with what it found (R544). -/
def execRestoreComplete (tabs : List (List SegPlace)) (runs : List UnitPlace) (arrays : List (List Nat)) (extra recs : List Nat) (s : State) :
    Host.Outcome State Fault Refusal :=
  match s.vrn.restore with
  | none => .next s
  | some r =>
    if r.stage = 5 then .next (s.takeHeaders r)
    else if r.stage ≠ 4 then .next s
    else match s.slotManifest r r.slot with
    | none => .next s
    | some (h, b) =>
      let all := entriesOf h b
      let hs := recordsOf h b
      let lost := (all.filter (·.lost)).length
      let step := leField h 8 4
      if !r.inPlace && !s.fits r.slice (restoreNeed all arrays) then .next (s.endRestore r .quotaExceeded step lost)
      else if !extra.all (fun x => s.inBuddy x && smGetD s.own x 64 == 64) ∨ extra.eraseDups.length ≠ extra.length then .next s
      else match restoreAll r all hs { s := s, made := [], skipped := 0, tabs := tabs, runs := runs, arrays := arrays, extra := extra } with
      | none => .next s
      | some a =>
        let bytes := restoreRecord h a lost
        if recs.length ≠ ceilDiv bytes.length 0x10000 ∨ !recs.all a.s.regionFree ∨ recs ≠ (List.range recs.length).map (recs.headD 0 + ·) then .next s
        else
          let s := (a.s.takeRegions r.slice recs).stackWrite (recs.headD 0 * 0x10000) bytes
          let s := if r.inPlace then
              let s := (a.made.filter (fun p => p.2 != 0 && (smGet s.seqs p.2).isNone)).foldl (fun s p => s.protect p.2) s
              s.setVrn { s.vrn with leases := s.vrn.leases.map (fun (l : Lease) => if l.owner = r.owner then { l with adopted := true } else l) }
            else s
          .next (s.endRestore r .ok step (lost + a.skipped))

end Machine
end Sys2Proof
end

