-- ==== Sys2Proof/Machine/Hierarchy.lean ====
section
/-!
DEFINITION. The manager and worker hierarchy (spec 23): jobs, control connections, heartbeats, fencing, shrink and republishing,
membership changes, takeover. What firmware orders another device to do leaves as an `order`, what it is ordered to do arrives as the
command's own row with a channel number of 320 or above (log entry 26). Orders: 1 FENCE, 2 FENCE_DONE, 3 step, 4 ADOPT, 5 PERSIST, 6 job map,
7 map acknowledged, 8 leave, 9 join, 10 records for the deputy, 11 hold a lease, 12 lease registered, 13 deputy named or role handed on,
14 a shard copy found poisoned.
-/
namespace Sys2Proof
namespace Machine

/-! ### Members -/

/-- A member as it is entered. -/
def Member.fresh (state role serial : Nat) (ips : List Nat) : Member :=
  { state := state, role := role, reason := 0, buddy := none, serial := serial, ips := ips, missed := 0, heard := true, silent := 0,
    jstep := 0, selfFail := false, conn := none }

/-- Is a member of the job still part of it: active, leaving or joining? -/
def Member.live (m : Member) : Bool := m.state == 1 || m.state == 3 || m.state == 4

/-- Changes a member. -/
def State.modMember (s : State) (n : Nat) (f : Member → Member) : State :=
  s.setHrc { s.hrc with members := smMap s.hrc.members (fun k m => if k = n then f m else m) }

/-- Numbers of the other live members. -/
def State.livePeers (s : State) : List Nat := smKeys s.hrc.members Member.live

/-- Does this device track a peer, R552? It sends heartbeats to the same peers: the tracking is mutual. -/
def State.tracks (s : State) (n : Nat) : Bool :=
  s.inJob && (smGet s.hrc.members n).any Member.live &&
    (s.fget HRC_STATUS_ROLE != 1 || n == s.hrc.mgr || s.hrc.deputy == some n)

/-- Is a shrink or another membership change running? -/
def State.jobBusy (s : State) : Bool := s.fon HRC_STATUS_SHRINK || s.hrc.members.any (fun m => m.2.state == 3 || m.2.state == 4)

/-- The manager's changes go to the deputy (R562). -/
def State.tellDeputy (s : State) (args : List Nat) : State :=
  match s.hrc.deputy with
  | some d => if s.isManager && d != s.selfNum then s.emit (.order d 10 args) else s
  | none => s

/-- A JOB_EVENT notice to the job slice (R578). -/
def State.jobEvent (s : State) : State :=
  s.noticeSlice s.hrc.slice { kind := 3, words := [s.rget HRC_JMAP_EPOCH, s.rget HRC_MEPOCH, s.rget HRC_STATUS, 0] }

/-! ### Keys and connections, R554, R555 -/

/-- The device slot of the control connection to a member. -/
def ctlSlot (p : Nat) : Nat := 1025 + p % 5

/-- The salt of traffic from one member to another; Varnish's connections add 0x2000_0000. -/
def ctlSalt (varnish : Bool) (a b : Nat) : Nat := (if varnish then 0x60000000 else 0x40000000) + a * 4096 + b

/-- Opens a device connection to a peer, sealed, and starts its probe: its number, or none where no context or key takes it. -/
def State.openCtl (s : State) (p : CtlPeer) (varnish : Bool) (replace : Option Conn) : Option (State × Nat) :=
  let key := ctlSlot p.member
  let txs := match replace with | some x => x.txSalt | none => ctlSalt varnish s.selfNum p.member
  let rxs := match replace with | some x => x.rxSalt | none => ctlSalt varnish p.member s.selfNum
  if !s.portPresent p.die p.port || decide (p.payload > 3) || !(replace.isSome || s.saltOk 64 key txs) then none
  else match s.ctxSlot 64 p.region with
  | none => none
  | some (backing, isNew) =>
    let fl := (p.flags ||| 4) &&& 0xF
    let x := Conn.opened 64 p.die p.port fl (1024 * 2 ^ p.payload) p.dscp p.tci 0 0 0xFFFF key txs rxs 0 backing
    match s.enterConn { x with iv := (replace.map (·.iv)).getD 0 } with
    | none => none
    | some (s, c, _) =>
      let s := if isNew then s.takeRegions 64 [p.region] else s
      let e := s.keySlot key
      let s := if replace.isSome then s else s.setKeySlot key { e with salts := e.salts ++ [txs] }
      some (s.startProbe c p.conn p.incarn p.ip p.hop none, c)

/-- Loads the job's keys from its 128-byte block, which is zeroed (R554, R512). -/
def State.loadJobKeys (s : State) (sl key : Nat) : Except Status State :=
  match s.readBlock sl key 128 with
  | .error .poisoned => .error .badDescriptor
  | .error st => .error st
  | .ok (s, bs) =>
    let s := s.busWrite key (leBytes 128 0)
    let a := bs.take 64
    let b := bs.drop 64
    if !keyBlockOk a || leField a 32 1 != 1 || !keyBlockOk b then .error .badDescriptor
    else
      let s := s.setKeySlot 1024 { (s.keySlot 1024).load a with usage := 4, slice := 64 }
      .ok ((List.range 5).foldl (fun s i => s.setKeySlot (1025 + i) { (s.keySlot (1025 + i)).load b with usage := 8, slice := 64 }) s)

/-- The checks of a job slice and its job map area, R553: a live slice, a 2 MiB area in its windows with W. -/
def State.jobSliceErr (s : State) (sl port area : Nat) : Option Status :=
  if !s.slLive sl || decide (port > 7) then some .badDescriptor
  else match s.hostWay sl port area 0x200000 true with
  | .bad st => some st
  | _ => none

/-- Drops every job state: connections closed, keys erased, leases and the buddy given up, registers zero. Adopted state stays with its
slice. -/
def State.dropJob (s : State) : State :=
  let cs := s.hrc.members.filterMap (fun m => m.2.conn) ++ s.vrn.conns
  let rs := s.vrn.leases.map (fun l => l.rkey % 2 ^ 24)
  let s := (cs.foldl (fun s c => s.closeConn c true none) s)
  let s := rs.foldl (fun s i => s.forceRevoke i) s
  let s := (List.range 6).foldl (fun s i => s.zeroSlot (1024 + i) false) s
  let s := s.setVrn { s.vrn with buddy := none, buddyUp := false, conns := [], rkey := 0, gib := 0, ents := [], prev := 0, held := [], leases := [],
                                 restore := if s.vrn.restore.any (·.mode == 3) then none else s.vrn.restore }
  let s := s.setHrc Hrc.reset
  [HRC_STATUS, HRC_JOB, HRC_MEPOCH, HRC_JMAP_EPOCH].foldl (fun s r => s.rset r 0) s

/-- Where a job command is refused: outside a job, or on a device whose role does not carry it out (log entry 26). -/
def State.jobErr (s : State) (manager : Bool) : Option Status :=
  if !s.inJob then some .notMember else if manager && !s.isManager then some .busy else none

/-! ### Jobs, R553, R566 -/

/-- JOB_CREATE, R553, R554: the device is member 0 and manager. -/
def execJobCreate (ch : Nat) (pb : Status) (job sl port area key : Nat) (s : State) : Host.Outcome State Fault Refusal :=
  .next (s.serve ch 0x68 [] sl .secure true (fun _ s =>
    if pb ≠ .ok then refuseCmd s pb
    else if s.inJob then refuseCmd s .busy
    else if job = 0 ∨ job ≥ 2 ^ 32 then refuseCmd s .badDescriptor 1
    else match s.jobSliceErr sl port area with
    | some st => refuseCmd s st 1
    | none =>
      match s.loadJobKeys sl key with
      | .error st => refuseCmd s st 1
      | .ok s =>
        let s := (s.rset HRC_STATUS 2).rset HRC_JOB job
        okCmd (s.setHrc { Hrc.reset with slice := sl, port := port, area := area, beatTick := s.pw.onTicks, periodTick := s.pw.onTicks }) [0]))

/-- Opens the control connections a device needs, and enters their members. -/
def State.openPeers (s : State) (mgr : Nat) : List CtlPeer → Option State
  | [] => some s
  | p :: ps =>
    match s.openCtl p false none with
    | none => none
    | some (s, c) =>
      let m := { Member.fresh 1 (if p.member = mgr then 0 else 1) 0 [p.ip] with conn := some c }
      (s.setHrc { s.hrc with members := smSet s.hrc.members p.member m }).openPeers mgr ps

/-- JOB_JOIN, R554, R555, R566. On the joining device: keys loaded, control connections opened to the manager and the deputy, admission
asked for (`num` is the number the manager issues). On the manager, as the request arrives: admission with the next unused number. -/
def execJobJoin (ch : Nat) (pb : Status) (job sl port area key num mgr serial : Nat) (deputy : Option Nat) (peers : List CtlPeer) (s : State) :
    Host.Outcome State Fault Refusal :=
  .next (s.serve ch 0x69 [] sl .secure true (fun _ s =>
    if pb ≠ .ok then refuseCmd s pb
    else if s.isManager ∧ ch ≥ 320 then
      if s.hrc.issued ≥ 256 then refuseCmd s .quotaExceeded
      else if s.jobBusy then refuseCmd s .busy
      else if num ≠ s.hrc.issued + 1 ∨ s.livePeers.length ≥ 256 then laterCmd s
      else match s.openPeers 0 (peers.filter (fun p => p.member == num)) with
      | none => laterCmd s
      | some t =>
        let t := t.rset HRC_MEPOCH (t.rget HRC_MEPOCH + 1)
        let m := (smGet t.hrc.members num).getD (Member.fresh 4 1 serial [])
        let t := t.setHrc { t.hrc with issued := num, members := smSet t.hrc.members num { m with state := 4, role := 1, serial := serial } }
        okCmd (t.tellDeputy [num]) [num]
    else if s.inJob then refuseCmd s .busy
    else if job = 0 ∨ job ≥ 2 ^ 32 ∨ num = 0 ∨ num > 256 then refuseCmd s .badDescriptor 1
    else match s.jobSliceErr sl port area with
    | some st => refuseCmd s st 1
    | none =>
      match s.loadJobKeys sl key with
      | .error st => refuseCmd s st 1
      | .ok s =>
        let s := (s.rset HRC_STATUS (num * 2 ^ 16 + 0x11)).rset HRC_JOB job
        let now := s.pw.onTicks
        let s := s.setHrc { Hrc.reset with
          slice := sl, port := port, area := area, mgr := mgr, deputy := deputy, joinCh := some ch, joinTick := now, beatTick := now,
          periodTick := now }
        match s.openPeers mgr (peers.filter (fun p => p.member == mgr || some p.member == deputy)) with
        | none => laterCmd (s.emit (.order mgr 9 [s.moduleSerial]))
        | some s => laterCmd (s.emit (.order mgr 9 [s.moduleSerial]))))

/-- JOIN_ADMISSION_TIMEOUT, R566: not admitted within SETUP_S of R508. -/
def execJoinAdmissionTimeout (s : State) : Host.Outcome State Fault Refusal :=
  match s.hrc.joinCh with
  | none => .next s
  | some ch =>
    if s.fget HRC_STATUS_STATE = 1 ∧ s.pw.onTicks - s.hrc.joinTick ≥ 100000 * s.fget TMT_SETUP_CTL_SETUP_S then
      .next (s.dropJob.ack ch .setupTimeout 0 [])
    else .next s

/-- A member is declared failed, or departs with reason 4, R557, R558: MEPOCH rises, the shrink runs, FENCE goes to every survivor. -/
def State.declare (s : State) (f reason : Nat) : State :=
  if !(smGet s.hrc.members f).any Member.live then s
  else
    let s := s.modMember f (fun m => { m with state := 2, reason := reason })
    let s := (s.rset HRC_MEPOCH (s.rget HRC_MEPOCH + 1)).fset HRC_STATUS_SHRINK 1
    let peers := s.livePeers
    let s := s.setHrc { s.hrc with
      failed := s.hrc.failed ++ [f],
      ordered := s.hrc.ordered.filter (fun g => ((smGet s.hrc.members g).bind (·.buddy)) != some f),
      waitFence := s.hrc.waitFence.filter (fun k => k / 1024 != f) ++ (s.selfNum :: peers).map (fun m => m * 1024 + f),
      fenceTicks := smSet s.hrc.fenceTicks f s.pw.onTicks, declTick := s.pw.onTicks }
    let s := if reason = 4 then s else s.event HRC_ERR_STATUS_DECLARED
    let s := if reason = 3 then s.event HRC_ERR_STATUS_FENCE_LATE else s
    (peers.foldl (fun s m => s.emit (.order m 1 [f, s.rget HRC_MEPOCH])) s).tellDeputy [f, reason]

/-- JOB_LEAVE, R553, R566. With FORCE every job state is dropped at once. On a worker the departure begins with a final step, after which
the manager is told; on the manager, as a member's order arrives, it runs as a shrink; on a worker, as the manager's order arrives (JOB_DISSOLVE), it is at once. -/
def execJobLeave (ch member : Nat) (force : Bool) (s : State) : Host.Outcome State Fault Refusal :=
  .next (s.serve ch 0x6A [] 0 .secure false (fun _ s =>
    if force then okCmd s.dropJob [s.selfNum]
    else match s.jobErr false with
    | some st => refuseCmd s st
    | none =>
      if s.isManager then
        if ch < 320 ∨ s.jobBusy then refuseCmd s .busy else laterCmd (s.declare member 4)
      else if ch ≥ 320 then okCmd s.dropJob
      else if s.fon HRC_STATUS_SHRINK ∨ s.fget HRC_STATUS_STATE = 1 ∨ s.fget HRC_STATUS_STATE = 3 then refuseCmd s .busy
      else
        let s := (s.fset HRC_STATUS_STATE 3).setHrc { s.hrc with leaveCh := some ch }
        match s.requestStep 1 [] with
        | some (s, n) => laterCmd (s.setHrc { s.hrc with leaveStep := some n })
        | none => laterCmd (s.emit (.order s.hrc.mgr 8 [s.selfNum]))))

/-- A member takes the membership that a map gives. -/
def State.takeMembers (s : State) (mems : List MapMember) : State :=
  mems.foldl (fun s m =>
    if m.num = s.selfNum then s
    else
      let x := (smGet s.hrc.members m.num).getD (Member.fresh m.state m.role m.serial [])
      let y : Member := { x with state := m.state, role := m.role, serial := m.serial, buddy := if m.buddy = 0xFFFF then none else some m.buddy }
      s.setHrc { s.hrc with members := smSet s.hrc.members m.num y }) s

/-- The deputy keeps the manager's records as it accepts them, R562, R567. -/
def State.takeRecords (s : State) (r : JobRecords) : State :=
  let s := s.takeMembers r.mems
  let s := r.ips.foldl (fun s x => s.modMember x.1 (fun m => { m with ips := x.2 })) s
  s.setHrc { s.hrc with failed := r.failed, unfenced := r.unfenced, issued := r.issued, jstep := r.jstep }

/-- A worker takes the roles that an order of the manager gives: who is deputy now or, where the role is handed on, manager. -/
def State.takeRoles (s : State) (member : Option Nat) (hand : Bool) : State :=
  match member with
  | none => (s.fset HRC_STATUS_ROLE 1).setHrc { s.hrc with deputy := none }
  | some d =>
    let me := d == s.selfNum
    if hand then
      let s := (s.modMember s.hrc.mgr (fun m => { m with role := 1 })).modMember d (fun m => { m with role := 0 })
      (s.fset HRC_STATUS_ROLE (if me then 0 else 1)).setHrc { s.hrc with mgr := d, deputy := none }
    else ((s.modMember d (fun m => { m with role := 2 })).fset HRC_STATUS_ROLE (if me then 2 else 1)).setHrc { s.hrc with deputy := some d }

/-- JOB_DEPUTY, R553, R566: names a worker as deputy, or none; `hand` hands the manager's role to the deputy named. As the order
arrives on a worker it takes the roles it gives and, on the deputy, the records `recs` (R562). -/
def execJobDeputy (ch : Nat) (member : Option Nat) (hand : Bool) (s : State) (recs : Option JobRecords := none) : Host.Outcome State Fault Refusal :=
  .next (s.serve ch 0x6B [] 0 .secure false (fun _ s =>
    if ch ≥ 320 ∧ !s.isManager ∧ s.inJob then
      let s := match recs with | some r => s.takeRecords r | none => s
      okCmd (s.takeRoles member hand)
    else match s.jobErr true with
    | some st => refuseCmd s st
    | none =>
      if s.jobBusy then refuseCmd s .busy
      else match member with
      | none =>
        let s := s.hrc.members.foldl (fun s m => s.modMember m.1 (fun x => { x with role := 1 })) s
        okCmd (s.livePeers.foldl (fun s m => s.emit (.order m 13 [0xFFFF])) (s.setHrc { s.hrc with deputy := none })) [s.selfNum]
      | some d =>
        if !(smGet s.hrc.members d).any (fun m => m.state == 1) then refuseCmd s .badDescriptor 1
        else if hand ∧ s.hrc.deputy ≠ some d then refuseCmd s .busy
        else
          let s := s.hrc.members.foldl (fun s m => s.modMember m.1 (fun x => { x with role := if m.1 = d then (if hand then 0 else 2) else 1 })) s
          let s := if hand then (s.fset HRC_STATUS_ROLE 1).setHrc { s.hrc with mgr := d, deputy := none } else s.setHrc { s.hrc with deputy := some d }
          okCmd ((s.livePeers.foldl (fun s m => s.emit (.order m 13 [d, if hand then 1 else 0])) s).emit (.order d 10 [])) [d]))

/-- The device carries out job step j. -/
def State.runJobStep (s : State) (j : Nat) : State :=
  match s.requestStep 1 [] with
  | some (s, n) => s.setHrc { s.hrc with jwait := some (j, n) }
  | none => s

/-- JOB_STEP, R553, R532: the manager orders a step on every member and returns the job step's number. -/
def execJobStep (ch num : Nat) (s : State) : Host.Outcome State Fault Refusal :=
  .next (s.serve ch 0x6C [] 0 .secure false (fun _ s =>
    if ch ≥ 320 ∧ s.inJob ∧ !s.isManager then okCmd (s.runJobStep num)
    else match s.jobErr true with
    | some st => refuseCmd s st
    | none =>
      let j := s.hrc.jstep + 1
      let s := s.setHrc { s.hrc with jstep := j }
      let s := s.livePeers.foldl (fun s m => s.emit (.order m 3 [j])) s
      okCmd (s.runJobStep j) [j]))

/-- JOB_DISSOLVE, R553: every member is ordered to leave, and the manager's own job state goes. -/
def execJobDissolve (ch : Nat) (s : State) : Host.Outcome State Fault Refusal :=
  .next (s.serve ch 0x6D [] 0 .secure false (fun _ s =>
    match s.jobErr true with
    | some st => refuseCmd s st
    | none =>
      if s.hrc.members.any (fun m => m.2.state == 3 || m.2.state == 4) then refuseCmd s .busy
      else okCmd (s.livePeers.foldl (fun s m => s.emit (.order m 8 [m])) s).dropJob [0]))

/-! ### Heartbeats, R556, R557, R559 -/

/-- Can the device not serve the job (SELF_FAIL)? FAILED or HALTED, a fabric link down, spares used up, a failed pseudo-channel. -/
def State.selfFail (s : State) : Bool :=
  s.bootState == 8 || s.bootState == 9 || !s.fab.down.isEmpty || s.fget ATL_BOOT_STATUS_FAIL_CODE == 0x51 ||
    (List.range 20).any (fun m => s.rget MEM_PC_FAILED m != 0)

/-- Periods since the device last heard its manager. -/
def State.mgrSilent (s : State) : Nat := if s.isManager then 0 else ((smGet s.hrc.members s.hrc.mgr).map (·.missed)).getD 0

/-- FLAGS of a heartbeat. -/
def State.beatFlags (s : State) : Nat :=
  (if s.vrn.step.any (fun t => t.phase == 1) then 1 else 0) + (if s.emergency then 2 else 0) + (if s.selfFail then 4 else 0) +
    (if s.unprotected then 8 else 0) + (if s.isManager && s.fon HRC_STATUS_SHRINK then 16 else 0) + (if s.hrc.stall then 32 else 0)

/-- The heartbeat record, R556. -/
def State.beat64 (s : State) (n : Nat) : List Byte :=
  leBytes 4 (s.rget HRC_JOB) ++ leBytes 2 s.selfNum ++ leBytes 1 (s.fget HRC_STATUS_ROLE) ++ leBytes 1 s.bootState ++ leBytes 4 n ++
    leBytes 4 (s.rget HRC_MEPOCH) ++ leBytes 4 (s.rget VRN_STEP_DONE) ++ leBytes 4 s.hrc.jdone ++ leBytes 2 s.beatFlags ++
    leBytes 1 (if s.fab.down.isEmpty then s.fget ATL_BOOT_STATUS_FAIL_CODE else 0x22) ++ leBytes 1 (min 255 s.mgrSilent) ++
    leBytes 4 (s.rget HRC_JMAP_EPOCH) ++ leBytes 8 s.moduleSerial ++ leBytes 8 s.pmu.ns ++ leBytes 16 0

/-- Ticks of 10 µs in the 20 ms period of R556. -/
def beatPeriod : Nat := 2000

/-- HEARTBEAT_SEND, R556: 20 ms after the last, one record to each peer that tracks this device, over its control connection, whatever the
atelier does. -/
def execHeartbeatSend (s : State) : Host.Outcome State Fault Refusal :=
  if !s.inJob ∨ s.pw.onTicks - s.hrc.beatTick < beatPeriod then .next s
  else
    let n := (s.hrc.seqNo + 1) % 2 ^ 32
    let up := fun (m : Nat) => s.tracks m && (match smGet s.hrc.members m with
      | some x => x.conn.any (fun c => (s.conn c).any (fun y => y.state == 3))
      | none => false)
    let peers := s.livePeers.filter up
    let rec64 := s.beat64 n
    let imm := s.selfNum + n % 65536 * 65536
    let t := peers.foldl (fun t m => t.emit (.beat m imm rec64)) (s.setHrc { s.hrc with seqNo := n, beatTick := s.pw.onTicks })
    .next (t.rset HRC_HB_SENT (satAdd 32 (t.rget HRC_HB_SENT) peers.length))

/-- HEARTBEAT_RECEIVE, R557, R559, R568: one of another job, of an older MEPOCH, of a peer not tracked or declared failed is
discarded. A new manager is followed. `poisoned` are the pool units of this device's lease that the sender reports poisoned (R202): the
shards whose copies hold them. -/
def execHeartbeatReceive (beat : List Byte) (poisoned : List Nat) (s : State) : Host.Outcome State Fault Refusal :=
  let m := leField beat 4 2
  let role := leField beat 6 1
  let ep := leField beat 0xC 4
  let fl := leField beat 0x18 2
  let newMgr := role == 0 && m != s.hrc.mgr && !s.isManager && decide (ep > s.rget HRC_MEPOCH)
  if !s.inJob ∨ beat.length ≠ 64 ∨ leField beat 0 4 ≠ s.rget HRC_JOB ∨ ep < s.rget HRC_MEPOCH ∨ !(s.tracks m || newMgr) ∨
      !(smGet s.hrc.members m).any Member.live then .next s
  else
    let s := if newMgr then s.modMember m (fun x => { x with role := 0 }) else s
    let s := if newMgr then s.setHrc { s.hrc with mgr := m, deputy := if s.hrc.deputy = some m then none else s.hrc.deputy } else s
    let s := if s.isManager then s else s.rset HRC_MEPOCH ep
    let s := s.modMember m (fun x => { x with missed := 0, heard := true, silent := leField beat 0x1B 1, jstep := leField beat 0x14 4,
                                              selfFail := bit fl 2, serial := leField beat 0x20 8 })
    let s := if !s.isManager && m == s.hrc.mgr then s.fset HRC_STATUS_SHRINK (if bit fl 4 then 1 else 0) else s
    let hit := s.vrn.ents.filter (fun e => !e.lost && poisoned.any (fun u => decide (e.loc ≤ u ∧ u < e.loc + unitsOf e.bytes)))
    let s := hit.foldl (fun s e => s.vrnInvalidate e.handle e.unit) s
    .next (if s.isManager && bit fl 2 then (if s.running then s.declare m 2 else s.setHrc { s.hrc with late := s.hrc.late ++ [(m, 2)] }) else s)

/-- Whether a peer's count reaches 5 in this period. -/
def Member.reaches (m : Member) : Bool := !m.heard && m.missed == 4

/-- The deputy's conditions of R567 at a period's end: both, or how long only the first has held; after 20 such periods MGR_LINK_LOST. -/
def State.deputyCheck (s : State) : State :=
  let own := ((smGet s.hrc.members s.hrc.mgr).map (·.missed)).getD 0
  if s.fget HRC_STATUS_ROLE ≠ 2 || !s.inJob || own < 5 then s.setHrc { s.hrc with takeOk := false, takeWait := 0 }
  else
    let others := s.hrc.members.filter (fun m => m.1 != s.hrc.mgr && m.2.live)
    let heard := others.filter (fun m => m.2.missed < 5)
    let silent := heard.filter (fun m => decide (m.2.silent ≥ 5))
    if others.isEmpty || decide (2 * silent.length > heard.length) then
      s.setHrc { s.hrc with takeOk := decide (s.hrc.takeWait ≤ 20) }
    else
      let w := s.hrc.takeWait + 1
      let s := s.setHrc { s.hrc with takeOk := false, takeWait := w }
      if w = 21 then s.event HRC_ERR_STATUS_MGR_LINK_LOST else s

/-- HEARTBEAT_PERIOD_END, R557, R560, R565, R567: 20 ms after the last, counts rise; the manager declares silent members, unless more than half of its workers
fell silent at once; members that reached 5 during a restart are declared when it ends. -/
def execHeartbeatPeriodEnd (s : State) : Host.Outcome State Fault Refusal :=
  if !s.inJob ∨ s.pw.onTicks - s.hrc.periodTick < beatPeriod then .next s
  else
    let s := s.setHrc { s.hrc with periodTick := s.pw.onTicks }
    let peers := s.livePeers.filter s.tracks
    let missing := peers.filter (fun n => (smGet s.hrc.members n).any (fun m => !m.heard))
    let five := peers.filter (fun n => (smGet s.hrc.members n).any Member.reaches)
    let s := s.setHrc { s.hrc with members := smMap s.hrc.members (fun n m =>
      if peers.contains n then { m with missed := if m.heard then 0 else min 255 (m.missed + 1), heard := false } else m) }
    let s := s.rset HRC_HB_MISSED (satAdd 32 (s.rget HRC_HB_MISSED) missing.length)
    let most := decide (2 * five.length > peers.length)
    let s := if !s.isManager then
        let n := s.fget HRC_CTL_ISOLATE_N
        let gone := fun k => (smGet s.hrc.members k).all (fun m => decide (m.missed ≥ n))
        if gone s.hrc.mgr && (match s.hrc.deputy with | some d => d == s.selfNum || gone d | none => true) then s.setHrc { s.hrc with isoDue := true } else s
      else if most then s.setHrc { s.hrc with isoDue := true }
      else s.setHrc { s.hrc with late := s.hrc.late ++ five.map (fun n => (n, 1)) }
    let s := if s.isManager && s.running then
        s.hrc.late.foldl (fun s x => s.declare x.1 x.2) (s.setHrc { s.hrc with late := [] })
      else s
    .next s.deputyCheck

/-- ISOLATE, R560: no doorbell of the job slice is accepted, no step starts; what the device holds it keeps. -/
def execIsolate (s : State) : Host.Outcome State Fault Refusal :=
  if !s.hrc.isoDue ∨ s.fget HRC_STATUS_STATE = 0 ∨ s.fget HRC_STATUS_STATE = 4 then .next s
  else
    let s := (s.setHrc { s.hrc with isoDue := false }).fset HRC_STATUS_STATE 4
    let s := (s.slcPut SLC_CTL_ACCEPT s.hrc.slice 0).event HRC_ERR_STATUS_ISOLATED
    .next (s.jobEvent.msix s.hrc.port 0 0)

/-! ### Fencing, R558 -/

/-- FENCE, R558: connections to f break, regions that admit only those are revoked with FREE, keys and T2 targets of f are unusable;
FENCE_DONE follows when every revocation is complete. During an atelier restart the order waits. -/
def execFence (f mepoch : Nat) (s : State) : Host.Outcome State Fault Refusal :=
    let m := (smGet s.hrc.members f).getD (Member.fresh 2 1 0 [])
    if !s.inJob ∨ !s.running ∨ f = s.selfNum ∨ (s.isManager && !s.hrc.waitFence.contains (s.selfNum * 1024 + f)) ∨
        s.hrc.fences.any (fun x => x.1 == f) then .next s
    else
      let s := s.rset HRC_MEPOCH (max mepoch (s.rget HRC_MEPOCH))
      let s := s.modMember f (fun x => { x with state := 2 })
      let known := m.conn.toList ++ (if s.vrn.buddy = some f then s.vrn.conns else [])
      let cs := (s.connsWhere (fun x => x.state != 1 && m.ips.contains x.peerIp) ++ known).eraseDups
      let s := cs.foldl (fun s c => s.breakConn c .connBroken) s
      let rs := smKeys s.tmt.mrs (fun r => r.valid && cs.contains r.rconn)
      let s := rs.foldl (fun s i => match smGet s.tmt.mrs i with
        | some r => (s.startRevoke i r true none (2 ^ 40 + i)).forgetTags [2 ^ 40 + i]
        | none => s) s
      let s := if s.vrn.buddy = some f then s.setVrn { s.vrn with buddyUp := false } else s
      let bad := s.cmp.targets.flatMap (fun t => ((List.range t.2.length).filter (fun i => cs.contains (t.2.getD i 0 % 65536))).map (fun i => t.1 * 16 + i))
      let s := { s with cmp := { s.cmp with unusable := s.cmp.unusable ++ bad.filter (fun u => !s.cmp.unusable.contains u) } }
      .next ((s.setHrc { s.hrc with fences := s.hrc.fences ++ [(f, rs)] }).fenceSettle)

/-- Is a member number this device's own or a live member's? -/
def State.survives (s : State) (b : Nat) : Bool := b == s.selfNum || (smGet s.hrc.members b).any Member.live

/-- R562 step 2: the PERSIST restore of f's state goes to the survivor that `heirs` names for it; with none its handles are STATE_LOST. -/
def State.orderPersist (s : State) (heirs : List (Nat × Nat)) (f : Nat) : State :=
  match heirs.find? (fun h => h.1 == f) with
  | some (_, h) => if s.survives h then s.emit (.order h 5 [f]) else s
  | none => s

/-- Once nobody's FENCE_DONE is awaited the manager orders the adoptions not yet ordered, R562 steps 1 and 2. `heirs` names, for a failed
member, the survivor with the most free T1 quota where its persistent target is that member's area. -/
def State.orderAdoptions (s : State) (heirs : List (Nat × Nat)) : State :=
  if !s.hrc.waitFence.isEmpty then s
  else (s.hrc.failed.filter (fun f => !s.hrc.ordered.contains f)).foldl (fun s f =>
    let s := s.setHrc { s.hrc with ordered := s.hrc.ordered ++ [f] }
    match (smGet s.hrc.members f).bind (·.buddy) with
    | some b => if s.survives b then s.emit (.order b 4 [f]) else s.orderPersist heirs f
    | none => s.orderPersist heirs f) s

/-- FENCE_DONE, R558, R562: member m's acknowledgement for f reaches the manager. -/
def execFenceDone (m f : Nat) (s : State) (heirs : List (Nat × Nat) := []) : Host.Outcome State Fault Refusal :=
  if s.isManager ∧ s.hrc.waitFence.contains (m * 1024 + f) then .next ((s.countFence m f).orderAdoptions heirs) else .next s

/-- FENCE_TIMEOUT, R557: FENCE_MS has passed since the order. -/
def execFenceTimeout (m f : Nat) (s : State) (heirs : List (Nat × Nat) := []) : Host.Outcome State Fault Refusal :=
  if s.isManager ∧ s.running ∧ m ≠ s.selfNum ∧ s.hrc.waitFence.contains (m * 1024 + f) ∧
      s.pw.onTicks - smGetD s.hrc.fenceTicks f 0 ≥ 100 * s.fget HRC_CTL_FENCE_MS then
    .next ((s.declare m 3).orderAdoptions heirs)
  else .next s

/-! ### Republishing, R563, R564 -/

/-- A member entry's 16 bytes. -/
def MapMember.bytes16 (m : MapMember) : List Byte :=
  leBytes 2 m.num ++ leBytes 1 m.state ++ leBytes 1 m.role ++ leBytes 2 m.buddy ++ leBytes 2 0 ++ leBytes 8 m.serial

/-- A remap entry's 16 bytes. -/
def Remap.bytes16 (r : Remap) : List Byte :=
  leBytes 2 r.oldMember ++ leBytes 2 r.newMember ++ leBytes 4 r.oldHandle ++ leBytes 4 r.newHandle ++ leBytes 4 r.step

/-- The parts of a job map, each with its header, DONE 1. -/
def mapParts (job epoch mepoch jstep : Nat) (mems : List MapMember) (remaps : List Remap) : List (List Byte) :=
  let cap := (0x200000 - 32 - 16 * mems.length) / 16
  let n := max 1 (ceilDiv remaps.length cap)
  (List.range n).map (fun i =>
    let rs := (remaps.drop (i * cap)).take cap
    leBytes 4 0x504D424A ++ leBytes 4 job ++ leBytes 4 epoch ++ leBytes 4 mepoch ++ leBytes 2 mems.length ++ leBytes 2 i ++
      leBytes 4 rs.length ++ leBytes 4 jstep ++ leBytes 2 n ++ leBytes 2 1 ++ mems.flatMap MapMember.bytes16 ++ rs.flatMap Remap.bytes16)

/-- Writes a part into the job map area, its header last, and sends the job slice's event vector. -/
def State.putPart (s : State) (bs : List Byte) : State :=
  let sl := s.hrc.slice
  let p := s.hrc.port
  let g := s.curGen sl
  let (_, s) := s.hostPut p 0 sl g (s.hrc.area + 32) false (bs.drop 32)
  let (_, s) := s.hostPut p 0 sl g s.hrc.area false (bs.take 32)
  s.sliceMsix sl p (s.slcGet SLC_CTL_EVT_VEC sl)

/-- The map is acknowledged to the manager (order kind 7). -/
def State.ackMap (s : State) (o : JobMapOut) : State :=
  if o.acked then s
  else
    let s := s.setHrc { s.hrc with map := some { o with acked := true } }
    if s.isManager then s else s.emit (.order s.hrc.mgr 7 [o.epoch])

/-- A map's first part is written and the map is on offer; one of a single part is acknowledged once placed. -/
def State.putMap (s : State) (o : JobMapOut) : State :=
  let o := { o with index := 0, since := s.pw.onTicks, poll := s.pw.onTicks }
  let s := (s.putPart (o.parts.headD [])).rset HRC_JMAP_EPOCH o.epoch
  let s := (s.setHrc { s.hrc with map := some o, stall := false }).jobEvent
  if o.parts.length = 1 then s.ackMap o else s

/-- Is a map of several parts still being offered? No part of it is overwritten before the host has read it (R564). -/
def State.mapOffered (s : State) : Bool := s.hrc.map.any (fun o => decide (o.parts.length > 1))

/-- Maps behind one that its host does not take are acknowledged with it (R564). -/
def State.ackBehind (s : State) : State :=
  let l := s.hrc.maps.filter (fun o => !o.acked)
  let s := s.setHrc { s.hrc with maps := s.hrc.maps.map (fun o => { o with acked := true }) }
  if s.isManager then s else l.foldl (fun s o => s.emit (.order s.hrc.mgr 7 [o.epoch])) s

/-- The manager's member entries, its own included. -/
def State.mapMembers (s : State) : List MapMember :=
  let me : MapMember := ⟨s.selfNum, 1, s.fget HRC_STATUS_ROLE, s.vrn.buddy.getD 0xFFFF, s.moduleSerial⟩
  let l := s.hrc.members.map (fun m => (⟨m.1, m.2.state, m.2.role, m.2.buddy.getD 0xFFFF, m.2.serial⟩ : MapMember))
  ((me :: l).foldl (fun m x => smSet m x.num x) ([] : SMap MapMember)).map (·.2)

/-- R560's wait: (ISOLATE_N + 1) × 20 ms after the last declaration of the shrink under way. -/
def State.isolateWaited (s : State) : Bool :=
  s.hrc.failed.isEmpty || decide (s.pw.onTicks - s.hrc.declTick ≥ (s.fget HRC_CTL_ISOLATE_N + 1) * beatPeriod)

/-- The newest job map epoch this device has, written or behind a map on offer. -/
def State.newestMap (s : State) : Nat := s.hrc.maps.foldl (fun n o => max n o.epoch) (s.rget HRC_JMAP_EPOCH)

/-- JOB_MAP, R562 to R564: the map with its epoch is written, part 0 first; one of a single part is acknowledged once placed. The manager
makes its own from its records, after R560's wait where it resumes handles, and sends it on. A map that finds one of several parts still on
offer waits behind it. -/
def execJobMap (epoch mepoch jstep : Nat) (mems : List MapMember) (remaps : List Remap) (s : State) : Host.Outcome State Fault Refusal :=
  if !s.inJob ∨ !s.running ∨ epoch ≤ s.newestMap ∨ (s.isManager && (epoch != s.newestMap + 1 || !s.hrc.waitFence.isEmpty ||
      !(remaps.isEmpty || s.isolateWaited))) then .next s
  else
    let mgr := s.isManager
    let s := if mgr then s else (s.takeMembers mems).rset HRC_MEPOCH (max mepoch (s.rget HRC_MEPOCH))
    let js := if mgr then (s.hrc.members.filter (fun m => m.2.live)).foldl (fun j m => min j m.2.jstep) s.hrc.jdone else jstep
    let parts := mapParts (s.rget HRC_JOB) epoch (s.rget HRC_MEPOCH) js (if mgr then s.mapMembers else mems) remaps
    let o : JobMapOut := { epoch := epoch, parts := parts, index := 0, since := s.pw.onTicks, poll := s.pw.onTicks, acked := false }
    let s := if mgr then (s.livePeers.foldl (fun s m => s.emit (.order m 6 [epoch])) s).tellDeputy [epoch] else s
    if s.mapOffered then
      let s := s.setHrc { s.hrc with maps := s.hrc.maps ++ [o] }
      .next (if s.hrc.stall then s.ackBehind else s)
    else .next (s.putMap o)

/-- JOB_MAP_PART_POLL, R564: DONE is read every 1 ms, which is 100 ticks; at 0 the next part is written, or after the last the map is
acknowledged and the one behind it is next. -/
def execJobMapPartPoll (got : HostData) (s : State) : Host.Outcome State Fault Refusal :=
  match s.hrc.map with
  | none => .next s
  | some o =>
    if s.pw.onTicks - o.poll < 100 then .next s else
    let sl := s.hrc.slice
    let o := { o with poll := s.pw.onTicks }
    match (s.setHrc { s.hrc with map := some o }).hostGet s.hrc.port sl (s.curGen sl) (s.hrc.area + 0x1E) 2 got with
    | (s, (.ok, bs)) =>
      if bs.length ≠ 2 ∨ leVal bs ≠ 0 then .next s
      else if o.index + 1 < o.parts.length then
        let s := s.putPart (o.parts.getD (o.index + 1) [])
        .next (s.setHrc { s.hrc with map := some { o with index := o.index + 1, since := s.pw.onTicks } })
      else
        let s := s.ackMap o
        let s := s.setHrc { s.hrc with map := none, stall := false }
        match s.hrc.maps with
        | n :: ns => .next ((s.setHrc { s.hrc with maps := ns }).putMap n)
        | [] => .next s
    | (s, _) => .next s

/-- JOB_MAP_STALL, R564: a part not taken within 10 s acknowledges the map anyway; the remaining parts stay on offer. -/
def execJobMapStall (s : State) : Host.Outcome State Fault Refusal :=
  match s.hrc.map with
  | none => .next s
  | some o =>
    if o.parts.length = 1 ∨ s.pw.onTicks - o.since < 1000000 then .next s
    else
      let s := s.ackMap o
      .next (s.setHrc { s.hrc with stall := true }).ackBehind

/-! ### Buddies and leases, R530, R561 -/

/-- GiB of the lease requested for an owner with P protected units. -/
def leaseGib (pct units : Nat) : Nat := ceilDiv (0x20000000 + units * 0x10000 + units * 0x10000 * pct / 100) 0x40000000

/-- The next members of the ring after `owner`, in order. -/
def ringAfter (nums : List Nat) (owner : Nat) : List Nat := nums.filter (fun n => decide (n > owner)) ++ nums.filter (fun n => decide (n < owner))

/-- R561's assignment: for each owner its buddy and lease, where a member of the ring has room. `free` falls as leases are given. -/
def assignRing (pct : Nat) (nums : List Nat) : List MemberSize → SMap Nat → List (Nat × Option (Nat × Nat))
  | [], _ => []
  | m :: ms, free =>
    let need := leaseGib pct m.units
    match (ringAfter nums m.num).find? (fun b => decide (1 ≤ smGetD free b 0)) with
    | none => (m.num, none) :: assignRing pct nums ms free
    | some b =>
      let g := min need (smGetD free b 0)
      (m.num, some (b, g)) :: assignRing pct nums ms (smSet free b (smGetD free b 0 - g))

/-- Regions of a lease. -/
def Lease.regions (l : Lease) : List Nat := (List.range (l.gib * 16384)).map (l.base + ·)

/-- Is a lease still there: not adopted, or with a unit that has not returned to the device (R543)? -/
def State.leaseLive (s : State) (l : Lease) : Bool := !l.adopted || l.regions.any (fun r => smGetD s.own r 64 != 64)

/-- Registers the lease that an order gives, R530: none where its place is not free in the buddy region or the connection cannot be
opened. GiB 0 releases the owner's lease. -/
def State.holdLease (s : State) (o : LeaseOrder) : Option State :=
  let old := s.vrn.leases.filter (fun l => l.owner == o.owner && !l.adopted)
  let answer := fun (s : State) (k : Nat) => s.emit (.order (if s.isManager then s.selfNum else s.hrc.mgr) 12 [o.owner, k, o.gib])
  if old.any (fun l => l.base == o.base && l.gib == o.gib && (smGet s.tmt.mrs (l.rkey % 2 ^ 24)).any (·.valid)) then
    some (answer s ((old.head?.map (·.rkey)).getD 0))
  else
  let s := old.foldl (fun s l => s.forceRevoke (l.rkey % 2 ^ 24)) s
  let s := s.setVrn { s.vrn with leases := s.vrn.leases.filter (fun l => !old.contains l && s.leaseLive l) }
  if o.gib = 0 then some s
  else
    let mine := (List.range (o.gib * 16384)).map (o.base + ·)
    if o.base % 16384 ≠ 0 ∨ !mine.all (fun r => s.inBuddy r && smGetD s.own r 64 == 64) ∨
        s.vrn.leases.any (fun l => decide (o.base < l.base + l.gib * 16384 ∧ l.base < o.base + o.gib * 16384)) then none
    else match s.openCtl o.peer true none with
    | none => none
    | some (s, c) =>
      match s.enterMr 64 3 c false 0 (o.base * 0x10000) (o.gib * 0x40000000) with
      | none => none
      | some (s, k) =>
        let l : Lease := { owner := o.owner, serial := o.serial, base := o.base, gib := o.gib, rkey := k, adopted := false }
        some (answer (s.setVrn { s.vrn with leases := s.vrn.leases ++ [l] }) k)

/-- Registers leases in turn. -/
def State.holdLeases (s : State) : List LeaseOrder → Option State
  | [] => some s
  | o :: os => match s.holdLease o with | some s => s.holdLeases os | none => none

/-- Takes the lease assigned to this device: Varnish opens its connection and reads the manifests that the lease holds before its first step
(R544); every protected shard is new to this buddy (R547). The lease it has already stays as it is. None while a restore runs. -/
def State.takeGrant (s : State) (g : LeaseGrant) : Option State :=
  if s.vrn.buddy = some g.buddy ∧ s.vrn.buddyUp ∧ s.vrn.rkey = g.rkey ∧ s.vrn.gib = g.gib then some s
  else if s.vrn.restore.any (·.mode != 3) then none
  else
  let s := s.vrn.conns.foldl (fun s c => s.closeConn c true none) s
  match s.openCtl g.peer true none with
  | none => none
  | some (s, c) =>
    let s := s.setVrn { s.vrn with buddy := some g.buddy, buddyUp := true, conns := [c], rkey := g.rkey, gib := g.gib, ents := [],
                                   prev := 0, held := [] }
    some (({ s with shards := smMap s.shards (fun _ _ => true) } : State).startRestore 3 64 320 0 s.moduleSerial)

/-- Every member's own step-down from a shrink: a leaving device drops its job state and completes; a joining one with its first
lease is a member. -/
def State.settleSelf (s : State) (leased : Bool) : State :=
  match s.fget HRC_STATUS_STATE, s.hrc.leaveCh, s.hrc.joinCh with
  | 3, some ch, _ => let n := s.selfNum; s.dropJob.ack ch .ok 0 [n]
  | 1, _, some ch =>
    if leased then ((s.fset HRC_STATUS_STATE 2).setHrc { s.hrc with joinCh := none }).ack ch .ok 0 [s.selfNum] else s
  | _, _, _ => s

/-- SHRINK_END, R562, R561, R547. On the manager: every survivor has acknowledged the map (`acked`) and R560's wait has passed; SHRINK is
cleared and leases are assigned by the ring. On every device: the leases it is to hold, and its own, take effect. -/
def execShrinkEnd (acked : List Nat) (sizes : List MemberSize) (hold : List LeaseOrder) (own : Option LeaseGrant) (s : State) :
    Host.Outcome State Fault Refusal :=
  if !s.inJob ∨ !s.running then .next s
  else
    let ready := s.hrc.waitFence.isEmpty && s.livePeers.all acked.contains && s.hrc.map.all (·.acked) && s.hrc.maps.all (·.acked) &&
      s.isolateWaited
    if s.isManager && !ready then .next s
    else
      let r := if s.isManager then
          let nums := ((s.selfNum :: s.livePeers).foldl (fun m n => smSet m n n) ([] : SMap Nat)).map (·.2)
          let asg := assignRing (s.fget HRC_CTL_STEP_PCT) nums (sizes.filter (fun z => nums.contains z.num)) ((sizes.map (fun z => (z.num, z.free))).foldl (fun m p => smSet m p.1 p.2) [])
          let s := asg.foldl (fun s a => match a.2 with
            | some (b, g) => (s.modMember a.1 (fun m => { m with buddy := some b })).emit (.order b 11 [a.1, g])
            | none => s.modMember a.1 (fun m => { m with buddy := none })) s
          let s := s.setHrc { s.hrc with failed := [], ordered := [], unfenced := [], fenceTicks := [], members := smMap s.hrc.members (fun _ m => if m.state = 4 then { m with state := 1 } else m) }
          (s.fset HRC_STATUS_SHRINK 0).tellDeputy [0]
        else s.fset HRC_STATUS_SHRINK 0
      match r.holdLeases hold with
      | none => .next s
      | some r =>
        match own with
        | none => .next (r.settleSelf false)
        | some g =>
          match r.takeGrant g with
          | none => .next s
          | some r => .next (r.settleSelf true)

/-! ### Takeover and reopening, R568, R555 -/

/-- DEPUTY_TAKEOVER, R568: the deputy is manager, declares and fences the old one, sends the fencing orders that its records call open again
(R565), and names the lowest-numbered worker fit for it as deputy. -/
def execDeputyTakeover (s : State) : Host.Outcome State Fault Refusal :=
  if !s.hrc.takeOk ∨ !s.running ∨ s.fget HRC_STATUS_ROLE ≠ 2 ∨ !s.inJob then .next s
  else
    let old := s.hrc.mgr
    let s := (s.rset HRC_MEPOCH (s.rget HRC_MEPOCH + 1)).fset HRC_STATUS_ROLE 0
    let s := s.fset HRC_STATUS_TAKEOVER 1
    let s := s.setHrc { s.hrc with mgr := s.selfNum, deputy := none, takeOk := false, takeWait := 0 }
    let again := s.hrc.unfenced.filter (· != old)
    let s := s.declare old 1
    let peers := s.livePeers
    let s := s.setHrc { s.hrc with
      unfenced := [],
      waitFence := s.hrc.waitFence ++ again.flatMap (fun f => (s.selfNum :: peers).map (fun m => m * 1024 + f)),
      fenceTicks := again.foldl (fun t f => smSet t f s.pw.onTicks) s.hrc.fenceTicks }
    let s := again.foldl (fun s f => peers.foldl (fun s m => s.emit (.order m 1 [f, s.rget HRC_MEPOCH])) s) s
    match (s.hrc.members.find? (fun m => m.2.state == 1 && !m.2.selfFail)).map (·.1) with
    | some d =>
      let s := s.modMember d (fun m => { m with role := 2 })
      let s := peers.foldl (fun s m => s.emit (.order m 13 [d, 0])) s
      .next ((s.setHrc { s.hrc with deputy := some d }).tellDeputy [old])
    | none => .next s

/-- CONTROL_CONNECTION_REOPEN, R555: a broken control connection to a member not declared failed is replaced under its own salts and
transmit counter, and closed; a tracked member to which there is none yet gets its first. -/
def execControlConnectionReopen (peer : CtlPeer) (s : State) : Host.Outcome State Fault Refusal :=
  match smGet s.hrc.members peer.member with
  | none => .next s
  | some m =>
    match m.conn.bind (fun c => (s.conn c).map (fun x => (c, x))) with
    | none =>
      if !s.tracks peer.member ∨ !s.running then .next s
      else match s.openCtl peer false none with
      | none => .next s
      | some (s, n) => .next (s.modMember peer.member (fun y => { y with conn := some n, ips := [peer.ip] }))
    | some (c, x) =>
      if !m.live ∨ x.state ≠ 4 ∨ !s.running then .next s
      else match s.openCtl peer false (some x) with
      | none => .next s
      | some (s, n) => .next ((s.closeConn c true none).modMember peer.member (fun y => { y with conn := some n }))

end Machine
end Sys2Proof
end

