-- ==== Sys2Proof/Machine/NvmIo.lean ====
section
/-!
DEFINITION. Storage controllers (spec 16): the I/O commands (R410, R413 to R415), recorded operations as they run (R418, R419), and
firmware's namespace and assignment commands (R398, R411, R412, R420).
-/
namespace Sys2Proof
namespace Machine

/-! ### Namespaces under an operation, ranges -/

/-- The refusal of I/O for a namespace under a recorded operation, or after a failed sanitize (R415, R418). -/
def State.nsRefusal (s : State) (num : Nat) : Option Nat :=
  match s.nvm.ops.find? (fun p => !p.2.ended && p.2.nss.any (fun r => r.num == num)) with
  | some (c, o) => some (if s.opState c = 3 then opBusy 1 else opBusy o.kind)
  | none => if s.nvm.failed.any (fun f => f % 64 == num) then some (nvmStatus 0 0x1C) else none

/-- The pieces of [off, off + n) of a scratch namespace as stack ranges. -/
def nsPieces (regions : List Nat) (off n : Nat) : List (Nat × Nat) :=
  ((List.range ((off + n + 0xFFFF) / 0x10000 - off / 0x10000)).map (fun i =>
    let k := off / 0x10000 + i
    let lo := max off (k * 0x10000)
    let hi := min (off + n) ((k + 1) * 0x10000)
    (regions.getD k 0 * 0x10000 + lo % 0x10000, hi - lo))).filter (fun p => p.2 != 0)

/-- Writes zeros over [off, off + n) of a scratch namespace: whole regions are cleared. -/
def State.nsZero (s : State) (regions : List Nat) (off n : Nat) : State :=
  (nsPieces regions off n).foldl (fun s p => if p.2 = 0x10000 then s.zeroRegion (p.1 / 0x10000) else s.busWrite p.1 (leBytes p.2 0)) s

/-- An I/O command on a namespace, before its data moves: its status where it is refused (R410, R415). -/
def State.ioRefusal (s : State) (c : Nat) (d : List Byte) : Option Nat :=
  match s.nsAt c (sqNsid d) with
  | none => some badNs
  | some (num, _) => s.nsRefusal num

/-- An I/O command of one opcode on queue q. -/
def nvmIo (c q op : Nat) (sqe : HostData) (run : State → Nat → List Byte → Nat → Namespace → Option State) (s : State) :
    Host.Outcome State Fault Refusal :=
  if q = 0 then .next s
  else .next (nvmRow c q sqe (fun d => sqOp d == op) (fun s sl d =>
    match s.nsAt c (sqNsid d) with
    | none => some (s.nvmEnd c q (sqCid d) 0 badNs)
    | some (num, n) =>
      match s.nsRefusal num with
      | some st => some (s.nvmEnd c q (sqCid d) 0 st num)
      | none => run s sl d num n) s)

/-- First block, number of blocks. -/
def sqSlba (d : List Byte) : Nat := leField d 40 8
def sqNlb (d : List Byte) : Nat := getBits (sqDw d 12) 15 0 + 1

/-- PRINFO. -/
def sqPrinfo (d : List Byte) : Nat := getBits (sqDw d 12) 29 26

/-- LBA Out of Range. -/
def lbaBad : Nat := nvmStatus 0 0x80 true

/-- The command counts as a read or a write done by the host. -/
def State.nvmCount (s : State) (c : Nat) (write : Bool) : State :=
  let n := s.ctl c
  s.setCtl c (if write then { n with writes := n.writes + 1 } else { n with reads := n.reads + 1 })

/-- Starts a command's remote transfer. -/
def State.nvmRemote (s : State) (c q num op : Nat) (d : List Byte) (n : Namespace) (write : Bool) (ranges : List (Nat × Nat))
    (prps : List (Nat × Nat)) (data : List Byte) : State :=
  let f : Xfer := { conn := n.conn, rkey := n.rkey, write := write, todo := ranges.map (fun r => (n.roff + r.1, r.2)), off := 0, tags := [],
                    flush := none, flushed := false, data := data }
  let x : NvmCmd := { sq := q, cid := sqCid d, op := op, ns := num, prps := prps, xfer := f, backed := false, since := s.pw.onTicks }
  (s.setCtl c { s.ctl c with cmds := (s.ctl c).cmds ++ [x] }).nvmGoOn c x

/-- NVM_FLUSH, R410: completes at once. -/
def execNvmFlush (c q : Nat) (sqe : HostData) (s : State) : Host.Outcome State Fault Refusal :=
  nvmIo c q 0 sqe (fun s _ d num _ => some (s.nvmEnd c q (sqCid d) 0 0 num)) s

/-- Reads scratch data page by page into the PRP pages, R413, R415: none where a burst is poisoned, with what was sent before it. -/
def State.nsReadOut (s : State) (c sl q cid : Nat) (regions : List Nat) : Nat → List (Nat × Nat) → State × Bool
  | _, [] => (s, true)
  | off, (a, n) :: ps =>
    let r := s.getPieces (nsPieces regions off n)
    match r.2 with
    | none => (r.1, false)
    | some bs =>
      match r.1.nvmSend c sl q cid [(a, bs)] with
      | some s => s.nsReadOut c sl q cid regions (off + n) ps
      | none => (r.1, false)

/-- The status of a read or write that names its blocks wrongly. -/
def rangeErr (d : List Byte) (n : Namespace) (mdts : Bool) : Option Nat :=
  if sqPrinfo d ≠ 0 then some badField
  else if sqSlba d + sqNlb d > n.blocks then some lbaBad
  else if mdts && decide (sqNlb d * blockSize n.lbaf > 0x100000) then some badField
  else none

/-- NVM_READ, R410, R413. -/
def execNvmRead (c q : Nat) (sqe lst : HostData) (s : State) : Host.Outcome State Fault Refusal :=
  nvmIo c q 2 sqe (fun s sl d num n =>
    let cid := sqCid d
    let fail := fun (s : State) (st : Nat) => some (s.nvmEnd c q cid 0 st num)
    match rangeErr d n true with
    | some st => fail s st
    | none =>
      let len := sqNlb d * blockSize n.lbaf
      let off := sqSlba d * blockSize n.lbaf
      match s.prpPages c sl d len lst with
      | .error none => none
      | .error (some st) => fail s st
      | .ok (s, ps) =>
        if !s.pagesOk c sl true ps then fail s (nvmStatus 0 4 true)
        else
          let s := (s.nvmCount c false).count 19 c 2 sl len
          if n.kind = 1 then
            match s.nsReadOut c sl q cid n.regions off ps with
            | (s, true) => fail s 0
            | (s, false) => fail s (nvmStatus 2 0x81 true)
          else some (s.nvmRemote c q num 2 d n false [(off, len)] ps [])) s

/-- NVM_WRITE, R410, R413. -/
def execNvmWrite (c q : Nat) (sqe lst data : HostData) (s : State) : Host.Outcome State Fault Refusal :=
  nvmIo c q 1 sqe (fun s sl d num n =>
    let cid := sqCid d
    let fail := fun (s : State) (st : Nat) => some (s.nvmEnd c q cid 0 st num)
    match rangeErr d n true with
    | some st => fail s st
    | none =>
      let len := sqNlb d * blockSize n.lbaf
      let off := sqSlba d * blockSize n.lbaf
      match s.prpPages c sl d len lst with
      | .error none => none
      | .error (some st) => fail s st
      | .ok (s, ps) =>
        match s.nvmGather c sl ps data with
        | .error none => none
        | .error (some st) => fail s st
        | .ok (s, bs) =>
          let s := (s.nvmCount c true).count 19 c 2 sl len
          if n.kind = 1 then fail (s.putPieces bs (nsPieces n.regions off len)) 0
          else some (s.nvmRemote c q num 1 d n true [(off, len)] [] bs)) s

/-- Writes zeros over block ranges and completes, R410, R413. -/
def State.nvmZero (s : State) (c q num op : Nat) (d : List Byte) (n : Namespace) (ranges : List (Nat × Nat)) : State :=
  let bs := blockSize n.lbaf
  let rs := (ranges.map (fun r => (r.1 * bs, r.2 * bs))).filter (fun r => r.2 != 0)
  if n.kind = 1 then (rs.foldl (fun s r => s.nsZero n.regions r.1 r.2) s).nvmEnd c q (sqCid d) 0 0 num
  else if rs.isEmpty then s.nvmEnd c q (sqCid d) 0 0 num
  else s.nvmRemote c q num op d n true rs [] []

/-- WRITE_ZEROES, R410. -/
def execWriteZeroes (c q : Nat) (sqe : HostData) (s : State) : Host.Outcome State Fault Refusal :=
  nvmIo c q 8 sqe (fun s _ d num n =>
    match rangeErr d n false with
    | some st => some (s.nvmEnd c q (sqCid d) 0 st num)
    | none => some ((s.nvmCount c true).nvmZero c q num 8 d n [(sqSlba d, sqNlb d)])) s

/-- DATASET_MANAGEMENT, R410: with AD every range is written with zeros. -/
def execDatasetManagement (c q : Nat) (sqe ranges : HostData) (s : State) : Host.Outcome State Fault Refusal :=
  nvmIo c q 9 sqe (fun s sl d num n =>
    let fail := fun (s : State) (st : Nat) => some (s.nvmEnd c q (sqCid d) 0 st num)
    let k := getBits (sqDw d 10) 7 0 + 1
    if !bit (sqDw d 11) 2 then fail s 0
    else match s.prpPages c sl d (16 * k) (.ok, []) with
    | .error none => none
    | .error (some st) => fail s st
    | .ok (s, ps) =>
      match s.nvmGather c sl ps ranges with
      | .error none => none
      | .error (some st) => fail s st
      | .ok (s, bs) =>
        let rs := (List.range k).map (fun i => (leField bs (16 * i + 8) 8, leField bs (16 * i + 4) 4))
        if rs.any (fun r => decide (r.1 + r.2 > n.blocks)) then fail s lbaBad
        else some (s.nvmZero c q num 9 d n rs)) s

/-- Has a remote transfer not been done within RTO_MS (R415)? -/
def State.xferLate (s : State) (x : NvmCmd) : Bool := decide (s.pw.onTicks ≥ x.since + 100 * s.fget NVC_CTL_RTO_MS)

/-- REMOTE_TRANSFER_TIMEOUT, R415: the transfer is not done within RTO_MS. -/
def execRemoteTransferTimeout (c q cid : Nat) (s : State) : Host.Outcome State Fault Refusal :=
  match (s.ctl c).cmds.find? (fun x => x.is q cid && s.xferLate x) with
  | some x => .next ((s.remoteFail (nvmStatus 0 0x22)).nvmFinish c x (nvmStatus 0 0x22)).nvmSettle
  | none => .next s

/-! ### Recorded operations as they run, R418 -/

/-- The transfer that fills a remote chunk with zeros. -/
def chunkXfer (n : Namespace) (k : Nat) : Xfer :=
  { conn := n.conn, rkey := n.rkey, write := true, todo := [(n.roff + k * 0x100000, min 0x100000 (n.bytes - k * 0x100000))], off := 0, tags := [],
    flush := none, flushed := false, data := [] }

/-- Starts the chunk at POS of an operation: a scratch one is written at once, one whose namespace is gone is passed over. -/
def State.opStep (s : State) (c : Nat) (o : RecOp) (recOk : Bool) : State :=
  match opPlace o.nss o.pos 0 with
  | none => s.endOp c o true recOk
  | some (_, r, k) =>
    match smGet s.nvm.ns r.num with
    | none => s.opAdvance c o recOk
    | some n =>
      if n.kind = 1 then (s.nsZero n.regions (k * 0x100000) (min 0x100000 (n.bytes - k * 0x100000))).opAdvance c o recOk
      else
        let (s, x) := s.xferIssue (chunkXfer n k) 2048
        if x.allTags.isEmpty && s.connDead n.conn then s.chunkFailed c o (nvmStatus 0 0x22)
        else s.setOp c { o with chunk := some x, verdict := 0 }

/-- RECORDED_OP_CHUNK, R418, R419: the next chunk is filled, or the remote one that has been written is counted. Filling starts once
commands already fetched for the namespaces have completed. -/
def execRecordedOpChunk (c : Nat) (recOk : Bool) (s : State) : Host.Outcome State Fault Refusal :=
  match smGet s.nvm.ops c with
  | none => .next s
  | some o =>
    if s.opState c ≠ 1 || o.ended || !s.running then .next s
    else if !o.started && o.nss.any (fun r => s.nsBusy r.num (List.range 8)) then .next s
    else
      let o := { o with started := true }
      if o.verdict = 1 then .next (s.opAdvance c o recOk).nvmSettle
      else if o.verdict = 2 || o.chunk.isSome then .next s
      else .next (s.opStep c o recOk).nvmSettle

/-- REMOTE_WRITE_RETRY, R418: 1 s after a remote write failed it is tried again; after 60 s the operation ends FAILED. -/
def execRemoteWriteRetry (c : Nat) (recOk : Bool) (s : State) : Host.Outcome State Fault Refusal :=
  match smGet s.nvm.ops c with
  | none => .next s
  | some o =>
    match o.bad with
    | none => .next s
    | some (first, last) =>
      if s.opState c ≠ 1 ∨ o.verdict ≠ 2 ∨ o.ended ∨ s.pw.onTicks < last + 100000 then .next s
      else if s.pw.onTicks ≥ first + 6000000 then .next (s.endOp c o false recOk).nvmSettle
      else .next (s.opStep c { o with verdict := 0 } recOk)

/-! ### Firmware's commands, R398, R411, R412, R420 -/

/-- Namespaces a slice holds. -/
def State.nsHeld (s : State) (sl : Nat) : Nat := smCount s.nvm.ns (fun n => n.slice == sl)

/-- A record of a recorded operation that waits for an NGUID. -/
def State.recordedNs (s : State) (nguid : Nat) : Option RecNs :=
  s.nvm.ops.findSome? (fun p => if s.opState p.1 = 3 then p.2.nss.find? (fun r => r.kind == 2 && r.nguid == nguid) else none)

/-- NS_CREATE, R411, R420: the parameter block's fields, and the woven regions firmware takes for a scratch namespace; `serial` is the
module serial of the connection's target. -/
def execNsCreate (ch : Nat) (pb : Status) (kind lbaf nguid blocks conn rkey roff serial : Nat) (regions : List Nat) (s : State) :
    Host.Outcome State Fault Refusal :=
  .next (s.serve ch 0x52 [] 0 .bound true (fun sl s =>
    let bytes := blocks * blockSize lbaf
    let need := ceilDiv bytes 0x10000
    if pb ≠ .ok then refuseCmd s pb
    else if kind = 0 ∨ kind > 2 ∨ lbaf > 1 ∨ nguid ≥ 2 ^ 128 ∨ blocks = 0 ∨ (kind = 1 ∧ (conn ≠ 0 ∨ rkey ≠ 0 ∨ roff ≠ 0)) ∨
        (kind = 2 ∧ blocks > 2 ^ 48 / blockSize lbaf) then refuseCmd s .badDescriptor 1
    else if s.nvm.ns.any (fun n => n.2.nguid == nguid) || (kind == 2 && !((s.conn conn).any (fun x => x.slice == sl))) then refuseCmd s .badHandle 1
    else match smLowestFree s.nvm.ns (fun _ => true) 0 64 with
    | none => refuseCmd s .quotaExceeded
    | some i =>
      if s.nsHeld sl ≥ s.quota sl 11 || (kind == 1 && !s.fits sl need) then refuseCmd s .quotaExceeded
      else if (match s.recordedNs nguid with | some r => kind != 2 || r.bytes != bytes || r.serial != serial || r.roff != roff | none => false) then
        refuseCmd s .busy
      else if kind = 1 ∧ (regions.length ≠ need ∨ !regions.Nodup ∨ regions.any (fun r => !s.regionFree r || s.isLocal r)) then laterCmd s
      else
        let n : Namespace := { slice := sl, kind := kind, lbaf := lbaf, nguid := nguid, bytes := bytes, blocks := blocks,
                               regions := if kind = 1 then regions else [], conn := conn, rkey := rkey, roff := roff, serial := serial, ctrls := [],
                               ending := none }
        let s := if kind = 1 then s.takeRegions sl regions else s
        okCmd { s with nvm := { s.nvm with ns := smSet s.nvm.ns i n, ops := smMap s.nvm.ops (fun c o =>
          if s.opState c = 3 then { o with nss := o.nss.map (fun (r : RecNs) => if r.kind = 2 ∧ r.nguid = nguid then { r with num := i } else r) } else o) } } [i]))

/-- A namespace of a slice that is not being ended. -/
def State.ownNs (s : State) (sl i : Nat) : Option Namespace :=
  match smGet s.nvm.ns i with
  | some n => if n.slice = sl ∧ n.ending.isNone then some n else none
  | none => none

/-- Is a namespace named as the T3 spill target of its slice? -/
def State.isSpill (s : State) (sl i : Nat) : Bool := decide (2 ≤ s.fget CMP_SLICE_POL_SPILL 0 sl) && s.fget CMP_SLICE_POL_T3_NS 0 sl == i

/-- PENDING operations whose namespaces are all there and attached go on from their recorded position, R420. -/
def State.resumeOps (s : State) (c : Nat) : State :=
  match smGet s.nvm.ops c with
  | some o =>
    if s.opState c = 3 && o.nss.all (fun r => r.kind != 2 || (match smGet s.nvm.ns r.num with | some n => n.ctrls.contains c | none => false))
    then s.showOp c 1 o else s
  | none => s

/-- NS_ATTACH, R412, R420. -/
def execNsAttach (ch ns c : Nat) (s : State) : Host.Outcome State Fault Refusal :=
  .next (s.serve ch 0x54 [(1, ns), (2, c)] 0 .bound false (fun sl s =>
    match s.ownNs sl ns with
    | none => refuseCmd s .badHandle 1
    | some n =>
      if c > 7 then refuseCmd s .badDescriptor 2
      else if s.nvmOwner c ≠ some sl then refuseCmd s .badHandle 2
      else if s.isSpill sl ns then refuseCmd s .busy 1
      else
        let s := { s with nvm := { s.nvm with ns := smSet s.nvm.ns ns { n with ctrls := if n.ctrls.contains c then n.ctrls else n.ctrls ++ [c] } } }
        let s := if bit ((s.ctl c).feat 0xB 0) 8 then s.nvmEvent c 0x040002 else s
        okCmd (s.resumeOps c) [ns]))

/-- Is a namespace in a recorded operation that goes on? -/
def State.nsInOp (s : State) (i : Nat) : Bool := s.nvm.ops.any (fun p => !p.2.ended && s.opState p.1 != 3 && p.2.nss.any (fun r => r.num == i))

/-- NS_DETACH, R412: completes after every command fetched for the namespace there has posted. -/
def execNsDetach (ch ns c : Nat) (s : State) : Host.Outcome State Fault Refusal :=
  .next (s.serve ch 0x55 [(1, ns), (2, c)] 0 .bound false (fun sl s =>
    match s.ownNs sl ns with
    | none => refuseCmd s .badHandle 1
    | some n =>
      if c > 7 then refuseCmd s .badDescriptor 2
      else if !n.ctrls.contains c then refuseCmd s .badHandle 2
      else
        let busy := s.nsBusy ns [c]
        let s := { s with nvm := { s.nvm with ns := smSet s.nvm.ns ns { n with ctrls := n.ctrls.erase c, ending := if busy then some (ch, c) else none } } }
        let s := if bit ((s.ctl c).feat 0xB 0) 8 then s.nvmEvent c 0x040002 else s
        if busy then laterCmd s else okCmd s [ns]))

/-- NS_DESTROY, R412; one in a recorded operation is busy. -/
def execNsDestroy (ch ns : Nat) (s : State) : Host.Outcome State Fault Refusal :=
  .next (s.serve ch 0x53 [(1, ns)] 0 .bound false (fun sl s =>
    match s.ownNs sl ns with
    | none => refuseCmd s .badHandle 1
    | some n =>
      if s.nsInOp ns || s.isSpill sl ns then refuseCmd s .busy 1
      else if s.nsBusy ns (List.range 8) then
        laterCmd { s with nvm := { s.nvm with ns := smSet s.nvm.ns ns { n with ctrls := [], ending := some (ch, 8) } } }
      else okCmd (s.dropNs ns) [ns]))

/-- STOR_ASSIGN, R398. -/
def execStorAssign (ch c : Nat) (valid : Bool) (sl : Nat) (s : State) : Host.Outcome State Fault Refusal :=
  .next (s.serve ch 0x50 [(1, c), (2, (if valid then 2 ^ 31 else 0) + sl)] sl .secure false (fun _ s =>
    if c > 7 then refuseCmd s .badDescriptor 1
    else if sl > 63 then refuseCmd s .badDescriptor 2
    else if valid && !s.slLive sl then refuseCmd s .badHandle 2
    else if (s.ctl c).en || s.nvm.ns.any (fun n => n.2.ctrls.contains c) || s.opState c != 0 then refuseCmd s .busy
    else okCmd (if s.fon NVC_LOCK_LOCK then s else (s.fset NVC_OWNER_VALID (if valid then 1 else 0) 0 c).fset NVC_OWNER_SLICE (if valid then sl else 0) 0 c) [c]))

/-- STOR_RECORD_CLEAR, R420: discards the record of an operation that does not run. -/
def execStorRecordClear (ch c : Nat) (s : State) : Host.Outcome State Fault Refusal :=
  .next (s.serve ch 0x51 [(1, c)] 0 .secure false (fun _ s =>
    if c > 7 then refuseCmd s .badDescriptor 1
    else if s.opState c = 1 ∨ s.opState c = 2 then refuseCmd s .busy 1
    else okCmd ((((({ s with nvm := { s.nvm with ops := smDel s.nvm.ops c } }.rset NVC_OP_STATUS 0 0 c).rset NVC_OP_POS 0 0 c).rset
      NVC_OP_TOTAL 0 0 c).rset NVC_OP_PROG 0 0 c)) [c]))

end Machine
end Sys2Proof
end

