-- ==== Sys2Proof/Machine/SliceBase.lean ====
section
/-!
DEFINITION. What slices' commands rest on (spec 15): clusters that change hands (R378, R381), generations and squashes (R386 to
R388), the scopes of a reset (R389), and the changes that go on by themselves.
-/
namespace Sys2Proof
namespace Machine

/-- Changes a slice beyond its registers. -/
def State.modSx (s : State) (sl : Nat) (f : SliceX → SliceX) : State := s.setSx sl (f (s.sx sl))

/-- Changes a slice's state. -/
def State.setSlState (s : State) (sl v : Nat) : State := s.slcPut SLC_STATUS_STATE sl v

/-- The SLICE_STATE notice of R578: 0 attach, 1 reset complete, 2 host-absent, 3 quota PARTIAL; the code's number is not given. -/
def State.sliceNotice (s : State) (sl code moved : Nat) : State :=
  s.noticeSlice sl { kind := 1, words := [sl, s.slState sl, Config.changeCode code % 2 ^ 32, moved] }

/-! ### Clusters, R293, R294, R378, R381 -/

/-- Palette and logical cluster of a cluster's number. -/
def clusterOf (e : Nat) : List Nat := clusterBristles (e / 24) (e % 24)

/-- The clusters a slice owns. -/
def State.clustersOf (s : State) (sl : Nat) : List Nat := (s.clOwner.filter (fun p => p.2.contains sl)).map (·.1)

/-- Is OVERSUB on for a palette (R293)? -/
def State.oversub (s : State) (p : Nat) : Bool := s.fon CMP_TSLICE_CTL_OVERSUB p

/-- Does a slice insist on clusters of its own (R296)? -/
def State.pinsClusters (s : State) (sl : Nat) : Bool := s.fget CMP_SLICE_POL_PIN_CLUSTERS 0 sl != 0

/-- May cluster e come to slice sl: nobody's; or, with OVERSUB, shared by fewer than 4 slices, none of which insists on
clusters of its own? -/
def State.clusterFree (s : State) (sl e : Nat) : Bool :=
  match smGetD s.clOwner e [] with
  | [] => decide (e < 240)
  | os => s.oversub (e / 24) && decide (os.length < 4) && !os.contains sl && !(s.sx sl).giving.contains e &&
      os.all (fun o => !s.pinsClusters o && !(s.sx o).giving.contains e) && !s.pinsClusters sl

/-- Regions of one slice's state area of one cluster: 4,259,840 B (R294). -/
def areaRegions : Nat := 65

/-- The lowest place for a state area in the local bands of palette p's stacks. -/
def State.areaAt (s : State) (p : Nat) : Option Nat :=
  ((List.range s.localBands).flatMap (fun b => (List.range 0x8000).map (fun i => b * bandRegions + 2 * p * 0x4000 + i))).find?
    (fun r => s.runFits r areaRegions)

/-- A state area for slice sl, charged to it. -/
def State.takeArea (s : State) (sl p : Nat) : Option (Nat × State) :=
  (s.areaAt p).map (fun r => (r, s.takeRegions (128 + sl) ((List.range areaRegions).map (r + ·))))

/-- The sixteen bristles of a cluster are the slice's (R378). -/
def State.nameCluster (s : State) (sl e : Nat) : State := (clusterOf e).foldl (fun s b => s.fset BRS_CTL_SLICE sl b) s

/-- Cluster e comes to slice sl: its own, or shared in turns with state areas (R293, R294); none where no area can be had. -/
def State.gainCluster (s : State) (sl e : Nat) : Option State :=
  match smGetD s.clOwner e [] with
  | [] => some ({ s with clOwner := smSet s.clOwner e [sl] }.nameCluster sl e)
  | os =>
    let s := s.swatchOff (fun b => b / 16 == e)
    let t := smGetD s.cmp.turns e { slices := os, cur := os.headD sl, switching := false, since := s.pw.onTicks, ctl := s.rget CMP_TSLICE_CTL (e / 24), areas := [] }
    let need := (if t.areas.isEmpty then os else []) ++ [sl]
    let r := need.foldl (fun (acc : Option (State × List (Nat × Nat))) x =>
      match acc with
      | none => none
      | some (s, l) => (s.takeArea x (e / 24)).map (fun q => (q.2, l ++ [(x, q.1)]))) (some (s, t.areas))
    r.map (fun q =>
      let all := (os ++ [sl]).mergeSort
      { q.1 with clOwner := smSet q.1.clOwner e all, cmp := { q.1.cmp with turns := smSet q.1.cmp.turns e { t with slices := all, areas := q.2 } } })

/-- A cluster is cleared, R378: bristles halted and INIT, SRAM zero, direct flags zero, DMA channels 1 to 7 at reset. -/
def State.clearCluster (s : State) (e : Nat) : State :=
  let s := (clusterOf e).foldl (fun s b =>
    let s := (s.withdraw b).setBr b (Bristle.init b)
    let s := ((s.rset BRS_CTL 0 b).fset BRS_STATUS_STATE 0 b).freshSram b
    s.setSyn { s.syn with direct := smDelIf s.syn.direct (fun k => k / 64 == b), heldSig := s.syn.heldSig.filter (fun h => h.1 / 64 != b) }) s
  (List.range 7).foldl (fun s i => s.dmaClear e (i + 1)) s

/-- What was saved of cluster e for slice sl is gone, and its state area free. -/
def State.dropSaved (s : State) (sl e : Nat) (t : Turn) : State :=
  let bs := clusterOf e
  let s := { s with cmp := { s.cmp with saved := smDelIf s.cmp.saved (fun k => bs.any (fun b => k == sl * 4096 + b)) },
                    dmaSaved := smDelIf s.dmaSaved (fun k => k / 8 == sl * 240 + e) }
  let s := s.setSyn { s.syn with heldSig := s.syn.heldSig.filter (fun h => !(h.1 % 64 == sl && bs.contains (h.1 / 64))) }
  s.freeRegions ((t.areas.filter (fun a => a.1 == sl)).flatMap (fun a => (List.range areaRegions).map (a.2 + ·)))

/-- Slice x runs on cluster e, after another slice has left it. -/
def State.resumeOn (s : State) (x e : Nat) : State :=
  let s := (clusterOf e).foldl (fun s b => s.restoreBristle x b) s
  (List.range 7).foldl (fun s i =>
    let k := i + 1
    match smGet s.dmaSaved (savedChanKey x e k) with
    | none => s
    | some y =>
      let s := { s with dmaSaved := smDel s.dmaSaved (savedChanKey x e k) }
      let s := (((s.rset DMA_CHAN_CTL y.ctl e k).rset DMA_CHAN_STATUS y.status e k).rset DMA_CHAN_IRQ y.irq e k).rset DMA_CHAN_COUNT y.count e k
      let s := ((s.rset DMA_CHAN_NEXT_LO (y.next % 2 ^ 32) e k).rset DMA_CHAN_NEXT_HI (y.next / 2 ^ 32) e k).setChan e k y.chan
      if s.dstate e k = 3 ∧ !bit y.ctl 2 then (s.fset DMA_CHAN_CTL_PAUSE 1 e k).dmaCtlWrite e k (putBits y.ctl 2 2 0) else s) s

/-- Cluster e leaves slice sl, cleared; a slice that shared it goes on, alone where it is the last (R378, R381). -/
def State.leaveCluster (s : State) (sl e : Nat) : State :=
  let s := s.swatchOff (fun b => b / 16 == e)
  let s := { s with loaded := smDelIf s.loaded (fun k => k / 4096 == sl && k % 4096 / 16 == e) }
  match smGet s.cmp.turns e with
  | none => { s.clearCluster e with clOwner := smDel s.clOwner e }
  | some t =>
    let rest := t.slices.filter (· != sl)
    let s := s.dropSaved sl e t
    let inc := t.after
    let s := if t.cur = sl then ((s.clearCluster e).nameCluster inc e).resumeOn inc e else s
    let t := { t with slices := rest, cur := if t.cur = sl then inc else t.cur, switching := t.switching && t.cur != sl,
                      areas := t.areas.filter (fun a => a.1 != sl), since := if t.cur = sl then s.pw.onTicks else t.since }
    let s := { s with clOwner := smSet s.clOwner e rest }
    if rest.length > 1 then { s with cmp := { s.cmp with turns := smSet s.cmp.turns e t } }
    else
      let s := if t.switching then (clusterOf e).foldl (fun s b =>
          match (s.br b).saved with
          | some st => (s.setBr b { s.br b with saved := none }).fset BRS_STATUS_STATE st b
          | none => s) s else s
      { (s.dropSaved (rest.headD sl) e t) with cmp := { (s.dropSaved (rest.headD sl) e t).cmp with turns := smDel s.cmp.turns e } }

/-! ### Giving clusters up, R381 -/

/-- The bristle that takes a unit's home from bristle b: one of the remaining ones of its palette, else of any. -/
def rehomeTo (rest : List Nat) (b : Nat) : Nat :=
  let here := rest.filter (fun x => x / 384 == b / 384)
  let l := if here.isEmpty then rest else here
  l.getD (b % max 1 l.length) b

/-- The home list of a segment that must leave some of its homes, built from the slice's remaining bristles (R270): those of the list's
palette for a local segment where any are left, else all of them. -/
def State.newHomes (s : State) (rest : List Nat) (loc : Nat) (ids : List Nat) : List Nat :=
  let here := if s.isLocal loc then rest.filter (fun b => b / 384 == ids.headD 0 / 384) else []
  if here.isEmpty then rest else here

/-- A segment's new slot where f moves one of its homes; none where none moves, or no home list is free. -/
def State.rehomeSeg (s : State) (rest : List Nat) (f : Nat → Nat) (i : Nat) : Option (Nat × Nat × State) :=
  let t := slotOf (eGet (smGetD s.cmp.seg i 0) 0 8)
  let ids := smGetD s.cmp.homes (t.home % 64) []
  if ids.map f = ids then none
  else (s.homeList (s.newHomes rest t.loc ids)).map (fun r => (slotVal { t with home := r.1 }, t.home, r.2))

/-- The units of a table homed on bristles that f moves: (unit, new slot, old home). -/
def State.rehomeTable (s : State) (rest : List Nat) (f : Nat → Nat) (h : Nat) : State × List (Nat × Nat × Nat) :=
  let r := (s.segIndices h).foldl (fun (acc : State × List (Nat × Nat × Nat)) i =>
    match acc.1.rehomeSeg rest f i with
    | some (v, old, s) => (s, acc.2 ++ [(segUnit i, v, old)])
    | none => acc) (s, [])
  let xs := s.cmp.exc.filterMap (fun e =>
    let t := slotOf (eGet e.2 0 8)
    if e.1 / 2 ^ 24 = h ∧ t.tier ≠ 3 ∧ f t.home ≠ t.home then
      some (e.1 % 2 ^ 24, slotVal { t with home := f t.home, swidx := if f t.home / 384 = t.home / 384 then t.swidx else 0 }, t.home)
    else none)
  (r.1, r.2 ++ xs)

/-- The runs of a cache's sequences homed on bristles that f moves: (sequence, run, new slot, old home). -/
def State.rehomeRuns (s : State) (f : Nat → Nat) (h : Nat) : List (Nat × Nat × Nat × Nat) :=
  s.cmp.run.filterMap (fun e =>
    let t := slotOf (eGet e.2 0 8)
    match smGet s.seqs (e.1 / 2 ^ 32) with
    | some q => if q.cache = h ∧ f t.home ≠ t.home then some (e.1 / 2 ^ 32, e.1 % 2 ^ 32, slotVal { t with home := f t.home }, t.home) else none
    | none => none)

/-- Flips every unit of the slice whose home f moves; a handle that awaits a drain waits. -/
def State.rehome (s : State) (sl : Nat) (rest : List Nat) (f : Nat → Nat) : State :=
  let s := (s.tbl.filter (fun t => t.2.slice == sl && !s.draining t.1)).foldl (fun s t =>
    let (s, us) := s.rehomeTable rest f t.1
    if us.isEmpty then s
    else ((s.dropCopies (fun c => c.handle == t.1 && us.any (fun u => u.1 == c.unit))).flip t.1 (us.map (fun u => (t.1, u.1, u.2.1))) []).modSx sl
      (fun x => { x with rehomed := x.rehomed ++ us.map (fun u => (t.1, u.1, u.2.2)) })) s
  (s.kvc.filter (fun c => c.2.slice == sl && !s.draining c.1)).foldl (fun s c =>
    let us := s.rehomeRuns f c.1
    if us.isEmpty then s
    else ((s.dropCopies (fun k => us.any (fun u => u.1 == k.handle && u.2.1 == k.unit))).flip c.1 (us.map (fun u => (u.1, u.2.1, u.2.2.1))) []).modSx sl
      (fun x => { x with rehomed := x.rehomed ++ us.map (fun u => (u.1, u.2.1, u.2.2.2)) })) s

/-- Moves homes off the clusters being given up, and flips off the swatches there (R381). -/
def State.offGiving (s : State) (sl : Nat) : State :=
  let gone := (s.sx sl).giving
  let rest := s.sliceBristles sl
  let s := s.swatchOff (fun b => gone.contains (b / 16))
  s.rehome sl rest (fun b => if gone.contains (b / 16) then rehomeTo rest b else b)

/-- Is a cluster being given up drained: no unit homed there, no replica there, no flip under way,
no record posted to it, its DMA channels IDLE? -/
def State.clusterDrained (s : State) (sl e : Nat) : Bool :=
  let f := fun b => if b / 16 = e then 4096 else b
  s.swatchFree e && (s.tbl.filter (fun t => t.2.slice == sl)).all (fun t => !s.draining t.1 && (s.segIndices t.1).all (fun i =>
      !(smGetD s.cmp.homes ((slotOf (eGet (smGetD s.cmp.seg i 0) 0 8)).home % 64) []).any (fun b => b / 16 == e))) &&
  s.cmp.exc.all (fun x => !(ownerOf (x.1 / 2 ^ 24) == sl && (slotOf (eGet x.2 0 8)).tier != 3 && (slotOf (eGet x.2 0 8)).home / 16 == e)) &&
  (s.kvc.filter (fun c => c.2.slice == sl)).all (fun c => !s.draining c.1 && (s.rehomeRuns f c.1).isEmpty) &&
  !(s.works.any (fun w => w.2.slice == sl && w.2.recs.any (fun r => r.lead / 16 == e))) &&
  (List.range 7).all (fun i => match smGet s.dmaSaved (savedChanKey sl e (i + 1)) with
    | some x => x.status % 8 == 0
    | none => s.dstate e (i + 1) == 0)

/-- Clusters that have drained are handed on. -/
def State.handOn (s : State) (sl : Nat) : State :=
  (s.sx sl).giving.foldl (fun s e =>
    if s.clusterDrained sl e then
      (s.leaveCluster sl e).modSx sl (fun x => { x with giving := x.giving.filter (· != e), moved := x.moved + 1 })
    else s) s

/-- The clusters that have not drained stay, and their units are flipped back. -/
def State.keepGiving (s : State) (sl : Nat) : State :=
  let gone := (s.sx sl).giving
  let back := (s.sx sl).rehomed
  let s := s.modSx sl (fun x => { x with giving := [], rehomed := [] })
  back.foldl (fun s (u : Nat × Nat × Nat) =>
    let tab := (smGet s.tbl u.1).isSome
    let e := if tab then (if u.2.1 ≥ 2 ^ 32 then smGetD s.cmp.seg (u.2.1 - 2 ^ 32) 0 else smGetD s.cmp.exc (excKey u.1 u.2.1) 0)
      else smGetD s.cmp.run (runKey u.1 u.2.1) 0
    let t := slotOf (eGet e 0 8)
    let was := if tab ∧ u.2.1 ≥ 2 ^ 32 then (smGetD s.cmp.homes (u.2.2 % 64) []).any (fun b => gone.contains (b / 16)) else gone.contains (u.2.2 / 16)
    if e = 0 ∨ !was ∨ (!tab && (smGet s.seqs u.1).isNone) then s
    else s.flip u.1 [(u.1, u.2.1, slotVal { t with home := u.2.2, swidx := 0 })] []) s

/-! ### SLICE_QUOTA's end, R380, R381 -/

/-- The quota change ends, whole or PARTIAL; a slice's cluster quota is what it holds then. -/
def State.endQuota (s : State) (sl : Nat) (st : Status) : State :=
  let x := s.sx sl
  let s := s.keepGiving sl
  let n := (s.clustersOf sl).length
  let s := s.modSx sl (fun x => { x with cmd := 0, moved := 0, quotas := if st = .ok then x.quotas else max n (x.quotas.getD 0 0) :: x.quotas.drop 1 })
  let s := s.slcPut SLC_STATUS_QUOTA_BUSY sl 0
  let s := if st = .ok then s else s.sliceNotice sl 3 x.moved
  s.ack x.cmdCh st 0 [x.moved]

/-- A quota change goes on: units are flipped, drained clusters handed on; it ends once the stack use fits too. -/
def State.stepQuota (s : State) (sl : Nat) : State :=
  let s := (s.offGiving sl).handOn sl
  let x := s.sx sl
  if x.giving.isEmpty ∧ s.stackUse sl ≤ s.quota sl 1 then s.endQuota sl .ok else s

/-! ### Squash, R386 to R388 -/

/-- A squash ends entry e: an entry that was to have an output, or had not ended, is SQUASHED; what it appended last is taken back
from LEN (R247, R254). -/
def State.squashEntry (s : State) (x : AttEntry) : State × AttEntry :=
  if x.phase = 2 ∧ entryBad x.status ∨ stopsOutput x.status then (s, x)
  else
    ((match x.appended, smGet s.seqs x.seqH with
      | true, some q => if smGetD q.lens x.layer 0 = x.pos + x.n then { s with seqs := smSet s.seqs x.seqH { q with lens := smSet q.lens x.layer x.pos } } else s
      | _, _ => s), { x with phase := 2, status := .squashed, todo := [] })

/-- The position a squashed table descriptor gives in FIRST: the lowest that had not been served. -/
def Work.unserved (w : Work) : Nat := if w.stage = 0 then (if w.idx.isEmpty then noPos else 0) else (w.recs.flatMap (·.poss) ++ w.waiting ++ w.tierOut).foldl min noPos

/-- Item k ends with a SQUASHED record under the generation in force and no output, what it counted so far kept (R233, R252, R388). -/
def State.squashWork (s : State) (k : Nat) (w : Work) : State :=
  let (s, es) := w.ents.foldr (fun x acc => let (s, y) := acc.1.squashEntry x; (s, y :: acc.2)) (s, [])
  let w := { w with gen := s.curGen w.slice, ents := es, events := w.events ++ [(.squashed, w.unserved)], recs := [], waiting := [], tierOut := [] }
  let (el, s) := s.fresh 32
  (s.deliverWork k w el).getD ((s.holdFull w.slice).endWork k)

/-- Items in work that satisfy p end SQUASHED, the last to arrive first, so that LEN goes back over all of their appends. -/
def State.squashWorks (s : State) (p : Work → Bool) : State :=
  ((s.works.filter (fun w => p w.2)).mergeSort (fun a b => b.2.arr ≤ a.2.arr)).foldl (fun s kw =>
    match s.work kw.1 with
    | none => s
    | some w => s.squashWork kw.1 w) s

/-- Slots fetched and not yet taken up, of queues that satisfy p, end with SQUASHED records too. -/
def State.squashReady (s : State) (p : Wq → Bool) : State :=
  (s.hl.wqs.filter (fun q => p q.2)).foldl (fun s q =>
    q.2.ready.foldl (fun s d => let (el, s) := s.fresh 32; s.completeBare q.2.port q.2.slice q.2.num d .squashed 0 el)
      (s.setWq { q.2 with ready := [], fenced := false })) s

/-- Does f to the channels of cluster e as they stand while slice sl has its turn there. -/
def State.inTurn (s : State) (sl e : Nat) (f : State → State) : State :=
  match smGet s.cmp.turns e with
  | none => f s
  | some t =>
    if t.cur = sl then f s
    else
      let keep := (List.range 7).map (fun i => (savedChanKey t.cur e (i + 1), smGet s.dmaSaved (savedChanKey t.cur e (i + 1))))
      let now := (List.range 7).foldl (fun (s : State) i =>
        let x : SavedChan := { ctl := s.rget DMA_CHAN_CTL e (i + 1), status := 0, next := 0, irq := 0, count := 0, chan := DmaChan.init }
        { s with dmaSaved := smSet s.dmaSaved (savedChanKey t.cur e (i + 1)) x }) s
      let s := (List.range 7).foldl (fun s i => s.swapChannel e (i + 1) t.cur sl) now
      let s := f { s with cmp := { s.cmp with turns := smSet s.cmp.turns e { t with cur := sl } } }
      let s := (List.range 7).foldl (fun s i =>
        let x : SavedChan := { ctl := s.rget DMA_CHAN_CTL e (i + 1), status := 0, next := 0, irq := 0, count := 0, chan := DmaChan.init }
        let s : State := { s with dmaSaved := smSet s.dmaSaved (savedChanKey sl e (i + 1)) x }
        s.swapChannel e (i + 1) sl t.cur) s
      { s with cmp := { s.cmp with turns := smSet s.cmp.turns e t },
               dmaSaved := keep.foldl (fun (m : SMap SavedChan) q => match q.2 with | some x => smSet m q.1 x | none => m) s.dmaSaved }

/-- The host channels of a slice as (engine, channel). -/
def State.hostChans (s : State) (sl : Nat) : List (Nat × Nat) :=
  (List.range 2).flatMap (fun d => ((List.range 64).filter (fun k => s.dmaSlice (240 + d) k == some sl)).map (fun k => (240 + d, k)))

/-- Does a channel hold a descriptor in work? -/
def DmaChan.working (d : DmaChan) : Bool := d.phase == 2 || d.phase == 3 || d.phase == 4

/-- Channels of the slice stop and write back SQUASHED. -/
def State.squashDma (s : State) (sl : Nat) : State :=
  let s := (s.hostChans sl).foldl (fun s q => s.dmaSquash q.1 q.2) s
  (s.clustersOf sl).foldl (fun s e => s.inTurn sl e (fun s => (List.range 7).foldl (fun s i => s.dmaSquash e (i + 1)) s)) s

/-- Items a squash ends. -/
def State.itemsOf (s : State) (sl : Nat) : Nat :=
  (s.works.filter (fun w => w.2.slice == sl)).length + (s.cph.reqs.filter (fun r => r.slice == sl)).length +
  ((s.hl.wqs.filter (fun q => q.2.slice == sl)).map (fun q => q.2.ready.length)).sum +
  ((s.tmt.conns.filter (fun c => c.2.slice == sl)).map (fun c => (c.2.reqs.filter (fun r => !r.done)).length)).sum +
  ((s.nvmOf sl).map (fun c => (s.ctl c).cmds.length)).sum +
  ((s.hostChans sl).filter (fun q => (s.chan q.1 q.2).working)).length +
  ((s.clustersOf sl).map (fun e => ((List.range 7).filter (fun i => match smGet s.dmaSaved (savedChanKey sl e (i + 1)) with
    | some x => x.chan.working
    | none => (s.chan e (i + 1)).working && s.dmaSlice e (i + 1) == some sl)).length)).sum

/-- The squash of a reset, R386 step 3, R387: every item still accepted ends, under the new generation. -/
def State.squashSlice (s : State) (sl : Nat) : State :=
  let s := s.squashed sl (s.itemsOf sl)
  ((((s.squashReady (fun q => q.slice == sl)).squashWorks (fun w => w.slice == sl)).endCipher (fun r => r.slice == sl) .squashed).squashDma sl |>.tmtSquash sl).nvmSquash sl

/-- Does an outstanding record of the slice still carry generation g? -/
def State.genCarried (s : State) (sl g : Nat) : Bool :=
  s.hl.npr.any (fun r => r.slice == sl && !r.quar && r.sgen == g) || s.works.any (fun w => w.2.slice == sl && w.2.gen == g) ||
  s.cph.reqs.any (fun r => r.slice == sl && r.gen == g) ||
  s.tmt.conns.any (fun c => c.2.slice == sl && c.2.reqs.any (fun r => !r.done && r.gen == g)) ||
  s.dma.any (fun d => d.2.phase != 0 && d.2.gen == g && s.dmaSlice (d.1 / 64) (d.1 % 64) == some sl)

/-! ### The scopes of a reset, R389 -/

/-- The slice of a flag operation's sender. -/
def FlagOp.slice : FlagOp → Nat
  | .signal _ sl _ _ => sl
  | .wait _ sl _ _ => sl
  | .waitdec _ sl _ _ => sl

/-- A bristle saved for the slice is reloaded where it is saved: it resumes as R126 starts its program. -/
def State.reloadSaved (s : State) (sl b : Nat) : State :=
  match smGet s.cmp.saved (sl * 4096 + b), smGet s.loaded (sl * 4096 + b) with
  | some x, some l =>
    let (s, img) := s.progImage l.prog
    let sram := if img.isEmpty then x.sram else memWriteN x.sram 0 img
    let y := { x with br := { Bristle.init b with pc := l.pc, legacy := bit x.ctl 1 }, ctl := putBits x.ctl 0 0 1, brsPc := l.pc, state := 1, sram := sram }
    { s with cmp := { s.cmp with saved := smSet s.cmp.saved (sl * 4096 + b) y, rings := smDel s.cmp.rings (ringKey b l.prog) } }
  | some x, none =>
    let y := { x with br := Bristle.init b, ctl := putBits x.ctl 0 0 0, state := 0 }
    { s with cmp := { s.cmp with saved := smSet s.cmp.saved (sl * 4096 + b) y } }
  | none, _ => s

/-- Reloads the slice's bristles under R126; one in which nothing was loaded is halted. -/
def State.reloadSlice (s : State) (sl : Nat) : State :=
  (s.sliceBristles sl).foldl (fun s b =>
    if (match smGet s.cmp.turns (b / 16) with | some t => t.cur != sl | none => false) then s.reloadSaved sl b
    else
      let s := (s.haltBristle b).fset BRS_CTL_RUN 0 b
      match smGet s.loaded (sl * 4096 + b) with
      | some _ => (s.setBr b { s.br b with barred := false }).reloadBristle b
      | none => s.initBristle b (s.fon BRS_CTL_ENC b)) s

/-- Scope WORK: queues empty, channels IDLE (by the squash), slots FREE, bristles reloaded, virtual flags zero. -/
def State.resetWork (s : State) (sl : Nat) : State :=
  let s := (s.hl.wqs.filter (fun q => q.2.slice == sl)).foldl (fun s q => s.emptyWq { q.2 with ready := [], fenced := false }) s
  let s := (List.range 4).foldl (fun s u => (List.range 64).foldl (fun s i =>
    if s.slotState u (64 * sl + i) = 0 then s else s.setSlotState u (64 * sl + i) 0) s) s
  let mine := fun k => k % 65536 ≥ 61440 && (k % 65536 - 61440) / 64 == sl
  let bs := s.sliceBristles sl
  let s := s.setSyn { s.syn with slots := smDelIf s.syn.slots mine, flight := s.syn.flight.filter (fun o => o.slice != sl),
                                 waiting := s.syn.waiting.filter (fun c => c.slice != sl), granted := s.syn.granted.filter (fun c => c.slice != sl),
                                 heldSig := s.syn.heldSig.filter (fun h => h.1 % 64 != sl) }
  let s := s.reloadSlice sl
  s.setSyn { s.syn with releases := s.syn.releases.filter (fun r => !(bs.contains r.1)),
                        virt := smDelIf s.syn.virt (fun k => match smGet s.syn.entries k with | some e => e.slice == sl | none => false) }

/-- Scope FULL begins: every handle of the slice is being destroyed. -/
def State.markDying (s : State) (sl : Nat) : State :=
  { s with tbl := smMap s.tbl (fun _ t => if t.slice = sl ∧ t.dying.isNone then { t with dying := some 320 } else t)
           kvc := smMap s.kvc (fun _ c => if c.slice = sl ∧ c.dying.isNone then { c with dying := some 320 } else c)
           seqs := smMap s.seqs (fun h q => if h / 2 ^ 26 = sl ∧ q.dying.isNone then { q with dying := some (320, s.nextWork) } else q) }

/-- Has the slice a handle left? -/
def State.hasHandles (s : State) (sl : Nat) : Bool :=
  s.tbl.any (fun t => t.2.slice == sl) || s.kvc.any (fun c => c.2.slice == sl) || s.seqs.any (fun q => q.1 / 2 ^ 26 == sl)

/-- Vectors of the slice are masked and nobody's. -/
def State.dropVecs (s : State) (sl : Nat) : State :=
  let vs := smKeys s.hl.vecs (· == sl)
  let s := vs.foldl (fun s v =>
    let x := s.port (v / 2048)
    let k := 4 * (v % 2048) + 3
    s.setPort (v / 2048) { x with msix := smSet x.msix k (putBits (smGetD x.msix k 1) 0 0 1), pend := x.pend.filter (· != v % 2048) }) s
  { s with hl := { s.hl with vecs := smDelIf s.hl.vecs vs.contains } }

/-- Virtual flags of the slice are free; a handle of one is used up. -/
def State.dropFlags (s : State) (sl : Nat) : State :=
  let s := s.setSyn { s.syn with entries := smMap s.syn.entries (fun _ e =>
    if e.used ∧ e.slice = sl then { e with used := false, gen := (e.gen + 1) % 256 } else e) }
  (List.range 4).foldl (fun s n => s.fset SYN_VF_USED_USED (s.vfUsed n) n) s

/-- Staging units of the slice are zeroed and nobody's. -/
def State.dropStaging (s : State) (sl : Nat) : State :=
  (smKeys s.stgOwn (· == sl)).foldl (fun s u =>
    let a := stagingAddr (u / 1536) (u % 1536 * 0x10000)
    { s with mem := memClear s.mem a 0x10000, ecc := smDelIf s.ecc (fun w => decide (a ≤ w ∧ w < a + 0x10000)), stgOwn := smDel s.stgOwn u }) s

/-- The slice's map entries on the host dies go: PASIDs, windows, aperture and grant entries. -/
def State.dropMaps (s : State) (sl : Nat) : State :=
  { s with hl := { s.hl with pasid := s.hl.pasid.filter (fun q => getBits q.2 61 56 != sl), win := smDelIf s.hl.win (fun k => k / 64 == sl),
                             apt := s.hl.apt.filter (fun q => getBits q.2 61 56 != sl),
                             grant := s.hl.grant.filter (fun q => q.1 % 224 == 0 || getBits q.2 61 56 != sl) } }

/-- Scope FULL once no handle is left: every resource of the slice is freed, cleared as R378 says. The driver, the phase, the
timers and HOLD_MIB stay. -/
def State.purgeSlice (s : State) (sl : Nat) : State :=
  let s := (s.vrn.prot.filter (fun h => ownerOf h == sl)).foldl State.unprotect s
  let s := (((s.tmtPurge sl).freeKeys sl).nvmPurge sl).pmuPurge sl
  let s := (s.cmp.asks.filter (fun a => if a.kind = 2 then a.handle == sl else ownerOf a.handle == sl)).foldl (fun s a => s.ack a.ch .badHandle 1 []) s
  let s := { s with progs := s.progs.filter (fun p => p.2.slice != sl),
                    cmp := { s.cmp with targets := smDel s.cmp.targets sl, unusable := s.cmp.unusable.filter (fun u => u / 16 != sl),
                                        asks := s.cmp.asks.filter (fun a => !(if a.kind = 2 then a.handle == sl else ownerOf a.handle == sl)) } }
  let s := (s.hostChans sl).foldl (fun s q => s.dmaClear q.1 q.2) (s.dropFlags sl)
  let s := { s with hl := { s.hl with wqs := s.hl.wqs.filter (fun q => q.2.slice != sl) } }.dropVecs sl
  let s := (s.clustersOf sl).foldl (fun s e => s.leaveCluster sl e) s
  let s := ((s.dropStaging sl).dropMaps sl).freeRegions (smKeys s.own (fun o => o == sl || o == 128 + sl || o == 256 + sl))
  let s := (List.range 10).foldl (fun s p => { s with regs := smDel s.regs (CMP_SLICE_POL.addr p sl 0 0) }) s
  let s := (List.range 16).foldl (fun s j => s.fset SCH_SLC_RATE_SHARE 0 (j / 8) (j % 8) sl) s
  let s := { s with loaded := smDelIf s.loaded (fun k => k / 4096 == sl) }
  let s := ((s.slcPut SLC_CTL_TEST_PERM sl 0).slcPut SLC_CTL_PMU_USER sl 0).slcPut SLC_DIRTY_EN sl 0
  (s.modSx sl (fun x => { SliceX.init with driver := x.driver, cmd := x.cmd, cmdCh := x.cmdCh, scope := x.scope })).mapViews sl

/-- The end of a reset or a destruction, R372. -/
def State.finishReset (s : State) (sl : Nat) : State :=
  let x := s.sx sl
  if x.cmd = 3 then
    let keep := s.curGen sl
    let gone := fun (a : Nat) => match ctlLoc a with | some ⟨.slc, _, o⟩ => decide (0x10000 + sl * 0x10000 ≤ o ∧ o < 0x20000 + sl * 0x10000) | _ => false
    let s := { s with regs := smDelIf s.regs gone, latch := smDelIf s.latch gone, slc := smDel s.slc sl,
                      mbx := { s.mbx with sliceQ := smDel s.mbx.sliceQ sl } }
    (((s.slcPut SLC_GEN_CUR sl keep).ack x.cmdCh .ok 0 [sl]).unbindSlice sl).mapViews sl
  else
    let s := (s.setSlState sl 1).slcPut SLC_CTL_ACCEPT sl 1
    let s := ((s.modSx sl (fun x => { x with cmd := 0 })).sliceNotice sl 1 0).ack x.cmdCh .ok 0 []
    if x.scope = 1 then s.unbindSlice sl else s

/-- A reset goes on after its squash: scope FULL waits for its handles (R549), then the reset ends. -/
def State.stepReset (s : State) (sl : Nat) : State :=
  if (s.sx sl).scope = 1 then
    let s := (s.endSeqs).endTables
    if s.hasHandles sl then s else (s.purgeSlice sl).finishReset sl
  else s.finishReset sl

/-- The generation advances, R388; then the squash, and for a reset its scope. -/
def State.advanceNow (s : State) (sl : Nat) : State :=
  let s := (s.slcPut SLC_GEN_ADV_WAIT sl 0).slcPut SLC_GEN_CUR sl ((s.curGen sl + 1) % 256)
  let s := (s.modSx sl (fun x => { x with advance := false })).squashSlice sl
  if s.slState sl = 3 then
    let s := s.resetWork sl
    (if (s.sx sl).scope = 1 then s.markDying sl else s).stepReset sl
  else s

/-- The generation is due to advance: at once, or once no record carries the next value. The slice's injectors are disarmed first. -/
def State.beginAdvance (s : State) (sl : Nat) : State :=
  let s := s.injSliceOff sl
  if s.genCarried sl ((s.curGen sl + 1) % 256) then (s.slcPut SLC_GEN_ADV_WAIT sl 1).modSx sl (fun x => { x with advance := true })
  else s.advanceNow sl

/-- Does a posted write of the slice wait for its function (R365), so that it is not done in the sense of R330? -/
def State.postWaits (s : State) (sl : Nat) : Bool :=
  (List.range 8).any (fun p => (s.port p).held.any (fun h => !h.bytes.isEmpty && (s.boundIdx sl).any (fun i => s.pasidAt sl p i == some h.pasid)))

/-- A harvest goes on: once no write issued against the old active map waits, the map is written for the destination and zeroed (R384). One
that cannot be read or written stays as it is (log entry 39). -/
def State.stepHarvest (s : State) (sl : Nat) : State :=
  match (s.sx sl).harvest with
  | none => s
  | some (d, addr) =>
    if s.postWaits sl then s
    else
      let x := s.sx sl
      let m := 1 - s.slcGet SLC_DIRTY_ACTIVE_MAP sl
      let (s, bs) := (s.modSx sl (fun x => { x with cmd := 0, harvest := none })).mapBytes sl m
      let (st, s) := match bs with
        | some bs => s.hostPut ((s.drvPort d).getD 0) 0 d (s.curGen d) addr false bs
        | none => (Status.poisoned, s)
      ((if st = .ok then s.mapZero sl m else s).slcPut SLC_DIRTY_HARVEST sl 0).ack x.cmdCh st 0 []

/-- Quota changes and resets that go on by themselves. -/
def State.settleSlices (s : State) : State :=
  (s.slc.filter (fun q => q.2.cmd != 0)).foldl (fun s q =>
    let x := s.sx q.1
    if x.cmd = 1 then s.stepQuota q.1
    else if x.cmd = 4 then s.stepHarvest q.1
    else if s.slState q.1 = 3 && !x.advance then s.stepReset q.1
    else s) s

end Machine
end Sys2Proof
end

