-- ==== Sys2Proof/Machine/Slices.lean ====
section
/-!
DEFINITION. Slices, isolation and migration: the commands and events of spec 15 (R372 to R396).
-/
namespace Sys2Proof
namespace Machine

/-- The checks R373 puts before a command on a slice: it exists, and no other command on it is in progress; a reset or a destruction
may interrupt a quota change. -/
def State.onSlice (s : State) (sl : Nat) (cuts : Bool) (run : State → CmdResult) : CmdResult :=
  if sl > 63 then refuseCmd s .badDescriptor 1
  else if s.slState sl = 0 then refuseCmd s .badHandle 1
  else if (s.sx sl).cmd ≠ 0 && !(cuts && (s.sx sl).cmd == 1) then refuseCmd s .busy
  else run s

/-- SLICE_CREATE, R372, R373, R388, R623. -/
def execSliceCreate (ch sl : Nat) (s : State) : Host.Outcome State Fault Refusal :=
  .next (s.serve ch 0x10 [(1, sl)] sl .secure false (fun _ s =>
    if sl > 63 then refuseCmd s .badDescriptor 1
    else if s.slState sl ≠ 0 then refuseCmd s .busy
    else
      let s := (s.injScopeOff.setSx sl SliceX.init).setSlState sl 1
      okCmd (((s.slcPut SLC_CTL_VALID sl 1).slcPut SLC_CTL_PHASE sl 0).slcPut SLC_CTL_ACCEPT sl 1) [sl]))

/-! ### PASIDs and windows, R374, R375, R396 -/

/-- The port mask of host die d in a mask of eight ports. -/
def dieMask (mask d : Nat) : Nat := getBits mask (4 * d + 3) (4 * d)

/-- Is the PASID bound on a port of the mask to another slice? -/
def State.pasidTaken (s : State) (sl pasid mask : Nat) : Bool :=
  s.hl.pasid.any (fun q => bit q.2 63 && getBits q.2 61 56 != sl && getBits q.2 19 0 == pasid && (getBits q.2 35 32 &&& dieMask mask (q.1 / 1024)) != 0)

/-- Puts a binding into the lowest free entry of die d's table; none where it is full. -/
def State.bindOn (s : State) (sl pasid idx mask d : Nat) : Option State :=
  if dieMask mask d = 0 then some s
  else (smLowestFree s.hl.pasid (fun v => bit v 63) (1024 * d) 1024).map (fun k =>
    { s with hl := { s.hl with pasid := smSet s.hl.pasid k (2 ^ 63 + sl * 2 ^ 56 + idx * 2 ^ 48 + dieMask mask d * 2 ^ 32 + pasid) } })

/-- SLICE_BIND, R374: PASID, index, mask of ports 0 to 7. -/
def execSliceBind (ch sl : Nat) (pb : Status) (pasid idx mask : Nat) (s : State) : Host.Outcome State Fault Refusal :=
  .next (s.serve ch 0x12 [(1, sl)] sl .secure true (fun _ s => s.onSlice sl false (fun s =>
    if pb ≠ .ok then refuseCmd s pb
    else if pasid ≥ 2 ^ 20 ∨ idx > 15 ∨ mask = 0 ∨ mask > 255 then refuseCmd s .badDescriptor 1
    else if s.pasidTaken sl pasid mask then refuseCmd s .busy
    else if (s.boundIdx sl).length ≥ 16 then refuseCmd s .quotaExceeded
    else if (s.boundIdx sl).contains idx then refuseCmd s .busy
    else match (s.bindOn sl pasid idx mask 0).bind (fun s => s.bindOn sl pasid idx mask 1) with
    | some s => okCmd s [sl]
    | none => refuseCmd s .quotaExceeded)))

/-- SLICE_UNBIND, R374. -/
def execSliceUnbind (ch sl idx : Nat) (s : State) : Host.Outcome State Fault Refusal :=
  .next (s.serve ch 0x13 [(1, sl), (2, idx)] sl .secure false (fun _ s => s.onSlice sl false (fun s =>
    if !(s.boundIdx sl).contains idx then refuseCmd s .badDescriptor 2
    else if (s.windows sl).any (fun e => getBits e 115 112 == idx) || s.hl.wqs.any (fun q => q.2.slice == sl && q.2.pasid == idx) then
      refuseCmd s .busy
    else okCmd { s with hl := { s.hl with pasid := s.hl.pasid.filter (fun q =>
      !(bit q.2 63 && getBits q.2 61 56 == sl && getBits q.2 51 48 == idx)) } } [sl])))

/-- Does a window entry of slice sl keep the layout of R396? -/
def windowOk (sl e : Nat) : Bool :=
  getBits e 123 118 == sl && getBits e 117 116 == 0 && getBits e 111 96 == 0 && getBits e 11 0 == 0

/-- Does a PASID entry keep the layout of R396? -/
def pasidOk (e : Nat) : Bool :=
  e / 2 ^ 64 == 0 && !bit e 62 && getBits e 55 52 == 0 && getBits e 47 36 == 0 && getBits e 31 20 == 0

/-- Writes window entry k; one that breaks its layout is written with VALID 0 (R396). -/
def State.putWindow (s : State) (k e : Nat) : State :=
  let e := e % 2 ^ 128
  let e := if windowOk (k / 64) e then e else putBits e 127 127 0
  { s with hl := { s.hl with win := if e = 0 then smDel s.hl.win k else smSet s.hl.win k e } }

/-- SLICE_WINDOW, R375, R383, R396. -/
def execSliceWindow (ch sl w : Nat) (pb : Status) (entry : Nat) (s : State) : Host.Outcome State Fault Refusal :=
  .next (s.serve ch 0x14 [(1, sl)] sl .secure true (fun _ s => s.onSlice sl false (fun s =>
    if pb ≠ .ok then refuseCmd s pb
    else if w > 63 then refuseCmd s .badDescriptor 2
    else
      let old := smGetD s.hl.win (64 * sl + w) 0
      if s.slcGet SLC_DIRTY_EN sl ≠ 0 ∧ (logWindow old ∨ (logWindow entry ∧ windowOk sl entry)) then refuseCmd s .busy
      else okCmd (s.putWindow (64 * sl + w) entry))))

/-- SLC_MAP_READ: a write of SLC_MAP_CMD with READ, R395. -/
def State.slcMapRead (s : State) (die : Nat) : State :=
  let i := s.fget SLC_MAP_SEL_INDEX die
  let v := if s.fon SLC_MAP_SEL_TABLE die then smGetD s.hl.win i 0 else if i < 1024 then smGetD s.hl.pasid (1024 * die + i) 0 else 0
  (List.range 4).foldl (fun s n => s.rset SLC_MAP_DATA (getBits v (32 * n + 31) (32 * n)) die n) s

/-- SLC_MAP_WRITE: a write of SLC_MAP_CMD with WRITE, R395, R396. Window entries are the same on both dies. -/
def State.slcMapWrite (s : State) (die : Nat) : State :=
  let i := s.fget SLC_MAP_SEL_INDEX die
  let v := ((List.range 4).map (fun n => s.rget SLC_MAP_DATA die n * 2 ^ (32 * n))).sum
  if s.fon SLC_MAP_SEL_TABLE die then s.putWindow i v
  else if i ≥ 1024 then s
  else
    let v := if pasidOk v then v else putBits v 63 63 0
    { s with hl := { s.hl with pasid := if v = 0 then smDel s.hl.pasid (1024 * die + i) else smSet s.hl.pasid (1024 * die + i) v } }

/-- SLC_MAP_READ, R395. -/
def execSlcMapRead (die : Nat) (s : State) : Host.Outcome State Fault Refusal := .next (if die > 1 then s else s.slcMapRead die)
/-- SLC_MAP_WRITE, R395. -/
def execSlcMapWrite (die : Nat) (s : State) : Host.Outcome State Fault Refusal := .next (if die > 1 then s else s.slcMapWrite die)

/-! ### Quotas, R379 to R381 -/

/-- The per-slice ranges of R379, in its order. -/
def State.quotaMax (s : State) : List Nat := [240, s.sliceCap, 2048, 4096, 256, 65536, 128, 128, 2047, 65536, 1024, 64, 1024, 1000]

/-- The sums of R379 that are taken over slices alone: none for work queues, channels, vectors and queue pairs. -/
def State.quotaSums (s : State) : List (Option Nat) :=
  [some (if (List.range 10).any s.oversub then 960 else 240), some s.sliceCap, some 2048, some 4096, some 256, some 65536, none, none, none,
   some 65536, none, some 64, some 1024, some 1000]

/-- What slices but sl hold of quota i. -/
def State.quotaElse (s : State) (sl i : Nat) : Nat := (((List.range 64).filter (· != sl)).map (fun o => s.quota o i)).sum

/-- Does a quota break a sum? -/
def State.sumBroken (s : State) (sl : Nat) (qs : List Nat) : Bool :=
  (List.range 14).any (fun i => match s.quotaSums.getD i none with
    | some m => decide (s.quotaElse sl i + qs.getD i 0 > m)
    | none => false)

/-- What a slice uses of the quotas that must not fall below their use, as (quota, use). -/
def State.quotaUse (s : State) (sl : Nat) : List (Nat × Nat) :=
  [(3, (s.tbl.filter (fun t => t.2.slice == sl)).length), (4, (s.kvc.filter (fun c => c.2.slice == sl)).length), (5, s.vfOf sl),
   (6, s.wqCount sl), (7, s.dmaCount sl), (9, s.connCount sl), (10, s.pairsHeld sl), (11, s.nsHeld sl), (12, s.keysHeld sl)]

/-- Has the slice a target to demote to (R289, R290)? -/
def State.hasTarget (s : State) (sl : Nat) : Bool :=
  let spill := s.fget CMP_SLICE_POL_SPILL 0 sl
  ((spill == 1 || spill == 2) && (List.range (smGetD s.cmp.targets sl []).length).any (fun t => !s.cmp.unusable.contains (sl * 16 + t))) ||
  ((spill == 2 || spill == 3) && !s.cmp.unusable.contains (sl * 16 + 8))

/-- Can the slice's stack use come to fit a quota, with a hold buffer of h MiB (R380)? -/
def State.stackCanFit (s : State) (sl q h : Nat) : Bool :=
  let use := s.stackUse sl - 16 * s.slcGet SLC_HOLD_HOLD_MIB sl + 16 * h
  decide (use ≤ q) || (s.hasTarget sl && decide (use ≤ q + ((s.demotable sl false).map (fun v => s.unitLen v.1 v.2)).sum))

/-- The clusters an increase takes: those firmware chose where they are right, else the lowest that can be had. -/
def State.clusterPick (s : State) (sl n : Nat) (take : List Nat) : List Nat :=
  if take.length = n ∧ take.eraseDups.length = n ∧ take.all (s.clusterFree sl) then take
  else
    let free := (List.range 240).filter (s.clusterFree sl)
    ((free.filter (fun e => (smGetD s.clOwner e []).isEmpty)) ++ (free.filter (fun e => !(smGetD s.clOwner e []).isEmpty))).take n

/-- Clusters come to a slice one after another; none where one cannot. -/
def State.gainClusters (s : State) (sl : Nat) : List Nat → Option State
  | [] => some s
  | e :: es => match s.gainCluster sl e with
    | some s => s.gainClusters sl es
    | none => none

/-- Staging units of the slice areas of the four windows (R210). -/
def areaUnits : List Nat := (List.range 4).flatMap (fun n => (List.range 512).map (fun i => n * 1536 + 1024 + i))

/-- The slice's staging grant becomes n units: the lowest free ones are added, the highest withdrawn, each zeroed. -/
def State.stageTo (s : State) (sl n : Nat) : State :=
  let mine := (smKeys s.stgOwn (· == sl))
  let drop := mine.drop n
  let add := (areaUnits.filter (fun u => (smGet s.stgOwn u).isNone)).take (n - mine.length)
  (drop ++ add).foldl (fun s u =>
    let a := stagingAddr (u / 1536) (u % 1536 * 0x10000)
    let s := { s with mem := memClear s.mem a 0x10000, ecc := smDelIf s.ecc (fun w => decide (a ≤ w ∧ w < a + 0x10000)) }
    { s with stgOwn := if drop.contains u then smDel s.stgOwn u else smSet s.stgOwn u sl }) s

/-- SLICE_QUOTA, R379 to R381: the quotas in R379's order and HOLD_MIB; `take` are the clusters firmware chooses for an increase. -/
def execSliceQuota (ch sl : Nat) (pb : Status) (quotas : List Nat) (holdMib : Nat) (take : List Nat) (s : State) :
    Host.Outcome State Fault Refusal :=
  .next (s.serve ch 0x15 [(1, sl)] sl .secure true (fun _ s => s.onSlice sl false (fun s =>
    let have_ := s.clustersOf sl
    let n := quotas.getD 0 0
    if pb ≠ .ok then refuseCmd s pb
    else if quotas.length ≠ 14 ∨ (List.range 14).any (fun i => decide (quotas.getD i 0 > s.quotaMax.getD i 0)) ∨ holdMib = 0 ∨ holdMib > 256 then
      refuseCmd s .badDescriptor 1
    else if s.sumBroken sl quotas then refuseCmd s .quotaExceeded
    else if (s.quotaUse sl).any (fun u => decide (quotas.getD u.1 0 < u.2)) then refuseCmd s .busy
    else if n = 0 ∧ !have_.isEmpty ∧ (s.quotaUse sl).any (fun u => (u.1 == 3 || u.1 == 4) && u.2 != 0) then refuseCmd s .busy
    else if !s.stackCanFit sl (quotas.getD 1 0) holdMib then refuseCmd s .quotaExceeded
    else
      let pick := s.clusterPick sl (n - have_.length) take
      let s1 := (s.slcPut SLC_HOLD_HOLD_MIB sl holdMib).modSx sl (fun x =>
        { x with quotas := quotas, cmd := 1, cmdCh := ch, moved := 0, giving := have_.mergeSort.drop n, rehomed := [], drainTick := s.pw.onTicks })
      match (if pick.length < n - have_.length then none else s1.gainClusters sl pick) with
      | none => refuseCmd s .quotaExceeded
      | some s =>
        let s := s.stageTo sl (quotas.getD 2 0)
        let s := (List.range 16).foldl (fun (s : State) j => s.fset SCH_SLC_RATE_SHARE (quotas.getD 13 0) (j / 8) (j % 8) sl) s
        laterCmd ((s.slcPut SLC_STATUS_QUOTA_BUSY sl 1).stepQuota sl))))

/-- CLUSTER_DRAIN_TIMEOUT, R381: 1 s after the change began, clusters that have not drained stay, and it ends PARTIAL. -/
def execClusterDrainTimeout (sl : Nat) (s : State) : Host.Outcome State Fault Refusal :=
  let x := s.sx sl
  if x.cmd = 1 ∧ !x.giving.isEmpty ∧ s.pw.onTicks ≥ x.drainTick + 100000 ∧ s.running then
    let s := s.handOn sl
    if (s.sx sl).giving.isEmpty then .next (s.stepQuota sl) else .next (s.endQuota sl .partialDone)
  else .next s

/-! ### Phase and reset, R372, R373, R385 to R389 -/

/-- Is a command on a non-secure channel not the attached driver's? -/
def State.notDriver (s : State) (ch sl : Nat) : Bool := decide (ch < 320 ∧ ch % 32 ≥ 16) && s.drvPort sl != some (ch / 32)

/-- SLICE_PHASE, R372. -/
def execSlicePhase (ch sl phase : Nat) (s : State) : Host.Outcome State Fault Refusal :=
  .next (s.serve ch 0x16 ([(2, phase)] ++ if ch % 32 < 16 then [(1, sl)] else []) sl .either false (fun sl s =>
    if s.notDriver ch sl then refuseCmd s .denied
    else s.onSlice sl false (fun s =>
      if phase > 3 then refuseCmd s .badDescriptor 2 else okCmd (s.slcPut SLC_CTL_PHASE sl phase))))

/-- A reset or a destruction begins; a quota change in progress ends as PARTIAL (R373). -/
def State.beginReset (s : State) (ch sl cmd scope : Nat) (drain : Bool) : State :=
  let s := if (s.sx sl).cmd = 1 then s.endQuota sl .partialDone else s
  let s := (s.modSx sl (fun x => { x with cmd := cmd, cmdCh := ch, scope := scope, drainTick := s.pw.onTicks })).slcPut SLC_CTL_ACCEPT sl 0
  if drain then s.setSlState sl 2 else (s.setSlState sl 3).beginAdvance sl

/-- SLICE_RESET, R385: phase SERVING drains first, the others reset by generation. -/
def execSliceReset (ch sl scope : Nat) (s : State) : Host.Outcome State Fault Refusal :=
  .next (s.serve ch 0x17 ([(2, scope)] ++ if ch % 32 < 16 then [(1, sl)] else []) sl .either false (fun sl s =>
    if s.notDriver ch sl then refuseCmd s .denied
    else s.onSlice sl true (fun s =>
      if scope > 1 then refuseCmd s .badDescriptor 2
      else if s.slState sl ≠ 1 then refuseCmd s .busy
      else laterCmd (s.beginReset ch sl 2 scope (s.slcGet SLC_CTL_PHASE sl == 1)))))

/-- SLICE_DESTROY, R372, R385: it drains; an ORPHANED slice has nothing to drain. -/
def execSliceDestroy (ch sl : Nat) (s : State) : Host.Outcome State Fault Refusal :=
  .next (s.serve ch 0x11 [(1, sl)] sl .secure false (fun _ s => s.onSlice sl true (fun s =>
    if s.slState sl = 1 then laterCmd (s.beginReset ch sl 3 1 true)
    else if s.slState sl = 5 ∧ !(s.sx sl).advance then laterCmd (s.beginReset ch sl 3 1 false)
    else refuseCmd s .busy)))

/-- Has a slice nothing accepted left: no item in work, no channel running? -/
def State.drained (s : State) (sl : Nat) : Bool :=
  s.itemsOf sl == 0 && (s.hostChans sl).all (fun q => s.dstate q.1 q.2 != 1 && s.dstate q.1 q.2 != 2)

/-- SLICE_DRAIN_END, R386 steps 2 and 3. -/
def execSliceDrainEnd (sl : Nat) (s : State) : Host.Outcome State Fault Refusal :=
  if s.slLive sl && s.slState sl == 2 && s.running &&
      (s.drained sl || decide (s.pw.onTicks ≥ (s.sx sl).drainTick + 100 * s.slcGet SLC_TIMERS_DRAIN_MS sl)) then
    .next ((s.setSlState sl 3).beginAdvance sl)
  else .next s

/-- GENERATION_ADVANCE, R388. -/
def execGenerationAdvance (sl : Nat) (s : State) : Host.Outcome State Fault Refusal :=
  if (s.sx sl).advance && !s.genCarried sl ((s.curGen sl + 1) % 256) then .next (s.advanceNow sl) else .next s

/-! ### Drivers, R390 to R393 -/

/-- Writes what a slice's hold buffer keeps, in hold order (R393). -/
def State.replayHold (s : State) (sl : Nat) : State :=
  (s.sx sl).hold.foldl (fun s h =>
    let tag := match h.writes.getLast? with | some w => leVal (w.2.2.2.take 4) | none => 0
    s.putOuts h.port sl 0xFFFF tag .ok h.fn (h.writes.map (fun w =>
      ⟨if (s.apertureOf w.1 w.2.2.2.length).isSome then none else some w.2.2.1, w.1, w.2.1, w.2.2.2⟩))) s

/-- SLICE_ATTACH, R390, R393: driver slot d, 0 REPLAY or 1 DISCARD; firmware assigns EVT_VEC. -/
def execSliceAttach (ch d mode vec : Nat) (s : State) : Host.Outcome State Fault Refusal :=
  .next (s.serve ch 0x18 [(1, d), (2, mode)] 0 .bound false (fun sl s =>
    let b := ch / 32
    if b > 7 then refuseCmd s .denied
    else s.onSlice sl false (fun s =>
      let st := s.slState sl
      if d > 15 then refuseCmd s .badDescriptor 1
      else if mode > 1 ∨ (st = 5 ∧ mode = 0) then refuseCmd s .badDescriptor 2
      else if (s.sx sl).driver.isSome ∨ (s.sx sl).advance then refuseCmd s .busy
      else match (if vec > 2047 then none else s.assignVec sl b vec) with
      | none => refuseCmd s .quotaExceeded
      | some s =>
        let s := if mode = 0 then s.replayHold sl else s
        let first := (s.slotSlices b d).isEmpty
        let s := s.modSx sl (fun x => { x with driver := some (b * 16 + d), hold := [] })
        let s := (s.slcPut SLC_HOLD_USED_MIB sl 0).setSlState sl 1
        let s := (s.slcPut SLC_CTL_ACCEPT sl 1).slcPut SLC_CTL_EVT_VEC sl vec
        let s := (List.range 2).foldl (fun s die => s.fset SLC_CTL_PORT (b % 4 + (if b / 4 = die then 4 else 0)) die sl) s
        let s := if first then ({ s with mbx := { s.mbx with beats := smSet s.mbx.beats (b * 16 + d) s.pw.onTicks } } : State).fset MBX_HB_BEATS 0 0 b d else s
        let s := ((s.noticesFollow sl b).mapViews sl).sliceNotice sl 0 0
        okCmd s [s.rget SLC_STATUS 0 sl])))

/-- SLICE_DETACH, R373: BUSY with work in flight. -/
def execSliceDetach (ch : Nat) (s : State) : Host.Outcome State Fault Refusal :=
  .next (s.serve ch 0x19 [] 0 .bound false (fun sl s =>
    if ch / 32 > 7 then refuseCmd s .denied
    else s.onSlice sl false (fun s =>
      if !s.drained sl then refuseCmd s .busy
      else
        let s := s.modSx sl (fun x => { x with driver := none })
        okCmd (((s.slcPut SLC_CTL_PORT sl 0).mapViews sl)) [s.rget SLC_STATUS 0 sl])))

/-- HOST_ABSENT_MARK, R391, R392: three missed periods of a driver slot (bank × 16 + d) mark its supervised slices. -/
def execHostAbsentMark (slot : Nat) (s : State) : Host.Outcome State Fault Refusal :=
  if !s.fwRuns || decide (s.missedBeats (slot / 16) (slot % 16) < 3) then .next s
  else .next ((s.slotSlices (slot / 16) (slot % 16)).foldl (fun s sl =>
    if s.slState sl = 1 ∧ s.slcGet SLC_CTL_HB_EN sl ≠ 0 then
      let h := s.slcGet SLC_HOLD_HOLD_MIB sl
      let s := s.modSx sl (fun x => { x with driver := none, hold := [], holdLimit := h, markTick := s.pw.onTicks })
      let s := ((s.setSlState sl 4).slcPut SLC_CTL_ACCEPT sl 0).slcPut SLC_CTL_PORT sl 0
      (s.mapViews sl).sliceNotice sl 2 0
    else s) s)

/-- HOLD_SQUASH, R392 step 4, R394: at HOLD_S, or when a result would overflow the hold buffer. -/
def execHoldSquash (sl : Nat) (s : State) : Host.Outcome State Fault Refusal :=
  let x := s.sx sl
  if s.slLive sl && s.slState sl == 4 && s.running &&
      (s.slcGet SLC_STATUS_HOLD_FULL sl != 0 || decide (s.pw.onTicks ≥ x.markTick + 100000 * s.slcGet SLC_TIMERS_HOLD_S sl)) then
    let n := x.hold.length
    let s := ((s.setSlState sl 5).modSx sl (fun x => { x with hold := [] })).slcPut SLC_HOLD_USED_MIB sl 0
    let s := (s.squashed sl n).faultLog sl 4 .squashed 0xFFFF n 0
    .next (s.beginAdvance sl)
  else .next s

/-! ### Dirty-page logging, R383, R384 -/

/-- DIRTY_START, R383: `regions` are those firmware takes for the two maps. -/
def execDirtyStart (ch sl : Nat) (regions : List Nat) (s : State) : Host.Outcome State Fault Refusal :=
  .next (s.serve ch 0x1A [(1, sl)] sl .secure false (fun _ s => s.onSlice sl false (fun s =>
    let pages := ((s.logWindows sl).map (·.2)).sum
    let need := ceilDiv (2 * s.mapLen sl) 0x10000
    if s.slcGet SLC_DIRTY_EN sl ≠ 0 then refuseCmd s .busy
    else if pages > 2 ^ 28 ∨ !s.fits sl need then refuseCmd s .quotaExceeded
    else if regions.length ≠ need ∨ regions.eraseDups.length ≠ need ∨ !regions.all s.regionFree then laterCmd s
    else
      let s := (s.takeRegions (128 + sl) regions).modSx sl (fun x => { x with dirtyRegs := regions })
      okCmd ((s.slcPut SLC_DIRTY_EN sl 1).slcPut SLC_DIRTY_ACTIVE_MAP sl 0))))

/-- DIRTY_HARVEST, R384: the maps swap; the one that was active is written for slice d and zeroed once every write issued against it has
left. Its port is that of d's driver. -/
def execDirtyHarvest (ch sl d addr : Nat) (s : State) : Host.Outcome State Fault Refusal :=
  .next (s.serve ch 0x1B [(1, sl), (2, d), (3, addr % 2 ^ 32), (4, addr / 2 ^ 32)] sl .secure false (fun _ s => s.onSlice sl false (fun s =>
    if d > 63 then refuseCmd s .badDescriptor 2
    else if s.slState d = 0 then refuseCmd s .badHandle 2
    else if s.slcGet SLC_DIRTY_EN sl = 0 then refuseCmd s .busy
    else
      let s := (s.slcPut SLC_DIRTY_ACTIVE_MAP sl (1 - s.slcGet SLC_DIRTY_ACTIVE_MAP sl)).slcPut SLC_DIRTY_HARVEST sl 1
      laterCmd ((s.modSx sl (fun x => { x with cmd := 4, cmdCh := ch, harvest := some (d, addr) })).stepHarvest sl))))

/-- DIRTY_STOP, R383. -/
def execDirtyStop (ch sl : Nat) (s : State) : Host.Outcome State Fault Refusal :=
  .next (s.serve ch 0x1C [(1, sl)] sl .secure false (fun _ s => s.onSlice sl false (fun s =>
    let s := (s.freeRegions (s.sx sl).dirtyRegs).modSx sl (fun x => { x with dirtyRegs := [] })
    okCmd ((s.slcPut SLC_DIRTY_EN sl 0).slcPut SLC_DIRTY_ACTIVE_MAP sl 0))))

end Machine
end Sys2Proof
end

