-- ==== Sys2Proof/Machine/RegView.lean ====
section
/-!
DEFINITION. What a read of a register returns (spec 00 R11, R12, R14): the stored word, or, for read-only fields that show other
state live, that state; latching pairs; reads of the whole control space.
-/
namespace Sys2Proof
namespace Machine

/-! ### Finding a register -/

/-- The register, with its array indices, that lies at an offset of a block instance. -/
def regAt (b : Blk) (inst off : Nat) : Option (Reg × List Nat) :=
  b.regs.findSome? (fun r => if r.present inst off then (r.indexAt off).map (fun ix => (r, ix)) else none)

/-- The n-th index of an array element. -/
def ixAt (ix : List Nat) (n : Nat) : Nat := ix.getD n 0

/-- A number in a field that saturates at its width. -/
def satF (f : Fld) (v : Nat) : Nat := min v (2 ^ (f.hi + 1 - f.lo) - 1) * 2 ^ f.lo

/-- A Boolean as a field's place. -/
def flagF (f : Fld) (b : Bool) : Nat := if b then 2 ^ f.lo else 0

/-! ### Live values, by block -/

/-- A storage command, Sanitize or Format is outstanding (R67). -/
def State.nvmeBusy (s : State) : Bool := decide (s.nvmInflight > 0) || s.nvm.ops.any (fun o => !o.2.ended)

/-- Bits [7:4] of GSO_MSTATE: what blocks M2 (R67). -/
def State.m2Blockers (s : State) : Nat :=
  flagF GSO_MSTATE_BLK_NVME s.nvmeBusy + flagF GSO_MSTATE_BLK_TMT s.tmtBusy + flagF GSO_MSTATE_BLK_HRC (s.fon HRC_STATUS_STATE) +
    flagF GSO_MSTATE_BLK_DIS (s.fget GSO_MSTATE_CTL_M2_IDLE_S = 0)

/-- The FUS registers, R625, from the fuses as loaded. -/
def State.fusView (s : State) (r : Reg) (i : Nat) : Nat :=
  let f := s.dbg.loaded
  let die := f.dieWords (s.fget FUS_DIE_SEL_DIE)
  let d := s.fget FUS_ANCHOR_SEL_ANCHOR
  if r = FUS_STATUS then flagF FUS_STATUS_DBG_DISABLED s.dbg.fuses.dbgDisable + flagF FUS_STATUS_INJ_DISABLED s.dbg.fuses.injDisable +
    satF FUS_STATUS_DBG_STATE s.dbgState + flagF FUS_STATUS_FIELD_ERR f.fieldErr
  else if r = FUS_DIE_LOT_LO then die.getD 0 0
  else if r = FUS_DIE_LOT_HI then die.getD 1 0
  else if r = FUS_DIE_POS then die.getD 2 0
  else if r = FUS_DIE_INFO then die.getD 3 0
  else if r = FUS_SERIAL_LO then f.serialNow % 2 ^ 32
  else if r = FUS_SERIAL_HI then f.serialNow / 2 ^ 32 % 2 ^ 32
  else if r = FUS_VID then satF FUS_VID_JTAG_MFR f.mfrNow + satF FUS_VID_VID f.vidNow
  else if r = FUS_MAC_LO then f.macNow % 2 ^ 32
  else if r = FUS_MAC_HI then f.macNow / 2 ^ 32 % 2 ^ 16
  else if r = FUS_SECVER then f.floor
  else if r = FUS_ANCHOR_STATUS then
    ((List.range 4).map (fun a => (if f.revoked a || !((f.anchors.getD a ⟨false, 0, true⟩).crcOk) then 16 * 2 ^ a else 0) +
      (if (f.anchors.getD a ⟨false, 0, true⟩).written then 2 ^ a else 0))).sum
  else if r = FUS_ANCHOR_D then getBits (f.anchors.getD d ⟨false, 0, true⟩).digest (32 * i + 31) (32 * i)
  else s.rget r 0 i

/-- The LIF registers, R611. -/
def State.lifView (s : State) (r : Reg) : Nat :=
  let v := (s.lifeItem (s.fget LIF_ITEM_SEL_ITEM)).getD 0
  if r = LIF_CAL_LO then s.calendar % 2 ^ 32
  else if r = LIF_CAL_HI then s.calendar / 2 ^ 32
  else if r = LIF_STATUS then flagF LIF_STATUS_CAL_VALID s.pw.calValid + flagF LIF_STATUS_REC_FAIL (s.fon LIF_STATUS_REC_FAIL) +
    satF LIF_STATUS_DIP_PEND s.pw.dips.length + satF LIF_STATUS_REC_AGE s.powerOnPending
  else if r = LIF_ITEM_LO then v % 2 ^ 32
  else if r = LIF_ITEM_HI then v / 2 ^ 32
  else s.rget r

/-- HRC_MEMBER_STATUS of the selected member, R569: zero for a member that this device does not track under R552. -/
def State.memberView (s : State) : Nat :=
  let n := s.fget HRC_MEMBER_SEL_MEMBER
  match smGet s.hrc.members n with
  | some m =>
    if s.fget HRC_STATUS_ROLE = 1 ∧ n ≠ s.hrc.mgr ∧ s.hrc.deputy ≠ some n then 0
    else satF HRC_MEMBER_STATUS_MISSED m.missed + satF HRC_MEMBER_STATUS_REASON m.reason + satF HRC_MEMBER_STATUS_ROLE m.role +
      satF HRC_MEMBER_STATUS_STATE m.state
  | none => 0

/-- Update and append records that a copy holds at step 4 on palette p, R285: one record a work item and home bristle, one
an entry. -/
def State.heldRecords (s : State) (p : Nat) : Nat :=
  let copyHeld := fun (h u : Nat) => s.cmp.copies.any (fun c => c.handle == h && c.unit == u && c.phase == 1 && c.src.home / 384 == p)
  (s.works.map (fun w =>
    if w.2.kind = 0x11 then
      let h := leField w.2.desc 4 4
      let rpe := max 1 (s.rowShape h).2
      ((w.2.waiting.map (fun i => w.2.idx.getD i 0 / rpe)).eraseDups.filter (copyHeld h)).length
    else (w.2.ents.filter (fun x => x.phase == 0 && !x.appended && s.cmp.copies.any (fun c => c.handle == x.seqH && c.phase == 1 && c.src.home / 384 == p))).length)).sum

/-- The CMP registers that show other state, R297. -/
def State.cmpView (s : State) (r : Reg) (p i : Nat) : Nat :=
  if r = CMP_STATUS then satF CMP_STATUS_HELD (s.heldRecords p) + satF CMP_STATUS_DRAINS s.cmp.drains.length +
    satF CMP_STATUS_ACTIVE (s.cmp.copies.filter (fun c => c.src.home / 384 == p)).length
  else if r = CMP_EXC_USED then s.cmp.exc.length
  else if r = CMP_SWATCH_USED then
    satF CMP_SWATCH_USED_BLOCKS ((s.cmp.swatch.filter (fun w => w.1 / 8192 == p)).map (fun w => heldBelow (eGet w.2 0 2) 16 * eGet w.2 2 1)).sum
  else s.rget r p i

/-- The palette SYN registers, R322. -/
def State.synView (s : State) (r : Reg) (p i : Nat) : Nat :=
  if r = SYN_STATUS then s.rget SYN_STATUS p +
    satF SYN_STATUS_WAITERS (s.brs.filter (fun b => b.1 / 384 == p && b.2.wait.isSome)).length
  else if r = SYN_RPT then s.rptWord p i
  else if r = SYN_FLAG_VAL then
    let id := s.fget SYN_FLAG_SEL_ID p
    if id / 384 = p ∧ id < 3840 then (smGetD s.syn.direct (64 * id + s.fget SYN_FLAG_SEL_INDEX p) ⟨0, [], []⟩).val else 0
  else s.rget r p i

/-- A word of a stretcher's translation table entry, R322, whose layout is private to the device: the model's first word is the handle that
names the entry, with bit 22 for one that is allocated, its second zero (DESIGN CHOICE, log entry 39). -/
def State.vfEntry (s : State) (n k i : Nat) : Nat :=
  match i, smGet s.syn.entries (16384 * n + k) with
  | 0, some e => k + e.gen * 2 ^ 14 + (if e.used then 2 ^ 22 else 0) + n * 2 ^ 24 + e.slice * 2 ^ 26
  | _, _ => 0

/-- A DMA channel's position, R339: CUR, RD, WR and HOLD. -/
def State.dmaView (s : State) (r : Reg) (e k : Nat) : Nat :=
  let d := smGetD s.dma (64 * e + k) DmaChan.init
  if r = DMA_CHAN_CUR_LO then d.cur % 2 ^ 32
  else if r = DMA_CHAN_CUR_HI then d.cur / 2 ^ 32
  else if r = DMA_CHAN_RD then d.rd
  else if r = DMA_CHAN_WR then d.wr
  else if r = DMA_CHAN_HOLD then d.hold.length
  else s.rget r e k

/-- The TMT registers that show other state, R508. -/
def State.tmtView (s : State) (r : Reg) (die : Nat) : Nat :=
  let mine := (s.tmt.conns.map (·.2)).filter (fun x => x.die == die && x.state != 0)
  let miss := s.tmt.miss.filter (fun k => k.die == die)
  if r = TMT_CACHE_STATUS then satF TMT_CACHE_STATUS_PINNED (mine.filter Conn.pinned).length +
    satF TMT_CACHE_STATUS_CACHED (mine.filter (·.cached)).length
  else if r = TMT_MISS_STATUS then satF TMT_MISS_STATUS_PKTS miss.length +
    satF TMT_MISS_STATUS_KIB (ceilDiv (miss.map (·.size)).sum 1024)
  else if r = TMT_SETUP_STATUS then (s.tmt.setup.filter (fun q => q.die == die)).length
  else if r = TMT_CONN_USED then mine.length
  else if r = TMT_MR_USED then satF TMT_MR_USED_RETIRED (smCount s.tmt.mrs (·.retired)) + satF TMT_MR_USED_USED (smCount s.tmt.mrs (·.valid))
  else if r = TMT_CONN_STATUS then
    match s.conn (s.fget TMT_CONN_SEL_CONN die) with
    | some x =>
      if x.die = die ∧ x.state ≠ 0 then
        2 ^ 31 + flagF TMT_CONN_STATUS_CACHED x.cached + flagF TMT_CONN_STATUS_PINNED x.pinned + satF TMT_CONN_STATUS_STATE x.state +
          (if x.slice = 64 then 0xFF0000 else x.slice * 65536) + satF TMT_CONN_STATUS_INCARN x.incarn
      else 0
    | none => 0
  else s.rget r die

/-- Slots of the key store in a set of states (R510). -/
def State.keyCount (s : State) (l : List Nat) : Nat := smCount s.cph.slots (fun e => l.contains e.state)

/-- The PF0 cipher registers, R525. -/
def State.cphView (s : State) (r : Reg) (i : Nat) : Nat :=
  if r = CPH_STATUS then satF CPH_STATUS_LOADED (s.keyCount [2]) + satF CPH_STATUS_ALLOCATED (s.keyCount [1, 2, 3, 4])
  else if r = CPH_ENG_STATUS then flagF CPH_ENG_STATUS_BUSY (decide (s.engineLoad i > 0)) + satF CPH_ENG_STATUS_ACTIVE (min 64 (s.engineLoad i)) +
    satF CPH_ENG_STATUS_QUEUED (s.engineLoad i)
  else if r = CPH_ENG_KIB then smGetD s.cph.bytes i 0 / 1024 % 2 ^ 32
  else if r = CPH_SLOT_INFO then
    let e := s.keySlot (s.fget CPH_SLOT_SEL_SLOT)
    satF CPH_SLOT_INFO_STATE e.state + satF CPH_SLOT_INFO_KLEN e.klen + satF CPH_SLOT_INFO_USAGE e.usage +
      (if e.slice = 64 then 2 ^ 15 else satF CPH_SLOT_INFO_SLICE e.slice) + satF CPH_SLOT_INFO_SALTS e.salts.length
  else s.rget r 0 i

/-- The Varnish registers, R549. -/
def State.vrnView (s : State) (r : Reg) : Nat :=
  if r = VRN_STATUS then s.vrnStatus
  else if r = VRN_PROG then s.vrnPct
  else if r = VRN_SHARDS then s.shards.length
  else if r = VRN_LEASE_SIZE then (if s.vrn.buddy.isSome then s.vrn.gib else 0)
  else if r = VRN_LEASE_FREE then s.poolFree
  else s.rget r

/-- The transmit queue registers that show other state, R459: occupancy, and credit in whole bytes rounded toward zero. -/
def State.schView (s : State) (r : Reg) (die j q : Nat) : Nat :=
  if r = SCH_Q_STATUS then s.rget r die j q + satF SCH_Q_STATUS_OCC (ceilDiv (s.txOcc die j q) 64)
  else if r = SCH_Q_CREDIT then ((s.credit (qKey die j q)).tdiv 4096 % 2 ^ 32).toNat
  else s.rget r die j q

/-! ### The value of a register -/

/-- Words of a slice's counter view, R595: counters by view index, and the mirrors of its dump sets. -/
def State.pmuView (s : State) (sl off : Nat) : Nat :=
  if 0x800 ≤ off ∧ off < 0x900 then
    let d := (off - 0x800) / 0x10
    if s.fon PMU_DUMP_CTL_ACTIVE 0 d && s.fget PMU_DUMP_CTL_SLICE 0 d == sl then
      match off % 0x10 with
      | 0 => s.rget PMU_DUMP_CTL 0 d | 4 => s.rget PMU_DUMP_SEQ 0 d | 8 => s.rget PMU_DUMP_DROP 0 d | 12 => s.rget PMU_DUMP_WR 0 d | _ => 0
    else 0
  else match (if off < 0x800 then smGet s.pmu.views (64 * sl + off / 8) else none) with
    | some id => if off % 8 = 0 then s.rget PMU_CNT_LO (id / 16) (id % 16) else if off % 8 = 4 then s.rget PMU_CNT_HI (id / 16) (id % 16) else 0
    | none => 0

/-- Is a bristle surely in a hold cycle of R103, whatever it would issue next: a WAIT, a GSEND without credit, RUN cleared, a gated
cluster? -/
def State.holds (s : State) (b : Nat) : Bool :=
  (s.br b).wait.isSome || (s.br b).stopped || (match (s.br b).sbuf with | .gsend _ _ _ :: _ => true | _ => false) ||
    s.isGated (.cluster (b / 384) (b % 384 / 16)) || s.isGated (.palette (b / 384))

/-- The value that a register shows (R12): write-only bits are zero already in the stored word. -/
def State.regValue (s : State) (r : Reg) (inst : Nat) (ix : List Nat) : Nat :=
  let i := ixAt ix 0
  let j := ixAt ix 1
  let k := ixAt ix 2
  match r.blk with
  | .gso => if r = GSO_MSTATE then s.rget r + s.m2Blockers else s.rget r
  | .fus => s.fusView r i
  | .lif => s.lifView r
  | .hrc => if r = HRC_MEMBER_STATUS then s.memberView else s.rget r
  | .mbx =>
    if r = MBX_IN_FULL then ((List.range 32).map (fun c => if s.fon MBX_CH_STATUS_IN_FULL 0 i c then 2 ^ c else 0)).sum
    else if r = MBX_SEC then s.rget MBX_SEC % 256 + 256 + (if s.dbgOpen then 512 else 0)
    else s.rget r 0 i j k
  | .injA => if r = INJ_STATUS then flagF INJ_STATUS_DISABLED s.dbg.fuses.injDisable +
      ((List.range 160).filter (fun n => s.fon INJ_ARM_ARMED 0 n)).length else s.rget r 0 i
  | .cmp => s.cmpView r inst i
  | .synP => s.synView r inst i
  | .synV => if r = SYN_VF_VAL then
      let n := 16384 * inst + s.fget SYN_VF_SEL_INDEX inst
      (if (smGet s.syn.entries n).any (·.used) then (smGetD s.syn.virt n ⟨0, [], []⟩).val else 0)
      else if r = SYN_VF_ENT then s.vfEntry inst i (ixAt ix 1) else s.rget r inst
  | .dma => s.dmaView r inst i
  | .brs => if r = BRS_STATUS then s.rget r inst + flagF BRS_STATUS_HOLD (s.holds inst) else s.rget r inst
  | .pkt => if r = PKT_PORT_STATUS then s.rget r inst i + flagF PKT_PORT_STATUS_PRESENT (s.portPresent inst i)
      else if r = PKT_PORT_DEEP then satF PKT_PORT_DEEP_DEEP1 (s.deepest inst i 1) + satF PKT_PORT_DEEP_DEEP0 (s.deepest inst i 0)
      else s.rget r inst i j k
  | .sch => if r = SCH_Q_STATUS ∨ r = SCH_Q_CREDIT then s.schView r inst i j else s.rget r inst i j k
  | .tmt => s.tmtView r inst
  | .cphN => if r = CPH_INL_STATUS then s.keyCount [2, 3] else s.rget r inst
  | .hif => if r = HIF_NPR_STATUS then
      let q := (s.hl.npr.filter (fun n => n.port == inst && n.quar)).length
      satF HIF_NPR_STATUS_QUAR q + satF HIF_NPR_STATUS_OUTSTANDING ((s.hl.npr.filter (fun n => n.port == inst)).length - q) else s.rget r inst
  | .slc => if r = SLC_ACTIVE_LO then ((List.range 32).map (fun b => if s.slState b != 0 then 2 ^ b else 0)).sum
      else if r = SLC_ACTIVE_HI then ((List.range 32).map (fun b => if s.slState (32 + b) != 0 then 2 ^ b else 0)).sum
      else if r = SLC_DIRTY then putBits (s.rget r inst i) 30 30 (if (s.sx i).cmd = 4 then 1 else 0)
      else s.rget r inst i j
  | .nvc => if r = NVC_STATUS then satF NVC_STATUS_INFLIGHT s.nvmInflight +
      ((List.range 8).map (fun c => if (s.ctl c).rdy then 2 ^ c else 0)).sum else s.rget r 0 i
  | .cph => s.cphView r i
  | .vrn => s.vrnView r
  | .pmu => if r = PMU_TIME_NS then s.pmu.ns % 1000000000
      else if r = PMU_TIME_SL then s.pmu.ns / 1000000000 % 2 ^ 32
      else if r = PMU_TIME_SH then s.pmu.ns / 1000000000 / 2 ^ 32 % 2 ^ 16
      else s.rget r inst i j k
  | .atl => if r = ATL_RESTART then putBits (s.rget r) 23 16 (min 255 s.wdtRecent) else s.rget r inst i j k
  | .mem => if r = MEM_STATUS then s.rget r inst + flagF MEM_STATUS_SCRUB_ACTIVE (s.fon MEM_SCRUB_CTL_EN inst && s.fget MEM_STATUS_STATE inst == 1)
      else s.rget r inst i j k
  | .pal | .stg | .gu | .injD => s.rget r inst i j k

/-- A word of control space at a location, as the atelier core sees it: zero at a reserved offset (R14). -/
def State.ctlWord (s : State) (l : CtlLoc) : Nat :=
  if l.blk = .mem ∧ 0x40000 ≤ l.off ∧ l.off < 0x50000 then leVal (memReadN s.cb (l.inst * 0x10000 + (l.off - 0x40000)) 4)
  else if l.blk = .pmu ∧ l.inst = 0 ∧ 0x100000 ≤ l.off then
    (if l.off < 0x100000 + 64 * 0x10000 then s.pmuView ((l.off - 0x100000) / 0x10000) ((l.off - 0x100000) % 0x10000) else 0)
  else match regAt l.blk l.inst l.off with
    | some (r, ix) => s.regValue r l.inst ix
    | none => 0

/-! ### Latching pairs, R11, R588, R591, R444, R601, R611 -/

/-- The partner words, as addresses, that a read of the word at `a` latches: the low word and its partner for a chained
counter's neighbour. -/
def State.partners (s : State) (a : Addr) : List Addr :=
  match ctlLoc a with
  | some l =>
    if l.blk = .pmu ∧ l.inst = 0 ∧ 0x100000 ≤ l.off then
      (if l.off % 0x10000 < 0x800 ∧ l.off % 8 = 0 then [a + 4] else [])
    else match regAt l.blk l.inst l.off with
      | none => []
      | some (r, ix) =>
        if r = MEM_UE_ADDR0 ∨ r = PMU_WIN_LO ∨ r = LIF_CAL_LO ∨ r = LIF_ITEM_LO then [a + 4]
        else if r = PMU_CNT_LO then
          let k := ixAt ix 0
          if k % 2 = 0 ∧ s.fon PMU_EVSEL_CHAIN l.inst (k + 1) then [a + 4, a + 0x20, a + 0x24] else [a + 4]
        else if r = PKT_STAT then (if ixAt ix 1 % 2 = 0 then [a + 4] else [])
        else if r = PMU_SLOT then (if ixAt ix 2 = 0 then [a + 4] else [])
        else if r = PMU_TIME_NS ∨ r = PMU_PPS_IN_NS then [a + 4, a + 8]
        else []
  | none => []

/-- The word of control space at a 4-byte aligned address. -/
def State.wordAt (s : State) (a : Addr) : Nat :=
  match ctlLoc a with
  | some l => s.ctlWord l
  | none => 0

/-- Is the word at an address the BRS_STATUS of a bristle that runs and is in no hold for sure? Whether the sampled cycle is a hold cycle
(an empty fetch buffer, a busy SRAM port, a source not returned) is then a free value (R103, R127, log entry 24). -/
def State.holdOpen (s : State) (a : Addr) : Bool :=
  match ctlLoc a with
  | some ⟨.brs, b, 4⟩ => s.brRuns b && !s.holds b
  | _ => false

/-- A read of one register as a word: a latched word is returned once and latches nothing new; else the live value, and the
read latches the partners of a low word. -/
def State.readWord (s : State) (a : Addr) : State × Nat :=
  match smGet s.latch a with
  | some w => ({ s with latch := smDel s.latch a }, w.toNat)
  | none =>
    if s.holdOpen a then
      let (f, s) := s.fresh 1
      (s, s.wordAt a + 16 * f)
    else
    ({ s with latch := (s.partners a).foldl (fun m p => smSet m p (BitVec.ofNat 32 (s.wordAt p))) s.latch }, s.wordAt a)

/-- A read of n bytes of control space, R11: each byte comes from the register that holds it, and the read acts once on each
register. The banks of the mailboxes answer by path. -/
def State.readCtl (s : State) (who : MbxPath) (a n : Nat) : State × List Byte :=
  let r := (regWords a n).foldl (fun (acc : State × List Byte) w =>
    let q := match ctlLoc w with
      | some ⟨.mbx, _, o⟩ => if o < 0xA0000 then acc.1.mbxRead who (o / 0x10000) (o % 0x10000) else acc.1.readWord w
      | _ => acc.1.readWord w
    (q.1, acc.2 ++ leBytes 4 q.2)) (s, [])
  (r.1, (r.2.drop (a % 4)).take n)

end Machine
end Sys2Proof
end

