-- ==== Sys2Proof/Machine/RegWrite.lean ====
section
/-!
DEFINITION. Writes of control registers (spec 00 R11 to R14): the access types, the ranges of fields, what a write does
beyond its bits, the requester's grant (01 R41), narrow writes (14 R350), dies that sleep (01 R29, R40).
-/
namespace Sys2Proof
namespace Machine

/-! ### Access types and locks, R12, R13 -/

/-- The LOCK field of a block kind. -/
def lockFld (b : Blk) : Option Fld :=
  match b with
  | .gso => some GSO_LOCK_LOCK | .atl => some ATL_LOCK_LOCK | .mbx => some MBX_LOCK_LOCK | .hrc => some HRC_LOCK_LOCK
  | .mem => some MEM_LOCK_LOCK | .dma => some DMA_LOCK_LOCK | .pkt => some PKT_LOCK_LOCK | .sch => some SCH_LOCK_LOCK
  | .tmt => some TMT_LOCK_LOCK | .hif => some HIF_LOCK_LOCK | .slc => some SLC_LOCK_LOCK | .nvc => some NVC_LOCK_LOCK
  | .cph => some CPH_LOCK_LOCK | .vrn => some VRN_LOCK_LOCK
  | .fus | .lif | .injA | .pal | .cmp | .synP | .brs | .stg | .gu | .synV | .cphN | .pmu | .injD => none

/-- Is the block instance locked? -/
def State.locked (s : State) (b : Blk) (inst : Nat) : Bool := (lockFld b).any (fun f => s.fon f inst)

/-- The word a write leaves by the access types of R12: read-only, reserved and locked bits keep their value, a 1 clears a W1C
bit and sets a W1S bit. -/
def mergeWord (r : Reg) (locked : Bool) (old val : Nat) : Nat :=
  let w := if locked then r.rw else r.rw ||| r.rwl
  (clearBits (clearBits old w) (val &&& r.w1c)) ||| (val &&& w) ||| (val &&& r.w1s)

/-! ### Ranges of fields -/

/-- Is n between lo and hi? -/
def inRange (lo hi n : Nat) : Bool := decide (lo ≤ n ∧ n ≤ hi)

/-- The fields whose function names a range, with the values it admits; any other value leaves the field unchanged. -/
def fieldRanges : List (Fld × (Nat → Bool)) :=
  [ (ATL_WDT_CTL_TIMEOUT_MS, inRange 100 10000), (MEM_SCRUB_CTL_PASS_HOURS, inRange 1 255),
    (CMP_HEAT_CTL_HOT_THRESH, inRange 1 65535), (CMP_HEAT_CTL_DECAY_MS, inRange 1 1000), (CMP_SCAN_CTL_SCAN_MS, inRange 1 1000),
    (CMP_SWATCH_CTL_MAXREP, inRange 1 4), (CMP_MIG_CTL_MAX_ACTIVE, inRange 1 15), (CMP_MIG_CTL_CAP_PCT, inRange 1 25),
    (CMP_TSLICE_CTL_QUANTUM_MS, inRange 2 1000), (CMP_TIER_CTL_TIMEOUT_MS, inRange 1 255), (CMP_SLICE_POL_SWATCH_PCT, inRange 0 100) ] ++
  [ (HIF_CTL_L1_IDLE_US, inRange 1 4095), (HIF_CTL_NPR_LOG, inRange 6 12),
    (HIF_CTO_CTL_TIMEOUT_US, fun v => v == 0 || inRange 50 64000000 v),
    (SLC_TIMERS_HOLD_S, inRange 1 3600), (SLC_TIMERS_DRAIN_MS, inRange 1 10000), (SLC_HOLD_HOLD_MIB, inRange 1 256),
    (NVC_CTL_SAN_GBPS, inRange 1 50), (NVC_CTL_RTO_MS, inRange 1 60000),
    (PKT_QDEST_DEST, inRange 0 2), (SCH_Q_CTL_QUANTUM, inRange 64 65535), (SCH_Q_RATE_RATE_MBPS, inRange 0 800000),
    (SCH_SLC_RATE_SHARE, inRange 0 1000), (SCH_GCL_BASE_NS_NS, inRange 0 999999999), (SCH_GCL_BASE_SH_LEN, inRange 1 256) ] ++
  [ (TMT_CC_CTL_INIT_CWND, inRange 2 4096), (TMT_CC_CTL_ECN_CUT, inRange 1 8), (TMT_CC_CTL_REORDER, inRange 1 64),
    (TMT_ACK_CTL_ACK_EVERY, inRange 1 64), (TMT_ACK_CTL_ACK_DELAY_NS, inRange 100 65535),
    (TMT_RTO_CTL_RTO_MAX_MS, inRange 1 10000), (TMT_RTO_CTL_RTO_MIN_US, inRange 10 65535),
    (TMT_RETRY_CTL_RNR_US, inRange 1 255), (TMT_RETRY_CTL_RETRY_MAX, inRange 1 15),
    (TMT_SETUP_CTL_SETUP_S, inRange 1 600), (TMT_SETUP_CTL_PROBE_MS, inRange 1 10000), (TMT_CLOSE_CTL_CLOSE_MS, inRange 1 60000) ] ++
  [ (CPH_CTL_ENG_EN, inRange 1 15), (CPH_SLOT_SEL_SLOT, inRange 0 1039),
    (VRN_CTL_RATE_GBPS, inRange 1 100), (VRN_CTL_PERIOD_MS, fun v => v == 0 || inRange 10 60000 v),
    (HRC_CTL_ISOLATE_N, inRange 6 100), (HRC_CTL_STEP_PCT, inRange 0 100), (HRC_CTL_FENCE_MS, inRange 20 10000),
    (HRC_MEMBER_SEL_MEMBER, inRange 0 256), (PMU_CTL_WIN_US, inRange 1 1000000) ]

/-- The event that a write outside a range sets, with the block instance that holds it. -/
def rejectFld (b : Blk) : Option Fld :=
  match b with
  | .cmp => some CMP_ERR_STATUS_CFG_REJECT | .hif => some HIF_ERR_STATUS_CFG_REJECT | .nvc => some NVC_ERR_STATUS_CFG_REJECT
  | .pkt => some PKT_ERR_STATUS_CFG_REJECT | .sch => some SCH_ERR_STATUS_CFG_REJECT | .tmt => some TMT_ERR_STATUS_CFG_REJECT
  | .cph => some CPH_ERR_STATUS_CFG_REJECT | .vrn => some VRN_ERR_STATUS_CFG_REJECT | .hrc => some HRC_ERR_STATUS_CFG_REJECT
  | .pmu => some PMU_ERR_CFG_REJECT
  | .gso | .atl | .fus | .mbx | .lif | .injA | .pal | .mem | .synP | .dma | .brs | .stg | .gu | .synV | .cphN | .slc | .injD => none

/-- A write of a block was rejected. -/
def State.reject (s : State) (b : Blk) (inst : Nat) : State :=
  match rejectFld b with
  | some f => s.event f (if b = .pmu then 0 else inst)
  | none => s

/-- The word with each field outside its range put back, and whether one was. -/
def keepRanges (r : Reg) (old new : Nat) : Nat × Bool :=
  fieldRanges.foldl (fun acc x =>
    if x.1.reg = r ∧ !x.2 (getBits acc.1 x.1.hi x.1.lo) then (putBits acc.1 x.1.hi x.1.lo (getBits old x.1.hi x.1.lo), true) else acc) (new, false)

/-- A write whose whole effect is on the register's bits. -/
def State.plainWrite (s : State) (r : Reg) (inst : Nat) (ix : List Nat) (val : Nat) : State :=
  let old := s.rget r inst (ixAt ix 0) (ixAt ix 1) (ixAt ix 2)
  let q := keepRanges r old (mergeWord r (s.locked r.blk inst) old val)
  let s := s.rset r q.1 inst (ixAt ix 0) (ixAt ix 1) (ixAt ix 2)
  if q.2 then s.reject r.blk inst else s

/-! ### Writes that do more -/

/-- The state a command leads to. -/
def nextOf (s : State) : Host.Outcome State Fault Refusal → State
  | .next t => t
  | _ => s

/-- A write of a slice gather-slot header word, R315, R316: ARRIVED and DROPS are read-only. -/
def State.gatherHdrWrite (s : State) (u n i val : Nat) : State :=
  if i = 0 ∧ val % 256 = 0 then (nextOf s (execGatherSlotFree u (61440 + n) s)).rset SYN_GU_HDR val u n 0
  else if s.slotState u n = 1 then s.event SYN_GU_ERR_HDR_REJECT u
  else if i = 0 ∧ val % 256 = 1 then nextOf s (execGatherSlotArm u (61440 + n) val s)
  else if i = 3 ∨ i = 7 then s
  else s.rset SYN_GU_HDR val u n i

/-- A write of a codebook or soft repair register, R183, R187, R206. -/
def State.memRegWrite (s : State) (r : Reg) (m : Nat) (ix : List Nat) (val : Nat) : State :=
  if r = MEM_REMAP then nextOf s (execSoftRepair m (ixAt ix 0) val s)
  else if r = MEM_CB_FMT then
    let old := s.rget MEM_CB_FMT m
    let inUse := s.rget MEM_CB_INUSE m
    let new := (List.range 16).foldl (fun w k => if bit inUse k then putBits w (2 * k + 1) (2 * k) (getBits old (2 * k + 1) (2 * k)) else w) val
    let s := s.rset MEM_CB_FMT new m
    if new = val then s else s.fset MEM_CB_STATUS_WR_DISCARD 1 m
  else if r = MEM_CB_STATUS then
    let both := bit val 31 && bit val 30 && s.fon MEM_CB_STATUS_WR_DISCARD m && s.fon MEM_CB_STATUS_CB_UE m
    let s := s.plainWrite r m ix val
    if both then s.fset MEM_CB_STATUS_NONFINITE 0 m else s
  else s.plainWrite r m ix val

/-- A write of a DMA channel register, R338, R340. -/
def State.dmaWrite (s : State) (r : Reg) (e : Nat) (ix : List Nat) (val : Nat) : State :=
  let k := ixAt ix 0
  if r = DMA_CHAN_CTL then s.dmaCtlWrite e k val
  else if r = DMA_CHAN_NEXT_LO then s.dmaNextSet e k false val
  else if r = DMA_CHAN_NEXT_HI then s.dmaNextSet e k true val
  else if r = DMA_CHAN_IRQ ∧ getBits val 25 20 ≥ 47 then
    (s.plainWrite r e ix (putBits val 25 20 (s.fget DMA_CHAN_IRQ_INDEX e k))).fset DMA_CHAN_STATUS_CTL_IGNORED 1 e k
  else if r = DMA_CHAN_OWNER ∧ s.fget DMA_CHAN_STATUS_STATE e k ≠ 0 then s
  else s.plainWrite r e ix val

/-- A write of a PKT register, R425, R432, R435, R441, R443. -/
def State.pktWrite (s : State) (r : Reg) (die : Nat) (ix : List Nat) (val : Nat) : State :=
  let j := ixAt ix 0
  if r = PKT_MODE then s.pktMode die val
  else if r = PKT_CLASS_CTL then
    (if getBits val 7 0 ≤ getBits val 15 8 ∧ getBits val 15 8 ≤ getBits val 23 16 ∧
        (getBits val 31 24 = 0 ∨ (3 ≤ getBits val 31 24 ∧ getBits val 31 24 ≤ getBits val 23 16)) then s.plainWrite r die ix val
     else s.pktReject die)
  else if r = PKT_RULE_CMD then
    let s := if bit val 1 then s.rulePut die else s
    let s := if bit val 2 then s.setRuleWord die (s.fget PKT_RULE_SEL_INDEX die) 36 0 else s
    if bit val 0 then s.ruleGet die else s
  else if r = PKT_PORT_CTL then
    let was := s.fon PKT_PORT_CTL_EN die j
    let s := s.plainWrite r die ix val
    let s := if bit val 29 then (List.range 52).foldl (fun s w => s.rset PKT_STAT 0 die j w) s else s
    if was && !bit val 31 then s.portDown die j else s
  else if (r = PKT_PORT_DEF_RX ∨ r = PKT_PORT_DEF_TX) ∧ !actOk val then s.pktReject die
  else if r = PKT_PORT_MAC_HI then s.plainWrite r die ix (val % 2 ^ 16)
  else if r = PKT_WIN then s.winWrite die j (ixAt ix 1) (ixAt ix 2) val
  else s.plainWrite r die ix val

/-- A write of a SCH register, R452, R455, R459. -/
def State.schWrite (s : State) (r : Reg) (die : Nat) (ix : List Nat) (val : Nat) : State :=
  let j := ixAt ix 0
  let gcl := [SCH_GCL_BASE_NS, SCH_GCL_BASE_SL, SCH_GCL_BASE_SH, SCH_GCL_CYCLE, SCH_GCL_INTVL, SCH_GCL_MASK].contains r
  if r = SCH_PORT_CTL then s.schPortCtl die j val s.pmu.ns
  else if gcl && s.fon SCH_PORT_STATUS_RUNNING die j && s.fget SCH_PORT_STATUS_OPER_BANK die j == ixAt ix 1 then s.schReject die
  else if r = SCH_Q_LIM ∧ !(decide (getBits val 7 0 ≤ getBits val 15 8 ∧ getBits val 15 8 ≤ getBits val 23 16)) then s.schReject die
  else s.plainWrite r die ix val

/-- A write of a PMU register, R587, R589, R591: EN set again starts a window as a change of WIN_US does. -/
def State.pmuWrite (s : State) (r : Reg) (inst : Nat) (ix : List Nat) (val : Nat) : State :=
  let k := ixAt ix 0
  if r = PMU_CNT_LO then s.loadCounter inst k false val 0
  else if r = PMU_CNT_HI then s.loadCounter inst k true val 0
  else if r = PMU_CTL then
    let was := s.fget PMU_CTL_WIN_US inst
    let on := s.fon PMU_CTL_EN inst
    let s := s.plainWrite r inst ix val
    if s.fget PMU_CTL_WIN_US inst = was && (on || !s.fon PMU_CTL_EN inst) then s else s.restartWindow inst
  else if r = PMU_EVSEL ∧ k % 2 = 0 ∧ bit val 30 then
    (s.plainWrite r inst ix (putBits val 30 30 (s.fget PMU_EVSEL_CHAIN inst k))).event PMU_ERR_CFG_REJECT 0
  else s.plainWrite r inst ix val

/-- A write of NVC_OWNERc, R398: discarded while the controller is enabled, has a namespace or a recorded operation. -/
def State.ownerWrite (s : State) (c val : Nat) : State :=
  if s.locked .nvc 0 then s
  else if (s.ctl c).en || s.nvm.ns.any (fun n => n.2.ctrls.contains c) || s.opState c != 0 then s.event NVC_ERR_STATUS_OWNER_REJECT
  else s.plainWrite NVC_OWNER 0 [c] val

/-- A write of a register of a block whose window's die is awake. -/
def State.regWrite (s : State) (r : Reg) (inst : Nat) (ix : List Nat) (val : Nat) : State :=
  match r.blk with
  | .gso =>
    if r = GSO_VIN_WARN then s.writeVinWarn val
    else
      let s := s.plainWrite r inst ix val
      if r = GSO_PWR_CTL ∧ bit val 31 then s.setPw { s.pw with vinMinClr := true } else s
  | .atl => if r = ATL_TRACE_EN ∧ ixAt ix 0 = 0 then s.plainWrite r inst ix (val ||| 0xFFFF) else s.plainWrite r inst ix val
  | .fus => if r = FUS_DBG_CTL then (if bit val 0 then s.softClose else s) else s.plainWrite r inst ix val
  | .injD => s.event INJ_ERR_FOREIGN_WR
  | .pal => if r = PAL_CMAP then s.palCmapWrite inst (ixAt ix 0) val else s.plainWrite r inst ix val
  | .mem => s.memRegWrite r inst ix val
  | .cmp =>
    if r = CMP_IND_CMD then
      let s := if bit val 1 then s.cmpIndWrite inst else s
      if bit val 0 then s.cmpIndRead inst else s
    else s.plainWrite r inst ix val
  | .synP => if r = SYN_RPT_POP then (if bit val 0 then nextOf s (execSynRptPop inst s) else s) else s.plainWrite r inst ix val
  | .dma => s.dmaWrite r inst ix val
  | .brs => if r.off = 0 ∨ r.off = 0x08 ∨ r.off = 0x0C ∨ r.off = 0x10 ∨ r.off = 0x24 then s.brsCfgWrite inst r.off val else s.plainWrite r inst ix val
  | .gu => if r = SYN_GU_HDR then s.gatherHdrWrite inst (ixAt ix 0) (ixAt ix 1) val else s.plainWrite r inst ix val
  | .pkt => s.pktWrite r inst ix val
  | .sch => s.schWrite r inst ix val
  | .tmt =>
    if r = TMT_CTL ∧ s.fon TMT_CTL_EN inst ∧ !s.locked .tmt inst then
      (s.plainWrite r inst ix (putBits val 15 0 (s.fget TMT_CTL_UDP_PORT inst))).reject .tmt inst
    else s.plainWrite r inst ix val
  | .hif =>
    if r = HIF_MAP_CMD then
      let s := if bit val 1 then s.hifMapWrite inst else s
      if bit val 0 then s.hifMapRead inst else s
    else s.plainWrite r inst ix val
  | .slc =>
    if r = SLC_MAP_CMD then
      let s := if bit val 1 then s.slcMapWrite inst else s
      if bit val 0 then s.slcMapRead inst else s
    else s.plainWrite r inst ix val
  | .nvc => if r = NVC_OWNER then s.ownerWrite (ixAt ix 0) val else s.plainWrite r inst ix val
  | .pmu => s.pmuWrite r inst ix val
  | .mbx => s.plainWrite r inst ix (if r = MBX_SEC then val % 256 + 256 + (if s.dbgOpen then 512 else 0) else val)
  | .lif | .hrc | .injA | .stg | .synV | .cphN | .cph | .vrn => s.plainWrite r inst ix val

/-! ### Writes by address -/

/-- A write of the word at an aligned address, its die awake. A reserved offset ignores it (R14). The banks of the mailboxes take it by
path. -/
def State.writeNow (s : State) (who : MbxPath) (a val : Nat) : State :=
  match ctlLoc a with
  | none => s
  | some l =>
    if l.blk = .mbx ∧ l.off < 0xA0000 then s.mbxWrite who (l.off / 0x10000) (l.off % 0x10000) val
    else if l.blk = .mem ∧ 0x40000 ≤ l.off ∧ l.off < 0x50000 then nextOf s (execCodebookStoreWrite l.inst (l.off - 0x40000) val s)
    else if l.blk = .pmu ∧ l.inst = 0 ∧ 0x100000 ≤ l.off then s
    else if l.blk = .tmt ∧ 0x100000 ≤ l.off ∧ l.off < 0x140000 then
      (if l.off % 0x1000 < 0x800 then nextOf s (execTmtSqDoorbell none .atelier (l.off - 0x100000) val (.ok, []) s)
       else nextOf s (execTmtCqDoorbell none .atelier (l.off - 0x100000) val s))
    else match regAt l.blk l.inst l.off with
      | some (r, ix) => s.regWrite r l.inst ix val
      | none => s

/-- A write of the word at an aligned address: it waits while the die sleeps (R29, R40). -/
def State.writeWord (s : State) (who : MbxPath) (a val : Nat) : State :=
  match ctlLoc a with
  | some l => s.orWait l.blk l.inst a (val % 2 ^ 32) (fun s => s.writeNow who a (val % 2 ^ 32))
  | none => s

/-- Writes that waited for a domain act, in order. -/
def State.runWaiting (s : State) (d : Domain) : State :=
  let ws := s.pw.waiting.filter (fun w => w.dom == d)
  ws.foldl (fun s w => s.writeNow .atelier w.addr w.val) (s.setPw { s.pw with waiting := s.pw.waiting.filter (fun w => w.dom != d) })

/-- The die of a register is woken for an access, with the module where that sleeps (R40, R66). -/
def State.wakeFor (s : State) (a : Addr) : State :=
  match ctlLoc a with
  | some l =>
    match domainOf l.blk l.inst with
    | some d =>
      (s.wakeDomain d).runWaiting d
    | none => s
  | none => s

/-- A narrow or unaligned write by an internal requester: counted in INTERNAL of port H0 (R350). -/
def State.narrowInternal (s : State) : State := s.fadd HIF_DISC_COUNT_INTERNAL 1 0

/-- Why an access to the register word at an aligned address is not admitted, R38, R41. -/
def State.wordErr (s : State) (who : Requester) (w : Addr) (write : Bool) : Option Status :=
  if (ctlLoc w).isNone then some .unmapped
  else match who with
  | .atelier => none
  | .slice sl => if s.ctlGranted sl w write then none else some .accessFault

/-- Status of a control access by an internal requester: that of the first register word it touches that is not admitted. -/
def State.ctlErr (s : State) (who : Requester) (a n : Nat) (write : Bool) : Option Status :=
  (regWords a n).findSome? (fun w => s.wordErr who w write)

/-- Number that names a requester in a report: a slice, or 64 for the atelier core. -/
def requesterNum : Requester → Nat
  | .atelier => 64
  | .slice sl => sl

/-- One 32-bit write of control space, or a narrow or unaligned one, which is discarded and counted (R11, R350). -/
def State.ctlWrite1 (s : State) (who : Requester) (a n val : Nat) : State :=
  match s.ctlErr who a n true with
  | some st => s.emit (.report (requesterNum who) st)
  | none => if a % 4 ≠ 0 ∨ n ≠ 4 then s.narrowInternal else s.writeWord .atelier a val

/-- A write of n bytes of control space by an internal requester: a 64-bit write is two of 32 bits, lower address first, each with its own
grant and alignment (R11); a vector store is carried out likewise as its 32-bit parts (DESIGN CHOICE, log entry 24). -/
def State.ctlWrite (s : State) (who : Requester) (a n val : Nat) : State :=
  if n = 8 ∨ n = 64 then (List.range (n / 4)).foldl (fun s k => s.ctlWrite1 who (a + 4 * k) 4 (val / 2 ^ (32 * k) % 2 ^ 32)) s
  else s.ctlWrite1 who a n val

/-- A read of n bytes of control space by an internal requester: the dies are woken; each byte comes from its register, zero where that
is refused (R11, R38, R41). -/
def State.ctlRead (s : State) (who : Requester) (a n : Nat) : State × Nat × Status :=
  let r := (regWords a n).foldl (fun (r : State × List Byte) w =>
    if (r.1.wordErr who w false).isSome then (r.1, r.2 ++ leBytes 4 0)
    else
      let q := (r.1.wakeFor w).readCtl .atelier w 4
      (q.1, r.2 ++ q.2)) (s, [])
  (r.1, leVal ((r.2.drop (a % 4)).take n), (s.ctlErr who a n false).getD .ok)

/-! ### The commands -/

/-- REGISTER_WRITE, R12, R11, R41. -/
def execRegisterWrite (who : Requester) (addr size val : Nat) (s : State) : Host.Outcome State Fault Refusal :=
  .next (if s.pw.devReset ∨ size = 0 then s else s.ctlWrite who addr size val)

/-- LATCHING_READ, R11: every read of control space latches the partners of a low word it includes. -/
def execLatchingRead (who : Requester) (addr size : Nat) (s : State) : Host.Outcome State Fault Refusal :=
  if s.pw.devReset ∨ size = 0 then .next s
  else
    let r := s.ctlRead who addr size
    .next (r.1.emit (.read addr r.2.1 r.2.2))

/-- BLOCK_LOCK_SET, R13: a write of 1 to the LOCK bit of the block whose lock register lies at the address. -/
def execBlockLockSet (addr : Nat) (s : State) : Host.Outcome State Fault Refusal :=
  match ctlLoc addr with
  | some l =>
    (match lockFld l.blk with
     | some f => .next (if s.pw.devReset ∨ l.off ≠ f.reg.off then s else s.writeWord .atelier addr 1)
     | none => .next s)
  | none => .next s

/-- POWER_DOMAIN_WAKE, R29, R33: the domain is awake and the writes that waited for it act in order. -/
def execPowerDomainWake (d : Domain) (s : State) : Host.Outcome State Fault Refusal :=
  .next (if s.pw.devReset then s else (s.wakeDomain d).runWaiting d)

end Machine
end Sys2Proof
end

