-- ==== Sys2Proof/Machine/Bar.lean ====
section
/-!
DEFINITION. BAR0 of the three functions of a port (spec 14 R344, R348 to R353, 16 R400, R401, 19 R466): the Device Description Table,
MSI-X tables, grant pages, doorbells, controller registers.
-/
namespace Sys2Proof
namespace Machine

/-! ### The Device Description Table, R352 -/

/-- TYPE, COUNT and PARAM of the table's entries; a PARAM the spec gives no number for is free. -/
def ddtTypes : List (Nat × Nat × Nat) :=
  [(1, 2048, 0x108000), (2, 224, 0), (3, 64, 128), (4, 32768, 0x200000), (5, 32, 0), (6, 512, Config.ddtOpen (6 * 8 + 5)), (7, 4096, 0), (8, 256, 0),
   (9, 64, 0), (10, 4096, 0), (11, 64, 1024), (12, 65536, 0)]

/-- BAR, OFFSET, SIZE and STRIDE of an entry where R348 and R351 place it; else free values (log entry 31). -/
def ddtPlace (t : Nat) : Nat × Nat × Nat × Nat :=
  if t = 1 then (0, 0x100000, 0x8000, 16)
  else if t = 2 then (0, 0x200000, 0xE00000, 0x10000)
  else if t = 3 then (0, 0x1000000, 0x40000, 0x1000)
  else if t = 4 then (2, 0, Config.ddtOpen (4 * 8 + 3) % 2 ^ 32, 0x200000)
  else (Config.ddtOpen (t * 8 + 1) % 256, Config.ddtOpen (t * 8 + 2) % 2 ^ 32, Config.ddtOpen (t * 8 + 3) % 2 ^ 32, Config.ddtOpen (t * 8 + 4) % 2 ^ 32)

/-- An entry as its 32 bytes. -/
def ddtEntry (e : Nat × Nat × Nat) : List Byte :=
  let p := ddtPlace e.1
  leBytes 2 e.1 ++ leBytes 2 (Config.ddtOpen (e.1 * 8)) ++ leBytes 4 e.2.1 ++ leBytes 4 p.1 ++ leBytes 4 p.2.1 ++ leBytes 4 p.2.2.1 ++ leBytes 4 p.2.2.2 ++
    leBytes 8 e.2.2

/-- Is the device in RECOVERY or FAILED, where the table and BAR0 are reduced (R347, R352)? -/
def State.reduced (s : State) : Bool := s.bootState == 7 || s.bootState == 8

/-- The table of port p. -/
def State.ddt (s : State) (p : Nat) : List Byte :=
  let es := ddtTypes.filter (fun e => !s.reduced || e.1 == 1 || e.1 == 2 || e.1 == 4)
  leBytes 4 0x54444B41 ++ leBytes 2 1 ++ leBytes 2 64 ++ leBytes 2 es.length ++ leBytes 2 32 ++ leBytes 4 s.hl.ddtGen ++
    leBytes 1 s.bootState ++ leBytes 1 (s.fget ATL_BOOT_STATUS_FAIL_CODE) ++ leBytes 1 p ++ leBytes 1 0xA1 ++
    leBytes 4 (if s.reduced then 0 else s.rget ATL_FW_VERSION) ++ leBytes 8 (s.sliceCap * 0x10000) ++ leBytes 8 s.dbg.loaded.serialNow ++
    leBytes 2 240 ++ leBytes 1 64 ++ List.replicate 21 0 ++ es.flatMap ddtEntry

/-! ### MSI-X tables -/

/-- Word w of the MSI-X table of a function: vectors are masked at reset. -/
def PortX.msixWord (x : PortX) (fn w : Nat) : Nat := smGetD x.msix (fn * 0x10000 + w) (if w % 4 = 3 then 1 else 0)

/-- Writes a word of a function's MSI-X table; messages no longer masked are sent. -/
def State.msixWrite (s : State) (p fn w val : Nat) : State :=
  let v := if w % 4 = 3 then val % 2 else if w % 4 = 0 then val / 4 * 4 % 2 ^ 32 else val % 2 ^ 32
  (s.setPort p { s.port p with msix := smSet (s.port p).msix (fn * 0x10000 + w) v }).msixDue p fn

/-- Word i of the pending bits of a function. -/
def PortX.pbaWord (x : PortX) (fn i : Nat) : Nat := ((List.range 32).map (fun b => if x.pend.contains (fn * 4096 + 32 * i + b) then 2 ^ b else 0)).sum

/-- Offsets of the MSI-X table and pending bits of a function, and its vectors. -/
def msixAt (fn : Nat) : Nat × Nat × Nat :=
  if fn = 0 then (0x100000, 0x108000, 2048) else if fn = 1 then (0x8000, 0xD000, 1025) else (0x40000, 0x42000, 512)

/-! ### Grant pages, R349 -/

/-- Where an access of n bytes at an offset of the grant pages goes: the internal address, the slice, whether it may write, and the page. -/
def State.grantTarget (s : State) (p off : Nat) : Option (Nat × Nat × Bool × Nat) :=
  let g := off / 0x10000
  let e := smGetD s.hl.grant (p * 224 + g) 0
  if bit e 63 && !(s.reduced && g != 0) then some (getBits e 47 16 * 0x10000 + off % 0x10000, getBits e 61 56, !bit e 62, g) else none

/-- The path of a page's accesses to the mailbox banks (R574): entry 0 is the port's own. -/
def grantPath (p g sl : Nat) : MbxPath := if g = 0 then .port p else .grant p sl

/-- Does an address lie in the banks of the mailbox region? -/
def mbxPlace (a : Nat) : Option Nat := match ctlLoc a with | some ⟨.mbx, _, o⟩ => if o < 0xA0000 then some o else none | _ => none

/-- A read of n bytes through a grant page: zero where it is refused. -/
def State.grantRead (s : State) (p off n : Nat) : State × List Byte :=
  match s.grantTarget p off with
  | none => (s.grantFault p, List.replicate n 0)
  | some (a, sl, _, g) =>
    match mbxPlace a with
    | some _ => (s.mbxWake (grantPath p g sl)).readCtl (grantPath p g sl) a n
    | none =>
      let r := (if (s.ctlErr (.slice sl) a n false).isSome then s.grantFault p else s).ctlRead (.slice sl) a n
      (r.1, leBytes n r.2.1)

/-- A write of one word through a grant page. -/
def State.grantWrite (s : State) (p off val : Nat) : State :=
  match s.grantTarget p off with
  | some (a, sl, true, g) =>
    (match mbxPlace a with
     | some o => (s.mbxWake (grantPath p g sl)).mbxWrite (grantPath p g sl) (o / 0x10000) (o % 0x10000) (val % 2 ^ 32)
     | none => if (s.ctlErr (.slice sl) a 4 true).isSome then s.grantFault p else s.ctlWrite (.slice sl) a 4 (val % 2 ^ 32))
  | _ => s.grantFault p

/-! ### Controller registers, R401 -/

/-- A word of the controller registers. -/
def State.nvmReg (s : State) (c off : Nat) : Nat :=
  let n := s.ctl c
  if off = 0x00 then 0x0801FFFF else if off = 0x04 then 0x20 else if off = 0x08 then 0x20000
  else if off = 0x14 then n.cc
  else if off = 0x1C then (if n.rdy then 1 else 0) + (if n.cfs then 2 else 0) + n.shst * 4
  else if off = 0x24 then n.aqa
  else if off = 0x28 then n.asq % 2 ^ 32 else if off = 0x2C then n.asq / 2 ^ 32
  else if off = 0x30 then n.acq % 2 ^ 32 else if off = 0x34 then n.acq / 2 ^ 32
  else 0

/-- A write of a word of the controller registers: CC enables, resets or shuts down the controller (R402, R403, R422). -/
def State.nvmRegWrite (s : State) (c off val : Nat) : State :=
  let n := s.ctl c
  if off = 0x14 then
    let v := val % 2 ^ 24 / 16 * 16 + val % 2
    if bit v 0 && !n.en then s.nvmEnable c n.aqa n.asq n.acq v
    else if !bit v 0 && n.en then s.nvmReset c
    else
      let s := s.setCtl c { n with cc := v }
      if n.en && getBits v 15 14 != getBits n.cc 15 14 && (getBits v 15 14 == 1 || getBits v 15 14 == 2) then s.nvmShutdown c (getBits v 15 14) else s
  else if n.en then s
  else if off = 0x24 then s.setCtl c { n with aqa := getBits val 27 16 * 0x10000 + getBits val 11 0 }
  else if off = 0x28 then s.setCtl c { n with asq := n.asq / 2 ^ 32 * 2 ^ 32 + val / 4096 * 4096 }
  else if off = 0x2C then s.setCtl c { n with asq := n.asq % 2 ^ 32 + val * 2 ^ 32 }
  else if off = 0x30 then s.setCtl c { n with acq := n.acq / 2 ^ 32 * 2 ^ 32 + val / 4096 * 4096 }
  else if off = 0x34 then s.setCtl c { n with acq := n.acq % 2 ^ 32 + val * 2 ^ 32 }
  else s

/-! ### The whole of BAR0 -/

/-- Size of BAR0 of a function (R344). -/
def bar0Size (fn : Nat) : Nat := if fn = 0 then 0x4000000 else if fn = 1 then 0x10000 else 0x1000000

/-- A word of BAR0 outside the grant pages; reserved offsets read zero. -/
def State.bar0Word (s : State) (p fn off : Nat) : Nat :=
  let x := s.port p
  let (t, b, n) := msixAt fn
  if t ≤ off ∧ off < t + 16 * n then x.msixWord fn ((off - t) / 4)
  else if b ≤ off ∧ off < b + 4 * (ceilDiv n 64 * 2) then x.pbaWord fn ((off - b) / 4)
  else if fn = 0 ∧ off < 0x100000 then leField (s.ddt p) off 4
  else if fn = 1 ∧ off < 0x1000 then s.nvmReg p off
  else 0

/-- A read of n bytes of BAR0. -/
def State.bar0Read (s : State) (p fn off n : Nat) : State × List Byte :=
  if fn = 0 ∧ 0x200000 ≤ off ∧ off + n ≤ 0x1000000 then s.grantRead p (off - 0x200000) n
  else
    let ws := (List.range ((off + n + 3) / 4 - off / 4)).flatMap (fun k => leBytes 4 (s.bar0Word p fn (off / 4 * 4 + 4 * k)))
    (s, (ws.drop (off % 4)).take n)

/-- A write of one word of BAR0. -/
def State.bar0Write (s : State) (p fn off val : Nat) : State :=
  let (t, _, n) := msixAt fn
  if t ≤ off ∧ off < t + 16 * n then s.msixWrite p fn ((off - t) / 4) val
  else if fn = 0 then
    if 0x200000 ≤ off ∧ off < 0x1000000 then s.grantWrite p (off - 0x200000) val
    else if 0x1000000 ≤ off ∧ off < 0x1040000 then nextOf s (execWqDoorbell p (off - 0x1000000) val s)
    else s
  else if fn = 1 then
    if off < 0x1000 then s.nvmRegWrite p off val
    else if off < 0x3008 then
      (if off % 8 = 0 then nextOf s (execSqTailDoorbell p ((off - 0x1000) / 8) val s) else nextOf s (execCqHeadDoorbell p ((off - 0x1000) / 8) val s))
    else s
  else if off < 0x40000 then
    (if off % 0x1000 < 0x800 then nextOf s (execTmtSqDoorbell (some p) .atelier off val (.ok, []) s)
     else nextOf s (execTmtCqDoorbell (some p) .atelier off val s))
  else s

/-- GRANT_PAGE_ACCESS, R349, R350, and the rest of BAR0 with it (R348, R400, R466): a read or a write of `size` bytes at an offset of a
function's BAR0. A narrow or unaligned write is discarded and counted. -/
def execGrantPageAccess (port fn off size : Nat) (write : Option Nat) (s : State) : Host.Outcome State Fault Refusal :=
  if port > 7 ∨ !(s.port port).up ∨ size = 0 ∨ s.pw.devReset then .next s
  else
    let s := (s.wakeLink port).mbxWake (.port port)
    if fn > 2 ∨ (fn > 0 ∧ s.reduced) ∨ off + size > bar0Size fn ∨ !(s.port port).decodes fn then .next (s.barUr port write.isNone)
    else match write with
    | none => let r := s.bar0Read port fn off size; .next (r.1.emit (.data r.2 .ok))
    | some v =>
      if off % 4 ≠ 0 ∨ size % 4 ≠ 0 then .next ((s.fadd HIF_DISC_COUNT_NARROW (if size = 8 then 2 else 1) port).event HIF_ERR_STATUS_NARROW_WR port)
      else .next ((List.range (size / 4)).foldl (fun s k => s.bar0Write port fn (off + 4 * k) (v / 2 ^ (32 * k) % 2 ^ 32)) s)

end Machine
end Sys2Proof
end

