-- ==== Sys2Proof/Machine/BringUp.lean ====
section
/-!
DEFINITION. What firmware does at steps 11 to 15 of a cold boot (spec 03 R74) as one shared operation: lane repair (08 R205), hard
repair (R206), the layout (R192), spare clusters (04 R98), records read from flash, MBX_SEC (24 R572), device time (25 R601), the
network configuration (17 R425, R435, 26 R613).
-/
namespace Sys2Proof
namespace Machine

/-! ### Stacks, R192, R205 to R207 -/

/-- The pins repaired at a training: those of the flash repair list and those that fail training. -/
def State.repairedPins (s : State) (pins : List Nat) : List Nat := (s.stk.laneReq ++ pins.filter (fun p => decide (p < 640 * 64 ∧ p % 64 < 36))).eraseDups

/-- Does every pseudo-channel of stack m train, R205: at most two repaired pins, no two in one half (data pins 0 to 15 and 16 to 31,
check pins with the second half)? -/
def State.stackTrains (s : State) (pins : List Nat) (m : Nat) : Bool :=
  let l := (s.repairedPins pins).filter (fun p => p / 2048 == m)
  l.all (fun p => decide ((l.filter (fun q => q / 64 == p / 64)).length ≤ 2) &&
    decide ((l.filter (fun q => q / 64 == p / 64 && min 1 (q % 64 / 16) == min 1 (p % 64 / 16))).length ≤ 1))

/-- The boot values of the MEM regions: active stacks, the layout in force, pins repaired, regions retired; soft repairs have become
permanent. -/
def State.bringStacks (s : State) (pins : List Nat) : State :=
  let lanes := s.repairedPins pins
  let l := s.stk.layoutL
  let s := { s with stk := { s.stk with softRec := [] } }
  (List.range 20).foldl (fun s m =>
    let s := ((s.fset MEM_STATUS_STATE 1 m).fset MEM_LAYOUT_LOCAL_BANDS l m).fset MEM_LAYOUT_BUDDY_BANDS s.stk.layoutN m
    let s := s.rset MEM_BAND_MODE (2 ^ 32 - 2 ^ l) m
    (s.fset MEM_REPAIR_LANES (lanes.filter (fun p => p / 2048 == m)).length m).fset MEM_REPAIR_RETIRED (s.lifeCount (160 + m)) m) s

/-! ### Clusters, R98 -/

/-- The cluster map of palette p from the physical clusters that failed: logical clusters of failed ones, ascending, go to the
lowest good spare not yet used. -/
def State.bringClusters (s : State) (failed : List (Nat × Nat)) (p : Nat) : State :=
  let bad := (failed.filter (fun q => q.1 == p)).map (·.2)
  let spares := ([24, 25] : List Nat).filter (fun c => !bad.contains c)
  let s := s.rset PAL_CHEALTH (((List.range 26).filter (fun c => bad.contains c)).map (2 ^ ·)).sum p
  (((List.range 24).filter (fun c => bad.contains c)).zip spares).foldl (fun s q => s.setCmap p q.1 (0x80 + q.2)) s

/-! ### Networks, R425, R435, R613 -/

/-- Key of a rule word in the network configuration record in flash, above every register address. -/
def ruleKey (k : Nat) : Nat := 2 ^ 50 + k

/-- The register of network die `die` at a control address, in its PKT or SCH region. -/
def netReg (die : Nat) (a : Addr) : Option (Reg × List Nat) :=
  match ctlLoc a with
  | some ⟨.pkt, i, o⟩ => if i = die then regAt .pkt i o else none
  | some ⟨.sch, i, o⟩ => if i = die then regAt .sch i o else none
  | _ => none

/-- Firmware writes a recorded register value. -/
def State.netRestore (s : State) (a val : Nat) : State :=
  (List.range 2).foldl (fun s die => match netReg die a with
    | some (r, ix) => s.rset r val die (ixAt ix 0) (ixAt ix 1) (ixAt ix 2)
    | none => s) s

/-- Step 15: the recorded mode, profiles and rules, the ports' addresses, the engine, then the ports that exist; with the address
fuses unreadable the ports stay disabled (R612). -/
def State.bringNets (s : State) : State :=
  let s := (s.net.flash.filter (fun e => decide (e.1 < ruleKey 0))).foldl (fun s e => s.netRestore e.1 e.2) s
  let s := s.setNet { s.net with rules := (s.net.flash.filter (fun e => decide (ruleKey 0 ≤ e.1))).map (fun e => (e.1 - ruleKey 0, e.2)) }
  (List.range 16).foldl (fun s n =>
    let die := n / 8
    let j := n % 8
    let s := s.fset TMT_CTL_EN 1 die
    let mac := if s.dbg.loaded.macOk then s.dbg.loaded.macNow + n else 0
    let s := (s.rset PKT_PORT_MAC_LO (mac % 2 ^ 32) die j).rset PKT_PORT_MAC_HI (mac / 2 ^ 32 % 65536) die j
    s.fset PKT_PORT_CTL_EN (if s.dbg.loaded.macOk && s.portPresent die j then 1 else 0) die j) s

/-! ### The whole -/

/-- In RECOVERY every port's aperture pages 0 to 47 reach staging slice SD0, where an image is placed (R79). -/
def State.recoveryAperture (s : State) : State :=
  (List.range 8).foldl (fun s p => (List.range 48).foldl (fun (s : State) n =>
    { s with hl := { s.hl with apt := smSet s.hl.apt (p * 32768 + n) (2 ^ 63 + stagingAddr 0 (n * 0x200000)) } }) s) s

/-- Grant entry 0 of every port reaches the mailbox bank of the port (R349, R574). -/
def State.bankGrants (s : State) : State :=
  { s with hl := { s.hl with grant := (List.range 8).foldl (fun m p => smSet m (p * 224) (bankGrant p 0)) s.hl.grant } }

/-- Firmware sets MBX_SEC from flash, R572. -/
def State.secFromFlash (s : State) : State := s.rset MBX_SEC (s.atl.flashSec % 256 + 256 + (if s.dbgOpen then 512 else 0))

/-- Step 4 of R74: the ports' equalization is set from the host-link preset record in flash (R341). -/
def State.applyPresets (s : State) : State := { s with hl := { s.hl with presets := s.atl.presets } }

/-- Step 13 of R74: stack memory is written with zeros and check bits, staging SRAM is initialized. -/
def State.clearMemories (s : State) : State :=
  { s with mem := s.mem.filter (fun q => match space q.1 with | .sram _ _ => true | _ => false)
           ecc := s.ecc.filter (fun q => match space q.1 with | .staging _ _ => false | _ => true)
           stk := { s.stk with bursts := [], wb := [] } }

/-- The clusters that this boot found failed are spared and recorded in the flash spare map: item 192 + p of R605 (R98). -/
def State.countSpared (s : State) (failed : List (Nat × Nat)) : State :=
  (failed.filter (fun q => decide (q.2 < 24) && !s.atl.clusterMapFlash.contains q)).foldl (fun s q =>
    ({ s with atl := { s.atl with clusterMapFlash := s.atl.clusterMapFlash ++ [q] } } : State).evAdd (192 + q.1) 1) s

/-- Steps 10 to 15 of R74, with the clusters that failed and the pins that failed training. -/
def State.bringUp (s : State) (failed : List (Nat × Nat)) (pins : List Nat) : State :=
  let s := { s with fab := { s.fab with routed := true } }
  let s := ((List.range 10).foldl (fun s p => s.bringClusters failed p) (s.bringStacks pins)).clearMemories.countSpared failed
  let s := (List.range 240).foldl (fun s e => s.fset DMA_CHAN_OWNER_VALID 1 e 0) s
  let s := s.setPmu { s.pmu with ns := if s.pw.calValid then s.calendar * 1000000000 else 0, winBase := s.pw.onTicks * 10 }
  let s := s.secFromFlash.bankGrants
  let s := s.nvmBoot.writeLifeRecord
  (s.bringNets.fset GSO_LOCK_LOCK 1).releaseDoorbells.ddtRewrite

end Machine
end Sys2Proof
end

