-- ==== Sys2Proof/Machine/Reset.lean ====
section
/-!
DEFINITION. The device reset as one shared operation (spec 03 R70, R71, R73) and what survives it.
-/
namespace Sys2Proof
namespace Machine

/-- The atelier's own state after a device reset: flash stays; an update in WRITING, WRITTEN or VERIFIED leaves the
target slot with an erased header (R93); a deferred activation is discarded with the update state (R94). -/
def Atelier.afterReset (a : Atelier) (ustate running : Nat) : Atelier :=
  let a := if ustate = 1 || ustate = 2 || ustate = 3 then a.eraseHeader (a.targetSlot running) else a
  { a with chosen := none, updTotal := 0, updNext := 0, coreHalted := false, logSeq := 0, lifePend := [] }

/-- What the storage controllers keep through a device reset: the operation records in flash (R419, R420). -/
def Storage.afterReset (n : Storage) : Storage := { Storage.reset with ops := n.ops }

/-- What the stacks keep through a device reset: the layout record and the repair records of flash, and the permanent repairs (R192,
R205 to R207). -/
def Stacks.afterReset (k : Stacks) : Stacks :=
  { Stacks.reset with laneReq := k.laneReq, sparesUsed := k.sparesUsed, softRec := k.softRec, retired := k.retired,
                      layoutL := k.layoutL, layoutN := k.layoutN }

/-- Debug state after a device reset: the fuses, loaded again (R71, R612); the debug port and the injectors at reset (R616, R619). -/
def Debug.afterReset (d : Debug) : Debug := { Debug.reset with fuses := d.fuses, loaded := d.fuses }

/-- The gesso domain after a device reset, R70: it goes on; what it held of the other dies' power and clocks is over. -/
def Power.afterReset (p : Power) (cause : ResetCause) : Power :=
  { p with devReset := true, causes := if p.devReset then p.causes ++ [cause] else [cause], fwClk := [], clk := [], gated := [], waiting := [],
           fabricFault := false, bootFault := false, runTicks := 0, restartTicks := 0, wdtTimes := [] }

/-- Is a narrower reset absorbed by the one in force: gesso power-up resets more than a device reset, and a thermal trip's device reset is
followed by M3 (R73)? -/
def Power.absorbs (p : Power) (cause : ResetCause) : Bool :=
  p.devReset && (p.causes.contains .gessoPowerUp || p.causes.contains .thermalTrip) && !(cause == .gessoPowerUp)

/-- A device reset, R71: every block instance but GSO takes its reset values, memories are cleared, links go down;
flash, the event store, the RTC and the fuses stay. The reset is held until it is released. In M1 and M2 the module is in M0 again: its
domains are powered for the boot (R65). A narrower reset is absorbed, and one of the same scope that overlaps counts once (R73). -/
def State.doDeviceReset (s : State) (cause : ResetCause) : State :=
  if s.pw.absorbs cause then s
  else
  let u := s.fget ATL_UPD_STATUS_USTATE
  let slot := s.fget ATL_BOOT_STATUS_SLOT
  let s := (if s.pw.devReset then s else s.evAdd 2 1).resetRegs (fun l => l.blk != .gso)
  let m := s.fget GSO_MSTATE_STATE
  let s := if m = 1 ∨ m = 2 then s.fset GSO_MSTATE_STATE 0 else s
  { State.reset with
    pending := s.pending
    out := s.out
    free := s.free
    regs := s.regs
    latch := s.latch
    pw := s.pw.afterReset cause
    atl := s.atl.afterReset u slot
    dbg := s.dbg.afterReset
    stk := s.stk.afterReset
    nvm := s.nvm.afterReset
    net := { Net.reset with flash := s.net.flash } }

/-- The bit of ATL_RESET_CAUSE that a cause sets. -/
def causeFld : ResetCause → Option Fld
  | .gessoPowerUp => some ATL_RESET_CAUSE_GESSO_POR
  | .brownout => some ATL_RESET_CAUSE_BROWNOUT
  | .thermalTrip => some ATL_RESET_CAUSE_THERM_TRIP
  | .modReset => some ATL_RESET_CAUSE_MOD_RESET
  | .command => some ATL_RESET_CAUSE_CMD_RESET
  | .other => none

/-- The device reset in force is released, so a cold boot may begin, at t0 of R74; ATL_RESET_CAUSE takes the bit of every cause that held
it (R96). -/
def State.releaseReset (s : State) : State :=
  if s.pw.devReset then
    s.pw.causes.foldl (fun s c => match causeFld c with | some f => s.fset f 1 | none => s)
      (s.setPw { s.pw with devReset := false, sinceT0 := 0 })
  else s

/-- A device reset on command: asserted, and released when it is complete unless MOD_RESET_N is low (R70, R74). -/
def State.commandReset (s : State) : State :=
  let s := s.doDeviceReset .command
  if s.pw.modResetN then s.releaseReset else s

/-- DEVICE_RESET, R70, R71, R73: the reset is asserted, and released when nothing holds it: MOD_RESET_N high and the rails up with the
input in range (R52, R56, R74). -/
def execDeviceReset (s : State) : Host.Outcome State Fault Refusal :=
  let s := s.doDeviceReset .other
  .next (if s.pw.modResetN && !s.pw.powerUp && s.pw.swClosed && s.fget GSO_MSTATE_STATE != 3 && decide (s.fget GSO_PWR_STATUS_VIN_STATE < 2)
    then s.releaseReset else s)

/-- Does firmware run command cmd of class S, without argument words, on channel ch (320 and above: no channel), R573, R583? -/
def State.secureRuns (s : State) (ch cmd : Nat) : Bool :=
  s.holdsMsg ch cmd [] && s.fwRuns && (decide (ch ≥ 320) || decide (ch % 32 < 16))

/-- DEVICE_RESET_COMMAND, R583: completes on acceptance, so its acknowledgement comes before the reset that clears it. -/
def execDeviceResetCommand (ch : Nat) (s : State) : Host.Outcome State Fault Refusal :=
  let go := s.secureRuns ch 2
  let s := s.serve ch 2 [] 64 .secure false (fun _ s => okCmd s)
  .next (if go then s.commandReset else s)

end Machine
end Sys2Proof
end

