-- ==== Sys2Proof/Machine/Boot.lean ====
section
/-!
DEFINITION. Boot, recovery, atelier restart, watchdog and firmware update (spec 03 R70 to R96).
-/
namespace Sys2Proof
namespace Machine

/-! ### Log ring, R90 and R91 -/

/-- Is a trace point enabled? -/
def State.traceOn (s : State) (p : Nat) : Bool := p < 16 || bit (s.rget ATL_TRACE_EN 0 (p / 32)) (p % 32)

/-- The 32 bytes of a log record, R90: its TIME in ns since t0, SEQ and RESTARTS are the device's counts. -/
def State.logBytes (s : State) (r : LogRecord) : List Byte :=
  leBytes 8 (s.pw.sinceT0 * 10000) ++ leBytes 4 s.atl.logSeq ++ leBytes 1 r.point ++ leBytes 1 r.level ++ leBytes 1 r.slice ++
    leBytes 1 (s.fget ATL_RESTART_COUNT % 256) ++ leBytes 4 (r.args.getD 0 0) ++ leBytes 4 (r.args.getD 1 0) ++
    leBytes 4 (r.args.getD 2 0) ++ leBytes 4 (r.args.getD 3 0)

/-- Base of the log ring, R90 and ATL_LOG_BASE. -/
def logBase : Addr := 0x009FFFF00000

/-- Firmware writes a log record at an enabled trace point, overwriting the oldest when the ring wraps; a burst of the ring that was poisoned
is written whole (R202). -/
def State.log (s : State) (r : LogRecord) : State :=
  if s.traceOn r.point then
    let i := s.fget ATL_LOG_WR_INDEX
    let s := s.stackWrite (logBase + 32 * i) (s.logBytes r)
    let s := ({ s with atl := { s.atl with logSeq := s.atl.logSeq + 1 } } : State).count 0 0 2 64 1
    let s := s.fset ATL_LOG_WR_INDEX ((i + 1) % 32768)
    if i = 32767 then s.fadd ATL_LOG_WR_WRAPS 1 else s
  else s

/-! ### Images and slots -/

/-- The status of the checks of R81 on the image at `base` of a memory: BAD_SIGNATURE for header, length, hash, signature or anchor,
BAD_VERSION for the security version. -/
def State.checkImage (s : State) (m : SMap Byte) (base : Nat) : Status :=
  if !(headerOk m base && bodyOk m base && signatureOk m base && s.anchorOk (imageAnchor m base)) then .badSignature
  else if imageSecVer m base < s.secFloor then .badVersion
  else .ok

/-- Does a slot hold an image that passes? -/
def State.slotOk (s : State) (n : Nat) : Bool := s.checkImage s.atl.flash (slotAt n) == .ok

/-- STATE becomes RECOVERY with a failure code (R77). -/
def State.toRecovery (s : State) (st : Status) : State :=
  ((s.fset ATL_BOOT_STATUS_FAIL_CODE st.code).recoveryAperture.bankGrants).bootTo 7

/-- STATE becomes FAILED with a failure code; FAULT_N is low (R77); full channels are answered (R579). -/
def State.toFailed (s : State) (st : Status) : State :=
  let s := s.fset ATL_BOOT_STATUS_FAIL_CODE st.code
  (((s.setPw { s.pw with bootFault := true }).secFromFlash.bankGrants).bootTo 8).mbxRound

/-- Enters the image of a slot: version, slot and trial bits of the ATL block. -/
def State.enterImage (s : State) (slot : Nat) (trial : Bool) : State :=
  let s := { s with atl := { s.atl with runningSecVer := imageSecVer s.atl.flash (slotAt slot) } }
  ((s.rset ATL_FW_VERSION (imageVersion s.atl.flash (slotAt slot))).fset ATL_BOOT_STATUS_SLOT slot).fset ATL_BOOT_STATUS_TRIAL (if trial then 1 else 0)

/-- The boot ROM selects a slot, R83, and writes the boot record back where that changed it; a rollback counts in item 14. -/
def State.selectBoot (s : State) : State :=
  match s.atl.bootRecord with
  | none => { s with atl := { s.atl with chosen := none } }
  | some r =>
    let q := selectSlot r
    let s := if q.2 = r then s else { s with atl := s.atl.writeRecord q.2 }
    let s := if q.2.result = r.result then s else s.evAdd 14 1
    { s with atl := { s.atl with chosen := some (q.1, q.2.trialPending) } }

/-- The slot the ROM boots of those that pass, R77: the selected one, else the other; with no readable boot record A, then B. A trial that
does not pass is abandoned: its record ends as ROLLED_BACK (R83; DEDUCED, log entry 37). -/
def State.chooseImage (s : State) : Option (Nat × Bool) × State :=
  match s.atl.chosen with
  | none => if s.slotOk 0 then (some (0, false), s) else if s.slotOk 1 then (some (1, false), s) else (none, s)
  | some (n, trial) =>
    if s.slotOk n then (some (n, trial), s)
    else
      let s := match s.atl.bootRecord with
        | some r => if trial then ({ s with atl := s.atl.writeRecord { r with trialPending := false, result := Status.rolledBack.code } } : State).evAdd 14 1 else s
        | none => s
      if s.slotOk (1 - n) then (some (1 - n, false), s) else (none, s)

/-- The code of a boot that finds no image: with the boot record unreadable in both copies FLASH_ERROR (R77). -/
def State.noImage (s : State) : Status := if s.atl.bootRecord.isNone then .flashError else .noValidImage

/-- The result of the last update as the boot record has it (R82). -/
def State.lastResult (s : State) : Nat := match s.atl.bootRecord with | some r => r.result | none => 0

/-- STATE is RUNNING: heartbeat counting starts, the full channels are served, storage controllers become ready and held operations
go on (R86, R391, R420). -/
def State.serveAgain (s : State) : State := s.restartBeats.mbxRound.nvmRelease

/-- The rest of a boot once an image is entered: power, training and self-test of the other dies, then RUNNING (R74
steps 9 to 16), or FAILED (R77). -/
def State.bootRest (s : State) (env : BootEnv) : State :=
  let failed := env.failedClusters ++ s.atl.clusterMapFlash.filter (fun q => !env.failedClusters.contains q)
  if !env.fabricTrains then s.toFailed .fabricTrain
  else
    let s := s.bootTo 3
    let bad := (List.range 20).filter (fun m => env.untrained.contains m || !s.stackTrains env.pins m)
    if !bad.isEmpty then (bad.foldl (fun s m => s.fset MEM_STATUS_STATE 3 m) s).toFailed .stackTrain
    else
      let s := s.bootTo 4
      if (List.range 10).any (fun p => decide ((failed.filter (fun q => q.1 == p)).length > 2)) then s.toFailed .clusterSpares
      else ((env.logs.foldl State.log (s.bringUp failed env.pins)).bootTo 5).serveAgain

/-- COLD_BOOT, R74 to R77. -/
def execColdBoot (env : BootEnv) (s : State) : Host.Outcome State Fault Refusal :=
  if s.pw.devReset || s.bootState != 0 then .next s
  else
    let s := (s.loadFuses.applyPresets.bootTo 1).selectBoot
    match s.chooseImage with
    | (none, s) => .next (s.toRecovery s.noImage)
    | (some (n, trial), s) =>
      let s := ((s.enterImage n trial).fset ATL_UPD_STATUS_RESULT s.lastResult)
      .next (((if trial then s.updTo 6 else s).bootTo 2).bootRest env)

/-- Where the host puts an image in RECOVERY, R79: staging SRAM of SD0. -/
def recoveryBase : Addr := 0x020000000000

/-- The checks of R81 on the staged image; one that the staging SRAM cannot return whole fails them. -/
def State.checkStaged (s : State) : Status :=
  let n := imageLength s.mem recoveryBase
  if s.ecc.any (fun e => decide (recoveryBase ≤ e.1 ∧ e.1 < recoveryBase + n) && popcount e.2 == 2) then .badSignature
  else s.checkImage s.mem recoveryBase

/-- FW_RECOVER_LOAD, R79: served by the boot ROM on channel 0 of a bank in RECOVERY; a length `len`, word 1 of
the command, that is not the image's own fails its verification (DEDUCED, log entry 37). The start into the loaded image is not counted in
ATL_RESTART and brings up the whole device, for none of it but the host ports runs (DESIGN CHOICE, log entry 37). -/
def execFwRecoverLoad (ch len : Nat) (env : BootEnv) (s : State) : Host.Outcome State Fault Refusal :=
  if s.bootState != 7 || ch % 32 != 0 || !s.holdsMsg ch 9 [(1, len)] then .next s
  else
    match (if len ≠ imageLength s.mem recoveryBase then .badSignature else s.checkStaged) with
    | .ok =>
      let s := s.ack ch .ok 0 []
      let res := s.lastResult
      let a := { s.atl with flash := memBring s.mem s.atl.flash recoveryBase (slotAt 0) (imageLength s.mem recoveryBase) }
      let s := { s with atl := a.writeRecord { BootRecord.blank with confirmed := 0, result := res } }
      let s := s.fset ATL_BOOT_STATUS_FAIL_CODE 0
      .next ((((s.enterImage 0 false).fset ATL_UPD_STATUS_RESULT res).bootTo 2).bootRest env)
    | st => .next (s.ack ch st 0 [])

/-! ### Atelier restart and watchdog -/

/-- A restart is triggered, R86 to R88: STATE is RESTARTING, the count and cause are recorded, migrations not yet at
their flip are abandoned, and the boot ROM selects the slot it will enter (R83). -/
def State.triggerRestart (s : State) (cause : Nat) : State :=
  let s := (s.bootTo 6).fset ATL_RESTART_LAST_CAUSE cause
  ((((s.fadd ATL_RESTART_COUNT 1).evAdd 11 1).dropCopies (fun _ => true)).nvmHold).selectBoot

/-- The newest n records of the log ring, oldest first. -/
def State.newestLogs (s : State) (n : Nat) : List (List Byte) :=
  (List.range (min n s.atl.logSeq)).reverse.map fun k =>
    s.memGet (logBase + 32 * ((s.fget ATL_LOG_WR_INDEX + 32767 - k) % 32768)) 32

/-- What a restart makes of the update, R92: a trial that runs is in TRIAL; an activation or a trial that does not run is rolled back; any
other state keeps its registers (R85). -/
def State.updAfterRestart (s : State) (trial : Bool) : State :=
  let u := s.fget ATL_UPD_STATUS_USTATE
  if trial then s.updTo 6
  else if u = 5 ∨ u = 6 then (s.fset ATL_UPD_STATUS_RESULT Status.rolledBack.code).updTo 0
  else s

/-- The restart reaches RUNNING, R87: the slot is verified, every block keeps its registers. -/
def State.finishRestart (s : State) (logs : List LogRecord) : State :=
  let s := logs.foldl State.log s
  let s := ((s.stk.bursts.map (·.1)).filter firmwareBurst).foldl (fun s k => s.setBurst k { bad := 0, poison := false, noRefetch := false }) s
  let s := if s.fget ATL_RESTART_LAST_CAUSE = 1 then { s with atl := { s.atl with crashLog := s.newestLogs 2048 } } else s
  match s.chooseImage with
  | (none, s) => s.toRecovery s.noImage
  | (some (n, trial), s) =>
    let s := { s with atl := { s.atl with coreHalted := false } }
    (((s.enterImage n trial).updAfterRestart trial).bootTo 5).serveAgain

/-- ATELIER_RESTART, R85 to R87: a restart not yet triggered is triggered with its cause, then runs to its end. -/
def execAtelierRestart (cause : Nat) (logs : List LogRecord) (s : State) : Host.Outcome State Fault Refusal :=
  if s.bootState = 6 then .next (s.finishRestart logs)
  else if s.bootState = 5 then .next ((s.triggerRestart cause).finishRestart logs)
  else .next s

/-- FW_RESTART, R85, R583: completes on acceptance, then the restart is triggered. -/
def execFwRestart (ch : Nat) (s : State) : Host.Outcome State Fault Refusal :=
  let go := s.secureRuns ch 3
  let s := s.serve ch 3 [] 64 .secure false (fun _ s => okCmd s)
  .next (if go then s.triggerRestart 2 else s)

/-- A watchdog expiry, R88: the third within 60 s halts the core. -/
def State.watchdog (s : State) : State :=
  let s := (s.setPw { s.pw with wdtTimes := s.pw.sinceT0 :: s.pw.wdtTimes }).evAdd 12 1
  if s.wdtRecent ≥ 3 then ((s.fset ATL_BOOT_STATUS_FAIL_CODE Status.fwWatchdog.code).nvmHold).bootTo 9
  else s.triggerRestart 1

/-- WATCHDOG_EXPIRY, R88: paused while the debug port holds the core (R618). The log records that firmware wrote before it come with it
(R90, log entry 37). -/
def execWatchdogExpiry (logs : List LogRecord) (s : State) : Host.Outcome State Fault Refusal :=
  if s.bootState = 5 && !s.atl.coreHalted then .next (logs.foldl State.log s).watchdog else .next s

/-- RESTART_DEADLINE_EXPIRY, R88: a restart not RUNNING within 2 s, which is 200,000 samples, counts as an expiry. The log
records that firmware wrote before it come with it (R90, log entry 37). -/
def execRestartDeadlineExpiry (logs : List LogRecord) (s : State) : Host.Outcome State Fault Refusal :=
  if s.bootState = 6 && decide (s.pw.restartTicks ≥ 200000) then .next (logs.foldl State.log s).watchdog else .next s

/-- TRIAL_CONFIRM, R83 and R92: STATE has held RUNNING for 10 s, which is 1,000,000 samples. -/
def execTrialConfirm (s : State) : Host.Outcome State Fault Refusal :=
  if s.running && s.fon ATL_BOOT_STATUS_TRIAL && decide (s.pw.runTicks ≥ 1000000) then
    let slot := s.fget ATL_BOOT_STATUS_SLOT
    let s := { s with atl := s.atl.writeRecord { BootRecord.blank with confirmed := slot, result := Status.confirmed.code } }
    let s := (s.fset ATL_BOOT_STATUS_TRIAL 0).fset ATL_UPD_STATUS_RESULT Status.confirmed.code
    .next ((s.updTo 0).evAdd 13 1).writeLifeRecord
  else .next s

/-! ### Firmware update -/

/-- An update ends in IDLE with an outcome, which the boot record keeps (R82). -/
def State.updFail (s : State) (st : Status) : State :=
  let s := match s.atl.bootRecord with
    | some r => { s with atl := s.atl.writeRecord { r with result := st.code } }
    | none => s
  (s.fset ATL_UPD_STATUS_RESULT st.code).updTo 0

/-- The slot that an update writes (R92). -/
def State.targetSlot (s : State) : Nat := s.atl.targetSlot (s.fget ATL_BOOT_STATUS_SLOT)

/-- Sets POS and PCT of ATL_UPD_PROGRESS, R93. -/
def State.updProgress (s : State) (pos : Nat) : State :=
  let total := s.atl.updTotal
  (s.fset ATL_UPD_PROGRESS_POS pos).fset ATL_UPD_PROGRESS_PCT (if total = 0 then 0 else pos * 10000 / total)

/-- FW_UPDATE_BEGIN, R92: the erase of the target slot counts in items 15 and 16. -/
def execFwUpdateBegin (ch len : Nat) (flashOk : Bool) (s : State) : Host.Outcome State Fault Refusal :=
  .next (s.serve ch 4 [(1, len)] 0 .secure false fun _ s =>
    if s.fget ATL_UPD_STATUS_USTATE != 0 then refuseCmd s .busy
    else if len < 4096 || len > 0x3000000 then { state := s.updFail .badLength, status := .badLength, arg := 1 }
    else if !flashOk then { state := s.updFail .flashError, status := .flashError }
    else
      let t := s.targetSlot
      let s := ({ s with atl := { s.atl.eraseHeader t with updTotal := ceilDiv len 4096, updNext := 0 } } : State).evAdd (15 + t) 1
      okCmd ((s.updTo 1).updProgress 0))

/-- FW_UPDATE_WRITE, R92 and R93: pages in ascending order, read from the host's buffer and programmed. -/
def execFwUpdateWrite (ch first count : Nat) (flashOk : Bool) (s : State) (got : HostData := (.ok, [])) : Host.Outcome State Fault Refusal :=
  .next (s.serve ch 5 [(3, first), (4, count)] 0 .secure true fun _ s =>
    if s.fget ATL_UPD_STATUS_USTATE != 1 then refuseCmd s .busy
    else if count < 1 || count > 256 then refuseCmd s .badDescriptor 4
    else if first != s.atl.updNext || first + count > s.atl.updTotal then { state := s.updFail .badLength, status := .badLength, arg := 3 }
    else if got.1 ≠ .ok then refuseCmd s got.1
    else if !flashOk then { state := s.updFail .flashError, status := .flashError }
    else
      let pos := first + count
      let fl := memWriteN s.atl.flash (slotAt s.targetSlot + 4096 * first) (got.2.take (4096 * count))
      let s := { s with atl := { s.atl with flash := fl, updNext := pos } }
      let s := s.updProgress pos
      let s := if pos = s.atl.updTotal then s.updTo 2 else s
      okCmd s [pos])

/-- FW_UPDATE_VERIFY, R92: the written image is checked under R81. The log records that firmware writes of
it are its choice (R90, log entry 37). -/
def execFwUpdateVerify (ch : Nat) (logs : List LogRecord) (s : State) : Host.Outcome State Fault Refusal :=
  .next (s.serve ch 6 [] 0 .secure false fun _ s =>
    if s.fget ATL_UPD_STATUS_USTATE != 2 then refuseCmd s .busy
    else
      let s := logs.foldl State.log s
      match s.checkImage s.atl.flash (slotAt s.targetSlot) with
      | .ok => okCmd (s.updTo 3) [3]
      | st => { state := s.updFail st, status := st, words := [0] })

/-- The activation proper, R94 and R95: the target slot becomes the trial slot and a restart is triggered. -/
def State.activate (s : State) : State :=
  let r := match s.atl.bootRecord with | some r => r | none => { BootRecord.blank with confirmed := s.fget ATL_BOOT_STATUS_SLOT }
  let s := { s with atl := s.atl.writeRecord { r with trialPending := true, trialUsed := false, trialSlot := s.targetSlot } }
  (if s.fget ATL_UPD_STATUS_USTATE = 5 then s else s.updTo 5).triggerRestart 3

/-- FW_ACTIVATE, R94: completes on acceptance; deferred during an emergency. -/
def execFwActivate (ch : Nat) (s : State) : Host.Outcome State Fault Refusal :=
  let verified := s.fget ATL_UPD_STATUS_USTATE == 3
  let s' := s.serve ch 7 [] 0 .secure false fun _ s =>
    if !verified then refuseCmd s .busy
    else if s.emergency then okCmd (s.updTo 4) [4]
    else okCmd (s.updTo 5) [5]
  .next (if verified && s'.fget ATL_UPD_STATUS_USTATE = 5 then s'.activate else s')

/-- FW_ACTIVATE_CANCEL, R92. -/
def execFwActivateCancel (ch : Nat) (s : State) : Host.Outcome State Fault Refusal :=
  .next (s.serve ch 8 [] 0 .secure false fun _ s =>
    if s.fget ATL_UPD_STATUS_USTATE != 4 then refuseCmd s .busy
    else okCmd (s.updTo 3) [3])

/-- DEFERRED_ACTIVATION_START, R94: no emergency for 10 ms, which is 1,000 input samples. -/
def execDeferredActivationStart (s : State) : Host.Outcome State Fault Refusal :=
  if s.running && s.fget ATL_UPD_STATUS_USTATE == 4 && !s.emergency && decide (s.pw.calm ≥ 1000) then .next s.activate
  else .next s

end Machine
end Sys2Proof
end

