-- ==== Sys2Proof/Machine/Operands.lean ====
section
/-!
DEFINITION. The operand forms of loads and stores (spec 05 R139 to R142): effective address, write-back, and the order
of the checks an access makes.
-/
namespace Sys2Proof
namespace Machine

/-- Is the M-format operand one R139 allows: a mode of 0 to 4, and in mode 4 a scale of 0 to 6? -/
def argOk (m : MemArg) : Bool :=
  decide (m.mode ≤ 4) && gOk m.rb && (m.mode != 4 || (gOk m.ri && decide (m.scale ≤ 6)))

/-- Does the mode write rb back? -/
def argWritesBack (m : MemArg) : Bool := m.mode == 1 || m.mode == 2 || m.mode == 3

/-- The effective address of R139, modulo 2^64. -/
def argEa (m : MemArg) (br : Bristle) (size : Nat) : Word64 :=
  match m.mode with
  | 0 => br.g m.rb + BitVec.ofInt 64 m.disp
  | 3 => br.g m.rb - BitVec.ofNat 64 size
  | 4 => br.g m.rb + (br.g m.ri <<< m.scale)
  | _ => br.g m.rb

/-- The base register after the access, R139 and R140: discarded for g0. -/
def argWriteBack (m : MemArg) (br : Bristle) (size : Nat) : Bristle :=
  match m.mode with
  | 1 => br.setG m.rb (br.g m.rb + BitVec.ofNat 64 size)
  | 2 => br.setG m.rb (br.g m.rb + BitVec.ofInt 64 m.disp)
  | 3 => br.setG m.rb (br.g m.rb - BitVec.ofNat 64 size)
  | _ => br

/-- The registers an operand reads: the base, and the index in mode 4. -/
def argSrcs (m : MemArg) : List Nat := if m.mode = 4 then [m.rb, m.ri] else [m.rb]

/-- Does [a, a + n) lie in bristle b's own SRAM? -/
def ownSram (b a n : Nat) : Bool := decide (sramAddr b 0 ≤ a ∧ a + n ≤ sramAddr b 0 + 0x40000)

/-- Does [a, a + n) meet the swatch area of a bristle (R112)? -/
def State.inSwatch (s : State) (a n : Nat) : Bool :=
  [a, a + n - 1].any (fun x => (sramOwner x).any (fun b =>
    decide (max a (sramAddr b 0 + s.fget BRS_SWATCH_BASE b * 0x1000) < min (a + n) (sramAddr b 0 + 0x40000))))

/-- The checks of R141 in order, and the first cause met: alignment, the 48-bit map, the map and grant, the swatch areas
for stores (R112). -/
def State.accessCause (s : State) (b : Nat) (ea : Nat) (size : Nat) (vec store : Bool) : Option Nat :=
  if ea % (if vec then 8 else size) ≠ 0 then some 2
  else if ea ≥ 2 ^ 48 then some 3
  else match s.accessErr (s.fget BRS_CTL_SLICE b) ea size store with
    | some .unmapped => some 3
    | some .denied => some 4
    | none => if store && s.inSwatch ea size then some 4 else none

/-- The bytes of a load once the stores still in the buffer, oldest first, are laid over those from memory (R144). -/
def overlay (a : Nat) (sb : List StoreEntry) (bs : List Byte) : List Byte :=
  sb.foldl (fun bs e => match e with
    | .store sa sbs _ => bs.mapIdx (fun i x => if sa ≤ a + i ∧ a + i < sa + sbs.length then sbs.getD (a + i - sa) x else x)
    | _ => bs) bs

/-- A load from the bristle's own SRAM in pipeline cycle t: words that a buffered store has replaced are not read (R111, R144). -/
def State.sramLoad (s : State) (b a n t : Nat) (sb : List StoreEntry) : State × Option (List Byte) :=
  let r := (eccWords a n).foldl (fun r w =>
    if replaced sb t 0 w then r
    else
      let q := r.1.sramRead b w 8
      (q.1, r.2 && q.2.isSome)) (s, true)
  (r.1, if r.2 then some (overlay a sb (r.1.memGet a n)) else none)

end Machine
end Sys2Proof
end

