-- ==== Sys2Proof/Machine/LoadStore.lean ====
section
/-!
DEFINITION. Loads and stores (spec 05 R139 to R145, 04 R108 to R112). A load from the bristle's own SRAM completes in its
issue cycle; any other load leaves an outstanding record that LOAD_DATA_RETURN ends. Every store takes an entry of the
store buffer, which STORE_BUFFER_DRAIN empties in program order.
-/
namespace Sys2Proof
namespace Machine

/-- What a load writes: a general register with its extension, or a vector register. -/
inductive LoadKind where
  | scalar (size : Nat) (sign : Bool)
  | vector
deriving DecidableEq, Repr

/-- Bytes a load moves. -/
def LoadKind.size : LoadKind → Nat
  | .scalar n _ => n
  | .vector => 64

/-- Is it a vector load? -/
def LoadKind.isVec : LoadKind → Bool
  | .scalar _ _ => false
  | .vector => true

/-- The register key a load writes: rt, or 32 + rt for a vector register. -/
def LoadKind.key (k : LoadKind) (rt : Nat) : Nat := if k.isVec then 32 + rt else rt

/-- The register value of loaded bytes, sign- or zero-extended (R143). -/
def extend (size : Nat) (sign : Bool) (bs : List Byte) : Word64 :=
  if sign then BitVec.ofInt 64 (toSigned (8 * size) (leVal bs)) else BitVec.ofNat 64 (leVal bs)

/-- Puts loaded bytes into the register with a key. -/
def Bristle.putKey (br : Bristle) (key : Nat) (sign : Bool) (bs : List Byte) : Bristle :=
  if key < 32 then br.setG key (extend bs.length sign bs) else br.setV (key - 32) (BitVec.ofNat 512 (leVal bs))

/-- The outstanding record of a load at ea from outside the bristle's own SRAM: what it waits for in the store buffer (R25, R145), whether a
link that is down cuts its way (R44). A load into g0 writes nothing (R140). -/
def State.outLoad (s : State) (k : LoadKind) (b rt ea : Nat) : OutLoad :=
  let key := k.key rt
  let ends := [s.placeOf ea, s.placeOf (ea + k.size - 1)]
  { dest := if key = 0 then none else some key, addr := ea, size := k.size,
    sign := (match k with | .scalar _ sg => sg | .vector => false), bytes := [], served := false,
    behind := (ends.map (fun d => s.behindOf d (s.br b).sbuf)).foldl max 0, lost := ends.any (fun d => s.cut (b / 384) d) }

/-- A load, R139 to R143: illegal forms of R140; the checks of R141; local data in the issue cycle, usable three pipeline
cycles later (R102); other data when it returns (R103), none of it
from a die that has stopped issuing (R27). -/
def loadI (k : LoadKind) (w : Issue) (rt : Nat) (m : MemArg) (s : State) : State :=
  let n := k.size
  let legal := argOk m && (if k.isVec then vOk rt else gOk rt) && !(argWritesBack m && !k.isVec && rt == m.rb)
  s.issue w legal (argSrcs m) false (fun _ s =>
    let br := s.br w.b
    let ea := (argEa m br n).toNat
    match s.accessCause w.b ea n k.isVec false with
    | some c => (s, .trap c (ea % 2 ^ 48))
    | none =>
      let bub := if k.isVec && ea % 64 != 0 && ownSram w.b ea n then 1 else 0
      if ownSram w.b ea n then
        let r := s.sramLoad w.b ea n br.pcyc br.sbuf
        match r.2 with
        | none => (r.1, .trap 5 ea)
        | some bs =>
          let br := argWriteBack m br n
          let br := br.putKey (k.key rt) (match k with | .scalar _ sg => sg | .vector => false) bs
          let br := if k.key rt = 0 then br else { br with ready := smSet br.ready (k.key rt) (br.pcyc + 3) }
          (r.1.setBr w.b br, .fall bub)
      else if s.dieStopped (w.b / 384) then (s, .hold)
      else
        let l := s.outLoad k w.b rt ea
        let br' := (argWriteBack m br n).overtake (k.key rt)
        let s := s.setBr w.b { br' with loads := br'.loads ++ [l] }
        (if l.lost then s.emit (.report (s.fget BRS_CTL_SLICE w.b) .fabricLinkDown) else s, .fall 0))

/-- A store of bytes read from the bristle in the issue cycle: it holds while all eight entries are full (R144). -/
def storeI (n : Nat) (vec : Bool) (key : List Nat) (ok : Bool) (data : Bristle → List Byte) (w : Issue) (m : MemArg) (s : State) : State :=
  s.issue w (argOk m && ok) ((argSrcs m) ++ key) false (fun _ s =>
    let br := s.br w.b
    let ea := (argEa m br n).toNat
    match s.accessCause w.b ea n vec true with
    | some c => (s, .trap c (ea % 2 ^ 48))
    | none =>
      if br.sbuf.length ≥ 8 then (s, .hold)
      else
        let bub := if vec && ea % 64 != 0 && ownSram w.b ea n then 1 else 0
        let br' := argWriteBack m br n
        (s.setBr w.b { br' with sbuf := br'.sbuf ++ [.store ea (data br) br.pcyc] }, .fall bub))

/-- A scalar store of the low n bytes of rt. -/
def storeS (n : Nat) (w : Issue) (rt : Nat) (m : MemArg) (s : State) : State :=
  storeI n false [rt] (gOk rt) (fun br => leBytes n (br.g rt).toNat) w m s

/-- LB, R143. -/
def execLb (w : Issue) (rt : Nat) (m : MemArg) (s : State) : Host.Outcome State Fault Refusal := .next (loadI (.scalar 1 true) w rt m s)
/-- LBU, R143. -/
def execLbu (w : Issue) (rt : Nat) (m : MemArg) (s : State) : Host.Outcome State Fault Refusal := .next (loadI (.scalar 1 false) w rt m s)
/-- LH, R143. -/
def execLh (w : Issue) (rt : Nat) (m : MemArg) (s : State) : Host.Outcome State Fault Refusal := .next (loadI (.scalar 2 true) w rt m s)
/-- LHU, R143. -/
def execLhu (w : Issue) (rt : Nat) (m : MemArg) (s : State) : Host.Outcome State Fault Refusal := .next (loadI (.scalar 2 false) w rt m s)
/-- LW, R143. -/
def execLw (w : Issue) (rt : Nat) (m : MemArg) (s : State) : Host.Outcome State Fault Refusal := .next (loadI (.scalar 4 true) w rt m s)
/-- LWU, R143. -/
def execLwu (w : Issue) (rt : Nat) (m : MemArg) (s : State) : Host.Outcome State Fault Refusal := .next (loadI (.scalar 4 false) w rt m s)
/-- LD, R143. -/
def execLd (w : Issue) (rt : Nat) (m : MemArg) (s : State) : Host.Outcome State Fault Refusal := .next (loadI (.scalar 8 false) w rt m s)
/-- VLD, R143. -/
def execVld (w : Issue) (rt : Nat) (m : MemArg) (s : State) : Host.Outcome State Fault Refusal := .next (loadI .vector w rt m s)
/-- SB, R143. -/
def execSb (w : Issue) (rt : Nat) (m : MemArg) (s : State) : Host.Outcome State Fault Refusal := .next (storeS 1 w rt m s)
/-- SH, R143. -/
def execSh (w : Issue) (rt : Nat) (m : MemArg) (s : State) : Host.Outcome State Fault Refusal := .next (storeS 2 w rt m s)
/-- SW, R143. -/
def execSw (w : Issue) (rt : Nat) (m : MemArg) (s : State) : Host.Outcome State Fault Refusal := .next (storeS 4 w rt m s)
/-- SD, R143. -/
def execSd (w : Issue) (rt : Nat) (m : MemArg) (s : State) : Host.Outcome State Fault Refusal := .next (storeS 8 w rt m s)
/-- VST, R143. -/
def execVst (w : Issue) (rt : Nat) (m : MemArg) (s : State) : Host.Outcome State Fault Refusal :=
  .next (storeI 64 true [32 + rt] (vOk rt) (fun br => leBytes 64 (br.v rt).toNat) w m s)
/-- VSTA, R143: the visible lanes of the accumulator in the issue cycle. -/
def execVsta (w : Issue) (rt : Nat) (m : MemArg) (s : State) : Host.Outcome State Fault Refusal :=
  .next (storeI 64 true [] (aOk rt) (fun br => leBytes 64 (br.a rt).toNat) w m s)

end Machine
end Sys2Proof
end

