-- ==== Sys2Proof/Machine/Bus.lean ====
section
/-!
DEFINITION. Accesses that reach memory and control space alike: returned loads and drained stores of bristles (spec 04 R103, R122, 05
R142 to R145), their credits (12 R318), the bytes of DMA transfers (13 R328 to R332), debug accesses (26 R617).
-/
namespace Sys2Proof
namespace Machine

/-! ### Bristles -/

/-- The requests of an access over the fabric: an unaligned vector access is two, one a 64-byte line, in ascending order (R142). -/
def fabricParts (a n : Nat) : List (Nat × Nat) :=
  if n = 64 ∧ a % 64 ≠ 0 then [(a, 64 - a % 64), (a + 64 - a % 64, a % 64)] else [(a, n)]

/-- A read of memory by its requests: none where one of them is poisoned. -/
def State.readParts (s : State) (a n : Nat) : State × Option (List Byte) :=
  (fabricParts a n).foldl (fun r p =>
    let q := r.1.busRead p.1 p.2
    (q.state, match r.2, q.bytes with | some x, some y => some (x ++ y) | _, _ => none)) (s, some [])

/-- The place that holds an outstanding load reads for it: memory, or control space with the grant of the bristle's slice. Poisoned data is
no bytes. -/
def State.serveLoad (s : State) (b : Nat) (l : OutLoad) : State × OutLoad :=
  if l.served ∨ l.lost ∨ l.behind ≠ 0 then (s, l)
  else if space l.addr = .control then
    let r := s.ctlRead (.slice (s.fget BRS_CTL_SLICE b)) l.addr l.size
    (r.1, { l with bytes := leBytes l.size r.2.1, served := true })
  else
    let r := s.readParts l.addr l.size
    (r.1, { l with bytes := r.2.getD [], served := true })

/-- Replaces a bristle's outstanding load i. -/
def State.setLoad (s : State) (b i : Nat) (l : OutLoad) : State :=
  s.setBr b { s.br b with loads := (s.br b).loads.set i l }

/-- Every load that no entry of the store buffer precedes is read before the next entry leaves, whose request follows theirs (R25, R145). -/
def State.serveAhead (s : State) (b : Nat) : State :=
  (s.br b).loads.zipIdx.foldl (fun s q =>
    let r := s.serveLoad b q.1
    r.1.setLoad b q.2 r.2) s

/-- The oldest entry leaves a bristle's store buffer. -/
def Bristle.popEntry (br : Bristle) : Bristle :=
  { br with sbuf := br.sbuf.drop 1, loads := br.loads.map (fun l => { l with behind := l.behind - 1 }) }

/-- The oldest entry leaves bristle b's store buffer, behind the loads issued before it. -/
def State.popStore (s : State) (b : Nat) : State :=
  let s := s.serveAhead b
  s.setBr b (s.br b).popEntry

/-- LOAD_DATA_RETURN, R103, R122: the data of the bristle's outstanding load i, in issue order among those to one die (R25), once the stores
before it have left. A load that a link took with it never returns (R44). Poisoned data leaves the register and traps at the next
instruction boundary. -/
def execLoadDataReturn (b i : Nat) (s : State) : Host.Outcome State Fault Refusal :=
  match (s.br b).loads[i]? with
  | none => .next s
  | some l =>
    if s.pw.devReset ∨ l.lost ∨ (l.behind ≠ 0 ∧ !l.served) ∨ ((s.br b).loads.take i).any (fun e => !e.lost && s.placeOf e.addr == s.placeOf l.addr) then .next s
    else
      let r := s.serveLoad b l
      let br := { r.1.br b with loads := (r.1.br b).loads.eraseIdx i }
      if r.2.bytes.isEmpty then
        .next (r.1.setBr b { br with trapReq := match br.trapReq with | some t => some t | none => some (5, l.addr) })
      else match l.dest with
        | some k => .next (r.1.setBr b (br.putKey k l.sign r.2.bytes))
        | none => .next (r.1.setBr b br)

/-- A store of the bristle's own SRAM drains. Words it makes good within three pipeline cycles of its issue stay bad to the fetch until
then (R105). -/
def State.drainOwn (s : State) (b a : Nat) (bs : List Byte) (cyc : Nat) : State :=
  let br := s.br b
  let mended := if br.pcyc < cyc + 3 then
      (eccWords a bs.length).filter (fun w => decide (a ≤ w ∧ w + 8 ≤ a + bs.length) && s.badBits w == 2) else []
  let kept := smDelIf br.oldBad (fun w => decide (smGetD br.oldBad w 0 ≤ br.pcyc))
  (s.setBr b { br with oldBad := mended.foldl (fun m w => smSet m w (cyc + 3)) kept }).sramWrite b a bs

/-- STORE_BUFFER_DRAIN, R144: the oldest entry goes to its destination: the bristle's own SRAM, other memory (two requests for an unaligned
vector, R142), control space, or as a SIGNAL on its way to its home. Nothing leaves a die that has stopped issuing (R27), a memory store
does not pass register writes that wait for its die (R29), what a cut link would carry is lost (R44). A SIGNAL waits until
everything before it to its home's die is placed (R25, R305), to a virtual flag everything (R306); a GSEND at the head waits for its credit (R318). -/
def execStoreBufferDrain (b : Nat) (s : State) : Host.Outcome State Fault Refusal :=
  let e := (s.br b).sbuf.head?
  let die := (e.map s.entryDie).getD 20
  let lose := fun (s : State) => (s.popStore b).emit (.report (s.fget BRS_CTL_SLICE b) .fabricLinkDown)
  if s.pw.devReset then .next s
  else match e with
  | some (.store a bs cyc) =>
    if ownSram b a bs.length then .next ((s.popStore b).drainOwn b a bs cyc)
    else if s.dieStopped (b / 384) then .next s
    else if s.cut (b / 384) die then .next (lose s)
    else if space a = .control then .next ((s.popStore b).ctlWrite (.slice (s.fget BRS_CTL_SLICE b)) a bs.length (leVal bs))
    else if s.writesWait die then .next s
    else .next ((fabricParts a bs.length).foldl (fun s p => s.busWrite p.1 ((bs.drop (p.1 - a)).take p.2)) (s.popStore b))
  | some (.signal f n) =>
    if s.dieStopped (b / 384) then .next s
    else if s.syn.granted.any (fun c => c.bid == b && (flagVirt f || targetDie c.target == die)) || (flagVirt f && !s.pw.waiting.isEmpty) then .next s
    else if s.cut (b / 384) die then .next (lose s)
    else
      let s := s.popStore b
      .next (s.setSyn { s.syn with flight := s.syn.flight ++ [.signal b (s.brSlice b) f n] })
  | _ => .next s

/-- CREDIT_GRANT, R318: the port grants one of its 64 buffers to the source whose turn it is; its GSEND leaves the store
buffer, unless its die has stopped issuing (R27); one that a cut link would carry is lost (R44). -/
def execCreditGrant (bid : Nat) (s : State) : Host.Outcome State Fault Refusal :=
  match (s.br bid).sbuf.head? with
  | some (.gsend t k d) =>
    let port := tgtPort t
    if s.pw.devReset ∨ s.dieStopped (bid / 384) ∨ s.portUsed port ≥ 64 ∨ s.nextAt port ≠ some bid then .next s
    else
      let c : Contribution := { bid := bid, slice := s.brSlice bid, target := t, key := k, data := d }
      let s := s.popStore bid
      let s := s.setSyn { s.syn with lastGrant := smSet s.syn.lastGrant port bid }
      .next (if s.cut (bid / 384) (targetDie t) then s.emit (.report (s.brSlice bid) .fabricLinkDown)
             else s.setSyn { s.syn with granted := s.syn.granted ++ [c] })
  | _ => .next s

/-! ### DMA -/

/-- The requester a channel's control accesses count as. -/
def State.dmaWho (s : State) (e k : Nat) : Requester := if dmaCore e k then .atelier else .slice (s.dsl e k)

/-- One destination access of a COPY or FILL: the status it ends with. -/
def State.dmaPut (s : State) (e k a : Nat) (bs : List Byte) : Status × State :=
  let d := s.chan e k
  let r : Status × State :=
    if bit (leField d.desc 3 1) 1 then s.hostPut (s.dport e k) 0 (s.dsl e k) d.gen a (bit (leField d.desc 1 1) 0) bs
    else match s.dmaErr e k a bs.length true with
    | some st => (st, s)
    | none =>
      if space a = .control then (.ok, s.ctlWrite (s.dmaWho e k) a bs.length (leVal bs)) else (.ok, s.busWrite a bs)
  if r.1 = .ok then
    (.ok, if e < 240 then r.2.count (1 + e / 24) (e % 24) 0x40 (s.dsl e k) bs.length
          else r.2.count (17 + (e - 240)) 0 0x10 (s.dsl e k) bs.length)
  else r

/-- One source access of a COPY at offset `rd`: none while host data has not returned; else its status and bytes. -/
def State.dmaGet (s : State) (e k : Nat) : State × Option (Status × List Byte) :=
  let d := s.chan e k
  let n := 2 ^ (leField d.desc 2 1 % 16)
  let a := leField d.desc 8 8 + d.rd
  match smGet d.ret d.rd with
  | some r => (s.setChan e k { d with ret := smDel d.ret d.rd }, some r)
  | none =>
    if bit (leField d.desc 3 1) 0 then
      match s.hostWay (s.dsl e k) (s.dport e k) a n false with
      | .inside ps => let r := s.getPieces ps; (r.1, some (match r.2 with | some b => (.ok, b) | none => (.poisoned, [])))
      | .bad st => (s, some (st, []))
      | .host _ => (s, none)
    else match s.dmaErr e k a n false with
    | some st => (s, some (st, []))
    | none =>
      if space a = .control then
        let r := s.ctlRead (s.dmaWho e k) a n
        (r.1, some (r.2.2, leBytes n r.2.1))
      else
        let r := s.busRead a n
        (r.state, some (match r.bytes with | some b => (.ok, b) | none => (.poisoned, [])))

/-- Writes destination widths from the holding register while the loop of R328 makes no further read; in a pause, every whole one. -/
def State.dmaFlush (s : State) (e k : Nat) : Nat → State
  | 0 => s
  | n + 1 =>
    let d := s.chan e k
    let len := leField d.desc 4 4
    let sw := 2 ^ (leField d.desc 2 1 % 16)
    let dw := 2 ^ (leField d.desc 2 1 / 16)
    if d.hold.length < dw then s
    else match s.dmaPut e k (leField d.desc 0x10 8 + d.wr) (d.hold.take dw) with
    | (.ok, s) =>
      let d := { s.chan e k with hold := d.hold.drop dw, wr := d.wr + dw }
      if d.wr ≥ len then s.setChan e k { d with phase := 4, status := .ok }
      else
        let reads := decide (d.rd < len ∧ d.hold.length + sw ≤ 64) && !(s.dstate e k == 2 && decide (d.issued ≤ d.rd))
        if reads then s.setChan e k d else (s.setChan e k d).dmaFlush e k n
    | (st, s) => s.dmaFail e k st

/-- DMA_SOURCE_RETURN, R328, R332, R336: the next source access that was issued returns into the holding register, and whole
destination widths are written. -/
def execDmaSourceReturn (e k : Nat) (s : State) : Host.Outcome State Fault Refusal :=
  let d := s.chan e k
  if !chanOk e k ∨ d.phase ≠ 2 ∨ leField d.desc 0 1 ≠ 0 ∨ !(s.dstate e k == 1 || s.dstate e k == 2) then .next s
  else if s.dmaHeld e then .next s
  else if d.issued ≤ d.rd then .next (if s.dstate e k = 2 then s.dmaFlush e k 64 else s)
  else match s.dmaGet e k with
  | (s, none) => .next s
  | (s, some (.ok, bs)) =>
    let d := s.chan e k
    .next ((s.setChan e k { d with hold := d.hold ++ bs, rd := d.rd + bs.length }).dmaFlush e k 64)
  | (s, some (st, _)) => .next (s.dmaFail e k st)

/-- FILL's byte i of its range: byte i mod 8 of ARG. -/
def fillBytes (arg off n : Nat) : List Byte := (List.range n).map (fun i => BitVec.ofNat 8 (arg / 256 ^ ((off + i) % 8)))

/-- Destination accesses of a FILL, up to n of them. -/
def State.dmaFillN (s : State) (e k : Nat) : Nat → State
  | 0 => s
  | n + 1 =>
    let d := s.chan e k
    let dw := 2 ^ (leField d.desc 2 1 / 16)
    match s.dmaPut e k (leField d.desc 0x10 8 + d.wr) (fillBytes (leField d.desc 0x20 8) d.wr dw) with
    | (.ok, s) =>
      let d := { s.chan e k with wr := d.wr + dw }
      if d.wr ≥ leField d.desc 4 4 then s.setChan e k { d with phase := 4, status := .ok }
      else (s.setChan e k d).dmaFillN e k n
    | (st, s) => s.dmaFail e k st

/-- DMA_FILL, R328, R336: the next n destination widths; none while pausing. -/
def execDmaFill (e k n : Nat) (s : State) : Host.Outcome State Fault Refusal :=
  let d := s.chan e k
  if chanOk e k && d.phase == 2 && leField d.desc 0 1 == 1 && s.dstate e k == 1 && !s.dmaHeld e && !s.fenced d then .next (s.dmaFillN e k n) else .next s

/-! ### The debug access port, R617 -/

/-- What the capture of a DAP shift brings out: the outcome of the access before it; bits [79:32] are not given. -/
def State.dapCapture (s : State) : State :=
  let (v, s) := s.fresh 48
  s.emit (.jtag (s.dbg.dapOp * 2 ^ 80 + v * 2 ^ 32 + s.dbg.dapResult))

/-- Is an address refused to the debug port: the INJ regions? Key store, slot copies and flash have no address. -/
def dapRefused (a : Addr) : Bool := match ctlLoc a with | some l => l.blk == .injA || l.blk == .injD | none => false

/-- Does the debug port's access to an address go to bank 9 by its own path (R571)? -/
def dapPath (a : Addr) : MbxPath :=
  match ctlLoc a with
  | some ⟨.mbx, _, o⟩ => if o / 0x10000 = 9 then .debug else .atelier
  | _ => .atelier

/-- DAP_READ, R617: a read of four bytes as the atelier core; poisoned memory gives a free value. -/
def execDapRead (addr : Nat) (s : State) : Host.Outcome State Fault Refusal :=
  if !s.dbgOpen ∨ s.pw.devReset then .next s
  else
    let s := s.dapCapture
    if dapRefused addr then .next (s.setDbg { s.dbg with dapOp := 2, dapResult := 0 })
    else
      let a := addr / 4 * 4
      let (s, v) := match space a with
        | .control => (let r := (s.wakeFor a).readCtl (dapPath a) a 4; (r.1, leVal r.2))
        | .unmapped => (s, 0)
        | _ => (let r := s.busRead a 4; match r.bytes with | some bs => (r.state, leVal bs) | none => let f := r.state.fresh 32; (f.2, f.1))
      .next (s.setDbg { s.dbg with dapOp := 0, dapResult := v })

/-- DAP_WRITE, R617. -/
def execDapWrite (addr val : Nat) (s : State) : Host.Outcome State Fault Refusal :=
  if !s.dbgOpen ∨ s.pw.devReset then .next s
  else
    let s := s.dapCapture
    if dapRefused addr then .next (s.setDbg { s.dbg with dapOp := 2, dapResult := 0 })
    else
      let a := addr / 4 * 4
      let s := match space a with
        | .control => (s.wakeFor a).writeNow (dapPath a) a (val % 2 ^ 32)
        | _ => s.busWrite a (leBytes 4 val)
      .next (s.setDbg { s.dbg with dapOp := 0, dapResult := 0 })

end Machine
end Sys2Proof
end

