-- ==== Sys2Proof/Machine/Kengir.lean ====
section
/-!
DEFINITION. The encodings of Kengir: the native words of spec 05 R131 to R133 and the variable-length Kengir-V encoding of
spec 06 R156 to R163, each read into the command that carries the instruction's operands.
-/
namespace Sys2Proof
namespace Machine

/-- Keeps an instruction when its fields are as its row requires. -/
def onlyIf (c : Bool) (i : Instr) : Option Instr := if c then some i else none

/-- The instruction of a register-register selector 0 to 13, R136. -/
def aluInstr (w : Issue) (fn rd rs1 rs2 : Nat) : Option Instr :=
  match fn with
  | 0 => some (.add w rd rs1 rs2) | 1 => some (.sub w rd rs1 rs2) | 2 => some (.andI w rd rs1 rs2)
  | 3 => some (.orI w rd rs1 rs2) | 4 => some (.xorI w rd rs1 rs2) | 5 => some (.sll w rd rs1 rs2)
  | 6 => some (.srl w rd rs1 rs2) | 7 => some (.sra w rd rs1 rs2) | 8 => some (.slt w rd rs1 rs2)
  | 9 => some (.sltu w rd rs1 rs2) | 10 => some (.minI w rd rs1 rs2) | 11 => some (.maxI w rd rs1 rs2)
  | 12 => some (.minu w rd rs1 rs2) | 13 => some (.maxu w rd rs1 rs2) | _ => none

/-- The branch of a selector 0 to 5, R133. -/
def branchInstr (w : Issue) (k rs1 rs2 : Nat) (off : Int) : Option Instr :=
  match k with
  | 0 => some (.beq w rs1 rs2 off) | 1 => some (.bne w rs1 rs2 off) | 2 => some (.blt w rs1 rs2 off)
  | 3 => some (.bge w rs1 rs2 off) | 4 => some (.bltu w rs1 rs2 off) | 5 => some (.bgeu w rs1 rs2 off) | _ => none

/-- The load or store of a native op 0x20 to 0x2D, R133. -/
def memInstr (w : Issue) (op rt : Nat) (m : MemArg) : Option Instr :=
  match op with
  | 0x20 => some (.lb w rt m) | 0x21 => some (.lbu w rt m) | 0x22 => some (.lh w rt m) | 0x23 => some (.lhu w rt m)
  | 0x24 => some (.lw w rt m) | 0x25 => some (.lwu w rt m) | 0x26 => some (.ld w rt m)
  | 0x27 => onlyIf (vOk rt) (.vld w rt m)
  | 0x28 => some (.sb w rt m) | 0x29 => some (.sh w rt m) | 0x2A => some (.sw w rt m) | 0x2B => some (.sd w rt m)
  | 0x2C => onlyIf (vOk rt) (.vst w rt m) | 0x2D => onlyIf (aOk rt) (.vsta w rt m) | _ => none

/-- The element-wise instruction of sub[2:0], R149. -/
def elemInstr (w : Issue) (k vd va vb fmt : Nat) : Option Instr :=
  match k with
  | 0 => some (.vadd w vd va vb fmt) | 1 => some (.vsub w vd va vb fmt) | 2 => some (.vmul w vd va vb fmt)
  | 3 => some (.vmax w vd va vb fmt) | 4 => some (.vmin w vd va vb fmt) | _ => none

/-- The accumulator instruction of sub[2:0], with the C bit of sub[3], R151. -/
def accInstr (w : Issue) (k d a b fmt sub : Nat) : Option Instr :=
  match k with
  | 0 => onlyIf (aOk d && a == 0 && b == 0 && fmt == 0 && sub == 0) (.aclr w d)
  | 1 => onlyIf (aOk d && vOk a && b == 0 && fmt == 0 && sub == 0) (.vtoa w d a)
  | 2 => onlyIf (vOk d && aOk a && b == 0 && fmt == 0 && sub == 0) (.atov w d a)
  | 3 => onlyIf (aOk a && b == 0 && (fmt == 5 || fmt == 7) && (sub == 0 || sub == 8)) (.aredSum w d a fmt (sub == 8))
  | 4 => onlyIf (aOk a && b == 0 && (fmt == 5 || fmt == 7) && (sub == 0 || sub == 8)) (.aredMax w d a fmt (sub == 8))
  | _ => none

/-- A V-format instruction by its native op, R148 to R151. -/
def vecInstr (w : Issue) (op d a b fmt sub : Nat) : Option Instr :=
  match op with
  | 0x30 => onlyIf (aOk d && vOk a && vOk b && decide (fmt ≤ 6) && sub % 8 == 0 && (fmt == 6 || sub == 0)) (.vmac w d a b (sub / 8) fmt)
  | 0x31 => if vOk d && vOk a && vOk b && [0, 3, 4, 5, 7].contains fmt && sub < 8 then elemInstr w sub d a b fmt else none
  | 0x32 => onlyIf (vOk d && vOk a && decide (fmt ≤ 5) && sub % 128 == sub % 4 && decide (sub % 4 < fmtElems fmt / 16) &&
              (bit sub 7 || b == 0)) (.vwacc w d a b (sub % 4) fmt (bit sub 7))
  | 0x33 => onlyIf (vOk d && vOk a && b == 0 && getBits sub 4 3 == 0 && (decide (fmt ≤ 5) || fmt == 7) && sub / 32 != 6)
              (.vcvt w d a (sub / 32) (sub % 4) fmt (bit sub 2))
  | 0x34 => onlyIf (vOk d && vOk a && b == 0 && sub == 0 && (fmt == 3 || fmt == 5)) (.vexp w d a fmt)
  | 0x35 => onlyIf (vOk d && b == 0 && sub == 0 && (decide (fmt ≤ 5) || fmt == 7)) (.vbc w d a fmt)
  | 0x36 => if sub < 16 then accInstr w (sub % 8) d a b fmt (sub / 8 * 8) else none
  | _ => none

/-- The M-format operand of a native word, R139; none for an illegal mode, scale or a field that must be zero. -/
def nativeMem (x : Nat) : Option MemArg :=
  let f := getBits x 12 0
  let m : MemArg := { mode := getBits x 15 13, rb := getBits x 20 16, ri := 0, scale := 0, disp := 0 }
  match m.mode with
  | 0 => some { m with disp := toSigned 13 f }
  | 1 => if f = 0 then some m else none
  | 2 => some { m with disp := toSigned 13 f }
  | 3 => if f = 0 then some m else none
  | 4 => if getBits x 4 0 = 0 ∧ getBits x 7 5 ≠ 7 then some { m with ri := getBits x 12 8, scale := getBits x 7 5 } else none
  | _ => none

/-- A native word read into its instruction, R131 to R133; none where the word encodes none. -/
def nativeDecode (w : Issue) (x : Nat) : Option Instr :=
  let op := getBits x 31 26
  let f1 := getBits x 25 21
  let f2 := getBits x 20 16
  let f3 := getBits x 15 11
  let fn := getBits x 10 0
  let imm := getBits x 15 0
  if op = 0x00 then aluInstr w fn f1 f2 f3
  else if op = 0x01 then some (.addi w f1 f2 imm)
  else if op = 0x02 then some (.andi w f1 f2 imm)
  else if op = 0x03 then some (.ori w f1 f2 imm)
  else if op = 0x04 then some (.xori w f1 f2 imm)
  else if op = 0x05 then some (.slti w f1 f2 imm)
  else if op = 0x06 then some (.sltiu w f1 f2 imm)
  else if op = 0x07 then onlyIf (f2 == 0) (.lui w f1 imm)
  else if op = 0x08 then
    (if imm / 256 ≠ 0 then none
     else match imm / 64 with
       | 0 => some (.slli w f1 f2 (imm % 64)) | 1 => some (.srli w f1 f2 (imm % 64)) | 2 => some (.srai w f1 f2 (imm % 64)) | _ => none)
  else if op = 0x09 then some (.sli w f1 f2 imm)
  else if op = 0x0A then onlyIf (f2 == 0) (.ladr w f1 imm)
  else if op = 0x0B then
    (if f1 ≠ 0 then none else match fn with | 0 => some (.mul w f2 f3) | 1 => some (.mulu w f2 f3) | _ => none)
  else if op = 0x0C then
    (if getBits fn 7 4 ≠ 0 then none
     else match fn / 256 with
       | 0 => onlyIf (f2 == 0 && f3 == 0) (.mfsr w f1 (fn % 16))
       | 1 => onlyIf (f1 == 0 && f3 == 0) (.mtsr w (fn % 16) f2)
       | _ => none)
  else if 0x10 ≤ op ∧ op ≤ 0x15 then branchInstr w (op - 0x10) f1 f2 (toSigned 16 imm)
  else if op = 0x16 then onlyIf (f1 == 0 && f2 == 0) (.j w imm)
  else if op = 0x17 then onlyIf (f1 == 0 && f2 == 0) (.call w imm)
  else if op = 0x18 then
    (if f1 ≠ 0 ∨ f3 ≠ 0 then none
     else match fn with
       | 0 => some (.jr w f2) | 1 => some (.callr w f2)
       | 2 => onlyIf (f2 == 0) (.ret w) | 3 => onlyIf (f2 == 0) (.eret w) | 4 => onlyIf (f2 == 0) (.breakI w) | _ => none)
  else if 0x20 ≤ op ∧ op ≤ 0x2D then (nativeMem x).bind (memInstr w op f1)
  else if 0x30 ≤ op ∧ op ≤ 0x36 then vecInstr w op f1 f2 f3 (getBits x 10 8) (getBits x 7 0)
  else if op = 0x38 then
    (match fn with
     | 0 => onlyIf (f1 == 0) (.signal w f2 f3) | 1 => some (.wait w f1 f2 f3) | 2 => some (.waitdec w f1 f2 f3) | _ => none)
  else if op = 0x39 then onlyIf (f1 == 0 && vOk f2 && getBits x 5 0 == 0) (.gsend w f2 f3 (getBits x 10 6))
  else none

/-! ### Kengir-V, R156 to R163 -/

/-- The body forms of R159. -/
inductive Form where
  | Z | R1 | RR | RRR | RI | B | JD | M | V
deriving DecidableEq, Repr

/-- The form of an opcode on a page, R161 to R163; none where the page's table lists no such opcode. -/
def legacyForm (page op : Nat) : Option Form :=
  match page with
  | 0 =>
    if op = 0x00 then some .Z
    else if 0x01 ≤ op ∧ op ≤ 0x0E then some .RR
    else if 0x11 ≤ op ∧ op ≤ 0x1E then some .RRR
    else if 0x21 ≤ op ∧ op ≤ 0x2C then some .RI
    else if (0x30 ≤ op ∧ op ≤ 0x36) ∨ (0x38 ≤ op ∧ op ≤ 0x3B) then some .M
    else if op = 0x40 ∨ op = 0x41 ∨ op = 0x48 then some .RR
    else if 0x50 ≤ op ∧ op ≤ 0x55 then some .B
    else if op = 0x58 ∨ op = 0x59 then some .JD
    else if op = 0x5A ∨ op = 0x5B then some .R1
    else if 0x5C ≤ op ∧ op ≤ 0x5E then some .Z
    else none
  | 1 => if op ≤ 0x0E then some .V else if 0x10 ≤ op ∧ op ≤ 0x12 then some .M else none
  | 2 => if op ≤ 0x02 then some .RR else if op ≤ 0x05 then some .RRR else none
  | _ => none

/-- Does R158 refuse LONG on an opcode of page 0 (LUI, SLLI, SRLI, SRAI, SLI, LADR)? -/
def longRefused (page op : Nat) : Bool := page == 0 && decide (0x27 ≤ op ∧ op ≤ 0x2C)

/-- The native V op of a page 1 opcode, and the sub byte it carries (R162). -/
def legacyVec (w : Issue) (op d a b fmt sub : Nat) : Option Instr :=
  if op = 0x00 then vecInstr w 0x30 d a b fmt sub
  else if op ≤ 0x05 then (if sub = 0 then vecInstr w 0x31 d a b fmt (op - 1) else none)
  else if op ≤ 0x09 then vecInstr w (0x32 + (op - 6)) d a b fmt sub
  else if sub % 8 = 0 then vecInstr w 0x36 d a b fmt (sub + (op - 0x0A)) else none

/-- A Kengir-V instruction from its operand word and immediate. -/
def legacyInstr (w : Issue) (page op f1 f2 f3 imm : Nat) (disp : Int) (m : MemArg) (fmt sub : Nat) : Option Instr :=
  match page with
  | 0 =>
    if op = 0x00 then some (.nop (.bristle w))
    else if op ≤ 0x0E then (if f3 = 0 then aluInstr w (op - 1) f1 f1 f2 else none)
    else if op ≤ 0x1E then aluInstr w (op - 0x11) f1 f2 f3
    else if op ≤ 0x2C then
      (if f3 ≠ 0 then none
       else match op with
         | 0x21 => some (.addi w f1 f2 imm) | 0x22 => some (.andi w f1 f2 imm) | 0x23 => some (.ori w f1 f2 imm)
         | 0x24 => some (.xori w f1 f2 imm) | 0x25 => some (.slti w f1 f2 imm) | 0x26 => some (.sltiu w f1 f2 imm)
         | 0x27 => onlyIf (f2 == 0) (.lui w f1 imm)
         | 0x28 => onlyIf (decide (imm < 64)) (.slli w f1 f2 imm)
         | 0x29 => onlyIf (decide (imm < 64)) (.srli w f1 f2 imm)
         | 0x2A => onlyIf (decide (imm < 64)) (.srai w f1 f2 imm)
         | 0x2B => some (.sli w f1 f2 imm)
         | 0x2C => onlyIf (f2 == 0) (.ladr w f1 imm)
         | _ => none)
    else if op ≤ 0x36 then memInstr w (op - 0x10) f1 m
    else if op ≤ 0x3B then memInstr w (op - 0x10) f1 m
    else if op = 0x40 then onlyIf (f3 == 0) (.mul w f1 f2)
    else if op = 0x41 then onlyIf (f3 == 0) (.mulu w f1 f2)
    else if op = 0x48 then onlyIf (f3 == 0) (.mov w f1 f2)
    else if op ≤ 0x55 then (if f3 = 0 then branchInstr w (op - 0x50) f1 f2 disp else none)
    else if op = 0x58 then some (.j w disp)
    else if op = 0x59 then some (.call w disp)
    else if op = 0x5A then onlyIf (f2 == 0 && f3 == 0) (.jr w f1)
    else if op = 0x5B then onlyIf (f2 == 0 && f3 == 0) (.callr w f1)
    else if op = 0x5C then some (.ret w)
    else if op = 0x5D then some (.eret w)
    else if op = 0x5E then some (.breakI w)
    else none
  | 1 =>
    if op ≤ 0x0E then legacyVec w op f1 f2 f3 fmt sub
    else if op = 0x10 then memInstr w 0x27 f1 m
    else if op = 0x11 then memInstr w 0x2C f1 m
    else if op = 0x12 then memInstr w 0x2D f1 m
    else none
  | 2 =>
    (match op with
     | 0x00 => onlyIf (f3 == 0 && decide (f2 < 16)) (.mfsr w f1 f2)
     | 0x01 => onlyIf (f3 == 0 && decide (f1 < 16)) (.mtsr w f1 f2)
     | 0x02 => onlyIf (f3 == 0) (.signal w f1 f2)
     | 0x03 => some (.wait w f1 f2 f3)
     | 0x04 => some (.waitdec w f1 f2 f3)
     | 0x05 => onlyIf (vOk f1) (.gsend w f1 f2 f3)
     | _ => none)
  | _ => none

/-- What reading a Kengir-V instruction gives: the instruction and its length, or the number of bytes up to and including
the one at which decoding failed (R166). -/
inductive LegacyRead where
  | ok (i : Instr) (len : Nat)
  | bad (k : Nat)
deriving DecidableEq, Repr

/-- Are srcA and srcB of a V-form opcode of page 1 as its row requires, so far as the operand word tells (R160, R162)? -/
def legacySrcOk (op f2 f3 : Nat) : Bool :=
  if op ≤ 0x05 then vOk f2 && vOk f3
  else if op = 0x06 then vOk f2
  else f3 == 0 && (if op = 0x09 then true else if op = 0x0A then f2 == 0 else if op ≤ 0x0B then vOk f2 else aOk f2)

/-- Does a V-form opcode of page 1 allow a format (R149, R151)? -/
def legacyFmtOk (op fmt : Nat) : Bool :=
  if op = 0x00 then decide (fmt ≤ 6)
  else if op ≤ 0x05 then [0, 3, 4, 5, 7].contains fmt
  else if op = 0x06 then decide (fmt ≤ 5)
  else if op = 0x08 then fmt == 3 || fmt == 5
  else if op ≤ 0x09 then fmt != 6
  else if op ≤ 0x0C then fmt == 0
  else fmt == 5 || fmt == 7

/-- Reads the body after n bytes of class and opcode. Fields that lie in the first operand byte fail there, other operand
fields at the second, later ones at their own byte (R160, R166). A nonzero scale outside mode 0b100 fails at the mode byte: R159 does not say
that it must be zero (DESIGN CHOICE, log entry 24). -/
def legacyBody (w : Issue) (page op : Nat) (long : Bool) (form : Form) (n : Nat) (bs : List Byte) : LegacyRead :=
  let byte (i : Nat) : Nat := (bs.getD i 0).toNat
  let word := byte n + 256 * byte (n + 1)
  let f1 := getBits word 4 0
  let f2 := getBits word 9 5
  let f3 := getBits word 14 10
  let no : MemArg := { mode := 0, rb := f2, ri := 0, scale := 0, disp := 0 }
  let fin (imm : Nat) (disp : Int) (m : MemArg) (fmt sub len : Nat) : LegacyRead :=
    match legacyInstr { w with len := len, long := long } page op f1 f2 f3 imm disp m fmt sub with
    | some i => .ok i len
    | none => .bad len
  let f1Bad : Bool :=
    match page, form with
    | 1, .M => if op = 0x12 then !aOk f1 else !vOk f1
    | 1, .V => if op = 0x00 ∨ op = 0x0A ∨ op = 0x0B then !aOk f1 else if op = 0x0D ∨ op = 0x0E then false else !vOk f1
    | 2, .RRR => op == 0x05 && !vOk f1
    | 2, .RR => op == 0x01 && decide (f1 ≥ 16)
    | _, _ => false
  let wordBad : Bool :=
    decide (word ≥ 0x8000) ||
    (match form with
     | .R1 => f2 != 0 || f3 != 0
     | .RR => f3 != 0 || (page == 2 && op == 0x00 && decide (f2 ≥ 16))
     | .RI => f3 != 0 || ((op == 0x27 || op == 0x2C) && f2 != 0)
     | .B => f3 != 0
     | .V => !legacySrcOk op f2 f3
     | _ => false)
  match form with
  | .Z => fin 0 0 no 0 0 n
  | .JD =>
    if long then fin 0 (toSigned 32 (leVal ((bs.drop n).take 4))) no 0 0 (n + 4) else fin 0 (toSigned 8 (byte n)) no 0 0 (n + 1)
  | _ =>
    if f1Bad then .bad (n + 1)
    else if wordBad then .bad (n + 2)
    else match form with
      | .RI =>
        let imm := leVal ((bs.drop (n + 2)).take (if long then 4 else 2))
        if 0x28 ≤ op ∧ op ≤ 0x2A ∧ byte (n + 2) ≥ 64 then .bad (n + 3) else fin imm 0 no 0 0 (n + 2 + if long then 4 else 2)
      | .B =>
        if long then fin 0 (toSigned 32 (leVal ((bs.drop (n + 2)).take 4))) no 0 0 (n + 6)
        else fin 0 (toSigned 8 (byte (n + 2))) no 0 0 (n + 3)
      | .M =>
        let mb := byte (n + 2)
        let mode := mb / 32
        let sc := getBits mb 4 2
        if mb % 4 ≠ 0 ∨ mode > 4 ∨ (mode = 4 ∧ sc = 7) ∨ (mode ≠ 4 ∧ (f3 ≠ 0 ∨ sc ≠ 0)) then .bad (n + 3)
        else
          let m : MemArg := { no with mode := mode, ri := f3, scale := sc }
          if mode = 0 ∨ mode = 2 then
            (if long then fin 0 0 { m with disp := toSigned 32 (leVal ((bs.drop (n + 3)).take 4)) } 0 0 (n + 7)
             else fin 0 0 { m with disp := toSigned 8 (byte (n + 3)) } 0 0 (n + 4))
          else fin 0 0 m 0 0 (n + 3)
      | .V => if byte (n + 2) ≥ 8 ∨ !legacyFmtOk op (byte (n + 2)) then .bad (n + 3) else fin 0 0 no (byte (n + 2)) (byte (n + 3)) (n + 4)
      | _ => fin 0 0 no 0 0 (n + 2)

/-- Reads one Kengir-V instruction, R156 to R163. -/
def legacyDecode (w : Issue) (bs : List Byte) : LegacyRead :=
  let b0 := (bs.getD 0 0).toNat
  let classed := decide (0xF0 ≤ b0 ∧ b0 ≤ 0xF7)
  let page := if classed then b0 % 4 else 0
  let long := classed && decide (b0 ≥ 0xF4)
  let n := if classed then 2 else 1
  let op := (bs.getD (n - 1) 0).toNat
  if page = 3 then .bad 1
  else if 0xF0 ≤ op ∧ op ≤ 0xF7 then .bad n
  else match legacyForm page op with
    | none => .bad n
    | some form => if long && longRefused page op then .bad n else legacyBody w page op long form n bs

/-- ILLEGAL_ENCODING, R132, R160, R166, R168: a word or byte sequence that encodes no instruction traps with ILLEGAL_INSTR;
EVAL holds the native word, or the Kengir-V bytes up to the one at which decoding failed, at most eight; no byte after that one is
read. A sequence
that does encode an instruction is not this event, and nothing happens. -/
def execIllegalEncoding (w : Issue) (s : State) : Host.Outcome State Fault Refusal :=
  if s.legacy w.b then
    match legacyDecode w (leBytes 9 w.raw) with
    | .ok _ _ => .next s
    | .bad k => .next (s.issue { w with len := k, raw := w.raw % 256 ^ min k 8 } false [] false (fun _ s => (s, .hold)))
  else if (nativeDecode w w.raw).isSome then .next s
  else .next (s.issue w false [] false (fun _ s => (s, .hold)))

end Machine
end Sys2Proof
end

