-- ==== Sys2Proof/Machine/NetCmd.lean ====
section
/-!
DEFINITION. The network configuration commands (spec 17 R425, R436, 24 R583): register images that firmware writes as the atelier core,
whole or not at all, and records in flash.
-/
namespace Sys2Proof
namespace Machine

/-- Did a write of the images so far meet a rejection? -/
def State.netRejected (s : State) (die : Nat) : Bool := s.fon PKT_ERR_STATUS_CFG_REJECT die || s.fon SCH_ERR_STATUS_CFG_REJECT die

/-- The two rejection flags as given. -/
def State.setRejects (s : State) (die p q : Nat) : State := (s.fset PKT_ERR_STATUS_CFG_REJECT p die).fset SCH_ERR_STATUS_CFG_REJECT q die

/-- Writes register images of die `die`, given as (address, value), in order; none where one names a register the command does not set or
the block rejects one. -/
def State.netImages (s : State) (die : Nat) (may : Reg → List Nat → Bool) (images : List (Nat × Nat)) : Option State :=
  let p := s.fget PKT_ERR_STATUS_CFG_REJECT die
  let q := s.fget SCH_ERR_STATUS_CFG_REJECT die
  let s := (s.wakeFor (PKT_MODE.addr die 0 0 0)).setRejects die 0 0
  (images.foldl (fun (acc : Option State) i =>
    match acc, netReg die i.1 with
    | some s, some (r, ix) =>
      if !may r ix then none
      else
        let s := s.writeNow .atelier i.1 (i.2 % 2 ^ 32)
        if s.netRejected die then none else some s
    | _, _ => none) (some s)).map (fun s => s.setRejects die p q)

/-- Firmware records the registers of the images in flash. -/
def State.netRecord (s : State) (die : Nat) (images : List (Nat × Nat)) : State :=
  let flash := images.foldl (fun m i =>
    match netReg die i.1 with
    | some (r, ix) => smSet m i.1 (s.rget r die (ixAt ix 0) (ixAt ix 1) (ixAt ix 2))
    | none => m) s.net.flash
  s.setNet { s.net with flash := flash }

/-- Firmware records the rules of a die in flash, without their hit counts. -/
def State.netRecordRules (s : State) (die : Nat) : State :=
  let mine := fun (k : Nat) => decide (ruleKey 0 ≤ k) && (k - ruleKey 0) / 65536 == die
  let now := (s.net.rules.filter (fun e => e.1 / 65536 == die && decide (e.1 % 64 < 36)))
  s.setNet { s.net with flash := now.foldl (fun m e => smSet m (ruleKey e.1) e.2) (smDelIf s.net.flash mine) }

/-- The shape of every network command: a secure command with a parameter block, refused where its images do not apply. -/
def State.netServe (s : State) (ch cmd : Nat) (pb : Status) (ok : Bool) (run : State → Option State) : State :=
  s.serve ch cmd [] 0 .secure true (fun _ s =>
    if pb ≠ .ok then refuseCmd s pb
    else if !ok then refuseCmd s .badDescriptor 1
    else match run s with
    | some s => okCmd s
    | none => refuseCmd s .badDescriptor 1)

/-- The ports that the die's mode has are enabled, those it has not disabled (R425). -/
def State.enablePorts (s : State) (die : Nat) : State :=
  (List.range 8).foldl (fun s j => s.fset PKT_PORT_CTL_EN (if s.portPresent die j then 1 else 0) die j) s

/-- NET_MODE, R425: for a new mode the ports are disabled, PKT_MODE is written, and the ports are enabled and train afresh. -/
def execNetMode (ch die : Nat) (pb : Status) (val : Nat) (s : State) : Host.Outcome State Fault Refusal :=
  .next (s.netServe ch 0x58 pb (decide (die ≤ 1)) (fun s =>
    let a := PKT_MODE.addr die 0 0 0
    let new := getBits val 1 0 != s.fget PKT_MODE_MODE die
    let t := if new then (List.range 8).foldl (fun s j =>
        let was := s.fon PKT_PORT_CTL_EN die j
        let s := s.fset PKT_PORT_CTL_EN 0 die j
        if was then s.portDown die j else s) s else s
    (t.netImages die (fun r _ => r == PKT_MODE) [(a, val)]).map (fun s => ((if new then s.enablePorts die else s).netRecord die [(a, val)]))))

/-- NET_ADDR, R439, R443, R494: the MAC address registers of a port and its IPv4 and IPv6 addresses. -/
def execNetAddr (ch die port : Nat) (pb : Status) (ip4 ip6 : Nat) (images : List (Nat × Nat)) (s : State) : Host.Outcome State Fault Refusal :=
  .next (s.netServe ch 0x59 pb (decide (die ≤ 1 ∧ port ≤ 7 ∧ ip4 < 2 ^ 32 ∧ ip6 < 2 ^ 128)) (fun s =>
    let n := die * 8 + port
    (s.netImages die (fun r ix => (r == PKT_PORT_MAC_LO || r == PKT_PORT_MAC_HI) && ixAt ix 0 == port) images).map (fun s =>
      s.setNet { s.net with ip := smSet (smSet s.net.ip n ip4) (16 + n) ip6 })))

/-- NET_PROFILE, R432, R443: the extraction windows, default actions and control of a port, recorded in flash. -/
def execNetProfile (ch die port : Nat) (pb : Status) (images : List (Nat × Nat)) (s : State) : Host.Outcome State Fault Refusal :=
  .next (s.netServe ch 0x5A pb (decide (die ≤ 1 ∧ port ≤ 7)) (fun s =>
    (s.netImages die (fun r ix => [PKT_WIN, PKT_PORT_CTL, PKT_PORT_DEF_RX, PKT_PORT_DEF_TX].contains r && ixAt ix 0 == port) images).map
      (fun s => s.netRecord die images)))

/-- NET_RULE, R435, R441, R442: rules through the indirect window, the classes and the queue destinations, recorded in flash. -/
def execNetRule (ch die : Nat) (pb : Status) (images : List (Nat × Nat)) (s : State) : Host.Outcome State Fault Refusal :=
  .next (s.netServe ch 0x5B pb (decide (die ≤ 1)) (fun s =>
    let kept := images.filter (fun i => match netReg die i.1 with | some (r, _) => r == PKT_CLASS_CTL || r == PKT_QDEST | none => false)
    (s.netImages die (fun r _ => [PKT_RULE_SEL, PKT_RULE_CMD, PKT_RULE_DATA, PKT_CLASS_CTL, PKT_QDEST].contains r) images).map
      (fun s => (s.netRecord die kept).netRecordRules die)))

/-- NET_SCHED, R459: the scheduler registers of a port. -/
def execNetSched (ch die port : Nat) (pb : Status) (images : List (Nat × Nat)) (s : State) : Host.Outcome State Fault Refusal :=
  .next (s.netServe ch 0x5C pb (decide (die ≤ 1 ∧ port ≤ 7)) (fun s =>
    s.netImages die (fun r ix => r.blk == .sch && !r.dims.isEmpty && ixAt ix 0 == port) images))

end Machine
end Sys2Proof
end

