-- ==== Sys2Proof/Machine/Ports.lean ====
section
/-!
DEFINITION. What takes links down and resets ports and functions: fabric links (spec 01 R27, R44), port resets and function level
resets (14 R367, 16 R422, 20 R506), reference clocks (27 R636), the bristle clock (01 R31, 04 R644).
-/
namespace Sys2Proof
namespace Machine

/-! ### Fabric links, R27, R44 -/

/-- A link is declared down: its end dies stop issuing, its identity is reported, FAULT_N is low, storage controllers that are enabled stop (R402). -/
def State.linkDown (s : State) (l : Nat) : State :=
  if l > 24 ∨ s.fab.down.contains l then s
  else
    let s := { s with fab := { s.fab with down := s.fab.down ++ [l] } }
    let s := ((s.setPw { s.pw with fabricFault := true }).deviceNews).emit (.fabricDown l)
    (List.range 8).foldl (fun s c => if (s.ctl c).en && !(s.ctl c).cfs then s.nvmCfs c .fabricLinkDown 0 0 0 else s) s

/-- The injectors at both ends of a link meet a flit of a slice (64 none). -/
def State.linkFlit (s : State) (l sl : Nat) : State × List Firing :=
  let e := linkEnds l
  let (s, a) := s.injLink e.1.1 e.1.2 sl
  let (s, b) := s.injLink e.2.1 e.2.2 sl
  (s, a ++ b)

/-- FABRIC_FLIT_RETRY, R27: a flit of slice sl (64 none) is retried, counted for the link, and on its palette and stretcher ends. A LINK_KILL injector that fires takes the link
down. -/
def execFabricFlitRetry (link : Nat) (s : State) (sl : Nat := 64) : Host.Outcome State Fault Refusal :=
  if link > 24 ∨ s.fab.down.contains link ∨ s.pw.devReset then .next s
  else
    let e := linkEnds link
    let s := { s with fab := { s.fab with retries := smSet s.fab.retries link (smGetD s.fab.retries link 0 + 1) } }
    let s := if e.1.1 ≤ 13 then s.count (e.1.1 + 1) e.1.2 0x12 64 1 else s
    let s := if e.2.1 ≤ 13 then s.count (e.2.1 + 1) e.2.2 0x12 64 1 else s
    let (s, fs) := s.linkFlit link sl
    .next (if fs.any (fun f => f.action == 3) then s.linkDown link else s)

/-- Load i of bristle b was on its way over link l: it never returns, and its slice is told (R44). -/
def State.loseLoad (s : State) (l b i : Nat) : State :=
  match (s.br b).loads[i]? with
  | some x =>
    if x.lost || !(s.uses (b / 384) (s.placeOf x.addr) l || s.uses (s.placeOf x.addr) (b / 384) l) then s
    else (s.setBr b { s.br b with loads := (s.br b).loads.set i { x with lost := true } }).emit (.report (s.fget BRS_CTL_SLICE b) .fabricLinkDown)
  | none => s

/-- Flag operations, by their places, and contributions, by theirs, that were on their way from bristles over link l are lost, and their
slices told (R44). -/
def State.loseSync (s : State) (l : Nat) (flags contribs : List Nat) : State :=
  let fs := s.syn.flight.zipIdx.filter (fun q => flags.contains q.2 && decide (q.1.sender < 3840) && s.uses (q.1.sender / 384) (flagDie q.1.word) l)
  let cs := s.syn.granted.zipIdx.filter (fun q => contribs.contains q.2 && s.uses (q.1.bid / 384) (targetDie q.1.target) l)
  let t := s.setSyn { s.syn with flight := (s.syn.flight.zipIdx.filter (fun q => !fs.contains q)).map (·.1),
                                 granted := (s.syn.granted.zipIdx.filter (fun q => !cs.contains q)).map (·.1) }
  (fs.map (fun q => s.brSlice q.1.sender) ++ cs.map (fun q => q.1.slice)).foldl (fun t sl => t.emit (.report sl .fabricLinkDown)) t

/-- FABRIC_LINK_DOWN, R27, R44: the link is down, and the requests that were in flight on it are reported to their requesters: work
records by their order of posting, cipher requests by their place in the queues, DMA channels as (engine, channel), loads as (bristle,
place), flag operations and contributions by their places. -/
def execFabricLinkDown (link : Nat) (recs ciphers : List Nat) (chans : List (Nat × Nat)) (s : State) (loads : List (Nat × Nat) := [])
    (flags contribs : List Nat := []) :
    Host.Outcome State Fault Refusal :=
  if link > 24 ∨ s.pw.devReset then .next s
  else
    let s := s.linkDown link
    let s := s.failRecords (fun _ r => recs.contains r.ord) .fabricLinkDown
    let hit := ciphers.filterMap (fun i => s.cph.reqs[i]?)
    let s := s.endCipher hit.contains .fabricLinkDown
    let s := chans.foldl (fun s q => s.dmaStop q.1 q.2 .fabricLinkDown) s
    .next ((loads.foldl (fun s q => s.loseLoad link q.1 q.2) s).loseSync link flags contribs)

/-! ### Ports and functions, R367 -/

/-- Every request outstanding on a port ends with HOST_LINK_DOWN; its indices are free. -/
def State.endReads (s : State) (p : Nat) : State :=
  let mine := s.hl.npr.filter (fun r => r.port == p)
  let s := { s with hl := { s.hl with npr := s.hl.npr.filter (fun r => r.port != p) } }
  (mine.filter (fun r => !r.quar)).foldl (fun s r =>
    if r.slice < 64 ∧ r.sgen ≠ s.curGen r.slice then s.lateGen r.slice else s.deliver r.what (.hostLinkDown, [])) s

/-- The slice bound to a PASID on the die of a port. -/
def State.sliceOfPasid (s : State) (p v : Nat) : Option Nat :=
  (List.range 64).find? (fun sl => (List.range 16).any (fun i => s.pasidAt sl p i == some v))

/-- Posted writes that wait are discarded, and what could not be written is logged for its slice (R394). -/
def State.dropPosts (s : State) (p : Nat) : State :=
  (s.port p).held.foldl (fun s h =>
    match (if h.bytes.isEmpty then none else s.sliceOfPasid p h.pasid) with
    | some sl => s.faultLog sl 1 .hostLinkDown 0xFFFF 0 h.addr
    | none => s) (s.setPort p { s.port p with held := [] })

/-- PERST_N low, a hot reset or a link down, R367, R422, R506: the link logic and the configuration state of the three functions at reset
values; grant and aperture entries stay. -/
def State.portReset (s : State) (p : Nat) : State :=
  let s := (s.endReads p).dropPosts p
  let s := s.setPort p PortX.init
  let s := (s.rset HIF_LINK_STATUS 0 p).event HIF_ERR_STATUS_LINK_DOWN p
  (s.nvmReset p).tmtPortGone p

/-- PORT_RESET, R49, R73, R367: with PERST_N the port stays out of training until the pin rises. A device reset absorbs the rest. -/
def execPortReset (port : Nat) (perst : Bool) (s : State) : Host.Outcome State Fault Refusal :=
  if port > 7 then .next s
  else
    let s := if perst && !s.pw.perstLow.contains port then s.setPw { s.pw with perstLow := s.pw.perstLow ++ [port] } else s
    .next (if s.pw.devReset then s else s.portReset port)

/-- PERST_N_RELEASE, R73: the port may train. -/
def execPerstNRelease (port : Nat) (s : State) : Host.Outcome State Fault Refusal :=
  .next (s.setPw { s.pw with perstLow := s.pw.perstLow.filter (· != port) })

/-- Configuration words, MSI-X table and pending bits of a function at reset values. -/
def PortX.resetFn (x : PortX) (fn : Nat) : PortX :=
  { x with cfg := smDelIf x.cfg (fun k => k / 4096 == fn), msix := smDelIf x.msix (fun k => k / 0x10000 == fn),
           pend := x.pend.filter (fun k => k / 4096 != fn) }

/-- FLR_FUNCTION0, R367: the drain of the port's queues begins, its host DMA channels stop with SQUASHED. -/
def execFlrFunction0 (port : Nat) (s : State) : Host.Outcome State Fault Refusal :=
  if port > 7 ∨ !(s.port port).up then .next s
  else
    let e := 240 + port / 4
    let ks := (List.range 64).filter (fun k => s.fon DMA_CHAN_OWNER_VALID e k && s.dport e k == port)
    let s := ks.foldl (fun s k => s.dmaSquash e k) s
    .next (s.setPort port { (s.port port).resetFn 0 with flr := some s.pw.onTicks })

/-- Has the drain of a port's queues ended: nothing of theirs is left, or 50 ms have passed (R367)? -/
def State.flrDrained (s : State) (p : Nat) : Bool :=
  match (s.port p).flr with
  | none => false
  | some t => decide (s.pw.onTicks + 1 ≥ t + 5000) ||
      (s.hl.wqs.all (fun q => q.2.port != p || q.2.ready.isEmpty) && s.works.all (fun w => w.2.port != p) && s.cph.reqs.all (fun r => r.port != p))

/-- FLR_DRAIN_END, R367: what the drain has left of the queues' work ends with SQUASHED. -/
def execFlrDrainEnd (port : Nat) (s : State) : Host.Outcome State Fault Refusal :=
  if port > 7 ∨ !s.flrDrained port then .next s
  else
    let s := s.setPort port { s.port port with flr := none }
    let s := (s.squashReady (fun q => q.port == port)).squashWorks (fun w => w.port == port)
    .next (s.endCipher (fun r => r.port == port) .squashed)

/-- FLR_FUNCTION1, R367, R422: controller reset, with the function's configuration state (R70). -/
def execFlrFunction1 (port : Nat) (s : State) : Host.Outcome State Fault Refusal :=
  if port > 7 ∨ !(s.port port).up ∨ s.bootState = 7 ∨ s.bootState = 8 then .next s
  else .next ((s.setPort port ((s.port port).resetFn 1)).nvmReset port)

/-- FLR_FUNCTION2, R367, R506. -/
def execFlrFunction2 (port : Nat) (s : State) : Host.Outcome State Fault Refusal :=
  if port > 7 ∨ !(s.port port).up ∨ s.bootState = 7 ∨ s.bootState = 8 then .next s
  else .next ((s.setPort port ((s.port port).resetFn 2)).tmtPortGone port)

/-! ### Reference clocks, R636 -/

/-- REFCLK_LOSS, R636: the reference of host port k, or of network die k. -/
def execRefclkLoss (net : Bool) (k : Nat) (s : State) : Host.Outcome State Fault Refusal :=
  let n := if net then 8 + k else k
  if (if net then decide (k > 1) else decide (k > 7)) ∨ s.pw.refLost.contains n then .next s
  else
    let s := s.setPw { s.pw with refLost := s.pw.refLost ++ [n] }
    if s.pw.devReset then .next s
    else if net then .next ((List.range 8).foldl (fun s j => if s.linkUp k j then s.portDown k j else s) s)
    else .next (s.portReset k)

/-- REFCLK_RETURN, R636: the PLLs relock, and the ports may train. -/
def execRefclkReturn (net : Bool) (k : Nat) (s : State) : Host.Outcome State Fault Refusal :=
  .next (s.setPw { s.pw with refLost := s.pw.refLost.filter (· != (if net then 8 + k else k)) })

/-- Every Ethernet lane is down and no gate list runs, as in M2 (R65, R67, R457). -/
def State.lanesDown (s : State) : State :=
  (List.range 16).foldl (fun s n => (if s.linkUp (n / 8) (n % 8) then s.portDown (n / 8) (n % 8) else s).gateSleep (n / 8) (n % 8)) s

/-! ### The bristle clock, R31, R644 -/

/-- BRISTLE_CLOCK_CHANGE, R31, R644: firmware's setting for a palette (400 MHz to 1.6 GHz in 100 MHz, none: unchanged) and the gesso
domain's cap decide; when the clock switches, each running bristle holds for up to 32 cycles, a free value. -/
def execBristleClockChange (p : Nat) (fw : Option Nat) (s : State) : Host.Outcome State Fault Refusal :=
  if p > 9 ∨ s.pw.devReset ∨ fw.any (fun c => decide (c < 4 ∨ 16 < c)) then .next s
  else
    let s := match fw with | some c => s.setPw { s.pw with fwClk := smSet s.pw.fwClk p c } | none => s
    let c := s.clockTarget p
    if smGetD s.pw.clk p 16 = c then .next s
    else
      let s := (s.countSpins p).setPw { s.pw with clk := smSet s.pw.clk p c }
      .next (((List.range 384).filter (fun i => s.brRuns (384 * p + i))).foldl (fun (s : State) i =>
        let b := 384 * p + i
        let (n, s) := s.fresh 6
        (s.setBr b ((s.br b).tick 0 (n % 33))).slots b 3 (n % 33)) s)

end Machine
end Sys2Proof
end

