-- ==== Sys2Proof/Machine/Power.lean ====
section
/-!
DEFINITION. The gesso domain's events: input, current, heat, pins, module states (spec 02 R51 to R69, 27 R631 to R634).
-/
namespace Sys2Proof
namespace Machine

/-! ### The input -/

/-- WARNING is entered, R57: the cap, WARN_EVT, the dip counter, the dip's minimum. -/
def State.enterWarning (s : State) (vin : Nat) : State :=
  let s := s.fset GSO_PWR_STATUS_VIN_STATE 1
  let s := (s.evAdd 4 1).gsoEvent 3
  (s.setPw { s.pw with dwell := 0, warnSamples := 0, dipMin := vin, calm := 0 }).setCaps

/-- BROWNOUT is entered, R59: BOR_EVT, the count, and the device reset. -/
def State.enterBrownout (s : State) : State :=
  let s := s.endDip
  let s := (s.fset GSO_PWR_STATUS_VIN_STATE 2).setCaps
  let s := (s.evAdd 3 1).gsoEvent 4
  let s := s.doDeviceReset .brownout
  s.setPw { s.pw with dwell := 0 }

/-- Records a sample in GSO_VIN and GSO_IIN and in the event store's minimum (R57, R69), and how many samples in succession the current has
stood at a level of R53: 39.0 A, below 36.0 A, 44 A. -/
def State.recordSample (s : State) (vin iin : Nat) : State :=
  let m := if s.pw.vinMinClr then vin else min vin (s.fget GSO_VIN_VIN_MIN)
  let s := (s.fset GSO_VIN_VIN_NOW vin).fset GSO_VIN_VIN_MIN m
  let s := (s.fset GSO_IIN_IIN_NOW iin).evMin 5 vin
  s.setPw { s.pw with vinMinClr := false
                      iinHigh := if iin ≥ 3900 then s.pw.iinHigh + 1 else 0
                      iinLow := if iin < 3600 then s.pw.iinLow + 1 else 0
                      iinTrip := if iin ≥ 4400 then s.pw.iinTrip + 1 else 0 }

/-- What the passing of 10 µs counts: power-on time in M0 to M2, the calendar, calm time without an emergency, time since t0, in RUNNING and
in RESTARTING, time with every sensor low enough for a fall; while the dies run, device time (R601) and what slices' quota changes and
resets wait for (R383 to R389). -/
def State.passTick (s : State) : State :=
  let s := s.setPw { s.pw with
    onTicks := if s.fget GSO_MSTATE_STATE = 3 then s.pw.onTicks else s.pw.onTicks + 1
    rtcTicks := s.pw.rtcTicks + 1
    calm := if s.emergency then 0 else s.pw.calm + 1
    sinceT0 := if s.pw.devReset then 0 else s.pw.sinceT0 + 1
    runTicks := if s.bootState = 5 then s.pw.runTicks + 1 else 0
    restartTicks := if s.bootState = 6 then s.pw.restartTicks + 1 else 0
    thermCalm := if s.allBelow (s.fget GSO_THERM_STATUS_THERM_STATE) 5 then s.pw.thermCalm + 1 else 0 }
  if s.pw.devReset || s.fget GSO_MSTATE_STATE == 3 then s else (s.passTime 10000).settleSlices

/-- Counts a sample towards the 10 ms at or above the release level (R56, R58). -/
def State.dwellStep (s : State) (vin : Nat) : State :=
  s.setPw { s.pw with dwell := if vin ≥ s.vinRelease then s.pw.dwell + 1 else 0 }

/-- The input state after a sample, R56 and R58. A power-up waits for its dwell. With PWR_EN low and the switch open the state is
INPUT_OFF, which a gesso power-up reaches with its first sample (R56 against the reset value 0 of GSO_PWR_STATUS: DEDUCED, log entry 36).
BROWNOUT is entered from any state but one a trip has left with the switch open. -/
def State.inputStep (s : State) (vin : Nat) : State :=
  let st := s.fget GSO_PWR_STATUS_VIN_STATE
  if s.pw.powerUp ∨ st = 2 then s.dwellStep vin
  else if vin < 1900 ∧ !s.pw.offTrip then s.enterBrownout
  else if !s.pw.pwrEn && !s.pw.swClosed then s.fset GSO_PWR_STATUS_VIN_STATE 3
  else if st = 0 ∧ vin < s.vinWarn then s.enterWarning vin
  else if st = 1 then
    (s.setPw { s.pw with warnSamples := s.pw.warnSamples + 1, dipMin := min s.pw.dipMin vin }).dwellStep vin
  else s

/-- INPUT_SAMPLE, R56 to R58: voltages in 20 mV, currents in 10 mA. -/
def execInputSample (vin iin : Nat) (s : State) : Host.Outcome State Fault Refusal :=
  if s.pw.lockout then .next s else .next (((s.recordSample vin iin).inputStep vin).passTick)

/-- The device reset is released where nothing else holds it: the rails up, MOD_RESET_N high, the module not in M3 (R52, R56). -/
def State.releaseIfUp (s : State) : State :=
  if s.pw.modResetN && s.pw.swClosed && s.fget GSO_MSTATE_STATE != 3 then s.releaseReset else s

/-- INPUT_DWELL_COMPLETE, R56: 10 ms, which is 1,000 samples, at or above the release level. A BROWNOUT whose PWR_EN is low by then ends in
INPUT_OFF (DEDUCED, log entry 36). -/
def execInputDwellComplete (s : State) : Host.Outcome State Fault Refusal :=
  if s.pw.dwell < 1000 ∨ s.pw.lockout then .next s
  else if s.pw.powerUp then
    let s := (s.fset GSO_PWR_STATUS_VIN_STATE 0).setCaps
    .next ((s.setPw { s.pw with powerUp := false, dwell := 0 }).fset GSO_MSTATE_STATE 0).releaseIfUp
  else if s.fget GSO_PWR_STATUS_VIN_STATE = 1 then
    let s := s.endDip
    let s := (s.fset GSO_PWR_STATUS_VIN_STATE 0).setCaps
    .next (s.setPw { s.pw with dwell := 0 })
  else if s.fget GSO_PWR_STATUS_VIN_STATE = 2 then
    let s := (s.fset GSO_PWR_STATUS_VIN_STATE (if s.pw.pwrEn || s.pw.swClosed then 0 else 3)).setCaps
    .next (s.setPw { s.pw with dwell := 0 }).releaseIfUp
  else .next s

/-- CURRENT_THROTTLE, R53, R60: at or above 39.0 A for 100 µs. -/
def execCurrentThrottle (s : State) : Host.Outcome State Fault Refusal :=
  if s.pw.lockout ∨ s.pw.iinHigh < 10 then .next s
  else
    let s := s.fset GSO_PWR_STATUS_OC_THROTTLE 1
    .next (s.setPw { s.pw with calm := 0 }).setCaps

/-- CURRENT_THROTTLE_RELEASE, R53, R60: below 36.0 A for 10 ms. -/
def execCurrentThrottleRelease (s : State) : Host.Outcome State Fault Refusal :=
  if s.pw.lockout ∨ s.pw.iinLow < 1000 then .next s else .next (s.fset GSO_PWR_STATUS_OC_THROTTLE 0).setCaps

/-- The hot-swap switch opens and INPUT_OFF is entered (R56, R60, R632): event bit n, lifetime item i. The dies lose
their power, so the device reset is asserted and the module is in M3. -/
def State.tripOff (s : State) (n item : Nat) : State :=
  let s := s.endDip
  let s := (s.fset GSO_PWR_STATUS_VIN_STATE 3).setCaps
  let s := (s.evAdd item 1).gsoEvent n
  let s := s.doDeviceReset .other
  (s.setPw { s.pw with swClosed := false, powerUp := false, offTrip := true, dwell := 0 }).fset GSO_MSTATE_STATE 3

/-- CURRENT_TRIP, R53, R60: 44 A for 1 ms. -/
def execCurrentTrip (s : State) : Host.Outcome State Fault Refusal :=
  if s.pw.lockout ∨ s.pw.iinTrip < 100 then .next s else .next (s.tripOff 6 6)

/-- OVERVOLTAGE_TRIP, R53, R60: 62.0 V for 10 µs, which is one sample. -/
def execOvervoltageTrip (s : State) : Host.Outcome State Fault Refusal :=
  if s.pw.lockout ∨ s.fget GSO_VIN_VIN_NOW < 3100 then .next s else .next (s.tripOff 5 7)

/-- RAIL_FAULT, R632: as for a current trip. -/
def execRailFault (s : State) : Host.Outcome State Fault Refusal :=
  if s.pw.lockout ∨ !s.pw.swClosed then .next s else .next (s.tripOff 6 6)

/-- GESSO_LOCKOUT, R53, R54 and R634: below 30.0 V the gesso domain and the RTC stop, so what is volatile in them is lost. -/
def execGessoLockout (s : State) : Host.Outcome State Fault Refusal :=
  if s.fget GSO_VIN_VIN_NOW ≥ 1500 then .next s
  else
    let s := s.doDeviceReset .gessoPowerUp
    .next ((s.setPw { s.pw with lockout := true, swClosed := false, powerUp := false, dwell := 0, onTicks := 0,
                                rtcTicks := 0, calValid := false }).fset GSO_MSTATE_STATE 3)

/-- The coolant pin as the gesso domain finds it: low is CRITICAL at once (R61). -/
def State.coolantNow (s : State) (rise : State → Nat → State) : State :=
  if s.pw.coolantFaultN then s else rise (s.fset GSO_THERM_STATUS_COOLANT_FAULT 1) 2

/-- GESSO_POWER_UP, R53, R70 and R631: the input rises through 32.0 V. Every block instance, the GSO block and the calendar are reset; flash,
the event store and its dip entries stay. With PWR_EN high the power-up sequence starts. VIN_STATE keeps its reset value 0 of R69
until the first sample (DEDUCED, log entry 36). -/
def State.gessoPowerUp (s : State) : State :=
  let s := s.doDeviceReset .gessoPowerUp
  let s := s.resetRegs (fun _ => true)
  let s := s.setPw { Power.reset with
    pwrEn := s.pw.pwrEn, modResetN := s.pw.modResetN, coolantFaultN := s.pw.coolantFaultN, ga := s.pw.ga, uartTx := s.pw.uartTx,
    uartRx := s.pw.uartRx, perstLow := s.pw.perstLow, refLost := s.pw.refLost, evStore := s.pw.evStore, dips := s.pw.dips }
  ({ s with atl := { s.atl with lifeAgeS := 0 } } : State).evAdd 1 1

/-! ### Heat -/

/-- Sets an event bit of GSO_THERM_STATUS. -/
def State.thermEvent (s : State) (n : Nat) : State :=
  s.rset GSO_THERM_STATUS (putBits (s.rget GSO_THERM_STATUS) n n 1)

/-- TRIP, R62: the device reset and M3, FAULT_N and THERM_N low, recorded. -/
def State.thermTrip (s : State) : State :=
  let s := ((s.fset GSO_THERM_STATUS_THERM_STATE 3).thermEvent 6).evAdd 8 1
  let s := s.setCaps.doDeviceReset .thermalTrip
  (s.setPw { s.pw with thermTrip := true, thermPwrLow := false, powerUp := false, swClosed := false, calm := 0 }).fset GSO_MSTATE_STATE 3

/-- The thermal state moves straight to a higher level (R62). -/
def State.thermRise (s : State) (l : Nat) : State :=
  if l ≤ s.fget GSO_THERM_STATUS_THERM_STATE then s
  else if l ≥ 3 then s.thermTrip
  else
    let s := (s.fset GSO_THERM_STATUS_THERM_STATE l).thermEvent (if l = 1 then 4 else 5)
    let s := if l = 2 then s.evAdd 9 1 else s
    (s.setPw { s.pw with calm := 0, thermCalm := 0 }).setCaps

/-- GESSO_POWER_UP, R53, R61, R631: the input stands at or above 32.0 V after a lockout. A coolant pin that is low is CRITICAL at once; with
PWR_EN high the power-up sequence starts. -/
def execGessoPowerUp (s : State) (vin : Nat := 1600) : Host.Outcome State Fault Refusal :=
  if !s.pw.lockout ∨ vin < 1600 then .next s
  else
    let s := s.gessoPowerUp.coolantNow State.thermRise
    .next (if s.pw.pwrEn then s.startPowerUp else s)

/-- THERMAL_DWELL_FALL, R62: one level down, when every source has stood 5 °C below the level left for 10 ms. -/
def execThermalDwellFall (s : State) : Host.Outcome State Fault Refusal :=
  let t := s.fget GSO_THERM_STATUS_THERM_STATE
  if s.pw.lockout ∨ s.pw.thermCalm < 1000 ∨ !s.allBelow t 5 then .next s
  else if t = 1 then .next ((s.setPw { s.pw with thermCalm := 0 }).fset GSO_THERM_STATUS_THERM_STATE 0).setCaps
  else if t = 2 && s.pw.coolantFaultN then .next ((s.setPw { s.pw with thermCalm := 0 }).fset GSO_THERM_STATUS_THERM_STATE 1).setCaps
  else .next s

/-- COOLANT_FAULT, R61: COOLANT_FAULT_N goes low. -/
def execCoolantFault (s : State) : Host.Outcome State Fault Refusal :=
  let s := s.setPw { s.pw with coolantFaultN := false }
  .next (if s.pw.lockout then s else s.coolantNow State.thermRise)

/-- COOLANT_FAULT_RELEASE, R62: the pin returns high. -/
def execCoolantFaultRelease (s : State) : Host.Outcome State Fault Refusal :=
  let s := s.setPw { s.pw with coolantFaultN := true }
  .next (if s.pw.lockout then s else s.fset GSO_THERM_STATUS_COOLANT_FAULT 0)

/-- The hottest die junction of a set of readings. -/
def hottestDie (l : List Nat) : Nat := l.foldl max 0

/-- Numbers a list of readings from a first sensor on. -/
def numberFrom (n : Nat) : List Nat → List (Nat × Nat)
  | [] => []
  | t :: ts => (n, t) :: numberFrom (n + 1) ts

/-- Per-stack temperature and doubled refresh: a stack at or above 85 °C refreshes at twice the rate (R62, R208). -/
def State.stackTemps (s : State) : List (Nat × Nat) → State
  | [] => s
  | (m, t) :: ts =>
    let s := s.fset MEM_STATUS_TEMP t m
    let s := s.fset MEM_STATUS_REFRESH_2X (if t ≥ 85 then 1 else 0) m
    s.stackTemps ts

/-- The gesso domain takes the sensors' readings, R61, R62, R69 and R605 items 10 and 18: the hottest sensor, the stacks' temperatures, the
extremes; the worst reading may raise the thermal state. -/
def State.readSensors (s : State) (temps : List (Nat × Nat)) : State :=
  let s := s.setPw { s.pw with temps := temps }
  let s := match hottest temps with
    | some (i, t) => s.rset GSO_THERM_HOT (smGetD temps 40 0 % 256 * 0x1000000 + s.pw.coolantOut % 256 * 0x10000 + i * 256 + t % 256)
    | none => s
  let s := s.stackTemps ((temps.filter (fun q => decide (20 ≤ q.1 ∧ q.1 < 40))).map (fun q => (q.1 - 20, q.2)))
  let hot := hottestDie ((temps.filter (fun q => decide (q.1 < 20))).map (·.2))
  let s := s.evMax 18 hot
  let s := if hot < 45 then s.setPw { s.pw with cycleArmed := true }
           else if hot > 85 && s.pw.cycleArmed then (s.setPw { s.pw with cycleArmed := false }).evAdd 10 1 else s
  s.thermRise ((temps.map (fun q => thermLevel q.1 q.2)).foldl max 0)

/-- THERMAL_SENSOR_SAMPLE, R61, R62, R69: all the sensors at once. -/
def execThermalSensorSample (dies mems : List Nat) (inlet outlet : Nat) (s : State) : Host.Outcome State Fault Refusal :=
  if s.pw.lockout then .next s
  else
    let s := s.setPw { s.pw with coolantOut := outlet }
    .next (s.readSensors (numberFrom 0 (dies.take 20) ++ numberFrom 20 (mems.take 20) ++ [(40, inlet)]))

/-- THERMAL_STATE_RISE, R62: one sensor's reading changes, to a higher level or not. -/
def execThermalStateRise (sensor temp : Nat) (s : State) : Host.Outcome State Fault Refusal :=
  if s.pw.lockout ∨ sensor > 40 then .next s else .next (s.readSensors (smSet s.pw.temps sensor temp))

/-! ### Pins -/

/-- PWR_EN_FALL, R633 and R56: the device reset, the rails off, INPUT_OFF and M3. Below the lockout level only the pin changes (R54). -/
def execPwrEnFall (s : State) : Host.Outcome State Fault Refusal :=
  if s.pw.lockout then .next (s.setPw { s.pw with pwrEn := false })
  else
    let s := s.endDip
    let s := s.doDeviceReset .other
    let s := (s.fset GSO_PWR_STATUS_VIN_STATE 3).setCaps
    .next ((s.setPw { s.pw with pwrEn := false, swClosed := false, powerUp := false, dwell := 0, thermPwrLow := true }).fset GSO_MSTATE_STATE 3)

/-- PWR_EN_RISE, R56, R62 and R66: an M3 entered by a thermal trip is left only when PWR_EN has been low and every
source is below its WARN level; INPUT_OFF after a trip only with the input in range. A coolant pin that is low then is CRITICAL at once. -/
def execPwrEnRise (s : State) : Host.Outcome State Fault Refusal :=
  let s := s.setPw { s.pw with pwrEn := true }
  if s.pw.lockout then .next s
  else if s.pw.thermTrip then
    if s.pw.thermPwrLow && s.allCool then
      let s := (s.fset GSO_THERM_STATUS_THERM_STATE 0).setCaps
      .next ((s.setPw { s.pw with thermTrip := false }).coolantNow State.thermRise).startPowerUp
    else .next s
  else if s.fget GSO_MSTATE_STATE = 3 then
    if s.pw.offTrip && !s.vinInRange then .next s else .next s.startPowerUp
  else .next s

/-- MOD_RESET_ASSERT, R51 and R52: with PWR_EN low the module is in M3 and no device reset is held. -/
def execModResetAssert (s : State) : Host.Outcome State Fault Refusal :=
  let s := s.setPw { s.pw with modResetN := false }
  if s.pw.pwrEn && !s.pw.lockout then .next (s.doDeviceReset .modReset) else .next s

/-- MOD_RESET_RELEASE, R52: the held device reset is released once the rails are up. -/
def execModResetRelease (s : State) : Host.Outcome State Fault Refusal :=
  let s := s.setPw { s.pw with modResetN := true }
  if !s.pw.lockout && !s.pw.powerUp && s.fget GSO_PWR_STATUS_VIN_STATE < 2 then .next s.releaseIfUp else .next s

/-- WAKE_N_PULSE, R51, R56 and R66. -/
def execWakeNPulse (s : State) : Host.Outcome State Fault Refusal :=
  if !s.pw.pwrEn ∨ s.pw.lockout then .next s
  else if s.fget GSO_MSTATE_STATE = 2 then .next s.wakeModule
  else if s.fget GSO_MSTATE_STATE = 3 then
    if s.pw.thermTrip || s.pw.powerUp then .next s
    else if s.pw.offTrip && !s.vinInRange then .next s
    else .next s.startPowerUp
  else .next s

/-! ### Module states -/

/-- Is nothing at work that keeps the module out of M1 (R66): no bristle that runs and is not parked, no DMA transfer, no contribution on
its way, no migration? -/
def State.idle (s : State) : Bool :=
  s.brs.all (fun p => !s.brRuns p.1 || s.syn.parked.contains (p.1 / 16)) && s.dmaIdle && s.syn.granted.isEmpty &&
    s.brs.all (fun p => (s.headGsend p.1).isNone) && s.cmp.copies.isEmpty

/-- M1_ENTRY, R65, R66 and R68: a wake event that arrives during the entry is served once the entry is finished. -/
def execM1Entry (wake : Bool) (s : State) : Host.Outcome State Fault Refusal :=
  if s.fget GSO_MSTATE_STATE = 0 && s.fon GSO_MSTATE_CTL_M1_IDLE_US && !s.pw.devReset && s.idle then
    let s := (m1Domains.foldl State.gate s).selfRefresh.fset GSO_MSTATE_STATE 1
    .next (if wake then s.wakeModule else s)
  else .next s

/-- M2_ENTRY, R67: M2 is enabled and nothing blocks it; Ethernet lanes go down and dump sets suspend (R600). -/
def execM2Entry (wake : Bool) (s : State) : Host.Outcome State Fault Refusal :=
  if s.fget GSO_MSTATE_STATE = 1 && s.m2Blockers = 0 then
    let s := (m2Domains.foldl State.gate s).fset GSO_MSTATE_STATE 2
    let s := s.lanesDown.suspendDumps
    .next (if wake then s.wakeModule else s)
  else .next s

/-- MODULE_WAKE, R66: from M1 any work or control access, from M2 a PCI Express request, an SMBus command or WAKE_N. -/
def execModuleWake (src : WakeSource) (s : State) : Host.Outcome State Fault Refusal :=
  if s.fget GSO_MSTATE_STATE = 1 then
    (match src with
     | .work | .controlAccess => .next s.wakeModule
     | .pcie | .smbus | .wakeN => .next s)
  else if s.fget GSO_MSTATE_STATE = 2 then
    (match src with
     | .pcie | .smbus | .wakeN => .next s.wakeModule
     | .work | .controlAccess => .next s)
  else .next s

/-! ### Registers of the gesso domain with commands of their own -/

/-- GSO_VIN_WARN_WRITE, R69. -/
def execGsoVinWarnWrite (val : Nat) (s : State) : Host.Outcome State Fault Refusal := .next (s.writeVinWarn val)

/-- VIN_MIN_CLR, R69: VIN_MIN takes the value of the next sample. -/
def execVinMinClr (s : State) : Host.Outcome State Fault Refusal := .next (s.setPw { s.pw with vinMinClr := true })

end Machine
end Sys2Proof
end

