-- ==== Sys2Proof/Machine/Flags.lean ====
section
/-!
DEFINITION. The sticky saturation flags VSAT (spec 07 R174 to R179, 04 R107): which instructions set which bits, when a
program sees them, and results that carry flags.
-/
namespace Sys2Proof
namespace Machine

/-- Writes a vector result whose VSAT bits 4 and 5 every later instruction sees (R175, R179). -/
def State.putVecSat (s : State) (b vd : Nat) (r : Vec × Nat) : State := s.setBr b (((s.br b).setV vd r.1).sat r.2)

/-- Writes a general-register result with its VSAT bits. -/
def State.putGprSat (s : State) (b gd : Nat) (r : Nat × Nat) : State :=
  s.setBr b (((s.br b).setG gd (BitVec.ofNat 64 r.1)).sat r.2)

/-- The vector unit is occupied for n beats from the issue cycle, R114 and R133. -/
def State.occupy (s : State) (b n : Nat) : State := s.setBr b { s.br b with busy := (s.br b).pcyc + n }

end Machine
end Sys2Proof
end

