-- ==== Sys2Proof/Machine/VectorUnit.lean ====
section
/-!
DEFINITION. The vector unit's instructions (spec 05 R148 to R151, 07 R171 to R178, 04 R114 to R116).
-/
namespace Sys2Proof
namespace Machine

/-- VMAC, R114, R116, R149: adds to the pending value, visible six pipeline cycles after its last beat, c + 3. -/
def execVmac (w : Issue) (a va vb ge fmt : Nat) (s : State) : Host.Outcome State Fault Refusal :=
  .next (s.issue w (aOk a && vOk va && vOk vb && gOk ge && decide (fmt ≤ 6) && (fmt == 6 || ge == 0)) [32 + va, 32 + vb, ge] true
    (fun _ s =>
      let br := s.br w.b
      let r := macLanes a fmt (br.v va) (br.v vb) (br.g ge).toNat (br.pendingAcc a)
      ((s.setBr w.b (br.writeAcc a r.1 (br.pcyc + 3) r.2)).occupy w.b 4, .fall 0)))

/-- ACCUMULATOR_VISIBLE, R115: accumulator writes due by the bristle's next pipeline cycle become visible. -/
def execAccumulatorVisible (b : Nat) (s : State) : Host.Outcome State Fault Refusal :=
  .next (s.setBr b ((s.br b).showAcc (fun w => decide (w.due ≤ (s.br b).pcyc))))

/-- An element-wise instruction of op 0x31, R149: formats 0, 3, 4, 5 and 7. -/
def elemI (op : ElemOp) (w : Issue) (vd va vb fmt : Nat) (s : State) : State :=
  s.issue w (vOk vd && vOk va && vOk vb && [0, 3, 4, 5, 7].contains fmt) [32 + va, 32 + vb] true (fun _ s =>
    let br := s.br w.b
    ((s.putVecSat w.b vd (elemVec op fmt (br.v va) (br.v vb))).occupy w.b 4, .fall 0))

/-- VADD, R149. -/
def execVadd (w : Issue) (vd va vb fmt : Nat) (s : State) : Host.Outcome State Fault Refusal := .next (elemI .add w vd va vb fmt s)
/-- VSUB, R149. -/
def execVsub (w : Issue) (vd va vb fmt : Nat) (s : State) : Host.Outcome State Fault Refusal := .next (elemI .sub w vd va vb fmt s)
/-- VMUL, R149. -/
def execVmul (w : Issue) (vd va vb fmt : Nat) (s : State) : Host.Outcome State Fault Refusal := .next (elemI .mul w vd va vb fmt s)
/-- VMAX, R149. -/
def execVmax (w : Issue) (vd va vb fmt : Nat) (s : State) : Host.Outcome State Fault Refusal := .next (elemI .max w vd va vb fmt s)
/-- VMIN, R149. -/
def execVmin (w : Issue) (vd va vb fmt : Nat) (s : State) : Host.Outcome State Fault Refusal := .next (elemI .min w vd va vb fmt s)

/-- VWACC, R149: w is 1.0 with W = 0 (and srcB zero), else gw[31:0]; the part p is below elements ÷ 16. -/
def execVwacc (w : Issue) (vd va gw p fmt : Nat) (weighted : Bool) (s : State) : Host.Outcome State Fault Refusal :=
  .next (s.issue w (vOk vd && vOk va && gOk gw && (weighted || gw == 0) && decide (fmt ≤ 5) && decide (p < fmtElems fmt / 16))
    [32 + vd, 32 + va, gw] true (fun _ s =>
      let br := s.br w.b
      let wt := if weighted then (br.g gw).toNat % 2 ^ 32 else 0x3F800000
      ((s.putVecSat w.b vd (vwaccVec fmt p (br.v vd) (br.v va) wt)).occupy w.b 4, .fall 0)))

/-- May a VCVT have this format (0 to 5, or 7)? -/
def cvtFmt (f : Nat) : Bool := decide (f ≤ 5) || f == 7

/-- The number of parts a VCVT may name, R150. -/
def cvtParts (dst src : Nat) : Nat :=
  let ns := fmtElems src
  let nd := fmtElems dst
  if nd < ns then ns / nd else if nd > ns then nd / ns else 1

/-- VCVT, R150 and R176 to R178. -/
def execVcvt (w : Issue) (vd va src p fmt : Nat) (stoch : Bool) (s : State) : Host.Outcome State Fault Refusal :=
  .next (s.issue w (vOk vd && vOk va && cvtFmt fmt && cvtFmt src && decide (p < cvtParts fmt src)) 
    (if fmtElems fmt > fmtElems src then [32 + va, 32 + vd] else [32 + va]) true (fun _ s =>
      let br := s.br w.b
      let r := vcvtVec fmt src p stoch (br.v vd) (br.v va) br.srState
      let s := s.putVecSat w.b vd (r.1, r.2.1)
      ((s.setBr w.b { s.br w.b with srState := r.2.2 }).occupy w.b 4, .fall 0)))

/-- VEXP, R175: BF16 or F32. -/
def execVexp (w : Issue) (vd va fmt : Nat) (s : State) : Host.Outcome State Fault Refusal :=
  .next (s.issue w (vOk vd && vOk va && (fmt == 3 || fmt == 5)) [32 + va] true (fun _ s =>
    ((s.putVecSat w.b vd (vexpVec fmt ((s.br w.b).v va))).occupy w.b 4, .fall 0)))

/-- VBC, R149: every element takes the low bits of the general register; no VSAT bit (R175). -/
def execVbc (w : Issue) (vd gs fmt : Nat) (s : State) : Host.Outcome State Fault Refusal :=
  .next (s.issue w (vOk vd && gOk gs && cvtFmt fmt) [gs] true (fun _ s =>
    let br := s.br w.b
    ((s.setBr w.b (br.setV vd (vmake fmt (List.replicate (fmtElems fmt) (br.g gs).toNat)))).occupy w.b 1, .fall 0)))

/-- ACLR, R151: zero to all sixteen lanes, in one beat. -/
def execAclr (w : Issue) (a : Nat) (s : State) : Host.Outcome State Fault Refusal :=
  .next (s.issue w (aOk a) [] true (fun _ s =>
    let br := s.br w.b
    ((s.setBr w.b (br.writeAcc a 0 br.pcyc 0)).occupy w.b 1, .fall 0)))

/-- VTOA, R151. -/
def execVtoa (w : Issue) (a v : Nat) (s : State) : Host.Outcome State Fault Refusal :=
  .next (s.issue w (aOk a && vOk v) [32 + v] true (fun _ s =>
    let br := s.br w.b
    ((s.setBr w.b (br.writeAcc a (br.v v) br.pcyc 0)).occupy w.b 1, .fall 0)))

/-- ATOV, R151: the visible lanes, unconverted. -/
def execAtov (w : Issue) (vd a : Nat) (s : State) : Host.Outcome State Fault Refusal :=
  .next (s.issue w (vOk vd && aOk a) [] true (fun _ s =>
    let br := s.br w.b
    ((s.setBr w.b (br.setV vd (br.a a))).occupy w.b 1, .fall 0)))

/-- A reduction of op 0x36, R151: reads the visible lanes; with C the accumulator is then cleared. -/
def ared (f : Nat → Vec → Nat × Nat) (w : Issue) (gd a fmt : Nat) (clear : Bool) (s : State) : State :=
  s.issue w (gOk gd && aOk a && (fmt == 5 || fmt == 7)) [] true (fun _ s =>
    let s := s.putGprSat w.b gd (f fmt ((s.br w.b).a a))
    let br := s.br w.b
    let s := if clear then s.setBr w.b (br.writeAcc a 0 br.pcyc 0) else s
    (s.occupy w.b 1, .fall 0))

/-- ARED.SUM, R151. -/
def execAredSum (w : Issue) (gd a fmt : Nat) (clear : Bool) (s : State) : Host.Outcome State Fault Refusal :=
  .next (ared aredSum w gd a fmt clear s)
/-- ARED.MAX, R151. -/
def execAredMax (w : Issue) (gd a fmt : Nat) (clear : Bool) (s : State) : Host.Outcome State Fault Refusal :=
  .next (ared aredMax w gd a fmt clear s)

end Machine
end Sys2Proof
end

