-- ==== Sys2Proof/Machine/Dispatch.lean ====
section
/-!
DEFINITION. The dispatch: one arm per command, each one direct call of that command's meaning.
-/
namespace Sys2Proof
namespace Machine

def exec (i : Instr) (s : State) : Host.Outcome State Fault Refusal :=
  match i with
  | .registerWrite who addr size val => Sys2Proof.Machine.execRegisterWrite who addr size val s
  | .latchingRead who addr size => Sys2Proof.Machine.execLatchingRead who addr size s
  | .blockLockSet addr => Sys2Proof.Machine.execBlockLockSet addr s
  | .fabricFlitRetry link sl => Sys2Proof.Machine.execFabricFlitRetry link s sl
  | .fabricLinkDown link recs ciphers chans loads flags contribs => Sys2Proof.Machine.execFabricLinkDown link recs ciphers chans s loads flags contribs
  | .powerDomainWake d => Sys2Proof.Machine.execPowerDomainWake d s
  | .bristleClockChange p fw => Sys2Proof.Machine.execBristleClockChange p fw s
  | .inputSample vin iin => Sys2Proof.Machine.execInputSample vin iin s
  | .inputDwellComplete => Sys2Proof.Machine.execInputDwellComplete s
  | .currentThrottle => Sys2Proof.Machine.execCurrentThrottle s
  | .currentThrottleRelease => Sys2Proof.Machine.execCurrentThrottleRelease s
  | .currentTrip => Sys2Proof.Machine.execCurrentTrip s
  | .overvoltageTrip => Sys2Proof.Machine.execOvervoltageTrip s
  | .gessoLockout => Sys2Proof.Machine.execGessoLockout s
  | .gessoPowerUp vin => Sys2Proof.Machine.execGessoPowerUp s vin
  | .railFault => Sys2Proof.Machine.execRailFault s
  | .thermalStateRise sensor temp => Sys2Proof.Machine.execThermalStateRise sensor temp s
  | .thermalDwellFall => Sys2Proof.Machine.execThermalDwellFall s
  | .coolantFault => Sys2Proof.Machine.execCoolantFault s
  | .pwrEnFall => Sys2Proof.Machine.execPwrEnFall s
  | .pwrEnRise => Sys2Proof.Machine.execPwrEnRise s
  | .modResetAssert => Sys2Proof.Machine.execModResetAssert s
  | .modResetRelease => Sys2Proof.Machine.execModResetRelease s
  | .wakeNPulse => Sys2Proof.Machine.execWakeNPulse s
  | .m1Entry wake => Sys2Proof.Machine.execM1Entry wake s
  | .m2Entry wake => Sys2Proof.Machine.execM2Entry wake s
  | .moduleWake src => Sys2Proof.Machine.execModuleWake src s
  | .gsoVinWarnWrite val => Sys2Proof.Machine.execGsoVinWarnWrite val s
  | .vinMinClr => Sys2Proof.Machine.execVinMinClr s
  | .deviceReset => Sys2Proof.Machine.execDeviceReset s
  | .coldBoot env => Sys2Proof.Machine.execColdBoot env s
  | .fwRecoverLoad ch len env => Sys2Proof.Machine.execFwRecoverLoad ch len env s
  | .atelierRestart cause logs => Sys2Proof.Machine.execAtelierRestart cause logs s
  | .watchdogExpiry logs => Sys2Proof.Machine.execWatchdogExpiry logs s
  | .restartDeadlineExpiry logs => Sys2Proof.Machine.execRestartDeadlineExpiry logs s
  | .trialConfirm => Sys2Proof.Machine.execTrialConfirm s
  | .fwUpdateBegin ch len flashOk => Sys2Proof.Machine.execFwUpdateBegin ch len flashOk s
  | .fwUpdateWrite ch first count flashOk got => Sys2Proof.Machine.execFwUpdateWrite ch first count flashOk s got
  | .fwUpdateVerify ch logs => Sys2Proof.Machine.execFwUpdateVerify ch logs s
  | .fwActivate ch => Sys2Proof.Machine.execFwActivate ch s
  | .fwActivateCancel ch => Sys2Proof.Machine.execFwActivateCancel ch s
  | .deferredActivationStart => Sys2Proof.Machine.execDeferredActivationStart s
  | .add w rd rs1 rs2 => Sys2Proof.Machine.execAdd w rd rs1 rs2 s
  | .sub w rd rs1 rs2 => Sys2Proof.Machine.execSub w rd rs1 rs2 s
  | .andI w rd rs1 rs2 => Sys2Proof.Machine.execAndI w rd rs1 rs2 s
  | .orI w rd rs1 rs2 => Sys2Proof.Machine.execOrI w rd rs1 rs2 s
  | .xorI w rd rs1 rs2 => Sys2Proof.Machine.execXorI w rd rs1 rs2 s
  | .sll w rd rs1 rs2 => Sys2Proof.Machine.execSll w rd rs1 rs2 s
  | .srl w rd rs1 rs2 => Sys2Proof.Machine.execSrl w rd rs1 rs2 s
  | .sra w rd rs1 rs2 => Sys2Proof.Machine.execSra w rd rs1 rs2 s
  | .slt w rd rs1 rs2 => Sys2Proof.Machine.execSlt w rd rs1 rs2 s
  | .sltu w rd rs1 rs2 => Sys2Proof.Machine.execSltu w rd rs1 rs2 s
  | .minI w rd rs1 rs2 => Sys2Proof.Machine.execMinI w rd rs1 rs2 s
  | .maxI w rd rs1 rs2 => Sys2Proof.Machine.execMaxI w rd rs1 rs2 s
  | .minu w rd rs1 rs2 => Sys2Proof.Machine.execMinu w rd rs1 rs2 s
  | .maxu w rd rs1 rs2 => Sys2Proof.Machine.execMaxu w rd rs1 rs2 s
  | .addi w rd rs1 imm => Sys2Proof.Machine.execAddi w rd rs1 imm s
  | .andi w rd rs1 imm => Sys2Proof.Machine.execAndi w rd rs1 imm s
  | .ori w rd rs1 imm => Sys2Proof.Machine.execOri w rd rs1 imm s
  | .xori w rd rs1 imm => Sys2Proof.Machine.execXori w rd rs1 imm s
  | .slti w rd rs1 imm => Sys2Proof.Machine.execSlti w rd rs1 imm s
  | .sltiu w rd rs1 imm => Sys2Proof.Machine.execSltiu w rd rs1 imm s
  | .lui w rd imm => Sys2Proof.Machine.execLui w rd imm s
  | .slli w rd rs1 imm => Sys2Proof.Machine.execSlli w rd rs1 imm s
  | .srli w rd rs1 imm => Sys2Proof.Machine.execSrli w rd rs1 imm s
  | .srai w rd rs1 imm => Sys2Proof.Machine.execSrai w rd rs1 imm s
  | .sli w rd rs1 imm => Sys2Proof.Machine.execSli w rd rs1 imm s
  | .ladr w rd imm => Sys2Proof.Machine.execLadr w rd imm s
  | .mul w rs1 rs2 => Sys2Proof.Machine.execMul w rs1 rs2 s
  | .mulu w rs1 rs2 => Sys2Proof.Machine.execMulu w rs1 rs2 s
  | .mulProductVisible b => Sys2Proof.Machine.execMulProductVisible b s
  | .mfsr w rd n => Sys2Proof.Machine.execMfsr w rd n s
  | .mtsr w n rs1 => Sys2Proof.Machine.execMtsr w n rs1 s
  | .beq w rs1 rs2 off => Sys2Proof.Machine.execBeq w rs1 rs2 off s
  | .bne w rs1 rs2 off => Sys2Proof.Machine.execBne w rs1 rs2 off s
  | .blt w rs1 rs2 off => Sys2Proof.Machine.execBlt w rs1 rs2 off s
  | .bge w rs1 rs2 off => Sys2Proof.Machine.execBge w rs1 rs2 off s
  | .bltu w rs1 rs2 off => Sys2Proof.Machine.execBltu w rs1 rs2 off s
  | .bgeu w rs1 rs2 off => Sys2Proof.Machine.execBgeu w rs1 rs2 off s
  | .j w tgt => Sys2Proof.Machine.execJ w tgt s
  | .call w tgt => Sys2Proof.Machine.execCall w tgt s
  | .jr w rs1 => Sys2Proof.Machine.execJr w rs1 s
  | .callr w rs1 => Sys2Proof.Machine.execCallr w rs1 s
  | .ret w => Sys2Proof.Machine.execRet w s
  | .eret w => Sys2Proof.Machine.execEret w s
  | .breakI w => Sys2Proof.Machine.execBreakI w s
  | .lb w rt m => Sys2Proof.Machine.execLb w rt m s
  | .lbu w rt m => Sys2Proof.Machine.execLbu w rt m s
  | .lh w rt m => Sys2Proof.Machine.execLh w rt m s
  | .lhu w rt m => Sys2Proof.Machine.execLhu w rt m s
  | .lw w rt m => Sys2Proof.Machine.execLw w rt m s
  | .lwu w rt m => Sys2Proof.Machine.execLwu w rt m s
  | .ld w rt m => Sys2Proof.Machine.execLd w rt m s
  | .vld w rt m => Sys2Proof.Machine.execVld w rt m s
  | .sb w rt m => Sys2Proof.Machine.execSb w rt m s
  | .sh w rt m => Sys2Proof.Machine.execSh w rt m s
  | .sw w rt m => Sys2Proof.Machine.execSw w rt m s
  | .sd w rt m => Sys2Proof.Machine.execSd w rt m s
  | .vst w rt m => Sys2Proof.Machine.execVst w rt m s
  | .vsta w rt m => Sys2Proof.Machine.execVsta w rt m s
  | .loadDataReturn b n => Sys2Proof.Machine.execLoadDataReturn b n s
  | .storeBufferDrain b => Sys2Proof.Machine.execStoreBufferDrain b s
  | .faultReload b => Sys2Proof.Machine.execFaultReload b s
  | .clusterFailure p c => Sys2Proof.Machine.execClusterFailure p c s
  | .vmac w a va vb ge fmt => Sys2Proof.Machine.execVmac w a va vb ge fmt s
  | .accumulatorVisible b => Sys2Proof.Machine.execAccumulatorVisible b s
  | .vadd w vd va vb fmt => Sys2Proof.Machine.execVadd w vd va vb fmt s
  | .vsub w vd va vb fmt => Sys2Proof.Machine.execVsub w vd va vb fmt s
  | .vmul w vd va vb fmt => Sys2Proof.Machine.execVmul w vd va vb fmt s
  | .vmax w vd va vb fmt => Sys2Proof.Machine.execVmax w vd va vb fmt s
  | .vmin w vd va vb fmt => Sys2Proof.Machine.execVmin w vd va vb fmt s
  | .vwacc w vd va gw p fmt weighted => Sys2Proof.Machine.execVwacc w vd va gw p fmt weighted s
  | .vcvt w vd va src p fmt stoch => Sys2Proof.Machine.execVcvt w vd va src p fmt stoch s
  | .vexp w vd va fmt => Sys2Proof.Machine.execVexp w vd va fmt s
  | .vbc w vd gs fmt => Sys2Proof.Machine.execVbc w vd gs fmt s
  | .aclr w a => Sys2Proof.Machine.execAclr w a s
  | .vtoa w a v => Sys2Proof.Machine.execVtoa w a v s
  | .atov w vd a => Sys2Proof.Machine.execAtov w vd a s
  | .aredSum w gd a fmt clear => Sys2Proof.Machine.execAredSum w gd a fmt clear s
  | .aredMax w gd a fmt clear => Sys2Proof.Machine.execAredMax w gd a fmt clear s
  | .nop who => Sys2Proof.Machine.execNop who s
  | .mov w d src => Sys2Proof.Machine.execMov w d src s
  | .signal w rs1 rs2 => Sys2Proof.Machine.execSignal w rs1 rs2 s
  | .wait w rd rs1 rs2 => Sys2Proof.Machine.execWait w rd rs1 rs2 s
  | .waitdec w rd rs1 rs2 => Sys2Proof.Machine.execWaitdec w rd rs1 rs2 s
  | .flagOperationArrive ops => Sys2Proof.Machine.execFlagOperationArrive ops s
  | .waitRelease b => Sys2Proof.Machine.execWaitRelease b s
  | .spinLimitReport b => Sys2Proof.Machine.execSpinLimitReport b s
  | .synRptPop p => Sys2Proof.Machine.execSynRptPop p s
  | .clusterPark p c => Sys2Proof.Machine.execClusterPark p c s
  | .flagAlloc ch => Sys2Proof.Machine.execFlagAlloc ch s
  | .flagFree ch handle => Sys2Proof.Machine.execFlagFree ch handle s
  | .gsend w vs gt gk => Sys2Proof.Machine.execGsend w vs gt gk s
  | .creditGrant bid => Sys2Proof.Machine.execCreditGrant bid s
  | .collectorContribution bid => Sys2Proof.Machine.execCollectorContribution bid s
  | .gatherContribution bid => Sys2Proof.Machine.execGatherContribution bid s
  | .gatherSlotArm unit slot val => Sys2Proof.Machine.execGatherSlotArm unit slot val s
  | .gatherSlotFree unit slot => Sys2Proof.Machine.execGatherSlotFree unit slot s
  | .brsRunSet b => Sys2Proof.Machine.execBrsRunSet b s
  | .brsRunClear b => Sys2Proof.Machine.execBrsRunClear b s
  | .brsInit b val => Sys2Proof.Machine.execBrsInit b val s
  | .brsConfigWrite b off val => Sys2Proof.Machine.execBrsConfigWrite b off val s
  | .palCmapWrite p n val => Sys2Proof.Machine.execPalCmapWrite p n val s
  | .codebookStoreWrite m off val => Sys2Proof.Machine.execCodebookStoreWrite m off val s
  | .codebookRewrite m slot => Sys2Proof.Machine.execCodebookRewrite m slot s
  | .stackRead who addr len codebook => Sys2Proof.Machine.execStackRead who addr len codebook s
  | .stackWrite who addr bytes => Sys2Proof.Machine.execStackWrite who addr bytes s
  | .ceWriteback burst => Sys2Proof.Machine.execCeWriteback burst s
  | .poisonRefetch burst reachable => Sys2Proof.Machine.execPoisonRefetch burst reachable s
  | .patrolScrubRead m => Sys2Proof.Machine.execPatrolScrubRead m s
  | .pseudoChannelFail m pc retrainFailed => Sys2Proof.Machine.execPseudoChannelFail m pc retrainFailed s
  | .softRepair m n val => Sys2Proof.Machine.execSoftRepair m n val s
  | .softRepairCopyDone m n => Sys2Proof.Machine.execSoftRepairCopyDone m n s
  | .locationRetire burst => Sys2Proof.Machine.execLocationRetire burst s
  | .stackRefresh m => Sys2Proof.Machine.execStackRefresh m s
  | .memLayout ch l n => Sys2Proof.Machine.execMemLayout ch l n s
  | .tableCreate ch addr places => Sys2Proof.Machine.execTableCreate ch addr places s
  | .tableDestroy ch handle => Sys2Proof.Machine.execTableDestroy ch handle s
  | .workQueueFetch sl q el => Sys2Proof.Machine.execWorkQueueFetch sl q el s
  | .lookup sl q idx bag wgt el => Sys2Proof.Machine.execLookup sl q idx bag wgt el s
  | .sparseUpdate sl q idx grad el => Sys2Proof.Machine.execSparseUpdate sl q idx grad el s
  | .workForward w places => Sys2Proof.Machine.execWorkForward w places s
  | .workRecordDone w n vals => Sys2Proof.Machine.execWorkRecordDone w n vals s
  | .outputDelivery w el => Sys2Proof.Machine.execOutputDelivery w el s
  | .cacheCreate ch addr => Sys2Proof.Machine.execCacheCreate ch addr s
  | .cacheDestroy ch handle => Sys2Proof.Machine.execCacheDestroy ch handle s
  | .seqCreate ch cache regions => Sys2Proof.Machine.execSeqCreate ch cache regions s
  | .seqTruncate ch handle len => Sys2Proof.Machine.execSeqTruncate ch handle len s
  | .seqDestroy ch handle => Sys2Proof.Machine.execSeqDestroy ch handle s
  | .attentionStep sl q ents qry new el => Sys2Proof.Machine.execAttentionStep sl q ents qry new el s
  | .attentionEntryStart w e runs places => Sys2Proof.Machine.execAttentionEntryStart w e runs places s
  | .kvAppend sl q src el => Sys2Proof.Machine.execKvAppend sl q src el s
  | .compositionScan p adds moves => Sys2Proof.Machine.execCompositionScan p adds moves s
  | .copyPassDone handle unit bytes => Sys2Proof.Machine.execCopyPassDone handle unit bytes s
  | .copyHeldDrained handle unit => Sys2Proof.Machine.execCopyHeldDrained handle unit s
  | .epochFlip handle unit => Sys2Proof.Machine.execEpochFlip handle unit s
  | .drainEnd handle => Sys2Proof.Machine.execDrainEnd handle s
  | .tierReadComplete w pos bytes => Sys2Proof.Machine.execTierReadComplete w pos bytes s
  | .tierReadFail w pos => Sys2Proof.Machine.execTierReadFail w pos s
  | .mapEntryRebuild handle unit => Sys2Proof.Machine.execMapEntryRebuild handle unit s
  | .turnEnd p c => Sys2Proof.Machine.execTurnEnd p c s
  | .turnSwitchComplete p c => Sys2Proof.Machine.execTurnSwitchComplete p c s
  | .placePin ch handle flags places => Sys2Proof.Machine.execPlacePin ch handle flags places s
  | .placeHint ch handle first count hot => Sys2Proof.Machine.execPlaceHint ch handle first count hot s
  | .placePromote ch handle first count places => Sys2Proof.Machine.execPlacePromote ch handle first count places s
  | .placeQuery ch handle => Sys2Proof.Machine.execPlaceQuery ch handle s
  | .placePolicy ch pb spill pct pinPlace t3 targets => Sys2Proof.Machine.execPlacePolicy ch pb spill pct pinPlace t3 targets s
  | .placeAdmin ch sl pin => Sys2Proof.Machine.execPlaceAdmin ch sl pin s
  | .cmpIndRead p => Sys2Proof.Machine.execCmpIndRead p s
  | .cmpIndWrite p => Sys2Proof.Machine.execCmpIndWrite p s
  | .dmaStart who e k val => Sys2Proof.Machine.execDmaStart who e k val s
  | .dmaPause who e k val => Sys2Proof.Machine.execDmaPause who e k val s
  | .dmaResume who e k val => Sys2Proof.Machine.execDmaResume who e k val s
  | .dmaAbort who e k val => Sys2Proof.Machine.execDmaAbort who e k val s
  | .dmaReload who e k val => Sys2Proof.Machine.execDmaReload who e k val s
  | .dmaNextWrite who e k hi val => Sys2Proof.Machine.execDmaNextWrite who e k hi val s
  | .dmaDescriptorFetch e k => Sys2Proof.Machine.execDmaDescriptorFetch e k s
  | .dmaCopy e k n => Sys2Proof.Machine.execDmaCopy e k n s
  | .dmaFill e k n => Sys2Proof.Machine.execDmaFill e k n s
  | .dmaSignal e k => Sys2Proof.Machine.execDmaSignal e k s
  | .dmaNop e k => Sys2Proof.Machine.execDmaNop e k s
  | .dmaSourceReturn e k => Sys2Proof.Machine.execDmaSourceReturn e k s
  | .dmaWriteback e k => Sys2Proof.Machine.execDmaWriteback e k s
  | .dmaPaused e k => Sys2Proof.Machine.execDmaPaused e k s
  | .dmaAlloc ch die port => Sys2Proof.Machine.execDmaAlloc ch die port s
  | .dmaFree ch chan => Sys2Proof.Machine.execDmaFree ch chan s
  | .configRequest port fn off write => Sys2Proof.Machine.execConfigRequest port fn off write s
  | .hostLinkUp port speed width flit => Sys2Proof.Machine.execHostLinkUp port speed width flit s
  | .portReset port perst => Sys2Proof.Machine.execPortReset port perst s
  | .flrFunction0 port => Sys2Proof.Machine.execFlrFunction0 port s
  | .flrFunction1 port => Sys2Proof.Machine.execFlrFunction1 port s
  | .flrFunction2 port => Sys2Proof.Machine.execFlrFunction2 port s
  | .functionD0Entry port fn => Sys2Proof.Machine.execFunctionD0Entry port fn s
  | .grantPageAccess port fn off size write => Sys2Proof.Machine.execGrantPageAccess port fn off size write s
  | .apertureAccess port off len write poison => Sys2Proof.Machine.execApertureAccess port off len write poison s
  | .wqDoorbell port off val => Sys2Proof.Machine.execWqDoorbell port off val s
  | .wqCreate ch pb ring size pasid port hwb vec => Sys2Proof.Machine.execWqCreate ch pb ring size pasid port hwb vec s
  | .wqReset ch q => Sys2Proof.Machine.execWqReset ch q s
  | .wqDestroy ch q => Sys2Proof.Machine.execWqDestroy ch q s
  | .hostReadCompletion port tag st bytes => Sys2Proof.Machine.execHostReadCompletion port tag st bytes s
  | .completionTimeout port idx => Sys2Proof.Machine.execCompletionTimeout port idx s
  | .unexpectedCompletion port tag hdr => Sys2Proof.Machine.execUnexpectedCompletion port tag hdr s
  | .tagQuarantineEnd port idx => Sys2Proof.Machine.execTagQuarantineEnd port idx s
  | .l1Entry port sub => Sys2Proof.Machine.execL1Entry port sub s
  | .ltrChange port => Sys2Proof.Machine.execLtrChange port s
  | .hifMapRead port => Sys2Proof.Machine.execHifMapRead port s
  | .hifMapWrite port => Sys2Proof.Machine.execHifMapWrite port s
  | .ctoSet ch port us => Sys2Proof.Machine.execCtoSet ch port us s
  | .sliceCreate ch sl => Sys2Proof.Machine.execSliceCreate ch sl s
  | .sliceDestroy ch sl => Sys2Proof.Machine.execSliceDestroy ch sl s
  | .sliceBind ch sl pb pasid idx mask => Sys2Proof.Machine.execSliceBind ch sl pb pasid idx mask s
  | .sliceUnbind ch sl idx => Sys2Proof.Machine.execSliceUnbind ch sl idx s
  | .sliceWindow ch sl w pb entry => Sys2Proof.Machine.execSliceWindow ch sl w pb entry s
  | .sliceQuota ch sl pb quotas holdMib take => Sys2Proof.Machine.execSliceQuota ch sl pb quotas holdMib take s
  | .clusterDrainTimeout sl => Sys2Proof.Machine.execClusterDrainTimeout sl s
  | .slicePhase ch sl phase => Sys2Proof.Machine.execSlicePhase ch sl phase s
  | .sliceReset ch sl scope => Sys2Proof.Machine.execSliceReset ch sl scope s
  | .sliceDrainEnd sl => Sys2Proof.Machine.execSliceDrainEnd sl s
  | .generationAdvance sl => Sys2Proof.Machine.execGenerationAdvance sl s
  | .sliceAttach ch d mode vec => Sys2Proof.Machine.execSliceAttach ch d mode vec s
  | .sliceDetach ch => Sys2Proof.Machine.execSliceDetach ch s
  | .dirtyStart ch sl regions => Sys2Proof.Machine.execDirtyStart ch sl regions s
  | .dirtyHarvest ch sl d addr => Sys2Proof.Machine.execDirtyHarvest ch sl d addr s
  | .dirtyStop ch sl => Sys2Proof.Machine.execDirtyStop ch sl s
  | .hostAbsentMark slot => Sys2Proof.Machine.execHostAbsentMark slot s
  | .holdSquash sl => Sys2Proof.Machine.execHoldSquash sl s
  | .slcMapRead die => Sys2Proof.Machine.execSlcMapRead die s
  | .slcMapWrite die => Sys2Proof.Machine.execSlcMapWrite die s
  | .controllerEnable c aqa asq acq cc => Sys2Proof.Machine.execControllerEnable c aqa asq acq cc s
  | .controllerReset c => Sys2Proof.Machine.execControllerReset c s
  | .shutdownRequest c shn => Sys2Proof.Machine.execShutdownRequest c shn s
  | .sqTailDoorbell c y val => Sys2Proof.Machine.execSqTailDoorbell c y val s
  | .cqHeadDoorbell c y val => Sys2Proof.Machine.execCqHeadDoorbell c y val s
  | .createIoSq c sqe => Sys2Proof.Machine.execCreateIoSq c sqe s
  | .deleteIoSq c sqe => Sys2Proof.Machine.execDeleteIoSq c sqe s
  | .createIoCq c sqe => Sys2Proof.Machine.execCreateIoCq c sqe s
  | .deleteIoCq c sqe => Sys2Proof.Machine.execDeleteIoCq c sqe s
  | .getLogPage c sqe lst => Sys2Proof.Machine.execGetLogPage c sqe lst s
  | .identifyNamespace c sqe => Sys2Proof.Machine.execIdentifyNamespace c sqe s
  | .identifyController c sqe => Sys2Proof.Machine.execIdentifyController c sqe s
  | .identifyNsList c sqe => Sys2Proof.Machine.execIdentifyNsList c sqe s
  | .identifyNsDescriptors c sqe => Sys2Proof.Machine.execIdentifyNsDescriptors c sqe s
  | .abort c sqe => Sys2Proof.Machine.execAbort c sqe s
  | .setFeatures c sqe data => Sys2Proof.Machine.execSetFeatures c sqe data s
  | .getFeatures c sqe => Sys2Proof.Machine.execGetFeatures c sqe s
  | .asyncEventRequest c sqe => Sys2Proof.Machine.execAsyncEventRequest c sqe s
  | .formatNvm c sqe recOk => Sys2Proof.Machine.execFormatNvm c sqe s recOk
  | .blockErase c sqe recOk => Sys2Proof.Machine.execBlockErase c sqe s recOk
  | .exitFailureMode c sqe => Sys2Proof.Machine.execExitFailureMode c sqe s
  | .nvmFlush c q sqe => Sys2Proof.Machine.execNvmFlush c q sqe s
  | .nvmWrite c q sqe lst data => Sys2Proof.Machine.execNvmWrite c q sqe lst data s
  | .nvmRead c q sqe lst => Sys2Proof.Machine.execNvmRead c q sqe lst s
  | .writeZeroes c q sqe => Sys2Proof.Machine.execWriteZeroes c q sqe s
  | .datasetManagement c q sqe ranges => Sys2Proof.Machine.execDatasetManagement c q sqe ranges s
  | .remoteTransferTimeout c q cid => Sys2Proof.Machine.execRemoteTransferTimeout c q cid s
  | .recordedOpChunk c recOk => Sys2Proof.Machine.execRecordedOpChunk c recOk s
  | .remoteWriteRetry c recOk => Sys2Proof.Machine.execRemoteWriteRetry c recOk s
  | .powerStateTransition c ps => Sys2Proof.Machine.execPowerStateTransition c ps s
  | .nsCreate ch pb kind lbaf nguid blocks conn rkey roff serial regions => Sys2Proof.Machine.execNsCreate ch pb kind lbaf nguid blocks conn rkey roff serial regions s
  | .nsDestroy ch ns => Sys2Proof.Machine.execNsDestroy ch ns s
  | .nsAttach ch ns c => Sys2Proof.Machine.execNsAttach ch ns c s
  | .nsDetach ch ns c => Sys2Proof.Machine.execNsDetach ch ns c s
  | .storAssign ch c valid sl => Sys2Proof.Machine.execStorAssign ch c valid sl s
  | .storRecordClear ch c => Sys2Proof.Machine.execStorRecordClear ch c s
  | .frameReceive die port frame fcsOk corr uncorr stamp => Sys2Proof.Machine.execFrameReceive die port frame fcsOk corr uncorr stamp s
  | .pfcPauseExpiry die port cls => Sys2Proof.Machine.execPfcPauseExpiry die port cls s
  | .pfcRepeat die port cls => Sys2Proof.Machine.execPfcRepeat die port cls s
  | .pfcXonSend die port cls => Sys2Proof.Machine.execPfcXonSend die port cls s
  | .mgmtFrame die ptp servo => Sys2Proof.Machine.execMgmtFrame die ptp s servo
  | .portLinkDown die port => Sys2Proof.Machine.execPortLinkDown die port s
  | .portLinkUp die port => Sys2Proof.Machine.execPortLinkUp die port s
  | .pktModeWrite who die val => Sys2Proof.Machine.execPktModeWrite who die val s
  | .profileSwitch who die port prof => Sys2Proof.Machine.execProfileSwitch who die port prof s
  | .windowWrite who die port prof w val => Sys2Proof.Machine.execWindowWrite who die port prof w val s
  | .ruleRead who die => Sys2Proof.Machine.execRuleRead who die s
  | .ruleWrite who die => Sys2Proof.Machine.execRuleWrite who die s
  | .ruleClearHits who die => Sys2Proof.Machine.execRuleClearHits who die s
  | .statClr who die port => Sys2Proof.Machine.execStatClr who die port s
  | .txEnqueue die src => Sys2Proof.Machine.execTxEnqueue die src s
  | .schedulePick die port t => Sys2Proof.Machine.execSchedulePick die port t s
  | .frameTransmitEnd die port => Sys2Proof.Machine.execFrameTransmitEnd die port s
  | .shaperRefill die sent => Sys2Proof.Machine.execShaperRefill die sent s
  | .gateEntryChange die port t => Sys2Proof.Machine.execGateEntryChange die port t s
  | .gclSwitch who die port val t => Sys2Proof.Machine.execGclSwitch who die port val t s
  | .gclTakeover die port t => Sys2Proof.Machine.execGclTakeover die port t s
  | .tmtSqDoorbell port who off val got => Sys2Proof.Machine.execTmtSqDoorbell port who off val got s
  | .tmtCqDoorbell port who off val => Sys2Proof.Machine.execTmtCqDoorbell port who off val s
  | .tmtWrite sl q wr => Sys2Proof.Machine.execTmtWrite sl q wr s
  | .tmtWriteImm sl q wr => Sys2Proof.Machine.execTmtWriteImm sl q wr s
  | .tmtRead sl q wr => Sys2Proof.Machine.execTmtRead sl q wr s
  | .tmtFlush sl q wr => Sys2Proof.Machine.execTmtFlush sl q wr s
  | .tmtFetchAdd sl q wr => Sys2Proof.Machine.execTmtFetchAdd sl q wr s
  | .packetSend c src now => Sys2Proof.Machine.execPacketSend c src now s
  | .writePacket die => Sys2Proof.Machine.execWritePacket die s
  | .writeImmPacket die => Sys2Proof.Machine.execWriteImmPacket die s
  | .readReq die c data => Sys2Proof.Machine.execReadReq die c data s
  | .readResp die now => Sys2Proof.Machine.execReadResp die now s
  | .flushPacket die => Sys2Proof.Machine.execFlushPacket die s
  | .fetchAddPacket die c => Sys2Proof.Machine.execFetchAddPacket die c s
  | .faResp die => Sys2Proof.Machine.execFaResp die s
  | .ack die now => Sys2Proof.Machine.execAck die now s
  | .ackDelayExpiry c => Sys2Proof.Machine.execAckDelayExpiry c s
  | .retransmissionTimeout c now => Sys2Proof.Machine.execRetransmissionTimeout c now s
  | .rnrResend c psn now => Sys2Proof.Machine.execRnrResend c psn s now
  | .targetCompletion c => Sys2Proof.Machine.execTargetCompletion c s
  | .flushDone c => Sys2Proof.Machine.execFlushDone c s
  | .senderCompletion c => Sys2Proof.Machine.execSenderCompletion c s
  | .openConn die region => Sys2Proof.Machine.execOpenConn die region s
  | .bindConn die => Sys2Proof.Machine.execBindConn die s
  | .probeSend c now => Sys2Proof.Machine.execProbeSend c now s
  | .probeTimeout c => Sys2Proof.Machine.execProbeTimeout c s
  | .close die => Sys2Proof.Machine.execClose die s
  | .closeTimeout c => Sys2Proof.Machine.execCloseTimeout c s
  | .contextFetch c got => Sys2Proof.Machine.execContextFetch c got s
  | .mrReg die => Sys2Proof.Machine.execMrReg die s
  | .mrRevoke die => Sys2Proof.Machine.execMrRevoke die s
  | .revokeComplete n => Sys2Proof.Machine.execRevokeComplete n s
  | .tmtqCreate ch pb kind die port ring size vec cq => Sys2Proof.Machine.execTmtqCreate ch pb kind die port ring size vec cq s
  | .tmtqDestroy ch kind q => Sys2Proof.Machine.execTmtqDestroy ch kind q s
  | .keyAlloc ch => Sys2Proof.Machine.execKeyAlloc ch s
  | .keyLoad ch slot addr => Sys2Proof.Machine.execKeyLoad ch slot addr s
  | .keyErase ch slot => Sys2Proof.Machine.execKeyErase ch slot s
  | .keyFree ch slot => Sys2Proof.Machine.execKeyFree ch slot s
  | .keyDrainComplete slot => Sys2Proof.Machine.execKeyDrainComplete slot s
  | .keySlotUe slot copy => Sys2Proof.Machine.execKeySlotUe slot copy s
  | .cbcEncrypt sl q src aad param el => Sys2Proof.Machine.execCbcEncrypt sl q src aad param el s
  | .cbcDecrypt sl q src aad param el => Sys2Proof.Machine.execCbcDecrypt sl q src aad param el s
  | .ctrEncrypt sl q src aad param el => Sys2Proof.Machine.execCtrEncrypt sl q src aad param el s
  | .ctrDecrypt sl q src aad param el => Sys2Proof.Machine.execCtrDecrypt sl q src aad param el s
  | .cfb128Encrypt sl q src aad param el => Sys2Proof.Machine.execCfb128Encrypt sl q src aad param el s
  | .cfb128Decrypt sl q src aad param el => Sys2Proof.Machine.execCfb128Decrypt sl q src aad param el s
  | .ofbEncrypt sl q src aad param el => Sys2Proof.Machine.execOfbEncrypt sl q src aad param el s
  | .ofbDecrypt sl q src aad param el => Sys2Proof.Machine.execOfbDecrypt sl q src aad param el s
  | .gcmEncrypt sl q src aad param el => Sys2Proof.Machine.execGcmEncrypt sl q src aad param el s
  | .gcmDecrypt sl q src aad param el => Sys2Proof.Machine.execGcmDecrypt sl q src aad param el s
  | .cmac sl q src aad param el => Sys2Proof.Machine.execCmac sl q src aad param el s
  | .cipherRequestComplete n el => Sys2Proof.Machine.execCipherRequestComplete n el s
  | .vrnProtect ch handle on => Sys2Proof.Machine.execVrnProtect ch handle on s
  | .vrnStep ch => Sys2Proof.Machine.execVrnStep ch s
  | .stepPeriodExpiry => Sys2Proof.Machine.execStepPeriodExpiry s
  | .heldStepRelease => Sys2Proof.Machine.execHeldStepRelease s
  | .checkpointStep => Sys2Proof.Machine.execCheckpointStep s
  | .stepCutEnd locs => Sys2Proof.Machine.execStepCutEnd locs s
  | .shardCopied h u tier => Sys2Proof.Machine.execShardCopied h u tier s
  | .stepComplete => Sys2Proof.Machine.execStepComplete s
  | .stepFail => Sys2Proof.Machine.execStepFail s
  | .adopt ch sl owner => Sys2Proof.Machine.execAdopt ch sl owner s
  | .pull ch sl => Sys2Proof.Machine.execPull ch sl s
  | .persist ch sl serial => Sys2Proof.Machine.execPersist ch sl serial s
  | .restoreComplete tabs runs arrays extra recs => Sys2Proof.Machine.execRestoreComplete tabs runs arrays extra recs s
  | .restoreFallback => Sys2Proof.Machine.execRestoreFallback s
  | .vrnPersistSet ch pb conn rkey roff len => Sys2Proof.Machine.execVrnPersistSet ch pb conn rkey roff len s
  | .vrnDrain ch => Sys2Proof.Machine.execVrnDrain ch s
  | .jobCreate ch pb job sl port area key => Sys2Proof.Machine.execJobCreate ch pb job sl port area key s
  | .jobJoin ch pb job sl port area key num mgr serial deputy peers => Sys2Proof.Machine.execJobJoin ch pb job sl port area key num mgr serial deputy peers s
  | .jobLeave ch member force => Sys2Proof.Machine.execJobLeave ch member force s
  | .jobDeputy ch member hand recs => Sys2Proof.Machine.execJobDeputy ch member hand s recs
  | .jobStep ch num => Sys2Proof.Machine.execJobStep ch num s
  | .jobDissolve ch => Sys2Proof.Machine.execJobDissolve ch s
  | .heartbeatSend => Sys2Proof.Machine.execHeartbeatSend s
  | .heartbeatReceive beat poisoned => Sys2Proof.Machine.execHeartbeatReceive beat poisoned s
  | .heartbeatPeriodEnd => Sys2Proof.Machine.execHeartbeatPeriodEnd s
  | .fence f mepoch => Sys2Proof.Machine.execFence f mepoch s
  | .fenceDone m f heirs => Sys2Proof.Machine.execFenceDone m f s heirs
  | .fenceTimeout m f heirs => Sys2Proof.Machine.execFenceTimeout m f s heirs
  | .isolate => Sys2Proof.Machine.execIsolate s
  | .jobMap epoch mepoch jstep mems remaps => Sys2Proof.Machine.execJobMap epoch mepoch jstep mems remaps s
  | .jobMapPartPoll got => Sys2Proof.Machine.execJobMapPartPoll got s
  | .jobMapStall => Sys2Proof.Machine.execJobMapStall s
  | .shrinkEnd acked sizes hold own => Sys2Proof.Machine.execShrinkEnd acked sizes hold own s
  | .deputyTakeover => Sys2Proof.Machine.execDeputyTakeover s
  | .controlConnectionReopen peer => Sys2Proof.Machine.execControlConnectionReopen peer s
  | .mailboxCommit who ch hdr => Sys2Proof.Machine.execMailboxCommit who ch hdr s
  | .noticeLoad ch => Sys2Proof.Machine.execNoticeLoad ch s
  | .noticeAck who ch val => Sys2Proof.Machine.execNoticeAck who ch val s
  | .hostHeartbeat who bank d => Sys2Proof.Machine.execHostHeartbeat who bank d s
  | .mbxBind ch bank chan w3 entry => Sys2Proof.Machine.execMbxBind ch bank chan w3 entry s
  | .diagRead ch index => Sys2Proof.Machine.execDiagRead ch index s
  | .deviceResetCommand ch => Sys2Proof.Machine.execDeviceResetCommand ch s
  | .fwRestart ch => Sys2Proof.Machine.execFwRestart ch s
  | .progLoad ch pb addr len enc rstk off depth loads => Sys2Proof.Machine.execProgLoad ch pb addr len enc rstk off depth loads s
  | .progFree ch handle => Sys2Proof.Machine.execProgFree ch handle s
  | .netMode ch die pb val => Sys2Proof.Machine.execNetMode ch die pb val s
  | .netAddr ch die port pb ip4 ip6 images => Sys2Proof.Machine.execNetAddr ch die port pb ip4 ip6 images s
  | .netProfile ch die port pb images => Sys2Proof.Machine.execNetProfile ch die port pb images s
  | .netRule ch die pb images => Sys2Proof.Machine.execNetRule ch die pb images s
  | .netSched ch die port pb images => Sys2Proof.Machine.execNetSched ch die port pb images s
  | .pmuAlloc ch inst ev w3 => Sys2Proof.Machine.execPmuAlloc ch inst ev w3 s
  | .pmuFree ch id => Sys2Proof.Machine.execPmuFree ch id s
  | .pmuUser ch permit => Sys2Proof.Machine.execPmuUser ch permit s
  | .pmuCounterLoad id hi val add => Sys2Proof.Machine.execPmuCounterLoad id hi val add s
  | .pmuWindowEnd inst => Sys2Proof.Machine.execPmuWindowEnd inst s
  | .counterWrap id n => Sys2Proof.Machine.execCounterWrap id n s
  | .dumpCreate ch sl addr got => Sys2Proof.Machine.execDumpCreate ch sl addr got s
  | .dumpDestroy ch d => Sys2Proof.Machine.execDumpDestroy ch d s
  | .dumpSnapshot d head => Sys2Proof.Machine.execDumpSnapshot d head s
  | .timeSet ch lo hi ns => Sys2Proof.Machine.execTimeSet ch lo hi ns s
  | .timeStep ch lo hi => Sys2Proof.Machine.execTimeStep ch lo hi s
  | .timeAdj ch ppb => Sys2Proof.Machine.execTimeAdj ch ppb s
  | .timeSource ch src port utc => Sys2Proof.Machine.execTimeSource ch src port utc s
  | .ppsOutEdge => Sys2Proof.Machine.execPpsOutEdge s
  | .ppsInEdge => Sys2Proof.Machine.execPpsInEdge s
  | .calSet ch lo hi => Sys2Proof.Machine.execCalSet ch lo hi s
  | .calendarCheck => Sys2Proof.Machine.execCalendarCheck s
  | .lifRead ch item => Sys2Proof.Machine.execLifRead ch item s
  | .lifFlush ch ok => Sys2Proof.Machine.execLifFlush ch ok s
  | .lifetimeRecordWrite ok => Sys2Proof.Machine.execLifetimeRecordWrite ok s
  | .fuseDbgDisable ch key fails => Sys2Proof.Machine.execFuseDbgDisable ch key fails s
  | .fuseInjDisable ch key fails => Sys2Proof.Machine.execFuseInjDisable ch key fails s
  | .fuseSecver ch key floor fails => Sys2Proof.Machine.execFuseSecver ch key floor fails s
  | .anchorWrite ch key slot got fails => Sys2Proof.Machine.execAnchorWrite ch key slot got fails s
  | .anchorRevoke ch key slot fails => Sys2Proof.Machine.execAnchorRevoke ch key slot fails s
  | .dbgClose ch => Sys2Proof.Machine.execDbgClose ch s
  | .debugSoftClose who => Sys2Proof.Machine.execDebugSoftClose who s
  | .idcode => Sys2Proof.Machine.execIdcode s
  | .dapRead addr => Sys2Proof.Machine.execDapRead addr s
  | .dapWrite addr val => Sys2Proof.Machine.execDapWrite addr val s
  | .atlHalt => Sys2Proof.Machine.execAtlHalt s
  | .atlResume => Sys2Proof.Machine.execAtlResume s
  | .bypass code bits n => Sys2Proof.Machine.execBypass code bits n s
  | .injPermit ch sl permit => Sys2Proof.Machine.execInjPermit ch sl permit s
  | .injArm ch sl got => Sys2Proof.Machine.execInjArm ch sl got s
  | .injDisarm ch id sl => Sys2Proof.Machine.execInjDisarm ch id sl s
  | .injQuery ch id => Sys2Proof.Machine.execInjQuery ch id s
  | .injectedReorderRelease n => Sys2Proof.Machine.execInjectedReorderRelease n s
  | .idRead ch die => Sys2Proof.Machine.execIdRead ch die s
  | .refclkLoss net k => Sys2Proof.Machine.execRefclkLoss net k s
  | .refclkReturn net k => Sys2Proof.Machine.execRefclkReturn net k s
  | .thermalSensorSample dies mems inlet outlet => Sys2Proof.Machine.execThermalSensorSample dies mems inlet outlet s
  | .coolantFaultRelease => Sys2Proof.Machine.execCoolantFaultRelease s
  | .perstNRelease port => Sys2Proof.Machine.execPerstNRelease port s
  | .illegalEncoding w => Sys2Proof.Machine.execIllegalEncoding w s
  | .joinAdmissionTimeout => Sys2Proof.Machine.execJoinAdmissionTimeout s
  | .flrDrainEnd port => Sys2Proof.Machine.execFlrDrainEnd port s

end Machine
end Sys2Proof
end

