-- ==== Sys2Proof/Safety.lean ====
section
/-!
DEFINITION. The terms in which statements speak: when a register can be reached, when firmware serves a command, what one-way fuses
are, what memory keeps.
-/
namespace Sys2Proof
namespace Machine

/-! ### Registers that can be reached (spec 00 R12 to R14, 01 R29, R40) -/

/-- A control register of a block instance can be accessed now: no device reset, no write waiting for its die, which is awake. -/
def State.awake (s : State) (b : Blk) (inst : Nat) : Prop :=
  s.pw.devReset = false ∧ s.pw.waiting = [] ∧ ∀ d, domainOf b inst = some d → s.isGated d = false

/-- Registers whose writes do more than R12 says of their bits; they have rules, and statements, of their own. -/
def specialRegs : List Reg :=
  [GSO_VIN_WARN, GSO_PWR_CTL, ATL_TRACE_EN, FUS_DBG_CTL, PAL_CMAP, MEM_REMAP, MEM_CB_FMT, MEM_CB_STATUS, CMP_IND_CMD, SYN_RPT_POP,
   DMA_CHAN_CTL, DMA_CHAN_NEXT_LO, DMA_CHAN_NEXT_HI, DMA_CHAN_IRQ, DMA_CHAN_OWNER, SYN_GU_HDR, PKT_MODE, PKT_CLASS_CTL, PKT_RULE_CMD] ++
  [PKT_PORT_CTL, PKT_PORT_DEF_RX, PKT_PORT_DEF_TX, PKT_PORT_MAC_HI, PKT_WIN, SCH_PORT_CTL, SCH_GCL_BASE_NS, SCH_GCL_BASE_SL,
   SCH_GCL_BASE_SH, SCH_GCL_CYCLE, SCH_GCL_INTVL, SCH_GCL_MASK, SCH_Q_LIM, TMT_CTL, HIF_MAP_CMD, SLC_MAP_CMD, NVC_OWNER] ++
  [PMU_CNT_LO, PMU_CNT_HI, PMU_CTL, PMU_EVSEL, MBX_SEC]

/-- A register with no rule of its own for writes, at a place of the control space: no bristle, mailbox bank, doorbell or injector. -/
def ordinaryReg (l : CtlLoc) (r : Reg) : Prop :=
  r.blk = l.blk ∧ r ∉ specialRegs ∧ l.blk ≠ .brs ∧ l.blk ≠ .injD ∧ ¬(l.blk = .mbx ∧ l.off < 0xA0000) ∧
    ¬(l.blk = .mem ∧ 0x40000 ≤ l.off ∧ l.off < 0x50000) ∧ ¬(l.blk = .pmu ∧ l.inst = 0 ∧ 0x100000 ≤ l.off) ∧
    ¬(l.blk = .tmt ∧ 0x100000 ≤ l.off ∧ l.off < 0x140000)

/-- What R12 makes of bit n of a register: a lock keeps RWL bits, a 1 clears a W1C bit and sets a W1S bit, others are read-only. -/
def bitAfterWrite (r : Reg) (locked : Bool) (old val n : Nat) : Bool :=
  if r.rw.testBit n then val.testBit n
  else if r.rwl.testBit n then (if locked then old.testBit n else val.testBit n)
  else if r.w1c.testBit n then old.testBit n && !val.testBit n
  else if r.w1s.testBit n then old.testBit n || val.testBit n
  else old.testBit n

/-! ### An instruction that issues (spec 04 R101 to R105, R111, R122) -/

/-- The next instruction of a bristle issues and acts: the bristle runs, is awake and not held in a WAIT, no trap is due, its address is
aligned natively, its bytes read without error, and no source waits for a load. -/
def State.goes (s : State) (w : Issue) (srcs : List Nat) (vec : Bool) : Prop :=
  s.canIssue w.b = true ∧ (s.br w.b).trapReq = none ∧ (s.legacy w.b = true ∨ (s.br w.b).pc % 4 = 0) ∧
    s.fetch w.b (s.br w.b).pc (s.asCoded w).len ((s.br w.b).issueAt srcs vec) = (s, true) ∧ (s.br w.b).outstanding srcs = false

/-- What an instruction of bristle b leaves alone: every other bristle, memory and everything but this bristle, registers and output. -/
def State.onlyBristle (s t : State) (b : Nat) : Prop :=
  (∀ c, c ≠ b → t.br c = s.br c) ∧ t = { s with brs := t.brs, regs := t.regs, out := t.out }

/-- The bristle as the instruction sees it in its issue cycle: holds passed, exposed results due by then visible (R102, R113, R115). -/
def State.atIssue (s : State) (w : Issue) (srcs : List Nat) (vec : Bool) : Bristle :=
  ((s.br w.b).tick ((s.br w.b).issueAt srcs vec - (s.br w.b).pcyc) w.holds).settle ((s.br w.b).issueAt srcs vec)

/-- The state an instruction that goes acts on. -/
def State.ready (s : State) (w : Issue) (srcs : List Nat) (vec : Bool) : State :=
  (s.setBr w.b (s.atIssue w srcs vec)).slots w.b 3 ((s.br w.b).issueAt srcs vec - (s.br w.b).pcyc + w.holds)

/-! ### The return stack as a ring (spec 04 R117) -/

/-- Pushes return addresses in wrap mode, first to last. -/
def Bristle.pushAll (br : Bristle) : List Nat → Bristle
  | [] => br
  | a :: l => ((br.push false a).getD br).pushAll l

/-- The addresses that n pops in wrap mode give. -/
def Bristle.popAll (br : Bristle) : Nat → List Nat
  | 0 => []
  | n + 1 => match br.pop false with | some r => r.2 :: r.1.popAll n | none => []

/-! ### Service of a firmware command (spec 24 R573, R579, R583, R584) -/

/-- Does firmware serve command cmd with argument words ws, of a class and with or without a parameter block, on channel ch, so that the
command's own checks decide (R573, R575, R579, R583)? -/
def State.serves (s : State) (ch cmd : Nat) (ws : List (Nat × Nat)) (cls : CmdClass) (pb : Bool) : Bool :=
  s.holdsMsg ch cmd ws && s.running && !s.atl.coreHalted &&
    (decide (ch ≥ 320) ||
      (if ch % 32 < 16 then cls != .bound else s.fon MBX_CH_BIND_VALID 0 (ch / 32) (ch % 32) && cls != .secure)) &&
    (decide (ch ≥ 320) || !pb || decide (ch / 32 < 8))

/-- The slice a command runs for: the one its channel is bound to, or the one its arguments name (R573). -/
def State.servedSlice (s : State) (ch sl : Nat) : Nat :=
  if ch < 320 ∧ ch % 32 ≥ 16 then s.fget MBX_CH_BIND_SLICE 0 (ch / 32) (ch % 32) else sl

/-! ### Storage entries (spec 16 R405, R406, R410) -/

/-- A controller fetches entry d of opcode op from a submission queue, with plain flags, for its owner sl: t is the state then. -/
def State.fetches (s t : State) (c q op sl : Nat) (sqe : HostData) (d : List Byte) : Prop :=
  s.nvmFetch c q sqe = .ok (t, sl, d) ∧ sqOp d = op ∧ sqPlain d = true

/-! ### TMT packets (spec 19 R479) -/

/-- The state in which a packet's content is handled: it has left the receive buffer, its connection is used, its CE mark counted. -/
def State.afterArrival (s : State) (k : TPkt) : State :=
  ((s.dropRx k).touchConn k.conn).modConn k.conn (fun y => { y with ce := y.ce + (if k.ce then 1 else 0) })

/-- A connection has sealed-packet counters left for n more packets, and stays unbroken then (R485). -/
def Conn.canSeal (x : Conn) (n : Nat) : Prop := x.enc = false ∨ x.iv + n < 2 ^ 48

/-! ### Fuses are one-way (spec 26 R612, R615) -/

/-- Every fuse blown in f is blown in g. -/
def Fuses.within (f g : Fuses) : Prop :=
  (f.dbgDisable = true → g.dbgDisable = true) ∧ (f.injDisable = true → g.injDisable = true) ∧ f.secver ≤ g.secver ∧
    f.serial = g.serial ∧ f.vid = g.vid ∧ f.jtagMfr = g.jtagMfr ∧ f.macBase = g.macBase ∧ f.dies = g.dies

/-! ### Memory -/

/-- The memory keeps its canonical form: rising addresses, no byte listed that an unlisted one reads as. -/
def State.memOk (s : State) : Prop := memWf s.mem = true

end Machine
end Sys2Proof
end

