-- ==== Sys2Proof/WellFormed.lean ====
section
/-!
DEFINITION. Which commands are well formed: every operand names something that exists and fits the field that carries it. The
machine does not ask for it: a command that names nothing has no effect, or the report its chapter gives.
-/
namespace Sys2Proof

/-- A number below a bound. -/
def below (n v : Nat) : Bool := decide (v < n)

/-- A number below a bound, where there is one. -/
def optBelow (n : Nat) : Option Nat → Bool
  | some v => below n v
  | none => true

/-- A general register's number, R106, R132. -/
def gpr (r : Nat) : Bool := below 32 r

/-- A vector register's number, R106, R132. -/
def vreg (r : Nat) : Bool := below 16 r

/-- An issue slot: a bristle of the device, an instruction of 1 to 9 bytes (R131, R156), and no byte beyond its length. -/
def Issue.wellFormed (w : Issue) : Bool := below 3840 w.b && decide (1 ≤ w.len) && below 10 w.len && below (256 ^ w.len) w.raw

/-- An M-format operand, R139: a mode, two registers, a scale. -/
def MemArg.wellFormed (m : MemArg) : Bool := below 8 m.mode && gpr m.rb && gpr m.ri && below 8 m.scale

/-- A power domain of R33 that exists. -/
def Domain.wellFormed : Domain → Bool
  | .atelier => true
  | .cluster p c => below 10 p && below 24 c
  | .palette p => below 10 p
  | .stack m => below 20 m
  | .stretcher n => below 4 n
  | .net n => below 2 n
  | .host n => below 2 n
  | .portfolio => true

/-- A command whose operands are in range. -/
def Instr.wellFormed : Instr → Bool
  | .registerWrite _ addr _ val => below (2 ^ 64) addr && below (2 ^ 32) val
  | .latchingRead _ addr _ => below (2 ^ 64) addr
  | .blockLockSet addr => below (2 ^ 64) addr
  | .fabricFlitRetry link sl => below 25 link && below 65 sl
  | .fabricLinkDown link _ _ _ _ _ _ => below 25 link
  | .powerDomainWake d => d.wellFormed
  | .bristleClockChange p _ => below 10 p
  | .inputSample vin iin => below 4096 vin && below 4096 iin
  | .inputDwellComplete => true
  | .currentThrottle => true
  | .currentThrottleRelease => true
  | .currentTrip => true
  | .overvoltageTrip => true
  | .gessoLockout => true
  | .gessoPowerUp _ => true
  | .railFault => true
  | .thermalStateRise sensor _ => below 41 sensor
  | .thermalDwellFall => true
  | .coolantFault => true
  | .pwrEnFall => true
  | .pwrEnRise => true
  | .modResetAssert => true
  | .modResetRelease => true
  | .wakeNPulse => true
  | .m1Entry _ => true
  | .m2Entry _ => true
  | .moduleWake _ => true
  | .gsoVinWarnWrite val => below (2 ^ 32) val
  | .vinMinClr => true
  | .deviceReset => true
  | .coldBoot _ => true
  | .fwRecoverLoad ch _ _ => decide (ch ≤ 320)
  | .atelierRestart _ _ => true
  | .watchdogExpiry _ => true
  | .restartDeadlineExpiry _ => true
  | .trialConfirm => true
  | .fwUpdateBegin ch _ _ => decide (ch ≤ 320)
  | .fwUpdateWrite ch _ _ _ _ => decide (ch ≤ 320)
  | .fwUpdateVerify ch _ => decide (ch ≤ 320)
  | .fwActivate ch => decide (ch ≤ 320)
  | .fwActivateCancel ch => decide (ch ≤ 320)
  | .deferredActivationStart => true
  | .add w rd rs1 rs2 => w.wellFormed && gpr rd && gpr rs1 && gpr rs2
  | .sub w rd rs1 rs2 => w.wellFormed && gpr rd && gpr rs1 && gpr rs2
  | .andI w rd rs1 rs2 => w.wellFormed && gpr rd && gpr rs1 && gpr rs2
  | .orI w rd rs1 rs2 => w.wellFormed && gpr rd && gpr rs1 && gpr rs2
  | .xorI w rd rs1 rs2 => w.wellFormed && gpr rd && gpr rs1 && gpr rs2
  | .sll w rd rs1 rs2 => w.wellFormed && gpr rd && gpr rs1 && gpr rs2
  | .srl w rd rs1 rs2 => w.wellFormed && gpr rd && gpr rs1 && gpr rs2
  | .sra w rd rs1 rs2 => w.wellFormed && gpr rd && gpr rs1 && gpr rs2
  | .slt w rd rs1 rs2 => w.wellFormed && gpr rd && gpr rs1 && gpr rs2
  | .sltu w rd rs1 rs2 => w.wellFormed && gpr rd && gpr rs1 && gpr rs2
  | .minI w rd rs1 rs2 => w.wellFormed && gpr rd && gpr rs1 && gpr rs2
  | .maxI w rd rs1 rs2 => w.wellFormed && gpr rd && gpr rs1 && gpr rs2
  | .minu w rd rs1 rs2 => w.wellFormed && gpr rd && gpr rs1 && gpr rs2
  | .maxu w rd rs1 rs2 => w.wellFormed && gpr rd && gpr rs1 && gpr rs2
  | .addi w rd rs1 _ => w.wellFormed && gpr rd && gpr rs1
  | .andi w rd rs1 _ => w.wellFormed && gpr rd && gpr rs1
  | .ori w rd rs1 _ => w.wellFormed && gpr rd && gpr rs1
  | .xori w rd rs1 _ => w.wellFormed && gpr rd && gpr rs1
  | .slti w rd rs1 _ => w.wellFormed && gpr rd && gpr rs1
  | .sltiu w rd rs1 _ => w.wellFormed && gpr rd && gpr rs1
  | .lui w rd _ => w.wellFormed && gpr rd
  | .slli w rd rs1 _ => w.wellFormed && gpr rd && gpr rs1
  | .srli w rd rs1 _ => w.wellFormed && gpr rd && gpr rs1
  | .srai w rd rs1 _ => w.wellFormed && gpr rd && gpr rs1
  | .sli w rd rs1 _ => w.wellFormed && gpr rd && gpr rs1
  | .ladr w rd _ => w.wellFormed && gpr rd
  | .mul w rs1 rs2 => w.wellFormed && gpr rs1 && gpr rs2
  | .mulu w rs1 rs2 => w.wellFormed && gpr rs1 && gpr rs2
  | .mulProductVisible b => below 3840 b
  | .mfsr w rd n => w.wellFormed && gpr rd && below 16 n
  | .mtsr w n rs1 => w.wellFormed && below 16 n && gpr rs1
  | .beq w rs1 rs2 _ => w.wellFormed && gpr rs1 && gpr rs2
  | .bne w rs1 rs2 _ => w.wellFormed && gpr rs1 && gpr rs2
  | .blt w rs1 rs2 _ => w.wellFormed && gpr rs1 && gpr rs2
  | .bge w rs1 rs2 _ => w.wellFormed && gpr rs1 && gpr rs2
  | .bltu w rs1 rs2 _ => w.wellFormed && gpr rs1 && gpr rs2
  | .bgeu w rs1 rs2 _ => w.wellFormed && gpr rs1 && gpr rs2
  | .j w _ => w.wellFormed
  | .call w _ => w.wellFormed
  | .jr w rs1 => w.wellFormed && gpr rs1
  | .callr w rs1 => w.wellFormed && gpr rs1
  | .ret w => w.wellFormed
  | .eret w => w.wellFormed
  | .breakI w => w.wellFormed
  | .lb w rt m => w.wellFormed && gpr rt && m.wellFormed
  | .lbu w rt m => w.wellFormed && gpr rt && m.wellFormed
  | .lh w rt m => w.wellFormed && gpr rt && m.wellFormed
  | .lhu w rt m => w.wellFormed && gpr rt && m.wellFormed
  | .lw w rt m => w.wellFormed && gpr rt && m.wellFormed
  | .lwu w rt m => w.wellFormed && gpr rt && m.wellFormed
  | .ld w rt m => w.wellFormed && gpr rt && m.wellFormed
  | .vld w rt m => w.wellFormed && gpr rt && m.wellFormed
  | .sb w rt m => w.wellFormed && gpr rt && m.wellFormed
  | .sh w rt m => w.wellFormed && gpr rt && m.wellFormed
  | .sw w rt m => w.wellFormed && gpr rt && m.wellFormed
  | .sd w rt m => w.wellFormed && gpr rt && m.wellFormed
  | .vst w rt m => w.wellFormed && gpr rt && m.wellFormed
  | .vsta w rt m => w.wellFormed && gpr rt && m.wellFormed
  | .loadDataReturn b _ => below 3840 b
  | .storeBufferDrain b => below 3840 b
  | .faultReload b => below 3840 b
  | .clusterFailure p c => below 10 p && below 24 c
  | .vmac w a va vb ge _ => w.wellFormed && below 4 a && vreg va && vreg vb && gpr ge
  | .accumulatorVisible b => below 3840 b
  | .vadd w vd va vb _ => w.wellFormed && vreg vd && vreg va && vreg vb
  | .vsub w vd va vb _ => w.wellFormed && vreg vd && vreg va && vreg vb
  | .vmul w vd va vb _ => w.wellFormed && vreg vd && vreg va && vreg vb
  | .vmax w vd va vb _ => w.wellFormed && vreg vd && vreg va && vreg vb
  | .vmin w vd va vb _ => w.wellFormed && vreg vd && vreg va && vreg vb
  | .vwacc w vd va gw _ _ _ => w.wellFormed && vreg vd && vreg va && gpr gw
  | .vcvt w vd va _ _ _ _ => w.wellFormed && vreg vd && vreg va
  | .vexp w vd va _ => w.wellFormed && vreg vd && vreg va
  | .vbc w vd gs _ => w.wellFormed && vreg vd && gpr gs
  | .aclr w a => w.wellFormed && below 4 a
  | .vtoa w a v => w.wellFormed && below 4 a && vreg v
  | .atov w vd a => w.wellFormed && vreg vd && below 4 a
  | .aredSum w gd a _ _ => w.wellFormed && gpr gd && below 4 a
  | .aredMax w gd a _ _ => w.wellFormed && gpr gd && below 4 a
  | .nop _ => true
  | .mov w _ _ => w.wellFormed
  | .signal w rs1 rs2 => w.wellFormed && gpr rs1 && gpr rs2
  | .wait w rd rs1 rs2 => w.wellFormed && gpr rd && gpr rs1 && gpr rs2
  | .waitdec w rd rs1 rs2 => w.wellFormed && gpr rd && gpr rs1 && gpr rs2
  | .flagOperationArrive _ => true
  | .waitRelease b => below 3840 b
  | .spinLimitReport b => below 3840 b
  | .synRptPop p => below 10 p
  | .clusterPark p c => below 10 p && below 24 c
  | .flagAlloc ch => decide (ch ≤ 320)
  | .flagFree ch handle => decide (ch ≤ 320) && below (2 ^ 32) handle
  | .gsend w vs gt gk => w.wellFormed && vreg vs && gpr gt && gpr gk
  | .creditGrant bid => below 3840 bid
  | .collectorContribution bid => below 3840 bid
  | .gatherContribution bid => below 3840 bid
  | .gatherSlotArm _ slot val => below 1024 slot && below (2 ^ 32) val
  | .gatherSlotFree _ slot => below 1024 slot
  | .brsRunSet b => below 3840 b
  | .brsRunClear b => below 3840 b
  | .brsInit b val => below 3840 b && below (2 ^ 32) val
  | .brsConfigWrite b _ val => below 3840 b && below (2 ^ 32) val
  | .palCmapWrite p n val => below 10 p && below 24 n && below (2 ^ 32) val
  | .codebookStoreWrite m _ val => below 20 m && below (2 ^ 32) val
  | .codebookRewrite m slot => below 20 m && below 256 slot
  | .stackRead _ addr _ _ => below (2 ^ 64) addr
  | .stackWrite _ addr _ => below (2 ^ 64) addr
  | .ceWriteback _ => true
  | .poisonRefetch _ _ => true
  | .patrolScrubRead m => below 20 m
  | .pseudoChannelFail m _ _ => below 20 m
  | .softRepair m n val => below 20 m && below 8 n && below (2 ^ 32) val
  | .softRepairCopyDone m _ => below 20 m
  | .locationRetire _ => true
  | .stackRefresh m => below 20 m
  | .memLayout ch _ _ => decide (ch ≤ 320)
  | .tableCreate ch addr _ => decide (ch ≤ 320) && below (2 ^ 64) addr
  | .tableDestroy ch handle => decide (ch ≤ 320) && below (2 ^ 32) handle
  | .workQueueFetch sl q _ => below 64 sl && below 256 q
  | .lookup sl q _ _ _ _ => below 64 sl && below 256 q
  | .sparseUpdate sl q _ _ _ => below 64 sl && below 256 q
  | .workForward _ _ => true
  | .workRecordDone _ _ _ => true
  | .outputDelivery _ _ => true
  | .cacheCreate ch addr => decide (ch ≤ 320) && below (2 ^ 64) addr
  | .cacheDestroy ch handle => decide (ch ≤ 320) && below (2 ^ 32) handle
  | .seqCreate ch _ _ => decide (ch ≤ 320)
  | .seqTruncate ch handle _ => decide (ch ≤ 320) && below (2 ^ 32) handle
  | .seqDestroy ch handle => decide (ch ≤ 320) && below (2 ^ 32) handle
  | .attentionStep sl q _ _ _ _ => below 64 sl && below 256 q
  | .attentionEntryStart _ _ _ _ => true
  | .kvAppend sl q _ _ => below 64 sl && below 256 q
  | .compositionScan p _ _ => below 10 p
  | .copyPassDone handle _ _ => below (2 ^ 32) handle
  | .copyHeldDrained handle _ => below (2 ^ 32) handle
  | .epochFlip handle _ => below (2 ^ 32) handle
  | .drainEnd handle => below (2 ^ 32) handle
  | .tierReadComplete _ _ _ => true
  | .tierReadFail _ _ => true
  | .mapEntryRebuild handle _ => below (2 ^ 32) handle
  | .turnEnd p c => below 10 p && below 24 c
  | .turnSwitchComplete p c => below 10 p && below 24 c
  | .placePin ch handle _ _ => decide (ch ≤ 320) && below (2 ^ 32) handle
  | .placeHint ch handle _ _ _ => decide (ch ≤ 320) && below (2 ^ 32) handle
  | .placePromote ch handle _ _ _ => decide (ch ≤ 320) && below (2 ^ 32) handle
  | .placeQuery ch handle => decide (ch ≤ 320) && below (2 ^ 32) handle
  | .placePolicy ch _ _ _ _ _ _ => decide (ch ≤ 320)
  | .placeAdmin ch sl _ => decide (ch ≤ 320) && below 64 sl
  | .cmpIndRead p => below 10 p
  | .cmpIndWrite p => below 10 p
  | .dmaStart _ e k val => below 242 e && below 64 k && below (2 ^ 32) val
  | .dmaPause _ e k val => below 242 e && below 64 k && below (2 ^ 32) val
  | .dmaResume _ e k val => below 242 e && below 64 k && below (2 ^ 32) val
  | .dmaAbort _ e k val => below 242 e && below 64 k && below (2 ^ 32) val
  | .dmaReload _ e k val => below 242 e && below 64 k && below (2 ^ 32) val
  | .dmaNextWrite _ e k _ val => below 242 e && below 64 k && below (2 ^ 32) val
  | .dmaDescriptorFetch e k => below 242 e && below 64 k
  | .dmaCopy e k _ => below 242 e && below 64 k
  | .dmaFill e k _ => below 242 e && below 64 k
  | .dmaSignal e k => below 242 e && below 64 k
  | .dmaNop e k => below 242 e && below 64 k
  | .dmaSourceReturn e k => below 242 e && below 64 k
  | .dmaWriteback e k => below 242 e && below 64 k
  | .dmaPaused e k => below 242 e && below 64 k
  | .dmaAlloc ch die port => decide (ch ≤ 320) && below 20 die && below 8 port
  | .dmaFree ch chan => decide (ch ≤ 320) && below 65536 chan
  | .configRequest port fn off _ => below 8 port && below 3 fn && below 4096 off
  | .hostLinkUp port _ _ _ => below 8 port
  | .portReset port _ => below 8 port
  | .flrFunction0 port => below 8 port
  | .flrFunction1 port => below 8 port
  | .flrFunction2 port => below 8 port
  | .functionD0Entry port fn => below 8 port && below 3 fn
  | .grantPageAccess port fn _ _ _ => below 8 port && below 3 fn
  | .apertureAccess port _ _ _ _ => below 8 port
  | .wqDoorbell port _ val => below 8 port && below (2 ^ 32) val
  | .wqCreate ch _ _ _ _ port _ _ => decide (ch ≤ 320) && below 8 port
  | .wqReset ch q => decide (ch ≤ 320) && below 256 q
  | .wqDestroy ch q => decide (ch ≤ 320) && below 256 q
  | .hostReadCompletion port _ _ _ => below 8 port
  | .completionTimeout port _ => below 8 port
  | .unexpectedCompletion port _ _ => below 8 port
  | .tagQuarantineEnd port _ => below 8 port
  | .l1Entry port _ => below 8 port
  | .ltrChange port => below 8 port
  | .hifMapRead port => below 8 port
  | .hifMapWrite port => below 8 port
  | .ctoSet ch port _ => decide (ch ≤ 320) && below 8 port
  | .sliceCreate ch sl => decide (ch ≤ 320) && below 64 sl
  | .sliceDestroy ch sl => decide (ch ≤ 320) && below 64 sl
  | .sliceBind ch sl _ _ _ _ => decide (ch ≤ 320) && below 64 sl
  | .sliceUnbind ch sl _ => decide (ch ≤ 320) && below 64 sl
  | .sliceWindow ch sl _ _ _ => decide (ch ≤ 320) && below 64 sl
  | .sliceQuota ch sl _ _ _ _ => decide (ch ≤ 320) && below 64 sl
  | .clusterDrainTimeout sl => below 64 sl
  | .slicePhase ch sl _ => decide (ch ≤ 320) && below 64 sl
  | .sliceReset ch sl _ => decide (ch ≤ 320) && below 64 sl
  | .sliceDrainEnd sl => below 64 sl
  | .generationAdvance sl => below 64 sl
  | .sliceAttach ch _ _ _ => decide (ch ≤ 320)
  | .sliceDetach ch => decide (ch ≤ 320)
  | .dirtyStart ch sl _ => decide (ch ≤ 320) && below 64 sl
  | .dirtyHarvest ch sl _ addr => decide (ch ≤ 320) && below 64 sl && below (2 ^ 64) addr
  | .dirtyStop ch sl => decide (ch ≤ 320) && below 64 sl
  | .hostAbsentMark slot => below 160 slot
  | .holdSquash sl => below 64 sl
  | .slcMapRead die => below 2 die
  | .slcMapWrite die => below 2 die
  | .controllerEnable c _ _ _ _ => below 8 c
  | .controllerReset c => below 8 c
  | .shutdownRequest c _ => below 8 c
  | .sqTailDoorbell c _ val => below 8 c && below (2 ^ 32) val
  | .cqHeadDoorbell c _ val => below 8 c && below (2 ^ 32) val
  | .createIoSq c _ => below 8 c
  | .deleteIoSq c _ => below 8 c
  | .createIoCq c _ => below 8 c
  | .deleteIoCq c _ => below 8 c
  | .getLogPage c _ _ => below 8 c
  | .identifyNamespace c _ => below 8 c
  | .identifyController c _ => below 8 c
  | .identifyNsList c _ => below 8 c
  | .identifyNsDescriptors c _ => below 8 c
  | .abort c _ => below 8 c
  | .setFeatures c _ _ => below 8 c
  | .getFeatures c _ => below 8 c
  | .asyncEventRequest c _ => below 8 c
  | .formatNvm c _ _ => below 8 c
  | .blockErase c _ _ => below 8 c
  | .exitFailureMode c _ => below 8 c
  | .nvmFlush c q _ => below 8 c && below 65536 q
  | .nvmWrite c q _ _ _ => below 8 c && below 65536 q
  | .nvmRead c q _ _ => below 8 c && below 65536 q
  | .writeZeroes c q _ => below 8 c && below 65536 q
  | .datasetManagement c q _ _ => below 8 c && below 65536 q
  | .remoteTransferTimeout c q _ => below 8 c && below 65536 q
  | .recordedOpChunk c _ => below 8 c
  | .remoteWriteRetry c _ => below 8 c
  | .powerStateTransition c ps => below 8 c && below 32 ps
  | .nsCreate ch _ kind _ _ _ _ _ _ _ _ => decide (ch ≤ 320) && (below 3 kind && kind != 0)
  | .nsDestroy ch _ => decide (ch ≤ 320)
  | .nsAttach ch _ c => decide (ch ≤ 320) && below 8 c
  | .nsDetach ch _ c => decide (ch ≤ 320) && below 8 c
  | .storAssign ch c _ sl => decide (ch ≤ 320) && below 8 c && below 64 sl
  | .storRecordClear ch c => decide (ch ≤ 320) && below 8 c
  | .frameReceive die port _ _ _ _ _ => below 2 die && below 8 port
  | .pfcPauseExpiry die port cls => below 2 die && below 8 port && below 8 cls
  | .pfcRepeat die port cls => below 2 die && below 8 port && below 8 cls
  | .pfcXonSend die port cls => below 2 die && below 8 port && below 8 cls
  | .mgmtFrame die _ _ => below 2 die
  | .portLinkDown die port => below 2 die && below 8 port
  | .portLinkUp die port => below 2 die && below 8 port
  | .pktModeWrite _ die val => below 2 die && below (2 ^ 32) val
  | .profileSwitch _ die port prof => below 2 die && below 8 port && below 8 prof
  | .windowWrite _ die port prof _ val => below 2 die && below 8 port && below 8 prof && below (2 ^ 32) val
  | .ruleRead _ die => below 2 die
  | .ruleWrite _ die => below 2 die
  | .ruleClearHits _ die => below 2 die
  | .statClr _ die port => below 2 die && below 8 port
  | .txEnqueue die _ => below 2 die
  | .schedulePick die port _ => below 2 die && below 8 port
  | .frameTransmitEnd die port => below 2 die && below 8 port
  | .shaperRefill die sent => below 2 die && (sent.length == 8)
  | .gateEntryChange die port _ => below 2 die && below 8 port
  | .gclSwitch _ die port val _ => below 2 die && below 8 port && below (2 ^ 32) val
  | .gclTakeover die port _ => below 2 die && below 8 port
  | .tmtSqDoorbell port _ _ val _ => optBelow 8 port && below (2 ^ 32) val
  | .tmtCqDoorbell port _ _ val => optBelow 8 port && below (2 ^ 32) val
  | .tmtWrite sl q _ => below 64 sl && below 256 q
  | .tmtWriteImm sl q _ => below 64 sl && below 256 q
  | .tmtRead sl q _ => below 64 sl && below 256 q
  | .tmtFlush sl q _ => below 64 sl && below 256 q
  | .tmtFetchAdd sl q _ => below 64 sl && below 256 q
  | .packetSend c _ _ => below 65536 c
  | .writePacket die => below 2 die
  | .writeImmPacket die => below 2 die
  | .readReq die c _ => below 2 die && below 65536 c
  | .readResp die _ => below 2 die
  | .flushPacket die => below 2 die
  | .fetchAddPacket die c => below 2 die && below 65536 c
  | .faResp die => below 2 die
  | .ack die _ => below 2 die
  | .ackDelayExpiry c => below 65536 c
  | .retransmissionTimeout c _ => below 65536 c
  | .rnrResend c _ _ => below 65536 c
  | .targetCompletion c => below 65536 c
  | .flushDone c => below 65536 c
  | .senderCompletion c => below 65536 c
  | .openConn die _ => below 2 die
  | .bindConn die => below 2 die
  | .probeSend c _ => below 65536 c
  | .probeTimeout c => below 65536 c
  | .close die => below 2 die
  | .closeTimeout c => below 65536 c
  | .contextFetch c _ => below 65536 c
  | .mrReg die => below 2 die
  | .mrRevoke die => below 2 die
  | .revokeComplete _ => true
  | .tmtqCreate ch _ _ die port _ _ _ _ => decide (ch ≤ 320) && below 2 die && optBelow 8 port
  | .tmtqDestroy ch _ q => decide (ch ≤ 320) && below 256 q
  | .keyAlloc ch => decide (ch ≤ 320)
  | .keyLoad ch _ addr => decide (ch ≤ 320) && below (2 ^ 64) addr
  | .keyErase ch _ => decide (ch ≤ 320)
  | .keyFree ch _ => decide (ch ≤ 320)
  | .keyDrainComplete _ => true
  | .keySlotUe _ _ => true
  | .cbcEncrypt sl q _ _ _ _ => below 64 sl && below 256 q
  | .cbcDecrypt sl q _ _ _ _ => below 64 sl && below 256 q
  | .ctrEncrypt sl q _ _ _ _ => below 64 sl && below 256 q
  | .ctrDecrypt sl q _ _ _ _ => below 64 sl && below 256 q
  | .cfb128Encrypt sl q _ _ _ _ => below 64 sl && below 256 q
  | .cfb128Decrypt sl q _ _ _ _ => below 64 sl && below 256 q
  | .ofbEncrypt sl q _ _ _ _ => below 64 sl && below 256 q
  | .ofbDecrypt sl q _ _ _ _ => below 64 sl && below 256 q
  | .gcmEncrypt sl q _ _ _ _ => below 64 sl && below 256 q
  | .gcmDecrypt sl q _ _ _ _ => below 64 sl && below 256 q
  | .cmac sl q _ _ _ _ => below 64 sl && below 256 q
  | .cipherRequestComplete _ _ => true
  | .vrnProtect ch handle _ => decide (ch ≤ 320) && below (2 ^ 32) handle
  | .vrnStep ch => decide (ch ≤ 320)
  | .stepPeriodExpiry => true
  | .heldStepRelease => true
  | .checkpointStep => true
  | .stepCutEnd _ => true
  | .shardCopied _ _ _ => true
  | .stepComplete => true
  | .stepFail => true
  | .adopt ch sl _ => decide (ch ≤ 320) && below 64 sl
  | .pull ch sl => decide (ch ≤ 320) && below 64 sl
  | .persist ch sl _ => decide (ch ≤ 320) && below 64 sl
  | .restoreComplete _ _ _ _ _ => true
  | .restoreFallback => true
  | .vrnPersistSet ch _ _ _ _ _ => decide (ch ≤ 320)
  | .vrnDrain ch => decide (ch ≤ 320)
  | .jobCreate ch _ _ sl port _ key => decide (ch ≤ 320) && below 64 sl && below 8 port && below (2 ^ 32) key
  | .jobJoin ch _ _ sl port _ key _ _ _ _ _ => decide (ch ≤ 320) && below 64 sl && below 8 port && below (2 ^ 32) key
  | .jobLeave ch _ _ => decide (ch ≤ 320)
  | .jobDeputy ch _ _ _ => decide (ch ≤ 320)
  | .jobStep ch _ => decide (ch ≤ 320)
  | .jobDissolve ch => decide (ch ≤ 320)
  | .heartbeatSend => true
  | .heartbeatReceive _ _ => true
  | .heartbeatPeriodEnd => true
  | .fence _ _ => true
  | .fenceDone _ _ _ => true
  | .fenceTimeout _ _ _ => true
  | .isolate => true
  | .jobMap _ _ _ _ _ => true
  | .jobMapPartPoll _ => true
  | .jobMapStall => true
  | .shrinkEnd _ _ _ _ => true
  | .deputyTakeover => true
  | .controlConnectionReopen _ => true
  | .mailboxCommit _ ch hdr => decide (ch ≤ 320) && below (2 ^ 32) hdr
  | .noticeLoad ch => decide (ch ≤ 320)
  | .noticeAck _ ch val => decide (ch ≤ 320) && below (2 ^ 32) val
  | .hostHeartbeat _ bank d => below 10 bank && below 16 d
  | .mbxBind ch bank chan _ _ => decide (ch ≤ 320) && below 10 bank && below 32 chan
  | .diagRead ch _ => decide (ch ≤ 320)
  | .deviceResetCommand ch => decide (ch ≤ 320)
  | .fwRestart ch => decide (ch ≤ 320)
  | .progLoad ch _ addr _ _ _ _ _ _ => decide (ch ≤ 320) && below (2 ^ 64) addr
  | .progFree ch handle => decide (ch ≤ 320) && below (2 ^ 32) handle
  | .netMode ch die _ val => decide (ch ≤ 320) && below 2 die && below (2 ^ 32) val
  | .netAddr ch die port _ _ _ _ => decide (ch ≤ 320) && below 2 die && below 8 port
  | .netProfile ch die port _ _ => decide (ch ≤ 320) && below 2 die && below 8 port
  | .netRule ch die _ _ => decide (ch ≤ 320) && below 2 die
  | .netSched ch die port _ _ => decide (ch ≤ 320) && below 2 die && below 8 port
  | .pmuAlloc ch inst _ _ => decide (ch ≤ 320) && below 20 inst
  | .pmuFree ch _ => decide (ch ≤ 320)
  | .pmuUser ch _ => decide (ch ≤ 320)
  | .pmuCounterLoad _ _ val _ => below (2 ^ 32) val
  | .pmuWindowEnd inst => below 20 inst
  | .counterWrap _ _ => true
  | .dumpCreate ch sl addr _ => decide (ch ≤ 320) && below 64 sl && below (2 ^ 64) addr
  | .dumpDestroy ch d => decide (ch ≤ 320) && below 16 d
  | .dumpSnapshot d _ => below 16 d
  | .timeSet ch _ _ _ => decide (ch ≤ 320)
  | .timeStep ch _ _ => decide (ch ≤ 320)
  | .timeAdj ch _ => decide (ch ≤ 320)
  | .timeSource ch _ port _ => decide (ch ≤ 320) && below 8 port
  | .ppsOutEdge => true
  | .ppsInEdge => true
  | .calSet ch _ _ => decide (ch ≤ 320)
  | .calendarCheck => true
  | .lifRead ch item => decide (ch ≤ 320) && below 512 item
  | .lifFlush ch _ => decide (ch ≤ 320)
  | .lifetimeRecordWrite _ => true
  | .fuseDbgDisable ch key _ => decide (ch ≤ 320) && below (2 ^ 32) key
  | .fuseInjDisable ch key _ => decide (ch ≤ 320) && below (2 ^ 32) key
  | .fuseSecver ch key _ _ => decide (ch ≤ 320) && below (2 ^ 32) key
  | .anchorWrite ch key _ _ _ => decide (ch ≤ 320) && below (2 ^ 32) key
  | .anchorRevoke ch key _ _ => decide (ch ≤ 320) && below (2 ^ 32) key
  | .dbgClose ch => decide (ch ≤ 320)
  | .debugSoftClose _ => true
  | .idcode => true
  | .dapRead addr => below (2 ^ 64) addr
  | .dapWrite addr val => below (2 ^ 64) addr && below (2 ^ 32) val
  | .atlHalt => true
  | .atlResume => true
  | .bypass _ _ _ => true
  | .injPermit ch sl _ => decide (ch ≤ 320) && below 64 sl
  | .injArm ch sl _ => decide (ch ≤ 320) && below 64 sl
  | .injDisarm ch _ sl => decide (ch ≤ 320) && below 64 sl
  | .injQuery ch _ => decide (ch ≤ 320)
  | .injectedReorderRelease _ => true
  | .idRead ch die => decide (ch ≤ 320) && below 20 die
  | .refclkLoss net k => below (if net then 2 else 8) k
  | .refclkReturn net k => below (if net then 2 else 8) k
  | .thermalSensorSample dies mems _ _ => (dies.length == 20) && (mems.length == 20)
  | .coolantFaultRelease => true
  | .perstNRelease port => below 8 port
  | .illegalEncoding w => w.wellFormed
  | .joinAdmissionTimeout => true
  | .flrDrainEnd port => below 8 port

end Sys2Proof
end

