-- ==== Sys2Proof/Certificates/Slice0/Obligations.lean ====
section
/-!
DEFINITION. The statements for the provers.
-/
set_option maxRecDepth 4000
open Sys2Proof Sys2Proof.Machine

/-- A step with command c at the front of the queue runs c on the state with the queue's rest (R40: a block takes commands). -/
def Obligations.StepRunsTheFrontCommand : Prop :=
  ∀ (s : State) (c : Instr), step { s with pending := c :: s.pending } = exec c s

/-- With no command waiting the block idles: the model's choice, log entry 1. -/
def Obligations.IdleStepChangesNothing : Prop :=
  ∀ s : State, s.pending = [] → step s = .next s

/-- The machine after reset: no command waits, memory is zero in its canonical form and holds no error (R71, R74), every register has
the reset value its register map gives (R16), no bristle runs (R124), and the fuses are within themselves (R612). -/
def Obligations.ResetLeavesTheStatedValues : Prop :=
  State.reset.pending = [] ∧ State.reset.out = [] ∧ State.reset.memOk ∧ (∀ a, memRead State.reset.mem a = 0) ∧ State.reset.ecc = [] ∧
    State.reset.stk.bursts = [] ∧ (∀ (r : Reg) (m i j k : Nat), State.reset.rget r m i j k = r.resetAt i) ∧
    (∀ b, b < 3840 → State.reset.brState b = 0 ∧ State.reset.brRuns b = false) ∧ State.reset.dbg.fuses.within State.reset.dbg.fuses

/-- R37: the place of every byte of staging SRAM, and the hole above it. -/
def Obligations.StagingSramHasItsAddresses : Prop :=
  ∀ n b : Nat, n < 4 →
    (b < 0x06000000 → space (0x020000000000 + n * 0x08000000 + b) = .staging n b) ∧
    (0x06000000 ≤ b → b ≤ 0x07FFFFFF → space (0x020000000000 + n * 0x08000000 + b) = .unmapped)

/-- R10, R36, R37: an internal address lies in bristle SRAM exactly where R36 puts a byte of a bristle there, and likewise for staging
SRAM: two bytes never share an address, and no other address reaches them. -/
def Obligations.SramAddressesAreUnique : Prop :=
  (∀ a b o : Nat, space a = .sram b o ↔ (b < 3840 ∧ o < 0x40000 ∧
    a = 0x010000000000 + b / 384 * 0x10000000 + b % 384 / 16 * 0x00400000 + b % 16 * 0x00040000 + o)) ∧
  (∀ a n o : Nat, space a = .staging n o ↔ (n < 4 ∧ o < 0x06000000 ∧ a = stagingAddr n o)) ∧
  (∀ a : Nat, space a = .stack ↔ a < 0x00A000000000)

/-- R121: a trap of cause n is handled by the program when TRAP_EN is 1, bit n of BRS_TMASK is 1 and the bristle is not in the
handler; otherwise it is fatal. Handled is HANDLER at BRS_TVEC with EPC, ECAUSE and EVAL; fatal is FAULTED with RUN clear and
BRS_FAULT. -/
def Obligations.TrapIsHandledOrFatal : Prop :=
  ∀ (s : State) (b n epc eval : Nat), b < 3840 → n < 32 → epc < 2 ^ 18 → eval < 2 ^ 48 →
    (s.fget BRS_CTL_TRAP_EN b = 1 → bit (s.rget BRS_TMASK b) n = true → (s.br b).inHandler = false →
      (s.trap b n epc eval).brState b = 2 ∧ ((s.trap b n epc eval).br b).inHandler = true ∧ ((s.trap b n epc eval).br b).epc = epc ∧
      ((s.trap b n epc eval).br b).ecause = n ∧ ((s.trap b n epc eval).br b).eval = eval) ∧
    (¬(s.fget BRS_CTL_TRAP_EN b = 1 ∧ bit (s.rget BRS_TMASK b) n = true ∧ (s.br b).inHandler = false) →
      (s.trap b n epc eval).brState b = 3 ∧ (s.trap b n epc eval).fget BRS_CTL_RUN b = 0 ∧
      (s.trap b n epc eval).fget BRS_FAULT_PC_PC b = epc ∧
      (s.trap b n epc eval).fget BRS_FAULT_CAUSE b = (if (s.br b).inHandler then 10 else n))

/-- R484: the window changes as the pseudocode says. -/
def Obligations.WindowFollowsThePseudocode : Prop :=
  ∀ (x : Conn) (newly ece psn : Nat),
    (ece ≠ 0 → 0 ≤ psnDiff psn x.cut → x.ccAck newly ece psn =
      { x with cwnd := max 512 (x.cwnd - x.cwnd * x.ecnCut / 16), ssthresh := max 512 (x.cwnd - x.cwnd * x.ecnCut / 16), cut := x.nextPsn }) ∧
    (ece ≠ 0 → psnDiff psn x.cut < 0 → x.ccAck newly ece psn = x) ∧
    (x.ccAck 0 0 psn = { x with cwnd := min x.cwnd 1048576 }) ∧
    (x.ccAck (newly + 1) 0 psn = { x with cwnd := min (growWindow x.ssthresh newly (x.cwnd + (if x.cwnd < x.ssthresh then 256 else 65536 / x.cwnd))) 1048576 }) ∧
    (0 ≤ psnDiff psn x.cut → x.ccLoss psn = { x with cwnd := max 512 (x.cwnd / 2), ssthresh := max 512 (x.cwnd / 2), cut := x.nextPsn }) ∧
    (psnDiff psn x.cut < 0 → x.ccLoss psn = x) ∧
    x.ccTimeout = { x with ssthresh := max 512 (x.cwnd / 2), cwnd := 512, cut := x.nextPsn }

/-- R483, R484: the window stays between 2 and 4,096 packets and an unmarked acknowledgement never shrinks it; a second loss before
CUT is acknowledged does not cut again. -/
def Obligations.WindowStaysInItsBounds : Prop :=
  ∀ (x : Conn) (newly ece psn psn2 : Nat), 512 ≤ x.cwnd → x.cwnd ≤ 1048576 →
    (512 ≤ (x.ccAck newly ece psn).cwnd ∧ (x.ccAck newly ece psn).cwnd ≤ 1048576) ∧
    (ece = 0 → x.cwnd ≤ (x.ccAck newly ece psn).cwnd ∧ (x.ccAck newly ece psn).cut = x.cut) ∧
    (512 ≤ (x.ccLoss psn).cwnd ∧ (x.ccLoss psn).cwnd ≤ x.cwnd) ∧
    (0 ≤ psnDiff psn x.cut → psnDiff psn2 x.nextPsn < 0 → (x.ccLoss psn).ccLoss psn2 = x.ccLoss psn) ∧
    (x.ccTimeout.cwnd = 512 ∧ 512 ≤ x.ccTimeout.ssthresh ∧ x.ccTimeout.ssthresh ≤ 524288)

/-- R188, R209, R111: a write on the bus stores its bytes, whole, at their addresses, and every byte outside them reads as before; the
canonical form stays; a read of good memory gives what was written. -/
def Obligations.BusWritesStoreTheirBytesAlone : Prop :=
  ∀ (s : State) (a : Nat) (bs : List Byte), isMemory a bs.length = true → s.ecc = [] → s.stk.bursts = [] → (∀ k, s.pcFailed k = false) →
    (s.memOk → (s.busWrite a bs).memOk) ∧ (s.busWrite a bs).memGet a bs.length = bs ∧
    (∀ j n, j + n ≤ a ∨ a + bs.length ≤ j → (s.busWrite a bs).memGet j n = s.memGet j n) ∧
    ((s.busWrite a bs).busRead a bs.length).bytes = some bs

/-- The invariant of one-way fuses (R612, R615): whatever fuses f were blown, with the identity fields as they were, they still are
after every step from every state; and a step takes exactly the front command from the queue (log entry 1). -/
def Obligations.EveryStepTakesOneCommandAndUnblowsNoFuse : Prop :=
  ∀ (f : Fuses) (s t : State), f.within s.dbg.fuses → step s = .next t → f.within t.dbg.fuses ∧ t.pending = s.pending.tail

/-- R615: no command but FUSE_PROGRAM's five fields blows a fuse: every other command leaves every fuse as it was. -/
def Obligations.OnlyFuseProgramBlowsFuses : Prop :=
  ∀ (s t : State) (c : Instr), exec c s = .next t →
    (∀ ch key fails, c ≠ .fuseDbgDisable ch key fails ∧ c ≠ .fuseInjDisable ch key fails) →
    (∀ ch key n fails, c ≠ .fuseSecver ch key n fails ∧ c ≠ .anchorRevoke ch key n fails) →
    (∀ ch key n got fails, c ≠ .anchorWrite ch key n got fails) → t.dbg.fuses = s.dbg.fuses

/-- R63: a palette's clock is the lowest of the firmware setting and the input, current and thermal caps; lifting one cap leaves the
others in force; no firmware write raises the clock above an active cap. -/
def Obligations.PaletteClockIsTheLowestSetting : Prop :=
  ∀ (s : State) (p : Nat),
    s.setCaps.clockTarget p = min (smGetD s.pw.fwClk p 16)
      (min (min (if s.fget GSO_PWR_STATUS_VIN_STATE = 1 then 4 else 16) (if s.fget GSO_PWR_STATUS_OC_THROTTLE = 1 then 8 else 16))
        (thermCap (s.fget GSO_THERM_STATUS_THERM_STATE))) ∧
    (∀ v, (s.fset GSO_PWR_STATUS_VIN_STATE v).setCaps.clockTarget p ≤ min (if s.fget GSO_PWR_STATUS_OC_THROTTLE = 1 then 8 else 16) (thermCap (s.fget GSO_THERM_STATUS_THERM_STATE))) ∧
    (∀ v, (s.fset GSO_PWR_STATUS_OC_THROTTLE v).setCaps.clockTarget p ≤ min (if s.fget GSO_PWR_STATUS_VIN_STATE = 1 then 4 else 16) (thermCap (s.fget GSO_THERM_STATUS_THERM_STATE))) ∧
    (∀ v, (s.fset GSO_THERM_STATUS_THERM_STATE v).setCaps.clockTarget p ≤ min (if s.fget GSO_PWR_STATUS_VIN_STATE = 1 then 4 else 16) (if s.fget GSO_PWR_STATUS_OC_THROTTLE = 1 then 8 else 16)) ∧
    (∀ m : SMap Nat, ((s.setCaps.setPw { s.setCaps.pw with fwClk := m }).clockTarget p) ≤
      min (min (if s.fget GSO_PWR_STATUS_VIN_STATE = 1 then 4 else 16) (if s.fget GSO_PWR_STATUS_OC_THROTTLE = 1 then 8 else 16)) (thermCap (s.fget GSO_THERM_STATUS_THERM_STATE)))

/-- R193: a stack-range address is steered to a stack and a 35-bit stack address as the pseudocode says, no two addresses to the same
place, and a 256-byte granule never spans two stacks. -/
def Obligations.SteeringIsOneToOne : Prop :=
  ∀ l x : Nat, l ≤ 31 → x < 0xA000000000 →
    (x / 0x500000000 < l → steer l x = ((x % 0x500000000) >>> 30, ((x / 0x500000000) <<< 30) ||| ((x % 0x500000000) &&& 0x3FFFFFFF))) ∧
    (l ≤ x / 0x500000000 → ∀ g q r h : Nat, g = (x % 0x500000000) >>> 8 → q = g / 20 → r = g % 20 →
      h = (q ^^^ q >>> 5 ^^^ q >>> 10 ^^^ q >>> 15 ^^^ q >>> 20) &&& 0x1F →
      steer l x = ((r + h) % 20, ((x / 0x500000000) <<< 30) ||| (q <<< 8) ||| ((x % 0x500000000) &&& 0xFF))) ∧
    (steer l x).1 < 20 ∧ (steer l x).2 < 2 ^ 35 ∧
    (∀ y, y < 0xA000000000 → steer l y = steer l x → y = x) ∧
    (∀ y, y / 256 = x / 256 → (steer l y).1 = (steer l x).1)

/-- R194: the row, the bank, the pseudo-channel, the column and the byte of a stack address name it alone. -/
def Obligations.BurstPlacesAreUnique : Prop :=
  ∀ a b : Nat, a < 2 ^ 35 → b < 2 ^ 35 → rowOf a = rowOf b → bankOf a = bankOf b → pcOf a = pcOf b →
    getBits a 14 13 * 8 + getBits a 7 5 = getBits b 14 13 * 8 + getBits b 7 5 → a % 32 = b % 32 → a = b

/-- R117: the return stack is a ring of sixteen: in wrap mode up to sixteen pushed return addresses pop in reverse order, and a pop
after sixteen finds the newest entry again; in trap mode a full stack takes no push and an empty one gives no pop. -/
def Obligations.ReturnStackIsARing : Prop :=
  (∀ (br : Bristle) (l : List Nat), br.rsPtr < 16 → l.length ≤ 16 → (br.pushAll l).popAll l.length = l.reverse) ∧
  (∀ (br : Bristle) (l : List Nat) (a : Nat), br.rsPtr < 16 → l.length = 15 → (br.pushAll (l ++ [a])).popAll 17 = a :: (l.reverse ++ [a])) ∧
  (∀ (br br' : Bristle) (ra : Nat), br.rsDepth ≤ 16 → (br.push false ra = some br' ∨ br.push true ra = some br') → br'.rsDepth ≤ 16 ∧ br'.rsPtr < 16) ∧
  (∀ (br : Bristle) (ra : Nat), br.push true ra = none ↔ br.rsDepth = 16) ∧ (∀ br : Bristle, br.pop true = none ↔ br.rsDepth = 0)

/-- R12, R13, R14, R41: a write of a register with no rule of its own gives each bit what its access type says, RWL bits under the
block's lock, and changes nothing else; a requester that is not granted the register changes nothing and gets ACCESS_FAULT; a
reserved offset ignores the write; a register of a sleeping die takes the write when its die wakes. R13: the LOCK bit of a block's
lock register. -/
def Obligations.RegisterWritesFollowTheAccessTypes : Prop :=
  (∀ (s : State) (who : Requester) (addr val w : Nat) (l : CtlLoc) (r : Reg) (ix : List Nat),
    addr % 4 = 0 → ctlLoc addr = some l → regAt l.blk l.inst l.off = some (r, ix) → ordinaryReg l r → s.awake l.blk l.inst →
    s.ctlErr who addr 4 true = none →
    (∀ n, w.testBit n = bitAfterWrite r (s.locked l.blk l.inst) (s.rget r l.inst (ixAt ix 0) (ixAt ix 1) (ixAt ix 2)) val n) →
    (∀ x ∈ fieldRanges, x.1.reg = r → x.2 (getBits w x.1.hi x.1.lo) = true) →
    exec (.registerWrite who addr 4 val) s = .next (s.rset r w l.inst (ixAt ix 0) (ixAt ix 1) (ixAt ix 2))) ∧
  (∀ (s : State) (who : Requester) (addr val : Nat) (l : CtlLoc),
    addr % 4 = 0 → ctlLoc addr = some l → regAt l.blk l.inst l.off = none → l.blk ≠ .mbx → l.blk ≠ .mem → l.blk ≠ .tmt →
    s.awake l.blk l.inst → s.ctlErr who addr 4 true = none → exec (.registerWrite who addr 4 val) s = .next s) ∧
  (∀ (s : State) (sl addr val : Nat) (l : CtlLoc),
    s.pw.devReset = false → addr % 4 = 0 → ctlLoc addr = some l → (ctlLoc (addr + 3)).isSome = true → s.ctlGranted sl addr true = false →
    exec (.registerWrite (.slice sl) addr 4 val) s = .next (s.emit (.report sl .accessFault))) ∧
  (∀ (s : State) (addr val : Nat) (l : CtlLoc) (d : Domain),
    s.pw.devReset = false → addr % 4 = 0 → val < 2 ^ 32 → ctlLoc addr = some l → (ctlLoc (addr + 3)).isSome = true → domainOf l.blk l.inst = some d → s.isGated d = true →
    exec (.registerWrite .atelier addr 4 val) s =
      .next (s.setPw { s.pw with waiting := s.pw.waiting ++ [{ dom := d, addr := addr, val := val }] })) ∧
  (∀ (s : State) (addr : Nat) (l : CtlLoc) (f : Fld),
    addr % 4 = 0 → ctlLoc addr = some l → lockFld l.blk = some f → regAt l.blk l.inst l.off = some (f.reg, []) →
    l.off = f.reg.off → s.awake l.blk l.inst →
    ∃ t, exec (.blockLockSet addr) s = .next t ∧ t = s.rset f.reg (s.rget f.reg l.inst ||| 1) l.inst ∧ t.locked l.blk l.inst = true)

/-- R11, R33, R40: a read of a control register by the atelier core returns the word latched for it, once, and else the live value,
latching the partners of a low word; nothing else changes (whether BRS_STATUS of a bristle at work samples a hold cycle is open,
log entry 24). A domain that wakes is no longer gated, and neither is its palette; no other domain changes but a palette's two
stacks, which leave self-refresh; memory is kept. -/
def Obligations.ReadsLatchAndDomainsWake : Prop :=
  (∀ (s : State) (addr : Nat) (l : CtlLoc) (w : Word32),
    addr % 4 = 0 → ctlLoc addr = some l → ctlLoc (addr + 3) = some { l with off := l.off + 3 } → l.blk ≠ .mbx → s.awake l.blk l.inst →
    smGet s.latch addr = some w →
    exec (.latchingRead .atelier addr 4) s = .next (({ s with latch := smDel s.latch addr } : State).emit (.read addr w.toNat .ok))) ∧
  (∀ (s : State) (addr : Nat) (l : CtlLoc),
    addr % 4 = 0 → ctlLoc addr = some l → ctlLoc (addr + 3) = some { l with off := l.off + 3 } → l.blk ≠ .mbx → s.awake l.blk l.inst →
    smGet s.latch addr = none → s.holdOpen addr = false →
    ∃ t, exec (.latchingRead .atelier addr 4) s = .next t ∧ t.out = .read addr (s.ctlWord l % 2 ^ 32) .ok :: s.out ∧
      (∀ p ∈ s.partners addr, smGet t.latch p = some (BitVec.ofNat 32 (s.wordAt p))) ∧
      (∀ p, p ∉ s.partners addr → smGet t.latch p = smGet s.latch p) ∧ t = { s with latch := t.latch, out := t.out }) ∧
  (∀ (s : State) (d : Domain),
    s.pw.devReset = false → s.pw.waiting = [] → s.fget GSO_MSTATE_STATE ≠ 1 → s.fget GSO_MSTATE_STATE ≠ 2 → s.isGated d = true →
    ∃ t, exec (.powerDomainWake d) s = .next t ∧ t.isGated d = false ∧
      (∀ e, e ≠ d → (∀ p, d = .palette p ∨ (∃ c, d = .cluster p c) ∨ (∃ m, d = .stack m ∧ m / 2 = p) →
        e ≠ .palette p ∧ ∀ m, m / 2 = p → e ≠ .stack m) → t.isGated e = s.isGated e) ∧
      (∀ p m, d = .palette p → m / 2 = p → t.fget MEM_STATUS_STATE m ≠ 2) ∧
      t = { s with pw := t.pw, regs := t.regs, syn := t.syn }) ∧
  (∀ (s : State) (d : Domain), s.pw.devReset = false → s.pw.waiting = [] → s.isGated d = false →
    (∀ p c, d = .cluster p c → s.isGated (.palette p) = false) → (∀ m, d = .stack m → s.isGated (.palette (m / 2)) = false) →
    exec (.powerDomainWake d) s = .next s)

/-- R27, R44, R31, R367, R422, R506, R636, R73: links, ports and clocks. A retry is counted for its link. A link that goes down stays
down and drives FAULT_N, and the requests named as in flight on it end. The bristle clock is the lower of firmware's setting and
the cap. A port reset, and a function level reset, put configuration state back; a lost reference clock is remembered until it
returns. -/
def Obligations.LinksPortsAndClocks : Prop :=
  (∀ (s : State) (l sl : Nat), l ≤ 24 → l ∉ s.fab.down → s.pw.devReset = false → (∀ i, s.fon INJ_ARM_ARMED 0 i = false) →
    ∃ t : State, exec (.fabricFlitRetry l sl) s = .next t ∧ t.fab = { s.fab with retries := smSet s.fab.retries l (smGetD s.fab.retries l 0 + 1) } ∧
      t = { s with fab := t.fab, regs := t.regs, out := t.out }) ∧
  (∀ (s : State) (l : Nat) (recs ciphers : List Nat) (chans loads : List (Nat × Nat)) (flags contribs : List Nat), l ≤ 24 → l ∉ s.fab.down → s.pw.devReset = false →
    (∀ c, c < 8 → (s.ctl c).en = false) →
    ∃ u v : State, u.fab.down = s.fab.down ++ [l] ∧ u.faultLow = true ∧ u.mem = s.mem ∧
      v = u.failRecords (fun _ r => recs.contains r.ord) .fabricLinkDown ∧
      exec (.fabricLinkDown l recs ciphers chans loads flags contribs) s =
        .next ((loads.foldl (fun s q => s.loseLoad l q.1 q.2) (chans.foldl (fun s q => s.dmaStop q.1 q.2 .fabricLinkDown)
          (v.endCipher (ciphers.filterMap (fun i => v.cph.reqs[i]?)).contains .fabricLinkDown))).loseSync l flags contribs)) ∧
  (∀ (s : State) (p c : Nat), p ≤ 9 → 4 ≤ c → c ≤ 16 → s.pw.devReset = false → smGetD s.pw.clk p 16 = min c (s.fget GSO_CLK_CAP_CAP) →
    exec (.bristleClockChange p (some c)) s = .next (s.setPw { s.pw with fwClk := smSet s.pw.fwClk p c })) ∧
  (∀ (s : State) (p c : Nat), p ≤ 9 → 4 ≤ c → c ≤ 16 → s.pw.devReset = false → smGetD s.pw.clk p 16 ≠ min c (s.fget GSO_CLK_CAP_CAP) →
    (∀ b, s.brRuns b = false) →
    exec (.bristleClockChange p (some c)) s =
      .next (((s.setPw { s.pw with fwClk := smSet s.pw.fwClk p c }).countSpins p).setPw
        { s.pw with fwClk := smSet s.pw.fwClk p c, clk := smSet s.pw.clk p (min c (s.fget GSO_CLK_CAP_CAP)) })) ∧
  (∀ (s : State) (p : Nat) (perst : Bool), p ≤ 7 → s.pw.devReset = false →
    ∃ u : State, exec (.portReset p perst) s = .next ((u.nvmReset p).tmtPortGone p) ∧ u.port p = PortX.init ∧
      u.fget HIF_ERR_STATUS_LINK_DOWN p = 1 ∧ u.rget HIF_LINK_STATUS p = 0 ∧ u.out.head? = some (.irq .hif p HIF_ERR_STATUS_LINK_DOWN.lo)) ∧
  (∀ (s : State) (p : Nat), p ≤ 7 → (s.port p).up = true →
    (∃ t : State, exec (.flrFunction0 p) s = .next t ∧ (t.port p).flr = some s.pw.onTicks ∧ (∀ off, off < 4096 → (t.port p).cfgWord 0 off = cfgReset off) ∧
      (∀ k, k / 4096 = 0 → k ∉ (t.port p).pend)) ∧
    (s.bootState ≠ 7 → s.bootState ≠ 8 →
      (∃ u : State, exec (.flrFunction1 p) s = .next (u.nvmReset p) ∧ (∀ off, off < 4096 → (u.port p).cfgWord 1 off = cfgReset off) ∧
        u = s.setPort p (u.port p)) ∧
      (∃ u : State, exec (.flrFunction2 p) s = .next (u.tmtPortGone p) ∧ (∀ off, off < 4096 → (u.port p).cfgWord 2 off = cfgReset off) ∧
        u = s.setPort p (u.port p)))) ∧
  (∀ (s : State) (p : Nat), p ≤ 7 → s.flrDrained p = true →
    ∃ u : State, exec (.flrDrainEnd p) s =
        .next (((u.squashReady (fun q => q.port == p)).squashWorks (fun w => w.port == p)).endCipher (fun r => r.port == p) .squashed) ∧
      u = s.setPort p { s.port p with flr := none }) ∧
  (∀ (s : State) (p : Nat), ∃ t : State, exec (.perstNRelease p) s = .next t ∧ p ∉ t.pw.perstLow ∧
    (∀ q, q ≠ p → (q ∈ t.pw.perstLow ↔ q ∈ s.pw.perstLow)) ∧ t = s.setPw { s.pw with perstLow := t.pw.perstLow }) ∧
  (∀ (s : State) (k : Nat), k ≤ 7 → k ∉ s.pw.refLost → s.pw.devReset = false →
    ∃ u : State, exec (.refclkLoss false k) s = .next (u.portReset k) ∧ u = s.setPw { s.pw with refLost := s.pw.refLost ++ [k] }) ∧
  (∀ (s : State) (k : Nat), k ≤ 1 → 8 + k ∉ s.pw.refLost → s.pw.devReset = false → (∀ j, s.linkUp k j = false) →
    exec (.refclkLoss true k) s = .next (s.setPw { s.pw with refLost := s.pw.refLost ++ [8 + k] })) ∧
  (∀ (s : State) (k : Nat), ∃ t : State, exec (.refclkReturn false k) s = .next t ∧ k ∉ t.pw.refLost ∧
    t = s.setPw { s.pw with refLost := t.pw.refLost })

/-- R56 to R60, R69, R70, R632, R634: the input states. A sample is recorded; below the warning threshold the input is in WARNING with
the 400 MHz cap and WARN_EVT, below 38 V in BROWNOUT with the device reset; ten milliseconds at the release level leave either.
The current throttle, after 100 µs at its level, caps the clock at 800 MHz. A trip, when its level has stood long enough, opens
the switch, drives FAULT_N low and resets the device in INPUT_OFF. -/
def Obligations.InputStatesFollowTheSamples : Prop :=
  (∀ (s : State) (vin iin : Nat), s.pw.lockout = false → vin < 4096 → iin < 65536 → s.pw.powerUp = false → s.pw.swClosed = true →
    ∃ u : State, exec (.inputSample vin iin) s = .next u.passTick ∧
      (s.fget GSO_PWR_STATUS_VIN_STATE = 0 → s.vinWarn ≤ vin → 1900 ≤ vin →
        u.fget GSO_PWR_STATUS_VIN_STATE = 0 ∧ u.fget GSO_VIN_VIN_NOW = vin ∧ u.fget GSO_IIN_IIN_NOW = iin ∧ u.mem = s.mem) ∧
      (s.fget GSO_PWR_STATUS_VIN_STATE = 0 → vin < s.vinWarn → 1900 ≤ vin →
        u.fget GSO_PWR_STATUS_VIN_STATE = 1 ∧ u.fget GSO_PWR_STATUS_WARN_EVT = 1 ∧ u.fget GSO_CLK_CAP_CAP ≤ 4 ∧ u.fget GSO_CLK_CAP_BY_VIN = 1 ∧
          u.mem = s.mem) ∧
      (s.fget GSO_PWR_STATUS_VIN_STATE ≤ 1 → vin < 1900 → s.pw.offTrip = false → s.pw.devReset = false →
        u.pw.devReset = true ∧ u.pw.causes = [.brownout] ∧ u.mem = [] ∧ u.pw.dwell = 0) ∧
      (s.fget GSO_PWR_STATUS_VIN_STATE = 1 → 1900 ≤ vin → u.pw.dwell = if s.vinRelease ≤ vin then s.pw.dwell + 1 else 0)) ∧
  (∀ s : State, s.pw.lockout = false → 1000 ≤ s.pw.dwell → s.pw.powerUp = false → s.fget GSO_PWR_STATUS_VIN_STATE = 1 →
    ∃ t : State, exec .inputDwellComplete s = .next t ∧ t.fget GSO_PWR_STATUS_VIN_STATE = 0 ∧ t.fget GSO_CLK_CAP_BY_VIN = 0 ∧ t.pw.dwell = 0 ∧
      t = { s with regs := t.regs, pw := t.pw }) ∧
  (∀ s : State, s.pw.lockout = false → 1000 ≤ s.pw.dwell → s.pw.powerUp = true → s.pw.modResetN = true → s.pw.swClosed = true →
    ∃ t : State, exec .inputDwellComplete s = .next t ∧ t.fget GSO_PWR_STATUS_VIN_STATE = 0 ∧ t.fget GSO_MSTATE_STATE = 0 ∧
      t.pw.powerUp = false ∧ t.pw.devReset = false ∧ t = { s with regs := t.regs, pw := t.pw }) ∧
  (∀ s : State, s.pw.lockout = false → 10 ≤ s.pw.iinHigh → ∃ t : State, exec .currentThrottle s = .next t ∧ t.fget GSO_PWR_STATUS_OC_THROTTLE = 1 ∧ t.fget GSO_CLK_CAP_BY_CURRENT = 1 ∧
    t.fget GSO_CLK_CAP_CAP = min (min (if s.fget GSO_PWR_STATUS_VIN_STATE = 1 then 4 else 16) 8) (thermCap (s.fget GSO_THERM_STATUS_THERM_STATE)) ∧
    t = { s with regs := t.regs, pw := t.pw }) ∧
  (∀ s : State, s.pw.lockout = false → 1000 ≤ s.pw.iinLow → ∃ t : State, exec .currentThrottleRelease s = .next t ∧ t.fget GSO_PWR_STATUS_OC_THROTTLE = 0 ∧ t.fget GSO_CLK_CAP_BY_CURRENT = 0 ∧
    t.fget GSO_CLK_CAP_CAP = min (if s.fget GSO_PWR_STATUS_VIN_STATE = 1 then 4 else 16) (thermCap (s.fget GSO_THERM_STATUS_THERM_STATE)) ∧
    t = { s with regs := t.regs }) ∧
  (∀ (s : State) (c : Instr), s.pw.lockout = false → s.pw.absorbs .other = false →
    (c = .currentTrip ∧ 100 ≤ s.pw.iinTrip) ∨ (c = .overvoltageTrip ∧ 3100 ≤ s.fget GSO_VIN_VIN_NOW) ∨ (c = .railFault ∧ s.pw.swClosed = true) →
    ∃ t : State, exec c s = .next t ∧ t.pw.swClosed = false ∧ t.faultLow = true ∧ t.pw.devReset = true ∧ t.fget GSO_MSTATE_STATE = 3 ∧
      t.mem = [] ∧ t.dbg.fuses = s.dbg.fuses ∧ t.net.flash = s.net.flash) ∧
  (∀ s : State, s.fget GSO_VIN_VIN_NOW < 1500 → ∃ t : State, exec .gessoLockout s = .next t ∧ t.pw.lockout = true ∧ t.pw.swClosed = false ∧ t.pw.devReset = true ∧
    t.pw.calValid = false ∧ t.pw.onTicks = 0 ∧ t.fget GSO_MSTATE_STATE = 3 ∧ t.mem = []) ∧
  (∀ (s : State) (vin : Nat), s.pw.lockout = true → 1600 ≤ vin → ∃ t : State, exec (.gessoPowerUp vin) s = .next t ∧ t.mem = [] ∧ t.pw.lockout = false ∧ t.pw.devReset = true ∧
    t.pw.powerUp = s.pw.pwrEn ∧ t.pw.swClosed = s.pw.pwrEn ∧ t.pw.dips = s.pw.dips ∧
    smGet t.pw.evStore 1 = some (satAdd 32 (smGetD s.pw.evStore 1 0) 1) ∧ t.dbg.fuses = s.dbg.fuses ∧
    (s.pw.coolantFaultN = true → ∀ r m i j k, (ctlLoc (r.addr m i j k)).isSome = true → t.rget r m i j k = r.resetAt i))

/-- R51, R52, R56, R61, R62, R69, R633: heat and pins. The thermal state rises at once with its event and its cap, TRIP resets the
device, a level falls only with every source 5 °C below it; a coolant fault acts as CRITICAL. PWR_EN low switches off; MOD_RESET_N
holds the device reset; the warning threshold takes 40 to 46 V unless locked. -/
def Obligations.HeatAndPinsActAtOnce : Prop :=
  (∀ (s : State) (k temp : Nat), s.pw.lockout = false → k ≤ 40 → s.fget GSO_THERM_STATUS_THERM_STATE < thermLevel k temp → thermLevel k temp < 3 →
    (∀ q ∈ s.pw.temps, q.1 ≠ k → thermLevel q.1 q.2 ≤ thermLevel k temp) →
    ∃ t : State, exec (.thermalStateRise k temp) s = .next t ∧ t.fget GSO_THERM_STATUS_THERM_STATE = thermLevel k temp ∧
      smGet t.pw.temps k = some temp ∧ t.fget (if thermLevel k temp = 1 then GSO_THERM_STATUS_WARN_EVT else GSO_THERM_STATUS_CRIT_EVT) = 1 ∧
      t.fget GSO_CLK_CAP_CAP ≤ thermCap (thermLevel k temp) ∧ t = { s with regs := t.regs, pw := t.pw }) ∧
  (∀ (s : State) (k temp : Nat), s.pw.lockout = false → k ≤ 40 → s.pw.absorbs .thermalTrip = false → s.fget GSO_THERM_STATUS_THERM_STATE < 3 →
    thermLevel k temp = 3 →
    ∃ t : State, exec (.thermalStateRise k temp) s = .next t ∧ t.pw.devReset = true ∧ .thermalTrip ∈ t.pw.causes ∧ t.faultLow = true ∧
      t.thermLow = true ∧ t.fget GSO_MSTATE_STATE = 3 ∧ t.pw.swClosed = false ∧ t.mem = []) ∧
  (∀ (s : State) (k temp : Nat), s.pw.lockout = false → k ≤ 40 → thermLevel k temp ≤ s.fget GSO_THERM_STATUS_THERM_STATE →
    (∀ q ∈ s.pw.temps, q.1 ≠ k → thermLevel q.1 q.2 ≤ s.fget GSO_THERM_STATUS_THERM_STATE) →
    ∃ t : State, exec (.thermalStateRise k temp) s = .next t ∧ t.rget GSO_THERM_STATUS = s.rget GSO_THERM_STATUS ∧
      t.rget GSO_CLK_CAP = s.rget GSO_CLK_CAP ∧ smGet t.pw.temps k = some temp ∧ t = { s with regs := t.regs, pw := t.pw }) ∧
  (∀ s : State, s.pw.lockout = false → 1000 ≤ s.pw.thermCalm → s.fget GSO_THERM_STATUS_THERM_STATE = 1 → s.allBelow 1 5 = true →
    ∃ t : State, exec .thermalDwellFall s = .next t ∧ t.fget GSO_THERM_STATUS_THERM_STATE = 0 ∧ t.fget GSO_CLK_CAP_BY_THERM = 0 ∧
      t = { s with regs := t.regs, pw := { s.pw with thermCalm := 0 } }) ∧
  (∀ s : State, s.pw.lockout = false → 1000 ≤ s.pw.thermCalm → s.fget GSO_THERM_STATUS_THERM_STATE = 2 → s.allBelow 2 5 = true → s.pw.coolantFaultN = true →
    ∃ t : State, exec .thermalDwellFall s = .next t ∧ t.fget GSO_THERM_STATUS_THERM_STATE = 1 ∧
      t = { s with regs := t.regs, pw := { s.pw with thermCalm := 0 } }) ∧
  (∀ s : State, s.pw.lockout = false → s.fget GSO_THERM_STATUS_THERM_STATE < 2 →
    ∃ t : State, exec .coolantFault s = .next t ∧ t.pw.coolantFaultN = false ∧ t.fget GSO_THERM_STATUS_COOLANT_FAULT = 1 ∧
      t.fget GSO_THERM_STATUS_THERM_STATE = 2 ∧ t.fget GSO_CLK_CAP_CAP ≤ 4) ∧
  (∀ s : State, s.pw.lockout = false → ∃ t : State, exec .coolantFaultRelease s = .next t ∧ t.pw.coolantFaultN = true ∧ t.fget GSO_THERM_STATUS_COOLANT_FAULT = 0 ∧
    t.fget GSO_THERM_STATUS_THERM_STATE = s.fget GSO_THERM_STATUS_THERM_STATE) ∧
  (∀ (s : State) (dies mems : List Nat) (inlet outlet : Nat), s.pw.lockout = false → (∀ d ∈ dies, d < 95) → (∀ m ∈ mems, m < 85) → inlet < 46 →
    dies.length = 20 → mems.length = 20 →
    ∃ t : State, exec (.thermalSensorSample dies mems inlet outlet) s = .next t ∧ t.pw.coolantOut = outlet ∧
      t.fget GSO_THERM_STATUS_THERM_STATE = s.fget GSO_THERM_STATUS_THERM_STATE ∧
      smGet t.pw.evStore 18 = some (max (dies.foldl max 0) (smGetD s.pw.evStore 18 0)) ∧
      (∀ m, m < 20 → t.fget MEM_STATUS_REFRESH_2X m = 0 ∧ t.fget MEM_STATUS_TEMP m = mems.getD m 0) ∧
      t = { s with regs := t.regs, pw := t.pw }) ∧
  (∀ s : State, s.pw.lockout = false → s.pw.absorbs .other = false → ∃ t : State, exec .pwrEnFall s = .next t ∧ t.pw.pwrEn = false ∧ t.pw.swClosed = false ∧ t.pw.devReset = true ∧
    t.fget GSO_PWR_STATUS_VIN_STATE = 3 ∧ t.fget GSO_MSTATE_STATE = 3 ∧ t.mem = []) ∧
  (∀ s : State, s.pw.lockout = false → s.pw.thermTrip = false → s.fget GSO_MSTATE_STATE = 3 → s.pw.offTrip = false →
    exec .pwrEnRise s = .next (s.setPw { s.pw with pwrEn := true, powerUp := true, swClosed := true, offTrip := false, dwell := 0 })) ∧
  (∀ s : State, s.pw.lockout = false → s.pw.pwrEn = true → s.pw.absorbs .modReset = false → ∃ t : State, exec .modResetAssert s = .next t ∧ t.pw.modResetN = false ∧ t.pw.devReset = true ∧
    .modReset ∈ t.pw.causes ∧ t.mem = [] ∧ t.bootState = 0) ∧
  (∀ s : State, s.pw.lockout = false → s.fget GSO_MSTATE_STATE ≠ 3 → s.pw.powerUp = false → s.fget GSO_PWR_STATUS_VIN_STATE < 2 →
    s.pw.swClosed = true → s.pw.devReset = true → s.pw.causes = [.modReset] →
    ∃ t : State, exec .modResetRelease s = .next t ∧ t.pw.modResetN = true ∧ t.pw.devReset = false ∧
      t.fget ATL_RESET_CAUSE_MOD_RESET = 1 ∧ t = { s with regs := t.regs, pw := t.pw }) ∧
  (∀ (s : State) (v : Nat), s.fon GSO_LOCK_LOCK = false → 400 ≤ v → v ≤ 460 →
    ∃ t : State, exec (.gsoVinWarnWrite v) s = .next t ∧ t.fget GSO_VIN_WARN_WARN_DV = v ∧ t.vinRelease = v * 5 + 50 ∧ t = { s with regs := t.regs }) ∧
  (∀ (s : State) (v : Nat), s.fon GSO_LOCK_LOCK = true → exec (.gsoVinWarnWrite v) s = .next s) ∧
  (∀ s : State, exec .vinMinClr s = .next (s.setPw { s.pw with vinMinClr := true }))

/-- R65 to R68, R33: module states. M1, of an idle module, gates palettes and stretchers with the stacks in self-refresh, M2 the other
dies as well where nothing blocks it; a wake leaves every domain awake in M0. A wake that came during an entry is served at its
end. -/
def Obligations.ModuleStatesGateAndWake : Prop :=
  (∀ s : State, s.fget GSO_MSTATE_STATE = 0 → s.fon GSO_MSTATE_CTL_M1_IDLE_US = true → s.pw.devReset = false → s.idle = true →
    ∃ u : State, exec (.m1Entry false) s = .next (u.selfRefresh.fset GSO_MSTATE_STATE 1) ∧ (∀ p, p < 10 → u.isGated (.palette p) = true) ∧
      (∀ n, n < 4 → u.isGated (.stretcher n) = true) ∧ u = s.setPw u.pw) ∧
  (∀ s : State, s.fget GSO_MSTATE_STATE = 0 → s.fon GSO_MSTATE_CTL_M1_IDLE_US = true → s.pw.devReset = false → s.idle = false →
    ∀ w : Bool, exec (.m1Entry w) s = .next s) ∧
  (∀ s : State, s.fget GSO_MSTATE_STATE = 0 → s.fon GSO_MSTATE_CTL_M1_IDLE_US = true → s.pw.devReset = false → s.idle = true →
    ∃ u t : State, exec (.m1Entry false) s = .next u ∧ exec (.m1Entry true) s = .next t ∧ t = u.wakeModule ∧ t.fget GSO_MSTATE_STATE = 0) ∧
  (∀ s : State, s.fget GSO_MSTATE_STATE = 1 → s.m2Blockers = 0 →
    ∃ u : State, exec (.m2Entry false) s = .next u.lanesDown.suspendDumps ∧ u.fget GSO_MSTATE_STATE = 2 ∧ (∀ d ∈ m2Domains, u.isGated d = true) ∧
      u = { s with regs := u.regs, pw := u.pw }) ∧
  (∀ s : State, s.fget GSO_MSTATE_STATE = 1 → s.m2Blockers ≠ 0 → ∀ w : Bool, exec (.m2Entry w) s = .next s) ∧
  (∀ (s : State) (src : WakeSource), (s.fget GSO_MSTATE_STATE = 1 ∧ (src = .work ∨ src = .controlAccess)) ∨ (s.fget GSO_MSTATE_STATE = 2 ∧ src ≠ .work ∧ src ≠ .controlAccess) →
    ∃ u : State, exec (.moduleWake src) s = .next u.resumeDumps ∧ u.fget GSO_MSTATE_STATE = 0 ∧
      (∀ d ∈ m1Domains ++ m2Domains, u.isGated d = false) ∧ u = { s with regs := u.regs, pw := u.pw }) ∧
  (∀ s : State, s.pw.lockout = false → s.pw.pwrEn = true → s.fget GSO_MSTATE_STATE = 2 →
    ∃ u : State, exec .wakeNPulse s = .next u.resumeDumps ∧ u.fget GSO_MSTATE_STATE = 0 ∧ (∀ d ∈ m1Domains ++ m2Domains, u.isGated d = false)) ∧
  (∀ s : State, s.pw.lockout = false → s.pw.pwrEn = true → s.fget GSO_MSTATE_STATE = 3 → s.pw.thermTrip = false → s.pw.powerUp = false → s.pw.offTrip = false →
    exec .wakeNPulse s = .next (s.setPw { s.pw with powerUp := true, swClosed := true, offTrip := false, dwell := 0 }))

/-- R70 to R79, R82 to R88, R94, R96: reset, boot, restart. A device reset clears memory and keeps fuses and flash. A cold boot
without a valid image ends in RECOVERY. A restart counts and records its cause; the third watchdog expiry of a minute halts the
core. -/
def Obligations.ResetBootAndRestart : Prop :=
  (∀ s : State, s.pw.modResetN = false → s.pw.absorbs .other = false → ∃ t : State, exec .deviceReset s = .next t ∧ t.pw.devReset = true ∧ t.mem = [] ∧ t.brs = [] ∧
    t.works = [] ∧ t.dbg.fuses = s.dbg.fuses ∧ t.dbg.loaded = s.dbg.fuses ∧ t.nvm.ops = s.nvm.ops ∧ t.net.flash = s.net.flash ∧
    t.pending = s.pending ∧ t.bootState = 0 ∧ t.fget GSO_VIN_VIN_NOW = s.fget GSO_VIN_VIN_NOW) ∧
  (∀ s : State, s.pw.modResetN = true → s.pw.powerUp = false → s.pw.swClosed = true → s.fget GSO_MSTATE_STATE ≠ 3 →
    s.fget GSO_PWR_STATUS_VIN_STATE < 2 → s.pw.absorbs .other = false → ∃ t : State, exec .deviceReset s = .next t ∧ t.pw.devReset = false ∧ t.mem = [] ∧ t.bootState = 0) ∧
  (∀ (s : State) (ch : Nat), s.secureRuns ch 2 = true →
    ∃ u : State, exec (.deviceResetCommand ch) s = .next u.commandReset ∧ u = (s.takeUp ch).ack ch .ok 0 []) ∧
  (∀ s : State, s.pw.absorbs .command = false → s.commandReset.mem = [] ∧ s.commandReset.bootState = 0 ∧
    (s.pw.modResetN = true → s.commandReset.pw.devReset = false ∧ s.commandReset.fget ATL_RESET_CAUSE_CMD_RESET = 1) ∧
    (s.pw.modResetN = false → s.commandReset.pw.devReset = true)) ∧
  (∀ (s : State) (env : BootEnv), s.pw.devReset = false → s.bootState = 0 → (∀ n, n ≤ 1 → headerOk s.atl.flash (slotAt n) = false) →
    ∃ u : State, exec (.coldBoot env) s = .next (u.toRecovery u.noImage) ∧ u.dbg.loaded = s.dbg.fuses ∧
      (s.atl.bootRecord = none → u.noImage = .flashError)) ∧
  (∀ (s : State) (st : Status), (s.toRecovery st).fget ATL_BOOT_STATUS_STATE = 7 ∧ (s.toRecovery st).fget ATL_BOOT_STATUS_FAIL_CODE = st.code % 256) ∧
  (∀ (s : State) (env : BootEnv) (n : Nat) (trial : Bool) (u v : State), s.pw.devReset = false → s.bootState = 0 →
    (s.loadFuses.applyPresets.bootTo 1).selectBoot.chooseImage = (some (n, trial), u) →
    v = (u.enterImage n trial).fset ATL_UPD_STATUS_RESULT u.lastResult →
    exec (.coldBoot env) s = .next (((if trial then v.updTo 6 else v).bootTo 2).bootRest env)) ∧
  (∀ (s : State) (env : BootEnv), env.fabricTrains = true → env.untrained = [] → (∀ m, m < 20 → s.stackTrains env.pins m = true) →
    env.failedClusters = [] → s.atl.clusterMapFlash = [] → env.logs = [] →
    s.bootRest env = ((((s.bootTo 3).bootTo 4).bringUp [] env.pins).bootTo 5).serveAgain) ∧
  (∀ (s : State) (ch len : Nat) (env : BootEnv), s.bootState = 7 → ch % 32 = 0 → s.holdsMsg ch 9 [(1, len)] = true → s.checkStaged = .ok →
    len = imageLength s.mem recoveryBase → s.memOk →
    ∃ u : State, exec (.fwRecoverLoad ch len env) s =
        .next ((((u.enterImage 0 false).fset ATL_UPD_STATUS_RESULT s.lastResult).bootTo 2).bootRest env) ∧
      (∀ i, i < imageLength s.mem recoveryBase → memRead u.atl.flash (slotAt 0 + i) = memRead s.mem (recoveryBase + i)) ∧
      u.fget ATL_BOOT_STATUS_FAIL_CODE = 0) ∧
  (∀ (s : State) (cause : Nat) (logs : List LogRecord), s.bootState = 5 →
    exec (.atelierRestart cause logs) s = .next ((s.triggerRestart cause).finishRestart logs)) ∧
  (∀ (s : State) (logs : List LogRecord) (cause : Nat), s.bootState = 6 → exec (.atelierRestart cause logs) s = .next (s.finishRestart logs)) ∧
  (∀ (s : State) (logs : List LogRecord), s.bootState = 5 → s.atl.coreHalted = false → s.wdtRecent < 2 →
    ∃ u : State, exec (.watchdogExpiry logs) s = .next (u.triggerRestart 1) ∧ u.wdtRecent = s.wdtRecent + 1) ∧
  (∀ (s : State) (logs : List LogRecord), s.bootState = 5 → s.atl.coreHalted = false → 2 ≤ s.wdtRecent →
    ∃ t : State, exec (.watchdogExpiry logs) s = .next t ∧ t.bootState = 9 ∧ t.fget ATL_BOOT_STATUS_FAIL_CODE = Status.fwWatchdog.code) ∧
  (∀ (s : State) (logs : List LogRecord), s.bootState = 6 → 200000 ≤ s.pw.restartTicks → s.wdtRecent < 2 →
    ∃ u : State, exec (.restartDeadlineExpiry logs) s = .next (u.triggerRestart 1) ∧ u.wdtRecent = s.wdtRecent + 1) ∧
  (∀ (s : State) (ch : Nat), s.secureRuns ch 3 = true →
    exec (.fwRestart ch) s = .next (((s.takeUp ch).ack ch .ok 0 []).triggerRestart 2))

/-- R92 to R95, R83: firmware update over the mailbox. -/
def Obligations.FirmwareUpdateStates : Prop :=
  (∀ s : State, s.running = true → s.fon ATL_BOOT_STATUS_TRIAL = true → 1000000 ≤ s.pw.runTicks →
    ∃ u : State, exec .trialConfirm s = .next ((u.updTo 0).evAdd 13 1).writeLifeRecord ∧ u.fget ATL_BOOT_STATUS_TRIAL = 0 ∧
      u.fget ATL_UPD_STATUS_RESULT = Status.confirmed.code ∧
      u.atl = s.atl.writeRecord { BootRecord.blank with confirmed := s.fget ATL_BOOT_STATUS_SLOT, result := Status.confirmed.code }) ∧
  (∀ (s : State) (ch len : Nat), s.serves ch 4 [(1, len)] .secure false = true → s.fget ATL_UPD_STATUS_USTATE = 0 → 4096 ≤ len → len ≤ 0x3000000 →
    ∃ u : State, exec (.fwUpdateBegin ch len true) s = .next (((u.updTo 1).updProgress 0).ack ch .ok 0 []) ∧
      u.atl.updTotal = (len + 4095) / 4096 ∧ u.atl.updNext = 0 ∧ headerOk u.atl.flash (slotAt s.targetSlot) = false ∧ u.mem = s.mem) ∧
  (∀ (s : State) (ch len : Nat) (ok : Bool), s.serves ch 4 [(1, len)] .secure false = true → s.fget ATL_UPD_STATUS_USTATE ≠ 0 →
    exec (.fwUpdateBegin ch len ok) s = .next ((s.takeUp ch).ack ch .busy 0 [])) ∧
  (∀ (s : State) (ch first n : Nat) (bs : List Byte), s.serves ch 5 [(3, first), (4, n)] .secure true = true → s.fget ATL_UPD_STATUS_USTATE = 1 → 1 ≤ n → n ≤ 256 →
    first = s.atl.updNext → first + n < s.atl.updTotal →
    ∃ u : State, exec (.fwUpdateWrite ch first n true (.ok, bs)) s = .next (u.ack ch .ok 0 [first + n]) ∧ u.atl.updNext = first + n ∧
      u.atl.flash = memWriteN s.atl.flash (slotAt s.targetSlot + 4096 * first) (bs.take (4096 * n)) ∧ u.fget ATL_UPD_STATUS_USTATE = 1) ∧
  (∀ (s : State) (ch : Nat) (logs : List LogRecord), s.serves ch 6 [] .secure false = true → s.fget ATL_UPD_STATUS_USTATE = 2 →
    s.checkImage s.atl.flash (slotAt s.targetSlot) = .ok →
    ∃ u : State, exec (.fwUpdateVerify ch logs) s = .next (u.ack ch .ok 0 [3]) ∧ u.fget ATL_UPD_STATUS_USTATE = 3 ∧ u.atl.flash = s.atl.flash) ∧
  (∀ (s : State) (ch : Nat) (logs : List LogRecord) (st : Status), s.serves ch 6 [] .secure false = true → s.fget ATL_UPD_STATUS_USTATE = 2 →
    s.checkImage s.atl.flash (slotAt s.targetSlot) = st → st ≠ .ok →
    ∃ u : State, exec (.fwUpdateVerify ch logs) s = .next (u.ack ch st 0 [0]) ∧ u.fget ATL_UPD_STATUS_USTATE = 0 ∧
      u.fget ATL_UPD_STATUS_RESULT = st.code) ∧
  (∀ (s : State) (ch : Nat), s.serves ch 7 [] .secure false = true → s.fget ATL_UPD_STATUS_USTATE = 3 → s.emergency = true →
    ∃ u : State, exec (.fwActivate ch) s = .next (u.ack ch .ok 0 [4]) ∧ u = (s.takeUp ch).updTo 4) ∧
  (∀ (s : State) (ch : Nat), s.serves ch 7 [] .secure false = true → s.fget ATL_UPD_STATUS_USTATE = 3 → s.emergency = false →
    exec (.fwActivate ch) s = .next ((((s.takeUp ch).updTo 5).ack ch .ok 0 [5]).activate)) ∧
  (∀ (s : State) (ch : Nat), s.serves ch 8 [] .secure false = true → s.fget ATL_UPD_STATUS_USTATE = 4 →
    ∃ u : State, exec (.fwActivateCancel ch) s = .next (u.ack ch .ok 0 [3]) ∧ u.fget ATL_UPD_STATUS_USTATE = 3) ∧
  (∀ s : State, s.running = true → s.fget ATL_UPD_STATUS_USTATE = 4 → s.emergency = false → 1000 ≤ s.pw.calm →
    exec .deferredActivationStart s = .next s.activate)

/-- R106, R136, R161: a register operation writes its result to rd, the sources read before, and nothing else of the bristle's
registers; a write to g0 is discarded; the next instruction follows. Shifts use the low six bits of the amount. -/
def Obligations.RegisterOperationsWriteTheirResult : Prop :=
  (∀ p ∈ ([(.add, fun x y => x + y), (.sub, fun x y => x - y), (.andI, fun x y => x &&& y), (.orI, fun x y => x ||| y),
      (.xorI, fun x y => x ^^^ y), (.sll, fun x y => x <<< (y.toNat % 64)), (.srl, fun x y => x >>> (y.toNat % 64)),
      (.sra, fun x y => x.sshiftRight (y.toNat % 64)), (.slt, fun x y => if x.toInt < y.toInt then 1 else 0),
      (.sltu, fun x y => if x.toNat < y.toNat then 1 else 0), (.minI, fun x y => if x.toInt < y.toInt then x else y),
      (.maxI, fun x y => if x.toInt < y.toInt then y else x), (.minu, fun x y => if x.toNat < y.toNat then x else y),
      (.maxu, fun x y => if x.toNat < y.toNat then y else x), (fun w d a _ => .mov w d a, fun x _ => x)] :
        List ((Issue → Nat → Nat → Nat → Instr) × (Word64 → Word64 → Word64))),
    ∀ (s : State) (w : Issue) (rd rs1 rs2 : Nat), rd < 32 → rs1 < 32 → rs2 < 32 → s.goes w [rs1, rs2] false → s.goes w [rs1, 0] false →
      ∃ t : State, exec (p.1 w rd rs1 rs2) s = .next t ∧
        (t.br w.b).g rd = (if rd = 0 then 0 else p.2 ((s.br w.b).g rs1) ((s.br w.b).g rs2)) ∧
        (∀ r, r ≠ rd → (t.br w.b).g r = (s.br w.b).g r) ∧ (∀ r, (t.br w.b).v r = (s.br w.b).v r) ∧
        (t.br w.b).pc = ((s.br w.b).pc + (s.asCoded w).len) % 2 ^ 18 ∧ (t.br w.b).sbuf = (s.br w.b).sbuf ∧ s.onlyBristle t w.b)

/-- R7, R137, R157, R158: an immediate operation computes with the immediate extended as its mnemonic says (16 bits, 32 with LONG
where that is allowed) and writes rd alone; LADR gives the address of a byte of the bristle's own SRAM. -/
def Obligations.ImmediateOperationsWriteTheirResult : Prop :=
  (∀ p ∈ ([(.addi, true, fun x y => x + y), (.slti, true, fun x y => if x.toInt < y.toInt then 1 else 0),
      (.sltiu, true, fun x y => if x.toNat < y.toNat then 1 else 0), (.andi, false, fun x y => x &&& y), (.ori, false, fun x y => x ||| y),
      (.xori, false, fun x y => x ^^^ y)] : List ((Issue → Nat → Nat → Nat → Instr) × Bool × (Word64 → Word64 → Word64))),
    ∀ (s : State) (w : Issue) (rd rs1 imm : Nat), rd < 32 → rs1 < 32 → imm < 2 ^ (if (s.asCoded w).long then 32 else 16) → s.goes w [rs1] false →
      ∃ t : State, exec (p.1 w rd rs1 imm) s = .next t ∧
        (t.br w.b).g rd = (if rd = 0 then 0 else p.2.2 ((s.br w.b).g rs1)
          (if p.2.1 then (if (s.asCoded w).long then (BitVec.ofNat 32 imm).signExtend 64 else (BitVec.ofNat 16 imm).signExtend 64) else BitVec.ofNat 64 imm)) ∧
        (∀ r, r ≠ rd → (t.br w.b).g r = (s.br w.b).g r) ∧ (t.br w.b).pc = ((s.br w.b).pc + (s.asCoded w).len) % 2 ^ 18 ∧ s.onlyBristle t w.b) ∧
  (∀ p ∈ ([(.slli, fun x n => x <<< n), (.srli, fun x n => x >>> n), (.srai, fun x n => x.sshiftRight n)] :
      List ((Issue → Nat → Nat → Nat → Instr) × (Word64 → Nat → Word64))),
    ∀ (s : State) (w : Issue) (rd rs1 n : Nat), rd < 32 → rs1 < 32 → n < 64 → (s.asCoded w).long = false → s.goes w [rs1] false →
      ∃ t : State, exec (p.1 w rd rs1 n) s = .next t ∧ (t.br w.b).g rd = (if rd = 0 then 0 else p.2 ((s.br w.b).g rs1) n) ∧
        (∀ r, r ≠ rd → (t.br w.b).g r = (s.br w.b).g r) ∧ (t.br w.b).pc = ((s.br w.b).pc + (s.asCoded w).len) % 2 ^ 18 ∧ s.onlyBristle t w.b) ∧
  (∀ (s : State) (w : Issue) (rd rs1 imm : Nat), rd < 32 → rs1 < 32 → imm < 2 ^ 16 → (s.asCoded w).long = false → s.goes w [rs1] false →
      ∃ t : State, exec (.sli w rd rs1 imm) s = .next t ∧
        (t.br w.b).g rd = (if rd = 0 then (0 : Word64) else ((s.br w.b).g rs1 <<< 16) ||| BitVec.ofNat 64 imm) ∧
        (∀ r, r ≠ rd → (t.br w.b).g r = (s.br w.b).g r) ∧ (t.br w.b).pc = ((s.br w.b).pc + (s.asCoded w).len) % 2 ^ 18 ∧ s.onlyBristle t w.b) ∧
  (∀ (s : State) (w : Issue) (rd imm : Nat), rd < 32 → imm < 2 ^ 16 → (s.asCoded w).long = false → s.goes w [] false →
    (∃ t : State, exec (.lui w rd imm) s = .next t ∧
        (t.br w.b).g rd = (if rd = 0 then (0 : Word64) else (BitVec.ofNat 16 imm).signExtend 64 <<< 16) ∧
        (∀ r, r ≠ rd → (t.br w.b).g r = (s.br w.b).g r) ∧ (t.br w.b).pc = ((s.br w.b).pc + (s.asCoded w).len) % 2 ^ 18 ∧ s.onlyBristle t w.b) ∧
    (∃ t : State, exec (.ladr w rd imm) s = .next t ∧
        (t.br w.b).g rd = (if rd = 0 then 0 else BitVec.ofNat 64 (sramAddr w.b (4 * imm))) ∧
        (∀ r, r ≠ rd → (t.br w.b).g r = (s.br w.b).g r) ∧ (t.br w.b).pc = ((s.br w.b).pc + (s.asCoded w).len) % 2 ^ 18 ∧ s.onlyBristle t w.b))

/-- R106, R107, R113, R138: a multiply puts its 128-bit product in line for MLO and MHI, four pipeline cycles after it issued; a
product that is due becomes visible; MFSR reads every special register, MTSR writes the writable ones and traps on the others. -/
def Obligations.MultipliesAndSpecialRegisters : Prop :=
  (∀ p ∈ ([(.mul, fun x y => x.signExtend 128 * y.signExtend 128), (.mulu, fun x y => x.setWidth 128 * y.setWidth 128)] :
      List ((Issue → Nat → Nat → Instr) × (Word64 → Word64 → BitVec 128))),
    ∀ (s : State) (w : Issue) (rs1 rs2 : Nat), rs1 < 32 → rs2 < 32 → s.goes w [rs1, rs2] false →
      ∃ t : State, exec (p.1 w rs1 rs2) s = .next t ∧
        (t.br w.b).pendMul = (s.atIssue w [rs1, rs2] false).pendMul ++
          [{ prod := p.2 ((s.br w.b).g rs1) ((s.br w.b).g rs2), due := (s.atIssue w [rs1, rs2] false).pcyc + 4 }] ∧
        (∀ r, (t.br w.b).g r = (s.br w.b).g r) ∧ (t.br w.b).pc = ((s.br w.b).pc + (s.asCoded w).len) % 2 ^ 18 ∧ s.onlyBristle t w.b) ∧
  (∀ (s : State) (b : Nat) (m : PendMul), (s.br b).pendMul = [m] →
    ∃ t : State, exec (.mulProductVisible b) s = .next t ∧
      (t.br b).prod = (if m.due ≤ (s.br b).pcyc then m.prod else (s.br b).prod) ∧
      (t.br b).pendMul = (if m.due ≤ (s.br b).pcyc then [] else [m]) ∧ (∀ r, (t.br b).g r = (s.br b).g r) ∧ s.onlyBristle t b) ∧
  (∀ (s : State) (w : Issue) (rd n : Nat), rd < 32 → n < 13 → s.goes w [] false →
    ∃ t : State, exec (.mfsr w rd n) s = .next t ∧
      (t.br w.b).g rd = (if rd = 0 then (0 : Word64) else ([(s.atIssue w [] false).prod.setWidth 64, ((s.atIssue w [] false).prod >>> 64).setWidth 64,
        BitVec.ofNat 64 (s.atIssue w [] false).vsat, BitVec.ofNat 64 w.b, BitVec.ofNat 64 (s.atIssue w [] false).cyc,
        BitVec.ofNat 64 (s.atIssue w [] false).pcyc, BitVec.ofNat 64 ((s.br w.b).rsPtr + 16 * (s.br w.b).rsDepth),
        BitVec.ofNat 64 (smGetD (s.br w.b).rsEnt (s.br w.b).rsPtr 0), BitVec.ofNat 64 (s.br w.b).epc, BitVec.ofNat 64 (s.br w.b).ecause,
        BitVec.ofNat 64 (s.br w.b).eval, (s.br w.b).scratch, BitVec.ofNat 64 ((s.ready w [] false).fget BRS_CTL_SLICE w.b)].getD n 0)) ∧
      (∀ r, r ≠ rd → (t.br w.b).g r = (s.br w.b).g r) ∧ (t.br w.b).pc = ((s.br w.b).pc + (s.asCoded w).len) % 2 ^ 18 ∧ s.onlyBristle t w.b) ∧
  (∀ (s : State) (w : Issue) (n rs1 : Nat), rs1 < 32 → n = 6 ∨ n = 7 ∨ n = 8 ∨ n = 11 → s.goes w [rs1] false →
    ∃ t : State, exec (.mtsr w n rs1) s = .next t ∧
      (n = 6 → (t.br w.b).rsPtr = ((s.br w.b).g rs1).toNat % 16 ∧ (t.br w.b).rsDepth = min 16 (((s.br w.b).g rs1).toNat / 16 % 32)) ∧
      (n = 7 → smGet (t.br w.b).rsEnt (s.br w.b).rsPtr = some (((s.br w.b).g rs1).toNat % 2 ^ 18)) ∧
      (n = 8 → (t.br w.b).epc = ((s.br w.b).g rs1).toNat % 2 ^ 18) ∧ (n = 11 → (t.br w.b).scratch = (s.br w.b).g rs1) ∧
      (∀ r, (t.br w.b).g r = (s.br w.b).g r) ∧ (t.br w.b).pc = ((s.br w.b).pc + (s.asCoded w).len) % 2 ^ 18 ∧ s.onlyBristle t w.b) ∧
  (∀ (s : State) (w : Issue) (rs1 : Nat), rs1 < 32 → s.goes w [rs1] false → (s.br w.b).pendAcc = [] →
    ∃ t : State, exec (.mtsr w 2 rs1) s = .next t ∧ (t.br w.b).vsat = ((s.br w.b).g rs1).toNat % 64 ∧ s.onlyBristle t w.b)

/-- R117, R121, R122, R146, R147, R161, R164, R168: control transfers. A taken branch goes to its target, an untaken one falls
through; a call pushes its return address and RET pops it; ERET leaves the handler; BREAK, and a word that encodes nothing, trap. -/
def Obligations.TransfersGoToTheirTarget : Prop :=
  (∀ p ∈ ([(.beq, fun x y => x == y), (.bne, fun x y => x != y), (.blt, fun x y => decide (x.toInt < y.toInt)), (.bge, fun x y => !decide (x.toInt < y.toInt)),
      (.bltu, fun x y => decide (x.toNat < y.toNat)), (.bgeu, fun x y => !decide (x.toNat < y.toNat))] :
        List ((Issue → Nat → Nat → Int → Instr) × (Word64 → Word64 → Bool))),
    ∀ (s : State) (w : Issue) (rs1 rs2 : Nat) (off : Int), rs1 < 32 → rs2 < 32 → s.goes w [rs1, rs2] false →
      ∃ t : State, exec (p.1 w rs1 rs2 off) s = .next t ∧
        (p.2 ((s.br w.b).g rs1) ((s.br w.b).g rs2) = true → (t.br w.b).pc = ((if s.legacy w.b then ((s.br w.b).pc + (s.asCoded w).len : Int) + off else (s.br w.b).pc + 4 * off) % 2 ^ 18).toNat) ∧
        (p.2 ((s.br w.b).g rs1) ((s.br w.b).g rs2) = false → (t.br w.b).pc = ((s.br w.b).pc + (s.asCoded w).len) % 2 ^ 18) ∧
        (∀ r, (t.br w.b).g r = (s.br w.b).g r) ∧ s.onlyBristle t w.b) ∧
  (∀ (s : State) (w : Issue) (tgt : Int), s.goes w [] false →
    (∃ t : State, exec (.j w tgt) s = .next t ∧
      (t.br w.b).pc = ((if s.legacy w.b then ((s.br w.b).pc + (s.asCoded w).len : Int) + tgt else 4 * tgt) % 2 ^ 18).toNat ∧ (∀ r, (t.br w.b).g r = (s.br w.b).g r) ∧
      s.onlyBristle t w.b) ∧
    ((s.br w.b).rsDepth < 16 → ∃ t : State, exec (.call w tgt) s = .next t ∧
      (t.br w.b).pc = ((if s.legacy w.b then ((s.br w.b).pc + (s.asCoded w).len : Int) + tgt else 4 * tgt) % 2 ^ 18).toNat ∧
      (t.br w.b).rsPtr = ((s.br w.b).rsPtr + 1) % 16 ∧ (t.br w.b).rsDepth = (s.br w.b).rsDepth + 1 ∧
      smGet (t.br w.b).rsEnt (((s.br w.b).rsPtr + 1) % 16) = some (((s.br w.b).pc + (s.asCoded w).len) % 2 ^ 18) ∧
      (∀ r, (t.br w.b).g r = (s.br w.b).g r) ∧ s.onlyBristle t w.b)) ∧
  (∀ (s : State) (w : Issue) (rs1 : Nat), rs1 < 32 → s.goes w [rs1] false →
    (s.legacy w.b = true ∨ ((s.br w.b).g rs1).toNat % 4 = 0) →
    (∃ t : State, exec (.jr w rs1) s = .next t ∧ (t.br w.b).pc = ((s.br w.b).g rs1).toNat % 2 ^ 18 ∧ (∀ r, (t.br w.b).g r = (s.br w.b).g r) ∧
      s.onlyBristle t w.b) ∧
    ((s.br w.b).rsDepth < 16 → ∃ t : State, exec (.callr w rs1) s = .next t ∧ (t.br w.b).pc = ((s.br w.b).g rs1).toNat % 2 ^ 18 ∧
      (t.br w.b).rsDepth = (s.br w.b).rsDepth + 1 ∧ smGet (t.br w.b).rsEnt (((s.br w.b).rsPtr + 1) % 16) = some (((s.br w.b).pc + (s.asCoded w).len) % 2 ^ 18) ∧
      (∀ r, (t.br w.b).g r = (s.br w.b).g r) ∧ s.onlyBristle t w.b)) ∧
  (∀ (s : State) (w : Issue), s.goes w [] false → 0 < (s.br w.b).rsDepth →
    (s.legacy w.b = true ∨ smGetD (s.br w.b).rsEnt (s.br w.b).rsPtr 0 % 4 = 0) →
    smGetD (s.br w.b).rsEnt (s.br w.b).rsPtr 0 < 2 ^ 18 →
    ∃ t : State, exec (.ret w) s = .next t ∧ (t.br w.b).pc = smGetD (s.br w.b).rsEnt (s.br w.b).rsPtr 0 ∧
      (t.br w.b).rsDepth = (s.br w.b).rsDepth - 1 ∧ (t.br w.b).rsPtr = ((s.br w.b).rsPtr + 15) % 16 ∧
      (∀ r, (t.br w.b).g r = (s.br w.b).g r) ∧ s.onlyBristle t w.b) ∧
  (∀ (s : State) (w : Issue), s.goes w [] false → (s.br w.b).inHandler = true →
    (s.legacy w.b = true ∨ (s.br w.b).epc % 4 = 0) → (s.br w.b).epc < 2 ^ 18 →
    ∃ t : State, exec (.eret w) s = .next t ∧ (t.br w.b).pc = (s.br w.b).epc ∧ (t.br w.b).inHandler = false ∧
      (∀ r, (t.br w.b).g r = (s.br w.b).g r) ∧ s.onlyBristle t w.b) ∧
  (∀ (s : State) (w : Issue),
    (s.goes w [] false → ∃ u : State, exec (.breakI w) s = .next (u.trap w.b 8 (s.br w.b).pc w.raw) ∧ (∀ r, (u.br w.b).g r = (s.br w.b).g r) ∧ s.onlyBristle u w.b) ∧
    (s.goes w [] false → s.legacy w.b = false → nativeDecode w w.raw = none →
      ∃ u : State, exec (.illegalEncoding w) s = .next (u.trap w.b 1 (s.br w.b).pc w.raw) ∧ (∀ r, (u.br w.b).g r = (s.br w.b).g r) ∧
        s.onlyBristle u w.b) ∧
    (∀ k, s.goes { w with len := k } [] false → s.legacy w.b = true → legacyDecode w (leBytes 9 w.raw) = .bad k →
      ∃ u : State, exec (.illegalEncoding w) s = .next (u.trap w.b 1 (s.br w.b).pc (w.raw % 256 ^ min k 8)) ∧ s.onlyBristle u w.b)) ∧
  (∀ (s : State) (b cause epc eval : Nat), s.fon BRS_CTL_TRAP_EN b = true → bit (s.rget BRS_TMASK b) cause = true →
    (s.br b).inHandler = false → s.fget BRS_TVEC_ADDR b % 4 = 0 →
    ((s.trap b cause epc eval).br b).pc = s.fget BRS_TVEC_ADDR b ∧ ((s.trap b cause epc eval).br b).epc = epc ∧
      ((s.trap b cause epc eval).br b).ecause = cause ∧ ((s.trap b cause epc eval).br b).eval = eval ∧
      ((s.trap b cause epc eval).br b).inHandler = true ∧ (∀ r, ((s.trap b cause epc eval).br b).g r = (s.br b).g r)) ∧
  (∀ (s : State) (w : Issue), s.goes w [0, 0] false → ∃ t : State, exec (.nop (.bristle w)) s = .next t ∧ (∀ r, (t.br w.b).g r = (s.br w.b).g r) ∧
    (t.br w.b).pc = ((s.br w.b).pc + (s.asCoded w).len) % 2 ^ 18 ∧ s.onlyBristle t w.b)

/-- R108, R111, R139 to R145: loads and stores. A load from the bristle's own SRAM writes its register with the bytes at the effective
address, extended as its mnemonic says, and the base register by its mode; another load is put in line for its data. A store takes
a buffer entry and touches no memory until it drains, oldest first, to exactly its bytes. -/
def Obligations.LoadsAndStores : Prop :=
  (∀ p ∈ ([(.lb, 1, true), (.lbu, 1, false), (.lh, 2, true), (.lhu, 2, false), (.lw, 4, true), (.lwu, 4, false), (.ld, 8, false)] :
      List ((Issue → Nat → MemArg → Instr) × Nat × Bool)),
    ∀ (s : State) (w : Issue) (rt : Nat) (m : MemArg) (ea : Nat), argOk m = true → rt < 32 → ¬(argWritesBack m = true ∧ rt = m.rb) →
      s.goes w (argSrcs m) false → ea = (argEa m (s.br w.b) p.2.1).toNat → ea % p.2.1 = 0 → ea < 2 ^ 48 →
      (w.b < 3840 → ownSram w.b ea p.2.1 = true → (s.br w.b).sbuf = [] → (∀ a, s.badBits a = 0) →
        ∃ t : State, exec (p.1 w rt m) s = .next t ∧
          (t.br w.b).g rt = (if rt = 0 then 0 else if p.2.2 then BitVec.ofInt 64 (toSigned (8 * p.2.1) (s.memLe ea p.2.1)) else BitVec.ofNat 64 (s.memLe ea p.2.1)) ∧
          (∀ r, r ≠ rt → (t.br w.b).g r = (argWriteBack m (s.br w.b) p.2.1).g r) ∧ (t.br w.b).pc = ((s.br w.b).pc + (s.asCoded w).len) % 2 ^ 18 ∧
          s.onlyBristle t w.b) ∧
      (ownSram w.b ea p.2.1 = false → (s.ready w (argSrcs m) false).accessCause w.b ea p.2.1 false false = none → s.dieStopped (w.b / 384) = false →
        ∃ (t : State) (l : OutLoad), exec (p.1 w rt m) s = .next t ∧ (t.br w.b).loads.getLast? = some l ∧ l.dest = (if rt = 0 then none else some rt) ∧ l.addr = ea ∧
          l.size = p.2.1 ∧ l.sign = p.2.2 ∧ (t.br w.b).g rt = (s.br w.b).g rt ∧ (t.br w.b).pc = ((s.br w.b).pc + (s.asCoded w).len) % 2 ^ 18)) ∧
  (∀ (s : State) (w : Issue) (rt : Nat) (m : MemArg) (ea : Nat), argOk m = true → rt < 16 → s.goes w (argSrcs m) false →
      ea = (argEa m (s.br w.b) 64).toNat → ea % 8 = 0 → ea < 2 ^ 48 → w.b < 3840 → ownSram w.b ea 64 = true → (s.br w.b).sbuf = [] → (∀ a, s.badBits a = 0) →
      ∃ t : State, exec (.vld w rt m) s = .next t ∧ (t.br w.b).v rt = BitVec.ofNat 512 (s.memLe ea 64) ∧
        (∀ r, r ≠ rt → (t.br w.b).v r = (s.br w.b).v r) ∧ (∀ r, (t.br w.b).g r = (argWriteBack m (s.br w.b) 64).g r) ∧ s.onlyBristle t w.b) ∧
  (∀ p ∈ ([(.sb, 1), (.sh, 2), (.sw, 4), (.sd, 8)] : List ((Issue → Nat → MemArg → Instr) × Nat)),
    ∀ (s : State) (w : Issue) (rt : Nat) (m : MemArg) (ea : Nat), argOk m = true → rt < 32 → s.goes w (argSrcs m ++ [rt]) false →
      ea = (argEa m (s.br w.b) p.2).toNat → (s.ready w (argSrcs m ++ [rt]) false).accessCause w.b ea p.2 false true = none → (s.br w.b).sbuf.length < 8 →
      ∃ t : State, exec (p.1 w rt m) s = .next t ∧ (t.br w.b).sbuf = (s.br w.b).sbuf ++ [.store ea (leBytes p.2 ((s.br w.b).g rt).toNat) (s.atIssue w (argSrcs m ++ [rt]) false).pcyc] ∧
        (∀ r, (t.br w.b).g r = (argWriteBack m (s.br w.b) p.2).g r) ∧ (t.br w.b).pc = ((s.br w.b).pc + (s.asCoded w).len) % 2 ^ 18 ∧ s.onlyBristle t w.b) ∧
  (∀ (s : State) (w : Issue) (rt : Nat) (m : MemArg) (ea : Nat), argOk m = true → ea = (argEa m (s.br w.b) 64).toNat → (s.br w.b).sbuf.length < 8 →
      (rt < 16 → s.goes w (argSrcs m ++ [32 + rt]) false → (s.ready w (argSrcs m ++ [32 + rt]) false).accessCause w.b ea 64 true true = none →
        ∃ t : State, exec (.vst w rt m) s = .next t ∧ (t.br w.b).sbuf = (s.br w.b).sbuf ++ [.store ea (leBytes 64 ((s.br w.b).v rt).toNat) (s.atIssue w (argSrcs m ++ [32 + rt]) false).pcyc] ∧
          s.onlyBristle t w.b) ∧
      (rt < 4 → s.goes w (argSrcs m ++ []) false → (s.ready w (argSrcs m ++ []) false).accessCause w.b ea 64 true true = none →
        ∃ t : State, exec (.vsta w rt m) s = .next t ∧
          (t.br w.b).sbuf = (s.br w.b).sbuf ++ [.store ea (leBytes 64 ((s.atIssue w (argSrcs m ++ []) false).a rt).toNat) (s.atIssue w (argSrcs m ++ []) false).pcyc] ∧ s.onlyBristle t w.b)) ∧
  (∀ (s v : State) (b rt : Nat) (l x : OutLoad) (rest : List OutLoad), (s.br b).loads = l :: rest → s.pw.devReset = false → l.lost = false →
      l.behind = 0 ∨ l.served = true → s.serveLoad b l = (v, x) → x.bytes ≠ [] → l.dest = some rt → rt < 32 → rt ≠ 0 →
      ∃ t : State, exec (.loadDataReturn b 0) s = .next t ∧ (t.br b).g rt = extend x.bytes.length l.sign x.bytes ∧
        (∀ r, r ≠ rt → (t.br b).g r = (v.br b).g r) ∧ (t.br b).loads.length = (v.br b).loads.length - 1 ∧ v.onlyBristle t b) ∧
  (∀ (s : State) (b : Nat) (l : OutLoad) (bs : List Byte), l.lost = false → l.served = false → l.behind = 0 → space l.addr ≠ .control →
      (s.readParts l.addr l.size).2 = some bs → s.serveLoad b l = ((s.readParts l.addr l.size).1, { l with bytes := bs, served := true })) ∧
  (∀ (s : State) (b a c : Nat) (bs : List Byte) (rest : List StoreEntry), (s.br b).sbuf = .store a bs c :: rest → (s.br b).loads = [] →
      s.pw.devReset = false → ownSram b a bs.length = true → (∀ k, s.badBits k = 0) →
      ∃ t : State, exec (.storeBufferDrain b) s = .next t ∧ (t.br b).sbuf = rest ∧ t.mem = memWriteN s.mem a bs ∧ (∀ r, (t.br b).g r = (s.br b).g r) ∧
        (∀ k, t.badBits k = 0) ∧ t = { s with brs := t.brs, mem := t.mem, ecc := t.ecc, dbg := t.dbg }) ∧
  (∀ (s : State) (b n : Nat) (f : Nat) (rest : List StoreEntry), (s.br b).sbuf = .signal f n :: rest → (s.br b).loads = [] →
      s.pw.devReset = false → s.dieStopped (b / 384) = false → s.cut (b / 384) (flagDie f) = false → (∀ c ∈ s.syn.granted, c.bid ≠ b) →
      flagVirt f = false ∨ s.pw.waiting = [] →
      ∃ t : State, exec (.storeBufferDrain b) s = .next t ∧ (t.br b).sbuf = rest ∧ t.syn.flight = s.syn.flight ++ [.signal b (s.brSlice b) f n] ∧
        t = { s with brs := t.brs, syn := t.syn })

/-- R114 to R116, R133, R148 to R151, R171 to R178: the vector unit. Accumulator writes take effect six pipeline cycles after their
last beat; element-wise operations, conversions and reductions write their register and add their VSAT bits; the unit is occupied
for as many beats as the operation has. -/
def Obligations.VectorOperations : Prop :=
  (∀ (s : State) (w : Issue) (a va vb ge fmt : Nat), a < 4 → va < 16 → vb < 16 → ge < 32 → fmt ≤ 6 → fmt = 6 ∨ ge = 0 →
    s.goes w [32 + va, 32 + vb, ge] true →
    ∃ (t : State) (x : PendAcc), exec (.vmac w a va vb ge fmt) s = .next t ∧ (t.br w.b).pendAcc = (s.atIssue w [32 + va, 32 + vb, ge] true).pendAcc ++ [x] ∧
      x.acc = a ∧ x.due = (s.atIssue w [32 + va, 32 + vb, ge] true).pcyc + 9 ∧
      (x.lanes, x.sat) = macLanes a fmt ((s.br w.b).v va) ((s.br w.b).v vb) ((s.br w.b).g ge).toNat
        ((s.atIssue w [32 + va, 32 + vb, ge] true).pendingAcc a) ∧
      (t.br w.b).busy = (s.atIssue w [32 + va, 32 + vb, ge] true).pcyc + 4 ∧ (t.br w.b).vec = (s.br w.b).vec ∧ s.onlyBristle t w.b) ∧
  (∀ (s : State) (b : Nat) (x : PendAcc), (s.br b).pendAcc = [x] →
    ∃ t : State, exec (.accumulatorVisible b) s = .next t ∧ (t.br b).a x.acc = (if x.due ≤ (s.br b).pcyc then x.lanes else (s.br b).a x.acc) ∧
      (t.br b).pendAcc = (if x.due ≤ (s.br b).pcyc then [] else [x]) ∧ (t.br b).vec = (s.br b).vec ∧ s.onlyBristle t b) ∧
  (∀ p ∈ ([(.vadd, .add), (.vsub, .sub), (.vmul, .mul), (.vmax, .max), (.vmin, .min)] : List ((Issue → Nat → Nat → Nat → Nat → Instr) × ElemOp)),
    ∀ (s : State) (w : Issue) (vd va vb fmt : Nat), vd < 16 → va < 16 → vb < 16 → fmt ∈ [0, 3, 4, 5, 7] → s.goes w [32 + va, 32 + vb] true →
      ∃ t : State, exec (p.1 w vd va vb fmt) s = .next t ∧ (t.br w.b).v vd = (elemVec p.2 fmt ((s.br w.b).v va) ((s.br w.b).v vb)).1 ∧
        (t.br w.b).vsat = (s.atIssue w [32 + va, 32 + vb] true).vsat ||| (elemVec p.2 fmt ((s.br w.b).v va) ((s.br w.b).v vb)).2 ∧
        (∀ r, r ≠ vd → (t.br w.b).v r = (s.br w.b).v r) ∧ (∀ r, (t.br w.b).g r = (s.br w.b).g r) ∧ s.onlyBristle t w.b) ∧
  (∀ (s : State) (w : Issue) (vd va gw p fmt : Nat) (wtd : Bool), vd < 16 → va < 16 → gw < 32 → (wtd = false → gw = 0) → fmt ≤ 5 → p < fmtElems fmt / 16 →
    s.goes w [32 + vd, 32 + va, gw] true →
    ∃ t : State, exec (.vwacc w vd va gw p fmt wtd) s = .next t ∧
      (t.br w.b).v vd = (vwaccVec fmt p ((s.br w.b).v vd) ((s.br w.b).v va) (if wtd then ((s.br w.b).g gw).toNat % 2 ^ 32 else 0x3F800000)).1 ∧
      (∀ r, r ≠ vd → (t.br w.b).v r = (s.br w.b).v r) ∧ (∀ r, (t.br w.b).g r = (s.br w.b).g r) ∧ s.onlyBristle t w.b) ∧
  (∀ (s : State) (w : Issue) (vd va src p fmt : Nat) (st : Bool), vd < 16 → va < 16 → cvtFmt fmt = true → cvtFmt src = true → p < cvtParts fmt src →
    s.goes w (if fmtElems fmt > fmtElems src then [32 + va, 32 + vd] else [32 + va]) true →
    ∃ t : State, exec (.vcvt w vd va src p fmt st) s = .next t ∧
      (t.br w.b).v vd = (vcvtVec fmt src p st ((s.br w.b).v vd) ((s.br w.b).v va) (s.br w.b).srState).1 ∧
      (t.br w.b).srState = (vcvtVec fmt src p st ((s.br w.b).v vd) ((s.br w.b).v va) (s.br w.b).srState).2.2 ∧
      (∀ r, r ≠ vd → (t.br w.b).v r = (s.br w.b).v r) ∧ s.onlyBristle t w.b) ∧
  (∀ (s : State) (w : Issue) (vd va fmt : Nat), vd < 16 → va < 16 → fmt = 3 ∨ fmt = 5 → s.goes w [32 + va] true →
    ∃ t : State, exec (.vexp w vd va fmt) s = .next t ∧ (t.br w.b).v vd = (vexpVec fmt ((s.br w.b).v va)).1 ∧
      (∀ r, r ≠ vd → (t.br w.b).v r = (s.br w.b).v r) ∧ s.onlyBristle t w.b) ∧
  (∀ (s : State) (w : Issue) (vd gs fmt : Nat), vd < 16 → gs < 32 → cvtFmt fmt = true → s.goes w [gs] true →
    ∃ t : State, exec (.vbc w vd gs fmt) s = .next t ∧ (t.br w.b).v vd = vmake fmt (List.replicate (fmtElems fmt) ((s.br w.b).g gs).toNat) ∧
      (t.br w.b).vsat = (s.atIssue w [gs] true).vsat ∧ (∀ r, r ≠ vd → (t.br w.b).v r = (s.br w.b).v r) ∧ s.onlyBristle t w.b) ∧
  (∀ (s : State) (w : Issue) (a v : Nat), a < 4 → v < 16 →
    (s.goes w [] true → ∃ (t : State) (x : PendAcc), exec (.aclr w a) s = .next t ∧ (t.br w.b).pendAcc = (s.atIssue w [] true).pendAcc ++ [x] ∧
      x.acc = a ∧ x.lanes = 0 ∧ x.due = (s.atIssue w [] true).pcyc + 6 ∧ (t.br w.b).vec = (s.br w.b).vec ∧ s.onlyBristle t w.b) ∧
    (s.goes w [32 + v] true → ∃ (t : State) (x : PendAcc), exec (.vtoa w a v) s = .next t ∧ (t.br w.b).pendAcc = (s.atIssue w [32 + v] true).pendAcc ++ [x] ∧
      x.acc = a ∧ x.lanes = (s.br w.b).v v ∧ x.due = (s.atIssue w [32 + v] true).pcyc + 6 ∧ (t.br w.b).vec = (s.br w.b).vec ∧ s.onlyBristle t w.b) ∧
    (s.goes w [] true → ∃ t : State, exec (.atov w v a) s = .next t ∧ (t.br w.b).v v = (s.atIssue w [] true).a a ∧
      (∀ r, r ≠ v → (t.br w.b).v r = (s.br w.b).v r) ∧ s.onlyBristle t w.b)) ∧
  (∀ p ∈ ([(.aredSum, aredSum), (.aredMax, aredMax)] : List ((Issue → Nat → Nat → Nat → Bool → Instr) × (Nat → Vec → Nat × Nat))),
    ∀ (s : State) (w : Issue) (gd a fmt : Nat) (clear : Bool), gd < 32 → a < 4 → fmt = 5 ∨ fmt = 7 → s.goes w [] true →
      ∃ t : State, exec (p.1 w gd a fmt clear) s = .next t ∧
        (t.br w.b).g gd = (if gd = 0 then 0 else BitVec.ofNat 64 (p.2 fmt ((s.atIssue w [] true).a a)).1) ∧
        (∀ r, r ≠ gd → (t.br w.b).g r = (s.br w.b).g r) ∧ (t.br w.b).vec = (s.br w.b).vec ∧
        (clear = true → ((t.br w.b).pendAcc.getLast?.map (fun x => (x.acc, x.lanes))) = some (a, 0)) ∧ s.onlyBristle t w.b)

/-- R299 to R311: flags. A SIGNAL adds at the flag's home and releases waiters whose threshold is reached; WAIT leaves the value,
WAITDEC takes its threshold from it; a held bristle goes on with the value. Reports, parking and virtual flags. -/
def Obligations.FlagsReleaseTheirWaiters : Prop :=
  (∀ (s : State) (w : Issue) (rs1 rs2 : Nat), rs1 < 32 → rs2 < 32 → s.goes w [rs1, rs2] false → (s.br w.b).sbuf.length < 8 →
    (s.ready w [rs1, rs2] false).flagOk ((s.ready w [rs1, rs2] false).brSlice w.b) (some (w.b / 384)) ((s.br w.b).g rs1).toNat = true →
    ∃ t : State, exec (.signal w rs1 rs2) s = .next t ∧
      (t.br w.b).sbuf = (s.br w.b).sbuf ++ [.signal ((s.br w.b).g rs1).toNat (((s.br w.b).g rs2).toNat % 2 ^ 32)] ∧
      (∀ r, (t.br w.b).g r = (s.br w.b).g r) ∧ (t.br w.b).pc = ((s.br w.b).pc + (s.asCoded w).len) % 2 ^ 18 ∧ s.onlyBristle t w.b) ∧
  (∀ p ∈ ([(.wait, false), (.waitdec, true)] : List ((Issue → Nat → Nat → Nat → Instr) × Bool)),
    ∀ (s : State) (w : Issue) (rd rs1 rs2 : Nat), rd < 32 → rs1 < 32 → rs2 < 32 → s.goes w [rs1, rs2] false →
      (s.ready w [rs1, rs2] false).flagOk ((s.ready w [rs1, rs2] false).brSlice w.b) (some (w.b / 384)) ((s.br w.b).g rs1).toNat = true → s.dieStopped (w.b / 384) = false →
      ∃ (t : State) (h : HeldWait), exec (p.1 w rd rs1 rs2) s = .next t ∧ (t.br w.b).wait = some h ∧ h.flag = ((s.br w.b).g rs1).toNat ∧
        h.threshold = ((s.br w.b).g rs2).toNat % 2 ^ 32 ∧ h.dec = p.2 ∧ h.rd = rd ∧ (t.br w.b).pc = (s.br w.b).pc ∧
        t.syn.flight.length = s.syn.flight.length + 1 ∧ (∀ r, (t.br w.b).g r = (s.br w.b).g r) ∧ t.mem = s.mem) ∧
  (∀ (s : State) (b sl f amt : Nat), s.syn.flight = [.signal b sl f amt] → flagVirt f = false → s.brState (directHome f) ≠ 4 →
    smGet s.cmp.turns (directHome f / 16) = none → s.writesWait (flagDie f) = false → s.isGated (.palette (flagDie f)) = false →
    ∃ t : State, exec (.flagOperationArrive [0]) s = .next t ∧ t.syn.flight = [] ∧
      ((s.flag f).wq = [] → (s.flag f).dq = [] → (t.flag f).val = ((s.flag f).val + amt) % 2 ^ 32 ∧ t.syn.releases = s.syn.releases) ∧
      (∀ x, (s.flag f).wq = [x] → (s.flag f).dq = [] → x.thr ≤ ((s.flag f).val + amt) % 2 ^ 32 →
        (t.flag f).val = ((s.flag f).val + amt) % 2 ^ 32 ∧ (t.flag f).wq = [] ∧
          t.syn.releases = s.syn.releases ++ [(x.bid, some (((s.flag f).val + amt) % 2 ^ 32))]) ∧
      (∀ x, (s.flag f).wq = [] → (s.flag f).dq = [x] → x.thr ≤ ((s.flag f).val + amt) % 2 ^ 32 →
        (t.flag f).val = ((s.flag f).val + amt) % 2 ^ 32 - x.thr ∧ (t.flag f).dq = [] ∧
          t.syn.releases = s.syn.releases ++ [(x.bid, some (((s.flag f).val + amt) % 2 ^ 32))]) ∧
      t = { s with syn := t.syn }) ∧
  (∀ (s : State) (b v : Nat) (h : HeldWait) (rest : List (Nat × Option Nat)), s.syn.releases = (b, some v) :: rest → (s.br b).wait = some h →
    (s.br b).trapReq = none → s.syn.parked.contains (b / 16) = false → v < 2 ^ 64 →
    ∃ t : State, exec (.waitRelease b) s = .next t ∧ (t.br b).wait = none ∧ (t.br b).g h.rd = (if h.rd = 0 then 0 else BitVec.ofNat 64 v) ∧
      (t.br b).pc = (h.pc + h.len) % 2 ^ 18 ∧ t.syn.releases = rest ∧ (∀ r, r ≠ h.rd → (t.br b).g r = (s.br b).g r)) ∧
  (∀ (s : State) (b : Nat) (h : HeldWait), (s.br b).wait = some h → h.reported = false → s.spunOut b h = true →
    (smGetD s.syn.reports (b / 384) []).length < 63 →
    ∃ (t : State) (r : SpinReport), exec (.spinLimitReport b) s = .next t ∧
      smGet t.syn.reports (b / 384) = some (smGetD s.syn.reports (b / 384) [] ++ [r]) ∧ r.bid = b ∧ r.thr = h.threshold ∧ r.dec = h.dec ∧
      t.fget SYN_STATUS_RPT_PEND (b / 384) = (smGetD s.syn.reports (b / 384) []).length + 1 ∧
      (t.br b).wait = some { h with reported := true }) ∧
  (∀ (s : State) (p : Nat) (r : SpinReport) (rest : List SpinReport), smGetD s.syn.reports p [] = r :: rest → rest.length < 64 →
    ∃ t : State, exec (.synRptPop p) s = .next t ∧ smGet t.syn.reports p = some rest ∧ t.fget SYN_STATUS_RPT_PEND p = rest.length ∧
      t = { s with syn := t.syn, regs := t.regs }) ∧
  (∀ (s : State) (p c : Nat), p < 10 → c < 24 → s.fon SYN_CTL_PARK_EN p = true → s.syn.parked = [] → (∀ b, s.parkable b = true) →
    ∃ t : State, exec (.clusterPark p c) s = .next t ∧ t.isGated (.cluster p c) = true ∧ t.syn.parked = [24 * p + c] ∧
      t.fget SYN_STATUS_PARKED p = 1 ∧ t.brs = s.brs ∧ t.mem = s.mem) ∧
  (∀ (s : State) (ch : Nat), s.serves ch 0x38 [] .bound false = true → s.syn.entries = [] →
    0 < s.quota (s.servedSlice ch 0) 5 →
    ∃ u : State, exec (.flagAlloc ch) s = .next (u.ack ch .ok 0 [s.servedSlice ch 0 * 2 ^ 26]) ∧
      (smGet u.syn.entries 0).map (fun e => (e.slice, e.used)) = some (s.servedSlice ch 0, true) ∧ (u.flag (2 ^ 63 + s.servedSlice ch 0 * 2 ^ 26)).val = 0 ∧
      u.fget SYN_VF_USED_USED 0 = 1 ∧ u.mem = s.mem) ∧
  (∀ (s : State) (ch h : Nat), s.serves ch 0x39 [(1, h)] .bound false = true → h < 2 ^ 32 → s.virtOk (2 ^ 63 + h) = true →
    getBits h 31 26 = s.servedSlice ch 0 → getBits h 23 22 = 0 → (s.flag (2 ^ 63 + h)).wq = [] → (s.flag (2 ^ 63 + h)).dq = [] →
    ∃ u : State, exec (.flagFree ch h) s = .next (u.ack ch .ok 0 [h]) ∧ u.virtOk (2 ^ 63 + h) = false ∧ u.mem = s.mem)

/-- R310 to R318: gathering. GSEND takes a store-buffer entry; a credit moves it to its port; a bristle collector writes the line at
its place and raises the flag; a gather slot is armed and freed, and takes one contribution for each rank and part. -/
def Obligations.GatheringMovesContributions : Prop :=
  (∀ (s : State) (w : Issue) (vs gt gk : Nat), vs < 16 → gt < 32 → gk < 32 → s.goes w [32 + vs, gt, gk] false → (s.br w.b).sbuf.length < 8 →
    (s.ready w [32 + vs, gt, gk] false).gsendOk ((s.ready w [32 + vs, gt, gk] false).brSlice w.b) ((s.br w.b).g gt).toNat ((s.br w.b).g gk).toNat = true →
    ∃ t : State, exec (.gsend w vs gt gk) s = .next t ∧
      (t.br w.b).sbuf = (s.br w.b).sbuf ++ [.gsend ((s.br w.b).g gt).toNat ((s.br w.b).g gk).toNat (leBytes 64 ((s.br w.b).v vs).toNat)] ∧
      (t.br w.b).pc = ((s.br w.b).pc + (s.asCoded w).len) % 2 ^ 18 ∧ s.onlyBristle t w.b) ∧
  (∀ (s : State) (b t k : Nat) (d : List Byte) (rest : List StoreEntry), (s.br b).sbuf = .gsend t k d :: rest → s.portUsed (tgtPort t) < 64 →
    s.nextAt (tgtPort t) = some b → (s.br b).loads = [] → s.pw.devReset = false → s.dieStopped (b / 384) = false →
    s.cut (b / 384) (targetDie t) = false →
    ∃ u : State, exec (.creditGrant b) s = .next u ∧ (u.br b).sbuf = rest ∧
      u.syn.granted = s.syn.granted ++ [{ bid := b, slice := s.brSlice b, target := t, key := k, data := d }] ∧
      smGet u.syn.lastGrant (tgtPort t) = some b ∧ u = { s with brs := u.brs, syn := u.syn }) ∧
  (∀ (s : State) (c : Contribution), s.syn.granted = [c] → tgtBristle c.target = true →
    tgtOffset c.target c.key < s.fget BRS_SWATCH_BASE (tgtId c.target) * 0x1000 → getBits c.target 35 30 ≠ 63 → (∀ a, s.badBits a = 0) →
    s.mayArrive c = true → s.awayFrom c.slice (tgtId c.target) = false → s.isGated (.palette (tgtId c.target / 384)) = false →
    s.isGated (.cluster (tgtId c.target / 384) (tgtId c.target % 384 / 16)) = false →
    ∃ u : State, exec (.collectorContribution c.bid) s = .next u ∧
      u.mem = memWriteN s.mem (sramAddr (tgtId c.target) (tgtOffset c.target c.key)) c.data ∧ u.syn.granted = [] ∧
      u.syn.flight = s.syn.flight ++ [.signal 3840 c.slice (tgtId c.target * 64 + getBits c.target 35 30) 1] ∧ u.brs = s.brs ∧ u.regs = s.regs) ∧
  (∀ (s : State) (u n v : Nat), u < 4 → n < 4096 → v % 256 = 1 → v < 2 ^ 32 → s.slotState u n ≠ 1 → s.hdrOk u n v = true →
    ∃ t : State, exec (.gatherSlotArm u (61440 + n) v) s = .next t ∧ t.slotState u n = 1 ∧ t.hdr u n 3 = 0 ∧ t.hdr u n 7 = 0 ∧
      smGet t.syn.slots (65536 * u + (61440 + n)) = some { got := [] } ∧ t = { s with regs := t.regs, syn := t.syn }) ∧
  (∀ (s : State) (u n : Nat), u < 4 → n < 4096 →
    ∃ t : State, exec (.gatherSlotFree u (61440 + n)) s = .next t ∧ t.slotState u n = 0 ∧ t = { s with regs := t.regs, syn := t.syn }) ∧
  (∀ (s : State) (c : Contribution) (u n : Nat), s.syn.granted = [c] → tgtBristle c.target = false → u = getBits c.target 17 16 →
    getBits c.target 15 0 = 61440 + n → s.mayArrive c = true → s.slotState u n = 1 → n / 64 = c.slice → keyPart c.key < s.hdr u n 1 % 65536 →
    keyRank c.key < s.hdr u n 1 / 65536 → (smGetD s.syn.slots (65536 * u + (61440 + n)) { got := [] }).got = [] →
    ∃ v : State, exec (.gatherContribution c.bid) s = .next (v.completeSlot u n) ∧ v.hdr u n 3 = (s.hdr u n 3 + 1) % 2 ^ 32 ∧ v.syn.granted = [] ∧
      smGet v.syn.slots (65536 * u + (61440 + n)) = some { got := [(keyRank c.key, keyPart c.key, BitVec.ofNat 512 (leVal c.data))] } ∧ v.mem = s.mem)

/-- R99, R106, R123, R124, R127 to R130: bristles. RUN starts a halted bristle at its PC and its clearing halts it there; INIT clears
registers and PC; a running bristle ignores other writes and says so; a cluster map entry moves only to a free good cluster, whose
contents it then shows (zero, the choice of log entry 24); a faulted bristle is loaded again or latched; a failed cluster's spare
takes its place. -/
def Obligations.BristlesStartStopAndReload : Prop :=
  (∀ (s : State) (b : Nat), b < 3840 → s.awake .brs b → s.brState b = 0 → getBits (s.rget BRS_CTL b) 31 31 = 0 →
    ∃ t : State, exec (.brsRunSet b) s = .next t ∧ t.fget BRS_CTL_RUN b = 1 ∧ t.brState b = (if (s.br b).inHandler then 2 else 1) ∧
      (t.br b).pc = (s.br b).pc ∧ (t.br b).stopped = false ∧ (∀ r, (t.br b).g r = (s.br b).g r) ∧ s.onlyBristle t b) ∧
  (∀ (s : State) (b : Nat), b < 3840 → s.awake .brs b → s.brRuns b = true → (s.br b).wait = none →
    getBits (s.rget BRS_CTL b) 31 31 = 0 →
    ∃ t : State, exec (.brsRunClear b) s = .next t ∧ t.fget BRS_CTL_RUN b = 0 ∧ t.brState b = 0 ∧
      t.rget BRS_PC b = s.rget BRS_PC b ∧ t.br b = { s.br b with stopped := true } ∧ s.onlyBristle t b) ∧
  (∀ (s : State) (b v : Nat), b < 3840 → s.awake .brs b → s.brRuns b = false → v < 2 ^ 32 → bit v 0 = false →
    ∃ t : State, exec (.brsInit b v) s = .next t ∧ (∀ r, (t.br b).g r = 0) ∧ (∀ r, (t.br b).v r = 0) ∧ (t.br b).rsDepth = 0 ∧ (t.br b).vsat = 0 ∧
      (t.br b).sbuf = (s.br b).sbuf ∧ (t.br b).pc = 0 ∧ t.fget BRS_PC_PC b = 0 ∧ t.fget BRS_CTL_SLICE b = getBits v 21 16 ∧
      (t.br b).legacy = bit v 1 ∧ (∀ i, i < 48 → (t.flag (64 * b + i)).val = 0 ∧ (t.flag (64 * b + i)).wq = (s.flag (64 * b + i)).wq) ∧
      (s.brState b = 3 → t.brState b = 0) ∧ (∀ c, c ≠ b → t.br c = s.br c) ∧ t = { s with brs := t.brs, regs := t.regs, syn := t.syn }) ∧
  (∀ (s : State) (b v : Nat), b < 3840 → s.awake .brs b → v < 2 ^ 32 →
    (s.brRuns b = false →
      (∃ t : State, exec (.brsConfigWrite b 0x08 v) s = .next t ∧ t.fget BRS_PC_PC b = v % 2 ^ 18 ∧ (t.br b).pc = v % 2 ^ 18 ∧ s.onlyBristle t b) ∧
      (∃ t : State, exec (.brsConfigWrite b 0x0C v) s = .next t ∧ t.fget BRS_TVEC_ADDR b = v % 2 ^ 18 ∧ t = { s with regs := t.regs }) ∧
      (∃ t : State, exec (.brsConfigWrite b 0x10 v) s = .next t ∧ t.rget BRS_TMASK b = getBits v 9 1 * 2 ∧ t = { s with regs := t.regs }) ∧
      (∃ t : State, exec (.brsConfigWrite b 0x24 v) s = .next t ∧ t.fget BRS_SWATCH_BASE b = min 64 (v % 128) ∧ t = { s with regs := t.regs })) ∧
    (s.brRuns b = true → ∀ off ∈ [0x08, 0x0C, 0x10, 0x24],
      ∃ t : State, exec (.brsConfigWrite b off v) s = .next t ∧ t.fget BRS_STATUS_CTL_IGNORED b = 1 ∧ t.rget BRS_PC b = s.rget BRS_PC b ∧
        t = { s with regs := t.regs })) ∧
  (∀ (s : State) (p n v : Nat), p ≤ 9 → n ≤ 5 → s.awake .pal p → v < 2 ^ 32 → (∀ i, i < 4 → bit (getBits v (8 * i + 7) (8 * i)) 7 = false) →
    exec (.palCmapWrite p n v) s = .next s) ∧
  (∀ (s : State) (p ph : Nat), p ≤ 9 → s.awake .pal p → (∀ b ∈ clusterBristles p 0, s.brRuns b = false ∧ s.brState b ≠ 4) → ph ≤ 25 →
    bit (s.rget PAL_CHEALTH p) ph = false → (∀ o, o < 24 → s.cmapEntry p o % 32 ≠ ph) →
    ∃ t : State, exec (.palCmapWrite p 0 (0x80 + ph)) s = .next t ∧ t.cmapEntry p 0 = 0x80 + ph ∧ (∀ o, o < 24 → o ≠ 0 → t.cmapEntry p o = s.cmapEntry p o) ∧
      (∀ b ∈ clusterBristles p 0, (∀ r, (t.br b).g r = 0) ∧ (∀ o, o < 0x40000 → t.badBits (sramAddr b o) = 0)) ∧
      t = { s with brs := t.brs, regs := t.regs, mem := t.mem, ecc := t.ecc }) ∧
  (∀ (s : State) (b : Nat), s.brState b = 3 → s.fwRuns = true →
    ∃ u : State, u = s.failRecords (fun _ r => r.lead == b) .programFault ∧
      ((u.br b).barred = false → exec (.faultReload b) s = .next (u.reloadBristle b)) ∧
      ((u.br b).barred = true → exec (.faultReload b) s = .next u)) ∧
  (∀ (s : State) (b prog pc sl : Nat), smGet s.progs prog = none →
    ∃ u : State, s.loadBristle sl b prog pc = u.startBristle b ∧ u.fget BRS_PC_PC b = pc % 2 ^ 18 ∧ (u.br b).pc = pc % 2 ^ 18 ∧
      u.fget BRS_CTL_SLICE b = sl % 64 ∧ (∀ r, (u.br b).g r = 0) ∧ smGet u.loaded (sl * 4096 + b) = some { prog := prog, pc := pc }) ∧
  (∀ (s : State) (p c : Nat), p ≤ 9 → c ≤ 23 →
    ((s.clusterDown p c).spareClusters p = [] →
      ∃ t : State, exec (.clusterFailure p c) s = .next t ∧ t = (((s.clusterDown p c).fset ATL_BOOT_STATUS_FAIL_CODE Status.clusterSpares.code).setPw
        { (s.clusterDown p c).pw with bootFault := true }).bootTo 8 ∧ t.fget ATL_BOOT_STATUS_STATE = 8) ∧
    (∀ n rest, (s.clusterDown p c).spareClusters p = n :: rest → ∃ v : State,
      exec (.clusterFailure p c) s = .next (((clusterBristles p c).map (fun b => (b, s.brState b))).foldl (fun s q => s.revive q.1 q.2) v) ∧
        v.cmapEntry p c = 0x80 + n ∧
        v.atl.clusterMapFlash = (s.clusterDown p c).atl.clusterMapFlash ++ [(p, s.cmapEntry p c % 32)] ∧
        (∀ b ∈ clusterBristles p c, v.brState b = 0 ∧ ∀ r, (v.br b).g r = 0)))

/-- R185, R186, R188, R189, R197 to R208, R192: memory stacks. Codebook stores take words unless in use; a read of good bursts gives
their bytes, a poisoned burst that no buddy copy restores gives POISONED; a write stores exactly its bytes; corrections, scrub,
repair, retirement and the layout record. -/
def Obligations.StackMemoryAndItsRepair : Prop :=
  (∀ (s : State) (m off v : Nat), m < 20 → off < 0x10000 → bit (s.rget MEM_CB_INUSE m) (off / 0x1000) = false →
    exec (.codebookStoreWrite m off v) s = .next { s with cb := memWriteN s.cb (m * 0x10000 + off / 4 * 4) (leBytes 4 v) }) ∧
  (∀ (s : State) (m off v : Nat), m < 20 → off < 0x10000 → bit (s.rget MEM_CB_INUSE m) (off / 0x1000) = true →
    ∃ t : State, exec (.codebookStoreWrite m off v) s = .next t ∧ t.fget MEM_CB_STATUS_WR_DISCARD m = 1 ∧ t.cb = s.cb ∧ t = { s with regs := t.regs }) ∧
  (∀ (s : State) (m k : Nat), ∃ t : State, exec (.codebookRewrite m k) s = .next t ∧
    (∀ a, a % 8 = 0 → t.badBits a = if cbWordAddr m (k * 0x1000) ≤ a ∧ a < cbWordAddr m (k * 0x1000) + 0x1000 then 0 else s.badBits a) ∧
    t = { s with ecc := t.ecc }) ∧
  (∀ (s : State) (who : Requester) (a n : Nat), 0 < n → a + n ≤ 0xA000000000 → s.requestErr who a n false = none → s.stk.bursts = [] →
    (∀ k, s.pcFailed k = false) → (∀ d, s.isGated d = false) →
    ∃ u : State, exec (.stackRead who a n none) s = .next (u.emit (.data (s.memGet a n) .ok)) ∧ u = { s with regs := u.regs, out := u.out }) ∧
  (∀ (s : State) (sl a n : Nat), 0 < n → a + n ≤ 0xA000000000 → s.ownsStack sl a n = false →
    exec (.stackRead (.slice sl) a n none) s = .next (s.emit (.data (List.replicate n 0) .accessFault))) ∧
  (∀ (s : State) (who : Requester) (a n : Nat), 0xA000000000 < a + n →
    exec (.stackRead who a n none) s = .next (s.emit (.data (List.replicate n 0) .unmapped))) ∧
  (∀ (s : State) (who : Requester) (a : Nat) (bs : List Byte), bs.length = 32 → a % 32 = 0 → a + 32 ≤ 0xA000000000 →
    s.requestErr who a bs.length true = none → (∀ k, s.pcFailed k = false) → (∀ d, s.isGated d = false) →
    ∃ t : State, exec (.stackWrite who a bs) s = .next (t.emit (.data [] .ok)) ∧ t.mem = memWriteN s.mem a bs ∧
      t.burst (a / 32) = { bad := 0, poison := false, noRefetch := false } ∧ (∀ k, k ≠ a / 32 → t.burst k = s.burst k) ∧ a / 32 ∉ t.stk.wb ∧ t.brs = s.brs) ∧
  (∀ (s : State) (k : Nat), k ∈ s.stk.wb →
    ∃ t : State, exec (.ceWriteback k) s = .next t ∧ (t.burst k).bad = 0 ∧ k ∉ t.stk.wb ∧ t = { s with stk := t.stk, dbg := t.dbg }) ∧
  (∀ (s : State) (k : Nat) (w : WaitingRead), (s.burst k).poison = true → s.stk.waiting = [w] → w.need = [k] →
    exec (.poisonRefetch k false) s = .next (({ s with stk := { s.stk with waiting := [] } } : State).emit (.data [] .poisoned)) ∧
    (s.refetchable (32 * k) = true → ∃ u : State,
      exec (.poisonRefetch k true) s = .next (({ u with stk := { u.stk with waiting := [] } } : State).answerRead w.addr w.len w.codebook) ∧
        u = s.refetchGranule k ∧ u.mem = s.mem ∧ ((s.burst k).noRefetch = false → (u.burst k).poison = false))) ∧
  (∀ (s : State) (m : Nat), m < 20 → s.fon MEM_SCRUB_CTL_EN m = true → s.fget MEM_STATUS_STATE m = 1 → s.stk.bursts = [] → (∀ k, s.pcFailed k = false) →
    s.fget MEM_SCRUB_POS_POS m + 1 < 2 ^ 27 →
    ∃ t : State, exec (.patrolScrubRead m) s = .next t ∧ t.fget MEM_SCRUB_POS_POS m = s.fget MEM_SCRUB_POS_POS m + 1 ∧
      t.mem = s.mem ∧ t = { s with regs := t.regs }) ∧
  (∀ (s : State) (m pc : Nat), m < 20 → pc < 32 →
    ∃ t : State, exec (.pseudoChannelFail m pc true) s = .next t ∧ bit (t.rget MEM_PC_FAILED m) pc = true ∧ t.fget MEM_ERR_STATUS_PC_FAIL m = 1 ∧
      t = { s with regs := t.regs, out := t.out }) ∧
  (∀ (s : State) (m n v : Nat), m < 20 → n < 256 → v < 2 ^ 32 → bit v 30 = true → s.stk.sparesUsed = [] →
    (∀ j, j < 256 → bit (s.rget MEM_REMAP m j) 31 = false ∧ bit (s.rget MEM_REMAP m j) 29 = false) →
    ∃ t : State, exec (.softRepair m n v) s = .next t ∧ bit (t.rget MEM_REMAP m n) 29 = true ∧ getBits (t.rget MEM_REMAP m n) 15 0 = getBits v 15 0 ∧
      getBits (t.rget MEM_REMAP m n) 19 16 = getBits v 19 16 ∧ smGet t.stk.sparesUsed (bankKey m (n / 8) (getBits v 19 16)) = some (2 ^ getBits v 27 26) ∧
      t = { s with regs := t.regs, stk := t.stk }) ∧
  (∀ (s : State) (m n : Nat), m < 20 → n < 256 → bit (s.rget MEM_REMAP m n) 29 = true → s.stk.bursts = [] →
    ∃ t : State, exec (.softRepairCopyDone m n) s = .next t ∧ bit (t.rget MEM_REMAP m n) 31 = true ∧ bit (t.rget MEM_REMAP m n) 29 = false ∧
      t.mem = s.mem ∧ t.stk.softRec = s.stk.softRec ++ [(m * 256 + n, s.rget MEM_REMAP m n)]) ∧
  (∀ (s : State) (k : Nat), k ∈ s.stk.repairQ →
    smGetD s.stk.sparesUsed (bankKey (steer s.localBands (32 * k)).1 (pcOf (steer s.localBands (32 * k)).2) (bankOf (steer s.localBands (32 * k)).2)) 0 % 16 = 15 →
    ∃ u : State, exec (.locationRetire k) s = .next u.writeLifeRecord.ddtRewrite ∧ k ∉ u.stk.repairQ ∧
      u.fget MEM_ERR_STATUS_RETIRED (steer s.localBands (32 * k)).1 = 1 ∧
      (∀ r ∈ rowRegions s.localBands (steer s.localBands (32 * k)).1 (pcOf (steer s.localBands (32 * k)).2) (bankOf (steer s.localBands (32 * k)).2)
        (rowOf (steer s.localBands (32 * k)).2), r ∈ u.stk.retired) ∧
      (s.nvm.ns = [] → u.mem = s.mem)) ∧
  (∀ (s : State) (m : Nat), m < 20 → s.fget MEM_STATUS_STATE m = 1 →
    ∃ t : State, exec (.stackRefresh m) s = .next t ∧ t.fget MEM_STATUS_REFRESH_2X m = (if 85 ≤ s.fget MEM_STATUS_TEMP m then 1 else 0) ∧ t = { s with regs := t.regs }) ∧
  (∀ (s : State) (ch l n : Nat), s.serves ch 0x0A [(1, l), (2, n)] .secure false = true → l + n ≤ 31 → n ≤ 16 →
    ∃ u : State, exec (.memLayout ch l n) s = .next (u.ack ch .ok 0 []) ∧ u.stk.layoutL = l ∧ u.stk.layoutN = n ∧ u.mem = s.mem ∧ u.regs = s.regs)

/-- R214 to R221, R224, R227, R228, R356, R357: tables and what reaches them. A created table has its slice's next handle and its
descriptor's shape; a destroyed one is gone; a work queue's slots are taken; a lookup or an update at the front of its queue that
passes every check is accepted with what it names. -/
def Obligations.TablesAreMadeAndUsed : Prop :=
  (∀ (s : State) (ch addr h n : Nat) (places : List SegPlace) (x : List Byte) (s1 s2 : State), s.serves ch 0x30 [(1, addr % 2 ^ 32), (2, addr / 2 ^ 32)] .bound true = true →
    (s.takeUp ch).readBlock (s.servedSlice ch 0) addr 64 = .ok (s1, x) → s1.tableDescOk (s.servedSlice ch 0) x = true → leField x 0xB 1 = 0 →
    n = ceilDiv (leField x 0 8) (rowsPerExtent (groupSlot 0 (leField x 0xA 1) (leField x 8 2) (leField x 0xC 1))) →
    s1.fits (s.servedSlice ch 0) n = true → s1.layoutOk (s.servedSlice ch 0) (leField x 0xD 1) n places = true →
    s1.makeTable (s.servedSlice ch 0) x places = .ok (h, s2) →
    exec (.tableCreate ch addr places) s = .next (s2.ack ch .ok 0 [h]) ∧
    h = s.servedSlice ch 0 * 2 ^ 26 + (smGetD s1.serial (s.servedSlice ch 0) 0 + 1) % 2 ^ 26 ∧
    ∃ t : Table, smGet s2.tbl h = some t ∧ t.slice = s.servedSlice ch 0 ∧ t.rows = leField x 0 8 ∧ t.d = leField x 8 2 ∧ t.fmt = leField x 0xA 1 ∧
      t.mode = 0 ∧ t.st = leField x 0xC 1 ∧ t.dying = none) ∧
  (∀ (s : State) (ch h : Nat) (t : Table), s.serves ch 0x31 [(1, h)] .bound false = true → smGet s.tbl h = some t → t.slice = s.servedSlice ch (h / 2 ^ 26) →
    (∀ p ∈ s.tbl, p.2.dying = none) → s.vrnNeeds h = false → (∀ w ∈ s.works, w.2.names h = false) →
    ∃ u : State, exec (.tableDestroy ch h) s = .next ((u.purgeTable h).ack ch .ok 0 [h]) ∧ smGet (u.purgeTable h).tbl h = none ∧
      u = { s.takeUp ch with tbl := smSet s.tbl h { t with dying := some ch } }) ∧
  (∀ (s : State) (sl q el : Nat) (w : Wq) (ps : List (Nat × Nat)) (bs : List Byte) (s1 : State), s.wq sl q = some w → w.err = false → w.ret = none →
    w.fetching = 0 → w.head < w.tail → w.tail ≤ w.head + 8 → w.tail < w.size →
    64 * (w.tail - w.head) ≤ min ((s.port w.port).maxRead 0) (4096 - (w.ring + 64 * w.head) % 4096) → (s.port w.port).flr = none → s.dieStopped (16 + w.port / 4) = false →
    s.hostWay sl w.port (w.ring + 64 * w.head) (64 * (w.tail - w.head)) false = .inside ps → s.getPieces ps = (s1, some bs) →
    exec (.workQueueFetch sl q el) s = .next (s1.setWq { w with fetching := w.tail - w.head, ret := some (.ok, bs) })) ∧
  (∀ (s : State) (sl q el : Nat) (w : Wq) (bs : List Byte), s.wq sl q = some w → w.err = false → w.ret = some (.ok, bs) →
    (∀ d ∈ slotsOf bs w.fetching, knownOp (leField d 0 1) = true) →
    ∃ u : State, exec (.workQueueFetch sl q el) s =
        .next (u.hostPut w.port 0 w.slice (u.curGen w.slice) w.hwb false (leBytes 4 ((w.head + w.fetching) % w.size))).2 ∧
      u.hl = (s.setWq { w with head := (w.head + w.fetching) % w.size, fetching := 0, tries := 0, ret := none, ready := w.ready ++ slotsOf bs w.fetching }).hl) ∧
  (∀ (s : State) (sl q el bagN outN wgtN : Nat) (idx bag wgt : HostData) (w : Wq) (x bl ix wg : List Byte) (lens : List Nat) (t : Table) (s1 s2 s3 : State),
    s.frontSlot sl q 0x10 2 = (s1, some (w, x)) → s.liveTable sl (leField x 4 4) = some t → lookupFieldsOk x = true →
    bagN = (if leField x 1 1 = 4 ∨ leField x 0x18 8 = 0 then 0 else 4 * leField x 0xC 4) → wgtN = (if leField x 1 1 = 3 then 4 * leField x 8 4 else 0) →
    outN = lens.length * t.d * elemBytes (leField x 3 1) →
    s.translate w.port sl [(leField x 0x10 8, leField x 8 4 * idxWidth x, false), (leField x 0x18 8, bagN, false), (leField x 0x20 8, wgtN, false),
      (leField x 0x28 8, outN, true), (leField x 0x30 8, 32, true)] = none →
    (s.popSlot w).1.readLists w.port sl [(leField x 0x18 8, bagN, bag)] = some (s2, .ok [bl]) → bagLens x (leItems 4 bl (bagN / 4)) = some lens →
    s2.readLists w.port sl [(leField x 0x10 8, leField x 8 4 * idxWidth x, idx), (leField x 0x20 8, wgtN, wgt)] = some (s3, .ok [ix, wg]) →
    ∃ (u : State) (k : Work), exec (.lookup sl q idx bag wgt el) s = .next u ∧ u.work s3.nextWork = some k ∧ u.nextWork = s3.nextWork + 1 ∧
      k.kind = 0x10 ∧ k.slice = sl ∧ k.queue = w.num ∧ k.gen = s.curGen sl ∧ k.desc = x ∧ k.idx = leItems (idxWidth x) ix (leField x 8 4) ∧ k.bags = lens ∧
      k.stage = 0 ∧ u.out = s3.out ∧ u.mem = s3.mem) ∧
  (∀ (s : State) (sl q el : Nat) (idx bag wgt : HostData) (w : Wq) (x : List Byte) (s1 : State), s.frontSlot sl q 0x10 2 = (s1, some (w, x)) →
    s.liveTable sl (leField x 4 4) = none →
    exec (.lookup sl q idx bag wgt el) s = .next ((s.popSlot w).1.completeBare w.port sl q x .badHandle (s.popSlot w).2 el)) ∧
  (∀ (s : State) (sl q el : Nat) (idx grad : HostData) (w : Wq) (x ix gd : List Byte) (t : Table) (s1 s3 : State),
    s.frontSlot sl q 0x11 2 = (s1, some (w, x)) → s.liveTable sl (leField x 4 4) = some t → updateFieldsOk x t = true →
    s.translate w.port sl [(leField x 0x10 8, leField x 8 4 * idxWidth x, false), (leField x 0x18 8, leField x 8 4 * gradBytes x t, false),
      (leField x 0x30 8, 32, true)] = none →
    (if bit (leField x 2 1) 6 = true then leField x 1 1 = 0 else t.mode = 0) →
    (s.popSlot w).1.readLists w.port sl [(leField x 0x10 8, leField x 8 4 * idxWidth x, idx), (leField x 0x18 8, leField x 8 4 * gradBytes x t, grad)] =
      some (s3, .ok [ix, gd]) →
    ∃ (u : State) (k : Work), exec (.sparseUpdate sl q idx grad el) s = .next u ∧ u.work s3.nextWork = some k ∧ u.nextWork = s3.nextWork + 1 ∧
      k.kind = 0x11 ∧ k.slice = sl ∧ k.desc = x ∧ k.idx = leItems (idxWidth x) ix (leField x 8 4) ∧ k.data = gd ∧ k.stage = 0 ∧ u.mem = s3.mem) ∧
  (∀ (s : State) (w : Nat) (k : Work) (t : Table), s.work w = some k → (k.kind = 0x10 ∨ k.kind = 0x11) → k.stage = 0 →
    s.dieStopped (16 + k.port / 4) = false →
    (∀ v ∈ s.works, v.1 < w → ¬(v.2.stage = 0 ∧ v.2.slice = k.slice ∧ v.2.queue = k.queue)) → smGet s.tbl (leField k.desc 4 4) = some t →
    (∀ r ∈ k.idx, t.rows ≤ r ∧ r ≠ 2 ^ (8 * idxWidth k.desc) - 1) →
    exec (.workForward w []) s = .next (({ s with cmp := { s.cmp with arrived := s.cmp.arrived + 1 } } : State).setWork w
      { k with stage := 1, arr := s.cmp.arrived + 1, stamp := s.epoch (leField k.desc 4 4), waiting := [], events := k.events ++ (List.range k.idx.length).map (fun i => (Status.indexRange, i)) })) ∧
  (∀ (s u : State) (w i : Nat) (vals : List Nat) (k : Work) (rc : WRec) (t : Table), s.work w = some k → k.recs[i]? = some rc → k.kind = 0x10 →
    s.brState rc.lead ≠ 3 → smGet s.cmp.turns (rc.lead / 16) = none → smGet s.tbl (leField k.desc 4 4) = some t → s.donePool w k t rc = some u →
    exec (.workRecordDone w i vals) s = .next u ∧ ∃ j : Work, u.work w = some j ∧ j.recs = k.recs.filter (fun r => r.ord != rc.ord) ∧
      j.idx = k.idx ∧ j.desc = k.desc)

/-- R232, R237 to R239, R242 to R247, R255, R264, R273, R388: caches, sequences, attention steps and appends. A created cache or
sequence has its slice's next handle; truncation and destruction take effect once no earlier entry runs; a step's entries are
accepted in order, start in turn and end; a finished item is delivered, or discarded under an earlier generation. -/
def Obligations.CachesSequencesAndSteps : Prop :=
  (∀ (s s1 s2 : State) (ch addr h : Nat) (x : List Byte), s.serves ch 0x32 [(1, addr % 2 ^ 32), (2, addr / 2 ^ 32)] .bound true = true →
    (s.takeUp ch).readBlock (s.servedSlice ch 0) addr 32 = .ok (s1, x) →
    s1.cacheDescOk (s.servedSlice ch 0) x = true → s1.makeCache (s.servedSlice ch 0) x = .ok (h, s2) →
    exec (.cacheCreate ch addr) s = .next (s2.ack ch .ok 0 [h]) ∧ h = s.servedSlice ch 0 * 2 ^ 26 + (smGetD s1.serial (s.servedSlice ch 0) 0 + 1) % 2 ^ 26 ∧
    ∃ c : Cache, smGet s2.kvc h = some c ∧ c.slice = s.servedSlice ch 0 ∧ c.layers = leField x 0 2 ∧ c.kvh = leField x 2 1 ∧ c.group = leField x 3 1 ∧
      c.hd = leField x 4 2 ∧ c.fmt = leField x 6 1 ∧ c.run = leField x 7 1 ∧ c.maxSeq = leField x 0xC 4 ∧ c.maxPos = leField x 0x10 4) ∧
  (∀ (s : State) (ch h : Nat) (c : Cache), s.serves ch 0x33 [(1, h)] .bound false = true → smGet s.kvc h = some c → c.slice = s.servedSlice ch (h / 2 ^ 26) →
    (∀ p ∈ s.kvc, p.2.dying = none) → (∀ w ∈ s.works, w.2.names h = false) →
    (∀ p ∈ s.seqs, p.2.cache ≠ h ∧ p.2.truncTo = none ∧ p.2.dying = none) →
    ∃ u : State, exec (.cacheDestroy ch h) s = .next (u.ack ch .ok 0 [h]) ∧ smGet u.kvc h = none ∧ u.seqs = s.seqs ∧ u.mem = s.mem) ∧
  (∀ (s : State) (ch cache : Nat) (regions : List Nat) (c : Cache), s.serves ch 0x34 [(1, cache)] .bound false = true → smGet s.kvc cache = some c →
    c.slice = s.servedSlice ch (cache / 2 ^ 26) → c.dying = none → (s.seqs.filter (fun q => q.2.cache == cache)).length < c.maxSeq →
    (s.takeUp ch).fits (s.servedSlice ch (cache / 2 ^ 26)) (2 * c.arrayRegions) = true →
    s.serialLeft (s.servedSlice ch (cache / 2 ^ 26)) = true → (s.takeUp ch).arrayOk (2 * c.arrayRegions) regions = true →
    ∃ (u : State) (h : Nat), exec (.seqCreate ch cache regions) s = .next (u.ack ch .ok 0 [h]) ∧
      h = s.servedSlice ch (cache / 2 ^ 26) * 2 ^ 26 + (smGetD s.serial (s.servedSlice ch (cache / 2 ^ 26)) 0 + 1) % 2 ^ 26 ∧
      smGet u.seqs h = some { units := regions, cache := cache, lens := [], truncTo := none, dying := none } ∧ u.kvc = s.kvc ∧ u.tbl = s.tbl) ∧
  (∀ (s : State) (ch h n : Nat) (q : Seq), s.serves ch 0x35 [(1, h), (2, n)] .bound false = true → smGet s.seqs h = some q → h / 2 ^ 26 = s.servedSlice ch (h / 2 ^ 26) →
    (∀ p ∈ s.seqs, p.2.truncTo = none ∧ p.2.dying = none) → (∀ p ∈ s.kvc, p.2.dying = none) → s.seqBusy h s.cmp.arrived = false →
    ∃ u : State, exec (.seqTruncate ch h n) s = .next ((u.truncate h n).ack ch .ok 0 [h]) ∧
      u = { s.takeUp ch with seqs := smSet s.seqs h { q with truncTo := some (n, ch, s.cmp.arrived) } }) ∧
  (∀ (s : State) (h n l : Nat) (q : Seq), smGet s.seqs h = some q →
    ∃ r : Seq, smGet (s.truncate h n).seqs h = some r ∧ r.len l = min (q.len l) n ∧ r.truncTo = none ∧ r.cache = q.cache) ∧
  (∀ (s : State) (ch h : Nat) (q : Seq), s.serves ch 0x36 [(1, h)] .bound false = true → smGet s.seqs h = some q → h / 2 ^ 26 = s.servedSlice ch (h / 2 ^ 26) →
    (∀ p ∈ s.seqs, p.2.truncTo = none ∧ p.2.dying = none) → (∀ p ∈ s.kvc, p.2.dying = none) → s.seqBusy h s.cmp.arrived = false →
    ∃ u : State, exec (.seqDestroy ch h) s = .next ((u.purgeSeq h).ack ch .ok 0 [h]) ∧ smGet (u.purgeSeq h).seqs h = none ∧
      u = { s.takeUp ch with seqs := smSet s.seqs h { q with dying := some (ch, s.cmp.arrived) } }) ∧
  (∀ (s s1 s2 : State) (sl q el nN : Nat) (ents qry new : HostData) (w : Wq) (x es qs ns : List Byte) (c : Cache), s.frontSlot sl q 0x20 1 = (s1, some (w, x)) →
    s.liveCache sl (leField x 4 4) = some c → stepFieldsOk x c = true →
    nN = (if bit (leField x 1 1) 2 = true then leField x 0xA 2 * c.newBytes (leField x 0xC 1) else 0) →
    s.translate w.port sl [(leField x 0x10 8, 8 * leField x 0xA 2, false), (leField x 0x18 8, leField x 0xA 2 * c.headBytes (leField x 2 1), false),
      (leField x 0x20 8, nN, false), (leField x 0x28 8, leField x 0xA 2 * c.headBytes (leField x 3 1), true), (leField x 0x30 8, 32 + leField x 0xA 2, true)] = none →
    (s.popSlot w).1.readLists w.port sl [(leField x 0x10 8, 8 * leField x 0xA 2, ents), (leField x 0x18 8, leField x 0xA 2 * c.headBytes (leField x 2 1), qry),
      (leField x 0x20 8, nN, new)] = some (s2, .ok [es, qs, ns]) →
    ∃ (u : State) (k : Work), exec (.attentionStep sl q ents qry new el) s = .next u ∧ u.work s2.nextWork = some k ∧ k.kind = 0x20 ∧ k.slice = sl ∧ k.desc = x ∧
      k.ents = (List.range (leField x 0xA 2)).map (fun e => newEntry (leField es (8 * e) 4) (leField x 8 2) (leField es (8 * e + 4) 4) 1) ∧
      k.data = qs ∧ k.newData = ns ∧ u.mem = s2.mem) ∧
  (∀ (s s1 s2 : State) (sl q el sN : Nat) (src : HostData) (w : Wq) (x bs : List Byte) (c : Cache), s.frontSlot sl q 0x21 1 = (s1, some (w, x)) →
    s.liveCache sl (leField x 4 4) = some c → appendFieldsOk x c = true → sN = leField x 0x16 2 * leField x 0x10 4 * c.newBytes (leField x 2 1) →
    s.translate w.port sl [(leField x 0x18 8, sN, false), (leField x 0x30 8, 32, true)] = none →
    (s.popSlot w).1.readLists w.port sl [(leField x 0x18 8, sN, src)] = some (s2, .ok [bs]) →
    ∃ (u : State) (k : Work), exec (.kvAppend sl q src el) s = .next u ∧ u.work s2.nextWork = some k ∧ k.kind = 0x21 ∧ k.slice = sl ∧ k.desc = x ∧
      k.ents = (List.range (leField x 0x16 2)).map (fun i => newEntry (leField x 8 4) (leField x 0x14 2 + i) (leField x 0xC 4) (leField x 0x10 4)) ∧
      k.newData = bs ∧ u.mem = s2.mem) ∧
  (∀ (s : State) (w : Nat) (k : Work) (places : List RecPlace), s.work w = some k → (k.kind = 0x20 ∨ k.kind = 0x21) → k.stage = 0 →
    s.dieStopped (16 + k.port / 4) = false →
    (∀ v ∈ s.works, v.1 < w → ¬(v.2.stage = 0 ∧ v.2.slice = k.slice ∧ v.2.queue = k.queue)) →
    exec (.workForward w places) s = .next (({ s with cmp := { s.cmp with arrived := s.cmp.arrived + 1 } } : State).setWork w
      { k with stage := 1, arr := s.cmp.arrived + 1, stamp := s.epoch (leField k.desc 4 4) })) ∧
  (∀ (s : State) (w e : Nat) (k : Work) (x : AttEntry) (c : Cache) (runs : List UnitPlace) (places : List RecPlace),
    s.work w = some k → k.ents[e]? = some x → smGet s.kvc (leField k.desc 4 4) = some c → k.kind = 0x20 → bit (leField k.desc 1 1) 2 = false → k.stage ≠ 0 →
    x.phase = 0 → s.entryTurn w e x k.arr = true → (∀ q, smGet s.seqs x.seqH = some q → q.truncTo = none) →
    s.entryCheck k.arr c (leField k.desc 4 4) false x = none →
    ∃ k' : Work, exec (.attentionEntryStart w e runs places) s =
        .next ((((s.setWork w k').postRuns w e c (c.runsBelow x.pos) places).settleEntry w e).endSeqs) ∧
      k'.recs = k.recs ∧ k'.events = k.events ∧
      k'.ents = k.ents.set e { x with phase := 1, appended := false, bound := x.pos, todo := c.runsBelow x.pos }) ∧
  (∀ (s : State) (w e : Nat) (k : Work) (x : AttEntry) (c : Cache) (runs : List UnitPlace) (places : List RecPlace),
    s.work w = some k → k.ents[e]? = some x → smGet s.kvc (leField k.desc 4 4) = some c → x.phase = 1 →
    exec (.attentionEntryStart w e runs places) s = .next (((s.postRuns w e c x.todo places).settleEntry w e).endSeqs)) ∧
  (∀ (s s1 : State) (w e : Nat) (k : Work) (x : AttEntry) (c : Cache) (runs : List UnitPlace) (places : List RecPlace) (lost : Bool),
    s.work w = some k → k.ents[e]? = some x → smGet s.kvc (leField k.desc 4 4) = some c → k.kind = 0x21 → k.stage ≠ 0 →
    x.phase = 0 → s.entryTurn w e x k.arr = true → (∀ q, smGet s.seqs x.seqH = some q → q.truncTo = none) →
    s.entryCheck k.arr c (leField k.desc 4 4) true x = none →
    s.append c (leField k.desc 4 4) x k.stamp (fun i => (c.convList (leField k.desc 2 1) (k.newData.drop ((e * x.n + i) * c.newBytes (leField k.desc 2 1))) (2 * c.kvh * c.hd)).1)
      runs (!places.isEmpty) = .done s1 lost →
    ∃ k' : Work, exec (.attentionEntryStart w e runs places) s = .next (((s1.setWork w k').settleEntry w e).endSeqs) ∧
      k'.recs = k.recs ∧ k'.events = (if lost then k.events ++ [(Status.poisoned, e)] else k.events) ∧
      k'.ents = k.ents.set e { x with phase := 1, appended := true, bound := 0, todo := [] }) ∧
  (∀ (s : State) (w e : Nat) (k : Work) (x : AttEntry) (c : Cache) (runs : List UnitPlace) (places : List RecPlace) (st : Status),
    s.work w = some k → k.ents[e]? = some x → smGet s.kvc (leField k.desc 4 4) = some c → k.kind = 0x20 → k.stage ≠ 0 → x.phase = 0 →
    s.entryTurn w e x k.arr = true → (∀ q, smGet s.seqs x.seqH = some q → q.truncTo = none) →
    s.entryCheck k.arr c (leField k.desc 4 4) (bit (leField k.desc 1 1) 2) x = some st →
    exec (.attentionEntryStart w e runs places) s =
      .next ((s.setWork w { k with events := k.events ++ [(st, e)], ents := k.ents.set e { x with phase := 2, status := st } }).endSeqs)) ∧
  (∀ (s u : State) (w el : Nat) (k : Work), s.work w = some k → s.workDone k = true → k.kind ≠ 0x30 → s.deliverWork w k el = some u →
    exec (.outputDelivery w el) s = .next u) ∧
  (∀ (s : State) (w el : Nat) (k : Work), s.work w = some k → s.workDone k = true → k.kind ≠ 0x30 → k.gen ≠ s.curGen k.slice →
    exec (.outputDelivery w el) s = .next ((s.lateGen k.slice).endWork w))

/-- R274, R275, R279, R283 to R297, R272: composition. A copy runs its passes, is HELD, drains and flips: the unit's NEW slot becomes
OLD and the epoch moves on; the drain's end frees what the flip superseded; turns end and switch; the placement commands and the
window. -/
def Obligations.UnitsMoveByCopyAndFlip : Prop :=
  (∀ (s : State) (p : Nat), p < 10 → s.fwRuns = true → s.cmp.exc = [] → s.cmp.asks = [] →
    exec (.compositionScan p [] []) s = .next { s with cmp := { s.cmp with heatCtl := smSet s.cmp.heatCtl p (s.rget CMP_HEAT_CTL p) } }) ∧
  (∀ (s q s1 : State) (p h u : Nat) (dst : UnitPlace), p < 10 → s.fwRuns = true → s.fon CMP_SCAN_CTL_EN p = false →
    q = { s with cmp := { s.cmp with heatCtl := smSet s.cmp.heatCtl p (s.rget CMP_HEAT_CTL p) } } → q.moveOk h u dst = true →
    q.startCopy h u dst none = some s1 → exec (.compositionScan p [] [(h, u, dst)]) s = .next s1.settleAsks) ∧
  (∀ (s s1 : State) (h u : Nat) (src dst : UnitPlace), s.unitAt h u = some src → (h, u) ∉ s.cmp.copies.map (fun c => (c.handle, c.unit)) →
    s.startCopy h u dst none = some s1 → (s1.cmp.copies ≠ s.cmp.copies) →
    s1.copyOf h u = some { handle := h, unit := u, src := src, dst := dst, phase := 0, passes := 0, dirty := [], swatch := none }) ∧
  (∀ (s : State) (h u : Nat) (bytes : List Byte) (c : Copy), s.copyOf h u = some c → s.fwRuns = true → c.phase = 0 → c.src.tier = 0 → c.passes < 3 → 8 < c.dirty.length →
    ∃ t : State, exec (.copyPassDone h u bytes) s = .next t ∧ t.copyOf h u = some { c with passes := c.passes + 1, dirty := [] } ∧ t.cmp.dir = s.cmp.dir ∧ t.tbl = s.tbl) ∧
  (∀ (s : State) (h u : Nat) (bytes : List Byte) (c : Copy), s.copyOf h u = some c → s.fwRuns = true → c.phase = 0 → c.src.tier = 0 → (c.dirty.length ≤ 8 ∨ 3 ≤ c.passes) →
    ∃ t : State, exec (.copyPassDone h u bytes) s = .next t ∧ t.copyOf h u = some { c with phase := 1, passes := c.passes + 1 } ∧ t.cmp.dir = s.cmp.dir ∧ t.tbl = s.tbl) ∧
  (∀ (s : State) (h u : Nat) (c : Copy), s.copyOf h u = some c → s.fwRuns = true → c.phase = 1 → s.unitBusy c = false → c.dirty = [] →
    ∃ t : State, exec (.copyHeldDrained h u) s = .next t ∧ t.copyOf h u = some { c with phase := 2, dirty := [] } ∧ t = { s with cmp := { s.cmp with copies := t.cmp.copies } }) ∧
  (∀ (s : State) (h u : Nat) (c : Copy), s.copyOf h u = some c → c.phase = 1 → s.unitBusy c = true → exec (.copyHeldDrained h u) s = .next s) ∧
  (∀ (s : State) (h u : Nat) (c : Copy) (k e : Nat), s.copyOf h u = some c → s.fwRuns = true → c.phase = 2 → s.draining h = false → (smGet s.tbl h).isSome = true → u < 2 ^ 32 →
    c.swatch = some (k, e) →
    ∃ v : State, exec (.epochFlip h u) s = .next v.settleAsks ∧ v.copyOf h u = none ∧ v.draining h = true ∧ v.mem = s.mem ∧ v.own = s.own ∧
      (∀ m, smGet s.cmp.exc (excKey h u) = some m → ∃ n, smGet v.cmp.exc (excKey h u) = some n ∧ (slotOf (eGet n 0 8)).swidx = k % 2 ^ 16 ∧
        eGet n 8 8 = eGet m 0 8 ∧ eGet n 0x10 2 = (s.epoch (s.dirHandle h) + 1) % 65536)) ∧
  (∀ (s : State) (h u : Nat) (c : Copy), s.copyOf h u = some c → c.phase ≠ 2 → u < 2 ^ 33 → exec (.epochFlip h u) s = .next s) ∧
  (∀ (s : State) (h : Nat) (d : Drain), d ∈ s.cmp.drains → d.handle = h → s.fwRuns = true → s.oldWork h (s.epoch h) = false →
    (∀ k ∈ s.cmp.offs, k / 2 ^ 24 ≠ h) →
    ∃ t : State, exec (.drainEnd h) s = .next t ∧ (∀ e ∈ t.cmp.drains, e.handle ≠ h) ∧ ((∀ e ∈ s.cmp.drains, e.runs = []) → t.mem = s.mem) ∧
      (∀ r ∈ d.freed, s.inBuddy r = false → smGet t.own r = none)) ∧
  (∀ (s : State) (h : Nat), s.oldWork h (s.epoch h) = true → exec (.drainEnd h) s = .next s) ∧
  (∀ (s : State) (w pos : Nat) (bytes : List Byte) (k : Work), s.work w = some k → pos ∉ k.tierOut →
    exec (.tierReadComplete w pos bytes) s = .next (s.setWork w { k with tier := smSet k.tier pos (some bytes) })) ∧
  (∀ (s : State) (w pos : Nat) (bytes : List Byte) (k : Work), s.work w = some k → pos ∈ k.tierOut →
    exec (.tierReadComplete w pos bytes) s = .next (s.setWork w { k with tierOut := k.tierOut.filter (· != pos) })) ∧
  (∀ (s : State) (w pos h : Nat) (k : Work) (p : UnitPlace), s.work w = some k → pos ∉ k.tierOut → s.tierUnit k pos = some (h, p) → p.tier = 1 → p.home < 3840 →
    ∃ t : State, exec (.tierReadFail w pos) s = .next t ∧ t.fget CMP_ERR_STATUS_TIER_UNREACH (p.home / 384) = 1 ∧
      h / 2 ^ 26 * 16 + p.loc / 2 ^ 29 ∈ t.cmp.unusable ∧ t.work w = some { k with tier := smSet k.tier pos none } ∧ t.mem = s.mem) ∧
  (∀ (s : State) (h u : Nat), s.fwRuns = true → smGet s.seqs h = none →
    exec (.mapEntryRebuild h u) s = .next { s with cmp := { s.cmp with mapBad := smDel s.cmp.mapBad (excKey h u) } }) ∧
  (∀ (s : State) (h u : Nat) (q : Seq), s.fwRuns = true → u < 2 ^ 32 → smGet s.seqs h = some q → ∃ t : State, exec (.mapEntryRebuild h u) s = .next t ∧
    (t.burst (q.entryAddr 0 u / 32)).poison = false ∧ (t.burst (q.entryAddr 1 u / 32)).poison = false ∧
    (s.memOk → t.memGet (q.entryAddr 1 u) 32 = leBytes 32 (smGetD s.cmp.run (runKey h u) (freeRunEntry (runKey h u)))) ∧
    t = { s with mem := t.mem, stk := t.stk, dbg := t.dbg }) ∧
  (∀ (s : State) (p c : Nat) (t : Turn), p < 10 → c < 24 → smGet s.cmp.turns (24 * p + c) = some t → t.switching = false → s.fon CMP_TSLICE_CTL_OVERSUB p = true →
    2 ≤ t.slices.length → s.fwRuns = true → s.swatchFree (24 * p + c) = true → s.turnOver p c t = true →
    ∃ u : State, exec (.turnEnd p c) s = .next u ∧ smGet u.cmp.turns (24 * p + c) = some { t with switching := true } ∧
      (∀ b ∈ clusterBristles p c, (u.br b).saved.isSome = true)) ∧
  (∀ (s : State) (p c : Nat) (t : Turn), p < 10 → c < 24 → smGet s.cmp.turns (24 * p + c) = some t → t.switching = true → s.fwRuns = true →
    (∀ b ∈ clusterBristles p c, (s.br b).loads = [] ∧ (s.br b).sbuf = []) →
    (∀ i, i < 7 → s.dstate (24 * p + c) (i + 1) ≠ 1 ∧ s.dstate (24 * p + c) (i + 1) ≠ 2) →
    ∃ u : State, exec (.turnSwitchComplete p c) s = .next u ∧
      smGet u.cmp.turns (24 * p + c) = some { t with cur := t.after, switching := false, since := s.pw.onTicks, ctl := s.rget CMP_TSLICE_CTL p }) ∧
  (∀ (s : State) (ch h flags : Nat) (places : List (Nat × UnitPlace)), s.serves ch 0x40 [(1, h), (2, flags)] .bound false = true → flags < 4 → bit flags 1 = false →
    ((s.liveTable (s.servedSlice ch (h / 2 ^ 26)) h).isSome = true ∨ (s.liveCache (s.servedSlice ch (h / 2 ^ 26)) h).isSome = true) →
    exec (.placePin ch h flags places) s =
      .next (((s.takeUp ch).setDir h (fun d => eSet d 5 1 (putBits (eGet d 5 1) 1 0 flags))).ack ch .ok 0 [])) ∧
  (∀ (s : State) (ch h first count hot : Nat), s.serves ch 0x41 [(1, h), (2, first), (3, count), (4, hot)] .bound false = true → s.placeHandle (s.servedSlice ch (h / 2 ^ 26)) h = true → 0 < count → count ≤ 65536 →
    first + count ≤ s.unitCount h → hot < 2 →
    ∃ u : State, exec (.placeHint ch h first count hot) s = .next (u.ack ch .ok 0 []) ∧ u.tbl = s.tbl ∧ u.seqs = s.seqs ∧
      ((smGet s.kvc h).isNone = true → (smGet s.tbl h).isSome = true → u.mem = s.mem ∧ u.regs = s.regs)) ∧
  (∀ (s : State) (ch h x : Nat) (t : Table) (p : UnitPlace), s.serves ch 0x41 [(1, h), (2, x), (3, 1), (4, 0)] .bound false = true → smGet s.kvc h = none →
    s.liveTable (s.servedSlice ch (h / 2 ^ 26)) h = some t → x < s.unitCount h → s.unitAt h x = some p →
    ∃ u : State, exec (.placeHint ch h x 1 0) s = .next (u.ack ch .ok 0 []) ∧ u.extHeat (p.home / 384) (excKey h x) = 0) ∧
  (∀ (s : State) (ch h first count : Nat), s.serves ch 0x42 [(1, h), (2, first), (3, count)] .bound false = true → s.placeHandle (s.servedSlice ch (h / 2 ^ 26)) h = true → 0 < count → count ≤ 65536 →
    first + count ≤ s.unitCount h → exec (.placePromote ch h first count []) s = .next ((s.takeUp ch).ack ch .ok 0 [0])) ∧
  (∀ (s : State) (ch h : Nat), s.serves ch 0x43 [(1, h)] .bound false = true → s.placeHandle (s.servedSlice ch (h / 2 ^ 26)) h = true →
    ∃ ws : List Nat, exec (.placeQuery ch h) s = .next ((s.takeUp ch).ack ch .ok 0 ws) ∧ ws.length = 6 ∧ ws.getD 5 0 = s.epoch (s.dirHandle h)) ∧
  (∀ (s : State) (ch spill pct pin t3 : Nat) (targets : List Nat), s.serves ch 0x44 [] .bound true = true → s.servedSlice ch 0 < 64 →
    spill ≤ 3 → (2 ≤ spill → ∃ n, smGet s.nvm.ns t3 = some n ∧ n.slice = s.servedSlice ch 0 ∧ n.kind = 2 ∧ n.lbaf = 1 ∧ n.ctrls = []) → pct ≤ 100 → pin ≤ 1 → t3 ≤ 63 → targets.length ≤ 8 →
    ∃ u : State, exec (.placePolicy ch .ok spill pct pin t3 targets) s = .next (u.ack ch .ok 0 []) ∧
      (∀ p, p < 10 → u.fget CMP_SLICE_POL_SPILL p (s.servedSlice ch 0) = spill ∧ u.fget CMP_SLICE_POL_PIN_PLACE p (s.servedSlice ch 0) = pin) ∧
      smGet u.cmp.targets (s.servedSlice ch 0) = some targets ∧ (∀ m ∈ u.cmp.unusable, m / 16 ≠ s.servedSlice ch 0)) ∧
  (∀ (s : State) (ch sl pin : Nat), s.serves ch 0x45 [(1, sl), (2, pin)] .secure false = true → sl < 64 → pin < 2 → s.cmp.turns = [] →
    ∃ u : State, exec (.placeAdmin ch sl pin) s = .next (u.ack ch .ok 0 []) ∧ (∀ p, p < 10 → u.fget CMP_SLICE_POL_PIN_CLUSTERS p sl = pin) ∧
      u = { s.takeUp ch with regs := u.regs }) ∧
  (∀ (s : State) (p : Nat), p < 10 → ∃ t : State, exec (.cmpIndRead p) s = .next t ∧ t = { s with regs := t.regs } ∧
    (∀ n, n < 8 → t.rget CMP_IND_DATA p n = getBits (s.cmpPart p (s.fget CMP_IND_SEL_PART p) (s.fget CMP_IND_SEL_INDEX p)) (32 * n + 31) (32 * n))) ∧
  (∀ (s : State) (p : Nat), p < 10 → s.fget CMP_IND_SEL_PART p = 4 → s.fget CMP_IND_SEL_INDEX p < 8192 →
    ∃ t : State, exec (.cmpIndWrite p) s = .next t ∧ t = { s with cmp := { s.cmp with swatch := t.cmp.swatch } } ∧
      smGetD t.cmp.swatch (p * 8192 + s.fget CMP_IND_SEL_INDEX p) 0 = ((List.range 8).map (fun n => s.rget CMP_IND_DATA p n * 2 ^ (32 * n))).sum)

/-- R324, R325, R337 to R340: DMA channels. The bits of the control register, taken in their order, start, pause, resume, abort and
reload a channel; NEXT takes writes only while the channel is IDLE or in ERROR; DMA_ALLOC and DMA_FREE give a channel to a slice
and take it back. -/
def Obligations.DmaChannelsAreControlled : Prop :=
  (∀ (s : State) (e k v : Nat), chanOk e k = true → s.dstate e k = 0 → s.fon DMA_CHAN_CTL_PAUSE e k = false → bit v 2 = false → bit v 30 = false → bit v 31 = false →
    (s.chan e k).todo = [] → (s.chan e k).aborting = false →
    ∃ t : State, exec (.dmaStart .atelier e k v) s = .next t ∧ t.mem = s.mem ∧
      (s.dnext e k ≠ 0 → s.dnext e k % 64 = 0 → t.dstate e k = 1 ∧ (t.chan e k).phase = 1 ∧ (t.chan e k).nxt = s.dnext e k) ∧
      (s.dnext e k = 0 → t.dstate e k = 0 ∧ t.fget DMA_CHAN_STATUS_CHAIN_END e k = 1) ∧
      (s.dnext e k % 64 ≠ 0 → t.dstate e k = 4 ∧ t.fget DMA_CHAN_STATUS_LINK_FAULT e k = 1)) ∧
  (∀ (s : State) (e k v : Nat), chanOk e k = true → s.dstate e k = 1 → s.fon DMA_CHAN_CTL_PAUSE e k = false → bit v 0 = false → bit v 30 = false →
    bit v 31 = false → (s.chan e k).todo = [] → (s.chan e k).aborting = false →
    (∃ t : State, exec (.dmaPause .atelier e k v) s = .next t ∧ t.dstate e k = 2 ∧ t.fget DMA_CHAN_CTL_PAUSE e k = 1 ∧ t.mem = s.mem) ∧
    (bit v 2 = false → ∃ t : State, exec (.dmaReload .atelier e k v) s = .next t ∧ t.dstate e k = 1 ∧ t.fget DMA_CHAN_STATUS_RELOAD_PEND e k = 1 ∧ t.mem = s.mem) ∧
    (bit v 2 = false → ∃ t : State, exec (.dmaAbort .atelier e k v) s = .next t ∧ t.dstate e k = 2 ∧ (t.chan e k).aborting = true ∧ t.mem = s.mem)) ∧
  (∀ (s : State) (e k v : Nat), chanOk e k = true → s.dstate e k = 3 → s.fon DMA_CHAN_CTL_PAUSE e k = true → bit v 0 = false → bit v 30 = false →
    (s.chan e k).todo = [] → (s.chan e k).aborting = false →
    ((s.chan e k).phase = 2 → bit v 31 = false → ∃ t : State, exec (.dmaResume .atelier e k v) s = .next t ∧ t.dstate e k = 1 ∧
      t.fget DMA_CHAN_CTL_PAUSE e k = 0 ∧ t.mem = s.mem) ∧
    ((s.chan e k).phase = 1 → bit v 2 = true → ∃ t : State, exec (.dmaAbort .atelier e k v) s = .next t ∧ t.dstate e k = 0 ∧ (t.chan e k).phase = 0 ∧ t.mem = s.mem)) ∧
  (∀ (s : State) (who : Requester) (e k v : Nat), s.dmaMay who e k = false → exec (.dmaStart who e k v) s = .next s) ∧
  (∀ (s : State) (who : Requester) (e k v : Nat), chanOk e k = true → s.dmaMay who e k = true → (s.dstate e k = 0 ∨ s.dstate e k = 4) →
    (∃ t : State, exec (.dmaNextWrite who e k false v) s = .next t ∧ t.rget DMA_CHAN_NEXT_LO e k = v % 2 ^ 32 ∧
      t.rget DMA_CHAN_NEXT_HI e k = s.rget DMA_CHAN_NEXT_HI e k ∧ t = { s with regs := t.regs }) ∧
    (∃ t : State, exec (.dmaNextWrite who e k true v) s = .next t ∧ t.rget DMA_CHAN_NEXT_HI e k = (if e < 240 then v % 2 ^ 16 else v % 2 ^ 32) ∧
      t.rget DMA_CHAN_NEXT_LO e k = s.rget DMA_CHAN_NEXT_LO e k ∧ t = { s with regs := t.regs })) ∧
  (∀ (s : State) (who : Requester) (e k v : Nat) (hi : Bool), chanOk e k = true → s.dmaMay who e k = true → s.dstate e k ≠ 0 → s.dstate e k ≠ 4 →
    ∃ t : State, exec (.dmaNextWrite who e k hi v) s = .next t ∧ t.fget DMA_CHAN_STATUS_CTL_IGNORED e k = 1 ∧ t.dnext e k = s.dnext e k ∧ t = { s with regs := t.regs }) ∧
  (∀ (s : State) (ch die port k : Nat), s.serves ch 0x23 [(1, die), (2, port)] .bound false = true → s.servedSlice ch 0 < 64 → die ≤ 1 → port ≤ 3 →
    s.dmaCount (s.servedSlice ch 0) < s.quota (s.servedSlice ch 0) 7 → k < 64 → s.fon DMA_CHAN_OWNER_VALID (240 + die) k = false →
    (∀ j, j < k → s.fon DMA_CHAN_OWNER_VALID (240 + die) j = true) →
    ∃ u : State, exec (.dmaAlloc ch die port) s = .next (u.ack ch .ok 0 [64 * die + k]) ∧ u.dmaSlice (240 + die) k = some (s.servedSlice ch 0) ∧
      u.dport (240 + die) k = die * 4 + port ∧ u.dstate (240 + die) k = 0 ∧ u.mem = s.mem) ∧
  (∀ (s : State) (ch c : Nat), s.serves ch 0x24 [(1, c)] .bound false = true → c < 128 → s.dmaSlice (240 + c / 64) (c % 64) = some (s.servedSlice ch 0) →
    s.dstate (240 + c / 64) (c % 64) = 0 →
    ∃ u : State, exec (.dmaFree ch c) s = .next (u.ack ch .ok 0 [c]) ∧ u.dmaSlice (240 + c / 64) (c % 64) = none ∧ u.mem = s.mem)

/-- R326 to R336, R643: DMA descriptors. A fetched descriptor is checked; source widths gather in the holding register and leave as
destination widths; FILL repeats ARG; a SIGNAL is checked again; a NOP and a write-back end a descriptor and NEXT follows; a
paused channel goes to PAUSED once nothing is outstanding. -/
def Obligations.DmaDescriptorsRun : Prop :=
  (∀ (s : State) (e k : Nat) (bs : List Byte), chanOk e k = true → s.dstate e k = 1 → (s.chan e k).phase = 1 → s.dmaHeld e = false → s.dhost e k = false →
    s.dmaErr e k (s.chan e k).nxt 64 false = none → isMemory (s.chan e k).nxt 64 = true → (s.busRead (s.chan e k).nxt 64).bytes = some bs →
    ∃ t : State, exec (.dmaDescriptorFetch e k) s = .next t ∧ (t.chan e k).desc = bs ∧ (t.chan e k).cur = (s.chan e k).nxt ∧ t.mem = (s.busRead (s.chan e k).nxt 64).state.mem ∧
      ((bit (leField bs 1 1) 3 && (s.chan e k).bad) = true → (t.chan e k).phase = 4 ∧ (t.chan e k).status = .skipped) ∧
      ((bit (leField bs 1 1) 3 && (s.chan e k).bad) = false → descOk e bs = false → (t.chan e k).phase = 4 ∧ (t.chan e k).status = .badDescriptor) ∧
      ((bit (leField bs 1 1) 3 && (s.chan e k).bad) = false → descOk e bs = true → (t.chan e k).phase = (if leField bs 0 1 = 2 then 3 else 2) ∧
        (t.chan e k).status = .ok ∧ (t.chan e k).rd = 0 ∧ (t.chan e k).wr = 0)) ∧
  (∀ (s : State) (e k n : Nat), chanOk e k = true → s.dstate e k = 1 → (s.chan e k).phase = 2 → leField (s.chan e k).desc 0 1 = 0 → s.dmaHeld e = false →
    s.fenced (s.chan e k) = false → bit (leField (s.chan e k).desc 3 1) 0 = false → n ≤ 16 → (s.chan e k).issued = (s.chan e k).rd →
    (s.chan e k).issued + n * 2 ^ (leField (s.chan e k).desc 2 1 % 16) ≤ leField (s.chan e k).desc 4 4 →
    ∃ t : State, exec (.dmaCopy e k n) s = .next t ∧ (t.chan e k).issued = (s.chan e k).issued + n * 2 ^ (leField (s.chan e k).desc 2 1 % 16) ∧
      t = { s with dma := t.dma }) ∧
  (∀ (s s1 : State) (e k : Nat) (bs : List Byte), chanOk e k = true → s.dmaHeld e = false → (s.dstate e k = 1 ∨ s.dstate e k = 2) → (s.chan e k).phase = 2 →
    leField (s.chan e k).desc 0 1 = 0 → (s.chan e k).rd < (s.chan e k).issued → s.dmaGet e k = (s1, some (.ok, bs)) →
    (s1.chan e k).hold.length + bs.length < 2 ^ (leField (s1.chan e k).desc 2 1 / 16) →
    ∃ t : State, exec (.dmaSourceReturn e k) s = .next t ∧ (t.chan e k).hold = (s1.chan e k).hold ++ bs ∧ (t.chan e k).rd = (s1.chan e k).rd + bs.length ∧
      t = { s1 with dma := t.dma }) ∧
  (∀ (s s1 s2 : State) (e k : Nat) (bs : List Byte) (d : DmaChan), chanOk e k = true → s.dmaHeld e = false → (s.dstate e k = 1 ∨ s.dstate e k = 2) → (s.chan e k).phase = 2 →
    leField (s.chan e k).desc 0 1 = 0 → (s.chan e k).rd < (s.chan e k).issued → s.dmaGet e k = (s1, some (.ok, bs)) →
    d = { s1.chan e k with hold := (s1.chan e k).hold ++ bs, rd := (s1.chan e k).rd + bs.length } →
    2 ^ (leField d.desc 2 1 / 16) ≤ d.hold.length → leField d.desc 4 4 ≤ d.wr + 2 ^ (leField d.desc 2 1 / 16) →
    (s1.setChan e k d).dmaPut e k (leField d.desc 0x10 8 + d.wr) (d.hold.take (2 ^ (leField d.desc 2 1 / 16))) = (.ok, s2) →
    exec (.dmaSourceReturn e k) s = .next (s2.setChan e k
      { s2.chan e k with hold := d.hold.drop (2 ^ (leField d.desc 2 1 / 16)), wr := d.wr + 2 ^ (leField d.desc 2 1 / 16), phase := 4, status := .ok })) ∧
  (∀ (s s1 : State) (e k n : Nat), chanOk e k = true → s.dstate e k = 1 → (s.chan e k).phase = 2 → leField (s.chan e k).desc 0 1 = 1 → s.dmaHeld e = false →
    s.fenced (s.chan e k) = false → leField (s.chan e k).desc 4 4 ≤ (s.chan e k).wr + 2 ^ (leField (s.chan e k).desc 2 1 / 16) →
    s.dmaPut e k (leField (s.chan e k).desc 0x10 8 + (s.chan e k).wr)
      (fillBytes (leField (s.chan e k).desc 0x20 8) (s.chan e k).wr (2 ^ (leField (s.chan e k).desc 2 1 / 16))) = (.ok, s1) →
    exec (.dmaFill e k (n + 1)) s = .next (s1.setChan e k
      { s1.chan e k with wr := (s.chan e k).wr + 2 ^ (leField (s.chan e k).desc 2 1 / 16), phase := 4, status := .ok })) ∧
  (∀ (s s1 : State) (e k n : Nat) (st : Status), chanOk e k = true → s.dstate e k = 1 → (s.chan e k).phase = 2 → leField (s.chan e k).desc 0 1 = 1 →
    s.dmaHeld e = false → s.fenced (s.chan e k) = false → st ≠ .ok → s.dmaPut e k (leField (s.chan e k).desc 0x10 8 + (s.chan e k).wr)
      (fillBytes (leField (s.chan e k).desc 0x20 8) (s.chan e k).wr (2 ^ (leField (s.chan e k).desc 2 1 / 16))) = (st, s1) →
    exec (.dmaFill e k (n + 1)) s = .next (s1.dmaFail e k st)) ∧
  (∀ (s : State) (e k w : Nat), chanOk e k = true → s.dstate e k = 1 → (s.chan e k).phase = 3 → s.dmaHeld e = false → s.pw.waiting = [] → dmaCore e k = false →
    w = leField (s.chan e k).desc 0x20 8 →
    (s.flagOk (s.dsl e k) (if e < 240 then some (e / 24) else none) w = true →
      exec (.dmaSignal e k) s = .next ((s.deviceSignal (s.dsl e k) w (leField (s.chan e k).desc 0x28 4)).setChan e k { s.chan e k with phase := 4, status := .ok })) ∧
    (s.flagOk (s.dsl e k) (if e < 240 then some (e / 24) else none) w = false →
      exec (.dmaSignal e k) s = .next (s.setChan e k { s.chan e k with phase := 4, status := .syncFault }))) ∧
  (∀ (s : State) (e k : Nat), chanOk e k = true → s.dstate e k = 1 → (s.chan e k).phase = 2 → leField (s.chan e k).desc 0 1 = 3 →
    exec (.dmaNop e k) s = .next (s.setChan e k { s.chan e k with phase := 4, status := .ok })) ∧
  (∀ (s s1 s2 : State) (e k n : Nat), chanOk e k = true → s.dmaHeld e = false → s.pw.waiting = [] → s.dstate e k = 1 → (s.chan e k).phase = 4 → s.rereadNext e k = (s1, some (some n)) →
    n ≠ 0 → n % 64 = 0 → s1.writeBack e k (s.chan e k).status (s.chan e k).wr = some s2 → s2.dstate e k = 1 →
    ∃ t : State, exec (.dmaWriteback e k) s = .next t ∧ t.dstate e k = 1 ∧ (t.chan e k).phase = 1 ∧ (t.chan e k).nxt = n ∧
      t.fget DMA_CHAN_STATUS_LAST_CODE e k = (s.chan e k).status.code ∧ t.mem = s2.mem) ∧
  (∀ (s s1 : State) (e k : Nat), chanOk e k = true → s.dmaHeld e = false → s.pw.waiting = [] → s.dstate e k = 1 → (s.chan e k).phase = 4 → s.rereadNext e k = (s1, some none) →
    exec (.dmaWriteback e k) s = .next ((s1.linkFault e k).goOn e k)) ∧
  (∀ (s : State) (e k : Nat), chanOk e k = true → s.dstate e k = 2 → (s.chan e k).phase = 1 → (s.chan e k).failed = false → (s.chan e k).aborting = false →
    s.dmaWaits e k = false → (s.chan e k).ret = [] → (s.chan e k).todo = [3] → (s.chan e k).nxt < 2 ^ 64 →
    ∃ t : State, exec (.dmaPaused e k) s = .next t ∧ t.dstate e k = 3 ∧ t.fget DMA_CHAN_STATUS_BETWEEN e k = 1 ∧ t.dnext e k = (s.chan e k).nxt ∧
      t.fget DMA_CHAN_STATUS_PAUSED_EVT e k = 1 ∧ t.mem = s.mem)

/-- R341 to R347, R349, R350, R361 to R365, R368 to R371: host ports. Configuration requests are answered or retried; links come up,
enter L1 and report latency; functions enter D0; completions, timeouts, unexpected completions and quarantine follow tags; map
entries and the completion timeout override. -/
def Obligations.HostPortsLinkAndComplete : Prop :=
  (∀ (s : State) (p fn off : Nat), p ≤ 7 → s.pw.devReset = false → s.bootState ≠ 0 → fn ≤ 2 → (fn = 0 ∨ (s.bootState ≠ 7 ∧ s.bootState ≠ 8)) → s.dbg.loaded.vidOk = true →
    exec (.configRequest p fn off none) s = .next ((s.wakeLink p).emit
      (.cfgReply p fn (off / 4 * 4) ((s.wakeLink p).cfgFixed p fn (off / 4 * 4) ||| (s.port p).cfgWord fn (off / 4 * 4)) false false)) ∧
    (∀ v : Nat, off / 4 * 4 = 4 → ∃ u : State, exec (.configRequest p fn off (some v)) s = .next (u.emit (.cfgReply p fn 4 0 false false)) ∧
      (u.port p).cfgWord fn 4 = (v &&& 0x146) + ((s.port p).cfgWord fn 4 &&& 0xFFFFFEB9) ∧ (∀ q, q ≠ p → u.port q = s.port q) ∧ u.mem = s.mem)) ∧
  (∀ (s : State) (p fn off : Nat) (w : Option Nat), p ≤ 7 → s.pw.devReset = false → s.bootState = 0 →
    ∃ u : State, exec (.configRequest p fn off w) s = .next (u.emit (.cfgReply p fn off 0 true false)) ∧ u = { s with regs := u.regs }) ∧
  (∀ (s : State) (p fn off : Nat) (w : Option Nat), p ≤ 7 → s.pw.devReset = false → s.bootState ≠ 0 → 2 < fn →
    ∃ u : State, exec (.configRequest p fn off w) s = .next (u.emit (.cfgReply p fn off 0 false true)) ∧ u.mem = s.mem ∧ u.regs = (s.wakeLink p).regs) ∧
  (∀ (s : State) (p speed width : Nat) (flit : Bool), p ≤ 7 → 1 ≤ speed → speed ≤ 6 → width ∈ [1, 2, 4, 8, 16] → (speed = 6 → flit = true) → s.pw.devReset = false →
    p ∉ s.pw.perstLow → p ∉ s.pw.refLost →
    ∃ t : State, exec (.hostLinkUp p speed width flit) s = .next t ∧ (t.port p).up = true ∧ t.fget HIF_LINK_STATUS_SPEED p = speed ∧
      t.fget HIF_LINK_STATUS_WIDTH p = width ∧ t.fget HIF_LINK_STATUS_FLIT p = (if flit then 1 else 0) ∧
      t.fget HIF_LINK_STATUS_DEGRADED p = (if speed < 6 ∨ width < 16 then 1 else 0) ∧ (∀ q, q ≠ p → t.port q = s.port q) ∧ t.mem = s.mem ∧ t.out = s.out) ∧
  (∀ (s : State) (p fn : Nat), (s.port p).enabled fn = true → (s.port p).up = true →
    ∃ t : State, exec (.functionD0Entry p fn) s = .next t ∧ (∀ h ∈ (t.port p).held, h.fn ≠ fn) ∧ t.mem = s.mem) ∧
  (∀ (s : State) (p fn : Nat) (h : HeldPost), (s.port p).enabled fn = true → (s.port p).up = true → (s.port p).held = [h] → h.fn = fn → h.bytes ≠ [] →
    h.bytes.length ≤ min ((s.port p).maxPayload fn) (4096 - h.addr % 4096) →
    ∃ u : State, exec (.functionD0Entry p fn) s = .next (u.emit (.hostWrite p fn h.pasid h.addr (h.ro && bit ((s.port p).cfgWord fn 0x78) 4) h.bytes)) ∧
      (u.port p).held = []) ∧
  (∀ (s : State) (p : Nat) (sub : Bool), p ≤ 7 → (s.port p).up = true → bit ((s.port p).cfgWord 0 0x80) 1 = true → (s.port p).held = [] →
    (∀ r ∈ s.hl.npr, r.port = p → r.quar = true) → s.fget HIF_CTL_L1_IDLE_US p ≤ 10 * (s.pw.onTicks + 1 - (s.port p).busyTick) →
    (sub = true → getBits ((s.port p).cfgWord 0 0x170) 3 2 ≠ 0) →
    ∃ t : State, exec (.l1Entry p sub) s = .next t ∧ t.fget HIF_LINK_STATUS_L1 p = 1 ∧ t.fget HIF_LINK_STATUS_L1_SUB p = (if sub then 1 else 0) ∧
      t = { s with regs := t.regs }) ∧
  (∀ (s : State) (p : Nat), (s.port p).up = true → (s.port p).ltr ≠ s.ltrValue p → (s.port p).ltrTick + 100 ≤ s.pw.onTicks →
    bit ((s.port p).cfgWord 0 0x98) 10 = true →
    exec (.ltrChange p) s = .next ((s.setPort p { s.port p with ltr := s.ltrValue p, ltrTick := s.pw.onTicks }).emit (.ltr p (s.ltrValue p)))) ∧
  (∀ (s s1 : State) (p tag : Nat) (st : Status) (bs : List Byte) (r : Npr), s.byTag p tag = some r → s.injHost p r.slice = (s1, []) →
    exec (.hostReadCompletion p tag st bs) s = .next (s1.completeRead p tag st bs)) ∧
  (∀ (s : State) (p tag : Nat) (bs : List Byte) (r : Npr), s.byTag p tag = some r → (r.slice < 64 → r.sgen = s.curGen r.slice) →
    ∃ u : State, s.completeRead p tag .ok bs = u.deliver r.what (.ok, bs) ∧ (∀ q ∈ u.hl.npr, ¬(q.port = p ∧ q.idx = r.idx)) ∧ u.mem = s.mem) ∧
  (∀ (s : State) (p idx : Nat) (r : Npr), p ≤ 7 → s.hl.npr.find? (fun r => r.port == p && r.idx == idx && !r.quar && s.nprDue r) = some r → (r.slice < 64 → r.sgen = s.curGen r.slice) →
    ∃ u : State, exec (.completionTimeout p idx) s = .next (u.deliver r.what (.completionTimeout, [])) ∧ u.fget HIF_ERR_STATUS_CTO p = 1 ∧
      { r with quar := true, since := s.pw.onTicks } ∈ u.hl.npr ∧ u.mem = s.mem) ∧
  (∀ (s : State) (p tag : Nat) (hdr : List Nat), p ≤ 7 → s.byTag p tag = none →
    ∃ t : State, exec (.unexpectedCompletion p tag hdr) s = .next t ∧ t.fget HIF_ERR_STATUS_LATE_CPL p = 1 ∧ t.hl.npr = s.hl.npr ∧ t.mem = s.mem) ∧
  (∀ (s : State) (p idx : Nat) (r : Npr), r ∈ s.hl.npr → r.port = p → r.idx = idx → r.quar = true → s.nprDue r = true →
    exec (.tagQuarantineEnd p idx) s = .next (s.dropNpr p idx)) ∧
  (∀ (s : State) (p : Nat), p ≤ 7 → s.fon HIF_MAP_SEL_TABLE p = false →
    ∃ t : State, exec (.hifMapRead p) s = .next t ∧ t.rget HIF_MAP_DATA0 p = smGetD s.hl.apt (p * 32768 + s.fget HIF_MAP_SEL_INDEX p) 0 % 2 ^ 32 ∧
      t = { s with regs := t.regs }) ∧
  (∀ (s : State) (p v : Nat) (g : Bool), p ≤ 7 → s.fon HIF_MAP_SEL_TABLE p = g → (g = true → s.fget HIF_MAP_SEL_INDEX p < 224) →
    mapEntry g (s.rget HIF_MAP_DATA0 p + s.rget HIF_MAP_DATA1 p * 2 ^ 32) = (v, false) →
    exec (.hifMapWrite p) s = .next (if g then { s with hl := { s.hl with grant := smSet s.hl.grant (p * 224 + s.fget HIF_MAP_SEL_INDEX p) v } }
      else { s with hl := { s.hl with apt := smSet s.hl.apt (p * 32768 + s.fget HIF_MAP_SEL_INDEX p) v } })) ∧
  (∀ (s : State) (ch p us : Nat), s.serves ch 0x0B [(1, p), (2, us)] .secure false = true → p ≤ 7 → (us = 0 ∨ (50 ≤ us ∧ us ≤ 64000000)) →
    ∃ u : State, exec (.ctoSet ch p us) s = .next (u.ack ch .ok 0 []) ∧ u.fget HIF_CTO_CTL_TIMEOUT_US p = us ∧ u = { s.takeUp ch with regs := u.regs })

/-- R351, R355, R366: the apertures of host ports and work queues. BAR accesses reach what their entries name; a doorbell moves its
queue's tail or puts the queue in ERROR; work queues are created, reset and destroyed; page access is granted. -/
def Obligations.HostAperturesAndDoorbells : Prop :=
  (∀ (s : State) (p off e a sl : Nat) (bs : List Byte), p ≤ 7 → off < 2 ^ 36 → 0 < bs.length → off % 4096 + bs.length ≤ 4096 →
    s.pw.devReset = false → (s.port p).up = true → (s.port p).decodes 0 = true →
    e = smGetD s.hl.apt (p * 32768 + off / 0x200000) 0 → bit e 63 = true → a = getBits e 47 21 * 0x200000 + off % 0x200000 → sl = getBits e 61 56 →
    (s.wakeLink p).accessErr sl a bs.length true = none →
    exec (.apertureAccess p off bs.length (some bs) false) s =
      .next (((s.wakeLink p).busWrite a bs).count (17 + p / 4) (p % 4) 1 sl bs.length)) ∧
  (∀ (s : State) (p off len e a sl : Nat) (bs : List Byte), p ≤ 7 → off < 2 ^ 36 → 0 < len → off % 4096 + len ≤ 4096 →
    s.pw.devReset = false → (s.port p).up = true → (s.port p).decodes 0 = true →
    e = smGetD s.hl.apt (p * 32768 + off / 0x200000) 0 → bit e 63 = true → a = getBits e 47 21 * 0x200000 + off % 0x200000 → sl = getBits e 61 56 →
    (s.wakeLink p).accessErr sl a len false = none → ((s.wakeLink p).busRead a len).bytes = some bs →
    ∃ u : State, exec (.apertureAccess p off len none false) s = .next (u.emit (.data bs .ok))) ∧
  (∀ (s : State) (p off len : Nat), p ≤ 7 → off < 2 ^ 36 → 0 < len → off % 4096 + len ≤ 4096 →
    s.pw.devReset = false → (s.port p).up = true → (s.port p).decodes 0 = true → bit (smGetD s.hl.apt (p * 32768 + off / 0x200000) 0) 63 = false →
    ∃ u : State, exec (.apertureAccess p off len none false) s = .next (u.emit (.data (List.replicate len 0) .ok)) ∧ u.mem = s.mem ∧
      u.fget HIF_ERR_STATUS_APT_FAULT p = 1) ∧
  (∀ (s : State) (p sl n v : Nat) (q : Wq), p ≤ 7 → sl < 64 → n < 128 → s.pw.devReset = false → 5 ≤ s.bootState → s.bootState ≠ 7 → s.bootState ≠ 8 →
    (s.port p).up = true → s.wq sl n = some q → q.slice = sl → q.num = n → q.port = p → s.accepts sl = true → q.err = false → v < q.size → v < 2 ^ 16 →
    ∃ t : State, exec (.wqDoorbell p (sl * 0x1000 + 8 * n) v) s = .next t ∧ t.wq sl n = some { q with tail := v } ∧ t.mem = s.mem) ∧
  (∀ (s : State) (p sl n v : Nat) (q : Wq), p ≤ 7 → sl < 64 → n < 128 → s.pw.devReset = false → 5 ≤ s.bootState → s.bootState ≠ 7 → s.bootState ≠ 8 →
    (s.port p).up = true → s.wq sl n = some q → q.slice = sl → q.num = n → q.port ≠ p →
    ∃ t : State, exec (.wqDoorbell p (sl * 0x1000 + 8 * n) v) s = .next t ∧ t.wq sl n = some { q with dbErr := q.dbErr + 1 } ∧ t.mem = s.mem ∧
      t.fget HIF_ERR_STATUS_DB_PORT p = 1) ∧
  (∀ (s : State) (ch ring size pasid port hwb vec n sl : Nat), s.serves ch 0x20 [] .bound true = true → sl = s.servedSlice ch 0 → isPow2 size = true → 64 ≤ size → size ≤ 65536 →
    port ≤ 7 → 1 ≤ vec → vec ≤ 2047 → pasid ≤ 15 → ring < 2 ^ 64 → hwb < 2 ^ 64 → pasid ∈ s.boundIdx sl → s.wqCount sl < min 128 (s.quota sl 6) →
    (s.hl.wqs.filter (fun q => q.2.port == port)).length < 512 → s.vecCount sl port < s.quota sl 8 →
    freeIndex ((s.hl.wqs.filter (fun q => q.2.slice == sl)).map (·.2.num)) 0 128 = some n →
    ∃ (u : State) (w : Wq), exec (.wqCreate ch .ok ring size pasid port hwb vec) s = .next (u.ack ch .ok 0 [n]) ∧ u.wq sl n = some w ∧ w.ring = ring ∧
      w.size = size ∧ w.port = port ∧ w.hwb = hwb ∧ w.vec = vec ∧ w.head = 0 ∧ w.tail = 0 ∧ w.err = false ∧ w.ready = [] ∧
      (smGet u.hl.vecs (port * 2048 + vec)).isSome = true ∧ u.mem = s.mem) ∧
  (∀ (s : State) (ch q : Nat) (w : Wq), s.serves ch 0x21 [(1, q)] .bound false = true → q ≤ 127 → s.wq (s.servedSlice ch 0) q = some w → w.slice = s.servedSlice ch 0 → w.num = q →
    ∃ u : State, exec (.wqReset ch q) s = .next (u.ack ch .ok 0 [q]) ∧
      u.wq (s.servedSlice ch 0) q = some { w with head := 0, tail := 0, err := false, fetching := 0, tries := 0, ret := none } ∧ u.mem = s.mem ∧ u.works = s.works) ∧
  (∀ (s : State) (ch q : Nat) (w : Wq), s.serves ch 0x22 [(1, q)] .bound false = true → q ≤ 127 → s.wq (s.servedSlice ch 0) q = some w → w.fetching = 0 → w.ready = [] →
    (∀ k ∈ s.works, ¬(k.2.slice = s.servedSlice ch 0 ∧ k.2.queue = q)) → (∀ r ∈ s.cph.reqs, ¬(r.slice = s.servedSlice ch 0 ∧ r.queue = q)) →
    ∃ u : State, exec (.wqDestroy ch q) s = .next (u.ack ch .ok 0 [q]) ∧ u.wq (s.servedSlice ch 0) q = none ∧ u.mem = s.mem) ∧
  (∀ (s u : State) (p : Nat), p ≤ 7 → (s.port p).up = true → s.pw.devReset = false → u = (s.wakeLink p).mbxWake (.port p) → (u.port p).decodes 0 = true →
    exec (.grantPageAccess p 0 0 4 none) s = .next (u.emit (.data (leBytes 4 0x54444B41) .ok))) ∧
  (∀ (s u : State) (p off size v : Nat), p ≤ 7 → (s.port p).up = true → s.pw.devReset = false → u = (s.wakeLink p).mbxWake (.port p) → (u.port p).decodes 0 = true →
    0 < size → off + size ≤ 0x4000000 → (off % 4 ≠ 0 ∨ size % 4 ≠ 0) →
    ∃ t : State, exec (.grantPageAccess p 0 off size (some v)) s = .next t ∧ t.fget HIF_ERR_STATUS_NARROW_WR p = 1 ∧ t = { u with regs := t.regs, out := t.out }) ∧
  (∀ (s u : State) (p n v : Nat), p ≤ 7 → (s.port p).up = true → s.pw.devReset = false → u = (s.wakeLink p).mbxWake (.port p) → (u.port p).decodes 0 = true → n < 2048 →
    ∃ t : State, exec (.grantPageAccess p 0 (0x100000 + 16 * n + 12) 4 (some v)) s = .next t ∧ (t.port p).msixWord 0 (4 * n + 3) = v % 2 ∧ t.mem = u.mem)

/-- R372 to R375, R379 to R381, R383 to R388, R390 to R396: slices. Creation, PASIDs, windows, quotas, phase, reset and drain,
generations, drivers, host absence, dirty-page maps and the map window, each with the register values the chapter gives. -/
def Obligations.SlicesChangeByTheirCommands : Prop :=
  (∀ (s : State) (ch sl : Nat), s.serves ch 0x10 [(1, sl)] .secure false = true → sl ≤ 63 → s.slState sl = 0 →
    ∃ u : State, exec (.sliceCreate ch sl) s = .next (u.ack ch .ok 0 [sl]) ∧ u.slState sl = 1 ∧ u.slcGet SLC_CTL_VALID sl = 1 ∧ u.slcGet SLC_CTL_PHASE sl = 0 ∧
      u.accepts sl = true ∧ u.curGen sl = s.curGen sl ∧ u.mem = s.mem) ∧
  (∀ (s : State) (ch sl : Nat), s.serves ch 0x10 [(1, sl)] .secure false = true → sl ≤ 63 → s.slState sl ≠ 0 → exec (.sliceCreate ch sl) s = .next ((s.takeUp ch).ack ch .busy 0 [])) ∧
  (∀ (s : State) (ch sl pasid idx mask k : Nat), s.serves ch 0x12 [(1, sl)] .secure true = true → sl ≤ 63 → s.slState sl ≠ 0 → (s.sx sl).cmd = 0 → pasid < 2 ^ 20 → idx ≤ 15 →
    0 < mask → mask < 16 → s.pasidTaken sl pasid mask = false → (s.boundIdx sl).length < 16 → idx ∉ s.boundIdx sl →
    smLowestFree s.hl.pasid (fun v => bit v 63) 0 1024 = some k →
    ∃ u : State, exec (.sliceBind ch sl .ok pasid idx mask) s = .next (u.ack ch .ok 0 [sl]) ∧
      u.hl.pasid = smSet s.hl.pasid k (2 ^ 63 + sl * 2 ^ 56 + idx * 2 ^ 48 + mask * 2 ^ 32 + pasid) ∧ u = { s.takeUp ch with hl := u.hl }) ∧
  (∀ (s : State) (ch sl pasid idx mask k j : Nat), s.serves ch 0x12 [(1, sl)] .secure true = true → sl ≤ 63 → s.slState sl ≠ 0 → (s.sx sl).cmd = 0 → pasid < 2 ^ 20 → idx ≤ 15 →
    16 < mask → mask < 256 → mask % 16 ≠ 0 → s.pasidTaken sl pasid mask = false → (s.boundIdx sl).length < 16 → idx ∉ s.boundIdx sl →
    smLowestFree s.hl.pasid (fun v => bit v 63) 0 1024 = some k →
    smLowestFree (smSet s.hl.pasid k (2 ^ 63 + sl * 2 ^ 56 + idx * 2 ^ 48 + mask % 16 * 2 ^ 32 + pasid)) (fun v => bit v 63) 1024 1024 = some j →
    ∃ u : State, exec (.sliceBind ch sl .ok pasid idx mask) s = .next (u.ack ch .ok 0 [sl]) ∧
      u.hl.pasid = smSet (smSet s.hl.pasid k (2 ^ 63 + sl * 2 ^ 56 + idx * 2 ^ 48 + mask % 16 * 2 ^ 32 + pasid)) j
        (2 ^ 63 + sl * 2 ^ 56 + idx * 2 ^ 48 + mask / 16 * 2 ^ 32 + pasid) ∧ u = { s.takeUp ch with hl := u.hl }) ∧
  (∀ (s : State) (ch sl idx : Nat), s.serves ch 0x13 [(1, sl), (2, idx)] .secure false = true → sl ≤ 63 → s.slState sl ≠ 0 → (s.sx sl).cmd = 0 → idx ∈ s.boundIdx sl →
    (∀ e ∈ s.windows sl, getBits e 115 112 ≠ idx) → (∀ q ∈ s.hl.wqs, q.2.slice = sl → q.2.pasid ≠ idx) →
    ∃ u : State, exec (.sliceUnbind ch sl idx) s = .next (u.ack ch .ok 0 [sl]) ∧ idx ∉ u.boundIdx sl ∧ u = { s.takeUp ch with hl := u.hl }) ∧
  (∀ (s : State) (ch sl w e : Nat), s.serves ch 0x14 [(1, sl)] .secure true = true → sl ≤ 63 → s.slState sl ≠ 0 → (s.sx sl).cmd = 0 → w ≤ 63 → s.slcGet SLC_DIRTY_EN sl = 0 →
    ∃ u : State, exec (.sliceWindow ch sl w .ok e) s = .next (u.ack ch .ok 0 []) ∧
      smGetD u.hl.win (64 * sl + w) 0 = (if windowOk sl (e % 2 ^ 128) = true then e % 2 ^ 128 else putBits (e % 2 ^ 128) 127 127 0) ∧
      u = { s.takeUp ch with hl := u.hl }) ∧
  (∀ (s : State) (ch sl hold : Nat) (qs : List Nat) (take : List Nat), s.serves ch 0x15 [(1, sl)] .secure true = true → sl ≤ 63 → s.slState sl ≠ 0 → (s.sx sl).cmd = 0 →
    qs.length = 14 → (∀ i, i < 14 → qs.getD i 0 ≤ s.quotaMax.getD i 0) → 1 ≤ hold → hold ≤ 256 → s.sumBroken sl qs = false →
    (∀ u ∈ s.quotaUse sl, u.2 ≤ qs.getD u.1 0) → qs.getD 0 0 = (s.clustersOf sl).length →
    s.stackUse sl - 16 * s.slcGet SLC_HOLD_HOLD_MIB sl + 16 * hold ≤ qs.getD 1 0 →
    ∃ u : State, exec (.sliceQuota ch sl .ok qs hold take) s = .next (u.ack ch .ok 0 [0]) ∧ (u.sx sl).quotas = qs ∧ (u.sx sl).cmd = 0 ∧
      u.slcGet SLC_HOLD_HOLD_MIB sl = hold ∧ u.slcGet SLC_STATUS_QUOTA_BUSY sl = 0 ∧
      (∀ j, j < 16 → u.fget SCH_SLC_RATE_SHARE (j / 8) (j % 8) sl = qs.getD 13 0)) ∧
  (∀ (s : State) (sl : Nat), (s.sx sl).cmd = 1 → (s.sx sl).giving ≠ [] → (s.sx sl).drainTick + 100000 ≤ s.pw.onTicks → s.running = true →
    ((s.handOn sl).sx sl).giving ≠ [] → exec (.clusterDrainTimeout sl) s = .next ((s.handOn sl).endQuota sl .partialDone)) ∧
  (∀ (s : State) (ch sl0 sl phase : Nat), s.serves ch 0x16 ([(2, phase)] ++ if ch % 32 < 16 then [(1, sl0)] else []) .either false = true → sl = s.servedSlice ch sl0 → sl ≤ 63 → s.notDriver ch sl = false → s.slState sl ≠ 0 →
    (s.sx sl).cmd = 0 → phase ≤ 3 →
    ∃ u : State, exec (.slicePhase ch sl0 phase) s = .next (u.ack ch .ok 0 []) ∧ u.slcGet SLC_CTL_PHASE sl = phase ∧ u = { s.takeUp ch with regs := u.regs }) ∧
  (∀ (s : State) (ch sl0 sl scope : Nat), s.serves ch 0x17 ([(2, scope)] ++ if ch % 32 < 16 then [(1, sl0)] else []) .either false = true → sl = s.servedSlice ch sl0 →
    sl ≤ 63 → s.notDriver ch sl = false → s.slState sl = 1 → (s.sx sl).cmd = 0 → scope ≤ 1 →
    (s.slcGet SLC_CTL_PHASE sl = 1 → ∃ t : State, exec (.sliceReset ch sl0 scope) s = .next t ∧ t.slState sl = 2 ∧ t.accepts sl = false ∧ (t.sx sl).cmd = 2 ∧
      (t.sx sl).scope = scope ∧ t.curGen sl = s.curGen sl ∧ t.mem = s.mem) ∧
    (s.slcGet SLC_CTL_PHASE sl ≠ 1 → ∃ t : State, exec (.sliceReset ch sl0 scope) s = .next (t.beginAdvance sl) ∧ t.slState sl = 3 ∧ t.accepts sl = false ∧
      (t.sx sl).cmd = 2 ∧ (t.sx sl).scope = scope ∧ t.mem = s.mem)) ∧
  (∀ (s : State) (ch sl0 sl scope : Nat), s.serves ch 0x17 ([(2, scope)] ++ if ch % 32 < 16 then [(1, sl0)] else []) .either false = true → sl = s.servedSlice ch sl0 →
    sl ≤ 63 → s.notDriver ch sl = false → s.slState sl = 1 → (s.sx sl).cmd = 1 → scope ≤ 1 →
    exec (.sliceReset ch sl0 scope) s = .next (((s.takeUp ch).endQuota sl .partialDone).beginReset ch sl 2 scope (s.slcGet SLC_CTL_PHASE sl == 1))) ∧
  (∀ (s : State) (ch sl : Nat), s.serves ch 0x11 [(1, sl)] .secure false = true → sl ≤ 63 → s.slState sl = 1 → (s.sx sl).cmd = 0 →
    ∃ t : State, exec (.sliceDestroy ch sl) s = .next t ∧ t.slState sl = 2 ∧ t.accepts sl = false ∧ (t.sx sl).cmd = 3 ∧ t.mem = s.mem) ∧
  (∀ (s : State) (sl : Nat), sl < 64 → s.slState sl = 2 → s.running = true →
    (s.drained sl = true ∨ (s.sx sl).drainTick + 100 * s.slcGet SLC_TIMERS_DRAIN_MS sl ≤ s.pw.onTicks) →
    ∃ t : State, exec (.sliceDrainEnd sl) s = .next (t.beginAdvance sl) ∧ t.slState sl = 3 ∧ t = { s with regs := t.regs }) ∧
  (∀ (s : State) (sl : Nat), sl < 64 → (s.injSliceOff sl).genCarried sl (((s.injSliceOff sl).curGen sl + 1) % 256) = true →
    (s.beginAdvance sl).slcGet SLC_GEN_ADV_WAIT sl = 1 ∧ ((s.beginAdvance sl).sx sl).advance = true ∧ (s.beginAdvance sl).curGen sl = s.curGen sl) ∧
  (∀ (s : State) (sl : Nat), (s.sx sl).advance = true → s.genCarried sl ((s.curGen sl + 1) % 256) = false →
    exec (.generationAdvance sl) s = .next (s.advanceNow sl)) ∧
  (∀ (s : State) (ch sl d vec : Nat), s.serves ch 0x18 [(1, d), (2, 1)] .bound false = true → sl = s.servedSlice ch 0 → sl ≤ 63 → ch / 32 ≤ 7 → s.slState sl ≠ 0 → (s.sx sl).cmd = 0 → d ≤ 15 →
    (s.sx sl).driver = none → (s.sx sl).advance = false → vec ≤ 2047 → s.vecCount sl (ch / 32) < s.quota sl 8 →
    ∃ u : State, exec (.sliceAttach ch d 1 vec) s = .next (u.ack ch .ok 0 [u.rget SLC_STATUS 0 sl]) ∧ (u.sx sl).driver = some (ch / 32 * 16 + d) ∧
      (u.sx sl).hold = [] ∧ u.slState sl = 1 ∧ u.accepts sl = true ∧ u.slcGet SLC_CTL_EVT_VEC sl = vec ∧ u.slcGet SLC_HOLD_USED_MIB sl = 0 ∧ u.mem = s.mem) ∧
  (∀ (s : State) (ch sl : Nat), s.serves ch 0x19 [] .bound false = true → sl = s.servedSlice ch 0 → sl ≤ 63 → ch / 32 ≤ 7 → s.slState sl ≠ 0 → (s.sx sl).cmd = 0 →
    s.drained sl = true →
    ∃ u : State, exec (.sliceDetach ch) s = .next (u.ack ch .ok 0 [u.rget SLC_STATUS 0 sl]) ∧ (u.sx sl).driver = none ∧ u.slcGet SLC_CTL_PORT sl = 0 ∧ u.mem = s.mem) ∧
  (∀ (s : State) (slot sl : Nat), s.fwRuns = true → 3 ≤ s.missedBeats (slot / 16) (slot % 16) → sl < 64 →
    s.slotSlices (slot / 16) (slot % 16) = [sl] → s.slState sl = 1 → s.slcGet SLC_CTL_HB_EN sl ≠ 0 →
    ∃ t : State, exec (.hostAbsentMark slot) s = .next t ∧ t.slState sl = 4 ∧ t.accepts sl = false ∧ (t.sx sl).driver = none ∧
      (t.sx sl).holdLimit = s.slcGet SLC_HOLD_HOLD_MIB sl ∧ (t.sx sl).markTick = s.pw.onTicks ∧ t.mem = s.mem) ∧
  (∀ (s : State) (sl : Nat), sl < 64 → s.slState sl = 4 → s.running = true →
    (s.slcGet SLC_STATUS_HOLD_FULL sl = 1 ∨ (s.sx sl).markTick + 100000 * s.slcGet SLC_TIMERS_HOLD_S sl ≤ s.pw.onTicks) →
    ∃ t : State, exec (.holdSquash sl) s = .next (t.beginAdvance sl) ∧ t.slState sl = 5 ∧ (t.sx sl).hold = [] ∧ t.slcGet SLC_HOLD_USED_MIB sl = 0 ∧
      t.slcGet SLC_STATUS_FLOG_NEW sl = 1 ∧ t.mem = s.mem) ∧
  (∀ (s : State) (ch sl need : Nat) (regions : List Nat), s.serves ch 0x1A [(1, sl)] .secure false = true → sl ≤ 63 → s.slState sl ≠ 0 → (s.sx sl).cmd = 0 → s.slcGet SLC_DIRTY_EN sl = 0 →
    ((s.logWindows sl).map (·.2)).sum ≤ 2 ^ 28 → need = ceilDiv (2 * s.mapLen sl) 0x10000 → s.fits sl need = true →
    regions.length = need → regions.eraseDups.length = need → (∀ r ∈ regions, s.regionFree r = true) →
    ∃ u : State, exec (.dirtyStart ch sl regions) s = .next (u.ack ch .ok 0 []) ∧ u.slcGet SLC_DIRTY_EN sl = 1 ∧ u.slcGet SLC_DIRTY_ACTIVE_MAP sl = 0 ∧
      (u.sx sl).dirtyRegs = regions ∧ (∀ r ∈ regions, smGet u.own r = some (128 + sl))) ∧
  (∀ (s : State) (ch sl d addr : Nat), s.serves ch 0x1B [(1, sl), (2, d), (3, addr % 2 ^ 32), (4, addr / 2 ^ 32)] .secure false = true → sl ≤ 63 → d ≤ 63 →
    s.slState sl ≠ 0 → (s.sx sl).cmd = 0 → s.slState d ≠ 0 → s.slcGet SLC_DIRTY_EN sl ≠ 0 → s.postWaits sl = true →
    ∃ t : State, exec (.dirtyHarvest ch sl d addr) s = .next t ∧ t.slcGet SLC_DIRTY_ACTIVE_MAP sl = 1 - s.slcGet SLC_DIRTY_ACTIVE_MAP sl ∧
      t.slcGet SLC_DIRTY_HARVEST sl = 1 ∧ (t.sx sl).cmd = 4 ∧ (t.sx sl).harvest = some (d, addr) ∧ t.mem = s.mem ∧ t.out = s.out) ∧
  (∀ (s t t1 t2 : State) (bs : List Byte) (ch sl d addr : Nat), s.serves ch 0x1B [(1, sl), (2, d), (3, addr % 2 ^ 32), (4, addr / 2 ^ 32)] .secure false = true →
    sl ≤ 63 → d ≤ 63 → s.slState sl ≠ 0 → (s.sx sl).cmd = 0 → s.slState d ≠ 0 → s.slcGet SLC_DIRTY_EN sl ≠ 0 → s.postWaits sl = false →
    t = (((s.takeUp ch).slcPut SLC_DIRTY_ACTIVE_MAP sl (1 - s.slcGet SLC_DIRTY_ACTIVE_MAP sl)).slcPut SLC_DIRTY_HARVEST sl 1).modSx sl
      (fun x => { x with cmd := 0, cmdCh := ch, harvest := none }) →
    t.mapBytes sl (s.slcGet SLC_DIRTY_ACTIVE_MAP sl) = (t1, some bs) → t1.hostPut ((t1.drvPort d).getD 0) 0 d (t1.curGen d) addr false bs = (.ok, t2) →
    exec (.dirtyHarvest ch sl d addr) s =
      .next (((t2.mapZero sl (s.slcGet SLC_DIRTY_ACTIVE_MAP sl)).slcPut SLC_DIRTY_HARVEST sl 0).ack ch .ok 0 [])) ∧
  (∀ (s : State) (ch sl : Nat), s.serves ch 0x1C [(1, sl)] .secure false = true → sl ≤ 63 → s.slState sl ≠ 0 → (s.sx sl).cmd = 0 →
    ∃ u : State, exec (.dirtyStop ch sl) s = .next (u.ack ch .ok 0 []) ∧ u.slcGet SLC_DIRTY_EN sl = 0 ∧ u.slcGet SLC_DIRTY_ACTIVE_MAP sl = 0 ∧ (u.sx sl).dirtyRegs = [] ∧
      u.own = ((s.takeUp ch).freeRegions (s.sx sl).dirtyRegs).own ∧ u.mem = s.mem) ∧
  (∀ (s : State) (die : Nat), die ≤ 1 → s.fon SLC_MAP_SEL_TABLE die = true →
    ∃ t : State, exec (.slcMapRead die) s = .next t ∧ t = { s with regs := t.regs } ∧
      (∀ n, n < 4 → t.rget SLC_MAP_DATA die n = getBits (smGetD s.hl.win (s.fget SLC_MAP_SEL_INDEX die) 0) (32 * n + 31) (32 * n))) ∧
  (∀ (s : State) (die v : Nat), die ≤ 1 → s.fon SLC_MAP_SEL_TABLE die = false → s.fget SLC_MAP_SEL_INDEX die < 1024 →
    v = ((List.range 4).map (fun n => s.rget SLC_MAP_DATA die n * 2 ^ (32 * n))).sum → pasidOk v = true →
    ∃ t : State, exec (.slcMapWrite die) s = .next t ∧ smGetD t.hl.pasid (1024 * die + s.fget SLC_MAP_SEL_INDEX die) 0 = v ∧ t = { s with hl := t.hl })

/-- R402 to R407: storage controllers. Enable, shutdown and reset change the controller's state; doorbells move tails and heads; I/O
queues are created and deleted with completion status 0. -/
def Obligations.StorageControllersStartAndQueue : Prop :=
  (∀ (s : State) (c aqa asq acq cc : Nat), c ≤ 7 → (s.ctl c).en = false → bit cc 0 = true → ccOk cc = true → 1 ≤ getBits aqa 11 0 → 1 ≤ getBits aqa 27 16 →
    (s.nvmOwner c).isSome = true → s.running = true → (s.ctl c).cfs = false →
    ∃ (t : State) (a b : NvmQueue), exec (.controllerEnable c aqa asq acq cc) s = .next t ∧ (t.ctl c).rdy = true ∧ (t.ctl c).cc = cc ∧
      (t.ctl c).sqs = [(0, a)] ∧ (t.ctl c).cqs = [(0, b)] ∧ a.size = getBits aqa 11 0 + 1 ∧ b.size = getBits aqa 27 16 + 1 ∧ t = { s with nvm := t.nvm }) ∧
  (∀ (s : State) (c aqa asq acq cc : Nat), c ≤ 7 → (s.ctl c).en = false → bit cc 0 = true → ccOk cc = false →
    ∃ t : State, exec (.controllerEnable c aqa asq acq cc) s = .next t ∧ (t.ctl c).cfs = true ∧ t.fget NVC_ERR_STATUS_CFS = 1) ∧
  (∀ (s : State) (c : Nat), c ≤ 7 → (s.ctl c).en = true →
    ∃ u : State, exec (.controllerReset c) s = .next u.nvmSettle ∧ u.ctl c = (s.ctl c).afterReset ∧ u.mem = s.mem ∧ u.out = s.out) ∧
  (∀ (s : State) (c shn : Nat), c ≤ 7 → (s.ctl c).en = true → (shn = 1 ∨ shn = 2) → (s.ctl c).shst = 0 →
    ∃ t : State, exec (.shutdownRequest c shn) s = .next t ∧ t = { s with nvm := t.nvm } ∧
      (t.ctl c).shst = (if (s.ctl c).cmds = [] ∧ (s.ctl c).posts = [] then 2 else 1)) ∧
  (∀ (s : State) (c y v sl : Nat) (q : NvmQueue), c ≤ 7 → (s.ctl c).rdy = true → (s.ctl c).cfs = false → s.nvmOwner c = some sl → s.accepts sl = true →
    v < 65536 → v < q.size →
    (smGet (s.ctl c).sqs y = some q →
      ∃ t : State, exec (.sqTailDoorbell c y v) s = .next t ∧ smGet (t.ctl c).sqs y = some { q with host := v } ∧ (t.ctl c).cqs = (s.ctl c).cqs ∧
        t = { s with nvm := t.nvm }) ∧
    (smGet (s.ctl c).cqs y = some q → (s.ctl c).posts = [] →
      ∃ t : State, exec (.cqHeadDoorbell c y v) s = .next t.nvmSettle ∧ smGet (t.ctl c).cqs y = some { q with host := v } ∧ (t.ctl c).sqs = (s.ctl c).sqs ∧
        t = { s with nvm := t.nvm })) ∧
  (∀ (s t : State) (c sl qid : Nat) (sqe : HostData) (d : List Byte), s.fetches t c 0 5 sl sqe d → getBits (t.ctl c).cc 19 16 = 6 → getBits (t.ctl c).cc 23 20 = 4 →
    qid = getBits (sqDw d 10) 15 0 → 1 ≤ qid → qid ≤ 1024 → smGet (t.ctl c).cqs qid = none → t.pairsHeld sl < t.quota sl 10 → (t.ctl c).cqs.length ≤ 1024 →
    1 ≤ getBits (sqDw d 10) 31 16 → bit (sqDw d 11) 0 = true → leField d 24 8 % 4096 = 0 → t.nvmRing c sl (leField d 24 8) (16 * (getBits (sqDw d 10) 31 16 + 1)) = true →
    getBits (sqDw d 11) 31 16 ≤ 1024 →
    ∃ (u : State) (q : NvmQueue), exec (.createIoCq c sqe) s = .next (u.nvmEnd c 0 (sqCid d) 0 0).nvmSettle ∧
      u = t.setCtl c { t.ctl c with cqs := smSet (t.ctl c).cqs qid q } ∧ q.base = leField d 24 8 ∧ q.size = getBits (sqDw d 10) 31 16 + 1 ∧
      q.vec = getBits (sqDw d 11) 31 16 ∧ q.ien = bit (sqDw d 11) 1 ∧ q.dev = 0 ∧ q.host = 0) ∧
  (∀ (s t : State) (c sl qid cq : Nat) (sqe : HostData) (d : List Byte), s.fetches t c 0 1 sl sqe d → qid = getBits (sqDw d 10) 15 0 → cq = getBits (sqDw d 11) 31 16 →
    cq ≠ 0 → (smGet (t.ctl c).cqs cq).isSome = true → (∀ q ∈ (t.ctl c).sqs, q.1 ≠ 0 → q.2.cq ≠ cq) → 1 ≤ qid → qid ≤ 1024 → smGet (t.ctl c).sqs qid = none →
    1 ≤ getBits (sqDw d 10) 31 16 → bit (sqDw d 11) 0 = true → leField d 24 8 % 4096 = 0 → t.nvmRing c sl (leField d 24 8) (64 * (getBits (sqDw d 10) 31 16 + 1)) = true →
    ∃ (u : State) (q : NvmQueue), exec (.createIoSq c sqe) s = .next (u.nvmEnd c 0 (sqCid d) 0 0).nvmSettle ∧
      u = t.setCtl c { t.ctl c with sqs := smSet (t.ctl c).sqs qid q } ∧ q.base = leField d 24 8 ∧ q.size = getBits (sqDw d 10) 31 16 + 1 ∧ q.cq = cq) ∧
  (∀ (s t : State) (c sl qid : Nat) (sqe : HostData) (d : List Byte), s.fetches t c 0 4 sl sqe d → qid = getBits (sqDw d 10) 15 0 → qid ≠ 0 →
    (smGet (t.ctl c).cqs qid).isSome = true → (∀ q ∈ (t.ctl c).sqs, q.1 ≠ 0 → q.2.cq ≠ qid) →
    exec (.deleteIoCq c sqe) s = .next ((t.setCtl c { t.ctl c with cqs := smDel (t.ctl c).cqs qid, posts := (t.ctl c).posts.filter (fun x => x.cq != qid) }).nvmEnd
      c 0 (sqCid d) 0 0).nvmSettle) ∧
  (∀ (s t : State) (c sl qid : Nat) (sqe : HostData) (d : List Byte) (q : NvmQueue), s.fetches t c 0 0 sl sqe d → qid = getBits (sqDw d 10) 15 0 → qid ≠ 0 →
    smGet (t.ctl c).sqs qid = some q → q.deleting = none → (∀ x ∈ (t.ctl c).cmds, x.sq = qid → x.backed = true) →
    exec (.deleteIoSq c sqe) s = .next (t.setCtl c { t.ctl c with sqs := smSet (t.ctl c).sqs qid { q with deleting := some (sqCid d) } }).nvmSettle)

/-- R408, R409, R416, R417, R421, R422: the other admin commands. Each that keeps its rules posts its completion with the effect of
its table row: IDENTIFY, GET_LOG_PAGE, ABORT, features, asynchronous events, FORMAT_NVM, sanitize and power states. -/
def Obligations.StorageAdminCommandsComplete : Prop :=
  (∀ (s t u : State) (c sl : Nat) (sqe : HostData) (d : List Byte), s.fetches t c 0 6 sl sqe d →
    (sqCns d = 0 → ∀ p, t.nsAt c (sqNsid d) = some p → t.nvmReturn c sl d (.ok, []) p.2.identify = some u → exec (.identifyNamespace c sqe) s = .next u.nvmSettle) ∧
    (sqCns d = 0 → t.nsAt c (sqNsid d) = none → exec (.identifyNamespace c sqe) s = .next (t.nvmEnd c 0 (sqCid d) 0 badNs).nvmSettle) ∧
    (sqCns d = 1 → t.nvmReturn c sl d (.ok, []) (t.idController c) = some u → exec (.identifyController c sqe) s = .next u.nvmSettle) ∧
    (sqCns d = 2 → sqNsid d < 0xFFFFFFFE → t.nvmReturn c sl d (.ok, []) (layoutOf 4096 [(0, ((t.nvm.ns.filter (fun n => n.2.ctrls.contains c &&
      decide (n.1 + 1 > sqNsid d))).map (·.1 + 1)).flatMap (leBytes 4))]) = some u → exec (.identifyNsList c sqe) s = .next u.nvmSettle) ∧
    (sqCns d = 3 → ∀ p, t.nsAt c (sqNsid d) = some p → t.nvmReturn c sl d (.ok, []) (layoutOf 4096 [(0, [2, 16, 0, 0] ++ leBytes 16 p.2.nguid)]) = some u →
      exec (.identifyNsDescriptors c sqe) s = .next u.nvmSettle)) ∧
  (∀ (s t u : State) (c sl n off : Nat) (sqe lst : HostData) (d bs : List Byte), s.fetches t c 0 2 sl sqe d → t.logPage c (getBits (sqDw d 10) 7 0) = some bs →
    n = (getBits (sqDw d 10) 31 16 + getBits (sqDw d 11) 15 0 * 65536 + 1) * 4 → off = sqDw d 12 + sqDw d 13 * 2 ^ 32 → n ≤ 0x100000 → off % 4 = 0 → off ≤ bs.length →
    t.nvmReturn c sl d lst ((bs.drop off ++ List.replicate n 0).take n) = some u → exec (.getLogPage c sqe lst) s = .next u.nvmSettle) ∧
  (∀ (s t : State) (c sl : Nat) (sqe lst : HostData) (d : List Byte), s.fetches t c 0 2 sl sqe d → getBits (sqDw d 10) 7 0 ∉ [1, 2, 5, 0x81] →
    exec (.getLogPage c sqe lst) s = .next (t.nvmEnd c 0 (sqCid d) 0 0x109).nvmSettle) ∧
  (∀ (s t : State) (c sl : Nat) (sqe : HostData) (d : List Byte) (x : NvmCmd), s.fetches t c 0 8 sl sqe d →
    (t.ctl c).cmds.find? (fun x => x.is (getBits (sqDw d 10) 15 0) (getBits (sqDw d 10) 31 16) && !x.backed) = some x →
    exec (.abort c sqe) s = .next ((t.nvmFinish c x 7).nvmEnd c 0 (sqCid d) 0 0).nvmSettle) ∧
  (∀ (s t : State) (c sl : Nat) (sqe : HostData) (d : List Byte), s.fetches t c 0 8 sl sqe d → (t.ctl c).aers = [] →
    (t.ctl c).cmds.find? (fun x => x.is (getBits (sqDw d 10) 15 0) (getBits (sqDw d 10) 31 16) && !x.backed) = none →
    exec (.abort c sqe) s = .next (t.nvmEnd c 0 (sqCid d) 1 0).nvmSettle) ∧
  (∀ (s t : State) (c sl : Nat) (sqe data : HostData) (d : List Byte), s.fetches t c 0 9 sl sqe d → bit (sqDw d 10) 31 = false →
    (getBits (sqDw d 10) 7 0 = 2 → sqDw d 11 % 32 ≤ 3 →
      ∃ u : State, exec (.setFeatures c sqe data) s = .next (u.nvmEnd c 0 (sqCid d) 0 0).nvmSettle ∧ (u.ctl c).ps = sqDw d 11 % 32 ∧ (u.ctl c).feat 2 0 = sqDw d 11 ∧
        u = { t with nvm := u.nvm }) ∧
    (getBits (sqDw d 10) 7 0 ∈ [1, 8, 0xB] →
      ∃ u : State, exec (.setFeatures c sqe data) s = .next (u.nvmEnd c 0 (sqCid d) 0 0).nvmSettle ∧ (u.ctl c).feat (getBits (sqDw d 10) 7 0) 0 = sqDw d 11 ∧
        u = { t with nvm := u.nvm }) ∧
    (getBits (sqDw d 10) 7 0 = 7 → exec (.setFeatures c sqe data) s = .next (t.nvmEnd c 0 (sqCid d) (t.queueCount c sl) 0).nvmSettle)) ∧
  (∀ (s t : State) (c sl : Nat) (sqe data : HostData) (d : List Byte), s.fetches t c 0 9 sl sqe d → getBits (sqDw d 10) 7 0 ∉ nvmFeatures →
    exec (.setFeatures c sqe data) s = .next (t.nvmEnd c 0 (sqCid d) 0 2).nvmSettle) ∧
  (∀ (s t : State) (c sl : Nat) (sqe : HostData) (d : List Byte), s.fetches t c 0 10 sl sqe d → getBits (sqDw d 10) 10 8 = 0 →
    getBits (sqDw d 10) 7 0 ∈ [1, 4, 8, 9, 0xB] →
    exec (.getFeatures c sqe) s = .next (t.nvmEnd c 0 (sqCid d) ((t.ctl c).feat (getBits (sqDw d 10) 7 0) (featSel (getBits (sqDw d 10) 7 0) (sqDw d 11))) 0).nvmSettle) ∧
  (∀ (s t : State) (c sl : Nat) (sqe : HostData) (d : List Byte), s.fetches t c 0 10 sl sqe d → getBits (sqDw d 10) 10 8 = 0 →
    (getBits (sqDw d 10) 7 0 = 2 → exec (.getFeatures c sqe) s = .next (t.nvmEnd c 0 (sqCid d) (putBits ((t.ctl c).feat 2 0) 4 0 (t.ctl c).ps) 0).nvmSettle) ∧
    (getBits (sqDw d 10) 7 0 = 7 → exec (.getFeatures c sqe) s = .next (t.nvmEnd c 0 (sqCid d) (t.queueCount c sl) 0).nvmSettle)) ∧
  (∀ (s t : State) (c sl : Nat) (sqe : HostData) (d : List Byte), s.fetches t c 0 12 sl sqe d → (t.ctl c).aers.length < 4 → (t.ctl c).events = [] →
    exec (.asyncEventRequest c sqe) s = .next (t.setCtl c { t.ctl c with aers := (t.ctl c).aers ++ [sqCid d] }).nvmSettle) ∧
  (∀ (s t : State) (c sl e : Nat) (es : List Nat) (sqe : HostData) (d : List Byte), s.fetches t c 0 12 sl sqe d → (t.ctl c).aers.length < 4 → (t.ctl c).events = e :: es →
    exec (.asyncEventRequest c sqe) s = .next ((t.setCtl c { t.ctl c with events := es }).nvmEnd c 0 (sqCid d) e 0).nvmSettle) ∧
  (∀ (s t : State) (c sl : Nat) (sqe : HostData) (d : List Byte) (p : Nat × Namespace) (recOk : Bool), s.fetches t c 0 0x80 sl sqe d → sqNsid d ≠ 0xFFFFFFFF →
    t.nsAt c (sqNsid d) = some p → getBits (sqDw d 10) 3 0 ≤ 1 → getBits (sqDw d 10) 13 12 = 0 → bit (sqDw d 10) 4 = false → getBits (sqDw d 10) 7 5 = 0 →
    t.opRefusal c false = none →
    (getBits (sqDw d 10) 11 9 = 0 → exec (.formatNvm c sqe recOk) s = .next ((t.reformat (getBits (sqDw d 10) 3 0) [p.1]).nvmEnd c 0 (sqCid d) 0 0).nvmSettle) ∧
    (getBits (sqDw d 10) 11 9 = 1 → exec (.formatNvm c sqe recOk) s = .next (t.startOp c 1 (getBits (sqDw d 10) 3 0) [p] (some (0, sqCid d)) recOk).nvmSettle)) ∧
  (∀ (s t : State) (c sl : Nat) (sqe : HostData) (d : List Byte) (recOk : Bool), s.fetches t c 0 0x84 sl sqe d → sanAct d = 2 → t.opRefusal c true = none →
    exec (.blockErase c sqe recOk) s = .next ((t.nvmEnd c 0 (sqCid d) 0 0).startOp c 2 0 (t.nsOf c) none recOk).nvmSettle) ∧
  (∀ (s t : State) (c sl : Nat) (sqe : HostData) (d : List Byte), s.fetches t c 0 0x84 sl sqe d → sanAct d = 1 →
    ∃ u : State, exec (.exitFailureMode c sqe) s = .next (u.nvmEnd c 0 (sqCid d) 0 0).nvmSettle ∧ (∀ f ∈ u.nvm.failed, f / 64 ≠ c) ∧ u.mem = t.mem) ∧
  (∀ (s : State) (c ps : Nat), c ≤ 7 → (s.ctl c).rdy = true → s.nvmIdle c = true → (s.ctl c).feat 0xC 64 % 2 = 1 → ps ≤ 3 →
    s.idleOver c = true → getBits ((s.ctl c).feat 0xC (s.ctl c).ps) 7 3 = ps →
    exec (.powerStateTransition c ps) s = .next (s.setCtl c { s.ctl c with ps := ps, lastOp := if ps ≤ 1 then ps else (s.ctl c).lastOp }))

/-- R398, R410 to R413, R415, R418 to R420: namespaces, block I/O and recorded operations. Scratch data moves at its place and the
command completes with status 0; remote data starts a transfer; chunks advance an operation or are retried; firmware's commands
make, attach, detach, destroy and assign. -/
def Obligations.NamespacesHoldTheirBlocks : Prop :=
  (∀ (s t : State) (c q sl num : Nat) (sqe : HostData) (d : List Byte) (n : Namespace), q ≠ 0 → s.fetches t c q 0 sl sqe d → t.nsAt c (sqNsid d) = some (num, n) →
    t.nsRefusal num = none → exec (.nvmFlush c q sqe) s = .next (t.nvmEnd c q (sqCid d) 0 0 num).nvmSettle) ∧
  (∀ (s t : State) (c q sl : Nat) (sqe : HostData) (d : List Byte), q ≠ 0 → s.fetches t c q 0 sl sqe d → t.nsAt c (sqNsid d) = none →
    exec (.nvmFlush c q sqe) s = .next (t.nvmEnd c q (sqCid d) 0 badNs).nvmSettle) ∧
  (∀ (s t t2 t3 : State) (c q sl num len off : Nat) (sqe lst data : HostData) (d bs : List Byte) (n : Namespace) (ps : List (Nat × Nat)), q ≠ 0 →
    s.fetches t c q 1 sl sqe d → t.nsAt c (sqNsid d) = some (num, n) → t.nsRefusal num = none → rangeErr d n true = none → len = sqNlb d * blockSize n.lbaf →
    off = sqSlba d * blockSize n.lbaf → t.prpPages c sl d len lst = .ok (t2, ps) → t2.nvmGather c sl ps data = .ok (t3, bs) →
    (n.kind = 1 → exec (.nvmWrite c q sqe lst data) s =
      .next ((((t3.nvmCount c true).count 19 c 2 sl len).putPieces bs (nsPieces n.regions off len)).nvmEnd c q (sqCid d) 0 0 num).nvmSettle) ∧
    (n.kind ≠ 1 → exec (.nvmWrite c q sqe lst data) s =
      .next (((t3.nvmCount c true).count 19 c 2 sl len).nvmRemote c q num 1 d n true [(off, len)] [] bs).nvmSettle)) ∧
  (∀ (s t t2 t3 : State) (c q sl num len off : Nat) (sqe lst : HostData) (d : List Byte) (n : Namespace) (ps : List (Nat × Nat)) (ok : Bool), q ≠ 0 →
    s.fetches t c q 2 sl sqe d → t.nsAt c (sqNsid d) = some (num, n) → t.nsRefusal num = none → rangeErr d n true = none → len = sqNlb d * blockSize n.lbaf →
    off = sqSlba d * blockSize n.lbaf → t.prpPages c sl d len lst = .ok (t2, ps) → t2.pagesOk c sl true ps = true →
    (n.kind = 1 → ((t2.nvmCount c false).count 19 c 2 sl len).nsReadOut c sl q (sqCid d) n.regions off ps = (t3, ok) →
      exec (.nvmRead c q sqe lst) s = .next (t3.nvmEnd c q (sqCid d) 0 (if ok then 0 else nvmStatus 2 0x81 true) num).nvmSettle) ∧
    (n.kind ≠ 1 → exec (.nvmRead c q sqe lst) s =
      .next (((t2.nvmCount c false).count 19 c 2 sl len).nvmRemote c q num 2 d n false [(off, len)] ps []).nvmSettle)) ∧
  (∀ (s t : State) (c q sl num : Nat) (sqe : HostData) (d : List Byte) (n : Namespace), q ≠ 0 → s.fetches t c q 8 sl sqe d → t.nsAt c (sqNsid d) = some (num, n) →
    t.nsRefusal num = none → sqPrinfo d = 0 →
    (sqSlba d + sqNlb d ≤ n.blocks → exec (.writeZeroes c q sqe) s = .next ((t.nvmCount c true).nvmZero c q num 8 d n [(sqSlba d, sqNlb d)]).nvmSettle) ∧
    (n.blocks < sqSlba d + sqNlb d → exec (.writeZeroes c q sqe) s = .next (t.nvmEnd c q (sqCid d) 0 0x4080 num).nvmSettle)) ∧
  (∀ (s t : State) (c q sl num : Nat) (sqe ranges : HostData) (d : List Byte) (n : Namespace), q ≠ 0 → s.fetches t c q 9 sl sqe d → t.nsAt c (sqNsid d) = some (num, n) →
    t.nsRefusal num = none →
    (bit (sqDw d 11) 2 = false → exec (.datasetManagement c q sqe ranges) s = .next (t.nvmEnd c q (sqCid d) 0 0 num).nvmSettle) ∧
    (∀ (t2 t3 : State) (ps rs : List (Nat × Nat)) (bs : List Byte), bit (sqDw d 11) 2 = true → t.prpPages c sl d (16 * (getBits (sqDw d 10) 7 0 + 1)) (.ok, []) = .ok (t2, ps) →
      t2.nvmGather c sl ps ranges = .ok (t3, bs) →
      rs = (List.range (getBits (sqDw d 10) 7 0 + 1)).map (fun i => (leField bs (16 * i + 8) 8, leField bs (16 * i + 4) 4)) → (∀ r ∈ rs, r.1 + r.2 ≤ n.blocks) →
      exec (.datasetManagement c q sqe ranges) s = .next (t3.nvmZero c q num 9 d n rs).nvmSettle)) ∧
  (∀ (s : State) (c q num : Nat) (d : List Byte) (n : Namespace) (a : Nat), n.kind = 1 → n.lbaf = 1 → n.regions = [a] →
    ∃ u : State, s.nvmZero c q num 8 d n [(0, 16)] = u.nvmEnd c q (sqCid d) 0 0 num ∧ (∀ i, i < 0x10000 → u.memGet (0x10000 * a + i) 1 = [0]) ∧
      (∀ b, ¬(0x10000 * a ≤ b ∧ b < 0x10000 * a + 0x10000) → u.memGet b 1 = s.memGet b 1)) ∧
  (∀ (s : State) (c q cid : Nat) (x : NvmCmd), (s.ctl c).cmds.find? (fun x => x.is q cid && s.xferLate x) = some x →
    exec (.remoteTransferTimeout c q cid) s = .next ((s.remoteFail 0x22).nvmFinish c x 0x22).nvmSettle) ∧
  (∀ (s : State) (c : Nat) (recOk : Bool) (o : RecOp), smGet s.nvm.ops c = some o → s.opState c = 1 → o.ended = false → s.running = true →
    (o.started = true ∨ ∀ r ∈ o.nss, s.nsBusy r.num (List.range 8) = false) →
    (o.verdict = 1 → exec (.recordedOpChunk c recOk) s = .next (s.opAdvance c { o with started := true } recOk).nvmSettle) ∧
    (o.verdict = 0 → o.chunk = none → exec (.recordedOpChunk c recOk) s = .next (s.opStep c { o with started := true } recOk).nvmSettle)) ∧
  (∀ (s : State) (c : Nat) (recOk : Bool) (o : RecOp), c < 8 → o.pos + 1 < o.total → o.total < 2 ^ 32 →
    ∃ t : State, s.opAdvance c o recOk = t ∧
      (smGet t.nvm.ops c = some { o with pos := o.pos + 1, chunk := none, verdict := 0, bad := none,
                                         saved := if opPct (o.pos + 1) o.total / 100 ≠ opPct o.pos o.total / 100 ∧ recOk = true then some (o.pos + 1) else o.saved }) ∧
      t.rget NVC_OP_POS 0 c = o.pos + 1 ∧ t.fget NVC_OP_PROG_SPROG 0 c = sprog (o.pos + 1) o.total ∧ t.opState c = 1 ∧ t.mem = s.mem) ∧
  (∀ (s : State) (c : Nat) (recOk : Bool) (o : RecOp) (first last : Nat), smGet s.nvm.ops c = some o → s.opState c = 1 → o.ended = false → o.verdict = 2 →
    o.bad = some (first, last) → last + 100000 ≤ s.pw.onTicks →
    (s.pw.onTicks < first + 6000000 → exec (.remoteWriteRetry c recOk) s = .next (s.opStep c { o with verdict := 0 } recOk)) ∧
    (first + 6000000 ≤ s.pw.onTicks → exec (.remoteWriteRetry c recOk) s = .next (s.endOp c o false recOk).nvmSettle)) ∧
  (∀ (s : State) (ch sl lbaf nguid blocks need serial i : Nat) (regions : List Nat), s.serves ch 0x52 [] .bound true = true → sl = s.servedSlice ch 0 → lbaf ≤ 1 →
    nguid < 2 ^ 128 → 0 < blocks → (∀ p ∈ s.nvm.ns, p.2.nguid ≠ nguid) → smLowestFree s.nvm.ns (fun _ => true) 0 64 = some i → s.nsHeld sl < s.quota sl 11 →
    need = ceilDiv (blocks * blockSize lbaf) 0x10000 → s.fits sl need = true → s.recordedNs nguid = none → regions.length = need → regions.Nodup →
    (∀ r ∈ regions, s.regionFree r = true ∧ s.isLocal r = false) →
    ∃ u : State, exec (.nsCreate ch .ok 1 lbaf nguid blocks 0 0 0 serial regions) s = .next (u.ack ch .ok 0 [i]) ∧
      ∃ n : Namespace, smGet u.nvm.ns i = some n ∧ n.slice = sl ∧ n.kind = 1 ∧ n.lbaf = lbaf ∧ n.nguid = nguid ∧ n.blocks = blocks ∧ n.regions = regions ∧
        n.ctrls = [] ∧ n.ending = none) ∧
  (∀ (s : State) (ch sl lbaf nguid blocks conn rkey roff serial i : Nat) (x : Conn), s.serves ch 0x52 [] .bound true = true → sl = s.servedSlice ch 0 → lbaf ≤ 1 →
    nguid < 2 ^ 128 → 0 < blocks → blocks ≤ 2 ^ 48 / blockSize lbaf → (∀ p ∈ s.nvm.ns, p.2.nguid ≠ nguid) → s.conn conn = some x → x.slice = sl →
    smLowestFree s.nvm.ns (fun _ => true) 0 64 = some i → s.nsHeld sl < s.quota sl 11 → s.recordedNs nguid = none →
    ∃ u : State, exec (.nsCreate ch .ok 2 lbaf nguid blocks conn rkey roff serial []) s = .next (u.ack ch .ok 0 [i]) ∧
      ∃ n : Namespace, smGet u.nvm.ns i = some n ∧ n.slice = sl ∧ n.kind = 2 ∧ n.lbaf = lbaf ∧ n.nguid = nguid ∧ n.blocks = blocks ∧ n.conn = conn ∧
        n.rkey = rkey ∧ n.roff = roff ∧ n.serial = serial ∧ n.regions = [] ∧ n.ctrls = []) ∧
  (∀ (s : State) (ch c i : Nat) (n : Namespace), s.serves ch 0x54 [(1, i), (2, c)] .bound false = true → c ≤ 7 → s.ownNs (s.servedSlice ch 0) i = some n →
    s.nvmOwner c = some (s.servedSlice ch 0) → s.isSpill (s.servedSlice ch 0) i = false →
    ∃ u : State, exec (.nsAttach ch i c) s = .next (u.ack ch .ok 0 [i]) ∧
      ∃ m : Namespace, smGet u.nvm.ns i = some m ∧ c ∈ m.ctrls ∧ m.regions = n.regions ∧ m.blocks = n.blocks) ∧
  (∀ (s : State) (ch c i : Nat) (n : Namespace), s.serves ch 0x55 [(1, i), (2, c)] .bound false = true → c ≤ 7 → s.ownNs (s.servedSlice ch 0) i = some n → c ∈ n.ctrls →
    s.nsBusy i [c] = false →
    ∃ u : State, exec (.nsDetach ch i c) s = .next (u.ack ch .ok 0 [i]) ∧ smGet u.nvm.ns i = some { n with ctrls := n.ctrls.erase c, ending := none }) ∧
  (∀ (s : State) (ch i : Nat) (n : Namespace), s.serves ch 0x53 [(1, i)] .bound false = true → s.ownNs (s.servedSlice ch 0) i = some n → s.nsInOp i = false →
    s.isSpill (s.servedSlice ch 0) i = false → s.nsBusy i (List.range 8) = false →
    exec (.nsDestroy ch i) s = .next (((s.takeUp ch).dropNs i).ack ch .ok 0 [i]) ∧ smGet ((s.takeUp ch).dropNs i).nvm.ns i = none) ∧
  (∀ (s : State) (ch c sl : Nat) (v : Bool), s.serves ch 0x50 [(1, c), (2, (if v then 2 ^ 31 else 0) + sl)] .secure false = true → c ≤ 7 → sl ≤ 63 → (v = true → s.slLive sl = true) → (s.ctl c).en = false →
    (∀ p ∈ s.nvm.ns, c ∉ p.2.ctrls) → s.opState c = 0 → s.fon NVC_LOCK_LOCK = false →
    ∃ u : State, exec (.storAssign ch c v sl) s = .next (u.ack ch .ok 0 [c]) ∧ u.nvmOwner c = (if v then some sl else none) ∧ u = { s.takeUp ch with regs := u.regs }) ∧
  (∀ (s : State) (ch c : Nat), s.serves ch 0x51 [(1, c)] .secure false = true → c ≤ 7 → s.opState c ≠ 1 → s.opState c ≠ 2 →
    ∃ u : State, exec (.storRecordClear ch c) s = .next (u.ack ch .ok 0 [c]) ∧ smGet u.nvm.ops c = none ∧ u.rget NVC_OP_STATUS 0 c = 0 ∧
      u.rget NVC_OP_POS 0 c = 0 ∧ u.rget NVC_OP_TOTAL 0 c = 0 ∧ u.rget NVC_OP_PROG 0 c = 0 ∧ u = { s.takeUp ch with regs := u.regs, nvm := u.nvm })

/-- R425 to R444, R432, R435, R439: Ethernet ports. A received frame fails its first failing check or is classified and delivered;
priority flow control pauses and releases classes; management frames are answered; links change; the classifier's registers. -/
def Obligations.EthernetPortsReceiveAndAnswer : Prop :=
  (∀ (s : State) (die j corr uncorr stamp : Nat) (frame : List Byte) (ok : Bool), die ≤ 1 → s.portPresent die j = true → s.linkUp die j = true → corr = 0 →
    (uncorr ≠ 0 → exec (.frameReceive die j frame ok corr uncorr stamp) s = .next (s.stat die j 0x28 uncorr)) ∧
    (uncorr = 0 → ok = false → exec (.frameReceive die j frame ok corr uncorr stamp) s = .next (s.stat die j 0x30 1)) ∧
    (uncorr = 0 → ok = true → frame.length + 4 < 64 → exec (.frameReceive die j frame ok corr uncorr stamp) s = .next (s.stat die j 0x38 1)) ∧
    (uncorr = 0 → ok = true → 64 ≤ frame.length + 4 → s.fget PKT_MODE_MAX_FRAME die < frame.length + 4 →
      exec (.frameReceive die j frame ok corr uncorr stamp) s = .next (s.stat die j 0x40 1))) ∧
  (∀ (s : State) (die j stamp : Nat) (frame : List Byte), die ≤ 1 → s.portPresent die j = true → s.linkUp die j = true → 64 ≤ frame.length + 4 →
    frame.length + 4 ≤ s.fget PKT_MODE_MAX_FRAME die →
    (beVal ((frame.drop 12).take 2) ≠ 0x8808 →
      ∃ u : State, exec (.frameReceive die j frame true 0 0 stamp) s =
        .next ((u.classify die j 0 frame).1.deliverFrame die j frame (u.classify die j 0 frame).2 stamp) ∧ u.net = s.net ∧ u.tmt = s.tmt ∧ u.mem = s.mem) ∧
    (beVal ((frame.drop 12).take 2) = 0x8808 → beVal ((frame.drop 14).take 2) = 0x0101 →
      ∃ t : State, exec (.frameReceive die j frame true 0 0 stamp) s = .next t ∧ t = { s with regs := t.regs, net := { s.net with paused := t.net.paused } } ∧
        (∀ c, c < 8 → bit (t.fget PKT_PORT_STATUS_PAUSED die j) c = (if bit (beVal ((frame.drop 16).take 2)) c then
          decide (beVal ((frame.drop (18 + 2 * c)).take 2) ≠ 0) else bit (s.fget PKT_PORT_STATUS_PAUSED die j) c)) ∧
        (∀ c, c < 8 → bit (beVal ((frame.drop 16).take 2)) c = true →
          smGet t.net.paused (64 * die + 8 * j + c) = some (s.pw.onTicks, s.quantaNs die (beVal ((frame.drop (18 + 2 * c)).take 2)))))) ∧
  (∀ (s : State) (die j act stamp c : Nat) (frame : List Byte), c = s.actClass die j 0 frame act → actColour act = 0 →
    s.rxOcc die (· == c) + (frame.length + 4) ≤ s.fget PKT_CLASS_CTL_GRN_LIM die c * 65536 → s.rxOcc die (fun _ => true) + (frame.length + 4) ≤ 2 ^ 24 →
    s.fget PKT_QDEST_DEST die (actQueue act) = 2 → (s.net.mgmt.filter (fun f => f.port / 8 == die)).length < 256 →
    (s.deliverFrame die j frame act stamp).net.mgmt = s.net.mgmt ++ [{ port := die * 8 + j, cls := c, size := frame.length + 4, bytes := frame, stamp := stamp }] ∧
      (s.deliverFrame die j frame act stamp).tmt = s.tmt) ∧
  (∀ (s : State) (die j c : Nat) (q : Nat × Nat), die ≤ 1 → j ≤ 7 → c ≤ 7 → smGet s.net.paused (64 * die + 8 * j + c) = some q → s.mayHavePassed q.1 q.2 = true →
    ∃ t : State, exec (.pfcPauseExpiry die j c) s = .next t ∧ t = { s with regs := t.regs } ∧
      (∀ d, d < 8 → bit (t.fget PKT_PORT_STATUS_PAUSED die j) d = (decide (d ≠ c) && bit (s.fget PKT_PORT_STATUS_PAUSED die j) d))) ∧
  (∀ (s : State) (die j c : Nat), s.heldOff die j c = true →
    (s.mayHavePassed (smGetD s.net.xoffAt (64 * die + 8 * j + c) 0) (s.quantaNs die 16384) = true → s.xoff die c ≠ 0 → s.xoff die c ≤ s.rxOcc die (· == c) + 131072 →
      ∃ t : State, exec (.pfcRepeat die j c) s = .next t ∧ t.out = .frame die j (s.pfcFrame die j c 0xFFFF) :: s.out ∧
        bit (t.fget PKT_PORT_STATUS_XOFF_SENT die j) c = true ∧ smGet t.net.xoffAt (64 * die + 8 * j + c) = some s.pw.onTicks ∧
        t = { s with regs := t.regs, out := t.out, net := { s.net with xoffAt := t.net.xoffAt } }) ∧
    (s.rxOcc die (· == c) + 131072 < s.xoff die c ∨ s.xoff die c = 0 →
      ∃ t : State, exec (.pfcXonSend die j c) s = .next t ∧ t.out = .frame die j (s.pfcFrame die j c 0) :: s.out ∧
        bit (t.fget PKT_PORT_STATUS_XOFF_SENT die j) c = false ∧ t = { s with regs := t.regs, out := t.out, net := { s.net with xoffAt := t.net.xoffAt } })) ∧
  (∀ (s : State) (die : Nat) (ptp : List (List Byte)) (servo : Option (Int × Int)) (f : RxFrame) (r : List Byte), s.fwRuns = true →
    s.net.mgmt.find? (fun f => f.port / 8 == die) = some f → beVal ((f.bytes.drop 12).take 2) = 0x0806 →
    s.arpReply f.port (f.bytes.drop 14) = some r →
    ∃ u : State, exec (.mgmtFrame die ptp servo) s = .next (u.fwFrame f.port (etherFrame (beVal ((f.bytes.drop 6).take 6)) (s.portMac die (f.port % 8)) none 0x0806 r)) ∧
      u = { s with net := { s.net with mgmt := s.net.mgmt.erase f } }) ∧
  (∀ (s u : State) (die : Nat) (ptp : List (List Byte)) (f : RxFrame), s.fwRuns = true → s.net.mgmt.find? (fun f => f.port / 8 == die) = some f →
    beVal ((f.bytes.drop 12).take 2) = 0x88F7 → u = ptp.foldl (fun s p => s.fwFrame f.port p true) { s with net := { s.net with mgmt := s.net.mgmt.erase f } } →
    (exec (.mgmtFrame die ptp none) s = .next u) ∧
    (∀ off ppb : Int, s.fget PMU_TIME_STATUS_SRC = 2 → s.pmu.srcPort = die * 8 + f.port % 8 → -100 ≤ off → off ≤ 100 → s.clockValid = true →
      ∃ t : State, exec (.mgmtFrame die ptp (some (off, ppb))) s = .next t ∧ t.fget PMU_TIME_STATUS_LOCKED = 1 ∧
        t.rget PMU_TIME_ADJ = ((max (-500000) (min 500000 ppb)) % 2 ^ 32).toNat ∧ t = { u with regs := t.regs })) ∧
  (∀ (s : State) (die j : Nat), die ≤ 1 → j ≤ 7 → s.linkUp die j = true →
    ∃ t : State, exec (.portLinkDown die j) s = .next t ∧ t.linkUp die j = false ∧ t.fget PKT_PORT_STATUS_FEC_LOCK die j = 0 ∧ t.fget PKT_PORT_STATUS_SPEED die j = 0 ∧
      (∀ q, q < 64 → t.txQueue die j q = []) ∧ (∀ w, smGet s.net.wire (die * 8 + j) = some w → smGet t.net.wire (die * 8 + j) = some { w with lost := true }) ∧
      t.mem = s.mem ∧ t.out = s.out) ∧
  (∀ (s : State) (die j : Nat), die ≤ 1 → s.portPresent die j = true → s.fon PKT_PORT_CTL_EN die j = true → .net die ∉ s.pw.gated → 8 + die ∉ s.pw.refLost →
    s.linkUp die j = false → s.fget PKT_MODE_MODE die ≤ 2 → (s.gateOf die j).asleep = false →
    ∃ t : State, exec (.portLinkUp die j) s = .next t ∧ t.linkUp die j = true ∧ t.fget PKT_PORT_STATUS_SPEED die j = s.fget PKT_MODE_MODE die + 1 ∧
      t = { s with regs := t.regs }) ∧
  (∀ (s : State) (die v : Nat), die ≤ 1 → s.fon PKT_LOCK_LOCK die = false →
    (1518 ≤ getBits v 29 16 → getBits v 29 16 ≤ 9216 → getBits v 1 0 ≠ 3 → getBits v 1 0 = s.fget PKT_MODE_MODE die →
      ∃ t : State, exec (.pktModeWrite .atelier die v) s = .next t ∧ t.fget PKT_MODE_MAX_FRAME die = getBits v 29 16 ∧ t.fget PKT_MODE_MODE die = getBits v 1 0 ∧
        t = { s with regs := t.regs }) ∧
    (getBits v 29 16 < 1518 ∨ 9216 < getBits v 29 16 ∨ getBits v 1 0 = 3 →
      ∃ t : State, exec (.pktModeWrite .atelier die v) s = .next t ∧ t.fget PKT_ERR_STATUS_CFG_REJECT die = 1 ∧ t.rget PKT_MODE die = s.rget PKT_MODE die)) ∧
  (∀ (s : State) (die j p : Nat), die ≤ 1 → j ≤ 7 →
    ∃ t : State, exec (.profileSwitch .atelier die j p) s = .next t ∧ t.fget PKT_PORT_CTL_PROF die j = p % 2 ∧ t = { s with regs := t.regs }) ∧
  (∀ (s : State) (die j p w v : Nat), die ≤ 1 → j ≤ 7 → p ≤ 1 → w ≤ 15 → s.fget PKT_PORT_CTL_PROF die j ≠ p → getBits v 17 16 ≠ 3 → v < 2 ^ 32 →
    ∃ t : State, exec (.windowWrite .atelier die j p w v) s = .next t ∧ t.rget PKT_WIN die j p w = v &&& 0x800301FF ∧ t = { s with regs := t.regs }) ∧
  (∀ (s : State) (die : Nat), die ≤ 1 → (∀ i w, s.ruleWord die i w < 2 ^ 32) →
    ∃ t : State, exec (.ruleRead .atelier die) s = .next t ∧ t = { s with regs := t.regs } ∧
      (∀ w, w < 36 → t.rget PKT_RULE_DATA die w = s.ruleWord die (s.fget PKT_RULE_SEL_INDEX die) w) ∧
      t.rget PKT_RULE_HITS die = s.ruleWord die (s.fget PKT_RULE_SEL_INDEX die) 36) ∧
  (∀ (s : State) (die : Nat), die ≤ 1 → actOk (s.rget PKT_RULE_DATA die 35) = true →
    (∃ t : State, exec (.ruleWrite .atelier die) s = .next t ∧ t = { s with net := t.net } ∧
      (∀ w, w < 36 → t.ruleWord die (s.fget PKT_RULE_SEL_INDEX die) w = s.ruleStored die w) ∧
      (∀ i w, i < 1024 → i ≠ s.fget PKT_RULE_SEL_INDEX die → w < 64 → t.ruleWord die i w = s.ruleWord die i w)) ∧
    (∃ t : State, exec (.ruleClearHits .atelier die) s = .next t ∧ t.ruleWord die (s.fget PKT_RULE_SEL_INDEX die) 36 = 0 ∧ t = { s with net := t.net })) ∧
  (∀ (s : State) (die j : Nat), die ≤ 1 → j ≤ 7 →
    ∃ t : State, exec (.statClr .atelier die j) s = .next t ∧ (∀ w, w < 52 → t.rget PKT_STAT die j w = 0) ∧ t = { s with regs := t.regs }) ∧
  (∀ (s : State) (die v sl : Nat), exec (.pktModeWrite (.slice sl) die v) s = .next s)

/-- R446 to R456: transmit scheduling. A frame that fits joins its queue, a green one that does not stays at its source; an idle port
starts the head of the queue chosen; credits rise at a refill and stop at their cap; gate lists switch, take over and show their
entry. -/
def Obligations.TransmitQueuesAreScheduled : Prop :=
  (∀ (s s1 : State) (die src q c : Nat) (f : TxFrame), s.net.source.find? (fun f => f.src == src && f.port / 8 == die) = some f →
    s.txClass die f = (s1, q, c, 0) → s.linkUp die (f.port % 8) = true →
    (s.txOcc die (f.port % 8) q + f.size ≤ s.effFld SCH_Q_LIM_GRN die (f.port % 8) q * 4096 → s.txBuf die + f.size ≤ 2 ^ 23 →
      ∃ t : State, exec (.txEnqueue die src) s = .next t ∧ t.txQueue die (f.port % 8) q = s.txQueue die (f.port % 8) q ++ [{ frame := f, cls := c }] ∧
        t.net.source = s.net.source.erase f ∧ smGet t.net.held (die * 2 ^ 17 + f.src) = none ∧ t.mem = s.mem ∧ t.out = s.out) ∧
    (s.effFld SCH_Q_LIM_GRN die (f.port % 8) q * 4096 < s.txOcc die (f.port % 8) q + f.size →
      ∃ t : State, exec (.txEnqueue die src) s = .next t ∧ t.fget SCH_Q_STATUS_BACKLOG die (f.port % 8) q = 1 ∧
        smGet t.net.held (die * 2 ^ 17 + f.src) = some (qKey die (f.port % 8) q, c) ∧ t.net.source = s.net.source ∧ t.net.txq = s.net.txq ∧ t.mem = s.mem ∧ t.out = s.out)) ∧
  (∀ (s s1 : State) (die src q c col : Nat) (f : TxFrame), s.net.source.find? (fun f => f.src == src && f.port / 8 == die) = some f →
    s.txClass die f = (s1, q, c, col) → s.linkUp die (f.port % 8) = false →
    ∃ u : State, exec (.txEnqueue die src) s = .next (u.stat die (f.port % 8) 0x78 1) ∧ u.net.source = s.net.source.erase f ∧ u.net.txq = s.net.txq) ∧
  (∀ (s s1 : State) (die j t pr q cur : Nat) (added : Bool) (el : List Nat) (f : TxQueued) (rest : List TxQueued), die ≤ 1 → j ≤ 7 →
    s.inTick (t / 1000) = true → s.takeDue die j (t / 1000) = false → smGet s.net.wire (die * 8 + j) = none → el = (List.range 64).filter (fun q => s.eligible die j q t) → el ≠ [] →
    pr = el.foldl (fun m q => max m (s.effFld SCH_Q_CTL_PRIO die j q)) 0 → smGetD s.net.turn ((die * 8 + j) * 8 + pr) (0, false) = (cur, added) →
    s.drr die j pr (el.filter (fun q => s.effFld SCH_Q_CTL_PRIO die j q == pr)) cur added 12000 = (s1, some q) → s.txQueue die j q = f :: rest →
    ∃ (u : State) (w : OnWire), exec (.schedulePick die j t) s = .next u ∧ smGet u.net.wire (die * 8 + j) = some w ∧ w.q = q ∧ w.frame = f.frame ∧ w.sent = 0 ∧
      w.lost = false ∧ u.txQueue die j q = rest ∧ u.out = (if f.frame.mark then .txStamp die j (t / 1000) :: s.out else s.out) ∧ u = { s with net := u.net, out := u.out }) ∧
  (∀ (s : State) (die j t : Nat), die ≤ 1 → j ≤ 7 → (∀ q, q < 64 → s.eligible die j q t = false) → exec (.schedulePick die j t) s = .next s) ∧
  (∀ (s : State) (die j : Nat) (w : OnWire), smGet s.net.wire (die * 8 + j) = some w →
    (w.lost = false → ∃ u : State, exec (.frameTransmitEnd die j) s = .next (u.emit (.frame die j w.frame.bytes)) ∧ smGet u.net.wire (die * 8 + j) = none ∧
      u.net.txq = s.net.txq ∧ u.mem = s.mem) ∧
    (w.lost = true → ∃ u : State, exec (.frameTransmitEnd die j) s = .next (u.stat die j 0x78 1) ∧ smGet u.net.wire (die * 8 + j) = none ∧ u.out = s.out)) ∧
  (∀ (s : State) (die : Nat) (sent : List Nat), die ≤ 1 → s.refillsNow die < 49 →
    ∃ t : State, exec (.shaperRefill die sent) s = .next t ∧ t = { s with net := t.net } ∧ t.refillsNow die = s.refillsNow die + 1 ∧ t.net.txq = s.net.txq ∧ t.net.source = s.net.source ∧
      (∀ j q, j < 8 → q < 64 → t.credit (qKey die j q) ≤ ((t.effFld SCH_Q_BURST_BURST die j q * 4096 : Nat) : Int))) ∧
  (∀ (s : State) (die j t : Nat) (g : Nat × Nat × Nat), die ≤ 1 → j ≤ 7 → s.fon SCH_PORT_CTL_GATE_EN die j = true → s.fon SCH_PORT_STATUS_RUNNING die j = true →
    s.clockValid = true → s.inTick t = true → s.takeDue die j t = false → (s.gateOf die j).cycle ≤ t → t < (s.gateOf die j).cycle + max 1 (s.gclCycle die j (s.fget SCH_PORT_STATUS_OPER_BANK die j)) →
    segAt (s.gclSegs die j (s.fget SCH_PORT_STATUS_OPER_BANK die j)) (t - (s.gateOf die j).cycle) = some g → g.2.1 < 256 → g.2.2 < 256 →
    ∃ u : State, exec (.gateEntryChange die j t) s = .next u ∧ u.fget SCH_PORT_STATUS_GATES die j = g.2.1 ∧ u.fget SCH_PORT_STATUS_ENTRY die j = g.2.2 ∧
      (u.gateOf die j).cycle = (s.gateOf die j).cycle ∧ u.mem = s.mem ∧ u.out = s.out) ∧
  (∀ (s : State) (die j v t : Nat), die ≤ 1 → j ≤ 7 → s.inTick t = true →
    (bit v 31 = false → ∃ u : State, exec (.gclSwitch .atelier die j v t) s = .next u ∧ u.fon SCH_PORT_CTL_GATE_EN die j = false ∧
      u.fget SCH_PORT_STATUS_GATES die j = 0xFF ∧ u.fget SCH_PORT_STATUS_RUNNING die j = 0 ∧ u.mem = s.mem ∧ u.out = s.out) ∧
    (bit v 31 = true → bit v 29 = true → s.bankOk die j (getBits v 24 24) = true → s.clockValid = true → (s.gateOf die j).asleep = false →
      (s.fon SCH_PORT_STATUS_RUNNING die j = true → getBits v 24 24 ≠ s.fget SCH_PORT_STATUS_OPER_BANK die j) →
      ∃ u : State, exec (.gclSwitch .atelier die j v t) s = .next u ∧ u.fon SCH_PORT_CTL_GATE_EN die j = true ∧ u.fget SCH_PORT_STATUS_SWITCH_PEND die j = 1 ∧
        (u.gateOf die j).bank = getBits v 24 24 ∧ (u.gateOf die j).takeAt = some (s.firstStart die j (getBits v 24 24) t) ∧ u.mem = s.mem ∧ u.out = s.out) ∧
    (bit v 31 = true → bit v 29 = true → s.bankOk die j (getBits v 24 24) = false →
      ∃ u : State, exec (.gclSwitch .atelier die j v t) s = .next u ∧ u.fget SCH_ERR_STATUS_CFG_REJECT die = 1 ∧ u.net = s.net)) ∧
  (∀ (s : State) (die j t a : Nat), die ≤ 1 → j ≤ 7 → s.fon SCH_PORT_CTL_GATE_EN die j = true → s.clockValid = true → s.inTick t = true → (s.gateOf die j).takeAt = some a → a ≤ t →
    ∃ u : State, exec (.gclTakeover die j t) s = .next u ∧ u.fget SCH_PORT_STATUS_RUNNING die j = 1 ∧ u.fget SCH_PORT_STATUS_SWITCH_PEND die j = 0 ∧
      u.fget SCH_PORT_STATUS_OPER_BANK die j = s.nextBank die j % 2 ∧ (u.gateOf die j).takeAt = none ∧ u.mem = s.mem ∧ u.out = s.out)

/-- R425, R432, R435, R439, R459, R583: the network configuration commands. Register images are written whole, as the atelier core,
and the command completes with OK, its records in flash; a bad die or a failed parameter block refuses the command whole. -/
def Obligations.NetworkCommandsWriteTheirImages : Prop :=
  (∀ (s u : State) (ch die v : Nat), s.serves ch 0x58 [] .secure true = true → die ≤ 1 → getBits v 1 0 = s.fget PKT_MODE_MODE die →
    (s.takeUp ch).netImages die (fun r _ => r == PKT_MODE) [(PKT_MODE.addr die 0 0 0, v)] = some u →
    exec (.netMode ch die .ok v) s = .next ((u.netRecord die [(PKT_MODE.addr die 0 0 0, v)]).ack ch .ok 0 [])) ∧
  (∀ (s t u : State) (ch die v : Nat), s.serves ch 0x58 [] .secure true = true → die ≤ 1 → getBits v 1 0 ≠ s.fget PKT_MODE_MODE die →
    t = (List.range 8).foldl (fun s j => let was := s.fon PKT_PORT_CTL_EN die j;
      let s := s.fset PKT_PORT_CTL_EN 0 die j;
      if was then s.portDown die j else s) (s.takeUp ch) →
    t.netImages die (fun r _ => r == PKT_MODE) [(PKT_MODE.addr die 0 0 0, v)] = some u →
    exec (.netMode ch die .ok v) s = .next (((u.enablePorts die).netRecord die [(PKT_MODE.addr die 0 0 0, v)]).ack ch .ok 0 []) ∧
      (∀ j, j < 8 → (u.enablePorts die).fon PKT_PORT_CTL_EN die j = u.portPresent die j)) ∧
  (∀ (s u : State) (ch die j ip4 ip6 : Nat) (images : List (Nat × Nat)), s.serves ch 0x59 [] .secure true = true → die ≤ 1 → j ≤ 7 → ip4 < 2 ^ 32 → ip6 < 2 ^ 128 →
    (s.takeUp ch).netImages die (fun r ix => (r == PKT_PORT_MAC_LO || r == PKT_PORT_MAC_HI) && ixAt ix 0 == j) images = some u →
    ∃ w : State, exec (.netAddr ch die j .ok ip4 ip6 images) s = .next (w.ack ch .ok 0 []) ∧ w.ip4 (die * 8 + j) = ip4 ∧ w.ip6 (die * 8 + j) = ip6 ∧
      w = { u with net := w.net }) ∧
  (∀ (s : State) (ch die j ip4 ip6 : Nat), s.serves ch 0x59 [] .secure true = true → die ≤ 1 → j ≤ 7 → ip4 < 2 ^ 32 → ip6 < 2 ^ 128 →
    ∃ w : State, exec (.netAddr ch die j .ok ip4 ip6 []) s = .next (w.ack ch .ok 0 []) ∧ w.ip4 (die * 8 + j) = ip4 ∧ w.ip6 (die * 8 + j) = ip6) ∧
  (∀ (s u : State) (ch die j : Nat) (images : List (Nat × Nat)), s.serves ch 0x5A [] .secure true = true → die ≤ 1 → j ≤ 7 →
    (s.takeUp ch).netImages die (fun r ix => [PKT_WIN, PKT_PORT_CTL, PKT_PORT_DEF_RX, PKT_PORT_DEF_TX].contains r && ixAt ix 0 == j) images = some u →
    exec (.netProfile ch die j .ok images) s = .next ((u.netRecord die images).ack ch .ok 0 [])) ∧
  (∀ (s u : State) (ch die : Nat) (images : List (Nat × Nat)), s.serves ch 0x5B [] .secure true = true → die ≤ 1 →
    (s.takeUp ch).netImages die (fun r _ => [PKT_RULE_SEL, PKT_RULE_CMD, PKT_RULE_DATA, PKT_CLASS_CTL, PKT_QDEST].contains r) images = some u →
    ∃ w : State, exec (.netRule ch die .ok images) s = .next (w.ack ch .ok 0 []) ∧ w.net.rules = u.net.rules ∧ w = { u with net := w.net }) ∧
  (∀ (s u : State) (ch die j : Nat) (images : List (Nat × Nat)), s.serves ch 0x5C [] .secure true = true → die ≤ 1 → j ≤ 7 →
    (s.takeUp ch).netImages die (fun r ix => r.blk == .sch && !r.dims.isEmpty && ixAt ix 0 == j) images = some u →
    exec (.netSched ch die j .ok images) s = .next (u.ack ch .ok 0 [])) ∧
  (∀ (s : State) (ch die j : Nat) (images : List (Nat × Nat)) (i : Nat × Nat), s.serves ch 0x5C [] .secure true = true → die ≤ 1 → j ≤ 7 → i ∈ images → netReg die i.1 = none →
    exec (.netSched ch die j .ok images) s = .next ((s.takeUp ch).ack ch .badDescriptor 1 []))

/-- R466 to R468, R472 to R475, R479, R481, R482: TMT work requests. Doorbells move tails and heads; requests are checked and accepted
in order; packets leave while the window allows; duplicates and packets beyond the map are refused; timers resend or break;
completions leave in order. -/
def Obligations.TmtRequestsAreSentAndCompleted : Prop :=
  (∀ (s : State) (who : Requester) (p sl n v : Nat) (got : HostData) (q : TmtSq), sl < 64 → n < 256 → p ≤ 7 → smGet s.tmt.sqs (sl * 256 + n) = some q → s.accepts q.slice = true →
    q.err = false →
    (q.port = some p → q.setup = false → v < q.size → v < 2 ^ 16 → exec (.tmtSqDoorbell (some p) who (sl * 0x1000 + 8 * n) v got) s =
      .next (s.setTmt { s.tmt with sqs := smSet s.tmt.sqs (sl * 256 + n) { q with tail := v } })) ∧
    (q.port = some p → (q.size ≤ v ∨ 2 ^ 16 ≤ v) → q.size ≤ 2 ^ 16 → ∃ t : State, exec (.tmtSqDoorbell (some p) who (sl * 0x1000 + 8 * n) v got) s = .next t ∧
      t.fget HIF_ERR_STATUS_DB_BAD p = 1 ∧ smGet t.tmt.sqs (sl * 256 + n) = some { q with err := true } ∧ t.mem = s.mem) ∧
    (∀ r, q.port = some r → r ≠ p → ∃ t : State, exec (.tmtSqDoorbell (some p) who (sl * 0x1000 + 8 * n) v got) s = .next t ∧
      t.fget HIF_ERR_STATUS_DB_PORT p = 1 ∧ smGet t.tmt.sqs (sl * 256 + n) = some { q with dbErr := q.dbErr + 1 } ∧ t.mem = s.mem)) ∧
  (∀ (s : State) (who : Requester) (p sl n v : Nat) (q : TmtCq), sl < 64 → n < 256 → p ≤ 7 → smGet s.tmt.cqs (sl * 256 + n) = some q → q.port = some p →
    s.accepts sl = true → q.err = false → getBits v 30 16 = 0 → v % 2 ^ 16 < q.size → (∀ x ∈ s.tmt.posts, x.cq ≠ sl * 256 + n) →
    exec (.tmtCqDoorbell (some p) who (sl * 0x1000 + 0x800 + 8 * n) v) s =
      .next (s.setTmt { s.tmt with cqs := smSet s.tmt.cqs (sl * 256 + n) { q with head := v % 2 ^ 16, arm := bit v 31 } })) ∧
  (∀ (s s1 : State) (sl q op c : Nat) (wr : HostData) (d : List Byte) (i : Instr) (sq : TmtSq) (x : Conn),
    (i, op) ∈ [(Instr.tmtWrite sl q wr, 0), (.tmtWriteImm sl q wr, 1), (.tmtRead sl q wr, 2), (.tmtFlush sl q wr, 3), (.tmtFetchAdd sl q wr, 4)] →
    smGet s.tmt.sqs (sl * 256 + q) = some sq → sq.setup = false → sq.err = false → sq.head ≠ sq.tail → s.ringRead sq 1 wr = (s1, (.ok, d)) → leField d 0 1 = op →
    c = leField d 4 4 →
    (wrOk d = true → s1.conn c = some x → x.slice = sl → x.die = sq.die → x.state ≠ 4 → x.state ≠ 5 → x.cached = true → x.holds op = true →
      (op ≤ 2 → s1.localErr sl ((match sq.port with | some p => some p | none => s1.drvPort sl).getD 0) (leField d 8 8) (leField d 0x10 4) (bit (leField d 1 1) 2) (op == 2) = none) →
      ∃ (t : State) (y : Conn) (r : Req), exec i s = .next t ∧ smGet t.tmt.sqs (sl * 256 + q) = some { sq with head := (sq.head + 1) % sq.size } ∧
        t.conn c = some y ∧ y.reqs = x.reqs ++ [r] ∧ y.msn = (x.msn + 1) % 2 ^ 32 ∧ r.msn = x.msn ∧ r.op = op ∧ r.origin = .sq (sl * 256 + q) ∧ r.done = false ∧
        r.sent = 0 ∧ r.laddr = leField d 8 8 ∧ r.len = leField d 0x10 4 ∧ r.rkey = leField d 0x14 4 ∧ r.roff = leField d 0x18 8 ∧ r.imm = leField d 0x20 4 ∧
        r.add = leField d 0x28 8 ∧ r.wrid = leField d 0x30 8 ∧ (op ≤ 1 → r.n = packetsOf x.payload (leField d 0x10 4)) ∧ t.mem = s1.mem) ∧
    (wrOk d = false → ∃ u : State, exec i s = .next (u.postCq (u.cqOf (sl * 256 + q)) (tmtEntry (leField d 0x30 8) 0 0 0 (c % 65536) op .badDescriptor 0 0)) ∧
      u = s1.setTmt { s1.tmt with sqs := smSet s1.tmt.sqs (sl * 256 + q) { sq with head := (sq.head + 1) % sq.size } }) ∧
    (wrOk d = true → s1.conn c = none →
      ∃ u : State, exec i s = .next (u.postCq (u.cqOf (sl * 256 + q)) (tmtEntry (leField d 0x30 8) 0 0 0 (c % 65536) op .badHandle 0 0)) ∧
      u = s1.setTmt { s1.tmt with sqs := smSet s1.tmt.sqs (sl * 256 + q) { sq with head := (sq.head + 1) % sq.size } })) ∧
  (∀ (s : State) (c now : Nat) (src : HostData) (x : Conn), s.conn c = some x → (x.state = 3 ∨ x.state = 5) → s.fon TMT_CTL_EN x.die = true →
    s.dieStopped (14 + x.die) = false → x.cached = true → s.atNow now = true →
    (x.cwnd / 256 ≤ x.places → exec (.packetSend c src now) s = .next s) ∧
    (∀ r, x.places < x.cwnd / 256 → x.lost = none → nextReq [] x.reqs = some r → x.inMap x.nextPsn = true → 2 ≤ r.op → r.op ≤ 4 → x.canSeal 1 →
      ∃ (t : State) (y : Conn) (p : SentPkt), exec (.packetSend c src now) s = .next t ∧ t.conn c = some y ∧ y.nextPsn = (x.nextPsn + 1) % 2 ^ 32 ∧
        y.pkts = x.pkts ++ [p] ∧ p.psn = x.nextPsn ∧ p.msn = r.msn ∧ p.phase = 0 ∧ p.times = 1 ∧ p.sentAt = now ∧ t.mem = s.mem) ∧
    (∀ r, x.places < x.cwnd / 256 → x.lost = none → nextReq [] x.reqs = some r → x.inMap x.nextPsn = true → 2 ≤ r.op → r.op ≤ 4 → x.enc = true → 2 ^ 48 ≤ x.iv + 1 →
      ∃ (t : State) (y : Conn), exec (.packetSend c src now) s = .next t ∧ t.conn c = some y ∧ y.state = 4 ∧ (∀ r ∈ y.reqs, r.done = true) ∧ y.pkts = [] ∧ t.mem = s.mem) ∧
    (∀ p r, x.places < x.cwnd / 256 → x.lost = some p → (x.reqs ++ x.ghosts).find? (fun r => r.msn == p.msn) = some r → 2 ≤ r.op → r.op ≤ 4 → x.canSeal 1 →
      ∃ (t : State) (y : Conn), exec (.packetSend c src now) s = .next t ∧ t.conn c = some y ∧ y.nextPsn = x.nextPsn ∧
        y.pkts = x.pkts.map (fun k => if k.psn = p.psn then { p with phase := 0, times := p.times + 1, sentAt := now } else k) ∧ t.mem = s.mem)) ∧
  (∀ (s : State) (die c : Nat) (data : HostData) (i : Instr) (op : Nat) (k : TPkt) (x : Conn),
    (i, op) ∈ [(Instr.writePacket die, 0), (.writeImmPacket die, 1), (.readReq die c data, 2), (.flushPacket die, 4), (.fetchAddPacket die c, 5)] →
    (∀ y, s.conn c = some y → y.held = []) → s.frontPkt die op = some (k, x) → k.psn ∉ x.rnr → x.canSeal 2 →
    (x.place k.psn = .dup → op ≠ 2 → ∃ t : State, exec i s = .next t ∧ t.tmt.rx = s.tmt.rx.erase k ∧ t.mem = s.mem) ∧
    (x.place k.psn = .beyond → x.die ≤ 1 → ∃ t : State, exec i s = .next t ∧ t.tmt.rx = s.tmt.rx.erase k ∧ t.fget TMT_ERR_STATUS_OOW x.die = 1 ∧ t.mem = s.mem)) ∧
  (∀ (s : State) (c : Nat) (x : Conn), s.conn c = some x →
    (x.since = 0 → exec (.ackDelayExpiry c) s = .next s) ∧
    (0 < x.since → s.mayHavePassed x.ackTick (getBits x.ackCtl 15 0) = true → x.cached = true → x.canSeal 1 → ∃ (t : State) (y : Conn), exec (.ackDelayExpiry c) s = .next t ∧ t.conn c = some y ∧ y.since = 0 ∧ y.ce = 0 ∧
      y.epsn = x.epsn ∧ t.mem = s.mem)) ∧
  (∀ (s : State) (c now t0 : Nat) (x : Conn), s.atNow now = true → s.conn c = some x → x.state = 3 → x.cached = true → x.timer = some t0 → t0 + x.rto ≤ now → (∃ p ∈ x.pkts, p.phase = 0) →
    (x.expiries + 1 < x.retryMax → ∃ (t : State) (y : Conn), exec (.retransmissionTimeout c now) s = .next t ∧ t.conn c = some y ∧ (∀ p ∈ y.pkts, p.phase ≠ 0) ∧
      y.expiries = x.expiries + 1 ∧ y.rto = min x.rtoMax (2 * x.rto) ∧ y.cwnd = 512 ∧ y.timer = none ∧ y.state = 3 ∧ t.mem = s.mem) ∧
    (x.retryMax ≤ x.expiries + 1 → x.probing = none → x.die ≤ 1 → ∃ (t : State) (y : Conn), exec (.retransmissionTimeout c now) s = .next t ∧ t.conn c = some y ∧ y.state = 4 ∧
      y.pkts = [] ∧ (∀ r ∈ y.reqs, r.done = true) ∧ t.fget TMT_ERR_STATUS_CONN_FAIL x.die = 1 ∧ t.mem = s.mem)) ∧
  (∀ (s : State) (c psn now : Nat) (x : Conn), s.conn c = some x → s.atNow now = true → exec (.rnrResend c psn now) s =
    .next (s.setConn c { x with pkts := x.pkts.map (fun p => if p.psn = psn ∧ p.phase = 2 ∧ p.sentAt + x.rnrWait p ≤ now then { p with phase := 3 } else p) })) ∧
  (∀ (s : State) (c : Nat) (x : Conn) (i : TgtImm), s.conn c = some x → x.cached = true → x.imms.find? (fun i => x.ready i.psn) = some i →
    (x.refused.any (fun p => decide (psnDiff p i.psn ≤ 0 ∧ psnDiff i.psn p < i.n)) = true →
      exec (.targetCompletion c) s = .next (s.setConn c { x with imms := x.imms.filter (fun h => h.psn != i.psn) })) ∧
    (∀ q, x.refused.any (fun p => decide (psnDiff p i.psn ≤ 0 ∧ psnDiff i.psn p < i.n)) = false → smGet s.tmt.cqs (x.slice * 256 + x.tcq) = some q →
      (x.portsBefore i.psn).filter (fun p => q.port != some p) = [] → i.issued = [] → q.room 1 = true →
      ∃ u v : State, exec (.targetCompletion c) s = .next (if x.flagWord = 0 then v else v.deviceSignal x.slice x.flagWord 1) ∧
        v = u.writeCq (x.slice * 256 + x.tcq) (tmtEntry 0 0 i.mlen i.imm c 1 .ok 0 (1 + (if x.priors.any (fun p => decide (psnDiff p i.psn < 0)) then 2 else 0))) ∧
        u.conn c = some { x with imms := x.imms.filter (fun h => h.psn != i.psn), priors := x.priors.filter (fun p => decide (psnDiff p i.psn > 0)) } ∧ u.mem = s.mem ∧ u.tmt.cqs = s.tmt.cqs)) ∧
  (∀ (s : State) (c : Nat) (x : Conn) (f : TgtFlush), s.conn c = some x → x.cached = true → x.flushes.find? (fun f => x.ready f.psn) = some f → x.canSeal 1 →
    (f.asked = true → f.issued = [] → ∃ (t : State) (y : Conn), exec (.flushDone c) s = .next t ∧ t.conn c = some y ∧
      y.flushes = x.flushes.filter (fun h => h.psn != f.psn) ∧ t.mem = s.mem) ∧
    (f.asked = false → x.portsBefore f.psn = [] → exec (.flushDone c) s =
      .next (s.setConn c { x with flushes := x.flushes.map (fun h => if h.psn = f.psn then { f with asked := true, issued := [] } else h) }))) ∧
  (∀ (s : State) (c k : Nat) (x : Conn) (r : Req) (rs : List Req), s.conn c = some x → x.reqs = r :: rs → r.done = true → r.origin = .sq k → x.state ≠ 5 →
    (bit r.flags 0 = true → r.status = .ok → exec (.senderCompletion c) s = .next (s.setConn c { x with reqs := rs })) ∧
    (∀ q, (bit r.flags 0 = false ∨ r.status ≠ .ok) → smGet s.tmt.cqs (s.cqOf k) = some q → q.room 1 = true →
      exec (.senderCompletion c) s = .next ((s.setConn c { x with reqs := rs }).writeCq (s.cqOf k)
        (tmtEntry r.wrid r.value (r.bytesOut x.payload) 0 c r.op r.status r.sub ((if r.remote then 4 else 0) + (if r.retried then 8 else 0))))) ∧
    (∀ q, (bit r.flags 0 = false ∨ r.status ≠ .ok) → smGet s.tmt.cqs (s.cqOf k) = some q → q.room 1 = false → exec (.senderCompletion c) s = .next s))

/-- R469, R470, R473, R474, R477, R479, R480, R483: what an arriving TMT packet does. The target places writes, serves reads and
FETCH_ADDs, counts flushes and immediates; the sender places responses and takes acknowledgements. -/
def Obligations.TmtPacketsTakeEffect : Prop :=
  (∀ (s s1 : State) (die : Nat) (k : TPkt) (x z : Conn) (v : Verdict), s.frontPkt die 0 = some (k, x) → k.psn ∉ x.rnr → x.place k.psn = .fresh →
    (s.afterArrival k).placeWrite k x = (s1, v) → s1.conn k.conn = some z → z.canSeal 1 →
    ∃ (t : State) (y : Conn), exec (.writePacket die) s = .next t ∧ t.mem = s1.mem ∧ t.conn k.conn = some y ∧ y.epsn = (z.mark k.psn).epsn ∧
      y.rmap = (z.mark k.psn).rmap ∧ (v ≠ .taken → k.psn ∈ y.refused)) ∧
  (∀ (u : State) (k : TPkt) (x : Conn) (r : Region), k.payload.length ≤ x.payload → k.payload.length ≤ beVal ((k.ext.drop 12).take 4) →
    u.regionErr x k.conn (beVal (k.ext.take 4)) (beVal ((k.ext.drop 4).take 8)) k.payload.length 0 = none →
    smGet u.tmt.mrs (beVal (k.ext.take 4) % 2 ^ 24) = some r → r.lhost = false →
    u.placeWrite k x = (u.busWrite (r.addr + beVal ((k.ext.drop 4).take 8)) k.payload, .taken)) ∧
  (∀ (s : State) (die : Nat) (k : TPkt) (x : Conn) (q : TmtCq), s.frontPkt die 1 = some (k, x) → k.psn ∉ x.rnr → x.place k.psn = .fresh → bit k.flags 0 = true →
    smGet s.tmt.cqs (x.slice * 256 + x.tcq) = some q →
    ((s.afterArrival k).owed x.slice x.tcq + q.used + 1 ≥ q.size → x.canSeal 1 →
      ∃ (t : State) (y : Conn), exec (.writeImmPacket die) s = .next t ∧ t.mem = s.mem ∧ t.conn k.conn = some y ∧ k.psn ∈ y.rnr ∧ y.imms = x.imms) ∧
    (∀ (s1 : State) (z : Conn), q.room (1 + (s.afterArrival k).owed x.slice x.tcq) = true → (s.afterArrival k).placeWrite k x = (s1, .taken) →
      s1.conn k.conn = some z → z.canSeal 1 → ∃ (t : State) (y : Conn) (m : TgtImm), exec (.writeImmPacket die) s = .next t ∧ t.mem = s1.mem ∧
        t.conn k.conn = some y ∧ y.imms = z.imms ++ [m] ∧ m.psn = k.psn ∧ m.imm = beVal ((k.ext.drop 16).take 4))) ∧
  (∀ (s : State) (die : Nat) (k : TPkt) (x : Conn), s.frontPkt die 4 = some (k, x) → k.psn ∉ x.rnr → x.place k.psn = .fresh → x.canSeal 1 →
    ∃ (t : State) (y : Conn), exec (.flushPacket die) s = .next t ∧ t.mem = s.mem ∧ t.conn k.conn = some y ∧
      y.flushes = x.flushes ++ [{ psn := k.psn, asked := false, issued := [] }]) ∧
  (∀ (s t : State) (die c : Nat) (data : HostData) (k : TPkt) (x : Conn), s.conn c = some x → x.cached = true → x.die = die → x.held = [k] → k.op = 2 → x.ready k.psn = true →
    (s.modConn c (fun y => { y with held := y.held.erase k })).serveRead k x data = some t → exec (.readReq die c data) s = .next t) ∧
  (∀ (s t : State) (die c : Nat) (data : HostData) (k : TPkt) (x : Conn), (∀ y, s.conn c = some y → y.held = []) → s.frontPkt die 2 = some (k, x) →
    x.place k.psn = .fresh → 1 ≤ beVal ((k.ext.drop 12).take 4) → beVal ((k.ext.drop 12).take 4) ≤ 2 ^ 30 →
    s.regionErr x k.conn (beVal (k.ext.take 4)) (beVal ((k.ext.drop 4).take 8)) (beVal ((k.ext.drop 12).take 4)) 1 = none →
    k.psn = x.epsn → (s.receive k x (fun s => (s, .taken))).serveRead k x data = some t → exec (.readReq die c data) s = .next t) ∧
  (∀ (u : State) (k : TPkt) (x : Conn) (data : HostData) (r : Region) (bs : List Byte), smGet u.tmt.mrs (beVal (k.ext.take 4) % 2 ^ 24) = some r → r.lhost = false →
    (u.busRead (r.addr + beVal ((k.ext.drop 4).take 8)) (beVal ((k.ext.drop 12).take 4))).bytes = some bs → bs.length = beVal ((k.ext.drop 12).take 4) →
    u.serveRead k x data = some ((u.busRead (r.addr + beVal ((k.ext.drop 4).take 8)) bs.length).state.sendResps k.conn k.psn k.msn x.payload bs.length 0 bs
      (packetsOf x.payload bs.length))) ∧
  (∀ (s : State) (die c : Nat) (k : TPkt) (x : Conn) (r : Region), (∀ y, s.conn c = some y → y.held = []) → s.frontPkt die 5 = some (k, x) →
    x.place k.psn = .fresh → s.regionErr x k.conn (beVal (k.ext.take 4)) (beVal ((k.ext.drop 4).take 8)) 8 2 = none →
    smGet s.tmt.mrs (beVal (k.ext.take 4) % 2 ^ 24) = some r → r.lhost = false →
    (space (r.addr + beVal ((k.ext.drop 4).take 8)) = .stack → (r.addr + beVal ((k.ext.drop 4).take 8)) % 8 = 0 → k.psn = x.epsn →
      exec (.fetchAddPacket die c) s = .next ((s.receive k x (fun s => (s, .taken))).serveAdd k)) ∧
    (space (r.addr + beVal ((k.ext.drop 4).take 8)) ≠ .stack → exec (.fetchAddPacket die c) s = .next (s.receive k x (fun s => (s, .nak 3 1)))) ∧
    (space (r.addr + beVal ((k.ext.drop 4).take 8)) = .stack → (r.addr + beVal ((k.ext.drop 4).take 8)) % 8 ≠ 0 →
      exec (.fetchAddPacket die c) s = .next (s.receive k x (fun s => (s, .nak 3 2))))) ∧
  (∀ (u v : State) (k : TPkt) (r : Region) (b : List Byte) (x : Conn), smGet u.tmt.mrs (beVal (k.ext.take 4) % 2 ^ 24) = some r →
    v = (u.busRead (r.addr + beVal ((k.ext.drop 4).take 8)) 8).state → (u.busRead (r.addr + beVal ((k.ext.drop 4).take 8)) 8).bytes = some b →
    (v.busWrite (r.addr + beVal ((k.ext.drop 4).take 8)) (leBytes 8 ((leVal b + beVal ((k.ext.drop 16).take 8)) % 2 ^ 64))).conn k.conn = some x → x.canSeal 1 →
    (u.serveAdd k).mem = (v.busWrite (r.addr + beVal ((k.ext.drop 4).take 8)) (leBytes 8 ((leVal b + beVal ((k.ext.drop 16).take 8)) % 2 ^ 64))).mem ∧
      ∃ y : Conn, (u.serveAdd k).conn k.conn = some y ∧ y.adds = ((k.psn, leVal b) :: x.adds).take 16) ∧
  (∀ (s s1 : State) (die now off : Nat) (k : TPkt) (x z : Conn) (r : Req) (a : Nat × Nat × Nat), s.atNow now = true → s.frontPkt die 3 = some (k, x) →
    x.reqs.findSome? (fun r => (r.asks.find? (fun a => a.1 == beVal (k.ext.take 4))).map (fun a => (r, a))) = some (r, a) →
    off = a.2.1 + beVal ((k.ext.drop 4).take 4) → r.done = false → off + k.payload.length ≤ r.len → (s.afterArrival k).placeLocal x r off k.payload = (s1, .ok) →
    s1.conn k.conn = some z → ∃ t : State, exec (.readResp die now) s = .next t ∧ t.mem = s1.mem ∧ t.conn k.conn = some (z.setReq ({ r with
      missing := takeRange off k.payload.length r.missing, asked := now, places := if (takeRange off k.payload.length r.missing).isEmpty then 0 else r.places }.settle))) ∧
  (∀ (s : State) (die : Nat) (k : TPkt) (x : Conn) (r : Req), s.frontPkt die 6 = some (k, x) →
    x.reqs.find? (fun r => r.op == 4 && r.sent == 1 && r.first == beVal (k.ext.take 4) && !r.done) = some r →
    ∃ (t : State) (y : Conn), exec (.faResp die) s = .next t ∧ t.mem = s.mem ∧ t.conn k.conn = some y ∧
      y.reqs = x.reqs.map (fun q => if q.msn = r.msn then { r with value := beVal ((k.ext.drop 8).take 8), done := true } else q)) ∧
  (∀ (s : State) (die now : Nat) (k : TPkt) (x z : Conn), s.atNow now = true → s.frontPkt die 0x10 = some (k, x) → (s.afterArrival k).conn k.conn = some z →
    (x.state ≠ 2 → exec (.ack die now) s = .next ((s.afterArrival k).setConn k.conn (z.takeAck (beVal (k.ext.take 4)) (sackSet ((k.ext.drop 8).take 32))
      (beVal ((k.ext.drop 44).take 1)) (beVal ((k.ext.drop 40).take 4)) (beVal ((k.ext.drop 45).take 1)) (beVal ((k.ext.drop 46).take 2)) now))) ∧
    (∀ id, x.state = 2 → ackedBy (beVal (k.ext.take 4)) (sackSet ((k.ext.drop 8).take 32)) 0 = true → x.probing = some (65536, id) →
      ∃ (t : State) (y : Conn), exec (.ack die now) s = .next t ∧ t.conn k.conn = some y ∧ y.state = 3 ∧ y.pkts = [] ∧ y.probing = none ∧
        smGet t.tmt.results id = some (.ok, 0, []) ∧ t.mem = s.mem))

/-- R488 to R500: TMT connections. Setup requests are served in order; OPEN takes the lowest number, BIND probes, CLOSE drains or
breaks; contexts are fetched and checked against their copy. -/
def Obligations.TmtConnectionsOpenAndClose : Prop :=
  (∀ (s s1 : State) (die region sl fl pay key txs c b : Nat) (isNew : Bool) (r : SetupReq), s.takeSetupReq die 0x10 = some (r, s1) → sl = r.sq / 256 →
    fl = leField r.bytes 1 1 → pay = leField r.bytes 3 1 → key = leField r.bytes 0x12 2 → txs = leField r.bytes 0x14 4 →
    fl < 32 → bit fl 4 = false → (zeros ((r.bytes.drop 5).take 1) && zeros ((r.bytes.drop 0x1C).take 4) && zeros ((r.bytes.drop 0x28).take 8) &&
      zeros (r.bytes.drop 0x38)) = true → s1.portPresent die (leField r.bytes 2 1) = true → pay ≤ 3 → leField r.bytes 4 1 ≤ 63 →
    1024 * 2 ^ pay + 82 + (if bit fl 0 then 20 else 0) + (if bit fl 1 then 4 else 0) + (if bit fl 2 then 24 else 0) ≤ s1.fget PKT_MODE_MAX_FRAME die →
    (leField r.bytes 0x10 2 = 0xFFFF ∨ (smGet s1.tmt.cqs (sl * 256 + leField r.bytes 0x10 2)).isSome = true) →
    (bit fl 2 = true → s1.saltOk sl key txs = true ∧ txs ≠ leField r.bytes 0x18 4) → (leField r.bytes 0x20 8 = 0 ∨ s1.flagOk sl none (leField r.bytes 0x20 8) = true) →
    s1.connCount sl < s1.quota sl 9 → (bit fl 3 = true → smCount s1.tmt.conns (fun x => x.pinned && x.die == die) < 1024) → s1.ctxSlot sl region = some (b, isNew) →
    smLowestFree s1.tmt.conns (fun _ => true) 0 65536 = some c →
    ∃ (u : State) (x : Conn), exec (.openConn die region) s = .next (u.setupDone (some r.sq) 0x10 (leField r.bytes 0x30 8) c .ok (c + x.incarn * 65536)) ∧
      u.conn c = some x ∧ x.state = 1 ∧ x.slice = sl ∧ x.die = die ∧ x.port = leField r.bytes 2 1 ∧ x.flags = fl ∧ x.payload = 1024 * 2 ^ pay ∧ x.backing = b ∧
      x.cached = true ∧ x.incarn = (match smGet s1.tmt.incarns c with | some i => (i + 1) % 65536 | none => 0) ∧
      (bit fl 2 = true → txs ∈ (u.keySlot key).salts)) ∧
  (∀ (s s1 : State) (die region : Nat) (r : SetupReq), s.takeSetupReq die 0x10 = some (r, s1) →
    ((32 ≤ leField r.bytes 1 1 ∨ s1.portPresent die (leField r.bytes 2 1) = false ∨ 3 < leField r.bytes 3 1) →
      exec (.openConn die region) s = .next (s1.setupDone (some r.sq) 0x10 (leField r.bytes 0x30 8) 0 .badDescriptor 0))) ∧
  (∀ (s s1 : State) (die c : Nat) (r : SetupReq) (x : Conn), s.takeSetupReq die 0x11 = some (r, s1) → c = leField r.bytes 4 4 → s1.conn c = some x →
    (x.state = 1 → x.slice = r.sq / 256 → x.die = die → x.cached = true → x.canSeal 1 →
      ∃ (t : State) (y : Conn), exec (.bindConn die) s = .next t ∧ t.conn c = some y ∧ y.state = 2 ∧ y.peerConn = leField r.bytes 0xA 2 ∧
        y.peerIncarn = leField r.bytes 8 2 ∧ y.peerIp = beVal ((r.bytes.drop 0x10).take 16) ∧ y.nextHop = beVal ((r.bytes.drop 0x20).take 6) ∧ y.nextPsn = 1 ∧
        y.ccCtl = s1.rget TMT_CC_CTL die ∧ y.ackCtl = s1.rget TMT_ACK_CTL die ∧ y.rtoCtl = s1.rget TMT_RTO_CTL die ∧ y.retryCtl = s1.rget TMT_RETRY_CTL die ∧
        y.cwnd = getBits (s1.rget TMT_CC_CTL die) 28 16 * 256 ∧ y.probing = some (r.sq, leField r.bytes 0x30 8) ∧ y.stateTick = s1.pw.onTicks ∧ t.mem = s1.mem) ∧
    (x.state ≠ 1 → exec (.bindConn die) s = .next (s1.setupDone (some r.sq) 0x11 (leField r.bytes 0x30 8) (c % 65536) .badHandle 0))) ∧
  (∀ (s : State) (c now : Nat) (x : Conn), s.conn c = some x → x.state = 2 → x.cached = true → x.canSeal 1 → s.atNow now = true →
    (∀ p ∈ x.pkts, p.sentAt + 1000000 * s.fget TMT_SETUP_CTL_PROBE_MS x.die ≤ now) →
    ∃ (t : State) (y : Conn), exec (.probeSend c now) s = .next t ∧ t.conn c = some y ∧ y.state = 2 ∧
      y.pkts = x.pkts.map (fun p => { p with times := p.times + 1, sentAt := now }) ∧ t.mem = s.mem) ∧
  (∀ (s : State) (c sq id : Nat) (x : Conn), s.conn c = some x → x.state = 2 → x.probing = some (sq, id) → sq < 65536 →
    100000 * s.fget TMT_SETUP_CTL_SETUP_S x.die ≤ s.pw.onTicks - x.stateTick →
    exec (.probeTimeout c) s = .next ((s.setConn c { x with state := 1, pkts := [], probing := none }).setupDone (some sq) 0x11 id c .setupTimeout 0)) ∧
  (∀ (s s1 : State) (die c : Nat) (r : SetupReq) (x : Conn), s.takeSetupReq die 0x12 = some (r, s1) → c = leField r.bytes 4 4 → s1.conn c = some x → x.slice = r.sq / 256 →
    x.die = die → x.state = 3 → x.probing = none → r.sq < 65536 →
    (x.reqs ≠ [] → ∃ (t : State) (y : Conn), exec (.close die) s = .next t ∧ t.conn c = some y ∧ y.state = 5 ∧
      y.closing = some (r.sq, leField r.bytes 0x30 8) ∧ (bit (leField r.bytes 1 1) 0 = false → y.reqs = x.reqs ∧ y.pkts = x.pkts) ∧
      (bit (leField r.bytes 1 1) 0 = true → y.reqs = endReqs .connBroken x.reqs ∧ y.pkts = []) ∧ t.mem = s1.mem) ∧
    (x.reqs = [] → ∃ u : State, exec (.close die) s = .next (u.setupDone (some r.sq) 0x12 (leField r.bytes 0x30 8) c .ok 0) ∧ u.conn c = none)) ∧
  (∀ (s : State) (c : Nat) (x : Conn), s.conn c = some x → x.state = 5 →
    100 * s.fget TMT_CLOSE_CTL_CLOSE_MS x.die ≤ s.pw.onTicks - x.stateTick →
    (x.reqs ≠ [] → exec (.closeTimeout c) s = .next (s.setConn c { x with reqs := endReqs .connBroken x.reqs, pkts := [] })) ∧
    (x.reqs = [] → x.closing = none → ∃ t : State, exec (.closeTimeout c) s = .next t ∧ t.conn c = none)) ∧
  (∀ (s v : State) (c : Nat) (got : HostData) (x z : Conn), s.conn c = some x → x.cached = false → x.hostCtx = false → s.cachedOn x.die < 4096 →
    (s.tmt.fetch.contains c || s.ctxNeeded c x.die) = true →
    v = (s.busRead (ctxAddr x.backing) 1024).state → v.conn c = some z →
    ((s.busRead (ctxAddr x.backing) 1024).bytes = some x.copy → ∃ (t : State) (y : Conn), exec (.contextFetch c got) s = .next t ∧ t.conn c = some y ∧ y.cached = true ∧
      t.tmt.rx = v.tmt.rx ++ v.tmt.miss.filter (fun k => k.conn == c) ∧ t.tmt.miss = v.tmt.miss.filter (fun k => k.conn != c) ∧ t.mem = v.mem) ∧
    ((s.busRead (ctxAddr x.backing) 1024).bytes ≠ some x.copy → z.probing = none → x.die ≤ 1 → ∃ (t : State) (y : Conn), exec (.contextFetch c got) s = .next t ∧
      t.conn c = some y ∧ y.state = 4 ∧ t.fget TMT_CTX_ERR_CTX_FAULT x.die = 1 ∧ t.mem = v.mem))

/-- R466, R501 to R505: TMT regions and queues. Region keys are registered, revoked and freed, an index that has used its epochs
retires; TMT queues are created and destroyed. -/
def Obligations.TmtRegionsAndQueuesAreMade : Prop :=
  (∀ (s s1 : State) (die sl perm rc addr len port k : Nat) (lhost : Bool) (r : SetupReq), s.takeSetupReq die 0x13 = some (r, s1) → sl = r.sq / 256 →
    perm = leField r.bytes 2 1 → rc = leField r.bytes 4 4 → addr = leField r.bytes 8 8 → len = leField r.bytes 0x10 8 → lhost = bit (leField r.bytes 1 1) 2 →
    port = s1.setupPort r.sq →
    (0 < perm → perm ≤ 7 → ¬(bit perm 2 = true ∧ lhost = true) → (rc = 0xFFFFFFFF ∨ ∃ x, s1.conn rc = some x ∧ x.slice = sl) → 0 < len → len ≤ 2 ^ 40 →
      (leField r.bytes 1 1 = 0 ∨ leField r.bytes 1 1 = 4) → s1.mrRangeErr sl perm lhost port addr len = none → s1.mrCount (· == sl) < 1024 → s1.freeIndexMr = some k →
      ∃ (u : State) (m : Region), exec (.mrReg die) s = .next (u.setupDone (some r.sq) 0x13 (leField r.bytes 0x30 8) 0 .ok (m.epoch * 2 ^ 24 + k)) ∧
        smGet u.tmt.mrs k = some m ∧ m.valid = true ∧ m.slice = sl ∧ m.perm = perm ∧ m.rconn = rc ∧ m.lhost = lhost ∧ m.addr = addr ∧ m.len = len ∧
        m.epoch = (match smGet s1.tmt.mrs k with | some q => q.epoch + 1 | none => 0) ∧ u = { s1 with tmt := u.tmt }) ∧
    ((perm = 0 ∨ 7 < perm ∨ len = 0 ∨ 2 ^ 40 < len ∨ (bit perm 2 = true ∧ lhost = true)) →
      exec (.mrReg die) s = .next (s1.setupDone (some r.sq) 0x13 (leField r.bytes 0x30 8) 0 .badDescriptor 0))) ∧
  (∀ (s s1 : State) (die key k : Nat) (r : SetupReq) (m : Region), s.takeSetupReq die 0x14 = some (r, s1) → key = leField r.bytes 4 4 → k = key % 2 ^ 24 →
    smGet s1.tmt.mrs k = some m →
    (m.valid = true → m.slice = r.sq / 256 → m.epoch = key / 2 ^ 24 → ∃ (t : State) (v : Revoke), exec (.mrRevoke die) s = .next t ∧
      smGet t.tmt.mrs k = some { m with epoch := m.epoch + 1 } ∧ t.tmt.revokes = s1.tmt.revokes ++ [v] ∧ v.index = k ∧ v.epoch = m.epoch ∧
      (bit (leField r.bytes 1 1) 0 = true → v.free = true) ∧ t = { s1 with tmt := t.tmt }) ∧
    (m.epoch ≠ key / 2 ^ 24 → exec (.mrRevoke die) s = .next (s1.setupDone (some r.sq) 0x14 (leField r.bytes 0x30 8) 0 .badHandle 0))) ∧
  (∀ (s : State) (k : Nat) (v : Revoke) (m : Region), s.tmt.revokes.find? (fun v => v.index == k) = some v → smGet s.tmt.mrs k = some m →
    (s.keyHeld (v.epoch * 2 ^ 24 + k) = true → exec (.revokeComplete k) s = .next s) ∧
    (s.keyHeld (v.epoch * 2 ^ 24 + k) = false → v.issued = false → m.lhost = false → s.hrc.fences = [] → v.free = true → ∃ (u : State) (w : Region),
      exec (.revokeComplete k) s = .next (u.setupDone v.sq 0x14 v.reqId 0 .ok 0) ∧ u.tmt.revokes = s.tmt.revokes.erase v ∧ smGet u.tmt.mrs k = some w ∧
      w.valid = false ∧ (255 ≤ m.epoch → w.retired = true) ∧ u.mem = s.mem) ∧
    (s.keyHeld (v.epoch * 2 ^ 24 + k) = false → v.issued = false → m.lhost = false → s.hrc.fences = [] → v.free = false → ∃ u : State,
      exec (.revokeComplete k) s = .next (u.setupDone v.sq 0x14 v.reqId 0 .ok (m.epoch * 2 ^ 24 + k)) ∧ u.tmt.revokes = s.tmt.revokes.erase v ∧
      u.tmt.mrs = s.tmt.mrs ∧ u.mem = s.mem)) ∧
  (∀ (s : State) (ch die ring size vec cq sl n : Nat), s.serves ch 0x48 [] .bound true = true → sl = s.servedSlice ch 0 → die ≤ 1 → isPow2 size = true → 64 ≤ size → size ≤ 65536 →
    vec ≤ 511 →
    (ring % 32 = 0 → s.ownsStack sl ring (32 * size) = true → (s.tmt.cqs.filter (fun e => e.1 / 256 == sl)).length < 256 → s.tmt.cqs.length < 4096 →
      freeIndex ((s.tmt.cqs.filter (fun e => e.1 / 256 == sl)).map (fun e => e.1 % 256)) 0 256 = some n →
      ∃ (u : State) (q : TmtCq), exec (.tmtqCreate ch .ok 1 die none ring size vec cq) s = .next (u.ack ch .ok 0 [n]) ∧ smGet u.tmt.cqs (sl * 256 + n) = some q ∧
        q.slice = sl ∧ q.port = none ∧ q.ring = ring ∧ q.size = size ∧ q.vec = vec ∧ q.head = 0 ∧ q.written = 0 ∧ q.err = false ∧ u = { s.takeUp ch with tmt := u.tmt }) ∧
    (∀ kind, (kind = 0 ∨ kind = 2) → ring % 64 = 0 → s.ownsStack sl ring (64 * size) = true → cq ≤ 255 → (smGet s.tmt.cqs (sl * 256 + cq)).isSome = true →
      (s.tmt.sqs.filter (fun e => e.1 / 256 == sl)).length < 256 → s.tmt.sqs.length < 4096 →
      freeIndex ((s.tmt.sqs.filter (fun e => e.1 / 256 == sl)).map (fun e => e.1 % 256)) 0 256 = some n →
      ∃ (u : State) (q : TmtSq), exec (.tmtqCreate ch .ok kind die none ring size vec cq) s = .next (u.ack ch .ok 0 [n]) ∧ smGet u.tmt.sqs (sl * 256 + n) = some q ∧
        q.slice = sl ∧ q.die = die ∧ q.setup = (kind == 2) ∧ q.ring = ring ∧ q.size = size ∧ q.cq = cq ∧ q.head = 0 ∧ q.tail = 0 ∧ q.err = false ∧
        u = { s.takeUp ch with tmt := u.tmt })) ∧
  (∀ (s : State) (ch q sl : Nat), s.serves ch 0x49 [(1, q)] .bound false = true → sl = s.servedSlice ch 0 → q ≤ 255 →
    ((smGet s.tmt.cqs (sl * 256 + q)).isSome = true → (∀ e ∈ s.tmt.sqs, ¬(e.2.slice = sl ∧ e.2.cq = q)) → (∀ e ∈ s.tmt.conns, ¬(e.2.slice = sl ∧ e.2.tcq = q)) →
      ∃ u : State, exec (.tmtqDestroy ch 1 q) s = .next (u.ack ch .ok 0 []) ∧ smGet u.tmt.cqs (sl * 256 + q) = none ∧ u = { s.takeUp ch with tmt := u.tmt }) ∧
    ((smGet s.tmt.sqs (sl * 256 + q)).isSome = true → (∀ e ∈ s.tmt.conns, ∀ r ∈ e.2.reqs, r.origin ≠ .sq (sl * 256 + q)) →
      ∃ u : State, exec (.tmtqDestroy ch 0 q) s = .next (u.ack ch .ok 0 []) ∧ smGet u.tmt.sqs (sl * 256 + q) = none ∧ u = { s.takeUp ch with tmt := u.tmt }))

/-- R509 to R512, R514 to R518, R520, R521: key slots and cipher requests. A slot is allocated, loaded from a block that is zeroed,
drained, erased and faulted; a request that passes its checks joins the least loaded engine, one that fails only reports; a
finished one writes its output and then its record. -/
def Obligations.CipherEnginesUseKeySlots : Prop :=
  (∀ (s : State) (ch k sl : Nat), s.serves ch 0x4C [] .bound false = true → sl = s.servedSlice ch 0 → s.keysHeld sl < s.quota sl 12 →
    smLowestFree s.cph.slots (fun e => e.state != 0) 0 1024 = some k →
    ∃ u : State, exec (.keyAlloc ch) s = .next (u.ack ch .ok 0 [k]) ∧ u.keySlot k = { s.keySlot k with state := 1, slice := sl } ∧ (∀ j, j ≠ k → u.keySlot j = s.keySlot j) ∧
      u = { s.takeUp ch with cph := u.cph }) ∧
  (∀ (s : State) (ch sl : Nat), s.serves ch 0x4C [] .bound false = true → sl = s.servedSlice ch 0 → s.quota sl 12 ≤ s.keysHeld sl →
    exec (.keyAlloc ch) s = .next ((s.takeUp ch).ack ch .quotaExceeded 0 [])) ∧
  (∀ (s s1 : State) (ch slot addr sl : Nat) (e : KeySlot) (bs : List Byte), s.serves ch 0x4D [(1, slot), (2, addr % 2 ^ 32), (3, addr / 2 ^ 32)] .bound false = true → sl = s.servedSlice ch 0 → s.ownSlot sl slot = some e →
    e.state = 1 → addr % 64 = 0 → ((s.takeUp ch).wakeDomain .portfolio).readBlock sl addr 64 = .ok (s1, bs) →
    (keyBlockOk bs = true → ∃ u : State, exec (.keyLoad ch slot addr) s = .next (u.ack ch .ok 0 [slot]) ∧ u.mem = (s1.busWrite addr (leBytes 64 0)).mem ∧
      u.keySlot slot = { e with state := 2, klen := leField bs 32 1, usage := leField bs 33 1, key := bs.take (if leField bs 32 1 = 0 then 16 else 32), salts := [] }) ∧
    (keyBlockOk bs = false → ∃ u : State, exec (.keyLoad ch slot addr) s = .next (u.ack ch .badDescriptor 2 []) ∧ u.mem = (s1.busWrite addr (leBytes 64 0)).mem ∧
      u.fget CPH_ERR_STATUS_LOAD_REJECT = 1)) ∧
  (∀ (s : State) (ch slot sl : Nat) (i : Instr) (free : Bool), (i, free) ∈ [(Instr.keyErase ch slot, false), (.keyFree ch slot, true)] → s.serves ch (if free then 0x4F else 0x4E) [(1, slot)] .bound false = true →
    sl = s.servedSlice ch 0 →
    (s.ownSlot sl slot = none → exec i s = .next ((s.takeUp ch).ack ch .badHandle 1 [])) ∧
    (∀ e, s.ownSlot sl slot = some e → e.state = 1 → ∃ u : State, exec i s = .next (u.ack ch .ok 0 [slot]) ∧ (u.keySlot slot).state = (if free then 0 else 1) ∧ u.mem = s.mem) ∧
    (∀ e, s.ownSlot sl slot = some e → e.state = 2 → s.slotInUse slot = true → exec i s = .next ((s.takeUp ch).ack ch .busy 1 [])) ∧
    (∀ e, s.ownSlot sl slot = some e → e.state = 2 → s.slotInUse slot = false → ∃ t : State, exec i s = .next t ∧
      t.keySlot slot = { e with state := 3, drainCh := ch, toFree := free } ∧ t.mem = s.mem) ∧
    (∀ e, s.ownSlot sl slot = some e → e.state = 4 → s.slotInUse slot = false → ∃ u : State, exec i s = .next (u.ack ch .ok 0 [slot]) ∧
      (u.keySlot slot).state = (if free then 0 else 1) ∧ (u.keySlot slot).key = [] ∧ (u.keySlot slot).salts = [] ∧ u.mem = s.mem)) ∧
  (∀ (s : State) (slot : Nat), (s.keySlot slot).state = 3 →
    ((∀ r ∈ s.cph.reqs, r.slot ≠ slot) → (s.keySlot slot).drainCh < 320 → ∃ u : State, exec (.keyDrainComplete slot) s = .next (u.ack (s.keySlot slot).drainCh .ok 0 [slot]) ∧
      (u.keySlot slot).state = (if (s.keySlot slot).toFree then 0 else 1) ∧ (u.keySlot slot).key = [] ∧ (u.keySlot slot).salts = [] ∧ u = { s with cph := u.cph }) ∧
    ((∃ r ∈ s.cph.reqs, r.slot = slot) → exec (.keyDrainComplete slot) s = .next s)) ∧
  (∀ (s : State) (slot copy : Nat), (s.keySlot slot).state = 2 → copy ≤ 2 → (∀ c ∈ s.tmt.conns, c.2.probing = none) →
    ∃ t : State, exec (.keySlotUe slot copy) s = .next t ∧ (t.keySlot slot).state = 4 ∧ t.mem = s.mem ∧
      (copy = 0 → t.fget CPH_ERR_STATUS_KEY_UE = 1) ∧ (0 < copy → t.fget CPH_INL_ERR_KEY_UE (copy - 1) = 1) ∧ (∀ r ∈ t.cph.reqs, r.slot = slot → r.fault ≠ none) ∧
      (∀ c x, s.conn c = some x → x.enc = true → x.key = slot → ∃ y, t.conn c = some y ∧ y.state = 4)) ∧
  (∀ (s s1 s2 s3 s4 : State) (sl q el mode e : Nat) (dec : Bool) (src aad param par ad data : HostData) (i : Instr) (w : Wq) (d : List Byte),
    (i, mode, dec) ∈ [(Instr.cbcEncrypt sl q src aad param el, 0, false), (.cbcDecrypt sl q src aad param el, 0, true), (.ctrEncrypt sl q src aad param el, 1, false),
      (.ctrDecrypt sl q src aad param el, 1, true), (.cfb128Encrypt sl q src aad param el, 2, false), (.cfb128Decrypt sl q src aad param el, 2, true),
      (.ofbEncrypt sl q src aad param el, 3, false), (.ofbDecrypt sl q src aad param el, 3, true), (.gcmEncrypt sl q src aad param el, 4, false),
      (.gcmDecrypt sl q src aad param el, 4, true), (.cmac sl q src aad param el, 5, false)] →
    (s.frontSlot sl q 0x30 2).2 = some (w, d) → cMode d = mode → (mode ≠ 5 → cDecrypt d = dec) → s1 = ((s.wakeDomain .portfolio).popSlot w).1 →
    (cipherFieldsOk d = false → exec i s = .next (s1.cipherBare w.port sl q d .badDescriptor el)) ∧
    (∀ st, cipherFieldsOk d = true → s.cipherKeyErr sl d = some st → exec i s = .next (s1.cipherBare w.port sl q d st el)) ∧
    (∀ st, cipherFieldsOk d = true → s.cipherKeyErr sl d = none → s.cipherRangeErr w.port sl d = some st → exec i s = .next (s1.cipherBare w.port sl q d st el)) ∧
    (cipherFieldsOk d = true → s.cipherKeyErr sl d = none → s.cipherRangeErr w.port sl d = none → s.pickEngine = none → exec i s = .next s) ∧
    (cipherFieldsOk d = true → s.cipherKeyErr sl d = none → s.cipherRangeErr w.port sl d = none → s.pickEngine = some e →
      (∀ st, s.hostWay sl w.port (leField d 0x30 8) 64 true ≠ .bad st) → s1.cipherRead w.port sl (cFlag d 1) (leField d 0x28 8) 32 param = (s2, par) →
      s2.cipherRead w.port sl (cFlag d 3) (leField d 0x20 8) (leField d 0xC 4) aad = (s3, ad) →
      s3.cipherRead w.port sl (cFlag d 1) (leField d 0x10 8) (leField d 8 4) src = (s4, data) →
      shortRead 32 par = false → shortRead (leField d 0xC 4) ad = false → shortRead (leField d 8 4) data = false →
      ∃ (t : State) (r : CipherReq), exec i s = .next t ∧ t.cph.reqs = s4.cph.reqs ++ [r] ∧ r.engine = e ∧ r.slice = sl ∧ r.gen = s.curGen sl ∧ r.port = w.port ∧
        r.queue = q ∧ r.desc = d ∧ r.src = (data.1, data.2.take (leField d 8 4)) ∧ r.aad = (ad.1, ad.2.take (leField d 0xC 4)) ∧ r.param = (par.1, par.2.take 32) ∧
        r.fault = none ∧ t.cph.slots = s4.cph.slots ∧ t.mem = s4.mem)) ∧
  (∀ (s : State) (e : Nat), s.pickEngine = some e → e < 4 ∧ bit (s.fget CPH_CTL_ENG_EN) e = true ∧ s.engineLoad e < 256 ∧
    (∀ f, f < 4 → bit (s.fget CPH_CTL_ENG_EN) f = true → s.engineLoad e ≤ s.engineLoad f)) ∧
  (∀ (s s1 : State) (i el : Nat) (r : CipherReq), s.cph.reqs[i]? = some r → ((s.cph.reqs.take i).filter (fun x => x.engine == r.engine)).length < 64 →
    s.finishCipher r el = some s1 → ∃ t : State, exec (.cipherRequestComplete i el) s = .next t ∧ t.cph.reqs = s1.cph.reqs.eraseIdx i ∧ t = { s1 with cph := t.cph }) ∧
  (∀ (s s1 : State) (r : CipherReq) (e : CipherEnd) (el info : Nat), e = s.cipherEnd r → s.cipherOutErr r = none → cFlag r.desc 2 = true → r.gen = s.curGen r.slice →
    info = (if e.zeroed then 1 else 0) + (if cMode r.desc ≥ 1 ∧ cMode r.desc ≤ 3 ∧ leField r.desc 8 4 % 16 ≠ 0 then 2 else 0) →
    s.deliverOut r.port r.slice r.gen r.queue (leField r.desc 0x3C 4) e.status
      [⟨r.cplPasid, leField r.desc 0x30 8, false, cipherRecord (leField r.desc 0x3C 4) e.status info r.engine e.bytes el e.out⟩] = some s1 →
    ∃ t : State, s.finishCipher r el = some t ∧
      t.mem = ((e.writes.filter (fun b => !b.isEmpty)).foldl (fun u b => u.busWrite (leField r.desc 0x18 8) b) s1).mem) ∧
  (∀ (s : State) (r : CipherReq) (outs tag : List Byte), r.fault = none → r.param.1 = .ok → r.aad.1 = .ok → r.src.1 = .ok →
    cipherRun (roundKeys (s.keySlot r.slot).key) (cMode r.desc) (cDecrypt r.desc) r.param.2 r.aad.2 (leField r.desc 3 1) r.src.2 = (outs, tag) →
    (cFlag r.desc 5 = false → s.cipherEnd r = ⟨.ok, false, [outs], outs.length, tag⟩) ∧
    (cFlag r.desc 5 = true → tag = (r.param.2.drop 16).take (leField r.desc 3 1) → s.cipherEnd r = ⟨.ok, false, [outs], outs.length, tag⟩) ∧
    (cFlag r.desc 5 = true → tag ≠ (r.param.2.drop 16).take (leField r.desc 3 1) → cMode r.desc = 4 →
      s.cipherEnd r = ⟨.authFailed, true, [outs, leBytes outs.length 0], 0, []⟩))

/-- R528, R532 to R538, R541: Varnish steps. Protection, requests for a step and their hold, the cut with its manifest, each shard's
copy or loss, and the end or failure of a step. -/
def Obligations.VarnishStepsAreCutAndCopied : Prop :=
  (∀ (s : State) (ch handle sl : Nat) (t : Table), sl = s.servedSlice ch (handle / 2 ^ 26) → smGet s.tbl handle = some t → t.slice = sl →
    t.dying = none → (s.vrn.step.any (fun t => t.phase == 2)) = false →
    (s.serves ch 0x60 [(1, handle), (2, 1)] .bound false = true → s.shards.length + ((s.shardKeys handle).filter (fun k => (smGet s.shards k).isNone)).length ≤ 2097152 → handle ∉ s.vrn.prot →
      ∃ u : State, exec (.vrnProtect ch handle true) s = .next (u.ack ch .ok 0 []) ∧ u.vrn.prot = s.vrn.prot ++ [handle] ∧
        (∀ k ∈ s.shardKeys handle, smGet u.shards k = some true) ∧ u.mem = s.mem) ∧
    (s.serves ch 0x60 [(1, handle), (2, 0)] .bound false = true → ∃ u : State, exec (.vrnProtect ch handle false) s = .next (u.ack ch .ok 0 []) ∧ u.vrn.prot = s.vrn.prot.erase handle ∧ u.mem = s.mem)) ∧
  (∀ (s : State) (ch handle sl : Nat) (on : Bool) (t : Table), s.serves ch 0x60 [(1, handle), (2, if on then 1 else 0)] .bound false = true → sl = s.servedSlice ch (handle / 2 ^ 26) → smGet s.tbl handle = some t →
    t.slice = sl → t.dying = none → (s.vrn.step.any (fun t => t.phase == 2)) = true →
    s.shards.length + ((s.shardKeys handle).filter (fun k => (smGet s.shards k).isNone)).length ≤ 2097152 →
    ∃ u : State, exec (.vrnProtect ch handle on) s = .next (u.ack ch .ok 0 []) ∧ u.vrn.queued = s.vrn.queued ++ [(handle, on)] ∧ u.vrn.prot = s.vrn.prot ∧ u.shards = s.shards) ∧
  (∀ (s : State) (ch n : Nat), n = s.rget VRN_STEP_CUR + 1 →
    (s.serves ch 0x61 [] .secure false = true → s.vrnAble 1 = false → exec (.vrnStep ch) s = .next ((s.takeUp ch).ack ch .noBuddy 0 [])) ∧
    (s.serves ch 0x64 [] .secure false = true → s.vrnAble 2 = false → exec (.vrnDrain ch) s = .next ((s.takeUp ch).ack ch .noBuddy 0 [])) ∧
    (s.serves ch 0x61 [] .secure false = true → s.vrnAble 1 = true → s.vrnIdle = true → (s.takeUp ch).holdCause = 0 → ∃ (u : State) (t : VStep), exec (.vrnStep ch) s = .next (u.ack ch .ok 0 [n]) ∧ u.vrn.step = some t ∧
      t.kind = 1 ∧ t.num = n % 2 ^ 32 ∧ t.phase = 0 ∧ t.chs = [] ∧ u.rget VRN_STEP_CUR = n % 2 ^ 32 ∧ u.mem = s.mem) ∧
    (s.serves ch 0x61 [] .secure false = true → s.vrnAble 1 = true → s.vrnIdle = true → (s.takeUp ch).holdCause ≠ 0 → ∃ (u : State) (t : VStep), exec (.vrnStep ch) s = .next (u.ack ch .ok 0 [n]) ∧ u.vrn.step = some t ∧
      t.phase = 1 ∧ t.cause = (s.takeUp ch).holdCause ∧ u.fget VRN_ERR_STATUS_STEP_HELD = 1 ∧ u.mem = s.mem) ∧
    (s.serves ch 0x61 [] .secure false = true → s.vrnAble 1 = true → s.vrnIdle = false → ∃ (u : State) (k : Nat), exec (.vrnStep ch) s = .next (u.ack ch .ok 0 [k]) ∧ u.vrn.reqs = addReq 1 [] s.vrn.reqs ∧
      u.vrn.step = s.vrn.step ∧ n ≤ k ∧ u.mem = s.mem) ∧
    (s.serves ch 0x64 [] .secure false = true → s.vrnAble 2 = true → s.vrnIdle = true → (s.takeUp ch).holdCause = 0 → ∃ (t : State) (x : VStep), exec (.vrnDrain ch) s = .next t ∧ t.vrn.step = some x ∧ x.kind = 2 ∧
      x.phase = 0 ∧ x.chs = [ch] ∧ t.mem = s.mem)) ∧
  (∀ s : State,
    (s.fon VRN_CTL_EN = true → s.fget VRN_CTL_PERIOD_MS ≠ 0 → 100 * s.fget VRN_CTL_PERIOD_MS ≤ s.pw.onTicks - s.vrn.started → s.vrnAble 1 = true → s.vrnIdle = true → s.holdCause = 0 →
      ∃ (t : State) (x : VStep), exec .stepPeriodExpiry s = .next t ∧ t.vrn.step = some x ∧ x.kind = 1 ∧ x.phase = 0 ∧ t.vrn.started = s.pw.onTicks ∧ t.mem = s.mem) ∧
    ((s.fon VRN_CTL_EN = false ∨ s.fget VRN_CTL_PERIOD_MS = 0) → exec .stepPeriodExpiry s = .next s)) ∧
  (∀ (s : State) (x : VStep), s.vrn.step = some x →
    (x.phase = 1 → 1000 ≤ s.pw.calm → s.running = true → s.emergency = false → s.holdCause = 0 → ∃ (t : State) (y : VStep), exec .heldStepRelease s = .next t ∧
      t.vrn.step = some y ∧ y.kind = x.kind ∧ y.chs = x.chs ∧ y.phase = 0 ∧ y.num = (s.rget VRN_STEP_CUR + 1) % 2 ^ 32 ∧ t.mem = s.mem) ∧
    (x.phase = 1 → s.pw.calm < 1000 → exec .heldStepRelease s = .next s) ∧
    (x.phase = 0 → s.holdCause = 0 → exec .checkpointStep s = .next (s.setStep { x with phase := 2, prot := s.vrn.prot })) ∧
    (x.phase = 0 → s.holdCause ≠ 0 → s.vrn.queued = [] → ∃ (u : State) (y : VStep), exec .checkpointStep s = .next u.endTables.endSeqs ∧ u.vrn.step = some y ∧ y.kind = x.kind ∧
      y.chs = x.chs ∧ y.phase = 1 ∧ y.cause = s.holdCause ∧ u.fget VRN_ERR_STATUS_STEP_HELD = 1 ∧ u.rget VRN_STEP_CUR = (x.num - 1) % 2 ^ 32 ∧ u.mem = s.mem)) ∧
  (∀ (s : State) (x : VStep) (locs live copy sizes : List Nat) (recs : List HRec), s.vrn.step = some x → x.phase = 2 → x.kind = 1 → s.holdCause = 0 →
    s.cutWaits x.prot = false →
    live = (s.shards.filter (fun p => s.isProtected x.prot (p.1 / 2 ^ 32) && decide (0 < s.shardBytes (p.1 / 2 ^ 32) (p.1 % 2 ^ 32)))).map (·.1) →
    copy = live.filter (fun k => smGetD s.shards k true || (match s.copyEntry (k / 2 ^ 32) (k % 2 ^ 32) with
      | some e => e.bytes != s.shardBytes (k / 2 ^ 32) (k % 2 ^ 32) | none => true)) →
    sizes = copy.map (fun k => s.shardBytes (k / 2 ^ 32) (k % 2 ^ 32)) → recs = s.cutRecords x.prot →
    (s.poolFree < (sizes.map unitsOf).sum → s.vrn.queued = [] → ∃ t : State, exec (.stepCutEnd locs) s = .next t ∧ t.vrn.step = some { x with phase := 3, verdict := .buddyFull } ∧
      t.shards = s.shards ∧ t.mem = s.mem) ∧
    ((sizes.map unitsOf).sum ≤ s.poolFree → bodyLen recs (live.map (s.cutEntry x.num [])) + 64 ≤ manifestArea → locs.length = copy.length →
      rangesOk s.poolUnits s.vrn.held (locs.zip (sizes.map unitsOf)) = true → s.vrn.queued = [] →
      ∃ u : State, exec (.stepCutEnd locs) s = .next u.vrnAdvance ∧ u.vrn.step = some { x with
        phase := 3, ents := live.map (s.cutEntry x.num (copy.zip locs)), recs := recs, cutTime := s.pmu.ns, todo := copy, cleared := copy } ∧
        u.shards = smMap s.shards (fun k m => if copy.contains k then false else m) ∧ u.mem = s.mem)) ∧
  (∀ (s s1 : State) (h un : Nat) (tier : HostData) (x : VStep) (e : MEnt), s.vrn.step = some x → x.phase = 3 → x.verdict = .ok →
    s.shardNext x h un = true →
    x.ents.find? (fun e => e.handle == h && e.unit == un && x.todo.contains (runKey h un)) = some e →
    (∀ (s2 : State) (y : VStep) (bs : List Byte), s.readShard h un e.bytes tier = (s1, some bs) →
      s1.vrnWrite x (sourceAt (x.kind == 2) (s1.stepTarget x).2.2.1 (s1.stepTarget x).2.2.2 (x.num % 2) e.loc) bs = some (s2, y) →
      ∃ u : State, exec (.shardCopied h un tier) s = .next u.vrnAdvance.endTables.endSeqs ∧ u.mem = s2.mem ∧ u.vrn.step = some { y with
        todo := y.todo.erase (runKey h un), ents := y.ents.map (fun z => if z.handle = h ∧ z.unit = un then { e with digest := sha256 bs } else z) }) ∧
    (s.readShard h un e.bytes tier = (s1, none) → ∃ u : State, exec (.shardCopied h un tier) s = .next u.vrnAdvance.endTables.endSeqs ∧ u.fget VRN_ERR_STATUS_SHARD_LOST = 1 ∧
      u.vrn.step = some { x with todo := x.todo.erase (runKey h un), ents := x.ents.map (fun z => if z.handle = h ∧ z.unit = un then { e with lost := true } else z) })) ∧
  (∀ (s : State) (x : VStep), s.vrnAdvance.vrn.step = some x → x.phase = 6 → x.verdict = .ok → x.num < 2 ^ 32 →
    (x.kind = 1 → ∃ u : State, exec .stepComplete s = .next (u.endStep x .ok) ∧ u.vrn.ents = x.ents ∧ u.vrn.prev = x.num ∧ u.rget VRN_STEP_DONE = x.num ∧
      u.vrn.held = (x.ents.filter (fun e => !e.lost)).map (fun e => (e.loc, unitsOf e.bytes)) ∧ u.mem = s.vrnAdvance.mem) ∧
    (x.kind = 2 → ∃ u : State, exec .stepComplete s = .next (u.endStep x .ok) ∧ u.rget VRN_PERSIST_DONE = x.num ∧ u = { s.vrnAdvance with regs := u.regs })) ∧
  (∀ (u : State) (x : VStep) (st : Status), u.vrn.reqs = [] → (u.endStep x st).vrn.step = none) ∧
  (∀ (s : State) (x : VStep), s.vrn.step = some x → s.vrn.queued = [] →
    (x.verdict ≠ .ok → ∃ u : State, exec .stepFail s = .next (u.endStep x x.verdict) ∧ u.shards = smMap s.shards (fun k m => m || x.cleared.contains k) ∧ u.mem = s.mem ∧
      u.vrn.ents = s.vrn.ents) ∧
    (x.verdict = .ok → s.stepLost x = true → ∃ u : State, exec .stepFail s = .next (u.endStep x .buddyLost) ∧
      u.shards = smMap s.shards (fun k m => m || x.cleared.contains k) ∧ u.mem = s.mem ∧ u.vrn.ents = s.vrn.ents) ∧
    (x.verdict = .ok → s.stepLost x = false → exec .stepFail s = .next s))

/-- R542 to R545, R548, R549: Varnish persistence and restore. The persistent target is set, a restore completes, and one that fails
falls back to the next step. -/
def Obligations.VarnishPersistsAndRestores : Prop :=
  (∀ (s : State) (ch conn rkey roff len : Nat) (x : Conn), s.serves ch 0x63 [] .secure true = true → s.conn conn = some x → x.slice = 64 → 2 * manifestArea + 0x20000 ≤ len →
    (∀ t, s.vrn.step = some t → t.kind ≠ 2) → (∀ r, s.vrn.restore = some r → r.persist = false) →
    ∃ u : State, exec (.vrnPersistSet ch .ok conn rkey roff len) s = .next (u.ack ch .ok 0 []) ∧ u.vrn.target = some (conn, rkey, roff, len) ∧ u = { s.takeUp ch with vrn := u.vrn }) ∧
  (∀ (s : State) (ch sl : Nat), s.serves ch 0x62 [] .secure true = true → s.slLive sl = true →
    (∀ (owner : Nat) (l : Lease), s.vrn.leases.find? (fun l => l.owner == owner && !l.adopted) = some l →
      ((∃ m, smGet s.hrc.members owner = some m ∧ m.state = 2) → s.vrn.step = none → s.vrn.restore = none → ∃ (t : State) (r : VRestore), exec (.adopt ch sl owner) s = .next t ∧
        t.vrn.restore = some r ∧ r.mode = 0 ∧ r.owner = owner ∧ r.serial = l.serial ∧ r.slice = sl ∧ r.ch = ch) ∧
      (smGet s.hrc.members owner = none → exec (.adopt ch sl owner) s = .next ((s.takeUp ch).ack ch .busy 0 []))) ∧
    (s.vrn.buddy ≠ none → s.vrn.step = none → s.vrn.restore = none → ∃ (t : State) (r : VRestore), exec (.pull ch sl) s = .next t ∧ t.vrn.restore = some r ∧ r.mode = 1 ∧
      r.serial = s.moduleSerial ∧ r.slice = sl ∧ r.ch = ch) ∧
    (s.vrn.buddy = none → exec (.pull ch sl) s = .next ((s.takeUp ch).ack ch .noBuddy 0 [])) ∧
    (∀ serial : Nat, s.vrn.target ≠ none → s.vrn.step = none → s.vrn.restore = none → ∃ (t : State) (r : VRestore), exec (.persist ch sl serial) s = .next t ∧ t.vrn.restore = some r ∧
      r.mode = 2 ∧ r.serial = serial ∧ r.slice = sl ∧ r.persist = true ∧ r.ch = ch) ∧
    (∀ serial : Nat, s.vrn.target = none → exec (.persist ch sl serial) s = .next ((s.takeUp ch).ack ch .noCheckpoint 0 []))) ∧
  (∀ (s : State) (r : VRestore) (h b : List Byte) (tabs : List (List SegPlace)) (runs : List UnitPlace) (arrays : List (List Nat)) (extra recs : List Nat),
    s.vrn.restore = some r → r.stage = 4 → s.slotManifest r r.slot = some (h, b) →
    (r.inPlace = false → s.fits r.slice (restoreNeed (entriesOf h b) arrays) = false → exec (.restoreComplete tabs runs arrays extra recs) s =
      .next (s.endRestore r .quotaExceeded (leField h 8 4) ((entriesOf h b).filter (·.lost)).length)) ∧
    (∀ a : Restored, r.inPlace = false → s.fits r.slice (restoreNeed (entriesOf h b) arrays) = true → extra = [] →
      restoreAll r (entriesOf h b) (recordsOf h b) ⟨s, [], 0, tabs, runs, arrays, extra⟩ = some a →
      recs.length = ceilDiv (restoreRecord h a ((entriesOf h b).filter (·.lost)).length).length 0x10000 → recs.all a.s.regionFree = true →
      recs = (List.range recs.length).map (recs.headD 0 + ·) → exec (.restoreComplete tabs runs arrays extra recs) s =
        .next (((a.s.takeRegions r.slice recs).stackWrite (recs.headD 0 * 0x10000) (restoreRecord h a ((entriesOf h b).filter (·.lost)).length)).endRestore r .ok (leField h 8 4)
          (((entriesOf h b).filter (·.lost)).length + a.skipped)))) ∧
  (∀ (s : State) (r : VRestore), s.vrn.restore = some r →
    (r.stage ≠ 3 → exec .restoreFallback s = .next s) ∧
    (r.stage = 3 → r.slots.filter (· != r.slot) = [] → (r.persist = true ∨ s.vrn.target = none) → ∃ (u : State) (q : VRestore),
      exec .restoreFallback s = .next (u.endRestore q .noCheckpoint 0 0) ∧ q.ch = r.ch ∧ u.fget VRN_ERR_STATUS_RESTORE_FALLBACK = 1 ∧ u.mem = s.mem) ∧
    (r.stage = 3 → r.slots.filter (· != r.slot) = [] → r.persist = false → s.vrn.target ≠ none → ∃ (t : State) (q : VRestore), exec .restoreFallback s = .next t ∧
      t.vrn.restore = some q ∧ q.persist = true ∧ q.ch = r.ch ∧ q.slice = r.slice)) ∧
  (∀ (s : State) (r : VRestore) (k : Nat) (h b : List Byte) (tabs : List (List SegPlace)) (runs : List UnitPlace) (arrays : List (List Nat)) (extra recs : List Nat),
    s.vrn.restore = some r → r.stage = 5 → s.vrn.reqs = [] →
    (s.pickSlotOf r = some k → s.slotManifest r k = some (h, b) → ∃ t : State, exec (.restoreComplete tabs runs arrays extra recs) s = .next t ∧ t.vrn.restore = none ∧
      t.rget VRN_STEP_CUR = (max (leField h 8 4) (s.rget VRN_STEP_CUR)) % 2 ^ 32 ∧ t.vrn.prev = leField h 8 4 ∧
      t.vrn.held = ((entriesOf h b).filter (fun e => !e.lost)).map (fun e => (e.loc, unitsOf e.bytes)) ∧ t.mem = s.mem) ∧
    (s.pickSlotOf r = none → exec (.restoreComplete tabs runs arrays extra recs) s = .next (s.setVrn { s.vrn with restore := none })))

/-- R552 to R556, R561 to R568: managers and workers. Jobs are made, joined, stepped, left and dissolved; an isolated device stops
accepting; a deputy takes over; control connections reopen. -/
def Obligations.JobsAreMadeJoinedAndLeft : Prop :=
  (∀ (s : State) (ch job sl port area key : Nat), s.serves ch 0x68 [] .secure true = true →
    (∀ s1 : State, s.inJob = false → 0 < job → job < 2 ^ 32 → (s.takeUp ch).jobSliceErr sl port area = none → (s.takeUp ch).loadJobKeys sl key = .ok s1 →
      ∃ u : State, exec (.jobCreate ch .ok job sl port area key) s = .next (u.ack ch .ok 0 [0]) ∧ u.rget HRC_JOB = job ∧ u.fget HRC_STATUS_STATE = 2 ∧ u.isManager = true ∧
        u.selfNum = 0 ∧ u.hrc.slice = sl ∧ u.hrc.port = port ∧ u.hrc.area = area ∧ u.hrc.members = [] ∧ u = { s1 with regs := u.regs, hrc := u.hrc }) ∧
    (s.inJob = true → exec (.jobCreate ch .ok job sl port area key) s = .next ((s.takeUp ch).ack ch .busy 0 []))) ∧
  (∀ (s s1 : State) (ch job sl port area key num mgr serial : Nat) (deputy : Option Nat) (peers : List CtlPeer), s.serves ch 0x69 [] .secure true = true → s.inJob = false → 0 < job →
    job < 2 ^ 32 → 0 < num → num ≤ 256 → (s.takeUp ch).jobSliceErr sl port area = none → (s.takeUp ch).loadJobKeys sl key = .ok s1 →
    ∃ u v : State, v = (u.openPeers mgr (peers.filter (fun p => p.member == mgr || some p.member == deputy))).getD u ∧
      exec (.jobJoin ch .ok job sl port area key num mgr serial deputy peers) s = .next (v.emit (.order mgr 9 [v.moduleSerial])) ∧ u.rget HRC_JOB = job ∧
      u.fget HRC_STATUS_STATE = 1 ∧ u.fget HRC_STATUS_ROLE = 1 ∧ u.selfNum = num ∧ u.hrc.mgr = mgr ∧ u.hrc.deputy = deputy ∧ u.hrc.joinCh = some ch ∧
      u.hrc.joinTick = s.pw.onTicks ∧ u = { s1 with regs := u.regs, hrc := u.hrc }) ∧
  (∀ (s t1 : State) (ch job sl port area key num mgr serial : Nat) (deputy : Option Nat) (peers : List CtlPeer), s.serves ch 0x69 [] .secure true = true → s.isManager = true →
    320 ≤ ch → s.hrc.issued < 256 → s.livePeers.length < 256 → s.jobBusy = false → num = s.hrc.issued + 1 →
    (s.takeUp ch).openPeers 0 (peers.filter (fun p => p.member == num)) = some t1 → t1.rget HRC_MEPOCH + 1 < 2 ^ 32 →
    ∃ (u : State) (m : Member), exec (.jobJoin ch .ok job sl port area key num mgr serial deputy peers) s = .next (u.ack ch .ok 0 [num]) ∧ u.hrc.issued = num ∧
      smGet u.hrc.members num = some m ∧ m.state = 4 ∧ m.role = 1 ∧ m.serial = serial ∧ u.rget HRC_MEPOCH = t1.rget HRC_MEPOCH + 1 ∧ u.mem = t1.mem) ∧
  (∀ (s : State) (ch : Nat), s.hrc.joinCh = some ch → s.fget HRC_STATUS_STATE = 1 →
    (100000 * s.fget TMT_SETUP_CTL_SETUP_S ≤ s.pw.onTicks - s.hrc.joinTick →
      ∃ u : State, exec .joinAdmissionTimeout s = .next (u.ack ch .setupTimeout 0 []) ∧ u.inJob = false ∧ u.hrc.members = [] ∧ u.vrn.leases = [] ∧ u.vrn.buddy = none) ∧
    (s.pw.onTicks - s.hrc.joinTick < 100000 * s.fget TMT_SETUP_CTL_SETUP_S → exec .joinAdmissionTimeout s = .next s)) ∧
  (∀ (s : State) (ch member : Nat), s.serves ch 0x6A [] .secure false = true →
    (∃ u : State, exec (.jobLeave ch member true) s = .next (u.ack ch .ok 0 [s.selfNum]) ∧ u.inJob = false ∧ u.hrc.members = [] ∧ u.vrn.leases = [] ∧ u.vrn.buddy = none ∧
      u.rget HRC_JOB = 0 ∧ u.rget HRC_MEPOCH = 0 ∧ u.rget HRC_JMAP_EPOCH = 0) ∧
    (s.inJob = false → exec (.jobLeave ch member false) s = .next ((s.takeUp ch).ack ch .notMember 0 [])) ∧
    (s.inJob = true → s.isManager = false → ch < 320 → s.fon HRC_STATUS_SHRINK = false → s.fget HRC_STATUS_STATE ≠ 1 → s.fget HRC_STATUS_STATE ≠ 3 →
      s.vrnAble 1 = false → ∃ u : State,
      exec (.jobLeave ch member false) s = .next (u.emit (.order s.hrc.mgr 8 [s.selfNum])) ∧ u.fget HRC_STATUS_STATE = 3 ∧ u.hrc.leaveCh = some ch ∧ u.mem = s.mem) ∧
    (s.inJob = true → s.isManager = false → ch < 320 → s.fon HRC_STATUS_SHRINK = false → s.fget HRC_STATUS_STATE ≠ 1 → s.fget HRC_STATUS_STATE ≠ 3 →
      s.vrnAble 1 = true → ∃ t : State, exec (.jobLeave ch member false) s = .next t ∧ t.fget HRC_STATUS_STATE = 3 ∧ t.hrc.leaveCh = some ch ∧
        t.hrc.leaveStep.isSome = true ∧ t.mem = s.mem) ∧
    (s.isManager = true → ch < 320 → exec (.jobLeave ch member false) s = .next ((s.takeUp ch).ack ch .busy 0 []))) ∧
  (∀ (s : State) (ch member : Nat) (recs : Option JobRecords), s.serves ch 0x6B [] .secure false = true →
    (∀ m, s.isManager = true → s.jobBusy = false → smGet s.hrc.members member = some m → m.state = 1 → ∃ u : State,
      exec (.jobDeputy ch (some member) false recs) s = .next (u.ack ch .ok 0 [member]) ∧ u.hrc.deputy = some member ∧ u.isManager = true ∧ u.mem = s.mem ∧
        ∃ x, smGet u.hrc.members member = some x ∧ x.role = 2) ∧
    (∀ m, s.isManager = true → s.jobBusy = false → smGet s.hrc.members member = some m → m.state = 1 → s.hrc.deputy = some member → ∃ u : State,
      exec (.jobDeputy ch (some member) true recs) s = .next (u.ack ch .ok 0 [member]) ∧ u.hrc.mgr = member ∧ u.hrc.deputy = none ∧
        u.fget HRC_STATUS_ROLE = 1 ∧ u.mem = s.mem) ∧
    (s.isManager = true → s.jobBusy = false → ∃ u : State, exec (.jobDeputy ch none false recs) s = .next (u.ack ch .ok 0 [s.selfNum]) ∧ u.hrc.deputy = none ∧ u.mem = s.mem) ∧
    (s.inJob = true → s.isManager = false → 320 ≤ ch → ∃ u : State, exec (.jobDeputy ch (some s.selfNum) true recs) s = .next (u.ack ch .ok 0 []) ∧
      u.isManager = true ∧ u.hrc.mgr = s.selfNum ∧ u.hrc.deputy = none ∧ u.mem = s.mem)) ∧
  (∀ (s : State) (ch : Nat),
    (s.serves ch 0x6C [] .secure false = true → s.isManager = true → s.vrnAble 1 = false → ∃ u : State, exec (.jobStep ch 0) s = .next (u.ack ch .ok 0 [s.hrc.jstep + 1]) ∧ u.hrc.jstep = s.hrc.jstep + 1 ∧ u.mem = s.mem ∧
      (∀ m ∈ s.livePeers, Emit.order m 3 [s.hrc.jstep + 1] ∈ u.out)) ∧
    (s.serves ch 0x6D [] .secure false = true → s.inJob = true → s.isManager = false → exec (.jobDissolve ch) s = .next ((s.takeUp ch).ack ch .busy 0 [])) ∧
    (s.serves ch 0x6D [] .secure false = true → s.isManager = true → (∀ m ∈ s.hrc.members, m.2.state ≠ 3 ∧ m.2.state ≠ 4) → ∃ u : State, exec (.jobDissolve ch) s = .next (u.ack ch .ok 0 [0]) ∧ u.inJob = false ∧ u.hrc.members = [] ∧ u.vrn.leases = [])) ∧
  (∀ s : State, s.hrc.slice ≤ 63 → s.hrc.port ≤ 7 → s.hrc.isoDue = true → s.inJob = true → s.fget HRC_STATUS_STATE ≠ 4 → ∃ t : State, exec .isolate s = .next t ∧ t.fget HRC_STATUS_STATE = 4 ∧
    t.accepts s.hrc.slice = false ∧ t.fget HRC_ERR_STATUS_ISOLATED = 1 ∧ t.tbl = s.tbl ∧ t.kvc = s.kvc ∧ t.vrn = s.vrn) ∧
  (∀ s : State,
    (s.hrc.takeOk = true → s.running = true → s.inJob = true → s.fget HRC_STATUS_ROLE = 2 → ∃ t : State, exec .deputyTakeover s = .next t ∧ t.isManager = true ∧
      t.hrc.mgr = s.selfNum ∧ t.fget HRC_STATUS_TAKEOVER = 1 ∧ t.mem = s.mem ∧ (∀ x, smGet s.hrc.members s.hrc.mgr = some x → x.live = true →
        ∃ y, smGet t.hrc.members s.hrc.mgr = some y ∧ y.state = 2 ∧ y.reason = 1) ∧
      (∀ f ∈ s.hrc.unfenced, f ≠ s.hrc.mgr → s.selfNum * 1024 + f ∈ t.hrc.waitFence)) ∧
    (s.hrc.takeOk = false → exec .deputyTakeover s = .next s)) ∧
  (∀ (s s1 : State) (peer : CtlPeer) (m : Member) (c n : Nat) (x : Conn), smGet s.hrc.members peer.member = some m → m.conn = some c → s.conn c = some x → m.live = true →
    s.running = true →
    (x.state = 4 → s.openCtl peer false (some x) = some (s1, n) →
      exec (.controlConnectionReopen peer) s = .next ((s1.closeConn c true none).modMember peer.member (fun y => { y with conn := some n }))) ∧
    (x.state ≠ 4 → exec (.controlConnectionReopen peer) s = .next s)) ∧
  (∀ (s s1 : State) (peer : CtlPeer) (m : Member) (n : Nat), smGet s.hrc.members peer.member = some m → m.conn = none → s.tracks peer.member = true → s.running = true →
    s.openCtl peer false none = some (s1, n) →
    exec (.controlConnectionReopen peer) s = .next (s1.modMember peer.member (fun y => { y with conn := some n, ips := [peer.ip] })))

/-- R557 to R566: heartbeats, fences and maps. Heartbeats are sent, counted and answered; the silent are declared and fenced; maps are
offered part by part; a shrink ends. -/
def Obligations.JobHeartbeatsFencesAndMaps : Prop :=
  (∀ s : State,
    (s.inJob = false → exec .heartbeatSend s = .next s ∧ exec .heartbeatPeriodEnd s = .next s) ∧
    (s.pw.onTicks - s.hrc.beatTick < beatPeriod → exec .heartbeatSend s = .next s) ∧ (s.pw.onTicks - s.hrc.periodTick < beatPeriod → exec .heartbeatPeriodEnd s = .next s) ∧
    (s.inJob = true → beatPeriod ≤ s.pw.onTicks - s.hrc.beatTick → ∃ t : State, exec .heartbeatSend s = .next t ∧ t.hrc.seqNo = (s.hrc.seqNo + 1) % 2 ^ 32 ∧ t.mem = s.mem ∧
      (∀ m x c y, m ∈ s.livePeers → s.tracks m = true → smGet s.hrc.members m = some x → x.conn = some c → s.conn c = some y → y.state = 3 →
        Emit.beat m (s.selfNum + (s.hrc.seqNo + 1) % 2 ^ 32 % 65536 * 65536) (s.beat64 ((s.hrc.seqNo + 1) % 2 ^ 32)) ∈ t.out)) ∧
    (s.inJob = true → s.isManager = false → beatPeriod ≤ s.pw.onTicks - s.hrc.periodTick → ∃ t : State, exec .heartbeatPeriodEnd s = .next t ∧ t.mem = s.mem ∧
      (∀ n x, smGet s.hrc.members n = some x → x.live = true → s.tracks n = true →
        smGet t.hrc.members n = some { x with missed := if x.heard then 0 else min 255 (x.missed + 1), heard := false })) ∧
    (s.isManager = true → s.running = true → s.hrc.late = [] → beatPeriod ≤ s.pw.onTicks - s.hrc.periodTick →
      2 * ((s.livePeers.filter s.tracks).filter (fun n => (smGet s.hrc.members n).any Member.reaches)).length ≤ (s.livePeers.filter s.tracks).length →
      ∃ t : State, exec .heartbeatPeriodEnd s = .next t ∧ t.mem = s.mem ∧
        (∀ n x, smGet s.hrc.members n = some x → x.live = true → x.heard = false → x.missed = 4 → ∃ y, smGet t.hrc.members n = some y ∧ y.state = 2 ∧ y.reason = 1))) ∧
  (∀ (s : State) (beat : List Byte) (m : Nat) (x : Member) (poisoned : List Nat), s.inJob = true → m = leField beat 4 2 → smGet s.hrc.members m = some x →
    (beat.length = 64 → leField beat 0 4 = s.rget HRC_JOB → s.rget HRC_MEPOCH ≤ leField beat 0xC 4 → s.tracks m = true → x.live = true → (leField beat 6 1 ≠ 0 ∨ m = s.hrc.mgr) →
      (s.isManager = false ∨ bit (leField beat 0x18 2) 2 = false) → ∃ t : State, exec (.heartbeatReceive beat poisoned) s = .next t ∧ t.mem = s.mem ∧
        (∀ e u, e ∈ s.vrn.ents → e.lost = false → u ∈ poisoned → e.loc ≤ u → u < e.loc + unitsOf e.bytes → (smGet s.shards (runKey e.handle e.unit)).isSome = true →
          smGet t.shards (runKey e.handle e.unit) = some true ∧ t.fget VRN_ERR_STATUS_BUDDY_INVALIDATED = 1) ∧
        smGet t.hrc.members m = some { x with missed := 0, heard := true, silent := leField beat 0x1B 1, jstep := leField beat 0x14 4, selfFail := bit (leField beat 0x18 2) 2, serial := leField beat 0x20 8 } ∧ (s.isManager = false → t.rget HRC_MEPOCH = leField beat 0xC 4)) ∧
    (beat.length = 64 → leField beat 0 4 = s.rget HRC_JOB → s.rget HRC_MEPOCH ≤ leField beat 0xC 4 → s.tracks m = true → x.live = true → s.isManager = true →
      s.running = true → bit (leField beat 0x18 2) 2 = true → s.rget HRC_MEPOCH + 1 < 2 ^ 32 → ∃ (t : State) (y : Member), exec (.heartbeatReceive beat poisoned) s = .next t ∧ smGet t.hrc.members m = some y ∧
        y.state = 2 ∧ y.reason = 2 ∧ t.rget HRC_MEPOCH = s.rget HRC_MEPOCH + 1 ∧ t.fget HRC_STATUS_SHRINK = 1 ∧ t.mem = s.mem) ∧
    ((leField beat 0 4 ≠ s.rget HRC_JOB ∨ leField beat 0xC 4 < s.rget HRC_MEPOCH ∨ x.live = false) → exec (.heartbeatReceive beat poisoned) s = .next s)) ∧
  (∀ (s : State) (f mepoch : Nat) (m : Member), smGet s.hrc.members f = some m → s.inJob = true → s.running = true → f ≠ s.selfNum → s.isManager = false →
    (∀ x ∈ s.hrc.fences, x.1 ≠ f) → (∀ c ∈ s.tmt.conns, c.2.probing = none) →
    ∃ u : State, exec (.fence f mepoch) s = .next u.fenceSettle ∧ smGet u.hrc.members f = some { m with state := 2 } ∧ u.mem = s.mem ∧
      (∀ c x, s.conn c = some x → x.state ≠ 1 → x.peerIp ∈ m.ips → ∃ y, u.conn c = some y ∧ y.state = 4) ∧ (s.vrn.buddy = some f → u.vrn.buddyUp = false)) ∧
  (∀ (s : State) (m f : Nat) (heirs : List (Nat × Nat)),
    (s.isManager = true → m * 1024 + f ∈ s.hrc.waitFence → ∃ t : State, exec (.fenceDone m f heirs) s = .next t ∧ t.mem = s.mem ∧
      t.hrc.waitFence = s.hrc.waitFence.filter (· != m * 1024 + f)) ∧
    (∀ x b, s.isManager = true → s.hrc.waitFence = [m * 1024 + f] → f ∈ s.hrc.failed → f ∉ s.hrc.ordered → smGet s.hrc.members f = some x → x.buddy = some b →
      s.survives b = true → ∃ t : State, exec (.fenceDone m f heirs) s = .next t ∧ f ∈ t.hrc.ordered ∧ Emit.order b 4 [f] ∈ t.out ∧ t.fget HRC_STATUS_TAKEOVER = 0) ∧
    (s.isManager = false → exec (.fenceDone m f heirs) s = .next s ∧ exec (.fenceTimeout m f heirs) s = .next s) ∧
    (∀ x, s.isManager = true → s.running = true → m ≠ s.selfNum → m * 1024 + f ∈ s.hrc.waitFence → 100 * s.fget HRC_CTL_FENCE_MS ≤ s.pw.onTicks - smGetD s.hrc.fenceTicks f 0 → smGet s.hrc.members m = some x →
      x.live = true → ∃ (t : State) (y : Member), exec (.fenceTimeout m f heirs) s = .next t ∧ smGet t.hrc.members m = some y ∧ y.state = 2 ∧ y.reason = 3 ∧
        t.fget HRC_ERR_STATUS_FENCE_LATE = 1 ∧ t.mem = s.mem)) ∧
  (∀ (s : State) (epoch mepoch jstep : Nat) (mems : List MapMember) (remaps : List Remap), s.hrc.slice ≤ 63 → s.hrc.port ≤ 7 → s.inJob = true → s.running = true →
    (epoch ≤ s.newestMap → exec (.jobMap epoch mepoch jstep mems remaps) s = .next s) ∧
    (s.isManager = false → s.newestMap < epoch → s.mapOffered = false → epoch < 2 ^ 32 → mepoch < 2 ^ 32 → ∃ (t : State) (o : JobMapOut), exec (.jobMap epoch mepoch jstep mems remaps) s = .next t ∧
      t.rget HRC_JMAP_EPOCH = epoch ∧ t.rget HRC_MEPOCH = max mepoch (s.rget HRC_MEPOCH) ∧ t.hrc.map = some o ∧ o.index = 0 ∧
      o.parts = mapParts (s.rget HRC_JOB) epoch (max mepoch (s.rget HRC_MEPOCH)) jstep mems remaps ∧ (o.parts.length = 1 → o.acked = true)) ∧
    (s.isManager = false → s.newestMap < epoch → s.mapOffered = true → s.hrc.stall = false → ∃ (t : State) (o : JobMapOut), exec (.jobMap epoch mepoch jstep mems remaps) s = .next t ∧
      t.hrc.maps = s.hrc.maps ++ [o] ∧ o.epoch = epoch ∧ o.acked = false ∧ t.hrc.map = s.hrc.map ∧ t.rget HRC_JMAP_EPOCH = s.rget HRC_JMAP_EPOCH ∧ t.mem = s.mem) ∧
    (s.isManager = true → epoch = s.newestMap + 1 → epoch < 2 ^ 32 → s.mapOffered = false → s.hrc.waitFence = [] → (remaps = [] ∨ s.isolateWaited = true) →
      ∃ (t : State) (o : JobMapOut), exec (.jobMap epoch mepoch jstep mems remaps) s = .next t ∧ t.rget HRC_JMAP_EPOCH = epoch ∧ t.hrc.map = some o ∧ o.epoch = epoch ∧
        (∀ m ∈ s.livePeers, Emit.order m 6 [epoch] ∈ t.out))) ∧
  (∀ (s s1 : State) (got : HostData) (o : JobMapOut) (bs : List Byte), s.hrc.map = some o →
    (100 ≤ s.pw.onTicks - o.poll → (s.setHrc { s.hrc with map := some { o with poll := s.pw.onTicks } }).hostGet s.hrc.port s.hrc.slice (s.curGen s.hrc.slice) (s.hrc.area + 0x1E) 2 got = (s1, (.ok, bs)) → bs.length = 2 →
      (leVal bs ≠ 0 → exec (.jobMapPartPoll got) s = .next s1) ∧
      (leVal bs = 0 → o.index + 1 < o.parts.length → ∃ t : State, exec (.jobMapPartPoll got) s = .next t ∧ t.mem = (s1.putPart (o.parts.getD (o.index + 1) [])).mem ∧
        t.hrc.map = some { o with index := o.index + 1, since := (s1.putPart (o.parts.getD (o.index + 1) [])).pw.onTicks, poll := s.pw.onTicks }) ∧
      (leVal bs = 0 → o.parts.length ≤ o.index + 1 → s.hrc.maps = [] → ∃ t : State, exec (.jobMapPartPoll got) s = .next t ∧ t.mem = s1.mem ∧ t.hrc.map = none ∧ t.hrc.stall = false) ∧
      (∀ n ns, leVal bs = 0 → o.parts.length ≤ o.index + 1 → s.hrc.maps = n :: ns → ∃ (t : State) (w : JobMapOut), exec (.jobMapPartPoll got) s = .next t ∧ t.hrc.maps = ns ∧
        t.hrc.map = some w ∧ w.epoch = n.epoch ∧ w.parts = n.parts ∧ w.index = 0 ∧ t.rget HRC_JMAP_EPOCH = n.epoch % 2 ^ 32)) ∧
    (s.pw.onTicks - o.poll < 100 → exec (.jobMapPartPoll got) s = .next s) ∧
    (o.parts.length ≠ 1 → 1000000 ≤ s.pw.onTicks - o.since → ∃ t : State, exec .jobMapStall s = .next t ∧ t.hrc.stall = true ∧ t.hrc.map = some { o with acked := true } ∧ t.mem = s.mem) ∧
    (s.pw.onTicks - o.since < 1000000 → exec .jobMapStall s = .next s)) ∧
  (∀ (s : State) (acked : List Nat) (sizes : List MemberSize), s.inJob = true → s.running = true →
    (s.isManager = false → s.fget HRC_STATUS_STATE = 2 → exec (.shrinkEnd acked sizes [] none) s = .next (s.fset HRC_STATUS_SHRINK 0)) ∧
    (s.isManager = true → s.hrc.waitFence ≠ [] → exec (.shrinkEnd acked sizes [] none) s = .next s) ∧
    (s.isManager = true → s.fget HRC_STATUS_STATE = 2 → s.hrc.waitFence = [] → (∀ m ∈ s.livePeers, m ∈ acked) → (∀ o, s.hrc.map = some o → o.acked = true) →
      (∀ o ∈ s.hrc.maps, o.acked = true) → s.hrc.failed = [] →
      ∃ t : State, exec (.shrinkEnd acked sizes [] none) s = .next t ∧ t.fget HRC_STATUS_SHRINK = 0 ∧ t.hrc.failed = [] ∧ (∀ m ∈ t.hrc.members, m.2.state ≠ 4) ∧ t.mem = s.mem) ∧
    (∀ hold r, s.isManager = false → (s.fset HRC_STATUS_SHRINK 0).holdLeases hold = some r → exec (.shrinkEnd acked sizes hold none) s = .next (r.settleSelf false)) ∧
    (∀ g r, s.isManager = false → (s.fset HRC_STATUS_SHRINK 0).takeGrant g = some r → s.vrn.buddy ≠ some g.buddy → exec (.shrinkEnd acked sizes [] (some g)) s = .next (r.settleSelf true) ∧
      r.vrn.buddy = some g.buddy ∧ r.vrn.buddyUp = true ∧ r.vrn.rkey = g.rkey ∧ r.vrn.gib = g.gib ∧ (∀ k b, smGet r.shards k = some b → b = true)))

/-- R126, R572 to R579, R581 to R584: mailboxes. A header fills the IN side, interrupts, and is answered or waits; full sides and
forbidden banks refuse; notices load and are taken; heartbeats count; channels are bound; records are read; programs are
registered and freed. -/
def Obligations.MailboxesCarryCommandsAndNotices : Prop :=
  (∀ (s u : State) (who : MbxPath) (ch hdr : Nat), ch < 320 → s.pw.devReset = false → u = s.mbxWake who →
    (u.mbxReach who (ch / 32) (ch % 32) = .served → u.fon MBX_CH_STATUS_IN_FULL 0 (ch / 32) (ch % 32) = false → ∃ t : State,
      exec (.mailboxCommit who ch hdr) s = .next (t.mbxAnswer ch) ∧ t.rget MBX_IN 0 (ch / 32) (ch % 32) 0 = hdr % 2 ^ 32 ∧
      t.fget MBX_CH_STATUS_IN_FULL 0 (ch / 32) (ch % 32) = 1 ∧ t.fget MBX_IN_ACK_DONE 0 (ch / 32) (ch % 32) = 0 ∧
      t.out = Emit.irq .mbx (ch / 32) (ch % 32) :: u.out ∧ t = { u with regs := t.regs, out := t.out }) ∧
    (u.mbxReach who (ch / 32) (ch % 32) = .served → u.fon MBX_CH_STATUS_IN_FULL 0 (ch / 32) (ch % 32) = true → ∃ t : State, exec (.mailboxCommit who ch hdr) s = .next t ∧
      t.fget MBX_CH_STATUS_OVERRUN 0 (ch / 32) (ch % 32) = 1 ∧ t.fget MBX_ERR_OVERRUN = 1 ∧ t.rget MBX_IN 0 (ch / 32) (ch % 32) 0 = u.rget MBX_IN 0 (ch / 32) (ch % 32) 0 ∧
      t = { u with regs := t.regs, out := t.out }) ∧
    (u.mbxReach who (ch / 32) (ch % 32) = .secDenied → ∃ t : State, exec (.mailboxCommit who ch hdr) s = .next t ∧
      t.fget MBX_CH_STATUS_SEC_DENIED 0 (ch / 32) (ch % 32) = 1 ∧ t.fget MBX_ERR_SEC_DENIED = 1 ∧
      t.rget MBX_IN 0 (ch / 32) (ch % 32) 0 = u.rget MBX_IN 0 (ch / 32) (ch % 32) 0 ∧ t = { u with regs := t.regs, out := t.out })) ∧
  (∀ (s : State) (p b c : Nat), p ≤ 7 → c < 32 →
    (b ≠ p → s.mbxReach (.port p) b c = .none) ∧
    (c < 16 → s.mbxReach (.port p) p c = (if bit (s.rget MBX_SEC) p = true ∨ (c = 0 ∧ s.bootState = 7) then .served else .secDenied)) ∧
    (16 ≤ c → s.mbxReach (.port p) p c = .refused p) ∧
    (∀ sl : Nat, 16 ≤ c → s.mbxReach (.grant p sl) p c = (if s.fon MBX_CH_BIND_VALID 0 p c = true ∧ s.fget MBX_CH_BIND_SLICE 0 p c = sl then .served else .refused p))) ∧
  (∀ (t : State) (ch h : Nat), ch < 320 → t.fon MBX_CH_STATUS_IN_FULL 0 (ch / 32) (ch % 32) = true → ch ∉ t.mbx.busy → t.fwRuns = true → t.bootState ≠ 8 →
    h = t.rget MBX_IN 0 (ch / 32) (ch % 32) 0 →
    (smGet t.mbx.acked ch = some (getBits h 15 8 + 1) → t.mbxAnswer ch = t.ackRc ch ((smGetD t.mbx.results ch []).headD 0) ((smGetD t.mbx.results ch []).drop 1)) ∧
    (smGet t.mbx.acked ch = none → 16 ≤ ch % 32 → t.fon MBX_CH_BIND_VALID 0 (ch / 32) (ch % 32) = false → t.mbxAnswer ch = t.ack ch .notBound 0 []) ∧
    (smGet t.mbx.acked ch = none → ch % 32 < 16 → (getBits h 31 17 ≠ 0 ∨ listedCmd (getBits h 7 0) = false) → t.mbxAnswer ch = t.ack ch .badCommand 0 []) ∧
    (smGet t.mbx.acked ch = none → ch % 32 < 16 → getBits h 31 17 = 0 → listedCmd (getBits h 7 0) = true →
      badWord (getBits h 7 0) (t.rget MBX_IN 0 (ch / 32) (ch % 32) 1) (t.rget MBX_IN 0 (ch / 32) (ch % 32) 2) = 0 → t.mbxAnswer ch = t) ∧
    (∀ w, smGet t.mbx.acked ch = none → ch % 32 < 16 → getBits h 31 17 = 0 → listedCmd (getBits h 7 0) = true → getBits h 7 0 ≠ 0x60 → getBits h 7 0 ≠ 0x72 →
      w = badWord (getBits h 7 0) (t.rget MBX_IN 0 (ch / 32) (ch % 32) 1) (t.rget MBX_IN 0 (ch / 32) (ch % 32) 2) → w ≠ 0 → t.mbxAnswer ch = t.ack ch .badDescriptor w [])) ∧
  (∀ (t : State) (ch h : Nat), ch < 320 → t.fon MBX_CH_STATUS_IN_FULL 0 (ch / 32) (ch % 32) = true → ch ∉ t.mbx.busy → t.bootState = 8 → h = t.rget MBX_IN 0 (ch / 32) (ch % 32) 0 →
    ((ch % 32 = 0 ∨ ch % 32 = 16) → diagCmd (getBits h 7 0) = true → t.mbxAnswer ch = t) ∧
    ((ch % 32 ≠ 0 ∧ ch % 32 ≠ 16 ∨ diagCmd (getBits h 7 0) = false) → t.mbxAnswer ch = t.ack ch .notReady 0 [])) ∧
  (∀ (s : State) (ch : Nat) (q : NoticeQueue) (n : Notice) (rest : List Notice), ch < 320 → s.fon MBX_CH_STATUS_OUT_FULL 0 (ch / 32) (ch % 32) = false →
    s.noticeQueue ch = some q → q.items = n :: rest → s.delivers n = true → n.kind < 256 → ∃ u : State, exec (.noticeLoad ch) s = .next (u.channelIrq ch) ∧
      u.fget MBX_CH_STATUS_OUT_FULL 0 (ch / 32) (ch % 32) = 1 ∧
      u.rget MBX_OUT 0 (ch / 32) (ch % 32) 0 = min 65535 q.dropped * 0x10000 + (smGetD s.mbx.outSeq ch 0 + 1) % 256 * 256 + n.kind ∧
      (∀ i, i < 7 → u.rget MBX_OUT 0 (ch / 32) (ch % 32) (i + 1) = n.words.getD i 0 % 2 ^ 32) ∧ smGet u.mbx.loaded ch = some n ∧ u.mem = s.mem) ∧
  (∀ (s u : State) (who : MbxPath) (ch val : Nat), ch < 320 → s.pw.devReset = false → u = s.mbxWake who → u.mbxReach who (ch / 32) (ch % 32) = .served →
    (getBits val 23 16 = getBits (u.rget MBX_OUT 0 (ch / 32) (ch % 32) 0) 15 8 → ∃ t : State, exec (.noticeAck who ch val) s = .next t ∧
      t.fget MBX_CH_STATUS_OUT_FULL 0 (ch / 32) (ch % 32) = 0 ∧ t = { u with regs := t.regs, mbx := t.mbx }) ∧
    (getBits val 23 16 ≠ getBits (u.rget MBX_OUT 0 (ch / 32) (ch % 32) 0) 15 8 → ∃ t : State, exec (.noticeAck who ch val) s = .next t ∧
      t.fget MBX_CH_STATUS_SEQ_MISMATCH 0 (ch / 32) (ch % 32) = 1 ∧ t.fget MBX_CH_STATUS_OUT_FULL 0 (ch / 32) (ch % 32) = u.fget MBX_CH_STATUS_OUT_FULL 0 (ch / 32) (ch % 32) ∧
      t = { u with regs := t.regs })) ∧
  (∀ (s u : State) (who : MbxPath) (b d : Nat), b ≤ 9 → d ≤ 15 → s.pw.devReset = false → u = s.mbxWake who →
    (u.hbReach who b d = .served → u.slotSlices b d ≠ [] → ∃ t : State, exec (.hostHeartbeat who b d) s = .next t ∧
      t.fget MBX_HB_BEATS 0 b d = satAdd 16 (u.fget MBX_HB_BEATS 0 b d) 1 ∧ t.missedBeats b d = 0 ∧ t.mem = u.mem) ∧
    (∀ p, u.hbReach who b d = .refused p → exec (.hostHeartbeat who b d) s = .next (u.grantFault p))) ∧
  (∀ (s : State) (ch b c w3 entry g sl : Nat), s.serves ch 0x0C [(1, b), (2, c), (3, w3)] .secure false = true → b ≤ 9 → 16 ≤ c → c ≤ 31 → getBits w3 30 6 = 0 → sl = w3 % 64 →
    (s.takeUp ch).mbx.busy.contains (32 * b + c) = false →
    (bit w3 31 = true → s.slLive sl = true → (b < 8 → s.freeEntry b entry = some g) → ∃ u : State, exec (.mbxBind ch b c w3 entry) s = .next (u.ack ch .ok 0 []) ∧
      u.fget MBX_CH_BIND_VALID 0 b c = 1 ∧ u.fget MBX_CH_BIND_SLICE 0 b c = sl ∧ u.mem = s.mem) ∧
    (bit w3 31 = false → ∃ u : State, exec (.mbxBind ch b c w3 entry) s = .next (u.ack ch .ok 0 []) ∧ u.fget MBX_CH_BIND_VALID 0 b c = 0 ∧ u.mem = s.mem)) ∧
  (∀ (s : State) (ch index : Nat),
    (∀ r, s.serves ch 1 [(1, index)] .diag false = true → s.atl.crashLog[index]? = some r → exec (.diagRead ch index) s = .next ((s.takeUp ch).ack ch .ok 0 ((List.range 7).map (fun i => leField r (4 * i) 4)))) ∧
    (s.serves ch 1 [(1, index)] .diag false = true → s.atl.crashLog[index]? = none → exec (.diagRead ch index) s = .next ((s.takeUp ch).ack ch .badDescriptor 1 [])) ∧
    (s.serves ch 0 [] .diag false = true → exec (.nop (.mailbox ch)) s = .next ((s.takeUp ch).ack ch .ok 0 [s.rget ATL_FW_VERSION, s.rget ATL_BOOT_STATUS]))) ∧
  (∀ (s : State) (ch addr len enc rstk off depth sl : Nat) (loads : List ProgPlace), s.serves ch 0x28 [] .bound true = true → sl = s.servedSlice ch 0 → enc ≤ 1 → rstk ≤ 1 → 0 < len → len ≤ 0x40000 →
    off % 64 = 0 → 0 < depth → off + 64 * depth ≤ 0x40000 → addr < 2 ^ 48 → s.accessErr sl addr len false = none → s.serialLeft sl = true →
    ∃ (u : State) (h : Nat), exec (.progLoad ch .ok addr len enc rstk off depth loads) s = .next (u.ack ch .ok 0 [h]) ∧ h / 2 ^ 26 = sl ∧
      smGet u.progs h = some { slice := sl, addr := addr, len := len, enc := enc, rstk := rstk, inboxOff := off, inboxDepth := depth } ∧ (loads = [] → u.mem = s.mem) ∧
      (∀ x, loads = [x] → s.progPlaceOk sl x = true → smGet u.loaded (sl * 4096 + x.b) = some { prog := h, pc := x.pc % 2 ^ 18 })) ∧
  (∀ (s : State) (ch h sl : Nat), s.serves ch 0x29 [(1, h)] .bound false = true → sl = s.servedSlice ch 0 → h ≠ 0 → s.progOk sl h = true →
    (s.progUsed h = false → ∃ u : State, exec (.progFree ch h) s = .next (u.ack ch .ok 0 [h]) ∧ smGet u.progs h = none ∧ u.mem = s.mem) ∧
    (s.progUsed h = true → exec (.progFree ch h) s = .next ((s.takeUp ch).ack ch .busy 0 [])))

/-- R587, R589, R591, R594, R595, R597, R598: counters and dump sets. Counters are allocated, loaded, wrapped and freed; windows end;
dump sets are created, snapshot and destroyed. -/
def Obligations.CountersAndDumpSets : Prop :=
  (∀ (s : State) (ch inst ev w3 units sl k : Nat), s.serves ch 0x70 [(1, inst), (2, ev), (3, w3)] .either false = true → ch < 320 → 16 ≤ ch % 32 → sl = s.servedSlice ch 64 → inst ≤ 19 →
    pmuEvent inst (ev % 256) = some (units, true) → ev / 256 < units → k < 12 → s.fon PMU_OWNER_VALID inst k = false →
    (bit w3 0 = false → (s.countersOf sl).length < 64 → (∀ j, j < k → s.fon PMU_OWNER_VALID inst j = true) →
    ∃ u : State, exec (.pmuAlloc ch inst ev w3) s = .next (u.ack ch .ok 0 [inst * 16 + k, s.freeView sl]) ∧ u.counterOf sl inst k = true ∧ u.fget PMU_EVSEL_EN inst k = 1 ∧
      u.fget PMU_EVSEL_EVENT inst k = ev % 65536 ∧ u.fget PMU_EVSEL_SLICE_FILT inst k = 1 ∧ u.fget PMU_EVSEL_SLICE inst k = sl ∧ u.counter inst k = 0 ∧
      smGet u.pmu.views (64 * sl + s.freeView sl) = some (inst * 16 + k) ∧ u.mem = s.mem) ∧
    (bit w3 0 = true → (s.countersOf sl).length < 63 → k % 2 = 0 → s.fon PMU_OWNER_VALID inst (k + 1) = false →
      (∀ j, j < k → j % 2 = 0 → s.fon PMU_OWNER_VALID inst j = true ∨ s.fon PMU_OWNER_VALID inst (j + 1) = true) →
      ∃ u : State, exec (.pmuAlloc ch inst ev w3) s = .next (u.ack ch .ok 0 [inst * 16 + k, s.freeView sl]) ∧ u.counterOf sl inst k = true ∧ u.counterOf sl inst (k + 1) = true ∧
        u.fget PMU_EVSEL_EVENT inst k = ev % 65536 ∧ u.fget PMU_EVSEL_CHAIN inst (k + 1) = 1 ∧ u.counter inst k = 0 ∧ u.counter inst (k + 1) = 0 ∧ u.mem = s.mem)) ∧
  (∀ (s : State) (ch inst ev w3 units k : Nat) (perSlice : Bool), s.serves ch 0x70 [(1, inst), (2, ev), (3, w3)] .either false = true → (320 ≤ ch ∨ ch % 32 < 16) → inst ≤ 19 →
    pmuEvent inst (ev % 256) = some (units, perSlice) → ev / 256 < units → k < 12 → s.fon PMU_OWNER_VALID inst k = false →
    (∀ j, j < k → s.fon PMU_OWNER_VALID inst j = true) →
    (w3 = 0xFF → ∃ u : State, exec (.pmuAlloc ch inst ev w3) s = .next (u.ack ch .ok 0 [inst * 16 + k, 0]) ∧ u.fget PMU_OWNER_VALID inst k = 1 ∧
      u.fget PMU_OWNER_DEVICE inst k = 1 ∧ u.fget PMU_EVSEL_EN inst k = 1 ∧ u.fget PMU_EVSEL_EVENT inst k = ev % 65536 ∧ u.counter inst k = 0 ∧ u.mem = s.mem) ∧
    (w3 ≤ 63 → s.slLive w3 = true → perSlice = true → (s.countersOf w3).length < 64 → ∃ u : State,
      exec (.pmuAlloc ch inst ev w3) s = .next (u.ack ch .ok 0 [inst * 16 + k, s.freeView w3]) ∧ u.counterOf w3 inst k = true ∧ u.fget PMU_EVSEL_EN inst k = 1 ∧
      u.fget PMU_EVSEL_EVENT inst k = ev % 65536 ∧ u.counter inst k = 0 ∧ u.mem = s.mem)) ∧
  (∀ (s : State) (ch id sl : Nat), s.serves ch 0x71 [(1, id)] .either false = true → ch < 320 → 16 ≤ ch % 32 → sl = s.servedSlice ch 64 → id < 320 →
    (s.counterOf sl (id / 16) (id % 16) = true → s.dumped id = false → ¬(id % 16 % 2 = 0 ∧ s.fon PMU_EVSEL_CHAIN (id / 16) (id % 16 + 1) = true) →
      ∃ u : State, exec (.pmuFree ch id) s = .next (u.ack ch .ok 0 []) ∧ u.fget PMU_OWNER_VALID (id / 16) (id % 16) = 0 ∧ u.fget PMU_EVSEL_EN (id / 16) (id % 16) = 0 ∧
        u.counter (id / 16) (id % 16) = 0 ∧ u.mem = s.mem) ∧
    (s.counterOf sl (id / 16) (id % 16) = true → id % 16 % 2 = 0 → s.fon PMU_OWNER_VALID (id / 16) (id % 16 + 1) = true → s.fon PMU_EVSEL_CHAIN (id / 16) (id % 16 + 1) = true →
      s.dumped id = false → s.dumped (id + 1) = false → ∃ u : State, exec (.pmuFree ch id) s = .next (u.ack ch .ok 0 []) ∧ u.fget PMU_OWNER_VALID (id / 16) (id % 16) = 0 ∧
        u.fget PMU_OWNER_VALID (id / 16) (id % 16 + 1) = 0 ∧ u.mem = s.mem) ∧
    (s.counterOf sl (id / 16) (id % 16) = false → exec (.pmuFree ch id) s = .next ((s.takeUp ch).ack ch .badHandle 1 []))) ∧
  (∀ (s : State) (ch sl : Nat) (permit : Bool), s.serves ch 0x72 [(1, if permit then 1 else 0)] .bound false = true → sl = s.servedSlice ch 64 →
    ∃ u : State, exec (.pmuUser ch permit) s = .next (u.ack ch .ok 0 []) ∧ u.slcGet SLC_CTL_PMU_USER sl = (if permit then 1 else 0) ∧ u.mem = s.mem) ∧
  (∀ (s : State) (id val add : Nat), id < 320 →
    ((add = 0 ∨ s.counts (id / 16) (id % 16) = false) → ∃ t : State, exec (.pmuCounterLoad id false val add) s = .next t ∧ t.rget PMU_CNT_LO (id / 16) (id % 16) = val % 2 ^ 32 ∧
      t.rget PMU_CNT_HI (id / 16) (id % 16) = s.rget PMU_CNT_HI (id / 16) (id % 16) ∧ t = { s with regs := t.regs }) ∧
    ((add = 0 ∨ s.counts (id / 16) (id % 16) = false) → ∃ t : State, exec (.pmuCounterLoad id true val add) s = .next t ∧ t.rget PMU_CNT_HI (id / 16) (id % 16) = val % 2 ^ 16 ∧
      t.rget PMU_CNT_LO (id / 16) (id % 16) = s.rget PMU_CNT_LO (id / 16) (id % 16) ∧ t = { s with regs := t.regs }) ∧
    (0 < add → s.counts (id / 16) (id % 16) = true → val % 2 ^ 32 + s.rget PMU_CNT_HI (id / 16) (id % 16) * 2 ^ 32 + add < 2 ^ 48 → ∃ t : State,
      exec (.pmuCounterLoad id false val add) s = .next t ∧ t.counter (id / 16) (id % 16) = val % 2 ^ 32 + s.rget PMU_CNT_HI (id / 16) (id % 16) * 2 ^ 32 + add ∧
      t = { s with regs := t.regs })) ∧
  (∀ (s : State) (inst : Nat), inst < 20 →
    (s.fon PMU_CTL_EN inst = true → s.windowEnds inst < s.pw.onTicks * 10 + 10 → ∃ t : State, exec (.pmuWindowEnd inst) s = .next t ∧
      smGet t.pmu.winAt inst = some (s.windowEnds inst) ∧ (∀ k, k < 16 → smGet t.pmu.win (inst * 16 + k) = some (s.counter inst k) ∧
      (s.fon PMU_EVSEL_EN inst k = true → t.rget PMU_WIN_LO inst k + t.rget PMU_WIN_HI inst k * 2 ^ 32 =
        (s.counter inst k + 2 ^ 48 - smGetD s.pmu.win (inst * 16 + k) 0) % 2 ^ 48) ∧
      (s.fon PMU_EVSEL_EN inst k = false → t.rget PMU_WIN_LO inst k = s.rget PMU_WIN_LO inst k ∧ t.rget PMU_WIN_HI inst k = s.rget PMU_WIN_HI inst k)) ∧
      t = { s with regs := t.regs, pmu := t.pmu }) ∧
    ((s.fon PMU_CTL_EN inst = false ∨ s.pw.onTicks * 10 + 10 ≤ s.windowEnds inst) → exec (.pmuWindowEnd inst) s = .next s)) ∧
  (∀ (s : State) (id n : Nat), id < 320 → s.counts (id / 16) (id % 16) = true → 2 ^ 48 ≤ s.counter (id / 16) (id % 16) + n →
    ((id % 2 = 1 ∨ bit (s.rget PMU_EVSEL (id / 16) (id % 16 + 1)) 30 = false) → ∃ t : State, exec (.counterWrap id n) s = .next t ∧
      t.counter (id / 16) (id % 16) = (s.counter (id / 16) (id % 16) + n) % 2 ^ 48 ∧ bit (t.rget PMU_OVF (id / 16)) (id % 16) = true ∧
      t = { s with regs := t.regs, out := t.out } ∧
      (bit (s.rget PMU_OVF_IRQ (id / 16)) (id % 16) = true → t.out = Emit.irq .pmu (id / 16) (id % 16) :: s.out)) ∧
    (id % 2 = 0 → bit (s.rget PMU_EVSEL (id / 16) (id % 16 + 1)) 30 = true → bit (s.rget PMU_EVSEL (id / 16) (id % 16 + 1)) 31 = true → ∃ t : State,
      exec (.counterWrap id n) s = .next t ∧ t.counter (id / 16) (id % 16) = (s.counter (id / 16) (id % 16) + n) % 2 ^ 48 ∧
      t.counter (id / 16) (id % 16 + 1) = (s.counter (id / 16) (id % 16 + 1) + (s.counter (id / 16) (id % 16) + n) / 2 ^ 48) % 2 ^ 48 ∧
      bit (t.rget PMU_OVF (id / 16)) (id % 16) = true ∧ t = { s with regs := t.regs, out := t.out })) ∧
  (∀ (s s1 s2 : State) (ch sl addr n d : Nat) (got : HostData) (h b : List Byte), s.serves ch 0x73 [(1, addr % 2 ^ 32), (2, addr / 2 ^ 32)] .either true = true → ch < 320 → 16 ≤ ch % 32 → sl = s.servedSlice ch sl →
    (s.takeUp ch).dumpBlock ch sl addr 40 got = .ok (s1, h) → n = leField h 4 2 → 1 ≤ leField h 0 4 → leField h 0 4 ≤ 1000000 → 1 ≤ n → n ≤ 256 → leField h 6 1 = 0 →
    leField h 7 1 = 0 → isPow2 (leField h 0x10 4) = true → 4096 ≤ leField h 0x10 4 → leField h 0x10 4 ≤ 0x10000000 → leField h 8 8 % leField h 0x10 4 = 0 →
    leField h 0x1C 4 = 0 → s1.dumpBlock ch sl addr (40 + 2 * n) got = .ok (s2, b) →
    (∀ i, i < n → leField b (40 + 2 * i) 2 < 320 ∧ s2.counterOf sl (leField b (40 + 2 * i) 2 / 16) (leField b (40 + 2 * i) 2 % 16) = true) →
    s2.dumpPlace sl 0 (leField h 8 8) (leField h 0x10 4) true = none → (dumpRate ((dumpLen n, leField h 0 4) :: s2.dumpLoads)).1 ≤ 4000 * (dumpRate ((dumpLen n, leField h 0 4) :: s2.dumpLoads)).2 →
    d < 16 → smGet s2.pmu.dumps d = none → (∀ e, e < d → (smGet s2.pmu.dumps e).isSome = true) →
    ∃ (u : State) (x : DumpSet), exec (.dumpCreate ch sl addr got) s = .next (u.ack ch .ok 0 [d]) ∧ smGet u.pmu.dumps d = some x ∧ x.slice = sl ∧
      x.ids = (List.range n).map (fun i => leField b (40 + 2 * i) 2) ∧ x.period = leField h 0 4 ∧ x.ring = leField h 8 8 ∧ x.size = leField h 0x10 4 ∧
      u.fget PMU_DUMP_CTL_ACTIVE 0 d = 1 ∧ u.fget PMU_DUMP_CTL_SLICE 0 d = sl ∧ u.rget PMU_DUMP_WR 0 d = 0 ∧ u.rget PMU_DUMP_SEQ 0 d = 0 ∧ u.mem = s2.mem) ∧
  (∀ (s : State) (ch d : Nat) (x : DumpSet), s.serves ch 0x74 [(1, d)] .either false = true → smGet s.pmu.dumps d = some x → d < 16 → (secureChan ch = true ∨ x.slice = s.servedSlice ch 64) →
    ∃ u : State, exec (.dumpDestroy ch d) s = .next (u.ack ch .ok 0 []) ∧ smGet u.pmu.dumps d = none ∧ u.rget PMU_DUMP_CTL 0 d = 0 ∧ u.mem = s.mem) ∧
  (∀ (s u : State) (d t : Nat) (head : HostData) (x y : DumpSet) (bs : List Byte), smGet s.pmu.dumps d = some x → d < 16 → t = (x.last / (x.period * 1000) + 1) * (x.period * 1000) →
    s.fon PMU_DUMP_CTL_ACTIVE 0 d = true → s.fon PMU_DUMP_CTL_SUSPENDED 0 d = false →
    (s.pmu.ns < t → exec (.dumpSnapshot d head) s = .next s) ∧
    (t ≤ s.pmu.ns → u = s.fadd PMU_DUMP_SEQ_VALUE 1 0 d → x.mode = 0 → x.dest = 0 → u.slState x.slice ≠ 4 → u.slState x.slice ≠ 5 → x.tag = none → y = { x with last := t } →
      bs = u.dumpRecord d y → u.dumpPlace x.slice 0 (x.ring + s.rget PMU_DUMP_WR 0 d) bs.length true = none →
      ∃ v : State, exec (.dumpSnapshot d head) s = .next v ∧ v.mem = (u.busWrite (x.ring + s.rget PMU_DUMP_WR 0 d) bs).mem ∧
        v.rget PMU_DUMP_WR 0 d = (s.rget PMU_DUMP_WR 0 d + bs.length) % x.size % 2 ^ 32 ∧ smGet v.pmu.dumps d = some { y with dropped := 0, wasSusp := false, stepped := false, tag := none }))

/-- R599 to R607: device time, pulses, the calendar and lifetime records. -/
def Obligations.TimeCalendarAndLifetimeRecords : Prop :=
  (∀ (s : State) (ch lo hi ns : Nat),
    (s.serves ch 0x75 [(1, 0), (2, lo), (3, hi), (4, ns)] .secure false = true → hi ≤ 0xFFFF → ns < 1000000000 → ∃ u : State, exec (.timeSet ch lo hi ns) s = .next (u.ack ch .ok 0 []) ∧ u.pmu.ns = (lo % 2 ^ 32 + hi * 2 ^ 32) * 1000000000 + ns ∧ u.pmu.rem = 0 ∧
      u.fget PMU_TIME_STATUS_VALID = 1 ∧ u.fget PMU_TIME_STEPS_COUNT = satAdd 32 (s.fget PMU_TIME_STEPS_COUNT) 1 ∧ u.mem = s.mem) ∧
    (s.serves ch 0x75 [(1, 0), (2, lo), (3, hi), (4, ns)] .secure false = true → 0xFFFF < hi → exec (.timeSet ch lo hi ns) s = .next ((s.takeUp ch).ack ch .badDescriptor 3 [])) ∧
    (s.serves ch 0x75 [(1, 1), (2, lo), (3, hi)] .secure false = true → ∃ u : State, exec (.timeStep ch lo hi) s = .next (u.ack ch .ok 0 []) ∧
      (u.pmu.ns : Int) = ((s.pmu.ns : Int) + toSigned 64 (lo % 2 ^ 32 + hi % 2 ^ 32 * 2 ^ 32)) % (2 ^ 48 * 1000000000) ∧
      u.fget PMU_TIME_STEPS_COUNT = satAdd 32 (s.fget PMU_TIME_STEPS_COUNT) 1 ∧ u.mem = s.mem) ∧
    (s.serves ch 0x75 [(1, 2), (2, lo)] .secure false = true → -500000 ≤ toSigned 32 (lo % 2 ^ 32) → toSigned 32 (lo % 2 ^ 32) ≤ 500000 → ∃ u : State, exec (.timeAdj ch lo) s = .next (u.ack ch .ok 0 []) ∧
      u.rget PMU_TIME_ADJ = lo % 2 ^ 32 ∧ u = { s.takeUp ch with regs := u.regs }) ∧
    (s.serves ch 0x75 [(1, 2), (2, lo)] .secure false = true → (500000 < toSigned 32 (lo % 2 ^ 32) ∨ toSigned 32 (lo % 2 ^ 32) < -500000) → exec (.timeAdj ch lo) s = .next ((s.takeUp ch).ack ch .badDescriptor 2 [])) ∧
    (∀ src port utc, s.serves ch 0x75 ([(1, 3), (2, src), (3, utc)] ++ if src = 2 then [(4, port)] else []) .secure false = true → src ≤ 3 → (src = 2 → port ≤ 15) → utc < 0xFFFF → ∃ u : State, exec (.timeSource ch src port utc) s = .next (u.ack ch .ok 0 []) ∧
      u.fget PMU_TIME_STATUS_SRC = src ∧ u.fget PMU_TIME_STATUS_UTC_OFFSET = utc ∧ u.fget PMU_TIME_STATUS_UTC_KNOWN = 1 ∧ (src ≠ 2 → u.fget PMU_TIME_STATUS_LOCKED = 0) ∧
      (src = 2 → u.pmu.srcPort = port ∧ u.fget PMU_TIME_STATUS_PORT = port % 8) ∧ u = { s.takeUp ch with regs := u.regs, pmu := u.pmu }) ∧
    (s.serves ch 0x76 [(1, lo), (2, hi)] .secure false = true → ∃ u : State, exec (.calSet ch lo hi) s = .next (u.ack ch .ok 0 []) ∧ u.pw.rtcTicks = (lo % 2 ^ 32 + hi % 2 ^ 32 * 2 ^ 32) * 100000 ∧ u.pw.calValid = true ∧
      u = { s.takeUp ch with pw := u.pw })) ∧
  (∀ s : State,
    (s.fon PMU_PPS_CTL_OUT_EN = true → s.clockValid = true → s.pmu.ns % 1000000000 < 10005 → s.pmu.ppsHigh = none →
      exec .ppsOutEdge s = .next ((s.setPmu { s.pmu with ppsHigh := some s.pw.onTicks }).emit (.pin 0 1))) ∧
    (∀ t, s.pmu.ppsHigh = some t → t + 10000 ≤ s.pw.onTicks → exec .ppsOutEdge s = .next ((s.setPmu { s.pmu with ppsHigh := none }).emit (.pin 0 0))) ∧
    (s.fon PMU_PPS_CTL_OUT_EN = false → s.pmu.ppsHigh = none → exec .ppsOutEdge s = .next s) ∧
    (s.fon PMU_PPS_CTL_IN_EN = true → ∃ t : State, exec .ppsInEdge s = .next t ∧ t.rget PMU_PPS_IN_NS = s.pmu.ns % 1000000000 ∧
      t.rget PMU_PPS_IN_SL = s.pmu.ns / 1000000000 % 2 ^ 32 ∧ t.rget PMU_PPS_IN_SH = s.pmu.ns / 1000000000 / 2 ^ 32 % 65536 ∧ t.fget PMU_ERR_PPS_NEW = 1 ∧
      t = { s with regs := t.regs, out := t.out }) ∧
    (s.fon PMU_PPS_CTL_IN_EN = false → exec .ppsInEdge s = .next s) ∧
    (s.fwRuns = true → s.clockValid = true → s.fon PMU_TIME_STATUS_UTC_KNOWN = true → (s.pmu.calCheck = none ∨ s.pw.calValid = false) →
      (∀ c, s.pmu.calCheck = some c → c + 6000000 ≤ s.pw.onTicks) → ∃ t : State, exec .calendarCheck s = .next t ∧
      t.pw.rtcTicks = (s.pmu.ns - s.fget PMU_TIME_STATUS_UTC_OFFSET * 1000000000) / 10000 ∧ t.pw.calValid = true ∧ t.pmu.calCheck = some s.pw.onTicks ∧
      t = { s with pw := t.pw, pmu := t.pmu }) ∧
    (∀ c, s.pmu.calCheck = some c → s.pw.onTicks < c + 6000000 → exec .calendarCheck s = .next s) ∧
    (s.fwRuns = false → exec .calendarCheck s = .next s)) ∧
  (∀ (s : State) (ch item : Nat) (ok : Bool),
    (∀ v, s.serves ch 0x77 [(1, item)] .diag false = true → s.lifeItem item = some v →
      exec (.lifRead ch item) s = .next ((s.takeUp ch).ack ch .ok 0 [v % 2 ^ 32, v / 2 ^ 32 % 2 ^ 32, s.timeFlags])) ∧
    (s.serves ch 0x77 [(1, item)] .diag false = true → s.lifeItem item = none → exec (.lifRead ch item) s = .next ((s.takeUp ch).ack ch .badDescriptor 1 [])) ∧
    (s.serves ch 0x77 [(1, 0xFFFF)] .diag false = true →
      exec (.lifFlush ch ok) s = .next (((s.takeUp ch).putLifeRecord ok).ack ch (if ok then .ok else .flashError) 0 []))) ∧
  (∀ (s : State) (ok : Bool), s.running = true →
    (3600 ≤ s.powerOnPending → exec (.lifetimeRecordWrite ok) s = .next (s.putLifeRecord ok)) ∧ (s.powerOnPending < 3600 → exec (.lifetimeRecordWrite ok) s = .next s) ∧
    ((s.putLifeRecord true).powerOnPending = 0 ∧ (s.putLifeRecord true).atl.lifeRecOk = true ∧ (s.putLifeRecord true).fget LIF_STATUS_REC_FAIL = 0 ∧
      (s.putLifeRecord true).atl.eraseRec = s.atl.eraseRec + 1 ∧ (s.putLifeRecord true).mem = s.mem) ∧
    ((s.putLifeRecord false).fget LIF_STATUS_REC_FAIL = 1 ∧ (s.putLifeRecord false).atl = s.atl ∧ (s.putLifeRecord false).pw = s.pw))

/-- R612, R615 to R618, R620 to R624: fuses blow one way and only by their commands with word 7; the port closes, halts and resumes
the core and reads as it; injectors are permitted, armed, asked and disarmed; what one held goes on. -/
def Obligations.FusesPortAndInjectors : Prop :=
  (∀ (s : State) (ch key n f : Nat) (fails : Option Nat) (ws : List (Nat × Nat)) (i : Instr),
    (i, f, ws) ∈ [(Instr.fuseDbgDisable ch key fails, 1, []), (.fuseInjDisable ch key fails, 2, []), (.fuseSecver ch key n fails, 3, [(2, n)]),
      (.anchorRevoke ch key n fails, 5, [(2, n)])] → s.serves ch 0x79 ([(1, f)] ++ ws ++ [(7, key)]) .secure false = true →
    (key ≠ 0x46555345 → exec i s = .next ((s.takeUp ch).ack ch .badDescriptor 7 [])) ∧
    (key = 0x46555345 → s.emergency = true → exec i s = .next ((s.takeUp ch).ack ch .busy 0 []))) ∧
  (∀ (s : State) (ch : Nat), s.emergency = false →
    (s.serves ch 0x79 [(1, 1), (7, 0x46555345)] .secure false = true → s.dbg.fuses.dbgDisable = false → ∃ u : State, exec (.fuseDbgDisable ch 0x46555345 none) s = .next (u.ack ch .ok 0 []) ∧
      u.dbg = { s.dbg with fuses := { s.dbg.fuses with dbgDisable := true } } ∧ u.atl.coreHalted = false ∧ bit (u.rget MBX_SEC) 9 = false ∧ u.mem = s.mem) ∧
    (s.serves ch 0x79 [(1, 1), (7, 0x46555345)] .secure false = true → s.dbg.fuses.dbgDisable = true → exec (.fuseDbgDisable ch 0x46555345 none) s = .next ((s.takeUp ch).ack ch .ok 0 [])) ∧
    (s.serves ch 0x79 [(1, 2), (7, 0x46555345)] .secure false = true → s.dbg.fuses.injDisable = false → ∃ u : State, exec (.fuseInjDisable ch 0x46555345 none) s = .next (u.ack ch .ok 0 []) ∧
      u.dbg = { s.dbg with fuses := { s.dbg.fuses with injDisable := true } } ∧ (∀ j, j < 160 → u.fon INJ_ARM_ARMED 0 j = false) ∧ u = { s.takeUp ch with regs := u.regs, dbg := u.dbg }) ∧
    (∀ floor im, s.serves ch 0x79 [(1, 3), (2, floor), (7, 0x46555345)] .secure false = true → s.confirmedImage = some im → floor ≤ 64 → floor ≤ imageSecVer s.atl.flash im → s.dbg.fuses.floor < floor → exec (.fuseSecver ch 0x46555345 floor none) s =
      .next (((s.takeUp ch).blow { s.dbg.fuses with secver := floor }).ack ch .ok 0 [])) ∧
    (∀ floor im, s.serves ch 0x79 [(1, 3), (2, floor), (7, 0x46555345)] .secure false = true → s.confirmedImage = some im → imageSecVer s.atl.flash im < floor → exec (.fuseSecver ch 0x46555345 floor none) s = .next ((s.takeUp ch).ack ch .badVersion 2 [])) ∧
    (∀ slot im, s.serves ch 0x79 [(1, 5), (2, slot), (7, 0x46555345)] .secure false = true → slot ≤ 3 → s.confirmedImage = some im →
      (∃ a, a < 4 ∧ Fuses.anchorHas { s.dbg.fuses with revoke := s.dbg.fuses.revoke ||| 2 ^ slot } (imageAnchor s.atl.flash im) a = true) →
      exec (.anchorRevoke ch 0x46555345 slot none) s = .next (((s.takeUp ch).blow { s.dbg.fuses with revoke := s.dbg.fuses.revoke ||| 2 ^ slot }).ack ch .ok 0 [])) ∧
    (∀ slot im, s.serves ch 0x79 [(1, 5), (2, slot), (7, 0x46555345)] .secure false = true → slot ≤ 3 → s.confirmedImage = some im →
      (∀ a, a < 4 → Fuses.anchorHas { s.dbg.fuses with revoke := s.dbg.fuses.revoke ||| 2 ^ slot } (imageAnchor s.atl.flash im) a = false) →
      exec (.anchorRevoke ch 0x46555345 slot none) s = .next ((s.takeUp ch).ack ch .busy 2 [])) ∧
    (s.serves ch 0x7A [] .secure false = true → s.dbg.fuses.dbgDisable = false → ∃ u : State, exec (.dbgClose ch) s = .next (u.ack ch .ok 0 []) ∧ u.dbg = { s.dbg with softClosed := true } ∧ u.atl.coreHalted = false ∧
      (s.dbg.softClosed = false → u.fget FUS_DBG_CTL_CLOSE = 1) ∧ u.mem = s.mem)) ∧
  (∀ (s : State) (ch slot : Nat) (bs : List Byte) (a : Anchor), s.serves ch 0x79 [(1, 4), (2, slot), (7, 0x46555345)] .secure true = true → s.emergency = false → slot ≤ 3 → s.dbg.fuses.anchors[slot]? = some a →
    (a.written = false → exec (.anchorWrite ch 0x46555345 slot (.ok, bs) none) s = .next (((s.takeUp ch).blow { s.dbg.fuses with
      anchors := s.dbg.fuses.anchors.set slot { written := true, digest := leVal (bs.take 48), crcOk := true } }).ack ch .ok 0 [])) ∧
    (a.written = true → exec (.anchorWrite ch 0x46555345 slot (.ok, bs) none) s = .next ((s.takeUp ch).ack ch .busy 2 []))) ∧
  (∀ s : State,
    (s.dbgState = 0 → s.atl.coreHalted = false → ∃ t : State, exec (.debugSoftClose .atelier) s = .next t ∧ t.dbgState = 1 ∧ t.atl.coreHalted = false ∧ bit (t.rget MBX_SEC) 9 = false ∧ t.mem = s.mem) ∧
    (∀ k, exec (.debugSoftClose (.slice k)) s = .next s) ∧
    (s.pw.lockout = false → exec .idcode s = .next (s.emit (.jtag (0x10000000 + 0x2064 * 4096 + s.dbg.loaded.mfrNow * 2 + 1)))) ∧
    (∀ code bits n : Nat, s.pw.lockout = false → code ≠ 1 → ¬(2 ≤ code ∧ code ≤ 4) → exec (.bypass code bits n) s = .next (s.emit (.jtag (bits * 2 % 2 ^ n)))) ∧
    (s.dbgOpen = false → exec .atlHalt s = .next s ∧ exec .atlResume s = .next s) ∧
    (s.dbgOpen = true → s.inJob = true → exec .atlHalt s = .next (s.emit (.jtag 0))) ∧
    (s.dbgOpen = true → s.inJob = false → s.pw.devReset = false → s.fget GSO_MSTATE_STATE ≠ 3 → ∃ t : State, exec .atlHalt s = .next (t.emit (.jtag 1)) ∧
      t = { s with atl := t.atl } ∧ t.atl = { s.atl with coreHalted := true }) ∧
    (s.dbgOpen = true → s.atl.coreHalted = false → exec .atlResume s = .next (s.emit (.jtag 0))) ∧
    (s.dbgOpen = true → s.atl.coreHalted = true → ∃ t : State, exec .atlResume s = .next (t.mbxRound.emit (.jtag 0)) ∧ t = { s with atl := t.atl } ∧
      t.atl = { s.atl with coreHalted := false })) ∧
  (∀ (s : State) (a v : Nat), (s.dbgOpen = false → exec (.dapRead a) s = .next s ∧ exec (.dapWrite a v) s = .next s) ∧
    (s.dbgOpen = true → s.pw.devReset = false → dapRefused a = true → ∃ t : State, exec (.dapRead a) s = .next t ∧ t.dbg.dapOp = 2 ∧ t.dbg.dapResult = 0 ∧ t.mem = s.mem) ∧
    (s.dbgOpen = true → s.pw.devReset = false → space (a / 4 * 4) = .stack → dapRefused a = false → (∀ bs, (s.dapCapture.busRead (a / 4 * 4) 4).bytes = some bs →
      ∃ t : State, exec (.dapRead a) s = .next t ∧ t.dbg.dapOp = 0 ∧ t.dbg.dapResult = leVal bs ∧ t.mem = (s.dapCapture.busRead (a / 4 * 4) 4).state.mem)) ∧
    (s.dbgOpen = true → s.pw.devReset = false → space (a / 4 * 4) = .stack → dapRefused a = false →
      ∃ t : State, exec (.dapWrite a v) s = .next t ∧ t.dbg.dapOp = 0 ∧ t.dbg.dapResult = 0 ∧ t.mem = (s.dapCapture.busWrite (a / 4 * 4) (leBytes 4 v)).mem) ∧
    (s.dapCapture.out = Emit.jtag (s.dbg.dapOp * 2 ^ 80 + Config.freeValue s.free % 2 ^ 48 * 2 ^ 32 + s.dbg.dapResult) :: s.out)) ∧
  (∀ (s : State) (ch sl : Nat), s.slLive sl = true →
    (s.serves ch 0x7B [(1, sl), (2, 1)] .secure false = true → ∃ u : State, exec (.injPermit ch sl true) s = .next (u.ack ch .ok 0 []) ∧ u.slcGet SLC_CTL_TEST_PERM sl = 1 ∧ u = { s.takeUp ch with regs := u.regs }) ∧
    (s.serves ch 0x7B [(1, sl), (2, 0)] .secure false = true → ∃ u : State, exec (.injPermit ch sl false) s = .next (u.ack ch .ok 0 []) ∧ u.slcGet SLC_CTL_TEST_PERM sl = 0 ∧
      (∀ j, j < 160 → u.fon INJ_ARM_DEVICE 0 j = true → u.fon INJ_ARM_ARMED 0 j = false) ∧ u.mem = s.mem)) ∧
  (∀ (s : State) (ch sl die e : Nat) (bs : List Byte), s.serves ch 0x7C [(1, sl)] .secure true = true → sl ≤ 63 → 32 ≤ bs.length → die = leField (bs.take 32) 4 2 →
    (s.dbg.fuses.injDisable = true → exec (.injArm ch sl (.ok, bs)) s = .next ((s.takeUp ch).ack ch .denied 0 [])) ∧
    (s.dbg.fuses.injDisable = false → s.slcGet SLC_CTL_TEST_PERM sl = 0 → exec (.injArm ch sl (.ok, bs)) s = .next ((s.takeUp ch).ack ch .denied 1 [])) ∧
    (s.dbg.fuses.injDisable = false → s.slcGet SLC_CTL_TEST_PERM sl ≠ 0 → (s.takeUp ch).injFields (bs.take 32) = true →
      e < 8 → s.fon INJ_ARM_ARMED 0 (die * 8 + e) = false → (∀ j, j < e → s.fon INJ_ARM_ARMED 0 (die * 8 + j) = true) →
      (leField (bs.take 32) 0 1 = 3 → (leField (bs.take 32) 3 1 = 1 → ∀ k, k < 64 → s.slLive k = true → s.slcGet SLC_CTL_TEST_PERM k ≠ 0) →
        ∃ u : State, exec (.injArm ch sl (.ok, bs)) s = .next (u.ack ch .ok 0 [die * 8 + e]) ∧ u.fon INJ_ARM_ARMED 0 (die * 8 + e) = true ∧
        u.fget INJ_ARM_SLICE 0 (die * 8 + e) = sl ∧ u.fget INJ_ARM_DEVICE 0 (die * 8 + e) = leField (bs.take 32) 3 1 ∧ u.injArmed (die * 8 + e) 3 = true ∧
        u.fget INJ_TRIG_COUNT die e = leField (bs.take 32) 0xE 2 ∧ u.fget INJ_FIRED_FIRED die e = 0 ∧ u.mem = s.mem) ∧
      (leField (bs.take 32) 3 1 = 0 → leField (bs.take 32) 0 1 = 4 → (s.takeUp ch).ownsStack sl (leField (bs.take 32) 0x10 8 / 32 * 32) 32 = true →
        ∃ u : State, exec (.injArm ch sl (.ok, bs)) s = .next (u.ack ch .ok 0 [die * 8 + e]) ∧ u.fon INJ_ARM_ARMED 0 (die * 8 + e) = false ∧ u.fget INJ_FIRED_FIRED die e = 1 ∧
        (u.burst (leField (bs.take 32) 0x10 8 / 32)).bad =
          strike 36 (leField (bs.take 32) 1 1 + 1) (s.burst (leField (bs.take 32) 0x10 8 / 32)).bad ∧ u.mem = s.mem) ∧
      (leField (bs.take 32) 3 1 = 0 → leField (bs.take 32) 0 1 = 5 → (s.takeUp ch).accessErr sl (leField (bs.take 32) 0x10 8) 8 true = none →
        ∃ u : State, exec (.injArm ch sl (.ok, bs)) s = .next (u.ack ch .ok 0 [die * 8 + e]) ∧ u.fon INJ_ARM_ARMED 0 (die * 8 + e) = false ∧ u.fget INJ_FIRED_FIRED die e = 1 ∧
        smGetD u.ecc (leField (bs.take 32) 0x10 8) 0 = strike 72 (leField (bs.take 32) 1 1 + 1) (smGetD s.ecc (leField (bs.take 32) 0x10 8) 0) ∧ u.mem = s.mem)) ∧
    (s.dbg.fuses.injDisable = false → s.slcGet SLC_CTL_TEST_PERM sl ≠ 0 → (s.takeUp ch).injFields (bs.take 32) = true → leField (bs.take 32) 0 1 = 3 → leField (bs.take 32) 3 1 = 1 →
      (∃ k, k < 64 ∧ s.slLive k = true ∧ s.slcGet SLC_CTL_TEST_PERM k = 0) → exec (.injArm ch sl (.ok, bs)) s = .next ((s.takeUp ch).ack ch .denied 0 []))) ∧
  (∀ (s : State) (ch id sl : Nat),
    (s.serves ch 0x7D [(1, id)] .secure false = true → id ≤ 159 → (∀ h ∈ s.dbg.held, h.inj ≠ id) → ∃ u : State, exec (.injDisarm ch id sl) s = .next (u.ack ch .ok 0 []) ∧ u.fon INJ_ARM_ARMED 0 id = false ∧ u.fon INJ_CTL_EN (id / 8) (id % 8) = false ∧
      u = { s.takeUp ch with regs := u.regs }) ∧
    (s.serves ch 0x7D [(1, id)] .secure false = true → id ≤ 159 → (∃ h ∈ s.dbg.held, h.inj = id) → ∃ u : State, exec (.injDisarm ch id sl) s = .next u ∧
      u.fon INJ_ARM_ARMED 0 id = false ∧ u.fon INJ_CTL_EN (id / 8) (id % 8) = false ∧ u.dbg = { s.dbg with disarms := s.dbg.disarms ++ [(ch, [id])] } ∧
      u = { s.takeUp ch with regs := u.regs, dbg := u.dbg }) ∧
    (s.serves ch 0x7D [(1, 0xFFFF), (2, sl)] .secure false = true → sl ≤ 63 → (∀ h ∈ s.dbg.held, s.fget INJ_ARM_SLICE 0 h.inj ≠ sl) → ∃ u : State, exec (.injDisarm ch 0xFFFF sl) s = .next (u.ack ch .ok 0 []) ∧
      (∀ j, j < 160 → u.fget INJ_ARM_SLICE 0 j = sl → u.fon INJ_ARM_ARMED 0 j = false) ∧ u = { s.takeUp ch with regs := u.regs }) ∧
    (s.serves ch 0x7E [(1, id)] .secure false = true → id ≤ 159 → exec (.injQuery ch id) s = .next ((s.takeUp ch).ack ch .ok 0 [s.fget INJ_FIRED_FIRED (id / 8) (id % 8), s.fget INJ_ARM_ARMED 0 id])) ∧
    (s.serves ch 0x7E [(1, id)] .secure false = true → 159 < id → exec (.injQuery ch id) s = .next ((s.takeUp ch).ack ch .badDescriptor 1 []))) ∧
  (∀ (s u : State) (i : Nat) (h : InjHeld), s.dbg.held[i]? = some h → u = s.setDbg { s.dbg with held := s.dbg.held.eraseIdx i } →
    (s.heldDue h = true → h.path = 2 → exec (.injectedReorderRelease i) s = .next (u.completeRead h.port h.conn h.st h.bytes).endDisarms) ∧
    (s.heldDue h = true → h.path = 1 → exec (.injectedReorderRelease i) s = .next (u.tmtAccept (h.port / 8) h.slice (h.bytes.length + 4) h.bytes).endDisarms) ∧
    (s.heldDue h = true → h.path = 0 → ∃ t : State, exec (.injectedReorderRelease i) s = .next t.endDisarms ∧
      t.net.source = s.net.source ++ [{ src := h.conn, slice := h.slice, port := h.port, bytes := h.bytes, mark := false }] ∧ t.mem = s.mem) ∧
    (s.heldDue h = false → exec (.injectedReorderRelease i) s = .next s)) ∧
  (∀ (s : State) (ch die : Nat),
    (s.serves ch 0x78 [(1, 0xFF)] .diag false = true → exec (.idRead ch 0xFF) s = .next ((s.takeUp ch).ack ch .ok 0 [s.dbg.loaded.serialNow % 2 ^ 32, s.dbg.loaded.serialNow / 2 ^ 32, s.dbg.loaded.vidNow,
      s.dbg.loaded.macNow % 2 ^ 32, s.dbg.loaded.macNow / 2 ^ 32 % 65536])) ∧
    (s.serves ch 0x78 [(1, die)] .diag false = true → die ≤ 19 → exec (.idRead ch die) s = .next ((s.takeUp ch).ack ch .ok 0 (s.dbg.loaded.dieWords die))) ∧
    (s.serves ch 0x78 [(1, die)] .diag false = true → 19 < die → die ≠ 0xFF → exec (.idRead ch die) s = .next ((s.takeUp ch).ack ch .badDescriptor 1 [])))
end

