-- ==== Sys2Proof/Laws/State.lean ====
section
/-!
SUPPORT. What each update of the state leaves alone, one lemma per field, so that no proof unfolds a record update.
-/
namespace Sys2Proof
namespace Machine

/-! ### rset -/

@[simp] theorem State.rset_pending (s : State) (r : Reg) (v inst i j k : Nat) : (s.rset r v inst i j k).pending = s.pending := rfl
@[simp] theorem State.rset_out (s : State) (r : Reg) (v inst i j k : Nat) : (s.rset r v inst i j k).out = s.out := rfl
@[simp] theorem State.rset_free (s : State) (r : Reg) (v inst i j k : Nat) : (s.rset r v inst i j k).free = s.free := rfl
@[simp] theorem State.rset_latch (s : State) (r : Reg) (v inst i j k : Nat) : (s.rset r v inst i j k).latch = s.latch := rfl
@[simp] theorem State.rset_mem (s : State) (r : Reg) (v inst i j k : Nat) : (s.rset r v inst i j k).mem = s.mem := rfl
@[simp] theorem State.rset_fab (s : State) (r : Reg) (v inst i j k : Nat) : (s.rset r v inst i j k).fab = s.fab := rfl
@[simp] theorem State.rset_pw (s : State) (r : Reg) (v inst i j k : Nat) : (s.rset r v inst i j k).pw = s.pw := rfl
@[simp] theorem State.rset_atl (s : State) (r : Reg) (v inst i j k : Nat) : (s.rset r v inst i j k).atl = s.atl := rfl
@[simp] theorem State.rset_mbx (s : State) (r : Reg) (v inst i j k : Nat) : (s.rset r v inst i j k).mbx = s.mbx := rfl
@[simp] theorem State.rset_dbg (s : State) (r : Reg) (v inst i j k : Nat) : (s.rset r v inst i j k).dbg = s.dbg := rfl
@[simp] theorem State.rset_brs (s : State) (r : Reg) (v inst i j k : Nat) : (s.rset r v inst i j k).brs = s.brs := rfl
@[simp] theorem State.rset_ecc (s : State) (r : Reg) (v inst i j k : Nat) : (s.rset r v inst i j k).ecc = s.ecc := rfl
@[simp] theorem State.rset_cb (s : State) (r : Reg) (v inst i j k : Nat) : (s.rset r v inst i j k).cb = s.cb := rfl
@[simp] theorem State.rset_own (s : State) (r : Reg) (v inst i j k : Nat) : (s.rset r v inst i j k).own = s.own := rfl
@[simp] theorem State.rset_stgOwn (s : State) (r : Reg) (v inst i j k : Nat) : (s.rset r v inst i j k).stgOwn = s.stgOwn := rfl
@[simp] theorem State.rset_stk (s : State) (r : Reg) (v inst i j k : Nat) : (s.rset r v inst i j k).stk = s.stk := rfl
@[simp] theorem State.rset_tbl (s : State) (r : Reg) (v inst i j k : Nat) : (s.rset r v inst i j k).tbl = s.tbl := rfl
@[simp] theorem State.rset_kvc (s : State) (r : Reg) (v inst i j k : Nat) : (s.rset r v inst i j k).kvc = s.kvc := rfl
@[simp] theorem State.rset_seqs (s : State) (r : Reg) (v inst i j k : Nat) : (s.rset r v inst i j k).seqs = s.seqs := rfl
@[simp] theorem State.rset_works (s : State) (r : Reg) (v inst i j k : Nat) : (s.rset r v inst i j k).works = s.works := rfl
@[simp] theorem State.rset_nextWork (s : State) (r : Reg) (v inst i j k : Nat) : (s.rset r v inst i j k).nextWork = s.nextWork := rfl
@[simp] theorem State.rset_recNo (s : State) (r : Reg) (v inst i j k : Nat) : (s.rset r v inst i j k).recNo = s.recNo := rfl
@[simp] theorem State.rset_serial (s : State) (r : Reg) (v inst i j k : Nat) : (s.rset r v inst i j k).serial = s.serial := rfl
@[simp] theorem State.rset_cmp (s : State) (r : Reg) (v inst i j k : Nat) : (s.rset r v inst i j k).cmp = s.cmp := rfl
@[simp] theorem State.rset_syn (s : State) (r : Reg) (v inst i j k : Nat) : (s.rset r v inst i j k).syn = s.syn := rfl
@[simp] theorem State.rset_shards (s : State) (r : Reg) (v inst i j k : Nat) : (s.rset r v inst i j k).shards = s.shards := rfl
@[simp] theorem State.rset_vrn (s : State) (r : Reg) (v inst i j k : Nat) : (s.rset r v inst i j k).vrn = s.vrn := rfl
@[simp] theorem State.rset_slc (s : State) (r : Reg) (v inst i j k : Nat) : (s.rset r v inst i j k).slc = s.slc := rfl
@[simp] theorem State.rset_clOwner (s : State) (r : Reg) (v inst i j k : Nat) : (s.rset r v inst i j k).clOwner = s.clOwner := rfl
@[simp] theorem State.rset_dma (s : State) (r : Reg) (v inst i j k : Nat) : (s.rset r v inst i j k).dma = s.dma := rfl
@[simp] theorem State.rset_dmaSaved (s : State) (r : Reg) (v inst i j k : Nat) : (s.rset r v inst i j k).dmaSaved = s.dmaSaved := rfl
@[simp] theorem State.rset_hl (s : State) (r : Reg) (v inst i j k : Nat) : (s.rset r v inst i j k).hl = s.hl := rfl
@[simp] theorem State.rset_progs (s : State) (r : Reg) (v inst i j k : Nat) : (s.rset r v inst i j k).progs = s.progs := rfl
@[simp] theorem State.rset_nvm (s : State) (r : Reg) (v inst i j k : Nat) : (s.rset r v inst i j k).nvm = s.nvm := rfl
@[simp] theorem State.rset_net (s : State) (r : Reg) (v inst i j k : Nat) : (s.rset r v inst i j k).net = s.net := rfl
@[simp] theorem State.rset_tmt (s : State) (r : Reg) (v inst i j k : Nat) : (s.rset r v inst i j k).tmt = s.tmt := rfl
@[simp] theorem State.rset_cph (s : State) (r : Reg) (v inst i j k : Nat) : (s.rset r v inst i j k).cph = s.cph := rfl
@[simp] theorem State.rset_pmu (s : State) (r : Reg) (v inst i j k : Nat) : (s.rset r v inst i j k).pmu = s.pmu := rfl
@[simp] theorem State.rset_hrc (s : State) (r : Reg) (v inst i j k : Nat) : (s.rset r v inst i j k).hrc = s.hrc := rfl
@[simp] theorem State.rset_loaded (s : State) (r : Reg) (v inst i j k : Nat) : (s.rset r v inst i j k).loaded = s.loaded := rfl
@[simp] theorem State.rset_ues (s : State) (r : Reg) (v inst i j k : Nat) : (s.rset r v inst i j k).ues = s.ues := rfl
@[simp] theorem State.rset_failing (s : State) (r : Reg) (v inst i j k : Nat) : (s.rset r v inst i j k).failing = s.failing := rfl

/-! ### fset -/

@[simp] theorem State.fset_pending (s : State) (f : Fld) (v inst i j k : Nat) : (s.fset f v inst i j k).pending = s.pending := rfl
@[simp] theorem State.fset_out (s : State) (f : Fld) (v inst i j k : Nat) : (s.fset f v inst i j k).out = s.out := rfl
@[simp] theorem State.fset_free (s : State) (f : Fld) (v inst i j k : Nat) : (s.fset f v inst i j k).free = s.free := rfl
@[simp] theorem State.fset_latch (s : State) (f : Fld) (v inst i j k : Nat) : (s.fset f v inst i j k).latch = s.latch := rfl
@[simp] theorem State.fset_mem (s : State) (f : Fld) (v inst i j k : Nat) : (s.fset f v inst i j k).mem = s.mem := rfl
@[simp] theorem State.fset_fab (s : State) (f : Fld) (v inst i j k : Nat) : (s.fset f v inst i j k).fab = s.fab := rfl
@[simp] theorem State.fset_pw (s : State) (f : Fld) (v inst i j k : Nat) : (s.fset f v inst i j k).pw = s.pw := rfl
@[simp] theorem State.fset_atl (s : State) (f : Fld) (v inst i j k : Nat) : (s.fset f v inst i j k).atl = s.atl := rfl
@[simp] theorem State.fset_mbx (s : State) (f : Fld) (v inst i j k : Nat) : (s.fset f v inst i j k).mbx = s.mbx := rfl
@[simp] theorem State.fset_dbg (s : State) (f : Fld) (v inst i j k : Nat) : (s.fset f v inst i j k).dbg = s.dbg := rfl
@[simp] theorem State.fset_brs (s : State) (f : Fld) (v inst i j k : Nat) : (s.fset f v inst i j k).brs = s.brs := rfl
@[simp] theorem State.fset_ecc (s : State) (f : Fld) (v inst i j k : Nat) : (s.fset f v inst i j k).ecc = s.ecc := rfl
@[simp] theorem State.fset_cb (s : State) (f : Fld) (v inst i j k : Nat) : (s.fset f v inst i j k).cb = s.cb := rfl
@[simp] theorem State.fset_own (s : State) (f : Fld) (v inst i j k : Nat) : (s.fset f v inst i j k).own = s.own := rfl
@[simp] theorem State.fset_stgOwn (s : State) (f : Fld) (v inst i j k : Nat) : (s.fset f v inst i j k).stgOwn = s.stgOwn := rfl
@[simp] theorem State.fset_stk (s : State) (f : Fld) (v inst i j k : Nat) : (s.fset f v inst i j k).stk = s.stk := rfl
@[simp] theorem State.fset_tbl (s : State) (f : Fld) (v inst i j k : Nat) : (s.fset f v inst i j k).tbl = s.tbl := rfl
@[simp] theorem State.fset_kvc (s : State) (f : Fld) (v inst i j k : Nat) : (s.fset f v inst i j k).kvc = s.kvc := rfl
@[simp] theorem State.fset_seqs (s : State) (f : Fld) (v inst i j k : Nat) : (s.fset f v inst i j k).seqs = s.seqs := rfl
@[simp] theorem State.fset_works (s : State) (f : Fld) (v inst i j k : Nat) : (s.fset f v inst i j k).works = s.works := rfl
@[simp] theorem State.fset_nextWork (s : State) (f : Fld) (v inst i j k : Nat) : (s.fset f v inst i j k).nextWork = s.nextWork := rfl
@[simp] theorem State.fset_recNo (s : State) (f : Fld) (v inst i j k : Nat) : (s.fset f v inst i j k).recNo = s.recNo := rfl
@[simp] theorem State.fset_serial (s : State) (f : Fld) (v inst i j k : Nat) : (s.fset f v inst i j k).serial = s.serial := rfl
@[simp] theorem State.fset_cmp (s : State) (f : Fld) (v inst i j k : Nat) : (s.fset f v inst i j k).cmp = s.cmp := rfl
@[simp] theorem State.fset_syn (s : State) (f : Fld) (v inst i j k : Nat) : (s.fset f v inst i j k).syn = s.syn := rfl
@[simp] theorem State.fset_shards (s : State) (f : Fld) (v inst i j k : Nat) : (s.fset f v inst i j k).shards = s.shards := rfl
@[simp] theorem State.fset_vrn (s : State) (f : Fld) (v inst i j k : Nat) : (s.fset f v inst i j k).vrn = s.vrn := rfl
@[simp] theorem State.fset_slc (s : State) (f : Fld) (v inst i j k : Nat) : (s.fset f v inst i j k).slc = s.slc := rfl
@[simp] theorem State.fset_clOwner (s : State) (f : Fld) (v inst i j k : Nat) : (s.fset f v inst i j k).clOwner = s.clOwner := rfl
@[simp] theorem State.fset_dma (s : State) (f : Fld) (v inst i j k : Nat) : (s.fset f v inst i j k).dma = s.dma := rfl
@[simp] theorem State.fset_dmaSaved (s : State) (f : Fld) (v inst i j k : Nat) : (s.fset f v inst i j k).dmaSaved = s.dmaSaved := rfl
@[simp] theorem State.fset_hl (s : State) (f : Fld) (v inst i j k : Nat) : (s.fset f v inst i j k).hl = s.hl := rfl
@[simp] theorem State.fset_progs (s : State) (f : Fld) (v inst i j k : Nat) : (s.fset f v inst i j k).progs = s.progs := rfl
@[simp] theorem State.fset_nvm (s : State) (f : Fld) (v inst i j k : Nat) : (s.fset f v inst i j k).nvm = s.nvm := rfl
@[simp] theorem State.fset_net (s : State) (f : Fld) (v inst i j k : Nat) : (s.fset f v inst i j k).net = s.net := rfl
@[simp] theorem State.fset_tmt (s : State) (f : Fld) (v inst i j k : Nat) : (s.fset f v inst i j k).tmt = s.tmt := rfl
@[simp] theorem State.fset_cph (s : State) (f : Fld) (v inst i j k : Nat) : (s.fset f v inst i j k).cph = s.cph := rfl
@[simp] theorem State.fset_pmu (s : State) (f : Fld) (v inst i j k : Nat) : (s.fset f v inst i j k).pmu = s.pmu := rfl
@[simp] theorem State.fset_hrc (s : State) (f : Fld) (v inst i j k : Nat) : (s.fset f v inst i j k).hrc = s.hrc := rfl
@[simp] theorem State.fset_loaded (s : State) (f : Fld) (v inst i j k : Nat) : (s.fset f v inst i j k).loaded = s.loaded := rfl
@[simp] theorem State.fset_ues (s : State) (f : Fld) (v inst i j k : Nat) : (s.fset f v inst i j k).ues = s.ues := rfl
@[simp] theorem State.fset_failing (s : State) (f : Fld) (v inst i j k : Nat) : (s.fset f v inst i j k).failing = s.failing := rfl

/-! ### emit -/

@[simp] theorem State.emit_pending (s : State) (e : Emit) : (s.emit e).pending = s.pending := rfl
@[simp] theorem State.emit_free (s : State) (e : Emit) : (s.emit e).free = s.free := rfl
@[simp] theorem State.emit_regs (s : State) (e : Emit) : (s.emit e).regs = s.regs := rfl
@[simp] theorem State.emit_latch (s : State) (e : Emit) : (s.emit e).latch = s.latch := rfl
@[simp] theorem State.emit_mem (s : State) (e : Emit) : (s.emit e).mem = s.mem := rfl
@[simp] theorem State.emit_fab (s : State) (e : Emit) : (s.emit e).fab = s.fab := rfl
@[simp] theorem State.emit_pw (s : State) (e : Emit) : (s.emit e).pw = s.pw := rfl
@[simp] theorem State.emit_atl (s : State) (e : Emit) : (s.emit e).atl = s.atl := rfl
@[simp] theorem State.emit_mbx (s : State) (e : Emit) : (s.emit e).mbx = s.mbx := rfl
@[simp] theorem State.emit_dbg (s : State) (e : Emit) : (s.emit e).dbg = s.dbg := rfl
@[simp] theorem State.emit_brs (s : State) (e : Emit) : (s.emit e).brs = s.brs := rfl
@[simp] theorem State.emit_ecc (s : State) (e : Emit) : (s.emit e).ecc = s.ecc := rfl
@[simp] theorem State.emit_cb (s : State) (e : Emit) : (s.emit e).cb = s.cb := rfl
@[simp] theorem State.emit_own (s : State) (e : Emit) : (s.emit e).own = s.own := rfl
@[simp] theorem State.emit_stgOwn (s : State) (e : Emit) : (s.emit e).stgOwn = s.stgOwn := rfl
@[simp] theorem State.emit_stk (s : State) (e : Emit) : (s.emit e).stk = s.stk := rfl
@[simp] theorem State.emit_tbl (s : State) (e : Emit) : (s.emit e).tbl = s.tbl := rfl
@[simp] theorem State.emit_kvc (s : State) (e : Emit) : (s.emit e).kvc = s.kvc := rfl
@[simp] theorem State.emit_seqs (s : State) (e : Emit) : (s.emit e).seqs = s.seqs := rfl
@[simp] theorem State.emit_works (s : State) (e : Emit) : (s.emit e).works = s.works := rfl
@[simp] theorem State.emit_nextWork (s : State) (e : Emit) : (s.emit e).nextWork = s.nextWork := rfl
@[simp] theorem State.emit_recNo (s : State) (e : Emit) : (s.emit e).recNo = s.recNo := rfl
@[simp] theorem State.emit_serial (s : State) (e : Emit) : (s.emit e).serial = s.serial := rfl
@[simp] theorem State.emit_cmp (s : State) (e : Emit) : (s.emit e).cmp = s.cmp := rfl
@[simp] theorem State.emit_syn (s : State) (e : Emit) : (s.emit e).syn = s.syn := rfl
@[simp] theorem State.emit_shards (s : State) (e : Emit) : (s.emit e).shards = s.shards := rfl
@[simp] theorem State.emit_vrn (s : State) (e : Emit) : (s.emit e).vrn = s.vrn := rfl
@[simp] theorem State.emit_slc (s : State) (e : Emit) : (s.emit e).slc = s.slc := rfl
@[simp] theorem State.emit_clOwner (s : State) (e : Emit) : (s.emit e).clOwner = s.clOwner := rfl
@[simp] theorem State.emit_dma (s : State) (e : Emit) : (s.emit e).dma = s.dma := rfl
@[simp] theorem State.emit_dmaSaved (s : State) (e : Emit) : (s.emit e).dmaSaved = s.dmaSaved := rfl
@[simp] theorem State.emit_hl (s : State) (e : Emit) : (s.emit e).hl = s.hl := rfl
@[simp] theorem State.emit_progs (s : State) (e : Emit) : (s.emit e).progs = s.progs := rfl
@[simp] theorem State.emit_nvm (s : State) (e : Emit) : (s.emit e).nvm = s.nvm := rfl
@[simp] theorem State.emit_net (s : State) (e : Emit) : (s.emit e).net = s.net := rfl
@[simp] theorem State.emit_tmt (s : State) (e : Emit) : (s.emit e).tmt = s.tmt := rfl
@[simp] theorem State.emit_cph (s : State) (e : Emit) : (s.emit e).cph = s.cph := rfl
@[simp] theorem State.emit_pmu (s : State) (e : Emit) : (s.emit e).pmu = s.pmu := rfl
@[simp] theorem State.emit_hrc (s : State) (e : Emit) : (s.emit e).hrc = s.hrc := rfl
@[simp] theorem State.emit_loaded (s : State) (e : Emit) : (s.emit e).loaded = s.loaded := rfl
@[simp] theorem State.emit_ues (s : State) (e : Emit) : (s.emit e).ues = s.ues := rfl
@[simp] theorem State.emit_failing (s : State) (e : Emit) : (s.emit e).failing = s.failing := rfl
@[simp] theorem State.emit_out (s : State) (e : Emit) : (s.emit e).out = e :: s.out := rfl

/-! ### memPut -/

@[simp] theorem State.memPut_pending (s : State) (a : Nat) (bs : List Byte) : (s.memPut a bs).pending = s.pending := rfl
@[simp] theorem State.memPut_out (s : State) (a : Nat) (bs : List Byte) : (s.memPut a bs).out = s.out := rfl
@[simp] theorem State.memPut_free (s : State) (a : Nat) (bs : List Byte) : (s.memPut a bs).free = s.free := rfl
@[simp] theorem State.memPut_regs (s : State) (a : Nat) (bs : List Byte) : (s.memPut a bs).regs = s.regs := rfl
@[simp] theorem State.memPut_latch (s : State) (a : Nat) (bs : List Byte) : (s.memPut a bs).latch = s.latch := rfl
@[simp] theorem State.memPut_fab (s : State) (a : Nat) (bs : List Byte) : (s.memPut a bs).fab = s.fab := rfl
@[simp] theorem State.memPut_pw (s : State) (a : Nat) (bs : List Byte) : (s.memPut a bs).pw = s.pw := rfl
@[simp] theorem State.memPut_atl (s : State) (a : Nat) (bs : List Byte) : (s.memPut a bs).atl = s.atl := rfl
@[simp] theorem State.memPut_mbx (s : State) (a : Nat) (bs : List Byte) : (s.memPut a bs).mbx = s.mbx := rfl
@[simp] theorem State.memPut_dbg (s : State) (a : Nat) (bs : List Byte) : (s.memPut a bs).dbg = s.dbg := rfl
@[simp] theorem State.memPut_brs (s : State) (a : Nat) (bs : List Byte) : (s.memPut a bs).brs = s.brs := rfl
@[simp] theorem State.memPut_ecc (s : State) (a : Nat) (bs : List Byte) : (s.memPut a bs).ecc = s.ecc := rfl
@[simp] theorem State.memPut_cb (s : State) (a : Nat) (bs : List Byte) : (s.memPut a bs).cb = s.cb := rfl
@[simp] theorem State.memPut_own (s : State) (a : Nat) (bs : List Byte) : (s.memPut a bs).own = s.own := rfl
@[simp] theorem State.memPut_stgOwn (s : State) (a : Nat) (bs : List Byte) : (s.memPut a bs).stgOwn = s.stgOwn := rfl
@[simp] theorem State.memPut_stk (s : State) (a : Nat) (bs : List Byte) : (s.memPut a bs).stk = s.stk := rfl
@[simp] theorem State.memPut_tbl (s : State) (a : Nat) (bs : List Byte) : (s.memPut a bs).tbl = s.tbl := rfl
@[simp] theorem State.memPut_kvc (s : State) (a : Nat) (bs : List Byte) : (s.memPut a bs).kvc = s.kvc := rfl
@[simp] theorem State.memPut_seqs (s : State) (a : Nat) (bs : List Byte) : (s.memPut a bs).seqs = s.seqs := rfl
@[simp] theorem State.memPut_works (s : State) (a : Nat) (bs : List Byte) : (s.memPut a bs).works = s.works := rfl
@[simp] theorem State.memPut_nextWork (s : State) (a : Nat) (bs : List Byte) : (s.memPut a bs).nextWork = s.nextWork := rfl
@[simp] theorem State.memPut_recNo (s : State) (a : Nat) (bs : List Byte) : (s.memPut a bs).recNo = s.recNo := rfl
@[simp] theorem State.memPut_serial (s : State) (a : Nat) (bs : List Byte) : (s.memPut a bs).serial = s.serial := rfl
@[simp] theorem State.memPut_cmp (s : State) (a : Nat) (bs : List Byte) : (s.memPut a bs).cmp = s.cmp := rfl
@[simp] theorem State.memPut_syn (s : State) (a : Nat) (bs : List Byte) : (s.memPut a bs).syn = s.syn := rfl
@[simp] theorem State.memPut_shards (s : State) (a : Nat) (bs : List Byte) : (s.memPut a bs).shards = s.shards := rfl
@[simp] theorem State.memPut_vrn (s : State) (a : Nat) (bs : List Byte) : (s.memPut a bs).vrn = s.vrn := rfl
@[simp] theorem State.memPut_slc (s : State) (a : Nat) (bs : List Byte) : (s.memPut a bs).slc = s.slc := rfl
@[simp] theorem State.memPut_clOwner (s : State) (a : Nat) (bs : List Byte) : (s.memPut a bs).clOwner = s.clOwner := rfl
@[simp] theorem State.memPut_dma (s : State) (a : Nat) (bs : List Byte) : (s.memPut a bs).dma = s.dma := rfl
@[simp] theorem State.memPut_dmaSaved (s : State) (a : Nat) (bs : List Byte) : (s.memPut a bs).dmaSaved = s.dmaSaved := rfl
@[simp] theorem State.memPut_hl (s : State) (a : Nat) (bs : List Byte) : (s.memPut a bs).hl = s.hl := rfl
@[simp] theorem State.memPut_progs (s : State) (a : Nat) (bs : List Byte) : (s.memPut a bs).progs = s.progs := rfl
@[simp] theorem State.memPut_nvm (s : State) (a : Nat) (bs : List Byte) : (s.memPut a bs).nvm = s.nvm := rfl
@[simp] theorem State.memPut_net (s : State) (a : Nat) (bs : List Byte) : (s.memPut a bs).net = s.net := rfl
@[simp] theorem State.memPut_tmt (s : State) (a : Nat) (bs : List Byte) : (s.memPut a bs).tmt = s.tmt := rfl
@[simp] theorem State.memPut_cph (s : State) (a : Nat) (bs : List Byte) : (s.memPut a bs).cph = s.cph := rfl
@[simp] theorem State.memPut_pmu (s : State) (a : Nat) (bs : List Byte) : (s.memPut a bs).pmu = s.pmu := rfl
@[simp] theorem State.memPut_hrc (s : State) (a : Nat) (bs : List Byte) : (s.memPut a bs).hrc = s.hrc := rfl
@[simp] theorem State.memPut_loaded (s : State) (a : Nat) (bs : List Byte) : (s.memPut a bs).loaded = s.loaded := rfl
@[simp] theorem State.memPut_ues (s : State) (a : Nat) (bs : List Byte) : (s.memPut a bs).ues = s.ues := rfl
@[simp] theorem State.memPut_failing (s : State) (a : Nat) (bs : List Byte) : (s.memPut a bs).failing = s.failing := rfl

/-! ### setPw -/

@[simp] theorem State.setPw_pending (s : State) (p : Power) : (s.setPw p).pending = s.pending := rfl
@[simp] theorem State.setPw_out (s : State) (p : Power) : (s.setPw p).out = s.out := rfl
@[simp] theorem State.setPw_free (s : State) (p : Power) : (s.setPw p).free = s.free := rfl
@[simp] theorem State.setPw_regs (s : State) (p : Power) : (s.setPw p).regs = s.regs := rfl
@[simp] theorem State.setPw_latch (s : State) (p : Power) : (s.setPw p).latch = s.latch := rfl
@[simp] theorem State.setPw_mem (s : State) (p : Power) : (s.setPw p).mem = s.mem := rfl
@[simp] theorem State.setPw_fab (s : State) (p : Power) : (s.setPw p).fab = s.fab := rfl
@[simp] theorem State.setPw_atl (s : State) (p : Power) : (s.setPw p).atl = s.atl := rfl
@[simp] theorem State.setPw_mbx (s : State) (p : Power) : (s.setPw p).mbx = s.mbx := rfl
@[simp] theorem State.setPw_dbg (s : State) (p : Power) : (s.setPw p).dbg = s.dbg := rfl
@[simp] theorem State.setPw_brs (s : State) (p : Power) : (s.setPw p).brs = s.brs := rfl
@[simp] theorem State.setPw_ecc (s : State) (p : Power) : (s.setPw p).ecc = s.ecc := rfl
@[simp] theorem State.setPw_cb (s : State) (p : Power) : (s.setPw p).cb = s.cb := rfl
@[simp] theorem State.setPw_own (s : State) (p : Power) : (s.setPw p).own = s.own := rfl
@[simp] theorem State.setPw_stgOwn (s : State) (p : Power) : (s.setPw p).stgOwn = s.stgOwn := rfl
@[simp] theorem State.setPw_stk (s : State) (p : Power) : (s.setPw p).stk = s.stk := rfl
@[simp] theorem State.setPw_tbl (s : State) (p : Power) : (s.setPw p).tbl = s.tbl := rfl
@[simp] theorem State.setPw_kvc (s : State) (p : Power) : (s.setPw p).kvc = s.kvc := rfl
@[simp] theorem State.setPw_seqs (s : State) (p : Power) : (s.setPw p).seqs = s.seqs := rfl
@[simp] theorem State.setPw_works (s : State) (p : Power) : (s.setPw p).works = s.works := rfl
@[simp] theorem State.setPw_nextWork (s : State) (p : Power) : (s.setPw p).nextWork = s.nextWork := rfl
@[simp] theorem State.setPw_recNo (s : State) (p : Power) : (s.setPw p).recNo = s.recNo := rfl
@[simp] theorem State.setPw_serial (s : State) (p : Power) : (s.setPw p).serial = s.serial := rfl
@[simp] theorem State.setPw_cmp (s : State) (p : Power) : (s.setPw p).cmp = s.cmp := rfl
@[simp] theorem State.setPw_syn (s : State) (p : Power) : (s.setPw p).syn = s.syn := rfl
@[simp] theorem State.setPw_shards (s : State) (p : Power) : (s.setPw p).shards = s.shards := rfl
@[simp] theorem State.setPw_vrn (s : State) (p : Power) : (s.setPw p).vrn = s.vrn := rfl
@[simp] theorem State.setPw_slc (s : State) (p : Power) : (s.setPw p).slc = s.slc := rfl
@[simp] theorem State.setPw_clOwner (s : State) (p : Power) : (s.setPw p).clOwner = s.clOwner := rfl
@[simp] theorem State.setPw_dma (s : State) (p : Power) : (s.setPw p).dma = s.dma := rfl
@[simp] theorem State.setPw_dmaSaved (s : State) (p : Power) : (s.setPw p).dmaSaved = s.dmaSaved := rfl
@[simp] theorem State.setPw_hl (s : State) (p : Power) : (s.setPw p).hl = s.hl := rfl
@[simp] theorem State.setPw_progs (s : State) (p : Power) : (s.setPw p).progs = s.progs := rfl
@[simp] theorem State.setPw_nvm (s : State) (p : Power) : (s.setPw p).nvm = s.nvm := rfl
@[simp] theorem State.setPw_net (s : State) (p : Power) : (s.setPw p).net = s.net := rfl
@[simp] theorem State.setPw_tmt (s : State) (p : Power) : (s.setPw p).tmt = s.tmt := rfl
@[simp] theorem State.setPw_cph (s : State) (p : Power) : (s.setPw p).cph = s.cph := rfl
@[simp] theorem State.setPw_pmu (s : State) (p : Power) : (s.setPw p).pmu = s.pmu := rfl
@[simp] theorem State.setPw_hrc (s : State) (p : Power) : (s.setPw p).hrc = s.hrc := rfl
@[simp] theorem State.setPw_loaded (s : State) (p : Power) : (s.setPw p).loaded = s.loaded := rfl
@[simp] theorem State.setPw_ues (s : State) (p : Power) : (s.setPw p).ues = s.ues := rfl
@[simp] theorem State.setPw_failing (s : State) (p : Power) : (s.setPw p).failing = s.failing := rfl
@[simp] theorem State.setPw_pw (s : State) (p : Power) : (s.setPw p).pw = p := rfl

/-! ### setDbg -/

@[simp] theorem State.setDbg_pending (s : State) (d : Debug) : (s.setDbg d).pending = s.pending := rfl
@[simp] theorem State.setDbg_out (s : State) (d : Debug) : (s.setDbg d).out = s.out := rfl
@[simp] theorem State.setDbg_free (s : State) (d : Debug) : (s.setDbg d).free = s.free := rfl
@[simp] theorem State.setDbg_regs (s : State) (d : Debug) : (s.setDbg d).regs = s.regs := rfl
@[simp] theorem State.setDbg_latch (s : State) (d : Debug) : (s.setDbg d).latch = s.latch := rfl
@[simp] theorem State.setDbg_mem (s : State) (d : Debug) : (s.setDbg d).mem = s.mem := rfl
@[simp] theorem State.setDbg_fab (s : State) (d : Debug) : (s.setDbg d).fab = s.fab := rfl
@[simp] theorem State.setDbg_pw (s : State) (d : Debug) : (s.setDbg d).pw = s.pw := rfl
@[simp] theorem State.setDbg_atl (s : State) (d : Debug) : (s.setDbg d).atl = s.atl := rfl
@[simp] theorem State.setDbg_mbx (s : State) (d : Debug) : (s.setDbg d).mbx = s.mbx := rfl
@[simp] theorem State.setDbg_brs (s : State) (d : Debug) : (s.setDbg d).brs = s.brs := rfl
@[simp] theorem State.setDbg_ecc (s : State) (d : Debug) : (s.setDbg d).ecc = s.ecc := rfl
@[simp] theorem State.setDbg_cb (s : State) (d : Debug) : (s.setDbg d).cb = s.cb := rfl
@[simp] theorem State.setDbg_own (s : State) (d : Debug) : (s.setDbg d).own = s.own := rfl
@[simp] theorem State.setDbg_stgOwn (s : State) (d : Debug) : (s.setDbg d).stgOwn = s.stgOwn := rfl
@[simp] theorem State.setDbg_stk (s : State) (d : Debug) : (s.setDbg d).stk = s.stk := rfl
@[simp] theorem State.setDbg_tbl (s : State) (d : Debug) : (s.setDbg d).tbl = s.tbl := rfl
@[simp] theorem State.setDbg_kvc (s : State) (d : Debug) : (s.setDbg d).kvc = s.kvc := rfl
@[simp] theorem State.setDbg_seqs (s : State) (d : Debug) : (s.setDbg d).seqs = s.seqs := rfl
@[simp] theorem State.setDbg_works (s : State) (d : Debug) : (s.setDbg d).works = s.works := rfl
@[simp] theorem State.setDbg_nextWork (s : State) (d : Debug) : (s.setDbg d).nextWork = s.nextWork := rfl
@[simp] theorem State.setDbg_recNo (s : State) (d : Debug) : (s.setDbg d).recNo = s.recNo := rfl
@[simp] theorem State.setDbg_serial (s : State) (d : Debug) : (s.setDbg d).serial = s.serial := rfl
@[simp] theorem State.setDbg_cmp (s : State) (d : Debug) : (s.setDbg d).cmp = s.cmp := rfl
@[simp] theorem State.setDbg_syn (s : State) (d : Debug) : (s.setDbg d).syn = s.syn := rfl
@[simp] theorem State.setDbg_shards (s : State) (d : Debug) : (s.setDbg d).shards = s.shards := rfl
@[simp] theorem State.setDbg_vrn (s : State) (d : Debug) : (s.setDbg d).vrn = s.vrn := rfl
@[simp] theorem State.setDbg_slc (s : State) (d : Debug) : (s.setDbg d).slc = s.slc := rfl
@[simp] theorem State.setDbg_clOwner (s : State) (d : Debug) : (s.setDbg d).clOwner = s.clOwner := rfl
@[simp] theorem State.setDbg_dma (s : State) (d : Debug) : (s.setDbg d).dma = s.dma := rfl
@[simp] theorem State.setDbg_dmaSaved (s : State) (d : Debug) : (s.setDbg d).dmaSaved = s.dmaSaved := rfl
@[simp] theorem State.setDbg_hl (s : State) (d : Debug) : (s.setDbg d).hl = s.hl := rfl
@[simp] theorem State.setDbg_progs (s : State) (d : Debug) : (s.setDbg d).progs = s.progs := rfl
@[simp] theorem State.setDbg_nvm (s : State) (d : Debug) : (s.setDbg d).nvm = s.nvm := rfl
@[simp] theorem State.setDbg_net (s : State) (d : Debug) : (s.setDbg d).net = s.net := rfl
@[simp] theorem State.setDbg_tmt (s : State) (d : Debug) : (s.setDbg d).tmt = s.tmt := rfl
@[simp] theorem State.setDbg_cph (s : State) (d : Debug) : (s.setDbg d).cph = s.cph := rfl
@[simp] theorem State.setDbg_pmu (s : State) (d : Debug) : (s.setDbg d).pmu = s.pmu := rfl
@[simp] theorem State.setDbg_hrc (s : State) (d : Debug) : (s.setDbg d).hrc = s.hrc := rfl
@[simp] theorem State.setDbg_loaded (s : State) (d : Debug) : (s.setDbg d).loaded = s.loaded := rfl
@[simp] theorem State.setDbg_ues (s : State) (d : Debug) : (s.setDbg d).ues = s.ues := rfl
@[simp] theorem State.setDbg_failing (s : State) (d : Debug) : (s.setDbg d).failing = s.failing := rfl
@[simp] theorem State.setDbg_dbg (s : State) (d : Debug) : (s.setDbg d).dbg = d := rfl

/-! ### setBr -/

@[simp] theorem State.setBr_pending (s : State) (b : Nat) (x : Bristle) : (s.setBr b x).pending = s.pending := rfl
@[simp] theorem State.setBr_out (s : State) (b : Nat) (x : Bristle) : (s.setBr b x).out = s.out := rfl
@[simp] theorem State.setBr_free (s : State) (b : Nat) (x : Bristle) : (s.setBr b x).free = s.free := rfl
@[simp] theorem State.setBr_regs (s : State) (b : Nat) (x : Bristle) : (s.setBr b x).regs = s.regs := rfl
@[simp] theorem State.setBr_latch (s : State) (b : Nat) (x : Bristle) : (s.setBr b x).latch = s.latch := rfl
@[simp] theorem State.setBr_mem (s : State) (b : Nat) (x : Bristle) : (s.setBr b x).mem = s.mem := rfl
@[simp] theorem State.setBr_fab (s : State) (b : Nat) (x : Bristle) : (s.setBr b x).fab = s.fab := rfl
@[simp] theorem State.setBr_pw (s : State) (b : Nat) (x : Bristle) : (s.setBr b x).pw = s.pw := rfl
@[simp] theorem State.setBr_atl (s : State) (b : Nat) (x : Bristle) : (s.setBr b x).atl = s.atl := rfl
@[simp] theorem State.setBr_mbx (s : State) (b : Nat) (x : Bristle) : (s.setBr b x).mbx = s.mbx := rfl
@[simp] theorem State.setBr_dbg (s : State) (b : Nat) (x : Bristle) : (s.setBr b x).dbg = s.dbg := rfl
@[simp] theorem State.setBr_ecc (s : State) (b : Nat) (x : Bristle) : (s.setBr b x).ecc = s.ecc := rfl
@[simp] theorem State.setBr_cb (s : State) (b : Nat) (x : Bristle) : (s.setBr b x).cb = s.cb := rfl
@[simp] theorem State.setBr_own (s : State) (b : Nat) (x : Bristle) : (s.setBr b x).own = s.own := rfl
@[simp] theorem State.setBr_stgOwn (s : State) (b : Nat) (x : Bristle) : (s.setBr b x).stgOwn = s.stgOwn := rfl
@[simp] theorem State.setBr_stk (s : State) (b : Nat) (x : Bristle) : (s.setBr b x).stk = s.stk := rfl
@[simp] theorem State.setBr_tbl (s : State) (b : Nat) (x : Bristle) : (s.setBr b x).tbl = s.tbl := rfl
@[simp] theorem State.setBr_kvc (s : State) (b : Nat) (x : Bristle) : (s.setBr b x).kvc = s.kvc := rfl
@[simp] theorem State.setBr_seqs (s : State) (b : Nat) (x : Bristle) : (s.setBr b x).seqs = s.seqs := rfl
@[simp] theorem State.setBr_works (s : State) (b : Nat) (x : Bristle) : (s.setBr b x).works = s.works := rfl
@[simp] theorem State.setBr_nextWork (s : State) (b : Nat) (x : Bristle) : (s.setBr b x).nextWork = s.nextWork := rfl
@[simp] theorem State.setBr_recNo (s : State) (b : Nat) (x : Bristle) : (s.setBr b x).recNo = s.recNo := rfl
@[simp] theorem State.setBr_serial (s : State) (b : Nat) (x : Bristle) : (s.setBr b x).serial = s.serial := rfl
@[simp] theorem State.setBr_cmp (s : State) (b : Nat) (x : Bristle) : (s.setBr b x).cmp = s.cmp := rfl
@[simp] theorem State.setBr_syn (s : State) (b : Nat) (x : Bristle) : (s.setBr b x).syn = s.syn := rfl
@[simp] theorem State.setBr_shards (s : State) (b : Nat) (x : Bristle) : (s.setBr b x).shards = s.shards := rfl
@[simp] theorem State.setBr_vrn (s : State) (b : Nat) (x : Bristle) : (s.setBr b x).vrn = s.vrn := rfl
@[simp] theorem State.setBr_slc (s : State) (b : Nat) (x : Bristle) : (s.setBr b x).slc = s.slc := rfl
@[simp] theorem State.setBr_clOwner (s : State) (b : Nat) (x : Bristle) : (s.setBr b x).clOwner = s.clOwner := rfl
@[simp] theorem State.setBr_dma (s : State) (b : Nat) (x : Bristle) : (s.setBr b x).dma = s.dma := rfl
@[simp] theorem State.setBr_dmaSaved (s : State) (b : Nat) (x : Bristle) : (s.setBr b x).dmaSaved = s.dmaSaved := rfl
@[simp] theorem State.setBr_hl (s : State) (b : Nat) (x : Bristle) : (s.setBr b x).hl = s.hl := rfl
@[simp] theorem State.setBr_progs (s : State) (b : Nat) (x : Bristle) : (s.setBr b x).progs = s.progs := rfl
@[simp] theorem State.setBr_nvm (s : State) (b : Nat) (x : Bristle) : (s.setBr b x).nvm = s.nvm := rfl
@[simp] theorem State.setBr_net (s : State) (b : Nat) (x : Bristle) : (s.setBr b x).net = s.net := rfl
@[simp] theorem State.setBr_tmt (s : State) (b : Nat) (x : Bristle) : (s.setBr b x).tmt = s.tmt := rfl
@[simp] theorem State.setBr_cph (s : State) (b : Nat) (x : Bristle) : (s.setBr b x).cph = s.cph := rfl
@[simp] theorem State.setBr_pmu (s : State) (b : Nat) (x : Bristle) : (s.setBr b x).pmu = s.pmu := rfl
@[simp] theorem State.setBr_hrc (s : State) (b : Nat) (x : Bristle) : (s.setBr b x).hrc = s.hrc := rfl
@[simp] theorem State.setBr_loaded (s : State) (b : Nat) (x : Bristle) : (s.setBr b x).loaded = s.loaded := rfl
@[simp] theorem State.setBr_ues (s : State) (b : Nat) (x : Bristle) : (s.setBr b x).ues = s.ues := rfl
@[simp] theorem State.setBr_failing (s : State) (b : Nat) (x : Bristle) : (s.setBr b x).failing = s.failing := rfl

/-! ### setSyn -/

@[simp] theorem State.setSyn_pending (s : State) (y : Sync) : (s.setSyn y).pending = s.pending := rfl
@[simp] theorem State.setSyn_out (s : State) (y : Sync) : (s.setSyn y).out = s.out := rfl
@[simp] theorem State.setSyn_free (s : State) (y : Sync) : (s.setSyn y).free = s.free := rfl
@[simp] theorem State.setSyn_regs (s : State) (y : Sync) : (s.setSyn y).regs = s.regs := rfl
@[simp] theorem State.setSyn_latch (s : State) (y : Sync) : (s.setSyn y).latch = s.latch := rfl
@[simp] theorem State.setSyn_mem (s : State) (y : Sync) : (s.setSyn y).mem = s.mem := rfl
@[simp] theorem State.setSyn_fab (s : State) (y : Sync) : (s.setSyn y).fab = s.fab := rfl
@[simp] theorem State.setSyn_pw (s : State) (y : Sync) : (s.setSyn y).pw = s.pw := rfl
@[simp] theorem State.setSyn_atl (s : State) (y : Sync) : (s.setSyn y).atl = s.atl := rfl
@[simp] theorem State.setSyn_mbx (s : State) (y : Sync) : (s.setSyn y).mbx = s.mbx := rfl
@[simp] theorem State.setSyn_dbg (s : State) (y : Sync) : (s.setSyn y).dbg = s.dbg := rfl
@[simp] theorem State.setSyn_brs (s : State) (y : Sync) : (s.setSyn y).brs = s.brs := rfl
@[simp] theorem State.setSyn_ecc (s : State) (y : Sync) : (s.setSyn y).ecc = s.ecc := rfl
@[simp] theorem State.setSyn_cb (s : State) (y : Sync) : (s.setSyn y).cb = s.cb := rfl
@[simp] theorem State.setSyn_own (s : State) (y : Sync) : (s.setSyn y).own = s.own := rfl
@[simp] theorem State.setSyn_stgOwn (s : State) (y : Sync) : (s.setSyn y).stgOwn = s.stgOwn := rfl
@[simp] theorem State.setSyn_stk (s : State) (y : Sync) : (s.setSyn y).stk = s.stk := rfl
@[simp] theorem State.setSyn_tbl (s : State) (y : Sync) : (s.setSyn y).tbl = s.tbl := rfl
@[simp] theorem State.setSyn_kvc (s : State) (y : Sync) : (s.setSyn y).kvc = s.kvc := rfl
@[simp] theorem State.setSyn_seqs (s : State) (y : Sync) : (s.setSyn y).seqs = s.seqs := rfl
@[simp] theorem State.setSyn_works (s : State) (y : Sync) : (s.setSyn y).works = s.works := rfl
@[simp] theorem State.setSyn_nextWork (s : State) (y : Sync) : (s.setSyn y).nextWork = s.nextWork := rfl
@[simp] theorem State.setSyn_recNo (s : State) (y : Sync) : (s.setSyn y).recNo = s.recNo := rfl
@[simp] theorem State.setSyn_serial (s : State) (y : Sync) : (s.setSyn y).serial = s.serial := rfl
@[simp] theorem State.setSyn_cmp (s : State) (y : Sync) : (s.setSyn y).cmp = s.cmp := rfl
@[simp] theorem State.setSyn_shards (s : State) (y : Sync) : (s.setSyn y).shards = s.shards := rfl
@[simp] theorem State.setSyn_vrn (s : State) (y : Sync) : (s.setSyn y).vrn = s.vrn := rfl
@[simp] theorem State.setSyn_slc (s : State) (y : Sync) : (s.setSyn y).slc = s.slc := rfl
@[simp] theorem State.setSyn_clOwner (s : State) (y : Sync) : (s.setSyn y).clOwner = s.clOwner := rfl
@[simp] theorem State.setSyn_dma (s : State) (y : Sync) : (s.setSyn y).dma = s.dma := rfl
@[simp] theorem State.setSyn_dmaSaved (s : State) (y : Sync) : (s.setSyn y).dmaSaved = s.dmaSaved := rfl
@[simp] theorem State.setSyn_hl (s : State) (y : Sync) : (s.setSyn y).hl = s.hl := rfl
@[simp] theorem State.setSyn_progs (s : State) (y : Sync) : (s.setSyn y).progs = s.progs := rfl
@[simp] theorem State.setSyn_nvm (s : State) (y : Sync) : (s.setSyn y).nvm = s.nvm := rfl
@[simp] theorem State.setSyn_net (s : State) (y : Sync) : (s.setSyn y).net = s.net := rfl
@[simp] theorem State.setSyn_tmt (s : State) (y : Sync) : (s.setSyn y).tmt = s.tmt := rfl
@[simp] theorem State.setSyn_cph (s : State) (y : Sync) : (s.setSyn y).cph = s.cph := rfl
@[simp] theorem State.setSyn_pmu (s : State) (y : Sync) : (s.setSyn y).pmu = s.pmu := rfl
@[simp] theorem State.setSyn_hrc (s : State) (y : Sync) : (s.setSyn y).hrc = s.hrc := rfl
@[simp] theorem State.setSyn_loaded (s : State) (y : Sync) : (s.setSyn y).loaded = s.loaded := rfl
@[simp] theorem State.setSyn_ues (s : State) (y : Sync) : (s.setSyn y).ues = s.ues := rfl
@[simp] theorem State.setSyn_failing (s : State) (y : Sync) : (s.setSyn y).failing = s.failing := rfl
@[simp] theorem State.setSyn_syn (s : State) (y : Sync) : (s.setSyn y).syn = y := rfl

/-! ### setSx -/

@[simp] theorem State.setSx_pending (s : State) (sl : Nat) (x : SliceX) : (s.setSx sl x).pending = s.pending := rfl
@[simp] theorem State.setSx_out (s : State) (sl : Nat) (x : SliceX) : (s.setSx sl x).out = s.out := rfl
@[simp] theorem State.setSx_free (s : State) (sl : Nat) (x : SliceX) : (s.setSx sl x).free = s.free := rfl
@[simp] theorem State.setSx_regs (s : State) (sl : Nat) (x : SliceX) : (s.setSx sl x).regs = s.regs := rfl
@[simp] theorem State.setSx_latch (s : State) (sl : Nat) (x : SliceX) : (s.setSx sl x).latch = s.latch := rfl
@[simp] theorem State.setSx_mem (s : State) (sl : Nat) (x : SliceX) : (s.setSx sl x).mem = s.mem := rfl
@[simp] theorem State.setSx_fab (s : State) (sl : Nat) (x : SliceX) : (s.setSx sl x).fab = s.fab := rfl
@[simp] theorem State.setSx_pw (s : State) (sl : Nat) (x : SliceX) : (s.setSx sl x).pw = s.pw := rfl
@[simp] theorem State.setSx_atl (s : State) (sl : Nat) (x : SliceX) : (s.setSx sl x).atl = s.atl := rfl
@[simp] theorem State.setSx_mbx (s : State) (sl : Nat) (x : SliceX) : (s.setSx sl x).mbx = s.mbx := rfl
@[simp] theorem State.setSx_dbg (s : State) (sl : Nat) (x : SliceX) : (s.setSx sl x).dbg = s.dbg := rfl
@[simp] theorem State.setSx_brs (s : State) (sl : Nat) (x : SliceX) : (s.setSx sl x).brs = s.brs := rfl
@[simp] theorem State.setSx_ecc (s : State) (sl : Nat) (x : SliceX) : (s.setSx sl x).ecc = s.ecc := rfl
@[simp] theorem State.setSx_cb (s : State) (sl : Nat) (x : SliceX) : (s.setSx sl x).cb = s.cb := rfl
@[simp] theorem State.setSx_own (s : State) (sl : Nat) (x : SliceX) : (s.setSx sl x).own = s.own := rfl
@[simp] theorem State.setSx_stgOwn (s : State) (sl : Nat) (x : SliceX) : (s.setSx sl x).stgOwn = s.stgOwn := rfl
@[simp] theorem State.setSx_stk (s : State) (sl : Nat) (x : SliceX) : (s.setSx sl x).stk = s.stk := rfl
@[simp] theorem State.setSx_tbl (s : State) (sl : Nat) (x : SliceX) : (s.setSx sl x).tbl = s.tbl := rfl
@[simp] theorem State.setSx_kvc (s : State) (sl : Nat) (x : SliceX) : (s.setSx sl x).kvc = s.kvc := rfl
@[simp] theorem State.setSx_seqs (s : State) (sl : Nat) (x : SliceX) : (s.setSx sl x).seqs = s.seqs := rfl
@[simp] theorem State.setSx_works (s : State) (sl : Nat) (x : SliceX) : (s.setSx sl x).works = s.works := rfl
@[simp] theorem State.setSx_nextWork (s : State) (sl : Nat) (x : SliceX) : (s.setSx sl x).nextWork = s.nextWork := rfl
@[simp] theorem State.setSx_recNo (s : State) (sl : Nat) (x : SliceX) : (s.setSx sl x).recNo = s.recNo := rfl
@[simp] theorem State.setSx_serial (s : State) (sl : Nat) (x : SliceX) : (s.setSx sl x).serial = s.serial := rfl
@[simp] theorem State.setSx_cmp (s : State) (sl : Nat) (x : SliceX) : (s.setSx sl x).cmp = s.cmp := rfl
@[simp] theorem State.setSx_syn (s : State) (sl : Nat) (x : SliceX) : (s.setSx sl x).syn = s.syn := rfl
@[simp] theorem State.setSx_shards (s : State) (sl : Nat) (x : SliceX) : (s.setSx sl x).shards = s.shards := rfl
@[simp] theorem State.setSx_vrn (s : State) (sl : Nat) (x : SliceX) : (s.setSx sl x).vrn = s.vrn := rfl
@[simp] theorem State.setSx_clOwner (s : State) (sl : Nat) (x : SliceX) : (s.setSx sl x).clOwner = s.clOwner := rfl
@[simp] theorem State.setSx_dma (s : State) (sl : Nat) (x : SliceX) : (s.setSx sl x).dma = s.dma := rfl
@[simp] theorem State.setSx_dmaSaved (s : State) (sl : Nat) (x : SliceX) : (s.setSx sl x).dmaSaved = s.dmaSaved := rfl
@[simp] theorem State.setSx_hl (s : State) (sl : Nat) (x : SliceX) : (s.setSx sl x).hl = s.hl := rfl
@[simp] theorem State.setSx_progs (s : State) (sl : Nat) (x : SliceX) : (s.setSx sl x).progs = s.progs := rfl
@[simp] theorem State.setSx_nvm (s : State) (sl : Nat) (x : SliceX) : (s.setSx sl x).nvm = s.nvm := rfl
@[simp] theorem State.setSx_net (s : State) (sl : Nat) (x : SliceX) : (s.setSx sl x).net = s.net := rfl
@[simp] theorem State.setSx_tmt (s : State) (sl : Nat) (x : SliceX) : (s.setSx sl x).tmt = s.tmt := rfl
@[simp] theorem State.setSx_cph (s : State) (sl : Nat) (x : SliceX) : (s.setSx sl x).cph = s.cph := rfl
@[simp] theorem State.setSx_pmu (s : State) (sl : Nat) (x : SliceX) : (s.setSx sl x).pmu = s.pmu := rfl
@[simp] theorem State.setSx_hrc (s : State) (sl : Nat) (x : SliceX) : (s.setSx sl x).hrc = s.hrc := rfl
@[simp] theorem State.setSx_loaded (s : State) (sl : Nat) (x : SliceX) : (s.setSx sl x).loaded = s.loaded := rfl
@[simp] theorem State.setSx_ues (s : State) (sl : Nat) (x : SliceX) : (s.setSx sl x).ues = s.ues := rfl
@[simp] theorem State.setSx_failing (s : State) (sl : Nat) (x : SliceX) : (s.setSx sl x).failing = s.failing := rfl

/-! ### setPort -/

@[simp] theorem State.setPort_pending (s : State) (p : Nat) (x : PortX) : (s.setPort p x).pending = s.pending := rfl
@[simp] theorem State.setPort_out (s : State) (p : Nat) (x : PortX) : (s.setPort p x).out = s.out := rfl
@[simp] theorem State.setPort_free (s : State) (p : Nat) (x : PortX) : (s.setPort p x).free = s.free := rfl
@[simp] theorem State.setPort_regs (s : State) (p : Nat) (x : PortX) : (s.setPort p x).regs = s.regs := rfl
@[simp] theorem State.setPort_latch (s : State) (p : Nat) (x : PortX) : (s.setPort p x).latch = s.latch := rfl
@[simp] theorem State.setPort_mem (s : State) (p : Nat) (x : PortX) : (s.setPort p x).mem = s.mem := rfl
@[simp] theorem State.setPort_fab (s : State) (p : Nat) (x : PortX) : (s.setPort p x).fab = s.fab := rfl
@[simp] theorem State.setPort_pw (s : State) (p : Nat) (x : PortX) : (s.setPort p x).pw = s.pw := rfl
@[simp] theorem State.setPort_atl (s : State) (p : Nat) (x : PortX) : (s.setPort p x).atl = s.atl := rfl
@[simp] theorem State.setPort_mbx (s : State) (p : Nat) (x : PortX) : (s.setPort p x).mbx = s.mbx := rfl
@[simp] theorem State.setPort_dbg (s : State) (p : Nat) (x : PortX) : (s.setPort p x).dbg = s.dbg := rfl
@[simp] theorem State.setPort_brs (s : State) (p : Nat) (x : PortX) : (s.setPort p x).brs = s.brs := rfl
@[simp] theorem State.setPort_ecc (s : State) (p : Nat) (x : PortX) : (s.setPort p x).ecc = s.ecc := rfl
@[simp] theorem State.setPort_cb (s : State) (p : Nat) (x : PortX) : (s.setPort p x).cb = s.cb := rfl
@[simp] theorem State.setPort_own (s : State) (p : Nat) (x : PortX) : (s.setPort p x).own = s.own := rfl
@[simp] theorem State.setPort_stgOwn (s : State) (p : Nat) (x : PortX) : (s.setPort p x).stgOwn = s.stgOwn := rfl
@[simp] theorem State.setPort_stk (s : State) (p : Nat) (x : PortX) : (s.setPort p x).stk = s.stk := rfl
@[simp] theorem State.setPort_tbl (s : State) (p : Nat) (x : PortX) : (s.setPort p x).tbl = s.tbl := rfl
@[simp] theorem State.setPort_kvc (s : State) (p : Nat) (x : PortX) : (s.setPort p x).kvc = s.kvc := rfl
@[simp] theorem State.setPort_seqs (s : State) (p : Nat) (x : PortX) : (s.setPort p x).seqs = s.seqs := rfl
@[simp] theorem State.setPort_works (s : State) (p : Nat) (x : PortX) : (s.setPort p x).works = s.works := rfl
@[simp] theorem State.setPort_nextWork (s : State) (p : Nat) (x : PortX) : (s.setPort p x).nextWork = s.nextWork := rfl
@[simp] theorem State.setPort_recNo (s : State) (p : Nat) (x : PortX) : (s.setPort p x).recNo = s.recNo := rfl
@[simp] theorem State.setPort_serial (s : State) (p : Nat) (x : PortX) : (s.setPort p x).serial = s.serial := rfl
@[simp] theorem State.setPort_cmp (s : State) (p : Nat) (x : PortX) : (s.setPort p x).cmp = s.cmp := rfl
@[simp] theorem State.setPort_syn (s : State) (p : Nat) (x : PortX) : (s.setPort p x).syn = s.syn := rfl
@[simp] theorem State.setPort_shards (s : State) (p : Nat) (x : PortX) : (s.setPort p x).shards = s.shards := rfl
@[simp] theorem State.setPort_vrn (s : State) (p : Nat) (x : PortX) : (s.setPort p x).vrn = s.vrn := rfl
@[simp] theorem State.setPort_slc (s : State) (p : Nat) (x : PortX) : (s.setPort p x).slc = s.slc := rfl
@[simp] theorem State.setPort_clOwner (s : State) (p : Nat) (x : PortX) : (s.setPort p x).clOwner = s.clOwner := rfl
@[simp] theorem State.setPort_dma (s : State) (p : Nat) (x : PortX) : (s.setPort p x).dma = s.dma := rfl
@[simp] theorem State.setPort_dmaSaved (s : State) (p : Nat) (x : PortX) : (s.setPort p x).dmaSaved = s.dmaSaved := rfl
@[simp] theorem State.setPort_progs (s : State) (p : Nat) (x : PortX) : (s.setPort p x).progs = s.progs := rfl
@[simp] theorem State.setPort_nvm (s : State) (p : Nat) (x : PortX) : (s.setPort p x).nvm = s.nvm := rfl
@[simp] theorem State.setPort_net (s : State) (p : Nat) (x : PortX) : (s.setPort p x).net = s.net := rfl
@[simp] theorem State.setPort_tmt (s : State) (p : Nat) (x : PortX) : (s.setPort p x).tmt = s.tmt := rfl
@[simp] theorem State.setPort_cph (s : State) (p : Nat) (x : PortX) : (s.setPort p x).cph = s.cph := rfl
@[simp] theorem State.setPort_pmu (s : State) (p : Nat) (x : PortX) : (s.setPort p x).pmu = s.pmu := rfl
@[simp] theorem State.setPort_hrc (s : State) (p : Nat) (x : PortX) : (s.setPort p x).hrc = s.hrc := rfl
@[simp] theorem State.setPort_loaded (s : State) (p : Nat) (x : PortX) : (s.setPort p x).loaded = s.loaded := rfl
@[simp] theorem State.setPort_ues (s : State) (p : Nat) (x : PortX) : (s.setPort p x).ues = s.ues := rfl
@[simp] theorem State.setPort_failing (s : State) (p : Nat) (x : PortX) : (s.setPort p x).failing = s.failing := rfl

/-! ### setChan -/

@[simp] theorem State.setChan_pending (s : State) (e k : Nat) (d : DmaChan) : (s.setChan e k d).pending = s.pending := rfl
@[simp] theorem State.setChan_out (s : State) (e k : Nat) (d : DmaChan) : (s.setChan e k d).out = s.out := rfl
@[simp] theorem State.setChan_free (s : State) (e k : Nat) (d : DmaChan) : (s.setChan e k d).free = s.free := rfl
@[simp] theorem State.setChan_regs (s : State) (e k : Nat) (d : DmaChan) : (s.setChan e k d).regs = s.regs := rfl
@[simp] theorem State.setChan_latch (s : State) (e k : Nat) (d : DmaChan) : (s.setChan e k d).latch = s.latch := rfl
@[simp] theorem State.setChan_mem (s : State) (e k : Nat) (d : DmaChan) : (s.setChan e k d).mem = s.mem := rfl
@[simp] theorem State.setChan_fab (s : State) (e k : Nat) (d : DmaChan) : (s.setChan e k d).fab = s.fab := rfl
@[simp] theorem State.setChan_pw (s : State) (e k : Nat) (d : DmaChan) : (s.setChan e k d).pw = s.pw := rfl
@[simp] theorem State.setChan_atl (s : State) (e k : Nat) (d : DmaChan) : (s.setChan e k d).atl = s.atl := rfl
@[simp] theorem State.setChan_mbx (s : State) (e k : Nat) (d : DmaChan) : (s.setChan e k d).mbx = s.mbx := rfl
@[simp] theorem State.setChan_dbg (s : State) (e k : Nat) (d : DmaChan) : (s.setChan e k d).dbg = s.dbg := rfl
@[simp] theorem State.setChan_brs (s : State) (e k : Nat) (d : DmaChan) : (s.setChan e k d).brs = s.brs := rfl
@[simp] theorem State.setChan_ecc (s : State) (e k : Nat) (d : DmaChan) : (s.setChan e k d).ecc = s.ecc := rfl
@[simp] theorem State.setChan_cb (s : State) (e k : Nat) (d : DmaChan) : (s.setChan e k d).cb = s.cb := rfl
@[simp] theorem State.setChan_own (s : State) (e k : Nat) (d : DmaChan) : (s.setChan e k d).own = s.own := rfl
@[simp] theorem State.setChan_stgOwn (s : State) (e k : Nat) (d : DmaChan) : (s.setChan e k d).stgOwn = s.stgOwn := rfl
@[simp] theorem State.setChan_stk (s : State) (e k : Nat) (d : DmaChan) : (s.setChan e k d).stk = s.stk := rfl
@[simp] theorem State.setChan_tbl (s : State) (e k : Nat) (d : DmaChan) : (s.setChan e k d).tbl = s.tbl := rfl
@[simp] theorem State.setChan_kvc (s : State) (e k : Nat) (d : DmaChan) : (s.setChan e k d).kvc = s.kvc := rfl
@[simp] theorem State.setChan_seqs (s : State) (e k : Nat) (d : DmaChan) : (s.setChan e k d).seqs = s.seqs := rfl
@[simp] theorem State.setChan_works (s : State) (e k : Nat) (d : DmaChan) : (s.setChan e k d).works = s.works := rfl
@[simp] theorem State.setChan_nextWork (s : State) (e k : Nat) (d : DmaChan) : (s.setChan e k d).nextWork = s.nextWork := rfl
@[simp] theorem State.setChan_recNo (s : State) (e k : Nat) (d : DmaChan) : (s.setChan e k d).recNo = s.recNo := rfl
@[simp] theorem State.setChan_serial (s : State) (e k : Nat) (d : DmaChan) : (s.setChan e k d).serial = s.serial := rfl
@[simp] theorem State.setChan_cmp (s : State) (e k : Nat) (d : DmaChan) : (s.setChan e k d).cmp = s.cmp := rfl
@[simp] theorem State.setChan_syn (s : State) (e k : Nat) (d : DmaChan) : (s.setChan e k d).syn = s.syn := rfl
@[simp] theorem State.setChan_shards (s : State) (e k : Nat) (d : DmaChan) : (s.setChan e k d).shards = s.shards := rfl
@[simp] theorem State.setChan_vrn (s : State) (e k : Nat) (d : DmaChan) : (s.setChan e k d).vrn = s.vrn := rfl
@[simp] theorem State.setChan_slc (s : State) (e k : Nat) (d : DmaChan) : (s.setChan e k d).slc = s.slc := rfl
@[simp] theorem State.setChan_clOwner (s : State) (e k : Nat) (d : DmaChan) : (s.setChan e k d).clOwner = s.clOwner := rfl
@[simp] theorem State.setChan_dmaSaved (s : State) (e k : Nat) (d : DmaChan) : (s.setChan e k d).dmaSaved = s.dmaSaved := rfl
@[simp] theorem State.setChan_hl (s : State) (e k : Nat) (d : DmaChan) : (s.setChan e k d).hl = s.hl := rfl
@[simp] theorem State.setChan_progs (s : State) (e k : Nat) (d : DmaChan) : (s.setChan e k d).progs = s.progs := rfl
@[simp] theorem State.setChan_nvm (s : State) (e k : Nat) (d : DmaChan) : (s.setChan e k d).nvm = s.nvm := rfl
@[simp] theorem State.setChan_net (s : State) (e k : Nat) (d : DmaChan) : (s.setChan e k d).net = s.net := rfl
@[simp] theorem State.setChan_tmt (s : State) (e k : Nat) (d : DmaChan) : (s.setChan e k d).tmt = s.tmt := rfl
@[simp] theorem State.setChan_cph (s : State) (e k : Nat) (d : DmaChan) : (s.setChan e k d).cph = s.cph := rfl
@[simp] theorem State.setChan_pmu (s : State) (e k : Nat) (d : DmaChan) : (s.setChan e k d).pmu = s.pmu := rfl
@[simp] theorem State.setChan_hrc (s : State) (e k : Nat) (d : DmaChan) : (s.setChan e k d).hrc = s.hrc := rfl
@[simp] theorem State.setChan_loaded (s : State) (e k : Nat) (d : DmaChan) : (s.setChan e k d).loaded = s.loaded := rfl
@[simp] theorem State.setChan_ues (s : State) (e k : Nat) (d : DmaChan) : (s.setChan e k d).ues = s.ues := rfl
@[simp] theorem State.setChan_failing (s : State) (e k : Nat) (d : DmaChan) : (s.setChan e k d).failing = s.failing := rfl

/-! ### setWork -/

@[simp] theorem State.setWork_pending (s : State) (w : Nat) (x : Work) : (s.setWork w x).pending = s.pending := rfl
@[simp] theorem State.setWork_out (s : State) (w : Nat) (x : Work) : (s.setWork w x).out = s.out := rfl
@[simp] theorem State.setWork_free (s : State) (w : Nat) (x : Work) : (s.setWork w x).free = s.free := rfl
@[simp] theorem State.setWork_regs (s : State) (w : Nat) (x : Work) : (s.setWork w x).regs = s.regs := rfl
@[simp] theorem State.setWork_latch (s : State) (w : Nat) (x : Work) : (s.setWork w x).latch = s.latch := rfl
@[simp] theorem State.setWork_mem (s : State) (w : Nat) (x : Work) : (s.setWork w x).mem = s.mem := rfl
@[simp] theorem State.setWork_fab (s : State) (w : Nat) (x : Work) : (s.setWork w x).fab = s.fab := rfl
@[simp] theorem State.setWork_pw (s : State) (w : Nat) (x : Work) : (s.setWork w x).pw = s.pw := rfl
@[simp] theorem State.setWork_atl (s : State) (w : Nat) (x : Work) : (s.setWork w x).atl = s.atl := rfl
@[simp] theorem State.setWork_mbx (s : State) (w : Nat) (x : Work) : (s.setWork w x).mbx = s.mbx := rfl
@[simp] theorem State.setWork_dbg (s : State) (w : Nat) (x : Work) : (s.setWork w x).dbg = s.dbg := rfl
@[simp] theorem State.setWork_brs (s : State) (w : Nat) (x : Work) : (s.setWork w x).brs = s.brs := rfl
@[simp] theorem State.setWork_ecc (s : State) (w : Nat) (x : Work) : (s.setWork w x).ecc = s.ecc := rfl
@[simp] theorem State.setWork_cb (s : State) (w : Nat) (x : Work) : (s.setWork w x).cb = s.cb := rfl
@[simp] theorem State.setWork_own (s : State) (w : Nat) (x : Work) : (s.setWork w x).own = s.own := rfl
@[simp] theorem State.setWork_stgOwn (s : State) (w : Nat) (x : Work) : (s.setWork w x).stgOwn = s.stgOwn := rfl
@[simp] theorem State.setWork_stk (s : State) (w : Nat) (x : Work) : (s.setWork w x).stk = s.stk := rfl
@[simp] theorem State.setWork_tbl (s : State) (w : Nat) (x : Work) : (s.setWork w x).tbl = s.tbl := rfl
@[simp] theorem State.setWork_kvc (s : State) (w : Nat) (x : Work) : (s.setWork w x).kvc = s.kvc := rfl
@[simp] theorem State.setWork_seqs (s : State) (w : Nat) (x : Work) : (s.setWork w x).seqs = s.seqs := rfl
@[simp] theorem State.setWork_nextWork (s : State) (w : Nat) (x : Work) : (s.setWork w x).nextWork = s.nextWork := rfl
@[simp] theorem State.setWork_recNo (s : State) (w : Nat) (x : Work) : (s.setWork w x).recNo = s.recNo := rfl
@[simp] theorem State.setWork_serial (s : State) (w : Nat) (x : Work) : (s.setWork w x).serial = s.serial := rfl
@[simp] theorem State.setWork_cmp (s : State) (w : Nat) (x : Work) : (s.setWork w x).cmp = s.cmp := rfl
@[simp] theorem State.setWork_syn (s : State) (w : Nat) (x : Work) : (s.setWork w x).syn = s.syn := rfl
@[simp] theorem State.setWork_shards (s : State) (w : Nat) (x : Work) : (s.setWork w x).shards = s.shards := rfl
@[simp] theorem State.setWork_vrn (s : State) (w : Nat) (x : Work) : (s.setWork w x).vrn = s.vrn := rfl
@[simp] theorem State.setWork_slc (s : State) (w : Nat) (x : Work) : (s.setWork w x).slc = s.slc := rfl
@[simp] theorem State.setWork_clOwner (s : State) (w : Nat) (x : Work) : (s.setWork w x).clOwner = s.clOwner := rfl
@[simp] theorem State.setWork_dma (s : State) (w : Nat) (x : Work) : (s.setWork w x).dma = s.dma := rfl
@[simp] theorem State.setWork_dmaSaved (s : State) (w : Nat) (x : Work) : (s.setWork w x).dmaSaved = s.dmaSaved := rfl
@[simp] theorem State.setWork_hl (s : State) (w : Nat) (x : Work) : (s.setWork w x).hl = s.hl := rfl
@[simp] theorem State.setWork_progs (s : State) (w : Nat) (x : Work) : (s.setWork w x).progs = s.progs := rfl
@[simp] theorem State.setWork_nvm (s : State) (w : Nat) (x : Work) : (s.setWork w x).nvm = s.nvm := rfl
@[simp] theorem State.setWork_net (s : State) (w : Nat) (x : Work) : (s.setWork w x).net = s.net := rfl
@[simp] theorem State.setWork_tmt (s : State) (w : Nat) (x : Work) : (s.setWork w x).tmt = s.tmt := rfl
@[simp] theorem State.setWork_cph (s : State) (w : Nat) (x : Work) : (s.setWork w x).cph = s.cph := rfl
@[simp] theorem State.setWork_pmu (s : State) (w : Nat) (x : Work) : (s.setWork w x).pmu = s.pmu := rfl
@[simp] theorem State.setWork_hrc (s : State) (w : Nat) (x : Work) : (s.setWork w x).hrc = s.hrc := rfl
@[simp] theorem State.setWork_loaded (s : State) (w : Nat) (x : Work) : (s.setWork w x).loaded = s.loaded := rfl
@[simp] theorem State.setWork_ues (s : State) (w : Nat) (x : Work) : (s.setWork w x).ues = s.ues := rfl
@[simp] theorem State.setWork_failing (s : State) (w : Nat) (x : Work) : (s.setWork w x).failing = s.failing := rfl

/-! ### setNet -/

@[simp] theorem State.setNet_pending (s : State) (n : Net) : (s.setNet n).pending = s.pending := rfl
@[simp] theorem State.setNet_out (s : State) (n : Net) : (s.setNet n).out = s.out := rfl
@[simp] theorem State.setNet_free (s : State) (n : Net) : (s.setNet n).free = s.free := rfl
@[simp] theorem State.setNet_regs (s : State) (n : Net) : (s.setNet n).regs = s.regs := rfl
@[simp] theorem State.setNet_latch (s : State) (n : Net) : (s.setNet n).latch = s.latch := rfl
@[simp] theorem State.setNet_mem (s : State) (n : Net) : (s.setNet n).mem = s.mem := rfl
@[simp] theorem State.setNet_fab (s : State) (n : Net) : (s.setNet n).fab = s.fab := rfl
@[simp] theorem State.setNet_pw (s : State) (n : Net) : (s.setNet n).pw = s.pw := rfl
@[simp] theorem State.setNet_atl (s : State) (n : Net) : (s.setNet n).atl = s.atl := rfl
@[simp] theorem State.setNet_mbx (s : State) (n : Net) : (s.setNet n).mbx = s.mbx := rfl
@[simp] theorem State.setNet_dbg (s : State) (n : Net) : (s.setNet n).dbg = s.dbg := rfl
@[simp] theorem State.setNet_brs (s : State) (n : Net) : (s.setNet n).brs = s.brs := rfl
@[simp] theorem State.setNet_ecc (s : State) (n : Net) : (s.setNet n).ecc = s.ecc := rfl
@[simp] theorem State.setNet_cb (s : State) (n : Net) : (s.setNet n).cb = s.cb := rfl
@[simp] theorem State.setNet_own (s : State) (n : Net) : (s.setNet n).own = s.own := rfl
@[simp] theorem State.setNet_stgOwn (s : State) (n : Net) : (s.setNet n).stgOwn = s.stgOwn := rfl
@[simp] theorem State.setNet_stk (s : State) (n : Net) : (s.setNet n).stk = s.stk := rfl
@[simp] theorem State.setNet_tbl (s : State) (n : Net) : (s.setNet n).tbl = s.tbl := rfl
@[simp] theorem State.setNet_kvc (s : State) (n : Net) : (s.setNet n).kvc = s.kvc := rfl
@[simp] theorem State.setNet_seqs (s : State) (n : Net) : (s.setNet n).seqs = s.seqs := rfl
@[simp] theorem State.setNet_works (s : State) (n : Net) : (s.setNet n).works = s.works := rfl
@[simp] theorem State.setNet_nextWork (s : State) (n : Net) : (s.setNet n).nextWork = s.nextWork := rfl
@[simp] theorem State.setNet_recNo (s : State) (n : Net) : (s.setNet n).recNo = s.recNo := rfl
@[simp] theorem State.setNet_serial (s : State) (n : Net) : (s.setNet n).serial = s.serial := rfl
@[simp] theorem State.setNet_cmp (s : State) (n : Net) : (s.setNet n).cmp = s.cmp := rfl
@[simp] theorem State.setNet_syn (s : State) (n : Net) : (s.setNet n).syn = s.syn := rfl
@[simp] theorem State.setNet_shards (s : State) (n : Net) : (s.setNet n).shards = s.shards := rfl
@[simp] theorem State.setNet_vrn (s : State) (n : Net) : (s.setNet n).vrn = s.vrn := rfl
@[simp] theorem State.setNet_slc (s : State) (n : Net) : (s.setNet n).slc = s.slc := rfl
@[simp] theorem State.setNet_clOwner (s : State) (n : Net) : (s.setNet n).clOwner = s.clOwner := rfl
@[simp] theorem State.setNet_dma (s : State) (n : Net) : (s.setNet n).dma = s.dma := rfl
@[simp] theorem State.setNet_dmaSaved (s : State) (n : Net) : (s.setNet n).dmaSaved = s.dmaSaved := rfl
@[simp] theorem State.setNet_hl (s : State) (n : Net) : (s.setNet n).hl = s.hl := rfl
@[simp] theorem State.setNet_progs (s : State) (n : Net) : (s.setNet n).progs = s.progs := rfl
@[simp] theorem State.setNet_nvm (s : State) (n : Net) : (s.setNet n).nvm = s.nvm := rfl
@[simp] theorem State.setNet_tmt (s : State) (n : Net) : (s.setNet n).tmt = s.tmt := rfl
@[simp] theorem State.setNet_cph (s : State) (n : Net) : (s.setNet n).cph = s.cph := rfl
@[simp] theorem State.setNet_pmu (s : State) (n : Net) : (s.setNet n).pmu = s.pmu := rfl
@[simp] theorem State.setNet_hrc (s : State) (n : Net) : (s.setNet n).hrc = s.hrc := rfl
@[simp] theorem State.setNet_loaded (s : State) (n : Net) : (s.setNet n).loaded = s.loaded := rfl
@[simp] theorem State.setNet_ues (s : State) (n : Net) : (s.setNet n).ues = s.ues := rfl
@[simp] theorem State.setNet_failing (s : State) (n : Net) : (s.setNet n).failing = s.failing := rfl
@[simp] theorem State.setNet_net (s : State) (n : Net) : (s.setNet n).net = n := rfl

/-! ### setPmu -/

@[simp] theorem State.setPmu_pending (s : State) (p : Pmu) : (s.setPmu p).pending = s.pending := rfl
@[simp] theorem State.setPmu_out (s : State) (p : Pmu) : (s.setPmu p).out = s.out := rfl
@[simp] theorem State.setPmu_free (s : State) (p : Pmu) : (s.setPmu p).free = s.free := rfl
@[simp] theorem State.setPmu_regs (s : State) (p : Pmu) : (s.setPmu p).regs = s.regs := rfl
@[simp] theorem State.setPmu_latch (s : State) (p : Pmu) : (s.setPmu p).latch = s.latch := rfl
@[simp] theorem State.setPmu_mem (s : State) (p : Pmu) : (s.setPmu p).mem = s.mem := rfl
@[simp] theorem State.setPmu_fab (s : State) (p : Pmu) : (s.setPmu p).fab = s.fab := rfl
@[simp] theorem State.setPmu_pw (s : State) (p : Pmu) : (s.setPmu p).pw = s.pw := rfl
@[simp] theorem State.setPmu_atl (s : State) (p : Pmu) : (s.setPmu p).atl = s.atl := rfl
@[simp] theorem State.setPmu_mbx (s : State) (p : Pmu) : (s.setPmu p).mbx = s.mbx := rfl
@[simp] theorem State.setPmu_dbg (s : State) (p : Pmu) : (s.setPmu p).dbg = s.dbg := rfl
@[simp] theorem State.setPmu_brs (s : State) (p : Pmu) : (s.setPmu p).brs = s.brs := rfl
@[simp] theorem State.setPmu_ecc (s : State) (p : Pmu) : (s.setPmu p).ecc = s.ecc := rfl
@[simp] theorem State.setPmu_cb (s : State) (p : Pmu) : (s.setPmu p).cb = s.cb := rfl
@[simp] theorem State.setPmu_own (s : State) (p : Pmu) : (s.setPmu p).own = s.own := rfl
@[simp] theorem State.setPmu_stgOwn (s : State) (p : Pmu) : (s.setPmu p).stgOwn = s.stgOwn := rfl
@[simp] theorem State.setPmu_stk (s : State) (p : Pmu) : (s.setPmu p).stk = s.stk := rfl
@[simp] theorem State.setPmu_tbl (s : State) (p : Pmu) : (s.setPmu p).tbl = s.tbl := rfl
@[simp] theorem State.setPmu_kvc (s : State) (p : Pmu) : (s.setPmu p).kvc = s.kvc := rfl
@[simp] theorem State.setPmu_seqs (s : State) (p : Pmu) : (s.setPmu p).seqs = s.seqs := rfl
@[simp] theorem State.setPmu_works (s : State) (p : Pmu) : (s.setPmu p).works = s.works := rfl
@[simp] theorem State.setPmu_nextWork (s : State) (p : Pmu) : (s.setPmu p).nextWork = s.nextWork := rfl
@[simp] theorem State.setPmu_recNo (s : State) (p : Pmu) : (s.setPmu p).recNo = s.recNo := rfl
@[simp] theorem State.setPmu_serial (s : State) (p : Pmu) : (s.setPmu p).serial = s.serial := rfl
@[simp] theorem State.setPmu_cmp (s : State) (p : Pmu) : (s.setPmu p).cmp = s.cmp := rfl
@[simp] theorem State.setPmu_syn (s : State) (p : Pmu) : (s.setPmu p).syn = s.syn := rfl
@[simp] theorem State.setPmu_shards (s : State) (p : Pmu) : (s.setPmu p).shards = s.shards := rfl
@[simp] theorem State.setPmu_vrn (s : State) (p : Pmu) : (s.setPmu p).vrn = s.vrn := rfl
@[simp] theorem State.setPmu_slc (s : State) (p : Pmu) : (s.setPmu p).slc = s.slc := rfl
@[simp] theorem State.setPmu_clOwner (s : State) (p : Pmu) : (s.setPmu p).clOwner = s.clOwner := rfl
@[simp] theorem State.setPmu_dma (s : State) (p : Pmu) : (s.setPmu p).dma = s.dma := rfl
@[simp] theorem State.setPmu_dmaSaved (s : State) (p : Pmu) : (s.setPmu p).dmaSaved = s.dmaSaved := rfl
@[simp] theorem State.setPmu_hl (s : State) (p : Pmu) : (s.setPmu p).hl = s.hl := rfl
@[simp] theorem State.setPmu_progs (s : State) (p : Pmu) : (s.setPmu p).progs = s.progs := rfl
@[simp] theorem State.setPmu_nvm (s : State) (p : Pmu) : (s.setPmu p).nvm = s.nvm := rfl
@[simp] theorem State.setPmu_net (s : State) (p : Pmu) : (s.setPmu p).net = s.net := rfl
@[simp] theorem State.setPmu_tmt (s : State) (p : Pmu) : (s.setPmu p).tmt = s.tmt := rfl
@[simp] theorem State.setPmu_cph (s : State) (p : Pmu) : (s.setPmu p).cph = s.cph := rfl
@[simp] theorem State.setPmu_hrc (s : State) (p : Pmu) : (s.setPmu p).hrc = s.hrc := rfl
@[simp] theorem State.setPmu_loaded (s : State) (p : Pmu) : (s.setPmu p).loaded = s.loaded := rfl
@[simp] theorem State.setPmu_ues (s : State) (p : Pmu) : (s.setPmu p).ues = s.ues := rfl
@[simp] theorem State.setPmu_failing (s : State) (p : Pmu) : (s.setPmu p).failing = s.failing := rfl
@[simp] theorem State.setPmu_pmu (s : State) (p : Pmu) : (s.setPmu p).pmu = p := rfl

/-! ### setTmt -/

@[simp] theorem State.setTmt_pending (s : State) (t : Tmt) : (s.setTmt t).pending = s.pending := rfl
@[simp] theorem State.setTmt_out (s : State) (t : Tmt) : (s.setTmt t).out = s.out := rfl
@[simp] theorem State.setTmt_free (s : State) (t : Tmt) : (s.setTmt t).free = s.free := rfl
@[simp] theorem State.setTmt_regs (s : State) (t : Tmt) : (s.setTmt t).regs = s.regs := rfl
@[simp] theorem State.setTmt_latch (s : State) (t : Tmt) : (s.setTmt t).latch = s.latch := rfl
@[simp] theorem State.setTmt_mem (s : State) (t : Tmt) : (s.setTmt t).mem = s.mem := rfl
@[simp] theorem State.setTmt_fab (s : State) (t : Tmt) : (s.setTmt t).fab = s.fab := rfl
@[simp] theorem State.setTmt_pw (s : State) (t : Tmt) : (s.setTmt t).pw = s.pw := rfl
@[simp] theorem State.setTmt_atl (s : State) (t : Tmt) : (s.setTmt t).atl = s.atl := rfl
@[simp] theorem State.setTmt_mbx (s : State) (t : Tmt) : (s.setTmt t).mbx = s.mbx := rfl
@[simp] theorem State.setTmt_dbg (s : State) (t : Tmt) : (s.setTmt t).dbg = s.dbg := rfl
@[simp] theorem State.setTmt_brs (s : State) (t : Tmt) : (s.setTmt t).brs = s.brs := rfl
@[simp] theorem State.setTmt_ecc (s : State) (t : Tmt) : (s.setTmt t).ecc = s.ecc := rfl
@[simp] theorem State.setTmt_cb (s : State) (t : Tmt) : (s.setTmt t).cb = s.cb := rfl
@[simp] theorem State.setTmt_own (s : State) (t : Tmt) : (s.setTmt t).own = s.own := rfl
@[simp] theorem State.setTmt_stgOwn (s : State) (t : Tmt) : (s.setTmt t).stgOwn = s.stgOwn := rfl
@[simp] theorem State.setTmt_stk (s : State) (t : Tmt) : (s.setTmt t).stk = s.stk := rfl
@[simp] theorem State.setTmt_tbl (s : State) (t : Tmt) : (s.setTmt t).tbl = s.tbl := rfl
@[simp] theorem State.setTmt_kvc (s : State) (t : Tmt) : (s.setTmt t).kvc = s.kvc := rfl
@[simp] theorem State.setTmt_seqs (s : State) (t : Tmt) : (s.setTmt t).seqs = s.seqs := rfl
@[simp] theorem State.setTmt_works (s : State) (t : Tmt) : (s.setTmt t).works = s.works := rfl
@[simp] theorem State.setTmt_nextWork (s : State) (t : Tmt) : (s.setTmt t).nextWork = s.nextWork := rfl
@[simp] theorem State.setTmt_recNo (s : State) (t : Tmt) : (s.setTmt t).recNo = s.recNo := rfl
@[simp] theorem State.setTmt_serial (s : State) (t : Tmt) : (s.setTmt t).serial = s.serial := rfl
@[simp] theorem State.setTmt_cmp (s : State) (t : Tmt) : (s.setTmt t).cmp = s.cmp := rfl
@[simp] theorem State.setTmt_syn (s : State) (t : Tmt) : (s.setTmt t).syn = s.syn := rfl
@[simp] theorem State.setTmt_shards (s : State) (t : Tmt) : (s.setTmt t).shards = s.shards := rfl
@[simp] theorem State.setTmt_vrn (s : State) (t : Tmt) : (s.setTmt t).vrn = s.vrn := rfl
@[simp] theorem State.setTmt_slc (s : State) (t : Tmt) : (s.setTmt t).slc = s.slc := rfl
@[simp] theorem State.setTmt_clOwner (s : State) (t : Tmt) : (s.setTmt t).clOwner = s.clOwner := rfl
@[simp] theorem State.setTmt_dma (s : State) (t : Tmt) : (s.setTmt t).dma = s.dma := rfl
@[simp] theorem State.setTmt_dmaSaved (s : State) (t : Tmt) : (s.setTmt t).dmaSaved = s.dmaSaved := rfl
@[simp] theorem State.setTmt_hl (s : State) (t : Tmt) : (s.setTmt t).hl = s.hl := rfl
@[simp] theorem State.setTmt_progs (s : State) (t : Tmt) : (s.setTmt t).progs = s.progs := rfl
@[simp] theorem State.setTmt_nvm (s : State) (t : Tmt) : (s.setTmt t).nvm = s.nvm := rfl
@[simp] theorem State.setTmt_net (s : State) (t : Tmt) : (s.setTmt t).net = s.net := rfl
@[simp] theorem State.setTmt_cph (s : State) (t : Tmt) : (s.setTmt t).cph = s.cph := rfl
@[simp] theorem State.setTmt_pmu (s : State) (t : Tmt) : (s.setTmt t).pmu = s.pmu := rfl
@[simp] theorem State.setTmt_hrc (s : State) (t : Tmt) : (s.setTmt t).hrc = s.hrc := rfl
@[simp] theorem State.setTmt_loaded (s : State) (t : Tmt) : (s.setTmt t).loaded = s.loaded := rfl
@[simp] theorem State.setTmt_ues (s : State) (t : Tmt) : (s.setTmt t).ues = s.ues := rfl
@[simp] theorem State.setTmt_failing (s : State) (t : Tmt) : (s.setTmt t).failing = s.failing := rfl
@[simp] theorem State.setTmt_tmt (s : State) (t : Tmt) : (s.setTmt t).tmt = t := rfl

/-! ### setVrn -/

@[simp] theorem State.setVrn_pending (s : State) (v : Varnish) : (s.setVrn v).pending = s.pending := rfl
@[simp] theorem State.setVrn_out (s : State) (v : Varnish) : (s.setVrn v).out = s.out := rfl
@[simp] theorem State.setVrn_free (s : State) (v : Varnish) : (s.setVrn v).free = s.free := rfl
@[simp] theorem State.setVrn_regs (s : State) (v : Varnish) : (s.setVrn v).regs = s.regs := rfl
@[simp] theorem State.setVrn_latch (s : State) (v : Varnish) : (s.setVrn v).latch = s.latch := rfl
@[simp] theorem State.setVrn_mem (s : State) (v : Varnish) : (s.setVrn v).mem = s.mem := rfl
@[simp] theorem State.setVrn_fab (s : State) (v : Varnish) : (s.setVrn v).fab = s.fab := rfl
@[simp] theorem State.setVrn_pw (s : State) (v : Varnish) : (s.setVrn v).pw = s.pw := rfl
@[simp] theorem State.setVrn_atl (s : State) (v : Varnish) : (s.setVrn v).atl = s.atl := rfl
@[simp] theorem State.setVrn_mbx (s : State) (v : Varnish) : (s.setVrn v).mbx = s.mbx := rfl
@[simp] theorem State.setVrn_dbg (s : State) (v : Varnish) : (s.setVrn v).dbg = s.dbg := rfl
@[simp] theorem State.setVrn_brs (s : State) (v : Varnish) : (s.setVrn v).brs = s.brs := rfl
@[simp] theorem State.setVrn_ecc (s : State) (v : Varnish) : (s.setVrn v).ecc = s.ecc := rfl
@[simp] theorem State.setVrn_cb (s : State) (v : Varnish) : (s.setVrn v).cb = s.cb := rfl
@[simp] theorem State.setVrn_own (s : State) (v : Varnish) : (s.setVrn v).own = s.own := rfl
@[simp] theorem State.setVrn_stgOwn (s : State) (v : Varnish) : (s.setVrn v).stgOwn = s.stgOwn := rfl
@[simp] theorem State.setVrn_stk (s : State) (v : Varnish) : (s.setVrn v).stk = s.stk := rfl
@[simp] theorem State.setVrn_tbl (s : State) (v : Varnish) : (s.setVrn v).tbl = s.tbl := rfl
@[simp] theorem State.setVrn_kvc (s : State) (v : Varnish) : (s.setVrn v).kvc = s.kvc := rfl
@[simp] theorem State.setVrn_seqs (s : State) (v : Varnish) : (s.setVrn v).seqs = s.seqs := rfl
@[simp] theorem State.setVrn_works (s : State) (v : Varnish) : (s.setVrn v).works = s.works := rfl
@[simp] theorem State.setVrn_nextWork (s : State) (v : Varnish) : (s.setVrn v).nextWork = s.nextWork := rfl
@[simp] theorem State.setVrn_recNo (s : State) (v : Varnish) : (s.setVrn v).recNo = s.recNo := rfl
@[simp] theorem State.setVrn_serial (s : State) (v : Varnish) : (s.setVrn v).serial = s.serial := rfl
@[simp] theorem State.setVrn_cmp (s : State) (v : Varnish) : (s.setVrn v).cmp = s.cmp := rfl
@[simp] theorem State.setVrn_syn (s : State) (v : Varnish) : (s.setVrn v).syn = s.syn := rfl
@[simp] theorem State.setVrn_shards (s : State) (v : Varnish) : (s.setVrn v).shards = s.shards := rfl
@[simp] theorem State.setVrn_slc (s : State) (v : Varnish) : (s.setVrn v).slc = s.slc := rfl
@[simp] theorem State.setVrn_clOwner (s : State) (v : Varnish) : (s.setVrn v).clOwner = s.clOwner := rfl
@[simp] theorem State.setVrn_dma (s : State) (v : Varnish) : (s.setVrn v).dma = s.dma := rfl
@[simp] theorem State.setVrn_dmaSaved (s : State) (v : Varnish) : (s.setVrn v).dmaSaved = s.dmaSaved := rfl
@[simp] theorem State.setVrn_hl (s : State) (v : Varnish) : (s.setVrn v).hl = s.hl := rfl
@[simp] theorem State.setVrn_progs (s : State) (v : Varnish) : (s.setVrn v).progs = s.progs := rfl
@[simp] theorem State.setVrn_nvm (s : State) (v : Varnish) : (s.setVrn v).nvm = s.nvm := rfl
@[simp] theorem State.setVrn_net (s : State) (v : Varnish) : (s.setVrn v).net = s.net := rfl
@[simp] theorem State.setVrn_tmt (s : State) (v : Varnish) : (s.setVrn v).tmt = s.tmt := rfl
@[simp] theorem State.setVrn_cph (s : State) (v : Varnish) : (s.setVrn v).cph = s.cph := rfl
@[simp] theorem State.setVrn_pmu (s : State) (v : Varnish) : (s.setVrn v).pmu = s.pmu := rfl
@[simp] theorem State.setVrn_hrc (s : State) (v : Varnish) : (s.setVrn v).hrc = s.hrc := rfl
@[simp] theorem State.setVrn_loaded (s : State) (v : Varnish) : (s.setVrn v).loaded = s.loaded := rfl
@[simp] theorem State.setVrn_ues (s : State) (v : Varnish) : (s.setVrn v).ues = s.ues := rfl
@[simp] theorem State.setVrn_failing (s : State) (v : Varnish) : (s.setVrn v).failing = s.failing := rfl
@[simp] theorem State.setVrn_vrn (s : State) (v : Varnish) : (s.setVrn v).vrn = v := rfl

/-! ### setHrc -/

@[simp] theorem State.setHrc_pending (s : State) (h : Hrc) : (s.setHrc h).pending = s.pending := rfl
@[simp] theorem State.setHrc_out (s : State) (h : Hrc) : (s.setHrc h).out = s.out := rfl
@[simp] theorem State.setHrc_free (s : State) (h : Hrc) : (s.setHrc h).free = s.free := rfl
@[simp] theorem State.setHrc_regs (s : State) (h : Hrc) : (s.setHrc h).regs = s.regs := rfl
@[simp] theorem State.setHrc_latch (s : State) (h : Hrc) : (s.setHrc h).latch = s.latch := rfl
@[simp] theorem State.setHrc_mem (s : State) (h : Hrc) : (s.setHrc h).mem = s.mem := rfl
@[simp] theorem State.setHrc_fab (s : State) (h : Hrc) : (s.setHrc h).fab = s.fab := rfl
@[simp] theorem State.setHrc_pw (s : State) (h : Hrc) : (s.setHrc h).pw = s.pw := rfl
@[simp] theorem State.setHrc_atl (s : State) (h : Hrc) : (s.setHrc h).atl = s.atl := rfl
@[simp] theorem State.setHrc_mbx (s : State) (h : Hrc) : (s.setHrc h).mbx = s.mbx := rfl
@[simp] theorem State.setHrc_dbg (s : State) (h : Hrc) : (s.setHrc h).dbg = s.dbg := rfl
@[simp] theorem State.setHrc_brs (s : State) (h : Hrc) : (s.setHrc h).brs = s.brs := rfl
@[simp] theorem State.setHrc_ecc (s : State) (h : Hrc) : (s.setHrc h).ecc = s.ecc := rfl
@[simp] theorem State.setHrc_cb (s : State) (h : Hrc) : (s.setHrc h).cb = s.cb := rfl
@[simp] theorem State.setHrc_own (s : State) (h : Hrc) : (s.setHrc h).own = s.own := rfl
@[simp] theorem State.setHrc_stgOwn (s : State) (h : Hrc) : (s.setHrc h).stgOwn = s.stgOwn := rfl
@[simp] theorem State.setHrc_stk (s : State) (h : Hrc) : (s.setHrc h).stk = s.stk := rfl
@[simp] theorem State.setHrc_tbl (s : State) (h : Hrc) : (s.setHrc h).tbl = s.tbl := rfl
@[simp] theorem State.setHrc_kvc (s : State) (h : Hrc) : (s.setHrc h).kvc = s.kvc := rfl
@[simp] theorem State.setHrc_seqs (s : State) (h : Hrc) : (s.setHrc h).seqs = s.seqs := rfl
@[simp] theorem State.setHrc_works (s : State) (h : Hrc) : (s.setHrc h).works = s.works := rfl
@[simp] theorem State.setHrc_nextWork (s : State) (h : Hrc) : (s.setHrc h).nextWork = s.nextWork := rfl
@[simp] theorem State.setHrc_recNo (s : State) (h : Hrc) : (s.setHrc h).recNo = s.recNo := rfl
@[simp] theorem State.setHrc_serial (s : State) (h : Hrc) : (s.setHrc h).serial = s.serial := rfl
@[simp] theorem State.setHrc_cmp (s : State) (h : Hrc) : (s.setHrc h).cmp = s.cmp := rfl
@[simp] theorem State.setHrc_syn (s : State) (h : Hrc) : (s.setHrc h).syn = s.syn := rfl
@[simp] theorem State.setHrc_shards (s : State) (h : Hrc) : (s.setHrc h).shards = s.shards := rfl
@[simp] theorem State.setHrc_vrn (s : State) (h : Hrc) : (s.setHrc h).vrn = s.vrn := rfl
@[simp] theorem State.setHrc_slc (s : State) (h : Hrc) : (s.setHrc h).slc = s.slc := rfl
@[simp] theorem State.setHrc_clOwner (s : State) (h : Hrc) : (s.setHrc h).clOwner = s.clOwner := rfl
@[simp] theorem State.setHrc_dma (s : State) (h : Hrc) : (s.setHrc h).dma = s.dma := rfl
@[simp] theorem State.setHrc_dmaSaved (s : State) (h : Hrc) : (s.setHrc h).dmaSaved = s.dmaSaved := rfl
@[simp] theorem State.setHrc_hl (s : State) (h : Hrc) : (s.setHrc h).hl = s.hl := rfl
@[simp] theorem State.setHrc_progs (s : State) (h : Hrc) : (s.setHrc h).progs = s.progs := rfl
@[simp] theorem State.setHrc_nvm (s : State) (h : Hrc) : (s.setHrc h).nvm = s.nvm := rfl
@[simp] theorem State.setHrc_net (s : State) (h : Hrc) : (s.setHrc h).net = s.net := rfl
@[simp] theorem State.setHrc_tmt (s : State) (h : Hrc) : (s.setHrc h).tmt = s.tmt := rfl
@[simp] theorem State.setHrc_cph (s : State) (h : Hrc) : (s.setHrc h).cph = s.cph := rfl
@[simp] theorem State.setHrc_pmu (s : State) (h : Hrc) : (s.setHrc h).pmu = s.pmu := rfl
@[simp] theorem State.setHrc_loaded (s : State) (h : Hrc) : (s.setHrc h).loaded = s.loaded := rfl
@[simp] theorem State.setHrc_ues (s : State) (h : Hrc) : (s.setHrc h).ues = s.ues := rfl
@[simp] theorem State.setHrc_failing (s : State) (h : Hrc) : (s.setHrc h).failing = s.failing := rfl
@[simp] theorem State.setHrc_hrc (s : State) (h : Hrc) : (s.setHrc h).hrc = h := rfl

/-! ### setCtl -/

@[simp] theorem State.setCtl_pending (s : State) (c : Nat) (x : Nvm) : (s.setCtl c x).pending = s.pending := rfl
@[simp] theorem State.setCtl_out (s : State) (c : Nat) (x : Nvm) : (s.setCtl c x).out = s.out := rfl
@[simp] theorem State.setCtl_free (s : State) (c : Nat) (x : Nvm) : (s.setCtl c x).free = s.free := rfl
@[simp] theorem State.setCtl_regs (s : State) (c : Nat) (x : Nvm) : (s.setCtl c x).regs = s.regs := rfl
@[simp] theorem State.setCtl_latch (s : State) (c : Nat) (x : Nvm) : (s.setCtl c x).latch = s.latch := rfl
@[simp] theorem State.setCtl_mem (s : State) (c : Nat) (x : Nvm) : (s.setCtl c x).mem = s.mem := rfl
@[simp] theorem State.setCtl_fab (s : State) (c : Nat) (x : Nvm) : (s.setCtl c x).fab = s.fab := rfl
@[simp] theorem State.setCtl_pw (s : State) (c : Nat) (x : Nvm) : (s.setCtl c x).pw = s.pw := rfl
@[simp] theorem State.setCtl_atl (s : State) (c : Nat) (x : Nvm) : (s.setCtl c x).atl = s.atl := rfl
@[simp] theorem State.setCtl_mbx (s : State) (c : Nat) (x : Nvm) : (s.setCtl c x).mbx = s.mbx := rfl
@[simp] theorem State.setCtl_dbg (s : State) (c : Nat) (x : Nvm) : (s.setCtl c x).dbg = s.dbg := rfl
@[simp] theorem State.setCtl_brs (s : State) (c : Nat) (x : Nvm) : (s.setCtl c x).brs = s.brs := rfl
@[simp] theorem State.setCtl_ecc (s : State) (c : Nat) (x : Nvm) : (s.setCtl c x).ecc = s.ecc := rfl
@[simp] theorem State.setCtl_cb (s : State) (c : Nat) (x : Nvm) : (s.setCtl c x).cb = s.cb := rfl
@[simp] theorem State.setCtl_own (s : State) (c : Nat) (x : Nvm) : (s.setCtl c x).own = s.own := rfl
@[simp] theorem State.setCtl_stgOwn (s : State) (c : Nat) (x : Nvm) : (s.setCtl c x).stgOwn = s.stgOwn := rfl
@[simp] theorem State.setCtl_stk (s : State) (c : Nat) (x : Nvm) : (s.setCtl c x).stk = s.stk := rfl
@[simp] theorem State.setCtl_tbl (s : State) (c : Nat) (x : Nvm) : (s.setCtl c x).tbl = s.tbl := rfl
@[simp] theorem State.setCtl_kvc (s : State) (c : Nat) (x : Nvm) : (s.setCtl c x).kvc = s.kvc := rfl
@[simp] theorem State.setCtl_seqs (s : State) (c : Nat) (x : Nvm) : (s.setCtl c x).seqs = s.seqs := rfl
@[simp] theorem State.setCtl_works (s : State) (c : Nat) (x : Nvm) : (s.setCtl c x).works = s.works := rfl
@[simp] theorem State.setCtl_nextWork (s : State) (c : Nat) (x : Nvm) : (s.setCtl c x).nextWork = s.nextWork := rfl
@[simp] theorem State.setCtl_recNo (s : State) (c : Nat) (x : Nvm) : (s.setCtl c x).recNo = s.recNo := rfl
@[simp] theorem State.setCtl_serial (s : State) (c : Nat) (x : Nvm) : (s.setCtl c x).serial = s.serial := rfl
@[simp] theorem State.setCtl_cmp (s : State) (c : Nat) (x : Nvm) : (s.setCtl c x).cmp = s.cmp := rfl
@[simp] theorem State.setCtl_syn (s : State) (c : Nat) (x : Nvm) : (s.setCtl c x).syn = s.syn := rfl
@[simp] theorem State.setCtl_shards (s : State) (c : Nat) (x : Nvm) : (s.setCtl c x).shards = s.shards := rfl
@[simp] theorem State.setCtl_vrn (s : State) (c : Nat) (x : Nvm) : (s.setCtl c x).vrn = s.vrn := rfl
@[simp] theorem State.setCtl_slc (s : State) (c : Nat) (x : Nvm) : (s.setCtl c x).slc = s.slc := rfl
@[simp] theorem State.setCtl_clOwner (s : State) (c : Nat) (x : Nvm) : (s.setCtl c x).clOwner = s.clOwner := rfl
@[simp] theorem State.setCtl_dma (s : State) (c : Nat) (x : Nvm) : (s.setCtl c x).dma = s.dma := rfl
@[simp] theorem State.setCtl_dmaSaved (s : State) (c : Nat) (x : Nvm) : (s.setCtl c x).dmaSaved = s.dmaSaved := rfl
@[simp] theorem State.setCtl_hl (s : State) (c : Nat) (x : Nvm) : (s.setCtl c x).hl = s.hl := rfl
@[simp] theorem State.setCtl_progs (s : State) (c : Nat) (x : Nvm) : (s.setCtl c x).progs = s.progs := rfl
@[simp] theorem State.setCtl_net (s : State) (c : Nat) (x : Nvm) : (s.setCtl c x).net = s.net := rfl
@[simp] theorem State.setCtl_tmt (s : State) (c : Nat) (x : Nvm) : (s.setCtl c x).tmt = s.tmt := rfl
@[simp] theorem State.setCtl_cph (s : State) (c : Nat) (x : Nvm) : (s.setCtl c x).cph = s.cph := rfl
@[simp] theorem State.setCtl_pmu (s : State) (c : Nat) (x : Nvm) : (s.setCtl c x).pmu = s.pmu := rfl
@[simp] theorem State.setCtl_hrc (s : State) (c : Nat) (x : Nvm) : (s.setCtl c x).hrc = s.hrc := rfl
@[simp] theorem State.setCtl_loaded (s : State) (c : Nat) (x : Nvm) : (s.setCtl c x).loaded = s.loaded := rfl
@[simp] theorem State.setCtl_ues (s : State) (c : Nat) (x : Nvm) : (s.setCtl c x).ues = s.ues := rfl
@[simp] theorem State.setCtl_failing (s : State) (c : Nat) (x : Nvm) : (s.setCtl c x).failing = s.failing := rfl

/-! ### setKeySlot -/

@[simp] theorem State.setKeySlot_pending (s : State) (k : Nat) (e : KeySlot) : (s.setKeySlot k e).pending = s.pending := rfl
@[simp] theorem State.setKeySlot_out (s : State) (k : Nat) (e : KeySlot) : (s.setKeySlot k e).out = s.out := rfl
@[simp] theorem State.setKeySlot_free (s : State) (k : Nat) (e : KeySlot) : (s.setKeySlot k e).free = s.free := rfl
@[simp] theorem State.setKeySlot_regs (s : State) (k : Nat) (e : KeySlot) : (s.setKeySlot k e).regs = s.regs := rfl
@[simp] theorem State.setKeySlot_latch (s : State) (k : Nat) (e : KeySlot) : (s.setKeySlot k e).latch = s.latch := rfl
@[simp] theorem State.setKeySlot_mem (s : State) (k : Nat) (e : KeySlot) : (s.setKeySlot k e).mem = s.mem := rfl
@[simp] theorem State.setKeySlot_fab (s : State) (k : Nat) (e : KeySlot) : (s.setKeySlot k e).fab = s.fab := rfl
@[simp] theorem State.setKeySlot_pw (s : State) (k : Nat) (e : KeySlot) : (s.setKeySlot k e).pw = s.pw := rfl
@[simp] theorem State.setKeySlot_atl (s : State) (k : Nat) (e : KeySlot) : (s.setKeySlot k e).atl = s.atl := rfl
@[simp] theorem State.setKeySlot_mbx (s : State) (k : Nat) (e : KeySlot) : (s.setKeySlot k e).mbx = s.mbx := rfl
@[simp] theorem State.setKeySlot_dbg (s : State) (k : Nat) (e : KeySlot) : (s.setKeySlot k e).dbg = s.dbg := rfl
@[simp] theorem State.setKeySlot_brs (s : State) (k : Nat) (e : KeySlot) : (s.setKeySlot k e).brs = s.brs := rfl
@[simp] theorem State.setKeySlot_ecc (s : State) (k : Nat) (e : KeySlot) : (s.setKeySlot k e).ecc = s.ecc := rfl
@[simp] theorem State.setKeySlot_cb (s : State) (k : Nat) (e : KeySlot) : (s.setKeySlot k e).cb = s.cb := rfl
@[simp] theorem State.setKeySlot_own (s : State) (k : Nat) (e : KeySlot) : (s.setKeySlot k e).own = s.own := rfl
@[simp] theorem State.setKeySlot_stgOwn (s : State) (k : Nat) (e : KeySlot) : (s.setKeySlot k e).stgOwn = s.stgOwn := rfl
@[simp] theorem State.setKeySlot_stk (s : State) (k : Nat) (e : KeySlot) : (s.setKeySlot k e).stk = s.stk := rfl
@[simp] theorem State.setKeySlot_tbl (s : State) (k : Nat) (e : KeySlot) : (s.setKeySlot k e).tbl = s.tbl := rfl
@[simp] theorem State.setKeySlot_kvc (s : State) (k : Nat) (e : KeySlot) : (s.setKeySlot k e).kvc = s.kvc := rfl
@[simp] theorem State.setKeySlot_seqs (s : State) (k : Nat) (e : KeySlot) : (s.setKeySlot k e).seqs = s.seqs := rfl
@[simp] theorem State.setKeySlot_works (s : State) (k : Nat) (e : KeySlot) : (s.setKeySlot k e).works = s.works := rfl
@[simp] theorem State.setKeySlot_nextWork (s : State) (k : Nat) (e : KeySlot) : (s.setKeySlot k e).nextWork = s.nextWork := rfl
@[simp] theorem State.setKeySlot_recNo (s : State) (k : Nat) (e : KeySlot) : (s.setKeySlot k e).recNo = s.recNo := rfl
@[simp] theorem State.setKeySlot_serial (s : State) (k : Nat) (e : KeySlot) : (s.setKeySlot k e).serial = s.serial := rfl
@[simp] theorem State.setKeySlot_cmp (s : State) (k : Nat) (e : KeySlot) : (s.setKeySlot k e).cmp = s.cmp := rfl
@[simp] theorem State.setKeySlot_syn (s : State) (k : Nat) (e : KeySlot) : (s.setKeySlot k e).syn = s.syn := rfl
@[simp] theorem State.setKeySlot_shards (s : State) (k : Nat) (e : KeySlot) : (s.setKeySlot k e).shards = s.shards := rfl
@[simp] theorem State.setKeySlot_vrn (s : State) (k : Nat) (e : KeySlot) : (s.setKeySlot k e).vrn = s.vrn := rfl
@[simp] theorem State.setKeySlot_slc (s : State) (k : Nat) (e : KeySlot) : (s.setKeySlot k e).slc = s.slc := rfl
@[simp] theorem State.setKeySlot_clOwner (s : State) (k : Nat) (e : KeySlot) : (s.setKeySlot k e).clOwner = s.clOwner := rfl
@[simp] theorem State.setKeySlot_dma (s : State) (k : Nat) (e : KeySlot) : (s.setKeySlot k e).dma = s.dma := rfl
@[simp] theorem State.setKeySlot_dmaSaved (s : State) (k : Nat) (e : KeySlot) : (s.setKeySlot k e).dmaSaved = s.dmaSaved := rfl
@[simp] theorem State.setKeySlot_hl (s : State) (k : Nat) (e : KeySlot) : (s.setKeySlot k e).hl = s.hl := rfl
@[simp] theorem State.setKeySlot_progs (s : State) (k : Nat) (e : KeySlot) : (s.setKeySlot k e).progs = s.progs := rfl
@[simp] theorem State.setKeySlot_nvm (s : State) (k : Nat) (e : KeySlot) : (s.setKeySlot k e).nvm = s.nvm := rfl
@[simp] theorem State.setKeySlot_net (s : State) (k : Nat) (e : KeySlot) : (s.setKeySlot k e).net = s.net := rfl
@[simp] theorem State.setKeySlot_tmt (s : State) (k : Nat) (e : KeySlot) : (s.setKeySlot k e).tmt = s.tmt := rfl
@[simp] theorem State.setKeySlot_pmu (s : State) (k : Nat) (e : KeySlot) : (s.setKeySlot k e).pmu = s.pmu := rfl
@[simp] theorem State.setKeySlot_hrc (s : State) (k : Nat) (e : KeySlot) : (s.setKeySlot k e).hrc = s.hrc := rfl
@[simp] theorem State.setKeySlot_loaded (s : State) (k : Nat) (e : KeySlot) : (s.setKeySlot k e).loaded = s.loaded := rfl
@[simp] theorem State.setKeySlot_ues (s : State) (k : Nat) (e : KeySlot) : (s.setKeySlot k e).ues = s.ues := rfl
@[simp] theorem State.setKeySlot_failing (s : State) (k : Nat) (e : KeySlot) : (s.setKeySlot k e).failing = s.failing := rfl

end Machine
end Sys2Proof
end

