-- ==== Sys2Proof/Laws/Regs.lean ====
section
/-!
SUPPORT. Reading registers and fields back: a read after a write of the same place gives what was written, every other place is
as before.
-/
namespace Sys2Proof
namespace Machine

/-! ### Sparse maps -/

theorem smGet_smSet_same {α : Type} (m : SMap α) (k : Nat) (v : α) : smGet (smSet m k v) k = some v := by
  induction m with
  | nil => simp [smSet, smGet]
  | cons h t ih =>
    obtain ⟨a, b⟩ := h
    by_cases h1 : k < a
    · simp [smSet, smGet, h1]
    · by_cases h2 : k = a
      · simp [smSet, smGet, h2]
      · simp [smSet, smGet, h1, h2, ih]

theorem smGet_smSet_ne {α : Type} (m : SMap α) {k j : Nat} (v : α) (h : j ≠ k) : smGet (smSet m k v) j = smGet m j := by
  induction m with
  | nil => simp [smSet, smGet, h]
  | cons hd t ih =>
    obtain ⟨a, b⟩ := hd
    by_cases h1 : k < a
    · simp [smSet, smGet, h1, h]
    · by_cases h2 : k = a
      · subst h2; simp [smSet, smGet, h]
      · simp only [smSet, h1, h2, if_false, smGet]; split <;> simp_all

/-! ### Bit fields -/

theorem testBit_getBits (w hi lo i : Nat) : (getBits w hi lo).testBit i = (decide (i < hi + 1 - lo) && w.testBit (lo + i)) := by
  unfold getBits; rw [Nat.testBit_mod_two_pow, Nat.testBit_shiftRight]

theorem testBit_putBits (w v : Nat) {hi lo i : Nat} (h : lo ≤ hi) :
    (putBits w hi lo v).testBit i = if lo ≤ i ∧ i ≤ hi then v.testBit (i - lo) else w.testBit i := by
  unfold putBits
  have a1 : w % 2 ^ lo + v % 2 ^ (hi + 1 - lo) * 2 ^ lo < 2 ^ (hi + 1) := by
    have p1 := Nat.mod_lt w (Nat.two_pow_pos lo)
    have p2 := Nat.mod_lt v (Nat.two_pow_pos (hi + 1 - lo))
    have e : 2 ^ (hi + 1) = 2 ^ (hi + 1 - lo) * 2 ^ lo := by rw [← Nat.pow_add]; congr 1; omega
    rw [e]
    calc w % 2 ^ lo + v % 2 ^ (hi + 1 - lo) * 2 ^ lo < 2 ^ lo + v % 2 ^ (hi + 1 - lo) * 2 ^ lo := by omega
      _ = (v % 2 ^ (hi + 1 - lo) + 1) * 2 ^ lo := by rw [Nat.add_mul, Nat.one_mul, Nat.add_comm]
      _ ≤ _ := Nat.mul_le_mul_right _ (by omega)
  rw [Nat.add_comm, Nat.mul_comm (w >>> (hi + 1)), Nat.testBit_two_pow_mul_add _ a1, Nat.add_comm (w % 2 ^ lo), Nat.mul_comm (v % _),
    Nat.testBit_two_pow_mul_add _ (Nat.mod_lt w (Nat.two_pow_pos lo))]
  by_cases h1 : i < hi + 1
  · by_cases h2 : i < lo
    · simp [h1, h2, Nat.testBit_mod_two_pow] <;> (intro; omega)
    · have : i - lo < hi + 1 - lo := by omega
      simp [h1, h2, Nat.testBit_mod_two_pow, this] <;> (intro; omega)
  · have h2 : ¬ i ≤ hi := by omega
    simp [h1, h2, Nat.testBit_shiftRight]; congr 1; omega

theorem getBits_putBits (w : Nat) {hi lo : Nat} (v : Nat) (h : lo ≤ hi) : getBits (putBits w hi lo v) hi lo = v % 2 ^ (hi + 1 - lo) := by
  apply Nat.eq_of_testBit_eq
  intro i
  rw [testBit_getBits, testBit_putBits _ _ h, Nat.testBit_mod_two_pow]
  by_cases h1 : i < hi + 1 - lo
  · have : lo ≤ lo + i ∧ lo + i ≤ hi := by omega
    simp [h1, this]
  · simp [h1]

theorem getBits_putBits_disjoint (w v : Nat) {hi lo hi' lo' : Nat} (h : lo ≤ hi) (d : hi' < lo ∨ hi < lo') :
    getBits (putBits w hi lo v) hi' lo' = getBits w hi' lo' := by
  apply Nat.eq_of_testBit_eq
  intro i
  rw [testBit_getBits, testBit_getBits, testBit_putBits _ _ h]
  by_cases h1 : i < hi' + 1 - lo'
  · have : ¬ (lo ≤ lo' + i ∧ lo' + i ≤ hi) := by omega
    simp [h1, this]
  · simp [h1]

theorem getBits_mod (w : Nat) {hi lo n : Nat} (h : hi < n) : getBits (w % 2 ^ n) hi lo = getBits w hi lo := by
  apply Nat.eq_of_testBit_eq
  intro i
  rw [testBit_getBits, testBit_getBits, Nat.testBit_mod_two_pow]
  by_cases h1 : i < hi + 1 - lo
  · have : lo + i < n := by omega
    simp [this]
  · simp [h1]

/-! ### Registers -/

theorem State.rget_rset (s : State) (r : Reg) (v m i j k : Nat) : (s.rset r v m i j k).rget r m i j k = v % 2 ^ 32 := by
  simp [State.rget, State.rset, smGet_smSet_same]

theorem State.rget_rset_ne (s : State) (r r' : Reg) (v m i j k m' i' j' k' : Nat) (h : r'.addr m' i' j' k' ≠ r.addr m i j k) :
    (s.rset r v m i j k).rget r' m' i' j' k' = s.rget r' m' i' j' k' := by
  simp [State.rget, State.rset, smGet_smSet_ne _ _ h]

theorem State.fget_fset (s : State) (f : Fld) (v m i j k : Nat) (h : f.hi < 32) (l : f.lo ≤ f.hi) :
    (s.fset f v m i j k).fget f m i j k = v % 2 ^ (f.hi + 1 - f.lo) := by
  simp only [State.fget, State.fset, State.rget_rset, getBits_mod _ h, getBits_putBits _ _ l]

theorem State.fget_fset_ne (s : State) (f g : Fld) (v m i j k m' i' j' k' : Nat) (h : g.reg.addr m' i' j' k' ≠ f.reg.addr m i j k) :
    (s.fset f v m i j k).fget g m' i' j' k' = s.fget g m' i' j' k' := by
  simp only [State.fget, State.fset, State.rget_rset_ne _ _ _ _ _ _ _ _ _ _ _ _ h]

theorem State.fget_fset_disjoint (s : State) (f g : Fld) (v m i j k : Nat) (hr : g.reg = f.reg) (h : f.lo ≤ f.hi) (h' : g.hi < 32)
    (d : g.hi < f.lo ∨ f.hi < g.lo) : (s.fset f v m i j k).fget g m i j k = s.fget g m i j k := by
  simp only [State.fget, State.fset, hr, State.rget_rset, getBits_mod _ h', getBits_putBits_disjoint _ _ h d]

theorem State.rget_fset_ne (s : State) (f : Fld) (r : Reg) (v m i j k m' i' j' k' : Nat) (h : r.addr m' i' j' k' ≠ f.reg.addr m i j k) :
    (s.fset f v m i j k).rget r m' i' j' k' = s.rget r m' i' j' k' := State.rget_rset_ne _ _ _ _ _ _ _ _ _ _ _ _ h

theorem State.fget_rset_ne (s : State) (f : Fld) (r : Reg) (v m i j k m' i' j' k' : Nat) (h : f.reg.addr m' i' j' k' ≠ r.addr m i j k) :
    (s.rset r v m i j k).fget f m' i' j' k' = s.fget f m' i' j' k' := by
  simp only [State.fget, State.rget_rset_ne _ _ _ _ _ _ _ _ _ _ _ _ h]

theorem State.fget_rset (s : State) (f : Fld) (v m i j k : Nat) (h : f.hi < 32) :
    (s.rset f.reg v m i j k).fget f m i j k = getBits v f.hi f.lo := by
  simp only [State.fget, State.rget_rset, getBits_mod _ h]

@[simp] theorem State.rget_emit (s : State) (e : Emit) (r : Reg) (m i j k : Nat) : (s.emit e).rget r m i j k = s.rget r m i j k := rfl
@[simp] theorem State.fget_emit (s : State) (e : Emit) (f : Fld) (m i j k : Nat) : (s.emit e).fget f m i j k = s.fget f m i j k := rfl
@[simp] theorem State.rget_memPut (s : State) (a : Nat) (bs : List Byte) (r : Reg) (m i j k : Nat) : (s.memPut a bs).rget r m i j k = s.rget r m i j k := rfl
@[simp] theorem State.fget_memPut (s : State) (a : Nat) (bs : List Byte) (f : Fld) (m i j k : Nat) : (s.memPut a bs).fget f m i j k = s.fget f m i j k := rfl
@[simp] theorem State.rget_setPw (s : State) (p : Power) (r : Reg) (m i j k : Nat) : (s.setPw p).rget r m i j k = s.rget r m i j k := rfl
@[simp] theorem State.fget_setPw (s : State) (p : Power) (f : Fld) (m i j k : Nat) : (s.setPw p).fget f m i j k = s.fget f m i j k := rfl
@[simp] theorem State.rget_setDbg (s : State) (d : Debug) (r : Reg) (m i j k : Nat) : (s.setDbg d).rget r m i j k = s.rget r m i j k := rfl
@[simp] theorem State.fget_setDbg (s : State) (d : Debug) (f : Fld) (m i j k : Nat) : (s.setDbg d).fget f m i j k = s.fget f m i j k := rfl
@[simp] theorem State.rget_setBr (s : State) (b : Nat) (x : Bristle) (r : Reg) (m i j k : Nat) : (s.setBr b x).rget r m i j k = s.rget r m i j k := rfl
@[simp] theorem State.fget_setBr (s : State) (b : Nat) (x : Bristle) (f : Fld) (m i j k : Nat) : (s.setBr b x).fget f m i j k = s.fget f m i j k := rfl
@[simp] theorem State.rget_setSyn (s : State) (y : Sync) (r : Reg) (m i j k : Nat) : (s.setSyn y).rget r m i j k = s.rget r m i j k := rfl
@[simp] theorem State.fget_setSyn (s : State) (y : Sync) (f : Fld) (m i j k : Nat) : (s.setSyn y).fget f m i j k = s.fget f m i j k := rfl
@[simp] theorem State.rget_setSx (s : State) (sl : Nat) (x : SliceX) (r : Reg) (m i j k : Nat) : (s.setSx sl x).rget r m i j k = s.rget r m i j k := rfl
@[simp] theorem State.fget_setSx (s : State) (sl : Nat) (x : SliceX) (f : Fld) (m i j k : Nat) : (s.setSx sl x).fget f m i j k = s.fget f m i j k := rfl
@[simp] theorem State.rget_setPort (s : State) (p : Nat) (x : PortX) (r : Reg) (m i j k : Nat) : (s.setPort p x).rget r m i j k = s.rget r m i j k := rfl
@[simp] theorem State.fget_setPort (s : State) (p : Nat) (x : PortX) (f : Fld) (m i j k : Nat) : (s.setPort p x).fget f m i j k = s.fget f m i j k := rfl
@[simp] theorem State.rget_setChan (s : State) (e k : Nat) (d : DmaChan) (r : Reg) (m i j l : Nat) : (s.setChan e k d).rget r m i j l = s.rget r m i j l := rfl
@[simp] theorem State.fget_setChan (s : State) (e k : Nat) (d : DmaChan) (f : Fld) (m i j l : Nat) : (s.setChan e k d).fget f m i j l = s.fget f m i j l := rfl
@[simp] theorem State.rget_setWork (s : State) (w : Nat) (x : Work) (r : Reg) (m i j k : Nat) : (s.setWork w x).rget r m i j k = s.rget r m i j k := rfl
@[simp] theorem State.fget_setWork (s : State) (w : Nat) (x : Work) (f : Fld) (m i j k : Nat) : (s.setWork w x).fget f m i j k = s.fget f m i j k := rfl
@[simp] theorem State.rget_setNet (s : State) (n : Net) (r : Reg) (m i j k : Nat) : (s.setNet n).rget r m i j k = s.rget r m i j k := rfl
@[simp] theorem State.fget_setNet (s : State) (n : Net) (f : Fld) (m i j k : Nat) : (s.setNet n).fget f m i j k = s.fget f m i j k := rfl
@[simp] theorem State.rget_setPmu (s : State) (p : Pmu) (r : Reg) (m i j k : Nat) : (s.setPmu p).rget r m i j k = s.rget r m i j k := rfl
@[simp] theorem State.fget_setPmu (s : State) (p : Pmu) (f : Fld) (m i j k : Nat) : (s.setPmu p).fget f m i j k = s.fget f m i j k := rfl
@[simp] theorem State.rget_setTmt (s : State) (t : Tmt) (r : Reg) (m i j k : Nat) : (s.setTmt t).rget r m i j k = s.rget r m i j k := rfl
@[simp] theorem State.fget_setTmt (s : State) (t : Tmt) (f : Fld) (m i j k : Nat) : (s.setTmt t).fget f m i j k = s.fget f m i j k := rfl
@[simp] theorem State.rget_setVrn (s : State) (v : Varnish) (r : Reg) (m i j k : Nat) : (s.setVrn v).rget r m i j k = s.rget r m i j k := rfl
@[simp] theorem State.fget_setVrn (s : State) (v : Varnish) (f : Fld) (m i j k : Nat) : (s.setVrn v).fget f m i j k = s.fget f m i j k := rfl
@[simp] theorem State.rget_setHrc (s : State) (h : Hrc) (r : Reg) (m i j k : Nat) : (s.setHrc h).rget r m i j k = s.rget r m i j k := rfl
@[simp] theorem State.fget_setHrc (s : State) (h : Hrc) (f : Fld) (m i j k : Nat) : (s.setHrc h).fget f m i j k = s.fget f m i j k := rfl
@[simp] theorem State.rget_setCtl (s : State) (c : Nat) (x : Nvm) (r : Reg) (m i j k : Nat) : (s.setCtl c x).rget r m i j k = s.rget r m i j k := rfl
@[simp] theorem State.fget_setCtl (s : State) (c : Nat) (x : Nvm) (f : Fld) (m i j k : Nat) : (s.setCtl c x).fget f m i j k = s.fget f m i j k := rfl
@[simp] theorem State.rget_setKeySlot (s : State) (k : Nat) (e : KeySlot) (r : Reg) (m i j l : Nat) : (s.setKeySlot k e).rget r m i j l = s.rget r m i j l := rfl
@[simp] theorem State.fget_setKeySlot (s : State) (k : Nat) (e : KeySlot) (f : Fld) (m i j l : Nat) : (s.setKeySlot k e).fget f m i j l = s.fget f m i j l := rfl
@[simp] theorem State.rget_evAdd (s : State) (n d : Nat) (r : Reg) (m i j k : Nat) : (s.evAdd n d).rget r m i j k = s.rget r m i j k := by unfold State.evAdd; split <;> rfl
@[simp] theorem State.fget_evAdd (s : State) (n d : Nat) (f : Fld) (m i j k : Nat) : (s.evAdd n d).fget f m i j k = s.fget f m i j k := by unfold State.evAdd; split <;> rfl
@[simp] theorem State.rget_evMin (s : State) (n d : Nat) (r : Reg) (m i j k : Nat) : (s.evMin n d).rget r m i j k = s.rget r m i j k := rfl
@[simp] theorem State.fget_evMin (s : State) (n d : Nat) (f : Fld) (m i j k : Nat) : (s.evMin n d).fget f m i j k = s.fget f m i j k := rfl
@[simp] theorem State.rget_evMax (s : State) (n d : Nat) (r : Reg) (m i j k : Nat) : (s.evMax n d).rget r m i j k = s.rget r m i j k := rfl
@[simp] theorem State.fget_evMax (s : State) (n d : Nat) (f : Fld) (m i j k : Nat) : (s.evMax n d).fget f m i j k = s.fget f m i j k := rfl

end Machine
end Sys2Proof
end

