-- ==== Sys2Proof/Laws/Ops.lean ====
section
/-!
SUPPORT. What the shared operations can change, one lemma each: the state after it differs from the state before in the fields
named. Service of a firmware command.
-/
namespace Sys2Proof
namespace Machine

/-- A fold keeps what every step keeps. -/
theorem foldl_keeps {α σ β : Type} (g : σ → β) (f : σ → α → σ) (h : ∀ s x, g (f s x) = g s) (l : List α) (s : σ) : g (l.foldl f s) = g s := by
  induction l generalizing s with
  | nil => rfl
  | cons x l ih => simp [ih, h]

/-- Everything but registers and what left the block. -/
def State.besidesRegs (s : State) : State := { s with regs := [], out := [] }

/-- Everything but registers, what left the block and the host side. -/
def State.besidesHost (s : State) : State := { s with regs := [], out := [], hl := HostLink.reset }

/-- Everything but registers, what left the block, the host side and the mailboxes. -/
def State.besidesMbx (s : State) : State := { s with regs := [], out := [], hl := HostLink.reset, mbx := State.reset.mbx }

/-- Two states that agree besides registers and output differ in those alone. -/
theorem State.eq_of_besidesRegs {s t : State} (h : t.besidesRegs = s.besidesRegs) : t = { s with regs := t.regs, out := t.out } := by
  cases s; cases t; simp [State.besidesRegs] at h; simp [h]

/-- Two states that agree besides registers, output and the host side differ in those alone. -/
theorem State.eq_of_besidesHost {s t : State} (h : t.besidesHost = s.besidesHost) :
    t = { s with regs := t.regs, out := t.out, hl := t.hl } := by
  cases s; cases t; simp [State.besidesHost] at h; simp [h]

/-- Two states that agree besides registers, output, the host side and the mailboxes differ in those alone. -/
theorem State.eq_of_besidesMbx {s t : State} (h : t.besidesMbx = s.besidesMbx) :
    t = { s with regs := t.regs, out := t.out, hl := t.hl, mbx := t.mbx } := by
  cases s; cases t; simp [State.besidesMbx] at h; simp [h]

theorem State.besidesHost_of {s t : State} (h : t.besidesRegs = s.besidesRegs) : t.besidesHost = s.besidesHost := by
  have := congrArg (fun x : State => { x with hl := HostLink.reset }) h; exact this

theorem State.besidesMbx_of {s t : State} (h : t.besidesHost = s.besidesHost) : t.besidesMbx = s.besidesMbx := by
  have := congrArg (fun x : State => { x with mbx := State.reset.mbx }) h; exact this

@[simp] theorem State.rset_besidesRegs (s : State) (r : Reg) (v m i j k : Nat) : (s.rset r v m i j k).besidesRegs = s.besidesRegs := rfl
@[simp] theorem State.fset_besidesRegs (s : State) (f : Fld) (v m i j k : Nat) : (s.fset f v m i j k).besidesRegs = s.besidesRegs := rfl
@[simp] theorem State.fadd_besidesRegs (s : State) (f : Fld) (v m i j k : Nat) : (s.fadd f v m i j k).besidesRegs = s.besidesRegs := rfl
@[simp] theorem State.emit_besidesRegs (s : State) (e : Emit) : (s.emit e).besidesRegs = s.besidesRegs := rfl
@[simp] theorem State.event_besidesRegs (s : State) (f : Fld) (m i j k : Nat) : (s.event f m i j k).besidesRegs = s.besidesRegs := rfl
@[simp] theorem State.setCounter_besidesRegs (s : State) (m k v : Nat) : (s.setCounter m k v).besidesRegs = s.besidesRegs := rfl

@[simp] theorem State.wrapped_besidesRegs (s : State) (m k : Nat) : (s.wrapped m k).besidesRegs = s.besidesRegs := by
  unfold State.wrapped; simp only []; split <;> rfl

@[simp] theorem State.bump_besidesRegs (s : State) (m k n : Nat) : (s.bump m k n).besidesRegs = s.besidesRegs := by
  unfold State.bump
  generalize 2 ^ 48 = c
  simp only []
  repeat' split
  all_goals simp

@[simp] theorem State.count_besidesRegs (s : State) (m u c sl n : Nat) : (s.count m u c sl n).besidesRegs = s.besidesRegs := by
  unfold State.count; split
  · rfl
  · apply foldl_keeps; intro s x; simp only []; split <;> simp

@[simp] theorem State.setPort_besidesHost (s : State) (p : Nat) (x : PortX) : (s.setPort p x).besidesHost = s.besidesHost := rfl

@[simp] theorem State.wakeLink_besidesHost (s : State) (p : Nat) : (s.wakeLink p).besidesHost = s.besidesHost := by
  unfold State.wakeLink; simp only []
  repeat' split
  all_goals rfl

@[simp] theorem State.emit_besidesHost (s : State) (e : Emit) : (s.emit e).besidesHost = s.besidesHost := rfl

@[simp] theorem State.msix_besidesHost (s : State) (p fn v : Nat) : (s.msix p fn v).besidesHost = s.besidesHost := by
  unfold State.msix; simp only []
  repeat' split
  all_goals first | rfl | simp

@[simp] theorem State.sliceMsix_besidesHost (s : State) (sl p v : Nat) : (s.sliceMsix sl p v).besidesHost = s.besidesHost := by
  unfold State.sliceMsix; split
  · simp
  · rfl

@[simp] theorem State.vector0_besidesHost (s : State) : s.vector0.besidesHost = s.besidesHost := by
  unfold State.vector0; apply foldl_keeps; simp

@[simp] theorem State.channelIrq_besidesHost (s : State) (ch : Nat) : (s.channelIrq ch).besidesHost = s.besidesHost := by
  unfold State.channelIrq; simp only []
  repeat' split
  all_goals first | rfl | simp

@[simp] theorem State.putResults_besidesRegs (s : State) (ch n : Nat) (ws : List Nat) : (s.putResults ch n ws).besidesRegs = s.besidesRegs := by
  induction ws generalizing s n with
  | nil => rfl
  | cons w ws ih => unfold State.putResults; split <;> simp [ih]

@[simp] theorem State.applyBind_besidesHost (s : State) (ch w g : Nat) : (s.applyBind ch w g).besidesHost = s.besidesHost := by
  unfold State.applyBind; simp only []
  repeat' split
  all_goals rfl

@[simp] theorem State.ackRc_besidesMbx (s : State) (ch rc : Nat) (ws : List Nat) : (s.ackRc ch rc ws).besidesMbx = s.besidesMbx := by
  unfold State.ackRc
  split
  · have A : ∀ (t : State) (m : Mbx), ({ t with mbx := m } : State).besidesMbx = t.besidesMbx := fun _ _ => rfl
    have F : ∀ (t : State) (f : Fld) (v m i j k : Nat), (t.fset f v m i j k).besidesMbx = t.besidesMbx := fun _ _ _ _ _ _ _ => rfl
    have R : ∀ (t : State) (f : Reg) (v m i j k : Nat), (t.rset f v m i j k).besidesMbx = t.besidesMbx := fun _ _ _ _ _ _ _ => rfl
    have P : ∀ (t : State) ch n ws, (t.putResults ch n ws).besidesMbx = t.besidesMbx := fun t ch n ws =>
      State.besidesMbx_of (State.besidesHost_of (State.putResults_besidesRegs t ch n ws))
    have C : ∀ (t : State) ch, (t.channelIrq ch).besidesMbx = t.besidesMbx := fun t ch => State.besidesMbx_of (State.channelIrq_besidesHost t ch)
    have B : ∀ (t : State) ch w g, (t.applyBind ch w g).besidesMbx = t.besidesMbx := fun t ch w g =>
      State.besidesMbx_of (State.applyBind_besidesHost t ch w g)
    simp only []
    repeat' split
    all_goals simp only [A, B, C, F, R, P]
  · rfl

/-- An acknowledgement changes registers, output, the host side (interrupts, grants) and the mailboxes alone (R577). -/
theorem State.ack_besidesMbx (s : State) (ch : Nat) (st : Status) (arg : Nat) (ws : List Nat) : (s.ack ch st arg ws).besidesMbx = s.besidesMbx := by
  unfold State.ack
  rw [State.besidesMbx_of (State.besidesHost_of (State.count_besidesRegs _ _ _ _ _ _)), State.ackRc_besidesMbx]; rfl

theorem State.takeUp_besidesMbx (s : State) (ch : Nat) : (s.takeUp ch).besidesMbx = s.besidesMbx := by
  unfold State.takeUp; split <;> rfl

theorem State.noticeSlice_besidesMbx (s : State) (sl : Nat) (n : Notice) : (s.noticeSlice sl n).besidesMbx = s.besidesMbx := by
  unfold State.noticeSlice; simp only []; split <;> rfl

theorem State.noticeBank_besidesMbx (s : State) (b : Nat) (n : Notice) : (s.noticeBank b n).besidesMbx = s.besidesMbx := by
  unfold State.noticeBank; simp only []; split <;> rfl

theorem State.noticeDevice_besidesMbx (s : State) (n : Notice) : (s.noticeDevice n).besidesMbx = s.besidesMbx := by
  unfold State.noticeDevice; apply foldl_keeps; intro s b; split
  · exact State.noticeBank_besidesMbx _ _ _
  · rfl

theorem State.deviceNews_besidesMbx (s : State) : s.deviceNews.besidesMbx = s.besidesMbx := by
  unfold State.deviceNews State.deviceEvent
  rw [State.noticeDevice_besidesMbx, State.besidesMbx_of (State.vector0_besidesHost s)]

theorem State.bootTo_besidesMbx (s : State) (n : Nat) : (s.bootTo n).besidesMbx = s.besidesMbx := by
  unfold State.bootTo; rw [State.deviceNews_besidesMbx]; rfl

/-! ### Fields that an acknowledgement, or taking a command up, keeps -/

@[simp] theorem State.ack_pending (s : State) (ch : Nat) (st : Status) (a : Nat) (ws : List Nat) : (s.ack ch st a ws).pending = s.pending := by
  have h := congrArg State.pending (State.ack_besidesMbx s ch st a ws); exact h
@[simp] theorem State.ack_free (s : State) (ch : Nat) (st : Status) (a : Nat) (ws : List Nat) : (s.ack ch st a ws).free = s.free := by
  have h := congrArg State.free (State.ack_besidesMbx s ch st a ws); exact h
@[simp] theorem State.ack_latch (s : State) (ch : Nat) (st : Status) (a : Nat) (ws : List Nat) : (s.ack ch st a ws).latch = s.latch := by
  have h := congrArg State.latch (State.ack_besidesMbx s ch st a ws); exact h
@[simp] theorem State.ack_mem (s : State) (ch : Nat) (st : Status) (a : Nat) (ws : List Nat) : (s.ack ch st a ws).mem = s.mem := by
  have h := congrArg State.mem (State.ack_besidesMbx s ch st a ws); exact h
@[simp] theorem State.ack_fab (s : State) (ch : Nat) (st : Status) (a : Nat) (ws : List Nat) : (s.ack ch st a ws).fab = s.fab := by
  have h := congrArg State.fab (State.ack_besidesMbx s ch st a ws); exact h
@[simp] theorem State.ack_pw (s : State) (ch : Nat) (st : Status) (a : Nat) (ws : List Nat) : (s.ack ch st a ws).pw = s.pw := by
  have h := congrArg State.pw (State.ack_besidesMbx s ch st a ws); exact h
@[simp] theorem State.ack_atl (s : State) (ch : Nat) (st : Status) (a : Nat) (ws : List Nat) : (s.ack ch st a ws).atl = s.atl := by
  have h := congrArg State.atl (State.ack_besidesMbx s ch st a ws); exact h
@[simp] theorem State.ack_dbg (s : State) (ch : Nat) (st : Status) (a : Nat) (ws : List Nat) : (s.ack ch st a ws).dbg = s.dbg := by
  have h := congrArg State.dbg (State.ack_besidesMbx s ch st a ws); exact h
@[simp] theorem State.ack_brs (s : State) (ch : Nat) (st : Status) (a : Nat) (ws : List Nat) : (s.ack ch st a ws).brs = s.brs := by
  have h := congrArg State.brs (State.ack_besidesMbx s ch st a ws); exact h
@[simp] theorem State.ack_ecc (s : State) (ch : Nat) (st : Status) (a : Nat) (ws : List Nat) : (s.ack ch st a ws).ecc = s.ecc := by
  have h := congrArg State.ecc (State.ack_besidesMbx s ch st a ws); exact h
@[simp] theorem State.ack_cb (s : State) (ch : Nat) (st : Status) (a : Nat) (ws : List Nat) : (s.ack ch st a ws).cb = s.cb := by
  have h := congrArg State.cb (State.ack_besidesMbx s ch st a ws); exact h
@[simp] theorem State.ack_own (s : State) (ch : Nat) (st : Status) (a : Nat) (ws : List Nat) : (s.ack ch st a ws).own = s.own := by
  have h := congrArg State.own (State.ack_besidesMbx s ch st a ws); exact h
@[simp] theorem State.ack_stgOwn (s : State) (ch : Nat) (st : Status) (a : Nat) (ws : List Nat) : (s.ack ch st a ws).stgOwn = s.stgOwn := by
  have h := congrArg State.stgOwn (State.ack_besidesMbx s ch st a ws); exact h
@[simp] theorem State.ack_stk (s : State) (ch : Nat) (st : Status) (a : Nat) (ws : List Nat) : (s.ack ch st a ws).stk = s.stk := by
  have h := congrArg State.stk (State.ack_besidesMbx s ch st a ws); exact h
@[simp] theorem State.ack_tbl (s : State) (ch : Nat) (st : Status) (a : Nat) (ws : List Nat) : (s.ack ch st a ws).tbl = s.tbl := by
  have h := congrArg State.tbl (State.ack_besidesMbx s ch st a ws); exact h
@[simp] theorem State.ack_kvc (s : State) (ch : Nat) (st : Status) (a : Nat) (ws : List Nat) : (s.ack ch st a ws).kvc = s.kvc := by
  have h := congrArg State.kvc (State.ack_besidesMbx s ch st a ws); exact h
@[simp] theorem State.ack_seqs (s : State) (ch : Nat) (st : Status) (a : Nat) (ws : List Nat) : (s.ack ch st a ws).seqs = s.seqs := by
  have h := congrArg State.seqs (State.ack_besidesMbx s ch st a ws); exact h
@[simp] theorem State.ack_works (s : State) (ch : Nat) (st : Status) (a : Nat) (ws : List Nat) : (s.ack ch st a ws).works = s.works := by
  have h := congrArg State.works (State.ack_besidesMbx s ch st a ws); exact h
@[simp] theorem State.ack_nextWork (s : State) (ch : Nat) (st : Status) (a : Nat) (ws : List Nat) : (s.ack ch st a ws).nextWork = s.nextWork := by
  have h := congrArg State.nextWork (State.ack_besidesMbx s ch st a ws); exact h
@[simp] theorem State.ack_recNo (s : State) (ch : Nat) (st : Status) (a : Nat) (ws : List Nat) : (s.ack ch st a ws).recNo = s.recNo := by
  have h := congrArg State.recNo (State.ack_besidesMbx s ch st a ws); exact h
@[simp] theorem State.ack_serial (s : State) (ch : Nat) (st : Status) (a : Nat) (ws : List Nat) : (s.ack ch st a ws).serial = s.serial := by
  have h := congrArg State.serial (State.ack_besidesMbx s ch st a ws); exact h
@[simp] theorem State.ack_cmp (s : State) (ch : Nat) (st : Status) (a : Nat) (ws : List Nat) : (s.ack ch st a ws).cmp = s.cmp := by
  have h := congrArg State.cmp (State.ack_besidesMbx s ch st a ws); exact h
@[simp] theorem State.ack_syn (s : State) (ch : Nat) (st : Status) (a : Nat) (ws : List Nat) : (s.ack ch st a ws).syn = s.syn := by
  have h := congrArg State.syn (State.ack_besidesMbx s ch st a ws); exact h
@[simp] theorem State.ack_shards (s : State) (ch : Nat) (st : Status) (a : Nat) (ws : List Nat) : (s.ack ch st a ws).shards = s.shards := by
  have h := congrArg State.shards (State.ack_besidesMbx s ch st a ws); exact h
@[simp] theorem State.ack_vrn (s : State) (ch : Nat) (st : Status) (a : Nat) (ws : List Nat) : (s.ack ch st a ws).vrn = s.vrn := by
  have h := congrArg State.vrn (State.ack_besidesMbx s ch st a ws); exact h
@[simp] theorem State.ack_slc (s : State) (ch : Nat) (st : Status) (a : Nat) (ws : List Nat) : (s.ack ch st a ws).slc = s.slc := by
  have h := congrArg State.slc (State.ack_besidesMbx s ch st a ws); exact h
@[simp] theorem State.ack_clOwner (s : State) (ch : Nat) (st : Status) (a : Nat) (ws : List Nat) : (s.ack ch st a ws).clOwner = s.clOwner := by
  have h := congrArg State.clOwner (State.ack_besidesMbx s ch st a ws); exact h
@[simp] theorem State.ack_dma (s : State) (ch : Nat) (st : Status) (a : Nat) (ws : List Nat) : (s.ack ch st a ws).dma = s.dma := by
  have h := congrArg State.dma (State.ack_besidesMbx s ch st a ws); exact h
@[simp] theorem State.ack_dmaSaved (s : State) (ch : Nat) (st : Status) (a : Nat) (ws : List Nat) : (s.ack ch st a ws).dmaSaved = s.dmaSaved := by
  have h := congrArg State.dmaSaved (State.ack_besidesMbx s ch st a ws); exact h
@[simp] theorem State.ack_progs (s : State) (ch : Nat) (st : Status) (a : Nat) (ws : List Nat) : (s.ack ch st a ws).progs = s.progs := by
  have h := congrArg State.progs (State.ack_besidesMbx s ch st a ws); exact h
@[simp] theorem State.ack_nvm (s : State) (ch : Nat) (st : Status) (a : Nat) (ws : List Nat) : (s.ack ch st a ws).nvm = s.nvm := by
  have h := congrArg State.nvm (State.ack_besidesMbx s ch st a ws); exact h
@[simp] theorem State.ack_net (s : State) (ch : Nat) (st : Status) (a : Nat) (ws : List Nat) : (s.ack ch st a ws).net = s.net := by
  have h := congrArg State.net (State.ack_besidesMbx s ch st a ws); exact h
@[simp] theorem State.ack_tmt (s : State) (ch : Nat) (st : Status) (a : Nat) (ws : List Nat) : (s.ack ch st a ws).tmt = s.tmt := by
  have h := congrArg State.tmt (State.ack_besidesMbx s ch st a ws); exact h
@[simp] theorem State.ack_cph (s : State) (ch : Nat) (st : Status) (a : Nat) (ws : List Nat) : (s.ack ch st a ws).cph = s.cph := by
  have h := congrArg State.cph (State.ack_besidesMbx s ch st a ws); exact h
@[simp] theorem State.ack_pmu (s : State) (ch : Nat) (st : Status) (a : Nat) (ws : List Nat) : (s.ack ch st a ws).pmu = s.pmu := by
  have h := congrArg State.pmu (State.ack_besidesMbx s ch st a ws); exact h
@[simp] theorem State.ack_hrc (s : State) (ch : Nat) (st : Status) (a : Nat) (ws : List Nat) : (s.ack ch st a ws).hrc = s.hrc := by
  have h := congrArg State.hrc (State.ack_besidesMbx s ch st a ws); exact h
@[simp] theorem State.ack_loaded (s : State) (ch : Nat) (st : Status) (a : Nat) (ws : List Nat) : (s.ack ch st a ws).loaded = s.loaded := by
  have h := congrArg State.loaded (State.ack_besidesMbx s ch st a ws); exact h
@[simp] theorem State.takeUp_pending (s : State) (ch : Nat) : (s.takeUp ch).pending = s.pending := by
  unfold State.takeUp; split <;> rfl
@[simp] theorem State.takeUp_free (s : State) (ch : Nat) : (s.takeUp ch).free = s.free := by
  unfold State.takeUp; split <;> rfl
@[simp] theorem State.takeUp_latch (s : State) (ch : Nat) : (s.takeUp ch).latch = s.latch := by
  unfold State.takeUp; split <;> rfl
@[simp] theorem State.takeUp_mem (s : State) (ch : Nat) : (s.takeUp ch).mem = s.mem := by
  unfold State.takeUp; split <;> rfl
@[simp] theorem State.takeUp_fab (s : State) (ch : Nat) : (s.takeUp ch).fab = s.fab := by
  unfold State.takeUp; split <;> rfl
@[simp] theorem State.takeUp_pw (s : State) (ch : Nat) : (s.takeUp ch).pw = s.pw := by
  unfold State.takeUp; split <;> rfl
@[simp] theorem State.takeUp_atl (s : State) (ch : Nat) : (s.takeUp ch).atl = s.atl := by
  unfold State.takeUp; split <;> rfl
@[simp] theorem State.takeUp_dbg (s : State) (ch : Nat) : (s.takeUp ch).dbg = s.dbg := by
  unfold State.takeUp; split <;> rfl
@[simp] theorem State.takeUp_brs (s : State) (ch : Nat) : (s.takeUp ch).brs = s.brs := by
  unfold State.takeUp; split <;> rfl
@[simp] theorem State.takeUp_ecc (s : State) (ch : Nat) : (s.takeUp ch).ecc = s.ecc := by
  unfold State.takeUp; split <;> rfl
@[simp] theorem State.takeUp_cb (s : State) (ch : Nat) : (s.takeUp ch).cb = s.cb := by
  unfold State.takeUp; split <;> rfl
@[simp] theorem State.takeUp_own (s : State) (ch : Nat) : (s.takeUp ch).own = s.own := by
  unfold State.takeUp; split <;> rfl
@[simp] theorem State.takeUp_stgOwn (s : State) (ch : Nat) : (s.takeUp ch).stgOwn = s.stgOwn := by
  unfold State.takeUp; split <;> rfl
@[simp] theorem State.takeUp_stk (s : State) (ch : Nat) : (s.takeUp ch).stk = s.stk := by
  unfold State.takeUp; split <;> rfl
@[simp] theorem State.takeUp_tbl (s : State) (ch : Nat) : (s.takeUp ch).tbl = s.tbl := by
  unfold State.takeUp; split <;> rfl
@[simp] theorem State.takeUp_kvc (s : State) (ch : Nat) : (s.takeUp ch).kvc = s.kvc := by
  unfold State.takeUp; split <;> rfl
@[simp] theorem State.takeUp_seqs (s : State) (ch : Nat) : (s.takeUp ch).seqs = s.seqs := by
  unfold State.takeUp; split <;> rfl
@[simp] theorem State.takeUp_works (s : State) (ch : Nat) : (s.takeUp ch).works = s.works := by
  unfold State.takeUp; split <;> rfl
@[simp] theorem State.takeUp_nextWork (s : State) (ch : Nat) : (s.takeUp ch).nextWork = s.nextWork := by
  unfold State.takeUp; split <;> rfl
@[simp] theorem State.takeUp_recNo (s : State) (ch : Nat) : (s.takeUp ch).recNo = s.recNo := by
  unfold State.takeUp; split <;> rfl
@[simp] theorem State.takeUp_serial (s : State) (ch : Nat) : (s.takeUp ch).serial = s.serial := by
  unfold State.takeUp; split <;> rfl
@[simp] theorem State.takeUp_cmp (s : State) (ch : Nat) : (s.takeUp ch).cmp = s.cmp := by
  unfold State.takeUp; split <;> rfl
@[simp] theorem State.takeUp_syn (s : State) (ch : Nat) : (s.takeUp ch).syn = s.syn := by
  unfold State.takeUp; split <;> rfl
@[simp] theorem State.takeUp_shards (s : State) (ch : Nat) : (s.takeUp ch).shards = s.shards := by
  unfold State.takeUp; split <;> rfl
@[simp] theorem State.takeUp_vrn (s : State) (ch : Nat) : (s.takeUp ch).vrn = s.vrn := by
  unfold State.takeUp; split <;> rfl
@[simp] theorem State.takeUp_slc (s : State) (ch : Nat) : (s.takeUp ch).slc = s.slc := by
  unfold State.takeUp; split <;> rfl
@[simp] theorem State.takeUp_clOwner (s : State) (ch : Nat) : (s.takeUp ch).clOwner = s.clOwner := by
  unfold State.takeUp; split <;> rfl
@[simp] theorem State.takeUp_dma (s : State) (ch : Nat) : (s.takeUp ch).dma = s.dma := by
  unfold State.takeUp; split <;> rfl
@[simp] theorem State.takeUp_dmaSaved (s : State) (ch : Nat) : (s.takeUp ch).dmaSaved = s.dmaSaved := by
  unfold State.takeUp; split <;> rfl
@[simp] theorem State.takeUp_progs (s : State) (ch : Nat) : (s.takeUp ch).progs = s.progs := by
  unfold State.takeUp; split <;> rfl
@[simp] theorem State.takeUp_nvm (s : State) (ch : Nat) : (s.takeUp ch).nvm = s.nvm := by
  unfold State.takeUp; split <;> rfl
@[simp] theorem State.takeUp_net (s : State) (ch : Nat) : (s.takeUp ch).net = s.net := by
  unfold State.takeUp; split <;> rfl
@[simp] theorem State.takeUp_tmt (s : State) (ch : Nat) : (s.takeUp ch).tmt = s.tmt := by
  unfold State.takeUp; split <;> rfl
@[simp] theorem State.takeUp_cph (s : State) (ch : Nat) : (s.takeUp ch).cph = s.cph := by
  unfold State.takeUp; split <;> rfl
@[simp] theorem State.takeUp_pmu (s : State) (ch : Nat) : (s.takeUp ch).pmu = s.pmu := by
  unfold State.takeUp; split <;> rfl
@[simp] theorem State.takeUp_hrc (s : State) (ch : Nat) : (s.takeUp ch).hrc = s.hrc := by
  unfold State.takeUp; split <;> rfl
@[simp] theorem State.takeUp_loaded (s : State) (ch : Nat) : (s.takeUp ch).loaded = s.loaded := by
  unfold State.takeUp; split <;> rfl
@[simp] theorem State.takeUp_out (s : State) (ch : Nat) : (s.takeUp ch).out = s.out := by
  unfold State.takeUp; split <;> rfl
@[simp] theorem State.takeUp_regs (s : State) (ch : Nat) : (s.takeUp ch).regs = s.regs := by
  unfold State.takeUp; split <;> rfl
@[simp] theorem State.takeUp_hl (s : State) (ch : Nat) : (s.takeUp ch).hl = s.hl := by
  unfold State.takeUp; split <;> rfl
@[simp] theorem State.rget_takeUp (s : State) (ch : Nat) (r : Reg) (m i j k : Nat) : (s.takeUp ch).rget r m i j k = s.rget r m i j k := by
  simp [State.rget]
@[simp] theorem State.fget_takeUp (s : State) (ch : Nat) (f : Fld) (m i j k : Nat) : (s.takeUp ch).fget f m i j k = s.fget f m i j k := by
  simp [State.fget]
@[simp] theorem State.fon_takeUp (s : State) (ch : Nat) (f : Fld) (m i j k : Nat) : (s.takeUp ch).fon f m i j k = s.fon f m i j k := by
  simp [State.fon]

/-- Service of a command that firmware takes: it runs for its slice and is acknowledged, unless it completes later (R573, R577). -/
theorem State.serve_of_serves {s : State} {ch cmd : Nat} {ws : List (Nat × Nat)} {cls : CmdClass} {pb : Bool} (sl : Nat) (run : Nat → State → CmdResult)
    (h : s.serves ch cmd ws cls pb = true) :
    s.serve ch cmd ws sl cls pb run =
      (if (run (s.servedSlice ch sl) (s.takeUp ch)).done then
        (run (s.servedSlice ch sl) (s.takeUp ch)).state.ack ch (run (s.servedSlice ch sl) (s.takeUp ch)).status
          (run (s.servedSlice ch sl) (s.takeUp ch)).arg (run (s.servedSlice ch sl) (s.takeUp ch)).words
       else (run (s.servedSlice ch sl) (s.takeUp ch)).state) := by
  unfold State.serves at h
  simp only [Bool.and_eq_true, Bool.not_eq_true', Bool.or_eq_true, decide_eq_true_eq] at h
  obtain ⟨⟨⟨⟨h0, h1⟩, h2⟩, h3⟩, h4⟩ := h
  unfold State.serve State.servedSlice
  simp only [h0, State.fwRuns, h1, h2, Bool.not_false, Bool.not_true, Bool.and_self, if_true, Bool.false_eq_true, if_false]
  by_cases c : ch < 320
  · have c' : ¬ 320 ≤ ch := by omega
    by_cases d : ch % 32 < 16
    · have d' : ¬ 16 ≤ ch % 32 := by omega
      simp [c, c', d, d'] at h3 h4 ⊢
      cases cls <;> cases pb <;> simp_all <;> omega
    · have d' : 16 ≤ ch % 32 := by omega
      simp [c, c', d, d'] at h3 h4 ⊢
      cases cls <;> cases pb <;> simp_all <;> omega
  · simp [c]

end Machine
end Sys2Proof
end

