-- ==== Sys2Proof/Laws/Bristle.lean ====
section
/-!
SUPPORT. A bristle's registers read back, and what issuing an instruction does when it goes.
-/
namespace Sys2Proof
namespace Machine

@[simp] theorem State.br_setBr (s : State) (b : Nat) (x : Bristle) : (s.setBr b x).br b = x := by
  simp [State.br, State.setBr, smGetD, smGet_smSet_same]

theorem State.br_setBr_ne (s : State) {b c : Nat} (x : Bristle) (h : c ≠ b) : (s.setBr b x).br c = s.br c := by
  simp [State.br, State.setBr, smGetD, smGet_smSet_ne _ _ h]

@[simp] theorem State.slots_besidesRegs (s : State) (b c n : Nat) : (s.slots b c n).besidesRegs = s.besidesRegs := by
  unfold State.slots; split
  · rfl
  · simp

@[simp] theorem State.slots_brs (s : State) (b c n : Nat) : (s.slots b c n).brs = s.brs := by
  have h := congrArg State.brs (State.slots_besidesRegs s b c n); exact h

@[simp] theorem State.br_slots (s : State) (b c n k : Nat) : (s.slots b c n).br k = s.br k := by simp [State.br]

@[simp] theorem State.br_fset (s : State) (f : Fld) (v m i j k b : Nat) : (s.fset f v m i j k).br b = s.br b := rfl

@[simp] theorem Bristle.g_zero (br : Bristle) : br.g 0 = 0 := rfl

theorem Bristle.g_setG (br : Bristle) (r : Nat) (x : Word64) : (br.setG r x).g r = if r = 0 then 0 else x := by
  unfold Bristle.setG Bristle.g; split
  · rfl
  · simp [smGetD, smGet_smSet_same]

theorem Bristle.g_setG_ne (br : Bristle) {r q : Nat} (x : Word64) (h : q ≠ r) : (br.setG r x).g q = br.g q := by
  unfold Bristle.setG Bristle.g; split
  · rfl
  · split
    · rfl
    · simp [smGetD, smGet_smSet_ne _ _ h]

/-- The fields that exposed results becoming visible keep. -/
def Bristle.kept (br : Bristle) : Bristle := { br with prod := 0, pendMul := [], acc := [], pendAcc := [], vsat := 0 }

@[simp] theorem Bristle.showMul_kept (br : Bristle) (p : PendMul → Bool) : (br.showMul p).kept = br.kept := by
  unfold Bristle.showMul; refine Eq.trans (foldl_keeps Bristle.kept _ ?_ _ _) rfl; intro _ _; rfl

@[simp] theorem Bristle.showAcc_kept (br : Bristle) (p : PendAcc → Bool) : (br.showAcc p).kept = br.kept := by
  unfold Bristle.showAcc; refine Eq.trans (foldl_keeps Bristle.kept _ ?_ _ _) rfl; intro _ _; rfl

@[simp] theorem Bristle.settle_kept (br : Bristle) (t : Nat) : (br.settle t).kept = br.kept := by
  simp [Bristle.settle]

@[simp] theorem Bristle.settle_gpr (br : Bristle) (t : Nat) : (br.settle t).gpr = br.gpr := by
  have h := congrArg Bristle.gpr (br.settle_kept t); exact h
@[simp] theorem Bristle.settle_vec (br : Bristle) (t : Nat) : (br.settle t).vec = br.vec := by
  have h := congrArg Bristle.vec (br.settle_kept t); exact h
@[simp] theorem Bristle.settle_sbuf (br : Bristle) (t : Nat) : (br.settle t).sbuf = br.sbuf := by
  have h := congrArg Bristle.sbuf (br.settle_kept t); exact h
@[simp] theorem Bristle.settle_pc (br : Bristle) (t : Nat) : (br.settle t).pc = br.pc := by
  have h := congrArg Bristle.pc (br.settle_kept t); exact h
@[simp] theorem Bristle.settle_loads (br : Bristle) (t : Nat) : (br.settle t).loads = br.loads := by
  have h := congrArg Bristle.loads (br.settle_kept t); exact h
@[simp] theorem Bristle.g_settle (br : Bristle) (t r : Nat) : (br.settle t).g r = br.g r := by simp [Bristle.g]
@[simp] theorem Bristle.v_settle (br : Bristle) (t r : Nat) : (br.settle t).v r = br.v r := by simp [Bristle.v]
@[simp] theorem Bristle.g_tick (br : Bristle) (n h r : Nat) : (br.tick n h).g r = br.g r := rfl
@[simp] theorem Bristle.v_tick (br : Bristle) (n h r : Nat) : (br.tick n h).v r = br.v r := rfl

@[simp] theorem State.atIssue_g (s : State) (w : Issue) (srcs : List Nat) (vec : Bool) (r : Nat) : (s.atIssue w srcs vec).g r = (s.br w.b).g r := by
  simp [State.atIssue]
@[simp] theorem State.atIssue_v (s : State) (w : Issue) (srcs : List Nat) (vec : Bool) (r : Nat) : (s.atIssue w srcs vec).v r = (s.br w.b).v r := by
  simp [State.atIssue]
@[simp] theorem State.atIssue_sbuf (s : State) (w : Issue) (srcs : List Nat) (vec : Bool) : (s.atIssue w srcs vec).sbuf = (s.br w.b).sbuf := by
  simp [State.atIssue, Bristle.tick]
@[simp] theorem State.atIssue_pc (s : State) (w : Issue) (srcs : List Nat) (vec : Bool) : (s.atIssue w srcs vec).pc = (s.br w.b).pc := by
  simp [State.atIssue, Bristle.tick]
@[simp] theorem State.atIssue_loads (s : State) (w : Issue) (srcs : List Nat) (vec : Bool) : (s.atIssue w srcs vec).loads = (s.br w.b).loads := by
  simp [State.atIssue, Bristle.tick]

/-- A legal instruction that goes acts on the state of its issue cycle, and is retired as it says (R101, R122). -/
theorem State.issue_of_goes {s : State} {w : Issue} {srcs : List Nat} (legal vec : Bool) (run : Bristle → State → State × Ctl)
    (h : s.goes w srcs vec) (hl : legal = true) (hr : (run (s.br w.b) (s.ready w srcs vec)).2 ≠ .hold) :
    s.issue w legal srcs vec run =
      ((run (s.br w.b) (s.ready w srcs vec)).1.fset BRS_PC_PC (s.br w.b).pc w.b).retire w.b (s.br w.b).pc (s.asCoded w).len
        (run (s.br w.b) (s.ready w srcs vec)).2 := by
  obtain ⟨h1, h2, h3, h4, h5⟩ := h
  have h3' : (!s.legacy w.b && (s.br w.b).pc % 4 != 0) = false := by
    rcases h3 with h | h <;> simp [h]
  subst hl
  unfold State.issue
  simp only [h1, h2, h3', if_true, h4, h5, Bool.not_true, Bool.false_eq_true, if_false]
  generalize hq : run (s.br w.b) (s.ready w srcs vec) = q at hr
  unfold State.ready State.atIssue at hq
  rw [hq]
  obtain ⟨u, c⟩ := q
  cases c <;> simp at hr ⊢

/-- Everything but bristles, registers and output. -/
def State.besidesBrs (s : State) : State := { s with brs := [], regs := [], out := [] }

theorem State.eq_of_besidesBrs {s t : State} (h : t.besidesBrs = s.besidesBrs) : t = { s with brs := t.brs, regs := t.regs, out := t.out } := by
  cases s; cases t; simp [State.besidesBrs] at h; simp [h]

theorem State.besidesBrs_of {s t : State} (h : t.besidesRegs = s.besidesRegs) : t.besidesBrs = s.besidesBrs := by
  have := congrArg (fun x : State => { x with brs := [] }) h; exact this

@[simp] theorem State.setBr_besidesBrs (s : State) (b : Nat) (x : Bristle) : (s.setBr b x).besidesBrs = s.besidesBrs := rfl
@[simp] theorem State.fset_besidesBrs (s : State) (f : Fld) (v m i j k : Nat) : (s.fset f v m i j k).besidesBrs = s.besidesBrs := rfl
@[simp] theorem State.slots_besidesBrs (s : State) (b c n : Nat) : (s.slots b c n).besidesBrs = s.besidesBrs :=
  State.besidesBrs_of (State.slots_besidesRegs s b c n)
@[simp] theorem State.ready_besidesBrs (s : State) (w : Issue) (srcs : List Nat) (vec : Bool) : (s.ready w srcs vec).besidesBrs = s.besidesBrs := by
  simp [State.ready]
@[simp] theorem State.ready_br (s : State) (w : Issue) (srcs : List Nat) (vec : Bool) : (s.ready w srcs vec).br w.b = s.atIssue w srcs vec := by
  simp [State.ready]
theorem State.ready_br_ne (s : State) (w : Issue) (srcs : List Nat) (vec : Bool) {c : Nat} (h : c ≠ w.b) : (s.ready w srcs vec).br c = s.br c := by
  simp [State.ready, State.br_setBr_ne _ _ h]

/-- An instruction that falls through: its bristle afterwards, and what it leaves alone. -/
theorem State.retire_fall {s u : State} {b : Nat} (pc len n : Nat) (ho : ∀ c, c ≠ b → u.br c = s.br c) (hu : u.besidesBrs = s.besidesBrs) :
    (∃ k, (u.retire b pc len (.fall n)).br b = ({ u.br b with pc := (pc + len) % 2 ^ 18 } : Bristle).tick k 0) ∧
      s.onlyBristle (u.retire b pc len (.fall n)) b := by
  refine ⟨⟨1 + n + (if u.legacy b then 1 else 0), ?_⟩, ?_, ?_⟩
  · unfold State.retire; simp
  · intro c hc; unfold State.retire; simp [State.br_setBr_ne _ _ hc, ho c hc]
  · apply State.eq_of_besidesBrs
    unfold State.retire; simp [hu]

/-- A native or Kengir-V transfer of control whose target is aligned natively. -/
theorem State.retire_jump {s u : State} {b : Nat} (pc len tgt n : Nat) (ho : ∀ c, c ≠ b → u.br c = s.br c) (hu : u.besidesBrs = s.besidesBrs)
    (ha : u.legacy b = true ∨ tgt % 4 = 0) :
    (∃ k, (u.retire b pc len (.jump tgt n)).br b = ({ u.br b with pc := tgt % 2 ^ 18 } : Bristle).tick k 0) ∧
      s.onlyBristle (u.retire b pc len (.jump tgt n)) b := by
  have e : ∃ x y, u.retire b pc len (.jump tgt n) =
      (((u.setBr b (({ u.br b with pc := tgt % 2 ^ 18 } : Bristle).tick x 0)).slots b 0 1).slots b 1 n).slots b 2 y := by
    refine ⟨1 + n + (if u.legacy b then 1 else 0), if u.legacy b then 1 else 0, ?_⟩
    unfold State.retire
    rcases ha with h | h <;> simp [h]
  obtain ⟨x, y, e⟩ := e
  rw [e]
  refine ⟨⟨x, by simp⟩, ?_, ?_⟩
  · intro c hc; simp [State.br_setBr_ne _ _ hc, ho c hc]
  · apply State.eq_of_besidesBrs; simp [hu]

/-- An instruction that goes and replaces its bristle's state, then falls through. -/
theorem State.issue_fall {s : State} {w : Issue} {srcs : List Nat} (legal vec : Bool) (f : Bristle → Bristle → Bristle) (hl : legal = true)
    (h : s.goes w srcs vec) :
    ∃ t : State, s.issue w legal srcs vec (fun pre s => (s.setBr w.b (f pre (s.br w.b)), .fall 0)) = t ∧
      (∃ k, t.br w.b = ({ f (s.br w.b) (s.atIssue w srcs vec) with pc := ((s.br w.b).pc + (s.asCoded w).len) % 2 ^ 18 } : Bristle).tick k 0) ∧
      s.onlyBristle t w.b := by
  rw [State.issue_of_goes _ _ _ h hl (by simp)]
  generalize (s.asCoded w).len = len
  refine ⟨_, rfl, ?_⟩
  generalize hu : State.fset _ BRS_PC_PC _ _ = u
  have hb : u.br w.b = f (s.br w.b) (s.atIssue w srcs vec) := by subst hu; simp
  obtain ⟨hk, ho⟩ := State.retire_fall (s := s) (u := u) (b := w.b) (s.br w.b).pc len 0
    (by intro c hc; subst hu; simp [State.br_setBr_ne _ _ hc, State.ready_br_ne _ _ _ _ hc]) (by subst hu; simp)
  exact ⟨hb ▸ hk, ho⟩

/-- An instruction that goes and transfers control to a target that is aligned natively. -/
theorem State.issue_jump {s : State} {w : Issue} {srcs : List Nat} (legal vec : Bool) (n : Nat) (run : Bristle → State → State × Ctl)
    (q : State) (tgt : Nat) (hl : legal = true) (h : s.goes w srcs vec) (hr : run (s.br w.b) (s.ready w srcs vec) = (q, .jump tgt n))
    (hq1 : ∀ c, c ≠ w.b → q.br c = s.br c) (hq2 : q.besidesBrs = s.besidesBrs)
    (ha : (q.fset BRS_PC_PC (s.br w.b).pc w.b).legacy w.b = true ∨ tgt % 4 = 0) :
    ∃ t : State, s.issue w legal srcs vec run = t ∧
      (∃ k, t.br w.b = ({ q.br w.b with pc := tgt % 2 ^ 18 } : Bristle).tick k 0) ∧ s.onlyBristle t w.b := by
  rw [State.issue_of_goes _ _ _ h hl (by simp [hr])]
  rw [hr]
  refine ⟨_, rfl, ?_⟩
  exact State.retire_jump (s := s) (u := q.fset BRS_PC_PC (s.br w.b).pc w.b) _ _ _ _ hq1 (by simp [hq2]) ha

end Machine
end Sys2Proof
end

