-- ==== Sys2Proof/Laws/Memory.lean ====
section
/-!
SUPPORT. Laws of byte memories: every memory operation keeps the canonical form of `memWf`; a read after a write.
-/
namespace Sys2Proof
namespace Machine

/-- Every key of a map is at least b. -/
def smFrom {α : Type} (m : SMap α) (b : Nat) : Prop := ∀ q ∈ m, b ≤ q.1

theorem smSorted_cons {α : Type} {k : Nat} {v : α} {m : SMap α} : smSorted ((k, v) :: m) = true ↔ smFrom m (k + 1) ∧ smSorted m = true := by
  induction m generalizing k v with
  | nil => simp [smSorted, smFrom]
  | cons p m ih =>
    obtain ⟨j, w⟩ := p
    have := ih (k := j) (v := w)
    simp only [smSorted, Bool.and_eq_true, decide_eq_true_eq] at this ⊢
    constructor
    · rintro ⟨hk, hs⟩
      refine ⟨?_, hs⟩
      intro q hq
      rcases List.mem_cons.mp hq with rfl | hq
      · exact hk
      · have h := (this.mp hs).1 q hq; omega
    · rintro ⟨hf, hs⟩
      exact ⟨hf (j, w) (by simp), hs⟩

theorem smFrom_smSet {α : Type} {m : SMap α} {b j : Nat} (w : α) (h : smFrom m b) (hj : b ≤ j) : smFrom (smSet m j w) b := by
  induction m with
  | nil => simp [smSet, smFrom, hj]
  | cons p m ih =>
    obtain ⟨k, v⟩ := p
    have hk : b ≤ k := h (k, v) (by simp)
    have hm : smFrom m b := fun q hq => h q (by simp [hq])
    intro q
    simp only [smSet]
    split
    · intro hq; simp only [List.mem_cons] at hq
      rcases hq with rfl | rfl | hq
      · exact hj
      · exact hk
      · exact hm q hq
    · split
      · intro hq; simp only [List.mem_cons] at hq
        rcases hq with rfl | hq
        · exact hj
        · exact hm q hq
      · intro hq; simp only [List.mem_cons] at hq
        rcases hq with rfl | hq
        · exact hk
        · exact ih hm q hq

theorem smSorted_smSet {α : Type} {m : SMap α} (j : Nat) (w : α) (h : smSorted m = true) : smSorted (smSet m j w) = true := by
  induction m with
  | nil => rfl
  | cons p m ih =>
    obtain ⟨k, v⟩ := p
    have hc := smSorted_cons.mp h
    simp only [smSet]
    split
    · rename_i hlt
      refine smSorted_cons.mpr ⟨?_, h⟩
      intro q hq
      rcases List.mem_cons.mp hq with rfl | hq
      · exact hlt
      · have := hc.1 q hq; omega
    · split
      · rename_i hjk
        subst hjk
        exact smSorted_cons.mpr hc
      · exact smSorted_cons.mpr ⟨smFrom_smSet w hc.1 (by omega), ih hc.2⟩

theorem smSorted_filter {α : Type} {m : SMap α} (p : Nat × α → Bool) (h : smSorted m = true) : smSorted (m.filter p) = true := by
  induction m with
  | nil => rfl
  | cons q m ih =>
    obtain ⟨k, v⟩ := q
    have hc := smSorted_cons.mp h
    simp only [List.filter]
    split
    · exact smSorted_cons.mpr ⟨fun q hq => hc.1 q ((List.mem_filter.mp hq).1), ih hc.2⟩
    · exact ih hc.2

theorem memErase_eq (m : SMap Byte) (a : Nat) : memErase m a = m.filter (fun q => q.1 != a) := by
  induction m with
  | nil => rfl
  | cons q m ih =>
    obtain ⟨k, v⟩ := q
    by_cases h : a = k
    · subst h; simp [memErase, ih]
    · simp [memErase, h, ih, Ne.symm h]

theorem mem_smSet {α : Type} {m : SMap α} {j : Nat} {w : α} {q : Nat × α} (h : q ∈ smSet m j w) : q = (j, w) ∨ q ∈ m := by
  induction m with
  | nil => exact Or.inl (by simpa [smSet] using h)
  | cons p m ih =>
    obtain ⟨k, v⟩ := p
    simp only [smSet] at h
    split at h
    · rcases List.mem_cons.mp h with h | h <;> simp [h]
    · split at h
      · rcases List.mem_cons.mp h with h | h <;> simp [h]
      · rcases List.mem_cons.mp h with h | h
        · simp [h]
        · rcases ih h with h | h <;> simp [h]

theorem memWf_iff (m : SMap Byte) : memWf m = true ↔ smSorted m = true ∧ ∀ q ∈ m, q.2 ≠ 0 := by
  simp [memWf, List.all_eq_true]

theorem memWf_filter {m : SMap Byte} (p : Nat × Byte → Bool) (h : memWf m = true) : memWf (m.filter p) = true := by
  rw [memWf_iff] at h ⊢
  exact ⟨smSorted_filter p h.1, fun q hq => h.2 q ((List.mem_filter.mp hq).1)⟩

theorem memWf_memWrite {m : SMap Byte} (a : Nat) (b : Byte) (h : memWf m = true) : memWf (memWrite m a b) = true := by
  unfold memWrite
  split
  · rw [memErase_eq]; exact memWf_filter _ h
  · rename_i hb
    rw [memWf_iff] at h ⊢
    refine ⟨smSorted_smSet a b h.1, fun q hq => ?_⟩
    rcases mem_smSet hq with rfl | hq
    · exact hb
    · exact h.2 q hq

theorem memWf_memWriteN {m : SMap Byte} (a : Nat) (bs : List Byte) (h : memWf m = true) : memWf (memWriteN m a bs) = true := by
  induction bs generalizing m a with
  | nil => exact h
  | cons b bs ih => exact ih _ (memWf_memWrite a b h)

theorem memWf_memClear {m : SMap Byte} (a : Nat) (n : Nat) (h : memWf m = true) : memWf (memClear m a n) = true :=
  memWf_filter _ h

theorem memWf_foldl {m : SMap Byte} (l : List (Nat × Byte)) (f : Nat → Nat) (h : memWf m = true) :
    memWf (l.foldl (fun acc q => memWrite acc (f q.1) q.2) m) = true := by
  induction l generalizing m with
  | nil => exact h
  | cons q l ih => exact ih (memWf_memWrite _ _ h)

theorem memWf_memCopy {m : SMap Byte} (src dst n : Nat) (h : memWf m = true) : memWf (memCopy m src dst n) = true :=
  memWf_foldl _ (fun k => dst + (k - src)) (memWf_memClear dst n h)

/-- In a sorted map the keys below the first listed one are unlisted. -/
theorem smGet_from {α : Type} {m : SMap α} {b j : Nat} (h : smFrom m b) (hj : j < b) : smGet m j = none := by
  induction m with
  | nil => rfl
  | cons p m ih =>
    obtain ⟨k, v⟩ := p
    have hk : b ≤ k := h (k, v) (by simp)
    simp only [smGet]
    rw [if_neg (by omega)]
    exact ih (fun q hq => h q (by simp [hq]))

theorem smGet_smSet {α : Type} (m : SMap α) (k j : Nat) (v : α) : smGet (smSet m k v) j = if j = k then some v else smGet m j := by
  induction m with
  | nil => simp only [smSet, smGet]
  | cons p m ih =>
    obtain ⟨q, w⟩ := p
    simp only [smSet]
    split
    · simp only [smGet]
    · split
      · rename_i _ h; subst h
        simp only [smGet]
        split <;> rfl
      · simp only [smGet, ih]
        split
        · rename_i h1; subst h1
          split
          · rename_i h2; omega
          · rfl
        · rfl

theorem smGet_filter_ne {α : Type} (m : SMap α) (a j : Nat) :
    smGet (m.filter (fun q => q.1 != a)) j = if j = a then none else smGet m j := by
  induction m with
  | nil => simp [smGet]
  | cons p m ih =>
    obtain ⟨k, v⟩ := p
    by_cases hk : k = a
    · subst hk
      by_cases hj : j = k
      · subst hj; simpa using ih
      · simpa [smGet, hj] using ih
    · by_cases hj : j = a
      · subst hj; simp [smGet, hk, Ne.symm hk]; simpa using ih
      · simp [smGet, hk, hj]; simp [hj] at ih; rw [ih]

/-- A read after a write gives the byte written there, and what it gave before elsewhere. -/
theorem memRead_memWrite (m : SMap Byte) (a j : Nat) (b : Byte) : memRead (memWrite m a b) j = if j = a then b else memRead m j := by
  unfold memRead smGetD memWrite
  split
  · rename_i hb
    rw [memErase_eq, smGet_filter_ne]
    split <;> simp [hb]
  · rw [smGet_smSet]
    split <;> rfl

/-- A write of a list leaves every byte outside it alone. -/
theorem memRead_memWriteN_out (m : SMap Byte) (a j : Nat) (bs : List Byte) (h : j < a ∨ a + bs.length ≤ j) :
    memRead (memWriteN m a bs) j = memRead m j := by
  induction bs generalizing m a with
  | nil => rfl
  | cons b bs ih =>
    simp only [memWriteN, List.length_cons] at h ⊢
    rw [ih _ _ (by omega), memRead_memWrite, if_neg (by omega)]

/-- A write of a list gives its n-th byte at the n-th address. -/
theorem memRead_memWriteN_in (m : SMap Byte) (a : Nat) (bs : List Byte) (n : Nat) (h : n < bs.length) :
    memRead (memWriteN m a bs) (a + n) = bs[n] := by
  induction bs generalizing m a n with
  | nil => simp at h
  | cons b bs ih =>
    simp only [memWriteN]
    cases n with
    | zero =>
      have := memRead_memWriteN_out (memWrite m a b) (a + 1) a bs (Or.inl (Nat.lt_succ_self a))
      simpa [memRead_memWrite] using this
    | succ n =>
      have := ih (memWrite m a b) (a + 1) n (by simpa using h)
      simpa [Nat.add_assoc, Nat.add_comm 1 n] using this

/-- Reading a list back gives what was written. -/
theorem memReadN_memWriteN (m : SMap Byte) (a : Nat) (bs : List Byte) : memReadN (memWriteN m a bs) a bs.length = bs := by
  induction bs generalizing m a with
  | nil => rfl
  | cons b bs ih =>
    simp only [memWriteN, List.length_cons, memReadN]
    rw [ih, memRead_memWriteN_out _ _ _ _ (Or.inl (Nat.lt_succ_self a)), memRead_memWrite, if_pos rfl]

end Machine
end Sys2Proof
end

