-- ==== Sys2Proof/Tests/Slice0.lean ====
section
/-!
SUPPORT. Tests: ill-formed commands are refused by wellFormed; single steps on small states; for each statement of the certificate,
states and operands that meet the hypotheses of its clauses together (test_meets_<statement>_<clause>_<case>).
-/
set_option maxRecDepth 4000
set_option Elab.async false
set_option linter.unusedVariables false
namespace Sys2Proof
namespace Tests
open Machine

/-- A module that runs: input in range, no reset held, firmware RUNNING. -/
def up : State :=
  (State.reset.setPw { Power.reset with devReset := false, pwrEn := true, swClosed := true }).fset ATL_BOOT_STATUS_STATE 5

/-- A bristle that runs, with values in its registers, and the place its instruction issues from. -/
def bris (id : Nat) : Bristle :=
  { Bristle.init id with gpr := [(1, 0x8000000000000005), (2, 70), (3, 0xFFFFFFFFFFFFFFFE), (4, 0x1230), (5, 0x010000001000 + id / 384 * 0x10000000 + id % 384 * 0x40000), (6, 0x1000), (7, 64 * id + 3), (8, 2)], pc := 0x100, rsEnt := [(15, 0x40)], epc := 0x200 }
def core (b : Nat) : State := (up.setBr b (bris b)).fset BRS_STATUS_STATE 1 b
def at4 (b : Nat) : Issue := { b := b, len := 4, long := false, raw := 0xFFFFFFFF, holds := 0 }

/-- The same bristle on Kengir-V. -/
def leg0 : State := (core 0).setBr 0 { bris 0 with legacy := true }
/-- A load whose bytes the place that holds them has sent. -/
def ld1 : OutLoad := { dest := some 31, addr := 0x40, size := 4, sign := true, bytes := [1, 2, 3, 0x84], served := true, behind := 0, lost := false }
def ldSt : State := up.setBr 1 { bris 1 with loads := [{ ld1 with addr := 0xFF8, bytes := [], served := false }] }
/-- A wait that holds its bristle. -/
def hw1 : HeldWait := { flag := 67, threshold := 5, dec := true, rd := 31, pc := 0x100, len := 4, raw := 0, reported := false, since := 0, spun := 0 }
/-- A module out of reset with every register at its reset value. -/
def calm : State := State.reset.setPw { Power.reset with devReset := false, pwrEn := true, swClosed := true }

theorem calm_rget {s : State} (h : s.regs = []) (r : Reg) (m i j k : Nat) : s.rget r m i j k = r.resetAt i := by
  simp [State.rget, h, smGet]
theorem calm_pcFailed {s : State} (h : s.regs = []) : ∀ k, s.pcFailed k = false := by
  intro k
  simp only [State.pcFailed, calm_rget h]
  show bit (MEM_PC_FAILED.resetAt 0) _ = false
  simp [bit, MEM_PC_FAILED, Reg.resetAt]
theorem calm_brState {s : State} (h : s.regs = []) (b : Nat) : s.brState b = 0 := by
  simp only [State.brState, State.fget, calm_rget h]; rfl

theorem badBits_of {s : State} (h : s.ecc = []) : ∀ a, s.badBits a = 0 := by
  intro a; simp [State.badBits, h, smGetD, smGet]; rfl
theorem smGet_none {α : Type} {m : SMap α} {j : Nat} (h : ∀ p ∈ m, p.1 ≠ j) : smGet m j = none := by
  induction m with
  | nil => rfl
  | cons p m ih =>
    obtain ⟨k, v⟩ := p
    simp only [smGet]
    rw [if_neg (fun e => h (k, v) (by simp) e.symm), ih (fun p hp => h p (by simp [hp]))]
theorem pcFailed_of {s : State} (h : ∀ p ∈ s.regs, p.1 % 0x80000 ≠ 0x34) : ∀ k, s.pcFailed k = false := by
  intro k
  have z : ∀ m, s.rget MEM_PC_FAILED m = 0 := by
    intro m
    have : smGet s.regs (MEM_PC_FAILED.addr m) = none := by
      apply smGet_none
      intro p hp e
      apply h p hp
      rw [e]
      simp [Reg.addr, MEM_PC_FAILED, Blk.base, palBase, dimOffset]
      omega
    unfold State.rget; rw [this]; rfl
  simp only [State.pcFailed, z]
  simp [bit]

theorem brState_of {s : State} (h : ∀ p ∈ s.regs, p.1 % 0x4000 ≠ 4) (b : Nat) : s.brState b = 0 := by
  have : smGet s.regs (BRS_STATUS.addr b) = none := by
    apply smGet_none
    intro p hp e
    apply h p hp
    rw [e]
    simp [Reg.addr, BRS_STATUS, Blk.base, palBase, dimOffset]
    omega
  simp only [State.brState, State.fget, BRS_STATUS_STATE, State.rget, this]; rfl

/-- A slice with its quotas. -/
def slice1 (s : State) (sl : Nat) : State := s.setSx sl { s.sx sl with quotas := [10, 1024, 16, 16, 16, 16, 16, 16, 16, 16, 16, 16, 16, 16] }
/-- Channel 16 of bank 0 is bound to slice 1. -/
def bound : State := slice1 ((up.fset MBX_CH_BIND_VALID 1 0 0 16).fset MBX_CH_BIND_SLICE 1 0 0 16) 1

/-- Where an address of control space lies. -/
def locOf (a : Nat) : CtlLoc := (ctlLoc a).getD { blk := .atl, inst := 0, off := 0 }

theorem awake_of {s : State} {b : Blk} {i : Nat} (h1 : s.pw.devReset = false) (h2 : s.pw.waiting = []) (h3 : s.pw.gated = []) : s.awake b i :=
  ⟨h1, h2, fun d hd => by
    cases d with
    | stack m =>
      unfold domainOf at hd
      split at hd <;> (repeat' split at hd) <;> simp_all
    | _ => simp [State.isGated, h3]⟩

theorem bits_of (r : Reg) (l : Bool) (old val w : Nat) (h : ∀ n, n < 32 → w.testBit n = bitAfterWrite r l old val n) (hw : w < 2 ^ 32)
    (ho : old < 2 ^ 32) (h1 : r.rw < 2 ^ 32) (h2 : r.rwl < 2 ^ 32) (h3 : r.w1s < 2 ^ 32) : ∀ n, w.testBit n = bitAfterWrite r l old val n := by
  intro n
  by_cases hn : n < 32
  · exact h n hn
  · have z : ∀ x, x < 2 ^ 32 → x.testBit n = false := fun x hx =>
      Nat.testBit_lt_two_pow (Nat.lt_of_lt_of_le hx (Nat.pow_le_pow_right (by decide) (by omega)))
    simp [bitAfterWrite, z _ hw, z _ ho, z _ h1, z _ h2, z _ h3]

/-- The state after a command. -/
def go (c : Instr) (s : State) : State := match exec c s with | .next t => t | _ => s
def okS (e : Except Status (State × List Byte)) : State × List Byte := match e with | .ok r => r | .error _ => (State.reset, [])
def okH (e : Except Status (Nat × State)) : Nat × State := match e with | .ok r => r | .error _ => (0, State.reset)
def okP {α : Type} (d : α) (e : Option (State × Except Status α)) : State × α := match e with | some (s, .ok r) => (s, r) | _ => (State.reset, d)

/-- Port 0's link is up, its function masters the bus, and slice 1 has a window over the whole of host memory. -/
def hst (s : State) : State :=
  { s with hl := { s.hl with ports := [(0, { PortX.init with up := true, cfg := [(4, 4)] })],
                             win := [(64, 2 ^ 127 + 2 ^ 126 + 2 ^ 125 + 0xFFFFFFFF * 2 ^ 64)], pasid := [(0, 2 ^ 63 + 2 ^ 56 + 0xF * 2 ^ 32 + 5)] } }
/-- Slice 1 runs, owns region 0 and cluster 0, and reaches its host through port 0. -/
def base : State :=
  { hst ((bound.fset SLC_STATUS_STATE 1 0 1).fset SLC_STATUS_STATE 1 1 1) with own := [(0, 1)], clOwner := [(0, [1])] }
/-- A table descriptor: 100 rows of 16 F32 numbers, woven. -/
def tblDesc : List Byte := leBytes 8 100 ++ leBytes 2 16 ++ [5, 0, 0, 2] ++ List.replicate 50 0
def tblPlaces : List SegPlace := [{ loc := 24 * bandRegions, count := 1, homes := List.range 16 }]
/-- Channel ch holds command cmd with argument words ws. -/
def msg (s : State) (ch cmd : Nat) (ws : List (Nat × Nat)) : State :=
  ws.foldl (fun s w => s.rset MBX_IN w.2 0 (ch / 32) (ch % 32) w.1)
    ((s.fset MBX_CH_STATUS_IN_FULL 1 0 (ch / 32) (ch % 32)).rset MBX_IN cmd 0 (ch / 32) (ch % 32) 0)
/-- A TABLE_CREATE message whose descriptor lies at 0x1000. -/
def tblBase : State := msg { base with mem := memWriteN [] 0x1000 tblDesc } 16 0x30 [(1, 0x1000)]
/-- The handle of slice 1's first object. -/
def hnd : Nat := 2 ^ 26 + 1
def tbl1 : Table := { slice := 1, rows := 100, d := 16, fmt := 5, mode := 0, st := 0, band := 2, slot := 0, oldSlot := 0, slotFlip := 0, prog := 0, uprog := 0, dying := none }
def withTbl (s : State) : State := { s with tbl := [(hnd, tbl1)] }
def wq3 : Wq := { slice := 1, num := 3, port := 0, ring := 0x10000, size := 64, pasid := 0, hwb := 0x9000, vec := 4, head := 0, tail := 0, err := false, dbErr := 0, fetching := 0, tries := 0, ret := none, ready := [], fenced := false }

def lookDesc : List Byte := [0x10, 0, 0, 5] ++ leBytes 4 hnd ++ leBytes 4 2 ++ leBytes 4 1 ++ leBytes 8 0x20000 ++ leBytes 8 0 ++ leBytes 8 0 ++
  leBytes 8 0x40000 ++ leBytes 8 0x50000 ++ leBytes 2 2 ++ [0, 0] ++ leBytes 4 77
def updDesc : List Byte := [0x11, 0, 0, 5] ++ leBytes 4 hnd ++ leBytes 4 1 ++ leBytes 4 0 ++ leBytes 8 0x20000 ++ leBytes 8 0x30000 ++ leBytes 8 0 ++
  leBytes 8 0 ++ leBytes 8 0x50000 ++ leBytes 4 0 ++ leBytes 4 77
def idx2 : List Byte := leBytes 4 5 ++ leBytes 4 6
def grad1 : List Byte := List.replicate 64 0
/-- The slice's queue 3 holds one descriptor that has arrived. -/
def ready (s : State) (d : List Byte) : State := s.setWq { wq3 with ready := [d] }
def front (w : Wq) (x : List Byte) : Wq := { w with ready := [x] }
/-- A lookup item in work over rows 5 and 6, or 200 and 300, with one record posted to bristle 5. -/
def lookWork (is : List Nat) : Work := { Work.base 0x10 1 0 wq3 lookDesc 0 with idx := is, bags := [2], recs := [{ pal := 0, lead := 5, entry := 0, unit := 0, poss := [0, 1], slot := 0x3000, stamp := 0, ord := 0 }] }

def rec8 : WRec := { pal := 0, lead := 5, entry := 0, unit := 0, poss := [0, 1], slot := 0x3000, stamp := 0, ord := 0 }
def tblMade : State := go (.tableCreate 16 0x1000 tblPlaces) tblBase
def wq3t : Wq := { wq3 with ring := 0x1000000000, tail := 1 }
def wq3r : Wq := { wq3 with tail := 1, fetching := 1, ret := some (.ok, lookDesc) }
/-- The queue's ring lies in the device's own aperture of port 0, over stack region 0. -/
def apt3 : State :=
  let s := base.setWq wq3t
  { s with hl := { s.hl with ports := [(0, { PortX.init with up := true, cfg := [(4, 6), (0x18, 0), (0x1C, 0x10), (0x10, 0xF0000000), (4096 + 4, 0)] })], apt := [(0, 2 ^ 63 + 2 ^ 56)] } }
def apPs : List (Nat × Nat) := [(0, 64)]
def apS : State := (apt3.getPieces apPs).1
def apBs : List Byte := (apt3.getPieces apPs).2.getD []

def exIs {ε α : Type} [DecidableEq α] (e : Except ε α) (a : α) : Bool := match e with | .ok r => decide (r = a) | .error _ => false
theorem exIs_ok {ε α : Type} [DecidableEq α] {e : Except ε α} {a : α} (h : exIs e a = true) : e = .ok a := by
  cases e with
  | ok r => simp only [exIs, decide_eq_true_eq] at h; rw [h]
  | error _ => simp [exIs] at h
def exErr {ε α : Type} [DecidableEq ε] (e : Except ε α) (a : ε) : Bool := match e with | .ok _ => false | .error r => decide (r = a)
theorem exErr_of {ε α : Type} [DecidableEq ε] {e : Except ε α} {a : ε} (h : exErr e a = true) : e = .error a := by
  cases e with
  | ok r => simp [exErr] at h
  | error r => simp only [exErr, decide_eq_true_eq] at h; rw [h]
def rlIs {α β ε : Type} [DecidableEq α] [DecidableEq β] (e : Option (α × Except ε β)) (t : α) (r : β) : Bool :=
  match e with | some (u, .ok q) => decide (u = t ∧ q = r) | _ => false
theorem rlIs_ok {α β ε : Type} [DecidableEq α] [DecidableEq β] {e : Option (α × Except ε β)} {t : α} {r : β} (h : rlIs e t r = true) : e = some (t, .ok r) := by
  unfold rlIs at h
  split at h
  · simp only [decide_eq_true_eq] at h; rw [h.1, h.2]
  · simp at h

def kvDesc : List Byte := leBytes 2 2 ++ [1, 1] ++ leBytes 2 64 ++ [1, 1] ++ leBytes 4 0x3F800000 ++ leBytes 4 4 ++ leBytes 4 64 ++ leBytes 4 0 ++ leBytes 8 0
def kvBase : State := msg { base with mem := memWriteN [] 0x1000 kvDesc } 16 0x32 [(1, 0x1000)]
def kv1 : Cache := { slice := 1, layers := 2, kvh := 1, group := 1, hd := 64, fmt := 1, run := 1, scale := 0x3F800000, maxSeq := 4, maxPos := 64, prog := 0, dying := none }
def kvMade : State := { base.fset MEM_LAYOUT_LOCAL_BANDS 24 with kvc := [(hnd, kv1)], serial := [(1, 1)] }
def kvUnits : List Nat := (List.range (2 * kv1.arrayRegions)).map (24 * bandRegions + ·)
/-- The handle of slice 1's second object. -/
def hnd2 : Nat := hnd + 1
def seq1 : Seq := { units := kvUnits, cache := hnd, lens := [], truncTo := none, dying := none }
def seqMade : State := { kvMade with seqs := [(hnd2, seq1)], serial := [(1, 2)], own := kvUnits.map (fun r => (r, 1)) }
def stepDesc : List Byte := [0x20, 0, 3, 5] ++ leBytes 4 hnd ++ leBytes 2 0 ++ leBytes 2 1 ++ [0, 0, 0, 0] ++ leBytes 8 0x20000 ++ leBytes 8 0x30000 ++ leBytes 8 0 ++
  leBytes 8 0x40000 ++ leBytes 8 0x50000 ++ leBytes 4 0 ++ leBytes 4 77
def kvAppDesc : List Byte := [0x21, 0, 3, 0] ++ leBytes 4 hnd ++ leBytes 4 hnd2 ++ leBytes 4 0 ++ leBytes 4 1 ++ leBytes 2 0 ++ leBytes 2 1 ++ leBytes 8 0x20000 ++
  leBytes 8 0 ++ leBytes 8 0 ++ leBytes 8 0x50000 ++ leBytes 4 0 ++ leBytes 4 77
def stepEnts : List Byte := leBytes 4 hnd2 ++ leBytes 4 0
def stepQ : List Byte := List.replicate (kv1.headBytes 3) 0
def kvSrc : List Byte := List.replicate (kv1.newBytes 3) 0
def attWork (kind : Nat) (d : List Byte) (pos stage : Nat) : Work :=
  { Work.base kind 1 0 wq3 d 0 with ents := [newEntry hnd2 0 pos 1], stage := stage, newData := kvSrc, data := stepQ }
def attSt (kind : Nat) (d : List Byte) (pos stage : Nat) : State := seqMade.setWork 4 (attWork kind d pos stage)
def kvRuns : List UnitPlace := [{ tier := 0, loc := 100, home := 0 }]
def attRun : Work := { attWork 0x20 stepDesc 0 1 with ents := [{ newEntry hnd2 0 0 1 with phase := 1 }] }
def apSt (r : AppendRes) : State := match r with | .done s _ => s | _ => State.reset
def apdS : State := apSt ((attSt 0x21 kvAppDesc 0 1).append kv1 hnd (newEntry hnd2 0 0 1) 0 (fun i => (kv1.convList 3 (kvSrc.drop ((0 * 1 + i) * kv1.newBytes 3)) (2 * kv1.kvh * kv1.hd)).1) kvRuns false)
def doneWork (g : Nat) : Work := { attWork 0x20 stepDesc 0 1 with ents := [{ newEntry hnd2 0 0 1 with phase := 2 }], gen := g, cplPasid := some 5, outPasid := some 5 }
def attDone (g : Nat) : State := seqMade.setWork 4 (doneWork g)

theorem seqs_calm {s : State} {h : Nat} (e : (match smGet s.seqs h with | some q => q.truncTo.isNone | none => true) = true) : ∀ q, smGet s.seqs h = some q → q.truncTo = none := by
  intro q hq
  rw [hq] at e
  simpa using e

def isDone (r : AppendRes) (l : Bool) : Bool := match r with | .done _ k => k == l | _ => false
theorem apDone_of {r : AppendRes} {t : State} {l : Bool} (e : t = apSt r) (h : isDone r l = true) : r = .done t l := by
  cases r with
  | done u k => simp only [isDone, beq_iff_eq] at h; rw [e, h]; rfl
  | quota => simp [isDone] at h
  | held => simp [isDone] at h

theorem okH_eq {e : Except Status (Nat × State)} (h : (match e with | .ok _ => true | .error _ => false) = true) : e = .ok ((okH e).1, (okH e).2) := by
  cases e with
  | ok r => rfl
  | error _ => simp at h

/-- Firmware scans palette 0, and slice 1 may spill to a target. -/
def spillSt (s : State) : State :=
  let s := ((s.fset CMP_SCAN_CTL_EN 1 0).fset CMP_SLICE_POL_SPILL 1 0 1).fset CMP_MIG_CTL_MAX_ACTIVE 4 0
  { s with cmp := { s.cmp with targets := [(1, [7])] } }
def placeT2 : UnitPlace := { tier := 1, loc := 5, home := 0 }
def place0 : UnitPlace := { tier := 0, loc := 24 * bandRegions, home := 0 }
def copy1 (phase : Nat) (dirty : List Nat) : Copy := { handle := hnd, unit := 0, src := place0, dst := placeT2, phase := phase, passes := 0, dirty := dirty, swatch := none }
def withCopy (c : Copy) : State := { tblMade with cmp := { tblMade.cmp with copies := [c] } }
/-- A slice whose only table is one extent, which may be demoted. -/
def spillSt0 : State := (spillSt tblMade).fset CMP_SCAN_CTL_EN 0 0
def spillQ : State := { spillSt0 with cmp := { spillSt0.cmp with heatCtl := smSet spillSt0.cmp.heatCtl 0 (spillSt0.rget CMP_HEAT_CTL 0) } }
def swCopy : Copy := { copy1 2 [] with swatch := some (3, 0) }
def updWork : Work := { Work.base 0x11 1 0 wq3 updDesc 0 with idx := [5], recs := [rec8] }
def drain1 : Drain := { handle := hnd, epoch := 0, segs := [], excs := [], runs := [], freed := [9] }
def drainSt : State := { tblMade with cmp := { tblMade.cmp with drains := [drain1] }, own := [(0, 1), (9, 1)] }
def oldLook : Work := { lookWork [5, 6] with stage := 1, stamp := 7 }
def tierWork : Work := { lookWork [5, 6] with tier := [] }
/-- The table's extent 0 lies in tier T2. -/
def tierSt : State :=
  let s := tblMade.setWork 4 tierWork
  { s with cmp := { s.cmp with exc := [(excKey hnd 0, mapEntry32 (slotVal { tier := 1, home := 0, loc := 5, swidx := 0 }) 0 0 hnd)] } }
def turn1 (sw : Bool) : Turn := { slices := [1, 2], cur := 1, switching := sw, since := 0, ctl := 0, areas := [(1, 1000), (2, 1100)] }
def turnSt (sw : Bool) : State :=
  let s := up.fset CMP_TSLICE_CTL_OVERSUB 1 0
  { s with cmp := { s.cmp with turns := [(0, turn1 sw)] }, clOwner := [(0, [1, 2])], pw := { s.pw with onTicks := 1000000 } }

def dDesc (op w len src dst nxt arg : Nat) : List Byte :=
  [BitVec.ofNat 8 op, 0, BitVec.ofNat 8 w, 0] ++ leBytes 4 len ++ leBytes 8 src ++ leBytes 8 dst ++ leBytes 8 nxt ++ leBytes 8 arg ++ List.replicate 24 0
/-- Channel k of engine e in a state, in a phase of its descriptor, which it read at 0x1000. -/
def dCh (phase : Nat) (d : List Byte) : DmaChan := { DmaChan.init with phase := phase, desc := d, cur := 0x1000, nxt := 0x1000 }
def dSt (e k st : Nat) (c : DmaChan) : State := (base.setChan e k c).setDstate e k st
def dCopyDesc : List Byte := dDesc 0 0x33 16 0x2000 0x3000 0x1040 0
def dFillDesc : List Byte := dDesc 1 0x30 8 0 0x3000 0x1040 0x55
def dMem (s : State) (d : List Byte) : State := { s with mem := memWriteN (memWriteN [] 0x1000 d) 0x2000 (leBytes 8 0x1122334455667788) }
def dCopy (wr : Nat) : DmaChan := { dCh 2 dCopyDesc with issued := 8, rd := 0, wr := wr }
def dWide : DmaChan := { dCh 2 (dDesc 0 0x43 16 0x2000 0x3000 0x1040 0) with issued := 8 }
def dHostChan (die k st sl : Nat) : State :=
  let s := (base.fset DMA_CHAN_OWNER_VALID 1 (240 + die) k).fset DMA_CHAN_OWNER_SLICE sl (240 + die) k
  s.setDstate (240 + die) k st

/-- Port p in a state: up, with these configuration words of function 0. -/
def pSt (s : State) (p : Nat) (x : PortX) : State := { s with hl := { s.hl with ports := [(p, x)] } }
def pUp (cfg : SMap Nat) : PortX := { PortX.init with up := true, cfg := cfg }
def heldPost : HeldPost := { fn := 0, pasid := 5, addr := 0x5000, ro := true, bytes := [1, 2, 3, 4] }
/-- Page 0 of port 7's aperture maps stack region 0 of slice 1. -/
def aptSt : State := { pSt base 7 (pUp [(4, 6)]) with hl := { (pSt base 7 (pUp [(4, 6)])).hl with apt := [(7 * 32768, 2 ^ 63 + 2 ^ 56)] } }
def wqSl (num p : Nat) : Wq := { wq3 with num := num, port := p }
def wqSt (sl num p : Nat) : State := ((base.fset SLC_CTL_ACCEPT 1 0 sl).fset SLC_CTL_ACCEPT 1 1 sl).setWq { wqSl num p with slice := sl }
/-- The same with port 7 up. -/
def wqUp (sl num p : Nat) : State := pSt (wqSt sl num p) 7 (pUp [(4, 6)])
def npr1 : Npr := { port := 7, idx := 3, tagGen := 0, fn := 0, slice := 1, sgen := 0, quar := false, what := .wq 131, since := 0, tmo := 0 }
def nprSt (r : Npr) : State := { base.setWq { wq3 with fetching := 1 } with hl := { (base.setWq { wq3 with fetching := 1 }).hl with npr := [r] } }

/-- Slice sl in a state v, on both host dies. -/
def slSt (s : State) (sl v : Nat) : State := (s.fset SLC_STATUS_STATE v 0 sl).fset SLC_STATUS_STATE v 1 sl
def slPut (s : State) (f : Fld) (sl v : Nat) : State := (s.fset f v 0 sl).fset f v 1 sl
def sxSt (s : State) (sl : Nat) (x : SliceX) : State := s.setSx sl x
def tickSt (n : Nat) (s : State) : State := { s with pw := { s.pw with onTicks := n } }
def late (s : State) : State := { s with pw := { s.pw with onTicks := 100000000 } }
def quota1 : List Nat := [1, 4096, 16, 16, 16, 16, 16, 16, 16, 16, 16, 16, 16, 16]
def giveSt : State := late (sxSt base 1 { base.sx 1 with cmd := 1, giving := [0], cmdCh := 320 })
/-- Slice 1 logs 8 pages from page 5 on, in the one window it has. -/
def logBase : State := { base with hl := { base.hl with win := [(64, 2 ^ 127 + 2 ^ 126 + 2 ^ 125 + 2 ^ 124 + 7 * 2 ^ 64 + 5 * 4096)] } }
def dirtySt : State := sxSt (slPut logBase SLC_DIRTY_EN 1 1) 1 { base.sx 1 with dirtyRegs := [9] }
/-- A posted write of the slice waits on port 0. -/
def waitHs : State := { dirtySt with hl := { dirtySt.hl with ports := [(0, { (dirtySt.port 0) with held := [{ fn := 0, pasid := 5, addr := 0x5000, ro := true, bytes := [1, 2, 3, 4] }] })] } }
def hvT : State := ((((msg dirtySt 0 0x1B [(1, 1), (2, 1), (3, 0x5000), (4, 0)]).takeUp 0).slcPut SLC_DIRTY_ACTIVE_MAP 1 1).slcPut SLC_DIRTY_HARVEST 1 1).modSx 1
  (fun x => { x with cmd := 0, cmdCh := 0, harvest := none })
def hvT1 : State := (hvT.mapBytes 1 0).1
def hvB : List Byte := (hvT.mapBytes 1 0).2.getD []

theorem some_of {α : Type} {o : Option α} {d : α} (h : o.isSome = true) : o = some (o.getD d) := by
  cases o with
  | some a => rfl
  | none => simp at h
def aq : NvmQueue := { base := 0x10000, size := 32, dev := 0, host := 1, phase := true, vec := 0, ien := true, cq := 0, deleting := none }
def cq0 : NvmQueue := { aq with base := 0x20000, host := 0 }
/-- A controller that is ready, with one admin command to fetch. -/
def nvm0 : Nvm := { Nvm.init with cc := 0x460001, rdy := true, sqs := [(0, aq)], cqs := [(0, cq0)] }
/-- The same controller once it has fetched the command. -/
def fx (n : Nvm) : Nvm := { n with sqs := smSet n.sqs 0 { aq with dev := 1 }, turn := 0 }
/-- A module whose controller 7 is slice 1's. -/
def nvBase (s : State) : State :=
  let s := (s.fset NVC_OWNER_VALID 1 0 7).fset NVC_OWNER_SLICE 1 0 7
  { s with hl := { s.hl with ports := [(7, { PortX.init with up := true, cfg := [(4, 4), (4096 + 4, 4)] })],
                             pasid := [(0, 2 ^ 63 + 2 ^ 56 + 0xF * 2 ^ 32 + 5), (1024, 2 ^ 63 + 2 ^ 56 + 0xF * 2 ^ 32 + 5)] } }
def nvSt (n : Nvm) : State := { nvBase base with nvm := { Storage.reset with ctrl := [(7, n)] } }
def sqE (op nsid p1 p2 : Nat) (ws : List Nat) : List Byte :=
  [BitVec.ofNat 8 op, 0] ++ leBytes 2 9 ++ leBytes 4 nsid ++ List.replicate 16 0 ++ leBytes 8 p1 ++ leBytes 8 p2 ++
    ((List.range 6).map (fun i => ws.getD i 0)).flatMap (leBytes 4)
def ns1 : Namespace := { slice := 1, kind := 1, lbaf := 0, nguid := 77, bytes := 0x10000, blocks := 128, regions := [50], conn := 0, rkey := 0, roff := 0, serial := 0, ctrls := [7], ending := none }
def withNs (s : State) : State := { s with nvm := { s.nvm with ns := [(63, ns1)] } }
def ioq (n : Nvm) : Nvm := { n with sqs := smSet n.sqs 5 { aq with cq := 5, host := 0 }, cqs := smSet n.cqs 5 cq0 }
def nvXfer : Xfer := { conn := 0, rkey := 0, write := false, todo := [], off := 0, tags := [], flush := none, flushed := false, data := [] }
def nvCmd : NvmCmd := { sq := 5, cid := 3, op := 2, ns := 63, prps := [], xfer := nvXfer, backed := false, since := 0 }
def cqE : List Byte := sqE 5 0 0x30000 0 [0x1F0400, 0x4000003]
def sqNew : List Byte := sqE 1 0 0x30000 0 [0x1F0400, 0x50001]

def ioN : Nvm := { nvm0 with sqs := [(0, { aq with host := 0 }), (5, { aq with cq := 5 })], cqs := [(0, cq0), (5, cq0)] }
def ioF : Nvm := { ioN with sqs := [(0, { aq with host := 0 }), (5, { aq with cq := 5, dev := 1 })], turn := 5 }
def ns2 : Namespace := { ns1 with kind := 2, regions := [] }
def withN2 (s : State) : State := { s with nvm := { s.nvm with ns := [(63, ns2)] } }
def blk : List Byte := List.replicate 512 0xAB
def ioSt (o : Bool) : State := withNs (nvSt (if o then ioN else ioF))
def ioS2 (o : Bool) : State := withN2 (nvSt (if o then ioN else ioF))
def wrE (op : Nat) : List Byte := sqE op 64 0x30000 0 [127, 0, 0]
def dsmE (att : Nat) : List Byte := sqE 9 64 0x30000 0 [0, att]
def dsmR : List Byte := leBytes 4 0 ++ leBytes 4 8 ++ leBytes 8 120
def op1 : RecOp := { kind := 1, lbaf := 1, nss := [{ num := 63, nguid := 77, kind := 1, bytes := 0x20000000, serial := 0, roff := 0 }], pos := 3, total := 512, cmd := some (0, 9), chunk := none, verdict := 0, bad := none, saved := none, started := false, ended := false }
def opSt (o : RecOp) : State := let s := (nvBase base).fset NVC_OP_STATUS_STATE 1 0 7; { s with nvm := { Storage.reset with ctrl := [(7, nvm0)], ns := [(63, ns1)], ops := [(7, o)] } }

/-- Channel 0 holds a network command of its parameter block. -/
def nb (cmd : Nat) : State := msg base 0 cmd []
/-- Port 7 of network die 1 has its link up. -/
def netUp : State := base.fset PKT_PORT_STATUS_UP 1 1 7
def fr (n : Nat) : List Byte := List.replicate n 0x55
def pauseFr : List Byte := beBytes 6 0x0180C2000001 ++ beBytes 6 5 ++ beBytes 2 0x8808 ++ beBytes 2 0x0101 ++ beBytes 2 0x81 ++ beBytes 2 9 ++ List.replicate 44 0
def arpFr : List Byte := beBytes 6 0xFFFFFFFFFFFF ++ beBytes 6 5 ++ beBytes 2 0x0806 ++ beBytes 6 0x000108000604 ++ beBytes 2 1 ++ beBytes 6 5 ++ beBytes 4 7 ++ beBytes 6 0 ++ beBytes 4 0x0A000001
def arpRx : RxFrame := { port := 15, cls := 0, size := 64, bytes := arpFr, stamp := 0 }
def arpSt : State := { netUp with net := { netUp.net with mgmt := [arpRx], ip := [(15, 0x0A000001)] } }
def ptpRx : RxFrame := { arpRx with bytes := beBytes 6 0x011B19000000 ++ beBytes 6 5 ++ beBytes 2 0x88F7 ++ List.replicate 46 0 }
/-- A frame of IEEE 1588 waits, and its port disciplines a valid device time. -/
def ptpSt : State :=
  let s := (netUp.fset PMU_TIME_STATUS_VALID 1).fset PMU_TIME_STATUS_SRC 2
  { s with net := { s.net with mgmt := [ptpRx] }, pmu := { s.pmu with srcPort := 15 } }
def txF : TxFrame := { src := 65536, slice := 1, port := 15, bytes := fr 60, mark := false }
def srcSt (s : State) : State := { s with net := { s.net with source := [txF] } }
def limSt (s : State) (g : Nat) : State := { s with net := { s.net with eff := [(SCH_Q_LIM.addr 1 7 0, BitVec.ofNat 32 g)] } }
def txE : TxQueued := { frame := txF, cls := 0 }
def txqSt : State := { netUp with net := { netUp.net with txq := [(qKey 1 7 63, [txE])] } }
def onW : OnWire := { q := 63, frame := txF, counted := 64, sent := 0, lost := false }
def wireSt (s : State) : State := { s with net := { s.net with wire := [(15, onW)] } }
/-- Bank 1 of port 7 holds a list of one entry; device time is valid. -/
def gclSt : State :=
  let s := (netUp.fset PMU_TIME_STATUS_VALID 1).fset SCH_GCL_CYCLE_CYCLE_NS 2000 1 7 1
  let s := (s.fset SCH_GCL_BASE_SH_LEN 1 1 7 1).rset SCH_GCL_INTVL 1000 1 7 1 0
  s.fset SCH_GCL_MASK_MASK 0x8F 1 7 1 0
def gclOn (g : GateList) : State :=
  let s := ({ gclSt with pmu := { gclSt.pmu with ns := 0 } }.fset SCH_PORT_CTL_GATE_EN 1 1 7).fset SCH_PORT_STATUS_RUNNING 1 1 7
  (s.fset SCH_PORT_STATUS_OPER_BANK 1 1 7).setGate 1 7 g

/-- A send queue, a completion queue and a region of slice 1, and a connection of it on network die 0, established. -/
def tq : TmtSq := { slice := 1, num := 3, die := 0, setup := false, port := some 0, ring := 0x10000, size := 64, cq := 4, head := 0, tail := 0, err := false, dbErr := 0 }
def tqc : TmtCq := { slice := 1, num := 4, port := none, ring := 0x8000, size := 64, vec := 0, written := 0, head := 0, arm := false, err := false, dbErr := 0 }
def cn : Conn :=
  { slice := 1, die := 0, port := 0, state := 3, incarn := 1, flags := 0, payload := 4096, dscp := 0, tci := 0, ctxAddr := 0, ctxPort := 0,
    tcq := 4, key := 0, txSalt := 0, rxSalt := 0, flagWord := 0, peerConn := 9, peerIncarn := 1, peerIp := 7, nextHop := 5, ccCtl := 0,
    ackCtl := 0x040A, rtoCtl := 0, retryCtl := 7, backing := 0, cached := true, used := 0, copy := [], iv := 0, nextPsn := 5, msn := 2,
    cwnd := 1024, ssthresh := 4096, cut := 0, srtt := none, rttvar := 0, rto := 1000, timer := none, expiries := 0, reqs := [], ghosts := [],
    pkts := [], epsn := 7, rmap := 0, high := 6, ce := 0, since := 0, ackTick := 0, refused := [], rnr := [], priors := [], imms := [], flushes := [],
    held := [], adds := [], wrote := [], probing := none, closing := none, stateTick := 0 }
def mr1 : Region := { valid := true, slice := 1, perm := 15, rconn := 0xFFFFFFFF, lhost := false, port := 0, addr := 0x30000, len := 0x1000, epoch := 2, retired := false }
def tmt0 (x : Conn) (k : List TPkt) : Tmt :=
  { base.tmt with sqs := [(259, tq)], cqs := [(260, tqc)], conns := [(40, x)], mrs := [(6, mr1)], rx := k }
def tSt (x : Conn) (k : List TPkt) : State := { (slPut base SLC_CTL_ACCEPT 1 1).fset TMT_CTL_EN 1 0 with tmt := tmt0 x k, own := [(0, 1), (3, 1), (4, 1)] }
def rq (op : Nat) : Req := { Req.base (.sq 259) op 0 0x40000 64 0x2000006 16 0 3 99 0 0 4096 with msn := 1 }
def tp (op psn : Nat) (ext pay : List Byte) : TPkt := { die := 0, cls := 0, size := 100, ce := false, conn := 40, op := op, flags := 3, psn := psn, msn := 1, ext := ext, payload := pay }
/-- The extension of a WRITE of 64 bytes at offset 16 of the region. -/
def wext : List Byte := reth 0x2000006 16 64
def pay64 : List Byte := List.replicate 64 0xCD
def sp (psn phase : Nat) : SentPkt := { psn := psn, msn := 1, off := 0, len := 8, phase := phase, times := 1, sentAt := 0, rnr := 0 }
/-- A work request at the head of the send queue, whose ring lies in stack memory. -/
def tWr (op : Nat) : List Byte :=
  [BitVec.ofNat 8 op, 0, 0, 0] ++ leBytes 4 40 ++ leBytes 8 (if op < 3 then 0x40000 else 0) ++ leBytes 4 (if op = 3 then 0 else if op = 4 then 8 else 64) ++
    leBytes 4 0x2000006 ++ leBytes 8 16 ++ leBytes 4 0 ++ [0, 0, 0, 0] ++ leBytes 8 0 ++ leBytes 8 99 ++ List.replicate 8 0
def tqS : TmtSq := { tq with port := none, tail := 1 }
def wrSt (d : List Byte) : State :=
  let s := tSt cn []
  { s with mem := memWriteN [] 0x10000 d, tmt := { s.tmt with sqs := [(259, tqS)] } }
theorem held_nil {s : State} {c : Nat} (e : (match s.conn c with | some x => x.held.isEmpty | none => true) = true) : ∀ y, s.conn c = some y → y.held = [] := by
  intro y hy
  rw [hy] at e
  simpa using e

/-- A setup request of slice 1's queue 3 waits on die 0. -/
def suR (bs : List Byte) : SetupReq := { die := 0, sq := 259, bytes := bs }
def suSt (x : List (Nat × Conn)) (bs : List Byte) : State :=
  let s := tSt cn []
  { s with tmt := { s.tmt with conns := x, setup := [suR bs] } }
/-- The state with the request taken. -/
def suT (s : State) (op : Nat) : State := ((s.takeSetupReq 0 op).map (·.2)).getD up
def openD (fl : Nat) : List Byte := [0x10, BitVec.ofNat 8 fl, 0, 0] ++ List.replicate 12 0 ++ leBytes 2 4 ++ leBytes 2 7 ++ leBytes 4 55 ++ leBytes 4 66 ++ List.replicate 20 0 ++ leBytes 8 99 ++ List.replicate 8 0
def connD (op fl : Nat) : List Byte := [BitVec.ofNat 8 op, BitVec.ofNat 8 fl, 0, 0] ++ leBytes 4 40 ++ leBytes 2 3 ++ leBytes 2 9 ++ List.replicate 36 1 ++ leBytes 8 99 ++ List.replicate 8 0
def mrD (perm len : Nat) : List Byte := [0x13, 0, BitVec.ofNat 8 perm, 0] ++ leBytes 4 0xFFFFFFFF ++ leBytes 8 0x30000 ++ leBytes 8 len ++ List.replicate 24 0 ++ leBytes 8 99 ++ List.replicate 8 0
def rvD (key : Nat) : List Byte := [0x14, 1, 0, 0] ++ leBytes 4 key ++ List.replicate 40 0 ++ leBytes 8 99 ++ List.replicate 8 0
def keyed (s : State) : State :=
  { s with cph := { s.cph with slots := [(7, { state := 2, slice := 1, klen := 0, usage := 15, key := leBytes 16 1, salts := [], drainCh := 320, toFree := false })] } }
def cnO : Conn := { cn with state := 1 }
def rev1 : Revoke := { index := 6, epoch := 1, free := true, sq := some 259, reqId := 99, asked := false, issued := false }
def rvSt (v : Revoke) (m : Region) (x : Conn) : State :=
  let s := tSt x []
  { s with tmt := { s.tmt with revokes := [v], mrs := [(6, m)] } }
/-- Slice 1's channel 16 of bank 0 may be served. -/
def offSt (x : Conn) (b : Bool) : State :=
  let s := tSt { x with cached := false, backing := 64 * 9 } []
  if b then { s with tmt := { s.tmt with fetch := [40] } } else { s with tmt := { s.tmt with fetch := [40], conns := [(40, { x with cached := false, backing := 64 * 9, copy := leBytes 1024 0 })] } }

/-- A cipher request for key slot 7 in slice 1's own memory: mode and direction, FLAGS, TAGLEN, LEN. -/
def cphD (m fl t n : Nat) : List Byte :=
  [0x30, BitVec.ofNat 8 m, BitVec.ofNat 8 fl, BitVec.ofNat 8 t] ++ leBytes 2 7 ++ leBytes 2 0 ++ leBytes 4 n ++ leBytes 4 0 ++ leBytes 8 0x30000 ++
    leBytes 8 (if m = 5 then 0 else 0x40000) ++ leBytes 8 0 ++ leBytes 8 0x30100 ++ leBytes 8 0x50000 ++ leBytes 4 0 ++ leBytes 4 77
def ks (st : Nat) : KeySlot := { state := st, slice := 1, klen := 0, usage := 15, key := leBytes 16 1, salts := [], drainCh := 320, toFree := false }
def kSt (k : KeySlot) : State := let s := keyed (tSt cn []); { s with cph := { s.cph with slots := [(7, k)] } }
def cphS (d : List Byte) : State := ready ((kSt (ks 2)).fset CPH_CTL_ENG_EN 15) d
def kBlk (k u : Nat) : List Byte := leBytes 16 7 ++ leBytes 16 0 ++ [BitVec.ofNat 8 k, BitVec.ofNat 8 u] ++ leBytes 30 0
def kld (bs : List Byte) : State := msg { kSt (ks 1) with mem := memWriteN [] 0x30000 bs } 16 0x4D [(1, 7), (2, 0x30000), (3, 0)]
def kRd (bs : List Byte) : State × List Byte := okS ((((kld bs).takeUp 16).wakeDomain .portfolio).readBlock 1 0x30000 64)
/-- A sealed connection whose key is in slot 7. -/
def kSt2 (x : Conn) : State := { kSt (ks 2) with tmt := tmt0 x [] }
def kUse (x : Nat) : State := { kSt (ks x) with tmt := tmt0 { cn with flags := 4, key := 7 } [] }
def cr1 (d : List Byte) (par : List Byte) : CipherReq :=
  { engine := 1, slice := 1, gen := 0, port := 0, queue := 3, k := 9, desc := d, dstPasid := none, cplPasid := some 5,
    src := (.ok, leBytes 16 3), aad := (.ok, []), param := (.ok, par), fault := none }
def crSt (r : CipherReq) (st : Nat) : State := let s := kSt (ks st); { s with cph := { s.cph with reqs := [r] } }
def cphR (m : Nat) : State := ((cphS (cphD m 14 0 16)).popSlot (front wq3 (cphD m 14 0 16))).1
def par0 : List Byte := List.replicate 32 0
theorem notBad {w : HostWay} (h : (match w with | .bad _ => false | _ => true) = true) : ∀ st, w ≠ .bad st := by
  intro st e
  rw [e] at h
  simp at h

/-- The device is in a job with buddy 2 over connection 40; its manifest key is loaded; slice 1's table is protected. -/
def dcn : Conn := { cn with slice := 64 }
def vrn0 (x : Option VStep) : Varnish := { Varnish.reset with buddy := some 2, buddyUp := true, conns := [40], rkey := 0x1000001, gib := 1, prot := [hnd], step := x }
def vSt (x : Option VStep) : State :=
  { tblMade with vrn := vrn0 x, shards := [(runKey hnd 0, true)], tmt := tmt0 dcn [],
                 cph := { tblMade.cph with slots := [(1024, { ks 2 with slice := 64 })] } }
def hot (s : State) : State := s.fset GSO_PWR_STATUS_OC_THROTTLE 1
def vs (phase : Nat) : VStep := { VStep.base 1 5 phase 0 [] with prot := [hnd] }
def ent1 : MEnt := { handle := hnd, unit := 0, step := 5, loc := 3, bytes := 64, lost := false, digest := 0 }
def vs3 : VStep := { vs 3 with ents := [ent1], todo := [runKey hnd 0], cleared := [runKey hnd 0] }
def noKey (s : State) : State := { s with cph := { s.cph with slots := [] } }
def vr (stage : Nat) : VRestore := { mode := 1, slice := 1, ch := 0, owner := 0, serial := 7, persist := false, stage := stage, slots := [1], slot := 1, todo := [], out := [], got := [] }
def vrSt (r : VRestore) : State := { vSt none with vrn := { vrn0 none with restore := some r } }
/-- Slice 1's table whose extent 0 the buddy copy holds, with a poisoned burst there that a read waits for. -/
theorem calm_awake {s : State} (h : s.regs = [] := by rfl) (g : s.pw.gated = [] := by rfl) : ∀ d, s.isGated d = false := by
  intro d
  cases d with
  | stack m => simp only [State.isGated, State.fget, calm_rget h]; rfl
  | _ => simp [State.isGated, g]
def read7 : WaitingRead := { who := .atelier, addr := 0xE0, len := 32, codebook := none, need := [7] }
def rfS : State :=
  { vSt none with shards := [(runKey hnd 0, false)], vrn := { vrn0 none with ents := [ent1] },
                  stk := { Stacks.reset with waiting := [{ who := .atelier, addr := 0x7800000000, len := 32, codebook := none, need := [16106127360 * 0 + 0x7800000000 / 32] }], bursts := [(16106127360, { bad := 0, poison := true, noRefetch := false })] } }
theorem pair_of {α β : Type} {p : α × β} {a : α} (h : p.1 = a) : p = (a, p.2) := by rw [← h]
/-- A manifest in slot 1 of the buddy's lease: one cache, and n LOST shards of that many bytes; its header carries the given MAC. -/
def mfBody (n : Nat) : List Byte :=
  leBytes 4 0x4000009 ++ [2] ++ leBytes 27 0 ++ kvDesc ++ leBytes 64 0 ++
    (List.range n).flatMap (fun i => leBytes 4 0x4000009 ++ leBytes 4 i ++ leBytes 4 5 ++ leBytes 4 0 ++ leBytes 4 0xFFFF0000 ++ [1] ++ leBytes 43 0)
def mfHead (n mac : Nat) : List Byte :=
  leBytes 4 0x4D4E5256 ++ leBytes 2 1 ++ [1, 0] ++ leBytes 8 5 ++ leBytes 8 7 ++ leBytes 4 0 ++ leBytes 4 1 ++ leBytes 4 n ++ leBytes 4 (128 + 64 * n) ++
    leBytes 8 99 ++ beBytes 16 mac
def mfR (n mac : Nat) : VRestore := { vr 4 with got := [(manifestAt false 0 0 1, mfHead n mac), (manifestAt false 0 0 1 + 64, mfBody n)] }
def mfA (n mac : Nat) : Restored :=
  (restoreAll (mfR n mac) (entriesOf (mfHead n mac) (mfBody n)) (recordsOf (mfHead n mac) (mfBody n)) ⟨vrSt (mfR n mac), [], 0, [], [], [], []⟩).getD
    ⟨up, [], 0, [], [], [], []⟩
def lease1 : Lease := { owner := 2, serial := 77, base := 100, gib := 1, rkey := 5, adopted := false }
def mem1 (st : Nat) : Member := { Member.fresh 1 1 55 [7] with state := st, conn := some 40 }
def vLs : State := { vSt none with vrn := { vrn0 none with leases := [lease1], target := some (40, 5, 0, 0x40000000) } }
def vHrc (s : State) (ms : List (Nat × Member)) : State := { s with hrc := { s.hrc with members := ms } }

def okT (e : Except Status State) : State := match e with | .ok s => s | .error _ => State.reset
/-- The device holds role r in job 9 as member n; its map area lies at host address 0x4000000; members 2 and 3. -/
def hrc0 : Hrc := { Hrc.reset with slice := 1, port := 0, area := 0x4000000, issued := 3, mgr := 2, members := [(2, mem1 1), (3, { mem1 1 with conn := none })] }
def jSt (r n : Nat) : State :=
  let s := ((((tSt dcn []).fset HRC_STATUS_STATE 2).fset HRC_STATUS_ROLE r).fset HRC_STATUS_MEMBER n).rset HRC_JOB 9
  { s with hrc := hrc0 }
def jH (r n : Nat) (h : Hrc) : State := { jSt r n with hrc := h }
def keyMem : State := { tSt cn [] with mem := memWriteN [] 0x30000 (kBlk 1 5 ++ kBlk 0 5) }
def beatOf (job m role ep fl : Nat) : List Byte :=
  leBytes 4 job ++ leBytes 2 m ++ [BitVec.ofNat 8 role, 0] ++ leBytes 4 1 ++ leBytes 4 ep ++ leBytes 4 0 ++ leBytes 4 6 ++ leBytes 2 fl ++ [0, 3] ++
    leBytes 4 0 ++ leBytes 8 55 ++ List.replicate 24 0
def peer2 (m : Nat) : CtlPeer := { member := m, die := 0, port := 0, flags := 0, payload := 0, dscp := 0, tci := 0, region := 200, conn := 4, incarn := 1, ip := 7, hop := 5 }
def jmo (n i : Nat) : JobMapOut := { epoch := 0, poll := 0, parts := List.replicate n (List.replicate 64 1), index := i, since := 0, acked := false }
def jMap (o : JobMapOut) : State := jH 1 4 { hrc0 with map := some o }
def jAdm : State :=
  let s := jSt 0 0
  { s with cph := { s.cph with slots := (List.range 5).map (fun i => (1025 + i, { ks 2 with slice := 64 })) } }
/-- A worker whose control keys are loaded; the lease it is given; it has no connection to member 2 yet. -/
def jGr : State := let s := jSt 1 4; { s with cph := { s.cph with slots := (List.range 6).map (fun i => (1024 + i, { ks 2 with slice := 64 })) }, shards := [(runKey hnd 0, false)] }
def jGrant : LeaseGrant := { buddy := 2, rkey := 5, gib := 1, peer := peer2 2 }
def jCon : State := let s := jSt 0 0; { s with cph := jGr.cph, hrc := { hrc0 with members := [(2, { mem1 1 with conn := none })] } }
def ticks (s : State) (n : Nat) : State := { s with pw := { s.pw with onTicks := n } }

/-- Channel 1 of bank 0, of the secure channels, holds a header in its IN side. -/
def mbSt (h : Nat) : State := (base.fset MBX_CH_STATUS_IN_FULL 1 0 0 1).rset MBX_IN h 0 0 1 0
def mb0 (h : Nat) : State := (base.fset MBX_CH_STATUS_IN_FULL 1 0 0 0).rset MBX_IN h 0 0 0 0
/-- The device has FAILED. -/
def failed (s : State) : State := s.fset ATL_BOOT_STATUS_STATE 8
def noBind (s : State) : State := s.fset MBX_CH_BIND_VALID 0 0 0 16
def mb16 (h : Nat) : State := (base.fset MBX_CH_STATUS_IN_FULL 1 0 0 16).rset MBX_IN h 0 0 16 0
def acked1 (s : State) : State := { s with mbx := { s.mbx with acked := [(1, 6)], results := [(1, [0, 7])] } }
def note1 : Notice := { kind := 3, words := [1, 2, 3, 4] }
def nq1 : NoticeQueue := { items := [note1], dropped := 2 }
def ntSt : State := { (base.rset MBX_SEC 1) with mbx := { base.mbx with bankQ := [(0, nq1)] } }
def hbSt : State := sxSt base 1 { base.sx 1 with driver := some 3 }
def prog1 : Program := { slice := 1, addr := 0x1000, len := 64, enc := 0, rstk := 0, inboxOff := 0, inboxDepth := 1 }
def pgSt (t : Table) : State := { base with progs := [(hnd, prog1)], tbl := [(hnd + 1, t)] }

/-- Counters 16 and 17 of instance 1 belong to slice 1. -/
def cnS : State :=
  let s := ((tSt cn []).fset PMU_OWNER_VALID 1 1 0).fset PMU_OWNER_SLICE 1 1 0
  ((s.fset PMU_OWNER_VALID 1 1 1).fset PMU_OWNER_SLICE 1 1 1).fset PMU_CTL_EN 1 1
def cnRun : State := ((cnS.fset PMU_EVSEL_EN 1 1 1).rset PMU_CNT_LO 0xFFFFFFFF 1 1).rset PMU_CNT_HI 0xFFFF 1 1
def dumpH : List Byte := leBytes 4 1000 ++ leBytes 2 1 ++ [0, 0] ++ leBytes 8 0x30000 ++ leBytes 4 4096 ++ List.replicate 20 0
def dumpB : List Byte := dumpH ++ leBytes 2 16
def dmS : State := msg { cnS with mem := memWriteN [] 0x8000 dumpB } 16 0x73 [(1, 0x8000), (2, 0)]
def exSt (e : Except Status (State × List Byte)) : State := (okS e).1
def dump1 : DumpSet :=
  { slice := 1, ids := [16], period := 1000, dest := 0, mode := 0, ring := 0x30000, size := 4096, conn := 0, rkey := 0, headAddr := 0, head := 0,
    dropped := 0, wasSusp := false, stepped := false, last := 5, tag := none }
def dmp (ns : Nat) : State := { cnS.fset PMU_DUMP_CTL_ACTIVE 1 0 2 with pmu := { cnS.pmu with dumps := [(2, dump1)], ns := ns } }
def ppsSt (o i : Nat) : State :=
  let s := ((base.fset PMU_PPS_CTL_OUT_EN o).fset PMU_PPS_CTL_IN_EN i).fset PMU_TIME_STATUS_VALID 1
  { s with pmu := { s.pmu with ns := 5000000000 } }
/-- An image of 4,096 bytes (its body is empty), version 1 and the given security version, signed with the private key 3 and the nonce 2. -/
def imgBytes (sec s : Nat) : List Byte :=
  leBytes 4 0x41544C46 ++ leBytes 4 1 ++ leBytes 4 1 ++ leBytes 4 sec ++ leBytes 4 4096 ++ leBytes 12 0 ++
    beBytes 48 0x38b060a751ac96384cd9327eb1b1e36a21fdb71114be07434c0cc7bf63f6e1da274edebfe76f65fbd51ad2f14898b95b ++
    leBytes 48 0x8d999057ba3d2d969260045c55b97f089025959a6f434d651d207d19fb96e9e4fe0e86ebe0e64f85b96a9c75295df61 ++ leBytes 48 s ++
    leBytes 48 0x77a41d4606ffa1464793c7e5fdc7d98cb9d3910202dcd06bea4f240d3566da6b408bbae5026580d02d7e5c70500c831 ++
    leBytes 48 0xc995f7ca0b0c42837d0bbe9602a9fc998520b41c85115aa5f7684c0edc111eacc24abd6be4b5d298b65f28600a2f1df1
def img1 : List Byte := imgBytes 1 0x2ea147c95c983b64ef935cccee05b4568e8325585403c173bc43f882530c3ff5908c5b641a6177780c1c6ccc017588b7
def img7 : List Byte := imgBytes 7 0x2ada9e0bacbc50a4658c267168bd53b954eada5f154f547cd6745e3e2f2afbd72e3e6febd2cfcb42931da534d7333e98
def imgAnchor : Nat := 0x8d75b774dd9378ec2d4d71ad030ff34faf26307fcf1b57998ade2ace83af2c9f6f8deb1e6c1ba9203dda880e66b1da41
/-- A memory that holds these bytes from `off` on and nothing else. -/
def imgMem (off : Nat) (img : List Byte) : SMap Byte := (img.zipIdx.filter (fun q => q.1 != 0)).map (fun q => (off + q.2, q.1))
/-- Flash with an image in slot A and a boot record that confirms it. -/
def imgAtl (a : Atelier) (img : List Byte) : Atelier := ({ a with flash := imgMem 0 img } : Atelier).writeRecord BootRecord.blank
def bootRec (s : State) (f : Fuses) : State := { s with atl := { imgAtl s.atl img7 with runningSecVer := 7 }, dbg := { s.dbg with fuses := f } }
def fz (a : Nat) (dis : Bool) : Fuses :=
  { State.reset.dbg.fuses with anchors := [{ written := true, digest := 8, crcOk := true }, { written := true, digest := a, crcOk := true }], revoke := 0,
                               revokeOk := true, secver := 0, secverOk := true, dbgDisable := dis, injDisable := dis }
def withFz (f : Fuses) : State := { base with dbg := { base.dbg with fuses := f } }
def fu0 (a : Nat) (dis : Bool) : State := withFz (fz a dis)
def fuSt (a : Nat) (dis : Bool) : State := bootRec base (fz a dis)
def injB : List Byte := [3, 0, 0, 0] ++ leBytes 2 0 ++ leBytes 2 0 ++ leBytes 4 0 ++ leBytes 2 1 ++ leBytes 2 5 ++ List.replicate 16 0
/-- A module that can boot: img7 in slot A, its key's anchor fused and loaded. -/
def imgSt : State := let s := bootRec up (fz imgAnchor false); { s with dbg := { s.dbg with loaded := fz imgAnchor false } }
def env0 : BootEnv := { fabricTrains := true, untrained := [], failedClusters := [], pins := [], logs := [] }
/-- Recovery with an image staged and named by a message on channel 0. -/
def recSt : State := msg { (imgSt.fset ATL_BOOT_STATUS_STATE 7) with mem := imgMem recoveryBase img7 } 0 9 [(1, 4096)]
/-- An update whose whole image has been written to slot B, well signed or not at all. -/
def verSt (ok : Bool) : State :=
  let s := imgSt.fset ATL_UPD_STATUS_USTATE 2
  if ok then { s with atl := ({ s.atl with flash := imgMem (slotAt 1) img7 } : Atelier).writeRecord BootRecord.blank } else s
def injSt (perm : Nat) : State := slPut (fu0 9 false) SLC_CTL_TEST_PERM 1 perm
def held1 (path : Nat) : InjHeld := { inj := 3, path := path, conn := 65536, port := 15, slice := 1, st := .ok, bytes := fr 60, left := 1, since := 0 }
def injK (kind dev : Nat) (addr : Nat) : List Byte :=
  [BitVec.ofNat 8 kind, 0, 0, BitVec.ofNat 8 dev] ++ leBytes 2 0 ++ leBytes 2 0 ++ leBytes 4 0 ++ leBytes 2 1 ++ leBytes 2 1 ++ leBytes 8 addr ++ List.replicate 8 0
def heldSt (path : Nat) : State := { base with dbg := { base.dbg with held := [held1 path] } }

theorem manifest_of {s : State} {r : VRestore} {k : Nat} {h b b1 : List Byte} (rks : List Nat) (hk : s.manifestKeys = rks) (hh : s.slotHeader r k = some h)
    (hb : s.restoreBytes r (manifestAt r.persist (s.restoreSource r).2.2.1 (s.restoreSource r).2.2.2 k + 64) (leField h 0x24 4) = some b1)
    (ht : b1.take (leField h 0x24 4) = b) (hc : cmac rks (h.take 0x30 ++ b) = beVal (h.drop 0x30)) : s.slotManifest r k = some (h, b) := by
  simp only [State.slotManifest, hh, hb, ht, hk, hc, if_true]
/-- The CMAC of whole blocks, cut in three. -/
theorem cmac_of {rks : List Nat} {bs : List Byte} (k c1 c2 : Nat) (x y z : List Nat) {m : Nat} (hl : (bs.length % 16 == 0 && bs.length != 0) = true)
    (hk : aesEnc rks 0 = k) (hB : (toBlocks bs).dropLast ++ [(toBlocks bs).getLast?.getD 0 ^^^ cmacDbl k] = x ++ y ++ z)
    (h1 : x.foldl (fun c p => aesEnc rks (c ^^^ p)) 0 = c1) (h2 : y.foldl (fun c p => aesEnc rks (c ^^^ p)) c1 = c2)
    (h3 : z.foldl (fun c p => aesEnc rks (c ^^^ p)) c2 = m) : cmac rks bs = m := by
  have he : bs.isEmpty = false := by
    cases bs with
    | nil => simp at hl
    | cons a l => rfl
  simp only [cmac, hl, he, hk, if_true, Bool.false_eq_true, if_false, hB, List.foldl_append, h1, h2, h3]
/-- Round keys of the manifest key of vSt. -/
def mfKeys : List Nat := [1329227995784915872903807060280344576, 132109624804599638756368965238215893859,
  205493435519681193230304655204555684859, 193525158969847394114169804115592286105, 318856215326861135173183925344305344043,
  265562798449871110449425895364577956496, 112355633348614660076689006277166406472, 204133739508088472277836243364115864987,
  243075731723347954223168312169155197599, 61079362025794801746843027583768348993, 54212578598794369567358576597561972792]
/-- The manifest of one cache verifies: state, request, header, body. -/
def mfM : Nat := 195375727614479671110086014626610950366
theorem mf_key : aesEnc mfKeys 0 = 292507239674573641702354526245942019710 := by decide +kernel
theorem mf_c1 : [114740964108729709096462086380149800960, 9304595970494411110326649421979189248, 39614081264265870606526840832,
    11963052279595862932834304054148464640].foldl (fun c p => aesEnc mfKeys (c ^^^ p)) 0 = 159568188901675994314545696661718541046 := by decide +kernel
theorem mf_c2 : [0, 2658476373014643281121828011235082240, 85070591730234615865843651857942052864, 0].foldl
    (fun c p => aesEnc mfKeys (c ^^^ p)) 159568188901675994314545696661718541046 = 257506144000291174288154247437772268605 := by decide +kernel
theorem mf_c3 : [0, 0, 244732112428208819941334445060115827835].foldl (fun c p => aesEnc mfKeys (c ^^^ p))
    257506144000291174288154247437772268605 = mfM := by decide +kernel
theorem mf_ok : (vrSt (mfR 0 mfM)).slotManifest (mfR 0 mfM) (mfR 0 mfM).slot = some (mfHead 0 mfM, mfBody 0) :=
  manifest_of (b1 := mfBody 0) mfKeys (by decide +kernel) (by decide +kernel) (by decide +kernel) (by decide +kernel)
    ((cmac_of _ _ _ _ _ _ (by decide +kernel) mf_key (by decide +kernel) mf_c1 mf_c2 mf_c3).trans (by decide +kernel))
/-- The own lease's manifest is read: the same one. -/
def mf5 : VRestore := { mfR 0 mfM with mode := 3, stage := 5 }
theorem mf_ok5 : (vrSt mf5).slotManifest mf5 1 = some (mfHead 0 mfM, mfBody 0) :=
  manifest_of (b1 := mfBody 0) mfKeys (by decide +kernel) (by decide +kernel) (by decide +kernel) (by decide +kernel)
    ((cmac_of _ _ _ _ _ _ (by decide +kernel) mf_key (by decide +kernel) mf_c1 mf_c2 mf_c3).trans (by decide +kernel))

/-! ### Ill-formed commands, one for each check of wellFormed -/

theorem test_illFormed_issue : ([{ at4 0 with b := 3840 }, { at4 0 with len := 0 }, { at4 0 with len := 10 }, { at4 0 with raw := 256 ^ 4 }] : List Issue).all
    (fun w => !w.wellFormed) = true := by decide +kernel
theorem test_illFormed_memArg : ([⟨8, 0, 0, 0, 0⟩, ⟨0, 32, 0, 0, 0⟩, ⟨0, 0, 32, 0, 0⟩, ⟨0, 0, 0, 8, 0⟩] : List MemArg).all (fun m => !m.wellFormed) = true := by decide +kernel
theorem test_illFormed_domain : ([.cluster 10 0, .cluster 0 24, .palette 10, .stack 20, .stretcher 4, .net 2, .host 2] : List Domain).all
    (fun d => !d.wellFormed) = true := by decide +kernel

theorem test_illFormed_0 : ([.registerWrite .atelier (2 ^ 64) 0 0, .registerWrite .atelier 0 0 (2 ^ 32), .latchingRead .atelier (2 ^ 64) 0, .blockLockSet (2 ^ 64), .fabricFlitRetry 25 0, .fabricFlitRetry 0 65, .fabricLinkDown 25 [] [] [] [] [] [], .powerDomainWake (.cluster 10 0), .bristleClockChange 10 none, .inputSample 4096 0, .inputSample 0 4096, .thermalStateRise 41 0, .gsoVinWarnWrite (2 ^ 32), .fwRecoverLoad 321 0 env0, .fwUpdateBegin 321 0 false, .fwUpdateWrite 321 0 0 false (.ok, []), .fwUpdateVerify 321 [], .fwActivate 321, .fwActivateCancel 321, .add (at4 3840) 0 0 0, .add (at4 0) 32 0 0, .add (at4 0) 0 32 0, .add (at4 0) 0 0 32, .sub (at4 3840) 0 0 0, .sub (at4 0) 32 0 0, .sub (at4 0) 0 32 0, .sub (at4 0) 0 0 32, .andI (at4 3840) 0 0 0, .andI (at4 0) 32 0 0, .andI (at4 0) 0 32 0, .andI (at4 0) 0 0 32, .orI (at4 3840) 0 0 0, .orI (at4 0) 32 0 0, .orI (at4 0) 0 32 0, .orI (at4 0) 0 0 32, .xorI (at4 3840) 0 0 0, .xorI (at4 0) 32 0 0, .xorI (at4 0) 0 32 0, .xorI (at4 0) 0 0 32, .sll (at4 3840) 0 0 0] : List Instr).all (fun i => !i.wellFormed) = true := by decide +kernel
theorem test_illFormed_1 : ([.sll (at4 0) 32 0 0, .sll (at4 0) 0 32 0, .sll (at4 0) 0 0 32, .srl (at4 3840) 0 0 0, .srl (at4 0) 32 0 0, .srl (at4 0) 0 32 0, .srl (at4 0) 0 0 32, .sra (at4 3840) 0 0 0, .sra (at4 0) 32 0 0, .sra (at4 0) 0 32 0, .sra (at4 0) 0 0 32, .slt (at4 3840) 0 0 0, .slt (at4 0) 32 0 0, .slt (at4 0) 0 32 0, .slt (at4 0) 0 0 32, .sltu (at4 3840) 0 0 0, .sltu (at4 0) 32 0 0, .sltu (at4 0) 0 32 0, .sltu (at4 0) 0 0 32, .minI (at4 3840) 0 0 0, .minI (at4 0) 32 0 0, .minI (at4 0) 0 32 0, .minI (at4 0) 0 0 32, .maxI (at4 3840) 0 0 0, .maxI (at4 0) 32 0 0, .maxI (at4 0) 0 32 0, .maxI (at4 0) 0 0 32, .minu (at4 3840) 0 0 0, .minu (at4 0) 32 0 0, .minu (at4 0) 0 32 0, .minu (at4 0) 0 0 32, .maxu (at4 3840) 0 0 0, .maxu (at4 0) 32 0 0, .maxu (at4 0) 0 32 0, .maxu (at4 0) 0 0 32, .addi (at4 3840) 0 0 0, .addi (at4 0) 32 0 0, .addi (at4 0) 0 32 0, .andi (at4 3840) 0 0 0, .andi (at4 0) 32 0 0] : List Instr).all (fun i => !i.wellFormed) = true := by decide +kernel
theorem test_illFormed_2 : ([.andi (at4 0) 0 32 0, .ori (at4 3840) 0 0 0, .ori (at4 0) 32 0 0, .ori (at4 0) 0 32 0, .xori (at4 3840) 0 0 0, .xori (at4 0) 32 0 0, .xori (at4 0) 0 32 0, .slti (at4 3840) 0 0 0, .slti (at4 0) 32 0 0, .slti (at4 0) 0 32 0, .sltiu (at4 3840) 0 0 0, .sltiu (at4 0) 32 0 0, .sltiu (at4 0) 0 32 0, .lui (at4 3840) 0 0, .lui (at4 0) 32 0, .slli (at4 3840) 0 0 0, .slli (at4 0) 32 0 0, .slli (at4 0) 0 32 0, .srli (at4 3840) 0 0 0, .srli (at4 0) 32 0 0, .srli (at4 0) 0 32 0, .srai (at4 3840) 0 0 0, .srai (at4 0) 32 0 0, .srai (at4 0) 0 32 0, .sli (at4 3840) 0 0 0, .sli (at4 0) 32 0 0, .sli (at4 0) 0 32 0, .ladr (at4 3840) 0 0, .ladr (at4 0) 32 0, .mul (at4 3840) 0 0, .mul (at4 0) 32 0, .mul (at4 0) 0 32, .mulu (at4 3840) 0 0, .mulu (at4 0) 32 0, .mulu (at4 0) 0 32, .mulProductVisible 3840, .mfsr (at4 3840) 0 0, .mfsr (at4 0) 32 0, .mfsr (at4 0) 0 16, .mtsr (at4 3840) 0 0] : List Instr).all (fun i => !i.wellFormed) = true := by decide +kernel
theorem test_illFormed_3 : ([.mtsr (at4 0) 16 0, .mtsr (at4 0) 0 32, .beq (at4 3840) 0 0 0, .beq (at4 0) 32 0 0, .beq (at4 0) 0 32 0, .bne (at4 3840) 0 0 0, .bne (at4 0) 32 0 0, .bne (at4 0) 0 32 0, .blt (at4 3840) 0 0 0, .blt (at4 0) 32 0 0, .blt (at4 0) 0 32 0, .bge (at4 3840) 0 0 0, .bge (at4 0) 32 0 0, .bge (at4 0) 0 32 0, .bltu (at4 3840) 0 0 0, .bltu (at4 0) 32 0 0, .bltu (at4 0) 0 32 0, .bgeu (at4 3840) 0 0 0, .bgeu (at4 0) 32 0 0, .bgeu (at4 0) 0 32 0, .j (at4 3840) 0, .call (at4 3840) 0, .jr (at4 3840) 0, .jr (at4 0) 32, .callr (at4 3840) 0, .callr (at4 0) 32, .ret (at4 3840), .eret (at4 3840), .breakI (at4 3840), .lb (at4 3840) 0 { mode := 0, rb := 0, ri := 0, scale := 0, disp := 0 }, .lb (at4 0) 32 { mode := 0, rb := 0, ri := 0, scale := 0, disp := 0 }, .lb (at4 0) 0 { mode := 8, rb := 0, ri := 0, scale := 0, disp := 0 }, .lbu (at4 3840) 0 { mode := 0, rb := 0, ri := 0, scale := 0, disp := 0 }, .lbu (at4 0) 32 { mode := 0, rb := 0, ri := 0, scale := 0, disp := 0 }, .lbu (at4 0) 0 { mode := 8, rb := 0, ri := 0, scale := 0, disp := 0 }, .lh (at4 3840) 0 { mode := 0, rb := 0, ri := 0, scale := 0, disp := 0 }, .lh (at4 0) 32 { mode := 0, rb := 0, ri := 0, scale := 0, disp := 0 }, .lh (at4 0) 0 { mode := 8, rb := 0, ri := 0, scale := 0, disp := 0 }, .lhu (at4 3840) 0 { mode := 0, rb := 0, ri := 0, scale := 0, disp := 0 }, .lhu (at4 0) 32 { mode := 0, rb := 0, ri := 0, scale := 0, disp := 0 }] : List Instr).all (fun i => !i.wellFormed) = true := by decide +kernel
theorem test_illFormed_4 : ([.lhu (at4 0) 0 { mode := 8, rb := 0, ri := 0, scale := 0, disp := 0 }, .lw (at4 3840) 0 { mode := 0, rb := 0, ri := 0, scale := 0, disp := 0 }, .lw (at4 0) 32 { mode := 0, rb := 0, ri := 0, scale := 0, disp := 0 }, .lw (at4 0) 0 { mode := 8, rb := 0, ri := 0, scale := 0, disp := 0 }, .lwu (at4 3840) 0 { mode := 0, rb := 0, ri := 0, scale := 0, disp := 0 }, .lwu (at4 0) 32 { mode := 0, rb := 0, ri := 0, scale := 0, disp := 0 }, .lwu (at4 0) 0 { mode := 8, rb := 0, ri := 0, scale := 0, disp := 0 }, .ld (at4 3840) 0 { mode := 0, rb := 0, ri := 0, scale := 0, disp := 0 }, .ld (at4 0) 32 { mode := 0, rb := 0, ri := 0, scale := 0, disp := 0 }, .ld (at4 0) 0 { mode := 8, rb := 0, ri := 0, scale := 0, disp := 0 }, .vld (at4 3840) 0 { mode := 0, rb := 0, ri := 0, scale := 0, disp := 0 }, .vld (at4 0) 32 { mode := 0, rb := 0, ri := 0, scale := 0, disp := 0 }, .vld (at4 0) 0 { mode := 8, rb := 0, ri := 0, scale := 0, disp := 0 }, .sb (at4 3840) 0 { mode := 0, rb := 0, ri := 0, scale := 0, disp := 0 }, .sb (at4 0) 32 { mode := 0, rb := 0, ri := 0, scale := 0, disp := 0 }, .sb (at4 0) 0 { mode := 8, rb := 0, ri := 0, scale := 0, disp := 0 }, .sh (at4 3840) 0 { mode := 0, rb := 0, ri := 0, scale := 0, disp := 0 }, .sh (at4 0) 32 { mode := 0, rb := 0, ri := 0, scale := 0, disp := 0 }, .sh (at4 0) 0 { mode := 8, rb := 0, ri := 0, scale := 0, disp := 0 }, .sw (at4 3840) 0 { mode := 0, rb := 0, ri := 0, scale := 0, disp := 0 }, .sw (at4 0) 32 { mode := 0, rb := 0, ri := 0, scale := 0, disp := 0 }, .sw (at4 0) 0 { mode := 8, rb := 0, ri := 0, scale := 0, disp := 0 }, .sd (at4 3840) 0 { mode := 0, rb := 0, ri := 0, scale := 0, disp := 0 }, .sd (at4 0) 32 { mode := 0, rb := 0, ri := 0, scale := 0, disp := 0 }, .sd (at4 0) 0 { mode := 8, rb := 0, ri := 0, scale := 0, disp := 0 }, .vst (at4 3840) 0 { mode := 0, rb := 0, ri := 0, scale := 0, disp := 0 }, .vst (at4 0) 32 { mode := 0, rb := 0, ri := 0, scale := 0, disp := 0 }, .vst (at4 0) 0 { mode := 8, rb := 0, ri := 0, scale := 0, disp := 0 }, .vsta (at4 3840) 0 { mode := 0, rb := 0, ri := 0, scale := 0, disp := 0 }, .vsta (at4 0) 32 { mode := 0, rb := 0, ri := 0, scale := 0, disp := 0 }, .vsta (at4 0) 0 { mode := 8, rb := 0, ri := 0, scale := 0, disp := 0 }, .loadDataReturn 3840 0, .storeBufferDrain 3840, .faultReload 3840, .clusterFailure 10 0, .clusterFailure 0 24, .vmac (at4 3840) 0 0 0 0 0, .vmac (at4 0) 4 0 0 0 0, .vmac (at4 0) 0 16 0 0 0, .vmac (at4 0) 0 0 16 0 0] : List Instr).all (fun i => !i.wellFormed) = true := by decide +kernel
theorem test_illFormed_5 : ([.vmac (at4 0) 0 0 0 32 0, .accumulatorVisible 3840, .vadd (at4 3840) 0 0 0 0, .vadd (at4 0) 16 0 0 0, .vadd (at4 0) 0 16 0 0, .vadd (at4 0) 0 0 16 0, .vsub (at4 3840) 0 0 0 0, .vsub (at4 0) 16 0 0 0, .vsub (at4 0) 0 16 0 0, .vsub (at4 0) 0 0 16 0, .vmul (at4 3840) 0 0 0 0, .vmul (at4 0) 16 0 0 0, .vmul (at4 0) 0 16 0 0, .vmul (at4 0) 0 0 16 0, .vmax (at4 3840) 0 0 0 0, .vmax (at4 0) 16 0 0 0, .vmax (at4 0) 0 16 0 0, .vmax (at4 0) 0 0 16 0, .vmin (at4 3840) 0 0 0 0, .vmin (at4 0) 16 0 0 0, .vmin (at4 0) 0 16 0 0, .vmin (at4 0) 0 0 16 0, .vwacc (at4 3840) 0 0 0 0 0 false, .vwacc (at4 0) 16 0 0 0 0 false, .vwacc (at4 0) 0 16 0 0 0 false, .vwacc (at4 0) 0 0 32 0 0 false, .vcvt (at4 3840) 0 0 0 0 0 false, .vcvt (at4 0) 16 0 0 0 0 false, .vcvt (at4 0) 0 16 0 0 0 false, .vexp (at4 3840) 0 0 0, .vexp (at4 0) 16 0 0, .vexp (at4 0) 0 16 0, .vbc (at4 3840) 0 0 0, .vbc (at4 0) 16 0 0, .vbc (at4 0) 0 32 0, .aclr (at4 3840) 0, .aclr (at4 0) 4, .vtoa (at4 3840) 0 0, .vtoa (at4 0) 4 0, .vtoa (at4 0) 0 16] : List Instr).all (fun i => !i.wellFormed) = true := by decide +kernel
theorem test_illFormed_6 : ([.atov (at4 3840) 0 0, .atov (at4 0) 16 0, .atov (at4 0) 0 4, .aredSum (at4 3840) 0 0 0 false, .aredSum (at4 0) 32 0 0 false, .aredSum (at4 0) 0 4 0 false, .aredMax (at4 3840) 0 0 0 false, .aredMax (at4 0) 32 0 0 false, .aredMax (at4 0) 0 4 0 false, .mov (at4 3840) 0 0, .signal (at4 3840) 0 0, .signal (at4 0) 32 0, .signal (at4 0) 0 32, .wait (at4 3840) 0 0 0, .wait (at4 0) 32 0 0, .wait (at4 0) 0 32 0, .wait (at4 0) 0 0 32, .waitdec (at4 3840) 0 0 0, .waitdec (at4 0) 32 0 0, .waitdec (at4 0) 0 32 0, .waitdec (at4 0) 0 0 32, .waitRelease 3840, .spinLimitReport 3840, .synRptPop 10, .clusterPark 10 0, .clusterPark 0 24, .flagAlloc 321, .flagFree 321 0, .flagFree 0 (2 ^ 32), .gsend (at4 3840) 0 0 0, .gsend (at4 0) 16 0 0, .gsend (at4 0) 0 32 0, .gsend (at4 0) 0 0 32, .creditGrant 3840, .collectorContribution 3840, .gatherContribution 3840, .gatherSlotArm 0 1024 0, .gatherSlotArm 0 0 (2 ^ 32), .gatherSlotFree 0 1024, .brsRunSet 3840] : List Instr).all (fun i => !i.wellFormed) = true := by decide +kernel
theorem test_illFormed_7 : ([.brsRunClear 3840, .brsInit 3840 0, .brsInit 0 (2 ^ 32), .brsConfigWrite 3840 0 0, .brsConfigWrite 0 0 (2 ^ 32), .palCmapWrite 10 0 0, .palCmapWrite 0 24 0, .palCmapWrite 0 0 (2 ^ 32), .codebookStoreWrite 20 0 0, .codebookStoreWrite 0 0 (2 ^ 32), .codebookRewrite 20 0, .codebookRewrite 0 256, .stackRead .atelier (2 ^ 64) 0 none, .stackWrite .atelier (2 ^ 64) [], .patrolScrubRead 20, .pseudoChannelFail 20 0 false, .softRepair 20 0 0, .softRepair 0 8 0, .softRepair 0 0 (2 ^ 32), .softRepairCopyDone 20 0, .stackRefresh 20, .memLayout 321 0 0, .tableCreate 321 0 [], .tableCreate 0 (2 ^ 64) [], .tableDestroy 321 0, .tableDestroy 0 (2 ^ 32), .workQueueFetch 64 0 0, .workQueueFetch 0 256 0, .lookup 64 0 (.ok, []) (.ok, []) (.ok, []) 0, .lookup 0 256 (.ok, []) (.ok, []) (.ok, []) 0, .sparseUpdate 64 0 (.ok, []) (.ok, []) 0, .sparseUpdate 0 256 (.ok, []) (.ok, []) 0, .cacheCreate 321 0, .cacheCreate 0 (2 ^ 64), .cacheDestroy 321 0, .cacheDestroy 0 (2 ^ 32), .seqCreate 321 0 [], .seqTruncate 321 0 0, .seqTruncate 0 (2 ^ 32) 0, .seqDestroy 321 0] : List Instr).all (fun i => !i.wellFormed) = true := by decide +kernel
theorem test_illFormed_8 : ([.seqDestroy 0 (2 ^ 32), .attentionStep 64 0 (.ok, []) (.ok, []) (.ok, []) 0, .attentionStep 0 256 (.ok, []) (.ok, []) (.ok, []) 0, .kvAppend 64 0 (.ok, []) 0, .kvAppend 0 256 (.ok, []) 0, .compositionScan 10 [] [], .copyPassDone (2 ^ 32) 0 [], .copyHeldDrained (2 ^ 32) 0, .epochFlip (2 ^ 32) 0, .drainEnd (2 ^ 32), .mapEntryRebuild (2 ^ 32) 0, .turnEnd 10 0, .turnEnd 0 24, .turnSwitchComplete 10 0, .turnSwitchComplete 0 24, .placePin 321 0 0 [], .placePin 0 (2 ^ 32) 0 [], .placeHint 321 0 0 0 0, .placeHint 0 (2 ^ 32) 0 0 0, .placePromote 321 0 0 0 [], .placePromote 0 (2 ^ 32) 0 0 [], .placeQuery 321 0, .placeQuery 0 (2 ^ 32), .placePolicy 321 .ok 0 0 0 0 [], .placeAdmin 321 0 0, .placeAdmin 0 64 0, .cmpIndRead 10, .cmpIndWrite 10, .dmaStart .atelier 242 0 0, .dmaStart .atelier 0 64 0, .dmaStart .atelier 0 0 (2 ^ 32), .dmaPause .atelier 242 0 0, .dmaPause .atelier 0 64 0, .dmaPause .atelier 0 0 (2 ^ 32), .dmaResume .atelier 242 0 0, .dmaResume .atelier 0 64 0, .dmaResume .atelier 0 0 (2 ^ 32), .dmaAbort .atelier 242 0 0, .dmaAbort .atelier 0 64 0, .dmaAbort .atelier 0 0 (2 ^ 32)] : List Instr).all (fun i => !i.wellFormed) = true := by decide +kernel
theorem test_illFormed_9 : ([.dmaReload .atelier 242 0 0, .dmaReload .atelier 0 64 0, .dmaReload .atelier 0 0 (2 ^ 32), .dmaNextWrite .atelier 242 0 false 0, .dmaNextWrite .atelier 0 64 false 0, .dmaNextWrite .atelier 0 0 false (2 ^ 32), .dmaDescriptorFetch 242 0, .dmaDescriptorFetch 0 64, .dmaCopy 242 0 0, .dmaCopy 0 64 0, .dmaFill 242 0 0, .dmaFill 0 64 0, .dmaSignal 242 0, .dmaSignal 0 64, .dmaNop 242 0, .dmaNop 0 64, .dmaSourceReturn 242 0, .dmaSourceReturn 0 64, .dmaWriteback 242 0, .dmaWriteback 0 64, .dmaPaused 242 0, .dmaPaused 0 64, .dmaAlloc 321 0 0, .dmaAlloc 0 20 0, .dmaAlloc 0 0 8, .dmaFree 321 0, .dmaFree 0 65536, .configRequest 8 0 0 none, .configRequest 0 3 0 none, .configRequest 0 0 4096 none, .hostLinkUp 8 0 0 false, .portReset 8 false, .flrFunction0 8, .flrFunction1 8, .flrFunction2 8, .functionD0Entry 8 0, .functionD0Entry 0 3, .grantPageAccess 8 0 0 0 none, .grantPageAccess 0 3 0 0 none, .apertureAccess 8 0 0 none false] : List Instr).all (fun i => !i.wellFormed) = true := by decide +kernel
theorem test_illFormed_10 : ([.wqDoorbell 8 0 0, .wqDoorbell 0 0 (2 ^ 32), .wqCreate 321 .ok 0 0 0 0 0 0, .wqCreate 0 .ok 0 0 0 8 0 0, .wqReset 321 0, .wqReset 0 256, .wqDestroy 321 0, .wqDestroy 0 256, .hostReadCompletion 8 0 .ok [], .completionTimeout 8 0, .unexpectedCompletion 8 0 [], .tagQuarantineEnd 8 0, .l1Entry 8 false, .ltrChange 8, .hifMapRead 8, .hifMapWrite 8, .ctoSet 321 0 0, .ctoSet 0 8 0, .sliceCreate 321 0, .sliceCreate 0 64, .sliceDestroy 321 0, .sliceDestroy 0 64, .sliceBind 321 0 .ok 0 0 0, .sliceBind 0 64 .ok 0 0 0, .sliceUnbind 321 0 0, .sliceUnbind 0 64 0, .sliceWindow 321 0 0 .ok 0, .sliceWindow 0 64 0 .ok 0, .sliceQuota 321 0 .ok [] 0 [], .sliceQuota 0 64 .ok [] 0 [], .clusterDrainTimeout 64, .slicePhase 321 0 0, .slicePhase 0 64 0, .sliceReset 321 0 0, .sliceReset 0 64 0, .sliceDrainEnd 64, .generationAdvance 64, .sliceAttach 321 0 0 0, .sliceDetach 321, .dirtyStart 321 0 []] : List Instr).all (fun i => !i.wellFormed) = true := by decide +kernel
theorem test_illFormed_11 : ([.dirtyStart 0 64 [], .dirtyHarvest 321 0 0 0, .dirtyHarvest 0 64 0 0, .dirtyHarvest 0 0 0 (2 ^ 64), .dirtyStop 321 0, .dirtyStop 0 64, .hostAbsentMark 160, .holdSquash 64, .slcMapRead 2, .slcMapWrite 2, .controllerEnable 8 0 0 0 0, .controllerReset 8, .shutdownRequest 8 0, .sqTailDoorbell 8 0 0, .sqTailDoorbell 0 0 (2 ^ 32), .cqHeadDoorbell 8 0 0, .cqHeadDoorbell 0 0 (2 ^ 32), .createIoSq 8 (.ok, []), .deleteIoSq 8 (.ok, []), .createIoCq 8 (.ok, []), .deleteIoCq 8 (.ok, []), .getLogPage 8 (.ok, []) (.ok, []), .identifyNamespace 8 (.ok, []), .identifyController 8 (.ok, []), .identifyNsList 8 (.ok, []), .identifyNsDescriptors 8 (.ok, []), .abort 8 (.ok, []), .setFeatures 8 (.ok, []) (.ok, []), .getFeatures 8 (.ok, []), .asyncEventRequest 8 (.ok, []), .formatNvm 8 (.ok, []) false, .blockErase 8 (.ok, []) false, .exitFailureMode 8 (.ok, []), .nvmFlush 8 0 (.ok, []), .nvmFlush 0 65536 (.ok, []), .nvmWrite 8 0 (.ok, []) (.ok, []) (.ok, []), .nvmWrite 0 65536 (.ok, []) (.ok, []) (.ok, []), .nvmRead 8 0 (.ok, []) (.ok, []), .nvmRead 0 65536 (.ok, []) (.ok, []), .writeZeroes 8 0 (.ok, [])] : List Instr).all (fun i => !i.wellFormed) = true := by decide +kernel
theorem test_illFormed_12 : ([.writeZeroes 0 65536 (.ok, []), .datasetManagement 8 0 (.ok, []) (.ok, []), .datasetManagement 0 65536 (.ok, []) (.ok, []), .remoteTransferTimeout 8 0 0, .remoteTransferTimeout 0 65536 0, .recordedOpChunk 8 false, .remoteWriteRetry 8 false, .powerStateTransition 8 0, .powerStateTransition 0 32, .nsCreate 321 .ok 0 0 0 0 0 0 0 0 [], .nsDestroy 321 0, .nsAttach 321 0 0, .nsAttach 0 0 8, .nsDetach 321 0 0, .nsDetach 0 0 8, .storAssign 321 0 false 0, .storAssign 0 8 false 0, .storAssign 0 0 false 64, .storRecordClear 321 0, .storRecordClear 0 8, .frameReceive 2 0 [] false 0 0 0, .frameReceive 0 8 [] false 0 0 0, .pfcPauseExpiry 2 0 0, .pfcPauseExpiry 0 8 0, .pfcPauseExpiry 0 0 8, .pfcRepeat 2 0 0, .pfcRepeat 0 8 0, .pfcRepeat 0 0 8, .pfcXonSend 2 0 0, .pfcXonSend 0 8 0, .pfcXonSend 0 0 8, .mgmtFrame 2 [] none, .portLinkDown 2 0, .portLinkDown 0 8, .portLinkUp 2 0, .portLinkUp 0 8, .pktModeWrite .atelier 2 0, .pktModeWrite .atelier 0 (2 ^ 32), .profileSwitch .atelier 2 0 0, .profileSwitch .atelier 0 8 0] : List Instr).all (fun i => !i.wellFormed) = true := by decide +kernel
theorem test_illFormed_13 : ([.profileSwitch .atelier 0 0 8, .windowWrite .atelier 2 0 0 0 0, .windowWrite .atelier 0 8 0 0 0, .windowWrite .atelier 0 0 8 0 0, .windowWrite .atelier 0 0 0 0 (2 ^ 32), .ruleRead .atelier 2, .ruleWrite .atelier 2, .ruleClearHits .atelier 2, .statClr .atelier 2 0, .statClr .atelier 0 8, .txEnqueue 2 0, .schedulePick 2 0 0, .schedulePick 0 8 0, .frameTransmitEnd 2 0, .frameTransmitEnd 0 8, .shaperRefill 2 [], .gateEntryChange 2 0 0, .gateEntryChange 0 8 0, .gclSwitch .atelier 2 0 0 0, .gclSwitch .atelier 0 8 0 0, .gclSwitch .atelier 0 0 (2 ^ 32) 0, .gclTakeover 2 0 0, .gclTakeover 0 8 0, .tmtSqDoorbell (some 8) .atelier 0 0 (.ok, []), .tmtSqDoorbell none .atelier 0 (2 ^ 32) (.ok, []), .tmtCqDoorbell (some 8) .atelier 0 0, .tmtCqDoorbell none .atelier 0 (2 ^ 32), .tmtWrite 64 0 (.ok, []), .tmtWrite 0 256 (.ok, []), .tmtWriteImm 64 0 (.ok, []), .tmtWriteImm 0 256 (.ok, []), .tmtRead 64 0 (.ok, []), .tmtRead 0 256 (.ok, []), .tmtFlush 64 0 (.ok, []), .tmtFlush 0 256 (.ok, []), .tmtFetchAdd 64 0 (.ok, []), .tmtFetchAdd 0 256 (.ok, []), .packetSend 65536 (.ok, []) 0, .writePacket 2, .writeImmPacket 2] : List Instr).all (fun i => !i.wellFormed) = true := by decide +kernel
theorem test_illFormed_14 : ([.readReq 2 0 (.ok, []), .readReq 0 65536 (.ok, []), .readResp 2 0, .flushPacket 2, .fetchAddPacket 2 0, .fetchAddPacket 0 65536, .faResp 2, .ack 2 0, .ackDelayExpiry 65536, .retransmissionTimeout 65536 0, .rnrResend 65536 0 0, .targetCompletion 65536, .flushDone 65536, .senderCompletion 65536, .openConn 2 0, .bindConn 2, .probeSend 65536 0, .probeTimeout 65536, .close 2, .closeTimeout 65536, .contextFetch 65536 (.ok, []), .mrReg 2, .mrRevoke 2, .tmtqCreate 321 .ok 0 0 none 0 0 0 0, .tmtqCreate 0 .ok 0 2 none 0 0 0 0, .tmtqCreate 0 .ok 0 0 (some 8) 0 0 0 0, .tmtqDestroy 321 0 0, .tmtqDestroy 0 0 256, .keyAlloc 321, .keyLoad 321 0 0, .keyLoad 0 0 (2 ^ 64), .keyErase 321 0, .keyFree 321 0, .cbcEncrypt 64 0 (.ok, []) (.ok, []) (.ok, []) 0, .cbcEncrypt 0 256 (.ok, []) (.ok, []) (.ok, []) 0, .cbcDecrypt 64 0 (.ok, []) (.ok, []) (.ok, []) 0, .cbcDecrypt 0 256 (.ok, []) (.ok, []) (.ok, []) 0, .ctrEncrypt 64 0 (.ok, []) (.ok, []) (.ok, []) 0, .ctrEncrypt 0 256 (.ok, []) (.ok, []) (.ok, []) 0, .ctrDecrypt 64 0 (.ok, []) (.ok, []) (.ok, []) 0] : List Instr).all (fun i => !i.wellFormed) = true := by decide +kernel
theorem test_illFormed_15 : ([.ctrDecrypt 0 256 (.ok, []) (.ok, []) (.ok, []) 0, .cfb128Encrypt 64 0 (.ok, []) (.ok, []) (.ok, []) 0, .cfb128Encrypt 0 256 (.ok, []) (.ok, []) (.ok, []) 0, .cfb128Decrypt 64 0 (.ok, []) (.ok, []) (.ok, []) 0, .cfb128Decrypt 0 256 (.ok, []) (.ok, []) (.ok, []) 0, .ofbEncrypt 64 0 (.ok, []) (.ok, []) (.ok, []) 0, .ofbEncrypt 0 256 (.ok, []) (.ok, []) (.ok, []) 0, .ofbDecrypt 64 0 (.ok, []) (.ok, []) (.ok, []) 0, .ofbDecrypt 0 256 (.ok, []) (.ok, []) (.ok, []) 0, .gcmEncrypt 64 0 (.ok, []) (.ok, []) (.ok, []) 0, .gcmEncrypt 0 256 (.ok, []) (.ok, []) (.ok, []) 0, .gcmDecrypt 64 0 (.ok, []) (.ok, []) (.ok, []) 0, .gcmDecrypt 0 256 (.ok, []) (.ok, []) (.ok, []) 0, .cmac 64 0 (.ok, []) (.ok, []) (.ok, []) 0, .cmac 0 256 (.ok, []) (.ok, []) (.ok, []) 0, .vrnProtect 321 0 false, .vrnProtect 0 (2 ^ 32) false, .vrnStep 321, .adopt 321 0 0, .adopt 0 64 0, .pull 321 0, .pull 0 64, .persist 321 0 0, .persist 0 64 0, .vrnPersistSet 321 .ok 0 0 0 0, .vrnDrain 321, .jobCreate 321 .ok 0 0 0 0 0, .jobCreate 0 .ok 0 64 0 0 0, .jobCreate 0 .ok 0 0 8 0 0, .jobCreate 0 .ok 0 0 0 0 (2 ^ 32), .jobJoin 321 .ok 0 0 0 0 0 0 0 0 none [], .jobJoin 0 .ok 0 64 0 0 0 0 0 0 none [], .jobJoin 0 .ok 0 0 8 0 0 0 0 0 none [], .jobJoin 0 .ok 0 0 0 0 (2 ^ 32) 0 0 0 none [], .jobLeave 321 0 false, .jobDeputy 321 none false none, .jobStep 321 0, .jobDissolve 321, .mailboxCommit .atelier 321 0, .mailboxCommit .atelier 0 (2 ^ 32)] : List Instr).all (fun i => !i.wellFormed) = true := by decide +kernel
theorem test_illFormed_16 : ([.noticeLoad 321, .noticeAck .atelier 321 0, .noticeAck .atelier 0 (2 ^ 32), .hostHeartbeat .atelier 10 0, .hostHeartbeat .atelier 0 16, .mbxBind 321 0 0 0 0, .mbxBind 0 10 0 0 0, .mbxBind 0 0 32 0 0, .diagRead 321 0, .deviceResetCommand 321, .fwRestart 321, .progLoad 321 .ok 0 0 0 0 0 0 [], .progLoad 0 .ok (2 ^ 64) 0 0 0 0 0 [], .progFree 321 0, .progFree 0 (2 ^ 32), .netMode 321 0 .ok 0, .netMode 0 2 .ok 0, .netMode 0 0 .ok (2 ^ 32), .netAddr 321 0 0 .ok 0 0 [], .netAddr 0 2 0 .ok 0 0 [], .netAddr 0 0 8 .ok 0 0 [], .netProfile 321 0 0 .ok [], .netProfile 0 2 0 .ok [], .netProfile 0 0 8 .ok [], .netRule 321 0 .ok [], .netRule 0 2 .ok [], .netSched 321 0 0 .ok [], .netSched 0 2 0 .ok [], .netSched 0 0 8 .ok [], .pmuAlloc 321 0 0 0, .pmuAlloc 0 20 0 0, .pmuFree 321 0, .pmuUser 321 false, .pmuCounterLoad 0 false (2 ^ 32) 0, .pmuWindowEnd 20, .dumpCreate 321 0 0 (.ok, []), .dumpCreate 0 64 0 (.ok, []), .dumpCreate 0 0 (2 ^ 64) (.ok, []), .dumpDestroy 321 0, .dumpDestroy 0 16] : List Instr).all (fun i => !i.wellFormed) = true := by decide +kernel
theorem test_illFormed_17 : ([.dumpSnapshot 16 (.ok, []), .timeSet 321 0 0 0, .timeStep 321 0 0, .timeAdj 321 0, .timeSource 321 0 0 0, .timeSource 0 0 8 0, .calSet 321 0 0, .lifRead 321 0, .lifRead 0 512, .lifFlush 321 false, .fuseDbgDisable 321 0 none, .fuseDbgDisable 0 (2 ^ 32) none, .fuseInjDisable 321 0 none, .fuseInjDisable 0 (2 ^ 32) none, .fuseSecver 321 0 0 none, .fuseSecver 0 (2 ^ 32) 0 none, .anchorWrite 321 0 0 (.ok, []) none, .anchorWrite 0 (2 ^ 32) 0 (.ok, []) none, .anchorRevoke 321 0 0 none, .anchorRevoke 0 (2 ^ 32) 0 none, .dbgClose 321, .dapRead (2 ^ 64), .dapWrite (2 ^ 64) 0, .dapWrite 0 (2 ^ 32), .injPermit 321 0 false, .injPermit 0 64 false, .injArm 321 0 (.ok, []), .injArm 0 64 (.ok, []), .injDisarm 321 0 0, .injDisarm 0 0 64, .injQuery 321 0, .idRead 321 0, .idRead 0 20, .refclkLoss false 8, .refclkReturn false 8, .perstNRelease 8, .illegalEncoding (at4 3840), .flrDrainEnd 8, .nsCreate 0 .ok 3 0 0 0 0 0 0 0 [], .nsCreate 0 .ok 0 0 0 0 0 0 0 0 []] : List Instr).all (fun i => !i.wellFormed) = true := by decide +kernel
theorem test_illFormed_18 : ([.shaperRefill 0 [0], .idRead 0 20, .thermalSensorSample [0] [] 0 0, .thermalSensorSample (List.replicate 20 0) [0] 0 0] : List Instr).all (fun i => !i.wellFormed) = true := by decide +kernel

/-! ### Single steps -/

theorem test_idle : State.reset.pending = [] := by decide

/-- The state after the front command of a queue. -/
def stepped (c : Instr) (s : State) : State := match step { s with pending := [c] } with | .next t => t | _ => s

-- R106, R136: g1 + g1 with the carry lost; g2 = 70 shifts by 6; an arithmetic shift keeps the sign; a write to g0 is discarded
theorem test_add_wraps : ((stepped (.add (at4 7) 9 3 8) (core 7)).br 7).g 9 = 0 := by decide +kernel
theorem test_sll_takes_six_bits : ((stepped (.sll (at4 7) 9 8 2) (core 7)).br 7).g 9 = 128 := by decide +kernel
theorem test_sra_keeps_the_sign : ((stepped (.sra (at4 7) 9 3 8) (core 7)).br 7).g 9 = 0xFFFFFFFFFFFFFFFF := by decide +kernel
theorem test_srl_fills_zero : ((stepped (.srl (at4 7) 9 3 8) (core 7)).br 7).g 9 = 0x3FFFFFFFFFFFFFFF := by decide +kernel
theorem test_slt_is_signed : ((stepped (.slt (at4 7) 9 3 8) (core 7)).br 7).g 9 = 1 := by decide +kernel
theorem test_sltu_is_unsigned : ((stepped (.sltu (at4 7) 9 3 8) (core 7)).br 7).g 9 = 0 := by decide +kernel
theorem test_g0_stays_zero : ((stepped (.add (at4 7) 0 3 8) (core 7)).br 7).g 0 = 0 := by decide +kernel
theorem test_pc_advances : ((stepped (.add (at4 7) 9 3 8) (core 7)).br 7).pc = 0x104 := by decide +kernel
theorem test_step_takes_the_command : (stepped (.add (at4 7) 9 3 8) (core 7)).pending = [] := by decide +kernel

/-! ### Hypotheses of the general statements, met at boundary values -/

theorem test_meets_IdleStepChangesNothing : ∃ s : State, s.pending = [] := ⟨State.reset, by decide⟩
theorem test_meets_StagingSramHasItsAddresses_0 : ∃ n b : Nat, n < 4 ∧ b < 0x06000000 := ⟨3, 0x05FFFFFF, by decide, by decide⟩
theorem test_meets_StagingSramHasItsAddresses_1 : ∃ n b : Nat, n < 4 ∧ 0x06000000 ≤ b ∧ b ≤ 0x07FFFFFF := ⟨3, 0x06000000, by decide, by decide, by decide⟩
theorem test_meets_SramAddressesAreUnique_0 : ∃ a b o : Nat, space a = .sram b o := ⟨0x010000000000 + 9 * 0x10000000 + 23 * 0x00400000 + 15 * 0x00040000 + 0x3FFFF, 3839, 0x3FFFF, by decide +kernel⟩
theorem test_meets_SramAddressesAreUnique_1 : ∃ a n o : Nat, space a = .staging n o := ⟨0x020000000000 + 3 * 0x08000000 + 0x05FFFFFF, 3, 0x05FFFFFF, by decide +kernel⟩
theorem test_meets_SramAddressesAreUnique_2 : ∃ a : Nat, space a = .stack := ⟨0x009FFFFFFFFF, by decide +kernel⟩
/-- Bristle 7 with its traps on, or in the handler. -/
def trapSt (en : Nat) (h : Bool) : State := (((core 7).fset BRS_CTL_TRAP_EN en 7).rset BRS_TMASK 0xFFFFFFFF 7).setBr 7 { bris 7 with inHandler := h }
theorem test_meets_TrapIsHandledOrFatal_0 : ∃ (s : State) (b n epc eval : Nat), b < 3840 ∧ n < 32 ∧ epc < 2 ^ 18 ∧ eval < 2 ^ 48 ∧
    s.fget BRS_CTL_TRAP_EN b = 1 ∧ bit (s.rget BRS_TMASK b) n = true ∧ (s.br b).inHandler = false :=
  ⟨trapSt 1 false, 7, 31, 2 ^ 18 - 1, 2 ^ 48 - 1, by decide, by decide, by decide, by decide, by decide +kernel, by decide +kernel, by decide +kernel⟩
theorem test_meets_TrapIsHandledOrFatal_1 : ∃ (s : State) (b n epc eval : Nat), b < 3840 ∧ n < 32 ∧ epc < 2 ^ 18 ∧ eval < 2 ^ 48 ∧
    ¬(s.fget BRS_CTL_TRAP_EN b = 1 ∧ bit (s.rget BRS_TMASK b) n = true ∧ (s.br b).inHandler = false) :=
  ⟨trapSt 1 true, 7, 31, 2 ^ 18 - 1, 2 ^ 48 - 1, by decide, by decide, by decide, by decide, by decide +kernel⟩
theorem test_meets_WindowFollowsThePseudocode_0 : ∃ (x : Conn) (ece psn : Nat), ece ≠ 0 ∧ 0 ≤ psnDiff psn x.cut := ⟨cn, 1, 0, by decide, by decide +kernel⟩
theorem test_meets_WindowFollowsThePseudocode_1 : ∃ (x : Conn) (ece psn : Nat), ece ≠ 0 ∧ psnDiff psn x.cut < 0 := ⟨{ cn with cut := 1 }, 1, 0, by decide, by decide +kernel⟩
theorem test_meets_WindowFollowsThePseudocode_4 : ∃ (x : Conn) (psn : Nat), 0 ≤ psnDiff psn x.cut := ⟨cn, 0, by decide +kernel⟩
theorem test_meets_WindowFollowsThePseudocode_5 : ∃ (x : Conn) (psn : Nat), psnDiff psn x.cut < 0 := ⟨{ cn with cut := 1 }, 0, by decide +kernel⟩
theorem test_meets_WindowStaysInItsBounds : ∃ (x : Conn) (ece psn psn2 : Nat), 512 ≤ x.cwnd ∧ x.cwnd ≤ 1048576 ∧ ece = 0 ∧ 0 ≤ psnDiff psn x.cut ∧
    psnDiff psn2 x.nextPsn < 0 := ⟨{ cn with cwnd := 1048576 }, 0, 0, 4, by decide, by decide, rfl, by decide +kernel, by decide +kernel⟩
theorem test_meets_BusWritesStoreTheirBytesAlone : ∃ (s : State) (a j n : Nat) (bs : List Byte), isMemory a bs.length = true ∧ s.ecc = [] ∧
    s.stk.bursts = [] ∧ (∀ k, s.pcFailed k = false) ∧ s.memOk ∧ j + n ≤ a :=
  ⟨calm, 0x1003, 0x1002, 1, [1, 2, 3], by decide +kernel, rfl, rfl, calm_pcFailed rfl, rfl, by decide⟩
theorem test_meets_EveryStepTakesOneCommandAndUnblowsNoFuse : ∃ (f : Fuses) (s t : State), f.within s.dbg.fuses ∧ step s = .next t :=
  ⟨State.reset.dbg.fuses, { base with pending := [.keyAlloc 16] }, go (.keyAlloc 16) base, ⟨id, id, Nat.le_refl _, rfl, rfl, rfl, rfl, rfl⟩, rfl⟩
theorem test_meets_OnlyFuseProgramBlowsFuses : ∃ (s t : State) (c : Instr), exec c s = .next t ∧ (∀ ch key fails, c ≠ .fuseDbgDisable ch key fails ∧
    c ≠ .fuseInjDisable ch key fails) ∧ (∀ ch key n fails, c ≠ .fuseSecver ch key n fails ∧ c ≠ .anchorRevoke ch key n fails) ∧
    (∀ ch key n got fails, c ≠ .anchorWrite ch key n got fails) :=
  ⟨base, go (.keyAlloc 16) base, .keyAlloc 16, rfl, fun _ _ _ => ⟨nofun, nofun⟩, fun _ _ _ _ => ⟨nofun, nofun⟩, fun _ _ _ _ _ => nofun⟩
theorem test_meets_SteeringIsOneToOne_0 : ∃ l x : Nat, l ≤ 31 ∧ x < 0xA000000000 ∧ x / 0x500000000 < l := ⟨31, 0x9AFFFFFFFF, by decide, by decide, by decide⟩
theorem test_meets_SteeringIsOneToOne_1 : ∃ l x : Nat, l ≤ 31 ∧ x < 0xA000000000 ∧ l ≤ x / 0x500000000 := ⟨31, 0x9FFFFFFFFF, by decide, by decide, by decide⟩
theorem test_meets_SteeringIsOneToOne_4 : ∃ l x y : Nat, l ≤ 31 ∧ x < 0xA000000000 ∧ y < 0xA000000000 ∧ steer l y = steer l x := ⟨31, 0x9FFFFFFFFF, 0x9FFFFFFFFF, by decide, by decide, by decide, rfl⟩
theorem test_meets_BurstPlacesAreUnique : ∃ a b : Nat, a < 2 ^ 35 ∧ b < 2 ^ 35 ∧ rowOf a = rowOf b ∧ bankOf a = bankOf b ∧ pcOf a = pcOf b ∧
    getBits a 14 13 * 8 + getBits a 7 5 = getBits b 14 13 * 8 + getBits b 7 5 ∧ a % 32 = b % 32 :=
  ⟨2 ^ 35 - 1, 2 ^ 35 - 1, by decide, by decide, rfl, rfl, rfl, rfl, rfl⟩
theorem test_meets_ReturnStackIsARing_0 : ∃ (br : Bristle) (l : List Nat), br.rsPtr < 16 ∧ l.length ≤ 16 := ⟨bris 7, List.range 16, by decide +kernel, by decide⟩
theorem test_meets_ReturnStackIsARing_1 : ∃ (br : Bristle) (l : List Nat), br.rsPtr < 16 ∧ l.length = 15 := ⟨bris 7, List.range 15, by decide +kernel, by decide⟩
theorem test_meets_ReturnStackIsARing_2 : ∃ (br br' : Bristle) (ra : Nat), br.rsDepth ≤ 16 ∧ (br.push false ra = some br' ∨ br.push true ra = some br') :=
  ⟨bris 7, ((bris 7).push false 5).getD (bris 7), 5, by decide +kernel, Or.inl (by decide +kernel)⟩

theorem test_meets_RegisterWritesFollowTheAccessTypes_0_0 : ∃ (s : State), ∃ (who : Requester), ∃ (addr val w : Nat), ∃ (l : CtlLoc), ∃ (r : Reg), ∃ (ix : List Nat), addr % 4 = 0 ∧ ctlLoc addr = some l ∧ regAt l.blk l.inst l.off = some (r, ix) ∧ ordinaryReg l r ∧ s.awake l.blk l.inst ∧ s.ctlErr who addr 4 true = none ∧ (∀ n, w.testBit n = bitAfterWrite r (s.locked l.blk l.inst) (s.rget r l.inst (ixAt ix 0) (ixAt ix 1) (ixAt ix 2)) val n) ∧ (∀ x ∈ fieldRanges, x.1.reg = r → x.2 (getBits w x.1.hi x.1.lo) = true) :=
  ⟨up, .atelier, SYN_FLAG_SEL.addr 0 0 0 0, 5, 5, locOf (SYN_FLAG_SEL.addr 0 0 0 0), SYN_FLAG_SEL, [], by decide +kernel, by decide +kernel, by decide +kernel, by unfold ordinaryReg; decide +kernel, awake_of rfl rfl rfl, by decide +kernel, bits_of _ _ _ _ _ (by decide +kernel) (by decide +kernel) (by decide +kernel) (by decide +kernel) (by decide +kernel) (by decide +kernel), by decide +kernel⟩

theorem test_meets_RegisterWritesFollowTheAccessTypes_1_0 : ∃ (s : State), ∃ (who : Requester), ∃ (addr val : Nat), ∃ (l : CtlLoc), addr % 4 = 0 ∧ ctlLoc addr = some l ∧ regAt l.blk l.inst l.off = none ∧ l.blk ≠ .mbx ∧ l.blk ≠ .mem ∧ l.blk ≠ .tmt ∧ s.awake l.blk l.inst ∧ s.ctlErr who addr 4 true = none :=
  ⟨up, .atelier, 0x030100300FFC, 1, locOf 0x030100300FFC, by decide +kernel, by decide +kernel, by decide +kernel, by decide +kernel, by decide +kernel, by decide +kernel, awake_of rfl rfl rfl, by decide +kernel⟩

theorem test_meets_RegisterWritesFollowTheAccessTypes_2_0 : ∃ (s : State), ∃ (sl addr val : Nat), ∃ (l : CtlLoc), s.pw.devReset = false ∧ addr % 4 = 0 ∧ ctlLoc addr = some l ∧ (ctlLoc (addr + 3)).isSome = true ∧ s.ctlGranted sl addr true = false :=
  ⟨up, 3, 0x030000000000, 1, locOf 0x030000000000, by decide +kernel, by decide +kernel, by decide +kernel, by decide +kernel, by decide +kernel⟩

theorem test_meets_RegisterWritesFollowTheAccessTypes_3_0 : ∃ (s : State), ∃ (addr val : Nat), ∃ (l : CtlLoc), ∃ (d : Domain), s.pw.devReset = false ∧ addr % 4 = 0 ∧ val < 2 ^ 32 ∧ ctlLoc addr = some l ∧ (ctlLoc (addr + 3)).isSome = true ∧ domainOf l.blk l.inst = some d ∧ s.isGated d = true :=
  ⟨(up.setPw { up.pw with gated := [.palette 0] }), SYN_FLAG_SEL.addr 0 0 0 0, 5, locOf (SYN_FLAG_SEL.addr 0 0 0 0), .palette 0, by decide +kernel, by decide +kernel, by decide +kernel, by decide +kernel, by decide +kernel, by decide +kernel, by decide +kernel⟩

theorem test_meets_RegisterWritesFollowTheAccessTypes_4_0 : ∃ (s : State), ∃ (addr : Nat), ∃ (l : CtlLoc), ∃ (f : Fld), addr % 4 = 0 ∧ ctlLoc addr = some l ∧ lockFld l.blk = some f ∧ regAt l.blk l.inst l.off = some (f.reg, []) ∧ l.off = f.reg.off ∧ s.awake l.blk l.inst :=
  ⟨up, HRC_LOCK.addr 0 0 0 0, locOf (HRC_LOCK.addr 0 0 0 0), HRC_LOCK_LOCK, by decide +kernel, by decide +kernel, by decide +kernel, by decide +kernel, by decide +kernel, awake_of rfl rfl rfl⟩

theorem test_meets_ReadsLatchAndDomainsWake_0_0 : ∃ (s : State), ∃ (addr : Nat), ∃ (l : CtlLoc), ∃ (w : Word32), addr % 4 = 0 ∧ ctlLoc addr = some l ∧ ctlLoc (addr + 3) = some { l with off := l.off + 3 } ∧ l.blk ≠ .mbx ∧ s.awake l.blk l.inst ∧ smGet s.latch addr = some w :=
  ⟨{ up with latch := [(0x030100300FFC, 7)] }, 0x030100300FFC, locOf 0x030100300FFC, 7, by decide +kernel, by decide +kernel, by decide +kernel, by decide +kernel, awake_of rfl rfl rfl, by decide +kernel⟩

theorem test_meets_ReadsLatchAndDomainsWake_1_0 : ∃ (s : State), ∃ (addr : Nat), ∃ (l : CtlLoc), addr % 4 = 0 ∧ ctlLoc addr = some l ∧ ctlLoc (addr + 3) = some { l with off := l.off + 3 } ∧ l.blk ≠ .mbx ∧ s.awake l.blk l.inst ∧ smGet s.latch addr = none ∧ s.holdOpen addr = false :=
  ⟨up, LIF_CAL_LO.addr 0 0 0 0, locOf (LIF_CAL_LO.addr 0 0 0 0), by decide +kernel, by decide +kernel, by decide +kernel, by decide +kernel, awake_of rfl rfl rfl, by decide +kernel, by decide +kernel⟩

theorem test_meets_ReadsLatchAndDomainsWake_2_0 : ∃ (s : State), ∃ (d : Domain), s.pw.devReset = false ∧ s.pw.waiting = [] ∧ s.fget GSO_MSTATE_STATE ≠ 1 ∧ s.fget GSO_MSTATE_STATE ≠ 2 ∧ s.isGated d = true :=
  ⟨(up.setPw { up.pw with gated := [.palette 9] }), .palette 9, by decide +kernel, by decide +kernel, by decide +kernel, by decide +kernel, by decide +kernel⟩

theorem test_meets_ReadsLatchAndDomainsWake_3_0 : ∃ (s : State), ∃ (d : Domain), s.pw.devReset = false ∧ s.pw.waiting = [] ∧ s.isGated d = false ∧ (∀ p c, d = .cluster p c → s.isGated (.palette p) = false) ∧ (∀ m, d = .stack m → s.isGated (.palette (m / 2)) = false) :=
  ⟨up, .palette 9, by decide +kernel, by decide +kernel, by decide +kernel, fun p c h => by simp at h, fun m h => by simp at h⟩

theorem test_meets_LinksPortsAndClocks_0_0 : ∃ (s : State), ∃ (l sl : Nat), l ≤ 24 ∧ l ∉ s.fab.down ∧ s.pw.devReset = false ∧ (∀ i, s.fon INJ_ARM_ARMED 0 i = false) :=
  ⟨State.reset.setPw { Power.reset with devReset := false }, 24, 64, by decide +kernel, by decide +kernel, by decide +kernel, fun i => by simp [State.fon, State.fget, State.rget, State.reset, State.setPw, smGet, Reg.resetAt, INJ_ARM_ARMED, INJ_ARM, getBits]⟩

theorem test_meets_LinksPortsAndClocks_1_0 : ∃ (s : State), ∃ (l : Nat), ∃ (recs ciphers : List Nat), ∃ (chans loads : List (Nat × Nat)), ∃ (flags contribs : List Nat), l ≤ 24 ∧ l ∉ s.fab.down ∧ s.pw.devReset = false ∧ (∀ c, c < 8 → (s.ctl c).en = false) :=
  ⟨up, 24, [], [], [(3, 1)], [], [], [], by decide +kernel, by decide +kernel, by decide +kernel, by decide +kernel⟩

theorem test_meets_LinksPortsAndClocks_2_0 : ∃ (s : State), ∃ (p c : Nat), p ≤ 9 ∧ 4 ≤ c ∧ c ≤ 16 ∧ s.pw.devReset = false ∧ smGetD s.pw.clk p 16 = min c (s.fget GSO_CLK_CAP_CAP) :=
  ⟨up, 9, 16, by decide +kernel, by decide +kernel, by decide +kernel, by decide +kernel, by decide +kernel⟩

theorem test_meets_LinksPortsAndClocks_3_0 : ∃ (s : State), ∃ (p c : Nat), p ≤ 9 ∧ 4 ≤ c ∧ c ≤ 16 ∧ s.pw.devReset = false ∧ smGetD s.pw.clk p 16 ≠ min c (s.fget GSO_CLK_CAP_CAP) ∧ (∀ b, s.brRuns b = false) :=
  ⟨State.reset.setPw { Power.reset with devReset := false }, 9, 4, by decide +kernel, by decide +kernel, by decide +kernel, by decide +kernel, by decide +kernel, fun b => by simp [State.brRuns, State.brState, State.fget, State.rget, State.reset, State.setPw, smGet, Reg.resetAt, BRS_STATUS_STATE, BRS_STATUS, getBits]⟩

theorem test_meets_LinksPortsAndClocks_4_0 : ∃ (s : State), ∃ (p : Nat), ∃ (perst : Bool), p ≤ 7 ∧ s.pw.devReset = false :=
  ⟨up, 7, true, by decide +kernel, by decide +kernel⟩

theorem test_meets_LinksPortsAndClocks_5_0 : ∃ (s : State), ∃ (p : Nat), p ≤ 7 ∧ (s.port p).up = true :=
  ⟨(up.setPort 7 { PortX.init with up := true }), 7, by decide +kernel, by decide +kernel⟩

theorem test_meets_LinksPortsAndClocks_5_1 : ∃ (s : State), ∃ (p : Nat), p ≤ 7 ∧ (s.port p).up = true ∧ s.bootState ≠ 7 ∧ s.bootState ≠ 8 :=
  ⟨(up.setPort 7 { PortX.init with up := true }), 7, by decide +kernel, by decide +kernel, by decide +kernel, by decide +kernel⟩

theorem test_meets_LinksPortsAndClocks_6_0 : ∃ (s : State), ∃ (p : Nat), p ≤ 7 ∧ s.flrDrained p = true :=
  ⟨(up.setPort 7 { PortX.init with flr := some 0 }), 7, by decide +kernel, by decide +kernel⟩

theorem test_meets_LinksPortsAndClocks_8_0 : ∃ (s : State), ∃ (k : Nat), k ≤ 7 ∧ k ∉ s.pw.refLost ∧ s.pw.devReset = false :=
  ⟨up, 7, by decide +kernel, by decide +kernel, by decide +kernel⟩

theorem test_meets_LinksPortsAndClocks_9_0 : ∃ (s : State), ∃ (k : Nat), k ≤ 1 ∧ 8 + k ∉ s.pw.refLost ∧ s.pw.devReset = false ∧ (∀ j, s.linkUp k j = false) :=
  ⟨State.reset.setPw { Power.reset with devReset := false }, 1, by decide +kernel, by decide +kernel, by decide +kernel, fun j => by simp [State.linkUp, State.fon, State.fget, State.rget, State.reset, State.setPw, smGet, Reg.resetAt, getBits, PKT_PORT_STATUS_UP, PKT_PORT_STATUS]⟩

theorem test_meets_InputStatesFollowTheSamples_0_0a : ∃ (s : State), ∃ (vin iin : Nat), s.pw.lockout = false ∧ vin < 4096 ∧ iin < 65536 ∧ s.pw.powerUp = false ∧ s.pw.swClosed = true :=
  ⟨up.fset GSO_PWR_STATUS_VIN_STATE 0, 2100, 100, by decide +kernel, by decide +kernel, by decide +kernel, by decide +kernel, by decide +kernel⟩

theorem test_meets_InputStatesFollowTheSamples_0_0b : ∃ (s : State), ∃ (vin iin : Nat), s.pw.lockout = false ∧ vin < 4096 ∧ iin < 65536 ∧ s.pw.powerUp = false ∧ s.pw.swClosed = true :=
  ⟨up.fset GSO_PWR_STATUS_VIN_STATE 0, 2099, 100, by decide +kernel, by decide +kernel, by decide +kernel, by decide +kernel, by decide +kernel⟩

theorem test_meets_InputStatesFollowTheSamples_0_0c : ∃ (s : State), ∃ (vin iin : Nat), s.pw.lockout = false ∧ vin < 4096 ∧ iin < 65536 ∧ s.pw.powerUp = false ∧ s.pw.swClosed = true :=
  ⟨up.fset GSO_PWR_STATUS_VIN_STATE 1, 1899, 100, by decide +kernel, by decide +kernel, by decide +kernel, by decide +kernel, by decide +kernel⟩

theorem test_meets_InputStatesFollowTheSamples_0_0d : ∃ (s : State), ∃ (vin iin : Nat), s.pw.lockout = false ∧ vin < 4096 ∧ iin < 65536 ∧ s.pw.powerUp = false ∧ s.pw.swClosed = true :=
  ⟨(up.fset GSO_PWR_STATUS_VIN_STATE 1).setPw { up.pw with dwell := 4 }, 2150, 100, by decide +kernel, by decide +kernel, by decide +kernel, by decide +kernel, by decide +kernel⟩

theorem test_meets_InputStatesFollowTheSamples_1_0 : ∃ (s : State), s.pw.lockout = false ∧ 1000 ≤ s.pw.dwell ∧ s.pw.powerUp = false ∧ s.fget GSO_PWR_STATUS_VIN_STATE = 1 :=
  ⟨(up.fset GSO_PWR_STATUS_VIN_STATE 1).setPw { up.pw with dwell := 1000 }, by decide +kernel, by decide +kernel, by decide +kernel, by decide +kernel⟩

theorem test_meets_InputStatesFollowTheSamples_2_0 : ∃ (s : State), s.pw.lockout = false ∧ 1000 ≤ s.pw.dwell ∧ s.pw.powerUp = true ∧ s.pw.modResetN = true ∧ s.pw.swClosed = true :=
  ⟨up.setPw { up.pw with dwell := 1000, powerUp := true }, by decide +kernel, by decide +kernel, by decide +kernel, by decide +kernel, by decide +kernel⟩

theorem test_meets_InputStatesFollowTheSamples_3_0 : ∃ (s : State), s.pw.lockout = false ∧ 10 ≤ s.pw.iinHigh :=
  ⟨up.setPw { up.pw with iinHigh := 10 }, by decide +kernel, by decide +kernel⟩

theorem test_meets_InputStatesFollowTheSamples_4_0 : ∃ (s : State), s.pw.lockout = false ∧ 1000 ≤ s.pw.iinLow :=
  ⟨(up.fset GSO_PWR_STATUS_OC_THROTTLE 1).setPw { up.pw with iinLow := 1000 }, by decide +kernel, by decide +kernel⟩

theorem test_meets_InputStatesFollowTheSamples_5_0 : ∃ (s : State), ∃ (c : Instr), s.pw.lockout = false ∧ s.pw.absorbs .other = false ∧ ((c = .currentTrip ∧ 100 ≤ s.pw.iinTrip) ∨ (c = .overvoltageTrip ∧ 3100 ≤ s.fget GSO_VIN_VIN_NOW) ∨ (c = .railFault ∧ s.pw.swClosed = true)) :=
  ⟨up.setPw { up.pw with iinTrip := 100 }, .currentTrip, by decide +kernel, by decide +kernel, by decide +kernel⟩

theorem test_meets_InputStatesFollowTheSamples_5_0b : ∃ (s : State), ∃ (c : Instr), s.pw.lockout = false ∧ s.pw.absorbs .other = false ∧ ((c = .currentTrip ∧ 100 ≤ s.pw.iinTrip) ∨ (c = .overvoltageTrip ∧ 3100 ≤ s.fget GSO_VIN_VIN_NOW) ∨ (c = .railFault ∧ s.pw.swClosed = true)) :=
  ⟨up.fset GSO_VIN_VIN_NOW 3100, .overvoltageTrip, by decide +kernel, by decide +kernel, by decide +kernel⟩

theorem test_meets_InputStatesFollowTheSamples_5_0c : ∃ (s : State), ∃ (c : Instr), s.pw.lockout = false ∧ s.pw.absorbs .other = false ∧ ((c = .currentTrip ∧ 100 ≤ s.pw.iinTrip) ∨ (c = .overvoltageTrip ∧ 3100 ≤ s.fget GSO_VIN_VIN_NOW) ∨ (c = .railFault ∧ s.pw.swClosed = true)) :=
  ⟨up, .railFault, by decide +kernel, by decide +kernel, by decide +kernel⟩

theorem test_meets_InputStatesFollowTheSamples_6_0 : ∃ (s : State), s.fget GSO_VIN_VIN_NOW < 1500 :=
  ⟨up.fset GSO_VIN_VIN_NOW 1499, by decide +kernel⟩

theorem test_meets_InputStatesFollowTheSamples_7_0 : ∃ (s : State), ∃ (vin : Nat), s.pw.lockout = true ∧ 1600 ≤ vin :=
  ⟨go .gessoLockout up, 1600, by decide +kernel, by decide +kernel⟩

theorem test_meets_HeatAndPinsActAtOnce_0_0 : ∃ (s : State), ∃ (k temp : Nat), s.pw.lockout = false ∧ k ≤ 40 ∧ s.fget GSO_THERM_STATUS_THERM_STATE < thermLevel k temp ∧ thermLevel k temp < 3 ∧ (∀ q ∈ s.pw.temps, q.1 ≠ k → thermLevel q.1 q.2 ≤ thermLevel k temp) :=
  ⟨up, 0, 96, by decide +kernel, by decide +kernel, by decide +kernel, by decide +kernel, by decide +kernel⟩

theorem test_meets_HeatAndPinsActAtOnce_0_0b : ∃ (s : State), ∃ (k temp : Nat), s.pw.lockout = false ∧ k ≤ 40 ∧ s.fget GSO_THERM_STATUS_THERM_STATE < thermLevel k temp ∧ thermLevel k temp < 3 ∧ (∀ q ∈ s.pw.temps, q.1 ≠ k → thermLevel q.1 q.2 ≤ thermLevel k temp) :=
  ⟨up, 0, 106, by decide +kernel, by decide +kernel, by decide +kernel, by decide +kernel, by decide +kernel⟩

theorem test_meets_HeatAndPinsActAtOnce_1_0 : ∃ (s : State), ∃ (k temp : Nat), s.pw.lockout = false ∧ k ≤ 40 ∧ s.pw.absorbs .thermalTrip = false ∧ s.fget GSO_THERM_STATUS_THERM_STATE < 3 ∧ thermLevel k temp = 3 :=
  ⟨up, 0, 130, by decide +kernel, by decide +kernel, by decide +kernel, by decide +kernel, by decide +kernel⟩

theorem test_meets_HeatAndPinsActAtOnce_2_0 : ∃ (s : State), ∃ (k temp : Nat), s.pw.lockout = false ∧ k ≤ 40 ∧ thermLevel k temp ≤ s.fget GSO_THERM_STATUS_THERM_STATE ∧ (∀ q ∈ s.pw.temps, q.1 ≠ k → thermLevel q.1 q.2 ≤ s.fget GSO_THERM_STATUS_THERM_STATE) :=
  ⟨up, 0, 40, by decide +kernel, by decide +kernel, by decide +kernel, by decide +kernel⟩

theorem test_meets_HeatAndPinsActAtOnce_3_0 : ∃ (s : State), s.pw.lockout = false ∧ 1000 ≤ s.pw.thermCalm ∧ s.fget GSO_THERM_STATUS_THERM_STATE = 1 ∧ s.allBelow 1 5 = true :=
  ⟨(up.fset GSO_THERM_STATUS_THERM_STATE 1).setPw { up.pw with thermCalm := 1000 }, by decide +kernel, by decide +kernel, by decide +kernel, by decide +kernel⟩

theorem test_meets_HeatAndPinsActAtOnce_4_0 : ∃ (s : State), s.pw.lockout = false ∧ 1000 ≤ s.pw.thermCalm ∧ s.fget GSO_THERM_STATUS_THERM_STATE = 2 ∧ s.allBelow 2 5 = true ∧ s.pw.coolantFaultN = true :=
  ⟨(up.fset GSO_THERM_STATUS_THERM_STATE 2).setPw { up.pw with thermCalm := 1000 }, by decide +kernel, by decide +kernel, by decide +kernel, by decide +kernel, by decide +kernel⟩

theorem test_meets_HeatAndPinsActAtOnce_5_0 : ∃ (s : State), s.pw.lockout = false ∧ s.fget GSO_THERM_STATUS_THERM_STATE < 2 :=
  ⟨up, by decide +kernel, by decide +kernel⟩

theorem test_meets_HeatAndPinsActAtOnce_6_0 : ∃ (s : State), s.pw.lockout = false :=
  ⟨up, by decide +kernel⟩

theorem test_meets_HeatAndPinsActAtOnce_7_0 : ∃ (s : State), ∃ (dies mems : List Nat), ∃ (inlet outlet : Nat), s.pw.lockout = false ∧ (∀ d ∈ dies, d < 95) ∧ (∀ m ∈ mems, m < 85) ∧ inlet < 46 ∧ dies.length = 20 ∧ mems.length = 20 :=
  ⟨up, List.replicate 20 94, List.replicate 20 84, 45, 60, by decide +kernel, by decide +kernel, by decide +kernel, by decide +kernel, by decide +kernel, by decide +kernel⟩

theorem test_meets_HeatAndPinsActAtOnce_8_0 : ∃ (s : State), s.pw.lockout = false ∧ s.pw.absorbs .other = false :=
  ⟨up, by decide +kernel, by decide +kernel⟩

theorem test_meets_HeatAndPinsActAtOnce_9_0 : ∃ (s : State), s.pw.lockout = false ∧ s.pw.thermTrip = false ∧ s.fget GSO_MSTATE_STATE = 3 ∧ s.pw.offTrip = false :=
  ⟨(State.reset.fset GSO_MSTATE_STATE 3), by decide +kernel, by decide +kernel, by decide +kernel, by decide +kernel⟩

theorem test_meets_HeatAndPinsActAtOnce_10_0 : ∃ (s : State), s.pw.lockout = false ∧ s.pw.pwrEn = true ∧ s.pw.absorbs .modReset = false :=
  ⟨up, by decide +kernel, by decide +kernel, by decide +kernel⟩

theorem test_meets_HeatAndPinsActAtOnce_11_0 : ∃ (s : State), s.pw.lockout = false ∧ s.fget GSO_MSTATE_STATE ≠ 3 ∧ s.pw.powerUp = false ∧ s.fget GSO_PWR_STATUS_VIN_STATE < 2 ∧ s.pw.swClosed = true ∧ s.pw.devReset = true ∧ s.pw.causes = [.modReset] :=
  ⟨State.reset.fset GSO_PWR_STATUS_VIN_STATE 0 |> (fun s => (s.fset GSO_MSTATE_STATE 0).setPw { s.pw with causes := [.modReset], modResetN := false, swClosed := true }), by decide +kernel, by decide +kernel, by decide +kernel, by decide +kernel, by decide +kernel, by decide +kernel, by decide +kernel⟩

theorem test_meets_HeatAndPinsActAtOnce_12_0 : ∃ (s : State), ∃ (v : Nat), s.fon GSO_LOCK_LOCK = false ∧ 400 ≤ v ∧ v ≤ 460 :=
  ⟨up, 460, by decide +kernel, by decide +kernel, by decide +kernel⟩

theorem test_meets_HeatAndPinsActAtOnce_13_0 : ∃ (s : State), ∃ (v : Nat), s.fon GSO_LOCK_LOCK = true :=
  ⟨up.fset GSO_LOCK_LOCK 1, 430, by decide +kernel⟩

theorem test_meets_ModuleStatesGateAndWake_0_0 : ∃ (s : State), s.fget GSO_MSTATE_STATE = 0 ∧ s.fon GSO_MSTATE_CTL_M1_IDLE_US = true ∧ s.pw.devReset = false ∧ s.idle = true :=
  ⟨(up.fset GSO_MSTATE_STATE 0).fset GSO_MSTATE_CTL_M1_IDLE_US 100, by decide +kernel, by decide +kernel, by decide +kernel, by decide +kernel⟩

theorem test_meets_ModuleStatesGateAndWake_1_0 : ∃ (s : State), s.fget GSO_MSTATE_STATE = 0 ∧ s.fon GSO_MSTATE_CTL_M1_IDLE_US = true ∧ s.pw.devReset = false ∧ s.idle = false ∧ ∃ (w : Bool), True :=
  ⟨((up.fset GSO_MSTATE_STATE 0).fset GSO_MSTATE_CTL_M1_IDLE_US 100).setChan 0 0 { DmaChan.init with phase := 1 }, by decide +kernel, by decide +kernel, by decide +kernel, by decide +kernel, true, trivial⟩

theorem test_meets_ModuleStatesGateAndWake_2_0 : ∃ (s : State), s.fget GSO_MSTATE_STATE = 0 ∧ s.fon GSO_MSTATE_CTL_M1_IDLE_US = true ∧ s.pw.devReset = false ∧ s.idle = true :=
  ⟨(up.fset GSO_MSTATE_STATE 0).fset GSO_MSTATE_CTL_M1_IDLE_US 100, by decide +kernel, by decide +kernel, by decide +kernel, by decide +kernel⟩

theorem test_meets_ModuleStatesGateAndWake_3_0 : ∃ (s : State), s.fget GSO_MSTATE_STATE = 1 ∧ s.m2Blockers = 0 :=
  ⟨up.fset GSO_MSTATE_STATE 1, by decide +kernel, by decide +kernel⟩

theorem test_meets_ModuleStatesGateAndWake_4_0 : ∃ (s : State), s.fget GSO_MSTATE_STATE = 1 ∧ s.m2Blockers ≠ 0 ∧ ∃ (w : Bool), True :=
  ⟨(up.fset GSO_MSTATE_STATE 1).fset HRC_STATUS_STATE 1, by decide +kernel, by decide +kernel, true, trivial⟩

theorem test_meets_ModuleStatesGateAndWake_5_0 : ∃ (s : State), ∃ (src : WakeSource), ((s.fget GSO_MSTATE_STATE = 1 ∧ (src = .work ∨ src = .controlAccess)) ∨ (s.fget GSO_MSTATE_STATE = 2 ∧ src ≠ .work ∧ src ≠ .controlAccess)) :=
  ⟨(up.fset GSO_MSTATE_STATE 1).setPw { up.pw with gated := m1Domains }, .work, by decide +kernel⟩

theorem test_meets_ModuleStatesGateAndWake_5_0b : ∃ (s : State), ∃ (src : WakeSource), ((s.fget GSO_MSTATE_STATE = 1 ∧ (src = .work ∨ src = .controlAccess)) ∨ (s.fget GSO_MSTATE_STATE = 2 ∧ src ≠ .work ∧ src ≠ .controlAccess)) :=
  ⟨(up.fset GSO_MSTATE_STATE 2).setPw { up.pw with gated := m1Domains ++ m2Domains }, .pcie, by decide +kernel⟩

theorem test_meets_ModuleStatesGateAndWake_6_0 : ∃ (s : State), s.pw.lockout = false ∧ s.pw.pwrEn = true ∧ s.fget GSO_MSTATE_STATE = 2 :=
  ⟨(up.fset GSO_MSTATE_STATE 2).setPw { up.pw with gated := m1Domains ++ m2Domains }, by decide +kernel, by decide +kernel, by decide +kernel⟩

theorem test_meets_ModuleStatesGateAndWake_7_0 : ∃ (s : State), s.pw.lockout = false ∧ s.pw.pwrEn = true ∧ s.fget GSO_MSTATE_STATE = 3 ∧ s.pw.thermTrip = false ∧ s.pw.powerUp = false ∧ s.pw.offTrip = false :=
  ⟨(State.reset.fset GSO_MSTATE_STATE 3).setPw { Power.reset with pwrEn := true }, by decide +kernel, by decide +kernel, by decide +kernel, by decide +kernel, by decide +kernel, by decide +kernel⟩

theorem test_meets_ResetBootAndRestart_0_0 : ∃ (s : State), s.pw.modResetN = false ∧ s.pw.absorbs .other = false :=
  ⟨State.reset.setPw { Power.reset with modResetN := false, causes := [.other] }, by decide +kernel, by decide +kernel⟩

theorem test_meets_ResetBootAndRestart_1_0 : ∃ (s : State), s.pw.modResetN = true ∧ s.pw.powerUp = false ∧ s.pw.swClosed = true ∧ s.fget GSO_MSTATE_STATE ≠ 3 ∧ s.fget GSO_PWR_STATUS_VIN_STATE < 2 ∧ s.pw.absorbs .other = false :=
  ⟨((up.fset GSO_MSTATE_STATE 0).fset GSO_PWR_STATUS_VIN_STATE 0), by decide +kernel, by decide +kernel, by decide +kernel, by decide +kernel, by decide +kernel, by decide +kernel⟩

theorem test_meets_ResetBootAndRestart_2_0 : ∃ (s : State), ∃ (ch : Nat), s.secureRuns ch 2 = true :=
  ⟨msg up 0 2 [], 0, by decide +kernel⟩

theorem test_meets_ResetBootAndRestart_3_0 : ∃ (s : State), s.pw.absorbs .command = false :=
  ⟨up, by decide +kernel⟩

theorem test_meets_ResetBootAndRestart_3_1 : ∃ (s : State), s.pw.absorbs .command = false ∧ s.pw.modResetN = true :=
  ⟨up, by decide +kernel, by decide +kernel⟩

theorem test_meets_ResetBootAndRestart_3_2 : ∃ (s : State), s.pw.absorbs .command = false ∧ s.pw.modResetN = false :=
  ⟨up.setPw { up.pw with modResetN := false }, by decide +kernel, by decide +kernel⟩

theorem test_meets_ResetBootAndRestart_4_0 : ∃ (s : State), ∃ (env : BootEnv), s.pw.devReset = false ∧ s.bootState = 0 ∧ (∀ n, n ≤ 1 → headerOk s.atl.flash (slotAt n) = false) :=
  ⟨up.fset ATL_BOOT_STATUS_STATE 0, env0, by decide +kernel, by decide +kernel, by decide +kernel⟩

theorem test_meets_ResetBootAndRestart_6_0 : ∃ (s : State), ∃ (env : BootEnv), ∃ (n : Nat), ∃ (trial : Bool), ∃ (u v : State), s.pw.devReset = false ∧ s.bootState = 0 ∧ (s.loadFuses.applyPresets.bootTo 1).selectBoot.chooseImage = (some (n, trial), u) ∧ v = (u.enterImage n trial).fset ATL_UPD_STATUS_RESULT u.lastResult :=
  ⟨imgSt.fset ATL_BOOT_STATUS_STATE 0, env0, 0, false, (((imgSt.fset ATL_BOOT_STATUS_STATE 0).loadFuses.applyPresets.bootTo 1).selectBoot.chooseImage).2, (((((imgSt.fset ATL_BOOT_STATUS_STATE 0).loadFuses.applyPresets.bootTo 1).selectBoot.chooseImage).2).enterImage 0 false).fset ATL_UPD_STATUS_RESULT ((((imgSt.fset ATL_BOOT_STATUS_STATE 0).loadFuses.applyPresets.bootTo 1).selectBoot.chooseImage).2).lastResult, by decide +kernel, by decide +kernel, pair_of (by decide +kernel), rfl⟩

theorem test_meets_ResetBootAndRestart_7_0 : ∃ (s : State), ∃ (env : BootEnv), env.fabricTrains = true ∧ env.untrained = [] ∧ (∀ m, m < 20 → s.stackTrains env.pins m = true) ∧ env.failedClusters = [] ∧ s.atl.clusterMapFlash = [] ∧ env.logs = [] :=
  ⟨up.fset ATL_BOOT_STATUS_STATE 2, env0, by decide +kernel, by decide +kernel, by decide +kernel, by decide +kernel, by decide +kernel, by decide +kernel⟩

theorem test_meets_ResetBootAndRestart_8_0 : ∃ (s : State), ∃ (ch len : Nat), ∃ (env : BootEnv), s.bootState = 7 ∧ ch % 32 = 0 ∧ s.holdsMsg ch 9 [(1, len)] = true ∧ s.checkStaged = .ok ∧ len = imageLength s.mem recoveryBase ∧ s.memOk :=
  ⟨recSt, 0, 4096, env0, by decide +kernel, by decide +kernel, by decide +kernel, by decide +kernel, by decide +kernel, by unfold State.memOk; decide +kernel⟩

theorem test_meets_ResetBootAndRestart_9_0 : ∃ (s : State), ∃ (cause : Nat), ∃ (logs : List LogRecord), s.bootState = 5 :=
  ⟨up, 2, [], by decide +kernel⟩

theorem test_meets_ResetBootAndRestart_10_0 : ∃ (s : State), ∃ (logs : List LogRecord), ∃ (cause : Nat), s.bootState = 6 :=
  ⟨up.fset ATL_BOOT_STATUS_STATE 6, [], 2, by decide +kernel⟩

theorem test_meets_ResetBootAndRestart_11_0 : ∃ (s : State), ∃ (logs : List LogRecord), s.bootState = 5 ∧ s.atl.coreHalted = false ∧ s.wdtRecent < 2 :=
  ⟨up.setPw { up.pw with wdtTimes := [0] }, [⟨0, 0, 0, []⟩], by decide +kernel, by decide +kernel, by decide +kernel⟩

theorem test_meets_ResetBootAndRestart_12_0 : ∃ (s : State), ∃ (logs : List LogRecord), s.bootState = 5 ∧ s.atl.coreHalted = false ∧ 2 ≤ s.wdtRecent :=
  ⟨up.setPw { up.pw with wdtTimes := [0, 0] }, [⟨0, 0, 0, []⟩], by decide +kernel, by decide +kernel, by decide +kernel⟩

theorem test_meets_ResetBootAndRestart_13_0 : ∃ (s : State), ∃ (logs : List LogRecord), s.bootState = 6 ∧ 200000 ≤ s.pw.restartTicks ∧ s.wdtRecent < 2 :=
  ⟨(up.fset ATL_BOOT_STATUS_STATE 6).setPw { up.pw with restartTicks := 200000 }, [], by decide +kernel, by decide +kernel, by decide +kernel⟩

theorem test_meets_ResetBootAndRestart_14_0 : ∃ (s : State), ∃ (ch : Nat), s.secureRuns ch 3 = true :=
  ⟨msg up 0 3 [], 0, by decide +kernel⟩

theorem test_meets_FirmwareUpdateStates_0_0 : ∃ (s : State), s.running = true ∧ s.fon ATL_BOOT_STATUS_TRIAL = true ∧ 1000000 ≤ s.pw.runTicks :=
  ⟨(up.fset ATL_BOOT_STATUS_TRIAL 1).setPw { up.pw with runTicks := 1000000 }, by decide +kernel, by decide +kernel, by decide +kernel⟩

theorem test_meets_FirmwareUpdateStates_1_0 : ∃ (s : State), ∃ (ch len : Nat), s.serves ch 4 [(1, len)] .secure false = true ∧ s.fget ATL_UPD_STATUS_USTATE = 0 ∧ 4096 ≤ len ∧ len ≤ 0x3000000 :=
  ⟨msg up 0 4 [(1, 0x3000000)], 0, 0x3000000, by decide +kernel, by decide +kernel, by decide +kernel, by decide +kernel⟩

theorem test_meets_FirmwareUpdateStates_1_0b : ∃ (s : State), ∃ (ch len : Nat), s.serves ch 4 [(1, len)] .secure false = true ∧ s.fget ATL_UPD_STATUS_USTATE = 0 ∧ 4096 ≤ len ∧ len ≤ 0x3000000 :=
  ⟨msg up 0 4 [(1, 4096)], 0, 4096, by decide +kernel, by decide +kernel, by decide +kernel, by decide +kernel⟩

theorem test_meets_FirmwareUpdateStates_2_0 : ∃ (s : State), ∃ (ch len : Nat), ∃ (ok : Bool), s.serves ch 4 [(1, len)] .secure false = true ∧ s.fget ATL_UPD_STATUS_USTATE ≠ 0 :=
  ⟨msg (up.fset ATL_UPD_STATUS_USTATE 1) 0 4 [(1, 4096)], 0, 4096, true, by decide +kernel, by decide +kernel⟩

theorem test_meets_FirmwareUpdateStates_3_0 : ∃ (s : State), ∃ (ch first n : Nat), ∃ (bs : List Byte), s.serves ch 5 [(3, first), (4, n)] .secure true = true ∧ s.fget ATL_UPD_STATUS_USTATE = 1 ∧ 1 ≤ n ∧ n ≤ 256 ∧ first = s.atl.updNext ∧ first + n < s.atl.updTotal :=
  ⟨msg { (up.fset ATL_UPD_STATUS_USTATE 1) with atl := { up.atl with updTotal := 300, updNext := 2 } } 0 5 [(3, 2), (4, 256)], 0, 2, 256, [1, 2], by decide +kernel, by decide +kernel, by decide +kernel, by decide +kernel, by decide +kernel, by decide +kernel⟩

theorem test_meets_FirmwareUpdateStates_4_0 : ∃ (s : State), ∃ (ch : Nat), ∃ (logs : List LogRecord), s.serves ch 6 [] .secure false = true ∧ s.fget ATL_UPD_STATUS_USTATE = 2 ∧ s.checkImage s.atl.flash (slotAt s.targetSlot) = .ok :=
  ⟨msg (verSt true) 0 6 [], 0, [⟨0, 0, 0, []⟩], by decide +kernel, by decide +kernel, by decide +kernel⟩

theorem test_meets_FirmwareUpdateStates_5_0 : ∃ (s : State), ∃ (ch : Nat), ∃ (logs : List LogRecord), ∃ (st : Status), s.serves ch 6 [] .secure false = true ∧ s.fget ATL_UPD_STATUS_USTATE = 2 ∧ s.checkImage s.atl.flash (slotAt s.targetSlot) = st ∧ st ≠ .ok :=
  ⟨msg (verSt false) 0 6 [], 0, [], .badSignature, by decide +kernel, by decide +kernel, by decide +kernel, by decide +kernel⟩

theorem test_meets_FirmwareUpdateStates_6_0 : ∃ (s : State), ∃ (ch : Nat), s.serves ch 7 [] .secure false = true ∧ s.fget ATL_UPD_STATUS_USTATE = 3 ∧ s.emergency = true :=
  ⟨msg ((up.fset ATL_UPD_STATUS_USTATE 3).fset GSO_PWR_STATUS_OC_THROTTLE 1) 0 7 [], 0, by decide +kernel, by decide +kernel, by decide +kernel⟩

theorem test_meets_FirmwareUpdateStates_7_0 : ∃ (s : State), ∃ (ch : Nat), s.serves ch 7 [] .secure false = true ∧ s.fget ATL_UPD_STATUS_USTATE = 3 ∧ s.emergency = false :=
  ⟨msg ((up.fset ATL_UPD_STATUS_USTATE 3).fset GSO_PWR_STATUS_VIN_STATE 0) 0 7 [], 0, by decide +kernel, by decide +kernel, by decide +kernel⟩

theorem test_meets_FirmwareUpdateStates_8_0 : ∃ (s : State), ∃ (ch : Nat), s.serves ch 8 [] .secure false = true ∧ s.fget ATL_UPD_STATUS_USTATE = 4 :=
  ⟨msg (up.fset ATL_UPD_STATUS_USTATE 4) 0 8 [], 0, by decide +kernel, by decide +kernel⟩

theorem test_meets_FirmwareUpdateStates_9_0 : ∃ (s : State), s.running = true ∧ s.fget ATL_UPD_STATUS_USTATE = 4 ∧ s.emergency = false ∧ 1000 ≤ s.pw.calm :=
  ⟨((up.fset ATL_UPD_STATUS_USTATE 4).fset GSO_PWR_STATUS_VIN_STATE 0).setPw { up.pw with calm := 1000 }, by decide +kernel, by decide +kernel, by decide +kernel, by decide +kernel⟩

theorem test_meets_RegisterOperationsWriteTheirResult_0_0 : ∃ p ∈ ([(.add, fun x y => x + y), (.sub, fun x y => x - y), (.andI, fun x y => x &&& y), (.orI, fun x y => x ||| y), (.xorI, fun x y => x ^^^ y), (.sll, fun x y => x <<< (y.toNat % 64)), (.srl, fun x y => x >>> (y.toNat % 64)), (.sra, fun x y => x.sshiftRight (y.toNat % 64)), (.slt, fun x y => if x.toInt < y.toInt then 1 else 0), (.sltu, fun x y => if x.toNat < y.toNat then 1 else 0), (.minI, fun x y => if x.toInt < y.toInt then x else y), (.maxI, fun x y => if x.toInt < y.toInt then y else x), (.minu, fun x y => if x.toNat < y.toNat then x else y), (.maxu, fun x y => if x.toNat < y.toNat then y else x), (fun w d a _ => .mov w d a, fun x _ => x)] : List ((Issue → Nat → Nat → Nat → Instr) × (Word64 → Word64 → Word64))), ∃ (s : State), ∃ (w : Issue), ∃ (rd rs1 rs2 : Nat), rd < 32 ∧ rs1 < 32 ∧ rs2 < 32 ∧ s.goes w [rs1, rs2] false ∧ s.goes w [rs1, 0] false :=
  ⟨_, List.Mem.head _, core 3839, at4 3839, 31, 1, 2, by decide +kernel, by decide +kernel, by decide +kernel, by unfold State.goes; decide +kernel, by unfold State.goes; decide +kernel⟩

theorem test_meets_ImmediateOperationsWriteTheirResult_0_0 : ∃ p ∈ ([(.addi, true, fun x y => x + y), (.slti, true, fun x y => if x.toInt < y.toInt then 1 else 0), (.sltiu, true, fun x y => if x.toNat < y.toNat then 1 else 0), (.andi, false, fun x y => x &&& y), (.ori, false, fun x y => x ||| y), (.xori, false, fun x y => x ^^^ y)] : List ((Issue → Nat → Nat → Nat → Instr) × Bool × (Word64 → Word64 → Word64))), ∃ (s : State), ∃ (w : Issue), ∃ (rd rs1 imm : Nat), rd < 32 ∧ rs1 < 32 ∧ imm < 2 ^ (if (s.asCoded w).long then 32 else 16) ∧ s.goes w [rs1] false :=
  ⟨_, List.Mem.head _, core 0, at4 0, 31, 1, 0xFFFF, by decide +kernel, by decide +kernel, by decide +kernel, by unfold State.goes; decide +kernel⟩

theorem test_meets_ImmediateOperationsWriteTheirResult_0_0b : ∃ p ∈ ([(.addi, true, fun x y => x + y), (.slti, true, fun x y => if x.toInt < y.toInt then 1 else 0), (.sltiu, true, fun x y => if x.toNat < y.toNat then 1 else 0), (.andi, false, fun x y => x &&& y), (.ori, false, fun x y => x ||| y), (.xori, false, fun x y => x ^^^ y)] : List ((Issue → Nat → Nat → Nat → Instr) × Bool × (Word64 → Word64 → Word64))), ∃ (s : State), ∃ (w : Issue), ∃ (rd rs1 imm : Nat), rd < 32 ∧ rs1 < 32 ∧ imm < 2 ^ (if (s.asCoded w).long then 32 else 16) ∧ s.goes w [rs1] false :=
  ⟨_, List.Mem.head _, leg0, { at4 0 with long := true, len := 8 }, 0, 1, 0xFFFFFFFF, by decide +kernel, by decide +kernel, by decide +kernel, by unfold State.goes; decide +kernel⟩

theorem test_meets_ImmediateOperationsWriteTheirResult_1_0 : ∃ p ∈ ([(.slli, fun x n => x <<< n), (.srli, fun x n => x >>> n), (.srai, fun x n => x.sshiftRight n)] : List ((Issue → Nat → Nat → Nat → Instr) × (Word64 → Nat → Word64))), ∃ (s : State), ∃ (w : Issue), ∃ (rd rs1 n : Nat), rd < 32 ∧ rs1 < 32 ∧ n < 64 ∧ (s.asCoded w).long = false ∧ s.goes w [rs1] false :=
  ⟨_, List.Mem.head _, core 0, at4 0, 31, 1, 63, by decide +kernel, by decide +kernel, by decide +kernel, by decide +kernel, by unfold State.goes; decide +kernel⟩

theorem test_meets_ImmediateOperationsWriteTheirResult_2_0 : ∃ (s : State), ∃ (w : Issue), ∃ (rd rs1 imm : Nat), rd < 32 ∧ rs1 < 32 ∧ imm < 2 ^ 16 ∧ (s.asCoded w).long = false ∧ s.goes w [rs1] false :=
  ⟨core 0, at4 0, 31, 1, 0xFFFF, by decide +kernel, by decide +kernel, by decide +kernel, by decide +kernel, by unfold State.goes; decide +kernel⟩

theorem test_meets_ImmediateOperationsWriteTheirResult_3_0 : ∃ (s : State), ∃ (w : Issue), ∃ (rd imm : Nat), rd < 32 ∧ imm < 2 ^ 16 ∧ (s.asCoded w).long = false ∧ s.goes w [] false :=
  ⟨core 3839, at4 3839, 31, 0xFFFF, by decide +kernel, by decide +kernel, by decide +kernel, by unfold State.goes; decide +kernel⟩

theorem test_meets_MultipliesAndSpecialRegisters_0_0 : ∃ p ∈ ([(.mul, fun x y => x.signExtend 128 * y.signExtend 128), (.mulu, fun x y => x.setWidth 128 * y.setWidth 128)] : List ((Issue → Nat → Nat → Instr) × (Word64 → Word64 → BitVec 128))), ∃ (s : State), ∃ (w : Issue), ∃ (rs1 rs2 : Nat), rs1 < 32 ∧ rs2 < 32 ∧ s.goes w [rs1, rs2] false :=
  ⟨_, List.Mem.head _, core 0, at4 0, 1, 3, by decide +kernel, by decide +kernel, by unfold State.goes; decide +kernel⟩

theorem test_meets_MultipliesAndSpecialRegisters_1_0 : ∃ (s : State), ∃ (b : Nat), ∃ (m : PendMul), (s.br b).pendMul = [m] :=
  ⟨up.setBr 0 { bris 0 with pendMul := [{ prod := 7, due := 0 }] }, 0, { prod := 7, due := 0 }, by decide +kernel⟩

theorem test_meets_MultipliesAndSpecialRegisters_1_0b : ∃ (s : State), ∃ (b : Nat), ∃ (m : PendMul), (s.br b).pendMul = [m] :=
  ⟨up.setBr 0 { bris 0 with pendMul := [{ prod := 7, due := 1 }] }, 0, { prod := 7, due := 1 }, by decide +kernel⟩

theorem test_meets_MultipliesAndSpecialRegisters_2_0 : ∃ (s : State), ∃ (w : Issue), ∃ (rd n : Nat), rd < 32 ∧ n < 13 ∧ s.goes w [] false :=
  ⟨core 0, at4 0, 31, 12, by decide +kernel, by decide +kernel, by unfold State.goes; decide +kernel⟩

theorem test_meets_MultipliesAndSpecialRegisters_2_0b : ∃ (s : State), ∃ (w : Issue), ∃ (rd n : Nat), rd < 32 ∧ n < 13 ∧ s.goes w [] false :=
  ⟨core 0, at4 0, 31, 0, by decide +kernel, by decide +kernel, by unfold State.goes; decide +kernel⟩

theorem test_meets_MultipliesAndSpecialRegisters_3_0 : ∃ (s : State), ∃ (w : Issue), ∃ (n rs1 : Nat), rs1 < 32 ∧ (n = 6 ∨ n = 7 ∨ n = 8 ∨ n = 11) ∧ s.goes w [rs1] false :=
  ⟨core 0, at4 0, 6, 1, by decide +kernel, by decide +kernel, by unfold State.goes; decide +kernel⟩

theorem test_meets_MultipliesAndSpecialRegisters_3_0b : ∃ (s : State), ∃ (w : Issue), ∃ (n rs1 : Nat), rs1 < 32 ∧ (n = 6 ∨ n = 7 ∨ n = 8 ∨ n = 11) ∧ s.goes w [rs1] false :=
  ⟨core 0, at4 0, 7, 1, by decide +kernel, by decide +kernel, by unfold State.goes; decide +kernel⟩

theorem test_meets_MultipliesAndSpecialRegisters_3_0c : ∃ (s : State), ∃ (w : Issue), ∃ (n rs1 : Nat), rs1 < 32 ∧ (n = 6 ∨ n = 7 ∨ n = 8 ∨ n = 11) ∧ s.goes w [rs1] false :=
  ⟨core 0, at4 0, 8, 1, by decide +kernel, by decide +kernel, by unfold State.goes; decide +kernel⟩

theorem test_meets_MultipliesAndSpecialRegisters_3_0d : ∃ (s : State), ∃ (w : Issue), ∃ (n rs1 : Nat), rs1 < 32 ∧ (n = 6 ∨ n = 7 ∨ n = 8 ∨ n = 11) ∧ s.goes w [rs1] false :=
  ⟨core 0, at4 0, 11, 1, by decide +kernel, by decide +kernel, by unfold State.goes; decide +kernel⟩

theorem test_meets_MultipliesAndSpecialRegisters_4_0 : ∃ (s : State), ∃ (w : Issue), ∃ (rs1 : Nat), rs1 < 32 ∧ s.goes w [rs1] false ∧ (s.br w.b).pendAcc = [] :=
  ⟨core 0, at4 0, 1, by decide +kernel, by unfold State.goes; decide +kernel, by decide +kernel⟩

theorem test_meets_TransfersGoToTheirTarget_0_0 : ∃ p ∈ ([(.beq, fun x y => x == y), (.bne, fun x y => x != y), (.blt, fun x y => decide (x.toInt < y.toInt)), (.bge, fun x y => !decide (x.toInt < y.toInt)), (.bltu, fun x y => decide (x.toNat < y.toNat)), (.bgeu, fun x y => !decide (x.toNat < y.toNat))] : List ((Issue → Nat → Nat → Int → Instr) × (Word64 → Word64 → Bool))), ∃ (s : State), ∃ (w : Issue), ∃ (rs1 rs2 : Nat), ∃ (off : Int), rs1 < 32 ∧ rs2 < 32 ∧ s.goes w [rs1, rs2] false :=
  ⟨_, List.Mem.head _, core 0, at4 0, 1, 2, -4, by decide +kernel, by decide +kernel, by unfold State.goes; decide +kernel⟩

theorem test_meets_TransfersGoToTheirTarget_0_0b : ∃ p ∈ ([(.beq, fun x y => x == y), (.bne, fun x y => x != y), (.blt, fun x y => decide (x.toInt < y.toInt)), (.bge, fun x y => !decide (x.toInt < y.toInt)), (.bltu, fun x y => decide (x.toNat < y.toNat)), (.bgeu, fun x y => !decide (x.toNat < y.toNat))] : List ((Issue → Nat → Nat → Int → Instr) × (Word64 → Word64 → Bool))), ∃ (s : State), ∃ (w : Issue), ∃ (rs1 rs2 : Nat), ∃ (off : Int), rs1 < 32 ∧ rs2 < 32 ∧ s.goes w [rs1, rs2] false :=
  ⟨_, List.Mem.head _, core 0, at4 0, 1, 1, 9, by decide +kernel, by decide +kernel, by unfold State.goes; decide +kernel⟩

theorem test_meets_TransfersGoToTheirTarget_1_0 : ∃ (s : State), ∃ (w : Issue), ∃ (tgt : Int), s.goes w [] false :=
  ⟨core 0, at4 0, 0x8000, by unfold State.goes; decide +kernel⟩

theorem test_meets_TransfersGoToTheirTarget_1_1 : ∃ (s : State), ∃ (w : Issue), ∃ (tgt : Int), s.goes w [] false ∧ (s.br w.b).rsDepth < 16 :=
  ⟨core 0, at4 0, 0x8000, by unfold State.goes; decide +kernel, by decide +kernel⟩

theorem test_meets_TransfersGoToTheirTarget_2_0 : ∃ (s : State), ∃ (w : Issue), ∃ (rs1 : Nat), rs1 < 32 ∧ s.goes w [rs1] false ∧ (s.legacy w.b = true ∨ ((s.br w.b).g rs1).toNat % 4 = 0) :=
  ⟨core 0, at4 0, 4, by decide +kernel, by unfold State.goes; decide +kernel, by decide +kernel⟩

theorem test_meets_TransfersGoToTheirTarget_2_1 : ∃ (s : State), ∃ (w : Issue), ∃ (rs1 : Nat), rs1 < 32 ∧ s.goes w [rs1] false ∧ (s.legacy w.b = true ∨ ((s.br w.b).g rs1).toNat % 4 = 0) ∧ (s.br w.b).rsDepth < 16 :=
  ⟨core 0, at4 0, 4, by decide +kernel, by unfold State.goes; decide +kernel, by decide +kernel, by decide +kernel⟩

theorem test_meets_TransfersGoToTheirTarget_3_0 : ∃ (s : State), ∃ (w : Issue), s.goes w [] false ∧ 0 < (s.br w.b).rsDepth ∧ (s.legacy w.b = true ∨ smGetD (s.br w.b).rsEnt (s.br w.b).rsPtr 0 % 4 = 0) ∧ smGetD (s.br w.b).rsEnt (s.br w.b).rsPtr 0 < 2 ^ 18 :=
  ⟨(core 0).setBr 0 { bris 0 with rsDepth := 1 }, at4 0, by unfold State.goes; decide +kernel, by decide +kernel, by decide +kernel, by decide +kernel⟩

theorem test_meets_TransfersGoToTheirTarget_4_0 : ∃ (s : State), ∃ (w : Issue), s.goes w [] false ∧ (s.br w.b).inHandler = true ∧ (s.legacy w.b = true ∨ (s.br w.b).epc % 4 = 0) ∧ (s.br w.b).epc < 2 ^ 18 :=
  ⟨(core 0).setBr 0 { bris 0 with inHandler := true }, at4 0, by unfold State.goes; decide +kernel, by decide +kernel, by decide +kernel, by decide +kernel⟩

theorem test_meets_TransfersGoToTheirTarget_5_0 : ∃ (s : State), ∃ (w : Issue), s.goes w [] false :=
  ⟨core 0, at4 0, by unfold State.goes; decide +kernel⟩

theorem test_meets_TransfersGoToTheirTarget_5_1 : ∃ (s : State), ∃ (w : Issue), s.goes w [] false ∧ s.legacy w.b = false ∧ nativeDecode w w.raw = none :=
  ⟨core 0, at4 0, by unfold State.goes; decide +kernel, by decide +kernel, by decide +kernel⟩

theorem test_meets_TransfersGoToTheirTarget_6_0 : ∃ (s : State), ∃ (b cause epc eval : Nat), s.fon BRS_CTL_TRAP_EN b = true ∧ bit (s.rget BRS_TMASK b) cause = true ∧ (s.br b).inHandler = false ∧ s.fget BRS_TVEC_ADDR b % 4 = 0 :=
  ⟨(((core 0).fset BRS_CTL_TRAP_EN 1).rset BRS_TMASK 0x100).fset BRS_TVEC_ADDR 0x40, 0, 8, 0x100, 5, by decide +kernel, by decide +kernel, by decide +kernel, by decide +kernel⟩

theorem test_meets_TransfersGoToTheirTarget_5_2 : ∃ (s : State), ∃ (w : Issue), ∃ k, s.goes { w with len := k } [] false ∧ s.legacy w.b = true ∧ legacyDecode w (leBytes 9 w.raw) = .bad k :=
  ⟨leg0, { at4 0 with raw := 0xF3 }, 1, by unfold State.goes; decide +kernel, by decide +kernel, by decide +kernel⟩

theorem test_meets_TransfersGoToTheirTarget_7_0 : ∃ (s : State), ∃ (w : Issue), s.goes w [0, 0] false :=
  ⟨core 0, at4 0, by unfold State.goes; decide +kernel⟩

theorem test_meets_LoadsAndStores_0_0 : ∃ p ∈ ([(.lb, 1, true), (.lbu, 1, false), (.lh, 2, true), (.lhu, 2, false), (.lw, 4, true), (.lwu, 4, false), (.ld, 8, false)] : List ((Issue → Nat → MemArg → Instr) × Nat × Bool)), ∃ (s : State), ∃ (w : Issue), ∃ (rt : Nat), ∃ (m : MemArg), ∃ (ea : Nat), argOk m = true ∧ rt < 32 ∧ ¬(argWritesBack m = true ∧ rt = m.rb) ∧ s.goes w (argSrcs m) false ∧ ea = (argEa m (s.br w.b) p.2.1).toNat ∧ ea % p.2.1 = 0 ∧ ea < 2 ^ 48 ∧ w.b < 3840 ∧ ownSram w.b ea p.2.1 = true ∧ (s.br w.b).sbuf = [] ∧ (∀ a, s.badBits a = 0) :=
  ⟨_, List.Mem.head _, core 1, at4 1, 31, { mode := 1, rb := 5, ri := 0, scale := 0, disp := 0 }, 0x010000041000, by decide +kernel, by decide +kernel, by decide +kernel, by unfold State.goes; decide +kernel, by decide +kernel, by decide +kernel, by decide +kernel, by decide +kernel, by decide +kernel, by decide +kernel, badBits_of rfl⟩

theorem test_meets_LoadsAndStores_0_1 : ∃ p ∈ ([(.lb, 1, true), (.lbu, 1, false), (.lh, 2, true), (.lhu, 2, false), (.lw, 4, true), (.lwu, 4, false), (.ld, 8, false)] : List ((Issue → Nat → MemArg → Instr) × Nat × Bool)), ∃ (s : State), ∃ (w : Issue), ∃ (rt : Nat), ∃ (m : MemArg), ∃ (ea : Nat), argOk m = true ∧ rt < 32 ∧ ¬(argWritesBack m = true ∧ rt = m.rb) ∧ s.goes w (argSrcs m) false ∧ ea = (argEa m (s.br w.b) p.2.1).toNat ∧ ea % p.2.1 = 0 ∧ ea < 2 ^ 48 ∧ ownSram w.b ea p.2.1 = false ∧ (s.ready w (argSrcs m) false).accessCause w.b ea p.2.1 false false = none ∧ s.dieStopped (w.b / 384) = false :=
  ⟨_, List.Mem.head _, { core 1 with own := [(0, 0)] }, at4 1, 31, { mode := 0, rb := 6, ri := 0, scale := 0, disp := -8 }, 0xFF8, by decide +kernel, by decide +kernel, by decide +kernel, by unfold State.goes; decide +kernel, by decide +kernel, by decide +kernel, by decide +kernel, by decide +kernel, by decide +kernel, by decide +kernel⟩

theorem test_meets_LoadsAndStores_1_0 : ∃ (s : State), ∃ (w : Issue), ∃ (rt : Nat), ∃ (m : MemArg), ∃ (ea : Nat), argOk m = true ∧ rt < 16 ∧ s.goes w (argSrcs m) false ∧ ea = (argEa m (s.br w.b) 64).toNat ∧ ea % 8 = 0 ∧ ea < 2 ^ 48 ∧ w.b < 3840 ∧ ownSram w.b ea 64 = true ∧ (s.br w.b).sbuf = [] ∧ (∀ a, s.badBits a = 0) :=
  ⟨core 1, at4 1, 15, { mode := 4, rb := 5, ri := 8, scale := 6, disp := 0 }, 0x010000041080, by decide +kernel, by decide +kernel, by unfold State.goes; decide +kernel, by decide +kernel, by decide +kernel, by decide +kernel, by decide +kernel, by decide +kernel, by decide +kernel, badBits_of rfl⟩

theorem test_meets_LoadsAndStores_2_0 : ∃ p ∈ ([(.sb, 1), (.sh, 2), (.sw, 4), (.sd, 8)] : List ((Issue → Nat → MemArg → Instr) × Nat)), ∃ (s : State), ∃ (w : Issue), ∃ (rt : Nat), ∃ (m : MemArg), ∃ (ea : Nat), argOk m = true ∧ rt < 32 ∧ s.goes w (argSrcs m ++ [rt]) false ∧ ea = (argEa m (s.br w.b) p.2).toNat ∧ (s.ready w (argSrcs m ++ [rt]) false).accessCause w.b ea p.2 false true = none ∧ (s.br w.b).sbuf.length < 8 :=
  ⟨_, List.Mem.head _, core 1, at4 1, 2, { mode := 1, rb := 5, ri := 0, scale := 0, disp := 0 }, 0x010000041000, by decide +kernel, by decide +kernel, by unfold State.goes; decide +kernel, by decide +kernel, by decide +kernel, by decide +kernel⟩

theorem test_meets_LoadsAndStores_3_0 : ∃ (s : State), ∃ (w : Issue), ∃ (rt : Nat), ∃ (m : MemArg), ∃ (ea : Nat), argOk m = true ∧ ea = (argEa m (s.br w.b) 64).toNat ∧ (s.br w.b).sbuf.length < 8 ∧ rt < 16 ∧ s.goes w (argSrcs m ++ [32 + rt]) false ∧ (s.ready w (argSrcs m ++ [32 + rt]) false).accessCause w.b ea 64 true true = none :=
  ⟨core 1, at4 1, 15, { mode := 2, rb := 5, ri := 0, scale := 0, disp := 128 }, 0x010000041000, by decide +kernel, by decide +kernel, by decide +kernel, by decide +kernel, by unfold State.goes; decide +kernel, by decide +kernel⟩

theorem test_meets_LoadsAndStores_3_1 : ∃ (s : State), ∃ (w : Issue), ∃ (rt : Nat), ∃ (m : MemArg), ∃ (ea : Nat), argOk m = true ∧ ea = (argEa m (s.br w.b) 64).toNat ∧ (s.br w.b).sbuf.length < 8 ∧ rt < 4 ∧ s.goes w (argSrcs m ++ []) false ∧ (s.ready w (argSrcs m ++ []) false).accessCause w.b ea 64 true true = none :=
  ⟨core 1, at4 1, 3, { mode := 2, rb := 5, ri := 0, scale := 0, disp := 128 }, 0x010000041000, by decide +kernel, by decide +kernel, by decide +kernel, by decide +kernel, by unfold State.goes; decide +kernel, by decide +kernel⟩

theorem test_meets_LoadsAndStores_4_0 : ∃ (s v : State), ∃ (b rt : Nat), ∃ (l x : OutLoad), ∃ (rest : List OutLoad), (s.br b).loads = l :: rest ∧ s.pw.devReset = false ∧ l.lost = false ∧ (l.behind = 0 ∨ l.served = true) ∧ s.serveLoad b l = (v, x) ∧ x.bytes ≠ [] ∧ l.dest = some rt ∧ rt < 32 ∧ rt ≠ 0 :=
  ⟨up.setBr 1 { bris 1 with loads := [ld1] }, up.setBr 1 { bris 1 with loads := [ld1] }, 1, 31, ld1, ld1, [], by decide +kernel, by decide +kernel, by decide +kernel, by decide +kernel, by decide +kernel, by decide +kernel, by decide +kernel, by decide +kernel, by decide +kernel⟩

theorem test_meets_LoadsAndStores_5_0 : ∃ (s : State), ∃ (b : Nat), ∃ (l : OutLoad), ∃ (bs : List Byte), l.lost = false ∧ l.served = false ∧ l.behind = 0 ∧ space l.addr ≠ .control ∧ (s.readParts l.addr l.size).2 = some bs :=
  ⟨ldSt, 1, { ld1 with addr := 0xFF8, bytes := [], served := false }, [0, 0, 0, 0], by decide +kernel, by decide +kernel, by decide +kernel, by decide +kernel, by decide +kernel⟩

theorem test_meets_LoadsAndStores_6_0 : ∃ (s : State), ∃ (b a c : Nat), ∃ (bs : List Byte), ∃ (rest : List StoreEntry), (s.br b).sbuf = .store a bs c :: rest ∧ (s.br b).loads = [] ∧ s.pw.devReset = false ∧ ownSram b a bs.length = true ∧ (∀ k, s.badBits k = 0) :=
  ⟨up.setBr 1 { bris 1 with sbuf := [.store 0x010000041000 [1, 2] 0] }, 1, 0x010000041000, 0, [1, 2], [], by decide +kernel, by decide +kernel, by decide +kernel, by decide +kernel, badBits_of rfl⟩

theorem test_meets_LoadsAndStores_7_0 : ∃ (s : State), ∃ (b n : Nat), ∃ (f : Nat), ∃ (rest : List StoreEntry), (s.br b).sbuf = .signal f n :: rest ∧ (s.br b).loads = [] ∧ s.pw.devReset = false ∧ s.dieStopped (b / 384) = false ∧ s.cut (b / 384) (flagDie f) = false ∧ (∀ c ∈ s.syn.granted, c.bid ≠ b) ∧ (flagVirt f = false ∨ s.pw.waiting = []) :=
  ⟨up.setBr 1 { bris 1 with sbuf := [.signal 67 2] }, 1, 2, 67, [], by decide +kernel, by decide +kernel, by decide +kernel, by decide +kernel, by decide +kernel, by decide +kernel, by decide +kernel⟩

theorem test_meets_VectorOperations_0_0 : ∃ (s : State), ∃ (w : Issue), ∃ (a va vb ge fmt : Nat), a < 4 ∧ va < 16 ∧ vb < 16 ∧ ge < 32 ∧ fmt ≤ 6 ∧ (fmt = 6 ∨ ge = 0) ∧ s.goes w [32 + va, 32 + vb, ge] true :=
  ⟨core 1, at4 1, 3, 15, 0, 0, 5, by decide +kernel, by decide +kernel, by decide +kernel, by decide +kernel, by decide +kernel, by decide +kernel, by unfold State.goes; decide +kernel⟩

theorem test_meets_VectorOperations_0_0b : ∃ (s : State), ∃ (w : Issue), ∃ (a va vb ge fmt : Nat), a < 4 ∧ va < 16 ∧ vb < 16 ∧ ge < 32 ∧ fmt ≤ 6 ∧ (fmt = 6 ∨ ge = 0) ∧ s.goes w [32 + va, 32 + vb, ge] true :=
  ⟨core 1, at4 1, 3, 15, 0, 31, 6, by decide +kernel, by decide +kernel, by decide +kernel, by decide +kernel, by decide +kernel, by decide +kernel, by unfold State.goes; decide +kernel⟩

theorem test_meets_VectorOperations_1_0 : ∃ (s : State), ∃ (b : Nat), ∃ (x : PendAcc), (s.br b).pendAcc = [x] :=
  ⟨up.setBr 1 { bris 1 with pendAcc := [{ acc := 3, lanes := 7, due := 0, sat := 0 }] }, 1, { acc := 3, lanes := 7, due := 0, sat := 0 }, by decide +kernel⟩

theorem test_meets_VectorOperations_1_0b : ∃ (s : State), ∃ (b : Nat), ∃ (x : PendAcc), (s.br b).pendAcc = [x] :=
  ⟨up.setBr 1 { bris 1 with pendAcc := [{ acc := 3, lanes := 7, due := 1, sat := 0 }] }, 1, { acc := 3, lanes := 7, due := 1, sat := 0 }, by decide +kernel⟩

theorem test_meets_VectorOperations_2_0 : ∃ p ∈ ([(.vadd, .add), (.vsub, .sub), (.vmul, .mul), (.vmax, .max), (.vmin, .min)] : List ((Issue → Nat → Nat → Nat → Nat → Instr) × ElemOp)), ∃ (s : State), ∃ (w : Issue), ∃ (vd va vb fmt : Nat), vd < 16 ∧ va < 16 ∧ vb < 16 ∧ fmt ∈ [0, 3, 4, 5, 7] ∧ s.goes w [32 + va, 32 + vb] true :=
  ⟨_, List.Mem.head _, core 1, at4 1, 15, 1, 2, 7, by decide +kernel, by decide +kernel, by decide +kernel, by decide +kernel, by unfold State.goes; decide +kernel⟩

theorem test_meets_VectorOperations_3_0 : ∃ (s : State), ∃ (w : Issue), ∃ (vd va gw p fmt : Nat), ∃ (wtd : Bool), vd < 16 ∧ va < 16 ∧ gw < 32 ∧ (wtd = false → gw = 0) ∧ fmt ≤ 5 ∧ p < fmtElems fmt / 16 ∧ s.goes w [32 + vd, 32 + va, gw] true :=
  ⟨core 1, at4 1, 15, 1, 31, 0, 5, true, by decide +kernel, by decide +kernel, by decide +kernel, by decide +kernel, by decide +kernel, by decide +kernel, by unfold State.goes; decide +kernel⟩

theorem test_meets_VectorOperations_3_0b : ∃ (s : State), ∃ (w : Issue), ∃ (vd va gw p fmt : Nat), ∃ (wtd : Bool), vd < 16 ∧ va < 16 ∧ gw < 32 ∧ (wtd = false → gw = 0) ∧ fmt ≤ 5 ∧ p < fmtElems fmt / 16 ∧ s.goes w [32 + vd, 32 + va, gw] true :=
  ⟨core 1, at4 1, 15, 1, 0, 3, 0, false, by decide +kernel, by decide +kernel, by decide +kernel, by decide +kernel, by decide +kernel, by decide +kernel, by unfold State.goes; decide +kernel⟩

theorem test_meets_VectorOperations_4_0 : ∃ (s : State), ∃ (w : Issue), ∃ (vd va src p fmt : Nat), ∃ (st : Bool), vd < 16 ∧ va < 16 ∧ cvtFmt fmt = true ∧ cvtFmt src = true ∧ p < cvtParts fmt src ∧ s.goes w (if fmtElems fmt > fmtElems src then [32 + va, 32 + vd] else [32 + va]) true :=
  ⟨core 1, at4 1, 15, 1, 5, 0, 3, false, by decide +kernel, by decide +kernel, by decide +kernel, by decide +kernel, by decide +kernel, by unfold State.goes; decide +kernel⟩

theorem test_meets_VectorOperations_4_0b : ∃ (s : State), ∃ (w : Issue), ∃ (vd va src p fmt : Nat), ∃ (st : Bool), vd < 16 ∧ va < 16 ∧ cvtFmt fmt = true ∧ cvtFmt src = true ∧ p < cvtParts fmt src ∧ s.goes w (if fmtElems fmt > fmtElems src then [32 + va, 32 + vd] else [32 + va]) true :=
  ⟨core 1, at4 1, 15, 1, 3, 1, 5, true, by decide +kernel, by decide +kernel, by decide +kernel, by decide +kernel, by decide +kernel, by unfold State.goes; decide +kernel⟩

theorem test_meets_VectorOperations_5_0 : ∃ (s : State), ∃ (w : Issue), ∃ (vd va fmt : Nat), vd < 16 ∧ va < 16 ∧ (fmt = 3 ∨ fmt = 5) ∧ s.goes w [32 + va] true :=
  ⟨core 1, at4 1, 15, 1, 3, by decide +kernel, by decide +kernel, by decide +kernel, by unfold State.goes; decide +kernel⟩

theorem test_meets_VectorOperations_5_0b : ∃ (s : State), ∃ (w : Issue), ∃ (vd va fmt : Nat), vd < 16 ∧ va < 16 ∧ (fmt = 3 ∨ fmt = 5) ∧ s.goes w [32 + va] true :=
  ⟨core 1, at4 1, 15, 1, 5, by decide +kernel, by decide +kernel, by decide +kernel, by unfold State.goes; decide +kernel⟩

theorem test_meets_VectorOperations_6_0 : ∃ (s : State), ∃ (w : Issue), ∃ (vd gs fmt : Nat), vd < 16 ∧ gs < 32 ∧ cvtFmt fmt = true ∧ s.goes w [gs] true :=
  ⟨core 1, at4 1, 15, 1, 5, by decide +kernel, by decide +kernel, by decide +kernel, by unfold State.goes; decide +kernel⟩

theorem test_meets_VectorOperations_7_0 : ∃ (s : State), ∃ (w : Issue), ∃ (a v : Nat), a < 4 ∧ v < 16 ∧ s.goes w [] true :=
  ⟨core 1, at4 1, 3, 15, by decide +kernel, by decide +kernel, by unfold State.goes; decide +kernel⟩

theorem test_meets_VectorOperations_7_1 : ∃ (s : State), ∃ (w : Issue), ∃ (a v : Nat), a < 4 ∧ v < 16 ∧ s.goes w [32 + v] true :=
  ⟨core 1, at4 1, 3, 15, by decide +kernel, by decide +kernel, by unfold State.goes; decide +kernel⟩

theorem test_meets_VectorOperations_7_2 : ∃ (s : State), ∃ (w : Issue), ∃ (a v : Nat), a < 4 ∧ v < 16 ∧ s.goes w [] true :=
  ⟨core 1, at4 1, 3, 15, by decide +kernel, by decide +kernel, by unfold State.goes; decide +kernel⟩

theorem test_meets_VectorOperations_8_0 : ∃ p ∈ ([(.aredSum, aredSum), (.aredMax, aredMax)] : List ((Issue → Nat → Nat → Nat → Bool → Instr) × (Nat → Vec → Nat × Nat))), ∃ (s : State), ∃ (w : Issue), ∃ (gd a fmt : Nat), ∃ (clear : Bool), gd < 32 ∧ a < 4 ∧ (fmt = 5 ∨ fmt = 7) ∧ s.goes w [] true :=
  ⟨_, List.Mem.head _, core 1, at4 1, 31, 3, 5, true, by decide +kernel, by decide +kernel, by decide +kernel, by unfold State.goes; decide +kernel⟩

theorem test_meets_VectorOperations_8_0b : ∃ p ∈ ([(.aredSum, aredSum), (.aredMax, aredMax)] : List ((Issue → Nat → Nat → Nat → Bool → Instr) × (Nat → Vec → Nat × Nat))), ∃ (s : State), ∃ (w : Issue), ∃ (gd a fmt : Nat), ∃ (clear : Bool), gd < 32 ∧ a < 4 ∧ (fmt = 5 ∨ fmt = 7) ∧ s.goes w [] true :=
  ⟨_, List.Mem.head _, core 1, at4 1, 0, 3, 7, false, by decide +kernel, by decide +kernel, by decide +kernel, by unfold State.goes; decide +kernel⟩

theorem test_meets_FlagsReleaseTheirWaiters_0_0 : ∃ (s : State), ∃ (w : Issue), ∃ (rs1 rs2 : Nat), rs1 < 32 ∧ rs2 < 32 ∧ s.goes w [rs1, rs2] false ∧ (s.br w.b).sbuf.length < 8 ∧ (s.ready w [rs1, rs2] false).flagOk ((s.ready w [rs1, rs2] false).brSlice w.b) (some (w.b / 384)) ((s.br w.b).g rs1).toNat = true :=
  ⟨core 1, at4 1, 7, 2, by decide +kernel, by decide +kernel, by unfold State.goes; decide +kernel, by decide +kernel, by decide +kernel⟩

theorem test_meets_FlagsReleaseTheirWaiters_1_0 : ∃ p ∈ ([(.wait, false), (.waitdec, true)] : List ((Issue → Nat → Nat → Nat → Instr) × Bool)), ∃ (s : State), ∃ (w : Issue), ∃ (rd rs1 rs2 : Nat), rd < 32 ∧ rs1 < 32 ∧ rs2 < 32 ∧ s.goes w [rs1, rs2] false ∧ (s.ready w [rs1, rs2] false).flagOk ((s.ready w [rs1, rs2] false).brSlice w.b) (some (w.b / 384)) ((s.br w.b).g rs1).toNat = true ∧ s.dieStopped (w.b / 384) = false :=
  ⟨_, List.Mem.head _, core 1, at4 1, 31, 7, 2, by decide +kernel, by decide +kernel, by decide +kernel, by unfold State.goes; decide +kernel, by decide +kernel, by decide +kernel⟩

theorem test_meets_FlagsReleaseTheirWaiters_2_0 : ∃ (s : State), ∃ (b sl f amt : Nat), s.syn.flight = [.signal b sl f amt] ∧ flagVirt f = false ∧ s.brState (directHome f) ≠ 4 ∧ smGet s.cmp.turns (directHome f / 16) = none ∧ s.writesWait (flagDie f) = false ∧ s.isGated (.palette (flagDie f)) = false :=
  ⟨(up.setSyn { Sync.reset with flight := [.signal 1 0 67 0xFFFFFFFF] }).setFlag 67 { val := 2, wq := [], dq := [] }, 1, 0, 67, 0xFFFFFFFF, by decide +kernel, by decide +kernel, by decide +kernel, by decide +kernel, by decide +kernel, by decide +kernel⟩

theorem test_meets_FlagsReleaseTheirWaiters_2_0b : ∃ (s : State), ∃ (b sl f amt : Nat), s.syn.flight = [.signal b sl f amt] ∧ flagVirt f = false ∧ s.brState (directHome f) ≠ 4 ∧ smGet s.cmp.turns (directHome f / 16) = none ∧ s.writesWait (flagDie f) = false ∧ s.isGated (.palette (flagDie f)) = false :=
  ⟨(up.setSyn { Sync.reset with flight := [.signal 1 0 67 3] }).setFlag 67 { val := 2, wq := [{ thr := 5, bid := 9 }], dq := [] }, 1, 0, 67, 3, by decide +kernel, by decide +kernel, by decide +kernel, by decide +kernel, by decide +kernel, by decide +kernel⟩

theorem test_meets_FlagsReleaseTheirWaiters_2_0c : ∃ (s : State), ∃ (b sl f amt : Nat), s.syn.flight = [.signal b sl f amt] ∧ flagVirt f = false ∧ s.brState (directHome f) ≠ 4 ∧ smGet s.cmp.turns (directHome f / 16) = none ∧ s.writesWait (flagDie f) = false ∧ s.isGated (.palette (flagDie f)) = false :=
  ⟨(up.setSyn { Sync.reset with flight := [.signal 1 0 67 3] }).setFlag 67 { val := 2, wq := [], dq := [{ thr := 5, bid := 9 }] }, 1, 0, 67, 3, by decide +kernel, by decide +kernel, by decide +kernel, by decide +kernel, by decide +kernel, by decide +kernel⟩

theorem test_meets_FlagsReleaseTheirWaiters_3_0 : ∃ (s : State), ∃ (b v : Nat), ∃ (h : HeldWait), ∃ (rest : List (Nat × Option Nat)), s.syn.releases = (b, some v) :: rest ∧ (s.br b).wait = some h ∧ (s.br b).trapReq = none ∧ s.syn.parked.contains (b / 16) = false ∧ v < 2 ^ 64 :=
  ⟨(up.setSyn { Sync.reset with releases := [(1, some 5)] }).setBr 1 { bris 1 with wait := some hw1 }, 1, 5, hw1, [], by decide +kernel, by decide +kernel, by decide +kernel, by decide +kernel, by decide +kernel⟩

theorem test_meets_FlagsReleaseTheirWaiters_4_0 : ∃ (s : State), ∃ (b : Nat), ∃ (h : HeldWait), (s.br b).wait = some h ∧ h.reported = false ∧ s.spunOut b h = true ∧ (smGetD s.syn.reports (b / 384) []).length < 63 :=
  ⟨(up.fset SYN_CTL_SPIN_LIMIT 1 0).setBr 1 { bris 1 with wait := some hw1 }, 1, hw1, by decide +kernel, by decide +kernel, by decide +kernel, by decide +kernel⟩

theorem test_meets_FlagsReleaseTheirWaiters_5_0 : ∃ (s : State), ∃ (p : Nat), ∃ (r : SpinReport), ∃ (rest : List SpinReport), smGetD s.syn.reports p [] = r :: rest ∧ rest.length < 64 :=
  ⟨up.setSyn { Sync.reset with reports := [(9, [{ bid := 1, dec := true, virt := false, flag := 67, thr := 5, val := 0 }])] }, 9, { bid := 1, dec := true, virt := false, flag := 67, thr := 5, val := 0 }, [], by decide +kernel, by decide +kernel⟩

theorem test_meets_FlagsReleaseTheirWaiters_6_0 : ∃ (s : State), ∃ (p c : Nat), p < 10 ∧ c < 24 ∧ s.fon SYN_CTL_PARK_EN p = true ∧ s.syn.parked = [] ∧ (∀ b, s.parkable b = true) :=
  ⟨{ calm with regs := [(SYN_CTL.addr 9 0 0 0, 0x80000000)] }, 9, 23, by decide +kernel, by decide +kernel, by decide +kernel, by decide +kernel, fun b => by unfold State.parkable; rw [brState_of (by decide) b]; rfl⟩

theorem test_meets_FlagsReleaseTheirWaiters_7_0 : ∃ (s : State), ∃ (ch : Nat), s.serves ch 0x38 [] .bound false = true ∧ s.syn.entries = [] ∧ 0 < s.quota (s.servedSlice ch 0) 5 :=
  ⟨msg bound 16 0x38 [], 16, by decide +kernel, by decide +kernel, by decide +kernel⟩

theorem test_meets_FlagsReleaseTheirWaiters_8_0 : ∃ (s : State), ∃ (ch h : Nat), s.serves ch 0x39 [(1, h)] .bound false = true ∧ h < 2 ^ 32 ∧ s.virtOk (2 ^ 63 + h) = true ∧ getBits h 31 26 = s.servedSlice ch 0 ∧ getBits h 23 22 = 0 ∧ (s.flag (2 ^ 63 + h)).wq = [] ∧ (s.flag (2 ^ 63 + h)).dq = [] :=
  ⟨msg { bound with syn := { Sync.reset with entries := [(0, { slice := 1, used := true, gen := 0 })] } } 16 0x39 [(1, 0x04000000)], 16, 0x04000000, by decide +kernel, by decide +kernel, by decide +kernel, by decide +kernel, by decide +kernel, by decide +kernel, by decide +kernel⟩

theorem test_meets_GatheringMovesContributions_0_0 : ∃ (s : State), ∃ (w : Issue), ∃ (vs gt gk : Nat), vs < 16 ∧ gt < 32 ∧ gk < 32 ∧ s.goes w [32 + vs, gt, gk] false ∧ (s.br w.b).sbuf.length < 8 ∧ (s.ready w [32 + vs, gt, gk] false).gsendOk ((s.ready w [32 + vs, gt, gk] false).brSlice w.b) ((s.br w.b).g gt).toNat ((s.br w.b).g gk).toNat = true :=
  ⟨(core 1).setBr 1 { bris 1 with gpr := [(1, 2 ^ 63 + 1 * 2 ^ 48 + 63 * 2 ^ 30 + 0x1000), (2, 0x10001)] }, at4 1, 15, 1, 2, by decide +kernel, by decide +kernel, by decide +kernel, by unfold State.goes; decide +kernel, by decide +kernel, by decide +kernel⟩

theorem test_meets_GatheringMovesContributions_1_0 : ∃ (s : State), ∃ (b t k : Nat), ∃ (d : List Byte), ∃ (rest : List StoreEntry), (s.br b).sbuf = .gsend t k d :: rest ∧ s.portUsed (tgtPort t) < 64 ∧ s.nextAt (tgtPort t) = some b ∧ (s.br b).loads = [] ∧ s.pw.devReset = false ∧ s.dieStopped (b / 384) = false ∧ s.cut (b / 384) (targetDie t) = false :=
  ⟨up.setBr 1 { bris 1 with sbuf := [.gsend 0x1000 0 [1]] }, 1, 0x1000, 0, [1], [], by decide +kernel, by decide +kernel, by decide +kernel, by decide +kernel, by decide +kernel, by decide +kernel, by decide +kernel⟩

theorem test_meets_GatheringMovesContributions_2_0 : ∃ (s : State), ∃ (c : Contribution), s.syn.granted = [c] ∧ tgtBristle c.target = true ∧ tgtOffset c.target c.key < s.fget BRS_SWATCH_BASE (tgtId c.target) * 0x1000 ∧ getBits c.target 35 30 ≠ 63 ∧ (∀ a, s.badBits a = 0) ∧ s.mayArrive c = true ∧ s.awayFrom c.slice (tgtId c.target) = false ∧ s.isGated (.palette (tgtId c.target / 384)) = false ∧ s.isGated (.cluster (tgtId c.target / 384) (tgtId c.target % 384 / 16)) = false :=
  ⟨up.setSyn { Sync.reset with granted := [{ bid := 1, slice := 0, target := 2 ^ 63 + 2 * 2 ^ 48 + 3 * 2 ^ 30 + 0x1000, key := 0, data := List.replicate 64 7 }] }, { bid := 1, slice := 0, target := 2 ^ 63 + 2 * 2 ^ 48 + 3 * 2 ^ 30 + 0x1000, key := 0, data := List.replicate 64 7 }, by decide +kernel, by decide +kernel, by decide +kernel, by decide +kernel, badBits_of rfl, by decide +kernel, by decide +kernel, by decide +kernel, by decide +kernel⟩

theorem test_meets_GatheringMovesContributions_3_0 : ∃ (s : State), ∃ (u n v : Nat), u < 4 ∧ n < 4096 ∧ v % 256 = 1 ∧ v < 2 ^ 32 ∧ s.slotState u n ≠ 1 ∧ s.hdrOk u n v = true :=
  ⟨{ (((up.rset SYN_GU_HDR 0x10001 0 0 1).rset SYN_GU_HDR 0x4000000 0 0 2).rset SYN_GU_HDR 67 0 0 4) with stgOwn := [(1024, 0)] }, 0, 0, 1, by decide +kernel, by decide +kernel, by decide +kernel, by decide +kernel, by decide +kernel, by decide +kernel⟩

theorem test_meets_GatheringMovesContributions_4_0 : ∃ (s : State), ∃ (u n : Nat), u < 4 ∧ n < 4096 :=
  ⟨up, 3, 4095, by decide +kernel, by decide +kernel⟩

theorem test_meets_GatheringMovesContributions_5_0 : ∃ (s : State), ∃ (c : Contribution), ∃ (u n : Nat), s.syn.granted = [c] ∧ tgtBristle c.target = false ∧ u = getBits c.target 17 16 ∧ getBits c.target 15 0 = 61440 + n ∧ s.mayArrive c = true ∧ s.slotState u n = 1 ∧ n / 64 = c.slice ∧ keyPart c.key < s.hdr u n 1 % 65536 ∧ keyRank c.key < s.hdr u n 1 / 65536 ∧ (smGetD s.syn.slots (65536 * u + (61440 + n)) { got := [] }).got = [] :=
  ⟨(((up.rset SYN_GU_HDR 0x10001 0 0 1).rset SYN_GU_HDR 0x4000000 0 0 2).rset SYN_GU_HDR 1 0 0 0).setSyn { Sync.reset with granted := [{ bid := 1, slice := 0, target := 61440, key := 0, data := List.replicate 64 7 }] }, { bid := 1, slice := 0, target := 61440, key := 0, data := List.replicate 64 7 }, 0, 0, by decide +kernel, by decide +kernel, by decide +kernel, by decide +kernel, by decide +kernel, by decide +kernel, by decide +kernel, by decide +kernel, by decide +kernel, by decide +kernel⟩

theorem test_meets_BristlesStartStopAndReload_0_0 : ∃ (s : State), ∃ (b : Nat), b < 3840 ∧ s.awake .brs b ∧ s.brState b = 0 ∧ getBits (s.rget BRS_CTL b) 31 31 = 0 :=
  ⟨up.setBr 3839 { bris 3839 with inHandler := true, stopped := true }, 3839, by decide +kernel, awake_of rfl rfl rfl, by decide +kernel, by decide +kernel⟩

theorem test_meets_BristlesStartStopAndReload_1_0 : ∃ (s : State), ∃ (b : Nat), b < 3840 ∧ s.awake .brs b ∧ s.brRuns b = true ∧ (s.br b).wait = none ∧ getBits (s.rget BRS_CTL b) 31 31 = 0 :=
  ⟨core 3839, 3839, by decide +kernel, awake_of rfl rfl rfl, by decide +kernel, by decide +kernel, by decide +kernel⟩

theorem test_meets_BristlesStartStopAndReload_2_0 : ∃ (s : State), ∃ (b v : Nat), b < 3840 ∧ s.awake .brs b ∧ s.brRuns b = false ∧ v < 2 ^ 32 ∧ bit v 0 = false :=
  ⟨up.fset BRS_STATUS_STATE 3 3839, 3839, 0x80150002, by decide +kernel, awake_of rfl rfl rfl, by decide +kernel, by decide +kernel, by decide +kernel⟩

theorem test_meets_BristlesStartStopAndReload_3_0 : ∃ (s : State), ∃ (b v : Nat), b < 3840 ∧ s.awake .brs b ∧ v < 2 ^ 32 ∧ s.brRuns b = false :=
  ⟨up, 3839, 0x12345678, by decide +kernel, awake_of rfl rfl rfl, by decide +kernel, by decide +kernel⟩

theorem test_meets_BristlesStartStopAndReload_3_1 : ∃ (s : State), ∃ (b v : Nat), b < 3840 ∧ s.awake .brs b ∧ v < 2 ^ 32 ∧ s.brRuns b = true ∧ ∃ off ∈ [0x08, 0x0C, 0x10, 0x24], True :=
  ⟨core 3839, 3839, 9, by decide +kernel, awake_of rfl rfl rfl, by decide +kernel, by decide +kernel, 0x24, by simp, trivial⟩

theorem test_meets_BristlesStartStopAndReload_4_0 : ∃ (s : State), ∃ (p n v : Nat), p ≤ 9 ∧ n ≤ 5 ∧ s.awake .pal p ∧ v < 2 ^ 32 ∧ (∀ i, i < 4 → bit (getBits v (8 * i + 7) (8 * i)) 7 = false) :=
  ⟨up, 9, 5, 0x7F7F7F7F, by decide +kernel, by decide +kernel, awake_of rfl rfl rfl, by decide +kernel, by decide +kernel⟩

theorem test_meets_BristlesStartStopAndReload_5_0 : ∃ (s : State), ∃ (p ph : Nat), p ≤ 9 ∧ s.awake .pal p ∧ (∀ b ∈ clusterBristles p 0, s.brRuns b = false ∧ s.brState b ≠ 4) ∧ ph ≤ 25 ∧ bit (s.rget PAL_CHEALTH p) ph = false ∧ (∀ o, o < 24 → s.cmapEntry p o % 32 ≠ ph) :=
  ⟨calm, 9, 25, by decide +kernel, awake_of rfl rfl rfl, by decide +kernel, by decide +kernel, by decide +kernel, by decide +kernel⟩

theorem test_meets_BristlesStartStopAndReload_6_0 : ∃ (s : State), ∃ (b : Nat), s.brState b = 3 ∧ s.fwRuns = true :=
  ⟨up.fset BRS_STATUS_STATE 3 5, 5, by decide +kernel, by decide +kernel⟩

theorem test_meets_BristlesStartStopAndReload_7_0 : ∃ (s : State), ∃ (b prog pc sl : Nat), smGet s.progs prog = none :=
  ⟨up, 5, 9, 0x40100, 65, by decide +kernel⟩

theorem test_meets_BristlesStartStopAndReload_8_0 : ∃ (s : State), ∃ (p c : Nat), p ≤ 9 ∧ c ≤ 23 ∧ (s.clusterDown p c).spareClusters p = [] :=
  ⟨(up.rset PAL_CHEALTH 0x3000000 9), 9, 23, by decide +kernel, by decide +kernel, by decide +kernel⟩

theorem test_meets_BristlesStartStopAndReload_8_1 : ∃ (s : State), ∃ (p c : Nat), p ≤ 9 ∧ c ≤ 23 ∧ ∃ n rest, (s.clusterDown p c).spareClusters p = n :: rest :=
  ⟨up, 9, 23, by decide +kernel, by decide +kernel, 24, [25], by decide +kernel⟩

theorem test_meets_StackMemoryAndItsRepair_0_0 : ∃ (s : State), ∃ (m off v : Nat), m < 20 ∧ off < 0x10000 ∧ bit (s.rget MEM_CB_INUSE m) (off / 0x1000) = false :=
  ⟨up, 19, 0xFFFF, 0x12345678, by decide +kernel, by decide +kernel, by decide +kernel⟩

theorem test_meets_StackMemoryAndItsRepair_1_0 : ∃ (s : State), ∃ (m off v : Nat), m < 20 ∧ off < 0x10000 ∧ bit (s.rget MEM_CB_INUSE m) (off / 0x1000) = true :=
  ⟨up.rset MEM_CB_INUSE 0x8000 19, 19, 0xFFFF, 0x12345678, by decide +kernel, by decide +kernel, by decide +kernel⟩

theorem test_meets_StackMemoryAndItsRepair_3_0 : ∃ (s : State), ∃ (who : Requester), ∃ (a n : Nat), 0 < n ∧ a + n ≤ 0xA000000000 ∧ s.requestErr who a n false = none ∧ s.stk.bursts = [] ∧ (∀ k, s.pcFailed k = false) ∧ (∀ d, s.isGated d = false) :=
  ⟨{ calm with own := [(0, 3)], mem := [(5, 7)] }, .slice 3, 0, 40, by decide +kernel, by decide +kernel, by decide +kernel, by decide +kernel, calm_pcFailed rfl, calm_awake⟩

theorem test_meets_StackMemoryAndItsRepair_4_0 : ∃ (s : State), ∃ (sl a n : Nat), 0 < n ∧ a + n ≤ 0xA000000000 ∧ s.ownsStack sl a n = false :=
  ⟨calm, 3, 0, 40, by decide +kernel, by decide +kernel, by decide +kernel⟩

theorem test_meets_StackMemoryAndItsRepair_5_0 : ∃ (s : State), ∃ (who : Requester), ∃ (a n : Nat), 0xA000000000 < a + n :=
  ⟨calm, .atelier, 0x9FFFFFFFFF, 2, by decide +kernel⟩

theorem test_meets_StackMemoryAndItsRepair_6_0 : ∃ (s : State), ∃ (who : Requester), ∃ (a : Nat), ∃ (bs : List Byte), bs.length = 32 ∧ a % 32 = 0 ∧ a + 32 ≤ 0xA000000000 ∧ s.requestErr who a bs.length true = none ∧ (∀ k, s.pcFailed k = false) ∧ (∀ d, s.isGated d = false) :=
  ⟨{ calm with own := [(0, 3)] }, .slice 3, 0x20, List.replicate 32 9, by decide +kernel, by decide +kernel, by decide +kernel, by decide +kernel, calm_pcFailed rfl, calm_awake⟩

theorem test_meets_StackMemoryAndItsRepair_7_0 : ∃ (s : State), ∃ (k : Nat), k ∈ s.stk.wb :=
  ⟨{ calm with stk := { Stacks.reset with wb := [7], bursts := [(7, { bad := 4, poison := false, noRefetch := false })] } }, 7, by decide +kernel⟩

theorem test_meets_StackMemoryAndItsRepair_8_0 : ∃ (s : State), ∃ (k : Nat), ∃ (w : WaitingRead), (s.burst k).poison = true ∧ s.stk.waiting = [w] ∧ w.need = [k] :=
  ⟨{ calm with stk := { Stacks.reset with waiting := [read7], bursts := [(7, { bad := 0, poison := true, noRefetch := false })] } }, 7, read7, by decide +kernel, by decide +kernel, by decide +kernel⟩

theorem test_meets_StackMemoryAndItsRepair_8_1 : ∃ (s : State), ∃ (k : Nat), ∃ (w : WaitingRead), (s.burst k).poison = true ∧ s.stk.waiting = [w] ∧ w.need = [k] ∧ s.refetchable (32 * k) = true :=
  ⟨rfS, 16106127360, { read7 with addr := 0x7800000000, need := [16106127360] }, by decide +kernel, by decide +kernel, by decide +kernel, by decide +kernel⟩

theorem test_meets_StackMemoryAndItsRepair_9_0 : ∃ (s : State), ∃ (m : Nat), m < 20 ∧ s.fon MEM_SCRUB_CTL_EN m = true ∧ s.fget MEM_STATUS_STATE m = 1 ∧ s.stk.bursts = [] ∧ (∀ k, s.pcFailed k = false) ∧ s.fget MEM_SCRUB_POS_POS m + 1 < 2 ^ 27 :=
  ⟨{ calm with regs := [(MEM_STATUS.addr 19 0 0 0, 1)] }, 19, by decide +kernel, by decide +kernel, by decide +kernel, by decide +kernel, pcFailed_of (by decide), by decide +kernel⟩

theorem test_meets_StackMemoryAndItsRepair_10_0 : ∃ (s : State), ∃ (m pc : Nat), m < 20 ∧ pc < 32 :=
  ⟨up, 19, 31, by decide +kernel, by decide +kernel⟩

theorem test_meets_StackMemoryAndItsRepair_11_0 : ∃ (s : State), ∃ (m n v : Nat), m < 20 ∧ n < 256 ∧ v < 2 ^ 32 ∧ bit v 30 = true ∧ s.stk.sparesUsed = [] ∧ (∀ j, j < 256 → bit (s.rget MEM_REMAP m j) 31 = false ∧ bit (s.rget MEM_REMAP m j) 29 = false) :=
  ⟨up, 19, 255, 0xC0051234, by decide +kernel, by decide +kernel, by decide +kernel, by decide +kernel, by decide +kernel, by decide +kernel⟩

theorem test_meets_StackMemoryAndItsRepair_12_0 : ∃ (s : State), ∃ (m n : Nat), m < 20 ∧ n < 256 ∧ bit (s.rget MEM_REMAP m n) 29 = true ∧ s.stk.bursts = [] :=
  ⟨up.rset MEM_REMAP 0x20051234 19 255, 19, 255, by decide +kernel, by decide +kernel, by decide +kernel, by decide +kernel⟩

theorem test_meets_StackMemoryAndItsRepair_13_0 : ∃ (s : State), ∃ (k : Nat), k ∈ s.stk.repairQ ∧ smGetD s.stk.sparesUsed (bankKey (steer s.localBands (32 * k)).1 (pcOf (steer s.localBands (32 * k)).2) (bankOf (steer s.localBands (32 * k)).2)) 0 % 16 = 15 :=
  ⟨{ up with stk := { Stacks.reset with repairQ := [7], sparesUsed := [(bankKey (steer up.localBands 224).1 (pcOf (steer up.localBands 224).2) (bankOf (steer up.localBands 224).2), 15)] } }, 7, by decide +kernel, by decide +kernel⟩

theorem test_meets_StackMemoryAndItsRepair_14_0 : ∃ (s : State), ∃ (m : Nat), m < 20 ∧ s.fget MEM_STATUS_STATE m = 1 :=
  ⟨up.fset MEM_STATUS_STATE 1 19, 19, by decide +kernel, by decide +kernel⟩

theorem test_meets_StackMemoryAndItsRepair_15_0 : ∃ (s : State), ∃ (ch l n : Nat), s.serves ch 0x0A [(1, l), (2, n)] .secure false = true ∧ l + n ≤ 31 ∧ n ≤ 16 :=
  ⟨msg up 0 0x0A [(1, 15), (2, 16)], 0, 15, 16, by decide +kernel, by decide +kernel, by decide +kernel⟩

theorem test_meets_TablesAreMadeAndUsed_0_0 : ∃ (s : State), ∃ (ch addr h n : Nat), ∃ (places : List SegPlace), ∃ (x : List Byte), ∃ (s1 s2 : State), s.serves ch 0x30 [(1, addr % 2 ^ 32), (2, addr / 2 ^ 32)] .bound true = true ∧ (s.takeUp ch).readBlock (s.servedSlice ch 0) addr 64 = .ok (s1, x) ∧ s1.tableDescOk (s.servedSlice ch 0) x = true ∧ leField x 0xB 1 = 0 ∧ n = ceilDiv (leField x 0 8) (rowsPerExtent (groupSlot 0 (leField x 0xA 1) (leField x 8 2) (leField x 0xC 1))) ∧ s1.fits (s.servedSlice ch 0) n = true ∧ s1.layoutOk (s.servedSlice ch 0) (leField x 0xD 1) n places = true ∧ s1.makeTable (s.servedSlice ch 0) x places = .ok (h, s2) :=
  ⟨tblBase, 16, 0x1000, hnd, 1, tblPlaces, (okS ((tblBase.takeUp 16).readBlock 1 0x1000 64)).2, (okS ((tblBase.takeUp 16).readBlock 1 0x1000 64)).1, (okH ((okS ((tblBase.takeUp 16).readBlock 1 0x1000 64)).1.makeTable 1 tblDesc tblPlaces)).2, by decide +kernel, exIs_ok (by decide +kernel), by decide +kernel, by decide +kernel, by decide +kernel, by decide +kernel, by decide +kernel, exIs_ok (by decide +kernel)⟩

theorem test_meets_TablesAreMadeAndUsed_1_0 : ∃ (s : State), ∃ (ch h : Nat), ∃ (t : Table), s.serves ch 0x31 [(1, h)] .bound false = true ∧ smGet s.tbl h = some t ∧ t.slice = s.servedSlice ch (h / 2 ^ 26) ∧ (∀ p ∈ s.tbl, p.2.dying = none) ∧ s.vrnNeeds h = false ∧ (∀ w ∈ s.works, w.2.names h = false) :=
  ⟨msg (withTbl base) 16 0x31 [(1, hnd)], 16, hnd, tbl1, by decide +kernel, by decide +kernel, by decide +kernel, by decide +kernel, by decide +kernel, by decide +kernel⟩

theorem test_meets_TablesAreMadeAndUsed_2_0 : ∃ (s : State), ∃ (sl q el : Nat), ∃ (w : Wq), ∃ (ps : List (Nat × Nat)), ∃ (bs : List Byte), ∃ (s1 : State), s.wq sl q = some w ∧ w.err = false ∧ w.ret = none ∧ w.fetching = 0 ∧ w.head < w.tail ∧ w.tail ≤ w.head + 8 ∧ w.tail < w.size ∧ 64 * (w.tail - w.head) ≤ min ((s.port w.port).maxRead 0) (4096 - (w.ring + 64 * w.head) % 4096) ∧ (s.port w.port).flr = none ∧ s.dieStopped (16 + w.port / 4) = false ∧ s.hostWay sl w.port (w.ring + 64 * w.head) (64 * (w.tail - w.head)) false = .inside ps ∧ s.getPieces ps = (s1, some bs) :=
  ⟨apt3, 1, 3, 0, wq3t, apPs, apBs, apS, by decide +kernel, by decide +kernel, by decide +kernel, by decide +kernel, by decide +kernel, by decide +kernel, by decide +kernel, by decide +kernel, by decide +kernel, by decide +kernel, by decide +kernel, by decide +kernel⟩

theorem test_meets_TablesAreMadeAndUsed_3_0 : ∃ (s : State), ∃ (sl q el : Nat), ∃ (w : Wq), ∃ (bs : List Byte), s.wq sl q = some w ∧ w.err = false ∧ w.ret = some (.ok, bs) ∧ (∀ d ∈ slotsOf bs w.fetching, knownOp (leField d 0 1) = true) :=
  ⟨base.setWq wq3r, 1, 3, 0, wq3r, lookDesc, by decide +kernel, by decide +kernel, by decide +kernel, by decide +kernel⟩

theorem test_meets_TablesAreMadeAndUsed_4_0 : ∃ (s : State), ∃ (sl q el bagN outN wgtN : Nat), ∃ (idx bag wgt : HostData), ∃ (w : Wq), ∃ (x bl ix wg : List Byte), ∃ (lens : List Nat), ∃ (t : Table), ∃ (s1 s2 s3 : State), s.frontSlot sl q 0x10 2 = (s1, some (w, x)) ∧ s.liveTable sl (leField x 4 4) = some t ∧ lookupFieldsOk x = true ∧ bagN = (if leField x 1 1 = 4 ∨ leField x 0x18 8 = 0 then 0 else 4 * leField x 0xC 4) ∧ wgtN = (if leField x 1 1 = 3 then 4 * leField x 8 4 else 0) ∧ outN = lens.length * t.d * elemBytes (leField x 3 1) ∧ s.translate w.port sl [(leField x 0x10 8, leField x 8 4 * idxWidth x, false), (leField x 0x18 8, bagN, false), (leField x 0x20 8, wgtN, false), (leField x 0x28 8, outN, true), (leField x 0x30 8, 32, true)] = none ∧ (s.popSlot w).1.readLists w.port sl [(leField x 0x18 8, bagN, bag)] = some (s2, .ok [bl]) ∧ bagLens x (leItems 4 bl (bagN / 4)) = some lens ∧ s2.readLists w.port sl [(leField x 0x10 8, leField x 8 4 * idxWidth x, idx), (leField x 0x20 8, wgtN, wgt)] = some (s3, .ok [ix, wg]) :=
  ⟨ready (withTbl base) lookDesc, 1, 3, 0, 0, 64, 0, (.ok, idx2), (.ok, []), (.ok, []), front wq3 lookDesc, lookDesc, [], idx2, [], [2], tbl1, ready (withTbl base) lookDesc, (withTbl base).setWq wq3, (withTbl base).setWq wq3, by decide +kernel, by decide +kernel, by decide +kernel, by decide +kernel, by decide +kernel, by decide +kernel, by decide +kernel, rlIs_ok (by decide +kernel), by decide +kernel, rlIs_ok (by decide +kernel)⟩

theorem test_meets_TablesAreMadeAndUsed_5_0 : ∃ (s : State), ∃ (sl q el : Nat), ∃ (idx bag wgt : HostData), ∃ (w : Wq), ∃ (x : List Byte), ∃ (s1 : State), s.frontSlot sl q 0x10 2 = (s1, some (w, x)) ∧ s.liveTable sl (leField x 4 4) = none :=
  ⟨ready base lookDesc, 1, 3, 0, (.ok, []), (.ok, []), (.ok, []), front wq3 lookDesc, lookDesc, ready base lookDesc, by decide +kernel, by decide +kernel⟩

theorem test_meets_TablesAreMadeAndUsed_6_0 : ∃ (s : State), ∃ (sl q el : Nat), ∃ (idx grad : HostData), ∃ (w : Wq), ∃ (x ix gd : List Byte), ∃ (t : Table), ∃ (s1 s3 : State), s.frontSlot sl q 0x11 2 = (s1, some (w, x)) ∧ s.liveTable sl (leField x 4 4) = some t ∧ updateFieldsOk x t = true ∧ s.translate w.port sl [(leField x 0x10 8, leField x 8 4 * idxWidth x, false), (leField x 0x18 8, leField x 8 4 * gradBytes x t, false), (leField x 0x30 8, 32, true)] = none ∧ (if bit (leField x 2 1) 6 = true then leField x 1 1 = 0 else t.mode = 0) ∧ (s.popSlot w).1.readLists w.port sl [(leField x 0x10 8, leField x 8 4 * idxWidth x, idx), (leField x 0x18 8, leField x 8 4 * gradBytes x t, grad)] = some (s3, .ok [ix, gd]) :=
  ⟨ready (withTbl base) updDesc, 1, 3, 0, (.ok, idx2.take 4), (.ok, grad1), front wq3 updDesc, updDesc, idx2.take 4, grad1, tbl1, ready (withTbl base) updDesc, (withTbl base).setWq wq3, by decide +kernel, by decide +kernel, by decide +kernel, by decide +kernel, by decide +kernel, rlIs_ok (by decide +kernel)⟩

theorem test_meets_TablesAreMadeAndUsed_7_0 : ∃ (s : State), ∃ (w : Nat), ∃ (k : Work), ∃ (t : Table), s.work w = some k ∧ (k.kind = 0x10 ∨ k.kind = 0x11) ∧ k.stage = 0 ∧ s.dieStopped (16 + k.port / 4) = false ∧ (∀ v ∈ s.works, v.1 < w → ¬(v.2.stage = 0 ∧ v.2.slice = k.slice ∧ v.2.queue = k.queue)) ∧ smGet s.tbl (leField k.desc 4 4) = some t ∧ (∀ r ∈ k.idx, t.rows ≤ r ∧ r ≠ 2 ^ (8 * idxWidth k.desc) - 1) :=
  ⟨(withTbl base).setWork 4 (lookWork [200, 300]), 4, lookWork [200, 300], tbl1, by decide +kernel, by decide +kernel, by decide +kernel, by decide +kernel, by decide +kernel, by decide +kernel, by decide +kernel⟩

theorem test_meets_TablesAreMadeAndUsed_8_0 : ∃ (s u : State), ∃ (w i : Nat), ∃ (vals : List Nat), ∃ (k : Work), ∃ (rc : WRec), ∃ (t : Table), s.work w = some k ∧ k.recs[i]? = some rc ∧ k.kind = 0x10 ∧ s.brState rc.lead ≠ 3 ∧ smGet s.cmp.turns (rc.lead / 16) = none ∧ smGet s.tbl (leField k.desc 4 4) = some t ∧ s.donePool w k t rc = some u :=
  ⟨tblMade.setWork 4 (lookWork [5, 6]), ((tblMade.setWork 4 (lookWork [5, 6])).donePool 4 (lookWork [5, 6]) tbl1 rec8).getD State.reset, 4, 0, [], lookWork [5, 6], rec8, tbl1, by decide +kernel, by decide +kernel, by decide +kernel, by decide +kernel, by decide +kernel, by decide +kernel, by decide +kernel⟩

theorem test_meets_CachesSequencesAndSteps_0_0 : ∃ (s s1 s2 : State), ∃ (ch addr h : Nat), ∃ (x : List Byte), s.serves ch 0x32 [(1, addr % 2 ^ 32), (2, addr / 2 ^ 32)] .bound true = true ∧ (s.takeUp ch).readBlock (s.servedSlice ch 0) addr 32 = .ok (s1, x) ∧ s1.cacheDescOk (s.servedSlice ch 0) x = true ∧ s1.makeCache (s.servedSlice ch 0) x = .ok (h, s2) :=
  ⟨kvBase, (okS ((kvBase.takeUp 16).readBlock 1 0x1000 32)).1, (okH ((okS ((kvBase.takeUp 16).readBlock 1 0x1000 32)).1.makeCache 1 kvDesc)).2, 16, 0x1000, (okH ((okS ((kvBase.takeUp 16).readBlock 1 0x1000 32)).1.makeCache 1 kvDesc)).1, kvDesc, by decide +kernel, exIs_ok (by decide +kernel), by decide +kernel, okH_eq (by decide +kernel)⟩

theorem test_meets_CachesSequencesAndSteps_1_0 : ∃ (s : State), ∃ (ch h : Nat), ∃ (c : Cache), s.serves ch 0x33 [(1, h)] .bound false = true ∧ smGet s.kvc h = some c ∧ c.slice = s.servedSlice ch (h / 2 ^ 26) ∧ (∀ p ∈ s.kvc, p.2.dying = none) ∧ (∀ w ∈ s.works, w.2.names h = false) ∧ (∀ p ∈ s.seqs, p.2.cache ≠ h ∧ p.2.truncTo = none ∧ p.2.dying = none) :=
  ⟨msg kvMade 16 0x33 [(1, hnd)], 16, hnd, kv1, by decide +kernel, by decide +kernel, by decide +kernel, by decide +kernel, by decide +kernel, by decide +kernel⟩

theorem test_meets_CachesSequencesAndSteps_2_0 : ∃ (s : State), ∃ (ch cache : Nat), ∃ (regions : List Nat), ∃ (c : Cache), s.serves ch 0x34 [(1, cache)] .bound false = true ∧ smGet s.kvc cache = some c ∧ c.slice = s.servedSlice ch (cache / 2 ^ 26) ∧ c.dying = none ∧ (s.seqs.filter (fun q => q.2.cache == cache)).length < c.maxSeq ∧ (s.takeUp ch).fits (s.servedSlice ch (cache / 2 ^ 26)) (2 * c.arrayRegions) = true ∧ s.serialLeft (s.servedSlice ch (cache / 2 ^ 26)) = true ∧ (s.takeUp ch).arrayOk (2 * c.arrayRegions) regions = true :=
  ⟨msg kvMade 16 0x34 [(1, hnd)], 16, hnd, kvUnits, kv1, by decide +kernel, by decide +kernel, by decide +kernel, by decide +kernel, by decide +kernel, by decide +kernel, by decide +kernel, by decide +kernel⟩

theorem test_meets_CachesSequencesAndSteps_3_0 : ∃ (s : State), ∃ (ch h n : Nat), ∃ (q : Seq), s.serves ch 0x35 [(1, h), (2, n)] .bound false = true ∧ smGet s.seqs h = some q ∧ h / 2 ^ 26 = s.servedSlice ch (h / 2 ^ 26) ∧ (∀ p ∈ s.seqs, p.2.truncTo = none ∧ p.2.dying = none) ∧ (∀ p ∈ s.kvc, p.2.dying = none) ∧ s.seqBusy h s.cmp.arrived = false :=
  ⟨msg seqMade 16 0x35 [(1, hnd2)], 16, hnd2, 0, seq1, by decide +kernel, by decide +kernel, by decide +kernel, by decide +kernel, by decide +kernel, by decide +kernel⟩

theorem test_meets_CachesSequencesAndSteps_4_0 : ∃ (s : State), ∃ (h n l : Nat), ∃ (q : Seq), smGet s.seqs h = some q :=
  ⟨seqMade, hnd2, 0, 0, seq1, by decide +kernel⟩

theorem test_meets_CachesSequencesAndSteps_5_0 : ∃ (s : State), ∃ (ch h : Nat), ∃ (q : Seq), s.serves ch 0x36 [(1, h)] .bound false = true ∧ smGet s.seqs h = some q ∧ h / 2 ^ 26 = s.servedSlice ch (h / 2 ^ 26) ∧ (∀ p ∈ s.seqs, p.2.truncTo = none ∧ p.2.dying = none) ∧ (∀ p ∈ s.kvc, p.2.dying = none) ∧ s.seqBusy h s.cmp.arrived = false :=
  ⟨msg seqMade 16 0x36 [(1, hnd2)], 16, hnd2, seq1, by decide +kernel, by decide +kernel, by decide +kernel, by decide +kernel, by decide +kernel, by decide +kernel⟩

theorem test_meets_CachesSequencesAndSteps_6_0 : ∃ (s s1 s2 : State), ∃ (sl q el nN : Nat), ∃ (ents qry new : HostData), ∃ (w : Wq), ∃ (x es qs ns : List Byte), ∃ (c : Cache), s.frontSlot sl q 0x20 1 = (s1, some (w, x)) ∧ s.liveCache sl (leField x 4 4) = some c ∧ stepFieldsOk x c = true ∧ nN = (if bit (leField x 1 1) 2 = true then leField x 0xA 2 * c.newBytes (leField x 0xC 1) else 0) ∧ s.translate w.port sl [(leField x 0x10 8, 8 * leField x 0xA 2, false), (leField x 0x18 8, leField x 0xA 2 * c.headBytes (leField x 2 1), false), (leField x 0x20 8, nN, false), (leField x 0x28 8, leField x 0xA 2 * c.headBytes (leField x 3 1), true), (leField x 0x30 8, 32 + leField x 0xA 2, true)] = none ∧ (s.popSlot w).1.readLists w.port sl [(leField x 0x10 8, 8 * leField x 0xA 2, ents), (leField x 0x18 8, leField x 0xA 2 * c.headBytes (leField x 2 1), qry), (leField x 0x20 8, nN, new)] = some (s2, .ok [es, qs, ns]) :=
  ⟨ready seqMade stepDesc, ready seqMade stepDesc, seqMade.setWq wq3, 1, 3, 0, 0, (.ok, stepEnts), (.ok, stepQ), (.ok, []), front wq3 stepDesc, stepDesc, stepEnts, stepQ, [], kv1, by decide +kernel, by decide +kernel, by decide +kernel, by decide +kernel, by decide +kernel, rlIs_ok (by decide +kernel)⟩

theorem test_meets_CachesSequencesAndSteps_7_0 : ∃ (s s1 s2 : State), ∃ (sl q el sN : Nat), ∃ (src : HostData), ∃ (w : Wq), ∃ (x bs : List Byte), ∃ (c : Cache), s.frontSlot sl q 0x21 1 = (s1, some (w, x)) ∧ s.liveCache sl (leField x 4 4) = some c ∧ appendFieldsOk x c = true ∧ sN = leField x 0x16 2 * leField x 0x10 4 * c.newBytes (leField x 2 1) ∧ s.translate w.port sl [(leField x 0x18 8, sN, false), (leField x 0x30 8, 32, true)] = none ∧ (s.popSlot w).1.readLists w.port sl [(leField x 0x18 8, sN, src)] = some (s2, .ok [bs]) :=
  ⟨ready seqMade kvAppDesc, ready seqMade kvAppDesc, seqMade.setWq wq3, 1, 3, 0, kvSrc.length, (.ok, kvSrc), front wq3 kvAppDesc, kvAppDesc, kvSrc, kv1, by decide +kernel, by decide +kernel, by decide +kernel, by decide +kernel, by decide +kernel, rlIs_ok (by decide +kernel)⟩

theorem test_meets_CachesSequencesAndSteps_8_0 : ∃ (s : State), ∃ (w : Nat), ∃ (k : Work), ∃ (places : List RecPlace), s.work w = some k ∧ (k.kind = 0x20 ∨ k.kind = 0x21) ∧ k.stage = 0 ∧ s.dieStopped (16 + k.port / 4) = false ∧ (∀ v ∈ s.works, v.1 < w → ¬(v.2.stage = 0 ∧ v.2.slice = k.slice ∧ v.2.queue = k.queue)) :=
  ⟨attSt 0x20 stepDesc 0 0, 4, attWork 0x20 stepDesc 0 0, [], by decide +kernel, by decide +kernel, by decide +kernel, by decide +kernel, by decide +kernel⟩

theorem test_meets_CachesSequencesAndSteps_9_0 : ∃ (s : State), ∃ (w e : Nat), ∃ (k : Work), ∃ (x : AttEntry), ∃ (c : Cache), ∃ (runs : List UnitPlace), ∃ (places : List RecPlace), s.work w = some k ∧ k.ents[e]? = some x ∧ smGet s.kvc (leField k.desc 4 4) = some c ∧ k.kind = 0x20 ∧ bit (leField k.desc 1 1) 2 = false ∧ k.stage ≠ 0 ∧ x.phase = 0 ∧ s.entryTurn w e x k.arr = true ∧ (∀ q, smGet s.seqs x.seqH = some q → q.truncTo = none) ∧ s.entryCheck k.arr c (leField k.desc 4 4) false x = none :=
  ⟨attSt 0x20 stepDesc 0 1, 4, 0, attWork 0x20 stepDesc 0 1, newEntry hnd2 0 0 1, kv1, [], [], by decide +kernel, by decide +kernel, by decide +kernel, by decide +kernel, by decide +kernel, by decide +kernel, by decide +kernel, by decide +kernel, seqs_calm (by decide +kernel), by decide +kernel⟩

theorem test_meets_CachesSequencesAndSteps_10_0 : ∃ (s : State), ∃ (w e : Nat), ∃ (k : Work), ∃ (x : AttEntry), ∃ (c : Cache), ∃ (runs : List UnitPlace), ∃ (places : List RecPlace), s.work w = some k ∧ k.ents[e]? = some x ∧ smGet s.kvc (leField k.desc 4 4) = some c ∧ x.phase = 1 :=
  ⟨seqMade.setWork 4 attRun, 4, 0, attRun, { newEntry hnd2 0 0 1 with phase := 1 }, kv1, [], [], by decide +kernel, by decide +kernel, by decide +kernel, by decide +kernel⟩

theorem test_meets_CachesSequencesAndSteps_11_0 : ∃ (s s1 : State), ∃ (w e : Nat), ∃ (k : Work), ∃ (x : AttEntry), ∃ (c : Cache), ∃ (runs : List UnitPlace), ∃ (places : List RecPlace), ∃ (lost : Bool), s.work w = some k ∧ k.ents[e]? = some x ∧ smGet s.kvc (leField k.desc 4 4) = some c ∧ k.kind = 0x21 ∧ k.stage ≠ 0 ∧ x.phase = 0 ∧ s.entryTurn w e x k.arr = true ∧ (∀ q, smGet s.seqs x.seqH = some q → q.truncTo = none) ∧ s.entryCheck k.arr c (leField k.desc 4 4) true x = none ∧ s.append c (leField k.desc 4 4) x k.stamp (fun i => (c.convList (leField k.desc 2 1) (k.newData.drop ((e * x.n + i) * c.newBytes (leField k.desc 2 1))) (2 * c.kvh * c.hd)).1) runs (!places.isEmpty) = .done s1 lost :=
  ⟨attSt 0x21 kvAppDesc 0 1, apdS, 4, 0, attWork 0x21 kvAppDesc 0 1, newEntry hnd2 0 0 1, kv1, kvRuns, [], false, by decide +kernel, by decide +kernel, by decide +kernel, by decide +kernel, by decide +kernel, by decide +kernel, by decide +kernel, seqs_calm (by decide +kernel), by decide +kernel, apDone_of (by rfl) (by decide +kernel)⟩

theorem test_meets_CachesSequencesAndSteps_12_0 : ∃ (s : State), ∃ (w e : Nat), ∃ (k : Work), ∃ (x : AttEntry), ∃ (c : Cache), ∃ (runs : List UnitPlace), ∃ (places : List RecPlace), ∃ (st : Status), s.work w = some k ∧ k.ents[e]? = some x ∧ smGet s.kvc (leField k.desc 4 4) = some c ∧ k.kind = 0x20 ∧ k.stage ≠ 0 ∧ x.phase = 0 ∧ s.entryTurn w e x k.arr = true ∧ (∀ q, smGet s.seqs x.seqH = some q → q.truncTo = none) ∧ s.entryCheck k.arr c (leField k.desc 4 4) (bit (leField k.desc 1 1) 2) x = some st :=
  ⟨attSt 0x20 stepDesc 7 1, 4, 0, attWork 0x20 stepDesc 7 1, newEntry hnd2 0 7 1, kv1, [], [], .positionMismatch, by decide +kernel, by decide +kernel, by decide +kernel, by decide +kernel, by decide +kernel, by decide +kernel, by decide +kernel, seqs_calm (by decide +kernel), by decide +kernel⟩

theorem test_meets_CachesSequencesAndSteps_13_0 : ∃ (s u : State), ∃ (w el : Nat), ∃ (k : Work), s.work w = some k ∧ s.workDone k = true ∧ k.kind ≠ 0x30 ∧ s.deliverWork w k el = some u :=
  ⟨attDone 0, ((attDone 0).deliverWork 4 (doneWork 0) 0).getD State.reset, 4, 0, doneWork 0, by decide +kernel, by decide +kernel, by decide +kernel, by decide +kernel⟩

theorem test_meets_CachesSequencesAndSteps_14_0 : ∃ (s : State), ∃ (w el : Nat), ∃ (k : Work), s.work w = some k ∧ s.workDone k = true ∧ k.kind ≠ 0x30 ∧ k.gen ≠ s.curGen k.slice :=
  ⟨attDone 3, 4, 0, doneWork 3, by decide +kernel, by decide +kernel, by decide +kernel, by decide +kernel⟩

theorem test_meets_UnitsMoveByCopyAndFlip_0_0 : ∃ (s : State), ∃ (p : Nat), p < 10 ∧ s.fwRuns = true ∧ s.cmp.exc = [] ∧ s.cmp.asks = [] :=
  ⟨up, 9, by decide +kernel, by decide +kernel, by decide +kernel, by decide +kernel⟩

theorem test_meets_UnitsMoveByCopyAndFlip_1_0 : ∃ (s q s1 : State), ∃ (p h u : Nat), ∃ (dst : UnitPlace), p < 10 ∧ s.fwRuns = true ∧ s.fon CMP_SCAN_CTL_EN p = false ∧ q = { s with cmp := { s.cmp with heatCtl := smSet s.cmp.heatCtl p (s.rget CMP_HEAT_CTL p) } } ∧ q.moveOk h u dst = true ∧ q.startCopy h u dst none = some s1 :=
  ⟨spillSt0, spillQ, ((spillQ).startCopy hnd (2 ^ 32) placeT2 none).getD up, 0, hnd, 2 ^ 32, placeT2, by decide +kernel, by decide +kernel, by decide +kernel, by decide +kernel, by decide +kernel, by decide +kernel⟩

theorem test_meets_UnitsMoveByCopyAndFlip_2_0 : ∃ (s s1 : State), ∃ (h u : Nat), ∃ (src dst : UnitPlace), s.unitAt h u = some src ∧ (h, u) ∉ s.cmp.copies.map (fun c => (c.handle, c.unit)) ∧ s.startCopy h u dst none = some s1 ∧ s1.cmp.copies ≠ s.cmp.copies :=
  ⟨spillSt tblMade, ((spillSt tblMade).startCopy hnd 0 placeT2 none).getD up, hnd, 0, place0, placeT2, by decide +kernel, by decide +kernel, by decide +kernel, by decide +kernel⟩

theorem test_meets_UnitsMoveByCopyAndFlip_3_0 : ∃ (s : State), ∃ (h u : Nat), ∃ (bytes : List Byte), ∃ (c : Copy), s.copyOf h u = some c ∧ s.fwRuns = true ∧ c.phase = 0 ∧ c.src.tier = 0 ∧ c.passes < 3 ∧ 8 < c.dirty.length :=
  ⟨withCopy (copy1 0 (List.range 9)), hnd, 0, [], copy1 0 (List.range 9), by decide +kernel, by decide +kernel, by decide +kernel, by decide +kernel, by decide +kernel, by decide +kernel⟩

theorem test_meets_UnitsMoveByCopyAndFlip_4_0 : ∃ (s : State), ∃ (h u : Nat), ∃ (bytes : List Byte), ∃ (c : Copy), s.copyOf h u = some c ∧ s.fwRuns = true ∧ c.phase = 0 ∧ c.src.tier = 0 ∧ (c.dirty.length ≤ 8 ∨ 3 ≤ c.passes) :=
  ⟨withCopy (copy1 0 (List.range 8)), hnd, 0, [], copy1 0 (List.range 8), by decide +kernel, by decide +kernel, by decide +kernel, by decide +kernel, by decide +kernel⟩

theorem test_meets_UnitsMoveByCopyAndFlip_5_0 : ∃ (s : State), ∃ (h u : Nat), ∃ (c : Copy), s.copyOf h u = some c ∧ s.fwRuns = true ∧ c.phase = 1 ∧ s.unitBusy c = false ∧ c.dirty = [] :=
  ⟨withCopy (copy1 1 []), hnd, 0, copy1 1 [], by decide +kernel, by decide +kernel, by decide +kernel, by decide +kernel, by decide +kernel⟩

theorem test_meets_UnitsMoveByCopyAndFlip_6_0 : ∃ (s : State), ∃ (h u : Nat), ∃ (c : Copy), s.copyOf h u = some c ∧ c.phase = 1 ∧ s.unitBusy c = true :=
  ⟨(withCopy (copy1 1 [])).setWork 4 updWork, hnd, 0, copy1 1 [], by decide +kernel, by decide +kernel, by decide +kernel⟩

theorem test_meets_UnitsMoveByCopyAndFlip_7_0 : ∃ (s : State), ∃ (h u : Nat), ∃ (c : Copy), ∃ (k e : Nat), s.copyOf h u = some c ∧ s.fwRuns = true ∧ c.phase = 2 ∧ s.draining h = false ∧ (smGet s.tbl h).isSome = true ∧ u < 2 ^ 32 ∧ c.swatch = some (k, e) :=
  ⟨withCopy swCopy, hnd, 0, swCopy, 3, 0, by decide +kernel, by decide +kernel, by decide +kernel, by decide +kernel, by decide +kernel, by decide +kernel, by decide +kernel⟩

theorem test_meets_UnitsMoveByCopyAndFlip_8_0 : ∃ (s : State), ∃ (h u : Nat), ∃ (c : Copy), s.copyOf h u = some c ∧ c.phase ≠ 2 ∧ u < 2 ^ 33 :=
  ⟨withCopy (copy1 1 []), hnd, 0, copy1 1 [], by decide +kernel, by decide +kernel, by decide +kernel⟩

theorem test_meets_UnitsMoveByCopyAndFlip_9_0 : ∃ (s : State), ∃ (h : Nat), ∃ (d : Drain), d ∈ s.cmp.drains ∧ d.handle = h ∧ s.fwRuns = true ∧ s.oldWork h (s.epoch h) = false ∧ (∀ k ∈ s.cmp.offs, k / 2 ^ 24 ≠ h) :=
  ⟨drainSt, hnd, drain1, by decide +kernel, by decide +kernel, by decide +kernel, by decide +kernel, by decide +kernel⟩

theorem test_meets_UnitsMoveByCopyAndFlip_10_0 : ∃ (s : State), ∃ (h : Nat), s.oldWork h (s.epoch h) = true :=
  ⟨drainSt.setWork 4 oldLook, hnd, by decide +kernel⟩

theorem test_meets_UnitsMoveByCopyAndFlip_11_0 : ∃ (s : State), ∃ (w pos : Nat), ∃ (bytes : List Byte), ∃ (k : Work), s.work w = some k ∧ pos ∉ k.tierOut :=
  ⟨tierSt, 4, 0, [1, 2], tierWork, by decide +kernel, by decide +kernel⟩

theorem test_meets_UnitsMoveByCopyAndFlip_12_0 : ∃ (s : State), ∃ (w pos : Nat), ∃ (bytes : List Byte), ∃ (k : Work), s.work w = some k ∧ pos ∈ k.tierOut :=
  ⟨tblMade.setWork 4 { tierWork with tierOut := [0] }, 4, 0, [], { tierWork with tierOut := [0] }, by decide +kernel, by decide +kernel⟩

theorem test_meets_UnitsMoveByCopyAndFlip_13_0 : ∃ (s : State), ∃ (w pos h : Nat), ∃ (k : Work), ∃ (p : UnitPlace), s.work w = some k ∧ pos ∉ k.tierOut ∧ s.tierUnit k pos = some (h, p) ∧ p.tier = 1 ∧ p.home < 3840 :=
  ⟨tierSt, 4, 0, hnd, tierWork, placeT2, by decide +kernel, by decide +kernel, by decide +kernel, by decide +kernel, by decide +kernel⟩

theorem test_meets_UnitsMoveByCopyAndFlip_14_0 : ∃ (s : State), ∃ (h u : Nat), s.fwRuns = true ∧ smGet s.seqs h = none :=
  ⟨up, hnd, 0, by decide +kernel, by decide +kernel⟩

theorem test_meets_UnitsMoveByCopyAndFlip_15_0 : ∃ (s : State), ∃ (h u : Nat), ∃ (q : Seq), s.fwRuns = true ∧ u < 2 ^ 32 ∧ smGet s.seqs h = some q :=
  ⟨seqMade, hnd2, 0, seq1, by decide +kernel, by decide +kernel, by decide +kernel⟩

theorem test_meets_UnitsMoveByCopyAndFlip_16_0 : ∃ (s : State), ∃ (p c : Nat), ∃ (t : Turn), p < 10 ∧ c < 24 ∧ smGet s.cmp.turns (24 * p + c) = some t ∧ t.switching = false ∧ s.fon CMP_TSLICE_CTL_OVERSUB p = true ∧ 2 ≤ t.slices.length ∧ s.fwRuns = true ∧ s.swatchFree (24 * p + c) = true ∧ s.turnOver p c t = true :=
  ⟨turnSt false, 0, 0, turn1 false, by decide +kernel, by decide +kernel, by decide +kernel, by decide +kernel, by decide +kernel, by decide +kernel, by decide +kernel, by decide +kernel, by decide +kernel⟩

theorem test_meets_UnitsMoveByCopyAndFlip_17_0 : ∃ (s : State), ∃ (p c : Nat), ∃ (t : Turn), p < 10 ∧ c < 24 ∧ smGet s.cmp.turns (24 * p + c) = some t ∧ t.switching = true ∧ s.fwRuns = true ∧ (∀ b ∈ clusterBristles p c, (s.br b).loads = [] ∧ (s.br b).sbuf = []) ∧ (∀ i, i < 7 → s.dstate (24 * p + c) (i + 1) ≠ 1 ∧ s.dstate (24 * p + c) (i + 1) ≠ 2) :=
  ⟨turnSt true, 0, 0, turn1 true, by decide +kernel, by decide +kernel, by decide +kernel, by decide +kernel, by decide +kernel, by decide +kernel, by decide +kernel⟩

theorem test_meets_UnitsMoveByCopyAndFlip_18_0 : ∃ (s : State), ∃ (ch h flags : Nat), ∃ (places : List (Nat × UnitPlace)), s.serves ch 0x40 [(1, h), (2, flags)] .bound false = true ∧ flags < 4 ∧ bit flags 1 = false ∧ ((s.liveTable (s.servedSlice ch (h / 2 ^ 26)) h).isSome = true ∨ (s.liveCache (s.servedSlice ch (h / 2 ^ 26)) h).isSome = true) :=
  ⟨msg tblMade 16 0x40 [(1, hnd), (2, 1)], 16, hnd, 1, [], by decide +kernel, by decide +kernel, by decide +kernel, by decide +kernel⟩

theorem test_meets_UnitsMoveByCopyAndFlip_19_0 : ∃ (s : State), ∃ (ch h first count hot : Nat), s.serves ch 0x41 [(1, h), (2, first), (3, count), (4, hot)] .bound false = true ∧ s.placeHandle (s.servedSlice ch (h / 2 ^ 26)) h = true ∧ 0 < count ∧ count ≤ 65536 ∧ first + count ≤ s.unitCount h ∧ hot < 2 :=
  ⟨msg tblMade 16 0x41 [(1, hnd), (2, 0), (3, 1), (4, 1)], 16, hnd, 0, 1, 1, by decide +kernel, by decide +kernel, by decide +kernel, by decide +kernel, by decide +kernel, by decide +kernel⟩

theorem test_meets_UnitsMoveByCopyAndFlip_20_0 : ∃ (s : State), ∃ (ch h x : Nat), ∃ (t : Table), ∃ (p : UnitPlace), s.serves ch 0x41 [(1, h), (2, x), (3, 1), (4, 0)] .bound false = true ∧ smGet s.kvc h = none ∧ s.liveTable (s.servedSlice ch (h / 2 ^ 26)) h = some t ∧ x < s.unitCount h ∧ s.unitAt h x = some p :=
  ⟨msg tblMade 16 0x41 [(1, hnd), (2, 0), (3, 1), (4, 0)], 16, hnd, 0, tbl1, place0, by decide +kernel, by decide +kernel, by decide +kernel, by decide +kernel, by decide +kernel⟩

theorem test_meets_UnitsMoveByCopyAndFlip_21_0 : ∃ (s : State), ∃ (ch h first count : Nat), s.serves ch 0x42 [(1, h), (2, first), (3, count)] .bound false = true ∧ s.placeHandle (s.servedSlice ch (h / 2 ^ 26)) h = true ∧ 0 < count ∧ count ≤ 65536 ∧ first + count ≤ s.unitCount h :=
  ⟨msg tblMade 16 0x42 [(1, hnd), (2, 0), (3, 1)], 16, hnd, 0, 1, by decide +kernel, by decide +kernel, by decide +kernel, by decide +kernel, by decide +kernel⟩

theorem test_meets_UnitsMoveByCopyAndFlip_22_0 : ∃ (s : State), ∃ (ch h : Nat), s.serves ch 0x43 [(1, h)] .bound false = true ∧ s.placeHandle (s.servedSlice ch (h / 2 ^ 26)) h = true :=
  ⟨msg tblMade 16 0x43 [(1, hnd)], 16, hnd, by decide +kernel, by decide +kernel⟩

theorem test_meets_UnitsMoveByCopyAndFlip_23_0 : ∃ (s : State), ∃ (ch spill pct pin t3 : Nat), ∃ (targets : List Nat), s.serves ch 0x44 [] .bound true = true ∧ s.servedSlice ch 0 < 64 ∧ spill ≤ 3 ∧ (2 ≤ spill → ∃ n, smGet s.nvm.ns t3 = some n ∧ n.slice = s.servedSlice ch 0 ∧ n.kind = 2 ∧ n.lbaf = 1 ∧ n.ctrls = []) ∧ pct ≤ 100 ∧ pin ≤ 1 ∧ t3 ≤ 63 ∧ targets.length ≤ 8 :=
  ⟨msg tblMade 16 0x44 [], 16, 1, 100, 1, 63, [1, 2, 3, 4, 5, 6, 7, 8], by decide +kernel, by decide +kernel, by decide +kernel, by decide +kernel, by decide +kernel, by decide +kernel, by decide +kernel, by decide +kernel⟩

theorem test_meets_UnitsMoveByCopyAndFlip_24_0 : ∃ (s : State), ∃ (ch sl pin : Nat), s.serves ch 0x45 [(1, sl), (2, pin)] .secure false = true ∧ sl < 64 ∧ pin < 2 ∧ s.cmp.turns = [] :=
  ⟨msg up 0 0x45 [(1, 63), (2, 1)], 0, 63, 1, by decide +kernel, by decide +kernel, by decide +kernel, by decide +kernel⟩

theorem test_meets_UnitsMoveByCopyAndFlip_25_0 : ∃ (s : State), ∃ (p : Nat), p < 10 :=
  ⟨up, 9, by decide +kernel⟩

theorem test_meets_UnitsMoveByCopyAndFlip_26_0 : ∃ (s : State), ∃ (p : Nat), p < 10 ∧ s.fget CMP_IND_SEL_PART p = 4 ∧ s.fget CMP_IND_SEL_INDEX p < 8192 :=
  ⟨up.fset CMP_IND_SEL_PART 4 9, 9, by decide +kernel, by decide +kernel, by decide +kernel⟩

theorem test_meets_DmaChannelsAreControlled_0_0a : ∃ (s : State), ∃ (e k v : Nat), chanOk e k = true ∧ s.dstate e k = 0 ∧ s.fon DMA_CHAN_CTL_PAUSE e k = false ∧ bit v 2 = false ∧ bit v 30 = false ∧ bit v 31 = false ∧ (s.chan e k).todo = [] ∧ (s.chan e k).aborting = false :=
  ⟨(dSt 239 7 0 DmaChan.init).rset DMA_CHAN_NEXT_LO 0x1040 239 7, 239, 7, 1, by decide +kernel, by decide +kernel, by decide +kernel, by decide +kernel, by decide +kernel, by decide +kernel, by decide +kernel, by decide +kernel⟩

theorem test_meets_DmaChannelsAreControlled_0_0b : ∃ (s : State), ∃ (e k v : Nat), chanOk e k = true ∧ s.dstate e k = 0 ∧ s.fon DMA_CHAN_CTL_PAUSE e k = false ∧ bit v 2 = false ∧ bit v 30 = false ∧ bit v 31 = false ∧ (s.chan e k).todo = [] ∧ (s.chan e k).aborting = false :=
  ⟨dSt 241 63 0 DmaChan.init, 241, 63, 1, by decide +kernel, by decide +kernel, by decide +kernel, by decide +kernel, by decide +kernel, by decide +kernel, by decide +kernel, by decide +kernel⟩

theorem test_meets_DmaChannelsAreControlled_0_0c : ∃ (s : State), ∃ (e k v : Nat), chanOk e k = true ∧ s.dstate e k = 0 ∧ s.fon DMA_CHAN_CTL_PAUSE e k = false ∧ bit v 2 = false ∧ bit v 30 = false ∧ bit v 31 = false ∧ (s.chan e k).todo = [] ∧ (s.chan e k).aborting = false :=
  ⟨(dSt 241 63 0 DmaChan.init).rset DMA_CHAN_NEXT_LO 0x1001 241 63, 241, 63, 1, by decide +kernel, by decide +kernel, by decide +kernel, by decide +kernel, by decide +kernel, by decide +kernel, by decide +kernel, by decide +kernel⟩

theorem test_meets_DmaChannelsAreControlled_1_0 : ∃ (s : State), ∃ (e k v : Nat), chanOk e k = true ∧ s.dstate e k = 1 ∧ s.fon DMA_CHAN_CTL_PAUSE e k = false ∧ bit v 0 = false ∧ bit v 30 = false ∧ bit v 31 = false ∧ (s.chan e k).todo = [] ∧ (s.chan e k).aborting = false :=
  ⟨dSt 239 7 1 (dCh 1 []), 239, 7, 0, by decide +kernel, by decide +kernel, by decide +kernel, by decide +kernel, by decide +kernel, by decide +kernel, by decide +kernel, by decide +kernel⟩

theorem test_meets_DmaChannelsAreControlled_1_1 : ∃ (s : State), ∃ (e k v : Nat), chanOk e k = true ∧ s.dstate e k = 1 ∧ s.fon DMA_CHAN_CTL_PAUSE e k = false ∧ bit v 0 = false ∧ bit v 30 = false ∧ bit v 31 = false ∧ (s.chan e k).todo = [] ∧ (s.chan e k).aborting = false ∧ bit v 2 = false :=
  ⟨dSt 239 7 1 (dCh 1 []), 239, 7, 0, by decide +kernel, by decide +kernel, by decide +kernel, by decide +kernel, by decide +kernel, by decide +kernel, by decide +kernel, by decide +kernel, by decide +kernel⟩

theorem test_meets_DmaChannelsAreControlled_1_2 : ∃ (s : State), ∃ (e k v : Nat), chanOk e k = true ∧ s.dstate e k = 1 ∧ s.fon DMA_CHAN_CTL_PAUSE e k = false ∧ bit v 0 = false ∧ bit v 30 = false ∧ bit v 31 = false ∧ (s.chan e k).todo = [] ∧ (s.chan e k).aborting = false ∧ bit v 2 = false :=
  ⟨dSt 239 7 1 (dCh 1 []), 239, 7, 0, by decide +kernel, by decide +kernel, by decide +kernel, by decide +kernel, by decide +kernel, by decide +kernel, by decide +kernel, by decide +kernel, by decide +kernel⟩

theorem test_meets_DmaChannelsAreControlled_2_0 : ∃ (s : State), ∃ (e k v : Nat), chanOk e k = true ∧ s.dstate e k = 3 ∧ s.fon DMA_CHAN_CTL_PAUSE e k = true ∧ bit v 0 = false ∧ bit v 30 = false ∧ (s.chan e k).todo = [] ∧ (s.chan e k).aborting = false ∧ (s.chan e k).phase = 2 ∧ bit v 31 = false :=
  ⟨(dSt 239 7 3 (dCh 2 dCopyDesc)).fset DMA_CHAN_CTL_PAUSE 1 239 7, 239, 7, 0, by decide +kernel, by decide +kernel, by decide +kernel, by decide +kernel, by decide +kernel, by decide +kernel, by decide +kernel, by decide +kernel, by decide +kernel⟩

theorem test_meets_DmaChannelsAreControlled_2_1 : ∃ (s : State), ∃ (e k v : Nat), chanOk e k = true ∧ s.dstate e k = 3 ∧ s.fon DMA_CHAN_CTL_PAUSE e k = true ∧ bit v 0 = false ∧ bit v 30 = false ∧ (s.chan e k).todo = [] ∧ (s.chan e k).aborting = false ∧ (s.chan e k).phase = 1 ∧ bit v 2 = true :=
  ⟨(dSt 239 7 3 (dCh 1 dCopyDesc)).fset DMA_CHAN_CTL_PAUSE 1 239 7, 239, 7, 4, by decide +kernel, by decide +kernel, by decide +kernel, by decide +kernel, by decide +kernel, by decide +kernel, by decide +kernel, by decide +kernel, by decide +kernel⟩

theorem test_meets_DmaChannelsAreControlled_3_0 : ∃ (s : State), ∃ (who : Requester), ∃ (e k v : Nat), s.dmaMay who e k = false :=
  ⟨base, .slice 2, 0, 1, 1, by decide +kernel⟩

theorem test_meets_DmaChannelsAreControlled_4_0a : ∃ (s : State), ∃ (who : Requester), ∃ (e k v : Nat), chanOk e k = true ∧ s.dmaMay who e k = true ∧ (s.dstate e k = 0 ∨ s.dstate e k = 4) :=
  ⟨base, .slice 1, 0, 1, 0x123456789ABC, by decide +kernel, by decide +kernel, by decide +kernel⟩

theorem test_meets_DmaChannelsAreControlled_4_0b : ∃ (s : State), ∃ (who : Requester), ∃ (e k v : Nat), chanOk e k = true ∧ s.dmaMay who e k = true ∧ (s.dstate e k = 0 ∨ s.dstate e k = 4) :=
  ⟨base, .atelier, 241, 63, 0x123456789ABC, by decide +kernel, by decide +kernel, by decide +kernel⟩

theorem test_meets_DmaChannelsAreControlled_5_0 : ∃ (s : State), ∃ (who : Requester), ∃ (e k v : Nat), ∃ (hi : Bool), chanOk e k = true ∧ s.dmaMay who e k = true ∧ s.dstate e k ≠ 0 ∧ s.dstate e k ≠ 4 :=
  ⟨dSt 0 1 1 (dCh 1 []), .slice 1, 0, 1, 0x40, true, by decide +kernel, by decide +kernel, by decide +kernel, by decide +kernel⟩

theorem test_meets_DmaDescriptorsRun_0_0a : ∃ (s : State), ∃ (e k : Nat), ∃ (bs : List Byte), chanOk e k = true ∧ s.dstate e k = 1 ∧ (s.chan e k).phase = 1 ∧ s.dmaHeld e = false ∧ s.dhost e k = false ∧ s.dmaErr e k (s.chan e k).nxt 64 false = none ∧ isMemory (s.chan e k).nxt 64 = true ∧ (s.busRead (s.chan e k).nxt 64).bytes = some bs :=
  ⟨dMem (dSt 0 1 1 (dCh 1 [])) dCopyDesc, 0, 1, dCopyDesc, by decide +kernel, by decide +kernel, by decide +kernel, by decide +kernel, by decide +kernel, by decide +kernel, by decide +kernel, by decide +kernel⟩

theorem test_meets_DmaDescriptorsRun_0_0b : ∃ (s : State), ∃ (e k : Nat), ∃ (bs : List Byte), chanOk e k = true ∧ s.dstate e k = 1 ∧ (s.chan e k).phase = 1 ∧ s.dmaHeld e = false ∧ s.dhost e k = false ∧ s.dmaErr e k (s.chan e k).nxt 64 false = none ∧ isMemory (s.chan e k).nxt 64 = true ∧ (s.busRead (s.chan e k).nxt 64).bytes = some bs :=
  ⟨dMem (dSt 0 1 1 (dCh 1 [])) (dDesc 4 0 0 0 0 0 0), 0, 1, dDesc 4 0 0 0 0 0 0, by decide +kernel, by decide +kernel, by decide +kernel, by decide +kernel, by decide +kernel, by decide +kernel, by decide +kernel, by decide +kernel⟩

theorem test_meets_DmaDescriptorsRun_0_0c : ∃ (s : State), ∃ (e k : Nat), ∃ (bs : List Byte), chanOk e k = true ∧ s.dstate e k = 1 ∧ (s.chan e k).phase = 1 ∧ s.dmaHeld e = false ∧ s.dhost e k = false ∧ s.dmaErr e k (s.chan e k).nxt 64 false = none ∧ isMemory (s.chan e k).nxt 64 = true ∧ (s.busRead (s.chan e k).nxt 64).bytes = some bs :=
  ⟨dMem (dSt 0 1 1 { dCh 1 [] with bad := true }) ([3, 8] ++ (dDesc 3 0 0 0 0 0 0).drop 2), 0, 1, [3, 8] ++ (dDesc 3 0 0 0 0 0 0).drop 2, by decide +kernel, by decide +kernel, by decide +kernel, by decide +kernel, by decide +kernel, by decide +kernel, by decide +kernel, by decide +kernel⟩

theorem test_meets_DmaDescriptorsRun_1_0 : ∃ (s : State), ∃ (e k n : Nat), chanOk e k = true ∧ s.dstate e k = 1 ∧ (s.chan e k).phase = 2 ∧ leField (s.chan e k).desc 0 1 = 0 ∧ s.dmaHeld e = false ∧ s.fenced (s.chan e k) = false ∧ bit (leField (s.chan e k).desc 3 1) 0 = false ∧ n ≤ 16 ∧ (s.chan e k).issued = (s.chan e k).rd ∧ (s.chan e k).issued + n * 2 ^ (leField (s.chan e k).desc 2 1 % 16) ≤ leField (s.chan e k).desc 4 4 :=
  ⟨dSt 0 1 1 (dCh 2 dCopyDesc), 0, 1, 2, by decide +kernel, by decide +kernel, by decide +kernel, by decide +kernel, by decide +kernel, by decide +kernel, by decide +kernel, by decide +kernel, by decide +kernel, by decide +kernel⟩

theorem test_meets_DmaDescriptorsRun_2_0 : ∃ (s s1 : State), ∃ (e k : Nat), ∃ (bs : List Byte), chanOk e k = true ∧ s.dmaHeld e = false ∧ (s.dstate e k = 1 ∨ s.dstate e k = 2) ∧ (s.chan e k).phase = 2 ∧ leField (s.chan e k).desc 0 1 = 0 ∧ (s.chan e k).rd < (s.chan e k).issued ∧ s.dmaGet e k = (s1, some (.ok, bs)) ∧ (s1.chan e k).hold.length + bs.length < 2 ^ (leField (s1.chan e k).desc 2 1 / 16) :=
  ⟨dMem (dSt 0 1 1 dWide) dCopyDesc, dMem (dSt 0 1 1 dWide) dCopyDesc, 0, 1, leBytes 8 0x1122334455667788, by decide +kernel, by decide +kernel, by decide +kernel, by decide +kernel, by decide +kernel, by decide +kernel, by decide +kernel, by decide +kernel⟩

theorem test_meets_DmaDescriptorsRun_3_0 : ∃ (s s1 s2 : State), ∃ (e k : Nat), ∃ (bs : List Byte), ∃ (d : DmaChan), chanOk e k = true ∧ s.dmaHeld e = false ∧ (s.dstate e k = 1 ∨ s.dstate e k = 2) ∧ (s.chan e k).phase = 2 ∧ leField (s.chan e k).desc 0 1 = 0 ∧ (s.chan e k).rd < (s.chan e k).issued ∧ s.dmaGet e k = (s1, some (.ok, bs)) ∧ d = { s1.chan e k with hold := (s1.chan e k).hold ++ bs, rd := (s1.chan e k).rd + bs.length } ∧ 2 ^ (leField d.desc 2 1 / 16) ≤ d.hold.length ∧ leField d.desc 4 4 ≤ d.wr + 2 ^ (leField d.desc 2 1 / 16) ∧ (s1.setChan e k d).dmaPut e k (leField d.desc 0x10 8 + d.wr) (d.hold.take (2 ^ (leField d.desc 2 1 / 16))) = (.ok, s2) :=
  ⟨dMem (dSt 0 1 1 (dCopy 8)) dCopyDesc, dMem (dSt 0 1 1 (dCopy 8)) dCopyDesc, ((dMem (dSt 0 1 1 (dCopy 8)) dCopyDesc).setChan 0 1 { dCopy 8 with hold := leBytes 8 0x1122334455667788, rd := 8 } |>.dmaPut 0 1 0x3008 (leBytes 8 0x1122334455667788)).2, 0, 1, leBytes 8 0x1122334455667788, { dCopy 8 with hold := leBytes 8 0x1122334455667788, rd := 8 }, by decide +kernel, by decide +kernel, by decide +kernel, by decide +kernel, by decide +kernel, by decide +kernel, by decide +kernel, by decide +kernel, by decide +kernel, by decide +kernel, by decide +kernel⟩

theorem test_meets_DmaDescriptorsRun_4_0 : ∃ (s s1 : State), ∃ (e k n : Nat), chanOk e k = true ∧ s.dstate e k = 1 ∧ (s.chan e k).phase = 2 ∧ leField (s.chan e k).desc 0 1 = 1 ∧ s.dmaHeld e = false ∧ s.fenced (s.chan e k) = false ∧ leField (s.chan e k).desc 4 4 ≤ (s.chan e k).wr + 2 ^ (leField (s.chan e k).desc 2 1 / 16) ∧ s.dmaPut e k (leField (s.chan e k).desc 0x10 8 + (s.chan e k).wr) (fillBytes (leField (s.chan e k).desc 0x20 8) (s.chan e k).wr (2 ^ (leField (s.chan e k).desc 2 1 / 16))) = (.ok, s1) :=
  ⟨dSt 0 1 1 (dCh 2 dFillDesc), ((dSt 0 1 1 (dCh 2 dFillDesc)).dmaPut 0 1 0x3000 (fillBytes 0x55 0 8)).2, 0, 1, 0, by decide +kernel, by decide +kernel, by decide +kernel, by decide +kernel, by decide +kernel, by decide +kernel, by decide +kernel, by decide +kernel⟩

theorem test_meets_DmaDescriptorsRun_5_0 : ∃ (s s1 : State), ∃ (e k n : Nat), ∃ (st : Status), chanOk e k = true ∧ s.dstate e k = 1 ∧ (s.chan e k).phase = 2 ∧ leField (s.chan e k).desc 0 1 = 1 ∧ s.dmaHeld e = false ∧ s.fenced (s.chan e k) = false ∧ st ≠ .ok ∧ s.dmaPut e k (leField (s.chan e k).desc 0x10 8 + (s.chan e k).wr) (fillBytes (leField (s.chan e k).desc 0x20 8) (s.chan e k).wr (2 ^ (leField (s.chan e k).desc 2 1 / 16))) = (st, s1) :=
  ⟨dSt 0 1 1 (dCh 2 (dDesc 1 0x30 8 0 0x4000000 0 1)), dSt 0 1 1 (dCh 2 (dDesc 1 0x30 8 0 0x4000000 0 1)), 0, 1, 0, .accessFault, by decide +kernel, by decide +kernel, by decide +kernel, by decide +kernel, by decide +kernel, by decide +kernel, by decide +kernel, by decide +kernel⟩

theorem test_meets_DmaDescriptorsRun_6_0 : ∃ (s : State), ∃ (e k w : Nat), chanOk e k = true ∧ s.dstate e k = 1 ∧ (s.chan e k).phase = 3 ∧ s.dmaHeld e = false ∧ s.pw.waiting = [] ∧ dmaCore e k = false ∧ w = leField (s.chan e k).desc 0x20 8 ∧ s.flagOk (s.dsl e k) (if e < 240 then some (e / 24) else none) w = true :=
  ⟨(dSt 0 1 1 (dCh 3 (dDesc 2 0 0 0 0 0 68))).fset BRS_CTL_SLICE 1 1, 0, 1, 68, by decide +kernel, by decide +kernel, by decide +kernel, by decide +kernel, by decide +kernel, by decide +kernel, by decide +kernel, by decide +kernel⟩

theorem test_meets_DmaDescriptorsRun_6_1 : ∃ (s : State), ∃ (e k w : Nat), chanOk e k = true ∧ s.dstate e k = 1 ∧ (s.chan e k).phase = 3 ∧ s.dmaHeld e = false ∧ s.pw.waiting = [] ∧ dmaCore e k = false ∧ w = leField (s.chan e k).desc 0x20 8 ∧ s.flagOk (s.dsl e k) (if e < 240 then some (e / 24) else none) w = false :=
  ⟨dSt 0 1 1 (dCh 3 (dDesc 2 0 0 0 0 0 (400 * 64))), 0, 1, 400 * 64, by decide +kernel, by decide +kernel, by decide +kernel, by decide +kernel, by decide +kernel, by decide +kernel, by decide +kernel, by decide +kernel⟩

theorem test_meets_DmaDescriptorsRun_7_0 : ∃ (s : State), ∃ (e k : Nat), chanOk e k = true ∧ s.dstate e k = 1 ∧ (s.chan e k).phase = 2 ∧ leField (s.chan e k).desc 0 1 = 3 :=
  ⟨dSt 0 1 1 (dCh 2 (dDesc 3 0 0 0 0 0 0)), 0, 1, by decide +kernel, by decide +kernel, by decide +kernel, by decide +kernel⟩

theorem test_meets_DmaDescriptorsRun_8_0 : ∃ (s s1 s2 : State), ∃ (e k n : Nat), chanOk e k = true ∧ s.dmaHeld e = false ∧ s.pw.waiting = [] ∧ s.dstate e k = 1 ∧ (s.chan e k).phase = 4 ∧ s.rereadNext e k = (s1, some (some n)) ∧ n ≠ 0 ∧ n % 64 = 0 ∧ s1.writeBack e k (s.chan e k).status (s.chan e k).wr = some s2 ∧ s2.dstate e k = 1 :=
  ⟨dMem (dSt 0 1 1 (dCh 4 dCopyDesc)) dCopyDesc, dMem (dSt 0 1 1 (dCh 4 dCopyDesc)) dCopyDesc, ((dMem (dSt 0 1 1 (dCh 4 dCopyDesc)) dCopyDesc).writeBack 0 1 .ok 0).getD up, 0, 1, 0x1040, by decide +kernel, by decide +kernel, by decide +kernel, by decide +kernel, by decide +kernel, by decide +kernel, by decide +kernel, by decide +kernel, by decide +kernel, by decide +kernel⟩

theorem test_meets_DmaDescriptorsRun_9_0 : ∃ (s s1 : State), ∃ (e k : Nat), chanOk e k = true ∧ s.dmaHeld e = false ∧ s.pw.waiting = [] ∧ s.dstate e k = 1 ∧ (s.chan e k).phase = 4 ∧ s.rereadNext e k = (s1, some none) :=
  ⟨dSt 0 1 1 { dCh 4 dCopyDesc with cur := 0x4000000 }, dSt 0 1 1 { dCh 4 dCopyDesc with cur := 0x4000000 }, 0, 1, by decide +kernel, by decide +kernel, by decide +kernel, by decide +kernel, by decide +kernel, by decide +kernel⟩

theorem test_meets_DmaDescriptorsRun_10_0 : ∃ (s : State), ∃ (e k : Nat), chanOk e k = true ∧ s.dstate e k = 2 ∧ (s.chan e k).phase = 1 ∧ (s.chan e k).failed = false ∧ (s.chan e k).aborting = false ∧ s.dmaWaits e k = false ∧ (s.chan e k).ret = [] ∧ (s.chan e k).todo = [3] ∧ (s.chan e k).nxt < 2 ^ 64 :=
  ⟨dSt 0 1 2 { dCh 1 dCopyDesc with todo := [3] }, 0, 1, by decide +kernel, by decide +kernel, by decide +kernel, by decide +kernel, by decide +kernel, by decide +kernel, by decide +kernel, by decide +kernel, by decide +kernel⟩

theorem test_meets_DmaChannelsAreControlled_6_0 : ∃ (s : State), ∃ (ch die port k : Nat), s.serves ch 0x23 [(1, die), (2, port)] .bound false = true ∧ s.servedSlice ch 0 < 64 ∧ die ≤ 1 ∧ port ≤ 3 ∧ s.dmaCount (s.servedSlice ch 0) < s.quota (s.servedSlice ch 0) 7 ∧ k < 64 ∧ s.fon DMA_CHAN_OWNER_VALID (240 + die) k = false ∧ (∀ j, j < k → s.fon DMA_CHAN_OWNER_VALID (240 + die) j = true) :=
  ⟨msg (dHostChan 1 0 0 2) 16 0x23 [(1, 1), (2, 3)], 16, 1, 3, 1, by decide +kernel, by decide +kernel, by decide +kernel, by decide +kernel, by decide +kernel, by decide +kernel, by decide +kernel, by decide +kernel⟩

theorem test_meets_DmaChannelsAreControlled_7_0 : ∃ (s : State), ∃ (ch c : Nat), s.serves ch 0x24 [(1, c)] .bound false = true ∧ c < 128 ∧ s.dmaSlice (240 + c / 64) (c % 64) = some (s.servedSlice ch 0) ∧ s.dstate (240 + c / 64) (c % 64) = 0 :=
  ⟨msg (dHostChan 1 63 0 1) 16 0x24 [(1, 127)], 16, 127, by decide +kernel, by decide +kernel, by decide +kernel, by decide +kernel⟩

theorem test_meets_HostPortsLinkAndComplete_0_0 : ∃ (s : State), ∃ (p fn off : Nat), p ≤ 7 ∧ s.pw.devReset = false ∧ s.bootState ≠ 0 ∧ fn ≤ 2 ∧ (fn = 0 ∨ (s.bootState ≠ 7 ∧ s.bootState ≠ 8)) ∧ s.dbg.loaded.vidOk = true :=
  ⟨base, 7, 2, 0x318, by decide +kernel, by decide +kernel, by decide +kernel, by decide +kernel, by decide +kernel, by decide +kernel⟩

theorem test_meets_HostPortsLinkAndComplete_0_1 : ∃ (s : State), ∃ (p fn off : Nat), p ≤ 7 ∧ s.pw.devReset = false ∧ s.bootState ≠ 0 ∧ fn ≤ 2 ∧ (fn = 0 ∨ (s.bootState ≠ 7 ∧ s.bootState ≠ 8)) ∧ s.dbg.loaded.vidOk = true ∧ ∃ (v : Nat), off / 4 * 4 = 4 :=
  ⟨base, 7, 1, 4, by decide +kernel, by decide +kernel, by decide +kernel, by decide +kernel, by decide +kernel, by decide +kernel, 0x406, by decide +kernel⟩

theorem test_meets_HostPortsLinkAndComplete_1_0 : ∃ (s : State), ∃ (p fn off : Nat), ∃ (w : Option Nat), p ≤ 7 ∧ s.pw.devReset = false ∧ s.bootState = 0 :=
  ⟨calm, 7, 0, 0, some 5, by decide +kernel, by decide +kernel, by decide +kernel⟩

theorem test_meets_HostPortsLinkAndComplete_2_0 : ∃ (s : State), ∃ (p fn off : Nat), ∃ (w : Option Nat), p ≤ 7 ∧ s.pw.devReset = false ∧ s.bootState ≠ 0 ∧ 2 < fn :=
  ⟨base, 7, 3, 0, none, by decide +kernel, by decide +kernel, by decide +kernel, by decide +kernel⟩

theorem test_meets_HostPortsLinkAndComplete_3_0a : ∃ (s : State), ∃ (p speed width : Nat), ∃ (flit : Bool), p ≤ 7 ∧ 1 ≤ speed ∧ speed ≤ 6 ∧ width ∈ [1, 2, 4, 8, 16] ∧ (speed = 6 → flit = true) ∧ s.pw.devReset = false ∧ p ∉ s.pw.perstLow ∧ p ∉ s.pw.refLost :=
  ⟨base, 7, 6, 16, true, by decide +kernel, by decide +kernel, by decide +kernel, by decide +kernel, by decide +kernel, by decide +kernel, by decide +kernel, by decide +kernel⟩

theorem test_meets_HostPortsLinkAndComplete_3_0b : ∃ (s : State), ∃ (p speed width : Nat), ∃ (flit : Bool), p ≤ 7 ∧ 1 ≤ speed ∧ speed ≤ 6 ∧ width ∈ [1, 2, 4, 8, 16] ∧ (speed = 6 → flit = true) ∧ s.pw.devReset = false ∧ p ∉ s.pw.perstLow ∧ p ∉ s.pw.refLost :=
  ⟨base, 0, 1, 1, false, by decide +kernel, by decide +kernel, by decide +kernel, by decide +kernel, by decide +kernel, by decide +kernel, by decide +kernel, by decide +kernel⟩

theorem test_meets_HostPortsLinkAndComplete_4_0 : ∃ (s : State), ∃ (p fn : Nat), (s.port p).enabled fn = true ∧ (s.port p).up = true :=
  ⟨pSt base 7 { pUp [(4, 4)] with held := [heldPost] }, 7, 0, by decide +kernel, by decide +kernel⟩

theorem test_meets_HostPortsLinkAndComplete_5_0 : ∃ (s : State), ∃ (p fn : Nat), ∃ (h : HeldPost), (s.port p).enabled fn = true ∧ (s.port p).up = true ∧ (s.port p).held = [h] ∧ h.fn = fn ∧ h.bytes ≠ [] ∧ h.bytes.length ≤ min ((s.port p).maxPayload fn) (4096 - h.addr % 4096) :=
  ⟨pSt base 7 { pUp [(4, 4)] with held := [heldPost] }, 7, 0, heldPost, by decide +kernel, by decide +kernel, by decide +kernel, by decide +kernel, by decide +kernel, by decide +kernel⟩

theorem test_meets_HostPortsLinkAndComplete_6_0 : ∃ (s : State), ∃ (p : Nat), ∃ (sub : Bool), p ≤ 7 ∧ (s.port p).up = true ∧ bit ((s.port p).cfgWord 0 0x80) 1 = true ∧ (s.port p).held = [] ∧ (∀ r ∈ s.hl.npr, r.port = p → r.quar = true) ∧ s.fget HIF_CTL_L1_IDLE_US p ≤ 10 * (s.pw.onTicks + 1 - (s.port p).busyTick) ∧ (sub = true → getBits ((s.port p).cfgWord 0 0x170) 3 2 ≠ 0) :=
  ⟨{ pSt base 7 (pUp [(0x80, 2), (0x170, 4)]) with pw := { base.pw with onTicks := 10000 } }, 7, true, by decide +kernel, by decide +kernel, by decide +kernel, by decide +kernel, by decide +kernel, by decide +kernel, by decide +kernel⟩

theorem test_meets_HostPortsLinkAndComplete_7_0 : ∃ (s : State), ∃ (p : Nat), (s.port p).up = true ∧ (s.port p).ltr ≠ s.ltrValue p ∧ (s.port p).ltrTick + 100 ≤ s.pw.onTicks ∧ bit ((s.port p).cfgWord 0 0x98) 10 = true :=
  ⟨{ pSt (base.setWq { wq3 with port := 7, tail := 3 }) 7 (pUp [(0x98, 1024)]) with pw := { base.pw with onTicks := 100 } }, 7, by decide +kernel, by decide +kernel, by decide +kernel, by decide +kernel⟩

theorem test_meets_HostAperturesAndDoorbells_0_0 : ∃ (s : State), ∃ (p off e a sl : Nat), ∃ (bs : List Byte), p ≤ 7 ∧ off < 2 ^ 36 ∧ 0 < bs.length ∧ off % 4096 + bs.length ≤ 4096 ∧ s.pw.devReset = false ∧ (s.port p).up = true ∧ (s.port p).decodes 0 = true ∧ e = smGetD s.hl.apt (p * 32768 + off / 0x200000) 0 ∧ bit e 63 = true ∧ a = getBits e 47 21 * 0x200000 + off % 0x200000 ∧ sl = getBits e 61 56 ∧ (s.wakeLink p).accessErr sl a bs.length true = none :=
  ⟨aptSt, 7, 0xFFC, 2 ^ 63 + 2 ^ 56, 0xFFC, 1, [1, 2, 3, 4], by decide +kernel, by decide +kernel, by decide +kernel, by decide +kernel, by decide +kernel, by decide +kernel, by decide +kernel, by decide +kernel, by decide +kernel, by decide +kernel, by decide +kernel, by decide +kernel⟩

theorem test_meets_HostAperturesAndDoorbells_1_0 : ∃ (s : State), ∃ (p off len e a sl : Nat), ∃ (bs : List Byte), p ≤ 7 ∧ off < 2 ^ 36 ∧ 0 < len ∧ off % 4096 + len ≤ 4096 ∧ s.pw.devReset = false ∧ (s.port p).up = true ∧ (s.port p).decodes 0 = true ∧ e = smGetD s.hl.apt (p * 32768 + off / 0x200000) 0 ∧ bit e 63 = true ∧ a = getBits e 47 21 * 0x200000 + off % 0x200000 ∧ sl = getBits e 61 56 ∧ (s.wakeLink p).accessErr sl a len false = none ∧ ((s.wakeLink p).busRead a len).bytes = some bs :=
  ⟨aptSt, 7, 0xFFC, 4, 2 ^ 63 + 2 ^ 56, 0xFFC, 1, [0, 0, 0, 0], by decide +kernel, by decide +kernel, by decide +kernel, by decide +kernel, by decide +kernel, by decide +kernel, by decide +kernel, by decide +kernel, by decide +kernel, by decide +kernel, by decide +kernel, by decide +kernel, by decide +kernel⟩

theorem test_meets_HostAperturesAndDoorbells_2_0 : ∃ (s : State), ∃ (p off len : Nat), p ≤ 7 ∧ off < 2 ^ 36 ∧ 0 < len ∧ off % 4096 + len ≤ 4096 ∧ s.pw.devReset = false ∧ (s.port p).up = true ∧ (s.port p).decodes 0 = true ∧ bit (smGetD s.hl.apt (p * 32768 + off / 0x200000) 0) 63 = false :=
  ⟨aptSt, 7, 2 ^ 36 - 4, 4, by decide +kernel, by decide +kernel, by decide +kernel, by decide +kernel, by decide +kernel, by decide +kernel, by decide +kernel, by decide +kernel⟩

theorem test_meets_HostAperturesAndDoorbells_3_0 : ∃ (s : State), ∃ (p sl n v : Nat), ∃ (q : Wq), p ≤ 7 ∧ sl < 64 ∧ n < 128 ∧ s.pw.devReset = false ∧ 5 ≤ s.bootState ∧ s.bootState ≠ 7 ∧ s.bootState ≠ 8 ∧ (s.port p).up = true ∧ s.wq sl n = some q ∧ q.slice = sl ∧ q.num = n ∧ q.port = p ∧ s.accepts sl = true ∧ q.err = false ∧ v < q.size ∧ v < 2 ^ 16 :=
  ⟨wqUp 63 127 7, 7, 63, 127, 63, { wqSl 127 7 with slice := 63 }, by decide +kernel, by decide +kernel, by decide +kernel, by decide +kernel, by decide +kernel, by decide +kernel, by decide +kernel, by decide +kernel, by decide +kernel, by decide +kernel, by decide +kernel, by decide +kernel, by decide +kernel, by decide +kernel, by decide +kernel, by decide +kernel⟩

theorem test_meets_HostAperturesAndDoorbells_4_0 : ∃ (s : State), ∃ (p sl n v : Nat), ∃ (q : Wq), p ≤ 7 ∧ sl < 64 ∧ n < 128 ∧ s.pw.devReset = false ∧ 5 ≤ s.bootState ∧ s.bootState ≠ 7 ∧ s.bootState ≠ 8 ∧ (s.port p).up = true ∧ s.wq sl n = some q ∧ q.slice = sl ∧ q.num = n ∧ q.port ≠ p :=
  ⟨wqUp 63 127 0, 7, 63, 127, 63, { wqSl 127 0 with slice := 63 }, by decide +kernel, by decide +kernel, by decide +kernel, by decide +kernel, by decide +kernel, by decide +kernel, by decide +kernel, by decide +kernel, by decide +kernel, by decide +kernel, by decide +kernel, by decide +kernel⟩

theorem test_meets_HostAperturesAndDoorbells_5_0 : ∃ (s : State), ∃ (ch ring size pasid port hwb vec n sl : Nat), s.serves ch 0x20 [] .bound true = true ∧ sl = s.servedSlice ch 0 ∧ isPow2 size = true ∧ 64 ≤ size ∧ size ≤ 65536 ∧ port ≤ 7 ∧ 1 ≤ vec ∧ vec ≤ 2047 ∧ pasid ≤ 15 ∧ ring < 2 ^ 64 ∧ hwb < 2 ^ 64 ∧ pasid ∈ s.boundIdx sl ∧ s.wqCount sl < min 128 (s.quota sl 6) ∧ (s.hl.wqs.filter (fun q => q.2.port == port)).length < 512 ∧ s.vecCount sl port < s.quota sl 8 ∧ freeIndex ((s.hl.wqs.filter (fun q => q.2.slice == sl)).map (·.2.num)) 0 128 = some n :=
  ⟨msg base 16 0x20 [], 16, 0xFFFFFFFFFFFFF000, 65536, 0, 3, 0x9000, 2047, 0, 1, by decide +kernel, by decide +kernel, by decide +kernel, by decide +kernel, by decide +kernel, by decide +kernel, by decide +kernel, by decide +kernel, by decide +kernel, by decide +kernel, by decide +kernel, by decide +kernel, by decide +kernel, by decide +kernel, by decide +kernel, by decide +kernel⟩

theorem test_meets_HostAperturesAndDoorbells_6_0 : ∃ (s : State), ∃ (ch q : Nat), ∃ (w : Wq), s.serves ch 0x21 [(1, q)] .bound false = true ∧ q ≤ 127 ∧ s.wq (s.servedSlice ch 0) q = some w ∧ w.slice = s.servedSlice ch 0 ∧ w.num = q :=
  ⟨msg (base.setWq { wqSl 127 7 with err := true, head := 4, tail := 9 }) 16 0x21 [(1, 127)], 16, 127, { wqSl 127 7 with err := true, head := 4, tail := 9 }, by decide +kernel, by decide +kernel, by decide +kernel, by decide +kernel, by decide +kernel⟩

theorem test_meets_HostAperturesAndDoorbells_7_0 : ∃ (s : State), ∃ (ch q : Nat), ∃ (w : Wq), s.serves ch 0x22 [(1, q)] .bound false = true ∧ q ≤ 127 ∧ s.wq (s.servedSlice ch 0) q = some w ∧ w.fetching = 0 ∧ w.ready = [] ∧ (∀ k ∈ s.works, ¬(k.2.slice = s.servedSlice ch 0 ∧ k.2.queue = q)) ∧ (∀ r ∈ s.cph.reqs, ¬(r.slice = s.servedSlice ch 0 ∧ r.queue = q)) :=
  ⟨msg (base.setWq (wqSl 127 7)) 16 0x22 [(1, 127)], 16, 127, wqSl 127 7, by decide +kernel, by decide +kernel, by decide +kernel, by decide +kernel, by decide +kernel, by decide +kernel, by decide +kernel⟩

theorem test_meets_HostPortsLinkAndComplete_8_0 : ∃ (s s1 : State), ∃ (p tag : Nat), ∃ (st : Status), ∃ (bs : List Byte), ∃ (r : Npr), s.byTag p tag = some r ∧ s.injHost p r.slice = (s1, []) :=
  ⟨nprSt npr1, nprSt npr1, 7, 3, .ok, [1], npr1, by decide +kernel, rfl⟩

theorem test_meets_HostPortsLinkAndComplete_9_0 : ∃ (s : State), ∃ (p tag : Nat), ∃ (bs : List Byte), ∃ (r : Npr), s.byTag p tag = some r ∧ (r.slice < 64 → r.sgen = s.curGen r.slice) :=
  ⟨nprSt npr1, 7, 3, [1], npr1, by decide +kernel, by decide +kernel⟩

theorem test_meets_HostPortsLinkAndComplete_10_0 : ∃ (s : State), ∃ (p idx : Nat), ∃ (r : Npr), p ≤ 7 ∧ s.hl.npr.find? (fun r => r.port == p && r.idx == idx && !r.quar && s.nprDue r) = some r ∧ (r.slice < 64 → r.sgen = s.curGen r.slice) :=
  ⟨nprSt npr1, 7, 3, npr1, by decide +kernel, by decide +kernel, by decide +kernel⟩

theorem test_meets_HostPortsLinkAndComplete_11_0 : ∃ (s : State), ∃ (p tag : Nat), ∃ (hdr : List Nat), p ≤ 7 ∧ s.byTag p tag = none :=
  ⟨base, 7, 3, [1, 2, 3, 4], by decide +kernel, by decide +kernel⟩

theorem test_meets_HostPortsLinkAndComplete_12_0 : ∃ (s : State), ∃ (p idx : Nat), ∃ (r : Npr), r ∈ s.hl.npr ∧ r.port = p ∧ r.idx = idx ∧ r.quar = true ∧ s.nprDue r = true :=
  ⟨nprSt { npr1 with quar := true }, 7, 3, { npr1 with quar := true }, by decide +kernel, by decide +kernel, by decide +kernel, by decide +kernel, by decide +kernel⟩

theorem test_meets_HostPortsLinkAndComplete_13_0 : ∃ (s : State), ∃ (p : Nat), p ≤ 7 ∧ s.fon HIF_MAP_SEL_TABLE p = false :=
  ⟨aptSt, 7, by decide +kernel, by decide +kernel⟩

theorem test_meets_HostPortsLinkAndComplete_14_0a : ∃ (s : State), ∃ (p v : Nat), ∃ (g : Bool), p ≤ 7 ∧ s.fon HIF_MAP_SEL_TABLE p = g ∧ (g = true → s.fget HIF_MAP_SEL_INDEX p < 224) ∧ mapEntry g (s.rget HIF_MAP_DATA0 p + s.rget HIF_MAP_DATA1 p * 2 ^ 32) = (v, false) :=
  ⟨(aptSt.fset HIF_MAP_SEL_TABLE 1 7).fset HIF_MAP_SEL_INDEX 223 7, 7, 0, true, by decide +kernel, by decide +kernel, by decide +kernel, by decide +kernel⟩

theorem test_meets_HostPortsLinkAndComplete_14_0b : ∃ (s : State), ∃ (p v : Nat), ∃ (g : Bool), p ≤ 7 ∧ s.fon HIF_MAP_SEL_TABLE p = g ∧ (g = true → s.fget HIF_MAP_SEL_INDEX p < 224) ∧ mapEntry g (s.rget HIF_MAP_DATA0 p + s.rget HIF_MAP_DATA1 p * 2 ^ 32) = (v, false) :=
  ⟨aptSt, 7, 0, false, by decide +kernel, by decide +kernel, by decide +kernel, by decide +kernel⟩

theorem test_meets_HostPortsLinkAndComplete_15_0a : ∃ (s : State), ∃ (ch p us : Nat), s.serves ch 0x0B [(1, p), (2, us)] .secure false = true ∧ p ≤ 7 ∧ (us = 0 ∨ (50 ≤ us ∧ us ≤ 64000000)) :=
  ⟨msg base 0 0x0B [(1, 7), (2, 64000000)], 0, 7, 64000000, by decide +kernel, by decide +kernel, by decide +kernel⟩

theorem test_meets_HostPortsLinkAndComplete_15_0b : ∃ (s : State), ∃ (ch p us : Nat), s.serves ch 0x0B [(1, p), (2, us)] .secure false = true ∧ p ≤ 7 ∧ (us = 0 ∨ (50 ≤ us ∧ us ≤ 64000000)) :=
  ⟨msg base 0 0x0B [(1, 7), (2, 50)], 0, 7, 50, by decide +kernel, by decide +kernel, by decide +kernel⟩

theorem test_meets_HostAperturesAndDoorbells_8_0 : ∃ (s u : State), ∃ (p : Nat), p ≤ 7 ∧ (s.port p).up = true ∧ s.pw.devReset = false ∧ u = (s.wakeLink p).mbxWake (.port p) ∧ (u.port p).decodes 0 = true :=
  ⟨pSt base 7 (pUp [(4, 2)]), pSt base 7 (pUp [(4, 2)]), 7, by decide +kernel, by decide +kernel, by decide +kernel, by decide +kernel, by decide +kernel⟩

theorem test_meets_HostAperturesAndDoorbells_9_0 : ∃ (s u : State), ∃ (p off size v : Nat), p ≤ 7 ∧ (s.port p).up = true ∧ s.pw.devReset = false ∧ u = (s.wakeLink p).mbxWake (.port p) ∧ (u.port p).decodes 0 = true ∧ 0 < size ∧ off + size ≤ 0x4000000 ∧ (off % 4 ≠ 0 ∨ size % 4 ≠ 0) :=
  ⟨pSt base 7 (pUp [(4, 2)]), pSt base 7 (pUp [(4, 2)]), 7, 0x3FFFFFF, 1, 9, by decide +kernel, by decide +kernel, by decide +kernel, by decide +kernel, by decide +kernel, by decide +kernel, by decide +kernel, by decide +kernel⟩

theorem test_meets_HostAperturesAndDoorbells_10_0 : ∃ (s u : State), ∃ (p n v : Nat), p ≤ 7 ∧ (s.port p).up = true ∧ s.pw.devReset = false ∧ u = (s.wakeLink p).mbxWake (.port p) ∧ (u.port p).decodes 0 = true ∧ n < 2048 :=
  ⟨pSt base 7 (pUp [(4, 2)]), pSt base 7 (pUp [(4, 2)]), 7, 2047, 3, by decide +kernel, by decide +kernel, by decide +kernel, by decide +kernel, by decide +kernel, by decide +kernel⟩

theorem test_meets_SlicesChangeByTheirCommands_0_0 : ∃ (s : State), ∃ (ch sl : Nat), s.serves ch 0x10 [(1, sl)] .secure false = true ∧ sl ≤ 63 ∧ s.slState sl = 0 :=
  ⟨msg base 0 0x10 [(1, 63)], 0, 63, by decide +kernel, by decide +kernel, by decide +kernel⟩

theorem test_meets_SlicesChangeByTheirCommands_1_0 : ∃ (s : State), ∃ (ch sl : Nat), s.serves ch 0x10 [(1, sl)] .secure false = true ∧ sl ≤ 63 ∧ s.slState sl ≠ 0 :=
  ⟨msg base 0 0x10 [(1, 1)], 0, 1, by decide +kernel, by decide +kernel, by decide +kernel⟩

theorem test_meets_SlicesChangeByTheirCommands_2_0 : ∃ (s : State), ∃ (ch sl pasid idx mask k : Nat), s.serves ch 0x12 [(1, sl)] .secure true = true ∧ sl ≤ 63 ∧ s.slState sl ≠ 0 ∧ (s.sx sl).cmd = 0 ∧ pasid < 2 ^ 20 ∧ idx ≤ 15 ∧ 0 < mask ∧ mask < 16 ∧ s.pasidTaken sl pasid mask = false ∧ (s.boundIdx sl).length < 16 ∧ idx ∉ s.boundIdx sl ∧ smLowestFree s.hl.pasid (fun v => bit v 63) 0 1024 = some k :=
  ⟨msg (slSt base 63 1) 0 0x12 [(1, 63)], 0, 63, 2 ^ 20 - 1, 15, 15, 1, by decide +kernel, by decide +kernel, by decide +kernel, by decide +kernel, by decide +kernel, by decide +kernel, by decide +kernel, by decide +kernel, by decide +kernel, by decide +kernel, by decide +kernel, by decide +kernel⟩

theorem test_meets_SlicesChangeByTheirCommands_3_0 : ∃ (s : State), ∃ (ch sl pasid idx mask k j : Nat), s.serves ch 0x12 [(1, sl)] .secure true = true ∧ sl ≤ 63 ∧ s.slState sl ≠ 0 ∧ (s.sx sl).cmd = 0 ∧ pasid < 2 ^ 20 ∧ idx ≤ 15 ∧ 16 < mask ∧ mask < 256 ∧ mask % 16 ≠ 0 ∧ s.pasidTaken sl pasid mask = false ∧ (s.boundIdx sl).length < 16 ∧ idx ∉ s.boundIdx sl ∧ smLowestFree s.hl.pasid (fun v => bit v 63) 0 1024 = some k ∧ smLowestFree (smSet s.hl.pasid k (2 ^ 63 + sl * 2 ^ 56 + idx * 2 ^ 48 + mask % 16 * 2 ^ 32 + pasid)) (fun v => bit v 63) 1024 1024 = some j :=
  ⟨msg (slSt base 63 1) 0 0x12 [(1, 63)], 0, 63, 2 ^ 20 - 1, 15, 255, 1, 1024, by decide +kernel, by decide +kernel, by decide +kernel, by decide +kernel, by decide +kernel, by decide +kernel, by decide +kernel, by decide +kernel, by decide +kernel, by decide +kernel, by decide +kernel, by decide +kernel, by decide +kernel, by decide +kernel⟩

theorem test_meets_SlicesChangeByTheirCommands_4_0 : ∃ (s : State), ∃ (ch sl idx : Nat), s.serves ch 0x13 [(1, sl), (2, idx)] .secure false = true ∧ sl ≤ 63 ∧ s.slState sl ≠ 0 ∧ (s.sx sl).cmd = 0 ∧ idx ∈ s.boundIdx sl ∧ (∀ e ∈ s.windows sl, getBits e 115 112 ≠ idx) ∧ (∀ q ∈ s.hl.wqs, q.2.slice = sl → q.2.pasid ≠ idx) :=
  ⟨msg { base with hl := { base.hl with win := [] } } 0 0x13 [(1, 1), (2, 0)], 0, 1, 0, by decide +kernel, by decide +kernel, by decide +kernel, by decide +kernel, by decide +kernel, by decide +kernel, by decide +kernel⟩

theorem test_meets_SlicesChangeByTheirCommands_5_0a : ∃ (s : State), ∃ (ch sl w e : Nat), s.serves ch 0x14 [(1, sl)] .secure true = true ∧ sl ≤ 63 ∧ s.slState sl ≠ 0 ∧ (s.sx sl).cmd = 0 ∧ w ≤ 63 ∧ s.slcGet SLC_DIRTY_EN sl = 0 :=
  ⟨msg base 0 0x14 [(1, 1)], 0, 1, 63, 2 ^ 127 + 2 ^ 118, by decide +kernel, by decide +kernel, by decide +kernel, by decide +kernel, by decide +kernel, by decide +kernel⟩

theorem test_meets_SlicesChangeByTheirCommands_5_0b : ∃ (s : State), ∃ (ch sl w e : Nat), s.serves ch 0x14 [(1, sl)] .secure true = true ∧ sl ≤ 63 ∧ s.slState sl ≠ 0 ∧ (s.sx sl).cmd = 0 ∧ w ≤ 63 ∧ s.slcGet SLC_DIRTY_EN sl = 0 :=
  ⟨msg base 0 0x14 [(1, 1)], 0, 1, 63, 2 ^ 127 + 2 ^ 117, by decide +kernel, by decide +kernel, by decide +kernel, by decide +kernel, by decide +kernel, by decide +kernel⟩

theorem test_meets_SlicesChangeByTheirCommands_6_0 : ∃ (s : State), ∃ (ch sl hold : Nat), ∃ (qs : List Nat), ∃ (take : List Nat), s.serves ch 0x15 [(1, sl)] .secure true = true ∧ sl ≤ 63 ∧ s.slState sl ≠ 0 ∧ (s.sx sl).cmd = 0 ∧ qs.length = 14 ∧ (∀ i, i < 14 → qs.getD i 0 ≤ s.quotaMax.getD i 0) ∧ 1 ≤ hold ∧ hold ≤ 256 ∧ s.sumBroken sl qs = false ∧ (∀ u ∈ s.quotaUse sl, u.2 ≤ qs.getD u.1 0) ∧ qs.getD 0 0 = (s.clustersOf sl).length ∧ s.stackUse sl - 16 * s.slcGet SLC_HOLD_HOLD_MIB sl + 16 * hold ≤ qs.getD 1 0 :=
  ⟨msg base 0 0x15 [(1, 1)], 0, 1, 1, quota1, [], by decide +kernel, by decide +kernel, by decide +kernel, by decide +kernel, by decide +kernel, by decide +kernel, by decide +kernel, by decide +kernel, by decide +kernel, by decide +kernel, by decide +kernel, by decide +kernel⟩

theorem test_meets_SlicesChangeByTheirCommands_7_0 : ∃ (s : State), ∃ (sl : Nat), (s.sx sl).cmd = 1 ∧ (s.sx sl).giving ≠ [] ∧ (s.sx sl).drainTick + 100000 ≤ s.pw.onTicks ∧ s.running = true ∧ ((s.handOn sl).sx sl).giving ≠ [] :=
  ⟨{ giveSt with cmp := { giveSt.cmp with drains := [drain1] }, tbl := [(hnd, tbl1)] }, 1, by decide +kernel, by decide +kernel, by decide +kernel, by decide +kernel, by decide +kernel⟩

theorem test_meets_SlicesChangeByTheirCommands_8_0 : ∃ (s : State), ∃ (ch sl0 sl phase : Nat), s.serves ch 0x16 ([(2, phase)] ++ if ch % 32 < 16 then [(1, sl0)] else []) .either false = true ∧ sl = s.servedSlice ch sl0 ∧ sl ≤ 63 ∧ s.notDriver ch sl = false ∧ s.slState sl ≠ 0 ∧ (s.sx sl).cmd = 0 ∧ phase ≤ 3 :=
  ⟨msg base 0 0x16 [(2, 3), (1, 1)], 0, 1, 1, 3, by decide +kernel, by decide +kernel, by decide +kernel, by decide +kernel, by decide +kernel, by decide +kernel, by decide +kernel⟩

theorem test_meets_SlicesChangeByTheirCommands_9_0 : ∃ (s : State), ∃ (ch sl0 sl scope : Nat), s.serves ch 0x17 ([(2, scope)] ++ if ch % 32 < 16 then [(1, sl0)] else []) .either false = true ∧ sl = s.servedSlice ch sl0 ∧ sl ≤ 63 ∧ s.notDriver ch sl = false ∧ s.slState sl = 1 ∧ (s.sx sl).cmd = 0 ∧ scope ≤ 1 ∧ s.slcGet SLC_CTL_PHASE sl = 1 :=
  ⟨msg (slPut base SLC_CTL_PHASE 1 1) 0 0x17 [(2, 1), (1, 1)], 0, 1, 1, 1, by decide +kernel, by decide +kernel, by decide +kernel, by decide +kernel, by decide +kernel, by decide +kernel, by decide +kernel, by decide +kernel⟩

theorem test_meets_SlicesChangeByTheirCommands_9_1 : ∃ (s : State), ∃ (ch sl0 sl scope : Nat), s.serves ch 0x17 ([(2, scope)] ++ if ch % 32 < 16 then [(1, sl0)] else []) .either false = true ∧ sl = s.servedSlice ch sl0 ∧ sl ≤ 63 ∧ s.notDriver ch sl = false ∧ s.slState sl = 1 ∧ (s.sx sl).cmd = 0 ∧ scope ≤ 1 ∧ s.slcGet SLC_CTL_PHASE sl ≠ 1 :=
  ⟨msg (slPut base SLC_CTL_PHASE 1 2) 0 0x17 [(2, 0), (1, 1)], 0, 1, 1, 0, by decide +kernel, by decide +kernel, by decide +kernel, by decide +kernel, by decide +kernel, by decide +kernel, by decide +kernel, by decide +kernel⟩

theorem test_meets_SlicesChangeByTheirCommands_10_0 : ∃ (s : State), ∃ (ch sl0 sl scope : Nat), s.serves ch 0x17 ([(2, scope)] ++ if ch % 32 < 16 then [(1, sl0)] else []) .either false = true ∧ sl = s.servedSlice ch sl0 ∧ sl ≤ 63 ∧ s.notDriver ch sl = false ∧ s.slState sl = 1 ∧ (s.sx sl).cmd = 1 ∧ scope ≤ 1 :=
  ⟨msg giveSt 0 0x17 [(2, 1), (1, 1)], 0, 1, 1, 1, by decide +kernel, by decide +kernel, by decide +kernel, by decide +kernel, by decide +kernel, by decide +kernel, by decide +kernel⟩

theorem test_meets_SlicesChangeByTheirCommands_11_0 : ∃ (s : State), ∃ (ch sl : Nat), s.serves ch 0x11 [(1, sl)] .secure false = true ∧ sl ≤ 63 ∧ s.slState sl = 1 ∧ (s.sx sl).cmd = 0 :=
  ⟨msg (slSt base 63 1) 0 0x11 [(1, 63)], 0, 63, by decide +kernel, by decide +kernel, by decide +kernel, by decide +kernel⟩

theorem test_meets_SlicesChangeByTheirCommands_12_0a : ∃ (s : State), ∃ (sl : Nat), sl < 64 ∧ s.slState sl = 2 ∧ s.running = true ∧ (s.drained sl = true ∨ (s.sx sl).drainTick + 100 * s.slcGet SLC_TIMERS_DRAIN_MS sl ≤ s.pw.onTicks) :=
  ⟨slSt base 63 2, 63, by decide +kernel, by decide +kernel, by decide +kernel, by decide +kernel⟩

theorem test_meets_SlicesChangeByTheirCommands_12_0b : ∃ (s : State), ∃ (sl : Nat), sl < 64 ∧ s.slState sl = 2 ∧ s.running = true ∧ (s.drained sl = true ∨ (s.sx sl).drainTick + 100 * s.slcGet SLC_TIMERS_DRAIN_MS sl ≤ s.pw.onTicks) :=
  ⟨late ((slSt base 1 2).setWork 4 (lookWork [5, 6])), 1, by decide +kernel, by decide +kernel, by decide +kernel, by decide +kernel⟩

theorem test_meets_SlicesChangeByTheirCommands_13_0 : ∃ (s : State), ∃ (sl : Nat), sl < 64 ∧ (s.injSliceOff sl).genCarried sl (((s.injSliceOff sl).curGen sl + 1) % 256) = true :=
  ⟨sxSt (base.setWork 4 { lookWork [5, 6] with gen := 1 }) 1 (base.sx 1), 1, by decide +kernel, by decide +kernel⟩

theorem test_meets_SlicesChangeByTheirCommands_14_0 : ∃ (s : State), ∃ (sl : Nat), (s.sx sl).advance = true ∧ s.genCarried sl ((s.curGen sl + 1) % 256) = false :=
  ⟨sxSt base 1 { base.sx 1 with advance := true }, 1, by decide +kernel, by decide +kernel⟩

theorem test_meets_SlicesChangeByTheirCommands_15_0 : ∃ (s : State), ∃ (ch sl d vec : Nat), s.serves ch 0x18 [(1, d), (2, 1)] .bound false = true ∧ sl = s.servedSlice ch 0 ∧ sl ≤ 63 ∧ ch / 32 ≤ 7 ∧ s.slState sl ≠ 0 ∧ (s.sx sl).cmd = 0 ∧ d ≤ 15 ∧ (s.sx sl).driver = none ∧ (s.sx sl).advance = false ∧ vec ≤ 2047 ∧ s.vecCount sl (ch / 32) < s.quota sl 8 :=
  ⟨msg base 16 0x18 [(1, 15), (2, 1)], 16, 1, 15, 2047, by decide +kernel, by decide +kernel, by decide +kernel, by decide +kernel, by decide +kernel, by decide +kernel, by decide +kernel, by decide +kernel, by decide +kernel, by decide +kernel, by decide +kernel⟩

theorem test_meets_SlicesChangeByTheirCommands_16_0 : ∃ (s : State), ∃ (ch sl : Nat), s.serves ch 0x19 [] .bound false = true ∧ sl = s.servedSlice ch 0 ∧ sl ≤ 63 ∧ ch / 32 ≤ 7 ∧ s.slState sl ≠ 0 ∧ (s.sx sl).cmd = 0 ∧ s.drained sl = true :=
  ⟨msg base 16 0x19 [], 16, 1, by decide +kernel, by decide +kernel, by decide +kernel, by decide +kernel, by decide +kernel, by decide +kernel, by decide +kernel⟩

theorem test_meets_SlicesChangeByTheirCommands_17_0 : ∃ (s : State), ∃ (slot sl : Nat), s.fwRuns = true ∧ 3 ≤ s.missedBeats (slot / 16) (slot % 16) ∧ sl < 64 ∧ s.slotSlices (slot / 16) (slot % 16) = [sl] ∧ s.slState sl = 1 ∧ s.slcGet SLC_CTL_HB_EN sl ≠ 0 :=
  ⟨late (slPut (sxSt base 1 { base.sx 1 with driver := some 127 }) SLC_CTL_HB_EN 1 1), 127, 1, by decide +kernel, by decide +kernel, by decide +kernel, by decide +kernel, by decide +kernel, by decide +kernel⟩

theorem test_meets_SlicesChangeByTheirCommands_18_0a : ∃ (s : State), ∃ (sl : Nat), sl < 64 ∧ s.slState sl = 4 ∧ s.running = true ∧ (s.slcGet SLC_STATUS_HOLD_FULL sl = 1 ∨ (s.sx sl).markTick + 100000 * s.slcGet SLC_TIMERS_HOLD_S sl ≤ s.pw.onTicks) :=
  ⟨late (slSt base 63 4), 63, by decide +kernel, by decide +kernel, by decide +kernel, by decide +kernel⟩

theorem test_meets_SlicesChangeByTheirCommands_18_0b : ∃ (s : State), ∃ (sl : Nat), sl < 64 ∧ s.slState sl = 4 ∧ s.running = true ∧ (s.slcGet SLC_STATUS_HOLD_FULL sl = 1 ∨ (s.sx sl).markTick + 100000 * s.slcGet SLC_TIMERS_HOLD_S sl ≤ s.pw.onTicks) :=
  ⟨slPut (slSt base 63 4) SLC_STATUS_HOLD_FULL 63 1, 63, by decide +kernel, by decide +kernel, by decide +kernel, by decide +kernel⟩

theorem test_meets_SlicesChangeByTheirCommands_19_0 : ∃ (s : State), ∃ (ch sl need : Nat), ∃ (regions : List Nat), s.serves ch 0x1A [(1, sl)] .secure false = true ∧ sl ≤ 63 ∧ s.slState sl ≠ 0 ∧ (s.sx sl).cmd = 0 ∧ s.slcGet SLC_DIRTY_EN sl = 0 ∧ ((s.logWindows sl).map (·.2)).sum ≤ 2 ^ 28 ∧ need = ceilDiv (2 * s.mapLen sl) 0x10000 ∧ s.fits sl need = true ∧ regions.length = need ∧ regions.eraseDups.length = need ∧ (∀ r ∈ regions, s.regionFree r = true) :=
  ⟨msg base 0 0x1A [(1, 1)], 0, 1, 0, [], by decide +kernel, by decide +kernel, by decide +kernel, by decide +kernel, by decide +kernel, by decide +kernel, by decide +kernel, by decide +kernel, by decide +kernel, by decide +kernel, by decide +kernel⟩

theorem test_meets_SlicesChangeByTheirCommands_20_0 : ∃ (s : State), ∃ (ch sl d addr : Nat), s.serves ch 0x1B [(1, sl), (2, d), (3, addr % 2 ^ 32), (4, addr / 2 ^ 32)] .secure false = true ∧ sl ≤ 63 ∧ d ≤ 63 ∧ s.slState sl ≠ 0 ∧ (s.sx sl).cmd = 0 ∧ s.slState d ≠ 0 ∧ s.slcGet SLC_DIRTY_EN sl ≠ 0 ∧ s.postWaits sl = true :=
  ⟨msg waitHs 0 0x1B [(1, 1), (2, 1), (3, 0x5000), (4, 0)], 0, 1, 1, 0x5000, by decide +kernel, by decide +kernel, by decide +kernel, by decide +kernel, by decide +kernel, by decide +kernel, by decide +kernel, by decide +kernel⟩

theorem test_meets_SlicesChangeByTheirCommands_21_0 : ∃ (s t t1 t2 : State), ∃ (bs : List Byte), ∃ (ch sl d addr : Nat), s.serves ch 0x1B [(1, sl), (2, d), (3, addr % 2 ^ 32), (4, addr / 2 ^ 32)] .secure false = true ∧ sl ≤ 63 ∧ d ≤ 63 ∧ s.slState sl ≠ 0 ∧ (s.sx sl).cmd = 0 ∧ s.slState d ≠ 0 ∧ s.slcGet SLC_DIRTY_EN sl ≠ 0 ∧ s.postWaits sl = false ∧ t = (((s.takeUp ch).slcPut SLC_DIRTY_ACTIVE_MAP sl (1 - s.slcGet SLC_DIRTY_ACTIVE_MAP sl)).slcPut SLC_DIRTY_HARVEST sl 1).modSx sl (fun x => { x with cmd := 0, cmdCh := ch, harvest := none }) ∧ t.mapBytes sl (s.slcGet SLC_DIRTY_ACTIVE_MAP sl) = (t1, some bs) ∧ t1.hostPut ((t1.drvPort d).getD 0) 0 d (t1.curGen d) addr false bs = (.ok, t2) :=
  ⟨msg dirtySt 0 0x1B [(1, 1), (2, 1), (3, 0x5000), (4, 0)], hvT, hvT1, (hvT1.hostPut 0 0 1 0 0x5000 false hvB).2, hvB, 0, 1, 1, 0x5000, by decide +kernel, by decide +kernel, by decide +kernel, by decide +kernel, by decide +kernel, by decide +kernel, by decide +kernel, by decide +kernel, by decide +kernel, by decide +kernel, by decide +kernel⟩

theorem test_meets_SlicesChangeByTheirCommands_22_0 : ∃ (s : State), ∃ (ch sl : Nat), s.serves ch 0x1C [(1, sl)] .secure false = true ∧ sl ≤ 63 ∧ s.slState sl ≠ 0 ∧ (s.sx sl).cmd = 0 :=
  ⟨msg dirtySt 0 0x1C [(1, 1)], 0, 1, by decide +kernel, by decide +kernel, by decide +kernel, by decide +kernel⟩

theorem test_meets_SlicesChangeByTheirCommands_23_0 : ∃ (s : State), ∃ (die : Nat), die ≤ 1 ∧ s.fon SLC_MAP_SEL_TABLE die = true :=
  ⟨(base.fset SLC_MAP_SEL_TABLE 1 1).fset SLC_MAP_SEL_INDEX 64 1, 1, by decide +kernel, by decide +kernel⟩

theorem test_meets_SlicesChangeByTheirCommands_24_0 : ∃ (s : State), ∃ (die v : Nat), die ≤ 1 ∧ s.fon SLC_MAP_SEL_TABLE die = false ∧ s.fget SLC_MAP_SEL_INDEX die < 1024 ∧ v = ((List.range 4).map (fun n => s.rget SLC_MAP_DATA die n * 2 ^ (32 * n))).sum ∧ pasidOk v = true :=
  ⟨base.fset SLC_MAP_SEL_INDEX 1023 1, 1, 0, by decide +kernel, by decide +kernel, by decide +kernel, by decide +kernel, by decide +kernel⟩

theorem test_meets_StorageControllersStartAndQueue_0_0 : ∃ (s : State), ∃ (c aqa asq acq cc : Nat), c ≤ 7 ∧ (s.ctl c).en = false ∧ bit cc 0 = true ∧ ccOk cc = true ∧ 1 ≤ getBits aqa 11 0 ∧ 1 ≤ getBits aqa 27 16 ∧ (s.nvmOwner c).isSome = true ∧ s.running = true ∧ (s.ctl c).cfs = false :=
  ⟨nvSt Nvm.init, 7, 0x10001, 0x10000, 0x20000, 0x460001, by decide +kernel, by decide +kernel, by decide +kernel, by decide +kernel, by decide +kernel, by decide +kernel, by decide +kernel, by decide +kernel, by decide +kernel⟩

theorem test_meets_StorageControllersStartAndQueue_1_0 : ∃ (s : State), ∃ (c aqa asq acq cc : Nat), c ≤ 7 ∧ (s.ctl c).en = false ∧ bit cc 0 = true ∧ ccOk cc = false :=
  ⟨nvSt Nvm.init, 7, 0x10001, 0x10000, 0x20000, 0x800461, by decide +kernel, by decide +kernel, by decide +kernel, by decide +kernel⟩

theorem test_meets_StorageControllersStartAndQueue_2_0 : ∃ (s : State), ∃ (c : Nat), c ≤ 7 ∧ (s.ctl c).en = true :=
  ⟨nvSt nvm0, 7, by decide +kernel, by decide +kernel⟩

theorem test_meets_StorageControllersStartAndQueue_3_0a : ∃ (s : State), ∃ (c shn : Nat), c ≤ 7 ∧ (s.ctl c).en = true ∧ (shn = 1 ∨ shn = 2) ∧ (s.ctl c).shst = 0 :=
  ⟨nvSt nvm0, 7, 2, by decide +kernel, by decide +kernel, by decide +kernel, by decide +kernel⟩

theorem test_meets_StorageControllersStartAndQueue_3_0b : ∃ (s : State), ∃ (c shn : Nat), c ≤ 7 ∧ (s.ctl c).en = true ∧ (shn = 1 ∨ shn = 2) ∧ (s.ctl c).shst = 0 :=
  ⟨nvSt { nvm0 with cmds := [nvCmd] }, 7, 1, by decide +kernel, by decide +kernel, by decide +kernel, by decide +kernel⟩

theorem test_meets_StorageControllersStartAndQueue_4_0 : ∃ (s : State), ∃ (c y v sl : Nat), ∃ (q : NvmQueue), c ≤ 7 ∧ (s.ctl c).rdy = true ∧ (s.ctl c).cfs = false ∧ s.nvmOwner c = some sl ∧ s.accepts sl = true ∧ v < 65536 ∧ v < q.size ∧ smGet (s.ctl c).sqs y = some q :=
  ⟨slPut (nvSt nvm0) SLC_CTL_ACCEPT 1 1, 7, 0, 31, 1, aq, by decide +kernel, by decide +kernel, by decide +kernel, by decide +kernel, by decide +kernel, by decide +kernel, by decide +kernel, by decide +kernel⟩

theorem test_meets_StorageControllersStartAndQueue_4_1 : ∃ (s : State), ∃ (c y v sl : Nat), ∃ (q : NvmQueue), c ≤ 7 ∧ (s.ctl c).rdy = true ∧ (s.ctl c).cfs = false ∧ s.nvmOwner c = some sl ∧ s.accepts sl = true ∧ v < 65536 ∧ v < q.size ∧ smGet (s.ctl c).cqs y = some q ∧ (s.ctl c).posts = [] :=
  ⟨slPut (nvSt nvm0) SLC_CTL_ACCEPT 1 1, 7, 0, 31, 1, cq0, by decide +kernel, by decide +kernel, by decide +kernel, by decide +kernel, by decide +kernel, by decide +kernel, by decide +kernel, by decide +kernel, by decide +kernel⟩

theorem test_meets_StorageControllersStartAndQueue_5_0 : ∃ (s t : State), ∃ (c sl qid : Nat), ∃ (sqe : HostData), ∃ (d : List Byte), s.fetches t c 0 5 sl sqe d ∧ getBits (t.ctl c).cc 19 16 = 6 ∧ getBits (t.ctl c).cc 23 20 = 4 ∧ qid = getBits (sqDw d 10) 15 0 ∧ 1 ≤ qid ∧ qid ≤ 1024 ∧ smGet (t.ctl c).cqs qid = none ∧ t.pairsHeld sl < t.quota sl 10 ∧ (t.ctl c).cqs.length ≤ 1024 ∧ 1 ≤ getBits (sqDw d 10) 31 16 ∧ bit (sqDw d 11) 0 = true ∧ leField d 24 8 % 4096 = 0 ∧ t.nvmRing c sl (leField d 24 8) (16 * (getBits (sqDw d 10) 31 16 + 1)) = true ∧ getBits (sqDw d 11) 31 16 ≤ 1024 :=
  ⟨(nvSt nvm0), (nvSt (fx nvm0)), 7, 1, 1024, (.ok, sqE 5 0 0x30000 0x40000 [0x1F0400, 0x4000003]), sqE 5 0 0x30000 0x40000 [0x1F0400, 0x4000003], ⟨exIs_ok (by decide +kernel), by decide +kernel, by decide +kernel⟩, by decide +kernel, by decide +kernel, by decide +kernel, by decide +kernel, by decide +kernel, by decide +kernel, by decide +kernel, by decide +kernel, by decide +kernel, by decide +kernel, by decide +kernel, by decide +kernel, by decide +kernel⟩

theorem test_meets_StorageControllersStartAndQueue_6_0 : ∃ (s t : State), ∃ (c sl qid cq : Nat), ∃ (sqe : HostData), ∃ (d : List Byte), s.fetches t c 0 1 sl sqe d ∧ qid = getBits (sqDw d 10) 15 0 ∧ cq = getBits (sqDw d 11) 31 16 ∧ cq ≠ 0 ∧ (smGet (t.ctl c).cqs cq).isSome = true ∧ (∀ q ∈ (t.ctl c).sqs, q.1 ≠ 0 → q.2.cq ≠ cq) ∧ 1 ≤ qid ∧ qid ≤ 1024 ∧ smGet (t.ctl c).sqs qid = none ∧ 1 ≤ getBits (sqDw d 10) 31 16 ∧ bit (sqDw d 11) 0 = true ∧ leField d 24 8 % 4096 = 0 ∧ t.nvmRing c sl (leField d 24 8) (64 * (getBits (sqDw d 10) 31 16 + 1)) = true :=
  ⟨(nvSt { nvm0 with cqs := [(0, cq0), (5, cq0)] }), (nvSt (fx { nvm0 with cqs := [(0, cq0), (5, cq0)] })), 7, 1, 1024, 5, (.ok, sqE 1 0 0x30000 0x40000 [0x1F0400, 0x50001]), sqE 1 0 0x30000 0x40000 [0x1F0400, 0x50001], ⟨exIs_ok (by decide +kernel), by decide +kernel, by decide +kernel⟩, by decide +kernel, by decide +kernel, by decide +kernel, by decide +kernel, by decide +kernel, by decide +kernel, by decide +kernel, by decide +kernel, by decide +kernel, by decide +kernel, by decide +kernel, by decide +kernel⟩

theorem test_meets_StorageControllersStartAndQueue_7_0 : ∃ (s t : State), ∃ (c sl qid : Nat), ∃ (sqe : HostData), ∃ (d : List Byte), s.fetches t c 0 4 sl sqe d ∧ qid = getBits (sqDw d 10) 15 0 ∧ qid ≠ 0 ∧ (smGet (t.ctl c).cqs qid).isSome = true ∧ (∀ q ∈ (t.ctl c).sqs, q.1 ≠ 0 → q.2.cq ≠ qid) :=
  ⟨(nvSt { nvm0 with cqs := [(0, cq0), (5, cq0)] }), (nvSt (fx { nvm0 with cqs := [(0, cq0), (5, cq0)] })), 7, 1, 5, (.ok, sqE 4 0 0x30000 0x40000 [5]), sqE 4 0 0x30000 0x40000 [5], ⟨exIs_ok (by decide +kernel), by decide +kernel, by decide +kernel⟩, by decide +kernel, by decide +kernel, by decide +kernel, by decide +kernel⟩

theorem test_meets_StorageControllersStartAndQueue_8_0 : ∃ (s t : State), ∃ (c sl qid : Nat), ∃ (sqe : HostData), ∃ (d : List Byte), ∃ (q : NvmQueue), s.fetches t c 0 0 sl sqe d ∧ qid = getBits (sqDw d 10) 15 0 ∧ qid ≠ 0 ∧ smGet (t.ctl c).sqs qid = some q ∧ q.deleting = none ∧ (∀ x ∈ (t.ctl c).cmds, x.sq = qid → x.backed = true) :=
  ⟨(nvSt (ioq nvm0)), (nvSt (fx (ioq nvm0))), 7, 1, 5, (.ok, sqE 0 0 0x30000 0x40000 [5]), sqE 0 0 0x30000 0x40000 [5], { aq with cq := 5, host := 0 }, ⟨exIs_ok (by decide +kernel), by decide +kernel, by decide +kernel⟩, by decide +kernel, by decide +kernel, by decide +kernel, by decide +kernel, by decide +kernel⟩

theorem test_meets_StorageAdminCommandsComplete_0_0 : ∃ (s t u : State), ∃ (c sl : Nat), ∃ (sqe : HostData), ∃ (d : List Byte), s.fetches t c 0 6 sl sqe d ∧ sqCns d = 0 ∧ ∃ p, t.nsAt c (sqNsid d) = some p ∧ t.nvmReturn c sl d (.ok, []) p.2.identify = some u :=
  ⟨withNs (nvSt nvm0), withNs (nvSt (fx nvm0)), ((withNs (nvSt (fx nvm0))).nvmReturn 7 1 (sqE 6 64 0x30000 0x40000 [0]) (.ok, []) (63, ns1).2.identify).getD up, 7, 1, (.ok, sqE 6 64 0x30000 0x40000 [0]), sqE 6 64 0x30000 0x40000 [0], ⟨exIs_ok (by decide +kernel), by decide +kernel, by decide +kernel⟩, by decide +kernel, (63, ns1), by decide +kernel, some_of (by decide +kernel)⟩

theorem test_meets_StorageAdminCommandsComplete_0_1 : ∃ (s t u : State), ∃ (c sl : Nat), ∃ (sqe : HostData), ∃ (d : List Byte), s.fetches t c 0 6 sl sqe d ∧ sqCns d = 0 ∧ t.nsAt c (sqNsid d) = none :=
  ⟨withNs (nvSt nvm0), withNs (nvSt (fx nvm0)), withNs (nvSt (fx nvm0)), 7, 1, (.ok, sqE 6 63 0x30000 0x40000 [0]), sqE 6 63 0x30000 0x40000 [0], ⟨exIs_ok (by decide +kernel), by decide +kernel, by decide +kernel⟩, by decide +kernel, by decide +kernel⟩

theorem test_meets_StorageAdminCommandsComplete_0_2 : ∃ (s t u : State), ∃ (c sl : Nat), ∃ (sqe : HostData), ∃ (d : List Byte), s.fetches t c 0 6 sl sqe d ∧ sqCns d = 1 ∧ t.nvmReturn c sl d (.ok, []) (t.idController c) = some u :=
  ⟨withNs (nvSt nvm0), withNs (nvSt (fx nvm0)), ((withNs (nvSt (fx nvm0))).nvmReturn 7 1 (sqE 6 0 0x30000 0x40000 [1]) (.ok, []) ((withNs (nvSt (fx nvm0))).idController 7)).getD up, 7, 1, (.ok, sqE 6 0 0x30000 0x40000 [1]), sqE 6 0 0x30000 0x40000 [1], ⟨exIs_ok (by decide +kernel), by decide +kernel, by decide +kernel⟩, by decide +kernel, some_of (by decide +kernel)⟩

theorem test_meets_StorageAdminCommandsComplete_0_3 : ∃ (s t u : State), ∃ (c sl : Nat), ∃ (sqe : HostData), ∃ (d : List Byte), s.fetches t c 0 6 sl sqe d ∧ sqCns d = 2 ∧ sqNsid d < 0xFFFFFFFE ∧ t.nvmReturn c sl d (.ok, []) (layoutOf 4096 [(0, ((t.nvm.ns.filter (fun n => n.2.ctrls.contains c && decide (n.1 + 1 > sqNsid d))).map (·.1 + 1)).flatMap (leBytes 4))]) = some u :=
  ⟨withNs (nvSt nvm0), withNs (nvSt (fx nvm0)), _, 7, 1, (.ok, sqE 6 0 0x30000 0x40000 [2]), sqE 6 0 0x30000 0x40000 [2], ⟨exIs_ok (by decide +kernel), by decide +kernel, by decide +kernel⟩, by decide +kernel, by decide +kernel, some_of (d := up) (by decide +kernel)⟩

theorem test_meets_StorageAdminCommandsComplete_0_4 : ∃ (s t u : State), ∃ (c sl : Nat), ∃ (sqe : HostData), ∃ (d : List Byte), s.fetches t c 0 6 sl sqe d ∧ sqCns d = 3 ∧ ∃ p, t.nsAt c (sqNsid d) = some p ∧ t.nvmReturn c sl d (.ok, []) (layoutOf 4096 [(0, [2, 16, 0, 0] ++ leBytes 16 p.2.nguid)]) = some u :=
  ⟨withNs (nvSt nvm0), withNs (nvSt (fx nvm0)), ((withNs (nvSt (fx nvm0))).nvmReturn 7 1 (sqE 6 64 0x30000 0x40000 [3]) (.ok, []) (layoutOf 4096 [(0, [2, 16, 0, 0] ++ leBytes 16 (63, ns1).2.nguid)])).getD up, 7, 1, (.ok, sqE 6 64 0x30000 0x40000 [3]), sqE 6 64 0x30000 0x40000 [3], ⟨exIs_ok (by decide +kernel), by decide +kernel, by decide +kernel⟩, by decide +kernel, (63, ns1), by decide +kernel, some_of (by decide +kernel)⟩

theorem test_meets_StorageAdminCommandsComplete_1_0 : ∃ (s t u : State), ∃ (c sl n off : Nat), ∃ (sqe lst : HostData), ∃ (d bs : List Byte), s.fetches t c 0 2 sl sqe d ∧ t.logPage c (getBits (sqDw d 10) 7 0) = some bs ∧ n = (getBits (sqDw d 10) 31 16 + getBits (sqDw d 11) 15 0 * 65536 + 1) * 4 ∧ off = sqDw d 12 + sqDw d 13 * 2 ^ 32 ∧ n ≤ 0x100000 ∧ off % 4 = 0 ∧ off ≤ bs.length ∧ t.nvmReturn c sl d lst ((bs.drop off ++ List.replicate n 0).take n) = some u :=
  ⟨nvSt nvm0, (nvSt (fx nvm0)), ((nvSt (fx nvm0)).nvmReturn 7 1 (sqE 2 0 0x30000 0x40000 [0x1F0002]) (.ok, []) (((nvSt (fx nvm0)).healthPage 7).drop 0 ++ List.replicate 128 0 |>.take 128)).getD up, 7, 1, 128, 0, (.ok, sqE 2 0 0x30000 0x40000 [0x1F0002]), (.ok, []), sqE 2 0 0x30000 0x40000 [0x1F0002], (nvSt (fx nvm0)).healthPage 7, ⟨exIs_ok (by decide +kernel), by decide +kernel, by decide +kernel⟩, by decide +kernel, by decide +kernel, by decide +kernel, by decide +kernel, by decide +kernel, by decide +kernel, some_of (o := ((nvSt (fx nvm0)).nvmReturn 7 1 (sqE 2 0 0x30000 0x40000 [0x1F0002]) (.ok, []) (((nvSt (fx nvm0)).healthPage 7).drop 0 ++ List.replicate 128 0 |>.take 128))) (d := up) (by decide +kernel)⟩

theorem test_meets_StorageAdminCommandsComplete_2_0 : ∃ (s t : State), ∃ (c sl : Nat), ∃ (sqe lst : HostData), ∃ (d : List Byte), s.fetches t c 0 2 sl sqe d ∧ getBits (sqDw d 10) 7 0 ∉ [1, 2, 5, 0x81] :=
  ⟨nvSt nvm0, (nvSt (fx nvm0)), 7, 1, (.ok, sqE 2 0 0x30000 0x40000 [3]), (.ok, []), sqE 2 0 0x30000 0x40000 [3], ⟨exIs_ok (by decide +kernel), by decide +kernel, by decide +kernel⟩, by decide +kernel⟩

theorem test_meets_StorageAdminCommandsComplete_3_0 : ∃ (s t : State), ∃ (c sl : Nat), ∃ (sqe : HostData), ∃ (d : List Byte), ∃ (x : NvmCmd), s.fetches t c 0 8 sl sqe d ∧ (t.ctl c).cmds.find? (fun x => x.is (getBits (sqDw d 10) 15 0) (getBits (sqDw d 10) 31 16) && !x.backed) = some x :=
  ⟨(nvSt { nvm0 with cmds := [nvCmd] }), (nvSt (fx { nvm0 with cmds := [nvCmd] })), 7, 1, (.ok, sqE 8 0 0x30000 0x40000 [0x30005]), sqE 8 0 0x30000 0x40000 [0x30005], nvCmd, ⟨exIs_ok (by decide +kernel), by decide +kernel, by decide +kernel⟩, by decide +kernel⟩

theorem test_meets_StorageAdminCommandsComplete_4_0 : ∃ (s t : State), ∃ (c sl : Nat), ∃ (sqe : HostData), ∃ (d : List Byte), s.fetches t c 0 8 sl sqe d ∧ (t.ctl c).aers = [] ∧ (t.ctl c).cmds.find? (fun x => x.is (getBits (sqDw d 10) 15 0) (getBits (sqDw d 10) 31 16) && !x.backed) = none :=
  ⟨(nvSt nvm0), (nvSt (fx nvm0)), 7, 1, (.ok, sqE 8 0 0x30000 0x40000 [0x30005]), sqE 8 0 0x30000 0x40000 [0x30005], ⟨exIs_ok (by decide +kernel), by decide +kernel, by decide +kernel⟩, by decide +kernel, by decide +kernel⟩

theorem test_meets_StorageAdminCommandsComplete_5_0 : ∃ (s t : State), ∃ (c sl : Nat), ∃ (sqe data : HostData), ∃ (d : List Byte), s.fetches t c 0 9 sl sqe d ∧ bit (sqDw d 10) 31 = false ∧ getBits (sqDw d 10) 7 0 = 2 ∧ sqDw d 11 % 32 ≤ 3 :=
  ⟨(nvSt nvm0), (nvSt (fx nvm0)), 7, 1, (.ok, sqE 9 0 0x30000 0x40000 [2, 3]), (.ok, []), sqE 9 0 0x30000 0x40000 [2, 3], ⟨exIs_ok (by decide +kernel), by decide +kernel, by decide +kernel⟩, by decide +kernel, by decide +kernel, by decide +kernel⟩

theorem test_meets_StorageAdminCommandsComplete_5_1 : ∃ (s t : State), ∃ (c sl : Nat), ∃ (sqe data : HostData), ∃ (d : List Byte), s.fetches t c 0 9 sl sqe d ∧ bit (sqDw d 10) 31 = false ∧ getBits (sqDw d 10) 7 0 ∈ [1, 8, 0xB] :=
  ⟨(nvSt nvm0), (nvSt (fx nvm0)), 7, 1, (.ok, sqE 9 0 0x30000 0x40000 [11, 0x1FF]), (.ok, []), sqE 9 0 0x30000 0x40000 [11, 0x1FF], ⟨exIs_ok (by decide +kernel), by decide +kernel, by decide +kernel⟩, by decide +kernel, by decide +kernel⟩

theorem test_meets_StorageAdminCommandsComplete_5_2 : ∃ (s t : State), ∃ (c sl : Nat), ∃ (sqe data : HostData), ∃ (d : List Byte), s.fetches t c 0 9 sl sqe d ∧ bit (sqDw d 10) 31 = false ∧ getBits (sqDw d 10) 7 0 = 7 :=
  ⟨(nvSt nvm0), (nvSt (fx nvm0)), 7, 1, (.ok, sqE 9 0 0x30000 0x40000 [7, 0]), (.ok, []), sqE 9 0 0x30000 0x40000 [7, 0], ⟨exIs_ok (by decide +kernel), by decide +kernel, by decide +kernel⟩, by decide +kernel, by decide +kernel⟩

theorem test_meets_StorageAdminCommandsComplete_6_0 : ∃ (s t : State), ∃ (c sl : Nat), ∃ (sqe data : HostData), ∃ (d : List Byte), s.fetches t c 0 9 sl sqe d ∧ getBits (sqDw d 10) 7 0 ∉ nvmFeatures :=
  ⟨(nvSt nvm0), (nvSt (fx nvm0)), 7, 1, (.ok, sqE 9 0 0x30000 0x40000 [6, 0]), (.ok, []), sqE 9 0 0x30000 0x40000 [6, 0], ⟨exIs_ok (by decide +kernel), by decide +kernel, by decide +kernel⟩, by decide +kernel⟩

theorem test_meets_StorageAdminCommandsComplete_7_0 : ∃ (s t : State), ∃ (c sl : Nat), ∃ (sqe : HostData), ∃ (d : List Byte), s.fetches t c 0 10 sl sqe d ∧ getBits (sqDw d 10) 10 8 = 0 ∧ getBits (sqDw d 10) 7 0 ∈ [1, 4, 8, 9, 0xB] :=
  ⟨(nvSt nvm0), (nvSt (fx nvm0)), 7, 1, (.ok, sqE 10 0 0x30000 0x40000 [11]), sqE 10 0 0x30000 0x40000 [11], ⟨exIs_ok (by decide +kernel), by decide +kernel, by decide +kernel⟩, by decide +kernel, by decide +kernel⟩

theorem test_meets_StorageAdminCommandsComplete_8_0 : ∃ (s t : State), ∃ (c sl : Nat), ∃ (sqe : HostData), ∃ (d : List Byte), s.fetches t c 0 10 sl sqe d ∧ getBits (sqDw d 10) 10 8 = 0 ∧ getBits (sqDw d 10) 7 0 = 2 :=
  ⟨(nvSt { nvm0 with ps := 1, feats := [(2 * 2 ^ 20, 2)] }), (nvSt (fx { nvm0 with ps := 1, feats := [(2 * 2 ^ 20, 2)] })), 7, 1, (.ok, sqE 10 0 0x30000 0x40000 [2]), sqE 10 0 0x30000 0x40000 [2], ⟨exIs_ok (by decide +kernel), by decide +kernel, by decide +kernel⟩, by decide +kernel, by decide +kernel⟩

theorem test_meets_StorageAdminCommandsComplete_8_1 : ∃ (s t : State), ∃ (c sl : Nat), ∃ (sqe : HostData), ∃ (d : List Byte), s.fetches t c 0 10 sl sqe d ∧ getBits (sqDw d 10) 10 8 = 0 ∧ getBits (sqDw d 10) 7 0 = 7 :=
  ⟨(nvSt nvm0), (nvSt (fx nvm0)), 7, 1, (.ok, sqE 10 0 0x30000 0x40000 [7]), sqE 10 0 0x30000 0x40000 [7], ⟨exIs_ok (by decide +kernel), by decide +kernel, by decide +kernel⟩, by decide +kernel, by decide +kernel⟩

theorem test_meets_StorageAdminCommandsComplete_9_0 : ∃ (s t : State), ∃ (c sl : Nat), ∃ (sqe : HostData), ∃ (d : List Byte), s.fetches t c 0 12 sl sqe d ∧ (t.ctl c).aers.length < 4 ∧ (t.ctl c).events = [] :=
  ⟨(nvSt nvm0), (nvSt (fx nvm0)), 7, 1, (.ok, sqE 12 0 0x30000 0x40000 []), sqE 12 0 0x30000 0x40000 [], ⟨exIs_ok (by decide +kernel), by decide +kernel, by decide +kernel⟩, by decide +kernel, by decide +kernel⟩

theorem test_meets_StorageAdminCommandsComplete_10_0 : ∃ (s t : State), ∃ (c sl e : Nat), ∃ (es : List Nat), ∃ (sqe : HostData), ∃ (d : List Byte), s.fetches t c 0 12 sl sqe d ∧ (t.ctl c).aers.length < 4 ∧ (t.ctl c).events = e :: es :=
  ⟨(nvSt { nvm0 with events := [5, 6] }), (nvSt (fx { nvm0 with events := [5, 6] })), 7, 1, 5, [6], (.ok, sqE 12 0 0x30000 0x40000 []), sqE 12 0 0x30000 0x40000 [], ⟨exIs_ok (by decide +kernel), by decide +kernel, by decide +kernel⟩, by decide +kernel, by decide +kernel⟩

theorem test_meets_StorageAdminCommandsComplete_11_0 : ∃ (s t : State), ∃ (c sl : Nat), ∃ (sqe : HostData), ∃ (d : List Byte), ∃ (p : Nat × Namespace), ∃ (recOk : Bool), s.fetches t c 0 0x80 sl sqe d ∧ sqNsid d ≠ 0xFFFFFFFF ∧ t.nsAt c (sqNsid d) = some p ∧ getBits (sqDw d 10) 3 0 ≤ 1 ∧ getBits (sqDw d 10) 13 12 = 0 ∧ bit (sqDw d 10) 4 = false ∧ getBits (sqDw d 10) 7 5 = 0 ∧ t.opRefusal c false = none ∧ getBits (sqDw d 10) 11 9 = 0 :=
  ⟨withNs (nvSt nvm0), withNs (nvSt (fx nvm0)), 7, 1, (.ok, sqE 128 64 0x30000 0x40000 [1]), sqE 128 64 0x30000 0x40000 [1], (63, ns1), false, ⟨exIs_ok (by decide +kernel), by decide +kernel, by decide +kernel⟩, by decide +kernel, by decide +kernel, by decide +kernel, by decide +kernel, by decide +kernel, by decide +kernel, by decide +kernel, by decide +kernel⟩

theorem test_meets_StorageAdminCommandsComplete_11_1 : ∃ (s t : State), ∃ (c sl : Nat), ∃ (sqe : HostData), ∃ (d : List Byte), ∃ (p : Nat × Namespace), ∃ (recOk : Bool), s.fetches t c 0 0x80 sl sqe d ∧ sqNsid d ≠ 0xFFFFFFFF ∧ t.nsAt c (sqNsid d) = some p ∧ getBits (sqDw d 10) 3 0 ≤ 1 ∧ getBits (sqDw d 10) 13 12 = 0 ∧ bit (sqDw d 10) 4 = false ∧ getBits (sqDw d 10) 7 5 = 0 ∧ t.opRefusal c false = none ∧ getBits (sqDw d 10) 11 9 = 1 :=
  ⟨withNs (nvSt nvm0), withNs (nvSt (fx nvm0)), 7, 1, (.ok, sqE 128 64 0x30000 0x40000 [0x201]), sqE 128 64 0x30000 0x40000 [0x201], (63, ns1), true, ⟨exIs_ok (by decide +kernel), by decide +kernel, by decide +kernel⟩, by decide +kernel, by decide +kernel, by decide +kernel, by decide +kernel, by decide +kernel, by decide +kernel, by decide +kernel, by decide +kernel⟩

theorem test_meets_StorageAdminCommandsComplete_12_0 : ∃ (s t : State), ∃ (c sl : Nat), ∃ (sqe : HostData), ∃ (d : List Byte), ∃ (recOk : Bool), s.fetches t c 0 0x84 sl sqe d ∧ sanAct d = 2 ∧ t.opRefusal c true = none :=
  ⟨(nvSt nvm0), (nvSt (fx nvm0)), 7, 1, (.ok, sqE 132 0 0x30000 0x40000 [2]), sqE 132 0 0x30000 0x40000 [2], true, ⟨exIs_ok (by decide +kernel), by decide +kernel, by decide +kernel⟩, by decide +kernel, by decide +kernel⟩

theorem test_meets_StorageAdminCommandsComplete_13_0 : ∃ (s t : State), ∃ (c sl : Nat), ∃ (sqe : HostData), ∃ (d : List Byte), s.fetches t c 0 0x84 sl sqe d ∧ sanAct d = 1 :=
  ⟨(nvSt nvm0), (nvSt (fx nvm0)), 7, 1, (.ok, sqE 132 0 0x30000 0x40000 [1]), sqE 132 0 0x30000 0x40000 [1], ⟨exIs_ok (by decide +kernel), by decide +kernel, by decide +kernel⟩, by decide +kernel⟩

theorem test_meets_StorageAdminCommandsComplete_14_0 : ∃ (s : State), ∃ (c ps : Nat), c ≤ 7 ∧ (s.ctl c).rdy = true ∧ s.nvmIdle c = true ∧ (s.ctl c).feat 0xC 64 % 2 = 1 ∧ ps ≤ 3 ∧ s.idleOver c = true ∧ getBits ((s.ctl c).feat 0xC (s.ctl c).ps) 7 3 = ps :=
  ⟨nvSt { nvm0 with feats := [(0xC * 2 ^ 20, 0x110), (0xC * 2 ^ 20 + 64, 1)], sqs := [(0, { aq with host := 0 })] } |> late, 7, 2, by decide +kernel, by decide +kernel, by decide +kernel, by decide +kernel, by decide +kernel, by decide +kernel, by decide +kernel⟩

theorem test_meets_NamespacesHoldTheirBlocks_0_0 : ∃ (s t : State), ∃ (c q sl num : Nat), ∃ (sqe : HostData), ∃ (d : List Byte), ∃ (n : Namespace), q ≠ 0 ∧ s.fetches t c q 0 sl sqe d ∧ t.nsAt c (sqNsid d) = some (num, n) ∧ t.nsRefusal num = none :=
  ⟨ioSt true, ioSt false, 7, 5, 1, 63, (.ok, sqE 0 64 0 0 []), sqE 0 64 0 0 [], ns1, by decide +kernel, ⟨exIs_ok (by decide +kernel), by decide +kernel, by decide +kernel⟩, by decide +kernel, by decide +kernel⟩

theorem test_meets_NamespacesHoldTheirBlocks_1_0 : ∃ (s t : State), ∃ (c q sl : Nat), ∃ (sqe : HostData), ∃ (d : List Byte), q ≠ 0 ∧ s.fetches t c q 0 sl sqe d ∧ t.nsAt c (sqNsid d) = none :=
  ⟨ioSt true, ioSt false, 7, 5, 1, (.ok, sqE 0 63 0 0 []), sqE 0 63 0 0 [], by decide +kernel, ⟨exIs_ok (by decide +kernel), by decide +kernel, by decide +kernel⟩, by decide +kernel⟩

theorem test_meets_NamespacesHoldTheirBlocks_2_0 : ∃ (s t t2 t3 : State), ∃ (c q sl num len off : Nat), ∃ (sqe lst data : HostData), ∃ (d bs : List Byte), ∃ (n : Namespace), ∃ (ps : List (Nat × Nat)), q ≠ 0 ∧ s.fetches t c q 1 sl sqe d ∧ t.nsAt c (sqNsid d) = some (num, n) ∧ t.nsRefusal num = none ∧ rangeErr d n true = none ∧ len = sqNlb d * blockSize n.lbaf ∧ off = sqSlba d * blockSize n.lbaf ∧ t.prpPages c sl d len lst = .ok (t2, ps) ∧ t2.nvmGather c sl ps data = .ok (t3, bs) ∧ n.kind = 1 :=
  ⟨ioSt true, ioSt false, ioSt false, ioSt false, 7, 5, 1, 63, 512, 0xFE00, (.ok, wrE 1), (.ok, []), (.ok, blk), wrE 1, blk, ns1, [(0x30000, 512)], by decide +kernel, ⟨exIs_ok (by decide +kernel), by decide +kernel, by decide +kernel⟩, by decide +kernel, by decide +kernel, by decide +kernel, by decide +kernel, by decide +kernel, exIs_ok (by decide +kernel), exIs_ok (by decide +kernel), by decide +kernel⟩

theorem test_meets_NamespacesHoldTheirBlocks_2_1 : ∃ (s t t2 t3 : State), ∃ (c q sl num len off : Nat), ∃ (sqe lst data : HostData), ∃ (d bs : List Byte), ∃ (n : Namespace), ∃ (ps : List (Nat × Nat)), q ≠ 0 ∧ s.fetches t c q 1 sl sqe d ∧ t.nsAt c (sqNsid d) = some (num, n) ∧ t.nsRefusal num = none ∧ rangeErr d n true = none ∧ len = sqNlb d * blockSize n.lbaf ∧ off = sqSlba d * blockSize n.lbaf ∧ t.prpPages c sl d len lst = .ok (t2, ps) ∧ t2.nvmGather c sl ps data = .ok (t3, bs) ∧ n.kind ≠ 1 :=
  ⟨ioS2 true, ioS2 false, ioS2 false, ioS2 false, 7, 5, 1, 63, 512, 0xFE00, (.ok, wrE 1), (.ok, []), (.ok, blk), wrE 1, blk, ns2, [(0x30000, 512)], by decide +kernel, ⟨exIs_ok (by decide +kernel), by decide +kernel, by decide +kernel⟩, by decide +kernel, by decide +kernel, by decide +kernel, by decide +kernel, by decide +kernel, exIs_ok (by decide +kernel), exIs_ok (by decide +kernel), by decide +kernel⟩

theorem test_meets_NamespacesHoldTheirBlocks_3_0 : ∃ (s t t2 t3 : State), ∃ (c q sl num len off : Nat), ∃ (sqe lst : HostData), ∃ (d : List Byte), ∃ (n : Namespace), ∃ (ps : List (Nat × Nat)), ∃ (ok : Bool), q ≠ 0 ∧ s.fetches t c q 2 sl sqe d ∧ t.nsAt c (sqNsid d) = some (num, n) ∧ t.nsRefusal num = none ∧ rangeErr d n true = none ∧ len = sqNlb d * blockSize n.lbaf ∧ off = sqSlba d * blockSize n.lbaf ∧ t.prpPages c sl d len lst = .ok (t2, ps) ∧ t2.pagesOk c sl true ps = true ∧ n.kind = 1 ∧ ((t2.nvmCount c false).count 19 c 2 sl len).nsReadOut c sl q (sqCid d) n.regions off ps = (t3, ok) :=
  ⟨ioSt true, ioSt false, ioSt false, ((((ioSt false).nvmCount 7 false).count 19 7 2 1 512).nsReadOut 7 1 5 (sqCid (wrE 2)) ns1.regions 0xFE00 [(0x30000, 512)]).1, 7, 5, 1, 63, 512, 0xFE00, (.ok, wrE 2), (.ok, []), wrE 2, ns1, [(0x30000, 512)], true, by decide +kernel, ⟨exIs_ok (by decide +kernel), by decide +kernel, by decide +kernel⟩, by decide +kernel, by decide +kernel, by decide +kernel, by decide +kernel, by decide +kernel, exIs_ok (by decide +kernel), by decide +kernel, by decide +kernel, by decide +kernel⟩

theorem test_meets_NamespacesHoldTheirBlocks_3_1 : ∃ (s t t2 t3 : State), ∃ (c q sl num len off : Nat), ∃ (sqe lst : HostData), ∃ (d : List Byte), ∃ (n : Namespace), ∃ (ps : List (Nat × Nat)), ∃ (ok : Bool), q ≠ 0 ∧ s.fetches t c q 2 sl sqe d ∧ t.nsAt c (sqNsid d) = some (num, n) ∧ t.nsRefusal num = none ∧ rangeErr d n true = none ∧ len = sqNlb d * blockSize n.lbaf ∧ off = sqSlba d * blockSize n.lbaf ∧ t.prpPages c sl d len lst = .ok (t2, ps) ∧ t2.pagesOk c sl true ps = true ∧ n.kind ≠ 1 :=
  ⟨ioS2 true, ioS2 false, ioS2 false, ioS2 false, 7, 5, 1, 63, 512, 0xFE00, (.ok, wrE 2), (.ok, []), wrE 2, ns2, [(0x30000, 512)], true, by decide +kernel, ⟨exIs_ok (by decide +kernel), by decide +kernel, by decide +kernel⟩, by decide +kernel, by decide +kernel, by decide +kernel, by decide +kernel, by decide +kernel, exIs_ok (by decide +kernel), by decide +kernel, by decide +kernel⟩

theorem test_meets_NamespacesHoldTheirBlocks_4_0 : ∃ (s t : State), ∃ (c q sl num : Nat), ∃ (sqe : HostData), ∃ (d : List Byte), ∃ (n : Namespace), q ≠ 0 ∧ s.fetches t c q 8 sl sqe d ∧ t.nsAt c (sqNsid d) = some (num, n) ∧ t.nsRefusal num = none ∧ sqPrinfo d = 0 ∧ sqSlba d + sqNlb d ≤ n.blocks :=
  ⟨ioSt true, ioSt false, 7, 5, 1, 63, (.ok, wrE 8), wrE 8, ns1, by decide +kernel, ⟨exIs_ok (by decide +kernel), by decide +kernel, by decide +kernel⟩, by decide +kernel, by decide +kernel, by decide +kernel, by decide +kernel⟩

theorem test_meets_NamespacesHoldTheirBlocks_4_1 : ∃ (s t : State), ∃ (c q sl num : Nat), ∃ (sqe : HostData), ∃ (d : List Byte), ∃ (n : Namespace), q ≠ 0 ∧ s.fetches t c q 8 sl sqe d ∧ t.nsAt c (sqNsid d) = some (num, n) ∧ t.nsRefusal num = none ∧ sqPrinfo d = 0 ∧ n.blocks < sqSlba d + sqNlb d :=
  ⟨ioSt true, ioSt false, 7, 5, 1, 63, (.ok, sqE 8 64 0x30000 0 [128, 0, 0]), sqE 8 64 0x30000 0 [128, 0, 0], ns1, by decide +kernel, ⟨exIs_ok (by decide +kernel), by decide +kernel, by decide +kernel⟩, by decide +kernel, by decide +kernel, by decide +kernel, by decide +kernel⟩

theorem test_meets_NamespacesHoldTheirBlocks_5_0 : ∃ (s t : State), ∃ (c q sl num : Nat), ∃ (sqe ranges : HostData), ∃ (d : List Byte), ∃ (n : Namespace), q ≠ 0 ∧ s.fetches t c q 9 sl sqe d ∧ t.nsAt c (sqNsid d) = some (num, n) ∧ t.nsRefusal num = none ∧ bit (sqDw d 11) 2 = false :=
  ⟨ioSt true, ioSt false, 7, 5, 1, 63, (.ok, dsmE 0), (.ok, []), dsmE 0, ns1, by decide +kernel, ⟨exIs_ok (by decide +kernel), by decide +kernel, by decide +kernel⟩, by decide +kernel, by decide +kernel, by decide +kernel⟩

theorem test_meets_NamespacesHoldTheirBlocks_5_1 : ∃ (s t : State), ∃ (c q sl num : Nat), ∃ (sqe ranges : HostData), ∃ (d : List Byte), ∃ (n : Namespace), q ≠ 0 ∧ s.fetches t c q 9 sl sqe d ∧ t.nsAt c (sqNsid d) = some (num, n) ∧ t.nsRefusal num = none ∧ ∃ (t2 t3 : State), ∃ (ps rs : List (Nat × Nat)), ∃ (bs : List Byte), bit (sqDw d 11) 2 = true ∧ t.prpPages c sl d (16 * (getBits (sqDw d 10) 7 0 + 1)) (.ok, []) = .ok (t2, ps) ∧ t2.nvmGather c sl ps ranges = .ok (t3, bs) ∧ rs = (List.range (getBits (sqDw d 10) 7 0 + 1)).map (fun i => (leField bs (16 * i + 8) 8, leField bs (16 * i + 4) 4)) ∧ (∀ r ∈ rs, r.1 + r.2 ≤ n.blocks) :=
  ⟨ioSt true, ioSt false, 7, 5, 1, 63, (.ok, dsmE 4), (.ok, dsmR), dsmE 4, ns1, by decide +kernel, ⟨exIs_ok (by decide +kernel), by decide +kernel, by decide +kernel⟩, by decide +kernel, by decide +kernel, ioSt false, ioSt false, [(0x30000, 16)], [(120, 8)], dsmR, by decide +kernel, exIs_ok (by decide +kernel), exIs_ok (by decide +kernel), by decide +kernel, by decide +kernel⟩

theorem test_meets_NamespacesHoldTheirBlocks_6_0 : ∃ (s : State), ∃ (c q num : Nat), ∃ (d : List Byte), ∃ (n : Namespace), ∃ (a : Nat), n.kind = 1 ∧ n.lbaf = 1 ∧ n.regions = [a] :=
  ⟨nvSt nvm0, 7, 5, 63, wrE 8, { ns1 with lbaf := 1 }, 50, by decide +kernel, by decide +kernel, by decide +kernel⟩

theorem test_meets_NamespacesHoldTheirBlocks_7_0 : ∃ (s : State), ∃ (c q cid : Nat), ∃ (x : NvmCmd), (s.ctl c).cmds.find? (fun x => x.is q cid && s.xferLate x) = some x :=
  ⟨late (nvSt { ioN with cmds := [nvCmd] }), 7, 5, 3, nvCmd, by decide +kernel⟩

theorem test_meets_NamespacesHoldTheirBlocks_8_0 : ∃ (s : State), ∃ (c : Nat), ∃ (recOk : Bool), ∃ (o : RecOp), smGet s.nvm.ops c = some o ∧ s.opState c = 1 ∧ o.ended = false ∧ s.running = true ∧ (o.started = true ∨ ∀ r ∈ o.nss, s.nsBusy r.num (List.range 8) = false) ∧ o.verdict = 1 :=
  ⟨opSt { op1 with verdict := 1 }, 7, true, { op1 with verdict := 1 }, by decide +kernel, by decide +kernel, by decide +kernel, by decide +kernel, by decide +kernel, by decide +kernel⟩

theorem test_meets_NamespacesHoldTheirBlocks_8_1 : ∃ (s : State), ∃ (c : Nat), ∃ (recOk : Bool), ∃ (o : RecOp), smGet s.nvm.ops c = some o ∧ s.opState c = 1 ∧ o.ended = false ∧ s.running = true ∧ (o.started = true ∨ ∀ r ∈ o.nss, s.nsBusy r.num (List.range 8) = false) ∧ o.verdict = 0 ∧ o.chunk = none :=
  ⟨opSt op1, 7, true, op1, by decide +kernel, by decide +kernel, by decide +kernel, by decide +kernel, by decide +kernel, by decide +kernel, by decide +kernel⟩

theorem test_meets_NamespacesHoldTheirBlocks_9_0a : ∃ (s : State), ∃ (c : Nat), ∃ (recOk : Bool), ∃ (o : RecOp), c < 8 ∧ o.pos + 1 < o.total ∧ o.total < 2 ^ 32 :=
  ⟨opSt op1, 7, true, op1, by decide +kernel, by decide +kernel, by decide +kernel⟩

theorem test_meets_NamespacesHoldTheirBlocks_9_0b : ∃ (s : State), ∃ (c : Nat), ∃ (recOk : Bool), ∃ (o : RecOp), c < 8 ∧ o.pos + 1 < o.total ∧ o.total < 2 ^ 32 :=
  ⟨opSt { op1 with pos := 5 }, 7, true, { op1 with pos := 5 }, by decide +kernel, by decide +kernel, by decide +kernel⟩

theorem test_meets_NamespacesHoldTheirBlocks_10_0 : ∃ (s : State), ∃ (c : Nat), ∃ (recOk : Bool), ∃ (o : RecOp), ∃ (first last : Nat), smGet s.nvm.ops c = some o ∧ s.opState c = 1 ∧ o.ended = false ∧ o.verdict = 2 ∧ o.bad = some (first, last) ∧ last + 100000 ≤ s.pw.onTicks ∧ s.pw.onTicks < first + 6000000 :=
  ⟨tickSt 100000 (opSt { op1 with verdict := 2, bad := some (0, 0) }), 7, true, { op1 with verdict := 2, bad := some (0, 0) }, 0, 0, by decide +kernel, by decide +kernel, by decide +kernel, by decide +kernel, by decide +kernel, by decide +kernel, by decide +kernel⟩

theorem test_meets_NamespacesHoldTheirBlocks_10_1 : ∃ (s : State), ∃ (c : Nat), ∃ (recOk : Bool), ∃ (o : RecOp), ∃ (first last : Nat), smGet s.nvm.ops c = some o ∧ s.opState c = 1 ∧ o.ended = false ∧ o.verdict = 2 ∧ o.bad = some (first, last) ∧ last + 100000 ≤ s.pw.onTicks ∧ first + 6000000 ≤ s.pw.onTicks :=
  ⟨tickSt 6000000 (opSt { op1 with verdict := 2, bad := some (0, 5000000) }), 7, true, { op1 with verdict := 2, bad := some (0, 5000000) }, 0, 5000000, by decide +kernel, by decide +kernel, by decide +kernel, by decide +kernel, by decide +kernel, by decide +kernel, by decide +kernel⟩

theorem test_meets_NamespacesHoldTheirBlocks_11_0 : ∃ (s : State), ∃ (ch sl lbaf nguid blocks need serial i : Nat), ∃ (regions : List Nat), s.serves ch 0x52 [] .bound true = true ∧ sl = s.servedSlice ch 0 ∧ lbaf ≤ 1 ∧ nguid < 2 ^ 128 ∧ 0 < blocks ∧ (∀ p ∈ s.nvm.ns, p.2.nguid ≠ nguid) ∧ smLowestFree s.nvm.ns (fun _ => true) 0 64 = some i ∧ s.nsHeld sl < s.quota sl 11 ∧ need = ceilDiv (blocks * blockSize lbaf) 0x10000 ∧ s.fits sl need = true ∧ s.recordedNs nguid = none ∧ regions.length = need ∧ regions.Nodup ∧ (∀ r ∈ regions, s.regionFree r = true ∧ s.isLocal r = false) :=
  ⟨msg (nvSt nvm0) 16 0x52 [], 16, 1, 1, 2 ^ 128 - 1, 16, 1, 0, 0, [24 * bandRegions], by decide +kernel, by decide +kernel, by decide +kernel, by decide +kernel, by decide +kernel, by decide +kernel, by decide +kernel, by decide +kernel, by decide +kernel, by decide +kernel, by decide +kernel, by decide +kernel, by decide, by decide +kernel⟩

theorem test_meets_NamespacesHoldTheirBlocks_12_0 : ∃ (s : State), ∃ (ch sl lbaf nguid blocks conn rkey roff serial i : Nat), ∃ (x : Conn), s.serves ch 0x52 [] .bound true = true ∧ sl = s.servedSlice ch 0 ∧ lbaf ≤ 1 ∧ nguid < 2 ^ 128 ∧ 0 < blocks ∧ blocks ≤ 2 ^ 48 / blockSize lbaf ∧ (∀ p ∈ s.nvm.ns, p.2.nguid ≠ nguid) ∧ s.conn conn = some x ∧ x.slice = sl ∧ smLowestFree s.nvm.ns (fun _ => true) 0 64 = some i ∧ s.nsHeld sl < s.quota sl 11 ∧ s.recordedNs nguid = none :=
  ⟨msg { nvSt nvm0 with tmt := { (nvSt nvm0).tmt with conns := [(40, cn)] } } 16 0x52 [], 16, 1, 0, 77, 2 ^ 39, 40, 0x2000006, 0, 9, 0, cn, by decide +kernel, by decide +kernel, by decide +kernel, by decide +kernel, by decide +kernel, by decide +kernel, by decide +kernel, by decide +kernel, by decide +kernel, by decide +kernel, by decide +kernel, by decide +kernel⟩

theorem test_meets_NamespacesHoldTheirBlocks_13_0 : ∃ (s : State), ∃ (ch c i : Nat), ∃ (n : Namespace), s.serves ch 0x54 [(1, i), (2, c)] .bound false = true ∧ c ≤ 7 ∧ s.ownNs (s.servedSlice ch 0) i = some n ∧ s.nvmOwner c = some (s.servedSlice ch 0) ∧ s.isSpill (s.servedSlice ch 0) i = false :=
  ⟨msg (withNs (nvSt nvm0)) 16 0x54 [(1, 63), (2, 7)], 16, 7, 63, ns1, by decide +kernel, by decide +kernel, by decide +kernel, by decide +kernel, by decide +kernel⟩

theorem test_meets_NamespacesHoldTheirBlocks_14_0 : ∃ (s : State), ∃ (ch c i : Nat), ∃ (n : Namespace), s.serves ch 0x55 [(1, i), (2, c)] .bound false = true ∧ c ≤ 7 ∧ s.ownNs (s.servedSlice ch 0) i = some n ∧ c ∈ n.ctrls ∧ s.nsBusy i [c] = false :=
  ⟨msg (withNs (nvSt nvm0)) 16 0x55 [(1, 63), (2, 7)], 16, 7, 63, ns1, by decide +kernel, by decide +kernel, by decide +kernel, by decide +kernel, by decide +kernel⟩

theorem test_meets_NamespacesHoldTheirBlocks_15_0 : ∃ (s : State), ∃ (ch i : Nat), ∃ (n : Namespace), s.serves ch 0x53 [(1, i)] .bound false = true ∧ s.ownNs (s.servedSlice ch 0) i = some n ∧ s.nsInOp i = false ∧ s.isSpill (s.servedSlice ch 0) i = false ∧ s.nsBusy i (List.range 8) = false :=
  ⟨msg (withNs (nvSt nvm0)) 16 0x53 [(1, 63)], 16, 63, ns1, by decide +kernel, by decide +kernel, by decide +kernel, by decide +kernel, by decide +kernel⟩

theorem test_meets_NamespacesHoldTheirBlocks_16_0a : ∃ (s : State), ∃ (ch c sl : Nat), ∃ (v : Bool), s.serves ch 0x50 [(1, c), (2, (if v then 2 ^ 31 else 0) + sl)] .secure false = true ∧ c ≤ 7 ∧ sl ≤ 63 ∧ (v = true → s.slLive sl = true) ∧ (s.ctl c).en = false ∧ (∀ p ∈ s.nvm.ns, c ∉ p.2.ctrls) ∧ s.opState c = 0 ∧ s.fon NVC_LOCK_LOCK = false :=
  ⟨msg base 0 0x50 [(1, 7), (2, 63)], 0, 7, 63, false, by decide +kernel, by decide +kernel, by decide +kernel, by decide +kernel, by decide +kernel, by decide +kernel, by decide +kernel, by decide +kernel⟩

theorem test_meets_NamespacesHoldTheirBlocks_16_0b : ∃ (s : State), ∃ (ch c sl : Nat), ∃ (v : Bool), s.serves ch 0x50 [(1, c), (2, (if v then 2 ^ 31 else 0) + sl)] .secure false = true ∧ c ≤ 7 ∧ sl ≤ 63 ∧ (v = true → s.slLive sl = true) ∧ (s.ctl c).en = false ∧ (∀ p ∈ s.nvm.ns, c ∉ p.2.ctrls) ∧ s.opState c = 0 ∧ s.fon NVC_LOCK_LOCK = false :=
  ⟨msg base 0 0x50 [(1, 7), (2, 2 ^ 31 + 1)], 0, 7, 1, true, by decide +kernel, by decide +kernel, by decide +kernel, by decide +kernel, by decide +kernel, by decide +kernel, by decide +kernel, by decide +kernel⟩

theorem test_meets_NamespacesHoldTheirBlocks_17_0 : ∃ (s : State), ∃ (ch c : Nat), s.serves ch 0x51 [(1, c)] .secure false = true ∧ c ≤ 7 ∧ s.opState c ≠ 1 ∧ s.opState c ≠ 2 :=
  ⟨msg base 0 0x51 [(1, 7)], 0, 7, by decide +kernel, by decide +kernel, by decide +kernel, by decide +kernel⟩

theorem test_meets_EthernetPortsReceiveAndAnswer_0_0 : ∃ (s : State), ∃ (die j corr uncorr stamp : Nat), ∃ (frame : List Byte), ∃ (ok : Bool), die ≤ 1 ∧ s.portPresent die j = true ∧ s.linkUp die j = true ∧ corr = 0 ∧ uncorr ≠ 0 :=
  ⟨netUp, 1, 7, 0, 3, 0, fr 60, true, by decide +kernel, by decide +kernel, by decide +kernel, by decide +kernel, by decide +kernel⟩

theorem test_meets_EthernetPortsReceiveAndAnswer_0_1 : ∃ (s : State), ∃ (die j corr uncorr stamp : Nat), ∃ (frame : List Byte), ∃ (ok : Bool), die ≤ 1 ∧ s.portPresent die j = true ∧ s.linkUp die j = true ∧ corr = 0 ∧ uncorr = 0 ∧ ok = false :=
  ⟨netUp, 1, 7, 0, 0, 0, fr 60, false, by decide +kernel, by decide +kernel, by decide +kernel, by decide +kernel, by decide +kernel, by decide +kernel⟩

theorem test_meets_EthernetPortsReceiveAndAnswer_0_2 : ∃ (s : State), ∃ (die j corr uncorr stamp : Nat), ∃ (frame : List Byte), ∃ (ok : Bool), die ≤ 1 ∧ s.portPresent die j = true ∧ s.linkUp die j = true ∧ corr = 0 ∧ uncorr = 0 ∧ ok = true ∧ frame.length + 4 < 64 :=
  ⟨netUp, 1, 7, 0, 0, 0, fr 59, true, by decide +kernel, by decide +kernel, by decide +kernel, by decide +kernel, by decide +kernel, by decide +kernel, by decide +kernel⟩

theorem test_meets_EthernetPortsReceiveAndAnswer_0_3 : ∃ (s : State), ∃ (die j corr uncorr stamp : Nat), ∃ (frame : List Byte), ∃ (ok : Bool), die ≤ 1 ∧ s.portPresent die j = true ∧ s.linkUp die j = true ∧ corr = 0 ∧ uncorr = 0 ∧ ok = true ∧ 64 ≤ frame.length + 4 ∧ s.fget PKT_MODE_MAX_FRAME die < frame.length + 4 :=
  ⟨netUp, 1, 7, 0, 0, 0, fr 9213, true, by decide +kernel, by decide +kernel, by decide +kernel, by decide +kernel, by decide +kernel, by decide +kernel, by decide +kernel, by decide +kernel⟩

theorem test_meets_EthernetPortsReceiveAndAnswer_1_0 : ∃ (s : State), ∃ (die j stamp : Nat), ∃ (frame : List Byte), die ≤ 1 ∧ s.portPresent die j = true ∧ s.linkUp die j = true ∧ 64 ≤ frame.length + 4 ∧ frame.length + 4 ≤ s.fget PKT_MODE_MAX_FRAME die ∧ beVal ((frame.drop 12).take 2) ≠ 0x8808 :=
  ⟨netUp, 1, 7, 5, fr 60, by decide +kernel, by decide +kernel, by decide +kernel, by decide +kernel, by decide +kernel, by decide +kernel⟩

theorem test_meets_EthernetPortsReceiveAndAnswer_1_1 : ∃ (s : State), ∃ (die j stamp : Nat), ∃ (frame : List Byte), die ≤ 1 ∧ s.portPresent die j = true ∧ s.linkUp die j = true ∧ 64 ≤ frame.length + 4 ∧ frame.length + 4 ≤ s.fget PKT_MODE_MAX_FRAME die ∧ beVal ((frame.drop 12).take 2) = 0x8808 ∧ beVal ((frame.drop 14).take 2) = 0x0101 :=
  ⟨netUp, 1, 7, 5, pauseFr, by decide +kernel, by decide +kernel, by decide +kernel, by decide +kernel, by decide +kernel, by decide +kernel, by decide +kernel⟩

theorem test_meets_EthernetPortsReceiveAndAnswer_2_0 : ∃ (s : State), ∃ (die j act stamp c : Nat), ∃ (frame : List Byte), c = s.actClass die j 0 frame act ∧ actColour act = 0 ∧ s.rxOcc die (· == c) + (frame.length + 4) ≤ s.fget PKT_CLASS_CTL_GRN_LIM die c * 65536 ∧ s.rxOcc die (fun _ => true) + (frame.length + 4) ≤ 2 ^ 24 ∧ s.fget PKT_QDEST_DEST die (actQueue act) = 2 ∧ (s.net.mgmt.filter (fun f => f.port / 8 == die)).length < 256 :=
  ⟨(netUp.fset PKT_QDEST_DEST 2 1 0).fset PKT_CLASS_CTL_GRN_LIM 255 1 0, 1, 7, 0, 5, 0, fr 60, by decide +kernel, by decide +kernel, by decide +kernel, by decide +kernel, by decide +kernel, by decide +kernel⟩

theorem test_meets_EthernetPortsReceiveAndAnswer_3_0 : ∃ (s : State), ∃ (die j c : Nat), ∃ (q : Nat × Nat), die ≤ 1 ∧ j ≤ 7 ∧ c ≤ 7 ∧ smGet s.net.paused (64 * die + 8 * j + c) = some q ∧ s.mayHavePassed q.1 q.2 = true :=
  ⟨{ netUp with net := { netUp.net with paused := [(127, (0, 5000))] } }, 1, 7, 7, (0, 5000), by decide +kernel, by decide +kernel, by decide +kernel, by decide +kernel, by decide +kernel⟩

theorem test_meets_EthernetPortsReceiveAndAnswer_4_0 : ∃ (s : State), ∃ (die j c : Nat), s.heldOff die j c = true ∧ s.mayHavePassed (smGetD s.net.xoffAt (64 * die + 8 * j + c) 0) (s.quantaNs die 16384) = true ∧ s.xoff die c ≠ 0 ∧ s.xoff die c ≤ s.rxOcc die (· == c) + 131072 :=
  ⟨tickSt 1000 ((netUp.fset PKT_PORT_STATUS_XOFF_SENT 0x80 1 7).fset PKT_CLASS_CTL_XOFF 2 1 7), 1, 7, 7, by decide +kernel, by decide +kernel, by decide +kernel, by decide +kernel⟩

theorem test_meets_EthernetPortsReceiveAndAnswer_4_1a : ∃ (s : State), ∃ (die j c : Nat), s.heldOff die j c = true ∧ (s.rxOcc die (· == c) + 131072 < s.xoff die c ∨ s.xoff die c = 0) :=
  ⟨((netUp.fset PKT_PORT_STATUS_XOFF_SENT 0x80 1 7).fset PKT_CLASS_CTL_XOFF 3 1 7), 1, 7, 7, by decide +kernel, by decide +kernel⟩

theorem test_meets_EthernetPortsReceiveAndAnswer_4_1b : ∃ (s : State), ∃ (die j c : Nat), s.heldOff die j c = true ∧ (s.rxOcc die (· == c) + 131072 < s.xoff die c ∨ s.xoff die c = 0) :=
  ⟨((netUp.fset PKT_PORT_STATUS_XOFF_SENT 0x80 1 7).fset PKT_CLASS_CTL_XOFF 0 1 7), 1, 7, 7, by decide +kernel, by decide +kernel⟩

theorem test_meets_EthernetPortsReceiveAndAnswer_5_0 : ∃ (s : State), ∃ (die : Nat), ∃ (ptp : List (List Byte)), ∃ (servo : Option (Int × Int)), ∃ (f : RxFrame), ∃ (r : List Byte), s.fwRuns = true ∧ s.net.mgmt.find? (fun f => f.port / 8 == die) = some f ∧ beVal ((f.bytes.drop 12).take 2) = 0x0806 ∧ s.arpReply f.port (f.bytes.drop 14) = some r :=
  ⟨arpSt, 1, [], none, arpRx, _, by decide +kernel, by decide +kernel, by decide +kernel, some_of (d := []) (by decide +kernel)⟩

theorem test_meets_EthernetPortsReceiveAndAnswer_6_0 : ∃ (s u : State), ∃ (die : Nat), ∃ (ptp : List (List Byte)), ∃ (f : RxFrame), s.fwRuns = true ∧ s.net.mgmt.find? (fun f => f.port / 8 == die) = some f ∧ beVal ((f.bytes.drop 12).take 2) = 0x88F7 ∧ u = ptp.foldl (fun s p => s.fwFrame f.port p true) { s with net := { s.net with mgmt := s.net.mgmt.erase f } } :=
  ⟨ptpSt, { ptpSt with net := { ptpSt.net with mgmt := [], source := ptpSt.net.source ++ [{ src := 65536, slice := 64, port := 15, bytes := fr 60, mark := true }] } }, 1, [fr 60], ptpRx, by decide +kernel, by decide +kernel, by decide +kernel, by decide +kernel⟩

theorem test_meets_EthernetPortsReceiveAndAnswer_6_1 : ∃ (s u : State), ∃ (die : Nat), ∃ (ptp : List (List Byte)), ∃ (f : RxFrame), s.fwRuns = true ∧ s.net.mgmt.find? (fun f => f.port / 8 == die) = some f ∧ beVal ((f.bytes.drop 12).take 2) = 0x88F7 ∧ u = ptp.foldl (fun s p => s.fwFrame f.port p true) { s with net := { s.net with mgmt := s.net.mgmt.erase f } } ∧ ∃ (off ppb : Int), s.fget PMU_TIME_STATUS_SRC = 2 ∧ s.pmu.srcPort = die * 8 + f.port % 8 ∧ -100 ≤ off ∧ off ≤ 100 ∧ s.clockValid = true :=
  ⟨ptpSt, { ptpSt with net := { ptpSt.net with mgmt := [], source := ptpSt.net.source ++ [{ src := 65536, slice := 64, port := 15, bytes := fr 60, mark := true }] } }, 1, [fr 60], ptpRx, by decide +kernel, by decide +kernel, by decide +kernel, by decide +kernel, -100, 600000, by decide +kernel, by decide +kernel, by decide +kernel, by decide +kernel, by decide +kernel⟩

theorem test_meets_EthernetPortsReceiveAndAnswer_7_0 : ∃ (s : State), ∃ (die j : Nat), die ≤ 1 ∧ j ≤ 7 ∧ s.linkUp die j = true :=
  ⟨{ netUp with net := { netUp.net with wire := [(15, onW)] } }, 1, 7, by decide +kernel, by decide +kernel, by decide +kernel⟩

theorem test_meets_EthernetPortsReceiveAndAnswer_8_0 : ∃ (s : State), ∃ (die j : Nat), die ≤ 1 ∧ s.portPresent die j = true ∧ s.fon PKT_PORT_CTL_EN die j = true ∧ .net die ∉ s.pw.gated ∧ 8 + die ∉ s.pw.refLost ∧ s.linkUp die j = false ∧ s.fget PKT_MODE_MODE die ≤ 2 ∧ (s.gateOf die j).asleep = false :=
  ⟨base.fset PKT_PORT_CTL_EN 1 1 7, 1, 7, by decide +kernel, by decide +kernel, by decide +kernel, by decide +kernel, by decide +kernel, by decide +kernel, by decide +kernel, by decide +kernel⟩

theorem test_meets_EthernetPortsReceiveAndAnswer_9_0 : ∃ (s : State), ∃ (die v : Nat), die ≤ 1 ∧ s.fon PKT_LOCK_LOCK die = false ∧ 1518 ≤ getBits v 29 16 ∧ getBits v 29 16 ≤ 9216 ∧ getBits v 1 0 ≠ 3 ∧ getBits v 1 0 = s.fget PKT_MODE_MODE die :=
  ⟨netUp, 1, 9216 * 65536, by decide +kernel, by decide +kernel, by decide +kernel, by decide +kernel, by decide +kernel, by decide +kernel⟩

theorem test_meets_EthernetPortsReceiveAndAnswer_9_1 : ∃ (s : State), ∃ (die v : Nat), die ≤ 1 ∧ s.fon PKT_LOCK_LOCK die = false ∧ (getBits v 29 16 < 1518 ∨ 9216 < getBits v 29 16 ∨ getBits v 1 0 = 3) :=
  ⟨netUp, 1, 1517 * 65536, by decide +kernel, by decide +kernel, by decide +kernel⟩

theorem test_meets_EthernetPortsReceiveAndAnswer_10_0 : ∃ (s : State), ∃ (die j p : Nat), die ≤ 1 ∧ j ≤ 7 :=
  ⟨netUp, 1, 7, 3, by decide +kernel, by decide +kernel⟩

theorem test_meets_EthernetPortsReceiveAndAnswer_11_0 : ∃ (s : State), ∃ (die j p w v : Nat), die ≤ 1 ∧ j ≤ 7 ∧ p ≤ 1 ∧ w ≤ 15 ∧ s.fget PKT_PORT_CTL_PROF die j ≠ p ∧ getBits v 17 16 ≠ 3 ∧ v < 2 ^ 32 :=
  ⟨netUp, 1, 7, 1, 15, 0xFFFEFFFF, by decide +kernel, by decide +kernel, by decide +kernel, by decide +kernel, by decide +kernel, by decide +kernel, by decide +kernel⟩

theorem test_meets_EthernetPortsReceiveAndAnswer_12_0 : ∃ (s : State), ∃ (die : Nat), die ≤ 1 ∧ (∀ i w, s.ruleWord die i w < 2 ^ 32) :=
  ⟨netUp, 1, by decide +kernel, by intro i w; simp [State.ruleWord, netUp, base, hst, bound, slice1, up, State.setSx, State.fset, State.rset, State.setPw, State.reset, Net.reset, smGetD, smGet]⟩

theorem test_meets_EthernetPortsReceiveAndAnswer_13_0 : ∃ (s : State), ∃ (die : Nat), die ≤ 1 ∧ actOk (s.rget PKT_RULE_DATA die 35) = true :=
  ⟨netUp, 1, by decide +kernel, by decide +kernel⟩

theorem test_meets_EthernetPortsReceiveAndAnswer_14_0 : ∃ (s : State), ∃ (die j : Nat), die ≤ 1 ∧ j ≤ 7 :=
  ⟨netUp, 1, 7, by decide +kernel, by decide +kernel⟩

theorem test_meets_TransmitQueuesAreScheduled_0_0 : ∃ (s s1 : State), ∃ (die src q c : Nat), ∃ (f : TxFrame), s.net.source.find? (fun f => f.src == src && f.port / 8 == die) = some f ∧ s.txClass die f = (s1, q, c, 0) ∧ s.linkUp die (f.port % 8) = true ∧ s.txOcc die (f.port % 8) q + f.size ≤ s.effFld SCH_Q_LIM_GRN die (f.port % 8) q * 4096 ∧ s.txBuf die + f.size ≤ 2 ^ 23 :=
  ⟨srcSt netUp, (srcSt netUp |>.classify 1 7 1 (fr 60)).1, 1, 65536, 0, 0, txF, by decide +kernel, by decide +kernel, by decide +kernel, by decide +kernel, by decide +kernel⟩

theorem test_meets_TransmitQueuesAreScheduled_0_1 : ∃ (s s1 : State), ∃ (die src q c : Nat), ∃ (f : TxFrame), s.net.source.find? (fun f => f.src == src && f.port / 8 == die) = some f ∧ s.txClass die f = (s1, q, c, 0) ∧ s.linkUp die (f.port % 8) = true ∧ s.effFld SCH_Q_LIM_GRN die (f.port % 8) q * 4096 < s.txOcc die (f.port % 8) q + f.size :=
  ⟨limSt (srcSt netUp) 0, (limSt (srcSt netUp) 0 |>.classify 1 7 1 (fr 60)).1, 1, 65536, 0, 0, txF, by decide +kernel, by decide +kernel, by decide +kernel, by decide +kernel⟩

theorem test_meets_TransmitQueuesAreScheduled_1_0 : ∃ (s s1 : State), ∃ (die src q c col : Nat), ∃ (f : TxFrame), s.net.source.find? (fun f => f.src == src && f.port / 8 == die) = some f ∧ s.txClass die f = (s1, q, c, col) ∧ s.linkUp die (f.port % 8) = false :=
  ⟨srcSt base, (srcSt base |>.classify 1 7 1 (fr 60)).1, 1, 65536, 0, 0, 0, txF, by decide +kernel, by decide +kernel, by decide +kernel⟩

theorem test_meets_TransmitQueuesAreScheduled_2_0 : ∃ (s s1 : State), ∃ (die j t pr q cur : Nat), ∃ (added : Bool), ∃ (el : List Nat), ∃ (f : TxQueued), ∃ (rest : List TxQueued), die ≤ 1 ∧ j ≤ 7 ∧ s.inTick (t / 1000) = true ∧ s.takeDue die j (t / 1000) = false ∧ smGet s.net.wire (die * 8 + j) = none ∧ el = (List.range 64).filter (fun q => s.eligible die j q t) ∧ el ≠ [] ∧ pr = el.foldl (fun m q => max m (s.effFld SCH_Q_CTL_PRIO die j q)) 0 ∧ smGetD s.net.turn ((die * 8 + j) * 8 + pr) (0, false) = (cur, added) ∧ s.drr die j pr (el.filter (fun q => s.effFld SCH_Q_CTL_PRIO die j q == pr)) cur added 12000 = (s1, some q) ∧ s.txQueue die j q = f :: rest :=
  ⟨txqSt, (txqSt.drr 1 7 0 [63] 0 false 12000).1, 1, 7, 0, 0, 63, 0, false, [63], txE, [], by decide +kernel, by decide +kernel, by decide +kernel, by decide +kernel, by decide +kernel, by decide +kernel, by decide +kernel, by decide +kernel, by decide +kernel, by decide +kernel, by decide +kernel⟩

theorem test_meets_TransmitQueuesAreScheduled_3_0 : ∃ (s : State), ∃ (die j t : Nat), die ≤ 1 ∧ j ≤ 7 ∧ (∀ q, q < 64 → s.eligible die j q t = false) :=
  ⟨netUp, 1, 7, 0, by decide +kernel, by decide +kernel, fun q hq => by simp [State.eligible, State.txQueue, netUp, base, hst, bound, slice1, up, State.setSx, State.fset, State.rset, State.setPw, State.reset, Net.reset, smGetD, smGet]⟩

theorem test_meets_TransmitQueuesAreScheduled_4_0 : ∃ (s : State), ∃ (die j : Nat), ∃ (w : OnWire), smGet s.net.wire (die * 8 + j) = some w ∧ w.lost = false :=
  ⟨wireSt netUp, 1, 7, onW, by decide +kernel, by decide +kernel⟩

theorem test_meets_TransmitQueuesAreScheduled_4_1 : ∃ (s : State), ∃ (die j : Nat), ∃ (w : OnWire), smGet s.net.wire (die * 8 + j) = some w ∧ w.lost = true :=
  ⟨{ base with net := { base.net with wire := [(15, { onW with lost := true })] } }, 1, 7, { onW with lost := true }, by decide +kernel, by decide +kernel⟩

theorem test_meets_TransmitQueuesAreScheduled_5_0 : ∃ (s : State), ∃ (die : Nat), ∃ (sent : List Nat), die ≤ 1 ∧ s.refillsNow die < 49 :=
  ⟨wireSt netUp, 1, [0, 0, 0, 0, 0, 0, 0, 4096], by decide +kernel, by decide +kernel⟩

theorem test_meets_TransmitQueuesAreScheduled_6_0 : ∃ (s : State), ∃ (die j t : Nat), ∃ (g : Nat × Nat × Nat), die ≤ 1 ∧ j ≤ 7 ∧ s.fon SCH_PORT_CTL_GATE_EN die j = true ∧ s.fon SCH_PORT_STATUS_RUNNING die j = true ∧ s.clockValid = true ∧ s.inTick t = true ∧ s.takeDue die j t = false ∧ (s.gateOf die j).cycle ≤ t ∧ t < (s.gateOf die j).cycle + max 1 (s.gclCycle die j (s.fget SCH_PORT_STATUS_OPER_BANK die j)) ∧ segAt (s.gclSegs die j (s.fget SCH_PORT_STATUS_OPER_BANK die j)) (t - (s.gateOf die j).cycle) = some g ∧ g.2.1 < 256 ∧ g.2.2 < 256 :=
  ⟨gclOn { cycle := 5000, entryAt := 0, takeAt := none, bank := 0, asleep := false }, 1, 7, 6999, (2000, 0x8F, 0), by decide +kernel, by decide +kernel, by decide +kernel, by decide +kernel, by decide +kernel, by decide +kernel, by decide +kernel, by decide +kernel, by decide +kernel, by decide +kernel, by decide +kernel, by decide +kernel⟩

theorem test_meets_TransmitQueuesAreScheduled_7_0 : ∃ (s : State), ∃ (die j v t : Nat), die ≤ 1 ∧ j ≤ 7 ∧ s.inTick t = true ∧ bit v 31 = false :=
  ⟨gclSt, 1, 7, 0x1000000, gclSt.pmu.ns + 10000, by decide +kernel, by decide +kernel, by decide +kernel, by decide +kernel⟩

theorem test_meets_TransmitQueuesAreScheduled_7_1 : ∃ (s : State), ∃ (die j v t : Nat), die ≤ 1 ∧ j ≤ 7 ∧ s.inTick t = true ∧ bit v 31 = true ∧ bit v 29 = true ∧ s.bankOk die j (getBits v 24 24) = true ∧ s.clockValid = true ∧ (s.gateOf die j).asleep = false ∧ (s.fon SCH_PORT_STATUS_RUNNING die j = true → getBits v 24 24 ≠ s.fget SCH_PORT_STATUS_OPER_BANK die j) :=
  ⟨gclSt, 1, 7, 0xA1000000, gclSt.pmu.ns + 10000, by decide +kernel, by decide +kernel, by decide +kernel, by decide +kernel, by decide +kernel, by decide +kernel, by decide +kernel, by decide +kernel, by decide +kernel⟩

theorem test_meets_TransmitQueuesAreScheduled_7_2 : ∃ (s : State), ∃ (die j v t : Nat), die ≤ 1 ∧ j ≤ 7 ∧ s.inTick t = true ∧ bit v 31 = true ∧ bit v 29 = true ∧ s.bankOk die j (getBits v 24 24) = false :=
  ⟨gclSt, 1, 7, 0xA0000000, gclSt.pmu.ns + 10000, by decide +kernel, by decide +kernel, by decide +kernel, by decide +kernel, by decide +kernel, by decide +kernel⟩

theorem test_meets_TransmitQueuesAreScheduled_8_0 : ∃ (s : State), ∃ (die j t a : Nat), die ≤ 1 ∧ j ≤ 7 ∧ s.fon SCH_PORT_CTL_GATE_EN die j = true ∧ s.clockValid = true ∧ s.inTick t = true ∧ (s.gateOf die j).takeAt = some a ∧ a ≤ t :=
  ⟨gclOn { cycle := 5000, entryAt := 0, takeAt := some 9000, bank := 0, asleep := false }, 1, 7, 9000, 9000, by decide +kernel, by decide +kernel, by decide +kernel, by decide +kernel, by decide +kernel, by decide +kernel, by decide +kernel⟩

theorem test_meets_NetworkCommandsWriteTheirImages_0_0 : ∃ (s u : State), ∃ (ch die v : Nat), s.serves ch 0x58 [] .secure true = true ∧ die ≤ 1 ∧ getBits v 1 0 = s.fget PKT_MODE_MODE die ∧ (s.takeUp ch).netImages die (fun r _ => r == PKT_MODE) [(PKT_MODE.addr die 0 0 0, v)] = some u :=
  ⟨nb 88, _, 0, 1, 9000 * 65536, by decide +kernel, by decide +kernel, by decide +kernel, some_of (d := up) (by decide +kernel)⟩

theorem test_meets_NetworkCommandsWriteTheirImages_1_0 : ∃ (s t u : State), ∃ (ch die v : Nat), s.serves ch 0x58 [] .secure true = true ∧ die ≤ 1 ∧ getBits v 1 0 ≠ s.fget PKT_MODE_MODE die ∧ t = (List.range 8).foldl (fun s j => let was := s.fon PKT_PORT_CTL_EN die j; let s := s.fset PKT_PORT_CTL_EN 0 die j; if was then s.portDown die j else s) (s.takeUp ch) ∧ t.netImages die (fun r _ => r == PKT_MODE) [(PKT_MODE.addr die 0 0 0, v)] = some u :=
  ⟨nb 88, _, _, 0, 1, 9000 * 65536 + 2, by decide +kernel, by decide +kernel, by decide +kernel, rfl, some_of (d := up) (by decide +kernel)⟩

theorem test_meets_NetworkCommandsWriteTheirImages_1_1 : ∃ (s t u : State), ∃ (ch die v : Nat), s.serves ch 0x58 [] .secure true = true ∧ die ≤ 1 ∧ getBits v 1 0 ≠ s.fget PKT_MODE_MODE die ∧ t = (List.range 8).foldl (fun s j => let was := s.fon PKT_PORT_CTL_EN die j; let s := s.fset PKT_PORT_CTL_EN 0 die j; if was then s.portDown die j else s) (s.takeUp ch) ∧ t.netImages die (fun r _ => r == PKT_MODE) [(PKT_MODE.addr die 0 0 0, v)] = some u ∧ ∃ j, j < 8 :=
  ⟨nb 88, _, _, 0, 1, 9000 * 65536 + 2, by decide +kernel, by decide +kernel, by decide +kernel, rfl, some_of (d := up) (by decide +kernel), 4, by decide +kernel⟩

theorem test_meets_NetworkCommandsWriteTheirImages_2_0 : ∃ (s u : State), ∃ (ch die j ip4 ip6 : Nat), ∃ (images : List (Nat × Nat)), s.serves ch 0x59 [] .secure true = true ∧ die ≤ 1 ∧ j ≤ 7 ∧ ip4 < 2 ^ 32 ∧ ip6 < 2 ^ 128 ∧ (s.takeUp ch).netImages die (fun r ix => (r == PKT_PORT_MAC_LO || r == PKT_PORT_MAC_HI) && ixAt ix 0 == j) images = some u :=
  ⟨nb 89, _, 0, 1, 7, 2 ^ 32 - 1, 2 ^ 128 - 1, [(PKT_PORT_MAC_LO.addr 1 7 0 0, 5)], by decide +kernel, by decide +kernel, by decide +kernel, by decide +kernel, by decide +kernel, some_of (d := up) (by decide +kernel)⟩

theorem test_meets_NetworkCommandsWriteTheirImages_3_0 : ∃ (s : State), ∃ (ch die j ip4 ip6 : Nat), s.serves ch 0x59 [] .secure true = true ∧ die ≤ 1 ∧ j ≤ 7 ∧ ip4 < 2 ^ 32 ∧ ip6 < 2 ^ 128 :=
  ⟨nb 89, 0, 1, 7, 2 ^ 32 - 1, 2 ^ 128 - 1, by decide +kernel, by decide +kernel, by decide +kernel, by decide +kernel, by decide +kernel⟩

theorem test_meets_NetworkCommandsWriteTheirImages_4_0 : ∃ (s u : State), ∃ (ch die j : Nat), ∃ (images : List (Nat × Nat)), s.serves ch 0x5A [] .secure true = true ∧ die ≤ 1 ∧ j ≤ 7 ∧ (s.takeUp ch).netImages die (fun r ix => [PKT_WIN, PKT_PORT_CTL, PKT_PORT_DEF_RX, PKT_PORT_DEF_TX].contains r && ixAt ix 0 == j) images = some u :=
  ⟨nb 90, _, 0, 1, 7, [(PKT_PORT_DEF_RX.addr 1 7 0 0, 5)], by decide +kernel, by decide +kernel, by decide +kernel, some_of (d := up) (by decide +kernel)⟩

theorem test_meets_NetworkCommandsWriteTheirImages_5_0 : ∃ (s u : State), ∃ (ch die : Nat), ∃ (images : List (Nat × Nat)), s.serves ch 0x5B [] .secure true = true ∧ die ≤ 1 ∧ (s.takeUp ch).netImages die (fun r _ => [PKT_RULE_SEL, PKT_RULE_CMD, PKT_RULE_DATA, PKT_CLASS_CTL, PKT_QDEST].contains r) images = some u :=
  ⟨nb 91, _, 0, 1, [(PKT_RULE_SEL.addr 1 0 0 0, 5)], by decide +kernel, by decide +kernel, some_of (d := up) (by decide +kernel)⟩

theorem test_meets_NetworkCommandsWriteTheirImages_6_0 : ∃ (s u : State), ∃ (ch die j : Nat), ∃ (images : List (Nat × Nat)), s.serves ch 0x5C [] .secure true = true ∧ die ≤ 1 ∧ j ≤ 7 ∧ (s.takeUp ch).netImages die (fun r ix => r.blk == .sch && !r.dims.isEmpty && ixAt ix 0 == j) images = some u :=
  ⟨nb 92, _, 0, 1, 7, [(SCH_GCL_BASE_NS.addr 1 7 1 0, 5)], by decide +kernel, by decide +kernel, by decide +kernel, some_of (d := up) (by decide +kernel)⟩

theorem test_meets_NetworkCommandsWriteTheirImages_7_0 : ∃ (s : State), ∃ (ch die j : Nat), ∃ (images : List (Nat × Nat)), ∃ (i : Nat × Nat), s.serves ch 0x5C [] .secure true = true ∧ die ≤ 1 ∧ j ≤ 7 ∧ i ∈ images ∧ netReg die i.1 = none :=
  ⟨nb 92, 0, 1, 7, [(0, 5)], (0, 5), by decide +kernel, by decide +kernel, by decide +kernel, by decide +kernel, by decide +kernel⟩

theorem test_meets_TmtRequestsAreSentAndCompleted_0_0 : ∃ (s : State), ∃ (who : Requester), ∃ (p sl n v : Nat), ∃ (got : HostData), ∃ (q : TmtSq), sl < 64 ∧ n < 256 ∧ p ≤ 7 ∧ smGet s.tmt.sqs (sl * 256 + n) = some q ∧ s.accepts q.slice = true ∧ q.err = false ∧ q.port = some p ∧ q.setup = false ∧ v < q.size ∧ v < 2 ^ 16 :=
  ⟨tSt cn [], .atelier, 0, 1, 3, 5, (.ok, []), tq, by decide +kernel, by decide +kernel, by decide +kernel, by decide +kernel, by decide +kernel, by decide +kernel, by decide +kernel, by decide +kernel, by decide +kernel, by decide +kernel⟩

theorem test_meets_TmtRequestsAreSentAndCompleted_0_1 : ∃ (s : State), ∃ (who : Requester), ∃ (p sl n v : Nat), ∃ (got : HostData), ∃ (q : TmtSq), sl < 64 ∧ n < 256 ∧ p ≤ 7 ∧ smGet s.tmt.sqs (sl * 256 + n) = some q ∧ s.accepts q.slice = true ∧ q.err = false ∧ q.port = some p ∧ (q.size ≤ v ∨ 2 ^ 16 ≤ v) ∧ q.size ≤ 2 ^ 16 :=
  ⟨tSt cn [], .atelier, 0, 1, 3, 64, (.ok, []), tq, by decide +kernel, by decide +kernel, by decide +kernel, by decide +kernel, by decide +kernel, by decide +kernel, by decide +kernel, Or.inl (by decide +kernel), by decide +kernel⟩

theorem test_meets_TmtRequestsAreSentAndCompleted_0_2 : ∃ (s : State), ∃ (who : Requester), ∃ (p sl n v : Nat), ∃ (got : HostData), ∃ (q : TmtSq), sl < 64 ∧ n < 256 ∧ p ≤ 7 ∧ smGet s.tmt.sqs (sl * 256 + n) = some q ∧ s.accepts q.slice = true ∧ q.err = false ∧ ∃ r, q.port = some r ∧ r ≠ p :=
  ⟨tSt cn [], .atelier, 1, 1, 3, 5, (.ok, []), tq, by decide +kernel, by decide +kernel, by decide +kernel, by decide +kernel, by decide +kernel, by decide +kernel, 0, by decide +kernel, by decide +kernel⟩

theorem test_meets_TmtRequestsAreSentAndCompleted_1_0 : ∃ (s : State), ∃ (who : Requester), ∃ (p sl n v : Nat), ∃ (q : TmtCq), sl < 64 ∧ n < 256 ∧ p ≤ 7 ∧ smGet s.tmt.cqs (sl * 256 + n) = some q ∧ q.port = some p ∧ s.accepts sl = true ∧ q.err = false ∧ getBits v 30 16 = 0 ∧ v % 2 ^ 16 < q.size ∧ (∀ x ∈ s.tmt.posts, x.cq ≠ sl * 256 + n) :=
  ⟨{ tSt cn [] with tmt := { tmt0 cn [] with cqs := [(260, { tqc with port := some 0 })] } }, .atelier, 0, 1, 4, 2 ^ 31 + 5, { tqc with port := some 0 }, by decide +kernel, by decide +kernel, by decide +kernel, by decide +kernel, by decide +kernel, by decide +kernel, by decide +kernel, by decide +kernel, by decide +kernel, by decide +kernel⟩

theorem test_meets_TmtRequestsAreSentAndCompleted_2_0 : ∃ (s s1 : State), ∃ (sl q op c : Nat), ∃ (wr : HostData), ∃ (d : List Byte), ∃ (i : Instr), ∃ (sq : TmtSq), ∃ (x : Conn), (i, op) ∈ [(Instr.tmtWrite sl q wr, 0), (.tmtWriteImm sl q wr, 1), (.tmtRead sl q wr, 2), (.tmtFlush sl q wr, 3), (.tmtFetchAdd sl q wr, 4)] ∧ smGet s.tmt.sqs (sl * 256 + q) = some sq ∧ sq.setup = false ∧ sq.err = false ∧ sq.head ≠ sq.tail ∧ s.ringRead sq 1 wr = (s1, (.ok, d)) ∧ leField d 0 1 = op ∧ c = leField d 4 4 ∧ wrOk d = true ∧ s1.conn c = some x ∧ x.slice = sl ∧ x.die = sq.die ∧ x.state ≠ 4 ∧ x.state ≠ 5 ∧ x.cached = true ∧ x.holds op = true ∧ (op ≤ 2 → s1.localErr sl ((match sq.port with | some p => some p | none => s1.drvPort sl).getD 0) (leField d 8 8) (leField d 0x10 4) (bit (leField d 1 1) 2) (op == 2) = none) :=
  ⟨wrSt (tWr 0), ((wrSt (tWr 0)).ringRead tqS 1 (.ok, [])).1, 1, 3, 0, 40, (.ok, []), ((wrSt (tWr 0)).ringRead tqS 1 (.ok, [])).2.2, .tmtWrite 1 3 (.ok, []), tqS, cn, by simp, by decide +kernel, by decide +kernel, by decide +kernel, by decide +kernel, by decide +kernel, by decide +kernel, by decide +kernel, by decide +kernel, by decide +kernel, by decide +kernel, by decide +kernel, by decide +kernel, by decide +kernel, by decide +kernel, by decide +kernel, by decide +kernel⟩

theorem test_meets_TmtRequestsAreSentAndCompleted_2_0a : ∃ (s s1 : State), ∃ (sl q op c : Nat), ∃ (wr : HostData), ∃ (d : List Byte), ∃ (i : Instr), ∃ (sq : TmtSq), ∃ (x : Conn), (i, op) ∈ [(Instr.tmtWrite sl q wr, 0), (.tmtWriteImm sl q wr, 1), (.tmtRead sl q wr, 2), (.tmtFlush sl q wr, 3), (.tmtFetchAdd sl q wr, 4)] ∧ smGet s.tmt.sqs (sl * 256 + q) = some sq ∧ sq.setup = false ∧ sq.err = false ∧ sq.head ≠ sq.tail ∧ s.ringRead sq 1 wr = (s1, (.ok, d)) ∧ leField d 0 1 = op ∧ c = leField d 4 4 ∧ wrOk d = true ∧ s1.conn c = some x ∧ x.slice = sl ∧ x.die = sq.die ∧ x.state ≠ 4 ∧ x.state ≠ 5 ∧ x.cached = true ∧ x.holds op = true ∧ (op ≤ 2 → s1.localErr sl ((match sq.port with | some p => some p | none => s1.drvPort sl).getD 0) (leField d 8 8) (leField d 0x10 4) (bit (leField d 1 1) 2) (op == 2) = none) :=
  ⟨wrSt (tWr 4), ((wrSt (tWr 4)).ringRead tqS 1 (.ok, [])).1, 1, 3, 4, 40, (.ok, []), ((wrSt (tWr 4)).ringRead tqS 1 (.ok, [])).2.2, .tmtFetchAdd 1 3 (.ok, []), tqS, cn, by simp, by decide +kernel, by decide +kernel, by decide +kernel, by decide +kernel, by decide +kernel, by decide +kernel, by decide +kernel, by decide +kernel, by decide +kernel, by decide +kernel, by decide +kernel, by decide +kernel, by decide +kernel, by decide +kernel, by decide +kernel, by decide +kernel⟩

theorem test_meets_TmtRequestsAreSentAndCompleted_2_0b : ∃ (s s1 : State), ∃ (sl q op c : Nat), ∃ (wr : HostData), ∃ (d : List Byte), ∃ (i : Instr), ∃ (sq : TmtSq), ∃ (x : Conn), (i, op) ∈ [(Instr.tmtWrite sl q wr, 0), (.tmtWriteImm sl q wr, 1), (.tmtRead sl q wr, 2), (.tmtFlush sl q wr, 3), (.tmtFetchAdd sl q wr, 4)] ∧ smGet s.tmt.sqs (sl * 256 + q) = some sq ∧ sq.setup = false ∧ sq.err = false ∧ sq.head ≠ sq.tail ∧ s.ringRead sq 1 wr = (s1, (.ok, d)) ∧ leField d 0 1 = op ∧ c = leField d 4 4 ∧ wrOk d = true ∧ s1.conn c = some x ∧ x.slice = sl ∧ x.die = sq.die ∧ x.state ≠ 4 ∧ x.state ≠ 5 ∧ x.cached = true ∧ x.holds op = true ∧ (op ≤ 2 → s1.localErr sl ((match sq.port with | some p => some p | none => s1.drvPort sl).getD 0) (leField d 8 8) (leField d 0x10 4) (bit (leField d 1 1) 2) (op == 2) = none) :=
  ⟨wrSt (tWr 2), ((wrSt (tWr 2)).ringRead tqS 1 (.ok, [])).1, 1, 3, 2, 40, (.ok, []), ((wrSt (tWr 2)).ringRead tqS 1 (.ok, [])).2.2, .tmtRead 1 3 (.ok, []), tqS, cn, by simp, by decide +kernel, by decide +kernel, by decide +kernel, by decide +kernel, by decide +kernel, by decide +kernel, by decide +kernel, by decide +kernel, by decide +kernel, by decide +kernel, by decide +kernel, by decide +kernel, by decide +kernel, by decide +kernel, by decide +kernel, by decide +kernel⟩

theorem test_meets_TmtRequestsAreSentAndCompleted_2_0c : ∃ (s s1 : State), ∃ (sl q op c : Nat), ∃ (wr : HostData), ∃ (d : List Byte), ∃ (i : Instr), ∃ (sq : TmtSq), ∃ (x : Conn), (i, op) ∈ [(Instr.tmtWrite sl q wr, 0), (.tmtWriteImm sl q wr, 1), (.tmtRead sl q wr, 2), (.tmtFlush sl q wr, 3), (.tmtFetchAdd sl q wr, 4)] ∧ smGet s.tmt.sqs (sl * 256 + q) = some sq ∧ sq.setup = false ∧ sq.err = false ∧ sq.head ≠ sq.tail ∧ s.ringRead sq 1 wr = (s1, (.ok, d)) ∧ leField d 0 1 = op ∧ c = leField d 4 4 ∧ wrOk d = true ∧ s1.conn c = some x ∧ x.slice = sl ∧ x.die = sq.die ∧ x.state ≠ 4 ∧ x.state ≠ 5 ∧ x.cached = true ∧ x.holds op = true ∧ (op ≤ 2 → s1.localErr sl ((match sq.port with | some p => some p | none => s1.drvPort sl).getD 0) (leField d 8 8) (leField d 0x10 4) (bit (leField d 1 1) 2) (op == 2) = none) :=
  ⟨wrSt (tWr 3), ((wrSt (tWr 3)).ringRead tqS 1 (.ok, [])).1, 1, 3, 3, 40, (.ok, []), ((wrSt (tWr 3)).ringRead tqS 1 (.ok, [])).2.2, .tmtFlush 1 3 (.ok, []), tqS, cn, by simp, by decide +kernel, by decide +kernel, by decide +kernel, by decide +kernel, by decide +kernel, by decide +kernel, by decide +kernel, by decide +kernel, by decide +kernel, by decide +kernel, by decide +kernel, by decide +kernel, by decide +kernel, by decide +kernel, by decide +kernel, by decide +kernel⟩

theorem test_meets_TmtRequestsAreSentAndCompleted_2_0d : ∃ (s s1 : State), ∃ (sl q op c : Nat), ∃ (wr : HostData), ∃ (d : List Byte), ∃ (i : Instr), ∃ (sq : TmtSq), ∃ (x : Conn), (i, op) ∈ [(Instr.tmtWrite sl q wr, 0), (.tmtWriteImm sl q wr, 1), (.tmtRead sl q wr, 2), (.tmtFlush sl q wr, 3), (.tmtFetchAdd sl q wr, 4)] ∧ smGet s.tmt.sqs (sl * 256 + q) = some sq ∧ sq.setup = false ∧ sq.err = false ∧ sq.head ≠ sq.tail ∧ s.ringRead sq 1 wr = (s1, (.ok, d)) ∧ leField d 0 1 = op ∧ c = leField d 4 4 ∧ wrOk d = true ∧ s1.conn c = some x ∧ x.slice = sl ∧ x.die = sq.die ∧ x.state ≠ 4 ∧ x.state ≠ 5 ∧ x.cached = true ∧ x.holds op = true ∧ (op ≤ 2 → s1.localErr sl ((match sq.port with | some p => some p | none => s1.drvPort sl).getD 0) (leField d 8 8) (leField d 0x10 4) (bit (leField d 1 1) 2) (op == 2) = none) :=
  ⟨wrSt (tWr 1), ((wrSt (tWr 1)).ringRead tqS 1 (.ok, [])).1, 1, 3, 1, 40, (.ok, []), ((wrSt (tWr 1)).ringRead tqS 1 (.ok, [])).2.2, .tmtWriteImm 1 3 (.ok, []), tqS, cn, by simp, by decide +kernel, by decide +kernel, by decide +kernel, by decide +kernel, by decide +kernel, by decide +kernel, by decide +kernel, by decide +kernel, by decide +kernel, by decide +kernel, by decide +kernel, by decide +kernel, by decide +kernel, by decide +kernel, by decide +kernel, by decide +kernel⟩

theorem test_meets_TmtRequestsAreSentAndCompleted_2_1 : ∃ (s s1 : State), ∃ (sl q op c : Nat), ∃ (wr : HostData), ∃ (d : List Byte), ∃ (i : Instr), ∃ (sq : TmtSq), ∃ (x : Conn), (i, op) ∈ [(Instr.tmtWrite sl q wr, 0), (.tmtWriteImm sl q wr, 1), (.tmtRead sl q wr, 2), (.tmtFlush sl q wr, 3), (.tmtFetchAdd sl q wr, 4)] ∧ smGet s.tmt.sqs (sl * 256 + q) = some sq ∧ sq.setup = false ∧ sq.err = false ∧ sq.head ≠ sq.tail ∧ s.ringRead sq 1 wr = (s1, (.ok, d)) ∧ leField d 0 1 = op ∧ c = leField d 4 4 ∧ wrOk d = false :=
  ⟨wrSt (1 :: (tWr 1).drop 1 |>.set 2 7), ((wrSt (1 :: (tWr 1).drop 1 |>.set 2 7)).ringRead tqS 1 (.ok, [])).1, 1, 3, 1, 40, (.ok, []), ((wrSt (1 :: (tWr 1).drop 1 |>.set 2 7)).ringRead tqS 1 (.ok, [])).2.2, .tmtWriteImm 1 3 (.ok, []), tqS, cn, by simp, by decide +kernel, by decide +kernel, by decide +kernel, by decide +kernel, by decide +kernel, by decide +kernel, by decide +kernel, by decide +kernel⟩

theorem test_meets_TmtRequestsAreSentAndCompleted_2_2 : ∃ (s s1 : State), ∃ (sl q op c : Nat), ∃ (wr : HostData), ∃ (d : List Byte), ∃ (i : Instr), ∃ (sq : TmtSq), ∃ (x : Conn), (i, op) ∈ [(Instr.tmtWrite sl q wr, 0), (.tmtWriteImm sl q wr, 1), (.tmtRead sl q wr, 2), (.tmtFlush sl q wr, 3), (.tmtFetchAdd sl q wr, 4)] ∧ smGet s.tmt.sqs (sl * 256 + q) = some sq ∧ sq.setup = false ∧ sq.err = false ∧ sq.head ≠ sq.tail ∧ s.ringRead sq 1 wr = (s1, (.ok, d)) ∧ leField d 0 1 = op ∧ c = leField d 4 4 ∧ wrOk d = true ∧ s1.conn c = none :=
  ⟨wrSt ((tWr 1).set 4 41), ((wrSt ((tWr 1).set 4 41)).ringRead tqS 1 (.ok, [])).1, 1, 3, 1, 41, (.ok, []), ((wrSt ((tWr 1).set 4 41)).ringRead tqS 1 (.ok, [])).2.2, .tmtWriteImm 1 3 (.ok, []), tqS, cn, by simp, by decide +kernel, by decide +kernel, by decide +kernel, by decide +kernel, by decide +kernel, by decide +kernel, by decide +kernel, by decide +kernel, by decide +kernel⟩

theorem test_meets_TmtRequestsAreSentAndCompleted_3_0 : ∃ (s : State), ∃ (c now : Nat), ∃ (src : HostData), ∃ (x : Conn), s.conn c = some x ∧ (x.state = 3 ∨ x.state = 5) ∧ s.fon TMT_CTL_EN x.die = true ∧ s.dieStopped (14 + x.die) = false ∧ x.cached = true ∧ s.atNow now = true ∧ x.cwnd / 256 ≤ x.places :=
  ⟨tSt { cn with cwnd := 0 } [], 40, 50, (.ok, []), { cn with cwnd := 0 }, by decide +kernel, by decide +kernel, by decide +kernel, by decide +kernel, by decide +kernel, by decide +kernel, by decide +kernel⟩

theorem test_meets_TmtRequestsAreSentAndCompleted_3_1 : ∃ (s : State), ∃ (c now : Nat), ∃ (src : HostData), ∃ (x : Conn), s.conn c = some x ∧ (x.state = 3 ∨ x.state = 5) ∧ s.fon TMT_CTL_EN x.die = true ∧ s.dieStopped (14 + x.die) = false ∧ x.cached = true ∧ s.atNow now = true ∧ ∃ r, x.places < x.cwnd / 256 ∧ x.lost = none ∧ nextReq [] x.reqs = some r ∧ x.inMap x.nextPsn = true ∧ 2 ≤ r.op ∧ r.op ≤ 4 ∧ x.canSeal 1 :=
  ⟨tSt { cn with reqs := [rq 4] } [], 40, 50, (.ok, []), { cn with reqs := [rq 4] }, by decide +kernel, by decide +kernel, by decide +kernel, by decide +kernel, by decide +kernel, by decide +kernel, rq 4, by decide +kernel, by decide +kernel, by decide +kernel, by decide +kernel, by decide +kernel, by decide +kernel, Or.inl (by decide +kernel)⟩

theorem test_meets_TmtRequestsAreSentAndCompleted_3_2 : ∃ (s : State), ∃ (c now : Nat), ∃ (src : HostData), ∃ (x : Conn), s.conn c = some x ∧ (x.state = 3 ∨ x.state = 5) ∧ s.fon TMT_CTL_EN x.die = true ∧ s.dieStopped (14 + x.die) = false ∧ x.cached = true ∧ s.atNow now = true ∧ ∃ r, x.places < x.cwnd / 256 ∧ x.lost = none ∧ nextReq [] x.reqs = some r ∧ x.inMap x.nextPsn = true ∧ 2 ≤ r.op ∧ r.op ≤ 4 ∧ x.enc = true ∧ 2 ^ 48 ≤ x.iv + 1 :=
  ⟨kSt2 { cn with reqs := [rq 4], flags := 4, key := 7, iv := 2 ^ 48 - 1 }, 40, 50, (.ok, []), { cn with reqs := [rq 4], flags := 4, key := 7, iv := 2 ^ 48 - 1 }, by decide +kernel, by decide +kernel, by decide +kernel, by decide +kernel, by decide +kernel, by decide +kernel, rq 4, by decide +kernel, by decide +kernel, by decide +kernel, by decide +kernel, by decide +kernel, by decide +kernel, by decide +kernel, by decide +kernel⟩

theorem test_meets_TmtRequestsAreSentAndCompleted_3_3 : ∃ (s : State), ∃ (c now : Nat), ∃ (src : HostData), ∃ (x : Conn), s.conn c = some x ∧ (x.state = 3 ∨ x.state = 5) ∧ s.fon TMT_CTL_EN x.die = true ∧ s.dieStopped (14 + x.die) = false ∧ x.cached = true ∧ s.atNow now = true ∧ ∃ p r, x.places < x.cwnd / 256 ∧ x.lost = some p ∧ (x.reqs ++ x.ghosts).find? (fun r => r.msn == p.msn) = some r ∧ 2 ≤ r.op ∧ r.op ≤ 4 ∧ x.canSeal 1 :=
  ⟨tSt { cn with reqs := [{ rq 4 with sent := 1, first := 4 }], pkts := [sp 4 3] } [], 40, 50, (.ok, []), { cn with reqs := [{ rq 4 with sent := 1, first := 4 }], pkts := [sp 4 3] }, by decide +kernel, by decide +kernel, by decide +kernel, by decide +kernel, by decide +kernel, by decide +kernel, sp 4 3, { rq 4 with sent := 1, first := 4 }, by decide +kernel, by decide +kernel, by decide +kernel, by decide +kernel, by decide +kernel, Or.inl (by decide +kernel)⟩

theorem test_meets_TmtRequestsAreSentAndCompleted_4_0 : ∃ (s : State), ∃ (die c : Nat), ∃ (data : HostData), ∃ (i : Instr), ∃ (op : Nat), ∃ (k : TPkt), ∃ (x : Conn), (i, op) ∈ [(Instr.writePacket die, 0), (.writeImmPacket die, 1), (.readReq die c data, 2), (.flushPacket die, 4), (.fetchAddPacket die c, 5)] ∧ (∀ y, s.conn c = some y → y.held = []) ∧ s.frontPkt die op = some (k, x) ∧ k.psn ∉ x.rnr ∧ x.canSeal 2 ∧ x.place k.psn = .dup ∧ op ≠ 2 :=
  ⟨tSt cn [tp 0 6 wext pay64], 0, 40, (.ok, []), .writePacket 0, 0, tp 0 6 wext pay64, cn, by simp, held_nil (by decide +kernel), by decide +kernel, by decide +kernel, Or.inl (by decide +kernel), by decide +kernel, by decide +kernel⟩

theorem test_meets_TmtRequestsAreSentAndCompleted_4_0a : ∃ (s : State), ∃ (die c : Nat), ∃ (data : HostData), ∃ (i : Instr), ∃ (op : Nat), ∃ (k : TPkt), ∃ (x : Conn), (i, op) ∈ [(Instr.writePacket die, 0), (.writeImmPacket die, 1), (.readReq die c data, 2), (.flushPacket die, 4), (.fetchAddPacket die c, 5)] ∧ (∀ y, s.conn c = some y → y.held = []) ∧ s.frontPkt die op = some (k, x) ∧ k.psn ∉ x.rnr ∧ x.canSeal 2 ∧ x.place k.psn = .dup ∧ op ≠ 2 :=
  ⟨tSt cn [tp 5 6 wext pay64], 0, 40, (.ok, []), .fetchAddPacket 0 40, 5, tp 5 6 wext pay64, cn, by simp, held_nil (by decide +kernel), by decide +kernel, by decide +kernel, Or.inl (by decide +kernel), by decide +kernel, by decide +kernel⟩

theorem test_meets_TmtRequestsAreSentAndCompleted_4_1 : ∃ (s : State), ∃ (die c : Nat), ∃ (data : HostData), ∃ (i : Instr), ∃ (op : Nat), ∃ (k : TPkt), ∃ (x : Conn), (i, op) ∈ [(Instr.writePacket die, 0), (.writeImmPacket die, 1), (.readReq die c data, 2), (.flushPacket die, 4), (.fetchAddPacket die c, 5)] ∧ (∀ y, s.conn c = some y → y.held = []) ∧ s.frontPkt die op = some (k, x) ∧ k.psn ∉ x.rnr ∧ x.canSeal 2 ∧ x.place k.psn = .beyond ∧ x.die ≤ 1 :=
  ⟨tSt cn [tp 2 9000 wext []], 0, 40, (.ok, []), .readReq 0 40 (.ok, []), 2, tp 2 9000 wext [], cn, by simp, held_nil (by decide +kernel), by decide +kernel, by decide +kernel, Or.inl (by decide +kernel), by decide +kernel, by decide +kernel⟩

theorem test_meets_TmtPacketsTakeEffect_0_0 : ∃ (s s1 : State), ∃ (die : Nat), ∃ (k : TPkt), ∃ (x z : Conn), ∃ (v : Verdict), s.frontPkt die 0 = some (k, x) ∧ k.psn ∉ x.rnr ∧ x.place k.psn = .fresh ∧ (s.afterArrival k).placeWrite k x = (s1, v) ∧ s1.conn k.conn = some z ∧ z.canSeal 1 :=
  ⟨tSt cn [tp 0 8 wext pay64], (((tSt cn [tp 0 8 wext pay64]).afterArrival (tp 0 8 wext pay64)).placeWrite (tp 0 8 wext pay64) cn).1, 0, tp 0 8 wext pay64, cn, ((((tSt cn [tp 0 8 wext pay64]).afterArrival (tp 0 8 wext pay64)).placeWrite (tp 0 8 wext pay64) cn).1.conn 40).getD cn, .taken, by decide +kernel, by decide +kernel, by decide +kernel, by decide +kernel, by decide +kernel, Or.inl (by decide +kernel)⟩

theorem test_meets_TmtPacketsTakeEffect_1_0 : ∃ (u : State), ∃ (k : TPkt), ∃ (x : Conn), ∃ (r : Region), k.payload.length ≤ x.payload ∧ k.payload.length ≤ beVal ((k.ext.drop 12).take 4) ∧ u.regionErr x k.conn (beVal (k.ext.take 4)) (beVal ((k.ext.drop 4).take 8)) k.payload.length 0 = none ∧ smGet u.tmt.mrs (beVal (k.ext.take 4) % 2 ^ 24) = some r ∧ r.lhost = false :=
  ⟨tSt cn [], tp 0 8 wext pay64, cn, mr1, by decide +kernel, by decide +kernel, by decide +kernel, by decide +kernel, by decide +kernel⟩

theorem test_meets_TmtPacketsTakeEffect_2_0 : ∃ (s : State), ∃ (die : Nat), ∃ (k : TPkt), ∃ (x : Conn), ∃ (q : TmtCq), s.frontPkt die 1 = some (k, x) ∧ k.psn ∉ x.rnr ∧ x.place k.psn = .fresh ∧ bit k.flags 0 = true ∧ smGet s.tmt.cqs (x.slice * 256 + x.tcq) = some q ∧ (s.afterArrival k).owed x.slice x.tcq + q.used + 1 ≥ q.size ∧ x.canSeal 1 :=
  ⟨{ tSt cn [tp 1 7 (wext ++ leBytes 4 5) pay64] with tmt := { tmt0 cn [tp 1 7 (wext ++ leBytes 4 5) pay64] with cqs := [(260, { tqc with written := 63 })] } }, 0, tp 1 7 (wext ++ leBytes 4 5) pay64, cn, { tqc with written := 63 }, by decide +kernel, by decide +kernel, by decide +kernel, by decide +kernel, by decide +kernel, by decide +kernel, Or.inl (by decide +kernel)⟩

theorem test_meets_TmtPacketsTakeEffect_2_1 : ∃ (s : State), ∃ (die : Nat), ∃ (k : TPkt), ∃ (x : Conn), ∃ (q : TmtCq), s.frontPkt die 1 = some (k, x) ∧ k.psn ∉ x.rnr ∧ x.place k.psn = .fresh ∧ bit k.flags 0 = true ∧ smGet s.tmt.cqs (x.slice * 256 + x.tcq) = some q ∧ ∃ (s1 : State), ∃ (z : Conn), q.room (1 + (s.afterArrival k).owed x.slice x.tcq) = true ∧ (s.afterArrival k).placeWrite k x = (s1, .taken) ∧ s1.conn k.conn = some z ∧ z.canSeal 1 :=
  ⟨tSt cn [tp 1 7 (wext ++ leBytes 4 5) pay64], 0, tp 1 7 (wext ++ leBytes 4 5) pay64, cn, tqc, by decide +kernel, by decide +kernel, by decide +kernel, by decide +kernel, by decide +kernel, (((tSt cn [tp 1 7 (wext ++ leBytes 4 5) pay64]).afterArrival (tp 1 7 (wext ++ leBytes 4 5) pay64)).placeWrite (tp 1 7 (wext ++ leBytes 4 5) pay64) cn).1, ((((tSt cn [tp 1 7 (wext ++ leBytes 4 5) pay64]).afterArrival (tp 1 7 (wext ++ leBytes 4 5) pay64)).placeWrite (tp 1 7 (wext ++ leBytes 4 5) pay64) cn).1.conn 40).getD cn, by decide +kernel, by decide +kernel, by decide +kernel, Or.inl (by decide +kernel)⟩

theorem test_meets_TmtPacketsTakeEffect_3_0 : ∃ (s : State), ∃ (die : Nat), ∃ (k : TPkt), ∃ (x : Conn), s.frontPkt die 4 = some (k, x) ∧ k.psn ∉ x.rnr ∧ x.place k.psn = .fresh ∧ x.canSeal 1 :=
  ⟨tSt cn [tp 4 8 [] []], 0, tp 4 8 [] [], cn, by decide +kernel, by decide +kernel, by decide +kernel, Or.inl (by decide +kernel)⟩

theorem test_meets_TmtPacketsTakeEffect_4_0 : ∃ (s t : State), ∃ (die c : Nat), ∃ (data : HostData), ∃ (k : TPkt), ∃ (x : Conn), s.conn c = some x ∧ x.cached = true ∧ x.die = die ∧ x.held = [k] ∧ k.op = 2 ∧ x.ready k.psn = true ∧ (s.modConn c (fun y => { y with held := y.held.erase k })).serveRead k x data = some t :=
  ⟨tSt { cn with held := [tp 2 6 (reth 0x2000006 16 64) []] } [], _, 0, 40, (.ok, []), tp 2 6 (reth 0x2000006 16 64) [], { cn with held := [tp 2 6 (reth 0x2000006 16 64) []] }, by decide +kernel, by decide +kernel, by decide +kernel, by decide +kernel, by decide +kernel, by decide +kernel, some_of (d := up) (by decide +kernel)⟩

theorem test_meets_TmtPacketsTakeEffect_5_0 : ∃ (s t : State), ∃ (die c : Nat), ∃ (data : HostData), ∃ (k : TPkt), ∃ (x : Conn), (∀ y, s.conn c = some y → y.held = []) ∧ s.frontPkt die 2 = some (k, x) ∧ x.place k.psn = .fresh ∧ 1 ≤ beVal ((k.ext.drop 12).take 4) ∧ beVal ((k.ext.drop 12).take 4) ≤ 2 ^ 30 ∧ s.regionErr x k.conn (beVal (k.ext.take 4)) (beVal ((k.ext.drop 4).take 8)) (beVal ((k.ext.drop 12).take 4)) 1 = none ∧ k.psn = x.epsn ∧ (s.receive k x (fun s => (s, .taken))).serveRead k x data = some t :=
  ⟨tSt cn [tp 2 7 wext []], _, 0, 40, (.ok, []), tp 2 7 wext [], cn, held_nil (by decide +kernel), by decide +kernel, by decide +kernel, by decide +kernel, by decide +kernel, by decide +kernel, by decide +kernel, some_of (d := up) (by decide +kernel)⟩

theorem test_meets_TmtPacketsTakeEffect_6_0 : ∃ (u : State), ∃ (k : TPkt), ∃ (x : Conn), ∃ (data : HostData), ∃ (r : Region), ∃ (bs : List Byte), smGet u.tmt.mrs (beVal (k.ext.take 4) % 2 ^ 24) = some r ∧ r.lhost = false ∧ (u.busRead (r.addr + beVal ((k.ext.drop 4).take 8)) (beVal ((k.ext.drop 12).take 4))).bytes = some bs ∧ bs.length = beVal ((k.ext.drop 12).take 4) :=
  ⟨tSt cn [], tp 2 7 wext [], cn, (.ok, []), mr1, ((tSt cn []).busRead 0x30010 64).bytes.getD [], by decide +kernel, by decide +kernel, by decide +kernel, by decide +kernel⟩

theorem test_meets_TmtPacketsTakeEffect_7_0 : ∃ (s : State), ∃ (die c : Nat), ∃ (k : TPkt), ∃ (x : Conn), ∃ (r : Region), (∀ y, s.conn c = some y → y.held = []) ∧ s.frontPkt die 5 = some (k, x) ∧ x.place k.psn = .fresh ∧ s.regionErr x k.conn (beVal (k.ext.take 4)) (beVal ((k.ext.drop 4).take 8)) 8 2 = none ∧ smGet s.tmt.mrs (beVal (k.ext.take 4) % 2 ^ 24) = some r ∧ r.lhost = false ∧ space (r.addr + beVal ((k.ext.drop 4).take 8)) = .stack ∧ (r.addr + beVal ((k.ext.drop 4).take 8)) % 8 = 0 ∧ k.psn = x.epsn :=
  ⟨tSt cn [tp 5 7 (reth 0x2000006 16 8 ++ beBytes 8 5) []], 0, 40, tp 5 7 (reth 0x2000006 16 8 ++ beBytes 8 5) [], cn, mr1, held_nil (by decide +kernel), by decide +kernel, by decide +kernel, by decide +kernel, by decide +kernel, by decide +kernel, by decide +kernel, by decide +kernel, by decide +kernel⟩

theorem test_meets_TmtPacketsTakeEffect_7_1 : ∃ (s : State), ∃ (die c : Nat), ∃ (k : TPkt), ∃ (x : Conn), ∃ (r : Region), (∀ y, s.conn c = some y → y.held = []) ∧ s.frontPkt die 5 = some (k, x) ∧ x.place k.psn = .fresh ∧ s.regionErr x k.conn (beVal (k.ext.take 4)) (beVal ((k.ext.drop 4).take 8)) 8 2 = none ∧ smGet s.tmt.mrs (beVal (k.ext.take 4) % 2 ^ 24) = some r ∧ r.lhost = false ∧ space (r.addr + beVal ((k.ext.drop 4).take 8)) ≠ .stack :=
  ⟨{ tSt cn [tp 5 7 (reth 0x2000006 16 8 ++ beBytes 8 5) []] with tmt := { tmt0 cn [tp 5 7 (reth 0x2000006 16 8 ++ beBytes 8 5) []] with mrs := [(6, { mr1 with addr := 0x020000000000 })] }, stgOwn := [(0, 1)] }, 0, 40, tp 5 7 (reth 0x2000006 16 8 ++ beBytes 8 5) [], cn, { mr1 with addr := 0x020000000000 }, held_nil (by decide +kernel), by decide +kernel, by decide +kernel, by decide +kernel, by decide +kernel, by decide +kernel, by decide +kernel⟩

theorem test_meets_TmtPacketsTakeEffect_7_2 : ∃ (s : State), ∃ (die c : Nat), ∃ (k : TPkt), ∃ (x : Conn), ∃ (r : Region), (∀ y, s.conn c = some y → y.held = []) ∧ s.frontPkt die 5 = some (k, x) ∧ x.place k.psn = .fresh ∧ s.regionErr x k.conn (beVal (k.ext.take 4)) (beVal ((k.ext.drop 4).take 8)) 8 2 = none ∧ smGet s.tmt.mrs (beVal (k.ext.take 4) % 2 ^ 24) = some r ∧ r.lhost = false ∧ space (r.addr + beVal ((k.ext.drop 4).take 8)) = .stack ∧ (r.addr + beVal ((k.ext.drop 4).take 8)) % 8 ≠ 0 :=
  ⟨tSt cn [tp 5 7 (reth 0x2000006 17 8 ++ beBytes 8 5) []], 0, 40, tp 5 7 (reth 0x2000006 17 8 ++ beBytes 8 5) [], cn, mr1, held_nil (by decide +kernel), by decide +kernel, by decide +kernel, by decide +kernel, by decide +kernel, by decide +kernel, by decide +kernel, by decide +kernel⟩

theorem test_meets_TmtPacketsTakeEffect_8_0 : ∃ (u v : State), ∃ (k : TPkt), ∃ (r : Region), ∃ (b : List Byte), ∃ (x : Conn), smGet u.tmt.mrs (beVal (k.ext.take 4) % 2 ^ 24) = some r ∧ v = (u.busRead (r.addr + beVal ((k.ext.drop 4).take 8)) 8).state ∧ (u.busRead (r.addr + beVal ((k.ext.drop 4).take 8)) 8).bytes = some b ∧ (v.busWrite (r.addr + beVal ((k.ext.drop 4).take 8)) (leBytes 8 ((leVal b + beVal ((k.ext.drop 16).take 8)) % 2 ^ 64))).conn k.conn = some x ∧ x.canSeal 1 :=
  ⟨tSt cn [], ((tSt cn []).busRead 0x30010 8).state, tp 5 7 (reth 0x2000006 16 8 ++ beBytes 8 5) [], mr1, List.replicate 8 0, cn, by decide +kernel, by decide +kernel, by decide +kernel, by decide +kernel, Or.inl (by decide +kernel)⟩

theorem test_meets_TmtPacketsTakeEffect_9_0 : ∃ (s s1 : State), ∃ (die now off : Nat), ∃ (k : TPkt), ∃ (x z : Conn), ∃ (r : Req), ∃ (a : Nat × Nat × Nat), s.atNow now = true ∧ s.frontPkt die 3 = some (k, x) ∧ x.reqs.findSome? (fun r => (r.asks.find? (fun a => a.1 == beVal (k.ext.take 4))).map (fun a => (r, a))) = some (r, a) ∧ off = a.2.1 + beVal ((k.ext.drop 4).take 4) ∧ r.done = false ∧ off + k.payload.length ≤ r.len ∧ (s.afterArrival k).placeLocal x r off k.payload = (s1, .ok) ∧ s1.conn k.conn = some z :=
  ⟨tSt { cn with reqs := [{ rq 2 with sent := 1, asks := [(4, 0, 64)] }] } [tp 3 0 (beBytes 4 4 ++ beBytes 4 0) pay64], (((tSt { cn with reqs := [{ rq 2 with sent := 1, asks := [(4, 0, 64)] }] } [tp 3 0 (beBytes 4 4 ++ beBytes 4 0) pay64]).afterArrival (tp 3 0 (beBytes 4 4 ++ beBytes 4 0) pay64)).placeLocal { cn with reqs := [{ rq 2 with sent := 1, asks := [(4, 0, 64)] }] } { rq 2 with sent := 1, asks := [(4, 0, 64)] } 0 pay64).1, 0, 90, 0, tp 3 0 (beBytes 4 4 ++ beBytes 4 0) pay64, { cn with reqs := [{ rq 2 with sent := 1, asks := [(4, 0, 64)] }] }, ((((tSt { cn with reqs := [{ rq 2 with sent := 1, asks := [(4, 0, 64)] }] } [tp 3 0 (beBytes 4 4 ++ beBytes 4 0) pay64]).afterArrival (tp 3 0 (beBytes 4 4 ++ beBytes 4 0) pay64)).placeLocal { cn with reqs := [{ rq 2 with sent := 1, asks := [(4, 0, 64)] }] } { rq 2 with sent := 1, asks := [(4, 0, 64)] } 0 pay64).1.conn 40).getD cn, { rq 2 with sent := 1, asks := [(4, 0, 64)] }, (4, 0, 64), by decide +kernel, by decide +kernel, by decide +kernel, by decide +kernel, by decide +kernel, by decide +kernel, by decide +kernel, by decide +kernel⟩

theorem test_meets_TmtPacketsTakeEffect_10_0 : ∃ (s : State), ∃ (die : Nat), ∃ (k : TPkt), ∃ (x : Conn), ∃ (r : Req), s.frontPkt die 6 = some (k, x) ∧ x.reqs.find? (fun r => r.op == 4 && r.sent == 1 && r.first == beVal (k.ext.take 4) && !r.done) = some r :=
  ⟨tSt { cn with reqs := [{ rq 4 with sent := 1, first := 4 }] } [tp 6 0 (beBytes 4 4 ++ beBytes 4 0 ++ beBytes 8 77) []], 0, tp 6 0 (beBytes 4 4 ++ beBytes 4 0 ++ beBytes 8 77) [], { cn with reqs := [{ rq 4 with sent := 1, first := 4 }] }, { rq 4 with sent := 1, first := 4 }, by decide +kernel, by decide +kernel⟩

theorem test_meets_TmtPacketsTakeEffect_11_0 : ∃ (s : State), ∃ (die now : Nat), ∃ (k : TPkt), ∃ (x z : Conn), s.atNow now = true ∧ s.frontPkt die 0x10 = some (k, x) ∧ (s.afterArrival k).conn k.conn = some z ∧ x.state ≠ 2 :=
  ⟨tSt cn [tp 16 0 (beBytes 4 5 ++ beBytes 4 4 ++ List.replicate 40 0) []], 0, 90, tp 16 0 (beBytes 4 5 ++ beBytes 4 4 ++ List.replicate 40 0) [], cn, (((tSt cn [tp 16 0 (beBytes 4 5 ++ beBytes 4 4 ++ List.replicate 40 0) []]).afterArrival (tp 16 0 (beBytes 4 5 ++ beBytes 4 4 ++ List.replicate 40 0) [])).conn 40).getD cn, by decide +kernel, by decide +kernel, by decide +kernel, by decide +kernel⟩

theorem test_meets_TmtPacketsTakeEffect_11_1 : ∃ (s : State), ∃ (die now : Nat), ∃ (k : TPkt), ∃ (x z : Conn), s.atNow now = true ∧ s.frontPkt die 0x10 = some (k, x) ∧ (s.afterArrival k).conn k.conn = some z ∧ ∃ id, x.state = 2 ∧ ackedBy (beVal (k.ext.take 4)) (sackSet ((k.ext.drop 8).take 32)) 0 = true ∧ x.probing = some (65536, id) :=
  ⟨tSt { cn with state := 2, probing := some (65536, 8) } [tp 16 0 (beBytes 4 1 ++ beBytes 4 0 ++ List.replicate 40 0) []], 0, 90, tp 16 0 (beBytes 4 1 ++ beBytes 4 0 ++ List.replicate 40 0) [], { cn with state := 2, probing := some (65536, 8) }, (((tSt { cn with state := 2, probing := some (65536, 8) } [tp 16 0 (beBytes 4 1 ++ beBytes 4 0 ++ List.replicate 40 0) []]).afterArrival (tp 16 0 (beBytes 4 1 ++ beBytes 4 0 ++ List.replicate 40 0) [])).conn 40).getD cn, by decide +kernel, by decide +kernel, by decide +kernel, 8, by decide +kernel, by decide +kernel, by decide +kernel⟩

theorem test_meets_TmtRequestsAreSentAndCompleted_5_0 : ∃ (s : State), ∃ (c : Nat), ∃ (x : Conn), s.conn c = some x ∧ x.since = 0 :=
  ⟨tSt cn [], 40, cn, by decide +kernel, by decide +kernel⟩

theorem test_meets_TmtRequestsAreSentAndCompleted_5_1 : ∃ (s : State), ∃ (c : Nat), ∃ (x : Conn), s.conn c = some x ∧ 0 < x.since ∧ s.mayHavePassed x.ackTick (getBits x.ackCtl 15 0) = true ∧ x.cached = true ∧ x.canSeal 1 :=
  ⟨tSt { cn with since := 3 } [], 40, { cn with since := 3 }, by decide +kernel, by decide +kernel, by decide +kernel, by decide +kernel, Or.inl (by decide +kernel)⟩

theorem test_meets_TmtRequestsAreSentAndCompleted_6_0 : ∃ (s : State), ∃ (c now t0 : Nat), ∃ (x : Conn), s.atNow now = true ∧ s.conn c = some x ∧ x.state = 3 ∧ x.cached = true ∧ x.timer = some t0 ∧ t0 + x.rto ≤ now ∧ (∃ p ∈ x.pkts, p.phase = 0) ∧ x.expiries + 1 < x.retryMax :=
  ⟨tSt { cn with timer := some 10, pkts := [sp 4 0] } [], 40, 2000, 10, { cn with timer := some 10, pkts := [sp 4 0] }, by decide +kernel, by decide +kernel, by decide +kernel, by decide +kernel, by decide +kernel, by decide +kernel, ⟨sp 4 0, by decide +kernel, rfl⟩, by decide +kernel⟩

theorem test_meets_TmtRequestsAreSentAndCompleted_6_1 : ∃ (s : State), ∃ (c now t0 : Nat), ∃ (x : Conn), s.atNow now = true ∧ s.conn c = some x ∧ x.state = 3 ∧ x.cached = true ∧ x.timer = some t0 ∧ t0 + x.rto ≤ now ∧ (∃ p ∈ x.pkts, p.phase = 0) ∧ x.retryMax ≤ x.expiries + 1 ∧ x.probing = none ∧ x.die ≤ 1 :=
  ⟨tSt { cn with timer := some 10, expiries := 6, pkts := [sp 4 0], reqs := [rq 4] } [], 40, 2000, 10, { cn with timer := some 10, expiries := 6, pkts := [sp 4 0], reqs := [rq 4] }, by decide +kernel, by decide +kernel, by decide +kernel, by decide +kernel, by decide +kernel, by decide +kernel, ⟨sp 4 0, by decide +kernel, rfl⟩, by decide +kernel, by decide +kernel, by decide +kernel⟩

theorem test_meets_TmtRequestsAreSentAndCompleted_7_0 : ∃ (s : State), ∃ (c psn now : Nat), ∃ (x : Conn), s.conn c = some x ∧ s.atNow now = true :=
  ⟨tSt { cn with pkts := [sp 4 2, sp 5 2] } [], 40, 4, 9999, { cn with pkts := [sp 4 2, sp 5 2] }, by decide +kernel, by decide +kernel⟩

theorem test_meets_TmtRequestsAreSentAndCompleted_8_0 : ∃ (s : State), ∃ (c : Nat), ∃ (x : Conn), ∃ (i : TgtImm), s.conn c = some x ∧ x.cached = true ∧ x.imms.find? (fun i => x.ready i.psn) = some i ∧ x.refused.any (fun p => decide (psnDiff p i.psn ≤ 0 ∧ psnDiff i.psn p < i.n)) = true :=
  ⟨tSt { cn with imms := [{ psn := 6, n := 1, imm := 5, mlen := 64, asked := false, issued := [] }], refused := [6] } [], 40, { cn with imms := [{ psn := 6, n := 1, imm := 5, mlen := 64, asked := false, issued := [] }], refused := [6] }, { psn := 6, n := 1, imm := 5, mlen := 64, asked := false, issued := [] }, by decide +kernel, by decide +kernel, by decide +kernel, by decide +kernel⟩

theorem test_meets_TmtRequestsAreSentAndCompleted_8_1 : ∃ (s : State), ∃ (c : Nat), ∃ (x : Conn), ∃ (i : TgtImm), s.conn c = some x ∧ x.cached = true ∧ x.imms.find? (fun i => x.ready i.psn) = some i ∧ ∃ q, x.refused.any (fun p => decide (psnDiff p i.psn ≤ 0 ∧ psnDiff i.psn p < i.n)) = false ∧ smGet s.tmt.cqs (x.slice * 256 + x.tcq) = some q ∧ (x.portsBefore i.psn).filter (fun p => q.port != some p) = [] ∧ i.issued = [] ∧ q.room 1 = true :=
  ⟨tSt { cn with imms := [{ psn := 6, n := 1, imm := 5, mlen := 64, asked := false, issued := [] }], flagWord := 0x30008 } [], 40, { cn with imms := [{ psn := 6, n := 1, imm := 5, mlen := 64, asked := false, issued := [] }], flagWord := 0x30008 }, { psn := 6, n := 1, imm := 5, mlen := 64, asked := false, issued := [] }, by decide +kernel, by decide +kernel, by decide +kernel, tqc, by decide +kernel, by decide +kernel, by decide +kernel, by decide +kernel, by decide +kernel⟩

theorem test_meets_TmtRequestsAreSentAndCompleted_9_0 : ∃ (s : State), ∃ (c : Nat), ∃ (x : Conn), ∃ (f : TgtFlush), s.conn c = some x ∧ x.cached = true ∧ x.flushes.find? (fun f => x.ready f.psn) = some f ∧ x.canSeal 1 ∧ f.asked = true ∧ f.issued = [] :=
  ⟨tSt { cn with flushes := [{ psn := 6, asked := true, issued := [] }] } [], 40, { cn with flushes := [{ psn := 6, asked := true, issued := [] }] }, { psn := 6, asked := true, issued := [] }, by decide +kernel, by decide +kernel, by decide +kernel, Or.inl (by decide +kernel), by decide +kernel, by decide +kernel⟩

theorem test_meets_TmtRequestsAreSentAndCompleted_9_1 : ∃ (s : State), ∃ (c : Nat), ∃ (x : Conn), ∃ (f : TgtFlush), s.conn c = some x ∧ x.cached = true ∧ x.flushes.find? (fun f => x.ready f.psn) = some f ∧ x.canSeal 1 ∧ f.asked = false ∧ x.portsBefore f.psn = [] :=
  ⟨tSt { cn with flushes := [{ psn := 6, asked := false, issued := [] }] } [], 40, { cn with flushes := [{ psn := 6, asked := false, issued := [] }] }, { psn := 6, asked := false, issued := [] }, by decide +kernel, by decide +kernel, by decide +kernel, Or.inl (by decide +kernel), by decide +kernel, by decide +kernel⟩

theorem test_meets_TmtRequestsAreSentAndCompleted_10_0 : ∃ (s : State), ∃ (c k : Nat), ∃ (x : Conn), ∃ (r : Req), ∃ (rs : List Req), s.conn c = some x ∧ x.reqs = r :: rs ∧ r.done = true ∧ r.origin = .sq k ∧ x.state ≠ 5 ∧ bit r.flags 0 = true ∧ r.status = .ok :=
  ⟨tSt { cn with reqs := [{ rq 0 with done := true, flags := 1 }] } [], 40, 259, { cn with reqs := [{ rq 0 with done := true, flags := 1 }] }, { rq 0 with done := true, flags := 1 }, [], by decide +kernel, by decide +kernel, by decide +kernel, by decide +kernel, by decide +kernel, by decide +kernel, by decide +kernel⟩

theorem test_meets_TmtRequestsAreSentAndCompleted_10_1 : ∃ (s : State), ∃ (c k : Nat), ∃ (x : Conn), ∃ (r : Req), ∃ (rs : List Req), s.conn c = some x ∧ x.reqs = r :: rs ∧ r.done = true ∧ r.origin = .sq k ∧ x.state ≠ 5 ∧ ∃ q, (bit r.flags 0 = false ∨ r.status ≠ .ok) ∧ smGet s.tmt.cqs (s.cqOf k) = some q ∧ q.room 1 = true :=
  ⟨tSt { cn with reqs := [{ rq 0 with done := true }] } [], 40, 259, { cn with reqs := [{ rq 0 with done := true }] }, { rq 0 with done := true }, [], by decide +kernel, by decide +kernel, by decide +kernel, by decide +kernel, by decide +kernel, tqc, Or.inl (by decide +kernel), by decide +kernel, by decide +kernel⟩

theorem test_meets_TmtRequestsAreSentAndCompleted_10_2 : ∃ (s : State), ∃ (c k : Nat), ∃ (x : Conn), ∃ (r : Req), ∃ (rs : List Req), s.conn c = some x ∧ x.reqs = r :: rs ∧ r.done = true ∧ r.origin = .sq k ∧ x.state ≠ 5 ∧ ∃ q, (bit r.flags 0 = false ∨ r.status ≠ .ok) ∧ smGet s.tmt.cqs (s.cqOf k) = some q ∧ q.room 1 = false :=
  ⟨{ tSt { cn with reqs := [{ rq 0 with done := true }] } [] with tmt := { tmt0 { cn with reqs := [{ rq 0 with done := true }] } [] with cqs := [(260, { tqc with written := 63 })] } }, 40, 259, { cn with reqs := [{ rq 0 with done := true }] }, { rq 0 with done := true }, [], by decide +kernel, by decide +kernel, by decide +kernel, by decide +kernel, by decide +kernel, { tqc with written := 63 }, Or.inl (by decide +kernel), by decide +kernel, by decide +kernel⟩

theorem test_meets_TmtConnectionsOpenAndClose_0_0 : ∃ (s s1 : State), ∃ (die region sl fl pay key txs c b : Nat), ∃ (isNew : Bool), ∃ (r : SetupReq), s.takeSetupReq die 0x10 = some (r, s1) ∧ sl = r.sq / 256 ∧ fl = leField r.bytes 1 1 ∧ pay = leField r.bytes 3 1 ∧ key = leField r.bytes 0x12 2 ∧ txs = leField r.bytes 0x14 4 ∧ fl < 32 ∧ bit fl 4 = false ∧ (zeros ((r.bytes.drop 5).take 1) && zeros ((r.bytes.drop 0x1C).take 4) && zeros ((r.bytes.drop 0x28).take 8) && zeros (r.bytes.drop 0x38)) = true ∧ s1.portPresent die (leField r.bytes 2 1) = true ∧ pay ≤ 3 ∧ leField r.bytes 4 1 ≤ 63 ∧ 1024 * 2 ^ pay + 82 + (if bit fl 0 then 20 else 0) + (if bit fl 1 then 4 else 0) + (if bit fl 2 then 24 else 0) ≤ s1.fget PKT_MODE_MAX_FRAME die ∧ (leField r.bytes 0x10 2 = 0xFFFF ∨ (smGet s1.tmt.cqs (sl * 256 + leField r.bytes 0x10 2)).isSome = true) ∧ (bit fl 2 = true → s1.saltOk sl key txs = true ∧ txs ≠ leField r.bytes 0x18 4) ∧ (leField r.bytes 0x20 8 = 0 ∨ s1.flagOk sl none (leField r.bytes 0x20 8) = true) ∧ s1.connCount sl < s1.quota sl 9 ∧ (bit fl 3 = true → smCount s1.tmt.conns (fun x => x.pinned && x.die == die) < 1024) ∧ s1.ctxSlot sl region = some (b, isNew) ∧ smLowestFree s1.tmt.conns (fun _ => true) 0 65536 = some c :=
  ⟨keyed (suSt [] (openD 4)), suT (keyed (suSt [] (openD 4))) 0x10, 0, 200, 1, 4, 0, 7, 55, 0, 200 * 64, true, suR (openD 4), by decide +kernel, by decide +kernel, by decide +kernel, by decide +kernel, by decide +kernel, by decide +kernel, by decide +kernel, by decide +kernel, by decide +kernel, by decide +kernel, by decide +kernel, by decide +kernel, by decide +kernel, by decide +kernel, by decide +kernel, by decide +kernel, by decide +kernel, by decide +kernel, by decide +kernel, by decide +kernel⟩

theorem test_meets_TmtConnectionsOpenAndClose_0_0a : ∃ (s s1 : State), ∃ (die region sl fl pay key txs c b : Nat), ∃ (isNew : Bool), ∃ (r : SetupReq), s.takeSetupReq die 0x10 = some (r, s1) ∧ sl = r.sq / 256 ∧ fl = leField r.bytes 1 1 ∧ pay = leField r.bytes 3 1 ∧ key = leField r.bytes 0x12 2 ∧ txs = leField r.bytes 0x14 4 ∧ fl < 32 ∧ bit fl 4 = false ∧ (zeros ((r.bytes.drop 5).take 1) && zeros ((r.bytes.drop 0x1C).take 4) && zeros ((r.bytes.drop 0x28).take 8) && zeros (r.bytes.drop 0x38)) = true ∧ s1.portPresent die (leField r.bytes 2 1) = true ∧ pay ≤ 3 ∧ leField r.bytes 4 1 ≤ 63 ∧ 1024 * 2 ^ pay + 82 + (if bit fl 0 then 20 else 0) + (if bit fl 1 then 4 else 0) + (if bit fl 2 then 24 else 0) ≤ s1.fget PKT_MODE_MAX_FRAME die ∧ (leField r.bytes 0x10 2 = 0xFFFF ∨ (smGet s1.tmt.cqs (sl * 256 + leField r.bytes 0x10 2)).isSome = true) ∧ (bit fl 2 = true → s1.saltOk sl key txs = true ∧ txs ≠ leField r.bytes 0x18 4) ∧ (leField r.bytes 0x20 8 = 0 ∨ s1.flagOk sl none (leField r.bytes 0x20 8) = true) ∧ s1.connCount sl < s1.quota sl 9 ∧ (bit fl 3 = true → smCount s1.tmt.conns (fun x => x.pinned && x.die == die) < 1024) ∧ s1.ctxSlot sl region = some (b, isNew) ∧ smLowestFree s1.tmt.conns (fun _ => true) 0 65536 = some c :=
  ⟨suSt [(0, { cn with backing := 0 })] (openD 1), suT (suSt [(0, { cn with backing := 0 })] (openD 1)) 0x10, 0, 200, 1, 1, 0, 7, 55, 1, 1, false, suR (openD 1), by decide +kernel, by decide +kernel, by decide +kernel, by decide +kernel, by decide +kernel, by decide +kernel, by decide +kernel, by decide +kernel, by decide +kernel, by decide +kernel, by decide +kernel, by decide +kernel, by decide +kernel, by decide +kernel, by decide +kernel, by decide +kernel, by decide +kernel, by decide +kernel, by decide +kernel, by decide +kernel⟩

theorem test_meets_TmtConnectionsOpenAndClose_1_0 : ∃ (s s1 : State), ∃ (die region : Nat), ∃ (r : SetupReq), s.takeSetupReq die 0x10 = some (r, s1) ∧ (32 ≤ leField r.bytes 1 1 ∨ s1.portPresent die (leField r.bytes 2 1) = false ∨ 3 < leField r.bytes 3 1) :=
  ⟨suSt [] (openD 32), suT (suSt [] (openD 32)) 0x10, 0, 200, suR (openD 32), by decide +kernel, Or.inl (by decide +kernel)⟩

theorem test_meets_TmtConnectionsOpenAndClose_2_0 : ∃ (s s1 : State), ∃ (die c : Nat), ∃ (r : SetupReq), ∃ (x : Conn), s.takeSetupReq die 0x11 = some (r, s1) ∧ c = leField r.bytes 4 4 ∧ s1.conn c = some x ∧ x.state = 1 ∧ x.slice = r.sq / 256 ∧ x.die = die ∧ x.cached = true ∧ x.canSeal 1 :=
  ⟨suSt [(40, cnO)] (connD 0x11 0), suT (suSt [(40, cnO)] (connD 0x11 0)) 0x11, 0, 40, suR (connD 0x11 0), cnO, by decide +kernel, by decide +kernel, by decide +kernel, by decide +kernel, by decide +kernel, by decide +kernel, by decide +kernel, Or.inl (by decide +kernel)⟩

theorem test_meets_TmtConnectionsOpenAndClose_2_1 : ∃ (s s1 : State), ∃ (die c : Nat), ∃ (r : SetupReq), ∃ (x : Conn), s.takeSetupReq die 0x11 = some (r, s1) ∧ c = leField r.bytes 4 4 ∧ s1.conn c = some x ∧ x.state ≠ 1 :=
  ⟨suSt [(40, cn)] (connD 0x11 0), suT (suSt [(40, cn)] (connD 0x11 0)) 0x11, 0, 40, suR (connD 0x11 0), cn, by decide +kernel, by decide +kernel, by decide +kernel, by decide +kernel⟩

theorem test_meets_TmtConnectionsOpenAndClose_3_0 : ∃ (s : State), ∃ (c now : Nat), ∃ (x : Conn), s.conn c = some x ∧ x.state = 2 ∧ x.cached = true ∧ x.canSeal 1 ∧ s.atNow now = true ∧ (∀ p ∈ x.pkts, p.sentAt + 1000000 * s.fget TMT_SETUP_CTL_PROBE_MS x.die ≤ now) :=
  ⟨tickSt 10000000 (tSt { cn with state := 2, pkts := [sp 0 0] } []), 40, 100000000000, { cn with state := 2, pkts := [sp 0 0] }, by decide +kernel, by decide +kernel, by decide +kernel, Or.inl (by decide +kernel), by decide +kernel, by decide +kernel⟩

theorem test_meets_TmtConnectionsOpenAndClose_4_0 : ∃ (s : State), ∃ (c sq id : Nat), ∃ (x : Conn), s.conn c = some x ∧ x.state = 2 ∧ x.probing = some (sq, id) ∧ sq < 65536 ∧ 100000 * s.fget TMT_SETUP_CTL_SETUP_S x.die ≤ s.pw.onTicks - x.stateTick :=
  ⟨tickSt 10000000 (tSt { cn with state := 2, pkts := [sp 0 0], probing := some (259, 8) } []), 40, 259, 8, { cn with state := 2, pkts := [sp 0 0], probing := some (259, 8) }, by decide +kernel, by decide +kernel, by decide +kernel, by decide +kernel, by decide +kernel⟩

theorem test_meets_TmtConnectionsOpenAndClose_5_0 : ∃ (s s1 : State), ∃ (die c : Nat), ∃ (r : SetupReq), ∃ (x : Conn), s.takeSetupReq die 0x12 = some (r, s1) ∧ c = leField r.bytes 4 4 ∧ s1.conn c = some x ∧ x.slice = r.sq / 256 ∧ x.die = die ∧ x.state = 3 ∧ x.probing = none ∧ r.sq < 65536 ∧ x.reqs ≠ [] :=
  ⟨suSt [(40, { cn with reqs := [rq 4] })] (connD 0x12 1), suT (suSt [(40, { cn with reqs := [rq 4] })] (connD 0x12 1)) 0x12, 0, 40, suR (connD 0x12 1), { cn with reqs := [rq 4] }, by decide +kernel, by decide +kernel, by decide +kernel, by decide +kernel, by decide +kernel, by decide +kernel, by decide +kernel, by decide +kernel, by decide +kernel⟩

theorem test_meets_TmtConnectionsOpenAndClose_5_0a : ∃ (s s1 : State), ∃ (die c : Nat), ∃ (r : SetupReq), ∃ (x : Conn), s.takeSetupReq die 0x12 = some (r, s1) ∧ c = leField r.bytes 4 4 ∧ s1.conn c = some x ∧ x.slice = r.sq / 256 ∧ x.die = die ∧ x.state = 3 ∧ x.probing = none ∧ r.sq < 65536 ∧ x.reqs ≠ [] :=
  ⟨suSt [(40, { cn with reqs := [rq 4] })] (connD 0x12 0), suT (suSt [(40, { cn with reqs := [rq 4] })] (connD 0x12 0)) 0x12, 0, 40, suR (connD 0x12 0), { cn with reqs := [rq 4] }, by decide +kernel, by decide +kernel, by decide +kernel, by decide +kernel, by decide +kernel, by decide +kernel, by decide +kernel, by decide +kernel, by decide +kernel⟩

theorem test_meets_TmtConnectionsOpenAndClose_5_1 : ∃ (s s1 : State), ∃ (die c : Nat), ∃ (r : SetupReq), ∃ (x : Conn), s.takeSetupReq die 0x12 = some (r, s1) ∧ c = leField r.bytes 4 4 ∧ s1.conn c = some x ∧ x.slice = r.sq / 256 ∧ x.die = die ∧ x.state = 3 ∧ x.probing = none ∧ r.sq < 65536 ∧ x.reqs = [] :=
  ⟨suSt [(40, cn)] (connD 0x12 0), suT (suSt [(40, cn)] (connD 0x12 0)) 0x12, 0, 40, suR (connD 0x12 0), cn, by decide +kernel, by decide +kernel, by decide +kernel, by decide +kernel, by decide +kernel, by decide +kernel, by decide +kernel, by decide +kernel, by decide +kernel⟩

theorem test_meets_TmtConnectionsOpenAndClose_6_0 : ∃ (s : State), ∃ (c : Nat), ∃ (x : Conn), s.conn c = some x ∧ x.state = 5 ∧ 100 * s.fget TMT_CLOSE_CTL_CLOSE_MS x.die ≤ s.pw.onTicks - x.stateTick ∧ x.reqs ≠ [] :=
  ⟨tickSt 10000000 (tSt { cn with state := 5, reqs := [rq 4] } []), 40, { cn with state := 5, reqs := [rq 4] }, by decide +kernel, by decide +kernel, by decide +kernel, by decide +kernel⟩

theorem test_meets_TmtConnectionsOpenAndClose_6_1 : ∃ (s : State), ∃ (c : Nat), ∃ (x : Conn), s.conn c = some x ∧ x.state = 5 ∧ 100 * s.fget TMT_CLOSE_CTL_CLOSE_MS x.die ≤ s.pw.onTicks - x.stateTick ∧ x.reqs = [] ∧ x.closing = none :=
  ⟨tickSt 10000000 (tSt { cn with state := 5 } []), 40, { cn with state := 5 }, by decide +kernel, by decide +kernel, by decide +kernel, by decide +kernel, by decide +kernel⟩

theorem test_meets_TmtConnectionsOpenAndClose_7_0 : ∃ (s v : State), ∃ (c : Nat), ∃ (got : HostData), ∃ (x z : Conn), s.conn c = some x ∧ x.cached = false ∧ x.hostCtx = false ∧ s.cachedOn x.die < 4096 ∧ (s.tmt.fetch.contains c || s.ctxNeeded c x.die) = true ∧ v = (s.busRead (ctxAddr x.backing) 1024).state ∧ v.conn c = some z ∧ (s.busRead (ctxAddr x.backing) 1024).bytes = some x.copy :=
  ⟨offSt cn false, ((offSt cn false).busRead 0x90000 1024).state, 40, (.ok, []), { cn with cached := false, backing := 64 * 9, copy := leBytes 1024 0 }, { cn with cached := false, backing := 64 * 9, copy := leBytes 1024 0 }, by decide +kernel, by decide +kernel, by decide +kernel, by decide +kernel, by decide +kernel, by decide +kernel, by decide +kernel, by decide +kernel⟩

theorem test_meets_TmtConnectionsOpenAndClose_7_1 : ∃ (s v : State), ∃ (c : Nat), ∃ (got : HostData), ∃ (x z : Conn), s.conn c = some x ∧ x.cached = false ∧ x.hostCtx = false ∧ s.cachedOn x.die < 4096 ∧ (s.tmt.fetch.contains c || s.ctxNeeded c x.die) = true ∧ v = (s.busRead (ctxAddr x.backing) 1024).state ∧ v.conn c = some z ∧ (s.busRead (ctxAddr x.backing) 1024).bytes ≠ some x.copy ∧ z.probing = none ∧ x.die ≤ 1 :=
  ⟨offSt cn true, ((offSt cn true).busRead 0x90000 1024).state, 40, (.ok, []), { cn with cached := false, backing := 64 * 9 }, { cn with cached := false, backing := 64 * 9 }, by decide +kernel, by decide +kernel, by decide +kernel, by decide +kernel, by decide +kernel, by decide +kernel, by decide +kernel, by decide +kernel, by decide +kernel, by decide +kernel⟩

theorem test_meets_TmtRegionsAndQueuesAreMade_0_0 : ∃ (s s1 : State), ∃ (die sl perm rc addr len port k : Nat), ∃ (lhost : Bool), ∃ (r : SetupReq), s.takeSetupReq die 0x13 = some (r, s1) ∧ sl = r.sq / 256 ∧ perm = leField r.bytes 2 1 ∧ rc = leField r.bytes 4 4 ∧ addr = leField r.bytes 8 8 ∧ len = leField r.bytes 0x10 8 ∧ lhost = bit (leField r.bytes 1 1) 2 ∧ port = s1.setupPort r.sq ∧ 0 < perm ∧ perm ≤ 7 ∧ ¬(bit perm 2 = true ∧ lhost = true) ∧ (rc = 0xFFFFFFFF ∨ ∃ x, s1.conn rc = some x ∧ x.slice = sl) ∧ 0 < len ∧ len ≤ 2 ^ 40 ∧ (leField r.bytes 1 1 = 0 ∨ leField r.bytes 1 1 = 4) ∧ s1.mrRangeErr sl perm lhost port addr len = none ∧ s1.mrCount (· == sl) < 1024 ∧ s1.freeIndexMr = some k :=
  ⟨suSt [] (mrD 3 0x1000), suT (suSt [] (mrD 3 0x1000)) 0x13, 0, 1, 3, 0xFFFFFFFF, 0x30000, 0x1000, 0, 0, false, suR (mrD 3 0x1000), by decide +kernel, by decide +kernel, by decide +kernel, by decide +kernel, by decide +kernel, by decide +kernel, by decide +kernel, by decide +kernel, by decide +kernel, by decide +kernel, by decide +kernel, Or.inl rfl, by decide +kernel, by decide +kernel, Or.inl (by decide +kernel), by decide +kernel, by decide +kernel, by decide +kernel⟩

theorem test_meets_TmtRegionsAndQueuesAreMade_0_1 : ∃ (s s1 : State), ∃ (die sl perm rc addr len port k : Nat), ∃ (lhost : Bool), ∃ (r : SetupReq), s.takeSetupReq die 0x13 = some (r, s1) ∧ sl = r.sq / 256 ∧ perm = leField r.bytes 2 1 ∧ rc = leField r.bytes 4 4 ∧ addr = leField r.bytes 8 8 ∧ len = leField r.bytes 0x10 8 ∧ lhost = bit (leField r.bytes 1 1) 2 ∧ port = s1.setupPort r.sq ∧ (perm = 0 ∨ 7 < perm ∨ len = 0 ∨ 2 ^ 40 < len ∨ (bit perm 2 = true ∧ lhost = true)) :=
  ⟨suSt [] (mrD 3 0), suT (suSt [] (mrD 3 0)) 0x13, 0, 1, 3, 0xFFFFFFFF, 0x30000, 0, 0, 0, false, suR (mrD 3 0), by decide +kernel, by decide +kernel, by decide +kernel, by decide +kernel, by decide +kernel, by decide +kernel, by decide +kernel, by decide +kernel, by decide +kernel⟩

theorem test_meets_TmtRegionsAndQueuesAreMade_1_0 : ∃ (s s1 : State), ∃ (die key k : Nat), ∃ (r : SetupReq), ∃ (m : Region), s.takeSetupReq die 0x14 = some (r, s1) ∧ key = leField r.bytes 4 4 ∧ k = key % 2 ^ 24 ∧ smGet s1.tmt.mrs k = some m ∧ m.valid = true ∧ m.slice = r.sq / 256 ∧ m.epoch = key / 2 ^ 24 :=
  ⟨suSt [] (rvD 0x2000006), suT (suSt [] (rvD 0x2000006)) 0x14, 0, 0x2000006, 6, suR (rvD 0x2000006), mr1, by decide +kernel, by decide +kernel, by decide +kernel, by decide +kernel, by decide +kernel, by decide +kernel, by decide +kernel⟩

theorem test_meets_TmtRegionsAndQueuesAreMade_1_1 : ∃ (s s1 : State), ∃ (die key k : Nat), ∃ (r : SetupReq), ∃ (m : Region), s.takeSetupReq die 0x14 = some (r, s1) ∧ key = leField r.bytes 4 4 ∧ k = key % 2 ^ 24 ∧ smGet s1.tmt.mrs k = some m ∧ m.epoch ≠ key / 2 ^ 24 :=
  ⟨suSt [] (rvD 0x1000006), suT (suSt [] (rvD 0x1000006)) 0x14, 0, 0x1000006, 6, suR (rvD 0x1000006), mr1, by decide +kernel, by decide +kernel, by decide +kernel, by decide +kernel, by decide +kernel⟩

theorem test_meets_TmtRegionsAndQueuesAreMade_2_0 : ∃ (s : State), ∃ (k : Nat), ∃ (v : Revoke), ∃ (m : Region), s.tmt.revokes.find? (fun v => v.index == k) = some v ∧ smGet s.tmt.mrs k = some m ∧ s.keyHeld (v.epoch * 2 ^ 24 + k) = true :=
  ⟨rvSt rev1 mr1 { cn with held := [tp 2 9 (reth 0x1000006 0 8) []] }, 6, rev1, mr1, by decide +kernel, by decide +kernel, by decide +kernel⟩

theorem test_meets_TmtRegionsAndQueuesAreMade_2_1 : ∃ (s : State), ∃ (k : Nat), ∃ (v : Revoke), ∃ (m : Region), s.tmt.revokes.find? (fun v => v.index == k) = some v ∧ smGet s.tmt.mrs k = some m ∧ s.keyHeld (v.epoch * 2 ^ 24 + k) = false ∧ v.issued = false ∧ m.lhost = false ∧ s.hrc.fences = [] ∧ v.free = true :=
  ⟨rvSt rev1 mr1 cn, 6, rev1, mr1, by decide +kernel, by decide +kernel, by decide +kernel, by decide +kernel, by decide +kernel, by decide +kernel, by decide +kernel⟩

theorem test_meets_TmtRegionsAndQueuesAreMade_2_1a : ∃ (s : State), ∃ (k : Nat), ∃ (v : Revoke), ∃ (m : Region), s.tmt.revokes.find? (fun v => v.index == k) = some v ∧ smGet s.tmt.mrs k = some m ∧ s.keyHeld (v.epoch * 2 ^ 24 + k) = false ∧ v.issued = false ∧ m.lhost = false ∧ s.hrc.fences = [] ∧ v.free = true :=
  ⟨rvSt rev1 { mr1 with epoch := 256 } cn, 6, rev1, { mr1 with epoch := 256 }, by decide +kernel, by decide +kernel, by decide +kernel, by decide +kernel, by decide +kernel, by decide +kernel, by decide +kernel⟩

theorem test_meets_TmtRegionsAndQueuesAreMade_2_2 : ∃ (s : State), ∃ (k : Nat), ∃ (v : Revoke), ∃ (m : Region), s.tmt.revokes.find? (fun v => v.index == k) = some v ∧ smGet s.tmt.mrs k = some m ∧ s.keyHeld (v.epoch * 2 ^ 24 + k) = false ∧ v.issued = false ∧ m.lhost = false ∧ s.hrc.fences = [] ∧ v.free = false :=
  ⟨rvSt { rev1 with free := false } mr1 cn, 6, { rev1 with free := false }, mr1, by decide +kernel, by decide +kernel, by decide +kernel, by decide +kernel, by decide +kernel, by decide +kernel, by decide +kernel⟩

theorem test_meets_TmtRegionsAndQueuesAreMade_3_0 : ∃ (s : State), ∃ (ch die ring size vec cq sl n : Nat), s.serves ch 0x48 [] .bound true = true ∧ sl = s.servedSlice ch 0 ∧ die ≤ 1 ∧ isPow2 size = true ∧ 64 ≤ size ∧ size ≤ 65536 ∧ vec ≤ 511 ∧ ring % 32 = 0 ∧ s.ownsStack sl ring (32 * size) = true ∧ (s.tmt.cqs.filter (fun e => e.1 / 256 == sl)).length < 256 ∧ s.tmt.cqs.length < 4096 ∧ freeIndex ((s.tmt.cqs.filter (fun e => e.1 / 256 == sl)).map (fun e => e.1 % 256)) 0 256 = some n :=
  ⟨msg (tSt cn []) 16 0x48 [], 16, 0, 0x8000, 64, 5, 0, 1, 0, by decide +kernel, by decide +kernel, by decide +kernel, by decide +kernel, by decide +kernel, by decide +kernel, by decide +kernel, by decide +kernel, by decide +kernel, by decide +kernel, by decide +kernel, by decide +kernel⟩

theorem test_meets_TmtRegionsAndQueuesAreMade_3_1 : ∃ (s : State), ∃ (ch die ring size vec cq sl n : Nat), s.serves ch 0x48 [] .bound true = true ∧ sl = s.servedSlice ch 0 ∧ die ≤ 1 ∧ isPow2 size = true ∧ 64 ≤ size ∧ size ≤ 65536 ∧ vec ≤ 511 ∧ ∃ kind, (kind = 0 ∨ kind = 2) ∧ ring % 64 = 0 ∧ s.ownsStack sl ring (64 * size) = true ∧ cq ≤ 255 ∧ (smGet s.tmt.cqs (sl * 256 + cq)).isSome = true ∧ (s.tmt.sqs.filter (fun e => e.1 / 256 == sl)).length < 256 ∧ s.tmt.sqs.length < 4096 ∧ freeIndex ((s.tmt.sqs.filter (fun e => e.1 / 256 == sl)).map (fun e => e.1 % 256)) 0 256 = some n :=
  ⟨msg (tSt cn []) 16 0x48 [], 16, 0, 0x8000, 64, 5, 4, 1, 0, by decide +kernel, by decide +kernel, by decide +kernel, by decide +kernel, by decide +kernel, by decide +kernel, by decide +kernel, 2, Or.inr rfl, by decide +kernel, by decide +kernel, by decide +kernel, by decide +kernel, by decide +kernel, by decide +kernel, by decide +kernel⟩

theorem test_meets_TmtRegionsAndQueuesAreMade_4_0 : ∃ (s : State), ∃ (ch q sl : Nat), s.serves ch 0x49 [(1, q)] .bound false = true ∧ sl = s.servedSlice ch 0 ∧ q ≤ 255 ∧ (smGet s.tmt.cqs (sl * 256 + q)).isSome = true ∧ (∀ e ∈ s.tmt.sqs, ¬(e.2.slice = sl ∧ e.2.cq = q)) ∧ (∀ e ∈ s.tmt.conns, ¬(e.2.slice = sl ∧ e.2.tcq = q)) :=
  ⟨msg { tSt cn [] with tmt := { tmt0 cn [] with conns := [], sqs := [] } } 16 0x49 [(1, 4)], 16, 4, 1, by decide +kernel, by decide +kernel, by decide +kernel, by decide +kernel, by decide +kernel, by decide +kernel⟩

theorem test_meets_TmtRegionsAndQueuesAreMade_4_1 : ∃ (s : State), ∃ (ch q sl : Nat), s.serves ch 0x49 [(1, q)] .bound false = true ∧ sl = s.servedSlice ch 0 ∧ q ≤ 255 ∧ (smGet s.tmt.sqs (sl * 256 + q)).isSome = true ∧ (∀ e ∈ s.tmt.conns, ∀ r ∈ e.2.reqs, r.origin ≠ .sq (sl * 256 + q)) :=
  ⟨msg (tSt cn []) 16 0x49 [(1, 3)], 16, 3, 1, by decide +kernel, by decide +kernel, by decide +kernel, by decide +kernel, by decide +kernel⟩

theorem test_meets_CipherEnginesUseKeySlots_0_0 : ∃ (s : State), ∃ (ch k sl : Nat), s.serves ch 0x4C [] .bound false = true ∧ sl = s.servedSlice ch 0 ∧ s.keysHeld sl < s.quota sl 12 ∧ smLowestFree s.cph.slots (fun e => e.state != 0) 0 1024 = some k :=
  ⟨msg (tSt cn []) 16 0x4C [], 16, 0, 1, by decide +kernel, by decide +kernel, by decide +kernel, by decide +kernel⟩

theorem test_meets_CipherEnginesUseKeySlots_1_0 : ∃ (s : State), ∃ (ch sl : Nat), s.serves ch 0x4C [] .bound false = true ∧ sl = s.servedSlice ch 0 ∧ s.quota sl 12 ≤ s.keysHeld sl :=
  ⟨msg (sxSt (tSt cn []) 1 { base.sx 1 with quotas := List.replicate 14 0 }) 16 0x4C [], 16, 1, by decide +kernel, by decide +kernel, by decide +kernel⟩

theorem test_meets_CipherEnginesUseKeySlots_2_0 : ∃ (s s1 : State), ∃ (ch slot addr sl : Nat), ∃ (e : KeySlot), ∃ (bs : List Byte), s.serves ch 0x4D [(1, slot), (2, addr % 2 ^ 32), (3, addr / 2 ^ 32)] .bound false = true ∧ sl = s.servedSlice ch 0 ∧ s.ownSlot sl slot = some e ∧ e.state = 1 ∧ addr % 64 = 0 ∧ ((s.takeUp ch).wakeDomain .portfolio).readBlock sl addr 64 = .ok (s1, bs) ∧ keyBlockOk bs = true :=
  ⟨kld (kBlk 0 5), (kRd (kBlk 0 5)).1, 16, 7, 0x30000, 1, ks 1, kBlk 0 5, by decide +kernel, by decide +kernel, by decide +kernel, by decide +kernel, by decide +kernel, exIs_ok (by decide +kernel), by decide +kernel⟩

theorem test_meets_CipherEnginesUseKeySlots_2_1 : ∃ (s s1 : State), ∃ (ch slot addr sl : Nat), ∃ (e : KeySlot), ∃ (bs : List Byte), s.serves ch 0x4D [(1, slot), (2, addr % 2 ^ 32), (3, addr / 2 ^ 32)] .bound false = true ∧ sl = s.servedSlice ch 0 ∧ s.ownSlot sl slot = some e ∧ e.state = 1 ∧ addr % 64 = 0 ∧ ((s.takeUp ch).wakeDomain .portfolio).readBlock sl addr 64 = .ok (s1, bs) ∧ keyBlockOk bs = false :=
  ⟨kld (kBlk 2 5), (kRd (kBlk 2 5)).1, 16, 7, 0x30000, 1, ks 1, kBlk 2 5, by decide +kernel, by decide +kernel, by decide +kernel, by decide +kernel, by decide +kernel, exIs_ok (by decide +kernel), by decide +kernel⟩

theorem test_meets_CipherEnginesUseKeySlots_3_0 : ∃ (s : State), ∃ (ch slot sl : Nat), ∃ (i : Instr), ∃ (free : Bool), (i, free) ∈ [(Instr.keyErase ch slot, false), (.keyFree ch slot, true)] ∧ s.serves ch (if free then 0x4F else 0x4E) [(1, slot)] .bound false = true ∧ sl = s.servedSlice ch 0 ∧ s.ownSlot sl slot = none :=
  ⟨msg (tSt cn []) 16 78 [(1, 7)], 16, 7, 1, .keyErase 16 7, false, by simp, by decide +kernel, by decide +kernel, by decide +kernel⟩

theorem test_meets_CipherEnginesUseKeySlots_3_1 : ∃ (s : State), ∃ (ch slot sl : Nat), ∃ (i : Instr), ∃ (free : Bool), (i, free) ∈ [(Instr.keyErase ch slot, false), (.keyFree ch slot, true)] ∧ s.serves ch (if free then 0x4F else 0x4E) [(1, slot)] .bound false = true ∧ sl = s.servedSlice ch 0 ∧ ∃ e, s.ownSlot sl slot = some e ∧ e.state = 1 :=
  ⟨msg (kSt (ks 1)) 16 79 [(1, 7)], 16, 7, 1, .keyFree 16 7, true, by simp, by decide +kernel, by decide +kernel, ks 1, by decide +kernel, by decide +kernel⟩

theorem test_meets_CipherEnginesUseKeySlots_3_1a : ∃ (s : State), ∃ (ch slot sl : Nat), ∃ (i : Instr), ∃ (free : Bool), (i, free) ∈ [(Instr.keyErase ch slot, false), (.keyFree ch slot, true)] ∧ s.serves ch (if free then 0x4F else 0x4E) [(1, slot)] .bound false = true ∧ sl = s.servedSlice ch 0 ∧ ∃ e, s.ownSlot sl slot = some e ∧ e.state = 1 :=
  ⟨msg (kSt (ks 1)) 16 78 [(1, 7)], 16, 7, 1, .keyErase 16 7, false, by simp, by decide +kernel, by decide +kernel, ks 1, by decide +kernel, by decide +kernel⟩

theorem test_meets_CipherEnginesUseKeySlots_3_2 : ∃ (s : State), ∃ (ch slot sl : Nat), ∃ (i : Instr), ∃ (free : Bool), (i, free) ∈ [(Instr.keyErase ch slot, false), (.keyFree ch slot, true)] ∧ s.serves ch (if free then 0x4F else 0x4E) [(1, slot)] .bound false = true ∧ sl = s.servedSlice ch 0 ∧ ∃ e, s.ownSlot sl slot = some e ∧ e.state = 2 ∧ s.slotInUse slot = true :=
  ⟨msg (kUse 2) 16 79 [(1, 7)], 16, 7, 1, .keyFree 16 7, true, by simp, by decide +kernel, by decide +kernel, ks 2, by decide +kernel, by decide +kernel, by decide +kernel⟩

theorem test_meets_CipherEnginesUseKeySlots_3_3 : ∃ (s : State), ∃ (ch slot sl : Nat), ∃ (i : Instr), ∃ (free : Bool), (i, free) ∈ [(Instr.keyErase ch slot, false), (.keyFree ch slot, true)] ∧ s.serves ch (if free then 0x4F else 0x4E) [(1, slot)] .bound false = true ∧ sl = s.servedSlice ch 0 ∧ ∃ e, s.ownSlot sl slot = some e ∧ e.state = 2 ∧ s.slotInUse slot = false :=
  ⟨msg (kSt (ks 2)) 16 79 [(1, 7)], 16, 7, 1, .keyFree 16 7, true, by simp, by decide +kernel, by decide +kernel, ks 2, by decide +kernel, by decide +kernel, by decide +kernel⟩

theorem test_meets_CipherEnginesUseKeySlots_3_4 : ∃ (s : State), ∃ (ch slot sl : Nat), ∃ (i : Instr), ∃ (free : Bool), (i, free) ∈ [(Instr.keyErase ch slot, false), (.keyFree ch slot, true)] ∧ s.serves ch (if free then 0x4F else 0x4E) [(1, slot)] .bound false = true ∧ sl = s.servedSlice ch 0 ∧ ∃ e, s.ownSlot sl slot = some e ∧ e.state = 4 ∧ s.slotInUse slot = false :=
  ⟨msg (kSt (ks 4)) 16 78 [(1, 7)], 16, 7, 1, .keyErase 16 7, false, by simp, by decide +kernel, by decide +kernel, ks 4, by decide +kernel, by decide +kernel, by decide +kernel⟩

theorem test_meets_CipherEnginesUseKeySlots_4_0 : ∃ (s : State), ∃ (slot : Nat), (s.keySlot slot).state = 3 ∧ (∀ r ∈ s.cph.reqs, r.slot ≠ slot) ∧ (s.keySlot slot).drainCh < 320 :=
  ⟨kSt { ks 3 with drainCh := 16, toFree := true }, 7, by decide +kernel, by decide +kernel, by decide +kernel⟩

theorem test_meets_CipherEnginesUseKeySlots_4_1 : ∃ (s : State), ∃ (slot : Nat), (s.keySlot slot).state = 3 ∧ (∃ r ∈ s.cph.reqs, r.slot = slot) :=
  ⟨crSt (cr1 (cphD 0 14 0 16) par0) 3, 7, by decide +kernel, ⟨cr1 (cphD 0 14 0 16) par0, by decide +kernel, by decide +kernel⟩⟩

theorem test_meets_CipherEnginesUseKeySlots_5_0 : ∃ (s : State), ∃ (slot copy : Nat), (s.keySlot slot).state = 2 ∧ copy ≤ 2 ∧ (∀ c ∈ s.tmt.conns, c.2.probing = none) :=
  ⟨kUse 2, 7, 1, by decide +kernel, by decide +kernel, by decide +kernel⟩

theorem test_meets_CipherEnginesUseKeySlots_5_0a : ∃ (s : State), ∃ (slot copy : Nat), (s.keySlot slot).state = 2 ∧ copy ≤ 2 ∧ (∀ c ∈ s.tmt.conns, c.2.probing = none) :=
  ⟨crSt (cr1 (cphD 0 14 0 16) par0) 2, 7, 0, by decide +kernel, by decide +kernel, by decide +kernel⟩

theorem test_meets_CipherEnginesUseKeySlots_6_0 : ∃ (s s1 s2 s3 s4 : State), ∃ (sl q el mode e : Nat), ∃ (dec : Bool), ∃ (src aad param par ad data : HostData), ∃ (i : Instr), ∃ (w : Wq), ∃ (d : List Byte), (i, mode, dec) ∈ [(Instr.cbcEncrypt sl q src aad param el, 0, false), (.cbcDecrypt sl q src aad param el, 0, true), (.ctrEncrypt sl q src aad param el, 1, false), (.ctrDecrypt sl q src aad param el, 1, true), (.cfb128Encrypt sl q src aad param el, 2, false), (.cfb128Decrypt sl q src aad param el, 2, true), (.ofbEncrypt sl q src aad param el, 3, false), (.ofbDecrypt sl q src aad param el, 3, true), (.gcmEncrypt sl q src aad param el, 4, false), (.gcmDecrypt sl q src aad param el, 4, true), (.cmac sl q src aad param el, 5, false)] ∧ (s.frontSlot sl q 0x30 2).2 = some (w, d) ∧ cMode d = mode ∧ (mode ≠ 5 → cDecrypt d = dec) ∧ s1 = ((s.wakeDomain .portfolio).popSlot w).1 ∧ cipherFieldsOk d = false :=
  ⟨cphS (cphD 0 14 1 16), ((cphS (cphD 0 14 1 16)).popSlot (front wq3 (cphD 0 14 1 16))).1, up, up, up, 1, 3, 9, 0, 0, false, (.ok, []), (.ok, []), (.ok, []), (.ok, []), (.ok, []), (.ok, []), .cbcEncrypt 1 3 (.ok, []) (.ok, []) (.ok, []) 9, front wq3 (cphD 0 14 1 16), cphD 0 14 1 16, by simp, by decide +kernel, by decide +kernel, by decide +kernel, by decide +kernel, by decide +kernel⟩

theorem test_meets_CipherEnginesUseKeySlots_6_1 : ∃ (s s1 s2 s3 s4 : State), ∃ (sl q el mode e : Nat), ∃ (dec : Bool), ∃ (src aad param par ad data : HostData), ∃ (i : Instr), ∃ (w : Wq), ∃ (d : List Byte), (i, mode, dec) ∈ [(Instr.cbcEncrypt sl q src aad param el, 0, false), (.cbcDecrypt sl q src aad param el, 0, true), (.ctrEncrypt sl q src aad param el, 1, false), (.ctrDecrypt sl q src aad param el, 1, true), (.cfb128Encrypt sl q src aad param el, 2, false), (.cfb128Decrypt sl q src aad param el, 2, true), (.ofbEncrypt sl q src aad param el, 3, false), (.ofbDecrypt sl q src aad param el, 3, true), (.gcmEncrypt sl q src aad param el, 4, false), (.gcmDecrypt sl q src aad param el, 4, true), (.cmac sl q src aad param el, 5, false)] ∧ (s.frontSlot sl q 0x30 2).2 = some (w, d) ∧ cMode d = mode ∧ (mode ≠ 5 → cDecrypt d = dec) ∧ s1 = ((s.wakeDomain .portfolio).popSlot w).1 ∧ ∃ st, cipherFieldsOk d = true ∧ s.cipherKeyErr sl d = some st :=
  ⟨ready (tSt cn []) (cphD 5 14 16 16), ((ready (tSt cn []) (cphD 5 14 16 16)).popSlot (front wq3 (cphD 5 14 16 16))).1, up, up, up, 1, 3, 9, 5, 0, false, (.ok, []), (.ok, []), (.ok, []), (.ok, []), (.ok, []), (.ok, []), .cmac 1 3 (.ok, []) (.ok, []) (.ok, []) 9, front wq3 (cphD 5 14 16 16), cphD 5 14 16 16, by simp, by decide +kernel, by decide +kernel, by decide +kernel, by decide +kernel, .badHandle, by decide +kernel, by decide +kernel⟩

theorem test_meets_CipherEnginesUseKeySlots_6_2 : ∃ (s s1 s2 s3 s4 : State), ∃ (sl q el mode e : Nat), ∃ (dec : Bool), ∃ (src aad param par ad data : HostData), ∃ (i : Instr), ∃ (w : Wq), ∃ (d : List Byte), (i, mode, dec) ∈ [(Instr.cbcEncrypt sl q src aad param el, 0, false), (.cbcDecrypt sl q src aad param el, 0, true), (.ctrEncrypt sl q src aad param el, 1, false), (.ctrDecrypt sl q src aad param el, 1, true), (.cfb128Encrypt sl q src aad param el, 2, false), (.cfb128Decrypt sl q src aad param el, 2, true), (.ofbEncrypt sl q src aad param el, 3, false), (.ofbDecrypt sl q src aad param el, 3, true), (.gcmEncrypt sl q src aad param el, 4, false), (.gcmDecrypt sl q src aad param el, 4, true), (.cmac sl q src aad param el, 5, false)] ∧ (s.frontSlot sl q 0x30 2).2 = some (w, d) ∧ cMode d = mode ∧ (mode ≠ 5 → cDecrypt d = dec) ∧ s1 = ((s.wakeDomain .portfolio).popSlot w).1 ∧ ∃ st, cipherFieldsOk d = true ∧ s.cipherKeyErr sl d = none ∧ s.cipherRangeErr w.port sl d = some st :=
  ⟨{ cphS (cphD 9 14 0 16) with own := [] }, ({ cphS (cphD 9 14 0 16) with own := [] }.popSlot (front wq3 (cphD 9 14 0 16))).1, up, up, up, 1, 3, 9, 1, 0, true, (.ok, []), (.ok, []), (.ok, []), (.ok, []), (.ok, []), (.ok, []), .ctrDecrypt 1 3 (.ok, []) (.ok, []) (.ok, []) 9, front wq3 (cphD 9 14 0 16), cphD 9 14 0 16, by simp, by decide +kernel, by decide +kernel, by decide +kernel, by decide +kernel, .accessFault, by decide +kernel, by decide +kernel, by decide +kernel⟩

theorem test_meets_CipherEnginesUseKeySlots_6_3 : ∃ (s s1 s2 s3 s4 : State), ∃ (sl q el mode e : Nat), ∃ (dec : Bool), ∃ (src aad param par ad data : HostData), ∃ (i : Instr), ∃ (w : Wq), ∃ (d : List Byte), (i, mode, dec) ∈ [(Instr.cbcEncrypt sl q src aad param el, 0, false), (.cbcDecrypt sl q src aad param el, 0, true), (.ctrEncrypt sl q src aad param el, 1, false), (.ctrDecrypt sl q src aad param el, 1, true), (.cfb128Encrypt sl q src aad param el, 2, false), (.cfb128Decrypt sl q src aad param el, 2, true), (.ofbEncrypt sl q src aad param el, 3, false), (.ofbDecrypt sl q src aad param el, 3, true), (.gcmEncrypt sl q src aad param el, 4, false), (.gcmDecrypt sl q src aad param el, 4, true), (.cmac sl q src aad param el, 5, false)] ∧ (s.frontSlot sl q 0x30 2).2 = some (w, d) ∧ cMode d = mode ∧ (mode ≠ 5 → cDecrypt d = dec) ∧ s1 = ((s.wakeDomain .portfolio).popSlot w).1 ∧ cipherFieldsOk d = true ∧ s.cipherKeyErr sl d = none ∧ s.cipherRangeErr w.port sl d = none ∧ s.pickEngine = none :=
  ⟨(cphS (cphD 9 14 0 16)).fset CPH_CTL_ENG_EN 0, (((cphS (cphD 9 14 0 16)).fset CPH_CTL_ENG_EN 0).popSlot (front wq3 (cphD 9 14 0 16))).1, up, up, up, 1, 3, 9, 1, 0, true, (.ok, []), (.ok, []), (.ok, []), (.ok, []), (.ok, []), (.ok, []), .ctrDecrypt 1 3 (.ok, []) (.ok, []) (.ok, []) 9, front wq3 (cphD 9 14 0 16), cphD 9 14 0 16, by simp, by decide +kernel, by decide +kernel, by decide +kernel, by decide +kernel, by decide +kernel, by decide +kernel, by decide +kernel, by decide +kernel⟩

theorem test_meets_CipherEnginesUseKeySlots_6_4 : ∃ (s s1 s2 s3 s4 : State), ∃ (sl q el mode e : Nat), ∃ (dec : Bool), ∃ (src aad param par ad data : HostData), ∃ (i : Instr), ∃ (w : Wq), ∃ (d : List Byte), (i, mode, dec) ∈ [(Instr.cbcEncrypt sl q src aad param el, 0, false), (.cbcDecrypt sl q src aad param el, 0, true), (.ctrEncrypt sl q src aad param el, 1, false), (.ctrDecrypt sl q src aad param el, 1, true), (.cfb128Encrypt sl q src aad param el, 2, false), (.cfb128Decrypt sl q src aad param el, 2, true), (.ofbEncrypt sl q src aad param el, 3, false), (.ofbDecrypt sl q src aad param el, 3, true), (.gcmEncrypt sl q src aad param el, 4, false), (.gcmDecrypt sl q src aad param el, 4, true), (.cmac sl q src aad param el, 5, false)] ∧ (s.frontSlot sl q 0x30 2).2 = some (w, d) ∧ cMode d = mode ∧ (mode ≠ 5 → cDecrypt d = dec) ∧ s1 = ((s.wakeDomain .portfolio).popSlot w).1 ∧ cipherFieldsOk d = true ∧ s.cipherKeyErr sl d = none ∧ s.cipherRangeErr w.port sl d = none ∧ s.pickEngine = some e ∧ (∀ st, s.hostWay sl w.port (leField d 0x30 8) 64 true ≠ .bad st) ∧ s1.cipherRead w.port sl (cFlag d 1) (leField d 0x28 8) 32 param = (s2, par) ∧ s2.cipherRead w.port sl (cFlag d 3) (leField d 0x20 8) (leField d 0xC 4) aad = (s3, ad) ∧ s3.cipherRead w.port sl (cFlag d 1) (leField d 0x10 8) (leField d 8 4) src = (s4, data) ∧ shortRead 32 par = false ∧ shortRead (leField d 0xC 4) ad = false ∧ shortRead (leField d 8 4) data = false :=
  ⟨cphS (cphD 0 14 0 16), cphR 0, ((cphR 0).cipherRead 0 1 true 0x30100 32 (.ok, [])).1, ((cphR 0).cipherRead 0 1 true 0x30100 32 (.ok, [])).1, (((cphR 0).cipherRead 0 1 true 0x30100 32 (.ok, [])).1.cipherRead 0 1 true 0x30000 16 (.ok, [])).1, 1, 3, 9, 0, 0, false, (.ok, []), (.ok, []), (.ok, []), (.ok, par0), (.ok, []), (.ok, leBytes 16 0), .cbcEncrypt 1 3 (.ok, []) (.ok, []) (.ok, []) 9, front wq3 (cphD 0 14 0 16), cphD 0 14 0 16, by simp, by decide +kernel, by decide +kernel, by decide +kernel, by decide +kernel, by decide +kernel, by decide +kernel, by decide +kernel, by decide +kernel, notBad (by decide +kernel), by decide +kernel, by decide +kernel, by decide +kernel, by decide +kernel, by decide +kernel, by decide +kernel⟩

theorem test_meets_CipherEnginesUseKeySlots_7_0 : ∃ (s : State), ∃ (e : Nat), s.pickEngine = some e :=
  ⟨cphS [], 0, by decide +kernel⟩

theorem test_meets_CipherEnginesUseKeySlots_7_1 : ∃ (s : State), ∃ (e : Nat), s.pickEngine = some e ∧ ∃ f, f < 4 ∧ bit (s.fget CPH_CTL_ENG_EN) f = true :=
  ⟨crSt (cr1 (cphD 0 14 0 16) par0) 2 |>.fset CPH_CTL_ENG_EN 15, 0, by decide +kernel, 3, by decide +kernel, by decide +kernel⟩

theorem test_meets_CipherEnginesUseKeySlots_8_0 : ∃ (s s1 : State), ∃ (i el : Nat), ∃ (r : CipherReq), s.cph.reqs[i]? = some r ∧ ((s.cph.reqs.take i).filter (fun x => x.engine == r.engine)).length < 64 ∧ s.finishCipher r el = some s1 :=
  ⟨crSt (cr1 (cphD 0 14 0 16) par0) 2, _, 0, 9, cr1 (cphD 0 14 0 16) par0, by decide +kernel, by decide +kernel, some_of (d := up) (by decide +kernel)⟩

theorem test_meets_CipherEnginesUseKeySlots_9_0 : ∃ (s s1 : State), ∃ (r : CipherReq), ∃ (e : CipherEnd), ∃ (el info : Nat), e = s.cipherEnd r ∧ s.cipherOutErr r = none ∧ cFlag r.desc 2 = true ∧ r.gen = s.curGen r.slice ∧ info = (if e.zeroed then 1 else 0) + (if cMode r.desc ≥ 1 ∧ cMode r.desc ≤ 3 ∧ leField r.desc 8 4 % 16 ≠ 0 then 2 else 0) ∧ s.deliverOut r.port r.slice r.gen r.queue (leField r.desc 0x3C 4) e.status [⟨r.cplPasid, leField r.desc 0x30 8, false, cipherRecord (leField r.desc 0x3C 4) e.status info r.engine e.bytes el e.out⟩] = some s1 :=
  ⟨crSt (cr1 (cphD 0 14 0 16) par0) 2, _, cr1 (cphD 0 14 0 16) par0, (crSt (cr1 (cphD 0 14 0 16) par0) 2).cipherEnd (cr1 (cphD 0 14 0 16) par0), 9, 0, rfl, by decide +kernel, by decide +kernel, by decide +kernel, by decide +kernel, some_of (d := up) (by decide +kernel)⟩

theorem test_meets_CipherEnginesUseKeySlots_10_0 : ∃ (s : State), ∃ (r : CipherReq), ∃ (outs tag : List Byte), r.fault = none ∧ r.param.1 = .ok ∧ r.aad.1 = .ok ∧ r.src.1 = .ok ∧ cipherRun (roundKeys (s.keySlot r.slot).key) (cMode r.desc) (cDecrypt r.desc) r.param.2 r.aad.2 (leField r.desc 3 1) r.src.2 = (outs, tag) ∧ cFlag r.desc 5 = false :=
  ⟨crSt (cr1 (cphD 0 14 0 16) par0) 2, cr1 (cphD 0 14 0 16) par0, (cipherRun (roundKeys ((crSt (cr1 (cphD 0 14 0 16) par0) 2).keySlot (cr1 (cphD 0 14 0 16) par0).slot).key) (cMode (cr1 (cphD 0 14 0 16) par0).desc) (cDecrypt (cr1 (cphD 0 14 0 16) par0).desc) (cr1 (cphD 0 14 0 16) par0).param.2 (cr1 (cphD 0 14 0 16) par0).aad.2 (leField (cr1 (cphD 0 14 0 16) par0).desc 3 1) (cr1 (cphD 0 14 0 16) par0).src.2).1, (cipherRun (roundKeys ((crSt (cr1 (cphD 0 14 0 16) par0) 2).keySlot (cr1 (cphD 0 14 0 16) par0).slot).key) (cMode (cr1 (cphD 0 14 0 16) par0).desc) (cDecrypt (cr1 (cphD 0 14 0 16) par0).desc) (cr1 (cphD 0 14 0 16) par0).param.2 (cr1 (cphD 0 14 0 16) par0).aad.2 (leField (cr1 (cphD 0 14 0 16) par0).desc 3 1) (cr1 (cphD 0 14 0 16) par0).src.2).2, by decide +kernel, by decide +kernel, by decide +kernel, by decide +kernel, rfl, by decide +kernel⟩

theorem test_meets_CipherEnginesUseKeySlots_10_1 : ∃ (s : State), ∃ (r : CipherReq), ∃ (outs tag : List Byte), r.fault = none ∧ r.param.1 = .ok ∧ r.aad.1 = .ok ∧ r.src.1 = .ok ∧ cipherRun (roundKeys (s.keySlot r.slot).key) (cMode r.desc) (cDecrypt r.desc) r.param.2 r.aad.2 (leField r.desc 3 1) r.src.2 = (outs, tag) ∧ cFlag r.desc 5 = true ∧ tag = (r.param.2.drop 16).take (leField r.desc 3 1) :=
  ⟨crSt (cr1 (cphD 5 46 0 16) par0) 2, cr1 (cphD 5 46 0 16) par0, (cipherRun (roundKeys ((crSt (cr1 (cphD 5 46 0 16) par0) 2).keySlot (cr1 (cphD 5 46 0 16) par0).slot).key) (cMode (cr1 (cphD 5 46 0 16) par0).desc) (cDecrypt (cr1 (cphD 5 46 0 16) par0).desc) (cr1 (cphD 5 46 0 16) par0).param.2 (cr1 (cphD 5 46 0 16) par0).aad.2 (leField (cr1 (cphD 5 46 0 16) par0).desc 3 1) (cr1 (cphD 5 46 0 16) par0).src.2).1, (cipherRun (roundKeys ((crSt (cr1 (cphD 5 46 0 16) par0) 2).keySlot (cr1 (cphD 5 46 0 16) par0).slot).key) (cMode (cr1 (cphD 5 46 0 16) par0).desc) (cDecrypt (cr1 (cphD 5 46 0 16) par0).desc) (cr1 (cphD 5 46 0 16) par0).param.2 (cr1 (cphD 5 46 0 16) par0).aad.2 (leField (cr1 (cphD 5 46 0 16) par0).desc 3 1) (cr1 (cphD 5 46 0 16) par0).src.2).2, by decide +kernel, by decide +kernel, by decide +kernel, by decide +kernel, rfl, by decide +kernel, by decide +kernel⟩

theorem test_meets_CipherEnginesUseKeySlots_10_2 : ∃ (s : State), ∃ (r : CipherReq), ∃ (outs tag : List Byte), r.fault = none ∧ r.param.1 = .ok ∧ r.aad.1 = .ok ∧ r.src.1 = .ok ∧ cipherRun (roundKeys (s.keySlot r.slot).key) (cMode r.desc) (cDecrypt r.desc) r.param.2 r.aad.2 (leField r.desc 3 1) r.src.2 = (outs, tag) ∧ cFlag r.desc 5 = true ∧ tag ≠ (r.param.2.drop 16).take (leField r.desc 3 1) ∧ cMode r.desc = 4 :=
  ⟨crSt (cr1 (cphD 12 46 16 16) (leBytes 16 0)) 2, cr1 (cphD 12 46 16 16) (leBytes 16 0), (cipherRun (roundKeys ((crSt (cr1 (cphD 12 46 16 16) (leBytes 16 0)) 2).keySlot (cr1 (cphD 12 46 16 16) (leBytes 16 0)).slot).key) (cMode (cr1 (cphD 12 46 16 16) (leBytes 16 0)).desc) (cDecrypt (cr1 (cphD 12 46 16 16) (leBytes 16 0)).desc) (cr1 (cphD 12 46 16 16) (leBytes 16 0)).param.2 (cr1 (cphD 12 46 16 16) (leBytes 16 0)).aad.2 (leField (cr1 (cphD 12 46 16 16) (leBytes 16 0)).desc 3 1) (cr1 (cphD 12 46 16 16) (leBytes 16 0)).src.2).1, (cipherRun (roundKeys ((crSt (cr1 (cphD 12 46 16 16) (leBytes 16 0)) 2).keySlot (cr1 (cphD 12 46 16 16) (leBytes 16 0)).slot).key) (cMode (cr1 (cphD 12 46 16 16) (leBytes 16 0)).desc) (cDecrypt (cr1 (cphD 12 46 16 16) (leBytes 16 0)).desc) (cr1 (cphD 12 46 16 16) (leBytes 16 0)).param.2 (cr1 (cphD 12 46 16 16) (leBytes 16 0)).aad.2 (leField (cr1 (cphD 12 46 16 16) (leBytes 16 0)).desc 3 1) (cr1 (cphD 12 46 16 16) (leBytes 16 0)).src.2).2, by decide +kernel, by decide +kernel, by decide +kernel, by decide +kernel, rfl, by decide +kernel, by decide +kernel, by decide +kernel⟩

theorem test_meets_VarnishStepsAreCutAndCopied_0_0 : ∃ (s : State), ∃ (ch handle sl : Nat), ∃ (t : Table), sl = s.servedSlice ch (handle / 2 ^ 26) ∧ smGet s.tbl handle = some t ∧ t.slice = sl ∧ t.dying = none ∧ (s.vrn.step.any (fun t => t.phase == 2)) = false ∧ s.serves ch 0x60 [(1, handle), (2, 1)] .bound false = true ∧ s.shards.length + ((s.shardKeys handle).filter (fun k => (smGet s.shards k).isNone)).length ≤ 2097152 ∧ handle ∉ s.vrn.prot :=
  ⟨msg ({ vSt none with vrn := { vrn0 none with prot := [] }, shards := [] }) 16 0x60 [(1, hnd), (2, 1)], 16, hnd, 1, tbl1, by decide +kernel, by decide +kernel, by decide +kernel, by decide +kernel, by decide +kernel, by decide +kernel, by decide +kernel, by decide +kernel⟩

theorem test_meets_VarnishStepsAreCutAndCopied_0_1 : ∃ (s : State), ∃ (ch handle sl : Nat), ∃ (t : Table), sl = s.servedSlice ch (handle / 2 ^ 26) ∧ smGet s.tbl handle = some t ∧ t.slice = sl ∧ t.dying = none ∧ (s.vrn.step.any (fun t => t.phase == 2)) = false ∧ s.serves ch 0x60 [(1, handle), (2, 0)] .bound false = true :=
  ⟨msg (vSt none) 16 0x60 [(1, hnd), (2, 0)], 16, hnd, 1, tbl1, by decide +kernel, by decide +kernel, by decide +kernel, by decide +kernel, by decide +kernel, by decide +kernel⟩

theorem test_meets_VarnishStepsAreCutAndCopied_1_0 : ∃ (s : State), ∃ (ch handle sl : Nat), ∃ (on : Bool), ∃ (t : Table), s.serves ch 0x60 [(1, handle), (2, if on then 1 else 0)] .bound false = true ∧ sl = s.servedSlice ch (handle / 2 ^ 26) ∧ smGet s.tbl handle = some t ∧ t.slice = sl ∧ t.dying = none ∧ (s.vrn.step.any (fun t => t.phase == 2)) = true ∧ s.shards.length + ((s.shardKeys handle).filter (fun k => (smGet s.shards k).isNone)).length ≤ 2097152 :=
  ⟨msg (vSt (some (vs 2))) 16 0x60 [(1, hnd), (2, 0)], 16, hnd, 1, false, tbl1, by decide +kernel, by decide +kernel, by decide +kernel, by decide +kernel, by decide +kernel, by decide +kernel, by decide +kernel⟩

theorem test_meets_VarnishStepsAreCutAndCopied_2_0 : ∃ (s : State), ∃ (ch n : Nat), n = s.rget VRN_STEP_CUR + 1 ∧ s.serves ch 0x61 [] .secure false = true ∧ s.vrnAble 1 = false :=
  ⟨msg (noKey (vSt none)) 0 97 [], 0, 1, by decide +kernel, by decide +kernel, by decide +kernel⟩

theorem test_meets_VarnishStepsAreCutAndCopied_2_1 : ∃ (s : State), ∃ (ch n : Nat), n = s.rget VRN_STEP_CUR + 1 ∧ s.serves ch 0x64 [] .secure false = true ∧ s.vrnAble 2 = false :=
  ⟨msg (vSt none) 0 100 [], 0, 1, by decide +kernel, by decide +kernel, by decide +kernel⟩

theorem test_meets_VarnishStepsAreCutAndCopied_2_2 : ∃ (s : State), ∃ (ch n : Nat), n = s.rget VRN_STEP_CUR + 1 ∧ s.serves ch 0x61 [] .secure false = true ∧ s.vrnAble 1 = true ∧ s.vrnIdle = true ∧ (s.takeUp ch).holdCause = 0 :=
  ⟨msg (vSt none) 0 97 [], 0, 1, by decide +kernel, by decide +kernel, by decide +kernel, by decide +kernel, by decide +kernel⟩

theorem test_meets_VarnishStepsAreCutAndCopied_2_3 : ∃ (s : State), ∃ (ch n : Nat), n = s.rget VRN_STEP_CUR + 1 ∧ s.serves ch 0x61 [] .secure false = true ∧ s.vrnAble 1 = true ∧ s.vrnIdle = true ∧ (s.takeUp ch).holdCause ≠ 0 :=
  ⟨msg (hot (vSt none)) 0 97 [], 0, 1, by decide +kernel, by decide +kernel, by decide +kernel, by decide +kernel, by decide +kernel⟩

theorem test_meets_VarnishStepsAreCutAndCopied_2_4 : ∃ (s : State), ∃ (ch n : Nat), n = s.rget VRN_STEP_CUR + 1 ∧ s.serves ch 0x61 [] .secure false = true ∧ s.vrnAble 1 = true ∧ s.vrnIdle = false :=
  ⟨msg (vSt (some (vs 2))) 0 97 [], 0, 1, by decide +kernel, by decide +kernel, by decide +kernel, by decide +kernel⟩

theorem test_meets_VarnishStepsAreCutAndCopied_2_5 : ∃ (s : State), ∃ (ch n : Nat), n = s.rget VRN_STEP_CUR + 1 ∧ s.serves ch 0x64 [] .secure false = true ∧ s.vrnAble 2 = true ∧ s.vrnIdle = true ∧ (s.takeUp ch).holdCause = 0 :=
  ⟨msg (vLs) 0 100 [], 0, 1, by decide +kernel, by decide +kernel, by decide +kernel, by decide +kernel, by decide +kernel⟩

theorem test_meets_VarnishStepsAreCutAndCopied_3_0 : ∃ (s : State), s.fon VRN_CTL_EN = true ∧ s.fget VRN_CTL_PERIOD_MS ≠ 0 ∧ 100 * s.fget VRN_CTL_PERIOD_MS ≤ s.pw.onTicks - s.vrn.started ∧ s.vrnAble 1 = true ∧ s.vrnIdle = true ∧ s.holdCause = 0 :=
  ⟨{ (((vSt none).fset VRN_CTL_EN 1).fset VRN_CTL_PERIOD_MS 5) with pw := { (vSt none).pw with onTicks := 500 } }, by decide +kernel, by decide +kernel, by decide +kernel, by decide +kernel, by decide +kernel, by decide +kernel⟩

theorem test_meets_VarnishStepsAreCutAndCopied_3_1 : ∃ (s : State), (s.fon VRN_CTL_EN = false ∨ s.fget VRN_CTL_PERIOD_MS = 0) :=
  ⟨vSt none, Or.inl (by decide +kernel)⟩

theorem test_meets_VarnishStepsAreCutAndCopied_4_0 : ∃ (s : State), ∃ (x : VStep), s.vrn.step = some x ∧ x.phase = 1 ∧ 1000 ≤ s.pw.calm ∧ s.running = true ∧ s.emergency = false ∧ s.holdCause = 0 :=
  ⟨{ vSt (some (vs 1)) with pw := { (vSt none).pw with calm := 1000 } }, vs 1, by decide +kernel, by decide +kernel, by decide +kernel, by decide +kernel, by decide +kernel, by decide +kernel⟩

theorem test_meets_VarnishStepsAreCutAndCopied_4_1 : ∃ (s : State), ∃ (x : VStep), s.vrn.step = some x ∧ x.phase = 1 ∧ s.pw.calm < 1000 :=
  ⟨vSt (some (vs 1)), vs 1, by decide +kernel, by decide +kernel, by decide +kernel⟩

theorem test_meets_VarnishStepsAreCutAndCopied_4_2 : ∃ (s : State), ∃ (x : VStep), s.vrn.step = some x ∧ x.phase = 0 ∧ s.holdCause = 0 :=
  ⟨vSt (some (vs 0)), vs 0, by decide +kernel, by decide +kernel, by decide +kernel⟩

theorem test_meets_VarnishStepsAreCutAndCopied_4_3 : ∃ (s : State), ∃ (x : VStep), s.vrn.step = some x ∧ x.phase = 0 ∧ s.holdCause ≠ 0 ∧ s.vrn.queued = [] :=
  ⟨hot (vSt (some (vs 0))), vs 0, by decide +kernel, by decide +kernel, by decide +kernel, by decide +kernel⟩

theorem test_meets_VarnishStepsAreCutAndCopied_5_0 : ∃ (s : State), ∃ (x : VStep), ∃ (locs live copy sizes : List Nat), ∃ (recs : List HRec), s.vrn.step = some x ∧ x.phase = 2 ∧ x.kind = 1 ∧ s.holdCause = 0 ∧ s.cutWaits x.prot = false ∧ live = (s.shards.filter (fun p => s.isProtected x.prot (p.1 / 2 ^ 32) && decide (0 < s.shardBytes (p.1 / 2 ^ 32) (p.1 % 2 ^ 32)))).map (·.1) ∧ copy = live.filter (fun k => smGetD s.shards k true || (match s.copyEntry (k / 2 ^ 32) (k % 2 ^ 32) with | some e => e.bytes != s.shardBytes (k / 2 ^ 32) (k % 2 ^ 32) | none => true)) ∧ sizes = copy.map (fun k => s.shardBytes (k / 2 ^ 32) (k % 2 ^ 32)) ∧ recs = s.cutRecords x.prot ∧ s.poolFree < (sizes.map unitsOf).sum ∧ s.vrn.queued = [] :=
  ⟨{ vSt (some (vs 2)) with vrn := { vrn0 (some (vs 2)) with gib := 0 } }, vs 2, [3], [runKey hnd 0], [runKey hnd 0], [0x10000], (vSt (some (vs 2))).cutRecords [hnd], by decide +kernel, by decide +kernel, by decide +kernel, by decide +kernel, by decide +kernel, by decide +kernel, by decide +kernel, by decide +kernel, by decide +kernel, by decide +kernel, by decide +kernel⟩

theorem test_meets_VarnishStepsAreCutAndCopied_5_1 : ∃ (s : State), ∃ (x : VStep), ∃ (locs live copy sizes : List Nat), ∃ (recs : List HRec), s.vrn.step = some x ∧ x.phase = 2 ∧ x.kind = 1 ∧ s.holdCause = 0 ∧ s.cutWaits x.prot = false ∧ live = (s.shards.filter (fun p => s.isProtected x.prot (p.1 / 2 ^ 32) && decide (0 < s.shardBytes (p.1 / 2 ^ 32) (p.1 % 2 ^ 32)))).map (·.1) ∧ copy = live.filter (fun k => smGetD s.shards k true || (match s.copyEntry (k / 2 ^ 32) (k % 2 ^ 32) with | some e => e.bytes != s.shardBytes (k / 2 ^ 32) (k % 2 ^ 32) | none => true)) ∧ sizes = copy.map (fun k => s.shardBytes (k / 2 ^ 32) (k % 2 ^ 32)) ∧ recs = s.cutRecords x.prot ∧ (sizes.map unitsOf).sum ≤ s.poolFree ∧ bodyLen recs (live.map (s.cutEntry x.num [])) + 64 ≤ manifestArea ∧ locs.length = copy.length ∧ rangesOk s.poolUnits s.vrn.held (locs.zip (sizes.map unitsOf)) = true ∧ s.vrn.queued = [] :=
  ⟨vSt (some (vs 2)), vs 2, [3], [runKey hnd 0], [runKey hnd 0], [0x10000], (vSt (some (vs 2))).cutRecords [hnd], by decide +kernel, by decide +kernel, by decide +kernel, by decide +kernel, by decide +kernel, by decide +kernel, by decide +kernel, by decide +kernel, by decide +kernel, by decide +kernel, by decide +kernel, by decide +kernel, by decide +kernel, by decide +kernel⟩

theorem test_meets_VarnishStepsAreCutAndCopied_6_0 : ∃ (s s1 : State), ∃ (h un : Nat), ∃ (tier : HostData), ∃ (x : VStep), ∃ (e : MEnt), s.vrn.step = some x ∧ x.phase = 3 ∧ x.verdict = .ok ∧ s.shardNext x h un = true ∧ x.ents.find? (fun e => e.handle == h && e.unit == un && x.todo.contains (runKey h un)) = some e ∧ ∃ (s2 : State), ∃ (y : VStep), ∃ (bs : List Byte), s.readShard h un e.bytes tier = (s1, some bs) ∧ s1.vrnWrite x (sourceAt (x.kind == 2) (s1.stepTarget x).2.2.1 (s1.stepTarget x).2.2.2 (x.num % 2) e.loc) bs = some (s2, y) :=
  ⟨vSt (some vs3), ((vSt (some vs3)).readShard hnd 0 64 (.ok, [])).1, hnd, 0, (.ok, []), vs3, ent1, by decide +kernel, by decide +kernel, by decide +kernel, by decide +kernel, by decide +kernel, _, _, List.replicate 64 0, by decide +kernel, some_of (d := (up, vs3)) (by decide +kernel)⟩

theorem test_meets_VarnishStepsAreCutAndCopied_6_1 : ∃ (s s1 : State), ∃ (h un : Nat), ∃ (tier : HostData), ∃ (x : VStep), ∃ (e : MEnt), s.vrn.step = some x ∧ x.phase = 3 ∧ x.verdict = .ok ∧ s.shardNext x h un = true ∧ x.ents.find? (fun e => e.handle == h && e.unit == un && x.todo.contains (runKey h un)) = some e ∧ s.readShard h un e.bytes tier = (s1, none) :=
  ⟨{ vSt (some vs3) with cmp := { tblMade.cmp with exc := tierSt.cmp.exc } }, { vSt (some vs3) with cmp := { tblMade.cmp with exc := tierSt.cmp.exc } }, hnd, 0, (.poisoned, []), vs3, ent1, by decide +kernel, by decide +kernel, by decide +kernel, by decide +kernel, by decide +kernel, by decide +kernel⟩

theorem test_meets_VarnishStepsAreCutAndCopied_7_0 : ∃ (s : State), ∃ (x : VStep), s.vrnAdvance.vrn.step = some x ∧ x.phase = 6 ∧ x.verdict = .ok ∧ x.num < 2 ^ 32 ∧ x.kind = 1 :=
  ⟨vSt (some { vs3 with phase := 6, todo := [] }), { vs3 with phase := 6, todo := [] }, by decide +kernel, by decide +kernel, by decide +kernel, by decide +kernel, by decide +kernel⟩

theorem test_meets_VarnishStepsAreCutAndCopied_7_1 : ∃ (s : State), ∃ (x : VStep), s.vrnAdvance.vrn.step = some x ∧ x.phase = 6 ∧ x.verdict = .ok ∧ x.num < 2 ^ 32 ∧ x.kind = 2 :=
  ⟨{ vSt (some { vs3 with kind := 2, phase := 6, todo := [] }) with vrn := { vrn0 (some { vs3 with kind := 2, phase := 6, todo := [] }) with target := some (40, 5, 0, 0x40000000) } }, { vs3 with kind := 2, phase := 6, todo := [] }, by decide +kernel, by decide +kernel, by decide +kernel, by decide +kernel, by decide +kernel⟩

theorem test_meets_VarnishStepsAreCutAndCopied_8_0 : ∃ (u : State), ∃ (x : VStep), ∃ (st : Status), u.vrn.reqs = [] :=
  ⟨vSt (some (vs 6)), vs 6, .ok, by decide +kernel⟩

theorem test_meets_VarnishStepsAreCutAndCopied_9_0 : ∃ (s : State), ∃ (x : VStep), s.vrn.step = some x ∧ s.vrn.queued = [] ∧ x.verdict ≠ .ok :=
  ⟨vSt (some { vs3 with verdict := .buddyFull }), { vs3 with verdict := .buddyFull }, by decide +kernel, by decide +kernel, by decide +kernel⟩

theorem test_meets_VarnishStepsAreCutAndCopied_9_1 : ∃ (s : State), ∃ (x : VStep), s.vrn.step = some x ∧ s.vrn.queued = [] ∧ x.verdict = .ok ∧ s.stepLost x = true :=
  ⟨{ vSt (some vs3) with vrn := { vrn0 (some vs3) with buddyUp := false } }, vs3, by decide +kernel, by decide +kernel, by decide +kernel, by decide +kernel⟩

theorem test_meets_VarnishStepsAreCutAndCopied_9_2 : ∃ (s : State), ∃ (x : VStep), s.vrn.step = some x ∧ s.vrn.queued = [] ∧ x.verdict = .ok ∧ s.stepLost x = false :=
  ⟨vSt (some vs3), vs3, by decide +kernel, by decide +kernel, by decide +kernel, by decide +kernel⟩

theorem test_meets_VarnishPersistsAndRestores_0_0 : ∃ (s : State), ∃ (ch conn rkey roff len : Nat), ∃ (x : Conn), s.serves ch 0x63 [] .secure true = true ∧ s.conn conn = some x ∧ x.slice = 64 ∧ 2 * manifestArea + 0x20000 ≤ len ∧ (∀ t, s.vrn.step = some t → t.kind ≠ 2) ∧ (∀ r, s.vrn.restore = some r → r.persist = false) :=
  ⟨msg (vSt none) 0 99 [], 0, 40, 5, 0, 0x20020000, dcn, by decide +kernel, by decide +kernel, by decide +kernel, by decide +kernel, (by intro t h; cases h), (by intro t h; cases h)⟩

theorem test_meets_VarnishPersistsAndRestores_1_0 : ∃ (s : State), ∃ (ch sl : Nat), s.serves ch 0x62 [] .secure true = true ∧ s.slLive sl = true ∧ ∃ (owner : Nat), ∃ (l : Lease), s.vrn.leases.find? (fun l => l.owner == owner && !l.adopted) = some l ∧ (∃ m, smGet s.hrc.members owner = some m ∧ m.state = 2) ∧ s.vrn.step = none ∧ s.vrn.restore = none :=
  ⟨msg (vHrc vLs [(2, mem1 2)]) 0 98 [], 0, 1, by decide +kernel, by decide +kernel, 2, lease1, by decide +kernel, ⟨mem1 2, by decide +kernel, by decide +kernel⟩, by decide +kernel, by decide +kernel⟩

theorem test_meets_VarnishPersistsAndRestores_1_1 : ∃ (s : State), ∃ (ch sl : Nat), s.serves ch 0x62 [] .secure true = true ∧ s.slLive sl = true ∧ ∃ (owner : Nat), ∃ (l : Lease), s.vrn.leases.find? (fun l => l.owner == owner && !l.adopted) = some l ∧ smGet s.hrc.members owner = none :=
  ⟨msg (vLs) 0 98 [], 0, 1, by decide +kernel, by decide +kernel, 2, lease1, by decide +kernel, by decide +kernel⟩

theorem test_meets_VarnishPersistsAndRestores_1_2 : ∃ (s : State), ∃ (ch sl : Nat), s.serves ch 0x62 [] .secure true = true ∧ s.slLive sl = true ∧ s.vrn.buddy ≠ none ∧ s.vrn.step = none ∧ s.vrn.restore = none :=
  ⟨msg (vSt none) 0 98 [], 0, 1, by decide +kernel, by decide +kernel, by decide +kernel, by decide +kernel, by decide +kernel⟩

theorem test_meets_VarnishPersistsAndRestores_1_3 : ∃ (s : State), ∃ (ch sl : Nat), s.serves ch 0x62 [] .secure true = true ∧ s.slLive sl = true ∧ s.vrn.buddy = none :=
  ⟨msg (tblMade) 0 98 [], 0, 1, by decide +kernel, by decide +kernel, by decide +kernel⟩

theorem test_meets_VarnishPersistsAndRestores_1_4 : ∃ (s : State), ∃ (ch sl : Nat), s.serves ch 0x62 [] .secure true = true ∧ s.slLive sl = true ∧ ∃ (serial : Nat), s.vrn.target ≠ none ∧ s.vrn.step = none ∧ s.vrn.restore = none :=
  ⟨msg (vLs) 0 98 [], 0, 1, by decide +kernel, by decide +kernel, 7, by decide +kernel, by decide +kernel, by decide +kernel⟩

theorem test_meets_VarnishPersistsAndRestores_1_5 : ∃ (s : State), ∃ (ch sl : Nat), s.serves ch 0x62 [] .secure true = true ∧ s.slLive sl = true ∧ ∃ (serial : Nat), s.vrn.target = none :=
  ⟨msg (vSt none) 0 98 [], 0, 1, by decide +kernel, by decide +kernel, 7, by decide +kernel⟩

theorem test_meets_VarnishPersistsAndRestores_3_0 : ∃ (s : State), ∃ (r : VRestore), s.vrn.restore = some r ∧ r.stage ≠ 3 :=
  ⟨vrSt (vr 2), vr 2, by decide +kernel, by decide +kernel⟩

theorem test_meets_VarnishPersistsAndRestores_3_1 : ∃ (s : State), ∃ (r : VRestore), s.vrn.restore = some r ∧ r.stage = 3 ∧ r.slots.filter (· != r.slot) = [] ∧ (r.persist = true ∨ s.vrn.target = none) :=
  ⟨vrSt (vr 3), vr 3, by decide +kernel, by decide +kernel, by decide +kernel, Or.inr (by decide +kernel)⟩

theorem test_meets_VarnishPersistsAndRestores_3_2 : ∃ (s : State), ∃ (r : VRestore), s.vrn.restore = some r ∧ r.stage = 3 ∧ r.slots.filter (· != r.slot) = [] ∧ r.persist = false ∧ s.vrn.target ≠ none :=
  ⟨{ vrSt (vr 3) with vrn := { (vrSt (vr 3)).vrn with target := some (40, 5, 0, 0x40000000) } }, vr 3, by decide +kernel, by decide +kernel, by decide +kernel, by decide +kernel, by decide +kernel⟩

theorem test_meets_VarnishPersistsAndRestores_2_0 : ∃ (s : State), ∃ (r : VRestore), ∃ (h b : List Byte), ∃ (tabs : List (List SegPlace)), ∃ (runs : List UnitPlace), ∃ (arrays : List (List Nat)), ∃ (extra recs : List Nat), s.vrn.restore = some r ∧ r.stage = 4 ∧ s.slotManifest r r.slot = some (h, b) ∧ r.inPlace = false ∧ s.fits r.slice (restoreNeed (entriesOf h b) arrays) = false :=
  ⟨vrSt (mfR 0 mfM), mfR 0 mfM, mfHead 0 mfM, mfBody 0, [], [], [List.range 2000], [], [], by decide +kernel, by decide +kernel, mf_ok, by decide +kernel, by decide +kernel⟩

theorem test_meets_VarnishPersistsAndRestores_2_1 : ∃ (s : State), ∃ (r : VRestore), ∃ (h b : List Byte), ∃ (tabs : List (List SegPlace)), ∃ (runs : List UnitPlace), ∃ (arrays : List (List Nat)), ∃ (extra recs : List Nat), s.vrn.restore = some r ∧ r.stage = 4 ∧ s.slotManifest r r.slot = some (h, b) ∧ ∃ (a : Restored), r.inPlace = false ∧ s.fits r.slice (restoreNeed (entriesOf h b) arrays) = true ∧ extra = [] ∧ restoreAll r (entriesOf h b) (recordsOf h b) ⟨s, [], 0, tabs, runs, arrays, extra⟩ = some a ∧ recs.length = ceilDiv (restoreRecord h a ((entriesOf h b).filter (·.lost)).length).length 0x10000 ∧ recs.all a.s.regionFree = true ∧ recs = (List.range recs.length).map (recs.headD 0 + ·) :=
  ⟨vrSt (mfR 0 mfM), mfR 0 mfM, mfHead 0 mfM, mfBody 0, [], [], [], [], [700], by decide +kernel, by decide +kernel, mf_ok, _, by decide +kernel, by decide +kernel, by decide +kernel, some_of (d := ⟨up, [], 0, [], [], [], []⟩) (by decide +kernel), by decide +kernel, by decide +kernel, by decide +kernel⟩

theorem test_meets_VarnishPersistsAndRestores_4_0 : ∃ (s : State), ∃ (r : VRestore), ∃ (k : Nat), ∃ (h b : List Byte), ∃ (tabs : List (List SegPlace)), ∃ (runs : List UnitPlace), ∃ (arrays : List (List Nat)), ∃ (extra recs : List Nat), s.vrn.restore = some r ∧ r.stage = 5 ∧ s.vrn.reqs = [] ∧ s.pickSlotOf r = some k ∧ s.slotManifest r k = some (h, b) :=
  ⟨vrSt mf5, mf5, 1, mfHead 0 mfM, mfBody 0, [], [], [], [], [], by decide +kernel, by decide +kernel, by decide +kernel, by decide +kernel, mf_ok5⟩

theorem test_meets_VarnishPersistsAndRestores_4_1 : ∃ (s : State), ∃ (r : VRestore), ∃ (k : Nat), ∃ (h b : List Byte), ∃ (tabs : List (List SegPlace)), ∃ (runs : List UnitPlace), ∃ (arrays : List (List Nat)), ∃ (extra recs : List Nat), s.vrn.restore = some r ∧ r.stage = 5 ∧ s.vrn.reqs = [] ∧ s.pickSlotOf r = none :=
  ⟨vrSt { mf5 with slots := [] }, { mf5 with slots := [] }, 1, [], [], [], [], [], [], [], by decide +kernel, by decide +kernel, by decide +kernel, by decide +kernel⟩

theorem test_meets_JobsAreMadeJoinedAndLeft_0_0 : ∃ (s : State), ∃ (ch job sl port area key : Nat), s.serves ch 0x68 [] .secure true = true ∧ ∃ (s1 : State), s.inJob = false ∧ 0 < job ∧ job < 2 ^ 32 ∧ (s.takeUp ch).jobSliceErr sl port area = none ∧ (s.takeUp ch).loadJobKeys sl key = .ok s1 :=
  ⟨msg keyMem 0 0x68 [], 0, 9, 1, 0, 0x4000000, 0x30000, by decide +kernel, okT (((msg keyMem 0 0x68 []).takeUp 0).loadJobKeys 1 0x30000), by decide +kernel, by decide +kernel, by decide +kernel, by decide +kernel, exIs_ok (by decide +kernel)⟩

theorem test_meets_JobsAreMadeJoinedAndLeft_0_1 : ∃ (s : State), ∃ (ch job sl port area key : Nat), s.serves ch 0x68 [] .secure true = true ∧ s.inJob = true :=
  ⟨msg (jSt 1 4) 0 0x68 [], 0, 9, 1, 0, 0x4000000, 0x30000, by decide +kernel, by decide +kernel⟩

theorem test_meets_JobsAreMadeJoinedAndLeft_1_0 : ∃ (s s1 : State), ∃ (ch job sl port area key num mgr serial : Nat), ∃ (deputy : Option Nat), ∃ (peers : List CtlPeer), s.serves ch 0x69 [] .secure true = true ∧ s.inJob = false ∧ 0 < job ∧ job < 2 ^ 32 ∧ 0 < num ∧ num ≤ 256 ∧ (s.takeUp ch).jobSliceErr sl port area = none ∧ (s.takeUp ch).loadJobKeys sl key = .ok s1 :=
  ⟨msg keyMem 0 0x69 [], okT (((msg keyMem 0 0x69 []).takeUp 0).loadJobKeys 1 0x30000), 0, 9, 1, 0, 0x4000000, 0x30000, 4, 2, 55, some 3, [], by decide +kernel, by decide +kernel, by decide +kernel, by decide +kernel, by decide +kernel, by decide +kernel, by decide +kernel, exIs_ok (by decide +kernel)⟩

theorem test_meets_JobsAreMadeJoinedAndLeft_2_0 : ∃ (s t1 : State), ∃ (ch job sl port area key num mgr serial : Nat), ∃ (deputy : Option Nat), ∃ (peers : List CtlPeer), s.serves ch 0x69 [] .secure true = true ∧ s.isManager = true ∧ 320 ≤ ch ∧ s.hrc.issued < 256 ∧ s.livePeers.length < 256 ∧ s.jobBusy = false ∧ num = s.hrc.issued + 1 ∧ (s.takeUp ch).openPeers 0 (peers.filter (fun p => p.member == num)) = some t1 ∧ t1.rget HRC_MEPOCH + 1 < 2 ^ 32 :=
  ⟨jAdm, _, 320, 9, 1, 0, 0, 0, 4, 2, 55, none, [peer2 4], by decide +kernel, by decide +kernel, by decide +kernel, by decide +kernel, by decide +kernel, by decide +kernel, by decide +kernel, some_of (d := up) (by decide +kernel), by decide +kernel⟩

theorem test_meets_JobsAreMadeJoinedAndLeft_3_0 : ∃ (s : State), ∃ (ch : Nat), s.hrc.joinCh = some ch ∧ s.fget HRC_STATUS_STATE = 1 ∧ 100000 * s.fget TMT_SETUP_CTL_SETUP_S ≤ s.pw.onTicks - s.hrc.joinTick :=
  ⟨ticks (jH 1 4 { hrc0 with joinCh := some 5 } |>.fset HRC_STATUS_STATE 1) 500000000, 5, by decide +kernel, by decide +kernel, by decide +kernel⟩

theorem test_meets_JobsAreMadeJoinedAndLeft_3_1 : ∃ (s : State), ∃ (ch : Nat), s.hrc.joinCh = some ch ∧ s.fget HRC_STATUS_STATE = 1 ∧ s.pw.onTicks - s.hrc.joinTick < 100000 * s.fget TMT_SETUP_CTL_SETUP_S :=
  ⟨(jH 1 4 { hrc0 with joinCh := some 5 }).fset HRC_STATUS_STATE 1 |>.fset TMT_SETUP_CTL_SETUP_S 7, 5, by decide +kernel, by decide +kernel, by decide +kernel⟩

theorem test_meets_JobsAreMadeJoinedAndLeft_4_0 : ∃ (s : State), ∃ (ch member : Nat), s.serves ch 0x6A [] .secure false = true :=
  ⟨msg (jSt 1 4) 0 0x6A [], 0, 0, by decide +kernel⟩

theorem test_meets_JobsAreMadeJoinedAndLeft_4_1 : ∃ (s : State), ∃ (ch member : Nat), s.serves ch 0x6A [] .secure false = true ∧ s.inJob = false :=
  ⟨msg (tSt cn []) 0 0x6A [], 0, 0, by decide +kernel, by decide +kernel⟩

theorem test_meets_JobsAreMadeJoinedAndLeft_4_2 : ∃ (s : State), ∃ (ch member : Nat), s.serves ch 0x6A [] .secure false = true ∧ s.inJob = true ∧ s.isManager = false ∧ ch < 320 ∧ s.fon HRC_STATUS_SHRINK = false ∧ s.fget HRC_STATUS_STATE ≠ 1 ∧ s.fget HRC_STATUS_STATE ≠ 3 ∧ s.vrnAble 1 = false :=
  ⟨msg (jSt 1 4) 0 0x6A [], 0, 0, by decide +kernel, by decide +kernel, by decide +kernel, by decide +kernel, by decide +kernel, by decide +kernel, by decide +kernel, by decide +kernel⟩

theorem test_meets_JobsAreMadeJoinedAndLeft_4_3 : ∃ (s : State), ∃ (ch member : Nat), s.serves ch 0x6A [] .secure false = true ∧ s.inJob = true ∧ s.isManager = false ∧ ch < 320 ∧ s.fon HRC_STATUS_SHRINK = false ∧ s.fget HRC_STATUS_STATE ≠ 1 ∧ s.fget HRC_STATUS_STATE ≠ 3 ∧ s.vrnAble 1 = true :=
  ⟨msg { jSt 1 4 with vrn := vrn0 none, cph := { (jSt 1 4).cph with slots := [(1024, { ks 2 with slice := 64 })] } } 0 0x6A [], 0, 0, by decide +kernel, by decide +kernel, by decide +kernel, by decide +kernel, by decide +kernel, by decide +kernel, by decide +kernel, by decide +kernel⟩

theorem test_meets_JobsAreMadeJoinedAndLeft_4_4 : ∃ (s : State), ∃ (ch member : Nat), s.serves ch 0x6A [] .secure false = true ∧ s.isManager = true ∧ ch < 320 :=
  ⟨msg (jSt 0 0) 0 0x6A [], 0, 0, by decide +kernel, by decide +kernel, by decide +kernel⟩

theorem test_meets_JobsAreMadeJoinedAndLeft_5_0 : ∃ (s : State), ∃ (ch member : Nat), ∃ (recs : Option JobRecords), s.serves ch 0x6B [] .secure false = true ∧ ∃ m, s.isManager = true ∧ s.jobBusy = false ∧ smGet s.hrc.members member = some m ∧ m.state = 1 :=
  ⟨msg (jSt 0 0) 0 0x6B [], 0, 2, none, by decide +kernel, mem1 1, by decide +kernel, by decide +kernel, by decide +kernel, by decide +kernel⟩

theorem test_meets_JobsAreMadeJoinedAndLeft_5_1 : ∃ (s : State), ∃ (ch member : Nat), ∃ (recs : Option JobRecords), s.serves ch 0x6B [] .secure false = true ∧ ∃ m, s.isManager = true ∧ s.jobBusy = false ∧ smGet s.hrc.members member = some m ∧ m.state = 1 ∧ s.hrc.deputy = some member :=
  ⟨msg (jH 0 0 { hrc0 with deputy := some 2 }) 0 0x6B [], 0, 2, none, by decide +kernel, mem1 1, by decide +kernel, by decide +kernel, by decide +kernel, by decide +kernel, by decide +kernel⟩

theorem test_meets_JobsAreMadeJoinedAndLeft_5_2 : ∃ (s : State), ∃ (ch member : Nat), ∃ (recs : Option JobRecords), s.serves ch 0x6B [] .secure false = true ∧ s.isManager = true ∧ s.jobBusy = false :=
  ⟨msg (jSt 0 0) 0 0x6B [], 0, 2, none, by decide +kernel, by decide +kernel, by decide +kernel⟩

theorem test_meets_JobsAreMadeJoinedAndLeft_5_3 : ∃ (s : State), ∃ (ch member : Nat), ∃ (recs : Option JobRecords), s.serves ch 0x6B [] .secure false = true ∧ s.inJob = true ∧ s.isManager = false ∧ 320 ≤ ch :=
  ⟨jSt 1 4, 320, 2, none, by decide +kernel, by decide +kernel, by decide +kernel, by decide +kernel⟩

theorem test_meets_JobsAreMadeJoinedAndLeft_6_0 : ∃ (s : State), ∃ (ch : Nat), s.serves ch 0x6C [] .secure false = true ∧ s.isManager = true ∧ s.vrnAble 1 = false :=
  ⟨msg (jSt 0 0) 0 0x6C [], 0, by decide +kernel, by decide +kernel, by decide +kernel⟩

theorem test_meets_JobsAreMadeJoinedAndLeft_6_1 : ∃ (s : State), ∃ (ch : Nat), s.serves ch 0x6D [] .secure false = true ∧ s.inJob = true ∧ s.isManager = false :=
  ⟨msg (jSt 2 4) 0 0x6D [], 0, by decide +kernel, by decide +kernel, by decide +kernel⟩

theorem test_meets_JobsAreMadeJoinedAndLeft_6_2 : ∃ (s : State), ∃ (ch : Nat), s.serves ch 0x6D [] .secure false = true ∧ s.isManager = true ∧ (∀ m ∈ s.hrc.members, m.2.state ≠ 3 ∧ m.2.state ≠ 4) :=
  ⟨msg (jSt 0 0) 0 0x6D [], 0, by decide +kernel, by decide +kernel, by decide +kernel⟩

theorem test_meets_JobHeartbeatsFencesAndMaps_0_0 : ∃ (s : State), s.inJob = false :=
  ⟨tSt cn [], by decide +kernel⟩

theorem test_meets_JobHeartbeatsFencesAndMaps_0_1 : ∃ (s : State), s.pw.onTicks - s.hrc.beatTick < beatPeriod :=
  ⟨jSt 0 0, by decide +kernel⟩

theorem test_meets_JobHeartbeatsFencesAndMaps_0_2 : ∃ (s : State), s.pw.onTicks - s.hrc.periodTick < beatPeriod :=
  ⟨jSt 0 0, by decide +kernel⟩

theorem test_meets_JobHeartbeatsFencesAndMaps_0_3 : ∃ (s : State), s.inJob = true ∧ beatPeriod ≤ s.pw.onTicks - s.hrc.beatTick :=
  ⟨ticks (jSt 0 0) 2000, by decide +kernel, by decide +kernel⟩

theorem test_meets_JobHeartbeatsFencesAndMaps_0_4 : ∃ (s : State), s.inJob = true ∧ s.isManager = false ∧ beatPeriod ≤ s.pw.onTicks - s.hrc.periodTick :=
  ⟨ticks (jSt 2 4) 2000, by decide +kernel, by decide +kernel, by decide +kernel⟩

theorem test_meets_JobHeartbeatsFencesAndMaps_0_5 : ∃ (s : State), s.isManager = true ∧ s.running = true ∧ s.hrc.late = [] ∧ beatPeriod ≤ s.pw.onTicks - s.hrc.periodTick ∧ 2 * ((s.livePeers.filter s.tracks).filter (fun n => (smGet s.hrc.members n).any Member.reaches)).length ≤ (s.livePeers.filter s.tracks).length :=
  ⟨ticks (jH 0 0 { hrc0 with members := [(2, { mem1 1 with heard := false, missed := 4 }), (3, mem1 1)] }) 2000, by decide +kernel, by decide +kernel, by decide +kernel, by decide +kernel, by decide +kernel⟩

theorem test_meets_JobHeartbeatsFencesAndMaps_1_0 : ∃ (s : State), ∃ (beat : List Byte), ∃ (m : Nat), ∃ (x : Member), ∃ (poisoned : List Nat), s.inJob = true ∧ m = leField beat 4 2 ∧ smGet s.hrc.members m = some x ∧ beat.length = 64 ∧ leField beat 0 4 = s.rget HRC_JOB ∧ s.rget HRC_MEPOCH ≤ leField beat 0xC 4 ∧ s.tracks m = true ∧ x.live = true ∧ (leField beat 6 1 ≠ 0 ∨ m = s.hrc.mgr) ∧ (s.isManager = false ∨ bit (leField beat 0x18 2) 2 = false) :=
  ⟨{ jSt 1 4 with vrn := { vrn0 none with ents := [ent1] }, shards := [(runKey hnd 0, false)] }, beatOf 9 2 0 5 0, 2, mem1 1, [3], by decide +kernel, by decide +kernel, by decide +kernel, by decide +kernel, by decide +kernel, by decide +kernel, by decide +kernel, by decide +kernel, by decide +kernel, Or.inr (by decide +kernel)⟩

theorem test_meets_JobHeartbeatsFencesAndMaps_1_1 : ∃ (s : State), ∃ (beat : List Byte), ∃ (m : Nat), ∃ (x : Member), ∃ (poisoned : List Nat), s.inJob = true ∧ m = leField beat 4 2 ∧ smGet s.hrc.members m = some x ∧ beat.length = 64 ∧ leField beat 0 4 = s.rget HRC_JOB ∧ s.rget HRC_MEPOCH ≤ leField beat 0xC 4 ∧ s.tracks m = true ∧ x.live = true ∧ s.isManager = true ∧ s.running = true ∧ bit (leField beat 0x18 2) 2 = true ∧ s.rget HRC_MEPOCH + 1 < 2 ^ 32 :=
  ⟨jSt 0 0, beatOf 9 2 1 5 4, 2, mem1 1, [], by decide +kernel, by decide +kernel, by decide +kernel, by decide +kernel, by decide +kernel, by decide +kernel, by decide +kernel, by decide +kernel, by decide +kernel, by decide +kernel, by decide +kernel, by decide +kernel⟩

theorem test_meets_JobHeartbeatsFencesAndMaps_1_2 : ∃ (s : State), ∃ (beat : List Byte), ∃ (m : Nat), ∃ (x : Member), ∃ (poisoned : List Nat), s.inJob = true ∧ m = leField beat 4 2 ∧ smGet s.hrc.members m = some x ∧ (leField beat 0 4 ≠ s.rget HRC_JOB ∨ leField beat 0xC 4 < s.rget HRC_MEPOCH ∨ x.live = false) :=
  ⟨jSt 0 0, beatOf 8 2 1 5 4, 2, mem1 1, [], by decide +kernel, by decide +kernel, by decide +kernel, Or.inl (by decide +kernel)⟩

theorem test_meets_JobHeartbeatsFencesAndMaps_2_0 : ∃ (s : State), ∃ (f mepoch : Nat), ∃ (m : Member), smGet s.hrc.members f = some m ∧ s.inJob = true ∧ s.running = true ∧ f ≠ s.selfNum ∧ s.isManager = false ∧ (∀ x ∈ s.hrc.fences, x.1 ≠ f) ∧ (∀ c ∈ s.tmt.conns, c.2.probing = none) :=
  ⟨jSt 1 4, 2, 6, mem1 1, by decide +kernel, by decide +kernel, by decide +kernel, by decide +kernel, by decide +kernel, by decide +kernel, by decide +kernel⟩

theorem test_meets_JobHeartbeatsFencesAndMaps_3_0 : ∃ (s : State), ∃ (m f : Nat), ∃ (heirs : List (Nat × Nat)), s.isManager = true ∧ m * 1024 + f ∈ s.hrc.waitFence :=
  ⟨jH 0 0 { hrc0 with waitFence := [2 * 1024 + 3] }, 2, 3, [], by decide +kernel, by decide +kernel⟩

theorem test_meets_JobHeartbeatsFencesAndMaps_3_1 : ∃ (s : State), ∃ (m f : Nat), ∃ (heirs : List (Nat × Nat)), ∃ x b, s.isManager = true ∧ s.hrc.waitFence = [m * 1024 + f] ∧ f ∈ s.hrc.failed ∧ f ∉ s.hrc.ordered ∧ smGet s.hrc.members f = some x ∧ x.buddy = some b ∧ s.survives b = true :=
  ⟨jH 0 0 { hrc0 with members := [(2, mem1 1), (3, { mem1 2 with buddy := some 2 })], waitFence := [2 * 1024 + 3], failed := [3] }, 2, 3, [], { mem1 2 with buddy := some 2 }, 2, by decide +kernel, by decide +kernel, by decide +kernel, by decide +kernel, by decide +kernel, by decide +kernel, by decide +kernel⟩

theorem test_meets_JobHeartbeatsFencesAndMaps_3_2 : ∃ (s : State), ∃ (m f : Nat), ∃ (heirs : List (Nat × Nat)), s.isManager = false :=
  ⟨jSt 1 4, 2, 3, [], by decide +kernel⟩

theorem test_meets_JobHeartbeatsFencesAndMaps_3_3 : ∃ (s : State), ∃ (m f : Nat), ∃ (heirs : List (Nat × Nat)), ∃ x, s.isManager = true ∧ s.running = true ∧ m ≠ s.selfNum ∧ m * 1024 + f ∈ s.hrc.waitFence ∧ 100 * s.fget HRC_CTL_FENCE_MS ≤ s.pw.onTicks - smGetD s.hrc.fenceTicks f 0 ∧ smGet s.hrc.members m = some x ∧ x.live = true :=
  ⟨ticks (jH 0 0 { hrc0 with waitFence := [2 * 1024 + 3] }) 100000000, 2, 3, [], mem1 1, by decide +kernel, by decide +kernel, by decide +kernel, by decide +kernel, by decide +kernel, by decide +kernel, by decide +kernel⟩

theorem test_meets_JobsAreMadeJoinedAndLeft_7_0 : ∃ (s : State), s.hrc.slice ≤ 63 ∧ s.hrc.port ≤ 7 ∧ s.hrc.isoDue = true ∧ s.inJob = true ∧ s.fget HRC_STATUS_STATE ≠ 4 :=
  ⟨jH 1 4 { hrc0 with isoDue := true }, by decide +kernel, by decide +kernel, by decide +kernel, by decide +kernel, by decide +kernel⟩

theorem test_meets_JobHeartbeatsFencesAndMaps_4_0 : ∃ (s : State), ∃ (epoch mepoch jstep : Nat), ∃ (mems : List MapMember), ∃ (remaps : List Remap), s.hrc.slice ≤ 63 ∧ s.hrc.port ≤ 7 ∧ s.inJob = true ∧ s.running = true ∧ epoch ≤ s.newestMap :=
  ⟨jSt 1 4, 0, 5, 6, [], [], by decide +kernel, by decide +kernel, by decide +kernel, by decide +kernel, by decide +kernel⟩

theorem test_meets_JobHeartbeatsFencesAndMaps_4_1 : ∃ (s : State), ∃ (epoch mepoch jstep : Nat), ∃ (mems : List MapMember), ∃ (remaps : List Remap), s.hrc.slice ≤ 63 ∧ s.hrc.port ≤ 7 ∧ s.inJob = true ∧ s.running = true ∧ s.isManager = false ∧ s.newestMap < epoch ∧ s.mapOffered = false ∧ epoch < 2 ^ 32 ∧ mepoch < 2 ^ 32 :=
  ⟨jSt 1 4, 3, 5, 6, [{ num := 2, state := 1, role := 0, buddy := 65535, serial := 55 }], [{ oldMember := 3, newMember := 2, oldHandle := 5, newHandle := 6, step := 7 }], by decide +kernel, by decide +kernel, by decide +kernel, by decide +kernel, by decide +kernel, by decide +kernel, by decide +kernel, by decide +kernel, by decide +kernel⟩

theorem test_meets_JobHeartbeatsFencesAndMaps_4_2 : ∃ (s : State), ∃ (epoch mepoch jstep : Nat), ∃ (mems : List MapMember), ∃ (remaps : List Remap), s.hrc.slice ≤ 63 ∧ s.hrc.port ≤ 7 ∧ s.inJob = true ∧ s.running = true ∧ s.isManager = false ∧ s.newestMap < epoch ∧ s.mapOffered = true ∧ s.hrc.stall = false :=
  ⟨jMap (jmo 2 0), 3, 5, 6, [], [], by decide +kernel, by decide +kernel, by decide +kernel, by decide +kernel, by decide +kernel, by decide +kernel, by decide +kernel, by decide +kernel⟩

theorem test_meets_JobHeartbeatsFencesAndMaps_4_3 : ∃ (s : State), ∃ (epoch mepoch jstep : Nat), ∃ (mems : List MapMember), ∃ (remaps : List Remap), s.hrc.slice ≤ 63 ∧ s.hrc.port ≤ 7 ∧ s.inJob = true ∧ s.running = true ∧ s.isManager = true ∧ epoch = s.newestMap + 1 ∧ epoch < 2 ^ 32 ∧ s.mapOffered = false ∧ s.hrc.waitFence = [] ∧ (remaps = [] ∨ s.isolateWaited = true) :=
  ⟨jSt 0 0, 1, 5, 6, [], [], by decide +kernel, by decide +kernel, by decide +kernel, by decide +kernel, by decide +kernel, by decide +kernel, by decide +kernel, by decide +kernel, by decide +kernel, Or.inl rfl⟩

theorem test_meets_JobHeartbeatsFencesAndMaps_5_0 : ∃ (s s1 : State), ∃ (got : HostData), ∃ (o : JobMapOut), ∃ (bs : List Byte), s.hrc.map = some o ∧ 100 ≤ s.pw.onTicks - o.poll ∧ (s.setHrc { s.hrc with map := some { o with poll := s.pw.onTicks } }).hostGet s.hrc.port s.hrc.slice (s.curGen s.hrc.slice) (s.hrc.area + 0x1E) 2 got = (s1, (.ok, bs)) ∧ bs.length = 2 ∧ leVal bs ≠ 0 :=
  ⟨(ticks (jMap (jmo 2 0)) 100), (((ticks (jMap (jmo 2 0)) 100).setHrc { (ticks (jMap (jmo 2 0)) 100).hrc with map := some { jmo 2 0 with poll := 100 } }).hostGet 0 1 0 (0x4000000 + 0x1E) 2 (.ok, [1, 0])).1, (.ok, [1, 0]), jmo 2 0, [1, 0], by decide +kernel, by decide +kernel, by decide +kernel, by decide +kernel, by decide +kernel⟩

theorem test_meets_JobHeartbeatsFencesAndMaps_5_1 : ∃ (s s1 : State), ∃ (got : HostData), ∃ (o : JobMapOut), ∃ (bs : List Byte), s.hrc.map = some o ∧ 100 ≤ s.pw.onTicks - o.poll ∧ (s.setHrc { s.hrc with map := some { o with poll := s.pw.onTicks } }).hostGet s.hrc.port s.hrc.slice (s.curGen s.hrc.slice) (s.hrc.area + 0x1E) 2 got = (s1, (.ok, bs)) ∧ bs.length = 2 ∧ leVal bs = 0 ∧ o.index + 1 < o.parts.length :=
  ⟨(ticks (jMap (jmo 2 0)) 100), (((ticks (jMap (jmo 2 0)) 100).setHrc { (ticks (jMap (jmo 2 0)) 100).hrc with map := some { jmo 2 0 with poll := 100 } }).hostGet 0 1 0 (0x4000000 + 0x1E) 2 (.ok, [0, 0])).1, (.ok, [0, 0]), jmo 2 0, [0, 0], by decide +kernel, by decide +kernel, by decide +kernel, by decide +kernel, by decide +kernel, by decide +kernel⟩

theorem test_meets_JobHeartbeatsFencesAndMaps_5_2 : ∃ (s s1 : State), ∃ (got : HostData), ∃ (o : JobMapOut), ∃ (bs : List Byte), s.hrc.map = some o ∧ 100 ≤ s.pw.onTicks - o.poll ∧ (s.setHrc { s.hrc with map := some { o with poll := s.pw.onTicks } }).hostGet s.hrc.port s.hrc.slice (s.curGen s.hrc.slice) (s.hrc.area + 0x1E) 2 got = (s1, (.ok, bs)) ∧ bs.length = 2 ∧ leVal bs = 0 ∧ o.parts.length ≤ o.index + 1 ∧ s.hrc.maps = [] :=
  ⟨(ticks (jMap (jmo 2 1)) 100), (((ticks (jMap (jmo 2 1)) 100).setHrc { (ticks (jMap (jmo 2 1)) 100).hrc with map := some { jmo 2 1 with poll := 100 } }).hostGet 0 1 0 (0x4000000 + 0x1E) 2 (.ok, [0, 0])).1, (.ok, [0, 0]), jmo 2 1, [0, 0], by decide +kernel, by decide +kernel, by decide +kernel, by decide +kernel, by decide +kernel, by decide +kernel, by decide +kernel⟩

theorem test_meets_JobHeartbeatsFencesAndMaps_5_3 : ∃ (s s1 : State), ∃ (got : HostData), ∃ (o : JobMapOut), ∃ (bs : List Byte), s.hrc.map = some o ∧ 100 ≤ s.pw.onTicks - o.poll ∧ (s.setHrc { s.hrc with map := some { o with poll := s.pw.onTicks } }).hostGet s.hrc.port s.hrc.slice (s.curGen s.hrc.slice) (s.hrc.area + 0x1E) 2 got = (s1, (.ok, bs)) ∧ bs.length = 2 ∧ ∃ n ns, leVal bs = 0 ∧ o.parts.length ≤ o.index + 1 ∧ s.hrc.maps = n :: ns :=
  ⟨(ticks (jH 1 4 { hrc0 with map := some (jmo 2 1), maps := [jmo 1 0] }) 100), (((ticks (jH 1 4 { hrc0 with map := some (jmo 2 1), maps := [jmo 1 0] }) 100).setHrc { (ticks (jH 1 4 { hrc0 with map := some (jmo 2 1), maps := [jmo 1 0] }) 100).hrc with map := some { jmo 2 1 with poll := 100 } }).hostGet 0 1 0 (0x4000000 + 0x1E) 2 (.ok, [0, 0])).1, (.ok, [0, 0]), jmo 2 1, [0, 0], by decide +kernel, by decide +kernel, by decide +kernel, by decide +kernel, jmo 1 0, ([] : List JobMapOut), by decide +kernel, by decide +kernel, by decide +kernel⟩

theorem test_meets_JobHeartbeatsFencesAndMaps_5_4 : ∃ (s s1 : State), ∃ (got : HostData), ∃ (o : JobMapOut), ∃ (bs : List Byte), s.hrc.map = some o ∧ s.pw.onTicks - o.poll < 100 :=
  ⟨jMap (jmo 2 1), up, (.ok, []), jmo 2 1, [], by decide +kernel, by decide +kernel⟩

theorem test_meets_JobHeartbeatsFencesAndMaps_5_5 : ∃ (s s1 : State), ∃ (got : HostData), ∃ (o : JobMapOut), ∃ (bs : List Byte), s.hrc.map = some o ∧ o.parts.length ≠ 1 ∧ 1000000 ≤ s.pw.onTicks - o.since :=
  ⟨ticks (jMap (jmo 2 1)) 1000000, up, (.ok, []), jmo 2 1, [], by decide +kernel, by decide +kernel, by decide +kernel⟩

theorem test_meets_JobHeartbeatsFencesAndMaps_5_6 : ∃ (s s1 : State), ∃ (got : HostData), ∃ (o : JobMapOut), ∃ (bs : List Byte), s.hrc.map = some o ∧ s.pw.onTicks - o.since < 1000000 :=
  ⟨jMap (jmo 2 1), up, (.ok, []), jmo 2 1, [], by decide +kernel, by decide +kernel⟩

theorem test_meets_JobHeartbeatsFencesAndMaps_6_0 : ∃ (s : State), ∃ (acked : List Nat), ∃ (sizes : List MemberSize), s.inJob = true ∧ s.running = true ∧ s.isManager = false ∧ s.fget HRC_STATUS_STATE = 2 :=
  ⟨jSt 1 4, [], [], by decide +kernel, by decide +kernel, by decide +kernel, by decide +kernel⟩

theorem test_meets_JobHeartbeatsFencesAndMaps_6_1 : ∃ (s : State), ∃ (acked : List Nat), ∃ (sizes : List MemberSize), s.inJob = true ∧ s.running = true ∧ s.isManager = true ∧ s.hrc.waitFence ≠ [] :=
  ⟨jH 0 0 { hrc0 with waitFence := [2 * 1024 + 3] }, [], [], by decide +kernel, by decide +kernel, by decide +kernel, by decide +kernel⟩

theorem test_meets_JobHeartbeatsFencesAndMaps_6_2 : ∃ (s : State), ∃ (acked : List Nat), ∃ (sizes : List MemberSize), s.inJob = true ∧ s.running = true ∧ s.isManager = true ∧ s.fget HRC_STATUS_STATE = 2 ∧ s.hrc.waitFence = [] ∧ (∀ m ∈ s.livePeers, m ∈ acked) ∧ (∀ o, s.hrc.map = some o → o.acked = true) ∧ (∀ o ∈ s.hrc.maps, o.acked = true) ∧ s.hrc.failed = [] :=
  ⟨jSt 0 0, [2, 3], [], by decide +kernel, by decide +kernel, by decide +kernel, by decide +kernel, by decide +kernel, by decide +kernel, (by intro o h; cases h), by decide +kernel, by decide +kernel⟩

theorem test_meets_JobHeartbeatsFencesAndMaps_6_3 : ∃ (s : State), ∃ (acked : List Nat), ∃ (sizes : List MemberSize), s.inJob = true ∧ s.running = true ∧ ∃ hold r, s.isManager = false ∧ (s.fset HRC_STATUS_SHRINK 0).holdLeases hold = some r :=
  ⟨jSt 1 4, [], [], by decide +kernel, by decide +kernel, [], (jSt 1 4).fset HRC_STATUS_SHRINK 0, by decide +kernel, by decide +kernel⟩

theorem test_meets_JobHeartbeatsFencesAndMaps_6_4 : ∃ (s : State), ∃ (acked : List Nat), ∃ (sizes : List MemberSize), s.inJob = true ∧ s.running = true ∧ ∃ g r, s.isManager = false ∧ (s.fset HRC_STATUS_SHRINK 0).takeGrant g = some r ∧ s.vrn.buddy ≠ some g.buddy :=
  ⟨jGr, [], [], by decide +kernel, by decide +kernel, jGrant, _, by decide +kernel, some_of (d := up) (by decide +kernel), by decide +kernel⟩

theorem test_meets_JobsAreMadeJoinedAndLeft_8_0 : ∃ (s : State), s.hrc.takeOk = true ∧ s.running = true ∧ s.inJob = true ∧ s.fget HRC_STATUS_ROLE = 2 :=
  ⟨jH 2 4 { hrc0 with takeOk := true, unfenced := [3] }, by decide +kernel, by decide +kernel, by decide +kernel, by decide +kernel⟩

theorem test_meets_JobsAreMadeJoinedAndLeft_8_1 : ∃ (s : State), s.hrc.takeOk = false :=
  ⟨jSt 2 4, by decide +kernel⟩

theorem test_meets_JobsAreMadeJoinedAndLeft_9_0 : ∃ (s s1 : State), ∃ (peer : CtlPeer), ∃ (m : Member), ∃ (c n : Nat), ∃ (x : Conn), smGet s.hrc.members peer.member = some m ∧ m.conn = some c ∧ s.conn c = some x ∧ m.live = true ∧ s.running = true ∧ x.state = 4 ∧ s.openCtl peer false (some x) = some (s1, n) :=
  ⟨{ jSt 0 0 with tmt := tmt0 { dcn with state := 4 } [] }, _, peer2 2, mem1 1, 40, _, { dcn with state := 4 }, by decide +kernel, by decide +kernel, by decide +kernel, by decide +kernel, by decide +kernel, by decide +kernel, some_of (d := (up, 0)) (by decide +kernel)⟩

theorem test_meets_JobsAreMadeJoinedAndLeft_9_1 : ∃ (s s1 : State), ∃ (peer : CtlPeer), ∃ (m : Member), ∃ (c n : Nat), ∃ (x : Conn), smGet s.hrc.members peer.member = some m ∧ m.conn = some c ∧ s.conn c = some x ∧ m.live = true ∧ s.running = true ∧ x.state ≠ 4 :=
  ⟨jSt 0 0, up, peer2 2, mem1 1, 40, 0, dcn, by decide +kernel, by decide +kernel, by decide +kernel, by decide +kernel, by decide +kernel, by decide +kernel⟩

theorem test_meets_JobsAreMadeJoinedAndLeft_10_0 : ∃ (s s1 : State), ∃ (peer : CtlPeer), ∃ (m : Member), ∃ (n : Nat), smGet s.hrc.members peer.member = some m ∧ m.conn = none ∧ s.tracks peer.member = true ∧ s.running = true ∧ s.openCtl peer false none = some (s1, n) :=
  ⟨jCon, _, peer2 2, { mem1 1 with conn := none }, _, by decide +kernel, by decide +kernel, by decide +kernel, by decide +kernel, some_of (d := (up, 0)) (by decide +kernel)⟩

theorem test_meets_JobHeartbeatsFencesAndMaps_6_5 : ∃ (s : State), ∃ (acked : List Nat), ∃ (sizes : List MemberSize), s.inJob = true ∧ s.running = true ∧ ∃ g r, s.isManager = false ∧ (s.fset HRC_STATUS_SHRINK 0).takeGrant g = some r ∧ s.vrn.buddy ≠ some g.buddy ∧ ∃ k b, smGet r.shards k = some b :=
  ⟨jGr, [], [], by decide +kernel, by decide +kernel, jGrant, _, by decide +kernel, some_of (d := up) (by decide +kernel), by decide +kernel, runKey hnd 0, true, by decide +kernel⟩

theorem test_meets_MailboxesCarryCommandsAndNotices_0_0 : ∃ (s u : State), ∃ (who : MbxPath), ∃ (ch hdr : Nat), ch < 320 ∧ s.pw.devReset = false ∧ u = s.mbxWake who ∧ u.mbxReach who (ch / 32) (ch % 32) = .served ∧ u.fon MBX_CH_STATUS_IN_FULL 0 (ch / 32) (ch % 32) = false :=
  ⟨base.rset MBX_SEC 1, base.rset MBX_SEC 1, .port 0, 1, 0x501, by decide +kernel, by decide +kernel, by decide +kernel, by decide +kernel, by decide +kernel⟩

theorem test_meets_MailboxesCarryCommandsAndNotices_0_1 : ∃ (s u : State), ∃ (who : MbxPath), ∃ (ch hdr : Nat), ch < 320 ∧ s.pw.devReset = false ∧ u = s.mbxWake who ∧ u.mbxReach who (ch / 32) (ch % 32) = .served ∧ u.fon MBX_CH_STATUS_IN_FULL 0 (ch / 32) (ch % 32) = true :=
  ⟨mbSt 0x501, mbSt 0x501, .atelier, 1, 0x601, by decide +kernel, by decide +kernel, by decide +kernel, by decide +kernel, by decide +kernel⟩

theorem test_meets_MailboxesCarryCommandsAndNotices_0_2 : ∃ (s u : State), ∃ (who : MbxPath), ∃ (ch hdr : Nat), ch < 320 ∧ s.pw.devReset = false ∧ u = s.mbxWake who ∧ u.mbxReach who (ch / 32) (ch % 32) = .secDenied :=
  ⟨base.rset MBX_SEC 0, base.rset MBX_SEC 0, .port 7, 225, 0x601, by decide +kernel, by decide +kernel, by decide +kernel, by decide +kernel⟩

theorem test_meets_MailboxesCarryCommandsAndNotices_1_0 : ∃ (s : State), ∃ (p b c : Nat), p ≤ 7 ∧ c < 32 ∧ b ≠ p :=
  ⟨base, 7, 0, 31, by decide +kernel, by decide +kernel, by decide +kernel⟩

theorem test_meets_MailboxesCarryCommandsAndNotices_1_1 : ∃ (s : State), ∃ (p b c : Nat), p ≤ 7 ∧ c < 32 ∧ c < 16 :=
  ⟨base, 7, 0, 15, by decide +kernel, by decide +kernel, by decide +kernel⟩

theorem test_meets_MailboxesCarryCommandsAndNotices_1_2 : ∃ (s : State), ∃ (p b c : Nat), p ≤ 7 ∧ c < 32 ∧ 16 ≤ c :=
  ⟨base, 7, 0, 16, by decide +kernel, by decide +kernel, by decide +kernel⟩

theorem test_meets_MailboxesCarryCommandsAndNotices_1_3 : ∃ (s : State), ∃ (p b c : Nat), p ≤ 7 ∧ c < 32 ∧ ∃ (sl : Nat), 16 ≤ c :=
  ⟨base, 7, 0, 31, by decide +kernel, by decide +kernel, 1, by decide +kernel⟩

theorem test_meets_MailboxesCarryCommandsAndNotices_2_0 : ∃ (t : State), ∃ (ch h : Nat), ch < 320 ∧ t.fon MBX_CH_STATUS_IN_FULL 0 (ch / 32) (ch % 32) = true ∧ ch ∉ t.mbx.busy ∧ t.fwRuns = true ∧ t.bootState ≠ 8 ∧ h = t.rget MBX_IN 0 (ch / 32) (ch % 32) 0 ∧ smGet t.mbx.acked ch = some (getBits h 15 8 + 1) :=
  ⟨acked1 (mbSt 0x501), 1, 0x501, by decide +kernel, by decide +kernel, by decide +kernel, by decide +kernel, by decide +kernel, by decide +kernel, by decide +kernel⟩

theorem test_meets_MailboxesCarryCommandsAndNotices_2_1 : ∃ (t : State), ∃ (ch h : Nat), ch < 320 ∧ t.fon MBX_CH_STATUS_IN_FULL 0 (ch / 32) (ch % 32) = true ∧ ch ∉ t.mbx.busy ∧ t.fwRuns = true ∧ t.bootState ≠ 8 ∧ h = t.rget MBX_IN 0 (ch / 32) (ch % 32) 0 ∧ smGet t.mbx.acked ch = none ∧ 16 ≤ ch % 32 ∧ t.fon MBX_CH_BIND_VALID 0 (ch / 32) (ch % 32) = false :=
  ⟨noBind (mb16 0x501), 16, 0x501, by decide +kernel, by decide +kernel, by decide +kernel, by decide +kernel, by decide +kernel, by decide +kernel, by decide +kernel, by decide +kernel, by decide +kernel⟩

theorem test_meets_MailboxesCarryCommandsAndNotices_2_2 : ∃ (t : State), ∃ (ch h : Nat), ch < 320 ∧ t.fon MBX_CH_STATUS_IN_FULL 0 (ch / 32) (ch % 32) = true ∧ ch ∉ t.mbx.busy ∧ t.fwRuns = true ∧ t.bootState ≠ 8 ∧ h = t.rget MBX_IN 0 (ch / 32) (ch % 32) 0 ∧ smGet t.mbx.acked ch = none ∧ ch % 32 < 16 ∧ (getBits h 31 17 ≠ 0 ∨ listedCmd (getBits h 7 0) = false) :=
  ⟨mbSt 0x20501, 1, 0x20501, by decide +kernel, by decide +kernel, by decide +kernel, by decide +kernel, by decide +kernel, by decide +kernel, by decide +kernel, by decide +kernel, Or.inl (by decide +kernel)⟩

theorem test_meets_MailboxesCarryCommandsAndNotices_2_3 : ∃ (t : State), ∃ (ch h : Nat), ch < 320 ∧ t.fon MBX_CH_STATUS_IN_FULL 0 (ch / 32) (ch % 32) = true ∧ ch ∉ t.mbx.busy ∧ t.fwRuns = true ∧ t.bootState ≠ 8 ∧ h = t.rget MBX_IN 0 (ch / 32) (ch % 32) 0 ∧ smGet t.mbx.acked ch = none ∧ ch % 32 < 16 ∧ getBits h 31 17 = 0 ∧ listedCmd (getBits h 7 0) = true ∧ badWord (getBits h 7 0) (t.rget MBX_IN 0 (ch / 32) (ch % 32) 1) (t.rget MBX_IN 0 (ch / 32) (ch % 32) 2) = 0 :=
  ⟨mbSt 0x501, 1, 0x501, by decide +kernel, by decide +kernel, by decide +kernel, by decide +kernel, by decide +kernel, by decide +kernel, by decide +kernel, by decide +kernel, by decide +kernel, by decide +kernel, by decide +kernel⟩

theorem test_meets_MailboxesCarryCommandsAndNotices_2_4 : ∃ (t : State), ∃ (ch h : Nat), ch < 320 ∧ t.fon MBX_CH_STATUS_IN_FULL 0 (ch / 32) (ch % 32) = true ∧ ch ∉ t.mbx.busy ∧ t.fwRuns = true ∧ t.bootState ≠ 8 ∧ h = t.rget MBX_IN 0 (ch / 32) (ch % 32) 0 ∧ ∃ w, smGet t.mbx.acked ch = none ∧ ch % 32 < 16 ∧ getBits h 31 17 = 0 ∧ listedCmd (getBits h 7 0) = true ∧ getBits h 7 0 ≠ 0x60 ∧ getBits h 7 0 ≠ 0x72 ∧ w = badWord (getBits h 7 0) (t.rget MBX_IN 0 (ch / 32) (ch % 32) 1) (t.rget MBX_IN 0 (ch / 32) (ch % 32) 2) ∧ w ≠ 0 :=
  ⟨mbSt 0x579, 1, 0x579, by decide +kernel, by decide +kernel, by decide +kernel, by decide +kernel, by decide +kernel, by decide +kernel, 1, by decide +kernel, by decide +kernel, by decide +kernel, by decide +kernel, by decide +kernel, by decide +kernel, by decide +kernel, by decide +kernel⟩

theorem test_meets_MailboxesCarryCommandsAndNotices_3_0 : ∃ (t : State), ∃ (ch h : Nat), ch < 320 ∧ t.fon MBX_CH_STATUS_IN_FULL 0 (ch / 32) (ch % 32) = true ∧ ch ∉ t.mbx.busy ∧ t.bootState = 8 ∧ h = t.rget MBX_IN 0 (ch / 32) (ch % 32) 0 ∧ (ch % 32 = 0 ∨ ch % 32 = 16) ∧ diagCmd (getBits h 7 0) = true :=
  ⟨failed (mb0 0x501), 0, 0x501, by decide +kernel, by decide +kernel, by decide +kernel, by decide +kernel, by decide +kernel, Or.inl rfl, by decide +kernel⟩

theorem test_meets_MailboxesCarryCommandsAndNotices_3_1 : ∃ (t : State), ∃ (ch h : Nat), ch < 320 ∧ t.fon MBX_CH_STATUS_IN_FULL 0 (ch / 32) (ch % 32) = true ∧ ch ∉ t.mbx.busy ∧ t.bootState = 8 ∧ h = t.rget MBX_IN 0 (ch / 32) (ch % 32) 0 ∧ (ch % 32 ≠ 0 ∧ ch % 32 ≠ 16 ∨ diagCmd (getBits h 7 0) = false) :=
  ⟨failed (mbSt 0x501), 1, 0x501, by decide +kernel, by decide +kernel, by decide +kernel, by decide +kernel, by decide +kernel, Or.inl (by decide +kernel)⟩

theorem test_meets_MailboxesCarryCommandsAndNotices_4_0 : ∃ (s : State), ∃ (ch : Nat), ∃ (q : NoticeQueue), ∃ (n : Notice), ∃ (rest : List Notice), ch < 320 ∧ s.fon MBX_CH_STATUS_OUT_FULL 0 (ch / 32) (ch % 32) = false ∧ s.noticeQueue ch = some q ∧ q.items = n :: rest ∧ s.delivers n = true ∧ n.kind < 256 :=
  ⟨ntSt, 0, nq1, note1, [], by decide +kernel, by decide +kernel, by decide +kernel, by decide +kernel, by decide +kernel, by decide +kernel⟩

theorem test_meets_MailboxesCarryCommandsAndNotices_5_0 : ∃ (s u : State), ∃ (who : MbxPath), ∃ (ch val : Nat), ch < 320 ∧ s.pw.devReset = false ∧ u = s.mbxWake who ∧ u.mbxReach who (ch / 32) (ch % 32) = .served ∧ getBits val 23 16 = getBits (u.rget MBX_OUT 0 (ch / 32) (ch % 32) 0) 15 8 :=
  ⟨(base.fset MBX_CH_STATUS_OUT_FULL 1 0 0 1).rset MBX_OUT 0x305 0 0 1 0, (base.fset MBX_CH_STATUS_OUT_FULL 1 0 0 1).rset MBX_OUT 0x305 0 0 1 0, .atelier, 1, 0x30000, by decide +kernel, by decide +kernel, by decide +kernel, by decide +kernel, by decide +kernel⟩

theorem test_meets_MailboxesCarryCommandsAndNotices_5_1 : ∃ (s u : State), ∃ (who : MbxPath), ∃ (ch val : Nat), ch < 320 ∧ s.pw.devReset = false ∧ u = s.mbxWake who ∧ u.mbxReach who (ch / 32) (ch % 32) = .served ∧ getBits val 23 16 ≠ getBits (u.rget MBX_OUT 0 (ch / 32) (ch % 32) 0) 15 8 :=
  ⟨(base.fset MBX_CH_STATUS_OUT_FULL 1 0 0 1).rset MBX_OUT 0x305 0 0 1 0, (base.fset MBX_CH_STATUS_OUT_FULL 1 0 0 1).rset MBX_OUT 0x305 0 0 1 0, .atelier, 1, 0x40000, by decide +kernel, by decide +kernel, by decide +kernel, by decide +kernel, by decide +kernel⟩

theorem test_meets_MailboxesCarryCommandsAndNotices_6_0 : ∃ (s u : State), ∃ (who : MbxPath), ∃ (b d : Nat), b ≤ 9 ∧ d ≤ 15 ∧ s.pw.devReset = false ∧ u = s.mbxWake who ∧ u.hbReach who b d = .served ∧ u.slotSlices b d ≠ [] :=
  ⟨hbSt, hbSt, .grant 0 1, 0, 3, by decide +kernel, by decide +kernel, by decide +kernel, by decide +kernel, by decide +kernel, by decide +kernel⟩

theorem test_meets_MailboxesCarryCommandsAndNotices_6_1 : ∃ (s u : State), ∃ (who : MbxPath), ∃ (b d : Nat), b ≤ 9 ∧ d ≤ 15 ∧ s.pw.devReset = false ∧ u = s.mbxWake who ∧ ∃ p, u.hbReach who b d = .refused p :=
  ⟨hbSt, hbSt, .grant 0 1, 0, 4, by decide +kernel, by decide +kernel, by decide +kernel, by decide +kernel, 0, by decide +kernel⟩

theorem test_meets_MailboxesCarryCommandsAndNotices_7_0 : ∃ (s : State), ∃ (ch b c w3 entry g sl : Nat), s.serves ch 0x0C [(1, b), (2, c), (3, w3)] .secure false = true ∧ b ≤ 9 ∧ 16 ≤ c ∧ c ≤ 31 ∧ getBits w3 30 6 = 0 ∧ sl = w3 % 64 ∧ (s.takeUp ch).mbx.busy.contains (32 * b + c) = false ∧ bit w3 31 = true ∧ s.slLive sl = true ∧ (b < 8 → s.freeEntry b entry = some g) :=
  ⟨msg base 0 0x0C [(1, 7), (2, 31), (3, 2 ^ 31 + 1)], 0, 7, 31, 2 ^ 31 + 1, 3, 3, 1, by decide +kernel, by decide +kernel, by decide +kernel, by decide +kernel, by decide +kernel, by decide +kernel, by decide +kernel, by decide +kernel, by decide +kernel, by decide +kernel⟩

theorem test_meets_MailboxesCarryCommandsAndNotices_7_1 : ∃ (s : State), ∃ (ch b c w3 entry g sl : Nat), s.serves ch 0x0C [(1, b), (2, c), (3, w3)] .secure false = true ∧ b ≤ 9 ∧ 16 ≤ c ∧ c ≤ 31 ∧ getBits w3 30 6 = 0 ∧ sl = w3 % 64 ∧ (s.takeUp ch).mbx.busy.contains (32 * b + c) = false ∧ bit w3 31 = false :=
  ⟨msg base 0 0x0C [(1, 0), (2, 16), (3, 1)], 0, 0, 16, 1, 3, 3, 1, by decide +kernel, by decide +kernel, by decide +kernel, by decide +kernel, by decide +kernel, by decide +kernel, by decide +kernel, by decide +kernel⟩

theorem test_meets_MailboxesCarryCommandsAndNotices_9_0 : ∃ (s : State), ∃ (ch addr len enc rstk off depth sl : Nat), ∃ (loads : List ProgPlace), s.serves ch 0x28 [] .bound true = true ∧ sl = s.servedSlice ch 0 ∧ enc ≤ 1 ∧ rstk ≤ 1 ∧ 0 < len ∧ len ≤ 0x40000 ∧ off % 64 = 0 ∧ 0 < depth ∧ off + 64 * depth ≤ 0x40000 ∧ addr < 2 ^ 48 ∧ s.accessErr sl addr len false = none ∧ s.serialLeft sl = true :=
  ⟨msg base 16 0x28 [], 16, 0x1000, 64, 1, 1, 64, 4095, 1, [], by decide +kernel, by decide +kernel, by decide +kernel, by decide +kernel, by decide +kernel, by decide +kernel, by decide +kernel, by decide +kernel, by decide +kernel, by decide +kernel, by decide +kernel, by decide +kernel⟩

theorem test_meets_MailboxesCarryCommandsAndNotices_9_0a : ∃ (s : State), ∃ (ch addr len enc rstk off depth sl : Nat), ∃ (loads : List ProgPlace), s.serves ch 0x28 [] .bound true = true ∧ sl = s.servedSlice ch 0 ∧ enc ≤ 1 ∧ rstk ≤ 1 ∧ 0 < len ∧ len ≤ 0x40000 ∧ off % 64 = 0 ∧ 0 < depth ∧ off + 64 * depth ≤ 0x40000 ∧ addr < 2 ^ 48 ∧ s.accessErr sl addr len false = none ∧ s.serialLeft sl = true :=
  ⟨msg (base.fset BRS_CTL_SLICE 1 2) 16 0x28 [], 16, 0x1000, 64, 1, 1, 64, 4095, 1, [{ b := 2, pc := 8, trapEn := true, tvec := 64, tmask := 6 }], by decide +kernel, by decide +kernel, by decide +kernel, by decide +kernel, by decide +kernel, by decide +kernel, by decide +kernel, by decide +kernel, by decide +kernel, by decide +kernel, by decide +kernel, by decide +kernel⟩

theorem test_meets_MailboxesCarryCommandsAndNotices_10_0 : ∃ (s : State), ∃ (ch h sl : Nat), s.serves ch 0x29 [(1, h)] .bound false = true ∧ sl = s.servedSlice ch 0 ∧ h ≠ 0 ∧ s.progOk sl h = true ∧ s.progUsed h = false :=
  ⟨msg (pgSt tbl1) 16 0x29 [(1, hnd)], 16, hnd, 1, by decide +kernel, by decide +kernel, by decide +kernel, by decide +kernel, by decide +kernel⟩

theorem test_meets_MailboxesCarryCommandsAndNotices_10_1 : ∃ (s : State), ∃ (ch h sl : Nat), s.serves ch 0x29 [(1, h)] .bound false = true ∧ sl = s.servedSlice ch 0 ∧ h ≠ 0 ∧ s.progOk sl h = true ∧ s.progUsed h = true :=
  ⟨msg (pgSt { tbl1 with prog := hnd }) 16 0x29 [(1, hnd)], 16, hnd, 1, by decide +kernel, by decide +kernel, by decide +kernel, by decide +kernel, by decide +kernel⟩

theorem test_meets_MailboxesCarryCommandsAndNotices_8_0 : ∃ (s : State), ∃ (ch index : Nat), ∃ r, s.serves ch 1 [(1, index)] .diag false = true ∧ s.atl.crashLog[index]? = some r :=
  ⟨msg { base with atl := { base.atl with crashLog := [List.replicate 28 1] } } 0 1 [(1, 0)], 0, 0, List.replicate 28 1, by decide +kernel, by decide +kernel⟩

theorem test_meets_MailboxesCarryCommandsAndNotices_8_1 : ∃ (s : State), ∃ (ch index : Nat), s.serves ch 1 [(1, index)] .diag false = true ∧ s.atl.crashLog[index]? = none :=
  ⟨msg base 0 1 [(1, 63)], 0, 63, by decide +kernel, by decide +kernel⟩

theorem test_meets_MailboxesCarryCommandsAndNotices_8_2 : ∃ (s : State), ∃ (ch index : Nat), s.serves ch 0 [] .diag false = true :=
  ⟨msg base 0 0 [], 0, 63, by decide +kernel⟩

theorem test_meets_CountersAndDumpSets_0_0 : ∃ (s : State), ∃ (ch inst ev w3 units sl k : Nat), s.serves ch 0x70 [(1, inst), (2, ev), (3, w3)] .either false = true ∧ ch < 320 ∧ 16 ≤ ch % 32 ∧ sl = s.servedSlice ch 64 ∧ inst ≤ 19 ∧ pmuEvent inst (ev % 256) = some (units, true) ∧ ev / 256 < units ∧ k < 12 ∧ s.fon PMU_OWNER_VALID inst k = false ∧ bit w3 0 = false ∧ (s.countersOf sl).length < 64 ∧ (∀ j, j < k → s.fon PMU_OWNER_VALID inst j = true) :=
  ⟨msg (tSt cn []) 16 0x70 [(1, 1), (2, 1), (3, 0)], 16, 1, 1, 0, 2, 1, 0, by decide +kernel, by decide +kernel, by decide +kernel, by decide +kernel, by decide +kernel, by decide +kernel, by decide +kernel, by decide +kernel, by decide +kernel, by decide +kernel, by decide +kernel, by decide +kernel⟩

theorem test_meets_CountersAndDumpSets_0_0a : ∃ (s : State), ∃ (ch inst ev w3 units sl k : Nat), s.serves ch 0x70 [(1, inst), (2, ev), (3, w3)] .either false = true ∧ ch < 320 ∧ 16 ≤ ch % 32 ∧ sl = s.servedSlice ch 64 ∧ inst ≤ 19 ∧ pmuEvent inst (ev % 256) = some (units, true) ∧ ev / 256 < units ∧ k < 12 ∧ s.fon PMU_OWNER_VALID inst k = false ∧ bit w3 0 = false ∧ (s.countersOf sl).length < 64 ∧ (∀ j, j < k → s.fon PMU_OWNER_VALID inst j = true) :=
  ⟨msg cnS 16 0x70 [(1, 1), (2, 0x1733), (3, 0)], 16, 1, 0x1733, 0, 24, 1, 2, by decide +kernel, by decide +kernel, by decide +kernel, by decide +kernel, by decide +kernel, by decide +kernel, by decide +kernel, by decide +kernel, by decide +kernel, by decide +kernel, by decide +kernel, by decide +kernel⟩

theorem test_meets_CountersAndDumpSets_0_1 : ∃ (s : State), ∃ (ch inst ev w3 units sl k : Nat), s.serves ch 0x70 [(1, inst), (2, ev), (3, w3)] .either false = true ∧ ch < 320 ∧ 16 ≤ ch % 32 ∧ sl = s.servedSlice ch 64 ∧ inst ≤ 19 ∧ pmuEvent inst (ev % 256) = some (units, true) ∧ ev / 256 < units ∧ k < 12 ∧ s.fon PMU_OWNER_VALID inst k = false ∧ bit w3 0 = true ∧ (s.countersOf sl).length < 63 ∧ k % 2 = 0 ∧ s.fon PMU_OWNER_VALID inst (k + 1) = false ∧ (∀ j, j < k → j % 2 = 0 → s.fon PMU_OWNER_VALID inst j = true ∨ s.fon PMU_OWNER_VALID inst (j + 1) = true) :=
  ⟨msg cnS 16 0x70 [(1, 1), (2, 0x1733), (3, 1)], 16, 1, 0x1733, 1, 24, 1, 2, by decide +kernel, by decide +kernel, by decide +kernel, by decide +kernel, by decide +kernel, by decide +kernel, by decide +kernel, by decide +kernel, by decide +kernel, by decide +kernel, by decide +kernel, by decide +kernel, by decide +kernel, by decide +kernel⟩

theorem test_meets_CountersAndDumpSets_1_0 : ∃ (s : State), ∃ (ch inst ev w3 units k : Nat), ∃ (perSlice : Bool), s.serves ch 0x70 [(1, inst), (2, ev), (3, w3)] .either false = true ∧ (320 ≤ ch ∨ ch % 32 < 16) ∧ inst ≤ 19 ∧ pmuEvent inst (ev % 256) = some (units, perSlice) ∧ ev / 256 < units ∧ k < 12 ∧ s.fon PMU_OWNER_VALID inst k = false ∧ (∀ j, j < k → s.fon PMU_OWNER_VALID inst j = true) ∧ w3 = 0xFF :=
  ⟨msg cnS 0 0x70 [(1, 1), (2, 0x7F), (3, 0xFF)], 0, 1, 0x7F, 0xFF, 1, 2, false, by decide +kernel, Or.inr (by decide +kernel), by decide +kernel, by decide +kernel, by decide +kernel, by decide +kernel, by decide +kernel, by decide +kernel, by decide +kernel⟩

theorem test_meets_CountersAndDumpSets_1_1 : ∃ (s : State), ∃ (ch inst ev w3 units k : Nat), ∃ (perSlice : Bool), s.serves ch 0x70 [(1, inst), (2, ev), (3, w3)] .either false = true ∧ (320 ≤ ch ∨ ch % 32 < 16) ∧ inst ≤ 19 ∧ pmuEvent inst (ev % 256) = some (units, perSlice) ∧ ev / 256 < units ∧ k < 12 ∧ s.fon PMU_OWNER_VALID inst k = false ∧ (∀ j, j < k → s.fon PMU_OWNER_VALID inst j = true) ∧ w3 ≤ 63 ∧ s.slLive w3 = true ∧ perSlice = true ∧ (s.countersOf w3).length < 64 :=
  ⟨msg cnS 0 0x70 [(1, 1), (2, 0x1733), (3, 1)], 0, 1, 0x1733, 1, 24, 2, true, by decide +kernel, Or.inr (by decide +kernel), by decide +kernel, by decide +kernel, by decide +kernel, by decide +kernel, by decide +kernel, by decide +kernel, by decide +kernel, by decide +kernel, by decide +kernel, by decide +kernel⟩

theorem test_meets_CountersAndDumpSets_2_0 : ∃ (s : State), ∃ (ch id sl : Nat), s.serves ch 0x71 [(1, id)] .either false = true ∧ ch < 320 ∧ 16 ≤ ch % 32 ∧ sl = s.servedSlice ch 64 ∧ id < 320 ∧ s.counterOf sl (id / 16) (id % 16) = true ∧ s.dumped id = false ∧ ¬(id % 16 % 2 = 0 ∧ s.fon PMU_EVSEL_CHAIN (id / 16) (id % 16 + 1) = true) :=
  ⟨msg cnS 16 0x71 [(1, 16)], 16, 16, 1, by decide +kernel, by decide +kernel, by decide +kernel, by decide +kernel, by decide +kernel, by decide +kernel, by decide +kernel, by decide +kernel⟩

theorem test_meets_CountersAndDumpSets_2_1 : ∃ (s : State), ∃ (ch id sl : Nat), s.serves ch 0x71 [(1, id)] .either false = true ∧ ch < 320 ∧ 16 ≤ ch % 32 ∧ sl = s.servedSlice ch 64 ∧ id < 320 ∧ s.counterOf sl (id / 16) (id % 16) = true ∧ id % 16 % 2 = 0 ∧ s.fon PMU_OWNER_VALID (id / 16) (id % 16 + 1) = true ∧ s.fon PMU_EVSEL_CHAIN (id / 16) (id % 16 + 1) = true ∧ s.dumped id = false ∧ s.dumped (id + 1) = false :=
  ⟨msg (cnS.fset PMU_EVSEL_CHAIN 1 1 1) 16 0x71 [(1, 16)], 16, 16, 1, by decide +kernel, by decide +kernel, by decide +kernel, by decide +kernel, by decide +kernel, by decide +kernel, by decide +kernel, by decide +kernel, by decide +kernel, by decide +kernel, by decide +kernel⟩

theorem test_meets_CountersAndDumpSets_2_2 : ∃ (s : State), ∃ (ch id sl : Nat), s.serves ch 0x71 [(1, id)] .either false = true ∧ ch < 320 ∧ 16 ≤ ch % 32 ∧ sl = s.servedSlice ch 64 ∧ id < 320 ∧ s.counterOf sl (id / 16) (id % 16) = false :=
  ⟨msg (tSt cn []) 16 0x71 [(1, 16)], 16, 16, 1, by decide +kernel, by decide +kernel, by decide +kernel, by decide +kernel, by decide +kernel, by decide +kernel⟩

theorem test_meets_CountersAndDumpSets_3_0 : ∃ (s : State), ∃ (ch sl : Nat), ∃ (permit : Bool), s.serves ch 0x72 [(1, if permit then 1 else 0)] .bound false = true ∧ sl = s.servedSlice ch 64 :=
  ⟨msg (tSt cn []) 16 0x72 [(1, 1)], 16, 1, true, by decide +kernel, by decide +kernel⟩

theorem test_meets_CountersAndDumpSets_4_0 : ∃ (s : State), ∃ (id val add : Nat), id < 320 ∧ (add = 0 ∨ s.counts (id / 16) (id % 16) = false) :=
  ⟨cnS, 319, 7, 5, by decide +kernel, Or.inr (by decide +kernel)⟩

theorem test_meets_CountersAndDumpSets_4_1 : ∃ (s : State), ∃ (id val add : Nat), id < 320 ∧ (add = 0 ∨ s.counts (id / 16) (id % 16) = false) :=
  ⟨cnS, 319, 7, 5, by decide +kernel, Or.inr (by decide +kernel)⟩

theorem test_meets_CountersAndDumpSets_4_2 : ∃ (s : State), ∃ (id val add : Nat), id < 320 ∧ 0 < add ∧ s.counts (id / 16) (id % 16) = true ∧ val % 2 ^ 32 + s.rget PMU_CNT_HI (id / 16) (id % 16) * 2 ^ 32 + add < 2 ^ 48 :=
  ⟨cnRun.rset PMU_CNT_HI 0 1 1, 17, 7, 5, by decide +kernel, by decide +kernel, by decide +kernel, by decide +kernel⟩

theorem test_meets_CountersAndDumpSets_5_0 : ∃ (s : State), ∃ (inst : Nat), inst < 20 ∧ s.fon PMU_CTL_EN inst = true ∧ s.windowEnds inst < s.pw.onTicks * 10 + 10 :=
  ⟨tickSt 1000000 cnRun, 1, by decide +kernel, by decide +kernel, by decide +kernel⟩

theorem test_meets_CountersAndDumpSets_5_1 : ∃ (s : State), ∃ (inst : Nat), inst < 20 ∧ (s.fon PMU_CTL_EN inst = false ∨ s.pw.onTicks * 10 + 10 ≤ s.windowEnds inst) :=
  ⟨(tSt cn []).fset PMU_CTL_EN 0 1, 1, by decide +kernel, Or.inl (by decide +kernel)⟩

theorem test_meets_CountersAndDumpSets_6_0 : ∃ (s : State), ∃ (id n : Nat), id < 320 ∧ s.counts (id / 16) (id % 16) = true ∧ 2 ^ 48 ≤ s.counter (id / 16) (id % 16) + n ∧ (id % 2 = 1 ∨ bit (s.rget PMU_EVSEL (id / 16) (id % 16 + 1)) 30 = false) :=
  ⟨cnRun, 17, 1, by decide +kernel, by decide +kernel, by decide +kernel, Or.inl (by decide +kernel)⟩

theorem test_meets_CountersAndDumpSets_6_1 : ∃ (s : State), ∃ (id n : Nat), id < 320 ∧ s.counts (id / 16) (id % 16) = true ∧ 2 ^ 48 ≤ s.counter (id / 16) (id % 16) + n ∧ id % 2 = 0 ∧ bit (s.rget PMU_EVSEL (id / 16) (id % 16 + 1)) 30 = true ∧ bit (s.rget PMU_EVSEL (id / 16) (id % 16 + 1)) 31 = true :=
  ⟨((((cnRun.fset PMU_EVSEL_EN 1 1 0).fset PMU_EVSEL_CHAIN 1 1 1).rset PMU_CNT_LO 0xFFFFFFFF 1 0).rset PMU_CNT_HI 0xFFFF 1 0), 16, 1, by decide +kernel, by decide +kernel, by decide +kernel, by decide +kernel, by decide +kernel, by decide +kernel⟩

theorem test_meets_CountersAndDumpSets_7_0 : ∃ (s s1 s2 : State), ∃ (ch sl addr n d : Nat), ∃ (got : HostData), ∃ (h b : List Byte), s.serves ch 0x73 [(1, addr % 2 ^ 32), (2, addr / 2 ^ 32)] .either true = true ∧ ch < 320 ∧ 16 ≤ ch % 32 ∧ sl = s.servedSlice ch sl ∧ (s.takeUp ch).dumpBlock ch sl addr 40 got = .ok (s1, h) ∧ n = leField h 4 2 ∧ 1 ≤ leField h 0 4 ∧ leField h 0 4 ≤ 1000000 ∧ 1 ≤ n ∧ n ≤ 256 ∧ leField h 6 1 = 0 ∧ leField h 7 1 = 0 ∧ isPow2 (leField h 0x10 4) = true ∧ 4096 ≤ leField h 0x10 4 ∧ leField h 0x10 4 ≤ 0x10000000 ∧ leField h 8 8 % leField h 0x10 4 = 0 ∧ leField h 0x1C 4 = 0 ∧ s1.dumpBlock ch sl addr (40 + 2 * n) got = .ok (s2, b) ∧ (∀ i, i < n → leField b (40 + 2 * i) 2 < 320 ∧ s2.counterOf sl (leField b (40 + 2 * i) 2 / 16) (leField b (40 + 2 * i) 2 % 16) = true) ∧ s2.dumpPlace sl 0 (leField h 8 8) (leField h 0x10 4) true = none ∧ (dumpRate ((dumpLen n, leField h 0 4) :: s2.dumpLoads)).1 ≤ 4000 * (dumpRate ((dumpLen n, leField h 0 4) :: s2.dumpLoads)).2 ∧ d < 16 ∧ smGet s2.pmu.dumps d = none ∧ (∀ e, e < d → (smGet s2.pmu.dumps e).isSome = true) :=
  ⟨dmS, exSt ((dmS.takeUp 16).dumpBlock 16 1 0x8000 40 (.ok, [])), exSt ((exSt ((dmS.takeUp 16).dumpBlock 16 1 0x8000 40 (.ok, []))).dumpBlock 16 1 0x8000 42 (.ok, [])), 16, 1, 0x8000, 1, 0, (.ok, []), dumpH, dumpB, by decide +kernel, by decide +kernel, by decide +kernel, by decide +kernel, exIs_ok (by decide +kernel), by decide +kernel, by decide +kernel, by decide +kernel, by decide +kernel, by decide +kernel, by decide +kernel, by decide +kernel, by decide +kernel, by decide +kernel, by decide +kernel, by decide +kernel, by decide +kernel, exIs_ok (by decide +kernel), by decide +kernel, by decide +kernel, by decide +kernel, by decide +kernel, by decide +kernel, by decide +kernel⟩

theorem test_meets_CountersAndDumpSets_8_0 : ∃ (s : State), ∃ (ch d : Nat), ∃ (x : DumpSet), s.serves ch 0x74 [(1, d)] .either false = true ∧ smGet s.pmu.dumps d = some x ∧ d < 16 ∧ (secureChan ch = true ∨ x.slice = s.servedSlice ch 64) :=
  ⟨msg (dmp 0) 16 0x74 [(1, 2)], 16, 2, dump1, by decide +kernel, by decide +kernel, by decide +kernel, Or.inr (by decide +kernel)⟩

theorem test_meets_CountersAndDumpSets_9_0 : ∃ (s u : State), ∃ (d t : Nat), ∃ (head : HostData), ∃ (x y : DumpSet), ∃ (bs : List Byte), smGet s.pmu.dumps d = some x ∧ d < 16 ∧ t = (x.last / (x.period * 1000) + 1) * (x.period * 1000) ∧ s.fon PMU_DUMP_CTL_ACTIVE 0 d = true ∧ s.fon PMU_DUMP_CTL_SUSPENDED 0 d = false ∧ s.pmu.ns < t :=
  ⟨dmp 0, up, 2, 1000000, (.ok, []), dump1, dump1, [], by decide +kernel, by decide +kernel, by decide +kernel, by decide +kernel, by decide +kernel, by decide +kernel⟩

theorem test_meets_CountersAndDumpSets_9_1 : ∃ (s u : State), ∃ (d t : Nat), ∃ (head : HostData), ∃ (x y : DumpSet), ∃ (bs : List Byte), smGet s.pmu.dumps d = some x ∧ d < 16 ∧ t = (x.last / (x.period * 1000) + 1) * (x.period * 1000) ∧ s.fon PMU_DUMP_CTL_ACTIVE 0 d = true ∧ s.fon PMU_DUMP_CTL_SUSPENDED 0 d = false ∧ t ≤ s.pmu.ns ∧ u = s.fadd PMU_DUMP_SEQ_VALUE 1 0 d ∧ x.mode = 0 ∧ x.dest = 0 ∧ u.slState x.slice ≠ 4 ∧ u.slState x.slice ≠ 5 ∧ x.tag = none ∧ y = { x with last := t } ∧ bs = u.dumpRecord d y ∧ u.dumpPlace x.slice 0 (x.ring + s.rget PMU_DUMP_WR 0 d) bs.length true = none :=
  ⟨dmp 1000000, (dmp 1000000).fadd PMU_DUMP_SEQ_VALUE 1 0 2, 2, 1000000, (.ok, []), dump1, { dump1 with last := 1000000 }, ((dmp 1000000).fadd PMU_DUMP_SEQ_VALUE 1 0 2).dumpRecord 2 { dump1 with last := 1000000 }, by decide +kernel, by decide +kernel, by decide +kernel, by decide +kernel, by decide +kernel, by decide +kernel, by decide +kernel, by decide +kernel, by decide +kernel, by decide +kernel, by decide +kernel, by decide +kernel, by decide +kernel, by decide +kernel, by decide +kernel⟩

theorem test_meets_TimeCalendarAndLifetimeRecords_0_0 : ∃ (s : State), ∃ (ch lo hi ns : Nat), s.serves ch 0x75 [(1, 0), (2, lo), (3, hi), (4, ns)] .secure false = true ∧ hi ≤ 0xFFFF ∧ ns < 1000000000 :=
  ⟨msg base 0 0x75 [(1, 0), (2, 5), (3, 0xFFFF), (4, 999999999)], 0, 5, 0xFFFF, 999999999, by decide +kernel, by decide +kernel, by decide +kernel⟩

theorem test_meets_TimeCalendarAndLifetimeRecords_0_1 : ∃ (s : State), ∃ (ch lo hi ns : Nat), s.serves ch 0x75 [(1, 0), (2, lo), (3, hi), (4, ns)] .secure false = true ∧ 0xFFFF < hi :=
  ⟨msg base 0 0x75 [(1, 0), (2, 5), (3, 0x10000), (4, 7)], 0, 5, 0x10000, 7, by decide +kernel, by decide +kernel⟩

theorem test_meets_TimeCalendarAndLifetimeRecords_0_2 : ∃ (s : State), ∃ (ch lo hi ns : Nat), s.serves ch 0x75 [(1, 1), (2, lo), (3, hi)] .secure false = true :=
  ⟨msg base 0 0x75 [(1, 1), (2, 5), (3, 6)], 0, 5, 6, 7, by decide +kernel⟩

theorem test_meets_TimeCalendarAndLifetimeRecords_0_3 : ∃ (s : State), ∃ (ch lo hi ns : Nat), s.serves ch 0x75 [(1, 2), (2, lo)] .secure false = true ∧ -500000 ≤ toSigned 32 (lo % 2 ^ 32) ∧ toSigned 32 (lo % 2 ^ 32) ≤ 500000 :=
  ⟨msg base 0 0x75 [(1, 2), (2, 500000)], 0, 500000, 6, 7, by decide +kernel, by decide +kernel, by decide +kernel⟩

theorem test_meets_TimeCalendarAndLifetimeRecords_0_4 : ∃ (s : State), ∃ (ch lo hi ns : Nat), s.serves ch 0x75 [(1, 2), (2, lo)] .secure false = true ∧ (500000 < toSigned 32 (lo % 2 ^ 32) ∨ toSigned 32 (lo % 2 ^ 32) < -500000) :=
  ⟨msg base 0 0x75 [(1, 2), (2, 500001)], 0, 500001, 6, 7, by decide +kernel, Or.inl (by decide +kernel)⟩

theorem test_meets_TimeCalendarAndLifetimeRecords_0_4a : ∃ (s : State), ∃ (ch lo hi ns : Nat), s.serves ch 0x75 [(1, 2), (2, lo)] .secure false = true ∧ (500000 < toSigned 32 (lo % 2 ^ 32) ∨ toSigned 32 (lo % 2 ^ 32) < -500000) :=
  ⟨msg base 0 0x75 [(1, 2), (2, 4294467295)], 0, 4294467295, 6, 7, by decide +kernel, Or.inr (by decide +kernel)⟩

theorem test_meets_TimeCalendarAndLifetimeRecords_0_5 : ∃ (s : State), ∃ (ch lo hi ns : Nat), ∃ src port utc, s.serves ch 0x75 ([(1, 3), (2, src), (3, utc)] ++ if src = 2 then [(4, port)] else []) .secure false = true ∧ src ≤ 3 ∧ (src = 2 → port ≤ 15) ∧ utc < 0xFFFF :=
  ⟨msg base 0 0x75 [(1, 3), (2, 2), (3, 37), (4, 15)], 0, 5, 6, 7, 2, 15, 37, by decide +kernel, by decide +kernel, by decide +kernel, by decide +kernel⟩

theorem test_meets_TimeCalendarAndLifetimeRecords_0_6 : ∃ (s : State), ∃ (ch lo hi ns : Nat), s.serves ch 0x76 [(1, lo), (2, hi)] .secure false = true :=
  ⟨msg base 0 0x76 [(1, 5), (2, 6)], 0, 5, 6, 7, by decide +kernel⟩

theorem test_meets_TimeCalendarAndLifetimeRecords_1_0 : ∃ (s : State), s.fon PMU_PPS_CTL_OUT_EN = true ∧ s.clockValid = true ∧ s.pmu.ns % 1000000000 < 10005 ∧ s.pmu.ppsHigh = none :=
  ⟨ppsSt 1 0, by decide +kernel, by decide +kernel, by decide +kernel, by decide +kernel⟩

theorem test_meets_TimeCalendarAndLifetimeRecords_1_1 : ∃ (s : State), ∃ t, s.pmu.ppsHigh = some t ∧ t + 10000 ≤ s.pw.onTicks :=
  ⟨tickSt 20000 { ppsSt 0 0 with pmu := { base.pmu with ppsHigh := some 5 } }, 5, by decide +kernel, by decide +kernel⟩

theorem test_meets_TimeCalendarAndLifetimeRecords_1_2 : ∃ (s : State), s.fon PMU_PPS_CTL_OUT_EN = false ∧ s.pmu.ppsHigh = none :=
  ⟨ppsSt 0 1, by decide +kernel, by decide +kernel⟩

theorem test_meets_TimeCalendarAndLifetimeRecords_1_3 : ∃ (s : State), s.fon PMU_PPS_CTL_IN_EN = true :=
  ⟨ppsSt 0 1, by decide +kernel⟩

theorem test_meets_TimeCalendarAndLifetimeRecords_1_4 : ∃ (s : State), s.fon PMU_PPS_CTL_IN_EN = false :=
  ⟨ppsSt 1 0, by decide +kernel⟩

theorem test_meets_TimeCalendarAndLifetimeRecords_1_5 : ∃ (s : State), s.fwRuns = true ∧ s.clockValid = true ∧ s.fon PMU_TIME_STATUS_UTC_KNOWN = true ∧ (s.pmu.calCheck = none ∨ s.pw.calValid = false) ∧ (∀ c, s.pmu.calCheck = some c → c + 6000000 ≤ s.pw.onTicks) :=
  ⟨{ (ppsSt 0 0).fset PMU_TIME_STATUS_UTC_KNOWN 1 with pw := { base.pw with calValid := false } }, by decide +kernel, by decide +kernel, by decide +kernel, Or.inr (by decide +kernel), (by intro c h; cases h)⟩

theorem test_meets_TimeCalendarAndLifetimeRecords_1_6 : ∃ (s : State), ∃ c, s.pmu.calCheck = some c ∧ s.pw.onTicks < c + 6000000 :=
  ⟨{ base with pmu := { base.pmu with calCheck := some 0 } }, 0, by decide +kernel, by decide +kernel⟩

theorem test_meets_TimeCalendarAndLifetimeRecords_1_7 : ∃ (s : State), s.fwRuns = false :=
  ⟨failed base, by decide +kernel⟩

theorem test_meets_TimeCalendarAndLifetimeRecords_2_0 : ∃ (s : State), ∃ (ch item : Nat), ∃ (ok : Bool), ∃ v, s.serves ch 0x77 [(1, item)] .diag false = true ∧ s.lifeItem item = some v :=
  ⟨msg base 0 0x77 [(1, 3)], 0, 3, true, _, by decide +kernel, some_of (d := 0) (by decide +kernel)⟩

theorem test_meets_TimeCalendarAndLifetimeRecords_2_1 : ∃ (s : State), ∃ (ch item : Nat), ∃ (ok : Bool), s.serves ch 0x77 [(1, item)] .diag false = true ∧ s.lifeItem item = none :=
  ⟨msg base 0 0x77 [(1, 9999)], 0, 9999, true, by decide +kernel, by decide +kernel⟩

theorem test_meets_TimeCalendarAndLifetimeRecords_2_2 : ∃ (s : State), ∃ (ch item : Nat), ∃ (ok : Bool), s.serves ch 0x77 [(1, 0xFFFF)] .diag false = true :=
  ⟨msg base 0 0x77 [(1, 0xFFFF)], 0, 0, true, by decide +kernel⟩

theorem test_meets_TimeCalendarAndLifetimeRecords_3_0 : ∃ (s : State), ∃ (ok : Bool), s.running = true :=
  ⟨base, true, by decide +kernel⟩

theorem test_meets_TimeCalendarAndLifetimeRecords_3_1 : ∃ (s : State), ∃ (ok : Bool), s.running = true ∧ 3600 ≤ s.powerOnPending :=
  ⟨{ base with pw := { base.pw with onTicks := 360000000 } }, true, by decide +kernel, by decide +kernel⟩

theorem test_meets_TimeCalendarAndLifetimeRecords_3_2 : ∃ (s : State), ∃ (ok : Bool), s.running = true ∧ s.powerOnPending < 3600 :=
  ⟨base, true, by decide +kernel, by decide +kernel⟩

theorem test_meets_FusesPortAndInjectors_0_0 : ∃ (s : State), ∃ (ch key n f : Nat), ∃ (fails : Option Nat), ∃ (ws : List (Nat × Nat)), ∃ (i : Instr), (i, f, ws) ∈ [(Instr.fuseDbgDisable ch key fails, 1, []), (.fuseInjDisable ch key fails, 2, []), (.fuseSecver ch key n fails, 3, [(2, n)]), (.anchorRevoke ch key n fails, 5, [(2, n)])] ∧ s.serves ch 0x79 ([(1, f)] ++ ws ++ [(7, key)]) .secure false = true ∧ key ≠ 0x46555345 :=
  ⟨msg (fu0 9 false) 0 0x79 [(1, 5), (2, 3), (7, 5)], 0, 5, 3, 5, none, [(2, 3)], .anchorRevoke 0 5 3 none, by simp, by decide +kernel, by decide +kernel⟩

theorem test_meets_FusesPortAndInjectors_0_1 : ∃ (s : State), ∃ (ch key n f : Nat), ∃ (fails : Option Nat), ∃ (ws : List (Nat × Nat)), ∃ (i : Instr), (i, f, ws) ∈ [(Instr.fuseDbgDisable ch key fails, 1, []), (.fuseInjDisable ch key fails, 2, []), (.fuseSecver ch key n fails, 3, [(2, n)]), (.anchorRevoke ch key n fails, 5, [(2, n)])] ∧ s.serves ch 0x79 ([(1, f)] ++ ws ++ [(7, key)]) .secure false = true ∧ key = 0x46555345 ∧ s.emergency = true :=
  ⟨msg ((fu0 9 false).fset GSO_PWR_STATUS_VIN_STATE 1) 0 0x79 [(1, 3), (2, 3), (7, 0x46555345)], 0, 0x46555345, 3, 3, none, [(2, 3)], .fuseSecver 0 0x46555345 3 none, by simp, by decide +kernel, by decide +kernel, by decide +kernel⟩

theorem test_meets_FusesPortAndInjectors_1_0 : ∃ (s : State), ∃ (ch : Nat), s.emergency = false ∧ s.serves ch 0x79 [(1, 1), (7, 0x46555345)] .secure false = true ∧ s.dbg.fuses.dbgDisable = false :=
  ⟨msg (fu0 9 false) 0 0x79 [(1, 1), (7, 0x46555345)], 0, by decide +kernel, by decide +kernel, by decide +kernel⟩

theorem test_meets_FusesPortAndInjectors_1_1 : ∃ (s : State), ∃ (ch : Nat), s.emergency = false ∧ s.serves ch 0x79 [(1, 1), (7, 0x46555345)] .secure false = true ∧ s.dbg.fuses.dbgDisable = true :=
  ⟨msg (fu0 9 true) 0 0x79 [(1, 1), (7, 0x46555345)], 0, by decide +kernel, by decide +kernel, by decide +kernel⟩

theorem test_meets_FusesPortAndInjectors_1_2 : ∃ (s : State), ∃ (ch : Nat), s.emergency = false ∧ s.serves ch 0x79 [(1, 2), (7, 0x46555345)] .secure false = true ∧ s.dbg.fuses.injDisable = false :=
  ⟨msg (fu0 9 false) 0 0x79 [(1, 2), (7, 0x46555345)], 0, by decide +kernel, by decide +kernel, by decide +kernel⟩

theorem test_meets_FusesPortAndInjectors_1_3 : ∃ (s : State), ∃ (ch : Nat), s.emergency = false ∧ ∃ floor im, s.serves ch 0x79 [(1, 3), (2, floor), (7, 0x46555345)] .secure false = true ∧ s.confirmedImage = some im ∧ floor ≤ 64 ∧ floor ≤ imageSecVer s.atl.flash im ∧ s.dbg.fuses.floor < floor :=
  ⟨msg (fuSt 9 false) 0 0x79 [(1, 3), (2, 7), (7, 0x46555345)], 0, by decide +kernel, 7, slotAt 0, by decide +kernel, by decide +kernel, by decide +kernel, by decide +kernel, by decide +kernel⟩

theorem test_meets_FusesPortAndInjectors_1_4 : ∃ (s : State), ∃ (ch : Nat), s.emergency = false ∧ ∃ floor im, s.serves ch 0x79 [(1, 3), (2, floor), (7, 0x46555345)] .secure false = true ∧ s.confirmedImage = some im ∧ imageSecVer s.atl.flash im < floor :=
  ⟨msg (fuSt 9 false) 0 0x79 [(1, 3), (2, 8), (7, 0x46555345)], 0, by decide +kernel, 8, slotAt 0, by decide +kernel, by decide +kernel, by decide +kernel⟩

theorem test_meets_FusesPortAndInjectors_1_5 : ∃ (s : State), ∃ (ch : Nat), s.emergency = false ∧ ∃ slot im, s.serves ch 0x79 [(1, 5), (2, slot), (7, 0x46555345)] .secure false = true ∧ slot ≤ 3 ∧ s.confirmedImage = some im ∧ (∃ a, a < 4 ∧ Fuses.anchorHas { s.dbg.fuses with revoke := s.dbg.fuses.revoke ||| 2 ^ slot } (imageAnchor s.atl.flash im) a = true) :=
  ⟨msg (fuSt imgAnchor false) 0 0x79 [(1, 5), (2, 0), (7, 0x46555345)], 0, by decide +kernel, 0, slotAt 0, by decide +kernel, by decide +kernel, by decide +kernel, ⟨1, by decide, by decide +kernel⟩⟩

theorem test_meets_FusesPortAndInjectors_1_6 : ∃ (s : State), ∃ (ch : Nat), s.emergency = false ∧ ∃ slot im, s.serves ch 0x79 [(1, 5), (2, slot), (7, 0x46555345)] .secure false = true ∧ slot ≤ 3 ∧ s.confirmedImage = some im ∧ (∀ a, a < 4 → Fuses.anchorHas { s.dbg.fuses with revoke := s.dbg.fuses.revoke ||| 2 ^ slot } (imageAnchor s.atl.flash im) a = false) :=
  ⟨msg (fuSt imgAnchor false) 0 0x79 [(1, 5), (2, 1), (7, 0x46555345)], 0, by decide +kernel, 1, slotAt 0, by decide +kernel, by decide +kernel, by decide +kernel, by decide +kernel⟩

theorem test_meets_FusesPortAndInjectors_1_7 : ∃ (s : State), ∃ (ch : Nat), s.emergency = false ∧ s.serves ch 0x7A [] .secure false = true ∧ s.dbg.fuses.dbgDisable = false :=
  ⟨msg (fu0 9 false) 0 0x7A [], 0, by decide +kernel, by decide +kernel, by decide +kernel⟩

theorem test_meets_FusesPortAndInjectors_2_0 : ∃ (s : State), ∃ (ch slot : Nat), ∃ (bs : List Byte), ∃ (a : Anchor), s.serves ch 0x79 [(1, 4), (2, slot), (7, 0x46555345)] .secure true = true ∧ s.emergency = false ∧ slot ≤ 3 ∧ s.dbg.fuses.anchors[slot]? = some a ∧ a.written = false :=
  ⟨msg (withFz { fz 9 false with anchors := [{ written := false, digest := 0, crcOk := true }] }) 0 0x79 [(1, 4), (2, 0), (7, 0x46555345)], 0, 0, leBytes 48 7, { written := false, digest := 0, crcOk := true }, by decide +kernel, by decide +kernel, by decide +kernel, by decide +kernel, by decide +kernel⟩

theorem test_meets_FusesPortAndInjectors_2_1 : ∃ (s : State), ∃ (ch slot : Nat), ∃ (bs : List Byte), ∃ (a : Anchor), s.serves ch 0x79 [(1, 4), (2, slot), (7, 0x46555345)] .secure true = true ∧ s.emergency = false ∧ slot ≤ 3 ∧ s.dbg.fuses.anchors[slot]? = some a ∧ a.written = true :=
  ⟨msg (fu0 9 false) 0 0x79 [(1, 4), (2, 1), (7, 0x46555345)], 0, 1, leBytes 48 7, { written := true, digest := 9, crcOk := true }, by decide +kernel, by decide +kernel, by decide +kernel, by decide +kernel, by decide +kernel⟩

theorem test_meets_FusesPortAndInjectors_3_0 : ∃ (s : State), s.dbgState = 0 ∧ s.atl.coreHalted = false :=
  ⟨fu0 9 false, by decide +kernel, by decide +kernel⟩

theorem test_meets_FusesPortAndInjectors_3_2 : ∃ (s : State), s.pw.lockout = false :=
  ⟨fu0 9 false, by decide +kernel⟩

theorem test_meets_FusesPortAndInjectors_3_3 : ∃ (s : State), ∃ (code bits n : Nat), s.pw.lockout = false ∧ code ≠ 1 ∧ ¬(2 ≤ code ∧ code ≤ 4) :=
  ⟨fu0 9 false, 9, 5, 4, by decide +kernel, by decide +kernel, by decide +kernel⟩

theorem test_meets_FusesPortAndInjectors_3_4 : ∃ (s : State), s.dbgOpen = false :=
  ⟨fu0 9 true, by decide +kernel⟩

theorem test_meets_FusesPortAndInjectors_3_5 : ∃ (s : State), s.dbgOpen = true ∧ s.inJob = true :=
  ⟨(fu0 9 false).fset HRC_STATUS_STATE 2, by decide +kernel, by decide +kernel⟩

theorem test_meets_FusesPortAndInjectors_3_6 : ∃ (s : State), s.dbgOpen = true ∧ s.inJob = false ∧ s.pw.devReset = false ∧ s.fget GSO_MSTATE_STATE ≠ 3 :=
  ⟨(fu0 9 false).fset GSO_MSTATE_STATE 0, by decide +kernel, by decide +kernel, by decide +kernel, by decide +kernel⟩

theorem test_meets_FusesPortAndInjectors_3_7 : ∃ (s : State), s.dbgOpen = true ∧ s.atl.coreHalted = false :=
  ⟨fu0 9 false, by decide +kernel, by decide +kernel⟩

theorem test_meets_FusesPortAndInjectors_3_8 : ∃ (s : State), s.dbgOpen = true ∧ s.atl.coreHalted = true :=
  ⟨{ fu0 9 false with atl := { (fu0 9 false).atl with coreHalted := true } }, by decide +kernel, by decide +kernel⟩

theorem test_meets_FusesPortAndInjectors_4_1 : ∃ (s : State), ∃ (a v : Nat), s.dbgOpen = false :=
  ⟨fu0 9 true, 0, 0, by decide +kernel⟩

theorem test_meets_FusesPortAndInjectors_4_2 : ∃ (s : State), ∃ (a v : Nat), s.dbgOpen = true ∧ s.pw.devReset = false ∧ dapRefused a = true :=
  ⟨fu0 9 false, 0x030005000000, 0, by decide +kernel, by decide +kernel, by decide +kernel⟩

theorem test_meets_FusesPortAndInjectors_4_3 : ∃ (s : State), ∃ (a v : Nat), s.dbgOpen = true ∧ s.pw.devReset = false ∧ space (a / 4 * 4) = .stack ∧ dapRefused a = false ∧ ∃ bs, (s.dapCapture.busRead (a / 4 * 4) 4).bytes = some bs :=
  ⟨fu0 9 false, 0x1003, 0, by decide +kernel, by decide +kernel, by decide +kernel, by decide +kernel, [0, 0, 0, 0], by decide +kernel⟩

theorem test_meets_FusesPortAndInjectors_4_4 : ∃ (s : State), ∃ (a v : Nat), s.dbgOpen = true ∧ s.pw.devReset = false ∧ space (a / 4 * 4) = .stack ∧ dapRefused a = false :=
  ⟨fu0 9 false, 0x1003, 7, by decide +kernel, by decide +kernel, by decide +kernel, by decide +kernel⟩

theorem test_meets_FusesPortAndInjectors_5_0 : ∃ (s : State), ∃ (ch sl : Nat), s.slLive sl = true ∧ s.serves ch 0x7B [(1, sl), (2, 1)] .secure false = true :=
  ⟨msg (injSt 0) 0 0x7B [(1, 1), (2, 1)], 0, 1, by decide +kernel, by decide +kernel⟩

theorem test_meets_FusesPortAndInjectors_5_1 : ∃ (s : State), ∃ (ch sl : Nat), s.slLive sl = true ∧ s.serves ch 0x7B [(1, sl), (2, 0)] .secure false = true :=
  ⟨msg (injSt 1) 0 0x7B [(1, 1), (2, 0)], 0, 1, by decide +kernel, by decide +kernel⟩

theorem test_meets_FusesPortAndInjectors_6_0 : ∃ (s : State), ∃ (ch sl die e : Nat), ∃ (bs : List Byte), s.serves ch 0x7C [(1, sl)] .secure true = true ∧ sl ≤ 63 ∧ 32 ≤ bs.length ∧ die = leField (bs.take 32) 4 2 ∧ s.dbg.fuses.injDisable = true :=
  ⟨msg (fu0 9 true) 0 0x7C [(1, 1)], 0, 1, 0, 0, injB, by decide +kernel, by decide +kernel, by decide +kernel, by decide +kernel, by decide +kernel⟩

theorem test_meets_FusesPortAndInjectors_6_1 : ∃ (s : State), ∃ (ch sl die e : Nat), ∃ (bs : List Byte), s.serves ch 0x7C [(1, sl)] .secure true = true ∧ sl ≤ 63 ∧ 32 ≤ bs.length ∧ die = leField (bs.take 32) 4 2 ∧ s.dbg.fuses.injDisable = false ∧ s.slcGet SLC_CTL_TEST_PERM sl = 0 :=
  ⟨msg (injSt 0) 0 0x7C [(1, 1)], 0, 1, 0, 0, injB, by decide +kernel, by decide +kernel, by decide +kernel, by decide +kernel, by decide +kernel, by decide +kernel⟩

theorem test_meets_FusesPortAndInjectors_6_2 : ∃ (s : State), ∃ (ch sl die e : Nat), ∃ (bs : List Byte), s.serves ch 0x7C [(1, sl)] .secure true = true ∧ sl ≤ 63 ∧ 32 ≤ bs.length ∧ die = leField (bs.take 32) 4 2 ∧ s.dbg.fuses.injDisable = false ∧ s.slcGet SLC_CTL_TEST_PERM sl ≠ 0 ∧ (s.takeUp ch).injFields (bs.take 32) = true ∧ e < 8 ∧ s.fon INJ_ARM_ARMED 0 (die * 8 + e) = false ∧ (∀ j, j < e → s.fon INJ_ARM_ARMED 0 (die * 8 + j) = true) ∧ leField (bs.take 32) 0 1 = 3 ∧ (leField (bs.take 32) 3 1 = 1 → ∀ k, k < 64 → s.slLive k = true → s.slcGet SLC_CTL_TEST_PERM k ≠ 0) :=
  ⟨msg (injSt 1) 0 0x7C [(1, 1)], 0, 1, 0, 0, injB, by decide +kernel, by decide +kernel, by decide +kernel, by decide +kernel, by decide +kernel, by decide +kernel, by decide +kernel, by decide +kernel, by decide +kernel, by decide +kernel, by decide +kernel, by decide +kernel⟩

theorem test_meets_FusesPortAndInjectors_7_0 : ∃ (s : State), ∃ (ch id sl : Nat), s.serves ch 0x7D [(1, id)] .secure false = true ∧ id ≤ 159 ∧ (∀ h ∈ s.dbg.held, h.inj ≠ id) :=
  ⟨msg (injSt 1) 0 0x7D [(1, 159)], 0, 159, 1, by decide +kernel, by decide +kernel, by decide +kernel⟩

theorem test_meets_FusesPortAndInjectors_6_3 : ∃ (s : State), ∃ (ch sl die e : Nat), ∃ (bs : List Byte), s.serves ch 0x7C [(1, sl)] .secure true = true ∧ sl ≤ 63 ∧ 32 ≤ bs.length ∧ die = leField (bs.take 32) 4 2 ∧ s.dbg.fuses.injDisable = false ∧ s.slcGet SLC_CTL_TEST_PERM sl ≠ 0 ∧ (s.takeUp ch).injFields (bs.take 32) = true ∧ e < 8 ∧ s.fon INJ_ARM_ARMED 0 (die * 8 + e) = false ∧ (∀ j, j < e → s.fon INJ_ARM_ARMED 0 (die * 8 + j) = true) ∧ leField (bs.take 32) 3 1 = 0 ∧ leField (bs.take 32) 0 1 = 4 ∧ (s.takeUp ch).ownsStack sl (leField (bs.take 32) 0x10 8 / 32 * 32) 32 = true :=
  ⟨msg (injSt 1) 0 0x7C [(1, 1)], 0, 1, 0, 0, injK 4 0 0x40, by decide +kernel, by decide +kernel, by decide +kernel, by decide +kernel, by decide +kernel, by decide +kernel, by decide +kernel, by decide +kernel, by decide +kernel, by decide +kernel, by decide +kernel, by decide +kernel, by decide +kernel⟩

theorem test_meets_FusesPortAndInjectors_6_2a : ∃ (s : State), ∃ (ch sl die e : Nat), ∃ (bs : List Byte), s.serves ch 0x7C [(1, sl)] .secure true = true ∧ sl ≤ 63 ∧ 32 ≤ bs.length ∧ die = leField (bs.take 32) 4 2 ∧ s.dbg.fuses.injDisable = false ∧ s.slcGet SLC_CTL_TEST_PERM sl ≠ 0 ∧ (s.takeUp ch).injFields (bs.take 32) = true ∧ e < 8 ∧ s.fon INJ_ARM_ARMED 0 (die * 8 + e) = false ∧ (∀ j, j < e → s.fon INJ_ARM_ARMED 0 (die * 8 + j) = true) ∧ leField (bs.take 32) 0 1 = 3 ∧ (leField (bs.take 32) 3 1 = 1 → ∀ k, k < 64 → s.slLive k = true → s.slcGet SLC_CTL_TEST_PERM k ≠ 0) :=
  ⟨msg (injSt 1) 0 0x7C [(1, 1)], 0, 1, 0, 0, injK 3 1 0, by decide +kernel, by decide +kernel, by decide +kernel, by decide +kernel, by decide +kernel, by decide +kernel, by decide +kernel, by decide +kernel, by decide +kernel, by decide +kernel, by decide +kernel, by decide +kernel⟩

theorem test_meets_FusesPortAndInjectors_6_4 : ∃ (s : State), ∃ (ch sl die e : Nat), ∃ (bs : List Byte), s.serves ch 0x7C [(1, sl)] .secure true = true ∧ sl ≤ 63 ∧ 32 ≤ bs.length ∧ die = leField (bs.take 32) 4 2 ∧ s.dbg.fuses.injDisable = false ∧ s.slcGet SLC_CTL_TEST_PERM sl ≠ 0 ∧ (s.takeUp ch).injFields (bs.take 32) = true ∧ e < 8 ∧ s.fon INJ_ARM_ARMED 0 (die * 8 + e) = false ∧ (∀ j, j < e → s.fon INJ_ARM_ARMED 0 (die * 8 + j) = true) ∧ leField (bs.take 32) 3 1 = 0 ∧ leField (bs.take 32) 0 1 = 5 ∧ (s.takeUp ch).accessErr sl (leField (bs.take 32) 0x10 8) 8 true = none :=
  ⟨msg ((injSt 1).fset BRS_CTL_SLICE 1 0) 0 0x7C [(1, 1)], 0, 1, 0, 0, injK 5 0 0x010000001000, by decide +kernel, by decide +kernel, by decide +kernel, by decide +kernel, by decide +kernel, by decide +kernel, by decide +kernel, by decide +kernel, by decide +kernel, by decide +kernel, by decide +kernel, by decide +kernel, by decide +kernel⟩

theorem test_meets_FusesPortAndInjectors_6_5 : ∃ (s : State), ∃ (ch sl die e : Nat), ∃ (bs : List Byte), s.serves ch 0x7C [(1, sl)] .secure true = true ∧ sl ≤ 63 ∧ 32 ≤ bs.length ∧ die = leField (bs.take 32) 4 2 ∧ s.dbg.fuses.injDisable = false ∧ s.slcGet SLC_CTL_TEST_PERM sl ≠ 0 ∧ (s.takeUp ch).injFields (bs.take 32) = true ∧ leField (bs.take 32) 0 1 = 3 ∧ leField (bs.take 32) 3 1 = 1 ∧ (∃ k, k < 64 ∧ s.slLive k = true ∧ s.slcGet SLC_CTL_TEST_PERM k = 0) :=
  ⟨msg (slPut (injSt 1) SLC_STATUS_STATE 2 1) 0 0x7C [(1, 1)], 0, 1, 0, 0, injK 3 1 0, by decide +kernel, by decide +kernel, by decide +kernel, by decide +kernel, by decide +kernel, by decide +kernel, by decide +kernel, by decide +kernel, by decide +kernel, ⟨2, by decide +kernel, by decide +kernel, by decide +kernel⟩⟩

theorem test_meets_FusesPortAndInjectors_7_1 : ∃ (s : State), ∃ (ch id sl : Nat), s.serves ch 0x7D [(1, id)] .secure false = true ∧ id ≤ 159 ∧ (∃ h ∈ s.dbg.held, h.inj = id) :=
  ⟨msg { injSt 1 with dbg := { (injSt 1).dbg with held := [held1 0] } } 0 0x7D [(1, 3)], 0, 3, 1, by decide +kernel, by decide +kernel, by decide +kernel⟩

theorem test_meets_FusesPortAndInjectors_7_2 : ∃ (s : State), ∃ (ch id sl : Nat), s.serves ch 0x7D [(1, 0xFFFF), (2, sl)] .secure false = true ∧ sl ≤ 63 ∧ (∀ h ∈ s.dbg.held, s.fget INJ_ARM_SLICE 0 h.inj ≠ sl) :=
  ⟨msg (injSt 1) 0 0x7D [(1, 0xFFFF), (2, 1)], 0, 1, 1, by decide +kernel, by decide +kernel, by decide +kernel⟩

theorem test_meets_FusesPortAndInjectors_7_3 : ∃ (s : State), ∃ (ch id sl : Nat), s.serves ch 0x7E [(1, id)] .secure false = true ∧ id ≤ 159 :=
  ⟨msg (injSt 1) 0 0x7E [(1, 159)], 0, 159, 1, by decide +kernel, by decide +kernel⟩

theorem test_meets_FusesPortAndInjectors_7_4 : ∃ (s : State), ∃ (ch id sl : Nat), s.serves ch 0x7E [(1, id)] .secure false = true ∧ 159 < id :=
  ⟨msg (injSt 1) 0 0x7E [(1, 160)], 0, 160, 1, by decide +kernel, by decide +kernel⟩

theorem test_meets_FusesPortAndInjectors_8_0 : ∃ (s u : State), ∃ (i : Nat), ∃ (h : InjHeld), s.dbg.held[i]? = some h ∧ u = s.setDbg { s.dbg with held := s.dbg.held.eraseIdx i } ∧ s.heldDue h = true ∧ h.path = 2 :=
  ⟨tickSt 100 (heldSt 2), (tickSt 100 (heldSt 2)).setDbg { (heldSt 2).dbg with held := (heldSt 2).dbg.held.eraseIdx 0 }, 0, held1 2, by decide +kernel, by decide +kernel, by decide +kernel, by decide +kernel⟩

theorem test_meets_FusesPortAndInjectors_8_1 : ∃ (s u : State), ∃ (i : Nat), ∃ (h : InjHeld), s.dbg.held[i]? = some h ∧ u = s.setDbg { s.dbg with held := s.dbg.held.eraseIdx i } ∧ s.heldDue h = true ∧ h.path = 1 :=
  ⟨tickSt 100 (heldSt 1), (tickSt 100 (heldSt 1)).setDbg { (heldSt 1).dbg with held := (heldSt 1).dbg.held.eraseIdx 0 }, 0, held1 1, by decide +kernel, by decide +kernel, by decide +kernel, by decide +kernel⟩

theorem test_meets_FusesPortAndInjectors_8_2 : ∃ (s u : State), ∃ (i : Nat), ∃ (h : InjHeld), s.dbg.held[i]? = some h ∧ u = s.setDbg { s.dbg with held := s.dbg.held.eraseIdx i } ∧ s.heldDue h = true ∧ h.path = 0 :=
  ⟨tickSt 100 (heldSt 0), (tickSt 100 (heldSt 0)).setDbg { (heldSt 0).dbg with held := (heldSt 0).dbg.held.eraseIdx 0 }, 0, held1 0, by decide +kernel, by decide +kernel, by decide +kernel, by decide +kernel⟩

theorem test_meets_FusesPortAndInjectors_8_3 : ∃ (s u : State), ∃ (i : Nat), ∃ (h : InjHeld), s.dbg.held[i]? = some h ∧ u = s.setDbg { s.dbg with held := s.dbg.held.eraseIdx i } ∧ s.heldDue h = false :=
  ⟨heldSt 0, (heldSt 0).setDbg { (heldSt 0).dbg with held := (heldSt 0).dbg.held.eraseIdx 0 }, 0, held1 0, by decide +kernel, by decide +kernel, by decide +kernel⟩

theorem test_meets_FusesPortAndInjectors_9_0 : ∃ (s : State), ∃ (ch die : Nat), s.serves ch 0x78 [(1, 0xFF)] .diag false = true :=
  ⟨msg base 0 0x78 [(1, 0xFF)], 0, 0, by decide +kernel⟩

theorem test_meets_FusesPortAndInjectors_9_1 : ∃ (s : State), ∃ (ch die : Nat), s.serves ch 0x78 [(1, die)] .diag false = true ∧ die ≤ 19 :=
  ⟨msg base 0 0x78 [(1, 19)], 0, 19, by decide +kernel, by decide +kernel⟩

theorem test_meets_FusesPortAndInjectors_9_2 : ∃ (s : State), ∃ (ch die : Nat), s.serves ch 0x78 [(1, die)] .diag false = true ∧ 19 < die ∧ die ≠ 0xFF :=
  ⟨msg base 0 0x78 [(1, 20)], 0, 20, by decide +kernel, by decide +kernel, by decide +kernel⟩

end Tests
end Sys2Proof
end

section
/-!
PROOFS. The internal address map of R35 to R39: what the windows of staging SRAM hold (R37).
-/
namespace Sys2Proof
namespace Machine

/-- In the range of the four staging windows `space` reads the stretcher and the offset as quotient and remainder by the window size. -/
theorem space_of_staging_range (x : Nat) (hx : x < 4 * 0x08000000) :
    space (0x020000000000 + x) =
      if x % 0x08000000 < 0x06000000 then .staging (x / 0x08000000) (x % 0x08000000) else .unmapped := by
  have notStack : ¬ 0x020000000000 + x < 0x00A000000000 := by omega
  have notSram : ¬ (0x010000000000 ≤ 0x020000000000 + x ∧ 0x020000000000 + x < 0x0100A0000000) := by omega
  have inStaging : 0x020000000000 ≤ 0x020000000000 + x ∧ 0x020000000000 + x < 0x020020000000 := by omega
  simp only [space, if_neg notStack, if_neg notSram, if_pos inStaging, Nat.add_sub_cancel_left]

/-- A staging window holds its bytes below 96 MiB, and the rest of its 128 MiB is unmapped (R37). -/
theorem space_stagingAddr (n o : Nat) (hn : n < 4) (ho : o < 0x08000000) :
    space (stagingAddr n o) = if o < 0x06000000 then .staging n o else .unmapped := by
  have hdiv : (n * 0x08000000 + o) / 0x08000000 = n := by omega
  have hmod : (n * 0x08000000 + o) % 0x08000000 = o := by omega
  rw [stagingAddr, Nat.add_assoc, space_of_staging_range _ (by omega), hdiv, hmod]

/-- Settles O4: both clauses are the window's one equation, below 96 MiB and above. -/
theorem stagingSramHasItsAddresses : Obligations.StagingSramHasItsAddresses := by
  intro n b hn
  constructor
  · intro hb
    exact (space_stagingAddr n b hn (by omega)).trans (if_pos hb)
  · intro hlo hhi
    exact (space_stagingAddr n b hn (by omega)).trans (if_neg (by omega))

end Machine
end Sys2Proof
end

section
/-!
PROOFS. The clock caps of R57, R60 and R62, and the bristle clock of a palette as the lowest of its four settings (R63).
-/
namespace Sys2Proof
namespace Machine

/-- The input cap of R57, in units of 100 MHz; 16 where the input is not in WARNING. -/
def State.inputCap (s : State) : Nat := if s.fget GSO_PWR_STATUS_VIN_STATE = 1 then 4 else 16

/-- The current cap of R60, in units of 100 MHz; 16 where the current throttle is off. -/
def State.currentCap (s : State) : Nat := if s.fget GSO_PWR_STATUS_OC_THROTTLE = 1 then 8 else 16

/-- The thermal cap of R62 in the thermal state in force. -/
def State.thermalCap (s : State) : Nat := thermCap (s.fget GSO_THERM_STATUS_THERM_STATE)

/-- The lowest of the three caps (R63). -/
def State.activeCap (s : State) : Nat := min (min s.inputCap s.currentCap) s.thermalCap

theorem State.inputCap_le (s : State) : s.inputCap ≤ 16 := by
  unfold State.inputCap; split <;> decide

theorem State.activeCap_le (s : State) : s.activeCap ≤ 16 :=
  Nat.le_trans (Nat.min_le_left _ _) (Nat.le_trans (Nat.min_le_left _ _) s.inputCap_le)

theorem State.activeCap_le_currentCap_thermalCap (s : State) : s.activeCap ≤ min s.currentCap s.thermalCap := by
  unfold State.activeCap; omega

theorem State.activeCap_le_inputCap_thermalCap (s : State) : s.activeCap ≤ min s.inputCap s.thermalCap := by
  unfold State.activeCap; omega

theorem State.activeCap_le_inputCap_currentCap (s : State) : s.activeCap ≤ min s.inputCap s.currentCap :=
  Nat.min_le_left _ _

/-! ### What `setCaps` writes -/

theorem getBits_lt (w hi lo : Nat) : getBits w hi lo < 2 ^ (hi + 1 - lo) := Nat.mod_lt _ (Nat.two_pow_pos _)

/-- A field of one bit is set exactly where it reads 1. -/
theorem State.fon_eq_true_iff_fget_eq_one (s : State) (f : Fld) (m i j k : Nat) (h : f.hi = f.lo) :
    s.fon f m i j k = true ↔ s.fget f m i j k = 1 := by
  have lt : s.fget f m i j k < 2 ^ (f.hi + 1 - f.lo) := getBits_lt _ _ _
  rw [h, Nat.add_sub_cancel_left] at lt
  rw [State.fon, bne_iff_ne]
  omega

/-- The cause bits of GSO_CLK_CAP, which lie above its CAP field (R57, R60, R62). -/
def State.capCauses (s : State) : Nat :=
  (if s.fget GSO_THERM_STATUS_THERM_STATE = 0 then 0 else 0x400) + (if s.fon GSO_PWR_STATUS_OC_THROTTLE then 0x200 else 0) +
    (if s.fget GSO_PWR_STATUS_VIN_STATE = 1 then 0x100 else 0)

theorem State.capCauses_mod (s : State) : s.capCauses % 32 = 0 := by
  unfold State.capCauses
  split <;> split <;> split <;> rfl

theorem State.setCaps_eq (s : State) : s.setCaps = s.rset GSO_CLK_CAP (s.capCauses + s.activeCap) := by
  simp only [State.setCaps, State.capCauses, State.activeCap, State.inputCap, State.currentCap, State.thermalCap, beq_iff_eq,
    State.fon_eq_true_iff_fget_eq_one s GSO_PWR_STATUS_OC_THROTTLE 0 0 0 0 rfl]

/-- The CAP field takes the lowest cap whole: no cap needs more than its five bits (log entry 19). -/
theorem State.fget_cap_setCaps (s : State) : s.setCaps.fget GSO_CLK_CAP_CAP = s.activeCap := by
  have hcauses := s.capCauses_mod
  have hcap := s.activeCap_le
  have hfield : s.setCaps.fget GSO_CLK_CAP_CAP = (s.capCauses + s.activeCap) % 32 := by
    rw [State.setCaps_eq]
    exact State.fget_rset s GSO_CLK_CAP_CAP _ 0 0 0 0 (by decide)
  omega

theorem State.setCaps_pw (s : State) : s.setCaps.pw = s.pw := rfl

/-- The lowest of the firmware setting and the caps; 16 stands for a setting that firmware has not made (log entry 36). -/
theorem State.clockTarget_setCaps (s : State) (p : Nat) :
    s.setCaps.clockTarget p = min (smGetD s.pw.fwClk p 16) s.activeCap := by
  rw [State.clockTarget, State.fget_cap_setCaps, State.setCaps_pw]

theorem State.clockTarget_setCaps_le_activeCap (s : State) (p : Nat) : s.setCaps.clockTarget p ≤ s.activeCap := by
  rw [State.clockTarget_setCaps]
  exact Nat.min_le_right _ _

/-- Whatever firmware settings stand, the clock is no higher than the CAP field. -/
theorem State.clockTarget_le_cap (s : State) (p : Nat) : s.clockTarget p ≤ s.fget GSO_CLK_CAP_CAP := Nat.min_le_right _ _

/-! ### A change of one cap's state leaves the other two caps -/

theorem State.currentCap_fset_vinState (s : State) (v : Nat) :
    (s.fset GSO_PWR_STATUS_VIN_STATE v).currentCap = s.currentCap := by
  rw [State.currentCap, State.fget_fset_disjoint s GSO_PWR_STATUS_VIN_STATE GSO_PWR_STATUS_OC_THROTTLE v 0 0 0 0 rfl (by decide) (by decide) (by decide),
    State.currentCap]

theorem State.thermalCap_fset_vinState (s : State) (v : Nat) :
    (s.fset GSO_PWR_STATUS_VIN_STATE v).thermalCap = s.thermalCap := by
  rw [State.thermalCap, State.fget_fset_ne _ _ _ _ _ _ _ _ _ _ _ _ (by decide), State.thermalCap]

theorem State.inputCap_fset_ocThrottle (s : State) (v : Nat) :
    (s.fset GSO_PWR_STATUS_OC_THROTTLE v).inputCap = s.inputCap := by
  rw [State.inputCap, State.fget_fset_disjoint s GSO_PWR_STATUS_OC_THROTTLE GSO_PWR_STATUS_VIN_STATE v 0 0 0 0 rfl (by decide) (by decide) (by decide),
    State.inputCap]

theorem State.thermalCap_fset_ocThrottle (s : State) (v : Nat) :
    (s.fset GSO_PWR_STATUS_OC_THROTTLE v).thermalCap = s.thermalCap := by
  rw [State.thermalCap, State.fget_fset_ne _ _ _ _ _ _ _ _ _ _ _ _ (by decide), State.thermalCap]

theorem State.inputCap_fset_thermState (s : State) (v : Nat) :
    (s.fset GSO_THERM_STATUS_THERM_STATE v).inputCap = s.inputCap := by
  rw [State.inputCap, State.fget_fset_ne _ _ _ _ _ _ _ _ _ _ _ _ (by decide), State.inputCap]

theorem State.currentCap_fset_thermState (s : State) (v : Nat) :
    (s.fset GSO_THERM_STATUS_THERM_STATE v).currentCap = s.currentCap := by
  rw [State.currentCap, State.fget_fset_ne _ _ _ _ _ _ _ _ _ _ _ _ (by decide), State.currentCap]

/-- R63: with the input cap lifted or set, the current and thermal caps stay in force. -/
theorem State.clockTarget_fset_vinState_le (s : State) (v p : Nat) :
    (s.fset GSO_PWR_STATUS_VIN_STATE v).setCaps.clockTarget p ≤ min s.currentCap s.thermalCap := by
  rw [← s.currentCap_fset_vinState v, ← s.thermalCap_fset_vinState v]
  exact Nat.le_trans (State.clockTarget_setCaps_le_activeCap _ p) (State.activeCap_le_currentCap_thermalCap _)

/-- R63: with the current cap lifted or set, the input and thermal caps stay in force. -/
theorem State.clockTarget_fset_ocThrottle_le (s : State) (v p : Nat) :
    (s.fset GSO_PWR_STATUS_OC_THROTTLE v).setCaps.clockTarget p ≤ min s.inputCap s.thermalCap := by
  rw [← s.inputCap_fset_ocThrottle v, ← s.thermalCap_fset_ocThrottle v]
  exact Nat.le_trans (State.clockTarget_setCaps_le_activeCap _ p) (State.activeCap_le_inputCap_thermalCap _)

/-- R63: with the thermal cap lifted or set, the input and current caps stay in force. -/
theorem State.clockTarget_fset_thermState_le (s : State) (v p : Nat) :
    (s.fset GSO_THERM_STATUS_THERM_STATE v).setCaps.clockTarget p ≤ min s.inputCap s.currentCap := by
  rw [← s.inputCap_fset_thermState v, ← s.currentCap_fset_thermState v]
  exact Nat.le_trans (State.clockTarget_setCaps_le_activeCap _ p) (State.activeCap_le_inputCap_currentCap _)

/-- R63: new firmware settings do not raise a clock above the caps in force. -/
theorem State.clockTarget_setCaps_setPw_le (s : State) (pw : Power) (p : Nat) :
    (s.setCaps.setPw pw).clockTarget p ≤ s.activeCap := by
  have h := (s.setCaps.setPw pw).clockTarget_le_cap p
  rwa [State.fget_setPw, State.fget_cap_setCaps] at h

/-- Settles O12: `setCaps` leaves the lowest cap in CAP, and a change of one cap's state is not seen by the other two. -/
theorem paletteClockIsTheLowestSetting : Obligations.PaletteClockIsTheLowestSetting := fun s p =>
  ⟨s.clockTarget_setCaps p, fun v => s.clockTarget_fset_vinState_le v p, fun v => s.clockTarget_fset_ocThrottle_le v p,
    fun v => s.clockTarget_fset_thermState_le v p, fun _ => s.clockTarget_setCaps_setPw_le _ p⟩

end Machine
end Sys2Proof
end

section
/-!
PROOFS. Stack steering of R190 and R193: `steer` is the pseudocode of R193, `unsteer` takes a steered address back, and the bytes of
a granule share a stack.
-/
namespace Sys2Proof
namespace Machine

/-! ### The two modes of a band (R190) -/

/-- In a local band, piece k of the band lies in stack k. -/
theorem steer_of_local {l x : Nat} (h : x / 0x500000000 < l) :
    steer l x = (x % 0x500000000 / 2 ^ 30, x / 0x500000000 * 2 ^ 30 + x % 0x500000000 % 2 ^ 30) := if_pos h

/-- In a woven band, a granule's quotient by twenty is its place in the stack and turns the stacks its remainder counts. -/
theorem steer_of_woven {l x : Nat} (h : ¬ x / 0x500000000 < l) :
    steer l x = ((x % 0x500000000 / 256 % 20 + foldQ (x % 0x500000000 / 256 / 20)) % 20,
      x / 0x500000000 * 2 ^ 30 + x % 0x500000000 / 256 / 20 * 256 + x % 0x500000000 % 256) := if_neg h

/-- A granule of a band has its place in the band's physical gigabyte: 20 GiB are twenty times 2^22 granules. -/
theorem woven_offset_lt (x : Nat) : x % 0x500000000 / 256 / 20 * 256 + x % 0x500000000 % 256 < 2 ^ 30 := by omega

/-- A stack address of either mode lies in the physical gigabyte of its band (R190). -/
theorem steer_snd_div (l x : Nat) : (steer l x).2 / 2 ^ 30 = x / 0x500000000 := by
  by_cases h : x / 0x500000000 < l
  · rw [steer_of_local h]
    omega
  · have := woven_offset_lt x
    rw [steer_of_woven h]
    omega

/-! ### The shifts and masks of the pseudocode -/

/-- Fields of a word that do not overlap: `|||` of the pseudocode is the sum. -/
theorem shiftLeft_or_eq_mul_add {i b : Nat} (a : Nat) (h : b < 2 ^ i) : a <<< i ||| b = a * 2 ^ i + b := by
  rw [← Nat.shiftLeft_add_eq_or_of_lt h, Nat.shiftLeft_eq]

/-- The fold of q as R193 writes it, with a mask for the remainder. -/
theorem foldQ_eq_and (q : Nat) : foldQ q = (q ^^^ q >>> 5 ^^^ q >>> 10 ^^^ q >>> 15 ^^^ q >>> 20) &&& 0x1F :=
  (Nat.and_two_pow_sub_one_eq_mod _ 5).symm

/-! ### The pseudocode of R193 -/

/-- The branch of R193 for a local band. -/
theorem steer_local_pseudocode {l x : Nat} (h : x / 0x500000000 < l) :
    steer l x = ((x % 0x500000000) >>> 30, ((x / 0x500000000) <<< 30) ||| ((x % 0x500000000) &&& 0x3FFFFFFF)) := by
  have mask : (x % 0x500000000) &&& 0x3FFFFFFF = x % 0x500000000 % 2 ^ 30 := Nat.and_two_pow_sub_one_eq_mod _ 30
  rw [steer_of_local h, Nat.shiftRight_eq_div_pow, mask, shiftLeft_or_eq_mul_add _ (Nat.mod_lt _ (by decide))]

/-- The branch of R193 for a woven band, in granule and fold. -/
theorem steer_woven_pseudocode {l x g : Nat} (h : ¬ x / 0x500000000 < l) (hg : g = (x % 0x500000000) >>> 8) :
    steer l x = ((g % 20 + foldQ (g / 20)) % 20,
      ((x / 0x500000000) <<< 30) ||| ((g / 20) <<< 8) ||| ((x % 0x500000000) &&& 0xFF)) := by
  have hdiv : g = x % 0x500000000 / 256 := hg.trans (Nat.shiftRight_eq_div_pow _ 8)
  have mask : (x % 0x500000000) &&& 0xFF = x % 0x500000000 % 256 := Nat.and_two_pow_sub_one_eq_mod _ 8
  have place : (x % 0x500000000 / 256 / 20) <<< 8 ||| x % 0x500000000 % 256 =
      x % 0x500000000 / 256 / 20 * 256 + x % 0x500000000 % 256 := shiftLeft_or_eq_mul_add _ (Nat.mod_lt _ (by decide))
  rw [steer_of_woven h, hdiv, mask, Nat.or_assoc, place, shiftLeft_or_eq_mul_add _ (woven_offset_lt x), Nat.add_assoc]

/-! ### Where a steered address lies -/

theorem steer_fst_lt (l x : Nat) : (steer l x).1 < 20 := by
  by_cases h : x / 0x500000000 < l
  · rw [steer_of_local h]
    omega
  · rw [steer_of_woven h]
    exact Nat.mod_lt _ (by decide)

/-- The 32 bands fill 32 GiB of a stack. -/
theorem steer_snd_lt (l x : Nat) (hx : x < 0xA000000000) : (steer l x).2 < 2 ^ 35 := by
  have := steer_snd_div l x
  omega

/-! ### Steering is one-to-one -/

theorem foldQ_lt (q : Nat) : foldQ q < 32 := Nat.mod_lt _ (by decide)

/-- Turning the stacks by the fold and back: r → (r + h) mod 20 is a permutation of the twenty stacks (R193). -/
theorem foldQ_turn_back (q : Nat) {r : Nat} (hr : r < 20) : ((r + foldQ q) % 20 + 40 - foldQ q) % 20 = r := by
  have := foldQ_lt q
  omega

/-- `unsteer` is a left inverse of steering: the stack address gives the band, and with it the mode, and the rest follows. -/
theorem unsteer_steer (l x : Nat) : unsteer l (steer l x).1 (steer l x).2 = x := by
  simp only [unsteer, steer_snd_div]
  by_cases h : x / 0x500000000 < l
  · rw [if_pos h, steer_of_local h]
    omega
  · have hoff := woven_offset_lt x
    have hquot : (steer l x).2 % 2 ^ 30 / 256 = x % 0x500000000 / 256 / 20 := by
      rw [steer_of_woven h]
      omega
    have hbyte : (steer l x).2 % 2 ^ 30 % 256 = x % 0x500000000 % 256 := by
      rw [steer_of_woven h]
      omega
    have hturn : ((steer l x).1 + 40 - foldQ (x % 0x500000000 / 256 / 20)) % 20 = x % 0x500000000 / 256 % 20 := by
      rw [steer_of_woven h]
      exact foldQ_turn_back _ (Nat.mod_lt _ (by decide))
    rw [if_neg h, hquot, hbyte, hturn]
    omega

theorem steer_injective {l x y : Nat} (h : steer l y = steer l x) : y = x := by
  rw [← unsteer_steer l y, h, unsteer_steer]

/-! ### A granule lies in one stack -/

/-- Both modes read the stack from the band and the granule's number in it; the granule alone gives both. -/
theorem steer_fst_eq_of_granule_eq {l x y : Nat} (h : y / 256 = x / 256) : (steer l y).1 = (steer l x).1 := by
  have hband : y / 0x500000000 = x / 0x500000000 := by omega
  have hgran : y % 0x500000000 / 256 = x % 0x500000000 / 256 := by omega
  by_cases hl : x / 0x500000000 < l
  · rw [steer_of_local hl, steer_of_local (hband ▸ hl)]
    omega
  · rw [steer_of_woven hl, steer_of_woven (hband ▸ hl), hgran]

/-- Settles O13: `steer` in each mode is the pseudocode's branch, and `unsteer` shows it one-to-one. -/
theorem steeringIsOneToOne : Obligations.SteeringIsOneToOne := by
  intro l x _ hx
  refine ⟨steer_local_pseudocode, ?_, steer_fst_lt l x, steer_snd_lt l x hx, fun _ _ => steer_injective,
    fun _ => steer_fst_eq_of_granule_eq⟩
  rintro hl g q r h hg rfl rfl rfl
  rw [← foldQ_eq_and]
  exact steer_woven_pseudocode (Nat.not_lt.mpr hl) hg

end Machine
end Sys2Proof
end
